-- ==== Sys2Proof/Word.lean ====
section
/-! DEFINITION. The word types, sorted tables of (key, value) pairs, and the plainest bit-field arithmetic. -/

namespace Sys2Proof

abbrev Byte := BitVec 8
abbrev W16 := BitVec 16
abbrev W32 := BitVec 32
abbrev W64 := BitVec 64

/-- A table: (key, value) pairs in rising key order. What an unlisted key holds is given by a default. -/
abbrev Tab (α : Type) := List (Nat × α)

/-- The value at key `k`: the first entry for `k`, else the default `d k`. -/
def Tab.get {α : Type} (d : Nat → α) : Tab α → Nat → α
  | [], k => d k
  | (k', v) :: t, k => if k' = k then v else Tab.get d t k

/-- Writes `v` at `k`, keeping rising order. -/
def Tab.put {α : Type} : Tab α → Nat → α → Tab α
  | [], k, v => [(k, v)]
  | (k', v') :: t, k, v =>
    if k < k' then (k, v) :: (k', v') :: t
    else if k' = k then (k, v) :: t
    else (k', v') :: Tab.put t k v

/-- Drops every entry for `k`. -/
def Tab.del {α : Type} (t : Tab α) (k : Nat) : Tab α := t.filter (fun e => e.1 != k)

/-- Writes `v` at `k` in the canonical form: a value that an unlisted key reads as is not listed. -/
def Tab.set {α : Type} [DecidableEq α] (d : Nat → α) (t : Tab α) (k : Nat) (v : α) : Tab α :=
  if v = d k then Tab.del t k else Tab.put t k v

/-- The canonical form: keys strictly rising, no entry equal to what an unlisted key reads as. -/
def Tab.wf {α : Type} [DecidableEq α] (d : Nat → α) (t : Tab α) : Bool :=
  decide (t.Pairwise (fun a b => a.1 < b.1)) && t.all (fun e => decide (e.2 ≠ d e.1))

/-- Bits hi:lo of a word, as a number. -/
def bitsOf (hi lo : Nat) (w : W32) : Nat := w.toNat / 2 ^ lo % 2 ^ (hi + 1 - lo)

/-- `w` with bits hi:lo replaced by the low bits of `v`. -/
def setBitsOf (hi lo : Nat) (w : W32) (v : Nat) : W32 :=
  BitVec.ofNat 32 (w.toNat % 2 ^ lo + 2 ^ lo * (v % 2 ^ (hi + 1 - lo)) + 2 ^ (hi + 1) * (w.toNat / 2 ^ (hi + 1)))

/-- Bit `i` of a number. -/
def bitAt (w i : Nat) : Bool := w / 2 ^ i % 2 == 1

/-- A number's bits hi:lo. -/
def field (w hi lo : Nat) : Nat := w / 2 ^ lo % 2 ^ (hi + 1 - lo)

/-- A Bool as 0 or 1. -/
def bit (b : Bool) : Nat := if b then 1 else 0

/-- The two's-complement reading of the low `n` bits of `v`. -/
def toSigned (n v : Nat) : Int :=
  if v % 2 ^ n < 2 ^ (n - 1) then ((v % 2 ^ n : Nat) : Int) else ((v % 2 ^ n : Nat) : Int) - ((2 ^ n : Nat) : Int)

/-- The low `n` bits of an integer, as a number. -/
def ofSigned (n : Nat) (v : Int) : Nat := (v % ((2 ^ n : Nat) : Int)).toNat

/-- `v` held within lo to hi. -/
def clampInt (lo hi v : Int) : Int := if v < lo then lo else if hi < v then hi else v

/-- ceil(a / b); 0 for b = 0. -/
def ceilDiv (a b : Nat) : Nat := (a + b - 1) / b

/-- An addition that sticks at `top`. -/
def satAdd (top a b : Nat) : Nat := if a + b < top then a + b else top

/-- The number that a list of bytes spells, least significant byte first. -/
def leNat : List Byte → Nat
  | [] => 0
  | b :: t => b.toNat + 256 * leNat t

/-- `n` bytes of a number, least significant byte first. -/
def leBytes : Nat → Nat → List Byte
  | 0, _ => []
  | n + 1, v => BitVec.ofNat 8 v :: leBytes n (v / 256)

/-- The element at an index, or a default. -/
def nthD {α : Type} (d : α) : List α → Nat → α
  | [], _ => d
  | a :: _, 0 => a
  | _ :: t, n + 1 => nthD d t n

/-- The list with its element at an index replaced (unchanged where the index is beyond the end). -/
def setNth {α : Type} : List α → Nat → α → List α
  | [], _, _ => []
  | _ :: t, 0, v => v :: t
  | a :: t, n + 1, v => a :: setNth t n v

/-- Applies `f` to each index 0 to n − 1 in rising order. -/
def forN {σ : Type} (f : Nat → σ → σ) : Nat → σ → σ
  | 0, s => s
  | n + 1, s => f n (forN f n s)

/-- Applies `f` to each element in order. -/
def forEach {α σ : Type} (f : α → σ → σ) : List α → σ → σ
  | [], s => s
  | a :: t, s => forEach f t (f a s)

end Sys2Proof
end

