-- ==== Sys2Proof/Syntax.lean ====
section
/-! DEFINITION. The commands of the block: one constructor per row of spec/opcode_table.json, with the row's operands. The table gives
rows no operands of their own, so the operands are those that the row's rule names (assumption 2). A command whose time within the
stitch matters carries `off`, its root-cycle offset. -/

namespace Sys2Proof

/-! Instance numbers. -/

abbrev Lane := Fin 256
abbrev Ribbon := Fin 32
abbrev LPatch := Fin 16
abbrev Pos := Fin 18
abbrev Slot := Fin 16
abbrev Bank := Fin 8
abbrev Seam := Fin 6
abbrev Device := Fin 64
abbrev Spool := Fin 16
abbrev Chan := Fin 16
abbrev Line := Fin 64
abbrev Layer := Fin 8
abbrev Thread := Fin 4

/-- A processor, named by what it serves (R77, R110): a head-controller slot, the sequencer of a logical patch, or the signal
processor of a ribbon. -/
inductive Proc where
  | m (slot : Fin 16)
  | p (k : LPatch)
  | s (r : Ribbon)
  deriving DecidableEq, Repr

/-- A dispatched spool command: its spool and sequence number; `remote` for one that the head device forwarded (R377). -/
structure CmdRef where
  remote : Bool
  sp : Spool
  seq : W16
  deriving DecidableEq, Repr

/-- The conditions of cmp.cc (R125). -/
inductive Cond where
  | eq | ne | lt | ge | ltu | geu
  deriving DecidableEq, Repr

/-- What a memory's decoder meets in the stored bits of a code word (R339, R566). Poison is a mark of the memory itself. `miscorrect`
and `unseen` are the outcomes of R566 beyond the code: wrong data taken for corrected, and wrong data taken for clean. -/
inductive Ecc where
  | clean
  | corr
  | uncorr
  | miscorrect (data : List Byte)
  | unseen (data : List Byte)
  deriving DecidableEq, Repr

/-- Who writes a register (R306, R539). -/
inductive Src where
  | hc | seq (k : LPatch) | rsp (r : Ribbon) | host
  deriving DecidableEq, Repr

/-- What a stream unit is to the capture engine (R229). -/
inductive SKind where
  | idle | start | data | term | whole | block | os
  deriving DecidableEq, Repr

/-- A stream unit that the PCS completes (R166, R226): its kind, the stored-payload bytes it brings, for 8B10B which characters are control
characters, its marks, and its error statistics (R173, R174): `cws` gives, for each codeword or flit that completes with it, the symbols
corrected, 16 meaning beyond correction. -/
structure RxUnit where
  kind : SKind
  bytes : List Byte
  ctl : List Bool
  fecUnc : Bool
  linkErr : Bool
  codeErr : Bool
  fecSym : Nat
  cws : List Nat
  codeErrs : Nat
  deriving DecidableEq, Repr

/-! What a frame of a plane configures (R193 to R199, R206, R216, R217, R225). The spec gives a frame's 4,096 bits no encoding, so a plane is
the list of what its frames configure. Clusters are numbered by rows of 64 from the top of a half (assumption 95). -/

/-- A signal that the crossbar of a cluster brings to an input (R196): an output of its 16 cells, or one of its 48 routing inputs. -/
inductive FabSig where
  | low
  | cell (i : Fin 16)
  | route (j : Fin 48)
  deriving DecidableEq, Repr

/-- A signal that the hard blocks of a patch give the fabric (R218, R220, R225, R226, R235, R288, R300, R305). -/
inductive PortSig where
  | rxValid (slot : Fin 16)
  | rxData (slot : Fin 16) (b : Fin 256)
  | rxBytes (slot : Fin 16) (b : Fin 5)
  | rxSou (slot : Fin 16)
  | rxEou (slot : Fin 16)
  | rxUnit (slot : Fin 16) (b : Fin 16)
  | rxTs (slot : Fin 16) (b : Fin 80)
  | rxMark (slot : Fin 16) (b : Fin 4)
  | cuSou (slot : Fin 16)
  | cvValid (slot : Fin 16)
  | cvRes (slot : Fin 16) (b : Fin 2)
  | txReady (slot : Fin 16)
  | valid (port : Fin 8)
  | deny (port : Fin 8)
  | data (port : Fin 8) (b : Fin 512)
  | high (bank : Fin 8)
  | ready
  | flitValid
  | flit (b : Fin 128)
  | line (l : Fin 64)
  | ball (i : Fin 4)
  deriving DecidableEq, Repr

/-- What drives a routing input of a cluster (R196): a line of length 1, 2 or 4 that reaches it (4 also at its tap), a global line of its row,
of which the first eight are bus lines, or of its column, a tack, or a hard block. -/
inductive RouteSrc where
  | len1 (n : Fin 16)
  | len2 (n : Fin 8)
  | len4 (n : Fin 8) (tap : Bool)
  | row (n : Fin 32)
  | col (n : Fin 32)
  | tack (site : Fin 4)
  | mac (b : Fin 128) (i : Fin 48)
  | port (p : PortSig)
  deriving DecidableEq, Repr

/-- A wire that a cluster drives (R196): line `n` of a length runs in direction `n` modulo 4, or a tack site. -/
inductive WireId where
  | len1 (n : Fin 16)
  | len2 (n : Fin 8)
  | len4 (n : Fin 8)
  | tack (site : Fin 4)
  deriving DecidableEq, Repr

/-- Cell modes (R193). -/
inductive CellMode where
  | logic | shift | arith
  deriving DecidableEq, Repr

/-- What a plane sets in a cell (R193, R206): its table (for ARITH the propagate function in the low and the generate function in the high
eight bits), inputs, the flip-flop's input where it is a direct one, which output the crossbar sees, clock enable and clear, domain, and the
initial values and carry modes of flip-flop and shift table. -/
structure CellCfg where
  mode : CellMode
  table : W16
  a : FabSig
  b : FabSig
  c : FabSig
  d : FabSig
  shiftIn : FabSig
  direct : Option FabSig
  regOut : Bool
  en : Option FabSig
  clr : Option FabSig
  dom : Fin 4
  ffInit : Bool
  ffCarry : Fin 4
  shInit : W16
  shCarry : Fin 4
  deriving DecidableEq, Repr

/-- A signal of a cluster of the half. -/
structure FabTap where
  cluster : BitVec 12
  sig : FabSig
  deriving DecidableEq, Repr

/-- What a plane sets in a multiply-accumulate block (R217): inputs, least significant bit first, two 9 × 9 products, the pre-adder (1 D + A,
2 D − A), the cascade, the operation's two bits (0 hold, 1 load, 2 add, 3 subtract), domain, initial value and carry mode. -/
structure MacCfg where
  a : List FabTap
  b : List FabTap
  d : List FabTap
  two9 : Bool
  pre : Fin 3
  casc : Bool
  op0 : FabTap
  op1 : FabTap
  dom : Fin 4
  init : BitVec 48
  carry : Fin 4
  deriving DecidableEq, Repr

/-- What a plane sets in a fabric I/O ball (R225): an input, an output, or an output that a signal enables. -/
inductive BallCfg where
  | input
  | output (upper : Bool) (v : FabTap)
  | tri (upper : Bool) (v en : FabTap)
  deriving DecidableEq, Repr

/-- A configuration item of a plane, `upper` naming its half. -/
inductive PlaneItem where
  | cell (upper : Bool) (x : W16) (c : CellCfg)
  | shiftEn (upper : Bool) (cluster : BitVec 12) (v : FabSig)
  | route (upper : Bool) (cluster : BitVec 12) (j : Fin 48) (src : RouteSrc)
  | wire (upper : Bool) (cluster : BitVec 12) (w : WireId) (v : FabSig)
  | row (upper : Bool) (row : Fin 64) (n : Fin 32) (v : FabTap)
  | col (upper : Bool) (col : Fin 64) (n : Fin 32) (v : FabTap)
  | driver (upper : Bool) (cluster : BitVec 12) (n : Fin 8) (en v : FabSig)
  | tack (up : Bool) (entry : Fin 512) (from_ : BitVec 12) (fromSite : Fin 4) (to_ : BitVec 12) (toSite : Fin 4)
  | mac (upper : Bool) (b : Fin 128) (c : MacCfg)
  | ball (i : Fin 4) (c : BallCfg)
  | pair (j : Fin 2)
  | take (v : FabTap)
  deriving DecidableEq, Repr

/-- A bank of a physical position, or a bolt. -/
inductive MemUnit where
  | bank (p : Pos) (b : Bank)
  | bolt (k : LPatch)
  deriving DecidableEq, Repr

/-- Who reads or writes a bolt line. -/
inductive Reader where
  | capture | pattern | offload | spool | window | patrol | rekey
  deriving DecidableEq, Repr

/-- A counter that R347 names: a node of the counter tree, a lane leaf, or another counter by its register offset. -/
inductive CtrRef where
  | ribbonNode (r : Ribbon)
  | patchNode (k : LPatch)
  | deviceNode
  | leaf (l : Lane)
  | other (a : BitVec 20)
  deriving DecidableEq, Repr

/-- A link that discovery finds: two devices (0 is this one), their seams, and ONEWAY in 1/32 root cycles (R406, R411). -/
structure Link where
  a : Nat
  sa : Nat
  b : Nat
  sb : Nat
  oneway : Nat
  deriving DecidableEq, Repr

/-- What a TIME cell brings (R399, R404, R408, R416): the sender's stitch and offset (1/32 root cycles) at its launch, this side's offset at
its arrival, the measured round trip and the phase against the sender, the head device's period and its root-cycle count for the stitch that
an alignment loads, and the sender's HOT state. -/
structure TimeCell where
  stitch : W64
  offset : Nat
  rtt : Nat
  phase : W16
  at_ : Nat
  headN : BitVec 8
  headRoot : W64
  degraded : Bool
  hot : Option (Layer × BitVec 12)
  hotDev : Device
  deriving DecidableEq, Repr

/-- A system raise entry of a TRIG cell (R399); `reset` marks a system reset, which floods as a raise does (R523). -/
structure TrigEntry where
  line : Fin 16
  origin : Device
  stitch : W16
  hops : BitVec 6
  reset : Bool
  deriving DecidableEq, Repr

/-- A route entry (R421). -/
structure Route where
  pri : BitVec 3
  alt : BitVec 3
  hops : BitVec 6
  lat : W16
  deriving DecidableEq, Repr

/-- The messages of a MSG cell (R399, R406, R415). -/
inductive Msg where
  | regRead (from_ : Device) (a : BitVec 20) (wide : Bool)
  | regWrite (from_ : Device) (a : BitVec 20) (v : W32) (be : BitVec 4)
  | regResp (from_ : Device) (v hi : W32)
  | command (c : CmdRef) (entry : List Byte)
  | result (c : CmdRef) (status : BitVec 8) (data : List W32)
  | event (record : List Byte)
  | eventAck
  | route (d : Device) (r : Route) (wide broken : Bool)
  | seamReport (from_ : Device) (seam : Seam) (up : Bool)
  | haltNotice (d : Device)
  | claim (devnum : Device) (depth : BitVec 6) (roles : BitVec 12)
  | single
  | ready (at_ : W64) (count : BitVec 7) (wide : Bool) (d dCalc : BitVec 8) (lMax : W16)
  | period (n : BitVec 8) (at_ : W64)
  | pageAck (ch : BitVec 4) (page : W32)
  | frameAgain (n : W32)
  deriving DecidableEq, Repr

/-- A DATA cell (R399): its flow kind, sequence and payload. -/
structure DataCell where
  kind : BitVec 2
  dest : Device
  source : Device
  seq : W16
  payload : List Byte
  deriving DecidableEq, Repr

/-- The header of a configuration stream (R424), as the loader reads it. -/
structure StreamHeader where
  ident : W32
  stepping : BitVec 4
  format : BitVec 4
  chainPos : BitVec 6
  sections : BitVec 7
  nonce : BitVec 128
  crcOk : Bool
  deriving DecidableEq, Repr

/-- A frame as it arrives (R426, R439): whether its CRC verifies, and whether it comes by a repeat request or a failing host read. -/
structure FrameInfo where
  crcOk : Bool
  readError : Bool
  deriving DecidableEq, Repr

/-- What a scrubber reads back (R447). -/
inductive ScrubWhat where
  | active | shadow | reference | stored (slot : Fin 6)
  deriving DecidableEq, Repr

/-- The outcome of a frame code (R336). -/
inductive FrameCode where
  | clean | corr | uncorr
  deriving DecidableEq, Repr

/-- A position that logic BIST tests (R472, R486). -/
inductive BistUnit where
  | pos (p : Pos)
  | rsp (q : Fin 34)
  deriving DecidableEq, Repr

/-- A bank's code word that the copy of a handover's preparation did not find clean (R462). -/
structure CopySeen where
  bank : Bank
  word : BitVec 17
  seen : Ecc
  deriving DecidableEq, Repr

/-- What a march reports (R476, R483, R487); `seen` names the words or lines whose code words were not clean when a preserving march saved
them (R475). -/
structure MarchResult where
  bolt : Bool
  bank : Bank
  rowsTested : W32
  failed : Bool
  addr : W32
  bitPos : BitVec 10
  rowsUsed : BitVec 8
  colsUsed : BitVec 8
  unrepaired : Bool
  seen : List (BitVec 25 × Ecc)
  deriving DecidableEq, Repr

/-- One measurement round (R508, R509): per layer the diode reading (0.25 °C) and the layer power (10 mW), and whether the VCORE rails, which
a slow round samples, are within 2 % of nominal (R478). -/
structure HeatRound where
  diode : List Int
  power : List Nat
  vcore : Bool
  deriving DecidableEq, Repr

/-- A coupler of a group (R17): boundary, group, and 0 to 15 for a data coupler, 16 for the parity coupler, 17 for the spare. -/
structure CouplerId where
  b : Fin 11
  group : BitVec 11
  coupler : Fin 18
  deriving DecidableEq, Repr

/-- What a group carries as a bit time of it is marked (R27): nothing, a lane's stream, a line to or from a bolt, a frame of a plane, or a
transfer of its control traffic, with the spool command that it serves. -/
inductive Flight where
  | idle
  | lane (l : Lane)
  | lineWrite (k : LPatch) (line : BitVec 25)
  | lineRead (k : LPatch) (line : BitVec 25)
  | frame
  | control (c : Option CmdRef)
  deriving DecidableEq, Repr

/-- A decoder that its self-test found failing (R348, R448). -/
inductive Checker where
  | bank (p : Pos) (b : Bank)
  | boltLane (k : LPatch)
  | boltTag (k : LPatch)
  | plane (p : Pos) (upper : Bool)
  | counterStore
  | scrubber (upper : Bool)
  deriving DecidableEq, Repr

/-- A load's displacement, and what the decoder sees where it reads a bank (R129). -/
structure LdRead where
  imm : BitVec 11
  seen : Ecc
  deriving DecidableEq, Repr

/-- The copy of a unit's row, with the words of the row that were not found clean (R344). -/
structure RowCopy where
  u : MemUnit
  seen : List (BitVec 7 × Ecc)
  deriving DecidableEq, Repr

/-- `n` words of a result slot from its word `first` (R380). -/
structure SlotPart where
  slot : BitVec 8
  first : BitVec 4
  n : BitVec 5
  deriving DecidableEq, Repr

/-- A read through the system window: its offset, and whether it takes 8 B (R391). -/
structure WinRead where
  a : BitVec 24
  wide : Bool
  deriving DecidableEq, Repr

/-- A section: its header's check, and the whole section where it is one that the device passes on (R437, R438). -/
structure SectionBody where
  crcOk : Bool
  raw : List Byte
  deriving DecidableEq, Repr

/-- A frame of a plane: the plane's identity and what the frame configures (R427). -/
structure PlaneBody where
  planeId : W16
  items : List PlaneItem
  deriving DecidableEq, Repr

/-- A chunk of the jack's image: whether it is the last, and what it configures (R427, R533). -/
structure JackBody where
  last : Bool
  items : List PlaneItem
  deriving DecidableEq, Repr

/-- The end of a handover's preparation: its offset, and the words that the copy did not find clean (R462). -/
structure PrepEnd where
  off : Nat
  seen : List CopySeen
  deriving DecidableEq, Repr

/-- The instant of a coupler's fault, and what its group carries there (R24, R27). -/
structure CouplerHit where
  flight : Flight
  off : Nat
  deriving DecidableEq, Repr

/-- The mode of a link that comes up: FLIT mode, and Bus Master Enable as the host has set it (R363, R368). -/
structure LinkMode where
  flit : Bool
  master : Bool
  deriving DecidableEq, Repr

/-- The commands: one constructor per row of spec/opcode_table.json, in the table's order. -/
inductive Instr where
  /-- STITCH_BOUNDARY (R51). -/ | stitchBoundary
  /-- N_REQ_WRITE (R60). -/ | nReqWrite (v : BitVec 8)
  /-- PERIOD_CHANGE (R60). -/ | periodChange
  /-- STITCH_LO_READ (R59). -/ | stitchLoRead (off : Nat)
  /-- SYNC_IN_EDGE (R70). -/ | syncInEdge (off : Nat)
  /-- HOLDOVER (R72). -/ | holdover (off : Nat)
  /-- NOP (R123). -/ | nop (h : Proc)
  /-- ADD (R124). -/ | add (h : Proc) (rd ra rb : BitVec 5)
  /-- SUB (R124). -/ | sub (h : Proc) (rd ra rb : BitVec 5)
  /-- AND (R124). -/ | and (h : Proc) (rd ra rb : BitVec 5)
  /-- OR (R124). -/ | or (h : Proc) (rd ra rb : BitVec 5)
  /-- XOR (R124). -/ | xor (h : Proc) (rd ra rb : BitVec 5)
  /-- SHL (R124). -/ | shl (h : Proc) (rd ra rb : BitVec 5)
  /-- SHR (R124). -/ | shr (h : Proc) (rd ra rb : BitVec 5)
  /-- SAR (R124). -/ | sar (h : Proc) (rd ra rb : BitVec 5)
  /-- MIN (R124). -/ | min (h : Proc) (rd ra rb : BitVec 5)
  /-- MAX (R124). -/ | max (h : Proc) (rd ra rb : BitVec 5)
  /-- MINU (R124). -/ | minu (h : Proc) (rd ra rb : BitVec 5)
  /-- MAXU (R124). -/ | maxu (h : Proc) (rd ra rb : BitVec 5)
  /-- MUL (R124). -/ | mul (h : Proc) (rd ra rb : BitVec 5)
  /-- CMP (R125). -/ | cmp (h : Proc) (cc : Cond) (pd : BitVec 3) (ra rb : BitVec 5)
  /-- PAND (R126). -/ | pand (h : Proc) (pd pa pb : BitVec 3)
  /-- POR (R126). -/ | por (h : Proc) (pd pa pb : BitVec 3)
  /-- PXOR (R126). -/ | pxor (h : Proc) (pd pa pb : BitVec 3)
  /-- PANDN (R126). -/ | pandn (h : Proc) (pd pa pb : BitVec 3)
  /-- PNOT (R126). -/ | pnot (h : Proc) (pd pa : BitVec 3)
  /-- MVA (R127). -/ | mva (h : Proc) (ad : BitVec 3) (ga : BitVec 5)
  /-- MVO (R127). -/ | mvo (h : Proc) (od : BitVec 3) (ga : BitVec 5)
  /-- MAG (R127). -/ | mag (h : Proc) (gd : BitVec 5) (aa : BitVec 3)
  /-- MOG (R127). -/ | mog (h : Proc) (gd : BitVec 5) (oa : BitVec 3)
  /-- PTOG (R127). -/ | ptog (h : Proc) (gd : BitVec 5) (pa : BitVec 3)
  /-- GTOP (R127). -/ | gtop (h : Proc) (pd : BitVec 3) (ga : BitVec 5)
  /-- ADDI (R128). -/ | addi (h : Proc) (rd ra : BitVec 5) (imm : BitVec 14)
  /-- ANDI (R128). -/ | andi (h : Proc) (rd ra : BitVec 5) (imm : BitVec 14)
  /-- ORI (R128). -/ | ori (h : Proc) (rd ra : BitVec 5) (imm : BitVec 14)
  /-- XORI (R128). -/ | xori (h : Proc) (rd ra : BitVec 5) (imm : BitVec 14)
  /-- SHLI (R128). -/ | shli (h : Proc) (rd ra : BitVec 5) (imm : BitVec 14)
  /-- SHRI (R128). -/ | shri (h : Proc) (rd ra : BitVec 5) (imm : BitVec 14)
  /-- SARI (R128). -/ | sari (h : Proc) (rd ra : BitVec 5) (imm : BitVec 14)
  /-- INSI (R128). -/ | insi (h : Proc) (rd ra : BitVec 5) (imm : BitVec 14)
  /-- LD (R129). -/ | ld (h : Proc) (size : BitVec 2) (rd : BitVec 5) (a o : BitVec 3) (x : LdRead)
  /-- ST (R129). -/ | st (h : Proc) (size : BitVec 2) (rd : BitVec 5) (a o : BitVec 3) (imm : BitVec 11)
  /-- ADDA (R130). -/ | adda (h : Proc) (a : BitVec 3) (imm : BitVec 11)
  /-- LDW (R131). -/ | ldw (k : LPatch) (size : BitVec 2) (rd : BitVec 5) (a o : BitVec 3) (imm : BitVec 11) (seen : Ecc)
  /-- STW (R131). -/ | stw (k : LPatch) (size : BitVec 2) (rd : BitVec 5) (a o : BitVec 3) (imm : BitVec 11)
  /-- SRD (R133). -/ | srd (h : Proc) (rd : BitVec 5) (str : BitVec 7) (w : BitVec 12)
  /-- SWR (R133). -/ | swr (h : Proc) (rd : BitVec 5) (str : BitVec 7) (w : BitVec 12)
  /-- SWR_LAND (R87 to R89): the offset counts on into the next stitch up to its offset 7. -/ | swrLand (h : Proc) (off : Nat)
  /-- POSTED_WRITE_LAND (R121). -/ | postedWriteLand (k : LPatch) (off : Nat) (seen : Ecc)
  /-- BA (R134). -/ | ba (h : Proc) (offset : BitVec 17)
  /-- B (R134). -/ | b (h : Proc) (pn : BitVec 3) (offset : BitVec 17)
  /-- BN (R134). -/ | bn (h : Proc) (pn : BitVec 3) (offset : BitVec 17)
  /-- LOOP (R135). -/ | loop (h : Proc) (count length : BitVec 10)
  /-- DONE (R136). -/ | done (h : Proc)
  /-- DONE_HOLD (R93). -/ | doneHold (h : Proc)
  /-- TRIG (R137). -/ | trig (k : LPatch) (line : Line)
  /-- WAITT (R109). -/ | waitt (k : LPatch) (pd : BitVec 3) (line : Line) (bound : BitVec 12)
  /-- WAITT_TIMEOUT (R109). -/ | waittTimeout (k : LPatch)
  /-- CVF (R140). -/ | cvf (k : LPatch) (n : BitVec 2) (u : Fin 20) (ra : BitVec 5)
  /-- CVRD (R142). -/ | cvrd (k : LPatch) (rd : BitVec 5) (u : Fin 20)
  /-- CVWR (R142). -/ | cvwr (k : LPatch) (u : Fin 20) (ra : BitVec 5)
  /-- BOWN (R143). -/ | bown (k : LPatch) (bank : Bank) (owner : BitVec 4)
  /-- MAC (R148). -/ | mac (r : Ribbon) (vd : BitVec 3) (ra rb : BitVec 5)
  /-- TAPM (R149). -/ | tapm (r : Ribbon) (vd a o : BitVec 3) (imm : BitVec 11)
  /-- TAPM_A (R149). -/ | tapmA (r : Ribbon) (vd a o : BitVec 3) (imm : BitVec 11)
  /-- TAPM_N (R149). -/ | tapmN (r : Ribbon) (vd a o : BitVec 3) (imm : BitVec 11)
  /-- TAPM_AN (R149). -/ | tapmAn (r : Ribbon) (vd a o : BitVec 3) (imm : BitVec 11)
  /-- ACS (R151). -/ | acs (r : Ribbon) (radix4 : Bool) (vd vs vb aN : BitVec 3)
  /-- VCLR (R150). -/ | vclr (r : Ribbon) (vd : BitVec 3)
  /-- VRD (R150). -/ | vrd (r : Ribbon) (gd : BitVec 5) (vs : BitVec 3) (x : BitVec 5)
  /-- VWR (R150). -/ | vwr (r : Ribbon) (vd : BitVec 3) (ra : BitVec 5) (x : BitVec 5)
  /-- VPK (R150). -/ | vpk (r : Ribbon) (gd : BitVec 5) (vs : BitVec 3) (x : BitVec 5)
  /-- VADDH (R150). -/ | vaddh (r : Ribbon) (gd ra rb : BitVec 5)
  /-- VSUBH (R150). -/ | vsubh (r : Ribbon) (gd ra rb : BitVec 5)
  /-- VBC (R150). -/ | vbc (r : Ribbon) (gd ra : BitVec 5)
  /-- VMIN (R150). -/ | vmin (r : Ribbon) (gd : BitVec 5) (vs : BitVec 3) (x : BitVec 5)
  /-- DLIN (R150). -/ | dlin (r : Ribbon) (ra x : BitVec 5)
  /-- DLRD (R150). -/ | dlrd (r : Ribbon) (gd x : BitVec 5)
  /-- TPSET (R150). -/ | tpset (r : Ribbon) (x : BitVec 5)
  /-- ESET (R150). -/ | eset (r : Ribbon) (ra x : BitVec 5)
  /-- PROG_LOAD (R110). -/ | progLoad (c : CmdRef)
  /-- PROG_ADMIT (R102). -/ | progAdmit (c : CmdRef)
  /-- PROG_START (R110). -/ | progStart (c : CmdRef)
  /-- PROG_STOP (R110). -/ | progStop (c : CmdRef)
  /-- PROG_POST (R110). -/ | progPost (c : CmdRef)
  /-- MAILBOX_REPLY (R114). -/ | mailboxReply (h : Proc) (v : W32)
  /-- EVT_PEND_CLEAR (R93). -/ | evtPendClear (h : Proc) (v : BitVec 16)
  /-- LN_CTL_WRITE (R157). -/ | lnCtlWrite (l : Lane) (v : W32) (be : BitVec 4)
  /-- LN_RATE_WRITE (R156). -/ | lnRateWrite (l : Lane) (v : W32) (be : BitVec 4)
  /-- COEFFICIENT_WRITE (R159). -/ | coefficientWrite (l : Lane) (word : Fin 7) (v : W32) (be : BitVec 4)
  /-- TX_FFE_WRITE (R160). -/ | txFfeWrite (l : Lane) (v : W32) (be : BitVec 4)
  /-- RIB_CTL_WRITE (R168). -/ | ribCtlWrite (r : Ribbon) (v : W32) (be : BitVec 4)
  /-- LANE_UP (R171). -/ | laneUp (l : Lane) (off : Nat)
  /-- LOSS_OF_LOCK (R178). -/ | lossOfLock (l : Lane) (off : Nat)
  /-- ELEC_IDLE (R171). -/ | elecIdle (l : Lane) (off : Nat)
  /-- SIGNAL_DETECT (R171). -/ | signalDetect (l : Lane) (off : Nat)
  /-- LANE_FAULT (R185). -/ | laneFault (l : Lane) (cause : BitVec 4) (off : Nat)
  /-- RECEIVED_UNIT (R166). -/ | receivedUnit (l : Lane) (u : RxUnit) (off : Nat)
  /-- TX_UNDERRUN (R291). -/ | txUnderrun (l : Lane) (off : Nat)
  /-- RSP_MOVE (R182). -/ | rspMove (r : Ribbon) (off : Nat)
  /-- RSP_MOVE_COMPLETE (R182). -/ | rspMoveComplete (r : Ribbon)
  /-- EYE_SCAN (R187). -/ | eyeScan (c : CmdRef)
  /-- CTLE_RECAL (R187). -/ | ctleRecal (c : CmdRef)
  /-- RX_RETRAIN (R187). -/ | rxRetrain (c : CmdRef)
  /-- TX_RECAL (R187). -/ | txRecal (c : CmdRef)
  /-- ANALOG_TEST (R186). -/ | analogTest (c : CmdRef)
  /-- LANE_REQ_END (R187). -/ | laneReqEnd (l : Lane) (pass : Bool) (cause : BitVec 4)
  /-- QUIET_WRITE (R188). -/ | quietWrite (l : Lane) (v : W32) (be : BitVec 4)
  /-- QUIET_WINDOW_END (R188). -/ | quietWindowEnd (l : Lane)
  /-- BUS_CONTENTION (R200). -/ | busContention (k : LPatch) (half : Bool) (line : BitVec 9) (off : Nat)
  /-- LOAD_GO (R209). -/ | loadGo (k : LPatch) (v : W32)
  /-- SWAP (R210). -/ | swap (k : LPatch) (v : W32)
  /-- SWAP_ON_TRIG (R211). -/ | swapOnTrig (k : LPatch) (v : W32)
  /-- PLANE_LOAD_END (R209). -/ | planeLoadEnd (k : LPatch) (bad : Bool)
  /-- QUEUE_MODE_WRITE (R218). -/ | queueModeWrite (k : LPatch) (bank : Bank) (v : W32) (be : BitVec 4)
  /-- QUEUE_PUSH (R218). -/ | queuePush (k : LPatch) (bank : Bank) (owner : BitVec 4) (data : List Byte)
  /-- QUEUE_POP (R218). -/ | queuePop (k : LPatch) (bank : Bank) (owner : BitVec 4) (seen : List Ecc)
  /-- PORT_ACCESS (R329). -/ | portAccess (k : LPatch) (port : Fin 8) (bank : Bank) (write : Bool) (addr : BitVec 20) (data : List Byte) (mask : List Bool) (seen : List Ecc)
  /-- EXCHANGE_SEND (R220). -/ | exchangeSend (k : LPatch) (flits : List (BitVec 128))
  /-- EXCHANGE_DELIVER (R221). -/ | exchangeDeliver (src dst : LPatch)
  /-- CAPTURE_START (R252). -/ | captureStart (k : LPatch) (c : Option CmdRef) (off : Nat)
  /-- CAPTURE_STOP (R253). -/ | captureStop (k : LPatch) (c : Option CmdRef) (off : Nat)
  /-- CAPTURE_ARM (R254). -/ | captureArm (k : LPatch) (c : Option CmdRef) (off : Nat)
  /-- CAPTURE_NEXT_SEGMENT (R257). -/ | captureNextSegment (k : LPatch) (c : Option CmdRef) (off : Nat)
  /-- KEEP (R237). -/ | keep (k : LPatch) (slot : Slot) (unit : W16) (tag : W16)
  /-- KEEP_HEAD (R237). -/ | keepHead (k : LPatch) (slot : Slot) (unit : W16) (n : BitVec 14) (tag : W16)
  /-- COUNT_ONLY (R237). -/ | countOnly (k : LPatch) (slot : Slot) (unit : W16)
  /-- DROP (R237). -/ | drop (k : LPatch) (slot : Slot) (unit : W16)
  /-- VERDICT_WINDOW_CLOSE (R236). -/ | verdictWindowClose (k : LPatch) (slot : Slot) (unit : W16)
  /-- STREAM_CHUNK (R234). -/ | streamChunk (k : LPatch) (slot : Slot) (data : List Byte) (off : Nat)
  /-- RECORD_WRITE (R246). -/ | recordWrite (k : LPatch) (off : Nat)
  /-- POST_DONE (R255). -/ | postDone (k : LPatch) (off : Nat)
  /-- CAPTURE_DRAINED (R253). -/ | captureDrained (k : LPatch) (off : Nat)
  /-- SNAPSHOT (R262). -/ | snapshot (c : CmdRef)
  /-- FOLLOW (R262). -/ | follow (c : CmdRef)
  /-- OFFLOAD_PAGE (R385). -/ | offloadPage (ch : Chan)
  /-- OFFLOAD_STOP (R384). -/ | offloadStop (c : CmdRef)
  /-- CONSUMED_WRITE (R385). -/ | consumedWrite (ch : Chan) (v : W32) (be : BitVec 4)
  /-- PATTERN_START (R274). -/ | patternStart (k : LPatch) (threads : BitVec 4) (c : Option CmdRef)
  /-- PATTERN_STOP (R274). -/ | patternStop (k : LPatch) (threads : BitVec 4) (c : Option CmdRef)
  /-- DESC_NOP (R276). -/ | descNop (k : LPatch) (t : Thread)
  /-- SEND (R278). -/ | send (k : LPatch) (t : Thread)
  /-- DESC_LOOP (R277). -/ | descLoop (k : LPatch) (t : Thread)
  /-- ENDLOOP (R277). -/ | endloop (k : LPatch) (t : Thread)
  /-- JMP (R276). -/ | jmp (k : LPatch) (t : Thread)
  /-- WAIT (R276). -/ | wait (k : LPatch) (t : Thread)
  /-- WAIT_RESUME (R276). -/ | waitResume (k : LPatch) (t : Thread)
  /-- SYNC (R276). -/ | sync (k : LPatch) (t : Thread)
  /-- SYNC_DONE (R276). -/ | syncDone (k : LPatch) (t : Thread)
  /-- DESC_TRIG (R276). -/ | descTrig (k : LPatch) (t : Thread) (off : Nat)
  /-- DESC_STOP (R276). -/ | descStop (k : LPatch) (t : Thread)
  /-- DESC_BADOP (R276). -/ | descBadop (k : LPatch) (t : Thread)
  /-- UNIT_MOVE (R287). -/ | unitMove (k : LPatch) (slot : Slot)
  /-- ACTION_LOAD (R284). -/ | actionLoad (k : LPatch) (a : Fin 8) (v : W32) (be : BitVec 4)
  /-- ACTION_STAGED (R284). -/ | actionStaged (k : LPatch) (a : Fin 8)
  /-- FABRIC_TX_UNIT (R288). -/ | fabricTxUnit (k : LPatch) (slot : Slot) (kind : BitVec 2) (data : List Byte)
  /-- CV_VALUE_WRITE (R302). -/ | cvValueWrite (k : LPatch) (u : Fin 20) (v : W32) (be : BitVec 4)
  /-- CV_CFG_WRITE (R303). -/ | cvCfgWrite (k : LPatch) (u : Fin 20) (v : W32) (be : BitVec 4)
  /-- FABRIC_RAISE (R306). -/ | fabricRaise (k : LPatch) (lines : W64) (off : Nat)
  /-- RAISE_WRITE (R306). -/ | raiseWrite (src : Src) (high : Bool) (v : W32) (off : Nat)
  /-- TRIGX_EDGE (R314). -/ | trigxEdge (ball : Fin 16) (rising : Bool) (off : Nat)
  /-- TRIGX_PULSE_END (R315). -/ | trigxPulseEnd (ball : Fin 16)
  /-- STATE_LO_READ (R308). -/ | stateLoRead (off : Nat)
  /-- LOG_STAT_READ (R317). -/ | logStatRead (off : Nat)
  /-- EVENT_RECORD_WRITE (R321). -/ | eventRecordWrite
  /-- EVQ_BASE_LO_WRITE (R320). -/ | evqBaseLoWrite (v : W32) (be : BitVec 4)
  /-- EVQ_BASE_HI_WRITE (R320). -/ | evqBaseHiWrite (v : W32) (be : BitVec 4)
  /-- EVQ_SIZE_WRITE (R320). -/ | evqSizeWrite (v : W32) (be : BitVec 4)
  /-- MGMT_WINDOW_GO (R331). -/ | mgmtWindowGo (p : Pos) (v : W32) (be : BitVec 4)
  /-- MGMT_WINDOW_DONE (R331). -/ | mgmtWindowDone (p : Pos) (seen : Ecc)
  /-- BOLT_WINDOW_GO (R356). -/ | boltWindowGo (k : LPatch) (v : W32) (be : BitVec 4)
  /-- BOLT_WINDOW_DONE (R356). -/ | boltWindowDone (k : LPatch) (seen : Ecc)
  /-- BUCKET_LEAK (R341). -/ | bucketLeak (u : MemUnit)
  /-- BUCKET_DEPTH_WRITE (R341). -/ | bucketDepthWrite (u : MemUnit) (v : BitVec 16)
  /-- PATROL_READ (R342). -/ | patrolRead (u : MemUnit) (seen : Ecc)
  /-- ROW_COPY_DONE (R344). -/ | rowCopyDone (x : RowCopy)
  /-- BOLT_LINE_READ (R351). -/ | boltLineRead (k : LPatch) (line : BitVec 25) (reader : Reader) (seen : Ecc)
  /-- BOLT_LINE_WRITE (R351). -/ | boltLineWrite (k : LPatch) (line : BitVec 25) (writer : Reader) (data : List Byte) (mask : List Bool) (seen : Ecc)
  /-- REKEY_PASS_DONE (R355). -/ | rekeyPassDone (k : LPatch)
  /-- COUNTER_UNCORRECTABLE (R347). -/ | counterUncorrectable (c : CtrRef)
  /-- REGISTER_WRITE (R365). -/ | registerWrite (src : Src) (a : BitVec 20) (v : W32) (be : BitVec 4) (off : Nat)
  /-- RC_FIELD_READ (R3). -/ | rcFieldRead (a : BitVec 20)
  /-- DOORBELL (R371). -/ | doorbell (sp : Spool) (v : W32)
  /-- ENTRY_FETCHED (R371). -/ | entryFetched (sp : Spool) (entry : Option (List Byte))
  /-- SPOOL_EN_WRITE (R370). -/ | spoolEnWrite (sp : Spool) (v : W32) (be : BitVec 4)
  /-- NOP_COMMAND (R374). -/ | nopCommand (c : CmdRef)
  /-- BIND_RIBBON (R36). -/ | bindRibbon (c : CmdRef)
  /-- BIND_PATCH (R470). -/ | bindPatch (c : CmdRef)
  /-- BOLT_IN (R389). -/ | boltIn (c : CmdRef)
  /-- BOLT_OUT (R389). -/ | boltOut (c : CmdRef)
  /-- BOLT_TRANSFER_DONE (R389). -/ | boltTransferDone (c : CmdRef)
  /-- FENCE (R374). -/ | fence (c : CmdRef)
  /-- RELEASE_WORD (R381). -/ | releaseWord (sp : Spool) (slot : BitVec 8) (v : W32)
  /-- RESULT_SLOT_READ (R380). -/ | resultSlotRead (sp : Spool) (x : SlotPart)
  /-- WINDOW_READ (R391). -/ | windowRead (d : Device) (x : WinRead)
  /-- WINDOW_WRITE (R390). -/ | windowWrite (d : Device) (a : BitVec 24) (v : W32) (be : BitVec 4) (off : Nat)
  /-- WINDOW_TIMEOUT (R392). -/ | windowTimeout (d : Device)
  /-- REQUEST_REPEAT (R415). -/ | requestRepeat (d : Device)
  /-- VECTOR_UNMASK (R368). -/ | vectorUnmask (vec : Fin 64)
  /-- CONVENTIONAL_RESET (R393). -/ | conventionalReset
  /-- FUNCTION_LEVEL_RESET (R393). -/ | functionLevelReset
  /-- LINK_LOSS (R393). -/ | linkLoss
  /-- D3HOT_EXIT (R393). -/ | d3hotExit
  /-- SEAM_TRAINED (R402). -/ | seamTrained (n : Seam)
  /-- SEAM_KEY_RECEIVED (R402). -/ | seamKeyReceived (n : Seam) (ok : Bool) (peer : Device) (peerSeam : Seam)
  /-- SEAM_RETRY (R402). -/ | seamRetry (n : Seam)
  /-- SEAM_LOCK_LOSS (R405). -/ | seamLockLoss (n : Seam)
  /-- FRAME_TIMEOUT (R405). -/ | frameTimeout (n : Seam)
  /-- RETRAIN (R405). -/ | retrain (n : Seam)
  /-- SEAM_EN_WRITE (R420). -/ | seamEnWrite (n : Seam) (v : W32) (be : BitVec 4)
  /-- SEAM_FRAME_SEND (R397). -/ | seamFrameSend (n : Seam)
  /-- SEAM_FRAME_RECEIVE (R400). -/ | seamFrameReceive (n : Seam) (tagOk : Bool) (corrected uncorrected : BitVec 16) (off : Nat)
  /-- TIME_CELL (R399). -/ | timeCell (n : Seam) (t : TimeCell)
  /-- TRIG_CELL (R309). -/ | trigCell (n : Seam) (entries : List TrigEntry) (off : Nat)
  /-- MSG_CELL (R399). -/ | msgCell (n : Seam) (dest : Device) (m : Msg) (off : Nat)
  /-- DATA_CELL (R399). -/ | dataCell (n : Seam) (d : DataCell)
  /-- HALT_BLOCK (R417). -/ | haltBlock (n : Seam) (d : Device) (off : Nat)
  /-- GO (R406). -/ | go (links : List Link) (refused : Bool)
  /-- SYS_RESET (R523). -/ | sysReset (off : Nat)
  /-- CFG_LOAD (R435). -/ | cfgLoad (c : CmdRef)
  /-- CHAIN_STREAM (R435). -/ | chainStream (hdr : StreamHeader)
  /-- SECTION_HEADER (R437). -/ | sectionHeader (pos : BitVec 6) (mode : BitVec 2) (frames : W32) (x : SectionBody)
  /-- FRAME_NOP (R427). -/ | frameNop (f : FrameInfo)
  /-- FRAME_PLANE (R427). -/ | framePlane (f : FrameInfo) (lpatch : LPatch) (plane : BitVec 4) (index : BitVec 11) (x : PlaneBody)
  /-- FRAME_SETTING (R427). -/ | frameSetting (f : FrameInfo) (pairs : List (W32 × W32))
  /-- FRAME_JACK (R427). -/ | frameJack (f : FrameInfo) (chunk : BitVec 11) (x : JackBody)
  /-- KEYROLL (R428). -/ | keyroll (f : FrameInfo)
  /-- FRAME_END (R427). -/ | frameEnd (f : FrameInfo)
  /-- STREAM_END (R440). -/ | streamEnd
  /-- STREAM_TIMEOUT (R440). -/ | streamTimeout
  /-- FALLBACK_LOAD (R443). -/ | fallbackLoad (hdr : StreamHeader)
  /-- SLOT_WRITE_DONE (R423). -/ | slotWriteDone
  /-- SCRUB_FRAME_READ (R447). -/ | scrubFrameRead (p : Pos) (upper : Bool) (what : ScrubWhat) (frame : BitVec 11) (seen : FrameCode) (refSeen : FrameCode)
  /-- SCRUBBER_CROSSCHECK (R448). -/ | scrubberCrosscheck (differ : Bool)
  /-- SET_STAGE (R450). -/ | setStage (c : CmdRef)
  /-- STORE (R451). -/ | store (c : CmdRef)
  /-- COMPACTION_DONE (R454). -/ | compactionDone
  /-- DESIGN_KEY (R432). -/ | designKey (c : CmdRef)
  /-- LCS_ADVANCE (R433). -/ | lcsAdvance (c : CmdRef)
  /-- LOCKSTEP_MISMATCH (R467). -/ | lockstepMismatch (k : LPatch) (off : Nat)
  /-- PREPARATION_END (R462). -/ | preparationEnd (x : PrepEnd)
  /-- REBIND (R463). -/ | rebind (off : Nat)
  /-- DRAIN_COMPLETE (R466). -/ | drainComplete (off : Nat)
  /-- ROTATION_STEP (R471). -/ | rotationStep (off : Nat)
  /-- ROT_WAIT_EXPIRY (R471). -/ | rotWaitExpiry (off : Nat)
  /-- RESULTS (R483). -/ | results (c : CmdRef)
  /-- LOGIC_BIST (R483). -/ | logicBist (c : CmdRef)
  /-- MARCH_PRESERVE (R475). -/ | marchPreserve (c : CmdRef)
  /-- MARCH_DESTRUCT (R481). -/ | marchDestruct (c : CmdRef)
  /-- BOLT_ONLY (R483). -/ | boltOnly (c : CmdRef)
  /-- BIST_DONE (R472). -/ | bistDone (u : BistUnit) (applied : W32) (sig : W64) (match_ : Bool)
  /-- MARCH_DONE (R476). -/ | marchDone (k : LPatch) (r : MarchResult)
  /-- HC_LOCKSTEP_MISMATCH (R458). -/ | hcLockstepMismatch (off : Nat)
  /-- HELD_REQUEST_TIMEOUT (R480). -/ | heldRequestTimeout (c : CmdRef)
  /-- PQUIET_WRITE (R482). -/ | pquietWrite (k : LPatch) (v : W32) (be : BitVec 4)
  /-- REFCLK_WINDOW (R489). -/ | refclkWindow (count : BitVec 18) (off : Nat)
  /-- REFCLK_MISSING (R489). -/ | refclkMissing (off : Nat)
  /-- REFCLK_OVERCOUNT (R489). -/ | refclkOvercount (count : BitVec 18) (off : Nat)
  /-- CLOCK_RESTORED (R493). -/ | clockRestored (off : Nat)
  /-- INTOSC_START (R491). -/ | intoscStart
  /-- FORCED_SWITCH (R497). -/ | forcedSwitch (rootRef : Bool)
  /-- GATE_OPEN (R501). -/ | gateOpen (gate : BitVec 7)
  /-- GATE_CLOSE (R499). -/ | gateClose (gate : BitVec 7)
  /-- HELD_CLOSE_DONE (R500). -/ | heldCloseDone
  /-- DRAM_REWRITE_DONE (R501). -/ | dramRewriteDone (layer : Layer)
  /-- REFOUT_WRITE (R504). -/ | refoutWrite (n : Fin 8) (word : Bool) (v : W32) (be : BitVec 4)
  /-- POWER_SAMPLE (R507). -/ | powerSample (tenMilliwatts : BitVec 16) (off : Nat)
  /-- CURRENT_LIMIT (R507). -/ | currentLimit (off : Nat)
  /-- SLOW_ROUND (R509). -/ | slowRound (r : HeatRound) (off : Nat)
  /-- FAST_ROUND (R509). -/ | fastRound (r : HeatRound) (off : Nat)
  /-- COMPARATOR_TRIP (R511). -/ | comparatorTrip (layer : Layer) (off : Nat)
  /-- AUTO_RESTART (R512). -/ | autoRestart
  /-- VHK_GOOD (R515). -/ | vhkGood (straps : BitVec 8) (slot0Ok slot1Ok : Bool) (active : Bool)
  /-- BLANK_DRIVE (R533). -/ | blankDrive
  /-- VIN_STACK_GOOD (R515). -/ | vinStackGood
  /-- ROOT_PLL_LOCK (R491). -/ | rootPllLock
  /-- KEY_ATTEMPT (R42). -/ | keyAttempt (ok : Bool)
  /-- LAYER_RAISED (R515). -/ | layerRaised (layer : Layer)
  /-- REGULATOR_TIMEOUT (R517). -/ | regulatorTimeout (layer : Layer)
  /-- TRAINING_DONE (R28). -/ | trainingDone (failed : List CouplerId)
  /-- STARTUP_MARCH_DONE (R474). -/ | startupMarchDone (laneFaults : List Lane) (badPositions : List Pos)
  /-- CHECKER_SELFTEST_DONE (R348). -/ | checkerSelftestDone (fails : List Checker)
  /-- DRAM_INIT_DONE (R353). -/ | dramInitDone (hdr : StreamHeader)
  /-- RESET_N_ASSERT (R522). -/ | resetNAssert
  /-- RESET_N_RISE (R522). -/ | resetNRise
  /-- JRST_FULL (R520). -/ | jrstFull
  /-- JRST_LAYER (R520). -/ | jrstLayer (layers : BitVec 8)
  /-- LAYER_RESET_WRITE (R525). -/ | layerResetWrite (v : W32) (be : BitVec 4)
  /-- LAYER_RESET_END (R526). -/ | layerResetEnd
  /-- JACK_SWAP (R534). -/ | jackSwap
  /-- JACK_SWAP_EXECUTE (R534). -/ | jackSwapExecute (swapAny swapOk : Bool)
  /-- JACK_SWAP_TIMEOUT (R534). -/ | jackSwapTimeout
  /-- VIO_GOOD (R549). -/ | vioGood (bank : Fin 3) (level : Fin 3)
  /-- VLANE_OUT_OF_LIMITS (R551). -/ | vlaneOutOfLimits (highRail : Bool) (off : Nat)
  /-- VIN_STACK_LOSS (R551). -/ | vinStackLoss
  /-- VHK_LOSS (R551). -/ | vhkLoss
  /-- TAP_RESET (R562). -/ | tapReset
  /-- BYPASS (R563). -/ | bypass
  /-- IDCODE (R563). -/ | idcode
  /-- SAMPLE_PRELOAD (R563). -/ | samplePreload
  /-- EXTEST (R564). -/ | extest
  /-- EXTEST_PULSE (R564). -/ | extestPulse
  /-- EXTEST_TRAIN (R564). -/ | extestTrain
  /-- CLAMP (R564). -/ | clamp
  /-- HIGHZ (R564). -/ | highz
  /-- INTERNAL_SCAN (R563). -/ | internalScan (code : BitVec 4)
  /-- COUPLER_FAULT (R24). -/ | couplerFault (b : Fin 11) (group : BitVec 11) (coupler : Fin 18) (x : CouplerHit)
  /-- COUNTER_LO_READ (R173). -/ | counterLoRead (a : BitVec 20)
  /-- LINK_UP (R363). -/ | linkUp (speed : BitVec 3) (width : BitVec 5) (x : LinkMode)
  /-- D3HOT_ENTRY (R393). -/ | d3hotEntry
  /-- UNCORRECTABLE_CODEWORDS (R405). -/ | uncorrectableCodewords (n : Seam)
  /-- VIO_LOSS (R551). -/ | vioLoss (bank : Fin 3)
  /-- VLANE_RETURN (R551). -/ | vlaneReturn (highRail : Bool) (off : Nat)
  /-- HOST_READ_COMPLETE (R378). -/ | hostReadComplete (c : CmdRef) (data : Option (List Byte))
  /-- FUSE_BURN_DONE (R432). -/ | fuseBurnDone (verified : Bool)
  /-- STORE_COMPLETE (R451). -/ | storeComplete
  /-- LATCH_VOTE_FIX (R448). -/ | latchVoteFix
  /-- HELD_RESET_RELEASE (R524). -/ | heldResetRelease
  deriving DecidableEq, Repr

end Sys2Proof
end

