-- ==== Sys2Proof/Decode.lean ====
section
/-! DEFINITION. The commands that a word of the table spells. The table gives none of its rows any bits: a command is an event with
operands, and no word of the part stands for one. -/

namespace Sys2Proof

/-- The command that a word spells, for the rows that give bits: none does. -/
def decodeTableWord (_nbits _w : Nat) : Option Instr := none

end Sys2Proof
end

