-- ==== Sys2Proof/Config.lean ====
section
/-! DEFINITION. What an implementation fixes and the spec leaves open: opaque constants, none of which has a body that a proof can use. -/

namespace Sys2Proof

/-- A value that the spec does not fix, taken fresh at each use (assumption 5). -/
opaque Config.freeValue : Nat → W64

/-- The key check value of a design key (R432): its first 32 bits of an encryption that this model does not compute (assumption 6). -/
opaque Config.keyCheckValue : List Byte → W32

/-- The factory starting points of a lane for a temperature band (R159), as 16-bit words: 0 PEAK, 1 GAIN, 2 DFE1, 3 to 14 FFE0 to FFE11
(assumption 24). -/
opaque Config.bandStart (lane band word : Nat) : W16

/-- The sampling phase that a coupler takes from the phase set of a temperature band (R28, R29): boundary, group, coupler, band
(assumption 21). -/
opaque Config.samplePhase (boundary group coupler band : Nat) : Nat

/-- The bytes between skip ordered sets, and those of one, that PCIe fixes for a mode and rate (R289, assumption 98): PCS, RATE_KBPS. -/
opaque Config.skipInterval (pcs rate : Nat) : Nat
opaque Config.skipLength (pcs rate : Nat) : Nat

/-- The level that the board gives a fabric I/O ball at a fabric cycle, counted from the start of the device (R225). -/
opaque Config.ballIn (ball cycle : Nat) : Bool

end Sys2Proof
end

