-- ==== Sys2Proof/Machine/RegMap.lean ====
section
/-! DEFINITION. The register map (R536 to R544): every field of every register, by the field tables of the spec's chapters: place, access,
reset value and clamp. One constant per field, and one table over all of them. -/

namespace Sys2Proof.Machine

/-- A register block of R536; `proc` stands for the sequencer registers, which PATCH and RIBBON both hold (R95). -/
inductive Blk where
  | dev | clk | hk | host | seam | cfg | sec | res | jack | ribbon | patch | bolt | trig
  deriving DecidableEq, Repr

/-- The access codes of R3. -/
inductive Acc where
  | ro | rw | wo | w1c | rc
  deriving DecidableEq, Repr

/-- What an illegal write becomes (R5 to R7). -/
inductive Clamp where
  | any                        -- every value is legal
  | range (lo hi : Nat)        -- the nearer end
  | srange (bits lo hi : Nat)  -- signed: nearer end of −lo to hi
  | top (last v : Nat)         -- a value above `last` becomes `v`
  | one (bad v : Nat)          -- the one value `bad` becomes `v`
  | mid (lo hi v : Nat)        -- a value from lo to hi becomes `v`
  | pow2 (lo hi : Nat)         -- the largest power of two not above the value, within lo to hi
  | align (bits : Nat)         -- the low bits become 0
  | rule                       -- a rule of its own that looks at other fields
  deriving DecidableEq, Repr

/-- The place of a field: offset from its block's base, strides of its one or two indexes, bits. -/
structure Fld where
  off : Nat
  st1 : Nat := 0
  st2 : Nat := 0
  hi : Nat
  lo : Nat
  deriving DecidableEq, Repr

/-- The BAR0 offset of the word that holds the field. -/
def Fld.at (f : Fld) (base i j : Nat) : Nat := base + f.off + f.st1 * i + f.st2 * j

/-- A row of the register table. `reset inst i` is the Reset column, for block instance `inst` and array index `i`. -/
structure RegRow where
  blk : Blk
  f : Fld
  n1 : Nat
  n2 : Nat
  acc : Acc
  reset : Nat → Nat → Nat
  clamp : Clamp


/-- R38. -/ def F.LPM_PPOS : Fld := ⟨0x200, 4, 0, 4, 0⟩
/-- R38. -/ def F.LPM_RIB_A : Fld := ⟨0x200, 4, 0, 13, 8⟩
/-- R38. -/ def F.LPM_RIB_B : Fld := ⟨0x200, 4, 0, 21, 16⟩
/-- R38. -/ def F.LPM_PEND : Fld := ⟨0x200, 4, 0, 30, 30⟩
/-- R38. -/ def F.LPM_HOVER : Fld := ⟨0x200, 4, 0, 31, 31⟩
/-- R39. -/ def F.POS_STATE : Fld := ⟨0x240, 4, 0, 2, 0⟩
/-- R39. -/ def F.POS_LPATCH : Fld := ⟨0x240, 4, 0, 11, 8⟩
/-- R39. -/ def F.POS_CPL_EXH : Fld := ⟨0x240, 4, 0, 16, 16⟩
/-- R39. -/ def F.POS_HALF : Fld := ⟨0x240, 4, 0, 17, 17⟩
/-- R40. -/ def F.RMAP_RSP : Fld := ⟨0x300, 4, 0, 5, 0⟩
/-- R40. -/ def F.RMAP_LPATCH : Fld := ⟨0x300, 4, 0, 11, 8⟩
/-- R40. -/ def F.RMAP_UNB : Fld := ⟨0x300, 4, 0, 12, 12⟩
/-- R41. -/ def F.BND_SPARES_LEFT : Fld := ⟨0x380, 4, 0, 10, 0⟩
/-- R41. -/ def F.BND_EXH : Fld := ⟨0x380, 4, 0, 26, 16⟩
/-- R41. -/ def F.BND_FAULT : Fld := ⟨0x380, 4, 0, 30, 30⟩
/-- R41. -/ def F.BND_TRAINED : Fld := ⟨0x380, 4, 0, 31, 31⟩
/-- R46. -/ def F.KEY_STATE : Fld := ⟨0x10, 0, 0, 1, 0⟩
/-- R46. -/ def F.KEY_ATTEMPTS : Fld := ⟨0x10, 0, 0, 3, 2⟩
/-- R46. -/ def F.KEY_COPIES : Fld := ⟨0x10, 0, 0, 8, 4⟩
/-- R49. -/ def F.STC_N_REQ : Fld := ⟨0x100, 0, 0, 7, 0⟩
/-- R49. -/ def F.STC_N_NOW : Fld := ⟨0x100, 0, 0, 15, 8⟩
/-- R49. -/ def F.STC_PEND : Fld := ⟨0x100, 0, 0, 16, 16⟩
/-- R50. -/ def F.BUD_B_NOW : Fld := ⟨0x120, 0, 0, 12, 0⟩
/-- R50. -/ def F.BUD_B_ADMIT : Fld := ⟨0x120, 0, 0, 28, 16⟩
/-- R66. -/ def F.EP_STITCH_LO : Fld := ⟨0x400, 0x20, 0, 31, 0⟩
/-- R66. -/ def F.EP_STITCH_HI : Fld := ⟨0x404, 0x20, 0, 31, 0⟩
/-- R66. -/ def F.EP_ROOT_LO : Fld := ⟨0x408, 0x20, 0, 31, 0⟩
/-- R66. -/ def F.EP_ROOT_HI : Fld := ⟨0x40C, 0x20, 0, 31, 0⟩
/-- R66. -/ def F.EP_N : Fld := ⟨0x410, 0x20, 0, 7, 0⟩
/-- R66. -/ def F.EP_VALID : Fld := ⟨0x410, 0x20, 0, 31, 31⟩
/-- R69. -/ def F.SYNC_MODE : Fld := ⟨0x800, 0, 0, 1, 0⟩
/-- R69. -/ def F.SYNC_WINDOW : Fld := ⟨0x800, 0, 0, 17, 8⟩
/-- R74. -/ def F.SYNC_EFFECTIVE : Fld := ⟨0x804, 0, 0, 1, 0⟩
/-- R74. -/ def F.SYNC_LOCKED : Fld := ⟨0x804, 0, 0, 2, 2⟩
/-- R74. -/ def F.SYNC_IN_HOLD : Fld := ⟨0x804, 0, 0, 3, 3⟩
/-- R74. -/ def F.SYNC_REJECTS : Fld := ⟨0x804, 0, 0, 31, 16⟩
/-- R74. -/ def F.SYNC_EDGE_STITCH_LO : Fld := ⟨0x808, 0, 0, 31, 0⟩
/-- R74. -/ def F.SYNC_EDGE_STITCH_HI : Fld := ⟨0x80C, 0, 0, 31, 0⟩
/-- R74. -/ def F.SYNC_EDGE_OFFSET : Fld := ⟨0x810, 0, 0, 12, 0⟩
/-- R74. -/ def F.SYNC_ERR : Fld := ⟨0x814, 0, 0, 31, 0⟩
/-- R74. -/ def F.SYNC_FREQ_ADJ : Fld := ⟨0x818, 0, 0, 15, 0⟩
/-- R95. -/ def F.PSTATE : Fld := ⟨0x0, 0, 0, 2, 0⟩
/-- R95. -/ def F.BANK : Fld := ⟨0x0, 0, 0, 3, 3⟩
/-- R95. -/ def F.STAGED : Fld := ⟨0x0, 0, 0, 4, 4⟩
/-- R95. -/ def F.ADMITTED : Fld := ⟨0x0, 0, 0, 5, 5⟩
/-- R95. -/ def F.START_PEND : Fld := ⟨0x0, 0, 0, 6, 6⟩
/-- R95. -/ def F.LIVE_PAGE : Fld := ⟨0x0, 0, 0, 7, 7⟩
/-- R95. -/ def F.LAST_REFUSE : Fld := ⟨0x0, 0, 0, 11, 8⟩
/-- R95. -/ def F.WC_MAIN : Fld := ⟨0x4, 0, 0, 12, 0⟩
/-- R95. -/ def F.WC_EVENT : Fld := ⟨0x4, 0, 0, 28, 16⟩
/-- R95. -/ def F.ABANDON : Fld := ⟨0x8, 0, 0, 15, 0⟩
/-- R95. -/ def F.WINDOW_MISS : Fld := ⟨0x8, 0, 0, 31, 16⟩
/-- R95. -/ def F.EVT_EN : Fld := ⟨0x10, 0, 0, 15, 0⟩
/-- R95. -/ def F.EVT_IMM : Fld := ⟨0x14, 0, 0, 15, 0⟩
/-- R95. -/ def F.EVT_PEND : Fld := ⟨0x18, 0, 0, 15, 0⟩
/-- R96. -/ def F.HC_PSTATE : Fld := ⟨0x600, 4, 0, 1, 0⟩
/-- R96. -/ def F.HC_ADMITTED : Fld := ⟨0x600, 4, 0, 2, 2⟩
/-- R96. -/ def F.HC_WC : Fld := ⟨0x600, 4, 0, 28, 16⟩
/-- R96. -/ def F.HC_WC_SUM : Fld := ⟨0x640, 0, 0, 12, 0⟩
/-- R145. -/ def F.CV_DROP : Fld := ⟨0xC, 0, 0, 15, 0⟩
/-- R145. -/ def F.POISON_RD : Fld := ⟨0xC, 0, 0, 31, 16⟩
/-- R155. -/ def F.LN_RX_EN : Fld := ⟨0x100, 0x40, 0, 0, 0⟩
/-- R155. -/ def F.LN_TX_EN : Fld := ⟨0x100, 0x40, 0, 1, 1⟩
/-- R155. -/ def F.LN_MOD : Fld := ⟨0x100, 0x40, 0, 2, 2⟩
/-- R155. -/ def F.LN_BAND_START : Fld := ⟨0x100, 0x40, 0, 3, 3⟩
/-- R155. -/ def F.LN_PCS : Fld := ⟨0x100, 0x40, 0, 6, 4⟩
/-- R155. -/ def F.LN_RX_INV : Fld := ⟨0x100, 0x40, 0, 7, 7⟩
/-- R155. -/ def F.LN_TX_INV : Fld := ⟨0x100, 0x40, 0, 8, 8⟩
/-- R155. -/ def F.LN_TX_CLK : Fld := ⟨0x100, 0x40, 0, 9, 9⟩
/-- R155. -/ def F.LN_TX_CLK_LANE : Fld := ⟨0x100, 0x40, 0, 12, 10⟩
/-- R155. -/ def F.LN_PREFILL : Fld := ⟨0x100, 0x40, 0, 21, 16⟩
/-- R158. -/ def F.LN_PEAK : Fld := ⟨0x10C, 0x40, 0, 4, 0⟩
/-- R158. -/ def F.LN_GAIN : Fld := ⟨0x10C, 0x40, 0, 11, 8⟩
/-- R158. -/ def F.LN_DFE_EN : Fld := ⟨0x10C, 0x40, 0, 12, 12⟩
/-- R158. -/ def F.LN_DFE1 : Fld := ⟨0x10C, 0x40, 0, 31, 16⟩
/-- R158. -/ def F.LN_FFE0 : Fld := ⟨0x120, 0x40, 0, 15, 0⟩
/-- R158. -/ def F.LN_FFE1 : Fld := ⟨0x120, 0x40, 0, 31, 16⟩
/-- R158. -/ def F.LN_FFE2 : Fld := ⟨0x124, 0x40, 0, 15, 0⟩
/-- R158. -/ def F.LN_FFE3 : Fld := ⟨0x124, 0x40, 0, 31, 16⟩
/-- R158. -/ def F.LN_FFE4 : Fld := ⟨0x128, 0x40, 0, 15, 0⟩
/-- R158. -/ def F.LN_FFE5 : Fld := ⟨0x128, 0x40, 0, 31, 16⟩
/-- R158. -/ def F.LN_FFE6 : Fld := ⟨0x12C, 0x40, 0, 15, 0⟩
/-- R158. -/ def F.LN_FFE7 : Fld := ⟨0x12C, 0x40, 0, 31, 16⟩
/-- R158. -/ def F.LN_FFE8 : Fld := ⟨0x130, 0x40, 0, 15, 0⟩
/-- R158. -/ def F.LN_FFE9 : Fld := ⟨0x130, 0x40, 0, 31, 16⟩
/-- R158. -/ def F.LN_FFE10 : Fld := ⟨0x134, 0x40, 0, 15, 0⟩
/-- R158. -/ def F.LN_FFE11 : Fld := ⟨0x134, 0x40, 0, 31, 16⟩
/-- R160. -/ def F.TX_C_M2 : Fld := ⟨0x110, 0x40, 0, 4, 0⟩
/-- R160. -/ def F.TX_C_M1 : Fld := ⟨0x110, 0x40, 0, 10, 5⟩
/-- R160. -/ def F.TX_C0 : Fld := ⟨0x110, 0x40, 0, 16, 11⟩
/-- R160. -/ def F.TX_C_P1 : Fld := ⟨0x110, 0x40, 0, 22, 17⟩
/-- R160. -/ def F.TX_C_P2 : Fld := ⟨0x110, 0x40, 0, 27, 23⟩
/-- R168. -/ def F.RIB_BOND : Fld := ⟨0x40, 0, 0, 2, 0⟩
/-- R172. -/ def F.LN_LSTATE : Fld := ⟨0x108, 0x40, 0, 2, 0⟩
/-- R172. -/ def F.LN_SIGDET : Fld := ⟨0x108, 0x40, 0, 3, 3⟩
/-- R172. -/ def F.LN_CDR_LOCK : Fld := ⟨0x108, 0x40, 0, 4, 4⟩
/-- R172. -/ def F.LN_PCS_LOCK : Fld := ⟨0x108, 0x40, 0, 5, 5⟩
/-- R172. -/ def F.LN_BONDED : Fld := ⟨0x108, 0x40, 0, 6, 6⟩
/-- R172. -/ def F.LN_FE_LAT : Fld := ⟨0x108, 0x40, 0, 15, 8⟩
/-- R172. -/ def F.LN_SKEW : Fld := ⟨0x108, 0x40, 0, 23, 16⟩
/-- R172. -/ def F.LN_FAULT_CAUSE : Fld := ⟨0x108, 0x40, 0, 27, 24⟩
/-- R175. -/ def F.LN_BURST_THR : Fld := ⟨0x114, 0x40, 0, 9, 0⟩
/-- R175. -/ def F.LN_BURST_WIN : Fld := ⟨0x114, 0x40, 0, 19, 10⟩
/-- R175. -/ def F.LN_IDLE_TIME : Fld := ⟨0x114, 0x40, 0, 27, 20⟩
/-- R177. -/ def F.EYE_PHASE : Fld := ⟨0x11C, 0x40, 0, 5, 0⟩
/-- R177. -/ def F.EYE_VOFF : Fld := ⟨0x11C, 0x40, 0, 13, 8⟩
/-- R177. -/ def F.EYE_EN : Fld := ⟨0x11C, 0x40, 0, 16, 16⟩
/-- R177. -/ def F.EYE_CNT : Fld := ⟨0x138, 0x40, 0, 31, 0⟩
/-- R184. -/ def F.RSPH_CORR : Fld := ⟨0x30, 0, 0, 15, 0⟩
/-- R184. -/ def F.RSPH_MOVING : Fld := ⟨0x30, 0, 0, 16, 16⟩
/-- R184. -/ def F.RSPH_RETIRED : Fld := ⟨0x30, 0, 0, 17, 17⟩
/-- R188. -/ def F.Q_QUIET_LEN : Fld := ⟨0x118, 0x40, 0, 15, 0⟩
/-- R188. -/ def F.Q_OPEN : Fld := ⟨0x118, 0x40, 0, 16, 16⟩
/-- R203. -/ def F.CONT_COUNT : Fld := ⟨0x140, 0, 0, 4, 0⟩
/-- R203. -/ def F.CONT_LOST : Fld := ⟨0x140, 0, 0, 15, 8⟩
/-- R203. -/ def F.CONT_DISABLED : Fld := ⟨0x140, 0, 0, 26, 16⟩
/-- R204. -/ def F.CLOG_LINE : Fld := ⟨0x180, 8, 0, 8, 0⟩
/-- R204. -/ def F.CLOG_HALF : Fld := ⟨0x180, 8, 0, 9, 9⟩
/-- R204. -/ def F.CLOG_STATE : Fld := ⟨0x180, 8, 0, 11, 10⟩
/-- R204. -/ def F.CLOG_RECUR : Fld := ⟨0x180, 8, 0, 31, 16⟩
/-- R204. -/ def F.CLOG_STITCH : Fld := ⟨0x184, 8, 0, 31, 0⟩
/-- R213. -/ def F.PLC_LOAD_SLOT : Fld := ⟨0x100, 0, 0, 2, 0⟩
/-- R213. -/ def F.PLC_LOAD_GO : Fld := ⟨0x100, 0, 0, 3, 3⟩
/-- R213. -/ def F.PLC_SWAP : Fld := ⟨0x100, 0, 0, 4, 4⟩
/-- R213. -/ def F.PLC_SWAP_ON_TRIG : Fld := ⟨0x100, 0, 0, 5, 5⟩
/-- R213. -/ def F.PLC_SWAP_LINE : Fld := ⟨0x100, 0, 0, 13, 8⟩
/-- R214. -/ def F.PLS_ACTIVE_SRC : Fld := ⟨0x104, 0, 0, 2, 0⟩
/-- R214. -/ def F.PLS_SHADOW_SRC : Fld := ⟨0x104, 0, 0, 5, 3⟩
/-- R214. -/ def F.PLS_SHADOW_VALID : Fld := ⟨0x104, 0, 0, 6, 6⟩
/-- R214. -/ def F.PLS_LOADING : Fld := ⟨0x104, 0, 0, 7, 7⟩
/-- R214. -/ def F.PLS_SWAP_PEND : Fld := ⟨0x104, 0, 0, 8, 8⟩
/-- R214. -/ def F.PLS_ARMED : Fld := ⟨0x104, 0, 0, 9, 9⟩
/-- R214. -/ def F.PLS_LOAD_EMPTY : Fld := ⟨0x104, 0, 0, 10, 10⟩
/-- R214. -/ def F.PLS_LOAD_BAD : Fld := ⟨0x104, 0, 0, 11, 11⟩
/-- R214. -/ def F.PLS_LOAD_FRAMES : Fld := ⟨0x104, 0, 0, 22, 12⟩
/-- R214. -/ def F.PLS_PLANE_SWAPS : Fld := ⟨0x108, 0, 0, 31, 0⟩
/-- R219. -/ def F.QC_MODE : Fld := ⟨0x200, 0x10, 0, 1, 0⟩
/-- R219. -/ def F.QC_ESIZE : Fld := ⟨0x200, 0x10, 0, 3, 2⟩
/-- R219. -/ def F.QC_HIWAT : Fld := ⟨0x200, 0x10, 0, 18, 8⟩
/-- R219. -/ def F.QC_LEVEL : Fld := ⟨0x204, 0x10, 0, 17, 0⟩
/-- R219. -/ def F.QC_OVF : Fld := ⟨0x208, 0x10, 0, 15, 0⟩
/-- R219. -/ def F.QC_FULL : Fld := ⟨0x208, 0x10, 0, 16, 16⟩
/-- R219. -/ def F.QC_EMPTY : Fld := ⟨0x208, 0x10, 0, 17, 17⟩
/-- R219. -/ def F.QC_HIGH : Fld := ⟨0x208, 0x10, 0, 18, 18⟩
/-- R224. -/ def F.XCH_TXQ : Fld := ⟨0x300, 0, 0, 6, 0⟩
/-- R224. -/ def F.XCH_RXQ : Fld := ⟨0x300, 0, 0, 14, 8⟩
/-- R224. -/ def F.XCH_DROP : Fld := ⟨0x300, 0, 0, 31, 16⟩
/-- R224. -/ def F.XCH_SENT : Fld := ⟨0x304, 0, 0, 31, 0⟩
/-- R224. -/ def F.XCH_RCVD : Fld := ⟨0x308, 0, 0, 31, 0⟩
/-- R263. -/ def F.CAP_CMD : Fld := ⟨0x400, 0, 0, 2, 0⟩
/-- R263. -/ def F.CAP_MODE : Fld := ⟨0x404, 0, 0, 1, 0⟩
/-- R263. -/ def F.CAP_TRIG_EN : Fld := ⟨0x404, 0, 0, 2, 2⟩
/-- R263. -/ def F.CAP_TRIG_LINE : Fld := ⟨0x404, 0, 0, 8, 3⟩
/-- R263. -/ def F.CAP_DEPTH_UNIT : Fld := ⟨0x404, 0, 0, 9, 9⟩
/-- R263. -/ def F.CAP_PRE_WAIT : Fld := ⟨0x404, 0, 0, 10, 10⟩
/-- R263. -/ def F.CAP_SEG_WRAP : Fld := ⟨0x404, 0, 0, 11, 11⟩
/-- R263. -/ def F.CAP_CLOSE_EN : Fld := ⟨0x404, 0, 0, 12, 12⟩
/-- R263. -/ def F.CAP_CLOSE_LINE : Fld := ⟨0x404, 0, 0, 18, 13⟩
/-- R263. -/ def F.CAP_PRE_DEPTH : Fld := ⟨0x408, 0, 0, 31, 0⟩
/-- R263. -/ def F.CAP_POST_DEPTH : Fld := ⟨0x40C, 0, 0, 31, 0⟩
/-- R263. -/ def F.CAP_SEG_COUNT : Fld := ⟨0x410, 0, 0, 12, 0⟩
/-- R263. -/ def F.CAP_TRAIN_MAX : Fld := ⟨0x414, 0, 0, 13, 0⟩
/-- R264. -/ def F.CAP_REC_BASE : Fld := ⟨0x418, 0, 0, 10, 0⟩
/-- R264. -/ def F.CAP_REC_SIZE : Fld := ⟨0x418, 0, 0, 27, 16⟩
/-- R264. -/ def F.CAP_IDX_BASE : Fld := ⟨0x41C, 0, 0, 18, 0⟩
/-- R264. -/ def F.CAP_SEG_BASE : Fld := ⟨0x420, 0, 0, 18, 0⟩
/-- R265. -/ def F.CAPS_STATE : Fld := ⟨0x440, 0, 0, 2, 0⟩
/-- R265. -/ def F.CAPS_STOP_REASON : Fld := ⟨0x440, 0, 0, 6, 3⟩
/-- R265. -/ def F.CAPS_PRE_SHORT : Fld := ⟨0x440, 0, 0, 7, 7⟩
/-- R265. -/ def F.CAPS_WRAPPED : Fld := ⟨0x440, 0, 0, 8, 8⟩
/-- R265. -/ def F.CAPS_SEG_NOW : Fld := ⟨0x440, 0, 0, 20, 9⟩
/-- R265. -/ def F.CAPS_RUN : Fld := ⟨0x440, 0, 0, 28, 21⟩
/-- R265. -/ def F.CAPS_WPTR : Fld := ⟨0x444, 0, 0, 30, 0⟩
/-- R265. -/ def F.CAPS_STAGE_KIB : Fld := ⟨0x448, 0, 0, 11, 0⟩
/-- R265. -/ def F.CAPS_PENDING : Fld := ⟨0x44C, 0, 0, 15, 0⟩
/-- R265. -/ def F.CAPS_KEPT_LAST : Fld := ⟨0x450, 0, 0, 15, 0⟩
/-- R265. -/ def F.CAPS_SEQ_NEXT : Fld := ⟨0x454, 0, 0, 31, 0⟩
/-- R265. -/ def F.CAPS_T_LO : Fld := ⟨0x458, 0, 0, 31, 0⟩
/-- R265. -/ def F.CAPS_T_HI : Fld := ⟨0x45C, 0, 0, 31, 0⟩
/-- R265. -/ def F.CAPS_T_OFF : Fld := ⟨0x460, 0, 0, 12, 0⟩
/-- R266. -/ def F.CSLOT_EN : Fld := ⟨0x480, 4, 0, 0, 0⟩
/-- R266. -/ def F.CSLOT_FORM : Fld := ⟨0x480, 4, 0, 1, 1⟩
/-- R266. -/ def F.CSLOT_NOVD : Fld := ⟨0x480, 4, 0, 2, 2⟩
/-- R268. -/ def F.CAPE_VD_STRAY : Fld := ⟨0x4C0, 0, 0, 15, 0⟩
/-- R268. -/ def F.CAPE_VD_DUP : Fld := ⟨0x4C0, 0, 0, 31, 16⟩
/-- R268. -/ def F.CAPE_ABORTED : Fld := ⟨0x4C4, 0, 0, 15, 0⟩
/-- R268. -/ def F.CAPE_TRIG_IGNORED : Fld := ⟨0x4C4, 0, 0, 31, 16⟩
/-- R281. -/ def F.SUB_VAL_LO : Fld := ⟨0x680, 8, 0, 31, 0⟩
/-- R281. -/ def F.SUB_VAL_HI : Fld := ⟨0x684, 8, 0, 31, 0⟩
/-- R281. -/ def F.SUB_OFF : Fld := ⟨0x6C0, 4, 0, 13, 0⟩
/-- R281. -/ def F.SUB_WIDTH : Fld := ⟨0x6C0, 4, 0, 16, 14⟩
/-- R281. -/ def F.SUB_ORDER : Fld := ⟨0x6C0, 4, 0, 17, 17⟩
/-- R281. -/ def F.SUB_STEP : Fld := ⟨0x6C0, 4, 0, 31, 24⟩
/-- R285. -/ def F.WATCH_EN : Fld := ⟨0x700, 4, 0, 0, 0⟩
/-- R285. -/ def F.WATCH_LINE : Fld := ⟨0x700, 4, 0, 6, 1⟩
/-- R285. -/ def F.WATCH_ACT : Fld := ⟨0x700, 4, 0, 8, 7⟩
/-- R285. -/ def F.WATCH_THREAD : Fld := ⟨0x700, 4, 0, 10, 9⟩
/-- R285. -/ def F.WATCH_FLUSH : Fld := ⟨0x700, 4, 0, 11, 11⟩
/-- R285. -/ def F.WATCH_ACTSLOT : Fld := ⟨0x700, 4, 0, 14, 12⟩
/-- R285. -/ def F.WATCH_ONESHOT : Fld := ⟨0x700, 4, 0, 15, 15⟩
/-- R285. -/ def F.WATCH_TARGET : Fld := ⟨0x700, 4, 0, 31, 16⟩
/-- R286. -/ def F.ACT_REC : Fld := ⟨0x740, 8, 0, 24, 0⟩
/-- R286. -/ def F.ACT_SLOTS : Fld := ⟨0x744, 8, 0, 15, 0⟩
/-- R286. -/ def F.ACT_LOAD : Fld := ⟨0x744, 8, 0, 16, 16⟩
/-- R286. -/ def F.ACT_READY : Fld := ⟨0x744, 8, 0, 17, 17⟩
/-- R293. -/ def F.PAT_CMD : Fld := ⟨0x600, 0, 0, 1, 0⟩
/-- R293. -/ def F.PAT_THREADS : Fld := ⟨0x600, 0, 0, 7, 4⟩
/-- R293. -/ def F.PAT_DESC_BASE : Fld := ⟨0x604, 0, 0, 18, 0⟩
/-- R293. -/ def F.PAT_DESC_COUNT : Fld := ⟨0x608, 0, 0, 16, 0⟩
/-- R293. -/ def F.PAT_USER_FILL : Fld := ⟨0x60C, 0, 0, 31, 0⟩
/-- R293. -/ def F.PAT_USER_MAP : Fld := ⟨0x610, 0, 0, 3, 0⟩
/-- R293. -/ def F.PAT_ENTRY : Fld := ⟨0x620, 4, 0, 15, 0⟩
/-- R294. -/ def F.THR_STATE : Fld := ⟨0x630, 4, 0, 1, 0⟩
/-- R294. -/ def F.THR_DEPTH : Fld := ⟨0x630, 4, 0, 4, 2⟩
/-- R294. -/ def F.THR_REASON : Fld := ⟨0x630, 4, 0, 7, 5⟩
/-- R294. -/ def F.THR_PC : Fld := ⟨0x630, 4, 0, 31, 16⟩
/-- R295. -/ def F.PSLOT_SRC : Fld := ⟨0x640, 4, 0, 1, 0⟩
/-- R295. -/ def F.PSLOT_MIN_GAP : Fld := ⟨0x640, 4, 0, 11, 4⟩
/-- R295. -/ def F.PSLOT_FILL8 : Fld := ⟨0x640, 4, 0, 13, 12⟩
/-- R296. -/ def F.PATE_PAT_POISON : Fld := ⟨0x780, 0, 0, 15, 0⟩
/-- R296. -/ def F.PATE_KIND_SKIP : Fld := ⟨0x780, 0, 0, 31, 16⟩
/-- R296. -/ def F.PATE_ACT_MISS : Fld := ⟨0x784, 0, 0, 15, 0⟩
/-- R296. -/ def F.PATE_NEST_OVF : Fld := ⟨0x784, 0, 0, 31, 16⟩
/-- R296. -/ def F.PATE_JUMPS : Fld := ⟨0x788, 0, 0, 31, 0⟩
/-- R304. -/ def F.CV_POLY : Fld := ⟨0x800, 0x20, 0, 1, 0⟩
/-- R304. -/ def F.CV_REFIN : Fld := ⟨0x800, 0x20, 0, 2, 2⟩
/-- R304. -/ def F.CV_REFOUT : Fld := ⟨0x800, 0x20, 0, 3, 3⟩
/-- R304. -/ def F.CV_XOROUT : Fld := ⟨0x800, 0x20, 0, 4, 4⟩
/-- R304. -/ def F.CV_INIT : Fld := ⟨0x800, 0x20, 0, 5, 5⟩
/-- R304. -/ def F.CV_ORDER : Fld := ⟨0x800, 0x20, 0, 6, 6⟩
/-- R304. -/ def F.CV_STREAM_EN : Fld := ⟨0x800, 0x20, 0, 7, 7⟩
/-- R304. -/ def F.CV_ATTACH : Fld := ⟨0x800, 0x20, 0, 8, 8⟩
/-- R304. -/ def F.CV_MODE : Fld := ⟨0x800, 0x20, 0, 10, 9⟩
/-- R304. -/ def F.CV_SKIP : Fld := ⟨0x800, 0x20, 0, 23, 16⟩
/-- R304. -/ def F.CV_VALUE : Fld := ⟨0x804, 0x20, 0, 31, 0⟩
/-- R304. -/ def F.CV_LAST : Fld := ⟨0x808, 0x20, 0, 31, 0⟩
/-- R304. -/ def F.CV_UNITS : Fld := ⟨0x80C, 0x20, 0, 31, 0⟩
/-- R304. -/ def F.CV_FAIL : Fld := ⟨0x810, 0x20, 0, 15, 0⟩
/-- R304. -/ def F.CV_SHORT : Fld := ⟨0x810, 0x20, 0, 31, 16⟩
/-- R308. -/ def F.TRIG_STATE_LO : Fld := ⟨0x0, 0, 0, 31, 0⟩
/-- R308. -/ def F.TRIG_STATE_HI : Fld := ⟨0x4, 0, 0, 31, 0⟩
/-- R308. -/ def F.TRIG_RAISE_LO : Fld := ⟨0x8, 0, 0, 31, 0⟩
/-- R308. -/ def F.TRIG_RAISE_HI : Fld := ⟨0xC, 0, 0, 31, 0⟩
/-- R308. -/ def F.TRIG_D : Fld := ⟨0x10, 0, 0, 7, 0⟩
/-- R308. -/ def F.TRIG_SYSTEM : Fld := ⟨0x10, 0, 0, 8, 8⟩
/-- R308. -/ def F.TRIG_LATE : Fld := ⟨0x10, 0, 0, 31, 16⟩
/-- R308. -/ def F.TRIG_SRC_MASK_LO : Fld := ⟨0x20, 8, 0, 31, 0⟩
/-- R308. -/ def F.TRIG_SRC_MASK_HI : Fld := ⟨0x24, 8, 0, 31, 0⟩
/-- R313. -/ def F.TB_DIR : Fld := ⟨0x100, 8, 0, 1, 0⟩
/-- R313. -/ def F.TB_LINE : Fld := ⟨0x100, 8, 0, 7, 2⟩
/-- R313. -/ def F.TB_EDGE : Fld := ⟨0x100, 8, 0, 9, 8⟩
/-- R313. -/ def F.TB_POL : Fld := ⟨0x100, 8, 0, 10, 10⟩
/-- R313. -/ def F.TB_FILT : Fld := ⟨0x100, 8, 0, 14, 11⟩
/-- R313. -/ def F.TB_OMODE : Fld := ⟨0x100, 8, 0, 15, 15⟩
/-- R313. -/ def F.TB_OUT_OFF : Fld := ⟨0x100, 8, 0, 21, 16⟩
/-- R313. -/ def F.TB_WIDTH : Fld := ⟨0x104, 8, 0, 12, 0⟩
/-- R317. -/ def F.TLOG_TS0 : Fld := ⟨0x400, 0x10, 0, 31, 0⟩
/-- R317. -/ def F.TLOG_TS1 : Fld := ⟨0x404, 0x10, 0, 31, 0⟩
/-- R317. -/ def F.TLOG_TS2 : Fld := ⟨0x408, 0x10, 0, 15, 0⟩
/-- R317. -/ def F.TLOG_LINE : Fld := ⟨0x408, 0x10, 0, 21, 16⟩
/-- R317. -/ def F.TLOG_SRC : Fld := ⟨0x408, 0x10, 0, 24, 22⟩
/-- R317. -/ def F.TLOG_MULTI : Fld := ⟨0x408, 0x10, 0, 25, 25⟩
/-- R317. -/ def F.TLOG_DEVICE : Fld := ⟨0x408, 0x10, 0, 31, 26⟩
/-- R317. -/ def F.TLOG_LATCH_LO : Fld := ⟨0x40C, 0x10, 0, 31, 0⟩
/-- R320. -/ def F.EVQ_BASE_LO : Fld := ⟨0x800, 0, 0, 31, 0⟩
/-- R320. -/ def F.EVQ_BASE_HI : Fld := ⟨0x804, 0, 0, 31, 0⟩
/-- R320. -/ def F.EVQ_SIZE : Fld := ⟨0x808, 0, 0, 16, 0⟩
/-- R320. -/ def F.EVQ_HEAD : Fld := ⟨0x80C, 0, 0, 15, 0⟩
/-- R320. -/ def F.EVQ_TAIL : Fld := ⟨0x810, 0, 0, 15, 0⟩
/-- R320. -/ def F.EVQ_PEND : Fld := ⟨0x814, 0, 0, 15, 0⟩
/-- R320. -/ def F.EVQ_MASK : Fld := ⟨0x818, 0, 0, 15, 0⟩
/-- R320. -/ def F.EVQ_LOST : Fld := ⟨0x81C, 0, 0, 31, 0⟩
/-- R320. -/ def F.NM_LATCH : Fld := ⟨0x820, 0, 0, 1, 0⟩
/-- R325. -/ def F.TL_LINE_A : Fld := ⟨0x1C, 0, 0, 5, 0⟩
/-- R325. -/ def F.TL_EN_A : Fld := ⟨0x1C, 0, 0, 6, 6⟩
/-- R325. -/ def F.TL_LINE_B : Fld := ⟨0x1C, 0, 0, 13, 8⟩
/-- R325. -/ def F.TL_EN_B : Fld := ⟨0x1C, 0, 0, 14, 14⟩
/-- R325. -/ def F.TL_LINE_C : Fld := ⟨0x1C, 0, 0, 21, 16⟩
/-- R325. -/ def F.TL_EN_C : Fld := ⟨0x1C, 0, 0, 22, 22⟩
/-- R325. -/ def F.TL_LINE_D : Fld := ⟨0x1C, 0, 0, 29, 24⟩
/-- R325. -/ def F.TL_EN_D : Fld := ⟨0x1C, 0, 0, 30, 30⟩
/-- R332. -/ def F.BK_LEVEL : Fld := ⟨0xB00, 0x10, 0, 15, 0⟩
/-- R332. -/ def F.BK_OVF : Fld := ⟨0xB00, 0x10, 0, 16, 16⟩
/-- R332. -/ def F.BK_CORR : Fld := ⟨0xB04, 0x10, 0, 15, 0⟩
/-- R332. -/ def F.BK_UNCORR : Fld := ⟨0xB04, 0x10, 0, 31, 16⟩
/-- R332. -/ def F.BK_ERR_WORD : Fld := ⟨0xB08, 0x10, 0, 16, 0⟩
/-- R332. -/ def F.BK_ERR_UNC : Fld := ⟨0xB08, 0x10, 0, 17, 17⟩
/-- R332. -/ def F.BK_ROWS_LEFT : Fld := ⟨0xB0C, 0x10, 0, 4, 0⟩
/-- R332. -/ def F.BK_WR_POISON : Fld := ⟨0xB0C, 0x10, 0, 31, 16⟩
/-- R332. -/ def F.BK_DEPTH : Fld := ⟨0xB80, 0, 0, 15, 0⟩
/-- R332. -/ def F.BK_LEAK_MS : Fld := ⟨0xB80, 0, 0, 31, 16⟩
/-- R332. -/ def F.BK_WIN_WORD : Fld := ⟨0xB90, 0, 0, 16, 0⟩
/-- R332. -/ def F.BK_WIN_BANK : Fld := ⟨0xB90, 0, 0, 19, 17⟩
/-- R332. -/ def F.BK_WIN_DATA_LO : Fld := ⟨0xB94, 0, 0, 31, 0⟩
/-- R332. -/ def F.BK_WIN_DATA_HI : Fld := ⟨0xB98, 0, 0, 31, 0⟩
/-- R332. -/ def F.BK_GO : Fld := ⟨0xB9C, 0, 0, 0, 0⟩
/-- R332. -/ def F.BK_WRITE : Fld := ⟨0xB9C, 0, 0, 1, 1⟩
/-- R332. -/ def F.BK_BYTES : Fld := ⟨0xB9C, 0, 0, 9, 2⟩
/-- R332. -/ def F.BK_BUSY : Fld := ⟨0xB9C, 0, 0, 10, 10⟩
/-- R332. -/ def F.BK_STATUS : Fld := ⟨0xB9C, 0, 0, 23, 16⟩
/-- R347. -/ def F.RIBBONNODE_REBUILT : Fld := ⟨0x330, 0, 0, 0, 0⟩
/-- R347. -/ def F.PATCHNODE_REBUILT : Fld := ⟨0xC30, 0, 0, 0, 0⟩
/-- R347. -/ def F.DEVNODE_REBUILT : Fld := ⟨0x830, 0, 0, 0, 0⟩
/-- R347. -/ def F.RIBBONNODE_REB_STITCH : Fld := ⟨0x334, 0, 0, 31, 0⟩
/-- R347. -/ def F.PATCHNODE_REB_STITCH : Fld := ⟨0xC34, 0, 0, 31, 0⟩
/-- R347. -/ def F.DEVNODE_REB_STITCH : Fld := ⟨0x834, 0, 0, 31, 0⟩
/-- R347. -/ def F.DISC : Fld := ⟨0x380, 8, 0, 0, 0⟩
/-- R347. -/ def F.DISC_STITCH : Fld := ⟨0x384, 8, 0, 31, 0⟩
/-- R356. -/ def F.BOLT_RUNOUT : Fld := ⟨0x0, 0, 0, 0, 0⟩
/-- R356. -/ def F.BOLT_PATROL_S : Fld := ⟨0x0, 0, 0, 27, 16⟩
/-- R356. -/ def F.BOLT_DEPTH : Fld := ⟨0x4, 0, 0, 15, 0⟩
/-- R356. -/ def F.BOLT_LEAK_MS : Fld := ⟨0x4, 0, 0, 31, 16⟩
/-- R356. -/ def F.BOLT_LEVEL : Fld := ⟨0x8, 0, 0, 15, 0⟩
/-- R356. -/ def F.BOLT_OVF : Fld := ⟨0x8, 0, 0, 16, 16⟩
/-- R356. -/ def F.BOLT_REKEYING : Fld := ⟨0x8, 0, 0, 17, 17⟩
/-- R356. -/ def F.BOLT_REKEY_REGION : Fld := ⟨0x8, 0, 0, 22, 18⟩
/-- R356. -/ def F.BOLT_DEC_SPARE : Fld := ⟨0x8, 0, 0, 23, 23⟩
/-- R356. -/ def F.BOLT_OUT : Fld := ⟨0x8, 0, 0, 24, 24⟩
/-- R356. -/ def F.BOLT_CORR : Fld := ⟨0xC, 0, 0, 31, 0⟩
/-- R356. -/ def F.BOLT_UNCORR : Fld := ⟨0x10, 0, 0, 15, 0⟩
/-- R356. -/ def F.BOLT_ROWS_LEFT : Fld := ⟨0x10, 0, 0, 26, 16⟩
/-- R356. -/ def F.BOLT_ERR_LINE : Fld := ⟨0x14, 0, 0, 24, 0⟩
/-- R356. -/ def F.BOLT_ERR_UNC : Fld := ⟨0x14, 0, 0, 25, 25⟩
/-- R356. -/ def F.BOLT_WR_POISON : Fld := ⟨0x18, 0, 0, 15, 0⟩
/-- R356. -/ def F.BOLT_REKEYS : Fld := ⟨0x18, 0, 0, 31, 16⟩
/-- R356. -/ def F.BOLT_EPOCH : Fld := ⟨0x40, 4, 0, 15, 0⟩
/-- R356. -/ def F.BOLT_CTR_HI : Fld := ⟨0x40, 4, 0, 27, 16⟩
/-- R356. -/ def F.BOLT_REKEY : Fld := ⟨0x40, 4, 0, 28, 28⟩
/-- R356. -/ def F.BOLT_WIN_WORD : Fld := ⟨0x100, 0, 0, 27, 0⟩
/-- R356. -/ def F.BOLT_WIN_DATA_LO : Fld := ⟨0x104, 0, 0, 31, 0⟩
/-- R356. -/ def F.BOLT_WIN_DATA_HI : Fld := ⟨0x108, 0, 0, 31, 0⟩
/-- R356. -/ def F.BOLT_WIN_GO : Fld := ⟨0x10C, 0, 0, 0, 0⟩
/-- R356. -/ def F.BOLT_WIN_WRITE : Fld := ⟨0x10C, 0, 0, 1, 1⟩
/-- R356. -/ def F.BOLT_WIN_BYTES : Fld := ⟨0x10C, 0, 0, 9, 2⟩
/-- R356. -/ def F.BOLT_WIN_BUSY : Fld := ⟨0x10C, 0, 0, 10, 10⟩
/-- R356. -/ def F.BOLT_WIN_STATUS : Fld := ⟨0x10C, 0, 0, 23, 16⟩
/-- R359. -/ def F.HALT_HALTED : Fld := ⟨0x20, 0, 0, 0, 0⟩
/-- R359. -/ def F.HALT_CAUSE : Fld := ⟨0x20, 0, 0, 3, 1⟩
/-- R359. -/ def F.HALT_SOURCE : Fld := ⟨0x20, 0, 0, 9, 4⟩
/-- R359. -/ def F.HALT_H_STITCH_LO : Fld := ⟨0x24, 0, 0, 31, 0⟩
/-- R359. -/ def F.HALT_H_STITCH_HI : Fld := ⟨0x28, 0, 0, 31, 0⟩
/-- R359. -/ def F.HALT_H_LINE : Fld := ⟨0x2C, 0, 0, 24, 0⟩
/-- R369. -/ def F.SP_BASE_LO : Fld := ⟨0x100, 0x20, 0, 31, 0⟩
/-- R369. -/ def F.SP_BASE_HI : Fld := ⟨0x104, 0x20, 0, 31, 0⟩
/-- R369. -/ def F.SP_DEPTH : Fld := ⟨0x108, 0x20, 0, 12, 0⟩
/-- R369. -/ def F.SP_EN : Fld := ⟨0x10C, 0x20, 0, 0, 0⟩
/-- R369. -/ def F.SP_CI : Fld := ⟨0x110, 0x20, 0, 11, 0⟩
/-- R369. -/ def F.SP_PI : Fld := ⟨0x110, 0x20, 0, 27, 16⟩
/-- R369. -/ def F.SP_SEQ_NEXT : Fld := ⟨0x114, 0x20, 0, 15, 0⟩
/-- R369. -/ def F.SP_PENDING : Fld := ⟨0x114, 0x20, 0, 24, 16⟩
/-- R369. -/ def F.SP_OVERRUN : Fld := ⟨0x118, 0x20, 0, 15, 0⟩
/-- R369. -/ def F.SP_BAD_RELEASE : Fld := ⟨0x118, 0x20, 0, 31, 16⟩
/-- R369. -/ def F.SP_DMA_ERR : Fld := ⟨0x11C, 0x20, 0, 15, 0⟩
/-- R388. -/ def F.CH_STATE : Fld := ⟨0x400, 0x10, 0, 1, 0⟩
/-- R388. -/ def F.CH_DEVICE : Fld := ⟨0x400, 0x10, 0, 7, 2⟩
/-- R388. -/ def F.CH_LPATCH : Fld := ⟨0x400, 0x10, 0, 11, 8⟩
/-- R388. -/ def F.CH_KIND : Fld := ⟨0x400, 0x10, 0, 12, 12⟩
/-- R388. -/ def F.CH_SENT : Fld := ⟨0x404, 0x10, 0, 31, 0⟩
/-- R388. -/ def F.CH_CONSUMED : Fld := ⟨0x408, 0x10, 0, 31, 0⟩
/-- R388. -/ def F.CH_SKIPPED : Fld := ⟨0x40C, 0x10, 0, 15, 0⟩
/-- R388. -/ def F.CH_DAMAGED : Fld := ⟨0x40C, 0x10, 0, 31, 16⟩
/-- R394. -/ def F.HOST_SPEED : Fld := ⟨0x0, 0, 0, 2, 0⟩
/-- R394. -/ def F.HOST_WIDTH : Fld := ⟨0x0, 0, 0, 7, 3⟩
/-- R394. -/ def F.HOST_FLIT : Fld := ⟨0x0, 0, 0, 8, 8⟩
/-- R394. -/ def F.HOST_DL_UP : Fld := ⟨0x0, 0, 0, 9, 9⟩
/-- R394. -/ def F.HOST_DISP_MAX : Fld := ⟨0x4, 0, 0, 4, 0⟩
/-- R394. -/ def F.HOST_WIN_CA : Fld := ⟨0x40, 0, 0, 15, 0⟩
/-- R394. -/ def F.HOST_WIN_TIMEOUT : Fld := ⟨0x40, 0, 0, 31, 16⟩
/-- R394. -/ def F.HOST_WIN_UR : Fld := ⟨0x44, 0, 0, 15, 0⟩
/-- R420. -/ def F.SEAM_EN : Fld := ⟨0x0, 0, 0, 0, 0⟩
/-- R420. -/ def F.SEAM_RETRAIN : Fld := ⟨0x0, 0, 0, 1, 1⟩
/-- R420. -/ def F.SEAM_LSTATE : Fld := ⟨0x4, 0, 0, 2, 0⟩
/-- R420. -/ def F.SEAM_PEER_DEV : Fld := ⟨0x4, 0, 0, 13, 8⟩
/-- R420. -/ def F.SEAM_PEER_SEAM : Fld := ⟨0x4, 0, 0, 18, 16⟩
/-- R420. -/ def F.SEAM_ROLE : Fld := ⟨0x4, 0, 0, 20, 19⟩
/-- R420. -/ def F.SEAM_FAIL_CAUSE : Fld := ⟨0x4, 0, 0, 24, 21⟩
/-- R420. -/ def F.SEAM_RTT : Fld := ⟨0x8, 0, 0, 19, 0⟩
/-- R420. -/ def F.SEAM_ONEWAY : Fld := ⟨0xC, 0, 0, 15, 0⟩
/-- R420. -/ def F.SEAM_PHASE_ERR : Fld := ⟨0x10, 0, 0, 15, 0⟩
/-- R420. -/ def F.SEAM_GEN : Fld := ⟨0x14, 0, 0, 28, 0⟩
/-- R420. -/ def F.SEAM_CW_CORR : Fld := ⟨0x18, 0, 0, 15, 0⟩
/-- R420. -/ def F.SEAM_CW_UNCORR : Fld := ⟨0x18, 0, 0, 31, 16⟩
/-- R420. -/ def F.SEAM_DOWNS : Fld := ⟨0x1C, 0, 0, 15, 0⟩
/-- R421. -/ def F.SYS_GO : Fld := ⟨0xA00, 0, 0, 0, 0⟩
/-- R421. -/ def F.SYS_SYSMODE_ON : Fld := ⟨0xA00, 0, 0, 1, 1⟩
/-- R421. -/ def F.SYS_D_MIN : Fld := ⟨0xA00, 0, 0, 15, 8⟩
/-- R421. -/ def F.SYS_STATE : Fld := ⟨0xA04, 0, 0, 2, 0⟩
/-- R421. -/ def F.SYS_HEAD : Fld := ⟨0xA04, 0, 0, 3, 3⟩
/-- R421. -/ def F.SYS_DEVNUM : Fld := ⟨0xA04, 0, 0, 9, 4⟩
/-- R421. -/ def F.SYS_COUNT : Fld := ⟨0xA04, 0, 0, 16, 10⟩
/-- R421. -/ def F.SYS_SYSMODE : Fld := ⟨0xA04, 0, 0, 17, 17⟩
/-- R421. -/ def F.SYS_D_SHORT : Fld := ⟨0xA04, 0, 0, 18, 18⟩
/-- R421. -/ def F.SYS_DEPTH : Fld := ⟨0xA04, 0, 0, 24, 19⟩
/-- R421. -/ def F.SYS_WIDE : Fld := ⟨0xA04, 0, 0, 25, 25⟩
/-- R421. -/ def F.SYS_D_CALC : Fld := ⟨0xA08, 0, 0, 7, 0⟩
/-- R421. -/ def F.SYS_L_MAX : Fld := ⟨0xA08, 0, 0, 31, 16⟩
/-- R421. -/ def F.SYS_CHAIN_IN : Fld := ⟨0xA0C, 0, 0, 2, 0⟩
/-- R421. -/ def F.SYS_CHAIN_OUT : Fld := ⟨0xA0C, 0, 0, 6, 4⟩
/-- R421. -/ def F.SYS_CHAIN_POS : Fld := ⟨0xA0C, 0, 0, 13, 8⟩
/-- R421. -/ def F.SYS_PRI : Fld := ⟨0xB00, 4, 0, 2, 0⟩
/-- R421. -/ def F.SYS_ALT : Fld := ⟨0xB00, 4, 0, 5, 3⟩
/-- R421. -/ def F.SYS_HOPS : Fld := ⟨0xB00, 4, 0, 11, 6⟩
/-- R421. -/ def F.SYS_HALTED : Fld := ⟨0xB00, 4, 0, 12, 12⟩
/-- R421. -/ def F.SYS_ABSENT : Fld := ⟨0xB00, 4, 0, 13, 13⟩
/-- R421. -/ def F.SYS_LAT : Fld := ⟨0xB00, 4, 0, 29, 14⟩
/-- R434. -/ def F.DKEY_STATE : Fld := ⟨0x30, 0, 0, 1, 0⟩
/-- R434. -/ def F.PEND_LCS : Fld := ⟨0x30, 0, 0, 4, 2⟩
/-- R434. -/ def F.DKEY_ZERO : Fld := ⟨0x30, 0, 0, 5, 5⟩
/-- R434. -/ def F.DKEY_KCV : Fld := ⟨0x34, 0, 0, 31, 0⟩
/-- R456. -/ def F.CFG_FALLBACK : Fld := ⟨0x0, 0, 0, 0, 0⟩
/-- R456. -/ def F.CFG_FB_SLOT : Fld := ⟨0x0, 0, 0, 3, 1⟩
/-- R456. -/ def F.CFG_STATE : Fld := ⟨0x4, 0, 0, 1, 0⟩
/-- R456. -/ def F.CFG_SOURCE : Fld := ⟨0x4, 0, 0, 3, 2⟩
/-- R456. -/ def F.CFG_CAUSE : Fld := ⟨0x4, 0, 0, 7, 4⟩
/-- R456. -/ def F.CFG_LAST_STATUS : Fld := ⟨0x4, 0, 0, 15, 8⟩
/-- R456. -/ def F.CFG_FALLBACK_USED : Fld := ⟨0x4, 0, 0, 16, 16⟩
/-- R456. -/ def F.CFG_FRAMES : Fld := ⟨0x8, 0, 0, 31, 0⟩
/-- R456. -/ def F.CFG_RETRIES : Fld := ⟨0xC, 0, 0, 7, 0⟩
/-- R456. -/ def F.CFG_PASSED : Fld := ⟨0xC, 0, 0, 15, 8⟩
/-- R456. -/ def F.CFG_DISCARDED : Fld := ⟨0xC, 0, 0, 23, 16⟩
/-- R456. -/ def F.CFG_CHAIN_BUSY : Fld := ⟨0xC, 0, 0, 31, 24⟩
/-- R456. -/ def F.CFG_SSTATE : Fld := ⟨0x40, 4, 0, 1, 0⟩
/-- R456. -/ def F.CFG_SIZE_MIB : Fld := ⟨0x40, 4, 0, 14, 8⟩
/-- R456. -/ def F.CFG_RES_MS : Fld := ⟨0x80, 0, 0, 7, 0⟩
/-- R456. -/ def F.CFG_STO_MS : Fld := ⟨0x80, 0, 0, 23, 8⟩
/-- R456. -/ def F.CFG_CORR : Fld := ⟨0x84, 0, 0, 15, 0⟩
/-- R456. -/ def F.CFG_UNC : Fld := ⟨0x84, 0, 0, 31, 16⟩
/-- R456. -/ def F.CFG_VOTE_FIX : Fld := ⟨0x88, 0, 0, 15, 0⟩
/-- R456. -/ def F.CFG_XFIX : Fld := ⟨0x88, 0, 0, 31, 16⟩
/-- R456. -/ def F.CFG_PASSES : Fld := ⟨0x8C, 0, 0, 15, 0⟩
/-- R456. -/ def F.CFG_DAMAGED : Fld := ⟨0x8C, 0, 0, 16, 16⟩
/-- R456. -/ def F.CFG_HALF : Fld := ⟨0xC0, 0, 0, 0, 0⟩
/-- R456. -/ def F.CFG_COMPACTING : Fld := ⟨0xC0, 0, 0, 1, 1⟩
/-- R456. -/ def F.CFG_GEN : Fld := ⟨0xC0, 0, 0, 31, 16⟩
/-- R456. -/ def F.CFG_FILL_KIB : Fld := ⟨0xC4, 0, 0, 13, 0⟩
/-- R456. -/ def F.CFG_STAGED : Fld := ⟨0xC4, 0, 0, 24, 16⟩
/-- R482. -/ def F.PQ_QUIET_LEN : Fld := ⟨0x30, 0, 0, 15, 0⟩
/-- R482. -/ def F.PQ_OPEN : Fld := ⟨0x30, 0, 0, 16, 16⟩
/-- R484. -/ def F.RES_PHASE : Fld := ⟨0x0, 0, 0, 1, 0⟩
/-- R484. -/ def F.RES_LPATCH : Fld := ⟨0x0, 0, 0, 5, 2⟩
/-- R484. -/ def F.RES_FROM : Fld := ⟨0x0, 0, 0, 10, 6⟩
/-- R484. -/ def F.RES_TO : Fld := ⟨0x0, 0, 0, 15, 11⟩
/-- R484. -/ def F.RES_CAUSE : Fld := ⟨0x0, 0, 0, 18, 16⟩
/-- R484. -/ def F.RES_QUEUED : Fld := ⟨0x0, 0, 0, 22, 19⟩
/-- R484. -/ def F.RES_LAST_FIRST : Fld := ⟨0x4, 0, 0, 31, 0⟩
/-- R484. -/ def F.RES_LAST_END : Fld := ⟨0x8, 0, 0, 31, 0⟩
/-- R484. -/ def F.RES_LAST_H : Fld := ⟨0xC, 0, 0, 5, 0⟩
/-- R484. -/ def F.RES_LAST_DRAIN : Fld := ⟨0xC, 0, 0, 12, 6⟩
/-- R484. -/ def F.RES_HANDOVERS : Fld := ⟨0xC, 0, 0, 31, 16⟩
/-- R485. -/ def F.RES_ROT_EN : Fld := ⟨0x10, 0, 0, 0, 0⟩
/-- R485. -/ def F.RES_ROT_QUIET : Fld := ⟨0x10, 0, 0, 1, 1⟩
/-- R485. -/ def F.RES_ROT_PERIOD : Fld := ⟨0x10, 0, 0, 13, 2⟩
/-- R485. -/ def F.RES_ROT_WAIT : Fld := ⟨0x10, 0, 0, 25, 14⟩
/-- R485. -/ def F.RES_ROT_NEXT : Fld := ⟨0x14, 0, 0, 3, 0⟩
/-- R485. -/ def F.RES_ROT_RIB : Fld := ⟨0x14, 0, 0, 8, 4⟩
/-- R485. -/ def F.RES_ROT_SKIPPED : Fld := ⟨0x14, 0, 0, 31, 20⟩
/-- R485. -/ def F.RES_LOG2P : Fld := ⟨0x18, 0, 0, 2, 0⟩
/-- R485. -/ def F.RES_POS_SPARE : Fld := ⟨0x20, 0, 0, 1, 0⟩
/-- R485. -/ def F.RES_POS_TEST : Fld := ⟨0x20, 0, 0, 3, 2⟩
/-- R485. -/ def F.RES_POS_RETIRED : Fld := ⟨0x20, 0, 0, 8, 4⟩
/-- R485. -/ def F.RES_RSP_SPARE : Fld := ⟨0x20, 0, 0, 10, 9⟩
/-- R485. -/ def F.RES_RSP_RETIRED : Fld := ⟨0x20, 0, 0, 15, 11⟩
/-- R485. -/ def F.RES_HC_RETRY : Fld := ⟨0x20, 0, 0, 31, 16⟩
/-- R486. -/ def F.BIST_STATUS : Fld := ⟨0x100, 0x10, 0, 7, 0⟩
/-- R486. -/ def F.BIST_PASS : Fld := ⟨0x100, 0x10, 0, 8, 8⟩
/-- R486. -/ def F.BIST_RUNS : Fld := ⟨0x100, 0x10, 0, 31, 16⟩
/-- R486. -/ def F.BIST_APPLIED : Fld := ⟨0x104, 0x10, 0, 31, 0⟩
/-- R486. -/ def F.BIST_SIG_LO : Fld := ⟨0x108, 0x10, 0, 31, 0⟩
/-- R486. -/ def F.BIST_SIG_HI : Fld := ⟨0x10C, 0x10, 0, 31, 0⟩
/-- R487. -/ def F.MARCH_STATUS : Fld := ⟨0x300, 0, 0, 7, 0⟩
/-- R487. -/ def F.MARCH_UNIT : Fld := ⟨0x300, 0, 0, 8, 8⟩
/-- R487. -/ def F.MARCH_BANK : Fld := ⟨0x300, 0, 0, 11, 9⟩
/-- R487. -/ def F.MARCH_LPATCH : Fld := ⟨0x300, 0, 0, 15, 12⟩
/-- R487. -/ def F.MARCH_FAILED : Fld := ⟨0x300, 0, 0, 16, 16⟩
/-- R487. -/ def F.MARCH_FAIL_ADDR : Fld := ⟨0x304, 0, 0, 31, 0⟩
/-- R487. -/ def F.MARCH_FAIL_BIT : Fld := ⟨0x308, 0, 0, 9, 0⟩
/-- R487. -/ def F.MARCH_ROWS_USED : Fld := ⟨0x308, 0, 0, 23, 16⟩
/-- R487. -/ def F.MARCH_COLS_USED : Fld := ⟨0x308, 0, 0, 31, 24⟩
/-- R502. -/ def F.GATE_GATE : Fld := ⟨0x100, 0, 0, 6, 0⟩
/-- R502. -/ def F.GATE_CLOSE : Fld := ⟨0x100, 0, 0, 7, 7⟩
/-- R502. -/ def F.GATE_GO : Fld := ⟨0x100, 0, 0, 8, 8⟩
/-- R502. -/ def F.GATE_STATUS : Fld := ⟨0x104, 0, 0, 7, 0⟩
/-- R502. -/ def F.GATE_HELD_GATE : Fld := ⟨0x104, 0, 0, 14, 8⟩
/-- R502. -/ def F.GATE_OPEN : Fld := ⟨0x110, 4, 0, 31, 0⟩
/-- R503. -/ def F.CLK_STRAP : Fld := ⟨0x0, 0, 0, 0, 0⟩
/-- R503. -/ def F.CLK_SOURCE : Fld := ⟨0x0, 0, 0, 2, 1⟩
/-- R503. -/ def F.CLK_STABLE : Fld := ⟨0x0, 0, 0, 3, 3⟩
/-- R503. -/ def F.CLK_LOCKED : Fld := ⟨0x0, 0, 0, 4, 4⟩
/-- R503. -/ def F.CLK_SLEWING : Fld := ⟨0x0, 0, 0, 5, 5⟩
/-- R503. -/ def F.CLK_STOPPED_REF : Fld := ⟨0x0, 0, 0, 6, 6⟩
/-- R503. -/ def F.CLK_LAST_COUNT : Fld := ⟨0x4, 0, 0, 17, 0⟩
/-- R503. -/ def F.CLK_LOSSES : Fld := ⟨0x8, 0, 0, 15, 0⟩
/-- R503. -/ def F.CLK_DRIFT_WIN : Fld := ⟨0x8, 0, 0, 31, 16⟩
/-- R503. -/ def F.CLK_FORCED_SW : Fld := ⟨0xC, 0, 0, 15, 0⟩
/-- R505. -/ def F.REFO_EN : Fld := ⟨0x200, 8, 0, 0, 0⟩
/-- R505. -/ def F.REFO_FREQ : Fld := ⟨0x200, 8, 0, 2, 1⟩
/-- R505. -/ def F.REFO_SSC : Fld := ⟨0x200, 8, 0, 3, 3⟩
/-- R505. -/ def F.REFO_HOLD_DEG : Fld := ⟨0x200, 8, 0, 4, 4⟩
/-- R505. -/ def F.REFO_DEPTH : Fld := ⟨0x200, 8, 0, 17, 5⟩
/-- R505. -/ def F.REFO_RATE : Fld := ⟨0x204, 8, 0, 8, 0⟩
/-- R505. -/ def F.REFO_ACTIVE : Fld := ⟨0x204, 8, 0, 9, 9⟩
/-- R514. -/ def F.HK_T_DIODE : Fld := ⟨0x0, 0x10, 0, 11, 0⟩
/-- R514. -/ def F.HK_T_INF : Fld := ⟨0x0, 0x10, 0, 27, 16⟩
/-- R514. -/ def F.HK_T_EFF : Fld := ⟨0x4, 0x10, 0, 11, 0⟩
/-- R514. -/ def F.HK_BAND : Fld := ⟨0x4, 0x10, 0, 13, 12⟩
/-- R514. -/ def F.HK_FAST : Fld := ⟨0x4, 0x10, 0, 14, 14⟩
/-- R514. -/ def F.HK_P_LAYER : Fld := ⟨0x4, 0x10, 0, 31, 16⟩
/-- R514. -/ def F.HK_THETA : Fld := ⟨0x8, 0x10, 0, 15, 0⟩
/-- R514. -/ def F.HK_T_PEAK : Fld := ⟨0xC, 0x10, 0, 11, 0⟩
/-- R514. -/ def F.HK_STACK_PWR : Fld := ⟨0x100, 0, 0, 15, 0⟩
/-- R514. -/ def F.HK_PEAK_PWR : Fld := ⟨0x100, 0, 0, 31, 16⟩
/-- R514. -/ def F.HK_CAUSE : Fld := ⟨0x104, 0, 0, 1, 0⟩
/-- R514. -/ def F.HK_LAYER : Fld := ⟨0x104, 0, 0, 4, 2⟩
/-- R514. -/ def F.HK_LATCHED : Fld := ⟨0x104, 0, 0, 5, 5⟩
/-- R514. -/ def F.HK_STOPS : Fld := ⟨0x104, 0, 0, 31, 16⟩
/-- R514. -/ def F.HK_STOP_STITCH : Fld := ⟨0x108, 0, 0, 31, 0⟩
/-- R519. -/ def F.ST_PHASE : Fld := ⟨0xC00, 0, 0, 3, 0⟩
/-- R519. -/ def F.ST_FAIL : Fld := ⟨0xC00, 0, 0, 5, 4⟩
/-- R519. -/ def F.ST_FAIL_LAYER : Fld := ⟨0xC00, 0, 0, 8, 6⟩
/-- R519. -/ def F.ST_LAST_START : Fld := ⟨0xC00, 0, 0, 11, 9⟩
/-- R519. -/ def F.ST_INTOSC_START : Fld := ⟨0xC00, 0, 0, 12, 12⟩
/-- R519. -/ def F.ST_T_RELEASE : Fld := ⟨0xC04, 0, 0, 19, 0⟩
/-- R519. -/ def F.ST_STARTS : Fld := ⟨0xC08, 0, 0, 15, 0⟩
/-- R530. -/ def F.LR_LAYERS : Fld := ⟨0xC10, 0, 0, 7, 0⟩
/-- R530. -/ def F.LR_PEND : Fld := ⟨0xC10, 0, 0, 15, 8⟩
/-- R530. -/ def F.LR_DONE : Fld := ⟨0xC10, 0, 0, 23, 16⟩
/-- R530. -/ def F.LR_SYS_RESET : Fld := ⟨0xC10, 0, 0, 24, 24⟩
/-- R535. -/ def F.JK_SWAP : Fld := ⟨0x0, 0, 0, 0, 0⟩
/-- R535. -/ def F.JK_ALLOW_FULL : Fld := ⟨0x0, 0, 0, 1, 1⟩
/-- R535. -/ def F.JK_ALLOW_LAYER : Fld := ⟨0x0, 0, 0, 2, 2⟩
/-- R535. -/ def F.JK_SWAP_WAIT : Fld := ⟨0x0, 0, 0, 15, 8⟩
/-- R535. -/ def F.JK_ACTIVE : Fld := ⟨0x4, 0, 0, 0, 0⟩
/-- R535. -/ def F.JK_VALID0 : Fld := ⟨0x4, 0, 0, 1, 1⟩
/-- R535. -/ def F.JK_VALID1 : Fld := ⟨0x4, 0, 0, 2, 2⟩
/-- R535. -/ def F.JK_SWAP_PEND : Fld := ⟨0x4, 0, 0, 3, 3⟩
/-- R535. -/ def F.JK_BLANK : Fld := ⟨0x4, 0, 0, 4, 4⟩
/-- R535. -/ def F.JK_SWAP_STATUS : Fld := ⟨0x4, 0, 0, 15, 8⟩
/-- R535. -/ def F.JK_SWAPS : Fld := ⟨0x4, 0, 0, 31, 16⟩
/-- R535. -/ def F.JK_TO_JACK : Fld := ⟨0x10, 4, 0, 31, 0⟩
/-- R535. -/ def F.JK_FROM_JACK : Fld := ⟨0x30, 4, 0, 31, 0⟩
/-- R543. -/ def F.IDENT : Fld := ⟨0x0, 0, 0, 31, 0⟩
/-- R543. -/ def F.STEPPING : Fld := ⟨0x4, 0, 0, 3, 0⟩
/-- R543. -/ def F.LCS : Fld := ⟨0x0, 0, 0, 2, 0⟩
/-- R544. -/ def F.DIAG_INDEX : Fld := ⟨0x20, 0, 0, 11, 0⟩
/-- R544. -/ def F.DIAG_PAGE : Fld := ⟨0x20, 0, 0, 15, 12⟩
/-- R544. -/ def F.DIAG_AREA : Fld := ⟨0x20, 0, 0, 16, 16⟩
/-- R544. -/ def F.DIAG_DATA : Fld := ⟨0x24, 0, 0, 31, 0⟩
/-- R544. -/ def F.DIAG_LENGTH : Fld := ⟨0x28, 0, 0, 12, 0⟩
/-- R59. -/ def F.STITCH_LO : Fld := ⟨0x110, 0, 0, 31, 0⟩
/-- R59. -/ def F.STITCH_HI : Fld := ⟨0x114, 0, 0, 31, 0⟩
/-- R59. -/ def F.OFFSET_NOW : Fld := ⟨0x118, 0, 0, 12, 0⟩
/-- R66. -/ def F.EP_NEWEST : Fld := ⟨0x130, 0, 0, 2, 0⟩
/-- R156. -/ def F.LN_RATE_KBPS : Fld := ⟨0x104, 0x40, 0, 26, 0⟩
/-- R215. -/ def F.DIR_PLANE_ID : Fld := ⟨0x110, 4, 0, 15, 0⟩
/-- R215. -/ def F.DIR_VALID : Fld := ⟨0x110, 4, 0, 31, 31⟩
/-- R317. -/ def F.LOG_MASK_LO : Fld := ⟨0x200, 0, 0, 31, 0⟩
/-- R317. -/ def F.LOG_MASK_HI : Fld := ⟨0x204, 0, 0, 31, 0⟩
/-- R317. -/ def F.LOG_NEWEST : Fld := ⟨0x208, 0, 0, 4, 0⟩
/-- R317. -/ def F.LOG_LOST : Fld := ⟨0x208, 0, 0, 31, 16⟩
/-- R173. -/ def F.LANE_CW_LO : Fld := ⟨0x400, 0x40, 0, 31, 0⟩
/-- R173. -/ def F.LANE_CW_HI : Fld := ⟨0x404, 0x40, 0, 31, 0⟩
/-- R173. -/ def F.LANE_CW_CORR : Fld := ⟨0x408, 0x40, 0, 31, 0⟩
/-- R173. -/ def F.LANE_CW_UNCORR : Fld := ⟨0x40C, 0x40, 0, 31, 0⟩
/-- R173. -/ def F.LANE_SYM_LO : Fld := ⟨0x410, 0x40, 0, 31, 0⟩
/-- R173. -/ def F.LANE_SYM_HI : Fld := ⟨0x414, 0x40, 0, 31, 0⟩
/-- R173. -/ def F.LANE_CODE_ERR : Fld := ⟨0x418, 0x40, 0, 31, 0⟩
/-- R173. -/ def F.LANE_LOL_CNT : Fld := ⟨0x41C, 0x40, 0, 15, 0⟩
/-- R173. -/ def F.LANE_IDLE_CNT : Fld := ⟨0x41C, 0x40, 0, 31, 16⟩
/-- R173. -/ def F.LANE_EB_OVF : Fld := ⟨0x420, 0x40, 0, 15, 0⟩
/-- R173. -/ def F.LANE_TX_UNDERRUN : Fld := ⟨0x420, 0x40, 0, 31, 16⟩
/-- R346. -/ def F.RNODE_CW_LO : Fld := ⟨0x300, 0, 0, 31, 0⟩
/-- R346. -/ def F.PNODE_CW_LO : Fld := ⟨0xC00, 0, 0, 31, 0⟩
/-- R346. -/ def F.DNODE_CW_LO : Fld := ⟨0x800, 0, 0, 31, 0⟩
/-- R346. -/ def F.RNODE_CW_HI : Fld := ⟨0x304, 0, 0, 31, 0⟩
/-- R346. -/ def F.PNODE_CW_HI : Fld := ⟨0xC04, 0, 0, 31, 0⟩
/-- R346. -/ def F.DNODE_CW_HI : Fld := ⟨0x804, 0, 0, 31, 0⟩
/-- R346. -/ def F.RNODE_CW_CORR : Fld := ⟨0x308, 0, 0, 31, 0⟩
/-- R346. -/ def F.PNODE_CW_CORR : Fld := ⟨0xC08, 0, 0, 31, 0⟩
/-- R346. -/ def F.DNODE_CW_CORR : Fld := ⟨0x808, 0, 0, 31, 0⟩
/-- R346. -/ def F.RNODE_CW_UNCORR : Fld := ⟨0x30C, 0, 0, 31, 0⟩
/-- R346. -/ def F.PNODE_CW_UNCORR : Fld := ⟨0xC0C, 0, 0, 31, 0⟩
/-- R346. -/ def F.DNODE_CW_UNCORR : Fld := ⟨0x80C, 0, 0, 31, 0⟩
/-- R346. -/ def F.RNODE_SYM_LO : Fld := ⟨0x310, 0, 0, 31, 0⟩
/-- R346. -/ def F.PNODE_SYM_LO : Fld := ⟨0xC10, 0, 0, 31, 0⟩
/-- R346. -/ def F.DNODE_SYM_LO : Fld := ⟨0x810, 0, 0, 31, 0⟩
/-- R346. -/ def F.RNODE_SYM_HI : Fld := ⟨0x314, 0, 0, 31, 0⟩
/-- R346. -/ def F.PNODE_SYM_HI : Fld := ⟨0xC14, 0, 0, 31, 0⟩
/-- R346. -/ def F.DNODE_SYM_HI : Fld := ⟨0x814, 0, 0, 31, 0⟩
/-- R346. -/ def F.RNODE_CODE_ERR : Fld := ⟨0x318, 0, 0, 31, 0⟩
/-- R346. -/ def F.PNODE_CODE_ERR : Fld := ⟨0xC18, 0, 0, 31, 0⟩
/-- R346. -/ def F.DNODE_CODE_ERR : Fld := ⟨0x818, 0, 0, 31, 0⟩
/-- R346. -/ def F.RNODE_LOL_CNT : Fld := ⟨0x31C, 0, 0, 15, 0⟩
/-- R346. -/ def F.PNODE_LOL_CNT : Fld := ⟨0xC1C, 0, 0, 15, 0⟩
/-- R346. -/ def F.DNODE_LOL_CNT : Fld := ⟨0x81C, 0, 0, 15, 0⟩
/-- R346. -/ def F.RNODE_IDLE_CNT : Fld := ⟨0x31C, 0, 0, 31, 16⟩
/-- R346. -/ def F.PNODE_IDLE_CNT : Fld := ⟨0xC1C, 0, 0, 31, 16⟩
/-- R346. -/ def F.DNODE_IDLE_CNT : Fld := ⟨0x81C, 0, 0, 31, 16⟩
/-- R346. -/ def F.RNODE_EB_OVF : Fld := ⟨0x320, 0, 0, 15, 0⟩
/-- R346. -/ def F.PNODE_EB_OVF : Fld := ⟨0xC20, 0, 0, 15, 0⟩
/-- R346. -/ def F.DNODE_EB_OVF : Fld := ⟨0x820, 0, 0, 15, 0⟩
/-- R346. -/ def F.RNODE_TX_UNDERRUN : Fld := ⟨0x320, 0, 0, 31, 16⟩
/-- R346. -/ def F.PNODE_TX_UNDERRUN : Fld := ⟨0xC20, 0, 0, 31, 16⟩
/-- R346. -/ def F.DNODE_TX_UNDERRUN : Fld := ⟨0x820, 0, 0, 31, 16⟩
/-- R174. -/ def F.LANE_HIST : Fld := ⟨0x600, 0x40, 4, 31, 0⟩
/-- R267. -/ def F.CCNT_KEPT : Fld := ⟨0xD00, 0x20, 0, 31, 0⟩
/-- R267. -/ def F.CCNT_HEADED : Fld := ⟨0xD04, 0x20, 0, 31, 0⟩
/-- R267. -/ def F.CCNT_COUNTED : Fld := ⟨0xD08, 0x20, 0, 31, 0⟩
/-- R267. -/ def F.CCNT_DROPPED : Fld := ⟨0xD0C, 0x20, 0, 31, 0⟩
/-- R267. -/ def F.CCNT_DEFAULTED : Fld := ⟨0xD10, 0x20, 0, 31, 0⟩
/-- R267. -/ def F.CCNT_RATE_LOST : Fld := ⟨0xD14, 0x20, 0, 31, 0⟩
/-- R267. -/ def F.CCNT_BYTES_LO : Fld := ⟨0xD18, 0x20, 0, 31, 0⟩
/-- R267. -/ def F.CCNT_BYTES_HI : Fld := ⟨0xD1C, 0x20, 0, 31, 0⟩
/-- R486. -/ def F.RBIST_STATUS : Fld := ⟨0x280, 0x10, 0, 7, 0⟩
/-- R486. -/ def F.RBIST_PASS : Fld := ⟨0x280, 0x10, 0, 8, 8⟩
/-- R486. -/ def F.RBIST_RUNS : Fld := ⟨0x280, 0x10, 0, 31, 16⟩
/-- R486. -/ def F.RBIST_APPLIED : Fld := ⟨0x284, 0x10, 0, 31, 0⟩
/-- R486. -/ def F.RBIST_SIG_LO : Fld := ⟨0x288, 0x10, 0, 31, 0⟩
/-- R486. -/ def F.RBIST_SIG_HI : Fld := ⟨0x28C, 0x10, 0, 31, 0⟩
/-- R367. -/ def F.MSIX_ADDR_LO : Fld := ⟨0x800, 0x10, 0, 31, 0⟩
/-- R367. -/ def F.MSIX_ADDR_HI : Fld := ⟨0x804, 0x10, 0, 31, 0⟩
/-- R367. -/ def F.MSIX_DATA : Fld := ⟨0x808, 0x10, 0, 31, 0⟩
/-- R367. -/ def F.MSIX_CTRL : Fld := ⟨0x80C, 0x10, 0, 0, 0⟩
/-- R367. -/ def F.MSIX_PBA : Fld := ⟨0xC00, 4, 0, 31, 0⟩
/-- R544. -/ def F.HCDIAG_INDEX : Fld := ⟨0x680, 0, 0, 11, 0⟩
/-- R544. -/ def F.HCDIAG_PAGE : Fld := ⟨0x680, 0, 0, 15, 12⟩
/-- R544. -/ def F.HCDIAG_AREA : Fld := ⟨0x680, 0, 0, 16, 16⟩
/-- R544. -/ def F.HCDIAG_DATA : Fld := ⟨0x684, 0, 0, 31, 0⟩
/-- R544. -/ def F.HCDIAG_LENGTH : Fld := ⟨0x688, 0, 0, 12, 0⟩

/-- Reset value 0. -/
def nil0 : Nat → Nat → Nat := fun _ _ => 0

def rows_dev_0 : List RegRow := [
  ⟨.dev, F.LPM_PPOS, 16, 1, .ro, (fun _ i => if i ≤ 7 then i else i + 1), .any⟩,
  ⟨.dev, F.LPM_RIB_A, 16, 1, .rw, (fun _ i => 2 * i), .top 31 63⟩,
  ⟨.dev, F.LPM_RIB_B, 16, 1, .rw, (fun _ i => 2 * i + 1), .top 31 63⟩,
  ⟨.dev, F.LPM_PEND, 16, 1, .ro, nil0, .any⟩,
  ⟨.dev, F.LPM_HOVER, 16, 1, .ro, nil0, .any⟩,
  ⟨.dev, F.POS_STATE, 18, 1, .ro, (fun _ i => if i = 8 ∨ i = 17 then 1 else 0), .any⟩,
  ⟨.dev, F.POS_LPATCH, 18, 1, .ro, (fun _ i => if i ≤ 7 then i else if i = 8 ∨ i = 17 then 0 else i - 1), .any⟩,
  ⟨.dev, F.POS_CPL_EXH, 18, 1, .ro, nil0, .any⟩,
  ⟨.dev, F.POS_HALF, 18, 1, .ro, (fun _ i => if i ≤ 8 then 0 else 1), .any⟩,
  ⟨.dev, F.RMAP_RSP, 32, 1, .ro, (fun _ i => i), .any⟩,
  ⟨.dev, F.RMAP_LPATCH, 32, 1, .ro, (fun _ i => i / 2), .any⟩,
  ⟨.dev, F.RMAP_UNB, 32, 1, .ro, nil0, .any⟩,
  ⟨.dev, F.BND_SPARES_LEFT, 11, 1, .ro, nil0, .any⟩,
  ⟨.dev, F.BND_EXH, 11, 1, .ro, nil0, .any⟩,
  ⟨.dev, F.BND_FAULT, 11, 1, .w1c, nil0, .any⟩,
  ⟨.dev, F.BND_TRAINED, 11, 1, .ro, nil0, .any⟩,
  ⟨.dev, F.STC_N_REQ, 1, 1, .rw, (fun _ _ => 2), .range 1 128⟩,
  ⟨.dev, F.STC_N_NOW, 1, 1, .ro, (fun _ _ => 2), .any⟩,
  ⟨.dev, F.STC_PEND, 1, 1, .ro, nil0, .any⟩,
  ⟨.dev, F.BUD_B_NOW, 1, 1, .ro, (fun _ _ => 56), .any⟩,
  ⟨.dev, F.BUD_B_ADMIT, 1, 1, .ro, (fun _ _ => 56), .any⟩,
  ⟨.dev, F.EP_STITCH_LO, 8, 1, .ro, nil0, .any⟩,
  ⟨.dev, F.EP_STITCH_HI, 8, 1, .ro, nil0, .any⟩,
  ⟨.dev, F.EP_ROOT_LO, 8, 1, .ro, nil0, .any⟩,
  ⟨.dev, F.EP_ROOT_HI, 8, 1, .ro, nil0, .any⟩,
  ⟨.dev, F.EP_N, 8, 1, .ro, nil0, .any⟩,
  ⟨.dev, F.EP_VALID, 8, 1, .ro, nil0, .any⟩,
  ⟨.dev, F.HC_PSTATE, 16, 1, .ro, nil0, .any⟩,
  ⟨.dev, F.HC_ADMITTED, 16, 1, .ro, nil0, .any⟩,
  ⟨.dev, F.HC_WC, 16, 1, .ro, nil0, .any⟩,
  ⟨.dev, F.HC_WC_SUM, 1, 1, .ro, nil0, .any⟩,
  ⟨.dev, F.DEVNODE_REBUILT, 1, 1, .w1c, nil0, .any⟩,
  ⟨.dev, F.DEVNODE_REB_STITCH, 1, 1, .ro, nil0, .any⟩,
  ⟨.dev, F.SYS_GO, 1, 1, .wo, nil0, .any⟩,
  ⟨.dev, F.SYS_SYSMODE_ON, 1, 1, .rw, nil0, .any⟩,
  ⟨.dev, F.SYS_D_MIN, 1, 1, .rw, nil0, .any⟩,
  ⟨.dev, F.SYS_STATE, 1, 1, .ro, nil0, .any⟩,
  ⟨.dev, F.SYS_HEAD, 1, 1, .ro, (fun _ _ => 1), .any⟩,
  ⟨.dev, F.SYS_DEVNUM, 1, 1, .ro, nil0, .any⟩,
  ⟨.dev, F.SYS_COUNT, 1, 1, .ro, (fun _ _ => 1), .any⟩,
  ⟨.dev, F.SYS_SYSMODE, 1, 1, .ro, nil0, .any⟩,
  ⟨.dev, F.SYS_D_SHORT, 1, 1, .ro, nil0, .any⟩,
  ⟨.dev, F.SYS_DEPTH, 1, 1, .ro, nil0, .any⟩,
  ⟨.dev, F.SYS_WIDE, 1, 1, .ro, nil0, .any⟩,
  ⟨.dev, F.SYS_D_CALC, 1, 1, .ro, (fun _ _ => 1), .any⟩]

def rows_dev_1 : List RegRow := [
  ⟨.dev, F.SYS_L_MAX, 1, 1, .ro, nil0, .any⟩,
  ⟨.dev, F.SYS_CHAIN_IN, 1, 1, .rw, (fun _ _ => 7), .one 6 7⟩,
  ⟨.dev, F.SYS_CHAIN_OUT, 1, 1, .rw, (fun _ _ => 7), .one 6 7⟩,
  ⟨.dev, F.SYS_CHAIN_POS, 1, 1, .rw, nil0, .any⟩,
  ⟨.dev, F.SYS_PRI, 64, 1, .ro, (fun _ _ => 7), .any⟩,
  ⟨.dev, F.SYS_ALT, 64, 1, .ro, (fun _ _ => 7), .any⟩,
  ⟨.dev, F.SYS_HOPS, 64, 1, .ro, nil0, .any⟩,
  ⟨.dev, F.SYS_HALTED, 64, 1, .ro, nil0, .any⟩,
  ⟨.dev, F.SYS_ABSENT, 64, 1, .ro, nil0, .any⟩,
  ⟨.dev, F.SYS_LAT, 64, 1, .ro, nil0, .any⟩,
  ⟨.dev, F.ST_PHASE, 1, 1, .ro, nil0, .any⟩,
  ⟨.dev, F.ST_FAIL, 1, 1, .ro, nil0, .any⟩,
  ⟨.dev, F.ST_FAIL_LAYER, 1, 1, .ro, nil0, .any⟩,
  ⟨.dev, F.ST_LAST_START, 1, 1, .ro, nil0, .any⟩,
  ⟨.dev, F.ST_INTOSC_START, 1, 1, .ro, nil0, .any⟩,
  ⟨.dev, F.ST_T_RELEASE, 1, 1, .ro, nil0, .any⟩,
  ⟨.dev, F.ST_STARTS, 1, 1, .ro, nil0, .any⟩,
  ⟨.dev, F.LR_LAYERS, 1, 1, .wo, nil0, .any⟩,
  ⟨.dev, F.LR_PEND, 1, 1, .ro, nil0, .any⟩,
  ⟨.dev, F.LR_DONE, 1, 1, .w1c, nil0, .any⟩,
  ⟨.dev, F.LR_SYS_RESET, 1, 1, .wo, nil0, .any⟩,
  ⟨.dev, F.IDENT, 1, 1, .ro, (fun _ _ => 1280770646), .any⟩,
  ⟨.dev, F.STEPPING, 1, 1, .ro, (fun _ _ => 2), .any⟩,
  ⟨.dev, F.STITCH_LO, 1, 1, .ro, nil0, .any⟩,
  ⟨.dev, F.STITCH_HI, 1, 1, .ro, nil0, .any⟩,
  ⟨.dev, F.OFFSET_NOW, 1, 1, .ro, nil0, .any⟩,
  ⟨.dev, F.EP_NEWEST, 1, 1, .ro, nil0, .any⟩,
  ⟨.dev, F.DNODE_CW_LO, 1, 1, .ro, nil0, .any⟩,
  ⟨.dev, F.DNODE_CW_HI, 1, 1, .ro, nil0, .any⟩,
  ⟨.dev, F.DNODE_CW_CORR, 1, 1, .ro, nil0, .any⟩,
  ⟨.dev, F.DNODE_CW_UNCORR, 1, 1, .ro, nil0, .any⟩,
  ⟨.dev, F.DNODE_SYM_LO, 1, 1, .ro, nil0, .any⟩,
  ⟨.dev, F.DNODE_SYM_HI, 1, 1, .ro, nil0, .any⟩,
  ⟨.dev, F.DNODE_CODE_ERR, 1, 1, .ro, nil0, .any⟩,
  ⟨.dev, F.DNODE_LOL_CNT, 1, 1, .ro, nil0, .any⟩,
  ⟨.dev, F.DNODE_IDLE_CNT, 1, 1, .ro, nil0, .any⟩,
  ⟨.dev, F.DNODE_EB_OVF, 1, 1, .ro, nil0, .any⟩,
  ⟨.dev, F.DNODE_TX_UNDERRUN, 1, 1, .ro, nil0, .any⟩,
  ⟨.dev, F.HCDIAG_INDEX, 1, 1, .rw, nil0, .rule⟩,
  ⟨.dev, F.HCDIAG_PAGE, 1, 1, .rw, nil0, .any⟩,
  ⟨.dev, F.HCDIAG_AREA, 1, 1, .rw, nil0, .any⟩,
  ⟨.dev, F.HCDIAG_DATA, 1, 1, .ro, nil0, .any⟩,
  ⟨.dev, F.HCDIAG_LENGTH, 1, 1, .ro, nil0, .any⟩]

/-- The rows of one block. -/
def rows_dev : List RegRow := rows_dev_0 ++ rows_dev_1

def rows_sec_0 : List RegRow := [
  ⟨.sec, F.KEY_STATE, 1, 1, .ro, nil0, .any⟩,
  ⟨.sec, F.KEY_ATTEMPTS, 1, 1, .ro, nil0, .any⟩,
  ⟨.sec, F.KEY_COPIES, 1, 1, .ro, nil0, .any⟩,
  ⟨.sec, F.HALT_HALTED, 1, 1, .ro, nil0, .any⟩,
  ⟨.sec, F.HALT_CAUSE, 1, 1, .ro, nil0, .any⟩,
  ⟨.sec, F.HALT_SOURCE, 1, 1, .ro, nil0, .any⟩,
  ⟨.sec, F.HALT_H_STITCH_LO, 1, 1, .ro, nil0, .any⟩,
  ⟨.sec, F.HALT_H_STITCH_HI, 1, 1, .ro, nil0, .any⟩,
  ⟨.sec, F.HALT_H_LINE, 1, 1, .ro, nil0, .any⟩,
  ⟨.sec, F.DKEY_STATE, 1, 1, .ro, nil0, .any⟩,
  ⟨.sec, F.PEND_LCS, 1, 1, .ro, nil0, .any⟩,
  ⟨.sec, F.DKEY_ZERO, 1, 1, .ro, (fun _ _ => 1), .any⟩,
  ⟨.sec, F.DKEY_KCV, 1, 1, .ro, nil0, .any⟩,
  ⟨.sec, F.LCS, 1, 1, .ro, nil0, .any⟩]

/-- The rows of one block. -/
def rows_sec : List RegRow := rows_sec_0

def rows_clk_0 : List RegRow := [
  ⟨.clk, F.SYNC_MODE, 1, 1, .rw, nil0, .top 2 1⟩,
  ⟨.clk, F.SYNC_WINDOW, 1, 1, .rw, (fun _ _ => 200), .range 1 1000⟩,
  ⟨.clk, F.SYNC_EFFECTIVE, 1, 1, .ro, nil0, .any⟩,
  ⟨.clk, F.SYNC_LOCKED, 1, 1, .ro, nil0, .any⟩,
  ⟨.clk, F.SYNC_IN_HOLD, 1, 1, .ro, nil0, .any⟩,
  ⟨.clk, F.SYNC_REJECTS, 1, 1, .w1c, nil0, .any⟩,
  ⟨.clk, F.SYNC_EDGE_STITCH_LO, 1, 1, .ro, nil0, .any⟩,
  ⟨.clk, F.SYNC_EDGE_STITCH_HI, 1, 1, .ro, nil0, .any⟩,
  ⟨.clk, F.SYNC_EDGE_OFFSET, 1, 1, .ro, nil0, .any⟩,
  ⟨.clk, F.SYNC_ERR, 1, 1, .ro, nil0, .any⟩,
  ⟨.clk, F.SYNC_FREQ_ADJ, 1, 1, .ro, nil0, .any⟩,
  ⟨.clk, F.GATE_GATE, 1, 1, .rw, (fun _ _ => 127), .mid 115 126 127⟩,
  ⟨.clk, F.GATE_CLOSE, 1, 1, .rw, nil0, .any⟩,
  ⟨.clk, F.GATE_GO, 1, 1, .wo, nil0, .any⟩,
  ⟨.clk, F.GATE_STATUS, 1, 1, .ro, nil0, .any⟩,
  ⟨.clk, F.GATE_HELD_GATE, 1, 1, .ro, (fun _ _ => 127), .any⟩,
  ⟨.clk, F.GATE_OPEN, 4, 1, .ro, (fun _ i => if i = 3 then 524287 else 4294967295), .any⟩,
  ⟨.clk, F.CLK_STRAP, 1, 1, .ro, nil0, .any⟩,
  ⟨.clk, F.CLK_SOURCE, 1, 1, .ro, nil0, .any⟩,
  ⟨.clk, F.CLK_STABLE, 1, 1, .ro, nil0, .any⟩,
  ⟨.clk, F.CLK_LOCKED, 1, 1, .ro, nil0, .any⟩,
  ⟨.clk, F.CLK_SLEWING, 1, 1, .ro, nil0, .any⟩,
  ⟨.clk, F.CLK_STOPPED_REF, 1, 1, .w1c, nil0, .any⟩,
  ⟨.clk, F.CLK_LAST_COUNT, 1, 1, .ro, nil0, .any⟩,
  ⟨.clk, F.CLK_LOSSES, 1, 1, .rc, nil0, .any⟩,
  ⟨.clk, F.CLK_DRIFT_WIN, 1, 1, .rc, nil0, .any⟩,
  ⟨.clk, F.CLK_FORCED_SW, 1, 1, .rc, nil0, .any⟩,
  ⟨.clk, F.REFO_EN, 8, 1, .rw, nil0, .any⟩,
  ⟨.clk, F.REFO_FREQ, 8, 1, .rw, nil0, .top 2 0⟩,
  ⟨.clk, F.REFO_SSC, 8, 1, .rw, nil0, .any⟩,
  ⟨.clk, F.REFO_HOLD_DEG, 8, 1, .rw, nil0, .any⟩,
  ⟨.clk, F.REFO_DEPTH, 8, 1, .rw, nil0, .range 0 5000⟩,
  ⟨.clk, F.REFO_RATE, 8, 1, .rw, (fun _ _ => 315), .range 300 330⟩,
  ⟨.clk, F.REFO_ACTIVE, 8, 1, .ro, nil0, .any⟩]

/-- The rows of one block. -/
def rows_clk : List RegRow := rows_clk_0

def rows_patch_0 : List RegRow := [
  ⟨.patch, F.PSTATE, 1, 1, .ro, nil0, .any⟩,
  ⟨.patch, F.BANK, 1, 1, .ro, nil0, .any⟩,
  ⟨.patch, F.STAGED, 1, 1, .ro, nil0, .any⟩,
  ⟨.patch, F.ADMITTED, 1, 1, .ro, nil0, .any⟩,
  ⟨.patch, F.START_PEND, 1, 1, .ro, nil0, .any⟩,
  ⟨.patch, F.LIVE_PAGE, 1, 1, .ro, nil0, .any⟩,
  ⟨.patch, F.LAST_REFUSE, 1, 1, .ro, nil0, .any⟩,
  ⟨.patch, F.WC_MAIN, 1, 1, .ro, nil0, .any⟩,
  ⟨.patch, F.WC_EVENT, 1, 1, .ro, nil0, .any⟩,
  ⟨.patch, F.ABANDON, 1, 1, .rc, nil0, .any⟩,
  ⟨.patch, F.WINDOW_MISS, 1, 1, .rc, nil0, .any⟩,
  ⟨.patch, F.EVT_EN, 1, 1, .rw, nil0, .any⟩,
  ⟨.patch, F.EVT_IMM, 1, 1, .rw, nil0, .any⟩,
  ⟨.patch, F.EVT_PEND, 1, 1, .w1c, nil0, .any⟩,
  ⟨.patch, F.CV_DROP, 1, 1, .rc, nil0, .any⟩,
  ⟨.patch, F.POISON_RD, 1, 1, .rc, nil0, .any⟩,
  ⟨.patch, F.CONT_COUNT, 1, 1, .ro, nil0, .any⟩,
  ⟨.patch, F.CONT_LOST, 1, 1, .rc, nil0, .any⟩,
  ⟨.patch, F.CONT_DISABLED, 1, 1, .ro, nil0, .any⟩,
  ⟨.patch, F.CLOG_LINE, 16, 1, .ro, nil0, .any⟩,
  ⟨.patch, F.CLOG_HALF, 16, 1, .ro, nil0, .any⟩,
  ⟨.patch, F.CLOG_STATE, 16, 1, .ro, nil0, .any⟩,
  ⟨.patch, F.CLOG_RECUR, 16, 1, .ro, nil0, .any⟩,
  ⟨.patch, F.CLOG_STITCH, 16, 1, .ro, nil0, .any⟩,
  ⟨.patch, F.PLC_LOAD_SLOT, 1, 1, .rw, nil0, .top 5 5⟩,
  ⟨.patch, F.PLC_LOAD_GO, 1, 1, .wo, nil0, .any⟩,
  ⟨.patch, F.PLC_SWAP, 1, 1, .wo, nil0, .any⟩,
  ⟨.patch, F.PLC_SWAP_ON_TRIG, 1, 1, .rw, nil0, .any⟩,
  ⟨.patch, F.PLC_SWAP_LINE, 1, 1, .rw, nil0, .any⟩,
  ⟨.patch, F.PLS_ACTIVE_SRC, 1, 1, .ro, (fun _ _ => 7), .any⟩,
  ⟨.patch, F.PLS_SHADOW_SRC, 1, 1, .ro, (fun _ _ => 7), .any⟩,
  ⟨.patch, F.PLS_SHADOW_VALID, 1, 1, .ro, nil0, .any⟩,
  ⟨.patch, F.PLS_LOADING, 1, 1, .ro, nil0, .any⟩,
  ⟨.patch, F.PLS_SWAP_PEND, 1, 1, .ro, nil0, .any⟩,
  ⟨.patch, F.PLS_ARMED, 1, 1, .ro, nil0, .any⟩,
  ⟨.patch, F.PLS_LOAD_EMPTY, 1, 1, .ro, nil0, .any⟩,
  ⟨.patch, F.PLS_LOAD_BAD, 1, 1, .ro, nil0, .any⟩,
  ⟨.patch, F.PLS_LOAD_FRAMES, 1, 1, .ro, nil0, .any⟩,
  ⟨.patch, F.PLS_PLANE_SWAPS, 1, 1, .ro, nil0, .any⟩,
  ⟨.patch, F.QC_MODE, 8, 1, .rw, nil0, .top 2 0⟩,
  ⟨.patch, F.QC_ESIZE, 8, 1, .rw, nil0, .any⟩,
  ⟨.patch, F.QC_HIWAT, 8, 1, .rw, (fun _ _ => 1024), .range 1 1024⟩,
  ⟨.patch, F.QC_LEVEL, 8, 1, .ro, nil0, .any⟩,
  ⟨.patch, F.QC_OVF, 8, 1, .rc, nil0, .any⟩,
  ⟨.patch, F.QC_FULL, 8, 1, .ro, nil0, .any⟩]

def rows_patch_1 : List RegRow := [
  ⟨.patch, F.QC_EMPTY, 8, 1, .ro, (fun _ _ => 1), .any⟩,
  ⟨.patch, F.QC_HIGH, 8, 1, .ro, nil0, .any⟩,
  ⟨.patch, F.XCH_TXQ, 1, 1, .ro, nil0, .any⟩,
  ⟨.patch, F.XCH_RXQ, 1, 1, .ro, nil0, .any⟩,
  ⟨.patch, F.XCH_DROP, 1, 1, .rc, nil0, .any⟩,
  ⟨.patch, F.XCH_SENT, 1, 1, .ro, nil0, .any⟩,
  ⟨.patch, F.XCH_RCVD, 1, 1, .ro, nil0, .any⟩,
  ⟨.patch, F.CAP_CMD, 1, 1, .wo, nil0, .top 4 0⟩,
  ⟨.patch, F.CAP_MODE, 1, 1, .rw, nil0, .top 2 0⟩,
  ⟨.patch, F.CAP_TRIG_EN, 1, 1, .rw, nil0, .any⟩,
  ⟨.patch, F.CAP_TRIG_LINE, 1, 1, .rw, nil0, .any⟩,
  ⟨.patch, F.CAP_DEPTH_UNIT, 1, 1, .rw, nil0, .any⟩,
  ⟨.patch, F.CAP_PRE_WAIT, 1, 1, .rw, nil0, .any⟩,
  ⟨.patch, F.CAP_SEG_WRAP, 1, 1, .rw, nil0, .any⟩,
  ⟨.patch, F.CAP_CLOSE_EN, 1, 1, .rw, nil0, .any⟩,
  ⟨.patch, F.CAP_CLOSE_LINE, 1, 1, .rw, nil0, .any⟩,
  ⟨.patch, F.CAP_PRE_DEPTH, 1, 1, .rw, nil0, .rule⟩,
  ⟨.patch, F.CAP_POST_DEPTH, 1, 1, .rw, nil0, .rule⟩,
  ⟨.patch, F.CAP_SEG_COUNT, 1, 1, .rw, (fun _ _ => 1), .rule⟩,
  ⟨.patch, F.CAP_TRAIN_MAX, 1, 1, .rw, (fun _ _ => 4064), .range 16 16320⟩,
  ⟨.patch, F.CAP_REC_BASE, 1, 1, .rw, nil0, .any⟩,
  ⟨.patch, F.CAP_REC_SIZE, 1, 1, .rw, (fun _ _ => 2039), .rule⟩,
  ⟨.patch, F.CAP_IDX_BASE, 1, 1, .rw, (fun _ _ => 521984), .rule⟩,
  ⟨.patch, F.CAP_SEG_BASE, 1, 1, .rw, (fun _ _ => 524256), .range 0 524256⟩,
  ⟨.patch, F.CAPS_STATE, 1, 1, .ro, nil0, .any⟩,
  ⟨.patch, F.CAPS_STOP_REASON, 1, 1, .ro, nil0, .any⟩,
  ⟨.patch, F.CAPS_PRE_SHORT, 1, 1, .ro, nil0, .any⟩,
  ⟨.patch, F.CAPS_WRAPPED, 1, 1, .ro, nil0, .any⟩,
  ⟨.patch, F.CAPS_SEG_NOW, 1, 1, .ro, nil0, .any⟩,
  ⟨.patch, F.CAPS_RUN, 1, 1, .ro, nil0, .any⟩,
  ⟨.patch, F.CAPS_WPTR, 1, 1, .ro, nil0, .any⟩,
  ⟨.patch, F.CAPS_STAGE_KIB, 1, 1, .ro, nil0, .any⟩,
  ⟨.patch, F.CAPS_PENDING, 1, 1, .ro, nil0, .any⟩,
  ⟨.patch, F.CAPS_KEPT_LAST, 1, 1, .ro, nil0, .any⟩,
  ⟨.patch, F.CAPS_SEQ_NEXT, 1, 1, .ro, nil0, .any⟩,
  ⟨.patch, F.CAPS_T_LO, 1, 1, .ro, nil0, .any⟩,
  ⟨.patch, F.CAPS_T_HI, 1, 1, .ro, nil0, .any⟩,
  ⟨.patch, F.CAPS_T_OFF, 1, 1, .ro, nil0, .any⟩,
  ⟨.patch, F.CSLOT_EN, 16, 1, .rw, nil0, .any⟩,
  ⟨.patch, F.CSLOT_FORM, 16, 1, .rw, nil0, .any⟩,
  ⟨.patch, F.CSLOT_NOVD, 16, 1, .rw, nil0, .any⟩,
  ⟨.patch, F.CAPE_VD_STRAY, 1, 1, .rc, nil0, .any⟩,
  ⟨.patch, F.CAPE_VD_DUP, 1, 1, .rc, nil0, .any⟩,
  ⟨.patch, F.CAPE_ABORTED, 1, 1, .rc, nil0, .any⟩,
  ⟨.patch, F.CAPE_TRIG_IGNORED, 1, 1, .rc, nil0, .any⟩]

def rows_patch_2 : List RegRow := [
  ⟨.patch, F.SUB_VAL_LO, 8, 1, .rw, nil0, .any⟩,
  ⟨.patch, F.SUB_VAL_HI, 8, 1, .rw, nil0, .any⟩,
  ⟨.patch, F.SUB_OFF, 8, 1, .rw, nil0, .any⟩,
  ⟨.patch, F.SUB_WIDTH, 8, 1, .rw, (fun _ _ => 3), .any⟩,
  ⟨.patch, F.SUB_ORDER, 8, 1, .rw, (fun _ _ => 1), .any⟩,
  ⟨.patch, F.SUB_STEP, 8, 1, .rw, nil0, .any⟩,
  ⟨.patch, F.WATCH_EN, 8, 1, .rw, nil0, .any⟩,
  ⟨.patch, F.WATCH_LINE, 8, 1, .rw, nil0, .any⟩,
  ⟨.patch, F.WATCH_ACT, 8, 1, .rw, nil0, .top 2 0⟩,
  ⟨.patch, F.WATCH_THREAD, 8, 1, .rw, nil0, .any⟩,
  ⟨.patch, F.WATCH_FLUSH, 8, 1, .rw, nil0, .any⟩,
  ⟨.patch, F.WATCH_ACTSLOT, 8, 1, .rw, nil0, .any⟩,
  ⟨.patch, F.WATCH_ONESHOT, 8, 1, .rw, nil0, .any⟩,
  ⟨.patch, F.WATCH_TARGET, 8, 1, .rw, nil0, .any⟩,
  ⟨.patch, F.ACT_REC, 8, 1, .rw, nil0, .any⟩,
  ⟨.patch, F.ACT_SLOTS, 8, 1, .rw, nil0, .any⟩,
  ⟨.patch, F.ACT_LOAD, 8, 1, .wo, nil0, .any⟩,
  ⟨.patch, F.ACT_READY, 8, 1, .ro, nil0, .any⟩,
  ⟨.patch, F.PAT_CMD, 1, 1, .wo, nil0, .top 2 0⟩,
  ⟨.patch, F.PAT_THREADS, 1, 1, .wo, nil0, .any⟩,
  ⟨.patch, F.PAT_DESC_BASE, 1, 1, .rw, nil0, .any⟩,
  ⟨.patch, F.PAT_DESC_COUNT, 1, 1, .rw, (fun _ _ => 1), .range 1 65536⟩,
  ⟨.patch, F.PAT_USER_FILL, 1, 1, .rw, nil0, .any⟩,
  ⟨.patch, F.PAT_USER_MAP, 1, 1, .rw, nil0, .any⟩,
  ⟨.patch, F.PAT_ENTRY, 4, 1, .rw, nil0, .any⟩,
  ⟨.patch, F.THR_STATE, 4, 1, .ro, nil0, .any⟩,
  ⟨.patch, F.THR_DEPTH, 4, 1, .ro, nil0, .any⟩,
  ⟨.patch, F.THR_REASON, 4, 1, .ro, nil0, .any⟩,
  ⟨.patch, F.THR_PC, 4, 1, .ro, nil0, .any⟩,
  ⟨.patch, F.PSLOT_SRC, 16, 1, .rw, (fun _ _ => 1), .any⟩,
  ⟨.patch, F.PSLOT_MIN_GAP, 16, 1, .rw, (fun _ _ => 12), .any⟩,
  ⟨.patch, F.PSLOT_FILL8, 16, 1, .rw, nil0, .top 2 0⟩,
  ⟨.patch, F.PATE_PAT_POISON, 1, 1, .rc, nil0, .any⟩,
  ⟨.patch, F.PATE_KIND_SKIP, 1, 1, .rc, nil0, .any⟩,
  ⟨.patch, F.PATE_ACT_MISS, 1, 1, .rc, nil0, .any⟩,
  ⟨.patch, F.PATE_NEST_OVF, 1, 1, .rc, nil0, .any⟩,
  ⟨.patch, F.PATE_JUMPS, 1, 1, .ro, nil0, .any⟩,
  ⟨.patch, F.CV_POLY, 20, 1, .rw, nil0, .any⟩,
  ⟨.patch, F.CV_REFIN, 20, 1, .rw, (fun _ _ => 1), .any⟩,
  ⟨.patch, F.CV_REFOUT, 20, 1, .rw, (fun _ _ => 1), .any⟩,
  ⟨.patch, F.CV_XOROUT, 20, 1, .rw, (fun _ _ => 1), .any⟩,
  ⟨.patch, F.CV_INIT, 20, 1, .rw, (fun _ _ => 1), .any⟩,
  ⟨.patch, F.CV_ORDER, 20, 1, .rw, nil0, .any⟩,
  ⟨.patch, F.CV_STREAM_EN, 20, 1, .rw, nil0, .rule⟩,
  ⟨.patch, F.CV_ATTACH, 20, 1, .rw, nil0, .any⟩]

def rows_patch_3 : List RegRow := [
  ⟨.patch, F.CV_MODE, 20, 1, .rw, nil0, .top 1 0⟩,
  ⟨.patch, F.CV_SKIP, 20, 1, .rw, (fun _ _ => 7), .any⟩,
  ⟨.patch, F.CV_VALUE, 20, 1, .rw, nil0, .rule⟩,
  ⟨.patch, F.CV_LAST, 20, 1, .ro, nil0, .any⟩,
  ⟨.patch, F.CV_UNITS, 20, 1, .ro, nil0, .any⟩,
  ⟨.patch, F.CV_FAIL, 20, 1, .rc, nil0, .any⟩,
  ⟨.patch, F.CV_SHORT, 20, 1, .rc, nil0, .any⟩,
  ⟨.patch, F.TL_LINE_A, 1, 1, .rw, nil0, .any⟩,
  ⟨.patch, F.TL_EN_A, 1, 1, .rw, nil0, .any⟩,
  ⟨.patch, F.TL_LINE_B, 1, 1, .rw, nil0, .any⟩,
  ⟨.patch, F.TL_EN_B, 1, 1, .rw, nil0, .any⟩,
  ⟨.patch, F.TL_LINE_C, 1, 1, .rw, nil0, .any⟩,
  ⟨.patch, F.TL_EN_C, 1, 1, .rw, nil0, .any⟩,
  ⟨.patch, F.TL_LINE_D, 1, 1, .rw, nil0, .any⟩,
  ⟨.patch, F.TL_EN_D, 1, 1, .rw, nil0, .any⟩,
  ⟨.patch, F.BK_LEVEL, 8, 1, .ro, nil0, .any⟩,
  ⟨.patch, F.BK_OVF, 8, 1, .w1c, nil0, .any⟩,
  ⟨.patch, F.BK_CORR, 8, 1, .rc, nil0, .any⟩,
  ⟨.patch, F.BK_UNCORR, 8, 1, .rc, nil0, .any⟩,
  ⟨.patch, F.BK_ERR_WORD, 8, 1, .ro, nil0, .any⟩,
  ⟨.patch, F.BK_ERR_UNC, 8, 1, .ro, nil0, .any⟩,
  ⟨.patch, F.BK_ROWS_LEFT, 8, 1, .ro, (fun _ _ => 16), .any⟩,
  ⟨.patch, F.BK_WR_POISON, 8, 1, .rc, nil0, .any⟩,
  ⟨.patch, F.BK_DEPTH, 1, 1, .rw, (fun _ _ => 64), .range 1 65535⟩,
  ⟨.patch, F.BK_LEAK_MS, 1, 1, .rw, (fun _ _ => 1000), .range 1 65535⟩,
  ⟨.patch, F.BK_WIN_WORD, 1, 1, .rw, nil0, .any⟩,
  ⟨.patch, F.BK_WIN_BANK, 1, 1, .rw, nil0, .any⟩,
  ⟨.patch, F.BK_WIN_DATA_LO, 1, 1, .rw, nil0, .any⟩,
  ⟨.patch, F.BK_WIN_DATA_HI, 1, 1, .rw, nil0, .any⟩,
  ⟨.patch, F.BK_GO, 1, 1, .wo, nil0, .any⟩,
  ⟨.patch, F.BK_WRITE, 1, 1, .rw, nil0, .any⟩,
  ⟨.patch, F.BK_BYTES, 1, 1, .rw, (fun _ _ => 255), .any⟩,
  ⟨.patch, F.BK_BUSY, 1, 1, .ro, nil0, .any⟩,
  ⟨.patch, F.BK_STATUS, 1, 1, .ro, nil0, .any⟩,
  ⟨.patch, F.PATCHNODE_REBUILT, 1, 1, .w1c, nil0, .any⟩,
  ⟨.patch, F.PATCHNODE_REB_STITCH, 1, 1, .ro, nil0, .any⟩,
  ⟨.patch, F.PQ_QUIET_LEN, 1, 1, .rw, nil0, .any⟩,
  ⟨.patch, F.PQ_OPEN, 1, 1, .ro, nil0, .any⟩,
  ⟨.patch, F.DIAG_INDEX, 1, 1, .rw, nil0, .rule⟩,
  ⟨.patch, F.DIAG_PAGE, 1, 1, .rw, nil0, .rule⟩,
  ⟨.patch, F.DIAG_AREA, 1, 1, .rw, nil0, .any⟩,
  ⟨.patch, F.DIAG_DATA, 1, 1, .ro, nil0, .any⟩,
  ⟨.patch, F.DIAG_LENGTH, 1, 1, .ro, nil0, .any⟩,
  ⟨.patch, F.DIR_PLANE_ID, 6, 1, .ro, nil0, .any⟩,
  ⟨.patch, F.DIR_VALID, 6, 1, .ro, nil0, .any⟩]

def rows_patch_4 : List RegRow := [
  ⟨.patch, F.PNODE_CW_LO, 1, 1, .ro, nil0, .any⟩,
  ⟨.patch, F.PNODE_CW_HI, 1, 1, .ro, nil0, .any⟩,
  ⟨.patch, F.PNODE_CW_CORR, 1, 1, .ro, nil0, .any⟩,
  ⟨.patch, F.PNODE_CW_UNCORR, 1, 1, .ro, nil0, .any⟩,
  ⟨.patch, F.PNODE_SYM_LO, 1, 1, .ro, nil0, .any⟩,
  ⟨.patch, F.PNODE_SYM_HI, 1, 1, .ro, nil0, .any⟩,
  ⟨.patch, F.PNODE_CODE_ERR, 1, 1, .ro, nil0, .any⟩,
  ⟨.patch, F.PNODE_LOL_CNT, 1, 1, .ro, nil0, .any⟩,
  ⟨.patch, F.PNODE_IDLE_CNT, 1, 1, .ro, nil0, .any⟩,
  ⟨.patch, F.PNODE_EB_OVF, 1, 1, .ro, nil0, .any⟩,
  ⟨.patch, F.PNODE_TX_UNDERRUN, 1, 1, .ro, nil0, .any⟩,
  ⟨.patch, F.CCNT_KEPT, 16, 1, .ro, nil0, .any⟩,
  ⟨.patch, F.CCNT_HEADED, 16, 1, .ro, nil0, .any⟩,
  ⟨.patch, F.CCNT_COUNTED, 16, 1, .ro, nil0, .any⟩,
  ⟨.patch, F.CCNT_DROPPED, 16, 1, .ro, nil0, .any⟩,
  ⟨.patch, F.CCNT_DEFAULTED, 16, 1, .ro, nil0, .any⟩,
  ⟨.patch, F.CCNT_RATE_LOST, 16, 1, .ro, nil0, .any⟩,
  ⟨.patch, F.CCNT_BYTES_LO, 16, 1, .ro, nil0, .any⟩,
  ⟨.patch, F.CCNT_BYTES_HI, 16, 1, .ro, nil0, .any⟩]

/-- The rows of one block. -/
def rows_patch : List RegRow := rows_patch_0 ++ rows_patch_1 ++ rows_patch_2 ++ rows_patch_3 ++ rows_patch_4

def rows_ribbon_0 : List RegRow := [
  ⟨.ribbon, F.PSTATE, 1, 1, .ro, nil0, .any⟩,
  ⟨.ribbon, F.BANK, 1, 1, .ro, nil0, .any⟩,
  ⟨.ribbon, F.STAGED, 1, 1, .ro, nil0, .any⟩,
  ⟨.ribbon, F.ADMITTED, 1, 1, .ro, nil0, .any⟩,
  ⟨.ribbon, F.START_PEND, 1, 1, .ro, nil0, .any⟩,
  ⟨.ribbon, F.LIVE_PAGE, 1, 1, .ro, nil0, .any⟩,
  ⟨.ribbon, F.LAST_REFUSE, 1, 1, .ro, nil0, .any⟩,
  ⟨.ribbon, F.WC_MAIN, 1, 1, .ro, nil0, .any⟩,
  ⟨.ribbon, F.WC_EVENT, 1, 1, .ro, nil0, .any⟩,
  ⟨.ribbon, F.ABANDON, 1, 1, .rc, nil0, .any⟩,
  ⟨.ribbon, F.WINDOW_MISS, 1, 1, .rc, nil0, .any⟩,
  ⟨.ribbon, F.EVT_EN, 1, 1, .rw, (fun _ _ => 7), .any⟩,
  ⟨.ribbon, F.EVT_IMM, 1, 1, .rw, (fun _ _ => 7), .any⟩,
  ⟨.ribbon, F.EVT_PEND, 1, 1, .w1c, nil0, .any⟩,
  ⟨.ribbon, F.CV_DROP, 1, 1, .rc, nil0, .any⟩,
  ⟨.ribbon, F.POISON_RD, 1, 1, .rc, nil0, .any⟩,
  ⟨.ribbon, F.LN_RX_EN, 8, 1, .rw, nil0, .any⟩,
  ⟨.ribbon, F.LN_TX_EN, 8, 1, .rw, nil0, .any⟩,
  ⟨.ribbon, F.LN_MOD, 8, 1, .rw, nil0, .any⟩,
  ⟨.ribbon, F.LN_BAND_START, 8, 1, .rw, (fun _ _ => 1), .any⟩,
  ⟨.ribbon, F.LN_PCS, 8, 1, .rw, nil0, .top 6 0⟩,
  ⟨.ribbon, F.LN_RX_INV, 8, 1, .rw, nil0, .any⟩,
  ⟨.ribbon, F.LN_TX_INV, 8, 1, .rw, nil0, .any⟩,
  ⟨.ribbon, F.LN_TX_CLK, 8, 1, .rw, nil0, .any⟩,
  ⟨.ribbon, F.LN_TX_CLK_LANE, 8, 1, .rw, nil0, .any⟩,
  ⟨.ribbon, F.LN_PREFILL, 8, 1, .rw, (fun _ _ => 4), .range 1 63⟩,
  ⟨.ribbon, F.LN_PEAK, 8, 1, .rw, nil0, .range 0 23⟩,
  ⟨.ribbon, F.LN_GAIN, 8, 1, .rw, nil0, .any⟩,
  ⟨.ribbon, F.LN_DFE_EN, 8, 1, .rw, (fun _ _ => 1), .any⟩,
  ⟨.ribbon, F.LN_DFE1, 8, 1, .rw, nil0, .srange 16 2048 2047⟩,
  ⟨.ribbon, F.LN_FFE0, 8, 1, .rw, nil0, .any⟩,
  ⟨.ribbon, F.LN_FFE1, 8, 1, .rw, nil0, .any⟩,
  ⟨.ribbon, F.LN_FFE2, 8, 1, .rw, nil0, .any⟩,
  ⟨.ribbon, F.LN_FFE3, 8, 1, .rw, nil0, .any⟩,
  ⟨.ribbon, F.LN_FFE4, 8, 1, .rw, nil0, .any⟩,
  ⟨.ribbon, F.LN_FFE5, 8, 1, .rw, nil0, .any⟩,
  ⟨.ribbon, F.LN_FFE6, 8, 1, .rw, nil0, .any⟩,
  ⟨.ribbon, F.LN_FFE7, 8, 1, .rw, nil0, .any⟩,
  ⟨.ribbon, F.LN_FFE8, 8, 1, .rw, nil0, .any⟩,
  ⟨.ribbon, F.LN_FFE9, 8, 1, .rw, nil0, .any⟩,
  ⟨.ribbon, F.LN_FFE10, 8, 1, .rw, nil0, .any⟩,
  ⟨.ribbon, F.LN_FFE11, 8, 1, .rw, nil0, .any⟩,
  ⟨.ribbon, F.TX_C_M2, 8, 1, .rw, nil0, .rule⟩,
  ⟨.ribbon, F.TX_C_M1, 8, 1, .rw, nil0, .rule⟩,
  ⟨.ribbon, F.TX_C0, 8, 1, .rw, (fun _ _ => 63), .rule⟩]

def rows_ribbon_1 : List RegRow := [
  ⟨.ribbon, F.TX_C_P1, 8, 1, .rw, nil0, .rule⟩,
  ⟨.ribbon, F.TX_C_P2, 8, 1, .rw, nil0, .rule⟩,
  ⟨.ribbon, F.RIB_BOND, 1, 1, .rw, nil0, .top 4 3⟩,
  ⟨.ribbon, F.LN_LSTATE, 8, 1, .ro, nil0, .any⟩,
  ⟨.ribbon, F.LN_SIGDET, 8, 1, .ro, nil0, .any⟩,
  ⟨.ribbon, F.LN_CDR_LOCK, 8, 1, .ro, nil0, .any⟩,
  ⟨.ribbon, F.LN_PCS_LOCK, 8, 1, .ro, nil0, .any⟩,
  ⟨.ribbon, F.LN_BONDED, 8, 1, .ro, nil0, .any⟩,
  ⟨.ribbon, F.LN_FE_LAT, 8, 1, .ro, nil0, .any⟩,
  ⟨.ribbon, F.LN_SKEW, 8, 1, .ro, nil0, .any⟩,
  ⟨.ribbon, F.LN_FAULT_CAUSE, 8, 1, .ro, nil0, .any⟩,
  ⟨.ribbon, F.LN_BURST_THR, 8, 1, .rw, (fun _ _ => 16), .range 1 1023⟩,
  ⟨.ribbon, F.LN_BURST_WIN, 8, 1, .rw, (fun _ _ => 25), .range 1 1023⟩,
  ⟨.ribbon, F.LN_IDLE_TIME, 8, 1, .rw, (fun _ _ => 4), .range 1 255⟩,
  ⟨.ribbon, F.EYE_PHASE, 8, 1, .rw, nil0, .any⟩,
  ⟨.ribbon, F.EYE_VOFF, 8, 1, .rw, nil0, .any⟩,
  ⟨.ribbon, F.EYE_EN, 8, 1, .rw, nil0, .any⟩,
  ⟨.ribbon, F.EYE_CNT, 8, 1, .rc, nil0, .any⟩,
  ⟨.ribbon, F.RSPH_CORR, 1, 1, .rc, nil0, .any⟩,
  ⟨.ribbon, F.RSPH_MOVING, 1, 1, .ro, nil0, .any⟩,
  ⟨.ribbon, F.RSPH_RETIRED, 1, 1, .ro, nil0, .any⟩,
  ⟨.ribbon, F.Q_QUIET_LEN, 8, 1, .rw, nil0, .any⟩,
  ⟨.ribbon, F.Q_OPEN, 8, 1, .ro, nil0, .any⟩,
  ⟨.ribbon, F.TL_LINE_A, 1, 1, .rw, nil0, .any⟩,
  ⟨.ribbon, F.TL_EN_A, 1, 1, .rw, nil0, .any⟩,
  ⟨.ribbon, F.TL_LINE_B, 1, 1, .rw, nil0, .any⟩,
  ⟨.ribbon, F.TL_EN_B, 1, 1, .rw, nil0, .any⟩,
  ⟨.ribbon, F.TL_LINE_C, 1, 1, .rw, nil0, .any⟩,
  ⟨.ribbon, F.TL_EN_C, 1, 1, .rw, nil0, .any⟩,
  ⟨.ribbon, F.TL_LINE_D, 1, 1, .rw, nil0, .any⟩,
  ⟨.ribbon, F.TL_EN_D, 1, 1, .rw, nil0, .any⟩,
  ⟨.ribbon, F.RIBBONNODE_REBUILT, 1, 1, .w1c, nil0, .any⟩,
  ⟨.ribbon, F.RIBBONNODE_REB_STITCH, 1, 1, .ro, nil0, .any⟩,
  ⟨.ribbon, F.DISC, 8, 1, .w1c, nil0, .any⟩,
  ⟨.ribbon, F.DISC_STITCH, 8, 1, .ro, nil0, .any⟩,
  ⟨.ribbon, F.DIAG_INDEX, 1, 1, .rw, nil0, .rule⟩,
  ⟨.ribbon, F.DIAG_PAGE, 1, 1, .rw, nil0, .rule⟩,
  ⟨.ribbon, F.DIAG_AREA, 1, 1, .rw, nil0, .any⟩,
  ⟨.ribbon, F.DIAG_DATA, 1, 1, .ro, nil0, .any⟩,
  ⟨.ribbon, F.DIAG_LENGTH, 1, 1, .ro, nil0, .any⟩,
  ⟨.ribbon, F.LN_RATE_KBPS, 8, 1, .rw, (fun _ _ => 25781250), .rule⟩,
  ⟨.ribbon, F.LANE_CW_LO, 8, 1, .ro, nil0, .any⟩,
  ⟨.ribbon, F.LANE_CW_HI, 8, 1, .ro, nil0, .any⟩,
  ⟨.ribbon, F.LANE_CW_CORR, 8, 1, .ro, nil0, .any⟩,
  ⟨.ribbon, F.LANE_CW_UNCORR, 8, 1, .ro, nil0, .any⟩]

def rows_ribbon_2 : List RegRow := [
  ⟨.ribbon, F.LANE_SYM_LO, 8, 1, .ro, nil0, .any⟩,
  ⟨.ribbon, F.LANE_SYM_HI, 8, 1, .ro, nil0, .any⟩,
  ⟨.ribbon, F.LANE_CODE_ERR, 8, 1, .ro, nil0, .any⟩,
  ⟨.ribbon, F.LANE_LOL_CNT, 8, 1, .ro, nil0, .any⟩,
  ⟨.ribbon, F.LANE_IDLE_CNT, 8, 1, .ro, nil0, .any⟩,
  ⟨.ribbon, F.LANE_EB_OVF, 8, 1, .ro, nil0, .any⟩,
  ⟨.ribbon, F.LANE_TX_UNDERRUN, 8, 1, .ro, nil0, .any⟩,
  ⟨.ribbon, F.RNODE_CW_LO, 1, 1, .ro, nil0, .any⟩,
  ⟨.ribbon, F.RNODE_CW_HI, 1, 1, .ro, nil0, .any⟩,
  ⟨.ribbon, F.RNODE_CW_CORR, 1, 1, .ro, nil0, .any⟩,
  ⟨.ribbon, F.RNODE_CW_UNCORR, 1, 1, .ro, nil0, .any⟩,
  ⟨.ribbon, F.RNODE_SYM_LO, 1, 1, .ro, nil0, .any⟩,
  ⟨.ribbon, F.RNODE_SYM_HI, 1, 1, .ro, nil0, .any⟩,
  ⟨.ribbon, F.RNODE_CODE_ERR, 1, 1, .ro, nil0, .any⟩,
  ⟨.ribbon, F.RNODE_LOL_CNT, 1, 1, .ro, nil0, .any⟩,
  ⟨.ribbon, F.RNODE_IDLE_CNT, 1, 1, .ro, nil0, .any⟩,
  ⟨.ribbon, F.RNODE_EB_OVF, 1, 1, .ro, nil0, .any⟩,
  ⟨.ribbon, F.RNODE_TX_UNDERRUN, 1, 1, .ro, nil0, .any⟩,
  ⟨.ribbon, F.LANE_HIST, 8, 16, .ro, nil0, .any⟩]

/-- The rows of one block. -/
def rows_ribbon : List RegRow := rows_ribbon_0 ++ rows_ribbon_1 ++ rows_ribbon_2

def rows_trig_0 : List RegRow := [
  ⟨.trig, F.TRIG_STATE_LO, 1, 1, .ro, nil0, .any⟩,
  ⟨.trig, F.TRIG_STATE_HI, 1, 1, .ro, nil0, .any⟩,
  ⟨.trig, F.TRIG_RAISE_LO, 1, 1, .wo, nil0, .any⟩,
  ⟨.trig, F.TRIG_RAISE_HI, 1, 1, .wo, nil0, .any⟩,
  ⟨.trig, F.TRIG_D, 1, 1, .ro, (fun _ _ => 1), .any⟩,
  ⟨.trig, F.TRIG_SYSTEM, 1, 1, .ro, nil0, .any⟩,
  ⟨.trig, F.TRIG_LATE, 1, 1, .rc, nil0, .any⟩,
  ⟨.trig, F.TRIG_SRC_MASK_LO, 6, 1, .rw, (fun _ _ => 4294967295), .any⟩,
  ⟨.trig, F.TRIG_SRC_MASK_HI, 6, 1, .rw, (fun _ _ => 4294967295), .any⟩,
  ⟨.trig, F.TB_DIR, 16, 1, .rw, nil0, .top 2 0⟩,
  ⟨.trig, F.TB_LINE, 16, 1, .rw, nil0, .any⟩,
  ⟨.trig, F.TB_EDGE, 16, 1, .rw, nil0, .top 2 2⟩,
  ⟨.trig, F.TB_POL, 16, 1, .rw, nil0, .any⟩,
  ⟨.trig, F.TB_FILT, 16, 1, .rw, nil0, .any⟩,
  ⟨.trig, F.TB_OMODE, 16, 1, .rw, nil0, .any⟩,
  ⟨.trig, F.TB_OUT_OFF, 16, 1, .rw, nil0, .any⟩,
  ⟨.trig, F.TB_WIDTH, 16, 1, .rw, (fun _ _ => 32), .range 1 8191⟩,
  ⟨.trig, F.TLOG_TS0, 32, 1, .ro, nil0, .any⟩,
  ⟨.trig, F.TLOG_TS1, 32, 1, .ro, nil0, .any⟩,
  ⟨.trig, F.TLOG_TS2, 32, 1, .ro, nil0, .any⟩,
  ⟨.trig, F.TLOG_LINE, 32, 1, .ro, nil0, .any⟩,
  ⟨.trig, F.TLOG_SRC, 32, 1, .ro, nil0, .any⟩,
  ⟨.trig, F.TLOG_MULTI, 32, 1, .ro, nil0, .any⟩,
  ⟨.trig, F.TLOG_DEVICE, 32, 1, .ro, nil0, .any⟩,
  ⟨.trig, F.TLOG_LATCH_LO, 32, 1, .ro, nil0, .any⟩,
  ⟨.trig, F.EVQ_BASE_LO, 1, 1, .rw, nil0, .align 12⟩,
  ⟨.trig, F.EVQ_BASE_HI, 1, 1, .rw, nil0, .any⟩,
  ⟨.trig, F.EVQ_SIZE, 1, 1, .rw, (fun _ _ => 1024), .pow2 64 65536⟩,
  ⟨.trig, F.EVQ_HEAD, 1, 1, .ro, nil0, .any⟩,
  ⟨.trig, F.EVQ_TAIL, 1, 1, .rw, nil0, .rule⟩,
  ⟨.trig, F.EVQ_PEND, 1, 1, .w1c, nil0, .any⟩,
  ⟨.trig, F.EVQ_MASK, 1, 1, .rw, nil0, .any⟩,
  ⟨.trig, F.EVQ_LOST, 1, 1, .rc, nil0, .any⟩,
  ⟨.trig, F.NM_LATCH, 1, 1, .w1c, nil0, .any⟩,
  ⟨.trig, F.LOG_MASK_LO, 1, 1, .rw, nil0, .any⟩,
  ⟨.trig, F.LOG_MASK_HI, 1, 1, .rw, nil0, .any⟩,
  ⟨.trig, F.LOG_NEWEST, 1, 1, .ro, nil0, .any⟩,
  ⟨.trig, F.LOG_LOST, 1, 1, .ro, nil0, .any⟩]

/-- The rows of one block. -/
def rows_trig : List RegRow := rows_trig_0

def rows_bolt_0 : List RegRow := [
  ⟨.bolt, F.BOLT_RUNOUT, 1, 1, .rw, nil0, .any⟩,
  ⟨.bolt, F.BOLT_PATROL_S, 1, 1, .rw, (fun _ _ => 60), .range 5 3600⟩,
  ⟨.bolt, F.BOLT_DEPTH, 1, 1, .rw, (fun _ _ => 64), .range 1 65535⟩,
  ⟨.bolt, F.BOLT_LEAK_MS, 1, 1, .rw, (fun _ _ => 1000), .range 1 65535⟩,
  ⟨.bolt, F.BOLT_LEVEL, 1, 1, .ro, nil0, .any⟩,
  ⟨.bolt, F.BOLT_OVF, 1, 1, .w1c, nil0, .any⟩,
  ⟨.bolt, F.BOLT_REKEYING, 1, 1, .ro, nil0, .any⟩,
  ⟨.bolt, F.BOLT_REKEY_REGION, 1, 1, .ro, nil0, .any⟩,
  ⟨.bolt, F.BOLT_DEC_SPARE, 1, 1, .ro, nil0, .any⟩,
  ⟨.bolt, F.BOLT_OUT, 1, 1, .ro, nil0, .any⟩,
  ⟨.bolt, F.BOLT_CORR, 1, 1, .rc, nil0, .any⟩,
  ⟨.bolt, F.BOLT_UNCORR, 1, 1, .rc, nil0, .any⟩,
  ⟨.bolt, F.BOLT_ROWS_LEFT, 1, 1, .ro, (fun _ _ => 1024), .any⟩,
  ⟨.bolt, F.BOLT_ERR_LINE, 1, 1, .ro, nil0, .any⟩,
  ⟨.bolt, F.BOLT_ERR_UNC, 1, 1, .ro, nil0, .any⟩,
  ⟨.bolt, F.BOLT_WR_POISON, 1, 1, .rc, nil0, .any⟩,
  ⟨.bolt, F.BOLT_REKEYS, 1, 1, .ro, nil0, .any⟩,
  ⟨.bolt, F.BOLT_EPOCH, 32, 1, .ro, nil0, .any⟩,
  ⟨.bolt, F.BOLT_CTR_HI, 32, 1, .ro, nil0, .any⟩,
  ⟨.bolt, F.BOLT_REKEY, 32, 1, .ro, nil0, .any⟩,
  ⟨.bolt, F.BOLT_WIN_WORD, 1, 1, .rw, nil0, .any⟩,
  ⟨.bolt, F.BOLT_WIN_DATA_LO, 1, 1, .rw, nil0, .any⟩,
  ⟨.bolt, F.BOLT_WIN_DATA_HI, 1, 1, .rw, nil0, .any⟩,
  ⟨.bolt, F.BOLT_WIN_GO, 1, 1, .wo, nil0, .any⟩,
  ⟨.bolt, F.BOLT_WIN_WRITE, 1, 1, .rw, nil0, .any⟩,
  ⟨.bolt, F.BOLT_WIN_BYTES, 1, 1, .rw, (fun _ _ => 255), .any⟩,
  ⟨.bolt, F.BOLT_WIN_BUSY, 1, 1, .ro, nil0, .any⟩,
  ⟨.bolt, F.BOLT_WIN_STATUS, 1, 1, .ro, nil0, .any⟩]

/-- The rows of one block. -/
def rows_bolt : List RegRow := rows_bolt_0

def rows_host_0 : List RegRow := [
  ⟨.host, F.SP_BASE_LO, 16, 1, .rw, nil0, .align 6⟩,
  ⟨.host, F.SP_BASE_HI, 16, 1, .rw, nil0, .any⟩,
  ⟨.host, F.SP_DEPTH, 16, 1, .rw, (fun _ _ => 16), .pow2 16 4096⟩,
  ⟨.host, F.SP_EN, 16, 1, .rw, nil0, .any⟩,
  ⟨.host, F.SP_CI, 16, 1, .ro, nil0, .any⟩,
  ⟨.host, F.SP_PI, 16, 1, .ro, nil0, .any⟩,
  ⟨.host, F.SP_SEQ_NEXT, 16, 1, .ro, nil0, .any⟩,
  ⟨.host, F.SP_PENDING, 16, 1, .ro, nil0, .any⟩,
  ⟨.host, F.SP_OVERRUN, 16, 1, .rc, nil0, .any⟩,
  ⟨.host, F.SP_BAD_RELEASE, 16, 1, .rc, nil0, .any⟩,
  ⟨.host, F.SP_DMA_ERR, 16, 1, .rc, nil0, .any⟩,
  ⟨.host, F.CH_STATE, 16, 1, .ro, nil0, .any⟩,
  ⟨.host, F.CH_DEVICE, 16, 1, .ro, nil0, .any⟩,
  ⟨.host, F.CH_LPATCH, 16, 1, .ro, nil0, .any⟩,
  ⟨.host, F.CH_KIND, 16, 1, .ro, nil0, .any⟩,
  ⟨.host, F.CH_SENT, 16, 1, .ro, nil0, .any⟩,
  ⟨.host, F.CH_CONSUMED, 16, 1, .rw, nil0, .rule⟩,
  ⟨.host, F.CH_SKIPPED, 16, 1, .ro, nil0, .any⟩,
  ⟨.host, F.CH_DAMAGED, 16, 1, .ro, nil0, .any⟩,
  ⟨.host, F.HOST_SPEED, 1, 1, .ro, nil0, .any⟩,
  ⟨.host, F.HOST_WIDTH, 1, 1, .ro, nil0, .any⟩,
  ⟨.host, F.HOST_FLIT, 1, 1, .ro, nil0, .any⟩,
  ⟨.host, F.HOST_DL_UP, 1, 1, .ro, nil0, .any⟩,
  ⟨.host, F.HOST_DISP_MAX, 1, 1, .rw, (fun _ _ => 16), .range 1 16⟩,
  ⟨.host, F.HOST_WIN_CA, 1, 1, .rc, nil0, .any⟩,
  ⟨.host, F.HOST_WIN_TIMEOUT, 1, 1, .rc, nil0, .any⟩,
  ⟨.host, F.HOST_WIN_UR, 1, 1, .rc, nil0, .any⟩,
  ⟨.host, F.MSIX_ADDR_LO, 64, 1, .rw, nil0, .any⟩,
  ⟨.host, F.MSIX_ADDR_HI, 64, 1, .rw, nil0, .any⟩,
  ⟨.host, F.MSIX_DATA, 64, 1, .rw, nil0, .any⟩,
  ⟨.host, F.MSIX_CTRL, 64, 1, .rw, (fun _ _ => 1), .any⟩,
  ⟨.host, F.MSIX_PBA, 2, 1, .ro, nil0, .any⟩]

/-- The rows of one block. -/
def rows_host : List RegRow := rows_host_0

def rows_seam_0 : List RegRow := [
  ⟨.seam, F.SEAM_EN, 1, 1, .rw, (fun _ _ => 1), .any⟩,
  ⟨.seam, F.SEAM_RETRAIN, 1, 1, .wo, nil0, .any⟩,
  ⟨.seam, F.SEAM_LSTATE, 1, 1, .ro, nil0, .any⟩,
  ⟨.seam, F.SEAM_PEER_DEV, 1, 1, .ro, nil0, .any⟩,
  ⟨.seam, F.SEAM_PEER_SEAM, 1, 1, .ro, nil0, .any⟩,
  ⟨.seam, F.SEAM_ROLE, 1, 1, .ro, nil0, .any⟩,
  ⟨.seam, F.SEAM_FAIL_CAUSE, 1, 1, .ro, nil0, .any⟩,
  ⟨.seam, F.SEAM_RTT, 1, 1, .ro, nil0, .any⟩,
  ⟨.seam, F.SEAM_ONEWAY, 1, 1, .ro, nil0, .any⟩,
  ⟨.seam, F.SEAM_PHASE_ERR, 1, 1, .ro, nil0, .any⟩,
  ⟨.seam, F.SEAM_GEN, 1, 1, .ro, nil0, .any⟩,
  ⟨.seam, F.SEAM_CW_CORR, 1, 1, .rc, nil0, .any⟩,
  ⟨.seam, F.SEAM_CW_UNCORR, 1, 1, .rc, nil0, .any⟩,
  ⟨.seam, F.SEAM_DOWNS, 1, 1, .ro, nil0, .any⟩]

/-- The rows of one block. -/
def rows_seam : List RegRow := rows_seam_0

def rows_cfg_0 : List RegRow := [
  ⟨.cfg, F.CFG_FALLBACK, 1, 1, .rw, nil0, .any⟩,
  ⟨.cfg, F.CFG_FB_SLOT, 1, 1, .rw, nil0, .any⟩,
  ⟨.cfg, F.CFG_STATE, 1, 1, .ro, nil0, .any⟩,
  ⟨.cfg, F.CFG_SOURCE, 1, 1, .ro, nil0, .any⟩,
  ⟨.cfg, F.CFG_CAUSE, 1, 1, .ro, nil0, .any⟩,
  ⟨.cfg, F.CFG_LAST_STATUS, 1, 1, .ro, nil0, .any⟩,
  ⟨.cfg, F.CFG_FALLBACK_USED, 1, 1, .ro, nil0, .any⟩,
  ⟨.cfg, F.CFG_FRAMES, 1, 1, .ro, nil0, .any⟩,
  ⟨.cfg, F.CFG_RETRIES, 1, 1, .rc, nil0, .any⟩,
  ⟨.cfg, F.CFG_PASSED, 1, 1, .ro, nil0, .any⟩,
  ⟨.cfg, F.CFG_DISCARDED, 1, 1, .rc, nil0, .any⟩,
  ⟨.cfg, F.CFG_CHAIN_BUSY, 1, 1, .rc, nil0, .any⟩,
  ⟨.cfg, F.CFG_SSTATE, 8, 1, .ro, nil0, .any⟩,
  ⟨.cfg, F.CFG_SIZE_MIB, 8, 1, .ro, nil0, .any⟩,
  ⟨.cfg, F.CFG_RES_MS, 1, 1, .rw, (fun _ _ => 10), .range 2 100⟩,
  ⟨.cfg, F.CFG_STO_MS, 1, 1, .rw, (fun _ _ => 100), .range 20 10000⟩,
  ⟨.cfg, F.CFG_CORR, 1, 1, .rc, nil0, .any⟩,
  ⟨.cfg, F.CFG_UNC, 1, 1, .rc, nil0, .any⟩,
  ⟨.cfg, F.CFG_VOTE_FIX, 1, 1, .rc, nil0, .any⟩,
  ⟨.cfg, F.CFG_XFIX, 1, 1, .rc, nil0, .any⟩,
  ⟨.cfg, F.CFG_PASSES, 1, 1, .ro, nil0, .any⟩,
  ⟨.cfg, F.CFG_DAMAGED, 1, 1, .ro, nil0, .any⟩,
  ⟨.cfg, F.CFG_HALF, 1, 1, .ro, nil0, .any⟩,
  ⟨.cfg, F.CFG_COMPACTING, 1, 1, .ro, nil0, .any⟩,
  ⟨.cfg, F.CFG_GEN, 1, 1, .ro, nil0, .any⟩,
  ⟨.cfg, F.CFG_FILL_KIB, 1, 1, .ro, nil0, .any⟩,
  ⟨.cfg, F.CFG_STAGED, 1, 1, .ro, nil0, .any⟩]

/-- The rows of one block. -/
def rows_cfg : List RegRow := rows_cfg_0

def rows_res_0 : List RegRow := [
  ⟨.res, F.RES_PHASE, 1, 1, .ro, nil0, .any⟩,
  ⟨.res, F.RES_LPATCH, 1, 1, .ro, nil0, .any⟩,
  ⟨.res, F.RES_FROM, 1, 1, .ro, nil0, .any⟩,
  ⟨.res, F.RES_TO, 1, 1, .ro, nil0, .any⟩,
  ⟨.res, F.RES_CAUSE, 1, 1, .ro, nil0, .any⟩,
  ⟨.res, F.RES_QUEUED, 1, 1, .ro, nil0, .any⟩,
  ⟨.res, F.RES_LAST_FIRST, 1, 1, .ro, nil0, .any⟩,
  ⟨.res, F.RES_LAST_END, 1, 1, .ro, nil0, .any⟩,
  ⟨.res, F.RES_LAST_H, 1, 1, .ro, nil0, .any⟩,
  ⟨.res, F.RES_LAST_DRAIN, 1, 1, .ro, nil0, .any⟩,
  ⟨.res, F.RES_HANDOVERS, 1, 1, .ro, nil0, .any⟩,
  ⟨.res, F.RES_ROT_EN, 1, 1, .rw, (fun _ _ => 1), .any⟩,
  ⟨.res, F.RES_ROT_QUIET, 1, 1, .rw, nil0, .any⟩,
  ⟨.res, F.RES_ROT_PERIOD, 1, 1, .rw, (fun _ _ => 60), .range 1 3600⟩,
  ⟨.res, F.RES_ROT_WAIT, 1, 1, .rw, (fun _ _ => 10), .range 1 3600⟩,
  ⟨.res, F.RES_ROT_NEXT, 1, 1, .ro, nil0, .any⟩,
  ⟨.res, F.RES_ROT_RIB, 1, 1, .ro, nil0, .any⟩,
  ⟨.res, F.RES_ROT_SKIPPED, 1, 1, .rc, nil0, .any⟩,
  ⟨.res, F.RES_LOG2P, 1, 1, .rw, (fun _ _ => 4), .range 0 6⟩,
  ⟨.res, F.RES_POS_SPARE, 1, 1, .ro, (fun _ _ => 2), .any⟩,
  ⟨.res, F.RES_POS_TEST, 1, 1, .ro, nil0, .any⟩,
  ⟨.res, F.RES_POS_RETIRED, 1, 1, .ro, nil0, .any⟩,
  ⟨.res, F.RES_RSP_SPARE, 1, 1, .ro, (fun _ _ => 2), .any⟩,
  ⟨.res, F.RES_RSP_RETIRED, 1, 1, .ro, nil0, .any⟩,
  ⟨.res, F.RES_HC_RETRY, 1, 1, .rc, nil0, .any⟩,
  ⟨.res, F.BIST_STATUS, 18, 1, .ro, nil0, .any⟩,
  ⟨.res, F.BIST_PASS, 18, 1, .ro, nil0, .any⟩,
  ⟨.res, F.BIST_RUNS, 18, 1, .ro, nil0, .any⟩,
  ⟨.res, F.BIST_APPLIED, 18, 1, .ro, nil0, .any⟩,
  ⟨.res, F.BIST_SIG_LO, 18, 1, .ro, nil0, .any⟩,
  ⟨.res, F.BIST_SIG_HI, 18, 1, .ro, nil0, .any⟩,
  ⟨.res, F.MARCH_STATUS, 1, 1, .ro, nil0, .any⟩,
  ⟨.res, F.MARCH_UNIT, 1, 1, .ro, nil0, .any⟩,
  ⟨.res, F.MARCH_BANK, 1, 1, .ro, nil0, .any⟩,
  ⟨.res, F.MARCH_LPATCH, 1, 1, .ro, nil0, .any⟩,
  ⟨.res, F.MARCH_FAILED, 1, 1, .ro, nil0, .any⟩,
  ⟨.res, F.MARCH_FAIL_ADDR, 1, 1, .ro, nil0, .any⟩,
  ⟨.res, F.MARCH_FAIL_BIT, 1, 1, .ro, nil0, .any⟩,
  ⟨.res, F.MARCH_ROWS_USED, 1, 1, .ro, nil0, .any⟩,
  ⟨.res, F.MARCH_COLS_USED, 1, 1, .ro, nil0, .any⟩,
  ⟨.res, F.RBIST_STATUS, 2, 1, .ro, nil0, .any⟩,
  ⟨.res, F.RBIST_PASS, 2, 1, .ro, nil0, .any⟩,
  ⟨.res, F.RBIST_RUNS, 2, 1, .ro, nil0, .any⟩,
  ⟨.res, F.RBIST_APPLIED, 2, 1, .ro, nil0, .any⟩,
  ⟨.res, F.RBIST_SIG_LO, 2, 1, .ro, nil0, .any⟩]

def rows_res_1 : List RegRow := [
  ⟨.res, F.RBIST_SIG_HI, 2, 1, .ro, nil0, .any⟩]

/-- The rows of one block. -/
def rows_res : List RegRow := rows_res_0 ++ rows_res_1

def rows_hk_0 : List RegRow := [
  ⟨.hk, F.HK_T_DIODE, 8, 1, .ro, nil0, .any⟩,
  ⟨.hk, F.HK_T_INF, 8, 1, .ro, nil0, .any⟩,
  ⟨.hk, F.HK_T_EFF, 8, 1, .ro, nil0, .any⟩,
  ⟨.hk, F.HK_BAND, 8, 1, .ro, nil0, .any⟩,
  ⟨.hk, F.HK_FAST, 8, 1, .ro, nil0, .any⟩,
  ⟨.hk, F.HK_P_LAYER, 8, 1, .ro, nil0, .any⟩,
  ⟨.hk, F.HK_THETA, 8, 1, .ro, nil0, .any⟩,
  ⟨.hk, F.HK_T_PEAK, 8, 1, .rc, nil0, .any⟩,
  ⟨.hk, F.HK_STACK_PWR, 1, 1, .ro, nil0, .any⟩,
  ⟨.hk, F.HK_PEAK_PWR, 1, 1, .rc, nil0, .any⟩,
  ⟨.hk, F.HK_CAUSE, 1, 1, .ro, nil0, .any⟩,
  ⟨.hk, F.HK_LAYER, 1, 1, .ro, nil0, .any⟩,
  ⟨.hk, F.HK_LATCHED, 1, 1, .ro, nil0, .any⟩,
  ⟨.hk, F.HK_STOPS, 1, 1, .ro, nil0, .any⟩,
  ⟨.hk, F.HK_STOP_STITCH, 1, 1, .ro, nil0, .any⟩]

/-- The rows of one block. -/
def rows_hk : List RegRow := rows_hk_0

def rows_jack_0 : List RegRow := [
  ⟨.jack, F.JK_SWAP, 1, 1, .wo, nil0, .any⟩,
  ⟨.jack, F.JK_ALLOW_FULL, 1, 1, .rw, (fun _ _ => 1), .any⟩,
  ⟨.jack, F.JK_ALLOW_LAYER, 1, 1, .rw, (fun _ _ => 1), .any⟩,
  ⟨.jack, F.JK_SWAP_WAIT, 1, 1, .rw, (fun _ _ => 100), .range 1 255⟩,
  ⟨.jack, F.JK_ACTIVE, 1, 1, .ro, nil0, .any⟩,
  ⟨.jack, F.JK_VALID0, 1, 1, .ro, nil0, .any⟩,
  ⟨.jack, F.JK_VALID1, 1, 1, .ro, nil0, .any⟩,
  ⟨.jack, F.JK_SWAP_PEND, 1, 1, .ro, nil0, .any⟩,
  ⟨.jack, F.JK_BLANK, 1, 1, .ro, nil0, .any⟩,
  ⟨.jack, F.JK_SWAP_STATUS, 1, 1, .ro, nil0, .any⟩,
  ⟨.jack, F.JK_SWAPS, 1, 1, .ro, nil0, .any⟩,
  ⟨.jack, F.JK_TO_JACK, 8, 1, .rw, nil0, .any⟩,
  ⟨.jack, F.JK_FROM_JACK, 8, 1, .ro, nil0, .any⟩]

/-- The rows of one block. -/
def rows_jack : List RegRow := rows_jack_0

/-- The rows of a block. -/
def rowsOf : Blk → List RegRow
  | .dev => rows_dev
  | .clk => rows_clk
  | .hk => rows_hk
  | .host => rows_host
  | .seam => rows_seam
  | .cfg => rows_cfg
  | .sec => rows_sec
  | .res => rows_res
  | .jack => rows_jack
  | .ribbon => rows_ribbon
  | .patch => rows_patch
  | .bolt => rows_bolt
  | .trig => rows_trig

/-! The blocks' bases (R536, R537). -/

def DEV : Nat := 0x0
def CLK : Nat := 0x1000
def HK : Nat := 0x2000
def HOST : Nat := 0x3000
def SEAM (n : Nat) : Nat := 0x4000 + 0x400 * n
def CFG : Nat := 0x6000
def SEC : Nat := 0x7000
def RES : Nat := 0x8000
def JACK : Nat := 0x9000
def RIBBON (r : Nat) : Nat := if r < 32 then 0x10000 + 0x800 * r else 0xA000 + 0x800 * (r - 32)
def PATCH (p : Nat) : Nat := 0x20000 + 0x1000 * p
def BOLT (k : Nat) : Nat := 0x50000 + 0x400 * k
def TRIG : Nat := 0x60000

/-- Block, instance and offset of a BAR0 offset; none outside the extents of R536. -/
def locate (a : Nat) : Option (Blk × Nat × Nat) :=
  if a < 0x1000 then some (.dev, 0, a)
  else if a < 0x2000 then some (.clk, 0, a - 0x1000)
  else if a < 0x3000 then some (.hk, 0, a - 0x2000)
  else if a < 0x4000 then some (.host, 0, a - 0x3000)
  else if a < 0x5800 then some (.seam, (a - 0x4000) / 0x400, (a - 0x4000) % 0x400)
  else if a < 0x6000 then none
  else if a < 0x7000 then some (.cfg, 0, a - 0x6000)
  else if a < 0x8000 then some (.sec, 0, a - 0x7000)
  else if a < 0x9000 then some (.res, 0, a - 0x8000)
  else if a < 0xA000 then some (.jack, 0, a - 0x9000)
  else if a < 0xB000 then some (.ribbon, 32 + (a - 0xA000) / 0x800, (a - 0xA000) % 0x800)
  else if a < 0x10000 then none
  else if a < 0x20000 then some (.ribbon, (a - 0x10000) / 0x800, (a - 0x10000) % 0x800)
  else if a < 0x32000 then some (.patch, (a - 0x20000) / 0x1000, (a - 0x20000) % 0x1000)
  else if a < 0x50000 then none
  else if a < 0x54000 then some (.bolt, (a - 0x50000) / 0x400, (a - 0x50000) % 0x400)
  else if a < 0x60000 then none
  else if a < 0x61000 then some (.trig, 0, a - 0x60000)
  else none

/-- The array indexes at which a row's word lies at block offset `o`, if it does. -/
def RegRow.index (r : RegRow) (o : Nat) : Option (Nat × Nat) :=
  if o < r.f.off then none
  else
    let d := o - r.f.off
    let i := if r.f.st1 = 0 then 0 else min (d / r.f.st1) (r.n1 - 1)
    let e := d - r.f.st1 * i
    let j := if r.f.st2 = 0 then 0 else min (e / r.f.st2) (r.n2 - 1)
    if e = r.f.st2 * j then some (i, j) else none

/-- The rows, with their index, whose field lies in the word at a block offset. The lane and node registers of RIBBON[32] and
RIBBON[33] do not exist (R153). -/
def rowsAt (b : Blk) (inst o : Nat) : List (RegRow × Nat) :=
  if b = .ribbon ∧ 32 ≤ inst ∧ 0x40 ≤ o then []
  else (rowsOf b).filterMap (fun r => (r.index o).map (fun ij => (r, ij.1)))

/-- The word that BAR0 offset `a` holds after the reset that covers it (R4, R538). -/
def resetWord (a : Nat) : W32 :=
  match locate a with
  | none => 0
  | some (b, inst, o) =>
    (rowsAt b inst o).foldl (fun w r => setBitsOf r.1.f.hi r.1.f.lo w (r.1.reset inst r.2)) 0

/-- A value held within a clamp (R6, R7). -/
def Clamp.apply (c : Clamp) (v : Nat) : Nat :=
  match c with
  | .any => v
  | .rule => v
  | .range lo hi => if v < lo then lo else if hi < v then hi else v
  | .srange n lo hi => ofSigned n (clampInt (-(lo : Int)) hi (toSigned n v))
  | .top last x => if last < v then x else v
  | .one bad x => if v = bad then x else v
  | .mid lo hi x => if lo ≤ v ∧ v ≤ hi then x else v
  | .pow2 lo hi => if v < lo then lo else if hi < v then hi else 2 ^ Nat.log2 v
  | .align n => v / 2 ^ n * 2 ^ n

end Sys2Proof.Machine
end

