-- ==== Sys2Proof/Machine/State.lean ====
section
/-! DEFINITION. The state of the device, as plain data: the register store, the hidden state of every block, and the queue of waiting
commands. A register's visible word lives in `regs` alone; the sub-structures hold what no register shows. -/

namespace Sys2Proof.Machine

/-- Why the device stops. No command of the opcode table ends so: every command has an effect that the spec gives (see NOTES.md). -/
inductive Fault where
  /-- Raised by no meaning: the device goes on under every command. Safe, since a stop could prove nothing false. -/
  | none_
  deriving DecidableEq, Repr

/-- Why a command has no answer. -/
inductive Refusal where
  /-- Kept for an arm of exec without a meaning; no arm raises it. Safe, since a stop could prove nothing false. -/
  | notModelled (mnemonic : String)
  deriving DecidableEq, Repr

/-- The status codes of R13. -/
inductive Status where
  | ok | pending | empty | refused | deferred | conditions | incomplete | poison | targetReset | identity | streamShort | securityHalt | forced
  deriving DecidableEq, Repr

/-- The code of a status (R13). -/
def Status.code : Status → Nat
  | .ok => 0x00 | .pending => 0x01 | .empty => 0x02 | .refused => 0x03 | .deferred => 0x04 | .conditions => 0x05 | .incomplete => 0x06
  | .poison => 0x07 | .targetReset => 0x08 | .identity => 0x09 | .streamShort => 0x0A | .securityHalt => 0x0B | .forced => 0x0C

/-- A status's place in the order of R14: of two that apply, the one with the lower rank is reported. -/
def Status.rank : Status → Nat
  | .securityHalt => 0 | .targetReset => 1 | .poison => 2 | .conditions => 3 | .refused => 4 | .identity => 5 | .streamShort => 6
  | .incomplete => 7 | .forced => 8 | .deferred => 9 | .pending => 10 | .empty => 11 | .ok => 12

/-- The status reported where two apply to one operation (R14). -/
def Status.first (a b : Status) : Status := if a.rank ≤ b.rank then a else b

/-- The host events of R318. -/
inductive EvCode where
  | couplerFault | rspMoved | busContention | planeLoadBad | handover | rowSpared | bucketOvf | selftestFail
  | laneFault | ribbonNoRsp | spareExhausted | poison
  | clockLoss | clockRestored | syncLost | trigLate
  | thermalWarn | thermalCrit | thermalShutdown | neighbourHot | powerStop
  | securityAlarm | programUnloaded
  deriving DecidableEq, Repr

/-- The code of an event; its class is the high digit (R318). -/
def EvCode.code : EvCode → Nat
  | .couplerFault => 0x01 | .rspMoved => 0x02 | .busContention => 0x03 | .planeLoadBad => 0x04 | .handover => 0x05 | .rowSpared => 0x06
  | .bucketOvf => 0x07 | .selftestFail => 0x08 | .laneFault => 0x10 | .ribbonNoRsp => 0x11 | .spareExhausted => 0x12 | .poison => 0x13
  | .clockLoss => 0x20 | .clockRestored => 0x21 | .syncLost => 0x22 | .trigLate => 0x23 | .thermalWarn => 0x30 | .thermalCrit => 0x31
  | .thermalShutdown => 0x32 | .neighbourHot => 0x33 | .powerStop => 0x34 | .securityAlarm => 0x40 | .programUnloaded => 0x50

/-- A timestamp (R56). -/
structure Stamp where
  stitch : W64
  off : Nat
  deg : Bool
  hold : Bool
  deriving DecidableEq, Repr

/-- The 80 bits of a timestamp as a number (R56). -/
def Stamp.num (t : Stamp) : Nat := t.off % 2 ^ 13 + 2 ^ 13 * bit t.deg + 2 ^ 14 * bit t.hold + 2 ^ 16 * t.stitch.toNat

/-- An event record before its number is given (R319). -/
structure EvRec where
  ts : Stamp
  code : Nat
  status : Nat
  device : Nat
  block : Nat
  inst : Nat
  args : List W32
  deriving DecidableEq, Repr

/-- A raise of a trigger line in the stitch of its raise (R305, R306, R317): its timestamp, which for an external edge is that of its first
sample (R57), and the offset at which it takes place. -/
structure Raise where
  ts : Stamp
  at_ : Nat
  cls : Nat
  dev : Nat
  multi : Bool
  deriving DecidableEq, Repr

/-- A system raise that waits for the boundary opening `due` (R309). -/
structure SysRaise where
  line : Nat
  due : W64
  r : Raise
  deriving DecidableEq, Repr

/-- What a trigger ball does (R315): the level it drives, none where it is high-impedance; the levels that it comes to later, with their root
times; and the end of the pulse that runs. -/
structure BallSt where
  drive : Option Bool
  later : List (Nat × Bool)
  pulse : Option Nat
  deriving DecidableEq, Repr

/-- The trigger network. -/
structure TrigSt where
  raised : Tab (Option Raise)     -- lines raised in the current stitch
  next : List (Nat × Raise)       -- raises that fall into the next stitch, with their lines (R314)
  masksWere : Tab W32             -- mask words before the last boundary, for raises before offset 8 (R308)
  sysDue : List SysRaise          -- system raises not yet due (R309)
  latched : W64                   -- lines asserted in the current stitch (R305)
  balls : Tab BallSt
  unread : List Nat               -- log entries that no read has met
  logged : Bool                   -- an entry has been written
  based : Bool                    -- EVQ_BASE_LO has been written since the last reset (R320)
  deriving DecidableEq, Repr

/-- Where the SYNC_IN and degraded flags stand that no register shows (R70 to R76). -/
structure TimeSt where
  root : Nat                      -- root cycles from stitch 0 to the start of the current stitch, on the head device's timeline (R66)
  run : Nat                       -- root cycles to the start of the current stitch, counted on through alignments and starts
  since : W64                     -- the stitch from which the present period holds, and the period before it (R57)
  before : Nat
  due : Nat                       -- stitches until the announced period change; 0 with none announced
  announce : Bool                 -- N_REQ was written: announce or cancel at the next boundary (R60, R61)
  degraded : Bool
  degClear : Bool                 -- DEGRADED clears at the next boundary
  headDeg : Bool                  -- the head device's timestamps are degraded (R75)
  holdover : Bool
  holdClear : Bool                -- HOLDOVER clears at the next boundary (R72)
  syncRef : Option Nat            -- root time of the edge from which the next interval counts (R70)
  expected : Nat                  -- expected root time of the next edge (R70, R71)
  accepted : Nat                  -- root time of the last accepted edge; 0 before any (R72)
  edge : Option Stamp             -- the stamp of the last edge, accepted or not (R70)
  good : Nat                      -- consecutive accepted edges within 16 root cycles
  freqAdj : Int                   -- freq_adj in units of 1/25,600 ppm, in which the steps of R71 are exact
  counting : Bool                 -- the stitch counter runs (R55)
  newN : Nat                      -- N of the announced change
  discFrom : Nat                  -- root time from which DISCIPLINE has been effective (R72)
  deriving DecidableEq, Repr

/-- A posted write (R121): of a patch sequencer to a bank or a check-value unit, or of any processor through a string. The register that a
string reaches was found when the write was issued (none: the write is discarded); `lands` is the offset within the next stitch, where the
write lands before the step-3 changes of its boundary (R89). -/
inductive Posted where
  | str (slot str w : Nat) (addr : Option Nat) (v : W32) (lands : Option Nat)
  | stw (addr : Nat) (n : Nat) (v : W64)
  | cvf (u : Nat) (n : Nat) (v : W64)
  | cvwr (u : Nat) (v : W64)
  deriving DecidableEq, Repr

/-- A string-table entry in its clamped form (R99). -/
structure Bind where
  str : Nat
  target : Nat
  base : Nat
  size : Nat
  inst : Nat
  deriving DecidableEq, Repr

/-- A program image as a page or slot holds it (R97, R98): header words, raw string-table entries, instructions. -/
structure Image where
  loaded : Bool
  short : Bool                    -- fewer bytes were loaded than the image's size
  crcOk : Bool                    -- the CRC of R98 matched when the image was loaded
  hdr : List W32
  strs : List W64
  code : List W32
  binds : List Bind
  admitted : Bool
  wcMain : Nat
  wcEvent : Nat
  deriving DecidableEq, Repr

/-- A hardware loop in progress: first and past-last instruction of the body, iterations still to run (R107). -/
structure LoopFrame where
  first : Nat
  stop : Nat
  left : Nat
  deriving DecidableEq, Repr

/-- A WAITT in progress: predicate, line, cycle at which it began, bound (R109). -/
structure Wait where
  pd : Nat
  line : Nat
  from_ : Nat
  bound : Nat
  deriving DecidableEq, Repr

/-- A program command that waits for its boundary (R110, R112). -/
inductive ProgCmd where
  | start (c : CmdRef)
  | stop (c : CmdRef)
  | post (c : CmdRef) (words : List W32) (reply : Bool)
  deriving DecidableEq, Repr

/-- A processor (R77, R78, R146): register banks (bank 0 main, 1 shadow), memories, write queue and the work of the current stitch. -/
structure ProcSt where
  g : Tab W64                     -- key 32·bank + r
  a : Tab W32                     -- key 8·bank + r
  o : Tab W32
  p : Tab Bool
  v : Tab (BitVec 48)             -- key 64·bank + 8·v + lane
  dl : Tab W16                    -- key 16·lane + index
  tp : BitVec 4
  e : Tab W16
  mu : BitVec 5
  dmem : Tab Byte
  imgs : Tab Image                -- pages 0 and 1, or slots 0 to 15
  pc : Nat
  stop : Nat                      -- past-last instruction of the program that runs
  loops : List LoopFrame
  cycle : Nat                     -- processor cycle of the stitch at which the next instruction issues
  active : Bool                   -- a program is at work in this stitch
  frozen : Bool                   -- in a handover freeze or a move
  stalled : Bool                  -- stopped by a lockstep mismatch: it runs no program until a rebind or a refusal (R467, R468)
  cur : Nat                       -- Graov-M: the slot that runs
  back : Bool                     -- DONE without HOLD in the event program: the main bank at the next boundary (R93)
  wait : Option Wait
  wq : List Posted                -- posted writes in flight, in issue order
  mailIn : Tab W32                -- key 16·slot + word
  mailOut : Tab W32
  replies : List (Nat × CmdRef)   -- posts that await a reply, with their slot (R114)
  cmds : List (Nat × ProgCmd)     -- program commands that wait for the boundary, with their slot
  evWord : BitVec 16              -- Graov-M: its own pending word (R323)
  cause : Tab W32                 -- Graov-S: lane-event causes of string 6 (R84, R179)
  deriving DecidableEq, Repr

/-- An entry of a repeat tracker (R343): address, count, root time of the first write-back. -/
structure TrackEnt where
  addr : Nat
  count : Nat
  first : Nat
  deriving DecidableEq, Repr

/-- Row replacement in a bank or bolt (R344, R345): rows to copy, the first of them in copy; rows copied that the map names from the next
boundary; rows replaced; whether the end of the spares was reported; rows with a hard fault that stay in use. -/
structure RowFix where
  toCopy : List Nat
  copied : List Nat
  mapped : List Nat
  reported : Bool
  kept : List Nat
  used : Nat                      -- spare rows taken by a preserving march, in use from the next boundary (R476)
  deriving DecidableEq, Repr

/-- A window access in progress, as it was at its GO (R331). -/
structure WinReq where
  bank : Nat
  word : Nat
  data : W64
  write : Bool
  bytes : Nat
  deriving DecidableEq, Repr

/-- A bank of a physical position (R327, R328): its words and poison marks, its owner and a requested one, error tracking, and its queue
controller's pointers (R218). -/
structure BankSt where
  words : Tab W64
  poison : Tab Bool
  owner : Nat
  req : Option Nat
  track : List TrackEnt
  rows : RowFix
  patrol : Nat
  passAt : Option Nat             -- root time at which the patrol pass began; none: the first pass, from the end of the march (R342)
  leakAt : Option Nat             -- root time at which the leak period ends; none: the first since the start (R341)
  qhead : Nat
  qtail : Nat
  qlevel : Nat
  lost : Option Nat               -- the contents were lost: the first free value that unlisted words read as (R481)
  copy : Tab (Option W64)         -- words whose copy at a handover's target differs: its data, or none where it is poisoned (R462)
  deriving DecidableEq, Repr

/-- A line's side storage beyond tag and check symbols (R350). -/
structure LineMeta where
  wctr : Nat
  epoch : Bool
  poison : Bool
  deriving DecidableEq, Repr

/-- A bolt (R333, R350, R354): its bytes as plain text, its lines' side storage, the EPOCH bit of lines not listed there, by region, and
the regions that wait for re-encryption, the first in its pass. -/
structure BoltSt where
  mem : Tab Byte
  meta_ : Tab LineMeta
  regionBit : Tab Bool
  track : List TrackEnt
  rows : RowFix
  patrol : Nat
  passAt : Nat                    -- root time at which the patrol pass began, and its seconds (R342)
  passS : Nat
  leakAt : Option Nat             -- as in a bank
  rekeys : List Nat
  decFails : Nat
  lost : List Nat                 -- layers whose contents were lost since they were last written whole (R481)
  lostAt : Nat                    -- the first free value that their unlisted bytes read as
  deriving DecidableEq, Repr

/-- What a fabric port of a patch shows (R218, R329, R340). -/
structure PortOut where
  valid : Bool
  deny : Bool
  status : Nat
  data : List Byte
  deriving DecidableEq, Repr

/-- The capture settings latched at a start (R252, R263, R264). -/
structure CapCfg where
  mode : Nat
  trigEn : Bool
  trigLine : Nat
  kib : Bool                      -- DEPTH_UNIT
  preWait : Bool
  segWrap : Bool
  closeEn : Bool
  closeLine : Nat
  pre : Nat
  post : Nat
  segCount : Nat
  trainMax : Nat
  recBase : Nat
  recSize : Nat
  idxBase : Nat
  segBase : Nat
  deriving DecidableEq, Repr

/-- A capture unit in the verdict buffer (R229 to R239): header fields, payload (for 8B10B its characters with their control marks), the
verdict that binds, whether it has left the buffer, the first stitch after its window (R236), whether the window has closed, whether the engine
captures it (R252, R266) and whether its slot takes no verdicts. -/
structure CapUnit where
  slot : Nat
  unit : Nat
  lane : Nat
  ts : Stamp
  kind : Nat
  body : List Byte
  ctl : List Bool
  chars : Bool
  os : Bool
  fec : Bool
  link : Bool
  disc : Bool
  codeErr : Bool
  cont : Bool
  fecSym : Nat
  chk : Nat
  strip : Nat
  arriving : Bool
  verdict : Option (Nat × Nat × Nat)
  out : Bool
  due : W64
  closed : Bool
  live : Bool
  novd : Bool
  deriving DecidableEq, Repr

/-- What a record says beyond its place (R244). -/
structure RecInfo where
  slot : Nat
  lane : Nat
  ts : Stamp
  kind : Nat
  verdict : Nat
  trunc : Bool
  ulen : Nat
  payload : List Byte
  flags : Nat
  fecSym : Nat
  tag : Nat
  codeErr : Bool
  deriving DecidableEq, Repr

/-- A record that the space holds (R250, R256). -/
structure PlacedRec where
  seg : Nat
  off : Nat
  size : Nat
  tpos : Nat
  deriving DecidableEq, Repr

/-- How the open segment's space stands: what placing a record changes (R245, R246, R250, R254 to R256). -/
structure Placing where
  placed : List PlacedRec
  wpos : Nat
  pass : Nat
  records : Nat
  trigRec : Option Nat
  preRecs : Nat
  preBytes : Nat
  postRecs : Nat
  postBytes : Nat
  wrapped : Bool
  seq : W32
  deriving DecidableEq, Repr

/-- A record in the record queue, its place fixed (R239, R257): bolt offset, padded bytes, and what its index entry takes; what it says (none
for a FILL), the losses that its GAP_COUNT tells of, the fabric cycle in which it entered, and how the space stood before it. -/
structure CapRec where
  place : Nat
  bytes : List Byte
  stitch : W64
  seq : W32
  pass : Nat
  seg : Nat
  info : Option RecInfo
  lost : Nat
  cycle : Nat
  was : Placing
  deriving DecidableEq, Repr

/-- A record in the bolt (R261): its lines, its segment and capture, the bolt offsets of the entries of its page and segment, and whether it is
known to be damaged. -/
structure HeldRec where
  off : Nat
  size : Nat
  seg : Nat
  run : Nat
  idxAt : Nat
  segAt : Nat
  bad : Bool
  deriving DecidableEq, Repr

/-- A STREAM chunk that has ended early (R234): its lane with the rate and the latency that date it, and the instant. -/
structure ChunkCut where
  lane : Nat
  rate : Nat
  lat : Nat
  disc : Bool
  stitch : W64
  off : Nat
  deriving DecidableEq, Repr

/-- The index entry of the page that records are being written to (R248, R249). -/
structure IdxPage where
  page : Nat
  stitch : W64
  first : Nat
  count : Nat
  gap : Bool
  pass : Nat
  seq : W32
  stop : Nat                      -- the last page that its last record touches
  damaged : Bool
  deriving DecidableEq, Repr

/-- A closed segment whose entry is written when the records queued before the close are (R250, R257). -/
structure SegClose where
  seg : Nat
  left : Nat
  cause : Nat
  trigger : Option Stamp
  preShort : Bool
  damaged : Bool
  pl : Placing
  deriving DecidableEq, Repr

/-- The capture engine of a logical patch. -/
structure CapSt where
  cfg : CapCfg
  reqs : List (Nat × Option CmdRef)
  units : List CapUnit
  queue : List CapRec
  pl : Placing
  trigger : Option Stamp
  segPass : Tab Nat               -- the next pass of each segment
  idx : Option IdxPage
  closes : List SegClose
  last : Option SegClose          -- the last segment, closed by SEGMENTS_DONE
  written : List Nat              -- pages whose index entries are written, oldest first
  held : List HeldRec
  gaps : Tab Nat
  chunkDisc : Tab Bool
  cuts : Tab ChunkCut
  inFrame : Tab Bool
  keptNow : Nat
  deriving DecidableEq, Repr

/-- A copy of a pattern unit that waits in a slot's queue, or a staged action unit (R278, R284); `ser` numbers the units that the engine has
read, which their copies share. -/
structure TxCopy where
  ser : Nat
  thread : Nat
  kind : Nat
  body : List Byte
  submask : Nat
  badcv : Bool
  gap : Nat
  deriving DecidableEq, Repr

/-- A unit in a prefill buffer: its bytes and how many are still to be sent, the fill bytes after it (R290), and whether an immediate action
released it (R165). -/
structure TxUnit where
  body : List Byte
  left : Nat
  gap : Nat
  action : Bool
  deriving DecidableEq, Repr

/-- The fill of a PCS mode (R289). -/
inductive FillKind where
  | userWord (w : W32)                       -- BYPASS: USER_FILL repeated, bit 0 first
  | logicalIdle                              -- D0.0, or logical idle data blocks
  | k285                                     -- K28.5 D21.4 D21.5 D21.5
  | userChars (w : W32) (map : Nat)          -- USER_FILL's characters, USER_MAP marking control characters
  | idleBlock
  | idleFlit
  deriving DecidableEq, Repr

/-- What a transmitter sends (R164, R289 to R291): bytes of a unit's stored payload, bytes of fill, a skip ordered set, the ending of a unit that
underran. -/
inductive LineItem where
  | data (bytes : List Byte)
  | fill (kind : FillKind) (n : Nat)
  | skip
  | error (pcs : Nat)
  deriving DecidableEq, Repr

/-- A SEND in progress (R278). -/
structure SendSt where
  rec_ : Nat
  n : Nat
  slots : Nat
  submask : Nat
  badcv : Bool
  gap : Nat
  deriving DecidableEq, Repr

/-- A descriptor thread beyond its status word (R274 to R277): open loops as (iterations left, body), overflow levels, a SEND in progress,
the boundary at which a WAIT ends, the slots of a SYNC. -/
structure ThreadSt where
  loops : List (Nat × Nat)
  ovf : Nat
  send : Option SendSt
  until_ : Option W64
  sync : Option Nat
  deriving DecidableEq, Repr

/-- The pattern engine of a logical patch. -/
structure PatSt where
  threads : Tab ThreadSt
  queues : Tab (List TxCopy)
  subWork : Tab W64
  subNew : Tab Bool
  acts : Tab (Option TxCopy)
  loads : List Nat                -- action slots whose LOAD was written since the last boundary
  staging : List Nat              -- action slots being staged
  ser : Nat                       -- number of the unit read next
  banks : List Nat                -- the banks of its prefetch area at the last boundary (R271)
  resume : W64                    -- the first stitch in which it delivers after a handover (R292)
  owed : List Nat                 -- action slots whose release waits for that stitch
  reqs : List (Nat × Nat × Option CmdRef)
  deriving DecidableEq, Repr

/-- A check-value unit within a stream unit (R297 to R303): the settings it works under, the last W counted bytes not yet fed, payload
bytes and counted bytes so far, and the last outcome with the fabric cycle in which the fabric sees it. -/
structure CvSt where
  cfg : W32
  active : Bool
  tail : List Byte
  pos : Nat
  counted : Nat
  res : Nat
  resAt : Nat
  deriving DecidableEq, Repr

/-- A request that occupies or waits for a lane (R187 to R192): its remaining time in root cycles once it runs, the stitches outside a
quiet window, and the receiver's state at its start. -/
structure LaneReq where
  c : CmdRef
  kind : Nat
  force : Bool
  left : Nat
  outside : Nat
  wasUp : Bool
  deriving DecidableEq, Repr

/-- A unit in a receive elastic buffer (R162): its timestamp, made as it entered (R57), and the root time at which its last symbol crossed
the balls (R35). With no unit it says that the lane left UP there (R232). -/
structure EbUnit where
  u : Option RxUnit
  ts : Stamp
  ends : Nat
  deriving DecidableEq, Repr

/-- A lane beyond its registers. -/
structure LaneSt where
  eb : List EbUnit                -- the receive elastic buffer, oldest first
  ebRead : Nat                    -- bytes that the patch side has had time to read since the buffer began to back up
  prefill : List TxUnit
  acc : Nat
  sending : Bool                  -- the prefill level was reached since the transmitter started or underran (R164)
  skip : Nat                      -- bytes until the next skip ordered set falls due (R289)
  sent : List LineItem            -- what it sent in the last stitch
  disc : Bool                     -- the next unit carries a discontinuity (R163)
  marked : Bool                   -- the unit that arrives carries a check failure of a boundary (R27)
  bursts : List Nat               -- uncorrectable counts of the last stitches, newest first (R175)
  burst : Bool
  ctl : W32                       -- LN_CTL and LN_RATE in effect (R157)
  rate : W32
  quiet : Option Nat              -- a QUIET write that opens its window at the next boundary (R188)
  runs : List LaneReq             -- requests that occupy the lane, in the order in which they started
  waiting : List LaneReq
  opened : W64                    -- the stitch in which the open quiet window began
  group : Nat × Nat               -- its bond group in effect: first lane, members
  rxPpm : Int                     -- frequency recovered by the receiver, from LN_RATE in ppm (R158)
  txHeld : Option Int             -- the frequency that LOOP follows or has followed last; none: it has never followed one (R161)
  loopTest : Bool                 -- the loopback test of the start-up failed (R185)
  deriving DecidableEq, Repr

/-- A ribbon: its recovery record (R180) and a processor move in progress (R182). -/
structure RibSt where
  rlane : Nat
  rvalid : Bool
  fill : Nat
  rfrom : Nat                     -- root time of the record's first sample, and its phase (free)
  phase : Nat
  moveTo : Option Nat
  moveLeft : Nat
  moveReq : Bool
  moveFault : Bool                -- the request is for a fault of the position (R182)
  moveFirst : W64
  deriving DecidableEq, Repr

/-- A plane's configuration (R193 to R199): what each frame configures, by INDEX. -/
abbrev Plane := Tab (List PlaneItem)

/-- A multiply-accumulate block (R217): the inputs taken, the products made, each with its operation, and the accumulator. -/
structure MacSt where
  a : Int
  b : Int
  d : Int
  op1 : Nat
  p : Int
  q : Int
  op2 : Nat
  acc : BitVec 48
  deriving DecidableEq, Repr

/-- A resident plane's own state (R205): flip-flops and shift tables (key 65536·half + cell), multiply-accumulate blocks (key 128·half + block),
and what is under way on its tacks (key 512·up + entry). -/
structure PlaneSt where
  ff : Tab Bool
  sh : Tab W16
  macs : Tab MacSt
  tacks : Tab Bool
  deriving DecidableEq, Repr

/-- A unit's beats on a receive stream port (R226, R227), from a fabric cycle on, 32 B each: tag, bytes, timestamp, marks, and the beats with
which CU_SOU is asserted (R231, R235). -/
structure RxBeats where
  at_ : Nat
  unit : Nat
  bytes : List Byte
  ts : Stamp
  mark : Nat
  sou : List Nat
  deriving DecidableEq, Repr

/-- A write of PLANE_CTL that acts at the next boundary (R209 to R211). -/
structure PlaneReq where
  load : Option Nat
  swap : Bool
  arm : Bool
  line : Nat
  deriving DecidableEq, Repr

/-- A bus line that has been in contention (R200 to R202): disabled, locked, the frames still to be read back clean, and the stitch of its last
re-enabling. -/
structure BusLine where
  half : Bool
  line : Nat
  off : Bool
  locked : Bool
  need : List Nat
  reen : Option W64
  deriving DecidableEq, Repr

/-- An exchange message on its way (R220 to R223): `left` is the root time at which its last flit has left the port if nothing holds it, and
`inNet` says that it had when its source froze. -/
structure XMsg where
  left : Nat
  inNet : Bool
  dests : List Nat
  chan : Nat
  flits : List (BitVec 128)
  deriving DecidableEq, Repr

/-- The fabric of a logical patch: released or not, resident planes by identity, their configuration and state, stored planes by slot, plane
requests, contention, exchange queues, stream-unit counts, stream ports and balls. -/
structure FabSt where
  released : Bool
  active : Option Nat
  shadow : Option Nat
  aCfg : Plane
  sCfg : Plane
  aSt : PlaneSt
  sSt : PlaneSt
  store : Tab Plane
  edge : Nat                      -- fabric cycle of the stitch whose edge comes next
  rx : Tab (List RxBeats)         -- by slot
  balls : Tab Bool                -- the value that each output ball drives
  reqs : List PlaneReq
  armed : Option Nat
  loadLeft : Nat
  loadSlot : Nat
  loadNext : Option Nat           -- a load that waits for a pending swap (R210)
  loadDone : Bool                 -- the last frame is written; the shadow is valid from the next boundary
  heldReqs : List PlaneReq
  lines : List BusLine
  logNext : Nat
  sendQ : List XMsg
  recvQ : List (BitVec 128)
  lastSrc : Nat
  rxUnit : Tab Nat
  deriving DecidableEq, Repr

/-- A result slot (R379): state 0 EMPTY, 1 PENDING, 2 READY. -/
structure SlotSt where
  seq : W16
  state : Nat
  status : Nat
  tag : W16
  reads : Nat
  data : List W32
  notify : Bool
  deriving DecidableEq, Repr

/-- A spool beyond its registers (R370, R371): base and depth in effect, fetched entries, an entry read that failed once, and EN cleared
since the last boundary. -/
structure SpoolSt where
  base : Nat
  depth : Nat
  fetched : List (List Byte)
  retried : Bool
  stopping : Bool
  deriving DecidableEq, Repr

/-- How far a dispatched command is (R375, R378, R189): newly dispatched, waiting for host data, at work, waiting for a quiet
window or another command, or held behind the start-up self-tests (R480, R518). -/
inductive Phase where
  | fresh | reading | running | waiting | held
  deriving DecidableEq, Repr

/-- A dispatched command that has not completed: its entry in clamped form, the stitch of its dispatch, and a status its data reads have
earned (R378, R389). -/
structure DispCmd where
  c : CmdRef
  entry : List Byte
  at_ : W64
  phase : Phase
  status : Status
  deriving DecidableEq, Repr

/-- A completed command whose slot becomes READY at the next boundary (R383). -/
structure DoneCmd where
  c : CmdRef
  status : Status
  data : List W32
  deriving DecidableEq, Repr

/-- An offload on a channel (R262, R384): FOLLOW or SNAPSHOT, a segment it is limited to and whether that has closed (1) and been reopened
(2), the pages to send, oldest first, each with the RUN and PASS found at the start of a SNAPSHOT, its counts, the host buffer, the remote
device that its pages come from, and a stop at the next boundary. -/
structure ChanSt where
  c : CmdRef
  follow : Bool
  limitSeg : Option Nat
  segPhase : Nat
  queue : List (Nat × Nat)
  sent : Nat
  skipped : Nat
  damaged : Nat
  bufPages : Nat
  dataAddr : Nat
  idxAddr : Nat
  progAddr : Nat
  note : Nat
  source : Option Nat
  stopping : Bool
  deriving DecidableEq, Repr

/-- What the endpoint's AER capability records: the halt, an Uncorrectable Internal Error that is fatal (R358), and a host read that ended
with an error or a poisoned completion (R378). -/
inductive AerErr where
  | internal
  | readError
  deriving DecidableEq, Repr

/-- The host interface beyond its registers. -/
structure HostSt where
  aer : List AerErr               -- errors that AER has recorded; a fatal one was sent as ERR_FATAL (R358, R378)
  spools : Tab SpoolSt
  slots : Tab SlotSt              -- key 256·spool + index
  rr : Nat                        -- the spool dispatched from last
  cmds : List DispCmd             -- dispatched, not completed
  done : List DoneCmd
  orphan : List CmdRef            -- commands whose results are discarded (R393)
  chans : Tab ChanSt
  chanTurn : Nat                  -- channel that sent a page last (R387)
  vecs : List Nat                 -- vectors caused in this stitch (R368)
  msix : List (Nat × Nat × Nat)   -- messages sent: vector, address, data
  d3 : Bool                       -- in D3hot
  master : Bool                   -- Bus Master Enable (R368)
  slotData : List W32             -- the words that the last read of a result slot returned (R379)
  respHi : W32                    -- the second word of the last 8 B read through the system window (R391)
  subsys : W32                    -- subsystem IDs in configuration space, loaded at a start (R360, R567)
  deriving DecidableEq, Repr

/-- What a coupler group holds (R24, R25): the couplers that have failed (16 parity, 17 spare), the one steered onto the spare, one to be
steered at the next boundary, whether the group is exhausted, and whether its end was reported (R27). -/
structure GroupSt where
  failed : List Nat
  steered : Option Nat
  toSteer : Option Nat
  exhausted : Bool
  out : Bool
  deriving DecidableEq, Repr

/-- A ribbon binding that waits for its boundary (R36): logical patch, field (false RIB_A), ribbon, the root time at which it landed, its
place among the paths of R539, and the command that completes with it. -/
structure BindWrite where
  k : Nat
  fieldB : Bool
  rib : Nat
  at_ : Nat
  rank : Nat
  c : Option CmdRef
  deriving DecidableEq, Repr

/-- A control transfer that is sent again in the next stitch (R27): its group, the command it serves, and whether that stitch has begun. -/
structure Resend where
  group : Nat
  c : Option CmdRef
  again : Bool
  deriving DecidableEq, Repr

/-- A slot of a patch whose lane went to another patch at a boundary (R35): the units on their way then still come here. -/
structure LateSlot where
  k : Nat
  slot : Nat
  lane : Nat
  at_ : Nat                       -- root time of the boundary
  deriving DecidableEq, Repr

/-- Couplers, bindings and the key (R17 to R46). -/
structure StackSt where
  groups : Tab GroupSt            -- key 4096·boundary + group
  phaseBand : Tab Nat             -- the band whose phase set each boundary's couplers sample with (R28, R29)
  exh : List Nat                  -- positions with a group newly exhausted, reported at the next boundary (R25)
  resend : List Resend
  marked : List (Nat × Nat)       -- DRAM reads that carry marked bit times (R27): bolt, line
  binds : List BindWrite          -- in the order in which they landed
  heldBinds : List BindWrite      -- held during a handover (R37)
  late : List LateSlot
  keyStore : BitVec 256           -- the master copy of the device key (R43)
  keyCopies : Tab (BitVec 256)    -- working copies: 0 to 5 seam engines, 6 to 21 bolt controllers
  keyStop : Bool                  -- the TRNG failed three times (R45)
  deriving DecidableEq, Repr

/-- A frame as the device sends it (R397 to R399): header, TIME cell, and the control and data cells it carries. -/
structure SeamFrame where
  fctr : Nat
  gen : Nat
  seam : Nat
  src : Nat
  stitch : W64
  offset : Nat
  echo : Option (W64 × Nat × Nat) -- the last TIME cell received: stitch, offset, and how long the sender held it (1/32 root cycles)
  hot : Option (Nat × Nat)
  trigs : List TrigEntry
  msgs : List (Nat × Msg)
  data : List DataCell
  deriving DecidableEq, Repr

/-- A seam beyond its registers (R397 to R405, R416). -/
structure SeamSt where
  fctr : Nat                      -- FCTR of the next frame sent
  key : Bool                      -- the peer's key is in the seam engine
  rtts : List Nat                 -- the last 256 round trips, newest first
  trigOut : List TrigEntry        -- raise entries that wait for a control slot
  msgOut : List (Nat × Msg)       -- messages that wait, with their destination
  dataOut : List DataCell
  hot : Bool                      -- the peer's HOT state as last seen
  hotClear : Option Nat           -- root time since which HOT has been clear, after it was set
  echo : Option (W64 × Nat × Nat) -- launch time of the last TIME cell received, and the root time at which it came
  frame : Option SeamFrame        -- the last frame sent
  launch : Option Nat             -- root time at which the next frame is launched; none: as soon as the seam is UP (R397)
  turn : Nat                      -- the flow that the last DATA cell sent belongs to (R399)
  downAt : Option Nat             -- root time at which the seam went DOWN last (R402)
  deriving DecidableEq, Repr

/-- What a bring-up announces (R406): the stitch of READY and the values that hold from it. -/
structure ReadySt where
  at_ : W64
  count : Nat
  wide : Bool
  d : Nat
  dCalc : Nat
  lMax : Nat
  deriving DecidableEq, Repr

/-- An alignment that waits for its boundary (R408): the counter to load, N, the head's root time, the extension g. -/
structure AlignSt where
  stitch : W64
  n : Nat
  root : Nat
  gap : Nat
  deriving DecidableEq, Repr

/-- A BAR4 access under way (R390 to R392, R415): device, message, repeats so far. -/
structure WinAcc where
  dev : Nat
  msg : Msg
  tries : Nat
  deriving DecidableEq, Repr

/-- The system beyond its registers. -/
structure SysSt where
  claimed : Bool                  -- claimed by a bring-up
  links : List Link               -- what discovery found (the head)
  found : List Nat                -- this device's seams found UP at bring-up
  ready : Option ReadySt
  align : Option AlignSt
  alignEpoch : Option (Nat × Nat) -- root time and N of the epoch entry to write at the next boundary (R66)
  parentLost : Bool               -- take another parent at the next boundary (R410)
  seen : List (Nat × Nat × Nat)   -- raises seen: line, origin, low bits of the stitch (R411)
  unacked : List EvRec            -- records sent to the head and not acknowledged (R415)
  wins : List WinAcc
  results : List DoneCmd          -- results of remote commands carried out, to be repeated (R415)
  flows : Tab (List Byte)         -- DATA payload received: key 64·kind + source
  resetAt : Option W64            -- boundary of a system reset (R523)
  haltSeam : Tab Nat              -- the seam by which a device's halt became known (R417)
  downs : List (Nat × Nat)        -- seams that other devices reported DOWN (the head, R414): device, seam
  broken : Bool                   -- the head's last route update knew of a seam that is DOWN (R414)
  aligned : Bool                  -- the counter follows the parent's since the claim (R408)
  headPeriod : Option (Nat × W64) -- a period change that the head announced before the alignment (R64)
  goAsked : Bool                  -- GO was written: discovery is under way (R406)
  pages : List (Nat × Nat × List Byte) -- offload pages that the head has not acknowledged (R415): channel, page, flow
  deriving DecidableEq, Repr

/-- A load or slot write in progress (R423, R435 to R442). -/
structure LoadSt where
  c : Option CmdRef
  source : Nat                    -- 0 host memory, 1 chain, 2 slot
  slot : Nat                      -- the source slot
  dest : Option Nat               -- the slot to write; none: the device
  hdr : StreamHeader
  sectionsLeft : Nat
  taken : Bool                    -- a section has been taken as the device's own
  mine : Bool                     -- the frames that arrive now belong to it
  full : Bool
  left : Nat                      -- frames of the section that have not come
  seen : Nat                      -- section headers and frames that have come (R439)
  done : Bool                     -- the load has completed; sections for other devices are still passed on
  again : Bool                    -- a frame or header has been requested once more
  keyFrames : Nat                 -- frames decrypted under the present key
  keyIndex : Nat
  pairs : List (W32 × W32)
  planes : List (Nat × Nat × Nat) -- planes named: logical patch, PLANE, PLANE_ID
  got : Tab Bool                  -- frames written: key 2048·(8·patch + plane) + INDEX
  jackGot : List Nat
  frames : Nat
  passed : Nat
  repeats : Nat
  fallback : Bool
  ended : Bool                    -- END was taken: release at the next boundary
  deriving DecidableEq, Repr

/-- What a personality slot holds beyond its registers: the length and header of its stream (R423). -/
structure SlotInfo where
  bytes : Nat
  hdr : StreamHeader
  deriving DecidableEq, Repr

/-- A fuse burn in progress (R432, R433). -/
inductive Burn where
  | key (c : CmdRef) (key : List Byte)
  | state (c : CmdRef) (target : Nat)
  deriving DecidableEq, Repr

/-- The fuses (R431, R432): life-cycle state, the state burned for the next start, DKEY_STATE, key check value, design key. -/
structure FuseSt where
  lcs : Nat
  next : Nat
  dkey : Nat
  kcv : W32
  key : List Byte
  deriving DecidableEq, Repr

/-- Configuration, non-volatile memory and fuses. -/
structure CfgSt where
  load : Option LoadSt
  takeOut : Bool                  -- out of release at the next boundary (R441)
  released : Bool                 -- the device is released (R442)
  slotValid : List (Nat × Nat × Nat)   -- stored slots written: VALID at the next boundary; patch, slot, identity
  heldFrames : List (Nat × Nat × Nat)  -- stored slots whose frames wait for a drain (R445): patch, slot, identity
  fallback : Bool                 -- a fallback load starts at the next boundary
  slots : Tab (Option SlotInfo)
  settings : Tab (List Byte)      -- committed values
  staged : Tab (Option (List Byte))  -- staged values; none inside: deletion
  fill : Nat                      -- records in the active half
  gen : Nat                       -- GEN of the active half
  half : Nat
  seq : Nat
  stores : Nat
  storing : Option (CmdRef × Nat)
  storeWait : List CmdRef
  burn : Option Burn
  fuses : FuseSt
  jackValid : Nat × Nat           -- validity of the jack slots in the non-volatile memory
  jackActive : Nat                -- the slot the directory names
  jackImgs : Tab Plane            -- what the chunks of each jack slot configure (R531, R533)
  inForce : Option (List Byte)    -- the design key in force since the start; none in SCRAPPED (R428, R432)
  heldWrites : List (Nat × Nat × Nat × List PlaneItem) -- STORED_ONLY frames held for a drain (R445): patch, slot, frame, contents
  storeSrc : Tab (Option (Nat × Nat)) -- personality slot, and its writes by then, that a stored slot was loaded from (R447): key 8·patch + slot
  slotWrites : Tab Nat            -- writes of each personality slot
  replay : List (List Byte)       -- section headers and frames passed on, the last 256 (R438)
  replayed : Nat                  -- how many were passed on in this stream
  hits : List (Nat × Nat)         -- scrubber corrections of resident frames: frame, root time (R459)
  scrubOut : Nat                  -- scrubbers retired: bit 0 lower, bit 1 upper
  deriving DecidableEq, Repr

/-- A handover request (R459). -/
structure HoReq where
  k : Nat
  cause : Nat
  target : Option Nat
  c : Option CmdRef
  test : Bool                     -- made for a disturbing self-test (R481)
  deriving DecidableEq, Repr

/-- A self-test of a position or processor position (R472): its command, patterns to apply, and whether it has started. -/
structure BistRun where
  u : BistUnit
  c : Option CmdRef
  need : Nat
  on : Bool
  deriving DecidableEq, Repr

/-- A part of a march (R474): one bank, or the bolt. -/
structure MarchRun where
  c : CmdRef
  k : Nat
  pos : Nat                       -- the position whose banks are marched
  bank : Option Nat
  preserve : Bool
  deriving DecidableEq, Repr

/-- A self-test command that waits (R481): for a handover, a quiet window or its own evaluation. -/
structure TestWait where
  c : CmdRef
  k : Nat
  deriving DecidableEq, Repr

/-- Result data gathered for a self-test command (R483). -/
structure TestRes where
  c : CmdRef
  k : Nat
  words : List Nat
  status : Status
  deriving DecidableEq, Repr

/-- A write held at the bus for a frozen patch (R545). -/
structure HeldWrite where
  src : Src
  a : Nat
  v : W32
  be : Nat
  deriving DecidableEq, Repr

/-- Handover, rotation and self-test beyond their registers. -/
structure ResSt where
  queue : List HoReq
  cur : Option HoReq
  prepLeft : Nat                  -- fabric cycles of preparation left
  prepared : Bool                 -- the freeze follows at the next boundary
  moveLeft : Nat                  -- fabric cycles of the transfer left
  h : Nat                         -- stitches of the transfer
  drain : Nat                     -- stitches since the rebind, up to 128
  drained : Bool                  -- the drain completes at the next boundary
  first : W64
  lines : List (Nat × Raise)      -- lines latched for the frozen patch (R465)
  shown : Option Nat              -- the patch whose string 1 shows them in the first stitch after its rebind
  held : List HeldWrite
  images : List (CmdRef × List Byte)   -- images read for a PROG_LOAD that the drain holds (R113)
  refused : List HoReq            -- requests raised again when a position becomes SPARE (R468)
  misses : Tab W64                -- stitch of the last mismatch, by logical patch; 16 the head controller
  stopped : List Nat              -- sequencers that a second mismatch stopped
  bists : List BistRun
  marches : List MarchRun
  waits : List TestWait
  tests : List TestRes
  rotFrom : Nat                   -- root time of the last rotation step
  rotWait : Option Nat            -- root time at which the wait for a quiet window began
  testing : List Nat              -- logical patches unreleased by a disturbing test
  pq : Tab Nat                    -- PQUIET writes that open their window at the next boundary, by logical patch
  deriving DecidableEq, Repr

/-- Clocks beyond their registers. -/
structure ClkSt where
  good : Nat                      -- consecutive GOOD windows
  back : Bool                     -- return to REFCLK at the next boundary (R493)
  locked : Bool                   -- the root PLL has locked since the start
  gates : List (Nat × Bool)       -- gate requests that wait for their boundary; true closes
  heldClose : List Nat            -- gates whose close is held for a transaction (R500), the latest last
  rewriting : List Nat            -- layers whose DRAM is being rewritten (R501)
  refPend : Tab (W32 × Nat)       -- REFOUT words that wait for the next modulation period, and the root times of their writes
  deriving DecidableEq, Repr

/-- Housekeeping beyond its registers. -/
structure HkSt where
  samples : List Nat              -- power samples of the last 1 ms, newest first
  stop : Nat                      -- stop in force: 0 none, 1 THERMAL, 2 POWER
  both : Bool                     -- both causes arose in one round
  vcore : Bool                    -- the VCORE rails were within 2 % of nominal in the last slow round (R478, R509)
  stops : List Nat                -- root times of protective stops
  peak : Nat                      -- peak T_eff of the shutdown, or its stack power
  stopAt : Nat                    -- root time of the stop
  cool : Option Nat               -- root time since which every layer has been below 90 °C
  bands : Tab Nat                 -- the band of each layer; HK shows it from the next boundary
  warm : List Nat                 -- layers at 90 °C or more when last sampled (R512)
  hot : List Nat                  -- layers at 100 °C or more when last sampled (R416, R509)
  fast : List Nat                 -- layers sampled fast for their own heat (R509)
  heldReset : Option Nat          -- a full reset waits, with its cause (R524)
  report : Option EvRec           -- the restart's event, until the ring is set up (R512)
  reportClk : Option EvRec        -- CLOCK_LOSS of an INTOSC start, until the ring is set up (R491)
  deriving DecidableEq, Repr

/-- Start-up, resets, supplies and the jack beyond their registers. -/
structure StartSt where
  vhk : Bool
  vin : Bool
  vlane : Bool
  vlaneH : Bool
  straps : Nat
  layers : Nat                    -- layers L1 to L7 raised, in order
  resetLow : Bool                 -- RESET_N is low: the device is held
  failed : Bool                   -- start-up has stopped (R517)
  lrReq : Nat                     -- layers to reset at the next boundary
  lrHeld : Nat                    -- layers of requests that name L1 or L3: they wait for a handover in progress (R528)
  lrOn : Tab Nat                  -- layers in reset, with the root cycles left
  sub : Nat                       -- within step 7: 0 march, 1 checkers, 2 initialisation
  began : Nat                     -- root times of the start and of the end of its march (R341, R342)
  marched : Nat
  jackA0 : Bool                   -- JGPIO_A0 driven high on a blank board (R533)
  vio : Tab Nat                   -- VIO banks: 0 off, 1 to 3 levels
  jackSt : PlaneSt                -- the flip-flops of the jack's image (R531, R534)
  deriving DecidableEq, Repr

/-- The test port (R562 to R564): the instruction in the register. -/
structure TapSt where
  code : Nat
  deriving DecidableEq, Repr

/-- The device. -/
structure State where
  pending : List Instr            -- commands that wait, first in, first out
  regs : Tab W32                  -- every register word, keyed by its BAR0 offset
  eff : Tab W32                   -- the words in effect of registers whose writes act at a boundary
  dirty : List Nat                -- words written since the last boundary
  live : Tab W32                  -- counters that registers show as snapshots
  capHi : Tab W32                 -- upper words captured by a read of the lower word
  resp : W32                      -- what the last read returned
  fresh : Nat                     -- the model's own: how many free values have been taken
  hostMem : List Host.Cell        -- host memory, as far as the device has written it
  stitch : W64
  off : Nat                       -- root-cycle offset within the stitch reached so far
  time : TimeSt
  trig : TrigSt
  evq : List EvRec                -- event records not yet written
  evSeq : W32                     -- number of the last record (R319)
  procs : Tab ProcSt              -- 0 head controller, 16 + k patch sequencers, 32 + r signal processors
  snaps : Tab ProcSt              -- processors as they stood at step 2 of the stitch (R458, R467)
  banks : Tab BankSt              -- key 8·position + bank
  bankWin : Tab WinReq            -- management-window accesses in progress, by position
  bolts : Tab BoltSt              -- by logical patch
  boltWin : Tab WinReq
  ports : Tab PortOut             -- key 8·patch + port
  caps : Tab CapSt                -- by logical patch
  pats : Tab PatSt                -- by logical patch
  cvs : Tab CvSt                  -- key 32·patch + unit
  fabs : Tab FabSt                -- by logical patch
  lanes : Tab LaneSt
  ribs : Tab RibSt
  rebuild : List CtrRef           -- counter nodes to rebuild at the next boundary (R347)
  host : HostSt
  stack : StackSt
  seams : Tab SeamSt
  sys : SysSt
  cfg : CfgSt
  res : ResSt
  clk : ClkSt
  hk : HkSt
  start : StartSt
  tap : TapSt
  deriving DecidableEq, Repr

/-- The device at power-on, before the housekeeping supply is good (R515): every register at the value of its Reset column (an unlisted
word reads as `resetWord`), the lane rails within limits (assumption 11), no fuse burned, nothing stored, and no command waiting. -/
def State.reset : State :=
  { pending := []
    regs := []
    eff := []
    dirty := []
    live := []
    capHi := []
    resp := 0
    fresh := 0
    hostMem := []
    stitch := 0
    off := 0
    time := { root := 0, run := 0, since := 0, before := 128, due := 0, announce := false, degraded := false, degClear := false, headDeg := false,
              holdover := false, holdClear := false,
              syncRef := none, expected := 0, accepted := 0, edge := none, good := 0, freqAdj := 0, counting := false, newN := 0, discFrom := 0 }
    trig := { raised := [], next := [], sysDue := [], latched := 0, balls := [], masksWere := [], unread := [], logged := false,
              based := false }
    evq := []
    evSeq := 0
    procs := []
    snaps := []
    banks := []
    bankWin := []
    bolts := []
    boltWin := []
    ports := []
    caps := []
    pats := []
    cvs := []
    fabs := []
    lanes := []
    ribs := []
    rebuild := []
    host := { spools := [], slots := [], rr := 15, cmds := [], done := [], orphan := [], chans := [], chanTurn := 0, vecs := [], msix := [],
              d3 := false, master := false, slotData := [], respHi := 0, subsys := 0x02561F3C, aer := [] }
    stack := { groups := [], phaseBand := [], exh := [], resend := [], marked := [], binds := [], heldBinds := [], late := [],
               keyStore := 0, keyCopies := [], keyStop := false }
    seams := []
    sys := { claimed := false, links := [], found := [], ready := none, align := none, alignEpoch := none, parentLost := false, seen := [],
             unacked := [], wins := [], results := [], flows := [], resetAt := none, haltSeam := [], downs := [],
             broken := false, aligned := false, headPeriod := none, goAsked := false, pages := [] }
    cfg := { load := none, takeOut := false, released := false, slotValid := [], heldFrames := [], fallback := false, slots := [],
             settings := [], staged := [], fill := 0, gen := 1, half := 0, seq := 0, stores := 0, storing := none, storeWait := [],
             burn := none, fuses := { lcs := 0, next := 0, dkey := 0, kcv := 0, key := [] }, jackValid := (0, 0), jackActive := 0, jackImgs := [],
             inForce := some (List.replicate 32 0), heldWrites := [], storeSrc := [], slotWrites := [], replay := [], replayed := 0, hits := [],
             scrubOut := 0 }
    res := { queue := [], cur := none, prepLeft := 0, prepared := false, moveLeft := 0, h := 0, drain := 0, drained := false, first := 0,
             lines := [], shown := none, held := [], images := [], refused := [], misses := [], stopped := [], bists := [], marches := [], waits := [], tests := [],
             rotFrom := 0, rotWait := none, testing := [], pq := [] }
    clk := { good := 0, back := false, locked := false, gates := [], heldClose := [], rewriting := [], refPend := [] }
    hk := { samples := [], stop := 0, both := false, vcore := true, stops := [], peak := 0, stopAt := 0, cool := none, bands := [], warm := [], hot := [], fast := [], heldReset := none,
            report := none, reportClk := none }
    start := { vhk := false, vin := false, vlane := true, vlaneH := true, straps := 0, layers := 0, resetLow := false, failed := false,
               lrReq := 0, lrHeld := 0, lrOn := [], sub := 0, began := 0, marched := 0, jackA0 := false, vio := [],
               jackSt := ⟨[], [], [], []⟩ }
    tap := { code := 1 } }

end Sys2Proof.Machine
end

