-- ==== Sys2Proof/Machine/Ops.lean ====
section
/-! DEFINITION. The named operations that the commands share: registers, timestamps, events, triggers, processor events, spool results. -/

namespace Sys2Proof.Machine

/-- What a command answers. -/
abbrev Out := Host.Outcome State Fault Refusal

/-- A command that comes about only where `ok` holds; elsewhere it changes nothing (assumption 1). -/
def act (s : State) (ok : Bool) (t : State) : Out := .next (if ok then t else s)

/-- As `act`, for an effect that needs a value found in the state. -/
def actOn {α : Type} (s : State) (o : Option α) (f : α → State) : Out :=
  match o with
  | none => .next s
  | some x => .next (f x)

/-! Registers. -/

/-- The word at a BAR0 offset. -/
def State.reg (s : State) (a : Nat) : W32 := s.regs.get resetWord a

/-- Writes a whole word. -/
def State.setReg (s : State) (a : Nat) (w : W32) : State := { s with regs := s.regs.put a w }

/-- Reads a field, as it reads through BAR0. -/
def State.rd (s : State) (f : Fld) (base : Nat) (i : Nat := 0) (j : Nat := 0) : Nat := bitsOf f.hi f.lo (s.reg (f.at base i j))

/-- Writes a field. -/
def State.wr (s : State) (f : Fld) (base : Nat) (v : Nat) (i : Nat := 0) (j : Nat := 0) : State :=
  s.setReg (f.at base i j) (setBitsOf f.hi f.lo (s.reg (f.at base i j)) v)

/-- A one-bit field as a Bool. -/
def State.flag (s : State) (f : Fld) (base : Nat) (i : Nat := 0) (j : Nat := 0) : Bool := s.rd f base i j == 1

/-- The largest value of a field. -/
def Fld.max (f : Fld) : Nat := 2 ^ (f.hi + 1 - f.lo) - 1

/-- Adds to a field that saturates. -/
def State.bump (s : State) (f : Fld) (base : Nat) (n : Nat := 1) (i : Nat := 0) (j : Nat := 0) : State :=
  s.wr f base (satAdd f.max (s.rd f base i j) n) i j

/-- Adds to a field that wraps. -/
def State.incr (s : State) (f : Fld) (base : Nat) (n : Nat := 1) (i : Nat := 0) (j : Nat := 0) : State :=
  s.wr f base (s.rd f base i j + n) i j

/-- The word in effect of a register whose writes act at a boundary. -/
def State.effReg (s : State) (a : Nat) : W32 := s.eff.get resetWord a

/-- A field's value in effect. -/
def State.erd (s : State) (f : Fld) (base : Nat) (i : Nat := 0) (j : Nat := 0) : Nat := bitsOf f.hi f.lo (s.effReg (f.at base i j))

/-- A 64-bit pair of words. -/
def State.pair (s : State) (lo hi : Nat) : Nat := (s.reg lo).toNat + 2 ^ 32 * (s.reg hi).toNat

/-- Marks a word as written since the last boundary. -/
def State.markDirty (s : State) (a : Nat) : State := { s with dirty := s.dirty ++ [a] }

/-- Lets every word written since the last boundary take effect. -/
def State.applyDirty (s : State) : State :=
  { s with eff := forEach (fun a e => Tab.put e a (s.reg a)) s.dirty s.eff, dirty := [] }

/-- A live counter word that its register shows as a snapshot (R52). -/
def State.liveReg (s : State) (a : Nat) : W32 := s.live.get resetWord a

/-- Adds to a live 32-bit counter word that wraps. -/
def State.liveAdd (s : State) (a n : Nat) : State := { s with live := s.live.put a (s.liveReg a + BitVec.ofNat 32 n) }

/-- Adds to a field of a live word that saturates. -/
def State.liveBump (s : State) (f : Fld) (base : Nat) (n : Nat := 1) (i : Nat := 0) : State :=
  let a := f.at base i 0
  { s with live := s.live.put a (setBitsOf f.hi f.lo (s.liveReg a) (satAdd f.max (bitsOf f.hi f.lo (s.liveReg a)) n)) }

/-- Adds to a live 64-bit counter held in two words. -/
def State.liveAdd64 (s : State) (lo hi n : Nat) : State :=
  let t := (s.liveReg lo).toNat + 2 ^ 32 * (s.liveReg hi).toNat + n
  { s with live := (s.live.put lo (BitVec.ofNat 32 t)).put hi (BitVec.ofNat 32 (t / 2 ^ 32)) }

/-- A free value: nothing fixes it (assumption 5). -/
def State.freeWord (s : State) : W64 := Config.freeValue s.fresh

/-- The state after a free value has been taken. -/
def State.took (s : State) : State := { s with fresh := s.fresh + 1 }

/-! The device's condition. -/

/-- The device is in the security halt (R357). -/
def State.halted (s : State) : Bool := s.flag F.HALT_HALTED SEC

/-- The device runs: its root PLL has locked since the start, and it is not in the halt. -/
def State.up (s : State) : Bool := s.clk.locked && !s.halted

/-- This device's number in its system (R406). -/
def State.devnum (s : State) : Nat := s.rd F.SYS_DEVNUM DEV

/-- This device is the head device: device 0. -/
def State.isHead (s : State) : Bool := s.devnum == 0

/-- A device of a system other than the head device (R64, R73). -/
def State.follower (s : State) : Bool := s.devnum != 0 && decide (2 ≤ s.rd F.SYS_STATE DEV)

/-- The stitch period in root cycles (R47). -/
def State.period (s : State) : Nat := 64 * s.rd F.STC_N_NOW DEV

/-- The budget of a stitch program for a period of 64 × n root cycles (R48). -/
def budget (n : Nat) : Nat := 32 * n - 8

/-! Time. -/

/-- Root cycles by which an alignment lengthens the present stitch (R47, R408). -/
def State.stretch (s : State) : Nat := match s.sys.align with | some a => a.gap | none => 0

/-- The offset at which a command takes place: not before the offset reached, not beyond the stitch (assumption 3). -/
def State.clampOff (s : State) (off : Nat) : Nat := min (max s.off off) (s.period + s.stretch - 1)

/-- Moves on to an offset within the stitch. -/
def State.tick (s : State) (off : Nat) : State := { s with off := s.clampOff off }

/-- The timestamp of the present instant (R56); in the extension of an alignment stitch OFFSET stays at P − 1 and DEGRADED is 1 (R408). -/
def State.now (s : State) : Stamp :=
  if s.off < s.period then ⟨s.stitch, s.off, s.time.degraded, s.time.holdover⟩ else ⟨s.stitch, s.period - 1, true, s.time.holdover⟩

/-- The timestamp of the instant `back` root cycles ago; before offset 0 it borrows from the previous stitches, of the period that each had
(R57). -/
def State.stampBack (s : State) (back : Nat) : Stamp :=
  let held := (s.stitch - s.time.since).toNat * s.period + s.off
  if back ≤ s.off then { s.now with off := min (s.off - back) (s.period - 1) }
  else if back ≤ held then
    let k := ceilDiv (back - s.off) s.period
    { s.now with stitch := s.stitch - BitVec.ofNat 64 k, off := s.off + k * s.period - back }
  else
    let k := ceilDiv (back - held) s.time.before
    { s.now with stitch := s.time.since - BitVec.ofNat 64 k, off := held + k * s.time.before - back }

/-! Events (R318 to R323). -/

/-- The class of an event code (R318). -/
def eventClass (code : Nat) : Nat := code / 16 % 16

/-- Raises a host event; in the security halt the device raises none (R358). -/
def State.event (s : State) (e : EvCode) (block inst : Nat) (args : List Nat := []) (st : Status := .ok) : State :=
  if s.halted then s
  else { s with evq := s.evq ++ [⟨s.now, e.code, st.code, s.devnum, block, inst, args.map (BitVec.ofNat 32)⟩] }

/-! Codes of the register blocks in event records (R319, R536). -/

def blkDEV : Nat := 0
def blkCLK : Nat := 1
def blkHK : Nat := 2
def blkHOST : Nat := 3
def blkSEAM : Nat := 4
def blkCFG : Nat := 5
def blkSEC : Nat := 6
def blkRES : Nat := 7
def blkRIBBON : Nat := 9
def blkPATCH : Nat := 10
def blkBOLT : Nat := 11
def blkTRIG : Nat := 12

/-! Bindings (R33, R34, R38 to R40). -/

/-- The physical position of a logical patch: one of the 18 (R38). -/
def State.ppos (s : State) (k : Nat) : Nat := min 17 (s.rd F.LPM_PPOS DEV k)

/-- The PATCH block of a logical patch. -/
def State.pb (s : State) (k : Nat) : Nat := PATCH (s.ppos k)

/-- The signal processor position of a ribbon: one of the 34 (R40). -/
def State.rsp (s : State) (r : Nat) : Nat := min 33 (s.rd F.RMAP_RSP DEV r)

/-- A ribbon's logical patch; none while no patch holds it. -/
def State.ribPatch (s : State) (r : Nat) : Option Nat :=
  if s.flag F.RMAP_UNB DEV r then none else some (s.rd F.RMAP_LPATCH DEV r)

/-- The ribbon on lane slots 0–7 (half 0) or 8–15 (half 1) of a logical patch. -/
def State.patchRib (s : State) (k half : Nat) : Option Nat :=
  let v := if half = 0 then s.rd F.LPM_RIB_A DEV k else s.rd F.LPM_RIB_B DEV k
  if v < 32 then some v else none

/-- The lane in a slot of a logical patch. -/
def State.slotLane (s : State) (k slot : Nat) : Option Nat := (s.patchRib k (slot / 8)).map (fun r => 8 * r + slot % 8)

/-- The logical patch and slot that a lane occupies. -/
def State.laneSlot (s : State) (l : Nat) : Option (Nat × Nat) :=
  match s.ribPatch (l / 8) with
  | none => none
  | some k => if s.patchRib k 0 = some (l / 8) then some (k, l % 8) else if s.patchRib k 1 = some (l / 8) then some (k, 8 + l % 8) else none

/-- The logical patch is in a handover, from the freeze until its drain completes (R38, R462). -/
def State.hover (s : State) (k : Nat) : Bool := s.flag F.LPM_HOVER DEV k

/-- The RIBBON block of a lane's registers and the lane's index in it (R153). -/
def laneBase (l : Nat) : Nat := RIBBON (l / 8)

/-! Processors. -/

/-- The write came from an SWR. -/
def Posted.isStr : Posted → Bool
  | .str _ _ _ _ _ _ => true
  | _ => false

/-- The key of a processor in `procs`. -/
def Proc.key : Proc → Nat
  | .m _ => 0
  | .p k => 16 + k.val
  | .s r => 32 + r.val

/-- A processor whose registers all read 0 but p0, and which holds nothing (R80). -/
def ProcSt.empty : ProcSt :=
  { g := [], a := [], o := [], p := [], v := [], dl := [], tp := 0, e := [], mu := 0, dmem := [], imgs := [], pc := 0, stop := 0, loops := [],
    cycle := 0, active := false, frozen := false, stalled := false, cur := 0, back := false, wait := none, wq := [],
    mailIn := [], mailOut := [], replies := [], cmds := [], evWord := 0, cause := [] }

/-- A processor's state, by key. -/
def State.procAt (s : State) (key : Nat) : ProcSt := s.procs.get (fun _ => ProcSt.empty) key

/-- Replaces a processor's state. -/
def State.setProcAt (s : State) (key : Nat) (x : ProcSt) : State := { s with procs := s.procs.put key x }

/-- Changes a processor's state. -/
def State.modProcAt (s : State) (key : Nat) (f : ProcSt → ProcSt) : State := s.setProcAt key (f (s.procAt key))

/-- The block of a processor's sequencer registers: PATCH or RIBBON (R95); DEV for the head controller (R96). -/
def State.seqBase (s : State) (key : Nat) : Nat :=
  if key < 16 then DEV else if key < 32 then s.pb (key - 16) else RIBBON (s.rsp (key - 32))

/-- No image. -/
def Image.none_ : Image :=
  { loaded := false, short := false, crcOk := false, hdr := [], strs := [], code := [], binds := [], admitted := false, wcMain := 0, wcEvent := 0 }

/-- The image in a page or slot. -/
def ProcSt.img (x : ProcSt) (i : Nat) : Image := x.imgs.get (fun _ => Image.none_) i

/-- Header word `i` (R98). -/
def Image.word (m : Image) (i : Nat) : Nat := (nthD 0 m.hdr i).toNat

def Image.profile (m : Image) : Nat := field (m.word 0) 1 0
def Image.format (m : Image) : Nat := field (m.word 0) 15 8
def Image.length (m : Image) : Nat := field (m.word 0) 28 16
def Image.evEntry (m : Image) : Nat := field (m.word 1) 11 0
def Image.hasEvent (m : Image) : Bool := bitAt (m.word 1) 12
def Image.strings (m : Image) : Nat := field (m.word 3) 6 0

/-- The page or slot of the image that runs. -/
def State.livePage (s : State) (key : Nat) : Nat :=
  if key = 0 then (s.procAt 0).cur else s.rd F.LIVE_PAGE (s.seqBase key)

/-- The image that runs. -/
def State.liveImg (s : State) (key : Nat) : Image := (s.procAt key).img (s.livePage key)

/-- PSTATE of a processor, for the head controller of the slot that runs. -/
def State.pstate (s : State) (key : Nat) : Nat :=
  if key = 0 then s.rd F.HC_PSTATE DEV (s.procAt 0).cur else s.rd F.PSTATE (s.seqBase key)

/-- The shadow bank is selected (R90). -/
def State.bank (s : State) (key : Nat) : Nat := if key = 0 then 0 else s.rd F.BANK (s.seqBase key)

/-- Starts the program of the selected bank at a processor cycle (R51 step 2, R91, R92). -/
def State.beginProgram (s : State) (key cycle : Nat) : State :=
  let m := s.liveImg key
  let first := if s.bank key = 1 then m.evEntry else 0
  let stop := if s.bank key = 1 then m.length else if m.hasEvent then m.evEntry else m.length
  s.modProcAt key (fun x => { x with pc := first, stop := stop, loops := [], cycle := cycle, active := true, back := false,
                                     wait := none })

/-- The immediate switch to the shadow bank (R92). -/
def State.switchBank (s : State) (key : Nat) : State :=
  let base := s.seqBase key
  let s1 := ((s.wr F.BANK base 1).bump F.ABANDON base).modProcAt key
    (fun x => { x with active := false, wait := none,
                       p := match x.wait with | none => x.p | some w => if w.pd = 0 then x.p else x.p.put w.pd false })
  let c := max (s.procAt key).cycle (s.off / 2) + 1
  if s.rd F.WC_EVENT base ≤ s.period / 2 - 1 - c then s1.beginProgram key c else s1

/-- Raises a processor event (R91, R92, R324, R326). `mid` says that it is raised within a stitch, not at step 1 of a boundary. An immediate
event raised after the main program's DONE switches no bank in that stitch: the program no longer runs in it (assumption 86). -/
def State.raiseProc (s : State) (key cls : Nat) (mid : Bool) : State :=
  let base := s.seqBase key
  if bitAt (s.rd F.EVT_EN base) cls then
    let s1 := if bitAt (s.rd F.EVT_PEND base) cls then s else s.wr F.EVT_PEND base (s.rd F.EVT_PEND base + 2 ^ cls)
    if mid ∧ bitAt (s.rd F.EVT_IMM base) cls ∧ s.rd F.PSTATE base = 1 ∧ s.rd F.BANK base = 0 ∧ (s.liveImg key).hasEvent
        ∧ (s.procAt key).active ∧ ¬ (s.procAt key).frozen ∧ ¬ (s.procAt key).stalled
    then s1.switchBank key else s1
  else s

/-- Raises an event class in the sequencer of a logical patch. -/
def State.raiseP (s : State) (k cls : Nat) : State := s.raiseProc (16 + k) cls true

/-- Raises an event class in the signal processor of a ribbon. -/
def State.raiseS (s : State) (r cls : Nat) : State := s.raiseProc (32 + r) cls true

/-! Trigger lines (R305 to R311). -/

/-- The mask bit in effect for a class and line at an offset (R306, R308): before offset 8 the masks of the stitch before still apply. -/
def State.maskBit (s : State) (cls line off : Nat) : Bool :=
  let a := (if line < 32 then F.TRIG_SRC_MASK_LO else F.TRIG_SRC_MASK_HI).at TRIG cls 0
  bitAt (if off < 8 then s.trig.masksWere.get (fun _ => s.effReg a) a else s.effReg a).toNat (line % 32)

/-- The raise of a line in the current stitch. -/
def TrigSt.raise? (t : TrigSt) (line : Nat) : Option Raise := t.raised.get (fun _ => none) line

/-- Ends a WAITT on a raised line with its predicate true (R109). -/
def State.endWaits (s : State) (line : Nat) : State :=
  forN (fun k s =>
    match (s.procAt (16 + k)).wait with
    | some w => if w.line = line then
        s.modProcAt (16 + k) (fun x =>
          { x with
            wait := none
            p := if w.pd = 0 then x.p else x.p.put (8 * s.bank (16 + k) + w.pd) true
            cycle := max (w.from_ + 1) (ceilDiv s.off 2 + 1) })
        else s
    | none => s) 16 s

/-- Records a raise of a line, the earliest of which counts (R137, R317). -/
def State.noteRaise (s : State) (line : Nat) (r : Raise) : State :=
  let q : Raise := match s.trig.raise? line with
    | none => r
    | some q => { (if r.at_ < q.at_ then r else q) with multi := true }
  { s with trig := { s.trig with raised := s.trig.raised.put line (some q) } }

/-! Seams and messages (R397 to R415). -/

/-- A seam's hidden state. -/
def State.seamAt (s : State) (n : Nat) : SeamSt :=
  s.seams.get (fun _ => { fctr := 0, key := false, rtts := [], trigOut := [], msgOut := [], dataOut := [], hot := false, hotClear := none,
                          echo := none, frame := none, launch := none, turn := 0, downAt := none }) n

def State.modSeam (s : State) (n : Nat) (f : SeamSt → SeamSt) : State := { s with seams := s.seams.put n (f (s.seamAt n)) }

/-- A seam is UP (R402). -/
def State.seamUp (s : State) (n : Nat) : Bool := s.rd F.SEAM_LSTATE (SEAM n) == 3

/-- The seams that are UP, in rising order. -/
def State.upSeams (s : State) : List Nat := (List.range 6).filter s.seamUp

/-- The device belongs to a system of two or more devices (R308). -/
def State.inSystem (s : State) : Bool := decide (2 ≤ s.rd F.SYS_COUNT DEV)

/-- Sends a raise entry on every UP seam (R411). -/
def State.flood (s : State) (e : TrigEntry) : State :=
  forEach (fun n s => s.modSeam n (fun x => { x with trigOut := x.trigOut ++ [e] })) s.upSeams s

/-- The seam that a message to a device leaves by: the primary, or the alternate while the primary is not UP (R414). -/
def State.routeTo (s : State) (d : Nat) : Option Nat :=
  let pri := s.rd F.SYS_PRI DEV d
  let alt := s.rd F.SYS_ALT DEV d
  if pri < 6 ∧ s.seamUp pri then some pri else if alt < 6 ∧ s.seamUp alt then some alt else none

/-- Queues a message to another device; without a route its cells are lost (R415). -/
def State.sendMsg (s : State) (d : Nat) (m : Msg) : State :=
  match s.routeTo d with
  | none => s
  | some n => s.modSeam n (fun x => { x with msgOut := x.msgOut ++ [(d, m)] })

/-- Queues a DATA cell to another device. -/
def State.sendData (s : State) (c : DataCell) : State :=
  match s.routeTo c.dest.val with
  | none => s
  | some n => s.modSeam n (fun x => { x with dataOut := x.dataOut ++ [c] })

/-- A system raise becomes known here (R309, R411): kept until its boundary, and remembered so that repeats are dropped. -/
def State.noteSystem (s : State) (line : Nat) (origin : Nat) (due : W64) (r : Raise) : State :=
  { s with
    trig := { s.trig with sysDue := s.trig.sysDue ++ [⟨line, due, r⟩] }
    sys := { s.sys with seen := s.sys.seen ++ [(line, origin, r.ts.stitch.toNat % 65536)] } }

/-- A raise of a line from a source class takes place (R306). A system line in a system of two or more devices is latched D stitches later
on every device (R309), and floods the seams. -/
def State.raiseAs (s : State) (cls line : Nat) (r : Raise) : State :=
  if s.maskBit cls line r.at_ then
    let s1 := (s.noteRaise line r).endWaits line
    if 48 ≤ line ∧ s.inSystem then
      if (line, s.devnum, s.stitch.toNat % 65536) ∈ s.sys.seen then s1
      else
        (s1.noteSystem line s.devnum (s.stitch + BitVec.ofNat 64 (s.rd F.TRIG_D TRIG)) r).flood
          ⟨Fin.ofNat 16 (line - 48), Fin.ofNat 64 s.devnum, BitVec.ofNat 16 s.stitch.toNat, 0, false⟩
    else s1
  else s

/-- Raises a line from a source class at the present offset. -/
def State.raiseLine (s : State) (cls line : Nat) : State := s.raiseAs cls line ⟨s.now, s.off, cls, s.devnum, false⟩

/-- Raises every line whose bit is set in a mask, with an offset to the line number. -/
def State.raiseMask (s : State) (cls : Nat) (mask base n : Nat) : State :=
  forEach (fun i s => if bitAt mask i then s.raiseLine cls (base + i) else s) (List.range n) s

/-- A line is asserted in the current stitch (R305). -/
def State.asserted (s : State) (line : Nat) : Bool := bitAt s.trig.latched.toNat line

/-! Spool commands (R372 to R383). -/

/-- A parameter of `n` bytes at a byte offset of the entry. -/
def DispCmd.param (d : DispCmd) (off n : Nat) : Nat := leNat ((d.entry.drop off).take n)

def DispCmd.opcode (d : DispCmd) : Nat := d.param 0 1
def DispCmd.notify (d : DispCmd) : Bool := bitAt (d.param 1 1) 0
def DispCmd.force (d : DispCmd) : Bool := bitAt (d.param 1 1) 1
def DispCmd.reply (d : DispCmd) : Bool := bitAt (d.param 1 1) 2
def DispCmd.tag (d : DispCmd) : Nat := d.param 2 2
def DispCmd.target (d : DispCmd) : Nat := d.param 4 1
def DispCmd.device (d : DispCmd) : Nat := d.param 5 1 % 64
def DispCmd.tkind (d : DispCmd) : Nat := d.param 5 1 / 64

/-- Pieces of at most `n` bytes of a list. -/
def chunks (n : Nat) : Nat → List Byte → List (List Byte)
  | 0, _ => []
  | fuel + 1, bs => if bs = [] then [] else bs.take n :: chunks n fuel (bs.drop n)

/-- Queues a flow of bytes to another device as DATA cells of 60 B (R399). -/
def State.sendFlow (s : State) (kind d : Nat) (bs : List Byte) : State :=
  (((chunks 60 (bs.length + 1) bs).foldl (fun (p : State × Nat) c =>
    (p.1.sendData ⟨BitVec.ofNat 2 kind, Fin.ofNat 64 d, Fin.ofNat 64 s.devnum, BitVec.ofNat 16 p.2, c⟩, p.2 + 1)) (s, 0))).1

/-- Restricts registers to their reset values where `p` holds of their offset (R538). -/
def State.resetRegs (s : State) (p : Nat → Bool) : State :=
  { s with
    regs := s.regs.filter (fun e => !p e.1)
    eff := s.eff.filter (fun e => !p e.1)
    live := s.live.filter (fun e => !p e.1)
    capHi := s.capHi.filter (fun e => !p e.1)
    dirty := s.dirty.filter (fun a => !p a) }

/-- The processor that a program command names (R110). -/
def DispCmd.procKey (d : DispCmd) : Nat :=
  if d.tkind = 0 then 16 + d.target else if d.tkind = 1 then 32 + d.target else 0

/-- The page group of a program command: the slot for the head controller. -/
def DispCmd.slot (d : DispCmd) : Nat := if d.tkind = 2 then d.target else 0

/-- The dispatched command of a reference. -/
def State.cmd (s : State) (c : CmdRef) : Option DispCmd := s.host.cmds.find? (fun d => d.c = c)

/-- The dispatched command of a reference that has opcode `op`, is carried out by this device and is in a phase. -/
def State.cmdOf (s : State) (c : CmdRef) (op : Nat) (ph : Phase) : Option DispCmd :=
  match s.cmd c with
  | none => none
  | some d => if d.opcode = op ∧ d.phase = ph ∧ d.device = s.devnum ∧ d.at_ ≤ s.stitch then some d else none

/-- Changes the phase of a dispatched command. -/
def State.setPhase (s : State) (c : CmdRef) (ph : Phase) : State :=
  { s with host := { s.host with cmds := s.host.cmds.map (fun d => if d.c = c then { d with phase := ph } else d) } }

/-- Adds a status to a dispatched command; the first in the order of R14 stands. -/
def State.earn (s : State) (c : CmdRef) (st : Status) : State :=
  { s with host := { s.host with cmds := s.host.cmds.map (fun d => if d.c = c then { d with status := d.status.first st } else d) } }

/-- Completes a command: its slot becomes READY at the next boundary (R383). -/
def State.complete (s : State) (c : CmdRef) (st : Status) (data : List Nat := []) : State :=
  { s with host := { s.host with cmds := s.host.cmds.filter (fun d => d.c ≠ c), done := s.host.done ++ [⟨c, st, data.map (BitVec.ofNat 32)⟩] } }

/-- Shows a waiting command as deferred in its slot (R189, R376). -/
def State.defer (s : State) (c : CmdRef) : State :=
  if c.remote then s
  else
    let key := 256 * c.sp.val + c.seq.toNat % 256
    { s with host := { s.host with slots := s.host.slots.map (fun e => if e.1 = key ∧ e.2.seq = c.seq ∧ e.2.state = 1 then
        (e.1, { e.2 with status := Status.deferred.code }) else e) } }

/-- AER records an error of a kind (R358, R378). -/
def State.aerNote (s : State) (e : AerErr) : State :=
  { s with host := { s.host with aer := if e ∈ s.host.aer then s.host.aer else s.host.aer ++ [e] } }

/-- A host-memory read for a command has failed (R378); for a forwarded command the head device counts and records it. -/
def State.dmaErr (s : State) (c : CmdRef) : State := if c.remote then s else (s.bump F.SP_DMA_ERR HOST 1 c.sp.val).aerNote .readError

/-- Completes an optional command. -/
def State.completeOpt (s : State) (c : Option CmdRef) (st : Status) (data : List Nat := []) : State :=
  match c with
  | none => s
  | some c => s.complete c st data

/-- Causes an MSI-X vector in this stitch; in D3hot and without Bus Master Enable the cause is lost (R368). -/
def State.vector (s : State) (v : Nat) : State :=
  if s.host.d3 ∨ ¬ s.host.master then s else { s with host := { s.host with vecs := if v ∈ s.host.vecs then s.host.vecs else s.host.vecs ++ [v] } }

/-- A layer's logic is in reset (R525). -/
def State.inReset (s : State) (k : Nat) : Bool := decide (0 < s.start.lrOn.get (fun _ => 0) k)

/-- A reset of L1 or L3 has taken the patches out of release and is not over (R526). -/
def State.patchReset (s : State) : Bool := s.start.lrOn.any (fun e => e.1 == 1 || e.1 == 3)

/-- Writes bytes to host memory (R385, R389); in D3hot the device issues no DMA (R393). -/
def State.hostWrite (s : State) (addr : Nat) (bytes : List Byte) : State :=
  if s.host.d3 then s
  else { s with hostMem := (bytes.foldl (fun (p : Tab Byte × Nat) b => (p.1.put p.2 b, p.2 + 1)) (s.hostMem, addr)).1 }

/-- Writes bytes to host memory from any device of the system: a device other than the head sends them to it, each piece of up to 48 bytes
behind its address and length (R415, assumption 30). -/
def State.toHost (s : State) (addr : Nat) (bytes : List Byte) : State :=
  if s.isHead then s.hostWrite addr bytes
  else ((chunks 48 (bytes.length + 1) bytes).foldl (fun (p : State × Nat) c =>
    (p.1.sendFlow 2 0 (leBytes 8 p.2 ++ leBytes 4 c.length ++ c), p.2 + c.length)) (s, addr)).1

/-- Status of a code (R13). -/
def Status.ofCode (c : Nat) : Status :=
  match c with
  | 0 => .ok | 1 => .pending | 2 => .empty | 3 => .refused | 4 => .deferred | 5 => .conditions | 6 => .incomplete | 7 => .poison
  | 8 => .targetReset | 9 => .identity | 10 => .streamShort | 11 => .securityHalt | _ => .forced

end Sys2Proof.Machine
end

