-- ==== Sys2Proof/Machine/Health.lean ====
section
/-! DEFINITION. Requests for a patch handover, as every monitor raises them (R10, R459, R460), and the counts of positions that R485 shows. -/

namespace Sys2Proof.Machine

/-- Inserts a request behind those of its own or a higher priority; the cause codes are in the order of priority (R459). -/
def insertReq (r : HoReq) : List HoReq → List HoReq
  | [] => [r]
  | q :: t => if q.cause ≤ r.cause then q :: insertReq r t else r :: q :: t

/-- POS_SPARE, POS_TEST, POS_RETIRED (R485). -/
def State.showPositions (s : State) : State :=
  let count := fun st => ((List.range 18).filter (fun p => s.rd F.POS_STATE DEV p == st)).length
  ((s.wr F.RES_POS_SPARE RES (count 1)).wr F.RES_POS_TEST RES (count 3)).wr F.RES_POS_RETIRED RES (count 4)

/-- Gives a position a state. -/
def State.setPos (s : State) (p st : Nat) : State := (s.wr F.POS_STATE DEV st p).showPositions

/-- The die half of a position. -/
def State.half_ (s : State) (p : Nat) : Nat := s.rd F.POS_HALF DEV p

/-- The number of requests that wait. -/
def State.showQueued (s : State) : State := s.wr F.RES_QUEUED RES (min 15 s.res.queue.length)

/-- Abandons a preparation of priority 4 or 5 (R460); a rotation counts as skipped, and a command of the host ends refused
(assumption 20). -/
def State.abandonPrep (s : State) : State :=
  match s.res.cur with
  | none => s
  | some r =>
    let s1 := ((s.setPos (s.rd F.RES_TO RES) 1).wr F.RES_PHASE RES 0)
    let s2 := { s1 with
      res := { s1.res with
        cur := none
        prepared := false
        prepLeft := 0
        rotWait := none
        bists := s1.res.bists.filter (fun b => r.c.isNone || b.c != r.c) } }
    let s3 := if r.cause = 3 then s2.bump F.RES_ROT_SKIPPED RES else s2
    s3.completeOpt r.c .refused

/-- Raises a handover request (R459, R460). A cause that already waits for the patch is not raised twice. -/
def State.requestHandover (s : State) (r : HoReq) : State :=
  let same := fun (q : HoReq) => decide (q.k = r.k ∧ q.cause = r.cause)
  if r.cause < 3 && (s.res.queue.any same || (match s.res.cur with | some q => same q | none => false)) then s
  else
    let s1 := if r.cause < 3 ∧ s.rd F.RES_PHASE RES = 1 ∧ (match s.res.cur with | some q => decide (3 ≤ q.cause) | none => false) = true then
        s.abandonPrep else s
    ({ s1 with res := { s1.res with queue := insertReq r s1.res.queue } }).showQueued

/-- The logical patch that a position serves, while it is ACTIVE. -/
def State.posPatch (s : State) (p : Nat) : Option Nat :=
  if s.rd F.POS_STATE DEV p = 0 then some (s.rd F.POS_LPATCH DEV p) else none

/-- A fault of an active position (R459, cause FAULT). -/
def State.faultPosition (s : State) (p : Nat) : State :=
  match s.posPatch p with
  | none => s
  | some k => s.requestHandover ⟨k, 2, none, none, false⟩

/-! Processor moves (R182 to R184). -/

/-- A ribbon's hidden state. -/
def State.ribAt (s : State) (r : Nat) : RibSt :=
  s.ribs.get (fun _ => { rlane := 0, rvalid := false, fill := 0, rfrom := 0, phase := 0, moveTo := none, moveLeft := 0, moveReq := false, moveFault := false, moveFirst := 0 }) r

def State.modRib (s : State) (r : Nat) (f : RibSt → RibSt) : State := { s with ribs := s.ribs.put r (f (s.ribAt r)) }

/-- Processor positions that could take a ribbon: not retired, serving none, and no move under way to them. -/
def State.spareRsps (s : State) : List Nat :=
  (List.range 34).filter (fun q => !s.flag F.RSPH_RETIRED (RIBBON q) && !s.flag F.RSPH_MOVING (RIBBON q)
    && (List.range 32).all (fun r => s.rsp r != q) && !s.res.bists.any (fun b => match b.u with | .rsp x => x.val == q | _ => false))

/-- RSP_SPARE and RSP_RETIRED (R485). -/
def State.showRsps (s : State) : State :=
  (s.wr F.RES_RSP_SPARE RES s.spareRsps.length).wr F.RES_RSP_RETIRED RES
    ((List.range 34).filter (fun q => s.flag F.RSPH_RETIRED (RIBBON q))).length

/-- Requests a move of a ribbon to a spare processor position at the next boundary: for a fault of its position (R182), or for a test of
it (R471, R483). -/
def State.requestMove (s : State) (r : Nat) (fault : Bool) : State :=
  s.modRib r (fun x => { x with moveReq := true, moveFault := fault || (x.moveReq && x.moveFault) })

/-- A self-test that has not been added for its unit joins those that wait. -/
def State.ownBist (s : State) (u : BistUnit) : State :=
  if s.res.bists.any (fun b => b.u == u) then s
  else { s with res := { s.res with bists := s.res.bists ++ [⟨u, none, 2 ^ (16 + min 6 (s.rd F.RES_LOG2P RES)), false⟩] } }

/-! The fabric of a logical patch. -/

/-- A logical patch's fabric. -/
def State.fabAt (s : State) (k : Nat) : FabSt :=
  s.fabs.get (fun _ => { released := false, active := none, shadow := none, aCfg := [], sCfg := [], aSt := ⟨[], [], [], []⟩,
                         sSt := ⟨[], [], [], []⟩, store := [], edge := 0, rx := [], balls := [], reqs := [], armed := none, loadLeft := 0, loadSlot := 0,
                         loadNext := none, loadDone := false, heldReqs := [], lines := [], logNext := 0, sendQ := [], recvQ := [],
                         lastSrc := 0, rxUnit := [] }) k

def State.setFab (s : State) (k : Nat) (x : FabSt) : State := { s with fabs := s.fabs.put k x }

/-! Lanes. -/

/-- A lane's hidden state. -/
def State.laneAt (s : State) (l : Nat) : LaneSt :=
  s.lanes.get (fun l => { eb := [], ebRead := 0, prefill := [], acc := 0, sending := false, skip := 0, sent := [], disc := false, marked := false, bursts := [], burst := false,
                          ctl := resetWord (F.LN_RX_EN.at (RIBBON (l / 8)) (l % 8) 0), rate := resetWord (F.LN_RATE_KBPS.at (RIBBON (l / 8)) (l % 8) 0),
                          quiet := none, runs := [], waiting := [], opened := 0, group := (l, 1), rxPpm := 0, txHeld := none,
                          loopTest := false }) l

def State.modLane (s : State) (l : Nat) (f : LaneSt → LaneSt) : State := { s with lanes := s.lanes.put l (f (s.laneAt l)) }

/-- A field of a lane's registers. -/
def State.ln (s : State) (f : Fld) (l : Nat) : Nat := s.rd f (RIBBON (l / 8)) (l % 8)

/-- A field of LN_CTL in effect: MOD, PCS and TX_CLK act from the boundary after their write (R157). -/
def State.lnCtl (s : State) (f : Fld) (l : Nat) : Nat := bitsOf f.hi f.lo (s.laneAt l).ctl

/-- The PCS mode and the rate of a lane, in effect. -/
def State.pcsOf (s : State) (l : Nat) : Nat := s.lnCtl F.LN_PCS l
def State.rateOf (s : State) (l : Nat) : Nat := bitsOf F.LN_RATE_KBPS.hi F.LN_RATE_KBPS.lo (s.laneAt l).rate

def State.setLn (s : State) (f : Fld) (l v : Nat) : State := s.wr f (RIBBON (l / 8)) v (l % 8)

/-- The first lane of the bond group in effect that a lane belongs to. -/
def State.firstLane (s : State) (l : Nat) : Nat := (s.laneAt l).group.1

/-- A write of PQUIET (R482): the window opens, or with 0 closes, at the next boundary. -/
def State.writePquiet (s : State) (k : Nat) (v : W32) (be : Nat) : State :=
  let old := s.rd F.PQ_QUIET_LEN (s.pb k)
  let n := (if bitAt be 0 then v.toNat % 256 else old % 256) + 256 * (if bitAt be 1 then v.toNat / 256 % 256 else old / 256)
  if bitAt be 0 ∨ bitAt be 1 then { s with res := { s.res with pq := s.res.pq.put k n } } else s

/-- The device and a logical patch are released (R442). -/
def State.patchLive (s : State) (k : Nat) : Bool := s.cfg.released && (s.fabAt k).released && s.up

/-- A gate is open. -/
def State.gateIsOpen (s : State) (g : Nat) : Bool := bitAt (s.rd F.GATE_OPEN CLK (g / 32)) (g % 32)

/-- The stack runs: no shutdown or protective stop is in force (R511). -/
def State.stackOn (s : State) : Bool := s.up && s.hk.stop == 0

/-! The gating tree (R494 to R501). -/

/-- The layer of a clock domain (R494); a coupler's two layers count as the lower one (assumption 22). -/
def domainLayer (d : Nat) : Nat :=
  if d ≤ 3 then 0 else if d ≤ 5 then 1 else if d ≤ 7 then 2 else if d ≤ 11 then d - 5 else if d ≤ 23 then 0 else if d ≤ 31 then 1
  else if d ≤ 34 then 2 else if d ≤ 43 then 3 else d - 40

/-- The parent of a gate (R498). -/
def gateParent (g : Nat) : Option Nat :=
  if g = 0 then none
  else if g ≤ 8 then some 0
  else if g ≤ 56 then (let d := g - 9; if d = 1 ∨ (12 ≤ d ∧ d ≤ 15) then some 0 else some (1 + domainLayer d))
  else if g ≤ 74 then some 34
  else if g ≤ 92 then some 44
  else if g ≤ 98 then some 28
  else if g ≤ 114 then some 51
  else none

def State.setGate (s : State) (g : Nat) (v : Bool) : State :=
  let w := s.rd F.GATE_OPEN CLK (g / 32)
  let b := 2 ^ (g % 32)
  s.wr F.GATE_OPEN CLK (if v then (if bitAt w (g % 32) then w else w + b) else (if bitAt w (g % 32) then w - b else w)) (g / 32)

/-- Opens a gate and its closed parents; a DRAM gate opens once its layer is rewritten (R501). -/
def State.openChain (s : State) (fuel g : Nat) : State :=
  match fuel with
  | 0 => s
  | fuel + 1 =>
    let s1 := if s.gateIsOpen g then s
      else if 53 ≤ g ∧ g ≤ 56 then
        (if g - 49 ∈ s.clk.rewriting then s else { s with clk := { s.clk with rewriting := s.clk.rewriting ++ [g - 49] } })
      else s.setGate g true
    match gateParent g with
    | none => s1
    | some p => s1.openChain fuel p

/-- The device opens what it needs of the gating tree (R501). -/
def State.need (s : State) (gs : List Nat) : State := forEach (fun g s => s.openChain 5 g) gs s

/-- The gates of a position's two halves, and those of the domains of its engines and banks (R494, R498). -/
def State.posClocked (s : State) (p : Nat) : Bool := [57 + p, 75 + p, 38, 48].all s.gateIsOpen

/-- The clock of a processor runs (R494, R498): that of the head controller always, of a patch sequencer through SEQ and its position's lower
half, of a signal processor through RSP. -/
def State.procClocked (s : State) (key : Nat) : Bool :=
  if key < 16 then true else if key < 32 then s.gateIsOpen 33 && s.gateIsOpen (57 + s.ppos (key - 16)) else s.gateIsOpen 26

/-- The clocks of the lanes' PCS and back ends run (R494), and no stop keeps their transmitters idle and their receivers ignored (R511). -/
def State.lanesOn (s : State) : Bool := s.stackOn && s.gateIsOpen 27 && s.gateIsOpen 31

/-- The clocks of a seam's engine run, and no stop keeps it idle (R494, R498, R511). -/
def State.seamClocked (s : State) (n : Nat) : Bool := s.hk.stop == 0 && s.gateIsOpen 28 && s.gateIsOpen (93 + n)

end Sys2Proof.Machine
end

