-- ==== Sys2Proof/Machine/MemOps.lean ====
section
/-! DEFINITION. Operations on banks and bolts: reads, writes and merges with their error outcomes, buckets, the repeat tracker, row
replacement, write counters and key epochs, and the device-level halt (R327 to R359). -/

namespace Sys2Proof.Machine

/-! The halt (R357 to R359). -/

/-- Shows whether an output toggles. -/
def State.showRefout (s : State) (n : Nat) : State :=
  s.wr F.REFO_ACTIVE CLK (bit (s.erd F.REFO_EN CLK n == 1 && s.clk.locked && !s.halted && !(s.erd F.REFO_HOLD_DEG CLK n == 1 && s.time.degraded))) n

/-- Enters the device-level halt: cause 1 DRAM_TAG, 2 SEAM_TAG, 3 RUNOUT. The key store and every working copy are overwritten with
zeros; transmitters are idle and the trigger balls high-impedance; engines and offloads stop, nothing of them left under way; every spool
command that waits completes with ST_SECURITY_HALT, and the endpoint records a fatal error (R44, R316, R357, R358). Programs, the fabric,
seam frames and everything else that needs a device outside the halt stand still by `State.halted`; REFOUT is low (R504). -/
def State.enterHalt (s : State) (cause source line : Nat) : State :=
  if s.halted then s
  else
    let s1 := (((((((s.wr F.HALT_HALTED SEC 1).wr F.HALT_CAUSE SEC cause).wr F.HALT_SOURCE SEC source).wr F.HALT_H_STITCH_LO SEC
      s.stitch.toNat).wr F.HALT_H_STITCH_HI SEC (s.stitch.toNat / 2 ^ 32)).wr F.HALT_H_LINE SEC line).wr F.KEY_STATE SEC 2).wr
      F.KEY_COPIES SEC 0
    let s2 := { s1 with
      seams := s1.seams.map (fun e => (e.1, { e.2 with key := false }))
      stack := { s1.stack with keyStore := 0, keyCopies := [] }
      trig := { s1.trig with balls := [], next := [], sysDue := [] }
      lanes := s1.lanes.map (fun e => (e.1, { e.2 with sending := false, sent := [], prefill := [], eb := [] }))
      caps := []
      pats := []
      host := { (s1.aerNote .internal).host with chans := [] } }
    forN (fun n s => s.showRefout n) 8 (forEach (fun d s => s.complete d.c .securityHalt) s2.host.cmds s2)

/-! Units: a bank of a position or a bolt. -/

/-- A bank's state. -/
def State.bankAt (s : State) (pos b : Nat) : BankSt :=
  s.banks.get (fun _ => ⟨[], [], 0, none, [], ⟨[], [], [], false, [], 0⟩, 0, none, none, 0, 0, 0, none, []⟩) (8 * pos + b)

def State.setBank (s : State) (pos b : Nat) (x : BankSt) : State := { s with banks := s.banks.put (8 * pos + b) x }

/-- A bolt's state. -/
def State.boltAt (s : State) (k : Nat) : BoltSt := s.bolts.get (fun _ => ⟨[], [], [], [], ⟨[], [], [], false, [], 0⟩, 0, 0, 60, none, [], 0, [], 0⟩) k

def State.setBolt (s : State) (k : Nat) (x : BoltSt) : State := { s with bolts := s.bolts.put k x }

/-- The root time of the present instant, in root cycles that have run. -/
def State.rootNow (s : State) : Nat := s.time.run + s.off

/-- Root cycles in a millisecond. -/
def cyclesPerMs : Nat := 3200000

/-- A unit's block, instance and number for an event. -/
def unitEvent : MemUnit → Nat × Nat × Nat
  | .bank p b => (blkPATCH, p.val, b.val)
  | .bolt k => (blkBOLT, k.val, k.val)

def unitTrack (s : State) : MemUnit → List TrackEnt
  | .bank p b => (s.bankAt p.val b.val).track
  | .bolt k => (s.boltAt k.val).track

def unitRows (s : State) : MemUnit → RowFix
  | .bank p b => (s.bankAt p.val b.val).rows
  | .bolt k => (s.boltAt k.val).rows

def State.setTrack (s : State) (u : MemUnit) (t : List TrackEnt) : State :=
  match u with
  | .bank p b => s.setBank p.val b.val { s.bankAt p.val b.val with track := t }
  | .bolt k => s.setBolt k.val { s.boltAt k.val with track := t }

def State.setRows (s : State) (u : MemUnit) (r : RowFix) : State :=
  match u with
  | .bank p b => s.setBank p.val b.val { s.bankAt p.val b.val with rows := r }
  | .bolt k => s.setBolt k.val { s.boltAt k.val with rows := r }

def unitLeakMs (s : State) : MemUnit → Nat
  | .bank p _ => s.rd F.BK_LEAK_MS (PATCH p.val)
  | .bolt k => s.rd F.BOLT_LEAK_MS (BOLT k.val)

def unitDepth (s : State) : MemUnit → Nat
  | .bank p _ => s.rd F.BK_DEPTH (PATCH p.val)
  | .bolt k => s.rd F.BOLT_DEPTH (BOLT k.val)

def unitLevel (s : State) : MemUnit → Nat
  | .bank p b => s.rd F.BK_LEVEL (PATCH p.val) b.val
  | .bolt k => s.rd F.BOLT_LEVEL (BOLT k.val)

def State.setLevel (s : State) (u : MemUnit) (v : Nat) : State :=
  match u with
  | .bank p b => s.wr F.BK_LEVEL (PATCH p.val) v b.val
  | .bolt k => s.wr F.BOLT_LEVEL (BOLT k.val) v

def unitOvf (s : State) : MemUnit → Bool
  | .bank p b => s.flag F.BK_OVF (PATCH p.val) b.val
  | .bolt k => s.flag F.BOLT_OVF (BOLT k.val)

def State.setOvf (s : State) (u : MemUnit) : State :=
  match u with
  | .bank p b => s.wr F.BK_OVF (PATCH p.val) 1 b.val
  | .bolt k => s.wr F.BOLT_OVF (BOLT k.val) 1

def unitRowsLeft (s : State) : MemUnit → Nat
  | .bank p b => s.rd F.BK_ROWS_LEFT (PATCH p.val) b.val
  | .bolt k => s.rd F.BOLT_ROWS_LEFT (BOLT k.val)

def State.setRowsLeft (s : State) (u : MemUnit) (v : Nat) : State :=
  match u with
  | .bank p b => s.wr F.BK_ROWS_LEFT (PATCH p.val) v b.val
  | .bolt k => s.wr F.BOLT_ROWS_LEFT (BOLT k.val) v

/-- The row of a word (64 words of 8 B) or of a line: 8 KiB rows within a layer, which bits [9:8] of the offset select (R327, R333). -/
def unitRow (u : MemUnit) (addr : Nat) : Nat :=
  match u with
  | .bank _ _ => addr / 64
  | .bolt _ => addr / 4 % 4 * 65536 + (addr / 16 * 4 + addr % 4) / 128

/-- Entries that a unit's repeat tracker holds (R343). -/
def trackSize : MemUnit → Nat
  | .bank _ _ => 16
  | .bolt _ => 64

/-- Notes an error in the unit's error word or line register. -/
def State.noteErr (s : State) (u : MemUnit) (addr : Nat) (unc : Bool) : State :=
  match u with
  | .bank p b => (s.wr F.BK_ERR_WORD (PATCH p.val) addr b.val).wr F.BK_ERR_UNC (PATCH p.val) (bit unc) b.val
  | .bolt k => (s.wr F.BOLT_ERR_LINE (BOLT k.val) addr).wr F.BOLT_ERR_UNC (BOLT k.val) (bit unc)

def State.bumpCorr (s : State) (u : MemUnit) : State :=
  match u with
  | .bank p b => s.bump F.BK_CORR (PATCH p.val) 1 b.val
  | .bolt k => s.bump F.BOLT_CORR (BOLT k.val)

def State.bumpUncorr (s : State) (u : MemUnit) : State :=
  match u with
  | .bank p b => s.bump F.BK_UNCORR (PATCH p.val) 1 b.val
  | .bolt k => s.bump F.BOLT_UNCORR (BOLT k.val)

def State.bumpWrPoison (s : State) (u : MemUnit) : State :=
  match u with
  | .bank p b => s.bump F.BK_WR_POISON (PATCH p.val) 1 b.val
  | .bolt k => s.bump F.BOLT_WR_POISON (BOLT k.val)

/-- A correction in the leaky bucket (R341). -/
def State.bucketAdd (s : State) (u : MemUnit) : State :=
  if unitLevel s u < unitDepth s u then s.setLevel u (unitLevel s u + 1)
  else
    let (blk, inst, n) := unitEvent u
    let s1 := s.setOvf u
    if unitOvf s u then s1 else s1.event .bucketOvf blk inst [n, unitLevel s u]

/-- A spare row is left for a row, beside those that copies under way will take. A bolt has 256 in each of its layers (R345). -/
def spareRow (s : State) (u : MemUnit) (row : Nat) : Bool :=
  let r := unitRows s u
  let taken := r.toCopy ++ r.copied
  decide (taken.length < unitRowsLeft s u)
    && (match u with
        | .bank _ _ => true
        | .bolt _ => decide (((taken ++ r.mapped).filter (fun x => x / 65536 == row / 65536)).length < 256))

/-- A hard fault at an address: its row is replaced, or the row stays in use, the end of the spares is reported once, and a bank's position
asks for a handover with cause FAULT (R343 to R345, R459). -/
def State.hardFault (s : State) (u : MemUnit) (addr : Nat) : State :=
  let r := unitRows s u
  let row := unitRow u addr
  if row ∈ r.toCopy ++ r.copied ++ r.kept then s
  else if spareRow s u row then s.setRows u { r with toCopy := r.toCopy ++ [row] }
  else
    let (blk, inst, n) := unitEvent u
    let s1 := s.setRows u { r with reported := true, kept := r.kept ++ [row] }
    let s2 := if r.reported then s1 else s1.event .spareExhausted blk inst [n, addr]
    match u with
    | .bank p _ => s2.faultPosition p.val
    | .bolt _ => s2

/-- The repeat tracker sees a correction (R343): the new tracker, and whether the count of the address reaches 3, which is a hard fault. -/
def trackStep (size leak now addr : Nat) (t : List TrackEnt) : List TrackEnt × Bool :=
  let live := t.filter (fun e => decide (now ≤ e.first + leak * cyclesPerMs))
  match live.find? (fun e => e.addr == addr) with
  | some e => (live.map (fun x => if x.addr = addr then { x with count := x.count + 1 } else x), decide (e.count + 1 = 3))
  | none => ((if size ≤ live.length then live.drop (live.length + 1 - size) else live) ++ [⟨addr, 0, now⟩], false)

/-- One correction counted (R339, R341 to R343). -/
def State.countCorr (s : State) (u : MemUnit) (addr : Nat) : State :=
  let s1 := ((s.bumpCorr u).noteErr u addr false).bucketAdd u
  let (t, hard) := trackStep (trackSize u) (unitLeakMs s u) s.rootNow addr (unitTrack s1 u)
  let s2 := s1.setTrack u t
  if hard then s2.hardFault u addr else s2

/-- One uncorrectable error that poisons a word or line (R339). -/
def State.countUncorr (s : State) (u : MemUnit) (addr : Nat) : State :=
  let (blk, inst, n) := unitEvent u
  ((s.bumpUncorr u).noteErr u addr true).event .poison blk inst [n, addr] .poison

/-! Banks. -/

/-- What a word that a bank does not list reads as: a start leaves every word 0 (R327); contents that were lost are free values (R481). -/
def bankUnlisted (lost : Option Nat) (w : Nat) : W64 :=
  match lost with
  | none => 0
  | some n => Config.freeValue (n + w)

/-- What an unlisted word of a bank reads as. -/
abbrev BankSt.unlisted (x : BankSt) : Nat → W64 := bankUnlisted x.lost

/-- A word of a bank. -/
def State.bankWord (s : State) (pos b w : Nat) : W64 := (s.bankAt pos b).words.get (s.bankAt pos b).unlisted w

/-- A word's poison mark (R337). -/
def State.bankPoison (s : State) (pos b w : Nat) : Bool := (s.bankAt pos b).poison.get (fun _ => false) w

/-- Writes a whole word, which clears any poison (R337); during the copy of a handover it is mirrored to the target (R462). -/
def State.putWord (s : State) (pos b w : Nat) (v : W64) : State :=
  let x := s.bankAt pos b
  s.setBank pos b { x with words := Tab.set x.unlisted x.words w v, poison := Tab.set (fun _ => false) x.poison w false,
                           copy := x.copy.filter (fun e => e.1 != w) }

/-- Writes a word as poisoned: data 0 (R337). -/
def State.poisonWord (s : State) (pos b w : Nat) : State :=
  let x := s.bankAt pos b
  s.setBank pos b { x with words := Tab.set x.unlisted x.words w 0, poison := Tab.set (fun _ => false) x.poison w true }

/-- The unit of a bank. -/
def bankUnit (pos b : Nat) : MemUnit := .bank (Fin.ofNat 18 pos) (Fin.ofNat 8 b)

/-- A read of a bank word by any reader (R339, R566): the state after, the data, and whether it returned ST_POISON. -/
def State.bankRead (s : State) (pos b w : Nat) (seen : Ecc) : State × W64 × Bool :=
  if s.bankPoison pos b w then (s, 0, true)
  else
    match seen with
    | .clean => (s, s.bankWord pos b w, false)
    | .corr => (s.countCorr (bankUnit pos b) w, s.bankWord pos b w, false)
    | .uncorr => ((s.poisonWord pos b w).countUncorr (bankUnit pos b) w, 0, true)
    | .miscorrect d => ((s.putWord pos b w (BitVec.ofNat 64 (leNat d))).countCorr (bankUnit pos b) w, BitVec.ofNat 64 (leNat d), false)
    | .unseen d => (s, BitVec.ofNat 64 (leNat d), false)

/-- New bytes merged into a word under a byte mask. -/
def mergeBytes (old new mask : Nat) : W64 :=
  BitVec.ofNat 64 (leNat ((List.range 8).map (fun i => if bitAt mask i then nthD 0 (leBytes 8 new) i else nthD 0 (leBytes 8 old) i)))

/-- A write of a bank word under an 8-bit byte mask: whole, or merged (R338, R339): the state after, and whether the writer gets
ST_POISON. WR_POISON counts it (R340). -/
def State.bankWrite (s : State) (pos b w : Nat) (v : W64) (mask : Nat) (seen : Ecc) : State × Bool :=
  if mask % 256 = 255 then (s.putWord pos b w v, false)
  else if mask % 256 = 0 then (s, false)
  else
    let (s1, old, bad) := s.bankRead pos b w seen
    if bad then (s1.bumpWrPoison (bankUnit pos b), true) else (s1.putWord pos b w (mergeBytes old.toNat v.toNat mask), false)

/-! Bolts. -/

/-- The unit of a bolt. -/
def boltUnit (k : Nat) : MemUnit := .bolt (Fin.ofNat 16 k)

/-- What a byte that a bolt does not list reads as: a start leaves every byte 0 (R353); contents that were lost are free values (R481). -/
def boltUnlisted (lost : List Nat) (first a : Nat) : Byte := if a / 64 % 4 + 4 ∈ lost then (Config.freeValue (first + a)).setWidth 8 else 0

/-- What an unlisted byte of a bolt reads as. -/
abbrev BoltSt.unlisted (x : BoltSt) : Nat → Byte := boltUnlisted x.lost x.lostAt

/-- A byte of a bolt. -/
def State.boltByte (s : State) (k a : Nat) : Byte := (s.boltAt k).mem.get (s.boltAt k).unlisted a

/-- Bytes of a bolt from an offset. -/
def State.boltBytes (s : State) (k a n : Nat) : List Byte := (List.range n).map (fun i => s.boltByte k (a + i))

/-- A line's side storage. -/
def State.lineMeta (s : State) (k line : Nat) : LineMeta :=
  (s.boltAt k).meta_.get (fun l => ⟨0, (s.boltAt k).regionBit.get (fun _ => false) (l / 2 ^ 20), false⟩) line

def State.setMeta (s : State) (k line : Nat) (m : LineMeta) : State :=
  s.setBolt k { s.boltAt k with meta_ := (s.boltAt k).meta_.put line m }

/-- Stores bytes in a byte memory in its canonical form. -/
def putBytes (t : Tab Byte) (a : Nat) : List Byte → Tab Byte
  | [] => t
  | b :: bs => putBytes (Tab.set (fun _ => 0) t a b) (a + 1) bs

/-- Stores bytes in a bolt in its canonical form. -/
def putBolt (d : Nat → Byte) (t : Tab Byte) (a : Nat) : List Byte → Tab Byte
  | [] => t
  | b :: bs => putBolt d (Tab.set d t a b) (a + 1) bs

/-- The first region that waits gets its re-encryption pass (R355). -/
def State.showRekey (s : State) (k : Nat) : State :=
  match (s.boltAt k).rekeys with
  | [] => s.wr F.BOLT_REKEYING (BOLT k) 0
  | j :: _ => (s.wr F.BOLT_REKEYING (BOLT k) 1).wr F.BOLT_REKEY_REGION (BOLT k) j

/-- The write counter of a line that is written, its epoch and a runout (R351, R355); none where the write is not performed because
the device halts. -/
def State.bumpLine (s : State) (k line : Nat) (poison : Bool) : Option State :=
  let j := line / 2 ^ 20
  let e := s.rd F.BOLT_EPOCH (BOLT k) j
  let m := s.lineMeta k line
  let cur := bitAt e 0
  if m.epoch ≠ cur then some (s.setMeta k line ⟨0, cur, poison⟩)
  else if m.wctr = 2 ^ 28 - 1 then
    if s.flag F.BOLT_RUNOUT (BOLT k) ∨ e = 65535 then none
    else
      let s1 := (((s.wr F.BOLT_EPOCH (BOLT k) (e + 1) j).wr F.BOLT_REKEY (BOLT k) 1 j).wr F.BOLT_CTR_HI (BOLT k) 0 j).setMeta k line
        ⟨0, !cur, poison⟩
      some ((s1.setBolt k { s1.boltAt k with rekeys := (s1.boltAt k).rekeys ++ [j] }).showRekey k)
  else
    some ((s.setMeta k line ⟨m.wctr + 1, cur, poison⟩).wr F.BOLT_CTR_HI (BOLT k)
      (max (s.rd F.BOLT_CTR_HI (BOLT k) j) ((m.wctr + 1) / 2 ^ 16)) j)

/-- A whole-line write of 64 bytes; it reads and checks nothing (R351, R352). -/
def State.putLine (s : State) (k line : Nat) (data : List Byte) (poison : Bool := false) : State :=
  match s.bumpLine k line poison with
  | none => s.enterHalt 3 k line
  | some s1 => s1.setBolt k { s1.boltAt k with mem := putBolt (s1.boltAt k).unlisted (s1.boltAt k).mem (64 * line) data }

/-- A line written as poisoned (R337). -/
def State.poisonLine (s : State) (k line : Nat) : State := s.putLine k line (List.replicate 64 0) true

/-- The outcome of a line read. -/
inductive LineRead where
  | data (bs : List Byte)
  | poison
  | halt
  deriving DecidableEq, Repr

/-- A read of a bolt line by any reader (R339, R351, R352): the code is decoded first, then the tag verified. An error beyond the code
fails the tag check (R566, assumption 10). -/
def State.boltRead (s : State) (k line : Nat) (seen : Ecc) : State × LineRead :=
  if (k, line) ∈ s.stack.marked then ({ s with stack := { s.stack with marked := s.stack.marked.erase (k, line) } }, .poison)
  else
  match seen with
  | .uncorr =>
    if (s.lineMeta k line).poison then (s, .poison)
    else
      let s1 := s.poisonLine k line
      if s1.halted then (s1, .halt) else (s1.countUncorr (boltUnit k) line, .poison)
  | .miscorrect _ => (s.enterHalt 1 k line, .halt)
  | .unseen _ => (s.enterHalt 1 k line, .halt)
  | .clean => if (s.lineMeta k line).poison then (s, .poison) else (s, .data (s.boltBytes k (64 * line) 64))
  | .corr =>
    if (s.lineMeta k line).poison then (s, .poison)
    else
      let s1 := s.putLine k line (s.boltBytes k (64 * line) 64)
      if s1.halted then (s1, .halt) else (s1.countCorr (boltUnit k) line, .data (s.boltBytes k (64 * line) 64))

/-- The outcome of a line write. -/
inductive LineWrite where
  | done
  | poison
  | halt
  deriving DecidableEq, Repr

/-- A write of part of a line, merged by read-modify-write (R338, R339). The mask has one Bool per byte; all true is a whole-line
write. -/
def State.boltWrite (s : State) (k line : Nat) (data : List Byte) (mask : List Bool) (seen : Ecc) : State × LineWrite :=
  if mask.all id && mask.length == 64 then
    let s1 := s.putLine k line data
    (s1, if s1.halted then .halt else .done)
  else
    match s.boltRead k line seen with
    | (s1, .halt) => (s1, .halt)
    | (s1, .poison) => (s1.bumpWrPoison (boltUnit k), .poison)
    | (s1, .data old) =>
      let new := (List.range 64).map (fun i => if nthD false mask i then nthD 0 data i else nthD 0 old i)
      let s2 := s1.putLine k line new
      (s2, if s2.halted then .halt else .done)

/-- Writes bytes at a bolt offset line by line, clean lines taken whole where covered; answers whether any merge was abandoned. -/
def State.boltPut (s : State) (k a : Nat) (bytes : List Byte) : State × Bool :=
  let first := a / 64
  let last := (a + bytes.length - 1) / 64
  if bytes = [] then (s, false)
  else
    (List.range (last + 1 - first)).foldl (fun (p : State × Bool) i =>
      let line := first + i
      let at_ := fun j => (64 * line + j)
      let mask := (List.range 64).map (fun j => decide (a ≤ at_ j) && decide (at_ j < a + bytes.length))
      let data := (List.range 64).map (fun j => if a ≤ at_ j then nthD 0 bytes (at_ j - a) else 0)
      match p.1.boltWrite k line data mask .clean with
      | (s', .poison) => (s', true)
      | (s', _) => (s', p.2)) (s, false)

/-- A read of a line returns ST_POISON: the line is poisoned, or a boundary marked its transfer (R27, R339). -/
def State.lineBad (s : State) (k line : Nat) : Bool := (s.lineMeta k line).poison || decide ((k, line) ∈ s.stack.marked)

/-- The transfers of a bolt's lines that a boundary marked have been received (R27). -/
def State.unmark (s : State) (k : Nat) : State :=
  { s with stack := { s.stack with marked := s.stack.marked.filter (fun e => e.1 != k) } }

/-- Reads bytes at a bolt offset; a poisoned line reads zeros and is reported. -/
def State.boltGet (s : State) (k a n : Nat) : List Byte × Bool :=
  let at_ := fun i => s.lineBad k ((a + i) / 64)
  ((List.range n).map (fun i => if at_ i then 0 else s.boltByte k (a + i)),
   (List.range (n / 64 + 2)).any (fun i => decide (a / 64 + i ≤ (a + n - 1) / 64) && decide (0 < n) && s.lineBad k (a / 64 + i)))

end Sys2Proof.Machine
end

