-- ==== Sys2Proof/Machine/BusBase.lean ====
section
/-! DEFINITION. Register accesses by address: byte enables, access codes and clamps (R3 to R7, R365), captured words (R59, R173, R308), the
diagnostic windows (R544) and what a position's state does to accesses of its PATCH block (R545). -/

namespace Sys2Proof.Machine

/-! Writes. -/

/-- The bits that four byte enables select (R365). -/
def enMask (be : Nat) : Nat := (List.range 4).foldl (fun m i => if bitAt be i then m + 255 * 256 ^ i else m) 0

/-- The enabled bits of a field in a write: what a WO field requests (R365). -/
def Fld.wants (f : Fld) (v : W32) (be : Nat) : Nat := bitsOf f.hi f.lo (v &&& BitVec.ofNat 32 (enMask be))

/-- Some bit of a field is enabled. -/
def Fld.enabled (f : Fld) (be : Nat) : Bool := bitsOf f.hi f.lo (BitVec.ofNat 32 (enMask be)) != 0

/-- A write's effect on one field (R3, R6, R365): enabled bits of an RW field are merged and the field clamped; enabled ones clear a W1C
field's bits; RO, RC and WO fields hold nothing that a write sets. -/
def writeField (v : W32) (be : Nat) (held : W32) (r : RegRow) : W32 :=
  let m := bitsOf r.f.hi r.f.lo (BitVec.ofNat 32 (enMask be))
  let h := bitsOf r.f.hi r.f.lo held
  let n := bitsOf r.f.hi r.f.lo v
  match r.acc with
  | .rw => if m = 0 then held else setBitsOf r.f.hi r.f.lo held (r.clamp.apply ((n &&& m) + (h - (h &&& m))))
  | .w1c => setBitsOf r.f.hi r.f.lo held (h - (h &&& (n &&& m)))
  | _ => held

/-- A write of a word by its field table alone; an unassigned offset ignores it (R365). -/
def State.mergeWrite (s : State) (a : Nat) (v : W32) (be : Nat) : State :=
  match locate a with
  | none => s
  | some (b, inst, o) =>
    match rowsAt b inst o with
    | [] => s
    | rows => s.setReg a (rows.foldl (fun w r => writeField v be w r.1) (s.reg a))

/-- As `mergeWrite`, for a word that takes effect at step 3 of the next boundary. -/
def State.stageWrite (s : State) (a : Nat) (v : W32) (be : Nat) : State := (s.mergeWrite a v be).markDirty a

/-! Reads. -/

/-- The _HI word that a read of a _LO word captures (R173, R267, R308, R346). -/
def hiOf (b : Blk) (o : Nat) : Option Nat :=
  let pair := match b with
    | .ribbon => o == 0x300 || o == 0x310 || (decide (0x400 ≤ o) && decide (o < 0x600) && (o % 0x40 == 0 || o % 0x40 == 0x10))
    | .patch => o == 0xC00 || o == 0xC10 || (decide (0xD00 ≤ o) && decide (o < 0xF00) && o % 0x20 == 0x18)
    | .dev => o == 0x800 || o == 0x810
    | .trig => o == 0
    | _ => false
  if pair then some (o + 4) else none

/-- The word is a captured _HI word. -/
def isHi (b : Blk) (o : Nat) : Bool := decide (4 ≤ o) && hiOf b (o - 4) == some o

/-- How a position's state lets BAR0 and the window reach its PATCH block (R545). -/
inductive PosView where
  | normal | frozen | own
  deriving DecidableEq, Repr

def State.posView (s : State) (p : Nat) : PosView :=
  if s.rd F.POS_STATE DEV p = 0 then .normal
  else if s.rd F.POS_STATE DEV p = 2 ∧ s.rd F.RES_FROM RES = p ∧ s.rd F.RES_PHASE RES ≠ 0 then
    (if s.rd F.RES_PHASE RES = 1 then .normal else .frozen)
  else .own

/-- The bank integrity registers of R332. -/
def isIntegrity (o : Nat) : Bool := decide (0xB00 ≤ o) && decide (o ≤ 0xB80)

/-- The processor whose diagnostic window lies in a block instance, if one is served there (R544). -/
def State.diagKey (s : State) (b : Blk) (inst : Nat) : Option Nat :=
  match b with
  | .dev => some 0
  | .patch => if s.posView inst = .own then none else some (16 + s.rd F.POS_LPATCH DEV inst)
  | .ribbon => ((List.range 32).find? (fun r => s.rsp r == inst)).map (fun r => 32 + r)
  | _ => none

/-- The selected image of a diagnostic window: live or staging page, or a slot. -/
def State.diagImg (s : State) (key page : Nat) : Image :=
  if key = 0 then (s.procAt 0).img page else (s.procAt key).img ((s.livePage key + page) % 2)

/-- A word of an image: an instruction (0 at or beyond LENGTH), or a word of the binding store (R544). -/
def Image.diagWord (m : Image) (area index : Nat) : W32 :=
  if area = 0 then (if index < m.length then nthD 0 m.code index else 0)
  else if index < 8 then nthD 0 m.hdr index
  else
    let e := nthD 0 m.strs ((index - 8) / 2)
    BitVec.ofNat 32 (if index % 2 = 0 then e.toNat else e.toNat / 2 ^ 32)

/-- Offsets of a PATCH block that lie in the lower half, in L1 (R525): the sequencer, the plane controller, queues, capture, counters and
check-value units, the window, and banks 0 to 3. -/
def patchLower (o : Nat) : Bool :=
  decide (o < 0x240) || (decide (0x300 ≤ o) && decide (o < 0x600)) || (decide (0xB80 ≤ o) && decide (o < 0xF00))
    || (decide (0x800 ≤ o) && decide (o < 0x900)) || (decide (0xA00 ≤ o) && decide (o < 0xA40))
    || (decide (0xB00 ≤ o) && decide (o < 0xB40))

/-- Those in the upper half, in L3: queues, pattern engine, check-value units, and banks 4 to 7. -/
def patchUpper (o : Nat) : Bool :=
  (decide (0x240 ≤ o) && decide (o < 0x280)) || (decide (0x600 ≤ o) && decide (o < 0x800))
    || (decide (0x900 ≤ o) && decide (o < 0xA00)) || (decide (0xA40 ≤ o) && decide (o < 0xA80))
    || (decide (0xB40 ≤ o) && decide (o < 0xB80))

/-- A register that does not answer: those of the upper layers before their training (R518) and during a stop (R511), and those of a layer in
reset (R527). -/
def State.silent (s : State) (b : Blk) (o : Nat) : Bool :=
  let off := decide (s.rd F.ST_PHASE DEV ≤ 6) || s.hk.stop != 0
  match b with
  | .cfg => off || s.inReset 2
  | .patch => off || (patchLower o && s.inReset 1) || (patchUpper o && s.inReset 3)
  | .bolt => off || s.inReset 3
  | .ribbon => s.inReset 0
  | .trig => s.inReset 0
  | _ => false

/-- The address of the control word of a diagnostic window. -/
def diagBase (b : Blk) : Nat := if b = .dev then 0x680 else 0x20

/-- The mailbox words that the jack's logic writes; a blank board has none (R533, R535). -/
def State.jackWrites (s : State) (b : Blk) (o : Nat) : Bool :=
  b == .jack && decide (F.JK_FROM_JACK.off ≤ o) && decide (o < F.JK_FROM_JACK.off + 32) && !s.flag F.JK_BLANK JACK

/-- What a read of a BAR0 offset returns, without its side effects; in the halt every block but SEC reads 0 (R358). CV_VALUE of a unit whose
stream path is enabled reads CV_LAST (R302). How many errors a processor position's memories corrected since the last read is free (R184,
assumption 93), and so is what the jack's logic writes (R535, assumption 106). -/
def State.peek (s : State) (a : Nat) : W32 :=
  match locate a with
  | none => 0
  | some (b, inst, o) =>
    if (s.halted ∧ b ≠ .sec) ∨ s.silent b o then 0
    else if b = .patch ∧ s.posView inst = .own ∧ ¬ isIntegrity o then 0
    else if b = .dev ∧ o = 0x110 then BitVec.ofNat 32 s.stitch.toNat
    else if b = .trig ∧ o = 0 then BitVec.ofNat 32 s.trig.latched.toNat
    else if isHi b o then s.capHi.get resetWord a
    else if s.jackWrites b o then BitVec.ofNat 32 s.freeWord.toNat
    else if b = .ribbon ∧ o = F.RSPH_CORR.off then setBitsOf 15 0 (s.reg a) s.freeWord.toNat
    else if b = .patch ∧ 0x800 ≤ o ∧ o < 0xA80 ∧ o % 0x20 = 4 ∧ bitsOf 7 7 (s.effReg (a - 4)) = 1 then s.reg (a + 4)
    else if (b = .dev ∨ b = .patch ∨ b = .ribbon) ∧ (o = diagBase b + 4 ∨ o = diagBase b + 8) then
      match s.diagKey b inst with
      | none => 0
      | some key =>
        let w := s.reg (a - (o - diagBase b))
        let m := s.diagImg key (bitsOf 15 12 w)
        if o = diagBase b + 4 then m.diagWord (bitsOf 16 16 w) (bitsOf 11 0 w) else BitVec.ofNat 32 m.length
    else s.reg a

/-- What a _HI word captures: the live upper half, or the snapshot. -/
def State.hiValue (s : State) (b : Blk) (a : Nat) : W32 :=
  if b = .trig then BitVec.ofNat 32 (s.trig.latched.toNat / 2 ^ 32) else s.reg (a + 4)

/-- A word of an 8 B read through the window, whose two words stand as at one instant (R391): a _HI word with its live upper half. -/
def State.peekNow (s : State) (a : Nat) : W32 :=
  match locate a with
  | none => 0
  | some (b, inst, o) =>
    if (s.halted ∧ b ≠ .sec) ∨ s.silent b o ∨ (b = .patch ∧ s.posView inst = .own) then s.peek a
    else if b = .dev ∧ o = 0x114 then BitVec.ofNat 32 (s.stitch.toNat / 2 ^ 32)
    else if isHi b o then (if b = .trig then BitVec.ofNat 32 (s.trig.latched.toNat / 2 ^ 32) else s.reg a)
    else s.peek a

/-- A read through the system window, of one word or of an aligned pair (R390, R391). -/
def State.windowPeek (s : State) (a : Nat) (wide : Bool) : W32 × W32 :=
  if wide then (s.peek (a / 8 * 8), s.peekNow (a / 8 * 8 + 4)) else (s.peek (a / 4 * 4), 0)

/-- The side effects of a read (R3, R59, R173, R308, R317): captures, and RC fields cleared to their reset values. -/
def State.readEffects (s : State) (a : Nat) : State :=
  match locate a with
  | none => s
  | some (b, inst, o) =>
    if s.halted ∨ s.silent b o then s
    else if b = .patch ∧ ¬ isIntegrity o ∧ s.posView inst ≠ .normal then s
    else
      let s1 := if (hiOf b o).isSome then { s with capHi := s.capHi.put (a + 4) (s.hiValue b a) } else s
      let s2 := if b = .dev ∧ o = 0x110 then
          ((s1.wr F.STITCH_HI DEV (s.stitch.toNat / 2 ^ 32)).wr F.OFFSET_NOW DEV s.off) else s1
      let s3 := if b = .trig ∧ o = F.LOG_LOST.off then s2.wr F.LOG_LOST TRIG 0
        else if b = .trig ∧ 0x400 ≤ o ∧ o < 0x600 then { s2 with trig := { s2.trig with unread := s2.trig.unread.filter (fun e => e != (o - 0x400) / 16) } }
        else s2
      let s3 := if (b = .ribbon ∧ o = F.RSPH_CORR.off) ∨ s.jackWrites b o then s3.took else s3
      let rc := (rowsAt b inst o).filter (fun r => r.1.acc = .rc)
      if rc = [] then s3
      else s3.setReg a (rc.foldl (fun w r => setBitsOf r.1.f.hi r.1.f.lo w (r.1.reset inst r.2)) (s3.reg a))

/-- A read: its side effects, and the value it returns. -/
def State.busRead (s : State) (a : Nat) : State × W32 := (s.readEffects a, s.peek a)

/-- A write of a logical patch's register by way of its position (R545): it acts, is held for the rebind, or is ignored, as it is while its
layer is in reset (R527). -/
def State.viaPatch (s : State) (k o : Nat) (v : W32) (be : Nat) (t : State) : State :=
  match s.posView (s.ppos k) with
  | .normal => if s.silent .patch o then s else t
  | .frozen => { s with res := { s.res with held := s.res.held ++ [⟨.host, s.pb k + o, v, be⟩] } }
  | .own => s

/-- The fabric of a logical patch runs: released, its clocks not gated, and not frozen by a handover (R216, R444, R463). -/
def State.fabricRuns (s : State) (k : Nat) : Bool :=
  s.patchLive k && s.posView (s.ppos k) == .normal && s.gateIsOpen (57 + s.ppos k) && s.gateIsOpen (75 + s.ppos k)

/-! Paths (R32, R85, R86, R542, R543). -/

/-- Registers that no string reaches (R543). -/
def hostOnly (b : Blk) (o : Nat) : Bool :=
  match b with
  | .patch => (decide (0xB90 ≤ o) && decide (o ≤ 0xB9C)) || (decide (0x20 ≤ o) && decide (o ≤ 0x28))
  | .ribbon => decide (0x20 ≤ o) && decide (o ≤ 0x28)
  | .bolt => decide (0x100 ≤ o) && decide (o ≤ 0x10C)
  | .host => decide (0x800 ≤ o)
  | .dev => (decide (0x680 ≤ o) && decide (o ≤ 0x688)) || o == 0xC10
  | _ => false

/-- The BAR0 offset of register `w` of a bound group, by the bindings of the moment; none where the access acts as NULL (R86, R542). -/
def State.bindAddr (s : State) (key : Nat) (b : Bind) (w : Nat) (write : Bool) : Option Nat :=
  let o := 4 * (b.base + w)
  let half := fun h => match s.patchRib (key - 16) h with
    | some r => if 0x40 ≤ o ∧ o < 0x800 ∧ ¬ hostOnly .ribbon o then some (RIBBON r + o) else none
    | none => none
  if b.size ≤ w then none
  else if key = 0 then
    match targetBlk' b.target with
    | none => none
    | some k => if hostOnly k o then none else some (blkBase k b.inst + o)
  else if key < 32 then
    match b.target with
    | 0 => if hostOnly .patch o then none else some (s.pb (key - 16) + o)
    | 1 => if hostOnly .bolt o then none else some (BOLT (key - 16) + o)
    | 2 => half 0
    | 3 => half 1
    | 4 => if write ∧ o ≠ 8 ∧ o ≠ 0xC then none else some (TRIG + o)
    | _ => none
  else if hostOnly .ribbon o then none
  else if o < 0x40 then some (RIBBON (s.rsp (key - 32)) + o) else some (RIBBON (key - 32) + o)
where
  /-- The block of a Graov-M target code (R99). -/
  targetBlk' (t : Nat) : Option Blk :=
    nthD none [some .dev, some .clk, some .hk, some .host, some .seam, some .cfg, some .sec, some .res, some .jack, some .ribbon, some .patch,
      some .bolt, some .trig] t
  /-- The base of an instance. -/
  blkBase (k : Blk) (i : Nat) : Nat :=
    match k with
    | .dev => DEV | .clk => CLK | .hk => HK | .host => HOST | .seam => SEAM i | .cfg => CFG | .sec => SEC | .res => RES | .jack => JACK
    | .ribbon => RIBBON i | .patch => PATCH i | .bolt => BOLT i | .trig => TRIG

end Sys2Proof.Machine
end

