-- ==== Sys2Proof/Machine/Capture.lean ====
section
/-! DEFINITION. The capture engine of a logical patch (R229 to R268). -/

namespace Sys2Proof.Machine

/-- A space with nothing placed in it. -/
def Placing.none : Placing :=
  { placed := [], wpos := 0, pass := 0, records := 0, trigRec := .none, preRecs := 0, preBytes := 0, postRecs := 0, postBytes := 0, wrapped := false
    seq := 0 }

/-- The engine of a logical patch. -/
def State.capAt (s : State) (k : Nat) : CapSt :=
  s.caps.get (fun _ =>
    { cfg := { mode := 0, trigEn := false, trigLine := 0, kib := false, preWait := false, segWrap := false, closeEn := false, closeLine := 0,
               pre := 0, post := 0, segCount := 1, trainMax := 4064, recBase := 0, recSize := 2039, idxBase := 521984, segBase := 524256 }
      reqs := [], units := [], queue := [], pl := Placing.none, trigger := none, segPass := [], idx := none, closes := [], last := none
      written := [], held := [], gaps := [], chunkDisc := [], cuts := [], inFrame := [], keptNow := 0 }) k

def State.setCap (s : State) (k : Nat) (x : CapSt) : State := { s with caps := s.caps.put k x }

def State.modCap (s : State) (k : Nat) (f : CapSt → CapSt) : State := s.setCap k (f (s.capAt k))

/-- STATE of R265. -/
def State.capState (s : State) (k : Nat) : Nat := s.rd F.CAPS_STATE (s.pb k)

/-- A capture runs: RUNNING or POST. -/
def State.capRuns (s : State) (k : Nat) : Bool := s.capState k == 1 || s.capState k == 2

/-- A capture is under way, in any STATE other than IDLE and STOPPED (R252). -/
def State.capBusy (s : State) (k : Nat) : Bool := s.capRuns k || s.capState k == 3

/-- A slot configuration field in effect (R266). -/
def State.slotCfg (s : State) (f : Fld) (k slot : Nat) : Nat := s.erd f (s.pb k) slot

/-! Banks (R240 to R242). -/

/-- Banks 0 to 3 that the engine owns. -/
def State.capBanks (s : State) (k : Nat) : Nat := ((List.range 4).filter (fun b => (s.bankAt (s.ppos k) b).owner == 1)).length

/-- Banks that the verdict buffer needs. -/
def State.verdictBanks (s : State) : Nat := if s.rd F.STC_N_NOW DEV ≤ 85 then 1 else 2

/-- Free staging space in bytes. -/
def State.stagingSize (s : State) (k : Nat) : Nat := (s.capBanks k - s.verdictBanks) * 0x100000

/-- Bytes of the records in the queue. -/
def CapSt.queued (x : CapSt) : Nat := (x.queue.map (fun r => r.bytes.length)).sum

/-! Space (R247, R255). -/

/-- Size of the space: the record space, or a segment in SEGMENTED mode. -/
def CapCfg.zone (c : CapCfg) : Nat := if c.mode = 2 then c.recSize * 256 / c.segCount * 4096 else c.recSize * 0x100000

/-- Bolt offset at which a segment starts. -/
def CapCfg.segStart (c : CapCfg) (seg : Nat) : Nat := c.recBase * 0x100000 + (if c.mode = 2 then seg * c.zone else 0)

/-- The settings as the registers hold them. -/
def State.capCfgNow (s : State) (k : Nat) : CapCfg :=
  let b := s.pb k
  { mode := s.rd F.CAP_MODE b
    trigEn := s.flag F.CAP_TRIG_EN b
    trigLine := s.rd F.CAP_TRIG_LINE b
    kib := s.flag F.CAP_DEPTH_UNIT b
    preWait := s.flag F.CAP_PRE_WAIT b
    segWrap := s.flag F.CAP_SEG_WRAP b
    closeEn := s.flag F.CAP_CLOSE_EN b
    closeLine := s.rd F.CAP_CLOSE_LINE b
    pre := s.rd F.CAP_PRE_DEPTH b
    post := s.rd F.CAP_POST_DEPTH b
    segCount := s.rd F.CAP_SEG_COUNT b
    trainMax := s.rd F.CAP_TRAIN_MAX b
    recBase := s.rd F.CAP_REC_BASE b
    recSize := s.rd F.CAP_REC_SIZE b
    idxBase := s.rd F.CAP_IDX_BASE b
    segBase := s.rd F.CAP_SEG_BASE b }

/-- Some two of the record space, index and segment table overlap (R241). -/
def CapCfg.overlaps (c : CapCfg) : Bool :=
  let meet := fun (a b : Nat × Nat) => decide (a.1 < b.1 + b.2) && decide (b.1 < a.1 + a.2)
  let r := (c.recBase * 0x100000, c.recSize * 0x100000)
  let i := (c.idxBase * 4096, c.recSize * 4096)
  let t := (c.segBase * 4096, 0x20000)
  meet r i || meet r t || meet i t

/-- A depth of records or KiB has been reached. -/
def CapCfg.reached (c : CapCfg) (depth recs bytes : Nat) : Bool := if c.kib then decide (depth * 1024 ≤ bytes) else decide (depth ≤ recs)

/-! Settings (R263, R264). -/

/-- The clamps among the control and region registers after a write. -/
def State.clampCap (s : State) (k : Nat) : State :=
  let b := s.pb k
  let s1 := s.wr F.CAP_REC_SIZE b ((Clamp.range 1 (2048 - s.rd F.CAP_REC_BASE b)).apply (s.rd F.CAP_REC_SIZE b))
  let size := s1.rd F.CAP_REC_SIZE b
  let s2 := s1.wr F.CAP_SEG_COUNT b ((Clamp.range 1 (min 4096 (size * 64))).apply (s1.rd F.CAP_SEG_COUNT b))
  let z := (s2.capCfgNow k).zone
  let top := if s2.flag F.CAP_DEPTH_UNIT b then z / 1024 else z / 64
  (s2.wr F.CAP_PRE_DEPTH b (min top (s2.rd F.CAP_PRE_DEPTH b))).wr F.CAP_POST_DEPTH b (min top (s2.rd F.CAP_POST_DEPTH b))

/-- A write of a control or region register at block offset `o` of the patch's position. -/
def State.writeCapCfg (s : State) (k o : Nat) (v : W32) (be : Nat) : State :=
  let s1 := s.mergeWrite (s.pb k + o) v be
  let b := s.pb k
  if o = F.CAP_IDX_BASE.off then s1.wr F.CAP_IDX_BASE b (min (s1.rd F.CAP_IDX_BASE b) (524288 - s1.rd F.CAP_REC_SIZE b)) else s1.clampCap k

/-- A write of a slot configuration (R266); a change ends a STREAM chunk early (R234). -/
def State.writeSlotCfg (s : State) (k slot : Nat) (v : W32) (be : Nat) : State := s.stageWrite (F.CSLOT_EN.at (s.pb k) slot 0) v be

/-! Units (R229 to R234). -/

/-- The first bytes of the control map of a character list: bit i of byte j for character 8j + i (R229). -/
def mapBytes : Nat → List Bool → List Byte
  | 0, _ => []
  | n + 1, l => BitVec.ofNat 8 ((List.range 8).foldl (fun m i => if nthD false l i then m + 2 ^ i else m) 0) :: mapBytes n (l.drop 8)

/-- Stored payload of a unit (R229). -/
def CapUnit.payload (u : CapUnit) : List Byte := if u.chars then u.body ++ mapBytes (ceilDiv u.body.length 8) u.ctl else u.body

/-- Length of the stored payload. -/
def CapUnit.stored (u : CapUnit) : Nat := if u.chars then u.body.length + ceilDiv u.body.length 8 else u.body.length

/-- Payload under KEEP_HEAD(n): n bytes, or n characters with their map bytes (R237). -/
def CapUnit.head (u : CapUnit) (n : Nat) : List Byte :=
  if u.chars then u.body.take n ++ mapBytes (ceilDiv n 8) (u.ctl.take n) else u.body.take n

/-- KEEP_HEAD(n) cuts the unit. -/
def CapUnit.cuts (u : CapUnit) (n : Nat) : Bool := decide (n < u.body.length)

/-! Records (R239 to R246, R255, R256). -/

/-- A record header (R244). -/
def headerBytes (ts : Stamp) (lane kind verdict tpos : Nat) (trunc : Bool) (ulen slen : Nat) (flags : Nat) (fecSym seg : Nat) (seq : W32)
    (tag gap : Nat) (codeErr : Bool) : List Byte :=
  leBytes 10 ts.num ++ leBytes 1 lane ++ leBytes 1 (kind % 4 + 4 * (verdict % 4) + 16 * (tpos % 4) + 128 * bit trunc) ++ leBytes 2 ulen
    ++ leBytes 2 slen ++ leBytes 1 flags ++ leBytes 1 fecSym ++ leBytes 2 (seg % 4096) ++ leBytes 4 seq.toNat ++ leBytes 2 tag
    ++ leBytes 2 gap ++ leBytes 4 (bit codeErr)

/-- Rounded up to whole 64 B lines, a 32 B header included (R243). -/
def recordSize (slen : Nat) : Nat := 64 * ceilDiv (32 + slen) 64

/-- Bytes padded with zeros to a length. -/
def padBytes (n : Nat) (bs : List Byte) : List Byte := bs ++ List.replicate (n - bs.length) 0

/-- A lane's line bits are cut into chunks now: a running capture, a slot that captures in STREAM form, a lane in ACQUIRE or UP (R229, R234). -/
def State.streams (s : State) (k slot l : Nat) : Bool :=
  s.capRuns k && s.slotCfg F.CSLOT_EN k slot == 1 && (s.slotCfg F.CSLOT_FORM k slot == 1 || s.pcsOf l == 0)
    && (s.ln F.LN_LSTATE l == 1 || s.ln F.LN_LSTATE l == 2) && s.firstLane l == l

/-- The chunk of a slot ends now, and the next carries DISC (R234); what a boundary ends, it ends at offset 8. -/
def State.cutChunk (s : State) (k slot l : Nat) : State :=
  s.modCap k (fun x =>
    { x with
      cuts := x.cuts.put slot ⟨l, s.rateOf l, s.ln F.LN_FE_LAT l, Tab.get (fun _ => false) x.chunkDisc slot, s.stitch, max 8 s.off⟩
      chunkDisc := x.chunkDisc.put slot true })

/-- A lane leaves ACQUIRE and UP, or its slot: a chunk of it ends (R234). -/
def State.streamCut (s : State) (k slot l : Nat) : State := if s.streams k slot l then s.cutChunk k slot l else s

/-- Ends a capture with a reason (R234, R253): units still arriving are not captured, and the chunks of its slots end. -/
def State.stopCap (s : State) (k reason : Nat) : State :=
  let s1 := forN (fun slot s => match s.slotLane k slot with | some l => s.streamCut k slot l | none => s) 16 s
  ((s1.modCap k (fun x => { x with units := x.units.map (fun u => if u.arriving then { u with live := false } else u) })).wr F.CAPS_STATE
    (s.pb k) 3).wr F.CAPS_STOP_REASON (s.pb k) reason

/-- The open segment as it would close now. -/
def State.closing (s : State) (k cause : Nat) : SegClose :=
  let x := s.capAt k
  { seg := s.rd F.CAPS_SEG_NOW (s.pb k), left := x.queue.length, cause := cause, trigger := x.trigger, preShort := s.flag F.CAPS_PRE_SHORT (s.pb k)
    damaged := false, pl := x.pl }

/-- The segment entry of R250. FIRST of a segment that holds no record is left open by the spec. -/
def State.segEntry (s : State) (k : Nat) (c : SegClose) : State × List Byte :=
  let here := c.pl.placed.filter (fun p => p.seg == c.seg)
  let first := match here with
    | [] => s.freeWord.toNat
    | p :: _ => p.off
  let flags := 1 + 2 * bit c.pl.wrapped + 4 * bit c.preShort + 8 * bit c.damaged + 16 * bit c.trigger.isSome + 32 * c.cause
  (if here = [] then s.took else s,
   leBytes 4 first ++ leBytes 4 (c.pl.trigRec.getD 0xFFFFFFFF) ++ leBytes 4 c.pl.wpos
    ++ leBytes 10 (match c.trigger with | some t => t.num | none => 0) ++ leBytes 1 (s.rd F.CAPS_RUN (s.pb k)) ++ leBytes 1 flags
    ++ leBytes 4 c.pl.records ++ leBytes 4 0)

/-- The bolt offset of a segment entry. -/
def CapCfg.segAddr (c : CapCfg) (seg : Nat) : Nat := c.segBase * 4096 + 32 * seg

/-- Writes a segment entry to the bolt. -/
def State.putSegEntry (s : State) (k : Nat) (c : SegClose) : State :=
  let e := s.segEntry k c
  (e.1.boltPut k ((s.capAt k).cfg.segAddr c.seg) e.2).1

/-- Writes the entries of closed segments whose last record has been written (R257). -/
def State.flushCloses (s : State) (k : Nat) : State :=
  let x := s.capAt k
  let s1 := s.modCap k (fun x => { x with closes := x.closes.filter (fun c => c.left != 0) })
  forEach (fun c s => if c.left = 0 then s.putSegEntry k c else s) x.closes s1

/-! Offloads that follow the engine (R262, R384). -/

/-- The channels that offload a logical patch of this device. -/
def State.chansOf (s : State) (k : Nat) : List Nat :=
  (s.host.chans.filter (fun e => s.rd F.CH_LPATCH HOST e.1 == k && e.2.source.isNone)).map (fun e => e.1)

/-- Changes a channel. -/
def State.modChan (s : State) (ch : Nat) (f : ChanSt → ChanSt) : State :=
  { s with host := { s.host with chans := s.host.chans.map (fun e => if e.1 = ch then (e.1, f e.2) else e) } }

/-- Pages are skipped (R262, R388). -/
def State.skipPages (s : State) (ch n : Nat) : State :=
  (s.modChan ch (fun x => { x with skipped := x.skipped + n })).bump F.CH_SKIPPED HOST n ch

/-- The segment of record space in which a page lies (R255, R384). -/
def CapCfg.pageSeg (c : CapCfg) (page : Nat) : Nat := if c.mode = 2 then page / (c.zone / 4096) else 0

/-- A page's index entry has been written: a FOLLOW will send it. -/
def State.pageWritten (s0 : State) (k page : Nat) : State :=
  let s := s0.modCap k (fun x => { x with written := x.written.filter (fun p => p != page) ++ [page] })
  forEach (fun ch s => s.modChan ch (fun x =>
    if x.follow ∧ x.segPhase < 2 ∧ (match x.limitSeg with | none => true | some g => (s.capAt k).cfg.pageSeg page == g) = true
        ∧ x.queue.all (fun q => q.1 != page) then { x with queue := x.queue ++ [(page, 0)] } else x)) (s.chansOf k) s

/-- A record is written over pages: a FOLLOW that has not sent them moves on (R262). -/
def State.pagesLost (s0 : State) (k first last : Nat) : State :=
  let lost := fun (q : Nat × Nat) => decide (first ≤ q.1) && decide (q.1 ≤ last)
  let s := s0.modCap k (fun x => { x with written := x.written.filter (fun p => !(decide (first ≤ p) && decide (p ≤ last))) })
  forEach (fun ch s =>
    match s.host.chans.find? (fun e => e.1 == ch) with
    | none => s
    | some (_, x) =>
      let n := (x.queue.filter lost).length
      if x.follow ∧ 0 < n then (s.modChan ch (fun x => { x with queue := x.queue.filter (fun q => !lost q) })).skipPages ch n else s) (s.chansOf k) s

/-- A segment closes, or is opened again (R384). -/
def State.segPhase (s : State) (k seg from_ : Nat) : State :=
  forEach (fun ch s => s.modChan ch (fun x => if x.limitSeg = some seg ∧ x.segPhase = from_ then { x with segPhase := from_ + 1 } else x)) (s.chansOf k) s

/-- Raises CLOSE_LINE (R258). -/
def State.closeLine (s : State) (k : Nat) : State :=
  if (s.capAt k).cfg.closeEn then s.raiseLine 2 (s.capAt k).cfg.closeLine else s

/-- Opens a segment with STATE RUNNING (R255). -/
def State.openSeg (s : State) (k seg : Nat) : State :=
  let b := s.pb k
  let s1 := (((s.segPhase k seg 1).wr F.CAPS_STATE b 1).wr F.CAPS_SEG_NOW b seg).wr F.CAPS_PRE_SHORT b 0
  s1.modCap k (fun x =>
    { x with
      trigger := none
      pl := { Placing.none with placed := x.pl.placed.filter (fun p => p.seg != seg), wpos := x.cfg.segStart seg
                                pass := Tab.get (fun _ => 0) x.segPass seg, seq := x.pl.seq } })

/-- Closes the open segment with a cause, and opens the next or stops with SEGMENTS_DONE (R250, R255, R257). The last segment's entry is
written once the records of all units that ended before are (R253, assumption 97). -/
def State.closeSeg (s : State) (k cause : Nat) : State :=
  let seg := s.rd F.CAPS_SEG_NOW (s.pb k)
  let c := (s.capAt k).cfg
  let done := s.closing k cause
  let goes := seg + 1 < c.segCount || c.segWrap
  let s1 := s.modCap k (fun x =>
    { x with
      closes := if goes then x.closes ++ [done] else x.closes
      last := if goes then none else some done
      segPass := x.segPass.put seg (x.pl.pass + 1) })
  let s2 := ((s1.flushCloses k).closeLine k).segPhase k seg 0
  if goes then s2.openSeg k (if seg + 1 < c.segCount then seg + 1 else 0) else s2.stopCap k 5

/-- What POST_DONE does (R255): in SEGMENTED mode the segment closes, else the capture stops. -/
def State.postDone (s : State) (k : Nat) : State := if (s.capAt k).cfg.mode = 2 then s.closeSeg k 0 else s.stopCap k 3

/-- STATE is POST and POST_DEPTH has been placed. -/
def State.postReached (s : State) (k : Nat) : Bool :=
  let x := s.capAt k
  s.capState k == 2 && x.cfg.reached x.cfg.post x.pl.postRecs x.pl.postBytes

/-- The newest PRE_DEPTH of the open segment's records with TPOS 0 or 1 (R256). -/
def CapSt.guarded (x : CapSt) (seg : Nat) : List PlacedRec :=
  let pre := (x.pl.placed.filter (fun p => p.seg == seg && p.tpos != 2)).reverse
  if x.cfg.kib then
    (pre.foldl (fun (a : List PlacedRec × Nat) p => if a.2 < x.cfg.pre * 1024 then (a.1 ++ [p], a.2 + p.size) else a) ([], 0)).1
  else pre.take x.cfg.pre

/-- A range of the bolt overlaps a record. -/
def PlacedRec.meets (p : PlacedRec) (a n : Nat) : Bool := decide (p.off < a + n) && decide (a < p.off + p.size)

/-- `n` bytes of a segment's space are taken at the write position: what is overwritten is no longer retained. -/
def Placing.take (p : Placing) (seg n : Nat) : Placing :=
  let over_ := fun (r : PlacedRec) => r.seg == seg && r.meets p.wpos n
  { p with placed := p.placed.filter (fun r => !over_ r), wrapped := p.wrapped || p.placed.any over_, wpos := p.wpos + n }

/-- The present fabric cycle. -/
def State.fabCycle (s : State) : Nat := s.rootNow / 4

/-- Places a FILL record over the rest of the space (R245, R246). Its timestamp and lane are left open by the spec. -/
def State.placeFill (s : State) (k : Nat) : State :=
  let x := s.capAt k
  let c := x.cfg
  let seg := s.rd F.CAPS_SEG_NOW (s.pb k)
  let n := c.segStart seg + c.zone - x.pl.wpos
  if n = 0 then s
  else
    let w := s.freeWord
    let hdr := headerBytes ⟨w, 0, false, false⟩ (w.toNat % 256) 3 0 0 false 0 0 0 0 seg x.pl.seq 0 0 false
    let r : CapRec := { place := x.pl.wpos, bytes := padBytes n hdr, stitch := w, seq := x.pl.seq, pass := x.pl.pass, seg := seg, info := none
                        lost := 0, cycle := s.fabCycle, was := x.pl }
    s.took.modCap k (fun x => { x with queue := x.queue ++ [r], pl := x.pl.take seg n })

/-- Back to the start of the space (R246, R255). -/
def State.wrapSpace (s : State) (k : Nat) : State :=
  s.modCap k (fun x => { x with pl := { x.pl with wpos := x.cfg.segStart (s.rd F.CAPS_SEG_NOW (s.pb k)), pass := (x.pl.pass + 1) % 256 } })

/-- Placing `n` bytes at the write position would overwrite a record that PRE_DEPTH guards (R256). -/
def State.guardHit (s : State) (k n : Nat) : Bool :=
  let x := s.capAt k
  s.capState k == 2 && x.cfg.mode != 1 && (x.guarded (s.rd F.CAPS_SEG_NOW (s.pb k))).any (fun r => r.meets x.pl.wpos n)

/-- PRE_GUARD (R256). -/
def State.preGuard (s : State) (k : Nat) : State :=
  if s.capState k ≠ 2 then s else if (s.capAt k).cfg.mode = 2 then s.closeSeg k 1 else s.stopCap k 4

/-- Finds a place for `n` bytes: FILL and wrap, stop on FULL, or PRE_GUARD (R246, R255, R256). Answers whether the record takes a place; after
a stop with FULL or PRE_GUARD none does (R267). -/
def State.findPlace (s : State) (k n : Nat) : State × Bool :=
  let x := s.capAt k
  let c := x.cfg
  let stop := c.segStart (s.rd F.CAPS_SEG_NOW (s.pb k)) + c.zone
  let why := s.rd F.CAPS_STOP_REASON (s.pb k)
  if s.capState k = 3 ∧ (why = 2 ∨ why = 4) then (s, false)
  else if x.pl.wpos + n ≤ stop then (if s.guardHit k n then (s.preGuard k, false) else (s, true))
  else if s.guardHit k (stop - x.pl.wpos) then (s.preGuard k, false)
  else
    let s1 := s.placeFill k
    if c.mode = 1 then (if s1.capRuns k then s1.stopCap k 2 else s1, false)
    else
      let s2 := s1.wrapSpace k
      if s2.guardHit k n ∨ c.zone < n then (s2.preGuard k, false) else (s2, true)

/-- A timestamp is at or after another. -/
def Stamp.atOrAfter (a b : Stamp) : Bool := decide (b.stitch.toNat * 16384 + b.off ≤ a.stitch.toNat * 16384 + a.off)

/-- Takes from the BYTES of a slot what it counted for records that lose their places (R267). -/
def State.unBytes (s : State) (k slot n : Nat) : State :=
  s.liveAdd64 (F.CCNT_BYTES_LO.at (s.pb k) slot 0) (F.CCNT_BYTES_HI.at (s.pb k) slot 0) (2 ^ 64 - n)

/-- A record takes its place: segment, offset and SEQ are fixed (R239, R245, R254 to R257). -/
def State.place (s : State) (k : Nat) (r : RecInfo) : State :=
  let n := recordSize r.payload.length
  let b := s.pb k
  let (s1, ok) := s.findPlace k n
  if ¬ ok then s1
  else
    let x := s1.capAt k
    let gap := Tab.get (fun _ => 0) x.gaps r.slot
    let seg := s1.rd F.CAPS_SEG_NOW b
    let tpos := match x.trigger with
      | none => 0
      | some t => if r.ts.atOrAfter t then 2 else 1
    let hdr := headerBytes r.ts r.lane r.kind r.verdict tpos r.trunc r.ulen r.payload.length (r.flags + 64 * bit (decide (gap ≠ 0))) r.fecSym
      seg x.pl.seq r.tag (min gap 65535) r.codeErr
    let rec_ : CapRec := { place := x.pl.wpos, bytes := padBytes n (hdr ++ r.payload), stitch := r.ts.stitch, seq := x.pl.seq, pass := x.pl.pass
                           seg := seg, info := some r, lost := gap, cycle := s1.fabCycle, was := x.pl }
    let p := x.pl.take seg n
    let post := bit (decide (tpos = 2))
    let pl : Placing :=
      { p with
        placed := p.placed ++ [⟨seg, x.pl.wpos, n, tpos⟩]
        records := p.records + 1, preRecs := p.preRecs + 1, preBytes := p.preBytes + n
        postRecs := p.postRecs + post, postBytes := p.postBytes + post * n
        trigRec := if tpos = 2 ∧ p.trigRec.isNone then some x.pl.wpos else p.trigRec
        seq := p.seq + 1 }
    (s1.liveAdd64 (F.CCNT_BYTES_LO.at b r.slot 0) (F.CCNT_BYTES_HI.at b r.slot 0) n).modCap k (fun x =>
      { x with queue := x.queue ++ [rec_], gaps := x.gaps.put r.slot 0, keptNow := x.keptNow + 1, pl := pl })

/-- Records that the queue holds of segments already closed. -/
def CapSt.shut (x : CapSt) : Nat := (x.closes.map (fun c => c.left)).foldl max 0

/-- The records at the queue's end that entered in fabric cycle `c` from slots above `slot`. -/
def CapSt.after (x : CapSt) (c slot : Nat) : List CapRec :=
  ((x.queue.drop x.shut).reverse.takeWhile (fun r => r.cycle == c && (match r.info with | some i => decide (slot < i.slot) | none => true))).reverse

/-- Records leave the end of the queue, and their places are free again. -/
def State.unplace (s : State) (k : Nat) (rs : List CapRec) : State :=
  match rs with
  | [] => s
  | r :: _ =>
    let s1 := s.modCap k (fun x => { x with queue := x.queue.take (x.queue.length - rs.length), pl := r.was })
    forEach (fun r s => match r.info with
      | some i => (s.unBytes k i.slot r.bytes.length).modCap k (fun x =>
          { x with gaps := x.gaps.put i.slot (Tab.get (fun _ => 0) x.gaps i.slot + r.lost), keptNow := x.keptNow - 1 })
      | none => s) rs s1

/-- A record enters the record queue, before those of higher slots that entered in the same fabric cycle; or it finds no room in staging and
counts RATE_LOST (R239, R245, R254 to R257, R260). -/
def State.enqueue (s0 : State) (k : Nat) (r : RecInfo) : State :=
  let s := if s0.postReached k then s0.postDone k else s0
  if s.stagingSize k < (s.capAt k).queued + recordSize r.payload.length then
    (s.liveBump F.CCNT_RATE_LOST (s.pb k) 1 r.slot).modCap k (fun x => { x with gaps := x.gaps.put r.slot (Tab.get (fun _ => 0) x.gaps r.slot + 1) })
  else
    let rs := (s.capAt k).after s.fabCycle r.slot
    forEach (fun c s => match c.info with | some i => s.place k i | none => s) rs ((s.unplace k rs).place k r)

/-- Shows what the status registers give of the queue, buffer and write position (R265). STAGE_KIB of a part KiB is left open. -/
def State.showCap (s : State) (k : Nat) : State :=
  let x := s.capAt k
  let b := s.pb k
  let kib := if x.queued % 1024 = 0 then x.queued / 1024 else x.queued / 1024 + s.freeWord.toNat % 2
  let s1 := if x.queued % 1024 = 0 then s else s.took
  ((((s1.wr F.CAPS_STAGE_KIB b kib).wr F.CAPS_PENDING b (x.units.filter (fun u => u.live && !u.closed)).length).wr F.CAPS_WPTR b x.pl.wpos).wr
    F.CAPS_WRAPPED b (bit x.pl.wrapped)).wr F.CAPS_SEQ_NEXT b x.pl.seq.toNat

/-- The outcome of a unit: its verdict, or the default when its window closes without one (R237, R267). -/
def State.settle (s : State) (k : Nat) (u : CapUnit) : State :=
  let b := s.pb k
  let flags := bit u.os + 2 * bit u.fec + 4 * bit u.link + 8 * bit u.disc + 16 * (u.chk % 4) + 128 * bit u.cont
  let (code, n, tag) := match u.verdict with
    | some v => v
    | none => (0, 0, 0)
  let cut := code == 1 && u.cuts n
  let info : RecInfo := { slot := u.slot, lane := u.lane, ts := u.ts, kind := u.kind, verdict := if cut then 1 else if code = 1 then 1 else 0
                          trunc := cut, ulen := u.stored, payload := if cut then u.head n else u.payload, flags := flags, fecSym := u.fecSym
                          tag := tag, codeErr := u.codeErr }
  match code with
  | 2 => s.liveBump F.CCNT_COUNTED b 1 u.slot
  | 3 => s.liveBump F.CCNT_DROPPED b 1 u.slot
  | _ =>
    let s1 := if u.verdict.isNone then s.liveBump F.CCNT_DEFAULTED b 1 u.slot else s
    (if cut then s1.liveBump F.CCNT_HEADED b 1 u.slot else s1.liveBump F.CCNT_KEPT b 1 u.slot).enqueue k info

/-- Replaces the units of an engine by applying `f` to each that `p` selects. -/
def CapSt.mapUnits (x : CapSt) (p : CapUnit → Bool) (f : CapUnit → CapUnit) : CapSt :=
  { x with units := x.units.map (fun u => if p u then f u else u) }

/-- The unit arriving on a slot. -/
def CapSt.open? (x : CapSt) (slot : Nat) : Option CapUnit := x.units.find? (fun u => u.slot == slot && u.arriving)

/-- Drops the first `n` data characters of a character list. -/
def dropData : List (Byte × Bool) → Nat → List (Byte × Bool)
  | [], _ => []
  | (b, true) :: t, n => (b, true) :: dropData t n
  | (b, false) :: t, 0 => (b, false) :: t
  | (_, false) :: t, n + 1 => dropData t n

/-- A unit without the check-value bytes at its end: for 8B10B, its last data characters (R244, R300). -/
def CapUnit.stripped (u : CapUnit) : CapUnit :=
  if u.chars then
    let l := (dropData (List.zip u.body u.ctl).reverse u.strip).reverse
    { u with body := l.map (fun p => p.1), ctl := l.map (fun p => p.2) }
  else { u with body := u.body.take (u.body.length - u.strip) }

/-- A unit's last beat has been delivered: a record at once if its verdict has arrived or NOVD is set (R239). A unit that is not captured leaves
nothing. -/
def State.endUnit (s : State) (k slot : Nat) : State :=
  match (s.capAt k).open? slot with
  | none => s
  | some u =>
    let done := { u.stripped with arriving := false }
    let is := fun (w : CapUnit) => w.slot == slot && w.arriving
    if ¬ done.live then s.modCap k (fun x => { x with units := x.units.filter (fun u => !is u) })
    else if done.verdict.isSome then (s.modCap k (fun x => x.mapUnits is (fun _ => { done with out := true }))).settle k done
    else s.modCap k (fun x => x.mapUnits is (fun _ => done))

/-- What a stream unit brings to the engine. -/
structure Beat where
  lane : Nat
  unit : Nat
  ts : Stamp
  kind : SKind
  bytes : List Byte
  ctl : List Bool
  chars : Bool
  fec : Bool
  link : Bool
  disc : Bool
  codeErr : Bool
  fecSym : Nat
  chk : Nat
  strip : Nat
  deriving DecidableEq, Repr

/-- CU_SOU is asserted with the latest beats of a slot (R231, R235). -/
def State.markSou (s : State) (k slot : Nat) : State :=
  let x := s.fabAt k
  match (x.rx.get (fun _ => []) slot).reverse with
  | [] => s
  | b :: t => s.setFab k { x with rx := x.rx.put slot ({ b with sou := [0] } :: t).reverse }

/-- A new capture unit begins (R235): captured if a capture runs on a slot in UNIT form (R252, R266). With NOVD its verdict is KEEP from the
start. Units form, and CU_SOU tells of them, whether or not they are captured (assumption 97). -/
def State.newUnit (s : State) (k slot : Nat) (b : Beat) (kind : Nat) (bytes : List Byte) (os cont : Bool) : State :=
  let novd := s.slotCfg F.CSLOT_NOVD k slot == 1
  let unitForm := s.slotCfg F.CSLOT_FORM k slot == 0
  let u : CapUnit :=
    { slot := slot, unit := b.unit, lane := b.lane, ts := b.ts, kind := kind, body := bytes, ctl := b.ctl, chars := b.chars, os := os
      fec := b.fec, link := b.link, disc := b.disc, codeErr := b.codeErr, cont := cont, fecSym := min 255 b.fecSym, chk := b.chk
      strip := b.strip, arriving := true, verdict := if novd then some (0, 0, 0) else none, out := false
      due := s.stitch + 2, closed := false, live := s.capRuns k && s.slotCfg F.CSLOT_EN k slot == 1 && unitForm, novd := novd }
  (if unitForm then s.markSou k slot else s).modCap k (fun x => { x with units := x.units ++ [u] })

/-- A stream unit joins the unit arriving on its slot. -/
def State.joinUnit (s : State) (k slot : Nat) (b : Beat) (bytes : List Byte) : State :=
  s.modCap k (fun x => x.mapUnits (fun u => u.slot == slot && u.arriving) (fun u =>
    { u with
      body := u.body ++ bytes
      ctl := u.ctl ++ b.ctl
      fec := u.fec || b.fec
      link := u.link || b.link
      disc := u.disc || b.disc
      codeErr := u.codeErr || b.codeErr
      fecSym := min 255 (u.fecSym + b.fecSym)
      chk := if b.chk = 0 then u.chk else b.chk
      strip := b.strip
      due := s.stitch + 2 }))

def State.setInFrame (s : State) (k slot : Nat) (v : Bool) : State := s.modCap k (fun x => { x with inFrame := x.inFrame.put slot v })

/-- Octets of a frame (R231): at 16,320 B the unit ends, and a continuation begins with the next octet. -/
def State.frameOctets (s : State) (k slot : Nat) (b : Beat) : State :=
  match (s.capAt k).open? slot with
  | some u =>
    let room := 16320 - u.body.length
    if b.bytes.length < room then s.joinUnit k slot b b.bytes
    else
      let rest := b.bytes.drop room
      let c := if rest = [] then b else { b with chk := 0, strip := 0 }
      let s1 := ((s.joinUnit k slot c (b.bytes.take room)).endUnit k slot).setInFrame k slot true
      if rest = [] then s1 else (s1.newUnit k slot b 0 rest false true).setInFrame k slot false
  | none =>
    if Tab.get (fun _ => false) (s.capAt k).inFrame slot ∧ b.bytes ≠ [] then (s.newUnit k slot b 0 b.bytes false true).setInFrame k slot false else s

/-- The train limit that forms units: as latched while a capture is under way (R230, R252). -/
def State.trainMax (s : State) (k : Nat) : Nat := if s.capBusy k then (s.capAt k).cfg.trainMax else s.rd F.CAP_TRAIN_MAX (s.pb k)

/-- A block or stream unit of a train (R230): it joins, or ends the train and begins the next. -/
def State.trainBlock (s : State) (k slot : Nat) (b : Beat) (os : Bool) : State :=
  let kind := bit os
  let fresh := fun (s : State) => s.newUnit k slot b kind b.bytes os false
  match (s.capAt k).open? slot with
  | none => fresh s
  | some u =>
    let n := u.body.length + b.bytes.length
    let total := if u.chars then n + ceilDiv n 8 else n
    if u.kind = kind ∧ u.os = os ∧ total ≤ s.trainMax k then s.joinUnit k slot b b.bytes else fresh (s.endUnit k slot)

/-- A stream unit of another kind ends the ordered-set train that is arriving (R230). -/
def State.endTrain (s : State) (k slot : Nat) : State :=
  match (s.capAt k).open? slot with
  | some u => if u.os then s.endUnit k slot else s
  | none => s

/-- A stream unit reaches the capture engine (R229 to R233). A block of idle characters belongs to no unit and ends none; a start or an ordered
set inside a frame ends it (assumption 97). -/
def State.capTake (s : State) (k slot pcs : Nat) (b : Beat) : State :=
  let whole := fun (os : Bool) => ((s.endUnit k slot).newUnit k slot b 0 b.bytes os false).endUnit k slot
  if pcs = 0 then s
  else
    (match b.kind with
     | .idle => s
     | .start => ((s.endUnit k slot).setInFrame k slot false).newUnit k slot b 0 b.bytes false false
     | .data => (s.endTrain k slot).frameOctets k slot b
     | .term => (((s.endTrain k slot).frameOctets k slot b).endUnit k slot).setInFrame k slot false
     | .whole => whole false
     | .block => s.trainBlock k slot b false
     | .os => if b.chars ∧ 16 < b.bytes.length then whole true else (s.setInFrame k slot false).trainBlock k slot b true).showCap k

/-- The lane of a slot leaves UP, or its ribbon leaves the patch (R232, R234): the unit ends with the last beat delivered and carries
DISC. -/
def State.capCut (s : State) (k slot : Nat) : State :=
  let s1 := s.modCap k (fun x =>
    { x.mapUnits (fun u => u.slot == slot && u.arriving) (fun u => { u with disc := true }) with inFrame := x.inFrame.put slot false })
  ((s1.endUnit k slot).showCap k)

/-- The outcome of a check-value unit for the unit arriving on a slot (R244, R300). -/
def State.capCheck (s : State) (k slot chk strip : Nat) : State :=
  s.modCap k (fun x => x.mapUnits (fun u => u.slot == slot && u.arriving) (fun u => { u with chk := chk, strip := strip }))

/-! Verdicts (R235 to R238). -/

/-- A unit's window has closed: from offset 0 of stitch s + 2 (R236, R239). -/
def State.windowOver (s : State) (u : CapUnit) : Bool := !u.arriving && (u.closed || decide (u.due.toNat ≤ s.stitch.toNat))

/-- A verdict on a unit of a slot (R237, R238): one that names no captured unit in its window is stray, as is one on a slot without verdicts; a
unit that was arriving when its slot's configuration changed completes under the old one (R266). -/
def State.verdict (s : State) (k slot unit : Nat) (v : Nat × Nat × Nat) : State :=
  let b := s.pb k
  let is := fun (u : CapUnit) => u.slot == slot && u.unit == unit && u.live && !u.novd && !s.windowOver u
  match (s.capAt k).units.find? is with
  | none => s.bump F.CAPE_VD_STRAY b
  | some u =>
    if u.verdict.isSome ∨ u.out then s.bump F.CAPE_VD_DUP b
    else if u.arriving then s.modCap k (fun x => x.mapUnits is (fun u => { u with verdict := some v }))
    else ((s.modCap k (fun x => x.mapUnits is (fun u => { u with verdict := some v, out := true }))).settle k { u with verdict := some v }).showCap k

/-- The engines of a logical patch work, released or not: no handover has frozen them. -/
def State.hardRuns (s : State) (k : Nat) : Bool := s.stackOn && s.posView (s.ppos k) == .normal && s.posClocked (s.ppos k) && !s.inReset 1

/-- KEEP (R237). -/
def execKeep (k : LPatch) (slot : Slot) (unit tag : W16) (s : State) : Out :=
  act s (s.fabricRuns k.val) (s.verdict k.val slot.val unit.toNat (0, 0, tag.toNat))

/-- KEEP_HEAD (R237). -/
def execKeepHead (k : LPatch) (slot : Slot) (unit : W16) (n : BitVec 14) (tag : W16) (s : State) : Out :=
  act s (s.fabricRuns k.val) (s.verdict k.val slot.val unit.toNat (1, n.toNat, tag.toNat))

/-- COUNT_ONLY (R237). -/
def execCountOnly (k : LPatch) (slot : Slot) (unit : W16) (s : State) : Out :=
  act s (s.fabricRuns k.val) (s.verdict k.val slot.val unit.toNat (2, 0, 0))

/-- DROP (R237). -/
def execDrop (k : LPatch) (slot : Slot) (unit : W16) (s : State) : Out :=
  act s (s.fabricRuns k.val) (s.verdict k.val slot.val unit.toNat (3, 0, 0))

/-- The windows that have closed by offset 0 of a stitch (R236, R239): units without a verdict are kept whole, in ascending slot order, and the
units leave the verdict buffer. In a frozen patch they stay for the rebind. -/
def State.closeWindows (s : State) (k : Nat) : State :=
  if s.posView (s.ppos k) != .normal then s
  else
    let over_ := (s.capAt k).units.filter (fun u => s.windowOver u)
    if over_ = [] then s
    else
      let s1 := s.modCap k (fun x => { x with units := x.units.filter (fun u => !s.windowOver u) })
      (forN (fun slot s => forEach (fun u s => if u.slot = slot ∧ ¬ u.out then s.settle k u else s) over_ s) 16 s1).showCap k

/-- VERDICT_WINDOW_CLOSE (R236, R239): a unit's window closes at the end of the last fabric cycle of its stitch; a unit without a verdict is kept
at offset 0 of the next. -/
def execVerdictWindowClose (k : LPatch) (slot : Slot) (unit : W16) (s : State) : Out :=
  let is := fun (u : CapUnit) => u.slot == slot.val && u.unit == unit.toNat && u.live && !u.arriving && !u.closed && decide (u.due.toNat ≤ s.stitch.toNat + 1)
  act s (s.hardRuns k.val && (s.capAt k.val).units.any is)
    (((s.tick (s.period - 1)).modCap k.val (fun x => x.mapUnits is (fun u => { u with closed := true }))).showCap k.val)

/-- The windows that fall due while the patch is frozen close at the end of the stitch of the rebind (R236). -/
def State.capRebind (s : State) (k : Nat) : State :=
  s.modCap k (fun x => x.mapUnits (fun u => s.windowOver u && !u.closed) (fun u => { u with due := s.stitch + 1 }))

/-- A chunk of a slot, its last bit crossing into the engine at the present offset, enters the record queue (R234, R239). -/
def State.putChunk (s : State) (k slot l rate lat : Nat) (data : List Byte) (disc : Bool) : State :=
  let ts := s.stampBack (ceilDiv (8 * data.length * 3200000) rate + lat)
  let info : RecInfo := { slot := slot, lane := l, ts := ts, kind := 2, verdict := 0, trunc := false, ulen := data.length
                          payload := data, flags := 8 * bit disc, fecSym := 0, tag := 0, codeErr := false }
  ((s.liveBump F.CCNT_KEPT (s.pb k) 1 slot).enqueue k info).showCap k

/-- STREAM_CHUNK (R234): a chunk whose last bit arrived at `off`: one of 4,064 B, or what had arrived when a chunk ended early. -/
def execStreamChunk (k : LPatch) (slot : Slot) (data : List Byte) (off : Nat) (s : State) : Out :=
  let x := s.capAt k.val
  let cut := x.cuts.find? (fun e => e.1 == slot.val)
  let disc := Tab.get (fun _ => false) x.chunkDisc slot.val
  let next := fun (s : State) (d : Bool) => s.modCap k.val (fun x => { x with chunkDisc := x.chunkDisc.put slot.val d, cuts := Tab.del x.cuts slot.val })
  actOn s (if s.hardRuns k.val then some (match cut with
    | some (_, c) => if c.stitch = s.stitch ∧ off ≤ c.off then some c else none
    | none => none) else none) fun e =>
    match e with
    | some c => (next (s.tick off) true).putChunk k.val slot.val c.lane c.rate c.lat data c.disc
    | none =>
      match s.slotLane k.val slot.val with
      | none => s
      | some l =>
        if s.streams k.val slot.val l ∧ data.length = 4064 then
          (next (s.tick off) false).putChunk k.val slot.val l (s.rateOf l) (s.ln F.LN_FE_LAT l) data disc
        else s

/-! Control (R252 to R258). -/

/-- A trigger of the engine (R254, R256). -/
def State.capTrigger (s : State) (k : Nat) (t : Stamp) : State :=
  let b := s.pb k
  let x := s.capAt k
  let ready := x.cfg.reached x.cfg.pre x.pl.preRecs x.pl.preBytes
  if s.capState k ≠ 1 ∨ (x.cfg.preWait ∧ ¬ ready) then s.bump F.CAPE_TRIG_IGNORED b
  else
    let s1 := ((((s.wr F.CAPS_STATE b 2).wr F.CAPS_T_LO b t.stitch.toNat).wr F.CAPS_T_HI b (t.stitch.toNat / 2 ^ 32)).wr F.CAPS_T_OFF b t.off).wr
      F.CAPS_PRE_SHORT b (bit (!ready))
    s1.modCap k (fun x => { x with trigger := some t, pl := { x.pl with postRecs := 0, postBytes := 0 } })

/-- The capture trigger line was latched (R254). -/
def State.capLine (s : State) (k line : Nat) (t : Stamp) : State :=
  let c := if s.capBusy k then (s.capAt k).cfg else s.capCfgNow k
  if c.trigEn ∧ c.trigLine = line then s.capTrigger k t else s

/-- CMD NEXT_SEGMENT (R257). -/
def State.nextSegment (s : State) (k : Nat) : State :=
  if s.capRuns k ∧ (s.capAt k).cfg.mode = 2 then (s.closeSeg k 2).showCap k else s

/-- A START takes effect (R241, R252). A bolt out of service starts no engine (R348). -/
def State.startCap (s : State) (k : Nat) (c : Option CmdRef) : State :=
  let b := s.pb k
  let cfg := s.capCfgNow k
  if (s.capState k ≠ 0 ∧ s.capState k ≠ 4) ∨ s.flag F.BOLT_OUT (BOLT k) = true then s.completeOpt c .refused
  else if s.capBanks k < s.verdictBanks + 1 then (s.wr F.CAPS_STOP_REASON b 6).completeOpt c .refused
  else if cfg.overlaps then (s.wr F.CAPS_STOP_REASON b 7).completeOpt c .refused
  else
    let x := s.capAt k
    let s1 := (s.incr F.CAPS_RUN b).wr F.CAPS_STOP_REASON b 0
    let s2 := s1.setCap k
      { x with cfg := cfg, queue := [], pl := Placing.none, segPass := [], idx := none, closes := [], last := none, written := [], gaps := []
               keptNow := 0 }
    ((s2.openSeg k 0).showCap k).completeOpt c .ok

/-- A STOP takes effect (R253). -/
def State.haltCap (s : State) (k : Nat) (c : Option CmdRef) : State := (if s.capRuns k then (s.stopCap k 1).showCap k else s).completeOpt c .ok

/-- A request of the engine's CMD register or of a CAPTURE command (R252, R253). -/
def State.capReq (s : State) (k cmd : Nat) (c : Option CmdRef) : State := s.modCap k (fun x => { x with reqs := x.reqs ++ [(cmd, c)] })

/-- A CMD at the present offset (R263). -/
def State.capCmd (s : State) (k cmd : Nat) (c : Option CmdRef) : State :=
  match cmd with
  | 1 => (s.capTrigger k s.now).completeOpt c .ok
  | 2 => (s.nextSegment k).completeOpt c .ok
  | 3 => s.capReq k 3 c
  | 4 => s.capReq k 4 c
  | _ => s.completeOpt c .ok

/-- A CAPTURE command, or a write of CMD, with a code (R263, R373, R545). -/
def State.capture (s : State) (k cmd : Nat) (c : Option CmdRef) : Option State :=
  match c with
  | none => some (s.viaPatch k F.CAP_CMD.off (BitVec.ofNat 32 cmd) 1 (s.capCmd k cmd none))
  | some r =>
    match s.cmdOf r 0x18 .fresh with
    | none => none
    | some d =>
      let code := if 4 < d.param 8 1 then 0 else d.param 8 1
      if d.target = k ∧ code = cmd then some ((s.setPhase r .running).capCmd k cmd c) else none

/-- CAPTURE_START (R252). -/
def execCaptureStart (k : LPatch) (c : Option CmdRef) (off : Nat) (s : State) : Out :=
  actOn s (if s.patchLive k.val then (s.tick off).capture k.val 3 c else none) id

/-- CAPTURE_STOP (R253). -/
def execCaptureStop (k : LPatch) (c : Option CmdRef) (off : Nat) (s : State) : Out :=
  actOn s (if s.patchLive k.val then (s.tick off).capture k.val 4 c else none) id

/-- CAPTURE_ARM (R254). -/
def execCaptureArm (k : LPatch) (c : Option CmdRef) (off : Nat) (s : State) : Out :=
  actOn s (if s.patchLive k.val then (s.tick off).capture k.val 1 c else none) id

/-- CAPTURE_NEXT_SEGMENT (R257). -/
def execCaptureNextSegment (k : LPatch) (c : Option CmdRef) (off : Nat) (s : State) : Out :=
  actOn s (if s.patchLive k.val then (s.tick off).capture k.val 2 c else none) id

/-! The bolt (R246 to R250, R261). -/

/-- The page of record space that holds a bolt offset. -/
def CapCfg.page (c : CapCfg) (a : Nat) : Nat := (a - c.recBase * 0x100000) / 4096

/-- An index entry's bytes (R248). -/
def idxBytes (stitch first : Nat) (none_ damaged : Bool) (count : Nat) (gap : Bool) (pass run : Nat) (seq : Nat) : List Byte :=
  leBytes 8 stitch ++ leBytes 8 (first % 64 + 64 * bit none_ + 128 * bit damaged + 256 * (count % 128) + 32768 * bit gap + 65536 * (pass % 256)
    + 16777216 * (run % 256) + 4294967296 * seq)

/-- The bolt offset of a page's index entry. -/
def CapCfg.idxAddr (c : CapCfg) (page : Nat) : Nat := c.idxBase * 4096 + 16 * page

/-- Writes the entry of a page in which no header starts; the fields that describe a header are left open. -/
def State.putNone (s : State) (k page pass : Nat) : State :=
  let w := s.freeWord.toNat
  (s.took.boltPut k ((s.capAt k).cfg.idxAddr page)
    (idxBytes w w true false 0 false pass (s.rd F.CAPS_RUN (s.pb k)) (w / 2 ^ 32))).1.pageWritten k page

/-- Writes the index entry of the page that records were being written to, and those of the pages after it that its last record covers, but
for the page `next` (R249). -/
def State.putIndex (s : State) (k : Nat) (next : Option Nat) : State :=
  match (s.capAt k).idx with
  | none => s
  | some x =>
    let run := s.rd F.CAPS_RUN (s.pb k)
    let s1 := (s.boltPut k ((s.capAt k).cfg.idxAddr x.page) (idxBytes x.stitch.toNat x.first false x.damaged x.count x.gap x.pass run x.seq.toNat)).1.pageWritten k x.page
    let s2 := forEach (fun p s => if x.page < p ∧ some p ≠ next then s.putNone k p x.pass else s) (List.range (x.stop + 1)) s1
    s2.modCap k (fun c => { c with idx := none })

/-- The record that starts in a page is noted in its index entry. -/
def State.noteIndex (s : State) (k : Nat) (r : CapRec) : State :=
  let c := (s.capAt k).cfg
  let page := c.page r.place
  let last := c.page (r.place + r.bytes.length - 1)
  match (s.capAt k).idx with
  | some x =>
    if x.page = page ∧ x.pass = r.pass then
      s.modCap k (fun c => { c with idx := some { x with count := x.count + 1, gap := x.gap || r.lost != 0, stop := last } })
    else
      (s.putIndex k (some page)).modCap k (fun c =>
        { c with idx := some ⟨page, r.stitch, (r.place % 4096) / 64, 1, r.lost != 0, r.pass, r.seq, last, false⟩ })
  | none => s.modCap k (fun c => { c with idx := some ⟨page, r.stitch, (r.place % 4096) / 64, 1, r.lost != 0, r.pass, r.seq, last, false⟩ })

/-- A record in the bolt takes the place of those that it overwrites. -/
def State.holdRecord (s : State) (k : Nat) (r : CapRec) : State :=
  let n := r.bytes.length
  s.modCap k (fun x =>
    { x with held := x.held.filter (fun h => !(decide (h.off < r.place + n) && decide (r.place < h.off + h.size)))
        ++ [⟨r.place, n, r.seg, s.rd F.CAPS_RUN (s.pb k), x.cfg.idxAddr (x.cfg.page r.place), x.cfg.segAddr r.seg, false⟩] })

/-- RECORD_WRITE (R246, R249, R257): the oldest record in the queue goes to the bolt. -/
def execRecordWrite (k : LPatch) (off : Nat) (s : State) : Out :=
  actOn s (if s.hardRuns k.val ∧ ¬ s.inReset 3 then (s.capAt k.val).queue.head? else none) fun r =>
    let s1 := (s.tick off).modCap k.val (fun x =>
      { x with queue := x.queue.drop 1, closes := x.closes.map (fun c => { c with left := c.left - 1 }) })
    let c := (s.capAt k.val).cfg
    let s2 := (((((s1.noteIndex k.val r).holdRecord k.val r).boltPut k.val r.place r.bytes).1).pagesLost k.val (c.page r.place) (c.page (r.place + r.bytes.length - 1)))
    (s2.flushCloses k.val).showCap k.val

/-- POST_DONE (R255). -/
def execPostDone (k : LPatch) (off : Nat) (s : State) : Out :=
  act s (s.hardRuns k.val && s.postReached k.val) (((s.tick off).postDone k.val).showCap k.val)

/-- CAPTURE_DRAINED (R249 to R251, R253, R258): the index entry of the current page, the segment entry and STATE STOPPED. -/
def execCaptureDrained (k : LPatch) (off : Nat) (s : State) : Out :=
  let x := s.capAt k.val
  let reason := s.rd F.CAPS_STOP_REASON (s.pb k.val)
  let now := s.closing k.val (if reason = 3 then 0 else if reason = 4 then 1 else 3)
  let entry := match x.last with
    | some c => { c with pl := x.pl }
    | none => now
  let s1 := (((s.tick off).putIndex k.val none).flushCloses k.val).putSegEntry k.val entry
  let s2 := (s1.wr F.CAPS_STATE (s.pb k.val) 4).modCap k.val (fun x => { x with units := x.units.filter (fun u => u.arriving), last := none })
  let s3 := if reason = 1 then s2 else s2.closeLine k.val
  act s (s.hardRuns k.val && s.capState k.val == 3 && x.queue == [] && x.units.all (fun u => u.out || u.arriving))
    ((s3.raiseP k.val 2).showCap k.val)

/-- Sets a bit of a byte in a bolt, through the read-modify-write path. -/
def State.markBit (s : State) (k a bitNo : Nat) : State :=
  let old := (s.boltByte k a).toNat
  (s.boltPut k a [BitVec.ofNat 8 (if bitAt old bitNo then old else old + 2 ^ bitNo)]).1

/-- DAMAGED in the index entry of a record's page, written or not (R248, R261). -/
def State.damagePage (s : State) (k : Nat) (h : HeldRec) : State :=
  let x := s.capAt k
  match x.idx with
  | some i =>
    if x.cfg.idxAddr i.page = h.idxAt ∧ h.run = s.rd F.CAPS_RUN (s.pb k) then s.modCap k (fun c => { c with idx := some { i with damaged := true } })
    else s.markBit k (h.idxAt + 8) 7
  | none => s.markBit k (h.idxAt + 8) 7

/-- DAMAGED in the entry of a record's segment, if that has closed, its entry written or not (R250, R261). -/
def State.damageSeg (s : State) (k : Nat) (h : HeldRec) : State :=
  let x := s.capAt k
  let mine := h.run == s.rd F.CAPS_RUN (s.pb k)
  if mine && x.last.any (fun c => c.seg == h.seg) then s.modCap k (fun x => { x with last := x.last.map (fun c => { c with damaged := true }) })
  else if mine && s.capBusy k && s.rd F.CAPS_SEG_NOW (s.pb k) == h.seg then s
  else if mine && x.closes.any (fun c => c.seg == h.seg) then
    s.modCap k (fun x => { x with closes := x.closes.map (fun c => if c.seg = h.seg then { c with damaged := true } else c) })
  else s.markBit k (h.segAt + 23) 3

/-- A read of a line in the record space returned ST_POISON (R261). -/
def State.markDamage (s : State) (k line : Nat) : State :=
  let c := (s.capAt k).cfg
  let a := 64 * line
  if a < c.recBase * 0x100000 ∨ (c.recBase + c.recSize) * 0x100000 ≤ a then s
  else
    match (s.capAt k).held.find? (fun p => decide (p.off ≤ a) && decide (a < p.off + p.size)) with
    | none => s
    | some h =>
      let s1 := s.modCap k (fun x => { x with held := x.held.map (fun p => if p = h then { p with bad := true } else p) })
      if h.off = a then s1.damagePage k h else ((s1.markBit k (h.off + 11) 6).damagePage k h).damageSeg k h

/-! Boundaries. -/

/-- The slots of a patch whose configuration word changes now while chunks are cut from their lanes (R234, R266). -/
def State.chunkEnds (s : State) (k : Nat) : List Nat :=
  (List.range 16).filter (fun slot =>
    let a := F.CSLOT_EN.at (s.pb k) slot 0
    decide (a ∈ s.dirty) && s.reg a != s.effReg a && (match s.slotLane k slot with | some l => s.streams k slot l | none => false))

/-- Every record in the queue is discarded and loses its place (R242, R267). -/
def State.dropQueue (s : State) (k : Nat) : State :=
  let x := s.capAt k
  let s1 := forEach (fun r s => match r.info with | some i => s.unBytes k i.slot r.bytes.length | none => s) x.queue s
  let back := fun (from_ n : Nat) (p : Placing) => match ((x.queue.take n).drop from_).head? with | some r => r.was | none => p
  let cs := (x.closes.foldl (fun (a : List SegClose × Nat) c => (a.1 ++ [{ c with left := 0, pl := back a.2 c.left c.pl }], c.left)) ([], 0)).1
  let pl := back x.shut x.queue.length x.pl
  s1.modCap k (fun y => { y with queue := [], closes := cs, pl := pl, last := y.last.map (fun c => { c with pl := pl }) })

/-- A capture that owns too few banks stops at once (R242). -/
def State.bankStop (s : State) (k : Nat) : State :=
  if s.capBusy k ∧ s.capBanks k < s.verdictBanks + 1 then
    let x := s.capAt k
    let kept := fun (u : CapUnit) => u.live && !u.out
    let lost := (x.units.filter kept).length + (x.queue.filter (fun r => r.info.isSome)).length
    (((s.dropQueue k).modCap k (fun x => { x with units := x.units.filter (fun u => u.arriving) })).stopCap k 6).bump F.CAPE_ABORTED (s.pb k) lost
  else s

/-- Step 3 of a boundary: too few banks (R242), the requests of the last stitch in order (R252, R253), the chunks of slots whose configuration
changed (R234), and KEPT_LAST (R265). -/
def State.capBoundary (s : State) (changed : List Nat) (k : Nat) : State :=
  let s1 := s.bankStop k
  let s2 := s1.modCap k (fun x => { x with reqs := [], cuts := x.cuts.filter (fun e => e.2.stitch == s.stitch) })
  let s3 := forEach (fun r s => if r.1 = 3 then s.startCap k r.2 else s.haltCap k r.2) (s1.capAt k).reqs s2
  let s4 := forEach (fun slot s => match s.slotLane k slot with | some l => s.cutChunk k slot l | none => s) changed s3
  ((s4.wr F.CAPS_KEPT_LAST (s.pb k) (s4.capAt k).keptNow).modCap k (fun x => { x with keptNow := 0 })).showCap k

end Sys2Proof.Machine
end

