-- ==== Sys2Proof/Machine/Crc.lean ====
section
/-! DEFINITION. Cyclic redundancy checks, bit by bit: the register of a check-value unit (R297) and the CRC-32C of images (R98). -/

namespace Sys2Proof.Machine

/-- The low `w` bits of a number in reverse order. -/
def reverseBits : Nat → Nat → Nat
  | 0, _ => 0
  | w + 1, v => v % 2 * 2 ^ w + reverseBits w (v / 2)

/-- One bit into a `w`-bit register, most significant bit first. -/
def crcBit (w poly : Nat) (inBit : Bool) (r : Nat) : Nat :=
  let sh := r * 2 % 2 ^ w
  if bitAt r (w - 1) != inBit then sh ^^^ poly else sh

/-- The bits of a byte that `n` counts down from, most significant first, into the register. -/
def crcBits (w poly byte : Nat) : Nat → Nat → Nat
  | 0, r => r
  | n + 1, r => crcBits w poly byte n (crcBit w poly (bitAt byte n) r)

/-- One byte into the register; `refin` takes its least significant bit first. -/
def crcByte (w poly : Nat) (refin : Bool) (r : Nat) (b : Byte) : Nat :=
  crcBits w poly (if refin then reverseBits 8 b.toNat else b.toNat) 8 r

/-- CRC-32C of a byte string: polynomial 0x1EDC_6F41, reflected, initial value and final inversion all ones. -/
def crc32c (bs : List Byte) : Nat :=
  reverseBits 32 (bs.foldl (crcByte 32 0x1EDC6F41 true) 0xFFFFFFFF) ^^^ 0xFFFFFFFF

end Sys2Proof.Machine
end

