-- ==== Sys2Proof/Machine/CheckValue.lean ====
section
/-! DEFINITION. The check-value units of a logical patch (R297 to R304). -/

namespace Sys2Proof.Machine

/-- The polynomials of R297: value and width. -/
def cvPoly (code : Nat) : Nat := nthD 0 [0x04C11DB7, 0x1EDC6F41, 0x1021, 0x07] code
def cvWidth (code : Nat) : Nat := nthD 32 [32, 32, 16, 8] code

/-- A unit's settings word in effect (R303). -/
def State.cvCfg (s : State) (k u : Nat) : W32 := s.effReg (F.CV_POLY.at (s.pb k) u 0)

/-- A field of a settings word. -/
def cvField (f : Fld) (c : W32) : Nat := bitsOf f.hi f.lo c

/-- Width in bits of the running value under a settings word. -/
def cvBits (c : W32) : Nat := cvWidth (cvField F.CV_POLY c)

/-- Bytes of the check value. -/
def cvBytes (c : W32) : Nat := cvBits c / 8

/-- Feeds bytes into a running value: step() of R297 with REFIN. -/
def cvFeed (c : W32) (v : Nat) (bs : List Byte) : Nat :=
  bs.foldl (fun v b => crcByte (cvBits c) (cvPoly (cvField F.CV_POLY c)) (cvField F.CV_REFIN c == 1) v b) v

/-- final() of R297. -/
def cvFinal (c : W32) (v : Nat) : Nat :=
  let r := if cvField F.CV_REFOUT c = 1 then reverseBits (cvBits c) v else v
  if cvField F.CV_XOROUT c = 1 then r ^^^ (2 ^ cvBits c - 1) else r

/-- The value that a stream unit's first counted byte sets (R297). -/
def cvInit (c : W32) : Nat := if cvField F.CV_INIT c = 1 then 2 ^ cvBits c - 1 else 0

/-- The check value's bytes in the order that ORDER gives (R297). -/
def cvOut (c : W32) (v : Nat) : List Byte :=
  let b := leBytes (cvBytes c) v
  if cvField F.CV_ORDER c = 1 then b.reverse else b

/-- A unit's state. -/
def State.cvAt (s : State) (k u : Nat) : CvSt :=
  s.cvs.get (fun _ => { cfg := 0, active := false, tail := [], pos := 0, counted := 0, res := 0, resAt := 0 }) (32 * k + u)

def State.setCv (s : State) (k u : Nat) (x : CvSt) : State := { s with cvs := s.cvs.put (32 * k + u) x }

/-- The running value (R304). -/
def State.cvValue (s : State) (k u : Nat) : Nat := s.rd F.CV_VALUE (s.pb k) u

/-! The register path (R141, R142, R302). -/

/-- The stream path of a unit is enabled; a unit that is being processed completes under the setting that it began with (R303). -/
def State.cvStream (s : State) (k u : Nat) : Bool := cvField F.CV_STREAM_EN (s.cvCfg k u) == 1 || (s.cvAt k u).active

/-- A cvf lands (R140, R141): on a unit whose stream path is enabled the bytes are discarded and CV_DROP counts. -/
def State.cvLandFeed (s : State) (k u n : Nat) (v : W64) : State :=
  if s.cvStream k u then s.bump F.CV_DROP (s.pb k)
  else s.wr F.CV_VALUE (s.pb k) (cvFeed (s.cvCfg k u) (s.cvValue k u) (leBytes n v.toNat)) u

/-- A cvwr, or a host write of CV_VALUE, lands (R142, R302). -/
def State.cvLandWrite (s : State) (k u v : Nat) : State :=
  if s.cvStream k u then s else s.wr F.CV_VALUE (s.pb k) (v % 2 ^ cvBits (s.cvCfg k u)) u

/-- What cvrd and a read of CV_VALUE return (R142, R302). -/
def State.cvRead (s : State) (k u : Nat) : Nat := if s.cvStream k u then s.rd F.CV_LAST (s.pb k) u else s.cvValue k u

/-- A write of CV_VALUE (R302, R304). -/
def State.writeCvValue (s : State) (k u : Nat) (v : W32) (be : Nat) : State :=
  s.cvLandWrite k u ((s.mergeWrite (F.CV_VALUE.at (s.pb k) u 0) v be).cvValue k u)

/-- A write of CV_CFG (R303, R304): it acts at the next boundary. -/
def State.writeCvCfg (s : State) (k u : Nat) (v : W32) (be : Nat) : State :=
  let s1 := s.stageWrite (F.CV_POLY.at (s.pb k) u 0) v be
  if 16 ≤ u then s1.wr F.CV_STREAM_EN (s.pb k) 0 u else s1

/-- CV_VALUE_WRITE (R302). -/
def execCvValueWrite (k : LPatch) (u : Fin 20) (v : W32) (be : BitVec 4) (s : State) : Out :=
  act s s.stackOn (s.viaPatch k.val (0x804 + 0x20 * u.val) v be.toNat (s.writeCvValue k.val u.val v be.toNat))

/-- CV_CFG_WRITE (R303). -/
def execCvCfgWrite (k : LPatch) (u : Fin 20) (v : W32) (be : BitVec 4) (s : State) : Out :=
  act s s.stackOn (s.viaPatch k.val (0x800 + 0x20 * u.val) v be.toNat (s.writeCvCfg k.val u.val v be.toNat))

/-- Step 3 of a boundary, before the words written take effect: a new POLY clears the running value's bits above its width (R302), once a unit
that is being processed under the old one has completed (R303). -/
def State.cvBoundary (s : State) (k : Nat) : State :=
  forN (fun u s =>
    let a := F.CV_POLY.at (s.pb k) u 0
    if a ∈ s.dirty ∧ (s.cvAt k u).active = false then s.wr F.CV_VALUE (s.pb k) (s.cvValue k u % 2 ^ cvBits (s.reg a)) u else s) 20 s

/-! The receive stream path (R298 to R300). -/

/-- The unit's settings attach it to a lane slot. -/
def cvServes (c : W32) (slot : Nat) : Bool := cvField F.CV_STREAM_EN c == 1 && cvField F.CV_ATTACH c == slot / 8

/-- A receive unit is at work on a slot. -/
def State.cvBusy (s : State) (k slot : Nat) : Bool :=
  let x := s.cvAt k (slot % 8)
  x.active && cvField F.CV_ATTACH x.cfg == slot / 8

/-- A stream unit of R229 begins on a slot. -/
def State.cvBegin (s : State) (k slot : Nat) : State :=
  let c := s.cvCfg k (slot % 8)
  if cvServes c slot ∧ ¬ (s.cvAt k (slot % 8)).active then
    s.setCv k (slot % 8) { s.cvAt k (slot % 8) with cfg := c, active := true, tail := [], pos := 0, counted := 0 }
  else s

/-- The counted bytes among those that arrive from position `pos` (R299). -/
def cvCounted (skip : Nat) : Nat → List Byte → List Bool → List Byte
  | _, [], _ => []
  | pos, b :: t, ctl =>
    if skip ≤ pos ∧ ¬ ctl.headD false then b :: cvCounted skip (pos + 1) t (ctl.drop 1) else cvCounted skip (pos + 1) t (ctl.drop 1)

/-- Bytes arrive at a unit: all but the last W counted bytes are fed (R300). -/
def State.cvTake (s : State) (k slot : Nat) (bytes : List Byte) (ctl : List Bool) : State :=
  if ¬ s.cvBusy k slot then s
  else
    let u := slot % 8
    let x := s.cvAt k u
    let bs := cvCounted (cvField F.CV_SKIP x.cfg) x.pos bytes ctl
    let v0 := if x.counted = 0 ∧ bs ≠ [] then cvInit x.cfg else s.cvValue k u
    let all := x.tail ++ bs
    let n := all.length - cvBytes x.cfg
    (s.wr F.CV_VALUE (s.pb k) (cvFeed x.cfg v0 (all.take n)) u).setCv k u
      { x with tail := all.drop n, pos := x.pos + bytes.length, counted := x.counted + bs.length }

/-- A unit's work is over with an outcome (R300, R302, R303): the fabric sees it in the fabric cycle after the unit's last beat, and a POLY written
meanwhile clears the running value's bits above its width. -/
def State.cvOver (s : State) (k slot chk : Nat) : State :=
  let u := slot % 8
  let after := match ((s.fabAt k).rx.get (fun _ => []) slot).getLast? with | some b => b.at_ + max 1 (ceilDiv b.bytes.length 32) | none => s.rootNow / 4
  (s.setCv k u { s.cvAt k u with active := false, tail := [], res := chk, resAt := after }).wr F.CV_VALUE (s.pb k)
    (s.cvValue k u % 2 ^ cvBits (s.cvCfg k u)) u

/-- A unit ends (R300): the outcome CHK, and the bytes that its record omits. -/
def State.cvEnd (s : State) (k slot : Nat) : State × Nat × Nat :=
  if ¬ s.cvBusy k slot then (s, 0, 0)
  else
    let u := slot % 8
    let b := s.pb k
    let x := s.cvAt k u
    let v := cvFinal x.cfg (s.cvValue k u)
    let s1 := ((s.wr F.CV_LAST b v u).incr F.CV_UNITS b 1 u)
    if x.counted < cvBytes x.cfg then ((s1.bump F.CV_SHORT b 1 u).cvOver k slot 2, 2, 0)
    else
      let strip := if cvField F.CV_MODE x.cfg = 1 then cvBytes x.cfg else 0
      if x.tail = cvOut x.cfg v then (s1.cvOver k slot 1, 1, strip) else ((s1.bump F.CV_FAIL b 1 u).cvOver k slot 2, 2, strip)

/-- A unit is cut short by a discontinuity: no outcome (R300). -/
def State.cvCut (s : State) (k slot : Nat) : State := if s.cvBusy k slot then s.cvOver k slot 0 else s

/-- A stream unit reaches the receive path of a slot (R298 to R300): the outcome for a capture unit that ends with it, and what its record
omits. A train that this stream unit ends gets its outcome here. -/
def State.cvRx (s : State) (k slot pcs : Nat) (kind : SKind) (bytes : List Byte) (ctl : List Bool) : State × Nat × Nat :=
  if pcs = 0 ∨ pcs = 4 then (s, 0, 0)
  else
    let endTrain := fun (s : State) =>
      if s.cvBusy k slot then
        let r := s.cvEnd k slot
        r.1.capCheck k slot r.2.1 r.2.2
      else s
    match kind with
    | .start => (((s.cvCut k slot).cvBegin k slot).cvTake k slot bytes ctl, 0, 0)
    | .data => (s.cvTake k slot bytes ctl, 0, 0)
    | .term => (s.cvTake k slot bytes ctl).cvEnd k slot
    | .whole => ((((s.cvCut k slot).cvBegin k slot).cvTake k slot bytes ctl)).cvEnd k slot
    | .block =>
      let s1 := if s.cvBusy k slot && decide (s.trainMax k < (s.cvAt k (slot % 8)).pos + bytes.length) then endTrain s else s
      let s2 := if s1.cvBusy k slot then s1 else s1.cvBegin k slot
      (s2.cvTake k slot bytes ctl, 0, 0)
    | .os =>
      if pcs = 1 ∧ 16 < bytes.length then (((s.cvCut k slot).cvBegin k slot).cvTake k slot bytes ctl).cvEnd k slot else (endTrain s, 0, 0)
    | .idle => (s, 0, 0)

/-! The transmit stream path (R299, R301). -/

/-- The characters and control marks of an 8B10B stored payload, if its length is that of one (R270). -/
def splitChars (body : List Byte) : Option (List Byte × List Bool) :=
  let c := body.length * 8 / 9
  if 0 < c ∧ c + ceilDiv c 8 = body.length then
    let map := body.drop c
    some (body.take c, (List.range c).map (fun i => bitAt (nthD 0 map (i / 8)).toNat (i % 8)))
  else none

/-- The stored payload of characters with their control marks. -/
def joinChars (chars : List Byte) (ctl : List Bool) : List Byte := chars ++ mapBytes (ceilDiv chars.length 8) ctl

/-- The number of control characters at the end of a list. -/
def trailing (ctl : List Bool) : Nat := (ctl.reverse.takeWhile id).length

/-- Overwrites the last counted characters with new ones, both lists in reverse. -/
def overwrite : List (Byte × Bool) → List Byte → List (Byte × Bool)
  | [], _ => []
  | p :: t, [] => p :: t
  | (b, ctl) :: t, w :: ws => if ctl then (b, ctl) :: overwrite t (w :: ws) else (w, false) :: overwrite t ws

/-- A unit passes the transmit check-value unit of its slot, after substitution (R301). -/
def State.cvTx (s : State) (k slot pcs kind : Nat) (body : List Byte) (badcv : Bool) : State × List Byte :=
  let u := 8 + slot % 8
  let c := s.cvCfg k u
  if kind ≠ 0 ∨ pcs = 0 ∨ pcs = 4 ∨ ¬ cvServes c slot then (s, body)
  else
    let b := s.pb k
    let split := if pcs = 1 then splitChars body else some (body, List.replicate body.length false)
    match split with
    | none => (s, body)
    | some (chars, ctl) =>
      let bs := cvCounted (cvField F.CV_SKIP c) 0 chars ctl
      let w := cvBytes c
      let replace := cvField F.CV_MODE c == 1
      let fed := if replace then bs.take (bs.length - w) else bs
      let v0 := if bs = [] then s.cvValue k u else cvInit c
      let run := cvFeed c v0 fed
      let v := cvFinal c run
      let s1 := (((s.wr F.CV_VALUE b run u).wr F.CV_LAST b v u).incr F.CV_UNITS b 1 u)
      let out := (cvOut c v).map (fun x => if badcv then ~~~ x else x)
      let put := fun (cs : List Byte) (m : List Bool) => if pcs = 1 then joinChars cs m else cs
      if replace then
        if bs.length < w then (s1.bump F.CV_SHORT b 1 u, body)
        else
          let l := (overwrite (List.zip chars ctl).reverse out.reverse).reverse
          (s1, put (l.map (fun p => p.1)) (l.map (fun p => p.2)))
      else
        let n := chars.length - trailing ctl
        (s1, put (chars.take n ++ out ++ chars.drop n) (ctl.take n ++ List.replicate w false ++ ctl.drop n))

end Sys2Proof.Machine
end

