-- ==== Sys2Proof/Machine/Lanes.lean ====
section
/-! DEFINITION. Lanes, ribbons and their requests (R153 to R192): settings, lane states and events, error counters, quiet windows, requests
that disturb a lane, and moves of ribbon signal processors. -/

namespace Sys2Proof.Machine

/-! Counters (R173 to R175, R346). -/

/-- A lane counter and its nodes. -/
structure LaneCtr where
  leaf : Fld
  rib : Fld
  patch : Fld
  dev : Fld
  deriving DecidableEq, Repr

def ctrCorr : LaneCtr := ⟨F.LANE_CW_CORR, F.RNODE_CW_CORR, F.PNODE_CW_CORR, F.DNODE_CW_CORR⟩
def ctrUncorr : LaneCtr := ⟨F.LANE_CW_UNCORR, F.RNODE_CW_UNCORR, F.PNODE_CW_UNCORR, F.DNODE_CW_UNCORR⟩
def ctrCode : LaneCtr := ⟨F.LANE_CODE_ERR, F.RNODE_CODE_ERR, F.PNODE_CODE_ERR, F.DNODE_CODE_ERR⟩
def ctrLol : LaneCtr := ⟨F.LANE_LOL_CNT, F.RNODE_LOL_CNT, F.PNODE_LOL_CNT, F.DNODE_LOL_CNT⟩
def ctrIdle : LaneCtr := ⟨F.LANE_IDLE_CNT, F.RNODE_IDLE_CNT, F.PNODE_IDLE_CNT, F.DNODE_IDLE_CNT⟩
def ctrOvf : LaneCtr := ⟨F.LANE_EB_OVF, F.RNODE_EB_OVF, F.PNODE_EB_OVF, F.DNODE_EB_OVF⟩
def ctrUnder : LaneCtr := ⟨F.LANE_TX_UNDERRUN, F.RNODE_TX_UNDERRUN, F.PNODE_TX_UNDERRUN, F.DNODE_TX_UNDERRUN⟩
def ctrCw : LaneCtr := ⟨F.LANE_CW_LO, F.RNODE_CW_LO, F.PNODE_CW_LO, F.DNODE_CW_LO⟩
def ctrSym : LaneCtr := ⟨F.LANE_SYM_LO, F.RNODE_SYM_LO, F.PNODE_SYM_LO, F.DNODE_SYM_LO⟩

/-- An increment of a saturating lane counter reaches its leaf, its ribbon node, the node of the patch that holds the ribbon, and the
device node (R346). -/
def State.laneCount (s : State) (c : LaneCtr) (l n : Nat) : State :=
  if n = 0 then s
  else
    let s1 := (s.liveBump c.leaf (RIBBON (l / 8)) n (l % 8)).liveBump c.rib (RIBBON (l / 8)) n
    match s.ribPatch (l / 8) with
    | none => s1
    | some k => (s1.liveBump c.patch (s.pb k) n).liveBump c.dev DEV n

/-- As `laneCount` for a 64-bit counter, whose upper word follows its lower word. -/
def State.laneCount64 (s : State) (c : LaneCtr) (l n : Nat) : State :=
  let add := fun (s : State) (a : Nat) => s.liveAdd64 a (a + 4) n
  if n = 0 then s
  else
    let s1 := add (add s (c.leaf.at (RIBBON (l / 8)) (l % 8) 0)) (c.rib.at (RIBBON (l / 8)) 0 0)
    match s.ribPatch (l / 8) with
    | none => s1
    | some k => add (add s1 (c.patch.at (s.pb k) 0 0)) (c.dev.at DEV 0 0)

/-- Symbols that a codeword of a mode can have corrected (R166, R174): 7 in RS528, 15 else. -/
def corrLimit (pcs : Nat) : Nat := if pcs = 5 then 7 else 15

/-- The histogram of one codeword (R174): word k for k symbols corrected, word 0 beyond correction; none for a clean codeword. -/
def State.histogram (s : State) (l pcs corrected : Nat) : State :=
  let a := F.LANE_HIST.at (RIBBON (l / 8)) (l % 8) (if corrLimit pcs < corrected then 0 else corrected)
  if corrected = 0 then s
  else { s with live := s.live.put a (setBitsOf 31 0 (s.liveReg a) (satAdd (2 ^ 32 - 1) (s.liveReg a).toNat 1)) }

/-! Bond groups (R168 to R170). -/

/-- The bond in effect on a ribbon (R169): 4 only where both ribbons of its patch have it. -/
def State.bondOf (s : State) (r : Nat) : Nat :=
  let b := s.erd F.RIB_BOND (RIBBON r)
  if b ≠ 4 then b
  else
    match s.ribPatch r with
    | none => 3
    | some k =>
      match s.patchRib k 0, s.patchRib k 1 with
      | some x, some y => if s.erd F.RIB_BOND (RIBBON x) = 4 ∧ s.erd F.RIB_BOND (RIBBON y) = 4 then 4 else 3
      | _, _ => 3

/-- The bond group of a lane: its first lane and its members' number. -/
def State.groupOf (s : State) (l : Nat) : Nat × Nat :=
  let r := l / 8
  match s.bondOf r with
  | 0 => (l, 1)
  | 1 => (8 * r + l % 8 / 2 * 2, 2)
  | 2 => (8 * r + l % 8 / 4 * 4, 4)
  | 4 => (8 * ((s.ribPatch r).bind (fun k => s.patchRib k 0)).getD r, 16)
  | _ => (8 * r, 8)

/-- The lanes of the bond group in effect that a lane belongs to. -/
def State.groupLanes (s : State) (l : Nat) : List Nat := (List.range 256).filter (fun m => (s.laneAt m).group == (s.laneAt l).group)

/-- A bond group is UP: every member is (R170). -/
def State.groupUp (s : State) (l : Nat) : Bool := (s.groupLanes l).all (fun m => s.ln F.LN_LSTATE m == 2)

/-! Lane events (R178 to R181). -/

/-- Clamped factory starting points of the band of L0 (R159). -/
def State.loadBand (s : State) (l : Nat) : State :=
  let w := fun i => (Config.bandStart l (s.rd F.HK_BAND HK 0) i).toNat
  let s1 := ((s.setLn F.LN_PEAK l (min 23 (w 0))).setLn F.LN_GAIN l (w 1)).setLn F.LN_DFE1 l ((Clamp.srange 16 2048 2047).apply (w 2))
  forEach (fun (f : Fld × Nat) s => s.setLn f.1 l (w f.2))
    [(F.LN_FFE0, 3), (F.LN_FFE1, 4), (F.LN_FFE2, 5), (F.LN_FFE3, 6), (F.LN_FFE4, 7), (F.LN_FFE5, 8), (F.LN_FFE6, 9), (F.LN_FFE7, 10),
     (F.LN_FFE8, 11), (F.LN_FFE9, 12), (F.LN_FFE10, 13), (F.LN_FFE11, 14)] s1

/-- The cause bits of a lane in word 0 of string 6 (R179). -/
def State.laneCause (s : State) (l : Nat) : Nat := ((s.procAt (32 + l / 8)).cause.get (fun _ => 0) (l % 8)).toNat

def State.setCause (s : State) (l v : Nat) : State :=
  s.modProcAt (32 + l / 8) (fun x => { x with cause := x.cause.put (l % 8) (BitVec.ofNat 32 (v % 8)) })

/-- A recovery record of a lane begins while none is held; of lanes raised in one processor cycle the lowest is recorded (R180, R181). -/
def State.beginRecord (s : State) (l : Nat) : State :=
  let x := s.ribAt (l / 8)
  if x.rvalid then
    (if x.rfrom / 2 = s.rootNow / 2 ∧ x.fill = 0 ∧ l % 8 < x.rlane then s.modRib (l / 8) (fun x => { x with rlane := l % 8 }) else s)
  else s.took.modRib (l / 8) (fun x => { x with rlane := l % 8, rvalid := true, fill := 0, rfrom := s.rootNow, phase := s.freeWord.toNat % 2 })

/-- A lane event of class 0 LOSS_OF_LOCK, 1 FEC_BURST or 2 ELEC_IDLE (R178 to R180). -/
def State.laneEvent (s : State) (l cls : Nat) : State :=
  let c := s.laneCause l
  let s1 := s.setCause l (if bitAt c cls then c else c + 2 ^ cls)
  (if cls ≤ 1 then s1.beginRecord l else s1).raiseS (l / 8) cls

/-- The recovery record of a ribbon is released once event classes 0 and 1 are both clear; the lowest lane with such a cause still set is
recorded next and its class raised again (R180, R181). -/
def State.releaseRecord (s : State) (r : Nat) : State :=
  if ¬ (s.ribAt r).rvalid ∨ s.rd F.EVT_PEND (s.seqBase (32 + r)) % 4 ≠ 0 then s
  else
    let s1 := s.modRib r (fun x => { x with rvalid := false })
    match (List.range 8).find? (fun i => decide (s.laneCause (8 * r + i) % 4 ≠ 0)) with
    | none => s1
    | some i =>
      let c := s.laneCause (8 * r + i)
      let s2 := s1.beginRecord (8 * r + i)
      let s3 := if bitAt c 0 then s2.raiseS r 0 else s2
      if bitAt c 1 then s3.raiseS r 1 else s3

/-! Lane states (R171). -/

/-- The transmitter fills its prefill buffer again before it sends data (R157, R164). -/
def State.restartTx (s : State) (l : Nat) : State := s.modLane l (fun x => { x with sending := false })

/-- The receiver of a lane leaves UP: its group's unit is cut, behind the units that the elastic buffer holds, and the patch sequencer's LANE
class is raised (R170, R232, R324). -/
def State.leaveUp (s : State) (l : Nat) : State :=
  if s.ln F.LN_LSTATE l ≠ 2 then s
  else
    let f := s.firstLane l
    let s1 := match s.laneSlot f with
      | none => s
      | some (k, slot) =>
        if (s.laneAt f).eb = [] then (s.cvCut k slot).capCut k slot
        else s.modLane f (fun x => { x with eb := x.eb ++ [⟨none, s.now, s.rootNow⟩] })
    match s.laneSlot l with
    | none => s1
    | some (k, _) => s1.raiseP k 0

/-- A lane leaves ACQUIRE and UP: a STREAM chunk of it ends (R234). -/
def State.leaveStream (s : State) (l : Nat) : State := match s.laneSlot l with | some (k, slot) => s.streamCut k slot l | none => s

/-- Gives a lane a state in which the PCS delivers nothing, once its units are cut. -/
def State.setDown (s : State) (l st : Nat) : State := ((s.setLn F.LN_LSTATE l st).setLn F.LN_CDR_LOCK l 0).setLn F.LN_PCS_LOCK l 0

/-- Takes a lane to a state in which the PCS delivers nothing and neither clock recovery nor the PCS is locked. -/
def State.laneTo (s : State) (l st : Nat) : State := ((if st = 1 then s else s.leaveStream l).leaveUp l).setDown l st

/-- A lane whose units are cut enters ACQUIRE (R159, R171, R173, R178); `up` says that it comes from UP. -/
def State.acquireFrom (s : State) (l : Nat) (up : Bool) : State :=
  let s1 := (if up then s.laneCount ctrLol l 1 else s).setDown l 1
  (if s1.ln F.LN_BAND_START l = 1 then s1.loadBand l else s1).laneEvent l 0

/-- A lane enters ACQUIRE, from whichever state it leaves. -/
def State.enterAcquire (s : State) (l : Nat) : State := (s.leaveUp l).acquireFrom l (s.ln F.LN_LSTATE l == 2)

/-- The transmitter of a lane in LOOP follows the lane that it names while that lane is UP (R161). -/
def State.followLoop (s : State) (l : Nat) : State :=
  let m := l / 8 * 8 + s.ln F.LN_TX_CLK_LANE l
  if s.lnCtl F.LN_TX_CLK l = 1 ∧ s.ln F.LN_LSTATE m = 2 then s.modLane l (fun x => { x with txHeld := some (s.laneAt m).rxPpm }) else s

/-- A transmitter's frequency, from its LN_RATE in ppm (R161): the device reference, or what LOOP follows or has followed last. -/
def State.txPpm (s : State) (l : Nat) : Int := if s.lnCtl F.LN_TX_CLK l = 1 then (s.laneAt l).txHeld.getD 0 else 0

/-- Once every lane with RX_EN set is UP, the device is in service (R515). -/
def State.showService (s : State) : State :=
  if s.rd F.ST_PHASE DEV = 10 ∧ (List.range 256).all (fun l => bitsOf 0 0 (s.laneAt l).ctl == 0 || s.ln F.LN_LSTATE l == 2) then s.wr F.ST_PHASE DEV 11
  else s

/-- A lane enters UP (R171, R172, R158). FE_LAT, SKEW and the frequency recovered are what training finds: free values within what R67, R168
and R158 allow. The transmitters whose LOOP setting names the lane follow it (R161). -/
def State.enterUp (s : State) (l : Nat) : State :=
  let w := s.freeWord.toNat
  let s1 := ((((s.took.setLn F.LN_LSTATE l 2).setLn F.LN_SIGDET l 1).setLn F.LN_CDR_LOCK l 1).setLn F.LN_PCS_LOCK l
    (bit (s.pcsOf l != 0))).setLn F.LN_FE_LAT l (w % 117)
  let s2 := s1.setLn F.LN_SKEW l (if (s.laneAt l).group.2 = 1 then 0 else w / 256 % 205)
  (forN (fun i s => s.followLoop (l / 8 * 8 + i)) 8 (s2.modLane l (fun x => { x with rxPpm := (w / 65536 % 5601 : Nat) - 5300 }))).showService

/-- A request that disturbs the receiver occupies it (R187). -/
def LaneReq.rx (q : LaneReq) : Bool := q.kind == 1 || q.kind == 2 || q.kind == 4

/-- A request that disturbs the transmitter occupies it (R187). -/
def LaneReq.tx (q : LaneReq) : Bool := q.kind == 3 || q.kind == 4

/-- The receiver of a lane is occupied by a request. -/
def State.rxBusy (s : State) (l : Nat) : Bool := (s.laneAt l).runs.any LaneReq.rx

/-- The transmitter of a lane runs: the device released, the lane enabled and not in FAULT, and not occupied by a request (R155, R185, R187,
R444). -/
def State.txRuns (s : State) (l : Nat) : Bool :=
  s.cfg.released && s.lanesOn && s.ln F.LN_TX_EN l == 1 && s.ln F.LN_LSTATE l != 4 && !(s.laneAt l).runs.any LaneReq.tx

/-- LANE_UP (R171): clock recovery locked and the PCS aligned. -/
def execLaneUp (l : Lane) (off : Nat) (s : State) : Out :=
  act s (s.lanesOn && s.ln F.LN_LSTATE l.val == 1 && !s.rxBusy l.val) ((s.tick off).enterUp l.val)

/-- LOSS_OF_LOCK (R178): a lane in UP loses lock or alignment. -/
def execLossOfLock (l : Lane) (off : Nat) (s : State) : Out :=
  act s (s.lanesOn && s.ln F.LN_LSTATE l.val == 2) ((s.tick off).enterAcquire l.val)

/-- ELEC_IDLE (R171, R178): the signal has been absent for IDLE_TIME. -/
def execElecIdle (l : Lane) (off : Nat) (s : State) : Out :=
  let s1 := ((s.tick off).laneTo l.val 3).setLn F.LN_SIGDET l.val 0
  act s (s.lanesOn && s.ln F.LN_LSTATE l.val == 2) ((s1.laneCount ctrIdle l.val 1).laneEvent l.val 2)

/-- SIGNAL_DETECT (R171): signal is detected again on a lane in IDLE. -/
def execSignalDetect (l : Lane) (off : Nat) (s : State) : Out :=
  act s (s.lanesOn && s.ln F.LN_LSTATE l.val == 3 && !s.rxBusy l.val) (((s.tick off).setLn F.LN_SIGDET l.val 1).enterAcquire l.val)

/-- A lane enters FAULT with the circuit found failing (R185); requests that it holds end refused, but for an analog test (R186). -/
def State.enterFault (s : State) (l cause : Nat) : State :=
  let x := s.laneAt l
  let out_ := (x.runs ++ x.waiting).filter (fun q => q.kind != 4)
  let s1 := (((s.laneTo l 4).setLn F.LN_FAULT_CAUSE l cause).restartTx l).modLane l (fun x =>
    { x with runs := x.runs.filter (fun q => q.kind == 4), waiting := x.waiting.filter (fun q => q.kind == 4) })
  (forEach (fun q s => s.complete q.c .refused) out_ s1).event .laneFault blkRIBBON l [cause]

/-- LANE_FAULT (R185): a monitor detects a lane analog fault. -/
def execLaneFault (l : Lane) (cause : BitVec 4) (off : Nat) (s : State) : Out :=
  act s (s.up && s.ln F.LN_LSTATE l.val != 4 && decide (1 ≤ cause.toNat ∧ cause.toNat ≤ 5)) ((s.tick off).enterFault l.val cause.toNat)

/-! Settings (R155 to R160, R168). -/

/-- The words of a lane's control and rate. -/
def ctlAddr (l : Nat) : Nat := F.LN_RX_EN.at (RIBBON (l / 8)) (l % 8) 0
def rateAddr (l : Nat) : Nat := F.LN_RATE_KBPS.at (RIBBON (l / 8)) (l % 8) 0

/-- Holds RATE_KBPS within the range of MOD (R156). -/
def State.clampRate (s : State) (l : Nat) : State :=
  let c := if s.ln F.LN_MOD l = 0 then Clamp.range 1000000 58000000 else Clamp.range 20000000 112500000
  s.setLn F.LN_RATE_KBPS l (c.apply (s.ln F.LN_RATE_KBPS l))

/-- Gives every other member of a group its first lane's MOD, PCS and RATE_KBPS (R170). -/
def State.followFirst (s : State) (l : Nat) : State :=
  let g := (s.laneAt l).group
  if g.2 = 1 then s
  else
    forEach (fun m s =>
      if m = g.1 then s
      else
        ((((s.setLn F.LN_MOD m (s.ln F.LN_MOD g.1)).setLn F.LN_PCS m (s.ln F.LN_PCS g.1)).setLn F.LN_RATE_KBPS m
          (s.ln F.LN_RATE_KBPS g.1)).markDirty (ctlAddr m)).markDirty (rateAddr m)) (s.groupLanes l) s

/-- A write of LN_CTL (R155 to R157, R170); it acts at the next boundary. -/
def State.writeLnCtl (s : State) (l : Nat) (v : W32) (be : Nat) : State :=
  (((s.stageWrite (ctlAddr l) v be).clampRate l).markDirty (rateAddr l)).followFirst l

/-- A write of LN_RATE (R156, R170); it acts at the next boundary. -/
def State.writeLnRate (s : State) (l : Nat) (v : W32) (be : Nat) : State :=
  (((s.stageWrite (rateAddr l) v be).clampRate l)).followFirst l

/-- LN_CTL_WRITE (R157). -/
def execLnCtlWrite (l : Lane) (v : W32) (be : BitVec 4) (s : State) : Out := act s s.up (s.writeLnCtl l.val v be.toNat)

/-- LN_RATE_WRITE (R156). -/
def execLnRateWrite (l : Lane) (v : W32) (be : BitVec 4) (s : State) : Out := act s s.up (s.writeLnRate l.val v be.toNat)

/-- The address of a coefficient word: RX_CTLE, then the six words of feed-forward taps (R158). -/
def coefAddr (l word : Nat) : Nat :=
  if word = 0 then F.LN_PEAK.at (RIBBON (l / 8)) (l % 8) 0 else F.LN_FFE0.at (RIBBON (l / 8)) (l % 8) 0 + 4 * (word - 1)

/-- COEFFICIENT_WRITE (R159): it needs no stitch boundary. -/
def execCoefficientWrite (l : Lane) (word : Fin 7) (v : W32) (be : BitVec 4) (s : State) : Out :=
  act s s.up (s.mergeWrite (coefAddr l.val word.val) v be.toNat)

/-- The five taps of TX_FFE, clamped in the three steps of R160. -/
def ffeClamp (m2 m1 c0 p1 p2 : Int) : Int × Int × Int × Int × Int :=
  let m2 := clampInt (-8) 8 m2
  let m1 := clampInt (-24) 0 m1
  let c0 := clampInt 16 63 c0
  let p1 := clampInt (-24) 0 p1
  let p2 := clampInt (-8) 8 p2
  let rest := m2.natAbs + m1.natAbs + p1.natAbs + p2.natAbs
  let c := if 63 < rest + c0.natAbs then max 16 (63 - (rest : Int)) else c0
  let cut := fun (x : Int) (excess : Nat) => (if x < 0 then -((x.natAbs - excess : Nat) : Int) else ((x.natAbs - excess : Nat) : Int), excess - x.natAbs)
  let e0 := rest + c.natAbs - 63
  let (q2, e1) := cut p2 e0
  let (n2, e2) := cut m2 e1
  let (q1, e3) := cut p1 e2
  let (n1, _) := cut m1 e3
  (n2, n1, c, q1, q2)

/-- A write of TX_FFE (R160). -/
def State.writeTxFfe (s : State) (l : Nat) (v : W32) (be : Nat) : State :=
  let s1 := s.mergeWrite (F.TX_C_M2.at (RIBBON (l / 8)) (l % 8) 0) v be
  let (m2, m1, c0, p1, p2) := ffeClamp (toSigned 5 (s1.ln F.TX_C_M2 l)) (toSigned 6 (s1.ln F.TX_C_M1 l)) (s1.ln F.TX_C0 l)
    (toSigned 6 (s1.ln F.TX_C_P1 l)) (toSigned 5 (s1.ln F.TX_C_P2 l))
  ((((s1.setLn F.TX_C_M2 l (ofSigned 5 m2)).setLn F.TX_C_M1 l (ofSigned 6 m1)).setLn F.TX_C0 l (ofSigned 6 c0)).setLn F.TX_C_P1 l
    (ofSigned 6 p1)).setLn F.TX_C_P2 l (ofSigned 5 p2)

/-- TX_FFE_WRITE (R160). -/
def execTxFfeWrite (l : Lane) (v : W32) (be : BitVec 4) (s : State) : Out := act s s.up (s.writeTxFfe l.val v be.toNat)

/-- A write of RIB_CTL (R168); a bond change acts at the next boundary. -/
def State.writeRibCtl (s : State) (r : Nat) (v : W32) (be : Nat) : State := s.stageWrite (F.RIB_BOND.at (RIBBON r) 0 0) v be

/-- RIB_CTL_WRITE (R168). -/
def execRibCtlWrite (r : Ribbon) (v : W32) (be : BitVec 4) (s : State) : Out := act s s.up (s.writeRibCtl r.val v be.toNat)

/-- The receiver of a lane may work: the device is released and the lane not in FAULT. -/
def State.rxAllowed (s : State) (l : Nat) : Bool := s.cfg.released && s.ln F.LN_LSTATE l != 4

/-- Settings that a lane's control and rate words brought take effect (R157, R171). RX_EN from 1 to 0 does not restart the transmitter
(assumption 88). -/
def State.applyLane (s : State) (l : Nat) : State :=
  let x := s.laneAt l
  let c := s.reg (ctlAddr l)
  let r := s.reg (rateAddr l)
  let changed := fun (f : Fld) => bitsOf f.hi f.lo c != bitsOf f.hi f.lo x.ctl
  let on := bitsOf 0 0 c == 1
  let rx := changed F.LN_MOD || changed F.LN_PCS || r != x.rate || (on && changed F.LN_RX_EN)
  let s1 := (s.modLane l (fun x => { x with ctl := c, rate := r })).followLoop l
  let s2 := if rx || changed F.LN_TX_CLK || changed F.LN_TX_EN then s1.restartTx l else s1
  if ¬ on then (if s2.ln F.LN_LSTATE l = 4 ∨ s2.ln F.LN_LSTATE l = 0 then s2 else s2.laneTo l 0)
  else if rx && s2.rxAllowed l then s2.enterAcquire l else s2

/-- Bond groups as RIB_CTL and the bindings in effect give them; a change takes every member to ACQUIRE (R168 to R170). The unit that arrives
ends under the group that it arrived in (R232). A lane that leaves a group keeps the first lane's settings, which replaced its own
(assumption 89); one that joins takes them, as a change under R157. -/
def State.applyGroup (s : State) (l : Nat) : State :=
  let g := s.groupOf l
  if g = (s.laneAt l).group then s
  else
    let s0 := s.leaveUp l
    let s1 := (s0.modLane l (fun x => { x with group := g })).setLn F.LN_BONDED l (bit (g.2 != 1))
    let s2 := if g.1 = l then s1
      else (((s1.setLn F.LN_MOD l (s1.ln F.LN_MOD g.1)).setLn F.LN_PCS l (s1.ln F.LN_PCS g.1)).setLn F.LN_RATE_KBPS l (s1.ln F.LN_RATE_KBPS g.1))
    let s3 := s2.modLane l (fun x => { x with ctl := s2.reg (ctlAddr l), rate := s2.reg (rateAddr l) })
    let s4 := if s3.reg (ctlAddr l) = s1.reg (ctlAddr l) ∧ s3.reg (rateAddr l) = s1.reg (rateAddr l) then s3 else s3.restartTx l
    if s4.rxAllowed l && s4.ln F.LN_LSTATE l != 0 then s4.acquireFrom l (s.ln F.LN_LSTATE l == 2) else s4

/-! Quiet windows (R188). -/

/-- A write of QUIET (R188): the window opens at the next boundary. -/
def State.writeQuiet (s : State) (l : Nat) (v : W32) (be : Nat) : State :=
  if F.Q_QUIET_LEN.enabled be then
    let m := s.mergeWrite (F.Q_QUIET_LEN.at (RIBBON (l / 8)) (l % 8) 0) v be
    s.modLane l (fun x => { x with quiet := some (m.ln F.Q_QUIET_LEN l) })
  else s

/-- QUIET_WRITE (R188). -/
def execQuietWrite (l : Lane) (v : W32) (be : BitVec 4) (s : State) : Out := act s s.up (s.writeQuiet l.val v be.toNat)

/-- QUIET_WINDOW_END (R188): no stitches are left. -/
def execQuietWindowEnd (l : Lane) (s : State) : Out :=
  act s (s.up && s.ln F.Q_OPEN l.val == 1 && s.ln F.Q_QUIET_LEN l.val == 0) (s.setLn F.Q_OPEN l.val 0)

/-- A quiet window covers the present stitch. -/
def State.quietNow (s : State) (l : Nat) : Bool := s.ln F.Q_OPEN l == 1 && decide (0 < s.ln F.Q_QUIET_LEN l)

/-- A boundary counts an open window down, or opens the one that was written (R188). -/
def State.quietBoundary (s : State) (l : Nat) : State :=
  match (s.laneAt l).quiet with
  | some n =>
    ((s.setLn F.Q_QUIET_LEN l n).setLn F.Q_OPEN l (bit (n != 0))).modLane l (fun x => { x with quiet := none, opened := s.stitch })
  | none => if s.quietNow l then s.setLn F.Q_QUIET_LEN l (s.ln F.Q_QUIET_LEN l - 1) else s

/-! Requests (R186 to R192). -/

/-- Duration of a request in root cycles (R187). -/
def reqCycles (kind : Nat) : Nat :=
  match kind with
  | 1 => 64000 | 2 => 640000 | 3 => 32000 | 4 => 320000 | _ => 0

/-- A part that a request disturbs is in service (R187). -/
def State.inService (s : State) (l kind : Nat) : Bool :=
  let q : LaneReq := { c := ⟨false, 0, 0⟩, kind := kind, force := false, left := 0, outside := 0, wasUp := false }
  (q.rx && s.ln F.LN_LSTATE l == 2) || (q.tx && s.ln F.LN_TX_EN l == 1 && s.ln F.LN_LSTATE l != 4)

/-- A request's kind as its parameters give it (R187); every SELFTEST of a lane acts as ANALOG_TEST (R483). -/
def DispCmd.laneKind (d : DispCmd) : Nat := if d.opcode = 0x29 then 4 else if 4 < d.param 8 1 then 0 else d.param 8 1

/-- A LANE_REQ command of a kind, or a SELFTEST that acts as one (R483), reaches its lane: it is evaluated at the next boundary (R189). -/
def State.laneReq (s : State) (c : CmdRef) (kind : Nat) : Option State :=
  match s.cmdOf c 0x28 .fresh <|> s.cmdOf c 0x29 .fresh with
  | none => none
  | some d =>
    if d.laneKind ≠ kind ∨ d.tkind ≠ 3 then none
    else
      let q : LaneReq := { c := c, kind := kind, force := d.force, left := reqCycles kind, outside := 0, wasUp := false }
      some ((s.setPhase c .waiting).modLane d.target (fun x => { x with waiting := x.waiting ++ [q] }))

/-- EYE_SCAN (R187). -/
def execEyeScan (c : CmdRef) (s : State) : Out := actOn s (if s.up then s.laneReq c 0 else none) id

/-- CTLE_RECAL (R187). -/
def execCtleRecal (c : CmdRef) (s : State) : Out := actOn s (if s.up then s.laneReq c 1 else none) id

/-- RX_RETRAIN (R187). -/
def execRxRetrain (c : CmdRef) (s : State) : Out := actOn s (if s.up then s.laneReq c 2 else none) id

/-- TX_RECAL (R187). -/
def execTxRecal (c : CmdRef) (s : State) : Out := actOn s (if s.up then s.laneReq c 3 else none) id

/-- ANALOG_TEST (R186). -/
def execAnalogTest (c : CmdRef) (s : State) : Out := actOn s (if s.up then s.laneReq c 4 else none) id

/-- A request starts (R187, R189, R190); `counted` says that stitches outside a quiet window are counted against it. -/
def State.startReq (s : State) (l : Nat) (q : LaneReq) (counted : Bool) : State :=
  let up := s.ln F.LN_LSTATE l == 2
  let s1 := if q.rx && up then s.enterAcquire l else s
  let s2 := if q.tx then s1.restartTx l else s1
  s2.modLane l (fun x => { x with
    waiting := x.waiting.filter (fun w => w.c ≠ q.c)
    runs := x.runs ++ [{ q with force := counted, wasUp := up, outside := bit (counted && !s.quietNow l) }] })

/-- The dispatch stitch of a request's command. -/
def State.sentAt (s : State) (c : CmdRef) : Nat := ((s.cmd c).map (fun d => d.at_.toNat)).getD 0

/-- One waiting request of a lane at a boundary (R186, R189, R190): what disturbs nothing in service, or is forced, starts at once, whatever
runs; the others start in dispatch order, one at a time, in a window that covers them. -/
def State.evalReq (s : State) (l : Nat) (q : LaneReq) : State :=
  let x := s.laneAt l
  let drop := s.modLane l (fun x => { x with waiting := x.waiting.filter (fun w => w.c ≠ q.c) })
  if s.ln F.LN_LSTATE l = 4 ∧ q.kind ≠ 4 then drop.complete q.c .refused
  else if q.kind = 0 then drop.complete q.c .ok [0, 0]
  else if ¬ s.inService l q.kind then s.startReq l q false
  else if q.force then s.startReq l q true
  else if x.runs ≠ [] ∨ (x.waiting.head?.map (fun w => w.c)) ≠ some q.c then s.defer q.c
  else if s.quietNow l ∧ s.sentAt q.c < x.opened.toNat ∧ ceilDiv q.left s.period ≤ s.ln F.Q_QUIET_LEN l then s.startReq l q false
  else s.defer q.c

/-- The requests that wait on a lane and were dispatched before this stitch are evaluated, in dispatch order (R189). -/
def State.evalReqs (s : State) (l : Nat) : State :=
  forEach (fun q s => if s.sentAt q.c < s.stitch.toNat then s.evalReq l q else s) (s.laneAt l).waiting s

/-- Step 3 of a boundary for a lane's requests: those that run have used up the stitch of `p` root cycles that ended, and those that
wait are evaluated (R187 to R192). -/
def State.reqBoundary (s : State) (p l : Nat) : State :=
  (s.modLane l (fun x => { x with runs := x.runs.map (fun q => { q with
    left := q.left - p
    outside := q.outside + bit (q.force && decide (p < q.left) && !s.quietNow l) }) })).evalReqs l

/-- LANE_REQ_END (R186, R187, R190): the last stitch of a request has ended, and what waits for it may start. The receiver is UP again once
no other request occupies it (assumption 90). -/
def execLaneReqEnd (l : Lane) (pass : Bool) (cause : BitVec 4) (s : State) : Out :=
  let l := l.val
  actOn s (if s.up then (s.laneAt l).runs.find? (fun q => q.left == 0) else none) fun q =>
    let rest := (s.laneAt l).runs.filter (fun w => w.c ≠ q.c)
    let keeps := q.wasUp && rest.any LaneReq.rx
    let s1 := s.modLane l (fun x => { x with
      runs := rest.map (fun w => if keeps && w.rx then { w with wasUp := true } else w)
      disc := x.disc || q.rx })
    let s2 := if q.tx then s1.restartTx l else s1
    let fails := q.kind == 4 && !pass
    let s3 :=
      if fails then s2.enterFault l cause.toNat
      else if q.kind = 4 ∧ s2.ln F.LN_LSTATE l = 4 then
        let s4 := s2.setLn F.LN_FAULT_CAUSE l 0
        if s2.ln F.LN_RX_EN l = 1 then s4.enterAcquire l else s4.laneTo l 0
      else if q.rx ∧ q.wasUp ∧ !keeps ∧ s2.ln F.LN_LSTATE l = 1 then s2.enterUp l
      else s2
    (s3.complete q.c (if 0 < q.outside then .forced else .ok) [q.outside, bit (q.kind == 4 && pass)]).evalReqs l

/-! Boundary work of the lanes. -/

/-- The lanes whose control or rate word was written since the last boundary, without repeats. -/
def State.dirtyLanes (s : State) : List Nat :=
  (List.range 256).filter (fun l => s.dirty.any (fun a => a == ctlAddr l || a == rateAddr l))

/-- The burst window of a lane moves on by a stitch (R175). -/
def State.burstBoundary (s : State) (l : Nat) : State :=
  s.modLane l (fun x =>
    let w := (0 :: x.bursts).take (s.ln F.LN_BURST_WIN l)
    { x with bursts := if w.all (fun n => n == 0) then [] else w, burst := x.burst && decide (s.ln F.LN_BURST_THR l ≤ w.sum) })

/-- Errors counted towards a FEC burst on a lane in UP (R175). A burst is raised once; the next one is raised after the window's sum has been
below the threshold at a boundary (assumption 91). -/
def State.addBurst (s : State) (l n : Nat) : State :=
  if n = 0 then s
  else
    let x := s.laneAt l
    let w := match x.bursts with | [] => [n] | h :: t => (h + n) :: t
    let over_ := decide (s.ln F.LN_BURST_THR l ≤ (w.take (s.ln F.LN_BURST_WIN l)).sum)
    let s1 := s.modLane l (fun x => { x with bursts := w, burst := x.burst || over_ })
    if over_ && !x.burst then s1.laneEvent l 1 else s1

/-- Symbols of a lane in `p` root cycles (R154). -/
def State.symbols (s : State) (l p : Nat) : Nat := s.rateOf l * p / (3200000 * (1 + s.lnCtl F.LN_MOD l))

/-- The monitor sampler of a lane in UP has run for a stitch of `p` root cycles (R177): on how many of its symbols it disagreed with the slicer
is free. -/
def State.eyeBoundary (s : State) (p l : Nat) : State :=
  if s.ln F.EYE_EN l = 1 ∧ s.ln F.LN_LSTATE l = 2 then
    s.took.bump F.EYE_CNT (RIBBON (l / 8)) (s.freeWord.toNat % (s.symbols l p + 1)) (l % 8)
  else s

/-- Step 3 of a boundary for lanes and ribbons, before written words take effect (R157, R168, R188, R189). `p` is the period of the stitch
that ended. -/
def State.laneBoundary (s : State) (p : Nat) : State :=
  let s1 := forEach (fun l s => s.applyLane l) s.dirtyLanes s
  let live := (s1.lanes.map (fun e => e.1))
  forEach (fun l s => (((s.burstBoundary l).eyeBoundary p l).quietBoundary l).reqBoundary p l) live s1

/-- Bond changes at a boundary, once the words written have taken effect. -/
def State.groupBoundary (s : State) : State := forN (fun l s => s.applyGroup l) 256 s

/-- The block of samples that the lane back ends deposit for a ribbon (R176): the sample and the level of each lane in UP, free values; 0
for the others. -/
def State.deposit (s : State) (r : Nat) : State :=
  let put := fun (s : State) (a : Nat) (v : W64) =>
    s.modProcAt (32 + r) (fun x => { x with dmem := putBytes x.dmem a (leBytes 2 v.toNat) })
  forN (fun i s =>
    if s.ln F.LN_LSTATE (8 * r + i) = 2 then (put (put s (0x0800 + 2 * i) s.freeWord) (0x0810 + 2 * i) (Config.freeValue (s.fresh + 1))).took.took
    else put (put s (0x0800 + 2 * i) 0) (0x0810 + 2 * i) 0) 8 s

/-- A recovery record has gone on to the root time `at_` (R180): one sample, a free value, per symbol. -/
def State.recordTo (s : State) (r at_ : Nat) : State :=
  let x := s.ribAt r
  let n := min 4096 (s.symbols (8 * r + x.rlane) (at_ - x.rfrom) + x.phase)
  if ¬ x.rvalid ∨ n ≤ x.fill then s
  else
    forEach (fun i s =>
      s.took.modProcAt (32 + r) (fun y => { y with dmem := putBytes y.dmem (0x1000 + 2 * (x.fill + i)) (leBytes 2 s.freeWord.toNat) })) (List.range (n - x.fill))
      (s.modRib r (fun x => { x with fill := n }))

/-! Moves of ribbon signal processors (R182 to R184). -/

/-- RSP_MOVE (R182): a processor position reports a fault; its ribbon moves at the next boundary. -/
def execRspMove (r : Ribbon) (off : Nat) (s : State) : Out :=
  act s (s.up && (s.ribAt r.val).moveTo.isNone) ((s.tick off).requestMove r.val true)

/-- Step 3 of a boundary for a ribbon's move: it begins, to the lowest spare position, or goes on. With no spare a ribbon whose processor has
failed loses it (R182, R183); a move for a test does not come about, and its command is refused (R483). -/
def State.moveBoundary (s : State) (p r : Nat) : State :=
  let x := s.ribAt r
  match x.moveTo with
  | some _ => s.modRib r (fun x => { x with moveLeft := x.moveLeft - p / 4 })
  | none =>
    if ¬ x.moveReq then s
    else
      let q0 := s.rsp r
      let s0 := s.modRib r (fun x => { x with moveReq := false, moveFault := false })
      let s1 := s0.modProcAt (32 + r) (fun x => { x with frozen := true })
      match s.spareRsps with
      | [] =>
        if x.moveFault then ((s1.wr F.RSPH_RETIRED (RIBBON q0) 1).showRsps).event .ribbonNoRsp blkRIBBON r
        else
          let mine := fun (b : BistRun) => b.u == .rsp (Fin.ofNat 34 q0) && !b.on
          forEach (fun b s => s.completeOpt b.c .refused) (s0.res.bists.filter mine)
            { s0 with res := { s0.res with bists := s0.res.bists.filter (fun b => !mine b) } }
      | q :: _ =>
        (((s1.wr F.RSPH_MOVING (RIBBON q0) 1).wr F.RSPH_MOVING (RIBBON q) 1).modRib r (fun x =>
          { x with moveTo := some q, moveLeft := 672, moveFirst := s.stitch })).showRsps

/-- Moves the registers of a processor position, but for its health word (R184), to another. -/
def moveSeq {α : Type} (from_ to_ : Nat) (t : Tab α) : Tab α :=
  let isIn := fun q a => decide (RIBBON q ≤ a) && decide (a < RIBBON q + 0x40) && a != RIBBON q + 0x30
  let kept := t.filter (fun e => !(isIn from_ e.1 || isIn to_ e.1))
  forEach (fun e t => if isIn from_ e.1 then Tab.put t (RIBBON to_ + (e.1 - RIBBON from_)) e.2 else t) t kept

/-- RSP_MOVE_COMPLETE (R182, R472): the ribbon map names the new position, the program goes on from the next boundary, and the position
left behind is tested. -/
def execRspMoveComplete (r : Ribbon) (s : State) : Out :=
  let x := s.ribAt r.val
  let q0 := s.rsp r.val
  actOn s (if s.up ∧ x.moveLeft = 0 then x.moveTo else none) fun q =>
    let s1 := { s with regs := moveSeq q0 q s.regs, eff := moveSeq q0 q s.eff }
    let s2 := ((s1.wr F.RMAP_RSP DEV q r.val).wr F.RSPH_MOVING (RIBBON q0) 0).wr F.RSPH_MOVING (RIBBON q) 0
    let s3 := (s2.modRib r.val (fun x => { x with moveTo := none })).modProcAt (32 + r.val) (fun x => { x with frozen := false, active := false })
    let s4 := s3.ownBist (.rsp (Fin.ofNat 34 q0))
    ((s4.showRsps).raiseProc (32 + r.val) 5 false).event .rspMoved blkRIBBON r.val
      [q0 + 64 * q, x.moveFirst.toNat, s.stitch.toNat - 1]

end Sys2Proof.Machine
end

