-- ==== Sys2Proof/Machine/Binds.lean ====
section
/-! DEFINITION. Ribbon bindings (R33 to R40): writes of the logical patch map, BIND_RIBBON, and their boundary. -/

namespace Sys2Proof.Machine

/-- A ribbon number that names no ribbon becomes 63 (R38). -/
def clampRib (v : Nat) : Nat := if v < 32 then v else 63

/-- The place of a path among those whose writes land in one root cycle (R539). -/
def State.srcRank (s : State) : Src → Nat
  | .hc => 0
  | .seq k => 1 + s.ppos k.val
  | .rsp r => 32 + s.rsp r.val
  | .host => 100

/-- The bindings in the order in which they land, one more of them behind those that landed with it or before (R36, R539). -/
def insertBind (b : BindWrite) : List BindWrite → List BindWrite
  | [] => [b]
  | x :: t => if x.at_ < b.at_ ∨ (x.at_ = b.at_ ∧ x.rank ≤ b.rank) then x :: insertBind b t else b :: x :: t

/-- A binding lands (R36, R37): it waits for the next boundary, or for the drain of a handover. -/
def State.landBind (s : State) (b : BindWrite) : State :=
  let s1 := s.wr F.LPM_PEND DEV 1 b.k
  if s.hover b.k then { s1 with stack := { s1.stack with heldBinds := insertBind b s1.stack.heldBinds } }
  else { s1 with stack := { s1.stack with binds := insertBind b s1.stack.binds } }

/-- A write of a logical patch's map register (R35 to R38). The fields show the bindings in effect; where both name one ribbon RIB_A
holds it, as RIB_B is taken first. -/
def State.writeLpm (s : State) (src : Src) (k : Nat) (v : W32) (be : Nat) : State :=
  let one := fun (s : State) (b : Bool) (rib : Nat) => s.landBind ⟨k, b, clampRib rib, s.rootNow, s.srcRank src, none⟩
  let s1 := if F.LPM_RIB_B.enabled be then one s true (bitsOf 21 16 v) else s
  if F.LPM_RIB_A.enabled be then one s1 false (bitsOf 13 8 v) else s1

/-- BIND_RIBBON (R36, R37, R374): it lands at its dispatch, at offset 0 of the stitch. -/
def execBindRibbon (c : CmdRef) (s : State) : Out :=
  actOn s (s.cmdOf c 0x10 .fresh) fun d =>
    let k := d.target % 16
    ((s.setPhase c .running).landBind ⟨k, true, clampRib (d.param 9 1), s.time.run, 0, none⟩).landBind
      ⟨k, false, clampRib (d.param 8 1), s.time.run, 0, some c⟩

/-- The units arriving in a slot of a patch end there (R232, R303). -/
def State.cutSlot (s : State) (k slot : Nat) : State := (s.cvCut k slot).capCut k slot

/-- A slot whose lane has gone to another patch takes no more of it: what arrives there ends (R35, R232). -/
def State.endLate (s : State) (x : LateSlot) : State :=
  { s with stack := { s.stack with late := s.stack.late.filter (fun y => y != x) } }.cutSlot x.k x.slot

/-- A lane leaves a slot (R35): a unit whose last symbol came before the boundary still completes there. -/
def State.leaveSlot (s : State) (k slot lane : Nat) : State :=
  let s1 := forEach (fun x s => if x.k = k ∧ x.slot = slot then s.endLate x else s) s.stack.late (s.streamCut k slot lane)
  { s1 with stack := { s1.stack with late := s1.stack.late ++ [⟨k, slot, lane, s1.time.run⟩] } }

/-- The longest that a unit is on its way from the lane's balls to the patch: 36 ns, in root cycles (R68). -/
def receiveLatency : Nat := 116

/-- Slots for which nothing can still be on its way are cut (R35, R232). -/
def State.lateBoundary (s : State) : State :=
  forEach (fun x s =>
    if x.at_ + receiveLatency ≤ s.time.run ∧ (s.laneAt x.lane).eb.all (fun e => decide (x.at_ < e.ends)) = true then s.endLate x else s) s.stack.late s

/-- Writes a field of the map; its slots take their last units from the lanes of the ribbon that leaves. -/
def State.setRib (s : State) (k half rib : Nat) : State :=
  let s1 := match s.patchRib k half with
    | some r => forN (fun i (s : State) => s.leaveSlot k (8 * half + i) (8 * r + i)) 8 s
    | none => s
  if half = 0 then s1.wr F.LPM_RIB_A DEV rib k else s1.wr F.LPM_RIB_B DEV rib k

/-- The ribbon map follows the logical patch map (R40). -/
def State.showRibbon (s : State) (r : Nat) : State :=
  match (List.range 16).find? (fun k => s.patchRib k 0 == some r || s.patchRib k 1 == some r) with
  | some k => (s.wr F.RMAP_LPATCH DEV k r).wr F.RMAP_UNB DEV 0 r
  | none => s.wr F.RMAP_UNB DEV 1 r

/-- One binding takes effect (R36): the ribbon leaves whichever field held it. -/
def State.applyBind (s : State) (b : BindWrite) : State :=
  let half := bit b.fieldB
  let old := s.patchRib b.k half
  if (old == some b.rib) || (old.isNone && b.rib == 63) then s.completeOpt b.c .ok
  else
    let s1 := if b.rib = 63 then s else
      forN (fun k s => forN (fun h s => if s.patchRib k h = some b.rib then s.setRib k h 63 else s) 2 s) 16 s
    let s2 := s1.setRib b.k half b.rib
    let s3 := match old with | some r => s2.showRibbon r | none => s2
    (if b.rib = 63 then s3 else s3.showRibbon b.rib).completeOpt b.c .ok

/-- The bindings that wait, in the order in which they landed (R35, R36). -/
def State.bindBoundary (s : State) : State :=
  let bs := s.stack.binds
  let s1 := forEach (fun b s => s.applyBind b) bs { s with stack := { s.stack with binds := [] } }
  forEach (fun b s => if s.stack.heldBinds.any (fun x => x.k == b.k) then s else s.wr F.LPM_PEND DEV 0 b.k) bs s1

/-- The bindings held for a handover take effect at the boundary behind its drain (R37, R466), in the order of landing among that boundary's
others (R36). -/
def State.drainBinds (s : State) (k : Nat) : State :=
  { s with stack := { s.stack with
      heldBinds := s.stack.heldBinds.filter (fun b => b.k != k)
      binds := forEach insertBind (s.stack.heldBinds.filter (fun b => b.k == k)) s.stack.binds } }

end Sys2Proof.Machine
end

