-- ==== Sys2Proof/Machine/Plane.lean ====
section
/-! DEFINITION. The logic of a plane (R193 to R208, R216, R217, R225): what its cells, wires, tacks, bus lines and multiply-accumulate blocks
do at the edges of the fabric clocks. -/

namespace Sys2Proof.Machine

/-! What a plane configures. -/

/-- The items of a plane, in the order of its frames. Each point of the fabric has one encoding: of items for one point the first counts
(R198). -/
def planeItems (p : Plane) : List PlaneItem := (p.map (fun e => e.2)).flatten

/-- What the plane gives a routing input of a cluster, the source of a wire, of a global line of a row or column, a cluster's shift-enable line,
a ball and the port that takes received flits; of several items the first counts. -/
def planeRoute (p : List PlaneItem) (h : Bool) (cl : Nat) (j : Fin 48) : Option RouteSrc :=
  p.findSome? (fun i => match i with | .route h' cl' j' s => if h' = h ∧ cl'.toNat = cl ∧ j' = j then some s else none | _ => none)
def planeWire (p : List PlaneItem) (h : Bool) (cl : Nat) (w : WireId) : Option FabSig :=
  p.findSome? (fun i => match i with | .wire h' cl' w' s => if h' = h ∧ cl'.toNat = cl ∧ w' = w then some s else none | _ => none)
def planeRow (p : List PlaneItem) (h : Bool) (r n : Nat) : Option FabTap :=
  p.findSome? (fun i => match i with | .row h' r' n' t => if h' = h ∧ r'.val = r ∧ n'.val = n then some t else none | _ => none)
def planeCol (p : List PlaneItem) (h : Bool) (c n : Nat) : Option FabTap :=
  p.findSome? (fun i => match i with | .col h' c' n' t => if h' = h ∧ c'.val = c ∧ n'.val = n then some t else none | _ => none)
def planeShiftEn (p : List PlaneItem) (h : Bool) (cl : Nat) : Option FabSig :=
  p.findSome? (fun i => match i with | .shiftEn h' cl' s => if h' = h ∧ cl'.toNat = cl then some s else none | _ => none)
def planeBall (p : List PlaneItem) (i : Nat) : Option BallCfg :=
  p.findSome? (fun x => match x with | .ball j c => if j.val = i then some c else none | _ => none)
def planeTake (p : List PlaneItem) : Option FabTap :=
  p.findSome? (fun i => match i with | .take t => some t | _ => none)

/-- The cells that a plane configures, with their keys in its state. -/
def planeCells (p : List PlaneItem) : List (Nat × CellCfg) :=
  p.filterMap (fun i => match i with | .cell h x c => some (65536 * bit h + x.toNat, c) | _ => none)

/-- The multiply-accumulate blocks that a plane configures. -/
def planeMacs (p : List PlaneItem) : List (Nat × MacCfg) :=
  p.filterMap (fun i => match i with | .mac h b c => some (128 * bit h + b.val, c) | _ => none)

def cellAt (p : List PlaneItem) (key : Nat) : Option CellCfg := ((planeCells p).find? (fun e => e.1 == key)).map (fun e => e.2)

/-- The driver sites of a bus line (R199): cluster, enable and value of each. -/
def lineDrivers (p : List PlaneItem) (h : Bool) (line : Nat) : List (Nat × FabSig × FabSig) :=
  p.filterMap (fun i => match i with
    | .driver h' cl n en v => if h' = h ∧ cl.toNat / 64 = line / 8 ∧ n.val = line % 8 then some (cl.toNat, en, v) else none
    | _ => none)

/-- The bus lines that have a driver site. -/
def busLines (p : List PlaneItem) : List (Bool × Nat) :=
  (p.filterMap (fun i => match i with | .driver h cl n _ _ => some (h, 8 * (cl.toNat / 64) + n.val) | _ => none)).dedup

/-- The frames of a plane that configure a driver site of a bus line (R201); where none of them does so, every frame of the half
(assumption 96). -/
def driverFrames (p : Plane) (h : Bool) (line : Nat) : List Nat :=
  match (p.filter (fun e => lineDrivers e.2 h line != [])).map (fun e => e.1) with
  | [] => (List.range 900).map (fun i => 900 * bit h + i)
  | l => l

/-- A tack of a plane's table. -/
structure TackEntry where
  up : Bool
  e : Nat
  from_ : Nat × Nat
  to_ : Nat × Nat
  deriving DecidableEq, Repr

/-- The tacks that carry something (R197): an entry with which no later entry of its direction shares a site. -/
def liveTacks (p : List PlaneItem) : List TackEntry :=
  let ts := p.filterMap (fun i => match i with
    | .tack up e f fs t ts => some (⟨up, e.val, (f.toNat, fs.val), (t.toNat, ts.val)⟩ : TackEntry)
    | _ => none)
  ts.filter (fun t => ts.all (fun u => u.up != t.up || decide (u.e ≤ t.e) || (u.from_ != t.from_ && u.to_ != t.to_)))

/-- Cells in SHIFT mode of a half (R194, R463). -/
def shiftCells (p : Plane) (h : Bool) : Nat :=
  ((planeCells (planeItems p)).filter (fun e => e.2.mode == .shift && e.1 / 65536 == bit h)).length

/-- The state in which every element holds its initial value (R206, R444); what no frame configures holds 0. -/
def initState (p : Plane) : PlaneSt :=
  let cs := planeCells (planeItems p)
  { ff := cs.foldl (fun t e => Tab.put t e.1 e.2.ffInit) []
    sh := (cs.filter (fun e => e.2.mode == .shift)).foldl (fun t e => Tab.put t e.1 e.2.shInit) []
    macs := (planeMacs (planeItems p)).foldl (fun t e => Tab.put t e.1 ⟨0, 0, 0, 0, 0, 0, 0, e.2.init⟩) []
    tacks := [] }

def PlaneSt.ffAt (x : PlaneSt) (i : Nat) : Bool := x.ff.get (fun _ => false) i
def PlaneSt.shAt (x : PlaneSt) (i : Nat) : W16 := x.sh.get (fun _ => 0) i
def PlaneSt.macAt (x : PlaneSt) (i : Nat) : MacSt := x.macs.get (fun _ => ⟨0, 0, 0, 0, 0, 0, 0, 0⟩) i

/-- An element's value by its carry mode (R206): 0 and 3 INIT, 1 CARRY, 2 TAKE. -/
def carried {α : Type} (mode : Fin 4) (init own out : α) : α := if mode = 1 then own else if mode = 2 then out else init

/-- What an incoming plane's elements take at a swap (R206). -/
def swapState (inc : Plane) (own out : PlaneSt) : PlaneSt :=
  let cs := planeCells (planeItems inc)
  { ff := cs.foldl (fun t e => Tab.put t e.1 (carried e.2.ffCarry e.2.ffInit (own.ffAt e.1) (out.ffAt e.1))) []
    sh := (cs.filter (fun e => e.2.mode == .shift)).foldl (fun t e => Tab.put t e.1 (carried e.2.shCarry e.2.shInit (own.shAt e.1) (out.shAt e.1))) []
    macs := (planeMacs (planeItems inc)).foldl
      (fun t e => Tab.put t e.1 (carried e.2.carry ⟨0, 0, 0, 0, 0, 0, 0, e.2.init⟩ (own.macAt e.1) (out.macAt e.1))) []
    tacks := own.tacks }

/-! The logic between edges. -/

/-- What the logic of a plane sees in a fabric cycle: its items, its state, the signals of the hard blocks, the bus lines that read 0, and what
a signal shows that the spec leaves undefined (a contended line, a loop without a flip-flop). -/
structure FabEnv where
  items : List PlaneItem
  st : PlaneSt
  port : PortSig → Bool
  off : Bool → Nat → Bool
  undef : Bool

/-- A point of the fabric whose value is asked for: a signal of a cluster, a cell's output, its table's, its carry in and out, a wire, a global
line of a row or column. -/
inductive FabNode where
  | sig (h : Bool) (cl : Nat) (v : FabSig)
  | out (key : Nat)
  | table (key : Nat)
  | cin (key : Nat)
  | cout (key : Nat)
  | wire (h : Bool) (cl : Nat) (w : WireId)
  | row (h : Bool) (r n : Nat)
  | col (h : Bool) (c n : Nat)
  deriving DecidableEq, Repr

/-- The cluster `n` away against direction `d` (0 up, 1 right, 2 down, 3 left), where a line that ends in cluster `cl` begins. -/
def lineFrom (cl d n : Nat) : Option Nat :=
  let r := cl / 64
  let c := cl % 64
  match d % 4 with
  | 0 => if r + n < 64 then some (cl + 64 * n) else none
  | 1 => if n ≤ c then some (cl - n) else none
  | 2 => if n ≤ r then some (cl - 64 * n) else none
  | _ => if c + n < 64 then some (cl + n) else none

/-- The value of a point, through at most `fuel` steps of logic and routing (R193, R195 to R199). -/
def FabEnv.value (e : FabEnv) : Nat → FabNode → Bool
  | 0, _ => e.undef
  | f + 1, node =>
    match node with
    | .sig _ _ .low => false
    | .sig h cl (.cell i) => e.value f (.out (65536 * bit h + 16 * cl + i.val))
    | .sig h cl (.route j) =>
      let line := fun (o : Option Nat) (w : WireId) => match o with | some c => e.value f (.wire h c w) | none => false
      match planeRoute e.items h cl j with
      | none => false
      | some (.len1 n) => line (lineFrom cl n.val 1) (.len1 n)
      | some (.len2 n) => line (lineFrom cl n.val 2) (.len2 n)
      | some (.len4 n tap) => line (lineFrom cl n.val (if tap then 2 else 4)) (.len4 n)
      | some (.row n) => e.value f (.row h (cl / 64) n.val)
      | some (.col n) => e.value f (.col h (cl % 64) n.val)
      | some (.tack s) =>
        match (liveTacks e.items).find? (fun t => t.up == h && t.to_ == (cl, s.val)) with
        | some t => e.st.tacks.get (fun _ => false) (512 * bit t.up + t.e)
        | none => false
      | some (.mac b i) => bitAt (e.st.macAt (128 * bit h + b.val)).acc.toNat i.val
      | some (.port p) => e.port p
    | .out key =>
      match cellAt e.items key with
      | none => false
      | some c => if c.regOut then e.st.ffAt key else e.value f (.table key)
    | .table key =>
      match cellAt e.items key with
      | none => false
      | some c =>
        let h := key / 65536 == 1
        let x := fun (s : FabSig) => e.value f (.sig h (key % 65536 / 16) s)
        let n := bit (x c.a) + 2 * bit (x c.b) + 4 * bit (x c.c)
        match c.mode with
        | .logic => bitAt c.table.toNat (n + 8 * bit (x c.d))
        | .shift => bitAt (e.st.shAt key).toNat (n + 8 * bit (x c.d))
        | .arith => bitAt c.table.toNat n != e.value f (.cin key)
    | .cin key =>
      if key % 16 ≠ 0 then e.value f (.cout (key - 1))
      else if key % 65536 < 1024 then false
      else e.value f (.cout (key - 1024 + 15))
    | .cout key =>
      match cellAt e.items key with
      | none => false
      | some c =>
        let h := key / 65536 == 1
        let x := fun (s : FabSig) => e.value f (.sig h (key % 65536 / 16) s)
        let n := bit (x c.a) + 2 * bit (x c.b) + 4 * bit (x c.c)
        if c.mode ≠ .arith then false
        else if bitAt c.table.toNat n then e.value f (.cin key) else bitAt c.table.toNat (8 + n)
    | .wire h cl w =>
      match planeWire e.items h cl w with
      | none => e.value f (.out (65536 * bit h + 16 * cl))
      | some s => e.value f (.sig h cl s)
    | .row h r n =>
      if n < 8 then
        if e.off h (8 * r + n) then false
        else match (lineDrivers e.items h (8 * r + n)).filter (fun d => e.value f (.sig h d.1 d.2.1)) with
          | [] => false
          | [d] => e.value f (.sig h d.1 d.2.2)
          | _ => e.undef
      else
        match planeRow e.items h r n with
        | none => false
        | some t => if t.cluster.toNat / 64 = r then e.value f (.sig h t.cluster.toNat t.sig) else false
    | .col h c n =>
      match planeCol e.items h c n with
      | none => false
      | some t => if t.cluster.toNat % 64 = c then e.value f (.sig h t.cluster.toNat t.sig) else false

/-- Steps of logic that a path may have: beyond the longest carry chain and every wire on its way. -/
def fabDepth : Nat := 8192

/-- A signal of a half. -/
def FabEnv.tap (e : FabEnv) (h : Bool) (t : FabTap) : Bool := e.value fabDepth (.sig h t.cluster.toNat t.sig)

/-- A two's-complement operand. -/
def FabEnv.operand (e : FabEnv) (h : Bool) (n : Nat) (ts : List FabTap) : Int :=
  toSigned n (((List.range n).map (fun i => match ts[i]? with | some t => bit (e.tap h t) * 2 ^ i | none => 0)).sum)

/-! An edge. -/

/-- A flip-flop at an edge of its domain (R193). -/
def FabEnv.nextFf (e : FabEnv) (key : Nat) (c : CellCfg) : Bool :=
  let x := fun (s : FabSig) => e.value fabDepth (.sig (key / 65536 == 1) (key % 65536 / 16) s)
  let old := e.st.ffAt key
  if (match c.en with | some s => x s | none => true) then
    (if (match c.clr with | some s => x s | none => false) then false
     else match c.direct with
       | some s => x s
       | none => e.value fabDepth (.table key))
  else old

/-- A shift table at an edge of its cell's domain (R193): it shifts while its cluster's shift-enable line is 1. -/
def FabEnv.nextSh (e : FabEnv) (key : Nat) (c : CellCfg) : W16 :=
  let h := key / 65536 == 1
  let cl := key % 65536 / 16
  let x := fun (s : FabSig) => e.value fabDepth (.sig h cl s)
  let old := e.st.shAt key
  match planeShiftEn e.items h cl with
  | none => old
  | some s => if x s then (old <<< 1) + BitVec.ofNat 16 (bit (x c.shiftIn)) else old

/-- A multiply-accumulate block at an edge of its domain (R217): three cycles from inputs to accumulator. The two 9 × 9 products go to the halves
of the accumulator. -/
def FabEnv.nextMac (e : FabEnv) (key : Nat) (c : MacCfg) : MacSt :=
  let h := key / 128 == 1
  let x := e.st.macAt key
  let a : Int := match c.pre with | 0 => x.a | 1 => toSigned 18 (ofSigned 18 (x.d + x.a)) | _ => toSigned 18 (ofSigned 18 (x.d - x.a))
  let lo := fun (v : Int) => toSigned 9 (ofSigned 18 v)
  let hi := fun (v : Int) => toSigned 9 (ofSigned 18 v / 512)
  let above : BitVec 48 := if c.casc ∧ key % 16 ≠ 0 then (e.st.macAt (key - 1)).acc else 0
  let prod : BitVec 48 := (if c.two9 then BitVec.ofNat 48 (ofSigned 24 x.p + 2 ^ 24 * ofSigned 24 x.q) else BitVec.ofInt 48 x.p) + above
  let halves := fun (f : Int → Int → Int) =>
    let g := fun (k : Nat) => ofSigned 24 (f (toSigned 24 (x.acc.toNat / 2 ^ (24 * k))) (toSigned 24 (prod.toNat / 2 ^ (24 * k))))
    BitVec.ofNat 48 (g 0 + 2 ^ 24 * g 1)
  { a := e.operand h 18 c.a, b := e.operand h 18 c.b, d := e.operand h 18 c.d
    op1 := bit (e.tap h c.op0) + 2 * bit (e.tap h c.op1)
    p := if c.two9 then lo a * lo x.b else a * x.b
    q := if c.two9 then hi a * hi x.b else 0
    op2 := x.op1
    acc := match x.op2 with
      | 0 => x.acc
      | 1 => prod
      | 2 => if c.two9 then halves (· + ·) else x.acc + prod
      | _ => if c.two9 then halves (· - ·) else x.acc - prod }

/-- The plane's state after an edge of the domains that `clk` names, by half and domain (R205, R216). Everything is taken before the edge. -/
def FabEnv.edge (e : FabEnv) (clk : Bool → Nat → Bool) : PlaneSt :=
  let on := fun (key size : Nat) (dom : Fin 4) => clk (key / size == 1) dom.val
  let cs := (planeCells e.items).filter (fun c => on c.1 65536 c.2.dom)
  { ff := cs.foldl (fun t c => Tab.put t c.1 (e.nextFf c.1 c.2)) e.st.ff
    sh := (cs.filter (fun c => c.2.mode == .shift)).foldl (fun t c => Tab.put t c.1 (e.nextSh c.1 c.2)) e.st.sh
    macs := ((planeMacs e.items).filter (fun c => on c.1 128 c.2.dom)).foldl (fun t c => Tab.put t c.1 (e.nextMac c.1 c.2)) e.st.macs
    tacks := (liveTacks e.items).foldl (fun t x =>
      if clk (!x.up) 0 then Tab.put t (512 * bit x.up + x.e) (e.value fabDepth (.wire (!x.up) x.from_.1 (.tack (Fin.ofNat 4 x.from_.2)))) else t) e.st.tacks }

/-- The values that the output balls drive (R225): the second ball of a pair drives the complement. -/
def FabEnv.balls (e : FabEnv) : Tab Bool :=
  let drive := fun (i : Nat) => match planeBall e.items i with
    | some (.output h v) => some (e.tap h v)
    | some (.tri h v en) => if e.tap h en then some (e.tap h v) else none
    | _ => none
  let paired := fun (j : Nat) => e.items.any (fun x => match x with | .pair i => i.val == j | _ => false)
  (List.range 4).foldl (fun t i =>
    let v := if i % 2 = 1 ∧ paired (i / 2) = true then (drive (i - 1)).map (fun b => !b) else drive i
    match v with
    | some b => Tab.put t i b
    | none => t) []

/-! The fabric of a patch. -/

/-- The fabric cycles that a unit's beats take. -/
def RxBeats.beats (b : RxBeats) : Nat := max 1 (ceilDiv b.bytes.length 32)

/-- The beat that a receive stream port offers in a fabric cycle, with its number (R226, R227). -/
def FabSt.beat (x : FabSt) (slot c : Nat) : Option (RxBeats × Nat) :=
  ((x.rx.get (fun _ => []) slot).find? (fun b => decide (b.at_ ≤ c) && decide (c < b.at_ + b.beats))).map (fun b => (b, c - b.at_))

/-- A port's outputs towards the fabric. -/
def State.portOut (s : State) (k port : Nat) : PortOut := s.ports.get (fun _ => ⟨false, false, 0, []⟩) (8 * k + port)

/-- A bit of a list of bytes, the first byte in the low bits. -/
def byteBit (bs : List Byte) (i : Nat) : Bool := bitAt (nthD 0 bs (i / 8)).toNat (i % 8)

/-- The check-value unit of a slot shows an outcome in a fabric cycle (R300). -/
def State.cvShows (s : State) (k slot c : Nat) : Bool :=
  let x := s.cvAt k (slot % 8)
  !x.active && x.resAt == c && c != 0 && cvField F.CV_ATTACH x.cfg == slot / 8

/-- Bytes in a prefill buffer. -/
def LaneSt.level (x : LaneSt) : Nat := (x.prefill.map (fun u => u.left)).sum

/-- A transmit stream port can take a beat (R288): the slot's SRC is FABRIC or BOTH and its prefill buffer has room. -/
def State.txReady (s : State) (k slot : Nat) : Bool :=
  match s.slotLane k slot with
  | some l => decide (2 ≤ s.erd F.PSLOT_SRC (s.pb k) slot) && s.txRuns l && s.firstLane l == l && decide ((s.laneAt l).level < 4096)
  | none => false

/-- Flits in a patch's send queue. -/
def FabSt.sending (x : FabSt) : Nat := (x.sendQ.map (fun m => m.flits.length)).sum

/-- What the hard blocks show the fabric of a patch in fabric cycle `c` (R218, R220, R222, R225, R226, R235, R288, R300, R305). -/
def State.portSig (s : State) (k c : Nat) : PortSig → Bool
  | .rxValid i => ((s.fabAt k).beat i.val c).isSome
  | .rxData i n => match (s.fabAt k).beat i.val c with | some (b, j) => byteBit (b.bytes.drop (32 * j)) n.val | none => false
  | .rxBytes i n => match (s.fabAt k).beat i.val c with | some (b, j) => bitAt (min 32 (b.bytes.length - 32 * j) - 1) n.val | none => false
  | .rxSou i => match (s.fabAt k).beat i.val c with | some (_, j) => j == 0 | none => false
  | .rxEou i => match (s.fabAt k).beat i.val c with | some (b, j) => j + 1 == b.beats | none => false
  | .rxUnit i n => match (s.fabAt k).beat i.val c with | some (b, _) => bitAt b.unit n.val | none => false
  | .rxTs i n => match (s.fabAt k).beat i.val c with | some (b, _) => bitAt b.ts.num n.val | none => false
  | .rxMark i n => match (s.fabAt k).beat i.val c with | some (b, _) => bitAt b.mark n.val | none => false
  | .cuSou i => match (s.fabAt k).beat i.val c with | some (b, j) => b.sou.contains j | none => false
  | .cvValid i => s.cvShows k i.val c
  | .cvRes i n => s.cvShows k i.val c && bitAt (s.cvAt k (i.val % 8)).res n.val
  | .txReady i => s.txReady k i.val
  | .valid p => (s.portOut k p.val).valid
  | .deny p => (s.portOut k p.val).deny
  | .data p n => byteBit (s.portOut k p.val).data n.val
  | .high b => s.flag F.QC_HIGH (s.pb k) b.val
  | .ready => decide ((s.fabAt k).sending + 16 ≤ 64)
  | .flitValid => !(s.fabAt k).recvQ.isEmpty
  | .flit n => bitAt ((s.fabAt k).recvQ.headD 0).toNat n.val
  | .line l => s.asserted l.val && decide (s.time.run / 4 < c)
  | .ball i => Config.ballIn (4 * k + i.val) c

/-- The plane that is active, as its logic sees the present cycle. -/
def State.fabEnv (s : State) (k c : Nat) : FabEnv :=
  let x := s.fabAt k
  { items := planeItems x.aCfg, st := x.aSt, port := s.portSig k c
    off := fun h line => x.lines.any (fun b => b.half == h && b.line == line && b.off)
    undef := bitAt s.freeWord.toNat 0 }

/-- DISABLED of R203. -/
def State.showLines (s : State) (k : Nat) : State := s.wr F.CONT_DISABLED (s.pb k) ((s.fabAt k).lines.filter (fun x => x.off)).length

/-- The log entry of a line, if one is valid (R203). -/
def State.logOf (s : State) (k half line : Nat) : Option Nat :=
  let b := s.pb k
  (List.range (s.rd F.CONT_COUNT b)).find? (fun e => s.rd F.CLOG_LINE b e == line && s.rd F.CLOG_HALF b e == half)

/-- Logs a detection on a line (R202 to R204): its entry is updated, or a new one takes the oldest place. -/
def State.logContention (s : State) (k half line st : Nat) : State :=
  let b := s.pb k
  match s.logOf k half line with
  | some e => ((s.wr F.CLOG_STATE b st e).bump F.CLOG_RECUR b 1 e).wr F.CLOG_STITCH b s.stitch.toNat e
  | none =>
    let e := (s.fabAt k).logNext
    let s1 := if s.rd F.CONT_COUNT b = 16 then s.bump F.CONT_LOST b else s.bump F.CONT_COUNT b
    let s2 := (((s1.wr F.CLOG_LINE b line e).wr F.CLOG_HALF b half e).wr F.CLOG_STATE b st e).wr F.CLOG_RECUR b 1 e
    (s2.wr F.CLOG_STITCH b s.stitch.toNat e).setFab k { s.fabAt k with logNext := (e + 1) % 16 }

/-- A line that has been in contention. -/
def State.busLine (s : State) (k : Nat) (half : Bool) (line : Nat) : Option BusLine :=
  (s.fabAt k).lines.find? (fun b => b.half == half && b.line == line)

/-- Contention on a line that is not disabled (R200, R202): it is disabled and logged; a recurrence within 1,024 stitches of its re-enabling
locks it. -/
def State.contend (s : State) (k : Nat) (half : Bool) (line : Nat) : State :=
  let again := match s.busLine k half line with
    | some b => (match b.reen with | some r => decide (s.stitch.toNat ≤ r.toNat + 1024) | none => false)
    | none => false
  let new : BusLine := { half := half, line := line, off := true, locked := again, need := driverFrames (s.fabAt k).aCfg half line, reen := none }
  let s1 := s.logContention k (bit half) line (if again then 2 else 0)
  let s2 := (s1.setFab k { s1.fabAt k with lines := (s1.fabAt k).lines.filter (fun b => !(b.half == half && b.line == line)) ++ [new] }).showLines k
  (s2.event .busContention blkPATCH (s.ppos k)).raiseP k 5

/-- The bus lines on which more than one driver is enabled in a cycle (R200). -/
def FabEnv.contended (e : FabEnv) : List (Bool × Nat) :=
  (busLines e.items).filter (fun l =>
    !e.off l.1 l.2 && decide (2 ≤ ((lineDrivers e.items l.1 l.2).filter (fun d => e.value fabDepth (.sig l.1 d.1 d.2.1))).length))

/-- A half's domain has an edge in a fabric cycle of the stitch, its gates being open (R216, R498). -/
def State.domainEdge (s : State) (k j : Nat) (upper : Bool) (dom : Nat) : Bool :=
  j % 2 ^ dom == 0 && s.gateIsOpen ((if upper then 75 else 57) + s.ppos k) && s.gateIsOpen ((if upper then 44 else 34) + dom)

/-- TXQ and RXQ (R224). -/
def State.showExchange (s : State) (k : Nat) : State :=
  (s.wr F.XCH_TXQ (s.pb k) (s.fabAt k).sending).wr F.XCH_RXQ (s.pb k) (s.fabAt k).recvQ.length

/-- The fabric takes a received flit in this cycle (R222): while the signal that its plane gives the port is 1, or at once where it gives none. -/
def FabEnv.takes (e : FabEnv) : Bool :=
  match planeTake e.items with
  | some t => e.tap false t
  | none => true

/-- Fabric cycle `j` of the present stitch ends with its edge (R193, R200, R205, R216). -/
def State.fabricCycle (s : State) (k j : Nat) : State :=
  let e := s.fabEnv k (s.time.run / 4 + j)
  let bad := e.contended
  let s1 := if bad = [] then s else forEach (fun (l : Bool × Nat) s => s.contend k l.1 l.2) bad (s.tick (4 * j)).took
  let st := e.edge (s.domainEdge k j)
  let x := s1.fabAt k
  let took := x.recvQ ≠ [] ∧ e.takes = true
  let s2 := s1.setFab k { x with aSt := st, balls := { e with st := st }.balls, recvQ := if took then x.recvQ.drop 1 else x.recvQ }
  if took then s2.showExchange k else s2

/-- The fabric has run up to fabric cycle `n` of the stitch. Without a plane's logic only received flits move, one each cycle. -/
def State.clockTo (s : State) (k n : Nat) : State :=
  let x := s.fabAt k
  if n ≤ x.edge ∨ (x.aCfg = [] ∧ x.recvQ = []) then s
  else if ¬ s.fabricRuns k then s.setFab k { x with edge := n }
  else if planeItems x.aCfg = [] then (s.setFab k { x with edge := n, recvQ := x.recvQ.drop (n - x.edge) }).showExchange k
  else
    let s1 := forEach (fun j s => s.fabricCycle k j) ((List.range (n - x.edge)).map (fun i => x.edge + i)) s
    s1.setFab k { s1.fabAt k with edge := n }

/-- The fabric has run up to the offset reached. -/
def State.clockNow (s : State) (k : Nat) : State := s.clockTo k (s.off / 4 + 1)

/-- The fabric runs to the end of the stitch, and the next one begins with its cycle 0; beats that were taken are forgotten. -/
def State.clockStitch (s : State) (k : Nat) : State :=
  let s1 := s.clockTo k (s.period / 4)
  let x := s1.fabAt k
  let c := (s.time.run + s.period) / 4
  let keep := fun (b : RxBeats) => decide (c < b.at_ + b.beats)
  if x.edge = 0 ∧ x.rx = [] then s1
  else s1.setFab k { x with edge := 0, rx := (x.rx.map (fun e => (e.1, e.2.filter keep))).filter (fun e => e.2 != []) }

end Sys2Proof.Machine
end

