-- ==== Sys2Proof/Machine/Fabric.lean ====
section
/-! DEFINITION. The fabric of a logical patch (R199 to R228): contention, resident planes, queue controllers, fabric ports and the exchange
network. -/

namespace Sys2Proof.Machine

/-! Contention (R199 to R204). -/

/-- BUS_CONTENTION (R200, R202): the line's detector finds the line's value at odds with a driver's. -/
def execBusContention (k : LPatch) (half : Bool) (line : BitVec 9) (off : Nat) (s : State) : Out :=
  act s (s.fabricRuns k.val && !(match s.busLine k.val half line.toNat with | some b => b.off | none => false))
    (((s.tick off).clockNow k.val).contend k.val half line.toNat)

/-- Step 3 of a boundary: lines whose frames have been read back clean are re-enabled (R201). -/
def State.lineBoundary (s : State) (k : Nat) : State :=
  let b := s.pb k
  let back := fun (x : BusLine) => x.off && x.need.isEmpty && !x.locked
  let ready := (s.fabAt k).lines.filter back
  if ready = [] then s
  else
    let s1 := forEach (fun (x : BusLine) s =>
      match s.logOf k (bit x.half) x.line with
      | none => s
      | some e => s.wr F.CLOG_STATE b 1 e) ready s
    (s1.setFab k { s1.fabAt k with
      lines := (s1.fabAt k).lines.map (fun x => if back x then { x with off := false, reen := some s.stitch } else x) }).showLines k

/-- A swap or a release re-enables every line; the log entries keep their states (R202). -/
def State.clearLines (s : State) (k : Nat) : State :=
  (s.setFab k { s.fabAt k with lines := (s.fabAt k).lines.map (fun x => if x.off then { x with off := false, locked := false, reen := some s.stitch } else x) }).showLines k

/-- A patch with an active plane is released (R442), unless a disturbing test holds it out of release (R481): its elements take their initial
values (R206), its swaps count from 0 (R214), and its first edge is the one at offset 12. -/
def State.releasePatch (s : State) (k : Nat) : State :=
  let x := s.fabAt k
  if x.active.isSome ∧ k ∉ s.res.testing then
    ((s.setFab k { x with released := true, rxUnit := [], aSt := initState x.aCfg, edge := 3 }).wr F.PLS_PLANE_SWAPS (s.pb k) 0).clearLines k
  else s

/-- A patch goes out of release. -/
def State.holdPatch (s : State) (k : Nat) : State :=
  if (s.fabAt k).released then s.setFab k { s.fabAt k with released := false } else s

/-! Resident planes (R205 to R215). -/

/-- A write of PLANE_CTL (R211 to R213): it acts at the next boundary, or after the drain of a handover in progress. -/
def State.writePlaneCtl (s : State) (k : Nat) (v : W32) (be : Nat) : State :=
  if be % 16 = 0 then s
  else
    let b := s.pb k
    let s1 := s.mergeWrite (F.PLC_LOAD_SLOT.at b 0 0) v be
    let req : PlaneReq :=
      { load := if F.PLC_LOAD_GO.wants v be = 1 then some (s1.rd F.PLC_LOAD_SLOT b) else none
        swap := F.PLC_SWAP.wants v be == 1
        arm := s1.flag F.PLC_SWAP_ON_TRIG b
        line := s1.rd F.PLC_SWAP_LINE b }
    let x := s1.fabAt k
    s1.setFab k (if s.hover k then { x with heldReqs := x.heldReqs ++ [req] } else { x with reqs := x.reqs ++ [req] })

/-- A write of PLANE_CTL by way of the patch's position. -/
def State.planeWrite (s : State) (k : Nat) (v : W32) (be : Nat) : State := s.viaPatch k 0x100 v be (s.writePlaneCtl k v be)

/-- LOAD_GO (R209): a write of PLANE_CTL that requests a load. -/
def execLoadGo (k : LPatch) (v : W32) (s : State) : Out := act s (s.stackOn && F.PLC_LOAD_GO.wants v 15 == 1) (s.planeWrite k.val v 15)

/-- SWAP (R210): a write of PLANE_CTL that requests a swap. -/
def execSwap (k : LPatch) (v : W32) (s : State) : Out := act s (s.stackOn && F.PLC_SWAP.wants v 15 == 1) (s.planeWrite k.val v 15)

/-- SWAP_ON_TRIG (R211): every write of PLANE_CTL arms or disarms. -/
def execSwapOnTrig (k : LPatch) (v : W32) (s : State) : Out := act s s.stackOn (s.planeWrite k.val v 15)

/-- Frames of the load in progress written so far (R209, R214). -/
def State.showFrames (s : State) (k : Nat) : State := s.wr F.PLS_LOAD_FRAMES (s.pb k) (1800 * (38400 - (s.fabAt k).loadLeft) / 38400)

/-- PLANE_LOAD_END (R209): the last frame is written, in the stitch in which the 38,400 root cycles from offset 8 on end; or, with `bad`, a frame failed its code twice, which drops a swap that waits. -/
def execPlaneLoadEnd (k : LPatch) (bad : Bool) (s : State) : Out :=
  let b := s.pb k.val
  let x := s.fabAt k.val
  let s1 := if bad then
      ((((s.wr F.PLS_LOADING b 0).wr F.PLS_LOAD_BAD b 1).wr F.PLS_SWAP_PEND b 0).setFab k.val
        { x with reqs := match x.loadNext with
                  | none => x.reqs
                  | some _ => { load := x.loadNext, swap := false, arm := x.armed.isSome, line := x.armed.getD 0 } :: x.reqs
                 loadNext := none }).event .planeLoadBad blkPATCH (s.ppos k.val) [x.loadSlot]
    else (s.setFab k.val { x with loadDone := true, loadLeft := 0 }).wr F.PLS_LOAD_FRAMES b 1800
  act s (s.stackOn && !s.hover k.val && s.flag F.PLS_LOADING b && !x.loadDone && (bad || decide (x.loadLeft + 8 ≤ s.period))) (s1.raiseP k.val 8)

/-- A load starts (R209, R210). -/
def State.startLoad (s : State) (k slot : Nat) : State :=
  let b := s.pb k
  if s.rd F.DIR_VALID b slot = 0 then s.wr F.PLS_LOAD_EMPTY b 1
  else
    let s1 := ((((s.wr F.PLS_LOADING b 1).wr F.PLS_SHADOW_VALID b 0).wr F.PLS_LOAD_EMPTY b 0).wr F.PLS_LOAD_BAD b 0).wr F.PLS_LOAD_FRAMES b 0
    s1.setFab k { s1.fabAt k with loadLeft := 38400, loadSlot := slot, loadDone := false }

/-- The swap (R206, R207, R210, R211): active and shadow change places, and every request that fell due is satisfied. The outgoing plane has
its edge at offset 4, the edge at offset 8 is withheld, and the incoming plane's first edge is the one at offset 12. -/
def State.swapPlanes (s0 : State) (k : Nat) : State :=
  let s := s0.clockTo k 2
  let b := s.pb k
  let x := s.fabAt k
  let s1 := (((s.setFab k { x with active := x.shadow, shadow := x.active, armed := none, aCfg := x.sCfg, sCfg := x.aCfg,
                                   aSt := swapState x.sCfg x.sSt x.aSt, sSt := x.aSt, edge := 3 }).wr F.PLS_ACTIVE_SRC b (s.rd F.PLS_SHADOW_SRC b)).wr
    F.PLS_SHADOW_SRC b (s.rd F.PLS_ACTIVE_SRC b)).wr F.PLS_SWAP_PEND b 0
  (((s1.wr F.PLS_ARMED b 0).incr F.PLS_PLANE_SWAPS b).clearLines k).raiseP k 8

/-- A swap has fallen due (R210): it takes place, or waits for the load in progress, or there is nothing to swap. -/
def State.dueSwap (s : State) (k : Nat) : State :=
  if s.flag F.PLS_SHADOW_VALID (s.pb k) then s.swapPlanes k
  else if s.flag F.PLS_LOADING (s.pb k) then s.wr F.PLS_SWAP_PEND (s.pb k) 1
  else s

/-- The patch is armed on one of the lines (R211). -/
def State.armedOn (s : State) (k : Nat) (lines : List Nat) : Bool := match (s.fabAt k).armed with | some l => decide (l ∈ lines) | none => false

/-- The load in progress goes on for a stitch of `p` root cycles, or its shadow plane becomes valid, every element at its initial value
(R209). -/
def State.loadOn (s : State) (p k : Nat) : State :=
  let b := s.pb k
  let x := s.fabAt k
  if ¬ s.flag F.PLS_LOADING b ∨ s.hover k = true then s
  else if x.loadDone then
    let s2 := ((s.wr F.PLS_LOADING b 0).wr F.PLS_SHADOW_VALID b 1).wr F.PLS_SHADOW_SRC b x.loadSlot
    let cfg := x.store.get (fun _ => []) x.loadSlot
    s2.setFab k { x with shadow := some (s.rd F.DIR_PLANE_ID b x.loadSlot), sCfg := cfg, sSt := initState cfg, loadDone := false }
  else (s.setFab k { x with loadLeft := x.loadLeft - p }).showFrames k

/-- The plane requests of a patch take effect (R210, R211): the swap that falls due, then a load; the last LOAD_GO counts, and one that meets a
swap still waiting waits with it. -/
def State.planeRequests (s1 : State) (lines : List Nat) (k : Nat) : State :=
  let b := s1.pb k
  let x := s1.fabAt k
  let trig := s1.armedOn k lines
  let s2 := match x.reqs.getLast? with
    | none => s1
    | some q => (s1.setFab k { x with armed := if q.arm then some q.line else none, reqs := [] }).wr F.PLS_ARMED b (bit q.arm)
  let due := s2.flag F.PLS_SWAP_PEND b || trig || x.reqs.any (fun q => q.swap)
  let load := (x.reqs.filterMap (fun q => q.load)).getLast?
  let s3 := if due then s2.dueSwap k else s2
  let waits := s3.flag F.PLS_SWAP_PEND b && s2.flag F.PLS_SWAP_PEND b
  match (match load with | some slot => some slot | none => (s3.fabAt k).loadNext) with
  | none => s3
  | some slot =>
    if waits then s3.setFab k { s3.fabAt k with loadNext := some slot }
    else (s3.setFab k { s3.fabAt k with loadNext := none }).startLoad k slot

/-- Step 3 of a boundary for a patch's planes (R209 to R212). `p` is the period of the stitch that ended; `lines` are the lines that step 1
latched. -/
def State.planeBoundary (s : State) (p : Nat) (lines : List Nat) (k : Nat) : State :=
  if s.posView (s.ppos k) != .normal then s else (s.loadOn p k).planeRequests lines k

/-- A load in progress is abandoned, to begin again later (R212). -/
def State.restartLoad (s : State) (k : Nat) : State :=
  if s.flag F.PLS_LOADING (s.pb k) then (s.setFab k { s.fabAt k with loadLeft := 38400, loadDone := false }).wr F.PLS_LOAD_FRAMES (s.pb k) 0 else s

/-- At a freeze the fabric stops before its edge at offset 8 (R463), the messages that have left the port are in the network (R223), and the load
in progress is abandoned; it begins again after the drain (R212). -/
def State.planeFreeze (s0 : State) (k : Nat) : State :=
  let s1 := s0.clockTo k 2
  let s := if (s1.fabAt k).sendQ = [] then s1
    else s1.setFab k { s1.fabAt k with sendQ := (s1.fabAt k).sendQ.map (fun m => { m with inNet := m.inNet || decide (m.left ≤ s1.rootNow) }) }
  s.restartLoad k

/-! Queue controllers (R218, R219). -/

/-- The entry size of a bank in bytes. -/
def State.entrySize (s : State) (k b : Nat) : Nat := 8 * 2 ^ s.erd F.QC_ESIZE (s.pb k) b

/-- Entries that a bank's queue can hold. -/
def State.queueRoom (s : State) (k b : Nat) : Nat := 0x100000 / s.entrySize k b

/-- LEVEL, FULL, EMPTY and HIGH of a bank (R219). -/
def State.showQueue (s : State) (k b : Nat) : State :=
  let pb := s.pb k
  let n := if s.erd F.QC_MODE pb b = 0 then 0 else (s.bankAt (s.ppos k) b).qlevel
  let high := s.erd F.QC_MODE pb b != 0 && decide (s.rd F.QC_HIWAT pb b * 1024 ≤ n * s.entrySize k b)
  ((((s.wr F.QC_LEVEL pb n b).wr F.QC_FULL pb (bit (n != 0 && n == s.queueRoom k b)) b).wr F.QC_EMPTY pb (bit (n == 0)) b).wr F.QC_HIGH pb
    (bit high) b)

/-- A write of a queue configuration word; a change of MODE or ESIZE acts at the next boundary (R218). -/
def State.writeQueueCfg (s : State) (k b : Nat) (v : W32) (be : Nat) : State :=
  (s.stageWrite (F.QC_MODE.at (s.pb k) b 0) v be).showQueue k b

/-- QUEUE_MODE_WRITE (R218). -/
def execQueueModeWrite (k : LPatch) (bank : Bank) (v : W32) (be : BitVec 4) (s : State) : Out :=
  act s s.stackOn (s.viaPatch k.val (0x200 + 0x10 * bank.val) v be.toNat (s.writeQueueCfg k.val bank.val v be.toNat))

/-- Empties the queues whose MODE or ESIZE changed, before the words written take effect (R218). -/
def State.queueBoundary (s : State) (k : Nat) : State :=
  forN (fun b s =>
    let pb := s.pb k
    if F.QC_MODE.at pb b 0 ∈ s.dirty ∧ (s.rd F.QC_MODE pb b ≠ s.erd F.QC_MODE pb b ∨ s.rd F.QC_ESIZE pb b ≠ s.erd F.QC_ESIZE pb b) then
      let s1 := { s with eff := s.eff.put (F.QC_MODE.at pb b 0) (s.reg (F.QC_MODE.at pb b 0)) }
      (s1.setBank (s.ppos k) b { s1.bankAt (s.ppos k) b with qhead := 0, qtail := 0, qlevel := 0 }).showQueue k b
    else s) 8 s

/-- A fabric port's outputs change, once the fabric has run up to this instant. -/
def State.setPort (s0 : State) (k port : Nat) (x : PortOut) : State :=
  let s := s0.clockNow k
  { s with ports := s.ports.put (8 * k + port) x }

/-- The bank's owner is the one named (R143, R218). -/
def State.ownedBy (s : State) (k b code : Nat) : Bool := (s.bankAt (s.ppos k) b).owner == code

/-- An access by a block that does not own the bank: a fabric port gets no data and DENY (R329). -/
def State.denyPort (s : State) (k code n : Nat) : State :=
  if 8 ≤ code then s.setPort k (code - 8) { valid := false, deny := true, status := 0, data := List.replicate n 0 } else s

/-- Reads `n` bytes of a bank from a byte offset; `seen` is what the decoder meets in each word, clean where it says nothing. Answers the
bytes and whether a word returned ST_POISON. -/
def State.bankGet (s : State) (k b a n : Nat) (seen : List Ecc) : State × List Byte × Bool :=
  (List.range (ceilDiv n 8)).foldl (fun (p : State × List Byte × Bool) i =>
    let r := p.1.bankRead (s.ppos k) b ((a / 8 + i) % 131072) (nthD .clean seen i)
    (r.1, p.2.1 ++ leBytes 8 r.2.1.toNat, p.2.2 || r.2.2)) (s, [], false)

/-- Writes bytes under a mask to a bank from a byte offset; answers whether a merge met poison. -/
def State.bankPut (s : State) (k b a : Nat) (data : List Byte) (mask : List Bool) (seen : List Ecc) : State × Bool :=
  (List.range (ceilDiv mask.length 8)).foldl (fun (p : State × Bool) i =>
    let v := BitVec.ofNat 64 (leNat ((data.drop (8 * i)).take 8))
    let m := (List.range 8).foldl (fun m j => if nthD false mask (8 * i + j) then m + 2 ^ j else m) 0
    let r := p.1.bankWrite (s.ppos k) b ((a / 8 + i) % 131072) v m (nthD .clean seen i)
    (r.1, p.2 || r.2)) (s, false)

/-- QUEUE_PUSH (R218): the owner pushes an entry in FIFO or RING mode. -/
def execQueuePush (k : LPatch) (bank : Bank) (owner : BitVec 4) (data : List Byte) (s : State) : Out :=
  let b := bank.val
  let pb := s.pb k.val
  let mode := s.erd F.QC_MODE pb b
  let n := s.entrySize k.val b
  let x := s.bankAt (s.ppos k.val) b
  let room := s.queueRoom k.val b
  let store := fun (s : State) => (s.bankPut k.val b (n * x.qtail) (data.take n) (List.replicate n true) []).1
  let set := fun (s : State) (head level : Nat) =>
    (s.setBank (s.ppos k.val) b { s.bankAt (s.ppos k.val) b with qhead := head, qtail := (x.qtail + 1) % room, qlevel := level }).showQueue k.val b
  act s (s.fabricRuns k.val && mode != 0 && data.length == n)
    (if ¬ s.ownedBy k.val b owner.toNat then s.denyPort k.val owner.toNat 0
     else if x.qlevel < room then set (store s) x.qhead (x.qlevel + 1)
     else if mode = 1 then s.bump F.QC_OVF pb 1 b
     else set ((store s).bump F.QC_OVF pb 1 b) ((x.qhead + 1) % room) x.qlevel)

/-- QUEUE_POP (R218, R339): the owner takes the oldest entry, or none with VALID low. -/
def execQueuePop (k : LPatch) (bank : Bank) (owner : BitVec 4) (seen : List Ecc) (s : State) : Out :=
  let b := bank.val
  let n := s.entrySize k.val b
  let x := s.bankAt (s.ppos k.val) b
  let show_ := fun (s : State) (o : PortOut) => if 8 ≤ owner.toNat then s.setPort k.val (owner.toNat - 8) o else s
  act s (s.fabricRuns k.val && s.erd F.QC_MODE (s.pb k.val) b != 0)
    (if ¬ s.ownedBy k.val b owner.toNat then s.denyPort k.val owner.toNat n
     else if x.qlevel = 0 then show_ s { valid := false, deny := false, status := 0, data := List.replicate n 0 }
     else
       let r := s.bankGet k.val b (n * x.qhead) n seen
       let s1 := r.1.setBank (s.ppos k.val) b { r.1.bankAt (s.ppos k.val) b with qhead := (x.qhead + 1) % s.queueRoom k.val b, qlevel := x.qlevel - 1 }
       show_ (s1.showQueue k.val b) { valid := true, deny := false, status := if r.2.2 then Status.poison.code else 0, data := r.2.1 })

/-- PORT_ACCESS (R218, R329, R338 to R340): a fabric port reads or writes a bank in RAM mode, addressed in units of ESIZE. -/
def execPortAccess (k : LPatch) (port : Fin 8) (bank : Bank) (write : Bool) (addr : BitVec 20) (data : List Byte) (mask : List Bool) (seen : List Ecc)
    (s : State) : Out :=
  let b := bank.val
  let n := s.entrySize k.val b
  let a := n * addr.toNat % 0x100000
  act s (s.fabricRuns k.val && s.erd F.QC_MODE (s.pb k.val) b == 0 && (!write || (data.length == n && mask.length == n)))
    (if ¬ s.ownedBy k.val b (8 + port.val) then s.denyPort k.val (8 + port.val) n
     else if write then
       let r := s.bankPut k.val b a data mask seen
       r.1.setPort k.val port.val { valid := false, deny := false, status := if r.2 then Status.poison.code else 0, data := [] }
     else
       let r := s.bankGet k.val b a n seen
       r.1.setPort k.val port.val { valid := true, deny := false, status := if r.2.2 then Status.poison.code else 0, data := r.2.1 })

/-! The exchange network (R220 to R224). -/

/-- EXCHANGE_SEND (R220, R222): a message starts while READY is 1. -/
def execExchangeSend (k : LPatch) (flits : List (BitVec 128)) (s : State) : Out :=
  let x := s.fabAt k.val
  let h := (flits.headD 0).toNat
  let dests := if bitAt h 4 then (List.range 16).filter (fun d => d != k.val) else [field h 3 0]
  let begun := match x.sendQ.getLast? with | some q => max q.left s.rootNow | none => s.rootNow
  let m : XMsg := { left := begun + 4 * flits.length, inNet := false, dests := dests, chan := field h 8 5, flits := flits }
  act s (s.fabricRuns k.val && flits.length == field h 12 9 + 1 && decide (x.sending + 16 ≤ 64))
    (((s.setFab k.val { x with sendQ := x.sendQ ++ [m] }).incr F.XCH_SENT (s.pb k.val)).showExchange k.val)

/-- The sources with a message that waits for a destination, in round-robin order after the source served last (R221). -/
def State.waitingFor (s : State) (d : Nat) : List Nat :=
  let last := (s.fabAt d).lastSrc
  ((List.range 16).map (fun i => (last + 1 + i) % 16)).filter (fun k =>
    match (s.fabAt k).sendQ.find? (fun m => decide (d ∈ m.dests)) with
    | some m => !s.hover k || m.inNet
    | none => false)

/-- A message leaves a send queue for one of its destinations. -/
def takeMsg (d : Nat) : List XMsg → Option (XMsg × List XMsg)
  | [] => none
  | m :: t =>
    if d ∈ m.dests then
      let rest := m.dests.filter (fun x => x != d)
      some (m, if rest = [] then t else { m with dests := rest } :: t)
    else (takeMsg d t).map (fun p => (p.1, m :: p.2))

/-- EXCHANGE_DELIVER (R221 to R223): a whole message reaches its destination's fabric, or is dropped where that is not released. During a
handover of the source only messages that had left its port are delivered. -/
def execExchangeDeliver (src dst : LPatch) (s0 : State) : Out :=
  let s := s0.clockNow dst.val
  let free := fun (p : XMsg × List XMsg) => !s.hover src.val || p.1.inNet
  actOn s0 (if s.stackOn ∧ (s.waitingFor dst.val).head? = some src.val ∧ ¬ s.hover dst.val then (takeMsg dst.val (s.fabAt src.val).sendQ).filter free
           else none) fun p =>
    let s1 := (s.setFab src.val { s.fabAt src.val with sendQ := p.2 })
    let x := s1.fabAt dst.val
    if ¬ s.patchLive dst.val then
      ((s1.bump F.XCH_DROP (s.pb src.val)).setFab dst.val { s1.fabAt dst.val with lastSrc := src.val }).showExchange src.val
    else if 64 < x.recvQ.length + p.1.flits.length then s
    else
      ((((s1.setFab dst.val { x with recvQ := x.recvQ ++ p.1.flits, lastSrc := src.val }).incr F.XCH_RCVD (s.pb dst.val)).showExchange
        src.val).showExchange dst.val)

end Sys2Proof.Machine
end

