-- ==== Sys2Proof/Machine/Pattern.lean ====
section
/-! DEFINITION. The pattern engine of a logical patch (R269 to R296). -/

namespace Sys2Proof.Machine

/-- The engine of a logical patch. -/
def State.patAt (s : State) (k : Nat) : PatSt :=
  s.pats.get (fun _ => { threads := [], queues := [], subWork := [], subNew := [], acts := [], loads := [], staging := [], ser := 0, banks := [],
                          resume := 0, owed := [], reqs := [] }) k

def State.modPat (s : State) (k : Nat) (f : PatSt → PatSt) : State := { s with pats := s.pats.put k (f (s.patAt k)) }

/-- A descriptor thread. -/
def PatSt.thread (x : PatSt) (t : Nat) : ThreadSt := x.threads.get (fun _ => { loops := [], ovf := 0, send := none, until_ := none, sync := none }) t

def State.modThread (s : State) (k t : Nat) (f : ThreadSt → ThreadSt) : State :=
  s.modPat k (fun x => { x with threads := x.threads.put t (f (x.thread t)) })

/-- A slot's queue (R278). -/
def PatSt.queue (x : PatSt) (slot : Nat) : List TxCopy := x.queues.get (fun _ => []) slot

/-- A staged action unit (R284). -/
def PatSt.act? (x : PatSt) (a : Nat) : Option TxCopy := x.acts.get (fun _ => none) a

/-- Banks 4 to 7 that the engine owns, in ascending order (R271). -/
def State.patOwned (s : State) (k : Nat) : List Nat := ((List.range 4).map (fun b => 4 + b)).filter (fun b => (s.bankAt (s.ppos k) b).owner == 2)

/-- How many of banks 4 to 7 the engine owns. -/
def State.patBanks (s : State) (k : Nat) : Nat := (s.patOwned k).length

/-- Bytes of the prefetch area: the banks but for the action slots' 128 KiB (R271). -/
def State.prefetchRoom (s : State) (k : Nat) : Nat := s.patBanks k * 0x100000 - 0x20000

/-- A thread plays: RUNNING or WAITING (R294). -/
def State.threadOn (s : State) (k t : Nat) : Bool := s.rd F.THR_STATE (s.pb k) t == 1 || s.rd F.THR_STATE (s.pb k) t == 2

/-- DEPTH of a thread. -/
def State.showDepth (s : State) (k t : Nat) : State := s.wr F.THR_DEPTH (s.pb k) ((s.patAt k).thread t).loops.length t

/-- A thread stops with a reason (R294, R324). -/
def State.stopThread (s : State) (k t reason : Nat) : State :=
  let s1 := ((s.wr F.THR_STATE (s.pb k) 3 t).wr F.THR_REASON (s.pb k) reason t).modThread k t (fun x => { x with send := none, until_ := none, sync := none })
  if reason = 1 then s1 else s1.raiseP k 3

/-- A thread goes on at a descriptor; at or beyond DESC_COUNT it stops with END (R274). -/
def State.threadTo (s : State) (k t pc : Nat) : State :=
  let s1 := (s.wr F.THR_PC (s.pb k) pc t).wr F.THR_STATE (s.pb k) 1 t
  if s.rd F.PAT_DESC_COUNT (s.pb k) ≤ pc then s1.stopThread k t 3 else s1

/-- A thread goes on with its next descriptor. -/
def State.threadNext (s : State) (k t : Nat) : State := s.threadTo k t (s.rd F.THR_PC (s.pb k) t + 1)

/-- The lane of a slot can take a copy (R279). -/
def State.canTake (s : State) (k slot : Nat) : Option Nat :=
  match s.slotLane k slot with
  | none => none
  | some l =>
    let src := s.erd F.PSLOT_SRC (s.pb k) slot
    if (src = 1 ∨ src = 3) ∧ s.ln F.LN_TX_EN l = 1 ∧ s.firstLane l = l then some l else none

/-- A record of a KIND and length can be played on a PCS (R270). -/
def playable (pcs kind slen : Nat) (body : List Byte) : Bool :=
  match kind with
  | 2 => pcs == 0
  | 0 => (pcs == 4 && slen == 256) || (pcs == 1 && (splitChars body).isSome) || (pcs != 0 && pcs != 1 && pcs != 4)
  | _ => (pcs == 1 && (splitChars body).isSome) || (pcs != 0 && pcs != 1 && pcs != 4)

/-- A pattern record as the engine reads it (R269, R272). -/
inductive PatRec where
  | poisonHead
  | poisonBody (len : Nat)
  | ok (kind slen : Nat) (body : List Byte)
  deriving DecidableEq, Repr

/-- Bolt offsets wrap modulo 2 GiB. -/
def boltWrap (a : Nat) : Nat := a % 0x80000000

/-- Reads the record at a bolt offset. -/
def State.readRec (s : State) (k a : Nat) : PatRec :=
  let h := s.boltGet k (boltWrap a) 32
  if h.2 then .poisonHead
  else
    let w := leNat h.1
    let kind := field w 89 88
    let slen := field w 127 112
    let b := s.boltGet k (boltWrap (a + 32)) slen
    if b.2 ∧ kind ≠ 3 then .poisonBody slen else .ok kind slen b.1

/-- A poisoned read of a pattern record is counted, and raises class 4 (R272, R324, R340). -/
def State.patPoison (s : State) (k : Nat) : State := ((s.unmark k).bump F.PATE_PAT_POISON (s.pb k)).raiseP k 4

/-- Queues the copies of a record on the slots that a SEND names (R270, R278, R279). -/
def State.queueCopies (s : State) (k t : Nat) (q : SendSt) (kind slen : Nat) (body : List Byte) : State :=
  forEach (fun slot s =>
    if ¬ bitAt q.slots slot then s
    else
      match s.canTake k slot with
      | none => s
      | some l =>
        if playable (s.pcsOf l) kind slen body then
          s.modPat k (fun x => { x with queues := x.queues.put slot (x.queue slot ++
            [{ ser := x.ser, thread := t, kind := kind, body := body, submask := q.submask, badcv := q.badcv, gap := q.gap }]) })
        else s.bump F.PATE_KIND_SKIP (s.pb k)) (List.range 16) (s.modPat k (fun x => { x with ser := x.ser + 1 }))

/-- A queue of a slot that a SEND names is full (R278). -/
def State.sendBlocked (s : State) (k slots : Nat) : Bool :=
  (List.range 16).any (fun slot => bitAt slots slot && decide (64 ≤ ((s.patAt k).queue slot).length))

/-- Goes on with a SEND: records are read and queued while there is room (R272, R278). -/
def State.sendOn : Nat → State → Nat → Nat → State
  | 0, s, _, _ => s
  | fuel + 1, s, k, t =>
    match ((s.patAt k).thread t).send with
    | none => s
    | some q =>
      let fin := fun (s : State) => (s.modThread k t (fun x => { x with send := none })).threadNext k t
      let on := fun (s : State) (len : Nat) =>
        State.sendOn fuel (s.modThread k t (fun x => { x with send := some { q with rec_ := q.rec_ + recordSize len / 64, n := q.n - 1 } })) k t
      if q.n = 0 then fin s
      else if s.sendBlocked k q.slots then s.wr F.THR_STATE (s.pb k) 2 t
      else
        match s.readRec k (64 * q.rec_) with
        | .poisonHead => fin (s.patPoison k)
        | .poisonBody len => on (s.patPoison k) len
        | .ok kind slen body =>
          if kind = 3 then on s slen
          else if slen = 0 then on (s.bump F.PATE_KIND_SKIP (s.pb k)) 0
          else on (s.queueCopies k t q kind slen body) slen

/-! Descriptors (R275 to R278). -/

/-- What a thread reads at its PC: the descriptor's bytes, and whether a line of them is poisoned. -/
def State.descRead (s : State) (k t : Nat) : List Byte × Bool :=
  s.boltGet k (boltWrap (s.rd F.PAT_DESC_BASE (s.pb k) * 4096 + 16 * s.rd F.THR_PC (s.pb k) t)) 16

/-- The descriptor that a thread's PC names. The spec gives a poisoned one no contents: it is a free value (assumption 45). -/
def State.descAt (s : State) (k t : Nat) : Nat :=
  if (s.descRead k t).2 then (Config.freeValue s.fresh).toNat + 2 ^ 64 * (Config.freeValue (s.fresh + 1)).toNat else leNat (s.descRead k t).1

/-- The read of a descriptor: a poisoned read by the engine raises class 4 (R324, R340). -/
def State.descSeen (s : State) (k t : Nat) : State :=
  if (s.descRead k t).2 then (s.unmark k).took.took.raiseP k 4 else s

/-- OP of a descriptor. -/
def descOp (d : Nat) : Nat := field d 3 0

/-- The engine of a patch runs: released, and not frozen by a handover (R292). -/
def State.engineRuns (s : State) (k : Nat) : Bool := s.fabricRuns k

/-- A running thread executes the descriptor at its PC, if that has operation `op` (R274, R276). -/
def State.desc (s : State) (k t op : Nat) (f : State → Nat → State) : Out :=
  if ¬ s.engineRuns k ∨ s.rd F.THR_STATE (s.pb k) t ≠ 1 then .next s
  else if s.rd F.PAT_DESC_COUNT (s.pb k) ≤ s.rd F.THR_PC (s.pb k) t then .next (s.stopThread k t 3)
  else if descOp (s.descAt k t) = op then .next (f (s.descSeen k t) (s.descAt k t))
  else .next s

/-- DESC_NOP (R276). -/
def execDescNop (k : LPatch) (t : Thread) (s : State) : Out := s.desc k.val t.val 0 fun s _ => s.threadNext k.val t.val

/-- SEND (R278): begins, or goes on where it waited for room. -/
def execSend (k : LPatch) (t : Thread) (s : State) : Out :=
  if s.engineRuns k.val ∧ s.rd F.THR_STATE (s.pb k.val) t.val = 2 ∧ ((s.patAt k.val).thread t.val).send.isSome then
    .next (State.sendOn 65 s k.val t.val)
  else
    s.desc k.val t.val 1 fun s d =>
      let q : SendSt := { rec_ := field d 88 64, n := max 1 (field d 63 32), slots := field d 19 4, submask := field d 27 20, badcv := bitAt d 28
                          gap := field d 103 96 }
      State.sendOn 65 ((s.modThread k.val t.val (fun x => { x with send := some q })).wr F.THR_STATE (s.pb k.val) 2 t.val) k.val t.val

/-- DESC_LOOP (R277). -/
def execDescLoop (k : LPatch) (t : Thread) (s : State) : Out :=
  s.desc k.val t.val 2 fun s d =>
    let x := (s.patAt k.val).thread t.val
    let s1 := if 4 ≤ x.loops.length then (s.modThread k.val t.val (fun x => { x with ovf := x.ovf + 1 })).bump F.PATE_NEST_OVF (s.pb k.val)
      else s.modThread k.val t.val (fun x => { x with loops := (field d 63 32 + 1, s.rd F.THR_PC (s.pb k.val) t.val + 1) :: x.loops })
    (s1.showDepth k.val t.val).threadNext k.val t.val

/-- ENDLOOP (R277). -/
def execEndloop (k : LPatch) (t : Thread) (s : State) : Out :=
  s.desc k.val t.val 3 fun s _ =>
    let x := (s.patAt k.val).thread t.val
    if 0 < x.ovf then (s.modThread k.val t.val (fun x => { x with ovf := x.ovf - 1 })).threadNext k.val t.val
    else
      match x.loops with
      | [] => s.threadNext k.val t.val
      | (n, body) :: rest =>
        if 1 < n then (s.modThread k.val t.val (fun x => { x with loops := (n - 1, body) :: rest })).threadTo k.val t.val body
        else ((s.modThread k.val t.val (fun x => { x with loops := rest })).showDepth k.val t.val).threadNext k.val t.val

/-- JMP (R276). -/
def execJmp (k : LPatch) (t : Thread) (s : State) : Out := s.desc k.val t.val 4 fun s d => s.threadTo k.val t.val (field d 47 32)

/-- WAIT (R276). -/
def execWait (k : LPatch) (t : Thread) (s : State) : Out :=
  s.desc k.val t.val 5 fun s d =>
    (s.wr F.THR_STATE (s.pb k.val) 2 t.val).modThread k.val t.val (fun x => { x with until_ := some (s.stitch + BitVec.ofNat 64 (max 1 (field d 63 32))) })

/-- WAIT_RESUME (R276): from the boundary opening stitch s + N. -/
def execWaitResume (k : LPatch) (t : Thread) (s : State) : Out :=
  actOn s (if s.engineRuns k.val then ((s.patAt k.val).thread t.val).until_ else none) fun u =>
    if u.toNat ≤ s.stitch.toNat then (s.modThread k.val t.val (fun x => { x with until_ := none })).threadNext k.val t.val else s

/-- No queued unit of a thread is left in the slots named (R276). -/
def State.synced (s : State) (k t slots : Nat) : Bool :=
  (List.range 16).all (fun slot => !bitAt slots slot || ((s.patAt k).queue slot).all (fun c => c.thread != t))

/-- SYNC (R276). -/
def execSync (k : LPatch) (t : Thread) (s : State) : Out :=
  s.desc k.val t.val 6 fun s d =>
    (s.wr F.THR_STATE (s.pb k.val) 2 t.val).modThread k.val t.val (fun x => { x with sync := some (field d 19 4) })

/-- SYNC_DONE (R276). -/
def execSyncDone (k : LPatch) (t : Thread) (s : State) : Out :=
  actOn s (if s.engineRuns k.val then ((s.patAt k.val).thread t.val).sync else none) fun slots =>
    if s.synced k.val t.val slots then (s.modThread k.val t.val (fun x => { x with sync := none })).threadNext k.val t.val else s

/-- DESC_TRIG (R276): raises LINE at the offset at which it executes. -/
def execDescTrig (k : LPatch) (t : Thread) (off : Nat) (s : State) : Out :=
  s.desc k.val t.val 7 fun s d => ((s.tick off).threadNext k.val t.val).raiseLine 3 (field d 9 4)

/-- DESC_STOP (R276). -/
def execDescStop (k : LPatch) (t : Thread) (s : State) : Out := s.desc k.val t.val 8 fun s _ => s.stopThread k.val t.val 2

/-- DESC_BADOP (R276): an OP of 9 to 15. -/
def execDescBadop (k : LPatch) (t : Thread) (s : State) : Out :=
  s.desc k.val t.val (max 9 (descOp (s.descAt k.val t.val))) fun s _ => s.stopThread k.val t.val 4

/-! Into the transmit path (R280, R287 to R290). -/

/-- The working value of a substitution entry. -/
def State.subVal (s : State) (k e : Nat) : Nat := s.pair (F.SUB_VAL_LO.at (s.pb k) e 0) (F.SUB_VAL_HI.at (s.pb k) e 0)

/-- Applies a substitution entry to a copy (R280). -/
def State.substitute (s : State) (k e : Nat) (body : List Byte) : State × List Byte :=
  let b := s.pb k
  let at_ := s.rd F.SUB_OFF b e
  let n := s.rd F.SUB_WIDTH b e + 1
  if body.length < at_ + n then (s, body)
  else
    let v := s.subVal k e
    let bytes := if s.rd F.SUB_ORDER b e = 1 then (leBytes n v).reverse else leBytes n v
    let next := v + s.rd F.SUB_STEP b e
    (((s.wr F.SUB_VAL_LO b next e).wr F.SUB_VAL_HI b (next / 2 ^ 32) e), body.take at_ ++ bytes ++ body.drop (at_ + n))

/-- Gap after a unit (R290). -/
def State.gapAfter (s : State) (k slot gap : Nat) : Nat := max (s.erd F.PSLOT_MIN_GAP (s.pb k) slot) gap

/-- The units that wait, each once: number and bytes (R271). -/
def PatSt.units (x : PatSt) : List (Nat × Nat) := ((x.queues.map (fun e => e.2.map (fun c => (c.ser, c.body.length)))).flatten).dedup

/-- A unit lies in the prefetch area (R271): it fits there beside the units read before it that still wait. -/
def State.prefetched (s : State) (k : Nat) (c : TxCopy) : Bool :=
  decide ((((s.patAt k).units.filter (fun u => decide (u.1 < c.ser))).map (fun u => u.2)).sum + c.body.length ≤ s.prefetchRoom k)

/-- The engine delivers and releases: it runs, and a handover is a stitch behind (R292). -/
def State.patDelivers (s : State) (k : Nat) : Bool := s.engineRuns k && decide ((s.patAt k).resume.toNat ≤ s.stitch.toNat)

/-- UNIT_MOVE (R271, R280, R287): the slot's next unit moves into its prefill buffer. -/
def execUnitMove (k : LPatch) (slot : Slot) (s : State) : Out :=
  let k := k.val
  let slot := slot.val
  actOn s (match s.slotLane k slot, ((s.patAt k).queue slot).head? with
      | some l, some c => if s.patDelivers k ∧ s.prefetched k c ∧ s.txRuns l ∧ (s.laneAt l).level < 64 * s.ln F.LN_PREFILL l then some (l, c) else none
      | _, _ => none) fun (l, c) =>
    let s1 := s.modPat k (fun x => { x with queues := x.queues.put slot ((x.queue slot).drop 1) })
    let r := (List.range 8).foldl (fun (p : State × List Byte) e => if bitAt c.submask e then p.1.substitute k e p.2 else p) (s1, c.body)
    let q := r.1.cvTx k slot (s.pcsOf l) c.kind r.2 c.badcv
    q.1.modLane l (fun x => { x with prefill := x.prefill ++ [⟨q.2, q.2.length, s.gapAfter k slot c.gap, false⟩] })

/-- FABRIC_TX_UNIT (R288, R299): a unit from the fabric's transmit stream port; TX_KIND 3 is taken as 0. -/
def execFabricTxUnit (k : LPatch) (slot : Slot) (kind : BitVec 2) (data : List Byte) (s : State) : Out :=
  let k := k.val
  let slot := slot.val
  let src := s.erd F.PSLOT_SRC (s.pb k) slot
  actOn s (if s.engineRuns k ∧ 2 ≤ src ∧ data ≠ [] then s.slotLane k slot else none) fun l =>
    if ¬ s.txReady k slot then s
    else
      let q := s.cvTx k slot (s.pcsOf l) (if kind.toNat = 3 then 0 else kind.toNat) data false
      q.1.modLane l (fun x => { x with prefill := x.prefill ++ [⟨q.2, q.2.length, s.gapAfter k slot 0, false⟩] })

/-- TX_UNDERRUN (R164, R291): the buffer holds no byte while a unit's last byte is still to come; the unit gets its mode's ending, and the
transmitter fills its prefill buffer again. -/
def execTxUnderrun (l : Lane) (off : Nat) (s : State) : Out :=
  let l := l.val
  act s (s.stackOn && s.txRuns l && (s.laneAt l).sending && (s.laneAt l).level == 0)
    (((s.tick off).laneCount ctrUnder l 1).modLane l (fun x =>
      { x with prefill := [], sending := false, sent := if s.pcsOf l = 0 then x.sent else x.sent ++ [.error (s.pcsOf l)] }))

/-! Action slots (R284, R286). -/

/-- A write of an action slot's control word: LOAD stages its record from the next boundary. -/
def State.writeAction (s : State) (k a : Nat) (v : W32) (be : Nat) : State :=
  let s1 := s.mergeWrite (F.ACT_SLOTS.at (s.pb k) a 0) v be
  if F.ACT_LOAD.wants v be = 1 then
    (s1.wr F.ACT_READY (s.pb k) 0 a).modPat k (fun x => { x with loads := x.loads.filter (fun b => b != a) ++ [a], acts := x.acts.put a none })
  else s1

/-- ACTION_LOAD (R284): a write of an action slot's control word with LOAD. -/
def execActionLoad (k : LPatch) (a : Fin 8) (v : W32) (be : BitVec 4) (s : State) : Out :=
  act s (s.stackOn && F.ACT_LOAD.wants v be.toNat == 1) (s.viaPatch k.val (0x744 + 8 * a.val) v be.toNat (s.writeAction k.val a.val v be.toNat))

/-- ACTION_STAGED (R284): the record has been read; staging that meets poison leaves READY at 0. -/
def execActionStaged (k : LPatch) (a : Fin 8) (s : State) : Out :=
  let k := k.val
  let a := a.val
  let s1 := s.modPat k (fun x => { x with staging := x.staging.filter (fun b => b != a) })
  act s (s.engineRuns k && decide (a ∈ (s.patAt k).staging) && s.patBanks k != 0)
    (match s.readRec k (64 * s.rd F.ACT_REC (s.pb k) a) with
     | .poisonHead => s1.patPoison k
     | .poisonBody _ => s1.patPoison k
     | .ok kind slen body =>
       if kind = 3 then s1
       else if slen = 0 then s1.bump F.PATE_KIND_SKIP (s.pb k)
       else (s1.wr F.ACT_READY (s.pb k) 1 a).modPat k (fun x => { x with
         acts := x.acts.put a (some { ser := 0, thread := 4, kind := kind, body := body, submask := 0, badcv := false, gap := 0 }) }))

/-- The copy of a staged unit for one lane slot: the slots in whose transmit path it goes, with the lane and the bytes (R284). -/
def State.actionUnit (s : State) (k a slot : Nat) : State × Option (Nat × TxUnit) :=
  match (s.patAt k).act? a, s.canTake k slot with
  | some c, some l =>
    if ¬ bitAt (s.rd F.ACT_SLOTS (s.pb k) a) slot then (s, none)
    else if ¬ playable (s.pcsOf l) c.kind c.body.length c.body then (s.bump F.PATE_KIND_SKIP (s.pb k), none)
    else
      let q := s.cvTx k slot (s.pcsOf l) c.kind c.body false
      (q.1, some (l, ⟨q.2, q.2.length, s.gapAfter k slot 0, true⟩))
  | _, _ => (s, none)

/-- Action slots are released together, in ascending order, ahead of the data that waits (R165, R283, R284). -/
def State.releaseActions (s : State) (k : Nat) (as : List Nat) : State :=
  let s1 := forEach (fun a s => if s.rd F.ACT_READY (s.pb k) a = 0 then s.bump F.PATE_ACT_MISS (s.pb k) else s) as s
  forEach (fun slot s =>
    let r := as.foldl (fun (p : State × List (Nat × TxUnit)) a =>
      if p.1.rd F.ACT_READY (p.1.pb k) a = 0 then p
      else
        let q := p.1.actionUnit k a slot
        (q.1, p.2 ++ q.2.toList)) (s, [])
    match r.2 with
    | [] => r.1
    | (l, _) :: _ => r.1.modLane l (fun x => { x with prefill := r.2.map (fun e => e.2) ++ x.prefill })) (List.range 16) s1

/-! Commands (R273, R274, R293). -/

/-- A START takes effect (R273, R274): each thread named that is not RUNNING starts, one that waits starts again (assumption 39). A bolt out of service starts no engine (R348). -/
def State.startPat (s : State) (k threads : Nat) (c : Option CmdRef) : State :=
  let b := s.pb k
  if s.flag F.BOLT_OUT (BOLT k) then s.completeOpt c .refused
  else if s.patBanks k = 0 then
    (forN (fun t s => if bitAt threads t then s.wr F.THR_REASON b 5 t else s) 4 s).completeOpt c .refused
  else
    (forN (fun t s =>
      if bitAt threads t ∧ s.rd F.THR_STATE b t ≠ 1 then
        ((((s.modThread k t (fun _ => { loops := [], ovf := 0, send := none, until_ := none, sync := none })).showDepth k t).wr F.THR_REASON b 0
          t)).threadTo k t (s.rd F.PAT_ENTRY b t)
      else s) 4 s).completeOpt c .ok

/-- The queued units of a thread are discarded. -/
def State.flushThread (s : State) (k t : Nat) : State :=
  s.modPat k (fun x => { x with queues := x.queues.map (fun e => (e.1, e.2.filter (fun c => c.thread != t))) })

/-- A STOP takes effect (R274). -/
def State.haltPat (s : State) (k threads : Nat) (c : Option CmdRef) : State :=
  (forN (fun t s => if bitAt threads t then (s.flushThread k t).stopThread k t 1 else s) 4 s).completeOpt c .ok

/-- A CMD for the engine (R274, R293). -/
def State.patCmd (s : State) (k cmd threads : Nat) (c : Option CmdRef) : State :=
  if cmd = 1 ∨ cmd = 2 then s.modPat k (fun x => { x with reqs := x.reqs ++ [(cmd, threads, c)] }) else s.completeOpt c .ok

/-- A PATTERN command, or a write of CMD, with a code and threads (R293, R373, R545). -/
def State.patternCmd (s : State) (k cmd threads : Nat) (c : Option CmdRef) : Option State :=
  match c with
  | none => some (s.viaPatch k 0x600 (BitVec.ofNat 32 (cmd + 16 * threads)) 1 (s.patCmd k cmd threads none))
  | some r =>
    match s.cmdOf r 0x19 .fresh with
    | none => none
    | some d =>
      let code := if 2 < d.param 8 1 then 0 else d.param 8 1
      if d.target = k ∧ code = cmd ∧ d.param 9 1 % 16 = threads then some ((s.setPhase r .running).patCmd k cmd threads c) else none

/-- PATTERN_START (R274). -/
def execPatternStart (k : LPatch) (threads : BitVec 4) (c : Option CmdRef) (s : State) : Out :=
  actOn s (if s.patchLive k.val then s.patternCmd k.val 1 threads.toNat c else none) id

/-- PATTERN_STOP (R274). -/
def execPatternStop (k : LPatch) (threads : BitVec 4) (c : Option CmdRef) (s : State) : Out :=
  actOn s (if s.patchLive k.val then s.patternCmd k.val 2 threads.toNat c else none) id

/-- A write of a substitution value (R280): half 0 is the low word. It becomes the working value at the next boundary. -/
def State.writeSub (s : State) (k e half : Nat) (v : W32) (be : Nat) : State :=
  let x := s.patAt k
  let cur : W64 := if Tab.get (fun _ => false) x.subNew e then Tab.get (fun _ => 0) x.subWork e else BitVec.ofNat 64 (s.subVal k e)
  let part := BitVec.ofNat 32 (cur.toNat / 2 ^ (32 * half))
  let m := BitVec.ofNat 32 (enMask be)
  let new := (v &&& m) ||| (part &&& ~~~ m)
  let w := if half = 0 then cur.toNat / 2 ^ 32 * 2 ^ 32 + new.toNat else cur.toNat % 2 ^ 32 + 2 ^ 32 * new.toNat
  s.modPat k (fun x => { x with subWork := x.subWork.put e (BitVec.ofNat 64 w), subNew := x.subNew.put e true })

/-! Boundaries. -/

/-- A jump of a thread (R282). -/
def State.jumpThread (s : State) (k t target : Nat) (flush : Bool) : State :=
  let s1 := if flush then s.flushThread k t else s
  let s2 := (s1.modThread k t (fun _ => { loops := [], ovf := 0, send := none, until_ := none, sync := none })).showDepth k t
  ((s2.wr F.THR_REASON (s.pb k) 0 t).incr F.PATE_JUMPS (s.pb k)).threadTo k t target

/-- The watches of a patch whose line is latched (R282, R283): jumps, of which the lowest watch of a thread counts, then releases, which wait while the
engine delivers nothing (R292). -/
def State.fireWatches (s : State) (k : Nat) (lines : List Nat) : State :=
  let b := s.pb k
  let fired := (List.range 8).filter (fun w => s.flag F.WATCH_EN b w && decide (s.rd F.WATCH_LINE b w ∈ lines))
  let jumps := fun t => (fired.find? (fun w => s.rd F.WATCH_ACT b w != 1 && s.rd F.WATCH_THREAD b w == t))
  let s1 := forN (fun t s' => match jumps t with | none => s' | some w => s'.jumpThread k t (s.rd F.WATCH_TARGET b w) (s.flag F.WATCH_FLUSH b w)) 4 s
  let acts := (List.range 8).filter (fun a => fired.any (fun w => s.rd F.WATCH_ACT b w != 0 && s.rd F.WATCH_ACTSLOT b w == a))
  forEach (fun w s => if s.flag F.WATCH_ONESHOT b w then s.wr F.WATCH_EN b 0 w else s) fired (if s.patDelivers k then s1.releaseActions k acts
    else s1.modPat k (fun x => { x with owed := x.owed ++ acts.filter (fun a => a ∉ x.owed) }))

/-- `n` bytes that the spec leaves open, of the free values from number `i` on. -/
def openBytes (i n : Nat) : List Byte := (List.range n).map (fun j => BitVec.ofNat 8 (Config.freeValue (i + j)).toNat)

/-- What a copy holds is left open (assumption 98). -/
def State.openCopy (s : State) (c : TxCopy) : State × TxCopy :=
  ({ s with fresh := s.fresh + c.body.length }, { c with body := openBytes s.fresh c.body.length })

/-- Banks of the prefetch area have gone to another owner, or the lowest is another one (R271, R273). With none left a running engine stops;
what lay in a bank that is gone, and in an action area that has moved, is left open. -/
def State.patBanksNow (s : State) (k : Nat) : State :=
  let b := s.pb k
  let x := s.patAt k
  let now := s.patOwned k
  let runs := (List.range 4).any (s.threadOn k) || x.queues.any (fun e => e.2 != []) || x.staging != [] || (List.range 8).any (fun a => s.flag F.ACT_READY b a)
  let s1 := s.modPat k (fun x => { x with banks := now })
  if now = [] then
    if ¬ runs then s1
    else
      let s2 := forN (fun t s => if s.threadOn k t then s.stopThread k t 5 else (s.wr F.THR_STATE b 3 t).wr F.THR_REASON b 5 t) 4 s1
      (forN (fun a s => s.wr F.ACT_READY b 0 a) 8 s2).modPat k (fun x => { x with queues := [], acts := [], staging := [], owed := [] })
  else
    let s2 := if x.banks.all (fun c => now.contains c) then s1
      else forEach (fun (e : Nat × List TxCopy) s =>
        let r := e.2.foldl (fun (p : State × List TxCopy) c => let q := p.1.openCopy c; (q.1, p.2 ++ [q.2])) (s, [])
        r.1.modPat k (fun x => { x with queues := x.queues.put e.1 r.2 })) x.queues s1
    if x.banks = [] ∨ x.banks.head? = now.head? then s2
    else forEach (fun (e : Nat × Option TxCopy) s => match e.2 with
      | some c => let q := s.openCopy c; q.1.modPat k (fun x => { x with acts := x.acts.put e.1 (some q.2) })
      | none => s) x.acts s2

/-- Step 3 of a boundary for a patch's pattern engine: its banks (R271, R273), substitution values (R280), staging (R284), watches (R282, R283),
releases that waited for the end of a handover (R292), and the commands of the last stitch (R274). -/
def State.patBoundary (s : State) (lines : List Nat) (k : Nat) : State :=
  let b := s.pb k
  let s1 := s.patBanksNow k
  let x := s1.patAt k
  let s2 := forN (fun e s =>
    if Tab.get (fun _ => false) x.subNew e then
      let v := (Tab.get (fun _ => (0 : W64)) x.subWork e).toNat
      (s.wr F.SUB_VAL_LO b v e).wr F.SUB_VAL_HI b (v / 2 ^ 32) e
    else s) 8 s1
  let s3 := s2.modPat k (fun x => { x with subNew := [], subWork := [], loads := [], staging := x.staging.filter (fun a => a ∉ x.loads) ++ x.loads })
  let s4 := if s3.patDelivers k ∧ x.owed ≠ [] then (s3.modPat k (fun x => { x with owed := [] })).releaseActions k x.owed else s3
  let s6 := s4.fireWatches k lines
  let s7 := s6.modPat k (fun x => { x with reqs := [] })
  forEach (fun r s => if r.1 = 1 then s.startPat k r.2.1 r.2.2 else s.haltPat k r.2.1 r.2.2) x.reqs s7

/-! Transmitters (R164, R165, R289 to R291). -/

/-- The fill of a lane (R289). Without a patch USER_FILL is 0 and FILL8 PCIE (assumption 98). -/
def State.fillOf (s : State) (l : Nat) : FillKind :=
  match s.pcsOf l, s.laneSlot l with
  | 0, some (k, _) => .userWord (s.reg (F.PAT_USER_FILL.at (s.pb k) 0 0))
  | 0, none => .userWord 0
  | 1, some (k, slot) =>
    match s.erd F.PSLOT_FILL8 (s.pb k) slot with
    | 1 => .k285
    | 2 => .userChars (s.reg (F.PAT_USER_FILL.at (s.pb k) 0 0)) (s.rd F.PAT_USER_MAP (s.pb k))
    | _ => .logicalIdle
  | 1, none => .logicalIdle
  | 3, _ => .logicalIdle
  | 4, _ => .idleFlit
  | _, _ => .idleBlock

/-- Skip ordered sets are inserted in the mode: PCIe's 8b/10b, 128b/130b and flit modes (R289). -/
def FillKind.skips (f : FillKind) : Bool :=
  match f with
  | .logicalIdle | .idleFlit => true
  | _ => false

/-- A transmitter at work: what waits, the bytes until a skip ordered set falls due, and what it has sent. -/
structure TxRun where
  units : List TxUnit
  due : Nat
  items : List LineItem
  deriving DecidableEq, Repr

/-- Between units (R289). -/
def betweenUnits : List TxUnit → Bool
  | [] => true
  | u :: _ => u.left == u.body.length || u.left == 0

/-- A transmitter sends `n` bytes (R164, R289, R290): the units that may go, the fill due after each, fill where nothing may go, and a skip
ordered set of `len` bytes every `every` bytes, between units only. `open_` says that all data goes; else only what an immediate action
released (R165). -/
def txSend (fill : FillKind) (every len : Nat) (open_ : Bool) : Nat → Nat → TxRun → TxRun
  | 0, _, x => x
  | fuel + 1, n, x =>
    let idle := fun (m : Nat) (us : List TxUnit) =>
      txSend fill every len open_ fuel (n - m) { x with units := us, due := x.due - m, items := x.items ++ [.fill fill m] }
    let most := fun (m : Nat) => if every = 0 then min n m else min n (min m x.due)
    if n = 0 then x
    else if every ≠ 0 ∧ x.due = 0 ∧ betweenUnits x.units = true then
      txSend fill every len open_ fuel (n - len) { x with due := every, items := x.items ++ [.skip] }
    else
      match x.units with
      | [] => idle (most n) []
      | u :: t =>
        if 0 < u.left ∧ ¬ open_ ∧ ¬ u.action ∧ u.left = u.body.length then idle (most n) (u :: t)
        else if 0 < u.left then
          let m := min n u.left
          txSend fill every len open_ fuel (n - m)
            { x with units := { u with left := u.left - m } :: t, due := x.due - m
                     items := x.items ++ [.data ((u.body.drop (u.body.length - u.left)).take m)] }
        else if 0 < u.gap then idle (most u.gap) ({ u with gap := u.gap - most u.gap } :: t)
        else txSend fill every len open_ fuel n { x with units := t }

/-- Payload bytes for line bits, as a ratio (R166): the share of a mode's coding. -/
def codeShare (pcs : Nat) : Nat × Nat :=
  match pcs with
  | 1 => (4, 5) | 2 => (32, 33) | 3 => (64, 65) | 5 => (256 * 514, 257 * 528) | 6 => (256 * 514, 257 * 544) | _ => (1, 1)

/-- A transmitter sends for a stitch (R164, R165, R289): the bytes of its rate over the stitch, the remainder carried on. Its data goes once the
prefill level is reached; until then, and where it has none, fill goes. -/
def State.drainBoundary (s : State) (l : Nat) : State :=
  let x := s.laneAt l
  if ¬ s.txRuns l then s.modLane l (fun x => { x with sent := [] })
  else
    let on := x.sending || decide (64 * s.ln F.LN_PREFILL l ≤ x.level)
    let pcs := s.pcsOf l
    let f := s.fillOf l
    let (num, den) := codeShare pcs
    let unit := 400000 * den * 1000000
    let bits := s.rateOf l * s.rd F.STC_N_NOW DEV * num * ((1000000 : Int) + s.txPpm l).toNat + x.acc
    let every := if f.skips then Config.skipInterval pcs (s.rateOf l) else 0
    let n := bits / unit
    let r := txSend f every (Config.skipLength pcs (s.rateOf l)) on (n + 2 * x.prefill.length + 2) n ⟨x.prefill, x.skip, []⟩
    s.modLane l (fun x => { x with prefill := r.units, skip := r.due, sent := r.items, acc := bits % unit, sending := on })

end Sys2Proof.Machine
end

