-- ==== Sys2Proof/Machine/Triggers.lean ====
section
/-! DEFINITION. Trigger lines, external trigger balls, the trigger log and the event ring (R305 to R326). -/

namespace Sys2Proof.Machine

/-! Raises (R306). -/

/-- FABRIC_RAISE: pulses of a patch's TRIG_RAISE port (class 0). -/
def execFabricRaise (k : LPatch) (lines : W64) (off : Nat) (s : State) : Out :=
  act s (s.fabricRuns k.val) ((s.tick off).raiseMask 0 lines.toNat 0 64)

/-- The class of a write of RAISE_LO or RAISE_HI (R306); signal processors have no path to these registers (R542). -/
def raiseClass : Src → Option Nat
  | .hc => some 5
  | .host => some 5
  | .seq _ => some 1
  | .rsp _ => none

/-- A write of RAISE_LO or RAISE_HI at the present offset. -/
def State.writeRaise (s : State) (src : Src) (high : Bool) (v : W32) (be : Nat) : State :=
  match raiseClass src with
  | none => s
  | some c => s.raiseMask c (F.TRIG_RAISE_LO.wants v be) (if high then 32 else 0) 32

/-- RAISE_WRITE (R306). -/
def execRaiseWrite (src : Src) (high : Bool) (v : W32) (off : Nat) (s : State) : Out :=
  act s s.up ((s.tick off).writeRaise src high v 15)

/-! Reads (R308, R317). -/

/-- STATE_LO_READ: captures STATE_HI (R308). -/
def execStateLoRead (off : Nat) (s : State) : Out :=
  let r := (s.tick off).busRead TRIG
  .next { r.1 with resp := r.2 }

/-- LOG_STAT_READ: the count of LOST starts again (R317). -/
def execLogStatRead (off : Nat) (s : State) : Out :=
  let r := (s.tick off).busRead (TRIG + 0x208)
  .next { r.1 with resp := r.2 }

/-! External trigger balls (R313 to R316). -/

/-- A ball's state; high-impedance after reset. -/
def State.ballAt (s : State) (b : Nat) : BallSt := s.trig.balls.get (fun _ => ⟨none, [], none⟩) b

def State.setBall (s : State) (b : Nat) (x : BallSt) : State := { s with trig := { s.trig with balls := s.trig.balls.put b x } }

/-- A ball configuration field in effect. -/
def State.ballCfg (s : State) (f : Fld) (b : Nat) : Nat := s.erd f TRIG b

/-- The balls act: the device is released, and neither halted nor stopped (R316). -/
def State.ballsActive (s : State) : Bool := s.cfg.released && s.up && s.hk.stop == 0

/-- A raise from an edge first sampled at the present offset, `late` root cycles after it; one beyond the stitch's end falls into the next
(R57, R314). -/
def State.raiseLater (s : State) (cls line late : Nat) : State :=
  let o := s.off + late
  if o < s.period then
    let s1 := { s with off := o }.raiseAs cls line ⟨s.now, o, cls, s.devnum, false⟩
    { s1 with off := s.off }
  else { s with trig := { s.trig with next := s.trig.next ++ [(line, ⟨s.now, o - s.period, cls, s.devnum, false⟩)] } }

/-- TRIGX_EDGE: a level first sampled at `off` that has held for FILT + 1 root cycles raises LINE FILT + 4 root cycles later (R314). -/
def execTrigxEdge (ball : Fin 16) (rising : Bool) (off : Nat) (s : State) : Out :=
  let e := s.ballCfg F.TB_EDGE ball.val
  let wanted := (e == 0 && rising) || (e == 1 && !rising) || decide (2 ≤ e)
  act s (s.ballsActive && s.ballCfg F.TB_DIR ball.val == 1 && wanted)
    ((s.tick off).raiseLater 4 (s.ballCfg F.TB_LINE ball.val) (s.ballCfg F.TB_FILT ball.val + 4))

/-- The level of an inactive output. -/
def State.idleLevel (s : State) (b : Nat) : Bool := s.ballCfg F.TB_POL b == 1

/-- What a ball does from a root time on: the levels that it has come to by then are its own. -/
def BallSt.reach (x : BallSt) (t : Nat) : BallSt :=
  { x with
    drive := ((x.later.filter (fun e => decide (e.1 ≤ t))).getLast?.map (fun e => some e.2)).getD x.drive
    later := x.later.filter (fun e => decide (t < e.1))
    pulse := match x.pulse with | some e => if e ≤ t then none else some e | none => none }

/-- The level at a ball at the present instant; none where it is high-impedance. -/
def State.ballLevel (s : State) (b : Nat) : Option Bool := ((s.ballAt b).reach s.rootNow).drive

/-- TRIGX_PULSE_END: the ball returns to its inactive level, at the end of its pulse in the present stitch (R315). -/
def execTrigxPulseEnd (ball : Fin 16) (s : State) : Out :=
  let x := s.ballAt ball.val
  actOn s (if s.ballsActive then x.pulse else none) fun t =>
    if s.time.run ≤ t ∧ t < s.time.run + s.period then
      (s.tick (t - s.time.run)).setBall ball.val { drive := some (s.idleLevel ball.val), later := x.later.filter (fun e => decide (t < e.1)), pulse := none }
    else s

/-- A pulse of WIDTH root cycles begins at a root time; one that still runs then begins again (R315). -/
def State.startPulse (s : State) (b t : Nat) : State :=
  let x := s.ballAt b
  let stop := t + s.ballCfg F.TB_WIDTH b
  let idle := s.idleLevel b
  s.setBall b { x with later := x.later.filter (fun e => decide (e.1 < t)) ++ [(t, !idle), (stop, idle)], pulse := some stop }

/-- The output balls follow the lines latched for a stitch (R315, R316), 8 root cycles after OUT_OFF. A pulse that runs into a stitch goes on
for its WIDTH (assumption 29). -/
def State.driveBalls (s : State) : State :=
  forN (fun b s =>
    let x := (s.ballAt b).reach s.time.run
    if s.hk.stop ≠ 0 then s.setBall b { x with later := [], pulse := none }
    else if ¬ s.ballsActive ∨ s.ballCfg F.TB_DIR b ≠ 2 then s.setBall b ⟨none, [], none⟩
    else
      let on := s.asserted (s.ballCfg F.TB_LINE b)
      let idle := s.idleLevel b
      let t := s.time.run + s.ballCfg F.TB_OUT_OFF b + 8
      let y := if x.drive.isNone then { x with drive := some idle } else x
      if s.ballCfg F.TB_OMODE b = 1 then
        if on then (s.setBall b y).startPulse b t
        else s.setBall b (if x.pulse.isNone then { y with later := [(t, idle)] } else y)
      else s.setBall b { y with later := y.later.filter (fun e => decide (e.1 < t)) ++ [(t, if on then !idle else idle)], pulse := none }) 16 s

/-! The latch (R305, R309, R317). -/

/-- Of two raises of a system line, the one with the earlier timestamp; a tie goes to the lower device (R317). -/
def Raise.first (a b : Raise) : Raise :=
  let ka := 2 ^ 14 * a.ts.stitch.toNat + a.ts.off
  let kb := 2 ^ 14 * b.ts.stitch.toNat + b.ts.off
  let x := if kb < ka ∨ (ka = kb ∧ b.dev < a.dev) then b else a
  { x with multi := true }

/-- The raise of a line that the boundary opening the present stitch latches, if there is one. -/
def State.dueRaise (s : State) (line : Nat) : Option Raise :=
  if 48 ≤ line ∧ s.inSystem then
    (s.trig.sysDue.filter (fun d => d.line == line && d.due == s.stitch)).foldl
      (fun o d => match o with | none => some d.r | some r => some (r.first d.r)) none
  else s.trig.raise? line

/-- Log entry words for a latched line (R317). -/
def State.logEntry (s : State) (line : Nat) (r : Raise) : State :=
  let e := if s.trig.logged then (s.rd F.LOG_NEWEST TRIG + 1) % 32 else 0
  let ts := r.ts.num
  let s1 := if e ∈ s.trig.unread then s.bump F.LOG_LOST TRIG else s
  let s2 := (((s1.wr F.TLOG_TS0 TRIG ts e).wr F.TLOG_TS1 TRIG (ts / 2 ^ 32) e).wr F.TLOG_TS2 TRIG (ts / 2 ^ 64) e).wr F.TLOG_LINE TRIG line e
  let s3 := ((((s2.wr F.TLOG_SRC TRIG r.cls e).wr F.TLOG_MULTI TRIG (bit r.multi) e).wr F.TLOG_DEVICE TRIG r.dev e).wr F.TLOG_LATCH_LO TRIG
    s.stitch.toNat e).wr F.LOG_NEWEST TRIG e
  { s3 with trig := { s3.trig with logged := true, unread := s.trig.unread.filter (fun x => x != e) ++ [e] } }

/-- The mask of the lines logged. -/
def State.logged (s : State) (line : Nat) : Bool :=
  if line < 32 then bitAt (s.rd F.LOG_MASK_LO TRIG) line else bitAt (s.rd F.LOG_MASK_HI TRIG) (line - 32)

/-- Step 1 of a boundary (R51): the raises of the last stitch become the trigger state of the stitch that opens, and the log entries of
lines in LOG_MASK are written. Answers the latched lines with their raises. -/
def State.latchLines (s : State) : State × List (Nat × Raise) :=
  let got := (List.range 64).filterMap (fun l => (s.dueRaise l).map (fun r => (l, r)))
  let mask := got.foldl (fun m e => m + 2 ^ e.1) 0
  let s1 := { s with
    trig := { s.trig with
      raised := []
      sysDue := s.trig.sysDue.filter (fun d => d.due != s.stitch)
      latched := BitVec.ofNat 64 mask }
    sys := { s.sys with
      seen := s.sys.seen.filter (fun x => decide ((s.stitch.toNat + 65536 - x.2.2) % 65536 ≤ 32768)) } }
  (forEach (fun e s => if s.logged e.1 then s.logEntry e.1 e.2 else s) got s1, got)

/-- Raises that fell into the stitch that opens take place: those before offset 8 under the masks still in effect, the others under those
in effect from step 3 (R308, R314). -/
def State.carryRaises (s : State) (early : Bool) : State :=
  forEach (fun (e : Nat × Raise) s =>
    let o := s.off
    { ({ s with off := e.2.at_ }.raiseAs e.2.cls e.1 e.2) with off := o })
    (s.trig.next.filter (fun e => decide (e.2.at_ < 8) == early))
    { s with trig := { s.trig with next := s.trig.next.filter (fun e => decide (e.2.at_ < 8) != early) } }

/-- The mask words that applied until now, kept for raises before offset 8 (R308). -/
def State.keepMasks (s : State) : State :=
  let as := (List.range 6).flatMap (fun c => [F.TRIG_SRC_MASK_LO.at TRIG c 0, F.TRIG_SRC_MASK_HI.at TRIG c 0])
  { s with trig := { s.trig with masksWere := as.foldl (fun t a => if a ∈ s.dirty then Tab.put t a (s.effReg a) else t) [] } }

/-- A processor watches a line through EVT_TLINE (R325). -/
def State.watches (s : State) (key line : Nat) : Bool :=
  let b := s.seqBase key
  (s.flag F.TL_EN_A b && s.rd F.TL_LINE_A b == line) || (s.flag F.TL_EN_B b && s.rd F.TL_LINE_B b == line)
    || (s.flag F.TL_EN_C b && s.rd F.TL_LINE_C b == line) || (s.flag F.TL_EN_D b && s.rd F.TL_LINE_D b == line)

/-- TRIGGER is raised at step 1 in a processor that watches one of the latched lines (R324, R325). -/
def State.watchTrigger (s : State) (key : Nat) (lines : List Nat) : State :=
  if lines.any (s.watches key) then s.raiseProc key (if key < 32 then 1 else 3) false else s

/-! The event ring (R319 to R323). -/

/-- A record's 32 bytes (R319). -/
def EvRec.bytes (e : EvRec) (seq : W32) : List Byte :=
  leBytes 10 e.ts.num ++ leBytes 1 e.code ++ leBytes 1 e.status ++ leBytes 1 (e.device % 64) ++ leBytes 1 e.block ++ leBytes 2 e.inst
    ++ leBytes 4 (nthD 0 e.args 0).toNat ++ leBytes 4 (nthD 0 e.args 1).toNat ++ leBytes 4 (nthD 0 e.args 2).toNat ++ leBytes 4 seq.toNat

/-- The NM_LATCH bit of a non-maskable event (R318, R320). -/
def nmBit (code : Nat) : Option Nat := if code = 0x20 then some 0 else if code = 0x40 then some 1 else none

/-- A record reaches the event ring of the head device (R320 to R323): written, or counted as lost while the ring is full or its base has
not been set; its class becomes pending here and at the head controller in either case. -/
def State.writeRecord (s : State) (e : EvRec) : State :=
  let c := eventClass e.code
  let head := s.rd F.EVQ_HEAD TRIG
  let size := s.rd F.EVQ_SIZE TRIG
  let next := (head + 1) % size
  let seq : W32 := if s.evSeq = BitVec.allOnes 32 then 1 else s.evSeq + 1
  let s1 :=
    if ¬ s.trig.based ∨ next = s.rd F.EVQ_TAIL TRIG then s.bump F.EVQ_LOST TRIG
    else
      let base := s.pair (TRIG + 0x800) (TRIG + 0x804)
      { (s.hostWrite (base + 32 * head) (e.bytes seq)).wr F.EVQ_HEAD TRIG next with evSeq := seq }
  let s2 := s1.modProcAt 0 (fun x => { x with evWord := x.evWord ||| BitVec.ofNat 16 (2 ^ c) })
  let s3 :=
    if bitAt (s2.rd F.EVQ_PEND TRIG) c then s2
    else
      let s4 := s2.wr F.EVQ_PEND TRIG (s2.rd F.EVQ_PEND TRIG + 2 ^ c)
      if bitAt (s4.rd F.EVQ_MASK TRIG) c then s4 else s4.vector (c + 1)
  match nmBit e.code with
  | none => s3
  | some i => (s3.wr F.NM_LATCH TRIG (s3.rd F.NM_LATCH TRIG ||| 2 ^ i)).vector 0

/-- The oldest record goes into the ring, or over the seams to the head device (R320, R415). -/
def State.putRecord (s : State) : State :=
  match s.evq with
  | [] => s
  | e :: t =>
    let s1 := { s with evq := t }
    if s.isHead then s1.writeRecord e
    else { s1.sendMsg 0 (.event (e.bytes 0)) with sys := { s1.sys with unacked := s1.sys.unacked ++ [e] } }

/-- EVENT_RECORD_WRITE (R320, R321, R415). -/
def execEventRecordWrite (s : State) : Out := act s s.up s.putRecord

/-- Records still here at the fourth boundary after their event leave now (R321). -/
def State.evqBoundary (s : State) : State :=
  forEach (fun e s => if e.ts.stitch.toNat + 4 ≤ s.stitch.toNat then s.putRecord else s) s.evq s

/-- The ring is emptied (R320). -/
def State.emptyRing (s : State) : State := s.wr F.EVQ_HEAD TRIG (s.rd F.EVQ_TAIL TRIG)

/-- A write of EVQ_BASE_LO, with which the device begins to write records (R320). -/
def State.writeEvqLo (s : State) (v : W32) (be : Nat) : State :=
  if be % 16 = 0 then s
  else
  let s1 := (s.mergeWrite (TRIG + 0x800) v be).emptyRing
  { s1 with trig := { s1.trig with based := true } }

/-- A write of EVQ_BASE_HI (R320). -/
def State.writeEvqHi (s : State) (v : W32) (be : Nat) : State :=
  if be % 16 = 0 then s else (s.mergeWrite (TRIG + 0x804) v be).emptyRing

/-- A write of EVQ_SIZE first clamps the held EVQ_TAIL (R320). -/
def State.writeEvqSize (s : State) (v : W32) (be : Nat) : State :=
  if be % 16 = 0 then s
  else
  let s1 := s.mergeWrite (TRIG + 0x808) v be
  (s1.wr F.EVQ_TAIL TRIG (min (s1.rd F.EVQ_TAIL TRIG) (s1.rd F.EVQ_SIZE TRIG - 1))).emptyRing

/-- A write of EVQ_TAIL (R320). -/
def State.writeEvqTail (s : State) (v : W32) (be : Nat) : State :=
  let s1 := s.mergeWrite (TRIG + 0x810) v be
  s1.wr F.EVQ_TAIL TRIG (min (s1.rd F.EVQ_TAIL TRIG) (s1.rd F.EVQ_SIZE TRIG - 1))

/-- EVQ_BASE_LO_WRITE (R320). -/
def execEvqBaseLoWrite (v : W32) (be : BitVec 4) (s : State) : Out := act s s.up (s.writeEvqLo v be.toNat)

/-- EVQ_BASE_HI_WRITE (R320). -/
def execEvqBaseHiWrite (v : W32) (be : BitVec 4) (s : State) : Out := act s s.up (s.writeEvqHi v be.toNat)

/-- EVQ_SIZE_WRITE (R320). -/
def execEvqSizeWrite (v : W32) (be : BitVec 4) (s : State) : Out := act s s.up (s.writeEvqSize v be.toNat)

end Sys2Proof.Machine
end

