-- ==== Sys2Proof/Machine/Latch.lean ====
section
/-! DEFINITION. What latched trigger lines do in a patch, at a boundary and, for the lines of a freeze, at the rebind (R254, R282, R325,
R465). -/

namespace Sys2Proof.Machine

/-- The patch is frozen by a handover (R463). -/
def State.patchFrozen (s : State) (k : Nat) : Bool := s.posView (s.ppos k) == .frozen

/-- The lines latched at the present boundary, with the instant of their latch in place of that of their raise. -/
def State.latchedNow (s : State) (lines : List (Nat × Raise)) : List (Nat × Raise) :=
  lines.map (fun e => (e.1, { e.2 with ts := { s.now with off := 0 } }))

/-- Lines latched while a patch is frozen are held for it (R465). -/
def State.holdLines (s : State) (lines : List (Nat × Raise)) : State :=
  match s.res.cur with
  | none => s
  | some r => if s.patchFrozen r.k then { s with res := { s.res with lines := s.res.lines ++ s.latchedNow lines } } else s

/-- Held lines are presented to a patch at its rebind (R465): TRIGGER events, the capture trigger, watches and an armed swap. -/
def State.presentLines (s : State) (k : Nat) (lines : List (Nat × Raise)) : State :=
  let ls := lines.map (fun e => e.1)
  let s1 := forEach (fun e s => s.capLine k e.1 e.2.ts) lines (s.watchTrigger (16 + k) ls)
  let s2 := s1.fireWatches k ls
  if s2.armedOn k ls then s2.dueSwap k else s2

end Sys2Proof.Machine
end

