-- ==== Sys2Proof/Machine/MemRows.lean ====
section
/-! DEFINITION. Commands on banks, bolts and counters: the management and bolt windows, buckets, patrol scrubbing, row replacement, lines read
and written, re-encryption passes and counters that fail (R331 to R356). -/

namespace Sys2Proof.Machine

/-! The windows (R331, R356). -/

/-- A write of the management window's control word: GO starts an access with the values held (R331). -/
def State.writeMgmt (s : State) (p : Nat) (v : W32) (be : Nat) : State :=
  let b := PATCH p
  let s1 := s.mergeWrite (b + 0xB9C) v be
  if F.BK_GO.wants v be = 1 ∧ s.rd F.BK_BUSY b = 0 then
    { (s1.wr F.BK_BUSY b 1) with
      bankWin := s1.bankWin.put p
        { bank := s1.rd F.BK_WIN_BANK b, word := s1.rd F.BK_WIN_WORD b, data := BitVec.ofNat 64 (s1.pair (b + 0xB94) (b + 0xB98))
          write := s1.flag F.BK_WRITE b, bytes := s1.rd F.BK_BYTES b } }
  else s1

/-- A write of a register of a position's PATCH block as R545 lets it through: `t` where it acts. -/
def State.viaPos (s : State) (p o : Nat) (v : W32) (be : Nat) (t : State) : State :=
  match s.posView p with
  | .normal => if s.silent .patch o then s else t
  | .frozen => { s with res := { s.res with held := s.res.held ++ [⟨.host, PATCH p + o, v, be⟩] } }
  | .own => s

/-- MGMT_WINDOW_GO (R331): a write of the window's control word with GO. -/
def execMgmtWindowGo (p : Pos) (v : W32) (be : BitVec 4) (s : State) : Out :=
  act s (s.stackOn && F.BK_GO.wants v be.toNat == 1) (s.viaPos p.val 0xB9C v be.toNat (s.writeMgmt p.val v be.toNat))

/-- MGMT_WINDOW_DONE (R331): the access completes as it was started. A write needs the bank's owner to be a sequencer that is not
RUNNING. -/
def execMgmtWindowDone (p : Pos) (seen : Ecc) (s : State) : Out :=
  let b := PATCH p.val
  let q := s.bankWin.get (fun _ => { bank := 0, word := 0, data := 0, write := false, bytes := 0 }) p.val
  let fin := fun (s : State) (st : Status) => (s.wr F.BK_STATUS b st.code).wr F.BK_BUSY b 0
  act s (s.stackOn && s.rd F.BK_BUSY b == 1)
    (if q.write then
       if (s.bankAt p.val q.bank).owner ≠ 0 ∨ s.rd F.PSTATE b = 1 then fin s .refused
       else
         let r := s.bankWrite p.val q.bank q.word q.data q.bytes seen
         fin r.1 (if r.2 then .poison else .ok)
     else
       let r := s.bankRead p.val q.bank q.word seen
       fin ((r.1.setReg (b + 0xB94) (BitVec.ofNat 32 r.2.1.toNat)).setReg (b + 0xB98) (BitVec.ofNat 32 (r.2.1.toNat / 2 ^ 32)))
         (if r.2.2 then .poison else .ok))

/-- A write of the bolt window's control word (R356). -/
def State.writeBoltWin (s : State) (k : Nat) (v : W32) (be : Nat) : State :=
  let b := BOLT k
  let s1 := s.mergeWrite (b + 0x10C) v be
  if F.BOLT_WIN_GO.wants v be = 1 ∧ s.rd F.BOLT_WIN_BUSY b = 0 then
    { (s1.wr F.BOLT_WIN_BUSY b 1) with
      boltWin := s1.boltWin.put k
        { bank := 0, word := s1.rd F.BOLT_WIN_WORD b, data := BitVec.ofNat 64 (s1.pair (b + 0x104) (b + 0x108))
          write := s1.flag F.BOLT_WIN_WRITE b, bytes := s1.rd F.BOLT_WIN_BYTES b } }
  else s1

/-- BOLT_WINDOW_GO (R356). -/
def execBoltWindowGo (k : LPatch) (v : W32) (be : BitVec 4) (s : State) : Out :=
  act s (s.stackOn && F.BOLT_WIN_GO.wants v be.toNat == 1) (if s.silent .bolt 0x10C then s else s.writeBoltWin k.val v be.toNat)

/-- BOLT_WINDOW_DONE (R338, R352, R356): a write is always one of part of a line. -/
def execBoltWindowDone (k : LPatch) (seen : Ecc) (s : State) : Out :=
  let b := BOLT k.val
  let q := s.boltWin.get (fun _ => { bank := 0, word := 0, data := 0, write := false, bytes := 0 }) k.val
  let line := q.word / 8
  let at_ := 8 * (q.word % 8)
  let fin := fun (s : State) (st : Status) => (s.wr F.BOLT_WIN_STATUS b st.code).wr F.BOLT_WIN_BUSY b 0
  act s (s.stackOn && s.rd F.BOLT_WIN_BUSY b == 1)
    (if q.write then
       let data := List.replicate at_ 0 ++ leBytes 8 q.data.toNat
       let mask := (List.range 64).map (fun i => decide (at_ ≤ i) && decide (i < at_ + 8) && bitAt q.bytes (i - at_))
       match s.boltWrite k.val line data mask seen with
       | (s1, .done) => fin s1 .ok
       | (s1, .poison) => fin (s1.markDamage k.val line) .poison
       | (s1, .halt) => fin s1 .securityHalt
     else
       match s.boltRead k.val line seen with
       | (s1, .data d) =>
         let v := leNat ((d.drop at_).take 8)
         fin ((s1.setReg (b + 0x104) (BitVec.ofNat 32 v)).setReg (b + 0x108) (BitVec.ofNat 32 (v / 2 ^ 32))) .ok
       | (s1, .poison) => fin ((s1.markDamage k.val line).setReg (b + 0x104) 0 |>.setReg (b + 0x108) 0) .poison
       | (s1, .halt) => fin s1 .securityHalt)

/-! Buckets (R341). -/

/-- The root time at which a unit's leak period ends; the first runs 1,000 ms from the start, whatever was written since (R341). -/
def unitLeakEnd (s : State) (u : MemUnit) : Nat :=
  (match u with | .bank p b => (s.bankAt p.val b.val).leakAt | .bolt k => (s.boltAt k.val).leakAt).getD (s.start.began + 1000 * cyclesPerMs)

def State.setLeakEnd (s : State) (u : MemUnit) (t : Nat) : State :=
  match u with
  | .bank p b => s.setBank p.val b.val { s.bankAt p.val b.val with leakAt := some t }
  | .bolt k => s.setBolt k.val { s.boltAt k.val with leakAt := some t }

/-- A root time that has come, or comes within the present stitch. -/
def State.comes (s : State) (t : Nat) : Bool := decide (t < s.time.run + s.period)

/-- The layer of a bank or a bolt is in reset (R525). -/
def State.unitReset (s : State) (u : MemUnit) : Bool :=
  match u with
  | .bank _ b => s.inReset (if b.val < 4 then 1 else 3)
  | .bolt _ => s.inReset 3

/-- BUCKET_LEAK (R341): a leak period ends; the next has the length written by then. -/
def execBucketLeak (u : MemUnit) (s : State) : Out :=
  let t := unitLeakEnd s u
  act s (s.stackOn && s.comes t && !s.unitReset u)
    (((s.tick (t - s.time.run)).setLevel u (unitLevel s u - 1)).setLeakEnd u (t + unitLeakMs s u * cyclesPerMs))

/-- A new DEPTH (R341): a level above it comes down to it. The eight banks of a position share one. -/
def State.setDepth (s : State) (u : MemUnit) (v : Nat) : State :=
  let n := if v = 0 then 1 else v
  match u with
  | .bank p _ =>
    forN (fun b s => s.wr F.BK_LEVEL (PATCH p.val) (min n (s.rd F.BK_LEVEL (PATCH p.val) b)) b) 8 (s.wr F.BK_DEPTH (PATCH p.val) n)
  | .bolt k => (s.wr F.BOLT_DEPTH (BOLT k.val) n).wr F.BOLT_LEVEL (BOLT k.val) (min n (s.rd F.BOLT_LEVEL (BOLT k.val)))

/-- BUCKET_DEPTH_WRITE (R341). -/
def execBucketDepthWrite (u : MemUnit) (v : BitVec 16) (s : State) : Out := act s (s.stackOn && !s.unitReset u) (s.setDepth u v.toNat)

/-! Patrol, rows and lines (R342 to R345, R351). -/

/-- Where a unit's patrol pass stands: the next address, the root time at which the pass began, its length in root cycles and the addresses
that it visits (R342). -/
def patrolPass (s : State) : MemUnit → Nat × Nat × Nat × Nat
  | .bank p b => ((s.bankAt p.val b.val).patrol, (s.bankAt p.val b.val).passAt.getD s.start.marched, 1000 * cyclesPerMs, 131072)
  | .bolt k => ((s.boltAt k.val).patrol, (s.boltAt k.val).passAt, (s.boltAt k.val).passS * (1000 * cyclesPerMs), 33554432)

/-- The root time at which the patrol scrubber reads its next address: the reads are spread evenly over the pass (R342). -/
def patrolTime (s : State) (u : MemUnit) : Nat :=
  let (a, t, len, n) := patrolPass s u
  t + a * len / n

/-- The patrol scrubber goes on to the next address. After the last the next pass begins, a bolt's with the PATROL_S written by then
(R342). -/
def State.patrolNext (s : State) (u : MemUnit) : State :=
  let (a, t, len, n) := patrolPass s u
  match u with
  | .bank p b =>
    s.setBank p.val b.val (if a + 1 < n then { s.bankAt p.val b.val with patrol := a + 1 }
      else { s.bankAt p.val b.val with patrol := 0, passAt := some (t + len) })
  | .bolt k =>
    s.setBolt k.val (if a + 1 < n then { s.boltAt k.val with patrol := a + 1 }
      else { s.boltAt k.val with patrol := 0, passAt := t + len, passS := s.rd F.BOLT_PATROL_S (BOLT k.val) })

/-- A read of a unit's word or line that returns no data to a reader. -/
def State.scrubRead (s : State) (u : MemUnit) (addr : Nat) (seen : Ecc) : State :=
  match u with
  | .bank p b => (s.bankRead p.val b.val addr seen).1
  | .bolt k => (s.boltRead k.val addr seen).1

/-- PATROL_READ (R342): the next word or line of the pass, from the end of the start-up self-tests on. -/
def execPatrolRead (u : MemUnit) (seen : Ecc) (s : State) : Out :=
  let t := patrolTime s u
  act s (s.stackOn && decide (8 ≤ s.rd F.ST_PHASE DEV) && s.comes t && !s.unitReset u)
    (((s.tick (t - s.time.run)).scrubRead u (patrolPass s u).1 seen).patrolNext u)

/-- Words or lines of a row; and the address of one of them (R327, R333). -/
def rowSize : MemUnit → Nat
  | .bank _ _ => 64
  | .bolt _ => 128

def rowAddr (u : MemUnit) (row i : Nat) : Nat :=
  match u with
  | .bank _ _ => 64 * row + i
  | .bolt _ =>
    let m := row % 65536 * 128 + i
    m / 4 * 16 + row / 65536 * 4 + m % 4

/-- ROW_COPY_DONE (R344): every word of the row was read and corrected as it was copied, `seen` naming those whose code words were not clean;
the row map names the spare row from the next boundary. -/
def execRowCopyDone (x : RowCopy) (s : State) : Out :=
  actOn s (if s.stackOn ∧ ¬ s.unitReset x.u then (unitRows s x.u).toCopy.head? else none) fun row =>
    let s1 := forEach (fun e s => if e.1.toNat < rowSize x.u ∧ ¬ s.halted then s.scrubRead x.u (rowAddr x.u row e.1.toNat) e.2 else s) x.seen s
    let r := unitRows s1 x.u
    s1.setRows x.u { r with toCopy := r.toCopy.drop 1, copied := r.copied ++ [row] }

/-- Rows copied are named by the row map from step 3 of a boundary (R344), and a preserving march's repairs take effect (R476). -/
def State.rowBoundary (s : State) (u : MemUnit) : State :=
  let r := unitRows s u
  let (blk, inst, n) := unitEvent u
  if r.copied = [] ∧ r.used = 0 then s
  else
    let s1 := s.setRows u { r with copied := [], mapped := r.mapped ++ r.copied, used := 0 }
    let s2 := if r.used = 0 then s1 else s1.setRowsLeft u (unitRowsLeft s1 u - r.used)
    forEach (fun row s => (s.setRowsLeft u (unitRowsLeft s u - 1)).event .rowSpared blk inst [n, row]) r.copied s2

/-- A poisoned read by the capture or pattern engine raises class 4 (R324, R340); one in the record space is marked (R261). -/
def State.poisonSeen (s : State) (k line : Nat) (r : Reader) : State :=
  match r with
  | .capture => (s.markDamage k line).raiseP k 4
  | .pattern => s.raiseP k 4
  | .offload | .spool | .window => s.markDamage k line
  | .patrol | .rekey => s

/-- BOLT_LINE_READ (R339, R351, R352). -/
def execBoltLineRead (k : LPatch) (line : BitVec 25) (reader : Reader) (seen : Ecc) (s : State) : Out :=
  act s (s.stackOn && !s.inReset 3)
    (match s.boltRead k.val line.toNat seen with
     | (s1, .poison) => s1.poisonSeen k.val line.toNat reader
     | (s1, _) => s1)

/-- BOLT_LINE_WRITE (R338, R339, R351, R352): 64 bytes, and which of them are written. The counts of R340 are the line's; how the writer
learns of ST_POISON is the writer's row. -/
def execBoltLineWrite (k : LPatch) (line : BitVec 25) (_writer : Reader) (data : List Byte) (mask : List Bool) (seen : Ecc) (s : State) : Out :=
  act s (s.stackOn && !s.inReset 3 && data.length == 64 && mask.length == 64 && mask.any id)
    (s.boltWrite k.val line.toNat data mask seen).1

/-- REKEY_PASS_DONE (R355): every line of the region stands under its new epoch, and the next region that waits begins its pass. -/
def execRekeyPassDone (k : LPatch) (s : State) : Out :=
  let k := k.val
  actOn s (if s.stackOn ∧ ¬ s.inReset 3 then (s.boltAt k).rekeys.head? else none) fun j =>
    let x := s.boltAt k
    let cur := bitAt (s.rd F.BOLT_EPOCH (BOLT k) j) 0
    let inRegion := fun (l : Nat) => l / 2 ^ 20 == j
    let s1 := s.setBolt k { x with
      rekeys := x.rekeys.drop 1
      regionBit := x.regionBit.put j cur
      meta_ := x.meta_.map (fun e => if inRegion e.1 ∧ e.2.epoch ≠ cur then (e.1, { e.2 with wctr := 0, epoch := cur }) else e) }
    let again := decide (j ∈ x.rekeys.drop 1)
    ((s1.wr F.BOLT_REKEY (BOLT k) (bit again) j).incr F.BOLT_REKEYS (BOLT k)).showRekey k

/-! Counters (R346, R347). -/

/-- COUNTER_UNCORRECTABLE (R347): a node is rebuilt at the next boundary, a leaf restarts, another counter restarts and is reported. -/
def execCounterUncorrectable (c : CtrRef) (s : State) : Out :=
  act s s.stackOn
    (match c with
     | .leaf l =>
       let b := RIBBON (l.val / 8)
       let a := F.LANE_CW_LO.at b (l.val % 8) 0
       let s1 := { s with live := (List.range 9).foldl (fun t i => t.put (a + 4 * i) 0) s.live }
       (s1.wr F.DISC b 1 (l.val % 8)).wr F.DISC_STITCH b s.stitch.toNat (l.val % 8)
     | .other a =>
       match locate a.toNat with
       | none => s
       | some (blk, inst, o) =>
         let rows := rowsAt blk inst o
         if rows = [] then s
         else
           let z := rows.foldl (fun w r => if r.1.acc = .rc ∨ (r.1.acc = .ro ∧ rows.length = 1) then setBitsOf r.1.f.hi r.1.f.lo w 0 else w) (s.reg a.toNat)
           (({ (s.setReg a.toNat z) with live := s.live.filter (fun e => e.1 != a.toNat) }).event .poison (blkCode blk) inst [a.toNat, s.stitch.toNat] .poison)
     | _ => { s with rebuild := s.rebuild.filter (fun x => x ≠ c) ++ [c] })
where
  /-- The code of a register block (R536). -/
  blkCode (b : Blk) : Nat :=
    match b with
    | .dev => 0 | .clk => 1 | .hk => 2 | .host => 3 | .seam => 4 | .cfg => 5 | .sec => 6 | .res => 7 | .jack => 8 | .ribbon => 9 | .patch => 10
    | .bolt => 11 | .trig => 12

/-- The nine counter words of a node: offsets from its first word, and whether a word holds two 16-bit counters or half of a 64-bit one. -/
def nodeSum (s : State) (kids : List Nat) : List W32 :=
  let w := fun (a i : Nat) => (s.liveReg (a + 4 * i)).toNat
  let sum64 := fun i => (kids.map (fun a => w a i + 2 ^ 32 * w a (i + 1))).sum
  let sat32 := fun i => BitVec.ofNat 32 (min (2 ^ 32 - 1) ((kids.map (fun a => w a i)).sum))
  let sat16 := fun i =>
    BitVec.ofNat 32 (min 65535 ((kids.map (fun a => w a i % 65536)).sum) + 65536 * min 65535 ((kids.map (fun a => w a i / 65536)).sum))
  [BitVec.ofNat 32 (sum64 0), BitVec.ofNat 32 (sum64 0 / 2 ^ 32), sat32 2, sat32 3, BitVec.ofNat 32 (sum64 4), BitVec.ofNat 32 (sum64 4 / 2 ^ 32),
   sat32 6, sat16 7, sat16 8]

/-- Rebuilds a node as the sum of its children (R347). -/
def State.rebuildNode (s : State) (c : CtrRef) : State :=
  let put := fun (a : Nat) (ws : List W32) => { s with live := (List.range 9).foldl (fun t i => t.put (a + 4 * i) (nthD 0 ws i)) s.live }
  match c with
  | .ribbonNode r =>
    let kids := (List.range 8).map (fun i => F.LANE_CW_LO.at (RIBBON r.val) i 0)
    ((put (F.RNODE_CW_LO.at (RIBBON r.val) 0 0) (nodeSum s kids)).wr F.RIBBONNODE_REBUILT (RIBBON r.val) 1).wr F.RIBBONNODE_REB_STITCH (RIBBON r.val)
      s.stitch.toNat
  | .patchNode k =>
    let kids := ((s.patchRib k.val 0).toList ++ (s.patchRib k.val 1).toList).map (fun r => F.RNODE_CW_LO.at (RIBBON r) 0 0)
    let b := s.pb k.val
    ((put (F.PNODE_CW_LO.at b 0 0) (nodeSum s kids)).wr F.PATCHNODE_REBUILT b 1).wr F.PATCHNODE_REB_STITCH b s.stitch.toNat
  | .deviceNode =>
    let kids := (List.range 16).map (fun k => F.PNODE_CW_LO.at (s.pb k) 0 0)
    ((put (F.DNODE_CW_LO.at DEV 0 0) (nodeSum s kids)).wr F.DEVNODE_REBUILT DEV 1).wr F.DEVNODE_REB_STITCH DEV s.stitch.toNat
  | _ => s

/-- Step 4 of a boundary: nodes are rebuilt, ribbons before patches before the device, and every live counter word becomes the snapshot that its register shows (R52, R173, R347). -/
def State.snapshot (s : State) : State :=
  let rank := fun (c : CtrRef) => match c with | .ribbonNode _ => 0 | .patchNode _ => 1 | _ => 2
  let s1 := forN (fun i s1 => forEach (fun c s => if rank c = i then s.rebuildNode c else s) s.rebuild s1) 3 s
  { s1 with rebuild := [], regs := s1.live.foldl (fun t e => t.put e.1 e.2) s1.regs }

end Sys2Proof.Machine
end

