-- ==== Sys2Proof/Machine/Configure.lean ====
section
/-! DEFINITION. Personalities, loading and persistent settings (R422 to R456): the loader, the scrubbers, the settings journal and the
fuses. -/

namespace Sys2Proof.Machine

/-! The loader (R435 to R444). -/

def State.setLoad (s : State) (l : Option LoadSt) : State := { s with cfg := { s.cfg with load := l } }

/-- The stream header in 64 bytes (R424). -/
def parseHeader (bs : List Byte) : StreamHeader :=
  let f := fun o n => leNat ((bs.drop o).take n)
  ⟨BitVec.ofNat 32 (f 0 4), BitVec.ofNat 4 (f 4 1), BitVec.ofNat 4 (f 4 1 / 16), BitVec.ofNat 6 (f 5 1), BitVec.ofNat 7 (f 6 1),
   BitVec.ofNat 128 (f 8 16), crc32c (bs.take 60) == f 60 4 && bs.length == 64⟩

/-- The header check of R436; CHAIN_POS counts only for a load that is not from a slot and not into one (R423). -/
def State.headerOk (s : State) (h : StreamHeader) (pos : Bool) : Bool :=
  h.ident == 0x4C570256 && h.stepping == 2 && h.format == 1 && h.crcOk
    && (!pos || h.chainPos.toNat == s.rd F.SYS_CHAIN_POS DEV)

/-- A stream header of an empty slot. -/
def StreamHeader.none_ : StreamHeader := ⟨0, 0, 0, 0, 0, 0, false⟩

/-- The result words of a load (R435). -/
def LoadSt.words (l : LoadSt) (cause : Nat) : List Nat := [l.frames, cause, l.passed, l.repeats]

/-- A load that the loader has not yet the header of. -/
def LoadSt.start (c : Option CmdRef) (source slot : Nat) (dest : Option Nat) (fallback : Bool) : LoadSt :=
  { c := c, source := source, slot := slot, dest := dest, hdr := StreamHeader.none_, sectionsLeft := 0, taken := false, mine := false,
    full := false, left := 0, seen := 0, done := false, again := false, keyFrames := 0, keyIndex := 0, pairs := [], planes := [], got := [], jackGot := [],
    frames := 0, passed := 0, repeats := 0, fallback := fallback, ended := false }


/-- The load ends without having begun (R436). -/
def State.failIdentity (s : State) (l : LoadSt) : State :=
  ((((s.setLoad none).wr F.CFG_CAUSE CFG 1).wr F.CFG_LAST_STATUS CFG Status.identity.code).wr F.CFG_FALLBACK_USED CFG (bit l.fallback)).completeOpt
    l.c .identity (l.words 1)

/-- The header is here: the check of R436, and then the load or slot write begins (R423, R435), with the loader's clocks opened (R501). -/
def State.takeHeader (s : State) (l : LoadSt) (h : StreamHeader) (bytes : Nat) : State :=
  if s.headerOk h (l.source != 2 && l.dest.isNone) then
    let s1 := (((((s.setLoad (some { l with hdr := h, sectionsLeft := h.sections.toNat })).wr F.CFG_SOURCE CFG l.source).wr
      F.CFG_CAUSE CFG 0).wr F.CFG_FRAMES CFG 0).wr F.CFG_PASSED CFG 0).need [41, 43]
    let s2 := { s1.wr F.CFG_FALLBACK_USED CFG (bit l.fallback) with cfg := { s1.cfg with replay := [], replayed := 0 } }
    match l.dest with
    | none => s2
    | some d =>
      let s3 := (s2.wr F.CFG_SSTATE CFG 1 d).wr F.CFG_SIZE_MIB CFG (ceilDiv bytes 1048576) d
      { s3 with cfg := { s3.cfg with
          slots := s3.cfg.slots.put d (some ⟨bytes, h⟩)
          slotWrites := s3.cfg.slotWrites.put d (s3.cfg.slotWrites.get (fun _ => 0) d + 1) } }
  else s.failIdentity l

/-- An abort (R429, R439, R440, R443). A load that has taken no FULL section leaves the device as it is. A slot being written becomes
EMPTY (R423). -/
def State.abortLoad (s : State) (l : LoadSt) (cause : Nat) (st : Status) : State :=
  let s1 := (((s.setLoad none).wr F.CFG_CAUSE CFG cause).wr F.CFG_LAST_STATUS CFG st.code).completeOpt l.c st (l.words cause)
  match l.dest with
  | some d =>
    let s2 := (s1.wr F.CFG_SSTATE CFG 0 d).wr F.CFG_SIZE_MIB CFG 0 d
    { s2 with cfg := { s2.cfg with slots := s2.cfg.slots.put d none } }
  | none =>
    let s2 := if l.full ∧ l.taken then s1.wr F.CFG_STATE CFG (if s1.cfg.takeOut then s1.rd F.CFG_STATE CFG else 3) else s1
    if (l.full && l.taken || !s1.cfg.released) && !l.fallback && s1.flag F.CFG_FALLBACK CFG then
      { s2 with cfg := { s2.cfg with fallback := true } } else s2

/-- CFG_LOAD (R423, R428, R435, R436). -/
def execCfgLoad (c : CmdRef) (s : State) : Out :=
  actOn s (s.cmdOf c 0x30 .fresh) fun d =>
    let source := min (d.param 8 1) 1
    let slot := min (d.param 9 1) 7
    let dest := if d.param 10 1 = 0 then none else some (min (d.param 11 1) 7)
    if s.rd F.LCS SEC = 5 ∨ s.cfg.load.isSome then s.complete c .refused
    else if source = 1 ∧ dest = some slot then s.complete c .refused
    else
      let l := LoadSt.start (some c) (2 * source) slot dest false
      if source = 0 then
        (s.setLoad (some l)).setPhase c .reading
      else
        match Tab.get (fun _ => none) s.cfg.slots slot, s.rd F.CFG_SSTATE CFG slot with
        | some i, 2 => (s.setPhase c .running).takeHeader l i.hdr (min i.bytes 100663296)
        | _, _ => s.failIdentity l

/-- The header of a host stream has been read, or its read failed (R378, R436, R439). -/
def State.cfgRead (s : State) (d : DispCmd) (data : Option (List Byte)) : State :=
  match s.cfg.load with
  | none => s
  | some l =>
    match data with
    | none => (s.dmaErr d.c).abortLoad { l with full := false } 7 .poison
    | some bs => (s.setPhase d.c .running).takeHeader l (parseHeader (bs.take 64)) (if l.dest.isSome then min (d.param 24 4) 100663296 else d.param 24 4)

/-- CHAIN_STREAM (R435): a stream on CHAIN_IN. -/
def execChainStream (hdr : StreamHeader) (s : State) : Out :=
  act s (s.clk.locked && decide (s.rd F.SYS_CHAIN_IN DEV < 6) && s.seamUp (s.rd F.SYS_CHAIN_IN DEV) && !s.halted && decide (s.rd F.LCS SEC ≠ 5))
    (if s.cfg.load.isSome then s.bump F.CFG_CHAIN_BUSY CFG else s.takeHeader (LoadSt.start none 1 0 none false) hdr 0)

/-- A unit of the stream fails its check: it is requested once more, then the load aborts (R439). -/
def State.requestAgain (s : State) (l : LoadSt) (readError : Bool) : State :=
  if readError then (match l.c with | some c => s.dmaErr c | none => s).abortLoad l 7 .poison
  else if l.again then s.abortLoad l 2 .poison
  else
    let s1 := (s.setLoad (some { l with again := true, repeats := l.repeats + 1 })).bump F.CFG_RETRIES CFG
    if l.source = 1 then s1.modSeam (s1.rd F.SYS_CHAIN_IN DEV) (fun x => { x with msgOut := x.msgOut ++ [(0, .frameAgain (BitVec.ofNat 32 l.seen))] })
    else s1

/-- Bytes leave by the chain-out seam, straight to the next device (R23, R415, R438). -/
def State.sendChain (s : State) (bs : List Byte) : State :=
  let n := s.rd F.SYS_CHAIN_OUT DEV
  if n < 6 ∧ s.seamUp n = true then
    s.modSeam n (fun x => { x with dataOut := x.dataOut ++ (chunks 60 (bs.length + 1) bs).mapIdx (fun i c =>
      ⟨1, 0, Fin.ofNat 64 s.devnum, BitVec.ofNat 16 i, c⟩) })
  else s

/-- The header that a device sends before the first section that it passes on (R424, R438). -/
def passHeader (h : StreamHeader) (pos sections : Nat) : List Byte :=
  let body := leBytes 4 h.ident.toNat ++ leBytes 1 (h.stepping.toNat + 16 * h.format.toNat) ++ leBytes 1 ((pos + 1) % 64) ++ leBytes 1 sections
    ++ [0] ++ leBytes 16 h.nonce.toNat ++ List.replicate 36 0
  body ++ leBytes 4 (crc32c body)

/-- A section is passed on, unchanged and behind the header where it is the first (R438): those that come after it are passed on too. What was
passed on stays in the replay buffer. -/
def State.passSection (s : State) (l : LoadSt) (raw : List Byte) : State :=
  let s1 := if l.passed = 0 then s.sendChain (passHeader l.hdr (s.rd F.SYS_CHAIN_POS DEV) l.sectionsLeft) else s
  let units := raw.take 16 :: chunks 528 (raw.length + 1) (raw.drop 16)
  let all := s1.cfg.replay ++ units
  { s1.sendChain raw with cfg := { s1.cfg with replay := all.drop (all.length - 256), replayed := s1.cfg.replayed + units.length } }

/-- The next device of the chain asks for a frame or section header once more (R439): it is sent while the replay buffer holds it. -/
def State.replayFrame (s : State) (n : Nat) : State :=
  let first := s.cfg.replayed - s.cfg.replay.length
  if first ≤ n ∧ n < s.cfg.replayed then s.sendChain (nthD [] s.cfg.replay (n - first)) else s

/-- The load that takes frames now; a slot write takes every frame. -/
def State.loading (s : State) : Option LoadSt :=
  match s.cfg.load with
  | some l => if (l.mine || l.dest.isSome) && !s.halted then some l else none
  | none => none

/-- SECTION_HEADER (R425, R437, R438, R439, R441). `raw` is the whole section where it is one that the device passes on. -/
def execSectionHeader (pos : BitVec 6) (mode : BitVec 2) (frames : W32) (x : SectionBody) (s : State) : Out :=
  actOn s (match s.cfg.load with | some l => if 0 < l.sectionsLeft ∧ ¬ s.halted ∧ ¬ l.mine then some l else none | none => none) fun l =>
    if !x.crcOk then s.requestAgain l false
    else
      let l1 := { l with again := false, sectionsLeft := l.sectionsLeft - 1, seen := l.seen + 1 }
      let own := s.rd F.SYS_CHAIN_POS DEV
      if l.dest.isSome then s.setLoad (some l1)
      else if (if l.source = 2 then !l.taken else pos.toNat == own && !l.taken) then
        let full := mode != 1
        let s1 := s.setLoad (some { l1 with taken := true, mine := decide (frames ≠ 0), left := frames.toNat, full := full, keyFrames := 0, keyIndex := 0 })
        { s1 with cfg := { s1.cfg with takeOut := s1.cfg.takeOut || full } }
      else if l.source = 2 then s.setLoad (some l1)
      else
        let l2 := { l1 with seen := l1.seen + frames.toNat }
        if pos.toNat ≤ own then (s.setLoad (some l2)).bump F.CFG_DISCARDED CFG
        else if s.rd F.SYS_CHAIN_OUT DEV = 7 then s.setLoad (some l2)
        else ((s.passSection l x.raw).setLoad (some { l2 with passed := l.passed + 1 })).wr F.CFG_PASSED CFG (l.passed + 1)

/-- FRAMES shows the frames written so far (R456); with the last of its FRAMES a section is over, END or not (R425). -/
def State.showLoad (s : State) : State :=
  match s.cfg.load with
  | none => s
  | some l => (s.setLoad (some { l with mine := l.mine && (l.dest.isSome || decide (l.left ≠ 0)) })).wr F.CFG_FRAMES CFG l.frames

/-- A frame of the device's section: its CRC, the limit of R429, then its effect. A slot write only checks it (R423). -/
def State.onFrame (s : State) (f : FrameInfo) (effect : LoadSt → State → State) : Out :=
  actOn s s.loading fun l =>
    if !f.crcOk then s.requestAgain l f.readError
    else if l.dest.isSome then (s.setLoad (some { l with again := false, frames := l.frames + 1 })).showLoad
    else if 126 ≤ l.keyFrames then s.abortLoad l 6 .refused
    else (effect { l with again := false, keyFrames := l.keyFrames + 1, left := l.left - 1, seen := l.seen + 1 } s).showLoad

/-- FRAME_NOP (R427). -/
def execFrameNop (f : FrameInfo) (s : State) : Out := s.onFrame f (fun l s => s.setLoad (some l))

/-- A frame of a plane is written (R427, R462): active, shadow or a stored slot. -/
def State.writeFrame (s : State) (k pl index : Nat) (items : List PlaneItem) : State :=
  let x := s.fabAt k
  s.setFab k (if pl = 0 then { x with aCfg := Tab.put x.aCfg index items }
    else if pl = 1 then { x with sCfg := Tab.put x.sCfg index items }
    else { x with store := x.store.put (pl - 2) (Tab.put (x.store.get (fun _ => []) (pl - 2)) index items) })

/-- A frame of a stored slot is written: the slot is not VALID until step 3 of the boundary after END, and remembers where it was loaded
from (R441, R447). -/
def State.writeStored (s : State) (k slot index : Nat) (items : List PlaneItem) : State :=
  let s1 := (s.writeFrame k (slot + 2) index items).wr F.DIR_VALID (s.pb k) 0 slot
  let src := match s.cfg.load with
    | some l => if l.source = 2 then some (l.slot, s.cfg.slotWrites.get (fun _ => 0) l.slot) else none
    | none => none
  { s1 with cfg := { s1.cfg with storeSrc := s1.cfg.storeSrc.put (8 * k + slot) src } }

/-- The STORED_ONLY frames that waited for a logical patch's drain are written (R445). -/
def State.landFrames (s : State) (k : Nat) : State :=
  forEach (fun (w : Nat × Nat × Nat × List PlaneItem) s => s.writeStored w.1 w.2.1 w.2.2.1 w.2.2.2) (s.cfg.heldWrites.filter (fun w => w.1 == k))
    { s with cfg := { s.cfg with heldWrites := s.cfg.heldWrites.filter (fun w => w.1 != k) } }

/-- FRAME_PLANE (R426, R427, R441, R445). `items` is what the frame's payload configures. An INDEX beyond 1,799 names no frame and writes nothing. -/
def execFramePlane (f : FrameInfo) (lpatch : LPatch) (plane : BitVec 4) (index : BitVec 11) (x : PlaneBody) (s : State) : Out :=
  s.onFrame f fun l s =>
    let pl := min plane.toNat 7
    let k := lpatch.val
    if (!l.full && decide (pl < 2)) || decide (1800 ≤ index.toNat) then s.setLoad (some l)
    else
      let l1 := { l with
        planes := if l.planes.any (fun p => p.1 == k && p.2.1 == pl) then l.planes else l.planes ++ [(k, pl, x.planeId.toNat)]
        got := l.got.put (2048 * (8 * k + pl) + index.toNat) true
        frames := l.frames + 1 }
      let s1 := s.setLoad (some l1)
      if pl < 2 then s1.writeFrame k pl index.toNat x.items
      else if !l.full ∧ s.rd F.LPM_HOVER DEV k = 1 ∧ 2 ≤ s.rd F.RES_PHASE RES then
        { s1 with cfg := { s1.cfg with heldWrites := s1.cfg.heldWrites ++ [(k, pl - 2, index.toNat, x.items)] } }
      else s1.writeStored k (pl - 2) index.toNat x.items

/-- FRAME_SETTING (R427): held for the release; padding pairs are dropped. -/
def execFrameSetting (f : FrameInfo) (pairs : List (W32 × W32)) (s : State) : Out :=
  s.onFrame f fun l s =>
    s.setLoad (some (if l.full then { l with pairs := l.pairs ++ pairs.filter (fun p => p.1 != 0xFFFFFFFF), frames := l.frames + 1 } else l))

/-- The jack slot that is not active. -/
def State.idleJack (s : State) : Nat := 1 - s.rd F.JK_ACTIVE JACK

/-- FRAME_JACK (R427, R533): a chunk of the inactive jack slot, VALID once its last chunk is written and read back. -/
def execFrameJack (f : FrameInfo) (chunk : BitVec 11) (x : JackBody) (s : State) : Out :=
  s.onFrame f fun l s =>
    let j := s.idleJack
    let s1 := s.setLoad (some { l with jackGot := l.jackGot ++ [chunk.toNat], frames := l.frames + 1 })
    let v := bit x.last
    let old : Plane := (s.cfg.jackImgs.get (fun _ => []) j).filter (fun e => !x.last || decide (e.1 < chunk.toNat))
    let img := Tab.put old chunk.toNat x.items
    let s2 := if j = 0 then s1.wr F.JK_VALID0 JACK v else s1.wr F.JK_VALID1 JACK v
    { s2 with cfg := { s2.cfg with jackImgs := s2.cfg.jackImgs.put j img, jackValid := if j = 0 then (v, s2.cfg.jackValid.2) else (s2.cfg.jackValid.1, v) } }

/-- KEYROLL (R428, R429): later frames are decrypted under the next key. -/
def execKeyroll (f : FrameInfo) (s : State) : Out :=
  s.onFrame f (fun l s => s.setLoad (some { l with keyFrames := 0, keyIndex := l.keyIndex + 1 }))

/-- Every plane that a PLANE frame named has all of its 1,800 frames (R440). -/
def LoadSt.complete_ (l : LoadSt) : Bool :=
  l.planes.all (fun p => (l.got.filter (fun e => e.1 / 2048 == 8 * p.1 + p.2.1 && e.2)).length == 1800)

/-- FRAME_END (R427, R440, R442). -/
def execFrameEnd (f : FrameInfo) (s : State) : Out :=
  s.onFrame f fun l s =>
    if !l.complete_ then s.abortLoad l 5 .streamShort
    else s.setLoad (some { l with mine := false, ended := true })

/-- STREAM_END (R437, R440): the stream ends or LEN is exhausted. -/
def execStreamEnd (s : State) : Out :=
  actOn s (match s.cfg.load with | some l => if l.dest.isNone ∧ ¬ s.halted ∧ l.hdr ≠ StreamHeader.none_ then some l else none | none => none) fun l =>
    if l.done then s.setLoad none
    else if l.mine || l.again then s.abortLoad l 3 .streamShort
    else if l.taken then (if l.ended then s.setLoad (some { l with sectionsLeft := 0 }) else s.abortLoad l 3 .streamShort)
    else ((s.setLoad none).wr F.CFG_LAST_STATUS CFG 0).completeOpt l.c .ok (l.words 0)

/-- STREAM_TIMEOUT (R440). -/
def execStreamTimeout (s : State) : Out :=
  actOn s (if s.halted then none else s.cfg.load) fun l =>
    if l.done then s.setLoad none else if l.ended then s else s.abortLoad l 4 .streamShort

/-- FALLBACK_LOAD (R443). -/
def execFallbackLoad (hdr : StreamHeader) (s : State) : Out :=
  let slot := s.rd F.CFG_FB_SLOT CFG
  let s1 := { s.wr F.CFG_FALLBACK_USED CFG 1 with cfg := { s.cfg with fallback := false } }
  act s (s.cfg.fallback && s.cfg.load.isNone && !s.halted)
    (if s.rd F.CFG_SSTATE CFG slot = 2 ∧ s.cfg.inForce.isSome then s1.takeHeader (LoadSt.start none 2 slot none true) hdr 0 else s1)

/-- SLOT_WRITE_DONE (R423). -/
def execSlotWriteDone (s : State) : Out :=
  actOn s (match s.cfg.load with
    | some l => (match l.dest with | some d => if l.hdr ≠ StreamHeader.none_ ∧ ¬ s.halted ∧ ¬ l.again then some (l, d) else none | none => none)
    | none => none) fun p =>
    ((((s.setLoad none).wr F.CFG_SSTATE CFG 2 p.2).wr F.CFG_LAST_STATUS CFG 0).completeOpt p.1.c .ok (p.1.words 0))

/-! Scrubbers (R446 to R448). -/

/-- A correction of a resident frame: the third within 1 s is a hard fault of the position (R459). -/
def State.frameHit (s : State) (p : Nat) (key : Nat) : State :=
  let recent := s.cfg.hits.filter (fun h => decide (s.rootNow ≤ h.2 + 3200000000))
  let n := (recent.filter (fun h => h.1 == key)).length
  let s1 := { s with cfg := { s.cfg with hits := recent ++ [(key, s.rootNow)] } }
  if 2 ≤ n then s1.faultPosition p else s1

/-- The plane of a position is damaged or lost (R447, R11). -/
def State.framePoison (s : State) (p frame : Nat) : State := s.event .poison blkPATCH p [frame] .poison

/-- A frame of the active plane has been read back, clean or not (R201): a disabled line of which every frame has been read clean since its
disable, with no error among them, may be re-enabled at the next boundary. -/
def State.readBack (s : State) (p frame : Nat) (clean : Bool) : State :=
  match s.posPatch p with
  | none => s
  | some k =>
    let x := s.fabAt k
    if x.lines.all (fun b => !b.off) then s
    else s.setFab k { x with lines := x.lines.map (fun b =>
      let all := driverFrames x.aCfg b.half b.line
      if ¬ b.off ∨ frame ∉ all then b else { b with need := if clean then b.need.erase frame else all }) }

/-- A stored slot was loaded from a personality slot that has not been rewritten since (R447). -/
def State.fromNvm (s : State) (k slot : Nat) : Bool :=
  match s.cfg.storeSrc.get (fun _ => none) (8 * k + slot) with
  | some (n, w) => s.rd F.CFG_SSTATE CFG n == 2 && s.cfg.slotWrites.get (fun _ => 0) n == w
  | none => false

/-- SCRUB_FRAME_READ (R446, R447). `seen` is what the frame's code finds with the table bits of SHIFT-mode cells masked (R194): those are state,
which no scrub touches. -/
def execScrubFrameRead (p : Pos) (upper : Bool) (what : ScrubWhat) (frame : BitVec 11) (seen refSeen : FrameCode) (s : State) : Out :=
  let key := 2 * (2048 * (4 * p.val + (match what with | .active => 0 | .shadow => 1 | _ => 2)) + frame.toNat) + bit upper
  let b := PATCH p.val
  let resident := fun (s : State) =>
    match seen, refSeen with
    | .clean, _ => s
    | .corr, _ => (s.bump F.CFG_CORR CFG).frameHit p.val key
    | .uncorr, .uncorr => (s.wr F.CFG_DAMAGED CFG 1).framePoison p.val frame.toNat
    | .uncorr, _ => s.bump F.CFG_UNC CFG
  let last := fun (s : State) => if frame.toNat = 1799 then (if p.val = 17 then s.incr F.CFG_PASSES CFG else s) else s
  act s (decide (8 ≤ s.rd F.ST_PHASE DEV) && !s.halted && decide (s.hk.stop = 0) && decide (frame.toNat < 1800))
    (match what with
     | .active => (resident s).readBack p.val frame.toNat (seen == .clean)
     | .shadow => if s.flag F.PLS_SHADOW_VALID b then last (resident s) else last s
     | .reference => if refSeen = .uncorr ∧ seen = .uncorr then (s.wr F.CFG_DAMAGED CFG 1).framePoison p.val frame.toNat else s
     | .stored slot =>
       match s.posPatch p.val with
       | none => s
       | some k =>
         if seen = .uncorr ∧ s.fromNvm k slot.val = false then (s.wr F.DIR_VALID b 0 slot.val).framePoison p.val frame.toNat else s)

/-- SCRUBBER_CROSSCHECK (R448). -/
def execScrubberCrosscheck (differ : Bool) (s : State) : Out :=
  act s (decide (8 ≤ s.rd F.ST_PHASE DEV) && !s.halted) (if differ then s.bump F.CFG_XFIX CFG else s)

/-- LATCH_VOTE_FIX (R448). -/
def execLatchVoteFix (s : State) : Out :=
  act s (decide (8 ≤ s.rd F.ST_PHASE DEV) && !s.halted) (s.bump F.CFG_VOTE_FIX CFG)

/-! Settings (R449 to R455). -/

/-- A setting's default (R449). -/
def settingDefault (n : Nat) : List Byte :=
  match n with
  | 1 => leBytes 4 0x77
  | 2 => leBytes 4 0x02561F3C
  | 3 => leBytes 4 0
  | 4 => leBytes 4 (10 + 256 * 100)
  | _ => []

/-- A committed value, or the default of a setting that has none. -/
def State.setting (s : State) (n : Nat) : List Byte := Tab.get settingDefault s.cfg.settings n

/-- A value clamped as its fields would be (R450). -/
def clampSetting (n : Nat) (v : List Byte) : List Byte :=
  let x := leNat v
  let seam := fun y => if y = 6 then 7 else y
  match n with
  | 1 => leBytes v.length (seam (x % 8) + 16 * seam (x / 16 % 8) + 256 * (x / 256 % 64))
  | 3 => leBytes v.length (x % 16)
  | 4 => leBytes v.length ((Clamp.range 2 100).apply (x % 256) + 256 * (Clamp.range 20 10000).apply (x / 256 % 65536))
  | _ => v

/-- Loads the committed settings into the fields shown as nvm (R4, R449). -/
def State.loadSettings (s : State) : State :=
  let chain := leNat (s.setting 1)
  let fb := leNat (s.setting 3)
  let scr := leNat (clampSetting 4 ((s.setting 4 ++ [0, 0, 0]).take 3))
  let s1 := ((s.wr F.SYS_CHAIN_IN DEV chain).wr F.SYS_CHAIN_OUT DEV (chain / 16)).wr F.SYS_CHAIN_POS DEV (chain / 256)
  ((((s1.wr F.CFG_FALLBACK CFG fb).wr F.CFG_FB_SLOT CFG (fb / 2)).wr F.CFG_RES_MS CFG scr).wr F.CFG_STO_MS CFG (scr / 256))

/-- Loads the subsystem IDs into configuration space, which only a start does (R360, R567). -/
def State.loadSubsys (s : State) : State := { s with host := { s.host with subsys := BitVec.ofNat 32 (leNat (s.setting 2)) } }

/-- Shows the personality slots (R456). -/
def State.showSlots (s : State) : State :=
  forN (fun k s =>
    match Tab.get (fun _ => none) s.cfg.slots k with
    | none => (s.wr F.CFG_SSTATE CFG 0 k).wr F.CFG_SIZE_MIB CFG 0 k
    | some i => (s.wr F.CFG_SSTATE CFG 2 k).wr F.CFG_SIZE_MIB CFG (ceilDiv i.bytes 1048576) k) 8 s

/-- Bytes used in a journal half that holds `n` records (R452). -/
def journalBytes (n : Nat) : Nat := 8192 + n / 51 * 4096 + n % 51 * 80

/-- Shows the journal (R456). How a part of a KiB counts is left open. -/
def State.showJournal (s : State) : State :=
  let b := journalBytes s.cfg.fill
  let kib := if b % 1024 = 0 then b / 1024 else b / 1024 + s.freeWord.toNat % 2
  (((s.took.wr F.CFG_FILL_KIB CFG kib).wr F.CFG_GEN CFG s.cfg.gen).wr F.CFG_HALF CFG s.cfg.half).wr F.CFG_STAGED CFG s.cfg.staged.length

/-- Stages a value, or refuses beyond 256 numbers (R450). -/
def State.stage (s : State) (c : CmdRef) (n : Nat) (v : Option (List Byte)) : State :=
  let t := Tab.put s.cfg.staged n (v.map (clampSetting n))
  if 256 < t.length then s.complete c .refused
  else (({ s with cfg := { s.cfg with staged := t } }).wr F.CFG_STAGED CFG t.length).complete c .ok

/-- The number and length that a SET_STAGE names (R450). -/
def DispCmd.setNumber (d : DispCmd) : Nat := min (d.param 8 2) 0x1FFF
def DispCmd.setLen (d : DispCmd) : Nat := min (d.param 10 1) 64

/-- SET_STAGE (R450). -/
def execSetStage (c : CmdRef) (s : State) : Out :=
  actOn s (s.cmdOf c 0x31 .fresh) fun d =>
    let n := d.setNumber
    let len := d.setLen
    let flags := d.param 11 1
    if bitAt flags 1 then
      let v := s.setting n
      (s.toHost (d.param 16 8) ((List.range 64).map (fun i => nthD 0 v i))).complete c .ok [v.length]
    else if len = 0 then s.stage c n none
    else if ¬ bitAt flags 0 ∧ len ≤ 48 then s.stage c n (some ((d.entry.drop 16).take len))
    else s.setPhase c .reading

/-- The host data of a SET_STAGE have been read, or the read failed (R378). -/
def State.setStageRead (s : State) (d : DispCmd) (data : Option (List Byte)) : State :=
  match data with
  | none => (s.dmaErr d.c).complete d.c .poison
  | some bs => s.stage d.c d.setNumber (some (bs.take d.setLen))

/-- STORE (R451): the records are written; a STORE during a compaction or another store waits. -/
def execStore (c : CmdRef) (s : State) : Out :=
  actOn s (s.cmdOf c 0x32 .fresh) fun _ =>
    if s.flag F.CFG_COMPACTING CFG ∨ s.cfg.storing.isSome then
      { s.setPhase c .waiting with cfg := { s.cfg with storeWait := s.cfg.storeWait ++ [c] } }
    else if s.cfg.staged = [] then s.complete c .ok [0, s.rd F.CFG_FILL_KIB CFG]
    else { s.setPhase c .running with cfg := { s.cfg with storing := some (c, s.cfg.staged.length) } }

/-- Applies the staged values to the committed ones. -/
def commitStaged (staged : Tab (Option (List Byte))) (t : Tab (List Byte)) : Tab (List Byte) :=
  forEach (fun e t => match e.2 with | none => Tab.del t e.1 | some v => Tab.put t e.1 v) staged t

/-- Stores that wait are taken up again. -/
def State.wakeStores (s : State) : State :=
  { forEach (fun c s => s.setPhase c .fresh) s.cfg.storeWait s with cfg := { s.cfg with storeWait := [] } }

/-- STORE_COMPLETE (R451, R454). -/
def execStoreComplete (s : State) : Out :=
  actOn s (if s.halted then none else s.cfg.storing) fun p =>
    let n := s.cfg.staged.length + 1
    let s1 := { s with
      cfg := { s.cfg with
        settings := commitStaged s.cfg.staged s.cfg.settings
        staged := []
        fill := s.cfg.fill + n
        seq := s.cfg.seq + n
        stores := s.cfg.stores + 1
        storing := none } }.showJournal
    let s2 := s1.complete p.1 .ok [n, s1.rd F.CFG_FILL_KIB CFG]
    if 6144 * 1024 ≤ journalBytes s2.cfg.fill then s2.wr F.CFG_COMPACTING CFG 1 else s2.wakeStores

/-- COMPACTION_DONE (R454). -/
def execCompactionDone (s : State) : Out :=
  let live := s.cfg.settings.length + 1
  act s (s.flag F.CFG_COMPACTING CFG && !s.halted)
    (({ s with cfg := { s.cfg with fill := live, seq := s.cfg.seq + live, gen := s.cfg.gen + 1, half := 1 - s.cfg.half } }.showJournal.wr
      F.CFG_COMPACTING CFG 0).wakeStores)

/-! Fuses (R431 to R434). -/

/-- Shows the fuses at a start: the state burned for it and the design key of that state take effect (R431, R432). -/
def State.loadFuses (s : State) : State :=
  let f := { s.cfg.fuses with lcs := s.cfg.fuses.next }
  let key := if f.lcs = 5 then none else if f.lcs ≤ 1 ∨ (f.lcs = 2 ∧ f.dkey ≠ 1) then some (List.replicate 32 0) else some f.key
  let zero := decide (key = some (List.replicate 32 0))
  let s1 := { s with cfg := { s.cfg with fuses := f, burn := none, inForce := key } }
  ((((s1.wr F.LCS SEC f.lcs).wr F.PEND_LCS SEC f.lcs).wr F.DKEY_STATE SEC f.dkey).wr F.DKEY_ZERO SEC (bit zero)).wr F.DKEY_KCV SEC f.kcv.toNat

/-- DESIGN_KEY (R432). -/
def execDesignKey (c : CmdRef) (s : State) : Out :=
  actOn s (if s.cfg.burn.isSome then none else s.cmdOf c 0x33 .fresh) fun d =>
    let key := (d.entry.drop 8).take 32
    if s.rd F.LCS SEC ≠ 2 ∨ s.rd F.DKEY_STATE SEC ≠ 0 ∨ s.cfg.load.isSome ∨ crc32c key ≠ d.param 40 4 then s.complete c .refused
    else { s.setPhase c .running with cfg := { s.cfg with burn := some (.key c key) } }

/-- The transitions of R431. -/
def lcsAllowed (from_ to_ dkey : Nat) : Bool :=
  (from_ == 0 && to_ == 1) || (from_ == 1 && to_ == 2) || (from_ == 2 && to_ == 3 && dkey == 1) || (from_ == 3 && to_ == 4)
    || (decide (from_ ≤ 4) && to_ == 5)

/-- LCS_ADVANCE (R433). -/
def execLcsAdvance (c : CmdRef) (s : State) : Out :=
  actOn s (if s.cfg.burn.isSome then none else s.cmdOf c 0x34 .fresh) fun d =>
    let target := min (d.param 8 1) 5
    let pending := decide (s.rd F.PEND_LCS SEC ≠ s.rd F.LCS SEC)
    if lcsAllowed (s.rd F.LCS SEC) target (s.rd F.DKEY_STATE SEC) && (!pending || target == 5) then
      { s.setPhase c .running with cfg := { s.cfg with burn := some (.state c target) } }
    else s.complete c .refused

/-- FUSE_BURN_DONE (R432, R433). -/
def execFuseBurnDone (verified : Bool) (s : State) : Out :=
  actOn s s.cfg.burn fun b =>
    match b with
    | .key c key =>
      if verified then
        let kcv := Config.keyCheckValue key
        ((({ s with cfg := { s.cfg with burn := none, fuses := { s.cfg.fuses with dkey := 1, kcv := kcv, key := key } } }.wr F.DKEY_STATE SEC 1).wr F.DKEY_KCV
          SEC kcv.toNat).complete c .ok)
      else
        (({ s with cfg := { s.cfg with burn := none, fuses := { s.cfg.fuses with dkey := 2 } } }.wr F.DKEY_STATE SEC 2).complete c .refused)
    | .state c target =>
      (({ s with cfg := { s.cfg with burn := none, fuses := { s.cfg.fuses with next := target } } }.wr F.PEND_LCS SEC target).complete c .ok
        [target])

end Sys2Proof.Machine
end

