-- ==== Sys2Proof/Machine/Flags.lean ====
section
/-! DEFINITION. Comparisons, saturation and rounding of the Graov instructions (R124, R125, R147). The processors have no flag register:
a comparison writes a predicate. -/

namespace Sys2Proof.Machine

/-- The condition of cmp.cc (R125). -/
def Cond.holds : Cond → W64 → W64 → Bool
  | .eq, x, y => x == y
  | .ne, x, y => x != y
  | .lt, x, y => x.slt y
  | .ge, x, y => !x.slt y
  | .ltu, x, y => x.ult y
  | .geu, x, y => !x.ult y

/-- The function code of a condition (R125). -/
def Cond.fn : Cond → Nat
  | .eq => 0 | .ne => 1 | .lt => 2 | .ge => 3 | .ltu => 4 | .geu => 5

/-- A shift amount above 63 acts as 63 (R124). -/
def shiftAmount (x : W64) : Nat := min x.toNat 63

/-- The signed and unsigned minimum and maximum (R124). -/
def smin (x y : W64) : W64 := if y.slt x then y else x
def smax (x y : W64) : W64 := if x.slt y then y else x
def umin (x y : W64) : W64 := if y.ult x then y else x
def umax (x y : W64) : W64 := if x.ult y then y else x

/-- sat16 and sat48 (R147). -/
def sat16 (v : Int) : Int := clampInt (-32768) 32767 v
def sat48 (v : Int) : Int := clampInt (-(2 ^ 47)) (2 ^ 47 - 1) v

/-- rnd(p, mu): half is added, then an arithmetic right shift (R147). -/
def rnd (p : Int) (mu : Nat) : Int := if mu = 0 then p else (p + 2 ^ (mu - 1)) / 2 ^ mu

/-- A 48-bit metric is before another if the signed 48-bit difference is negative (R150, R151). -/
def before48 (x y : BitVec 48) : Bool := (x - y).msb

end Sys2Proof.Machine
end

