-- ==== Sys2Proof/Machine/Operands.lean ====
section
/-! DEFINITION. The operands of Graov instructions: instruction words by format (R116), registers (R78, R79), addresses (R81), vectors
(R146, R147), and the sequencing that every instruction shares (R107, R108, R120). -/

namespace Sys2Proof.Machine

/-! Instruction words (R116). -/

def wordR (op rd ra rb fn : Nat) : W32 := BitVec.ofNat 32 (op * 2 ^ 24 + rd * 2 ^ 19 + ra * 2 ^ 14 + rb * 2 ^ 9 + fn)
def wordI (op rd ra imm : Nat) : W32 := BitVec.ofNat 32 (op * 2 ^ 24 + rd * 2 ^ 19 + ra * 2 ^ 14 + imm)
def wordM (op rd a o size imm : Nat) : W32 := BitVec.ofNat 32 (op * 2 ^ 24 + rd * 2 ^ 19 + a * 2 ^ 16 + o * 2 ^ 13 + size * 2 ^ 11 + imm)
def wordS (op rd str imm : Nat) : W32 := BitVec.ofNat 32 (op * 2 ^ 24 + rd * 2 ^ 19 + str * 2 ^ 12 + imm)
def wordB (op cond pred offset : Nat) : W32 := BitVec.ofNat 32 (op * 2 ^ 24 + cond * 2 ^ 20 + pred * 2 ^ 17 + offset)
def wordL (op count len : Nat) : W32 := BitVec.ofNat 32 (op * 2 ^ 24 + count * 2 ^ 14 + len * 2 ^ 4)

/-! Registers of the selected bank (R78, R79, R90). -/

/-- General register; g0 reads 0. -/
def State.g (s : State) (key r : Nat) : W64 := if r = 0 then 0 else (s.procAt key).g.get (fun _ => 0) (32 * s.bank key + r)

/-- Writes a general register; a write of g0 is discarded. -/
def State.setG (s : State) (key r : Nat) (v : W64) : State :=
  if r = 0 then s else s.modProcAt key (fun x => { x with g := x.g.put (32 * s.bank key + r) v })

/-- Address register. -/
def State.a (s : State) (key r : Nat) : W32 := (s.procAt key).a.get (fun _ => 0) (8 * s.bank key + r)

def State.setA (s : State) (key r : Nat) (v : W32) : State :=
  s.modProcAt key (fun x => { x with a := x.a.put (8 * s.bank key + r) v })

/-- Offset register; o0 reads 0. -/
def State.o (s : State) (key r : Nat) : W32 := if r = 0 then 0 else (s.procAt key).o.get (fun _ => 0) (8 * s.bank key + r)

def State.setO (s : State) (key r : Nat) (v : W32) : State :=
  if r = 0 then s else s.modProcAt key (fun x => { x with o := x.o.put (8 * s.bank key + r) v })

/-- Predicate; p0 reads 1. -/
def State.p (s : State) (key r : Nat) : Bool := if r = 0 then true else (s.procAt key).p.get (fun _ => false) (8 * s.bank key + r)

def State.setP (s : State) (key r : Nat) (v : Bool) : State :=
  if r = 0 then s else s.modProcAt key (fun x => { x with p := x.p.put (8 * s.bank key + r) v })

/-! Data memory (R77, R81, R129). -/

/-- The size of a processor's data memory. -/
def dmemSize (key : Nat) : Nat := if key < 16 then 0x100000 else if key < 32 then 0x4000 else 0x8000

/-- A byte of data memory; one that nothing has written reads 0 (assumption 8). -/
def State.dbyte (s : State) (key a : Nat) : Byte := (s.procAt key).dmem.get (fun _ => 0) a

/-- `n` bytes of data memory from an address. -/
def State.dload (s : State) (key a n : Nat) : Nat := leNat ((List.range n).map (fun i => s.dbyte key (a + i)))

/-- Stores bytes in a byte memory in its canonical form. -/
def storeBytes (t : Tab Byte) (a : Nat) : List Byte → Tab Byte
  | [] => t
  | b :: bs => storeBytes (Tab.set (fun _ => 0) t a b) (a + 1) bs

/-- Stores the low `n` bytes of a value. -/
def State.dstore (s : State) (key a n v : Nat) : State :=
  s.modProcAt key (fun x => { x with dmem := storeBytes x.dmem a (leBytes n v) })

/-- The effective address: a + sign-extended imm, modulo the region, rounded down to the access size (R81). -/
def effAddr (a : W32) (imm : BitVec 11) (region n : Nat) : Nat := (a + imm.signExtend 32).toNat % region / n * n

/-- The access size that a size field selects (R129). -/
def accessSize (size : BitVec 2) : Nat := 2 ^ size.toNat

/-- The address register after the access (R81). -/
def State.postMod (s : State) (key a o : Nat) : State := s.setA key a (s.a key a + s.o key o)

/-! Vectors (R146, R147). -/

/-- A lane of a vector accumulator. -/
def State.v (s : State) (key r i : Nat) : BitVec 48 := (s.procAt key).v.get (fun _ => 0) (64 * s.bank key + 8 * r + i)

def State.setV (s : State) (key r i : Nat) (v : BitVec 48) : State :=
  s.modProcAt key (fun x => { x with v := x.v.put (64 * s.bank key + 8 * r + i) v })

/-- Writes every lane of a vector accumulator. -/
def State.setVs (s : State) (key r : Nat) (f : Nat → BitVec 48) : State :=
  forEach (fun i s => s.setV key r i (f i)) (List.range 8) s

/-- Lane `i` of a halfword vector in the register pair that a field names. -/
def State.half (s : State) (key r i : Nat) : Int := toSigned 16 ((s.g key (r / 2 * 2 + i / 4)).toNat / 2 ^ (16 * (i % 4)))

/-- Four halfwords as a 64-bit value. -/
def halves (f : Nat → Int) (b : Nat) : W64 :=
  BitVec.ofNat 64 (ofSigned 16 (f b) + 2 ^ 16 * ofSigned 16 (f (b + 1)) + 2 ^ 32 * ofSigned 16 (f (b + 2)) + 2 ^ 48 * ofSigned 16 (f (b + 3)))

/-- Writes a halfword vector into a register pair. -/
def State.setHalves (s : State) (key r : Nat) (f : Nat → Int) : State :=
  (s.setG key (r / 2 * 2) (halves f 0)).setG key (r / 2 * 2 + 1) (halves f 4)

/-- A delay-line sample. -/
def State.dlAt (s : State) (key lane i : Nat) : W16 := (s.procAt key).dl.get (fun _ => 0) (16 * lane + i)

def State.setDl (s : State) (key lane i : Nat) (v : W16) : State := s.modProcAt key (fun x => { x with dl := x.dl.put (16 * lane + i) v })

/-! Sequencing. -/

/-- The processor is at work on a program and may issue an instruction. -/
def State.procRuns (s : State) (h : Proc) : Bool :=
  let x := s.procAt (Proc.key h)
  (match h with | .m slot => x.cur == slot.val | _ => true)
    && (s.pstate (Proc.key h) == 1) && x.active && !x.frozen && !x.stalled && x.wait.isNone && !s.halted && s.procClocked (Proc.key h)

/-- The instruction word that the processor issues next; none at the end of its program. -/
def State.fetch (s : State) (key : Nat) : Option W32 :=
  if (s.procAt key).pc < (s.procAt key).stop then some (nthD 0 (s.liveImg key).code (s.procAt key).pc) else none

/-- The processor issues the instruction `w` (R120). -/
def State.issues (s : State) (h : Proc) (w : W32) : Bool := s.procRuns h && (s.fetch (Proc.key h) == some w)

/-- Where execution goes on from instruction `pc`, by the loops in progress (R107). -/
def loopBack (pc : Nat) : List LoopFrame → Nat × List LoopFrame
  | [] => (pc, [])
  | f :: t => if pc = f.stop then (if 1 < f.left then (f.first, { f with left := f.left - 1 } :: t) else loopBack pc t) else (pc, f :: t)

/-- Goes on at instruction `pc` after `cost` cycles. -/
def State.goto (s : State) (key pc cost : Nat) : State :=
  s.modProcAt key (fun x => { x with pc := (loopBack pc x.loops).1, loops := (loopBack pc x.loops).2, cycle := x.cycle + cost })

/-- Goes on with the next instruction after `cost` cycles. -/
def State.retire (s : State) (key cost : Nat) : State := s.goto key ((s.procAt key).pc + 1) cost

/-- The next RUNNING slot of the head controller from slot `i` on (R102). -/
def State.nextSlot (s : State) (i : Nat) : Option Nat := (List.range 16).find? (fun n => decide (i ≤ n) && (s.rd F.HC_PSTATE DEV n == 1))

/-- Ends the work of the stitch (R93, R108, R136). -/
def State.endWork (s : State) (key : Nat) (hold : Bool) : State :=
  if key = 0 then
    let c := (s.procAt 0).cycle + 1
    match s.nextSlot ((s.procAt 0).cur + 1) with
    | some n => (s.modProcAt 0 (fun x => { x with cur := n })).beginProgram 0 c
    | none => s.modProcAt 0 (fun x => { x with active := false, cycle := c })
  else s.modProcAt key (fun x =>
    { x with active := false, cycle := x.cycle + 1, back := !hold && (s.bank key == 1) })

end Sys2Proof.Machine
end

