-- ==== Sys2Proof/Machine/Admit.lean ====
section
/-! DEFINITION. Program images: loading, operand clamps, worst case and admission (R8, R9, R97 to R106, R117 to R119, R134, R135). -/

namespace Sys2Proof.Machine

/-! Loading (R97, R98). -/

/-- The 32-bit words of a byte string; a last part word is dropped. -/
def wordsOf : Nat → List Byte → List W32
  | 0, _ => []
  | n + 1, bs => if bs.length < 4 then [] else BitVec.ofNat 32 (leNat (bs.take 4)) :: wordsOf n (bs.drop 4)

/-- A header of eight words, missing ones 0. -/
def padTo (n : Nat) (l : List W32) : List W32 := l ++ List.replicate (n - l.length) 0

/-- The image that a PROG_LOAD of these bytes writes (R97): bytes beyond the image's size are discarded; missing ones make it short. -/
def parseImage (bytes : List Byte) : Image :=
  let hdr := padTo 8 (wordsOf 8 (bytes.take 32))
  let h : Image := { Image.none_ with hdr := hdr }
  let size := 32 + 8 * h.strings + 4 * h.length
  let whole := bytes.take size
  let st := wordsOf (2 * h.strings) ((whole.drop 32).take (8 * h.strings))
  { h with
    loaded := true
    short := decide (bytes.length < size)
    crcOk := crc32c (whole.take 16 ++ [0, 0, 0, 0] ++ whole.drop 20) == h.word 4
    strs := (List.range (st.length / 2)).map (fun i => (nthD 0 st (2 * i + 1)) ++ (nthD 0 st (2 * i)))
    code := wordsOf h.length (whole.drop (32 + 8 * h.strings)) }

/-! String table (R85, R99, R542). -/

/-- The block that a target code names for a profile; none if the profile does not assign it (R99). -/
def targetBlk (prof target : Nat) : Option Blk :=
  match prof with
  | 0 => nthD none [some .dev, some .clk, some .hk, some .host, some .seam, some .cfg, some .sec, some .res, some .jack, some .ribbon,
      some .patch, some .bolt, some .trig] target
  | 1 => nthD none [some .patch, some .bolt, some .ribbon, some .ribbon, some .trig] target
  | _ => nthD none [some .ribbon] target

/-- Registers of one instance of a block, and its instances (R536). -/
def blkWords : Blk → Nat
  | .seam => 0x100 | .ribbon => 0x200 | .bolt => 0x100 | _ => 0x400

def blkInsts : Blk → Nat
  | .seam => 6 | .ribbon => 34 | .patch => 18 | .bolt => 16 | _ => 1

/-- A string-table entry in its clamped form; none if its target code is unassigned (R99). -/
def bindOf (prof : Nat) (e : W64) : Option Bind :=
  let n := e.toNat
  (targetBlk prof (field n 11 8)).map (fun b =>
    let base := min (field n 27 16) (blkWords b - 1)
    { str := field n 6 0, target := field n 11 8, base := base, size := min (max (field n 39 32) 1) (blkWords b - base),
      inst := if prof = 0 then min (field n 47 40) (blkInsts b - 1) else field n 47 40 })

/-- The clamped entry as the binding store holds it (R106, R544). -/
def bindWord (b : Bind) : W64 :=
  BitVec.ofNat 64 (b.str + 2 ^ 8 * b.target + 2 ^ 16 * b.base + 2 ^ 32 * b.size + 2 ^ 40 * b.inst)

/-- The entry that binds a string: the last one that names it (R99). -/
def findBind (bs : List Bind) (str : Nat) : Option Bind := (bs.reverse).find? (fun b => b.str == str)

/-- The layer of a register: the pattern engine, units 8–15, 18 and 19, and the queue controllers and integrity registers of banks 4–7
lie in the upper half (R15, R16, R82, R87, R139). -/
def layerOf (b : Blk) (off : Nat) : Nat :=
  match b with
  | .patch =>
    if (0x240 ≤ off ∧ off < 0x280) ∨ (0x600 ≤ off ∧ off < 0x800) ∨ (0x900 ≤ off ∧ off < 0xA00) ∨ (0xA40 ≤ off ∧ off < 0xA80)
      ∨ (0xB40 ≤ off ∧ off < 0xB80) then 3 else 1
  | .bolt => 3
  | .cfg => 2
  | _ => 0

/-- SRD cost by the boundaries between the processor and its target (R87). -/
def srdCost (prof layer : Nat) : Nat :=
  let me := if prof = 1 then 1 else 0
  let d := if layer < me then me - layer else layer - me
  if d = 0 then 3 else if d = 1 then 7 else if d = 2 then 11 else 15

/-- The cost at which admission counts an SRD of a string: 2 for fixed and unbound strings, else the dearest register of its
group (assumption 85). -/
def strCost (prof : Nat) (bs : List Bind) (str : Nat) : Nat :=
  if str < 8 then 2
  else match findBind bs str with
    | none => 2
    | some b => match targetBlk prof b.target with
      | none => 2
      | some k => (List.range b.size).foldl (fun m w => max m (srdCost prof (layerOf k (4 * (b.base + w))))) 0

/-- The last register index of a string (R84, R105): Graov-S reads words 0 to 2 of LOCAL (R179); NULL and unbound strings have word 0. -/
def lastWord (prof : Nat) (bs : List Bind) (str : Nat) : Nat :=
  if str < 8 then
    (if str = 6 ∧ prof = 2 then 2 else nthD 0 [3, 1, 0, 11, 11, 2, 0, 0] str)
  else match findBind bs str with
    | none => 0
    | some b => b.size - 1

/-! Operand clamps (R105, R117, R119 and the instructions' own). -/

def opOf (w : W32) : Nat := bitsOf 31 24 w

/-- A format-R word rebuilt from a word's fields. -/
def reR (w : W32) (rd ra rb fn : Nat → Nat) : W32 :=
  wordR (opOf w) (rd (bitsOf 23 19 w)) (ra (bitsOf 18 14 w)) (rb (bitsOf 13 9 w)) (fn (bitsOf 8 0 w))

def low3 (n : Nat) : Nat := n % 8
def even (n : Nat) : Nat := n / 2 * 2
def zero (_ : Nat) : Nat := 0

/-- A function code above `last` becomes `v` (R119). -/
def capFn (last v n : Nat) : Nat := if last < n then v else n

/-- The move group's fields by function (R127). -/
def clampMove (w : W32) : W32 :=
  let fn := capFn 5 2 (bitsOf 8 0 w)
  let toNarrow := fn = 0 ∨ fn = 1 ∨ fn = 5
  reR w (if toNarrow then low3 else id) (if toNarrow then id else low3) zero (fun _ => fn)

/-- The vector group's fields by operation (R147, R150). -/
def clampVec (w : W32) : W32 :=
  let f := bitsOf 8 0 w
  let op := capFn 11 9 (f % 16)
  let x := f / 16
  let r (rd ra rb : Nat → Nat) (x' : Nat) : W32 := reR w rd ra rb (fun _ => op + 16 * x')
  match op with
  | 0 => r low3 zero zero 0
  | 1 => r id low3 zero (min x 7)
  | 2 => r low3 id zero (min x 7)
  | 3 => r even low3 zero x
  | 4 => r even even even 0
  | 5 => r even even even 0
  | 6 => r even id zero 0
  | 7 => r id low3 zero (min x 1)
  | 8 => r zero even zero (min x 15)
  | 9 => r even zero zero (min x 15)
  | 10 => r zero zero zero (min x 15)
  | _ => r zero even zero x

/-- An owner code that a bown may hold: 3–7, and a port of the other half, become the sequencer (R143, R218). -/
def clampOwner (bank owner : Nat) : Nat :=
  if 3 ≤ owner ∧ owner ≤ 7 then 0 else if bank < 4 ∧ 12 ≤ owner then 0 else if 4 ≤ bank ∧ 8 ≤ owner ∧ owner ≤ 11 then 0 else owner

/-- Every instruction's clamped form but those of branches and loops, which depend on their place. -/
def clampIns (prof : Nat) (bs : List Bind) (w : W32) : W32 :=
  let rd := bitsOf 23 19 w
  let ra := bitsOf 18 14 w
  let imm := bitsOf 13 0 w
  match opOf w with
  | 0x00 => 0
  | 0x01 => reR w id id id (capFn 12 0)
  | 0x02 => reR w low3 id id (capFn 5 0)
  | 0x03 => let fn := capFn 4 0 (bitsOf 8 0 w); reR w low3 low3 (if fn = 4 then zero else low3) (fun _ => fn)
  | 0x04 => clampMove w
  | 0x0C => wordI 0x0C rd ra (min imm 63)
  | 0x0D => wordI 0x0D rd ra (min imm 63)
  | 0x0E => wordI 0x0E rd ra (min imm 63)
  | 0x12 => wordM 0x12 0 (bitsOf 18 16 w) 0 0 (bitsOf 10 0 w)
  | 0x18 => wordS 0x18 rd (bitsOf 18 12 w) (min (bitsOf 11 0 w) (lastWord prof bs (bitsOf 18 12 w)))
  | 0x19 => wordS 0x19 rd (bitsOf 18 12 w) (min (bitsOf 11 0 w) (lastWord prof bs (bitsOf 18 12 w)))
  | 0x22 => reR w zero zero zero (fun f => f % 2)
  | 0x28 => wordI 0x28 0 0 (min imm 63)
  | 0x29 => wordS 0x29 (rd % 8) (min (bitsOf 18 12 w) 63) (max 1 (min (bitsOf 11 0 w) 1024))
  | 0x2A => wordI 0x2A 0 ra (min (imm % 32) 19 + 32 * min (imm / 32 % 4) 2)
  | 0x2B => wordI 0x2B rd 0 (min (imm % 32) 19)
  | 0x2C => wordI 0x2C 0 ra (min (imm % 32) 19)
  | 0x2D => wordI 0x2D 0 0 (imm % 8 + 8 * clampOwner (imm % 8) (imm / 8 % 16))
  | 0x30 => reR w low3 even even zero
  | 0x31 => wordM 0x31 (rd % 8) (bitsOf 18 16 w) (bitsOf 15 13 w) (bitsOf 12 11 w) (bitsOf 10 0 w)
  | 0x32 => let f := bitsOf 8 0 w % 16
      reR w low3 low3 (fun n => if 8 ≤ f then n % 8 / 4 * 4 else n % 8 / 2 * 2) (fun _ => f)
  | 0x33 => clampVec w
  | _ => w

/-- The profiles in which an opcode is available (R118, R123): bit 0 Graov-M, bit 1 Graov-P, bit 2 Graov-S. -/
def opProfiles (op : Nat) : Nat :=
  if op ≤ 0x04 ∨ (0x08 ≤ op ∧ op ≤ 0x12) ∨ op = 0x18 ∨ op = 0x19 ∨ (0x20 ≤ op ∧ op ≤ 0x22) then 7
  else if op = 0x13 ∨ op = 0x14 ∨ (0x28 ≤ op ∧ op ≤ 0x2D) then 2
  else if 0x30 ≤ op ∧ op ≤ 0x33 then 4 else 0

/-! Scanning a program: loop nesting, loop and branch clamps. -/

/-- An instruction with its place: the LOOPs whose bodies enclose it, innermost first, and the end of its innermost range. -/
structure Placed where
  w : W32
  loops : List Nat
  stop : Nat
  deriving DecidableEq, Repr

/-- Places the instructions of one program from index `k` on; `st` holds the enclosing loops with their ends. LOOP counts and lengths are
clamped here (R105, R107). -/
def place (pstop : Nat) : Nat → List (Nat × Nat) → List W32 → List Placed
  | _, _, [] => []
  | k, st0, w :: ws =>
    let st := st0.dropWhile (fun f => decide (f.2 ≤ k))
    let e := match st with
      | [] => pstop
      | f :: _ => f.2
    if opOf w = 0x21 then
      let left := e - (k + 1)
      let len := if left = 0 then 0 else max 1 (min (bitsOf 13 4 w) left)
      ⟨wordL 0x21 (max 1 (bitsOf 23 14 w)) len, st.map (·.1), e⟩
        :: place pstop (k + 1) (if len = 0 then st else (k, k + 1 + len) :: st) ws
    else ⟨w, st.map (·.1), e⟩ :: place pstop (k + 1) st ws

/-- Loops nested deeper than four (R107, R135). -/
def tooDeep (ps : List Placed) : Bool := ps.any (fun p => opOf p.w == 0x21 && decide (4 ≤ p.loops.length))

/-- The clamped branch at index `k`, where `rest` are the placed instructions that follow it (R105, R134). -/
def clampBranch (k : Nat) (p : Placed) (rest : List Placed) : W32 :=
  let cond := if 2 < bitsOf 23 20 p.w then 1 else bitsOf 23 20 p.w
  let pred := if cond = 0 then 0 else bitsOf 19 17 p.w
  let off := bitsOf 16 0 p.w
  let level := rest.take (p.stop - (k + 1))
  let okAt := fun i => match level[i]? with
    | none => false
    | some q => q.loops == p.loops
  let last := (List.range level.length).foldl (fun m i => if okAt i then i else m) 0
  wordB 0x20 cond pred (if okAt off then off else last)

/-- Every placed instruction in clamped form. -/
def clampAll (prof : Nat) (bs : List Bind) : Nat → List Placed → List Placed
  | _, [] => []
  | k, p :: ps =>
    { p with w := if opOf p.w = 0x20 then clampBranch k p ps else if opOf p.w = 0x21 then p.w else clampIns prof bs p.w }
      :: clampAll prof bs (k + 1) ps

/-! Worst case (R100). -/

/-- The cost of an instruction other than branches, loops and DONE. -/
def insCost (prof : Nat) (bs : List Bind) (w : W32) : Nat :=
  match opOf w with
  | 0x01 => if bitsOf 8 0 w = 12 then 3 else 1
  | 0x13 => 10
  | 0x18 => strCost prof bs (bitsOf 18 12 w)
  | 0x29 => 1 + bitsOf 11 0 w
  | 0x2A => nthD 4 [1, 2, 4] (bitsOf 6 5 w)
  | 0x2B => let u := bitsOf 4 0 w; if u ≤ 7 ∨ u = 16 ∨ u = 17 then 3 else 11
  | 0x32 => if bitsOf 3 3 w = 1 then 3 else 2
  | 0x33 => if bitsOf 3 0 w = 7 then 2 else 1
  | _ => 1

/-- The worst cases from each instruction on, from index `k`. At the end of a body the value is 0, at the end of the program 1. An
unconditional branch has only its taken path (assumption 9). -/
def worst (prof : Nat) (bs : List Bind) : Nat → List Placed → List Nat
  | _, [] => []
  | k, p :: ps =>
    let W := worst prof bs (k + 1) ps
    let val := fun j => if p.stop ≤ j then (if p.loops = [] then 1 else 0) else nthD 0 W (j - (k + 1))
    let here :=
      match opOf p.w with
      | 0x22 => 1
      | 0x20 =>
        let t := 2 + val (k + 1 + bitsOf 16 0 p.w)
        if bitsOf 23 20 p.w = 0 then t else max (1 + val (k + 1)) t
      | 0x21 =>
        let len := bitsOf 13 4 p.w
        1 + bitsOf 23 14 p.w * (if len = 0 then 0 else nthD 0 W 0) + val (k + 1 + len)
      | _ => insCost prof bs p.w + val (k + 1)
    here :: W

/-- The worst case of a program; running off its end at once acts as DONE. -/
def worstCase (prof : Nat) (bs : List Bind) (first : Nat) (ps : List Placed) : Nat := nthD 1 (worst prof bs first ps) 0

/-! Admission (R102, R103). -/

/-- Refusal reasons of R103; 0 is none. -/
def reasonBUDGET : Nat := 1
def reasonPROFILE : Nat := 2
def reasonNESTING : Nat := 3
def reasonSTRING : Nat := 4
def reasonIMAGE : Nat := 5
def reasonSTATE : Nat := 6

/-- The instructions a page or slot holds (R77, R98). -/
def pageWords (prof : Nat) : Nat := if prof = 0 then 4096 else if prof = 1 then 2048 else 1024

/-- The image fails a check of reason IMAGE (R98, R103). -/
def imageBad (prof : Nat) (m : Image) : Bool :=
  m.short || !m.crcOk || m.format != 1 || m.profile != prof || decide (pageWords prof < m.length) || decide (120 < m.strings)
    || (m.hasEvent && (prof == 0 || m.evEntry == 0 || decide (m.length ≤ m.evEntry)))

/-- Some instruction is not available in the profile, or not in the bank its program runs on (R103, R118, R152). -/
def profileBad (prof : Nat) (main event : List W32) : Bool :=
  (main ++ event).any (fun w => opProfiles (opOf w) / 2 ^ prof % 2 == 0) || main.any (fun w => opOf w == 0x32)

/-- The outcome of an admission: reason (0 for none) and figures, which are 0 unless the reason is none or BUDGET (R103). -/
structure Admission where
  reason : Nat
  wcMain : Nat
  wcEvent : Nat
  deriving DecidableEq, Repr

/-- Admission of an image for a profile under a budget: the outcome, and the image in its clamped form (R99 to R106). -/
def judgeImage (prof b : Nat) (m : Image) : Admission × Image :=
  if imageBad prof m then (⟨reasonIMAGE, 0, 0⟩, { m with admitted := false })
  else
    let bs := m.strs.filterMap (bindOf prof)
    let strBad := m.strs.any (fun e => decide (8 ≤ field e.toNat 6 0) && (bindOf prof e).isNone)
    let ev := if m.hasEvent then m.evEntry else m.length
    let main := m.code.take ev
    let event := m.code.drop ev
    let pm := place ev 0 [] main
    let pe := place m.length ev [] event
    let cm := clampAll prof bs 0 pm
    let ce := clampAll prof bs ev pe
    let wm := worstCase prof bs 0 cm
    let we := if m.hasEvent then worstCase prof bs ev ce else 0
    let reason :=
      if profileBad prof main event then reasonPROFILE
      else if tooDeep pm || tooDeep pe then reasonNESTING
      else if strBad then reasonSTRING
      else if b < wm ∨ b < we then reasonBUDGET else 0
    let figs := reason = 0 ∨ reason = reasonBUDGET
    (⟨reason, if figs then wm else 0, if figs then we else 0⟩,
     { m with
       code := (cm ++ ce).map (·.w)
       strs := m.strs.map (fun e => match bindOf prof e with | none => e | some x => bindWord x)
       binds := bs.filter (fun x => decide (8 ≤ x.str))
       admitted := reason == 0
       wcMain := wm
       wcEvent := we })

end Sys2Proof.Machine
end

