-- ==== Sys2Proof/Machine/Time.lean ====
section
/-! DEFINITION. The stitch period, the live counter, the epoch log and SYNC_IN (R47 to R76). -/

namespace Sys2Proof.Machine

/-! The period (R49, R50, R60 to R66, R104). -/

/-- A write of N_REQ (R49, R60 to R62, R64). Whether it announces a change, replaces one or cancels one is settled at the next boundary;
while a change is pending, admission applies the smaller budget at once. -/
def State.writeNReq (s : State) (v : Nat) : State :=
  if s.follower then s
  else
    let n := (Clamp.range 1 128).apply v
    let s1 := s.wr F.STC_N_REQ DEV n
    let s2 := { s1 with time := { s1.time with announce := true } }
    if s.flag F.STC_PEND DEV then s2.wr F.BUD_B_ADMIT DEV (min (budget (s.rd F.STC_N_NOW DEV)) (budget n)) else s2

/-- N_REQ_WRITE (R60). -/
def execNReqWrite (v : BitVec 8) (s : State) : Out := act s s.up (s.writeNReq v.toNat)

/-- An image loses its admission (R63, R104). -/
def State.dropAdmission (s : State) (key page : Nat) : State :=
  s.modProcAt key (fun x => { x with imgs := x.imgs.put page { x.img page with admitted := false } })

/-- Unloads a processor's running program (R63): its stitch program is empty until one is admitted, so the image's own admission is gone
(assumption 83). -/
def State.unload (s : State) (key : Nat) : State :=
  let s1 := (s.wr F.PSTATE (s.seqBase key) 3).wr F.BANK (s.seqBase key) 0
  let s2 := (s1.dropAdmission key (s.livePage key)).modProcAt key (fun x => { x with active := false, wait := none, back := false })
  s2.event .programUnloaded (if key < 32 then blkPATCH else blkRIBBON) (if key < 32 then key - 16 else key - 32)

/-- A new budget at a patch sequencer or signal processor (R63, R104): a running program that exceeds it is unloaded; any other image that
does loses its admission. -/
def State.budgetProc (s : State) (b key : Nat) : State :=
  let tooBig := fun (m : Image) => decide (b < m.wcMain) || decide (b < m.wcEvent)
  let live := s.livePage key
  let s1 := if tooBig ((s.procAt key).img (1 - live)) then (s.dropAdmission key (1 - live)).wr F.ADMITTED (s.seqBase key) 0 else s
  if tooBig ((s.procAt key).img live) then
    (if s.pstate key = 1 then s1.unload key else if s.pstate key = 2 then s1.dropAdmission key live else s1)
  else s1

/-- WC_SUM: the sum over RUNNING slots (R96). -/
def State.wcSum (s : State) : Nat :=
  ((List.range 16).map (fun n => if s.rd F.HC_PSTATE DEV n = 1 then s.rd F.HC_WC DEV n else 0)).sum

/-- Shows WC_SUM. -/
def State.showSum (s : State) : State := s.wr F.HC_WC_SUM DEV s.wcSum

/-- Unloads a head-controller slot (R63, R104): as a program's image, it loses its admission (assumption 83). -/
def State.unloadSlot (s : State) (n : Nat) : State :=
  let s1 := ((((s.wr F.HC_PSTATE DEV 3 n).wr F.HC_ADMITTED DEV 0 n).dropAdmission 0 n).event .programUnloaded blkDEV n).showSum
  if (s.procAt 0).cur = n then s1.modProcAt 0 (fun x => { x with active := false }) else s1

/-- A new budget at the head controller (R63, R104). -/
def State.budgetHc (s : State) (b : Nat) : State :=
  let one := fun (n : Nat) (s : State) =>
    if s.rd F.HC_WC DEV n ≤ b then s
    else if s.rd F.HC_PSTATE DEV n = 1 then s.unloadSlot n
    else if s.rd F.HC_PSTATE DEV n = 2 then
      (s.wr F.HC_ADMITTED DEV 0 n).dropAdmission 0 n
    else s
  forEach (fun n s => if b < s.wcSum ∧ s.rd F.HC_PSTATE DEV n = 1 then s.unloadSlot n else s) ((List.range 16).reverse) (forN one 16 s)

/-- Every program that exceeds a new budget (R63, R104). -/
def State.unloadOver (s : State) (b : Nat) : State :=
  forN (fun r s => s.budgetProc b (32 + r)) 32 (forN (fun k s => s.budgetProc b (16 + k)) 16 (s.budgetHc b))

/-- Writes an epoch log entry (R66). -/
def State.epochEntry (s : State) (e : Nat) (stitch root n : Nat) : State :=
  ((((((s.wr F.EP_STITCH_LO DEV stitch e).wr F.EP_STITCH_HI DEV (stitch / 2 ^ 32) e).wr F.EP_ROOT_LO DEV root e).wr F.EP_ROOT_HI DEV
    (root / 2 ^ 32) e).wr F.EP_N DEV n e).wr F.EP_VALID DEV 1 e).wr F.EP_NEWEST DEV e

/-- D is short of what the new period needs (R412): D_SHORT in a system. -/
def State.showShort (s : State) : State :=
  if s.inSystem then
    s.wr F.SYS_D_SHORT DEV (bit (decide (s.rd F.TRIG_D TRIG < 1 + ceilDiv (s.rd F.SYS_L_MAX DEV + 10) s.period)))
  else s

/-- PERIOD_CHANGE (R60 to R66): due in the stitch whose opening boundary is the 1,024th after the announcement. -/
def execPeriodChange (s : State) : Out :=
  let n := s.time.newN
  let s1 := s.unloadOver (budget n)
  let s2 := ((((s1.wr F.STC_N_NOW DEV n).wr F.STC_PEND DEV 0).wr F.BUD_B_NOW DEV (budget n)).wr F.BUD_B_ADMIT DEV (budget n))
  let s3 := if s2.follower then s2.wr F.STC_N_REQ DEV n else s2
  let s4 := (s3.epochEntry ((s.rd F.EP_NEWEST DEV + 1) % 8) s.stitch.toNat s.time.root n).showShort
  act s (s.up && s.time.due == 1 && s.flag F.STC_PEND DEV)
    { s4 with time := { s4.time with due := 0, since := s.stitch, before := s.period } }

/-- The head device tells every device of a pending period, or of the present one to cancel it, during a bring-up too (R64). -/
def State.tellPeriod (s : State) (n : Nat) : State :=
  let count := match s.sys.ready with | some r => r.count | none => s.rd F.SYS_COUNT DEV
  if s.isHead then
    forN (fun d s => if d = 0 then s else s.sendMsg d (.period (BitVec.ofNat 8 n) (s.stitch + 1024))) count s
  else s

/-- The announcement and countdown at a boundary that opens the present stitch (R60, R61, R64). The head device sends each
announcement to every device. Programs over the new budget are unloaded before step 2 of the boundary at which it takes effect. -/
def State.periodBoundary (s : State) : State :=
  let now := s.rd F.STC_N_NOW DEV
  let req := s.rd F.STC_N_REQ DEV
  if s.time.announce then
    let s1 := { s with time := { s.time with announce := false } }
    if req = now then
      let s2 := (s1.wr F.STC_PEND DEV 0).wr F.BUD_B_ADMIT DEV (budget now)
      let s3 := { s2 with time := { s2.time with due := 0 } }
      if s.flag F.STC_PEND DEV then s3.tellPeriod now else s3
    else
      let s2 := (s1.wr F.STC_PEND DEV 1).wr F.BUD_B_ADMIT DEV (min (budget now) (budget req))
      { s2 with time := { s2.time with newN := req, due := 1025 } }.tellPeriod req
  else if 1 < s.time.due then
    let s1 := { s with time := { s.time with due := s.time.due - 1 } }
    if s1.time.due = 1 then s1.unloadOver (budget s1.time.newN) else s1
  else s

/-! The live counter (R59). -/

/-- STITCH_LO_READ: returns the counter's lower word and captures the upper word and the offset (R59). -/
def execStitchLoRead (off : Nat) (s : State) : Out :=
  let s1 := s.tick off
  let r := s1.busRead 0x110
  .next { r.1 with resp := r.2 }

/-! SYNC_IN (R69 to R76). -/

/-- Root cycles in a second. -/
def secondCycles : Nat := 3200000000

/-- The mode in effect (R73): on a device other than the head device DISCIPLINE acts as OBSERVE. Leaving DISCIPLINE clears LOCKED. -/
def State.showSync (s : State) : State :=
  let was := s.rd F.SYNC_EFFECTIVE CLK
  let mode := s.rd F.SYNC_MODE CLK
  let eff := if mode = 2 ∧ s.follower then 1 else mode
  let s1 := s.wr F.SYNC_EFFECTIVE CLK eff
  let s2 := if mode = 0 then { s1 with time := { s1.time with syncRef := none } } else s1
  if eff = 2 ∧ was ≠ 2 then { s2 with time := { s2.time with discFrom := s.rootNow, good := 0 } }
  else if eff ≠ 2 ∧ was = 2 then { s2.wr F.SYNC_LOCKED CLK 0 with time := { s2.time with good := 0 } }
  else s2

/-- A write of the SYNC_IN control register (R69, R70, R73). -/
def State.writeSync (s : State) (v : W32) (be : Nat) : State := (s.mergeWrite (CLK + 0x800) v be).showSync

/-- EDGE_STITCH and EDGE_OFFSET take the stamp of an edge (R74, R76). -/
def State.showEdge (s : State) : State :=
  ((s.wr F.SYNC_EDGE_STITCH_LO CLK s.stitch.toNat).wr F.SYNC_EDGE_STITCH_HI CLK (s.stitch.toNat / 2 ^ 32)).wr F.SYNC_EDGE_OFFSET CLK s.now.off

/-- Stamps an edge (R57, R70). -/
def State.stampEdge (s : State) : State := { s with time := { s.time with edge := some s.now } }

/-- FREQ_ADJ in 0.01 ppm; how a value between two steps is rounded is left open. -/
def State.showFreq (s : State) : State :=
  let v := s.time.freqAdj
  if v % 256 = 0 then s.wr F.SYNC_FREQ_ADJ CLK (ofSigned 16 (v / 256))
  else s.took.wr F.SYNC_FREQ_ADJ CLK (ofSigned 16 (v / 256 + (s.freeWord.toNat % 2 : Nat)))

/-- Steering by an error of `err` root cycles (R71); a step of err / 25,600 ppm is `err` units of freq_adj. -/
def State.steer (s : State) (err : Int) : State :=
  let adj := clampInt (-1280000) 1280000 (s.time.freqAdj - clampInt (-51200) 51200 err)
  let good := if err.natAbs ≤ 16 then s.time.good + 1 else 0
  let s1 := ({ s with time := { s.time with freqAdj := adj, good := good } }).showFreq
  if 64 < err.natAbs then s1.wr F.SYNC_LOCKED CLK 0 else if 8 ≤ good then s1.wr F.SYNC_LOCKED CLK 1 else s1

/-- An accepted edge at root time `t`, of an error `err` (R70 to R72, R74): EDGE_STITCH and EDGE_OFFSET take its stamp. -/
def State.acceptEdge (s : State) (t : Nat) (err : Int) : State :=
  let s1 := s.showEdge.wr F.SYNC_ERR CLK (ofSigned 32 err)
  let s2 := { s1 with time := { s1.time with syncRef := some t, accepted := t } }
  if s2.flag F.SYNC_IN_HOLD CLK then { s2.wr F.SYNC_IN_HOLD CLK 0 with time := { s2.time with holdClear := true } } else s2

/-- An interval of `d` root cycles lies within WINDOW ppm of k seconds (R70). -/
def State.inWindow (s : State) (d k : Nat) : Bool :=
  decide (1 ≤ k) && decide (((d : Int) - (k * secondCycles : Nat)).natAbs ≤ 3200 * k * s.rd F.SYNC_WINDOW CLK)

/-- The multiple of a second that an interval meets (R70): of the two about it, the nearer that it lies within WINDOW ppm of
(assumption 12). -/
def State.multiple (s : State) (d : Nat) : Option Nat :=
  let near := (d + secondCycles / 2) / secondCycles
  [near, d / secondCycles, d / secondCycles + 1].find? (s.inWindow d)

/-- The next edge is expected at the root cycle `e`. -/
def State.expectEdge (s : State) (e : Nat) : State := { s with time := { s.time with expected := e } }

/-- An edge at the root cycle `t` after the reference, which comes `k` seconds after the last accepted edge (R70, R71); rejected where it
meets no multiple of a second: it leaves the registers of the last accepted edge as they are. -/
def State.regularEdge (s : State) (t : Nat) (o : Option Nat) : State :=
  match o with
  | none => s.bump F.SYNC_REJECTS CLK
  | some k =>
    let err := (t : Int) - s.time.expected
    let s1 := s.acceptEdge t err
    (if s.rd F.SYNC_EFFECTIVE CLK = 2 then s1.steer err else s1).expectEdge (s.time.expected + k * secondCycles)

/-- An edge at the root cycle `t`. The first edge is the reference: its error is 0, it steers nothing and it does not count toward LOCKED, where
R71 names no error for it (assumption 12). -/
def State.judgeEdge (s : State) (t : Nat) : State :=
  match s.time.syncRef with
  | none => (s.acceptEdge t 0).expectEdge (t + secondCycles)
  | some last => s.regularEdge t (s.multiple (t - last))

/-- SYNC_IN_EDGE (R70 to R76): a rising edge sampled in the root cycle `off`. Every edge is stamped. -/
def execSyncInEdge (off : Nat) (s : State) : Out :=
  let s1 := (s.tick off).stampEdge
  act s (s.up && s.rd F.SYNC_EFFECTIVE CLK != 0) (if s.time.degraded then s1.showEdge else s1.judgeEdge s1.rootNow)

/-- HOLDOVER (R72): 1.5 s without an accepted edge while DISCIPLINE is effective. -/
def execHoldover (off : Nat) (s : State) : Out :=
  let s1 := s.tick off
  let from_ := max s.time.discFrom s.time.accepted
  let s2 := { s1 with time := { s1.time with holdover := true, holdClear := false, good := 0 } }
  act s (s.up && s.rd F.SYNC_EFFECTIVE CLK == 2 && !s.flag F.SYNC_IN_HOLD CLK && decide (from_ + 4800000000 ≤ s1.rootNow))
    (((s2.wr F.SYNC_IN_HOLD CLK 1).wr F.SYNC_LOCKED CLK 0).event .syncLost blkCLK 0)

/-- The flags that the next boundary clears (R72, R75): HOLDOVER behind the edge that ends holdover, and DEGRADED behind the return to REFCLK,
unless the head device's timestamps are degraded. With DEGRADED the next edge becomes a new reference (R76). -/
def State.flagBoundary (s : State) : State :=
  let t := s.time
  let clear := t.degClear && !t.headDeg
  { s with time := { t with
      holdover := t.holdover && !t.holdClear
      holdClear := false
      degraded := t.degraded && !clear
      degClear := t.degClear && !clear
      syncRef := if clear then none else t.syncRef } }

end Sys2Proof.Machine
end

