-- ==== Sys2Proof/Machine/HostIf.lean ====
section
/-! DEFINITION. The host interface (R360 to R394): spools, dispatch, result slots, interrupts, capture offload, bolt transfers and the resets
of the interface. -/

namespace Sys2Proof.Machine

/-! The endpoint (R360, R364, R567). -/

/-- What the endpoint's configuration space presents; the subsystem IDs are those loaded at the start. -/
structure Identity where
  vendor : Nat := 0x1F3C
  device : Nat := 0x0256
  revision : Nat := 0x02
  classCode : Nat := 0x118000
  interruptPin : Nat := 0
  subsystem : W32
  deriving DecidableEq, Repr

def State.identity (s : State) : Identity := { subsystem := s.host.subsys }

/-- The sizes of BAR0, BAR2 and BAR4 (R364). -/
def barSize (bar : Nat) : Nat := if bar = 0 then 2 ^ 20 else if bar = 2 then 2 ^ 18 else if bar = 4 then 2 ^ 30 else 0

/-! Spools (R369 to R371). -/

/-- A spool beyond its registers. -/
def State.spoolAt (s : State) (sp : Nat) : SpoolSt :=
  s.host.spools.get (fun _ => { base := 0, depth := 16, fetched := [], retried := false, stopping := false }) sp

def State.setSpool (s : State) (sp : Nat) (x : SpoolSt) : State := { s with host := { s.host with spools := s.host.spools.put sp x } }

/-- A result slot (R379). -/
def State.slotAt (s : State) (sp i : Nat) : SlotSt :=
  s.host.slots.get (fun _ => { seq := 0, state := 0, status := Status.empty.code, tag := 0, reads := 0, data := [], notify := false }) (256 * sp + i)

def State.setSlot (s : State) (sp i : Nat) (x : SlotSt) : State :=
  { s with host := { s.host with slots := s.host.slots.put (256 * sp + i) x } }

/-- PENDING: the slots of a spool that are PENDING (R369). -/
def State.showPending (s : State) (sp : Nat) : State :=
  s.wr F.SP_PENDING HOST ((s.host.slots.filter (fun e => e.1 / 256 == sp && e.2.state == 1)).length) sp

/-- Commands of a spool that have not completed keep running, but their results are discarded. -/
def State.orphanSpool (s : State) (sp : Nat) : State :=
  { s with host := { s.host with
      slots := s.host.slots.filter (fun e => e.1 / 256 != sp)
      orphan := s.host.orphan ++ ((s.host.cmds.filter (fun (d : DispCmd) => !d.c.remote && d.c.sp.val == sp && decide (d.c ∉ s.host.orphan))).map DispCmd.c)
      done := s.host.done.filter (fun (d : DoneCmd) => d.c.remote || d.c.sp.val != sp) } }.showPending sp

/-- A write of a spool's EN (R370). -/
def State.writeSpoolEn (s : State) (sp : Nat) (v : W32) (be : Nat) : State :=
  let was := s.flag F.SP_EN HOST sp
  let s1 := s.mergeWrite (F.SP_EN.at HOST sp 0) v be
  let is := s1.flag F.SP_EN HOST sp
  if !was && is then
    ((((s1.orphanSpool sp).wr F.SP_CI HOST 0 sp).wr F.SP_PI HOST 0 sp).wr F.SP_SEQ_NEXT HOST 0 sp).setSpool sp
      { base := s1.pair (F.SP_BASE_LO.at HOST sp 0) (F.SP_BASE_HI.at HOST sp 0), depth := s1.rd F.SP_DEPTH HOST sp, fetched := []
        retried := false, stopping := false }
  else if was && !is then s1.setSpool sp { s1.spoolAt sp with stopping := true }
  else s1

/-- SPOOL_EN_WRITE (R370). -/
def execSpoolEnWrite (sp : Spool) (v : W32) (be : BitVec 4) (s : State) : Out := act s s.up (s.writeSpoolEn sp.val v be.toNat)

/-- DOORBELL (R371). -/
def execDoorbell (sp : Spool) (v : W32) (s : State) : Out :=
  act s (s.clk.locked && s.flag F.SP_EN HOST sp.val)
    (s.wr F.SP_PI HOST (min (v.toNat % 4096) ((s.spoolAt sp.val).depth - 1)) sp.val)

/-- The ring entry at CI has been read, or its read failed (R371, R378): a failed read is retried once, and fails the spool after that. -/
def State.entryRead (s : State) (sp : Nat) (entry : Option (List Byte)) : State :=
  let x := s.spoolAt sp
  match entry with
  | some bs =>
    (s.wr F.SP_CI HOST ((s.rd F.SP_CI HOST sp + 1) % x.depth) sp).setSpool sp { x with fetched := x.fetched ++ [bs.take 64], retried := false }
  | none =>
    let s1 := (s.bump F.SP_DMA_ERR HOST 1 sp).aerNote .readError
    if x.retried then (s1.wr F.SP_EN HOST 0 sp).setSpool sp { x with retried := false, stopping := true }
    else s1.setSpool sp { x with retried := true }

/-- ENTRY_FETCHED (R371, R378): 64 bytes, or none where the read ended with an error. -/
def execEntryFetched (sp : Spool) (entry : Option (List Byte)) (s : State) : Out :=
  act s (s.clk.locked && !s.host.d3 && s.flag F.SP_EN HOST sp.val && decide (s.rd F.SP_CI HOST sp.val ≠ s.rd F.SP_PI HOST sp.val)
      && decide ((s.spoolAt sp.val).fetched.length < 64))
    (s.entryRead sp.val entry)

/-! Commands (R372 to R376). -/

/-- The kinds of target that an opcode accepts, the first of which replaces another; none for an unassigned opcode (R374). -/
def opKinds (op : Nat) : Option (List Nat) :=
  match op with
  | 0x00 => some [0, 1, 2, 3] | 0x01 => some [0, 1, 2] | 0x02 => some [0, 1, 2] | 0x03 => some [0, 1, 2] | 0x04 => some [0, 1, 2]
  | 0x05 => some [0, 1] | 0x10 => some [0] | 0x11 => some [0] | 0x18 => some [0] | 0x19 => some [0] | 0x20 => some [0] | 0x21 => some [0]
  | 0x22 => some [0] | 0x23 => some [0] | 0x28 => some [3] | 0x29 => some [0, 1, 3] | 0x30 => some [0] | 0x31 => some [0]
  | 0x32 => some [0] | 0x33 => some [0] | 0x34 => some [0] | 0x3F => some [0, 1, 2, 3]
  | _ => none

/-- The highest target of a kind. -/
def topTarget (kind : Nat) : Nat := if kind = 1 then 31 else if kind = 3 then 255 else 15

/-- The highest device number of the system. -/
def State.topDevice (s : State) : Nat := if s.inSystem then s.rd F.SYS_COUNT DEV - 1 else 0

/-- An entry with its header clamped (R373). -/
def State.clampEntry (s : State) (e : List Byte) : List Byte :=
  let f := fun o n => leNat ((e.drop o).take n)
  let op := if (opKinds (f 0 1)).isSome then f 0 1 else 0
  let kinds := (opKinds op).getD [0]
  let kind := if f 5 1 / 64 ∈ kinds then f 5 1 / 64 else nthD 0 kinds 0
  let dev := min (f 5 1 % 64) s.topDevice
  let target := min (f 4 1) (topTarget kind)
  [BitVec.ofNat 8 op] ++ leBytes 1 (f 1 1) ++ leBytes 2 (f 2 2) ++ leBytes 1 target ++ leBytes 1 (dev + 64 * kind) ++ (e.drop 6).take 58

/-- The command's target lies in L1 to L7, so that it waits for the start-up self-tests (R518). -/
def DispCmd.upper (d : DispCmd) : Bool :=
  let op := d.opcode
  (decide (1 ≤ op ∧ op ≤ 5) && d.tkind == 0) || op == 0x11 || op == 0x18 || op == 0x19 || op == 0x20 || op == 0x22 || op == 0x23
    || (op == 0x29 && d.tkind == 0) || op == 0x30 || op == 0x31 || op == 0x32

/-- The command is a request to a lane, which its loopback test at the start holds (R191, R480). -/
def DispCmd.ofLane (d : DispCmd) : Bool := d.opcode == 0x28 || (d.opcode == 0x29 && d.tkind == 3)

/-- The start-up self-tests of what a command addresses have not ended (R480, R518): those of the lanes end with the marches. -/
def State.selfTesting (s : State) (d : DispCmd) : Bool :=
  let ph := s.rd F.ST_PHASE DEV
  (d.upper && decide (ph < 8)) || (d.ofLane && (decide (ph < 7) || (ph == 7 && s.start.sub == 0)))

/-- The layer in which what a command asks for ends (R525, R527). -/
def DispCmd.layer (d : DispCmd) : Option Nat :=
  let op := d.opcode
  if 1 ≤ op ∧ op ≤ 5 then some (if d.tkind = 0 then 1 else 0)
  else if op = 0x18 then some 1
  else if op = 0x19 ∨ op = 0x22 ∨ op = 0x23 then some 3
  else if 0x30 ≤ op ∧ op ≤ 0x32 then some 2
  else if op = 0x28 ∨ (op = 0x29 ∧ d.tkind ≠ 0) then some 0
  else none

/-- A command reaches the device that carries it out: it is held while what it addresses is in its start-up self-test, and ends at once in
the halt (R358), after the failure of the key (R45) or of a regulator (R517), while its layer is in reset (R527) and during a stop (R511). A CAPTURE or PATTERN whose CMD is NONE does nothing more
(R373). -/
def State.landCmd (s : State) (d : DispCmd) : State :=
  let s1 := { s with host := { s.host with cmds := s.host.cmds ++ [if s.selfTesting d then { d with phase := .held } else d] } }
  let cmd := d.param 8 1
  if s.halted ∨ s.stack.keyStop = true then s1.complete d.c .securityHalt
  else if d.layer.any s.inReset then s1.complete d.c .targetReset
  else if s.hk.stop ≠ 0 ∨ s.start.failed then s1.complete d.c .refused
  else if (d.opcode = 0x18 ∧ (cmd = 0 ∨ 4 < cmd)) ∨ (d.opcode = 0x19 ∧ (cmd = 0 ∨ 2 < cmd)) then s1.complete d.c .ok
  else s1

/-- The channel of an OFFLOAD or OFFLOAD_STOP (R384). -/
def DispCmd.chan (d : DispCmd) : Nat := if d.opcode = 0x20 then min (d.param 9 1) 15 else min (d.param 8 1) 15

/-- BUF_PAGES of an OFFLOAD (R384). -/
def DispCmd.bufPages (d : DispCmd) : Nat := (Clamp.range 1 16777216).apply (d.param 20 4)

/-- A channel as an OFFLOAD starts it. -/
def DispCmd.newChan (d : DispCmd) (source : Option Nat) : ChanSt :=
  { c := d.c, follow := bitAt (d.param 8 1) 0, limitSeg := if bitAt (d.param 8 1) 1 then some (min (d.param 10 2) 4095) else none, segPhase := 0
    queue := [], sent := 0, skipped := 0, damaged := 0, bufPages := d.bufPages, dataAddr := d.param 24 8 / 4096 * 4096
    idxAddr := d.param 32 8 / 16 * 16, progAddr := d.param 40 8 / 8 * 8, note := d.param 48 4, source := source, stopping := false }

/-- Opens a channel with its registers (R384, R388). -/
def State.openChan (s : State) (d : DispCmd) (x : ChanSt) (dev : Nat) : State :=
  let ch := d.chan
  let s1 := (((s.wr F.CH_STATE HOST 1 ch).wr F.CH_DEVICE HOST dev ch).wr F.CH_LPATCH HOST d.target ch).wr F.CH_KIND HOST (bit x.follow) ch
  let s2 := (((s1.wr F.CH_SENT HOST 0 ch).wr F.CH_CONSUMED HOST 0 ch).wr F.CH_SKIPPED HOST 0 ch).wr F.CH_DAMAGED HOST 0 ch
  { s2 with host := { s2.host with chans := s2.host.chans.put ch x } }

/-- A host transfer to a halted device ends in a bus error (R417, R418); `kind` is its place in the table of R418. -/
def State.busError (s : State) (d kind : Nat) : State :=
  let n := Tab.get (fun _ => 0) s.sys.haltSeam d
  s.event .securityAlarm blkSEAM n [d, kind, n]

/-- The head device forwards a command to the device that carries it out (R377). An OFFLOAD takes its channel here. -/
def State.forward (s : State) (d : DispCmd) : State :=
  let s1 := { s with host := { s.host with cmds := s.host.cmds ++ [{ d with phase := .waiting }] } }
  let busy := (s.host.chans.find? (fun e => e.1 == d.chan)).isSome
  if s.flag F.SYS_HALTED DEV d.device then (s1.complete d.c .securityHalt).busError d.device 2
  else if d.opcode = 0x20 ∧ busy then s1.complete d.c .refused
  else
    let s2 := if d.opcode = 0x20 then s1.openChan d (d.newChan (some d.device)) d.device else s1
    s2.sendMsg d.device (.command { d.c with remote := true } d.entry)

/-- Dispatches one entry of a spool (R376, R382). -/
def State.dispatchOne (s : State) (sp : Nat) : State :=
  let x := s.spoolAt sp
  match x.fetched with
  | [] => s
  | raw :: rest =>
    let seq := BitVec.ofNat 16 (s.rd F.SP_SEQ_NEXT HOST sp)
    let e := s.clampEntry raw
    let d : DispCmd := { c := ⟨false, Fin.ofNat 16 sp, seq⟩, entry := e, at_ := s.stitch, phase := .fresh, status := .ok }
    let old := s.slotAt sp (seq.toNat % 256)
    let s1 := (s.setSpool sp { x with fetched := rest }).incr F.SP_SEQ_NEXT HOST 1 sp
    let s2 := if old.state = 1 ∨ old.state = 2 then s1.bump F.SP_OVERRUN HOST 1 sp else s1
    let s3 := (s2.setSlot sp (seq.toNat % 256)
      { seq := seq, state := 1, status := Status.pending.code, tag := BitVec.ofNat 16 d.tag, reads := 0, data := [], notify := d.notify }).showPending sp
    let s4 := { s3 with host := { s3.host with rr := sp } }
    if d.device = s.devnum ∨ ¬ s.inSystem ∨ s.halted ∨ s.stack.keyStop = true then s4.landCmd d else s4.forward d

/-- The next spool with a fetched command, from the one after `rr`. -/
def State.nextSpool (s : State) : Option Nat :=
  ((List.range 16).map (fun i => (s.host.rr + 1 + i) % 16)).find? (fun sp => s.flag F.SP_EN HOST sp && (s.spoolAt sp).fetched != [])

/-- Dispatch at a boundary (R375): up to DISP_MAX commands, one from each spool in turn. Spools whose EN has become 0 discard what they
had fetched (R370). -/
def State.dispatch (s : State) : State :=
  let s1 := forN (fun sp s => if (s.spoolAt sp).stopping then s.setSpool sp { s.spoolAt sp with fetched := [], stopping := false } else s) 16 s
  forN (fun _ s => match s.nextSpool with | some sp => s.dispatchOne sp | none => s) (s.rd F.HOST_DISP_MAX HOST) s1

/-! Result slots and interrupts (R367, R368, R379 to R383). -/

/-- A completed command's slot becomes READY, unless the slot has gone to another command or its results are discarded (R382, R383,
R393). A forwarded command's result returns to the head device (R377). -/
def State.ready (s : State) (d : DoneCmd) : State :=
  if d.c.remote then
    { s.sendMsg 0 (.result { d.c with remote := false } (BitVec.ofNat 8 d.status.code) d.data) with
      sys := { s.sys with results := s.sys.results ++ [d] } }
  else if d.c ∈ s.host.orphan then { s with host := { s.host with orphan := s.host.orphan.erase d.c } }
  else
    let sp := d.c.sp.val
    let i := d.c.seq.toNat % 256
    let x := s.slotAt sp i
    if x.state = 1 ∧ x.seq = d.c.seq then
      let s1 := (s.setSlot sp i { x with state := 2, status := d.status.code, data := d.data }).showPending sp
      if x.notify then s1.vector (17 + sp) else s1
    else s

/-- Every command that has completed since the last boundary (R383). -/
def State.readyAll (s : State) : State := forEach (fun d s => s.ready d) s.host.done { s with host := { s.host with done := [] } }

/-- Sends a vector's message (R367). -/
def State.sendVector (s : State) (v : Nat) : State :=
  let addr := s.pair (F.MSIX_ADDR_LO.at HOST v 0) (F.MSIX_ADDR_HI.at HOST v 0)
  { s with host := { s.host with msix := s.host.msix ++ [(v, addr, (s.reg (F.MSIX_DATA.at HOST v 0)).toNat)] } }

/-- A vector's pending bit. -/
def State.setPba (s : State) (v : Nat) (on : Bool) : State :=
  let w := s.rd F.MSIX_PBA HOST (v / 32)
  let b := 2 ^ (v % 32)
  s.wr F.MSIX_PBA HOST (if on then (if bitAt w (v % 32) then w else w + b) else (if bitAt w (v % 32) then w - b else w)) (v / 32)

/-- The vectors caused in the stitch that ends are sent once each, or become pending where masked (R368). -/
def State.flushVectors (s : State) : State :=
  forEach (fun v s => if s.flag F.MSIX_CTRL HOST v then s.setPba v true else s.sendVector v) s.host.vecs
    { s with host := { s.host with vecs := [] } }

/-- A write of a vector's control word: a pending vector is sent when it is unmasked (R368). -/
def State.writeVectorCtrl (s : State) (v : Nat) (w : W32) (be : Nat) : State :=
  let s1 := s.mergeWrite (F.MSIX_CTRL.at HOST v 0) w be
  if s.flag F.MSIX_CTRL HOST v ∧ ¬ s1.flag F.MSIX_CTRL HOST v ∧ bitAt (s1.rd F.MSIX_PBA HOST (v / 32)) (v % 32) ∧ ¬ s1.host.d3 ∧ s1.host.master = true then
    (s1.setPba v false).sendVector v
  else s1

/-- VECTOR_UNMASK (R368). -/
def execVectorUnmask (vec : Fin 64) (s : State) : Out := act s s.up (s.writeVectorCtrl vec.val 0 15)

/-- RELEASE_WORD (R381). -/
def execReleaseWord (sp : Spool) (slot : BitVec 8) (v : W32) (s : State) : Out :=
  let x := s.slotAt sp.val slot.toNat
  act s s.clk.locked
    (if x.state = 2 ∧ x.seq = BitVec.ofNat 16 v.toNat then
       s.setSlot sp.val slot.toNat { x with state := 0, status := Status.empty.code, tag := 0, reads := 0, data := [], notify := false }
     else s.bump F.SP_BAD_RELEASE HOST 1 sp.val)

/-- A word of a slot (R379): SEQ, STATE and STATUS; TAG and READS; the result's data, which only a READY slot has. -/
def SlotSt.word (x : SlotSt) (i : Nat) : W32 :=
  match i with
  | 0 => BitVec.ofNat 32 (x.seq.toNat + 65536 * x.state + 16777216 * x.status)
  | 1 => BitVec.ofNat 32 (x.tag.toNat + 65536 * x.reads)
  | i + 2 => nthD 0 x.data i

/-- RESULT_SLOT_READ (R380): `n` words of a slot from its word `first`, as it stands at one instant. A read that takes in the slot's byte 0
counts while the slot is READY. -/
def execResultSlotRead (sp : Spool) (p : SlotPart) (s : State) : Out :=
  let x := s.slotAt sp.val p.slot.toNat
  let y := if x.state = 2 ∧ p.first = 0 then { x with reads := satAdd 65535 x.reads 1 } else x
  let s1 := if x.state = 2 ∧ p.first = 0 then s.setSlot sp.val p.slot.toNat y else s
  act s s.clk.locked
    { s1 with resp := y.word p.first.toNat, host := { s1.host with slotData := (List.range p.n.toNat).map (fun i => y.word (p.first.toNat + i)) } }

/-! NOP and FENCE (R374). -/

/-- NOP_COMMAND (R374). -/
def execNopCommand (c : CmdRef) (s : State) : Out := actOn s (s.cmdOf c 0x00 .fresh) fun _ => s.complete c .ok

/-- A command of the fence's spool that was dispatched before it is still PENDING. -/
def State.fenced (s : State) (c : CmdRef) : Bool :=
  let before := fun (x : CmdRef) => x.remote == c.remote && x.sp == c.sp && x != c && decide ((c.seq - x.seq).toNat < 32768) && decide (x ∉ s.host.orphan)
  s.host.cmds.any (fun d => before d.c) || s.host.done.any (fun d => before d.c)

/-- FENCE (R374): completes when every earlier command of its spool has left PENDING. -/
def execFence (c : CmdRef) (s : State) : Out :=
  actOn s (if s.fenced c then none else s.cmdOf c 0x3F .fresh) fun _ => s.complete c .ok

/-! Offload (R262, R384 to R388). -/

/-- A page's RUN and PASS as its index entry has them. -/
def State.idxMark (s : State) (k page : Nat) : Nat := leNat (s.boltBytes k ((s.capAt k).cfg.idxAddr page + 10) 2)

/-- The pages of a range of bolt offsets in record space, in order. -/
def pagesBetween (a b : Nat) : List Nat := if b ≤ a then [] else (List.range (b - a)).map (fun i => a + i)

/-- The pages that a SNAPSHOT sends (R262, R384): a range, or a segment from FIRST to END, which wraps where the segment did. -/
def State.snapPages (s : State) (d : DispCmd) (k : Nat) : List Nat :=
  let cfg := (s.capAt k).cfg
  let all := cfg.recSize * 256
  let seg := min (d.param 10 2) 4095
  if bitAt (d.param 8 1) 1 ∧ (cfg.mode = 2 ∨ seg ≠ 0) then
    if cfg.mode ≠ 2 then []
    else
      let e := s.boltBytes k (cfg.segAddr seg) 24
      let first := cfg.page (leNat (e.take 4))
      let last := cfg.page (leNat ((e.drop 8).take 4) - 1) + 1
      let lo := cfg.page (cfg.segStart seg)
      let hi := lo + cfg.zone / 4096
      if ¬ bitAt (leNat (e.drop 23)) 0 then [] else if first < last then pagesBetween first last else pagesBetween first hi ++ pagesBetween lo last
  else
    let first := min (d.param 12 4) (all - 1)
    let n := if d.param 16 4 = 0 then all - first else min (d.param 16 4) (all - first)
    pagesBetween first (first + n)

/-- The pages whose entries have been written and which no record has overwritten since, oldest first: where a FOLLOW begins (R262). -/
def State.followPages (s : State) (k : Nat) (limit : Option Nat) : List Nat :=
  (s.capAt k).written.filter (fun p => match limit with | some g => (s.capAt k).cfg.pageSeg p == g | none => true)

/-- A dispatched OFFLOAD of a kind. -/
def State.offload (s : State) (c : CmdRef) (follow : Bool) : Option DispCmd :=
  match s.cmdOf c 0x20 .fresh with
  | none => none
  | some d => if bitAt (d.param 8 1) 0 = follow ∧ s.up then some d else none

/-- An OFFLOAD that limits itself to a segment other than 0 in RING or STOP mode: it sends nothing (R384). -/
def State.offloadNothing (s : State) (d : DispCmd) (k : Nat) : Bool :=
  bitAt (d.param 8 1) 1 && decide ((s.capAt k).cfg.mode ≠ 2) && decide (min (d.param 10 2) 4095 ≠ 0)

/-- Starts an offload on its channel, or refuses it where the channel is not IDLE or the bolt is out of service (R348, R384). -/
def State.startOffload (s : State) (d : DispCmd) : State :=
  let k := d.target % 16
  let seg := min (d.param 10 2) 4095
  let limit := if bitAt (d.param 8 1) 1 ∧ (s.capAt k).cfg.mode = 2 then some seg else none
  if (s.host.chans.find? (fun e => e.1 == d.chan)).isSome ∨ s.flag F.BOLT_OUT (BOLT k) = true then s.complete d.c .refused
  else if s.offloadNothing d k then s.complete d.c .ok [d.chan, 0, 0, 0]
  else
    let x := d.newChan none
    let queue := if x.follow then (s.followPages k limit).map (fun p => (p, 0)) else (s.snapPages d k).map (fun p => (p, s.idxMark k p))
    if !x.follow ∧ queue = [] then s.complete d.c .ok [d.chan, 0, 0, 0]
    else (s.setPhase d.c .running).openChan d { x with limitSeg := limit, queue := queue } s.devnum

/-- SNAPSHOT (R262, R384). -/
def execSnapshot (c : CmdRef) (s : State) : Out := actOn s (s.offload c false) s.startOffload

/-- FOLLOW (R262, R384). -/
def execFollow (c : CmdRef) (s : State) : Out := actOn s (s.offload c true) s.startOffload

/-- A channel ends: its command completes with a status and the counts, and it becomes IDLE (R384). -/
def State.endChanAs (s : State) (ch : Nat) (st : Status) : State :=
  match s.host.chans.find? (fun e => e.1 == ch) with
  | none => s
  | some (_, x) =>
    let s1 := ({ s with host := { s.host with chans := Tab.del s.host.chans ch } }).wr F.CH_STATE HOST 0 ch
    s1.complete x.c st [ch, x.sent, x.skipped, x.damaged]

def State.endChan (s : State) (ch : Nat) : State := s.endChanAs ch .ok

/-- A page as it stands in the bolt: its bytes with poisoned lines as zeros, its entry, and the poisoned lines (R385, R386). -/
def State.pageOf (s : State) (k page : Nat) : List Byte × List Byte × List Nat :=
  let cfg := (s.capAt k).cfg
  let a := cfg.recBase * 0x100000 + 4096 * page
  let bad := ((List.range 64).map (fun i => a / 64 + i)).filter (s.lineBad k)
  let e := (s.boltGet k (cfg.idxAddr page) 16).1
  ((s.boltGet k a 4096).1, if bad = [] then e else setNth e 8 (BitVec.ofNat 8 ((nthD 0 e 8).toNat % 128 + 128)), bad)

/-- The records with lines in a page of record space. -/
def State.pageRecords (s : State) (k page : Nat) : List HeldRec :=
  let a := (s.capAt k).cfg.recBase * 0x100000 + 4096 * page
  (s.capAt k).held.filter (fun h => decide (h.off < a + 4096) && decide (a < h.off + h.size))

/-- The damaged records that an offload meets in a page (R262), once what it read there is marked: those that start in it, and those that reach
into it and were sound before. -/
def State.damagedMet (s before : State) (k page : Nat) : Nat :=
  let a := (s.capAt k).cfg.recBase * 0x100000 + 4096 * page
  let old := (before.pageRecords k page).filter (fun h => h.bad && decide (h.off < a))
  ((s.pageRecords k page).filter (fun h => h.bad && old.all (fun o => o.off != h.off))).length

/-- A page leaves for the host: data, index entry and progress word, in that order, and the vector after every NOTE_PAGES pages (R384,
R385). -/
def State.putPage (s : State) (ch : Nat) (x : ChanSt) (data entry : List Byte) : State :=
  let i := x.sent % x.bufPages
  let s1 := ((s.hostWrite (x.dataAddr + 4096 * i) data).hostWrite (x.idxAddr + 16 * i) entry).hostWrite x.progAddr (leBytes 8 (x.sent + 1))
  let s2 := (s1.modChan ch (fun x => { x with sent := x.sent + 1 })).wr F.CH_SENT HOST (x.sent + 1) ch
  let s3 := if x.note ≠ 0 ∧ (x.sent + 1) % x.note = 0 then s2.vector (33 + ch) else s2
  { s3 with host := { s3.host with chanTurn := ch } }

/-- The host buffer has room for a page (R385). -/
def State.chanRoom (s : State) (ch : Nat) (x : ChanSt) : Bool :=
  decide ((BitVec.ofNat 32 x.sent - s.reg (F.CH_CONSUMED.at HOST ch 0)).toNat < x.bufPages)

/-- The bytes of a remote page as its flow carries them: channel, number of the page in the offload, entry and data (R415, assumption 30). -/
def pageFlow (ch page : Nat) (entry data : List Byte) : List Byte := leBytes 4 ch ++ leBytes 4 page ++ entry ++ data

/-- Length of a remote page's flow. -/
def pageFlowLen : Nat := 4120

/-- A page leaves for the head device, and is kept until the head acknowledges it (R415). -/
def State.sendRemote (s : State) (ch page : Nat) (entry data : List Byte) : State :=
  let bs := pageFlow ch page entry data
  { s with
    host := { s.host with chanTurn := ch }
    sys := { s.sys with pages := s.sys.pages ++ [(ch, page, bs)] } }.sendFlow 0 0 bs

/-- One page of a channel: sent, or skipped where a SNAPSHOT finds its entry changed (R262, R384 to R386). Away from the head device the
page goes there as DATA cells; the head's channel writes it. -/
def State.sendPage (s : State) (ch : Nat) (x : ChanSt) : State :=
  match x.source with
  | some dev =>
    let flow := s.sys.flows.get (fun _ => []) dev
    if pageFlowLen ≤ flow.length ∧ leNat (flow.take 4) = ch then
      if s.chanRoom ch x then
        let page := leNat ((flow.drop 4).take 4)
        let s1 := { s with sys := { s.sys with flows := s.sys.flows.put dev (flow.drop pageFlowLen) } }.sendMsg dev
          (.pageAck (BitVec.ofNat 4 ch) (BitVec.ofNat 32 page))
        if page = x.sent % 2 ^ 32 then
          (s1.wr F.CH_STATE HOST 1 ch).putPage ch x ((flow.drop 24).take 4096) ((flow.drop 8).take 16)
        else s1
      else s.wr F.CH_STATE HOST 2 ch
    else s
  | none =>
    match x.queue with
    | [] => s
    | (page, mark) :: rest =>
      let k := s.rd F.CH_LPATCH HOST ch
      let drop := fun (s : State) => s.modChan ch (fun x => { x with queue := rest })
      if !x.follow ∧ s.idxMark k page ≠ mark then (drop s).skipPages ch 1
      else if s.isHead ∧ ¬ s.chanRoom ch x then s.wr F.CH_STATE HOST 2 ch
      else
        let (data, entry, bad) := s.pageOf k page
        let s1 := forEach (fun l s => s.markDamage k l) bad (((drop s).unmark k).wr F.CH_STATE HOST 1 ch)
        let n := s1.damagedMet s k page
        let s2 := (s1.modChan ch (fun x => { x with damaged := x.damaged + n })).bump F.CH_DAMAGED HOST n ch
        if s.isHead then s2.putPage ch x data entry
        else (s2.modChan ch (fun x => { x with sent := x.sent + 1 })).sendRemote ch (x.sent % 2 ^ 32) entry data

/-- A SNAPSHOT whose last page has left ends (R384). -/
def State.snapEnd (s : State) (ch : Nat) : State :=
  match s.host.chans.find? (fun e => e.1 == ch) with
  | some (_, x) => if x.source.isNone ∧ ¬ x.follow ∧ x.queue = [] then s.endChan ch else s
  | none => s

/-- A channel has a page to send and room for it. -/
def State.canSend (s : State) (ch : Nat) (x : ChanSt) : Bool :=
  match x.source with
  | some dev =>
    let flow := s.sys.flows.get (fun _ => []) dev
    decide (pageFlowLen ≤ flow.length) && leNat (flow.take 4) == ch && s.chanRoom ch x
  | none => x.queue != [] && (!s.isHead || s.chanRoom ch x)

/-- The channel whose turn it is: of those that can send, the first after the one that sent last (R387). -/
def State.nextChan (s : State) : Option Nat :=
  ((List.range 16).map (fun i => (s.host.chanTurn + 1 + i) % 16)).find? (fun c =>
    match s.host.chans.find? (fun e => e.1 == c) with | some e => s.canSend c e.2 | none => false)

/-- OFFLOAD_PAGE (R262, R385 to R387): a channel takes its turn. In D3hot the device issues no DMA (R393). -/
def execOffloadPage (ch : Chan) (s : State) : Out :=
  actOn s (if s.up ∧ ¬ s.host.d3 ∧ ¬ s.inReset 3 then s.host.chans.find? (fun e => e.1 == ch.val) else none) fun e =>
    if s.canSend ch.val e.2 = true ∧ s.nextChan ≠ some ch.val then s else (s.sendPage ch.val e.2).snapEnd ch.val

/-- OFFLOAD_STOP (R384): the channel stops at the next boundary. -/
def execOffloadStop (c : CmdRef) (s : State) : Out :=
  actOn s (s.cmdOf c 0x21 .fresh) fun d => (s.modChan d.chan (fun x => { x with stopping := true })).complete c .ok

/-- The segment that a FOLLOW is limited to has closed and every page of it has been sent or skipped. -/
def State.followDone (s : State) (ch : Nat) (x : ChanSt) : Bool :=
  let k := s.rd F.CH_LPATCH HOST ch
  let stopped := s.capState k == 4 || s.capState k == 0
  let closed := match x.limitSeg with
    | none => false
    | some g =>
      let e := s.boltBytes k ((s.capAt k).cfg.segAddr g) 24
      decide (0 < x.segPhase) && bitAt (leNat (e.drop 23)) 0 && leNat ((e.drop 22).take 1) == s.rd F.CAPS_RUN (s.pb k)
        && (match (s.capAt k).idx with | some i => (s.capAt k).cfg.pageSeg i.page != g | none => true)
  x.queue == [] && (stopped || closed)

/-- Channels that end at a boundary (R384): stopped ones, and a FOLLOW that has nothing more to send. A channel of a remote device ends
once its result is here and every page has been written. -/
def State.chanBoundary (s : State) : State :=
  forEach (fun e s =>
    match e.2.source with
    | some dev => if e.2.stopping ∧ (s.sys.flows.get (fun _ => []) dev).length < pageFlowLen then s.endChan e.1 else s
    | none => if e.2.stopping ∨ (e.2.follow ∧ s.followDone e.1 e.2) then s.endChan e.1 else s) s.host.chans s

/-- The result of a remote OFFLOAD: the pages still on their way are written first. -/
def State.remoteOffload (s : State) (c : CmdRef) (data : List W32) : Option State :=
  (s.host.chans.find? (fun e => e.2.c = c ∧ e.2.source.isSome)).map (fun e =>
    ((s.modChan e.1 (fun x => { x with stopping := true, skipped := (nthD 0 data 2).toNat, damaged := (nthD 0 data 3).toNat })).wr F.CH_SKIPPED HOST
      (min 65535 (nthD 0 data 2).toNat) e.1).wr F.CH_DAMAGED HOST (min 65535 (nthD 0 data 3).toNat) e.1)

/-- A WAITING channel that has room again runs (R385). -/
def State.showChan (s : State) (ch : Nat) : State :=
  match s.host.chans.find? (fun e => e.1 == ch) with
  | some e => if s.rd F.CH_STATE HOST ch = 2 ∧ s.chanRoom ch e.2 = true then s.wr F.CH_STATE HOST 1 ch else s
  | none => s

/-- A write of CONSUMED: above SENT becomes SENT (R388). -/
def State.putConsumed (s : State) (ch : Nat) (v : W32) (be : Nat) : State :=
  let old := s.reg (F.CH_CONSUMED.at HOST ch 0)
  let sent := s.reg (F.CH_SENT.at HOST ch 0)
  let s1 := s.mergeWrite (F.CH_CONSUMED.at HOST ch 0) v be
  let new := s1.reg (F.CH_CONSUMED.at HOST ch 0)
  if (sent - old).toNat < (new - old).toNat then s1.setReg (F.CH_CONSUMED.at HOST ch 0) sent else s1

/-- A write of CONSUMED, which may let its channel go on (R385, R388). -/
def State.writeConsumed (s : State) (ch : Nat) (v : W32) (be : Nat) : State := (s.putConsumed ch v be).showChan ch

/-- CONSUMED_WRITE (R385, R388). -/
def execConsumedWrite (ch : Chan) (v : W32) (be : BitVec 4) (s : State) : Out := act s s.up (s.writeConsumed ch.val v be.toNat)

/-! Bolt transfers (R389). -/

/-- OFF and LEN of a transfer. -/
def DispCmd.boltOff (d : DispCmd) : Nat := min (d.param 16 4) 0x7FFFFFFF
def DispCmd.boltLen (d : DispCmd) : Nat := min (d.param 20 4) (2 ^ 31 - d.boltOff)

/-- A dispatched transfer; the bolt must be in service (R348). -/
def State.transfer (s : State) (c : CmdRef) (op : Nat) : Option DispCmd := if s.up then s.cmdOf c op .fresh else none

/-- BOLT_IN (R389): the host's data are read next. -/
def execBoltIn (c : CmdRef) (s : State) : Out :=
  actOn s (s.transfer c 0x22) fun d =>
    if s.flag F.BOLT_OUT (BOLT (d.target % 16)) then s.complete c .refused
    else if d.boltLen = 0 then s.setPhase c .running
    else s.setPhase c .reading

/-- The lines from `first`, `n` of them, that are poisoned. -/
def State.poisonedLines (s : State) (k first n : Nat) : List Nat := (pagesBetween first (first + n)).filter (s.lineBad k)

/-- BOLT_OUT (R389): poisoned lines are written to the host as zeros, and earn ST_POISON. -/
def execBoltOut (c : CmdRef) (s : State) : Out :=
  actOn s (s.transfer c 0x23) fun d =>
    let k := d.target % 16
    let off := d.boltOff
    let len := d.boltLen
    let bad := if len = 0 then [] else s.poisonedLines k (off / 64) ((off + len - 1) / 64 + 1 - off / 64)
    if s.flag F.BOLT_OUT (BOLT k) then s.complete c .refused
    else
      let s1 := forEach (fun l s => s.markDamage k l) bad (((s.toHost (d.param 8 8) (s.boltGet k off len).1).unmark k).setPhase c .running)
      if bad = [] then s1 else s1.earn c .poison

/-- BOLT_TRANSFER_DONE (R389): the transfer has ended. -/
def execBoltTransferDone (c : CmdRef) (s : State) : Out :=
  actOn s (match s.cmd c with
    | some d => if (d.opcode = 0x22 ∨ d.opcode = 0x23) ∧ d.phase = .running ∧ d.device = s.devnum then some d else none
    | none => none) fun d => s.complete c d.status

/-- The entry of a transfer whose first `n` bytes are done. -/
def DispCmd.advance (d : DispCmd) (n : Nat) : DispCmd :=
  { d with entry := d.entry.take 8 ++ leBytes 8 (d.param 8 8 + n) ++ leBytes 4 (d.boltOff + n) ++ leBytes 4 (d.boltLen - n) ++ d.entry.drop 24 }

/-- Goes on with a BOLT_IN after `n` bytes of its range. -/
def State.advanceIn (s : State) (d : DispCmd) (n : Nat) : State :=
  let last := decide (d.boltLen ≤ n)
  { s with host := { s.host with cmds := s.host.cmds.map (fun x =>
      if x.c = d.c then { (d.advance n) with status := x.status, phase := if last then .running else .reading } else x) } }

/-- The lines of a range of the bolt that it covers only in part. -/
def partLines (a n : Nat) : List Nat :=
  ([a / 64, (a + n - 1) / 64].dedup).filter (fun l => !(decide (a ≤ 64 * l) && decide (64 * l + 64 ≤ a + n)))

/-- Host data for a BOLT_IN (R389): bytes up to the end of a bolt line or of the range, or a failed read of what the next line takes, which
leaves that line as it is. -/
def State.boltInRead (s : State) (d : DispCmd) (data : Option (List Byte)) : State :=
  let k := d.target % 16
  let toLine := min d.boltLen (64 - d.boltOff % 64)
  match data with
  | some bs =>
    let n := min bs.length d.boltLen
    if n = d.boltLen ∨ (d.boltOff + n) % 64 = 0 ∧ 0 < n then
      let r := s.boltPut k d.boltOff (bs.take n)
      let bad := (partLines d.boltOff n).filter (fun l => (s.lineMeta k l).poison)
      (if r.2 then (forEach (fun l s => s.markDamage k l) bad r.1).earn d.c .poison else r.1).advanceIn d n
    else s
  | none => ((s.dmaErr d.c).earn d.c .poison).advanceIn d toLine

/-! Resets of the interface (R393) and the link (R363). -/

/-- The registers that a reset of the interface restores: HOST but for the link's own state, and those of the event ring (R320, R393). -/
def hostResetReg (a : Nat) : Bool :=
  (decide (HOST < a) && decide (a < HOST + 0x1000)) || (decide (TRIG + 0x800 ≤ a) && decide (a ≤ TRIG + 0x820))

/-- The effect of a conventional reset, a Function Level Reset, a link loss and a return from D3hot (R393). -/
def State.hostReset (s : State) : State :=
  let s1 := forN (fun sp s => s.orphanSpool sp) 16 (forEach (fun e s => s.endChan e.1) s.host.chans s)
  let s2 := s1.resetRegs hostResetReg
  { s2 with
    host := { s2.host with spools := [], slots := [], rr := 15, chans := [], chanTurn := 0, vecs := [], d3 := false, master := false }
    trig := { s2.trig with based := false }
    sys := { s2.sys with wins := [], flows := s2.sys.flows.filter (fun e => decide (64 ≤ e.1)) } }

/-- CONVENTIONAL_RESET (R393). -/
def execConventionalReset (s : State) : Out := act s s.start.vhk (s.hostReset.setReg HOST 0)

/-- FUNCTION_LEVEL_RESET (R393). -/
def execFunctionLevelReset (s : State) : Out := act s (s.start.vhk && s.flag F.HOST_DL_UP HOST) s.hostReset

/-- LINK_LOSS (R363, R393). -/
def execLinkLoss (s : State) : Out := act s (s.start.vhk && s.flag F.HOST_DL_UP HOST) (s.hostReset.setReg HOST 0)

/-- D3HOT_ENTRY (R393). -/
def execD3hotEntry (s : State) : Out := act s (s.start.vhk && s.flag F.HOST_DL_UP HOST) { s with host := { s.host with d3 := true } }

/-- D3HOT_EXIT (R393). -/
def execD3hotExit (s : State) : Out := act s s.host.d3 s.hostReset

/-- LINK_UP (R363, R368, R394): a partner that allows only x2 gives x1. The host has configured the function, Bus Master Enable with it. -/
def execLinkUp (speed : BitVec 3) (width : BitVec 5) (x : LinkMode) (s : State) : Out :=
  let w := if 8 ≤ width.toNat then 8 else if 4 ≤ width.toNat then 4 else 1
  act s (s.clk.locked && !bitAt s.start.straps 1 && decide (1 ≤ speed.toNat) && decide (speed.toNat ≤ 6))
    (((({ s with host := { s.host with master := x.master } }.wr F.HOST_SPEED HOST speed.toNat).wr F.HOST_WIDTH HOST w).wr F.HOST_FLIT HOST
      (bit (x.flit || speed.toNat == 6))).wr F.HOST_DL_UP HOST 1)

end Sys2Proof.Machine
end

