-- ==== Sys2Proof/Machine/Seams.lean ====
section
/-! DEFINITION. Seam links and multi-device systems (R395 to R421): link states, frames and cells, bring-up, routes, the system trigger
delay, halted devices. -/

namespace Sys2Proof.Machine

/-! Routes (R406, R411, R414). -/

/-- The cost of a hop in 1/32 root cycles (R411). -/
def hopCost (l : Link) : Nat := 384 + l.oneway

/-- The seam by which `x` has this link, and the device at its other end. -/
def linkAt (l : Link) (x : Nat) : Option (Nat × Nat) :=
  if l.a = x then some (l.sa, l.b) else if l.b = x then some (l.sb, l.a) else none

/-- One round of relaxation: least cost and its hops toward a destination, by device. -/
def relax (ls : List Link) (t : Tab (Nat × Nat)) : Tab (Nat × Nat) :=
  let far : Nat → Nat × Nat := fun _ => (2 ^ 40, 2 ^ 40)
  let one := fun (x y c : Nat) (t : Tab (Nat × Nat)) =>
    let v := Tab.get far t y
    if v.1 + c < (Tab.get far t x).1 then Tab.put t x (v.1 + c, v.2 + 1) else t
  forEach (fun l t => one l.b l.a (hopCost l) (one l.a l.b (hopCost l) t)) ls t

/-- Least cost and hops toward `y`, by device. -/
def distTo (ls : List Link) (y fuel : Nat) : Tab (Nat × Nat) := forN (fun _ t => relax ls t) fuel [(y, (0, 0))]

/-- Devices that a list of links joins to device 0, as a count: one more than the highest number. -/
def deviceCount (ls : List Link) : Nat := forEach (fun l n => max n (max l.a l.b + 1)) ls 1

/-- Inserts a choice behind those that cost no more; of equal cost, behind those of a lower seam. -/
def insertChoice (p : Nat × Nat × Nat) : List (Nat × Nat × Nat) → List (Nat × Nat × Nat)
  | [] => [p]
  | q :: t => if q.2.1 < p.2.1 ∨ (q.2.1 = p.2.1 ∧ q.1 ≤ p.1) then q :: insertChoice p t else p :: q :: t

/-- The seams of `x` in the order of their cost toward `y`, each with cost and hops; ties to the lower seam. -/
def choices (ls : List Link) (t : Tab (Nat × Nat)) (x : Nat) : List (Nat × Nat × Nat) :=
  let cs := ls.filterMap (fun l =>
    match linkAt l x with
    | none => none
    | some (sm, o) =>
      let v := Tab.get (fun _ => (2 ^ 40, 2 ^ 40)) t o
      if v.1 < 2 ^ 40 then some (sm, v.1 + hopCost l, v.2 + 1) else none)
  cs.foldl (fun l p => insertChoice p l) []

/-- The route entry of `x` toward `y` (R414, R421). -/
def routeOf (ls : List Link) (x y : Nat) : Route :=
  match choices ls (distTo ls y (deviceCount ls)) x with
  | [] => ⟨7, 7, 0, 0⟩
  | p :: t =>
    let alt := match t with | [] => 7 | q :: _ => q.1
    ⟨BitVec.ofNat 3 p.1, BitVec.ofNat 3 alt, BitVec.ofNat 6 p.2.2, BitVec.ofNat 16 (ceilDiv p.2.1 32)⟩

/-- The greatest least cost over every pair, in 1/32 root cycles. -/
def worstPair (ls : List Link) (count : Nat) (out_ : Option Nat) : Nat :=
  forN (fun y m =>
    if out_ = some y then m
    else (distTo ls y count).foldl (fun m e => max m e.2.1) m) count 0

/-- L_max in 1/32 root cycles: over no failure and every single failed device or link (R411). -/
def lMaxOf (ls : List Link) : Nat :=
  let n := deviceCount ls
  let byDevice := forN (fun d m => max m (worstPair (ls.filter (fun l => l.a != d && l.b != d)) n (some d))) n (worstPair ls n none)
  forN (fun i m => max m (worstPair (ls.eraseIdx i) n none)) ls.length byDevice

/-- D_CALC for L_max in 1/32 root cycles and a period (R411). -/
def dCalcOf (count lmax period : Nat) : Nat := if count < 2 then 1 else 1 + ceilDiv (lmax + 320) (32 * period)

/-- Writes a route entry into the table. -/
def State.setRoute (s : State) (d : Nat) (r : Route) : State :=
  (((s.wr F.SYS_PRI DEV r.pri.toNat d).wr F.SYS_ALT DEV r.alt.toNat d).wr F.SYS_HOPS DEV r.hops.toNat d).wr F.SYS_LAT DEV r.lat.toNat d

/-- The links that still work as far as the head sees: not those of its own seams that are not UP, nor those of seams that other devices
reported DOWN (R414), nor those of halted devices (R418). -/
def State.liveLinks (s : State) : List Link :=
  s.sys.links.filter (fun l => !((l.a == 0 && !s.seamUp l.sa) || (l.b == 0 && !s.seamUp l.sb)) && !s.flag F.SYS_HALTED DEV l.a
    && !s.flag F.SYS_HALTED DEV l.b && decide ((l.a, l.sa) ∉ s.sys.downs) && decide ((l.b, l.sb) ∉ s.sys.downs))

/-- Some device of the first `n` lies deeper than 6 hops (R409). -/
def tooFar (ls : List Link) (n : Nat) : Bool := (List.range n).any (fun x => decide (6 < (routeOf ls x 0).hops.toNat))

/-- WIDE follows every route update of a system (R409, R414). -/
def State.setWide (s : State) (wide : Bool) : State := if s.rd F.SYS_STATE DEV < 2 then s else s.wr F.SYS_WIDE DEV (bit wide)

/-- The head knows of a seam found at bring-up that is DOWN (R414). -/
def State.headBroken (s : State) : Bool := s.isHead && decide (s.liveLinks.length < s.sys.links.length)

/-- The head's own route table; a device that no path reaches is ABSENT (R414). -/
def State.ownRoutes (s : State) : State :=
  let ls := s.liveLinks
  let n := deviceCount s.sys.links
  forN (fun d s =>
    if d = 0 then s
    else
      let r := routeOf ls 0 d
      (s.setRoute d r).wr F.SYS_ABSENT DEV (bit (r.pri == 7)) d) n (s.setWide (tooFar ls n))

/-- The head sends a device its routes (R406, R414). -/
def State.tellRoutes (s : State) (x : Nat) : State :=
  let ls := s.liveLinks
  let n := deviceCount s.sys.links
  let broken := s.headBroken
  forN (fun y s => if y = x then s else s.sendMsg x (.route (Fin.ofNat 64 y) (routeOf ls x y) (tooFar ls n) broken)) n s

/-- The head computes the routes of every device and distributes them (R414). -/
def State.headRoutes (s : State) : State :=
  forN (fun x s => if x = 0 then s else s.tellRoutes x) (deviceCount s.sys.links) s.ownRoutes

/-- STATE of a device that is in a system (R409, R414). -/
def State.showSystem (s : State) : State :=
  if s.rd F.SYS_STATE DEV < 2 then s
  else
    let broken := s.sys.found.any (fun n => !s.seamUp n) || s.sys.broken || s.headBroken
      || (List.range (s.rd F.SYS_COUNT DEV)).any (fun d => s.flag F.SYS_ABSENT DEV d || s.flag F.SYS_HALTED DEV d)
    s.wr F.SYS_STATE DEV (if broken then 3 else if s.flag F.SYS_WIDE DEV then 4 else 2)

/-! Link states (R402 to R405). -/

/-- Destinations that used a seam switch to the alternate (R414). -/
def State.switchRoutes (s : State) (n : Nat) : State :=
  forN (fun d s =>
    if s.rd F.SYS_PRI DEV d = n then (s.wr F.SYS_PRI DEV (s.rd F.SYS_ALT DEV d) d).wr F.SYS_ALT DEV 7 d
    else if s.rd F.SYS_ALT DEV d = n then s.wr F.SYS_ALT DEV 7 d
    else s) 64 s

/-- A device of a system reports to the head that a seam of its own went DOWN or came UP (R414). -/
def State.reportSeam (s : State) (n : Nat) (up : Bool) : State :=
  if s.follower then s.sendMsg 0 (.seamReport (Fin.ofNat 64 s.devnum) (Fin.ofNat 6 n) up) else s

/-- A seam goes DOWN (R405): what it carried is lost, the peer's key is erased, and traffic takes the alternates. -/
def State.seamDown (s : State) (n cause : Nat) : State :=
  let parent := s.rd F.SEAM_ROLE (SEAM n) == 1
  let s1 := (((s.wr F.SEAM_LSTATE (SEAM n) 0).wr F.SEAM_FAIL_CAUSE (SEAM n) cause).bump F.SEAM_DOWNS (SEAM n)).modSeam n
    (fun x => { x with key := false, trigOut := [], msgOut := [], dataOut := [], echo := none, rtts := [], launch := none, downAt := some s.rootNow })
  let s2 := ({ s1 with sys := { s1.sys with parentLost := s1.sys.parentLost || parent } }).switchRoutes n
  let s3 := if s2.rd F.SYS_STATE DEV < 2 then s2 else if s2.isHead then s2.headRoutes else s2.reportSeam n false
  s3.showSystem

/-- SEAM_TRAINED (R402). -/
def execSeamTrained (n : Seam) (s : State) : Out :=
  act s (s.rd F.SEAM_LSTATE (SEAM n) == 1 && s.flag F.SEAM_EN (SEAM n) && s.seamClocked n && s.start.vlane && s.start.vlaneH && !s.halted)
    (s.wr F.SEAM_LSTATE (SEAM n) 2)

/-- A seam has come UP: it rejoins at the head's route update (R414). -/
def State.seamRejoins (s : State) (n : Nat) : State :=
  if s.rd F.SYS_STATE DEV < 2 then s else (if s.isHead then s.headRoutes else s.reportSeam n true).showSystem

/-- SEAM_KEY_RECEIVED (R402). -/
def execSeamKeyReceived (n : Seam) (ok : Bool) (peer : Device) (peerSeam : Seam) (s : State) : Out :=
  act s (s.rd F.SEAM_LSTATE (SEAM n) == 2 && s.rd F.KEY_STATE SEC == 1 && s.seamClocked n && !s.halted)
    (if ok then
      (((((s.wr F.SEAM_LSTATE (SEAM n) 3).wr F.SEAM_GEN (SEAM n) (s.rd F.SEAM_GEN (SEAM n) + 1)).wr F.SEAM_PEER_DEV (SEAM n) peer.val).wr
        F.SEAM_PEER_SEAM (SEAM n) peerSeam.val).modSeam n (fun x => { x with fctr := 0, key := true })).seamRejoins n
    else s.seamDown n 3)

/-- SEAM_RETRY (R402): 10 ms after the seam went DOWN, or at the start. -/
def execSeamRetry (n : Seam) (s : State) : Out :=
  let rested : Bool := match (s.seamAt n).downAt with | none => true | some t => decide (t + 10 * cyclesPerMs < s.time.run + s.period)
  act s (s.rd F.SEAM_LSTATE (SEAM n) == 0 && s.flag F.SEAM_EN (SEAM n) && rested && s.clk.locked && s.seamClocked n && !s.halted) (s.wr F.SEAM_LSTATE (SEAM n) 1)

/-- The seam is neither DOWN nor PEER_HALTED. -/
def State.seamLive (s : State) (n : Nat) : Bool :=
  s.rd F.SEAM_LSTATE (SEAM n) == 1 || s.rd F.SEAM_LSTATE (SEAM n) == 2 || s.rd F.SEAM_LSTATE (SEAM n) == 3

/-- SEAM_LOCK_LOSS (R396, R405). -/
def execSeamLockLoss (n : Seam) (s : State) : Out := act s (s.seamLive n && !s.halted) (s.seamDown n 1)

/-- FRAME_TIMEOUT (R405). -/
def execFrameTimeout (n : Seam) (s : State) : Out := act s (s.seamUp n && !s.halted) (s.seamDown n 2)

/-- UNCORRECTABLE_CODEWORDS (R405). -/
def execUncorrectableCodewords (n : Seam) (s : State) : Out := act s (s.seamLive n && !s.halted) (s.seamDown n 4)

/-- RETRAIN (R405, R420). -/
def execRetrain (n : Seam) (s : State) : Out :=
  act s (!s.halted && decide (s.rd F.SEAM_LSTATE (SEAM n) ≠ 0)) (s.seamDown n 6)

/-- A write of a seam's control word (R405, R420). -/
def State.writeSeamCtl (s : State) (n : Nat) (v : W32) (be : Nat) : State :=
  if bitAt be 0 then
    let en := bitAt v.toNat 0
    let s1 := s.wr F.SEAM_EN (SEAM n) (bit en)
    if (!en || bitAt v.toNat 1) && decide (s.rd F.SEAM_LSTATE (SEAM n) ≠ 0) then s1.seamDown n 6 else s1
  else s

/-- SEAM_EN_WRITE (R420). -/
def execSeamEnWrite (n : Seam) (v : W32) (be : BitVec 4) (s : State) : Out := act s (!s.halted) (s.writeSeamCtl n v be.toNat)

/-! Frames (R397 to R400). -/

/-- Layers at 100 °C or more, hottest state that R416 reports. -/
def State.hotLayers (s : State) : List Nat :=
  (List.range 8).filter (fun k => decide (k ∈ s.hk.hot))

/-- The HOT state that the device sends (R416); where several layers are hot, which of them is left open. -/
def State.hotState (s : State) : Option (Nat × Nat) :=
  if s.flag F.SYS_SYSMODE DEV then
    match s.hotLayers with
    | [] => none
    | k :: t =>
      let j := nthD k (k :: t) (s.freeWord.toNat % (t.length + 1))
      some (j, s.rd F.HK_T_EFF HK j)
  else none

/-- The flow of a DATA cell (R399): kind, destination and source. -/
def cellFlow (c : DataCell) : Nat := 4096 * c.kind.toNat + 64 * c.dest.val + c.source.val + 1

/-- The flow whose turn it is: of those that wait, the next after the one served last. -/
def nextFlow (last : Nat) (cs : List DataCell) : Option Nat :=
  let ks := cs.map cellFlow
  match (ks.filter (fun k => decide (last < k))).min? with
  | some k => some k
  | none => ks.min?

/-- Up to `n` DATA cells for a frame, one of each waiting flow in turn (R399): those taken, those left, and the flow served last. -/
def takeCells : Nat → Nat → List DataCell → List DataCell × List DataCell × Nat
  | 0, last, cs => ([], cs, last)
  | n + 1, last, cs =>
    match nextFlow last cs with
    | none => ([], cs, last)
    | some k =>
      match cs.find? (fun c => cellFlow c == k) with
      | none => ([], cs, last)
      | some c =>
        let r := takeCells n k (cs.eraseP (fun c => cellFlow c == k))
        (c :: r.1, r.2.1, r.2.2)

/-- SEAM_FRAME_SEND (R397 to R399): one TIME cell, up to 15 control cells, those of raises, of up to 15 entries each, before messages, and up
to 48 DATA cells; one frame every 128 root cycles. A halted device sends only HALT blocks (R417). -/
def execSeamFrameSend (n : Seam) (s : State) : Out :=
  let x := s.seamAt n
  let t := x.launch.getD s.rootNow
  let s1 := s.tick (t - s.time.run)
  let nt := min 15 (ceilDiv x.trigOut.length 15)
  let cells := takeCells 48 x.turn x.dataOut
  let fr : SeamFrame :=
    { fctr := x.fctr, gen := s.rd F.SEAM_GEN (SEAM n), seam := n.val, src := s.devnum, stitch := s1.stitch, offset := 32 * s1.off
      echo := x.echo.map (fun e => (e.1, e.2.1, 32 * (t - e.2.2))), hot := s.hotState, trigs := x.trigOut.take (15 * nt)
      msgs := x.msgOut.take (15 - nt), data := cells.1 }
  act s (s.seamUp n && !s.halted && decide (t < s.time.run + s.period))
    ((s1.modSeam n (fun x => { x with fctr := x.fctr + 1, frame := some fr, trigOut := x.trigOut.drop (15 * nt), msgOut := x.msgOut.drop (15 - nt),
                                      dataOut := cells.2.1, turn := cells.2.2, launch := some (t + 128) })).took)

/-- SEAM_FRAME_RECEIVE (R395, R400). -/
def execSeamFrameReceive (n : Seam) (tagOk : Bool) (corrected uncorrected : W16) (off : Nat) (s : State) : Out :=
  let s1 := ((s.tick off).bump F.SEAM_CW_CORR (SEAM n) corrected.toNat).bump F.SEAM_CW_UNCORR (SEAM n) uncorrected.toNat
  act s (s.seamUp n && !s.halted) (if tagOk then s1 else s1.enterHalt 2 n.val 0)

/-! Cells (R399). -/

/-- Latency from a round trip (R404): RTT is the mean of the last 256. -/
def State.measure (s : State) (n rtt : Nat) : State :=
  let rs := (rtt :: (s.seamAt n).rtts).take 256
  let mean := rs.foldl (· + ·) 0 / rs.length
  ((s.modSeam n (fun x => { x with rtts := rs })).wr F.SEAM_RTT (SEAM n) mean).wr F.SEAM_ONEWAY (SEAM n) (mean / 2)

/-- The neighbour's HOT state as a TIME cell shows it (R416). -/
def State.seeHot (s : State) (n : Nat) (hot : Option (Layer × BitVec 12)) (dev : Nat) : State :=
  let x := s.seamAt n
  match hot with
  | some (k, t) =>
    let rested := match x.hotClear with | none => true | some r => decide (r + 3200000000 ≤ s.rootNow)
    let s1 := s.modSeam n (fun x => { x with hot := true })
    if !x.hot && rested then s1.event .neighbourHot blkSEAM n [dev, k.val, t.toNat] else s1
  | none => s.modSeam n (fun x => { x with hot := false, hotClear := if x.hot then some s.rootNow else x.hotClear })

/-- The alignment of a follower to its parent (R408): the parent's time now is that of the cell's launch and the one-way latency; the present
stitch is longer by g root cycles, so that it ends where a stitch of the parent's ends, whose successor's number is loaded. -/
def State.alignTo (s : State) (n : Nat) (t : TimeCell) : AlignSt :=
  let p := 64 * t.headN.toNat
  let here := (t.offset + s.rd F.SEAM_ONEWAY (SEAM n)) / 32 + (s.period - s.off)
  let gap := (p - here % p) % p
  { stitch := t.stitch + BitVec.ofNat 64 ((here + gap) / p), n := t.headN.toNat, root := t.headRoot.toNat, gap := gap }

/-- TIME_CELL (R399, R404, R408, R416, R75). -/
def execTimeCell (n : Seam) (t : TimeCell) (s : State) : Out :=
  let parent := s.rd F.SEAM_ROLE (SEAM n) == 1
  let s := s.tick t.at_
  let s1 := ((s.measure n t.rtt).modSeam n (fun x => { x with echo := some (t.stitch, t.offset, s.rootNow) })).seeHot n t.hot t.hotDev.val
  let s2 := s1.wr F.SEAM_PHASE_ERR (SEAM n) (if parent then t.phase.toNat else 0)
  let s3 := if parent && s2.inSystem then
      (if t.degraded then { s2 with time := { s2.time with degraded := true, headDeg := true } }
       else if s2.time.headDeg then
         { s2 with time := { s2.time with
             headDeg := false
             degClear := s2.time.degClear || (s2.rd F.CLK_SOURCE CLK == 0 && !s2.flag F.CLK_SLEWING CLK) } }
       else s2)
    else s2
  let s4 := if parent && s3.sys.claimed && !s3.sys.aligned then
      { s3 with sys := { s3.sys with align := some (s3.alignTo n t), aligned := true } }
    else s3
  act s (s.seamUp n && !s.halted) s4

/-- A raise entry, or a system reset, takes effect here (R309, R311, R523). The entry carries the raise's stitch and not its offset, which stays open. -/
def State.arriveRaise (s : State) (e : TrigEntry) : State :=
  let line := 48 + e.line.val
  let d16 := toSigned 16 (e.stitch.toNat + 65536 - s.stitch.toNat % 65536)
  let raised := BitVec.ofInt 64 (s.stitch.toInt + d16)
  let due := raised + BitVec.ofNat 64 (s.rd F.TRIG_D TRIG)
  let o := s.freeWord.toNat % 8192
  let r : Raise := ⟨{ s.now with stitch := raised, off := o }, o, 5, e.origin.val, false⟩
  if e.reset then
    (if s.sys.resetAt.isSome then s
     else { s with sys := { s.sys with resetAt := some (if (due - s.stitch).toInt ≤ 0 then s.stitch + 1 else due) } }.flood { e with hops := e.hops + 1 })
  else if (line, e.origin.val, e.stitch.toNat) ∈ s.sys.seen then s
  else
    let s1 := s.took.flood { e with hops := e.hops + 1 }
    let late := decide ((due - s.stitch).toInt ≤ 0)
    let s2 := s1.noteSystem line e.origin.val (if late then s.stitch + 1 else due) r
    if late then (s2.bump F.TRIG_LATE TRIG).event .trigLate blkTRIG 0 [line, e.origin.val] else s2

/-- TRIG_CELL (R309, R311, R411). -/
def execTrigCell (n : Seam) (entries : List TrigEntry) (off : Nat) (s : State) : Out :=
  act s (s.seamUp n && !s.halted) (forEach (fun e s => s.arriveRaise e) entries (s.tick off))

/-- The head marks a device HALTED and raises its alarm (R417); every transfer to it ends in a bus error (R418), and routes avoid it. -/
def State.markHalted (s : State) (d : Nat) (seam : Nat) : State :=
  let s1 := { s.wr F.SYS_HALTED DEV 1 d with sys := { s.sys with haltSeam := s.sys.haltSeam.put d seam } }
  let s2 := s1.event .securityAlarm blkSEAM seam [d, 0, seam]
  let s3 := forEach (fun (w : WinAcc) s => if w.dev = d then (s.bump F.HOST_WIN_CA HOST).busError d 1 else s) s2.sys.wins
    { s2 with sys := { s2.sys with wins := s2.sys.wins.filter (fun (w : WinAcc) => w.dev != d) } }
  let s4 := forEach (fun e s => if e.2.source = some d then (s.endChanAs e.1 .securityHalt).busError d 3 else s) s3.host.chans s3
  let s5 := forEach (fun (x : DispCmd) s => if x.device = d ∧ ¬ x.c.remote ∧ d ≠ s.devnum then (s.complete x.c .securityHalt).busError d 2 else s)
    s4.host.cmds s4
  forN (fun x s => if x = 0 ∨ x = d then s else s.sendMsg x (.haltNotice (Fin.ofNat 64 d))) (deviceCount s5.sys.links) s5.headRoutes.showSystem

/-- Another device than the head learns that a device is HALTED (R417); of the head, that the time tree takes another root (R419). -/
def State.learnHalt (s : State) (d : Nat) (seam : Nat) : State :=
  if s.flag F.SYS_HALTED DEV d then s
  else
    { s.wr F.SYS_HALTED DEV 1 d with
      sys := { s.sys with haltSeam := s.sys.haltSeam.put d seam, parentLost := s.sys.parentLost || d == 0 } }.showSystem

/-- The notice of a halt goes to the head; that of the head's own goes to every other device (R417, R419; assumption 51). -/
def State.tellHalt (s : State) (d : Device) (seam : Nat) : State :=
  if d.val ≠ 0 then (s.sendMsg 0 (.haltNotice d)).showSystem
  else forN (fun x s => if x = 0 ∨ x = s.devnum then s else s.sendMsg x (.haltNotice d)) (s.rd F.SYS_COUNT DEV) (s.learnHalt 0 seam)

/-- The roles of the six seams (R406, R420), two bits each: 1 toward the parent, 2 toward a child, 3 any other of the system. -/
def State.setRoles (s : State) (roles : Nat) : State := forN (fun m s => s.wr F.SEAM_ROLE (SEAM m) (roles / 4 ^ m % 4)) 6 s

/-- The device is device 0 of a one-device system again (R406, R407). -/
def State.beSingle (s : State) : State :=
  let s1 := (((((s.wr F.SYS_STATE DEV 0).wr F.SYS_HEAD DEV 1).wr F.SYS_DEVNUM DEV 0).wr F.SYS_COUNT DEV 1).wr F.SYS_DEPTH DEV 0).wr F.SYS_WIDE DEV 0
  let s2 := ((((s1.wr F.SYS_D_SHORT DEV 0).wr F.SYS_D_CALC DEV 1).wr F.SYS_L_MAX DEV 0).wr F.TRIG_D TRIG 1).wr F.SYS_SYSMODE DEV
    (s1.rd F.SYS_SYSMODE_ON DEV)
  let s3 := forN (fun d s => ((s.setRoute d ⟨7, 7, 0, 0⟩).wr F.SYS_HALTED DEV 0 d).wr F.SYS_ABSENT DEV 0 d) 64 (s2.setRoles 0)
  { s3 with sys := { s3.sys with claimed := false, links := [], found := [], ready := none, align := none, downs := [], broken := false
                                 headPeriod := none, parentLost := false } }.showSync

/-- A claim by a bring-up (R406, R407). -/
def State.takeClaim (s : State) (devnum depth roles : Nat) : State :=
  let busy := (List.range 16).any (fun k =>
    s.rd F.CAPS_STATE (s.pb k) == 1 || (List.range 4).any (fun t => s.rd F.THR_STATE (s.pb k) t == 1))
  if s.sys.claimed || busy then s
  else
    let s1 := ((((s.wr F.SYS_DEVNUM DEV devnum).wr F.SYS_HEAD DEV (bit (devnum == 0))).wr F.SYS_DEPTH DEV depth).wr F.SYS_STATE DEV 1).setRoles roles
    { s1 with sys := { s1.sys with claimed := true, aligned := false, headPeriod := none, broken := false } }

/-- An event record read back from its 32 bytes (R319). -/
def parseRecord (bs : List Byte) : EvRec :=
  let f := fun o n => leNat ((bs.drop o).take n)
  let lo := f 0 2
  ⟨⟨BitVec.ofNat 64 (f 2 8), lo % 8192, bitAt lo 13, bitAt lo 14⟩, f 10 1, f 11 1, f 12 1 % 64, f 13 1, f 14 2,
   [BitVec.ofNat 32 (f 16 4), BitVec.ofNat 32 (f 20 4), BitVec.ofNat 32 (f 24 4)]⟩

/-- A forwarded command (R377, R415): carried out once; a repeat gets the same result again. Results far behind in the sequence are
forgotten. -/
def State.takeCommand (s : State) (c : CmdRef) (entry : List Byte) : State :=
  let c := { c with remote := true }
  let s := { s with sys := { s.sys with results := s.sys.results.filter (fun d => d.c.sp != c.sp || decide ((c.seq - d.c.seq).toNat < 32768)) } }
  match s.sys.results.find? (fun d => d.c = c) with
  | some d => s.sendMsg 0 (.result { c with remote := false } (BitVec.ofNat 8 d.status.code) d.data)
  | none =>
    if s.host.cmds.any (fun d => d.c = c) then s
    else s.landCmd ⟨c, entry, s.stitch + 1, .fresh, .ok⟩

/-- What has arrived of a flow, as its next cell finds it: an offload page that begins again replaces the part that was lost with it (R415). -/
def flowSoFar (flow : List Byte) (c : DataCell) : List Byte :=
  if c.kind = 0 ∧ c.seq = 0 then flow.take (flow.length / pageFlowLen * pageFlowLen) else flow

/-- DATA_CELL (R399, R415): taken here, or passed on toward its destination. A piece bound for host memory is written there.
Chain data go to the loader, whose commands say what it reads in them. -/
def execDataCell (n : Seam) (d : DataCell) (s : State) : Out :=
  let key := 64 * d.kind.toNat + d.source.val
  act s (s.seamUp n && !s.halted)
    (if d.kind = 1 then s
     else if d.dest.val ≠ s.devnum then s.sendData d
     else if d.kind = 2 ∧ s.isHead then s.hostWrite (leNat (d.payload.take 8)) ((d.payload.drop 12).take (leNat ((d.payload.drop 8).take 4)))
     else { s with sys := { s.sys with flows := s.sys.flows.put key (flowSoFar (Tab.get (fun _ => []) s.sys.flows key) d ++ d.payload) } })

/-- HALT_BLOCK (R417). -/
def execHaltBlock (n : Seam) (d : Device) (off : Nat) (s : State) : Out :=
  let parent := s.rd F.SEAM_ROLE (SEAM n) == 1
  let s1 := (((s.tick off).wr F.SEAM_LSTATE (SEAM n) 4).wr F.SEAM_FAIL_CAUSE (SEAM n) 5).modSeam n
    (fun x => { x with key := false, trigOut := [], msgOut := [], dataOut := [] })
  let s2 := ({ s1 with sys := { s1.sys with parentLost := s1.sys.parentLost || parent } }).switchRoutes n
  act s (s.seamUp n && !s.halted)
    (if s2.isHead then s2.markHalted d.val n
     else (s2.event .securityAlarm blkSEAM n [d.val, 0, n.val]).tellHalt d n)

/-! Bring-up (R406 to R412). -/

/-- The device at the other end of seam `m` of device `x`. -/
def peerOf (x m : Nat) (l : Link) : Option Nat :=
  if l.a = x ∧ l.sa = m then some l.b else if l.b = x ∧ l.sb = m then some l.a else none

/-- Discovery (R406): devices breadth first, each device's seams in ascending order, in the order in which they are claimed. -/
def discoverFrom (ls : List Link) : Nat → List Nat → Nat → List Nat
  | 0, order, _ => order
  | fuel + 1, order, i =>
    match order[i]? with
    | none => order
    | some x =>
      discoverFrom ls fuel ((List.range 6).foldl (fun o m =>
        match ls.findSome? (peerOf x m) with
        | some y => if y ∈ o ∨ 64 ≤ o.length then o else o ++ [y]
        | none => o) order) (i + 1)

/-- The links of a cabling, 0 being this device, with the numbers that discovery gives its devices (R406). -/
def numbered (ls : List Link) : List Link :=
  let order := discoverFrom ls 64 [0] 0
  ls.filterMap (fun l =>
    match order.findIdx? (· == l.a), order.findIdx? (· == l.b) with
    | some a, some b => some { l with a := a, b := b }
    | _, _ => none)

/-- The role of seam `m` of device `x` in the time tree (R406, R420). -/
def roleOf (ls : List Link) (x m : Nat) : Nat :=
  match ls.find? (fun l => (l.a == x && l.sa == m) || (l.b == x && l.sb == m)) with
  | none => 0
  | some l =>
    let o := if l.a = x ∧ l.sa = m then (l.b, l.sb) else (l.a, l.sa)
    if x ≠ 0 ∧ (routeOf ls x 0).pri.toNat = m then 1 else if o.1 ≠ 0 ∧ (routeOf ls o.1 0).pri.toNat = o.2 then 2 else 3

def rolesOf (ls : List Link) (x : Nat) : Nat := (List.range 6).foldl (fun w m => w + roleOf ls x m * 4 ^ m) 0

/-- The head's claim of a device (R406). -/
def claimOf (ls : List Link) (x : Nat) : Msg := .claim (Fin.ofNat 64 x) (routeOf ls x 0).hops (BitVec.ofNat 12 (rolesOf ls x))

/-- GO (R406, R407, R411), with the cabling over UP seams that discovery meets, each device under a number of its own and this device 0. The
head numbers and claims the devices, tells them their routes and what holds from READY on, and of a period change that is pending (R64). The
stitch of READY is left open but for the bound of 5 ms. Where discovery meets a device that another head has claimed, all return to SINGLE. -/
def execGo (cabling : List Link) (refused : Bool) (s : State) : Out :=
  let links := numbered cabling
  let n := deviceCount links
  let lm := lMaxOf links
  let dc := dCalcOf n lm s.period
  let d := if n < 2 then 1 else min 255 (max dc (s.rd F.SYS_D_MIN DEV))
  let wide := tooFar links n
  let at_ := s.stitch + BitVec.ofNat 64 (1 + s.freeWord.toNat % (16000000 / s.period))
  let s1 := (((s.wr F.SYS_HEAD DEV 1).wr F.SYS_DEVNUM DEV 0).wr F.SYS_DEPTH DEV 0).wr F.SYS_STATE DEV 1
  let s2 := { s1.took with
    sys := { s1.sys with
      links := links
      found := links.filterMap (fun (l : Link) => if l.a = 0 then some l.sa else if l.b = 0 then some l.sb else none)
      ready := some ⟨at_, n, wide, d, dc, ceilDiv lm 32⟩
      downs := []
      broken := false
      goAsked := false } }
  let s3 := (s2.setRoles (rolesOf links 0)).ownRoutes
  let announce := fun (s : State) (x : Nat) =>
    if s.flag F.STC_PEND DEV then s.sendMsg x (.period (BitVec.ofNat 8 s.time.newN) (s.stitch + BitVec.ofNat 64 (s.time.due - 1))) else s
  let s4 := forN (fun x s => if x = 0 then s
    else announce (((s.sendMsg x (claimOf links x)).tellRoutes x).sendMsg x
      (.ready at_ (BitVec.ofNat 7 n) wide (BitVec.ofNat 8 d) (BitVec.ofNat 8 dc) (BitVec.ofNat 16 (ceilDiv lm 32)))) x) n s3
  let s5 := forN (fun x s => if x = 0 then s else (s.sendMsg x (claimOf links x)).sendMsg x .single) n s3
  act s (s.clk.locked && (decide (s.rd F.SYS_STATE DEV ≠ 1) || s.sys.goAsked) && !s.halted)
    (if refused then s5.beSingle else s4)

/-- A write of GO (R406, R407): bring-up begins; what discovery finds, the GO command brings. -/
def State.askGo (s : State) : State :=
  if s.rd F.SYS_STATE DEV = 1 then s
  else
    let s1 := ((s.wr F.SYS_HEAD DEV 1).wr F.SYS_DEVNUM DEV 0).wr F.SYS_STATE DEV 1
    { s1 with sys := { s1.sys with goAsked := true } }

/-- A system reset of the head device floods the seams, and takes effect at the boundary that opens s + D (R523). -/
def State.raiseReset (s : State) : State :=
  { s with sys := { s.sys with resetAt := some (s.stitch + BitVec.ofNat 64 (s.rd F.TRIG_D TRIG)) } }.flood
    ⟨0, Fin.ofNat 64 s.devnum, BitVec.ofNat 16 s.stitch.toNat, 0, true⟩

/-- SYS_RESET (R523): a write on any other device is ignored. -/
def execSysReset (off : Nat) (s : State) : Out := act s (s.isHead && s.up) (s.tick off).raiseReset

end Sys2Proof.Machine
end

