-- ==== Sys2Proof/Machine/Stack.lean ====
section
/-! DEFINITION. Couplers and boundaries (R17 to R29, R41), and the device key (R42 to R46). -/

namespace Sys2Proof.Machine

/-! Groups (R17 to R22). -/

/-- What a coupler group carries (R20 to R22). -/
inductive GroupUse where
  | lanes | exchange | triggers | device | stream | tacks | planes | strings | service | memory
  | offload | configIn | configOut | windowOut | windowBack | nvProgram | sensing | control | key
  deriving DecidableEq, Repr

/-- Which way a group carries: a fixed direction, or both with a turnaround for each burst (R18, R22). -/
inductive GroupDir where
  | up | down | shared
  deriving DecidableEq, Repr

/-- A group's use, direction, number of data couplers, patch position and place among the position's groups; `ends` is the highest layer
that its channel reaches (R22). -/
structure GroupShape where
  use : GroupUse
  dir : GroupDir
  data : Nat
  pos : Option Nat
  place : Nat
  ends : Nat
  deriving DecidableEq, Repr

/-- Coupler groups of a boundary, both directions (R18, R41). -/
def boundaryGroups (b : Nat) : Nat :=
  match b with
  | 0 => 1250 | 1 => 938 | 2 => 938 | 3 => 640 | 4 => 640 | 5 => 640 | 6 => 640 | _ => 40

/-- The layers that a boundary joins (R41). -/
def boundaryLayers (b : Nat) : Nat × Nat :=
  match b with
  | 7 => (0, 1) | 8 => (1, 3) | 9 => (3, 5) | 10 => (5, 7) | _ => (b, b + 1)

/-- A group of L0–L1 (R20): of a position's 34, those of its ribbons' lane streams, of the exchange, and of triggers, strings, events,
snapshots and telemetry; behind the positions the device-wide groups. -/
def lowGroup (g : Nat) : GroupShape :=
  let d : GroupDir := if g < 625 then .up else .down
  let i := g % 625
  if i < 612 then
    ⟨if i % 34 < 32 then .lanes else if i % 34 = 32 then .exchange else .triggers, d, 16, some (i / 34), i % 34, 1⟩
  else ⟨.device, d, 16, none, i - 612, 1⟩

/-- A group of L1–L2 or L2–L3 (R21): of a position's 26, those of the stream path, of tacks, of planes and of sequencer control; behind the
positions the loader's service group of 12 couplers. -/
def midGroup (b g : Nat) : GroupShape :=
  let d : GroupDir := if g < 469 then .up else .down
  let i := g % 469
  if i < 468 then
    ⟨if i % 26 < 18 then .stream else if i % 26 < 22 then .tacks else if i % 26 < 25 then .planes else .strings, d, 16, some (i / 26), i % 26, b + 1⟩
  else ⟨.service, d, 12, none, 0, b + 1⟩

/-- A group of a riser segment (R22): the channels in the order of its table. -/
def riserGroup (g : Nat) : GroupShape :=
  if g < 6 then ⟨.offload, .down, 16, none, g, 3⟩
  else if g < 12 then ⟨.configIn, .up, 16, none, g - 6, 2⟩
  else if g < 18 then ⟨.configOut, .down, 16, none, g - 12, 2⟩
  else if g < 24 then ⟨.windowOut, .up, 16, none, g - 18, 7⟩
  else if g < 30 then ⟨.windowBack, .down, 16, none, g - 24, 7⟩
  else if g < 33 then ⟨.nvProgram, .up, 16, none, g - 30, 2⟩
  else if g < 36 then ⟨.sensing, .down, 16, none, g - 33, 7⟩
  else if g < 39 then ⟨.control, .up, 16, none, g - 36, 7⟩
  else ⟨.key, .up, 1, none, 0, 3⟩

/-- A group of a boundary (R18, R20 to R22). The spec gives groups no numbers: that a direction's groups stand together, upward first, in them
the positions in rising order with each table's rows in its order, and the device-wide groups last, is this model's choice
(assumption 21). -/
def groupShape (b g : Nat) : GroupShape :=
  if b = 0 then lowGroup g
  else if b < 3 then midGroup b g
  else if b < 7 then ⟨.memory, .shared, 16, none, g, b + 1⟩
  else riserGroup g

/-- The patch position that a group belongs to (R20, R21), in the model's numbering of groups (assumption 21). -/
def groupPos (b g : Nat) : Option Nat := (groupShape b g).pos

/-- A group's couplers: its data couplers from 0 up, 16 its parity coupler, 17 its spare (R17). -/
def hasCoupler (b g c : Nat) : Bool := decide (g < boundaryGroups b) && (decide (c < (groupShape b g).data) || c == 16 || c == 17)

/-- A channel's couplers in a riser segment beyond its end carry no traffic (R22); a channel to L2 is tapped within L1–L3
(assumption 21). -/
def carriesTraffic (b g : Nat) : Bool := decide (b < 7) || decide ((boundaryLayers b).1 < (groupShape b g).ends)

/-- What the parity coupler carries in a bit time: the exclusive-OR of the data couplers (R17). -/
def groupParity (bits : List Bool) : Bool := bits.foldl xor false

/-- The bit of the one data coupler that cannot be read, from the others and the parity coupler (R24). -/
def groupRebuild (others : List Bool) (parity : Bool) : Bool := xor (groupParity others) parity

/-- A group's state. -/
def State.groupAt (s : State) (b g : Nat) : GroupSt := s.stack.groups.get (fun _ => ⟨[], none, none, false, false⟩) (4096 * b + g)

def State.setGroup (s : State) (b g : Nat) (x : GroupSt) : State :=
  { s with stack := { s.stack with groups := s.stack.groups.put (4096 * b + g) x } }

/-- The failed couplers whose traffic no spare carries: parity stands for one of them at most (R24, R25, R27). -/
def GroupSt.missing (x : GroupSt) : List Nat := x.failed.filter (fun c => decide (c ≠ 17) && !(x.steered == some c && decide (17 ∉ x.failed)))

/-- The spare can still be steered in. -/
def GroupSt.spareFree (x : GroupSt) : Bool := x.steered.isNone && x.toSteer.isNone && decide (17 ∉ x.failed)

/-- A bit time can be reconstructed: at most one coupler's bits are missing, and parity gives them (R24, R27). -/
def GroupSt.whole (x : GroupSt) : Bool := decide (x.missing.length ≤ 1)

/-- The group after its pending steer. -/
def GroupSt.steer (x : GroupSt) : GroupSt :=
  match x.toSteer with
  | none => x
  | some c => { x with toSteer := none, steered := some c }

/-- The sampling phase of a coupler, of its boundary's phase set in force (R28, R29). -/
def State.samplePhase (s : State) (b g c : Nat) : Nat := Config.samplePhase b g c (Tab.get (fun _ => 0) s.stack.phaseBand b)

/-- The band of a boundary: the higher of the bands of the layers it joins (R29). -/
def State.boundaryBand (s : State) (b : Nat) : Nat :=
  max (s.rd F.HK_BAND HK (boundaryLayers b).1) (s.rd F.HK_BAND HK (boundaryLayers b).2)

/-- The couplers of every trained boundary take the phase set of its band (R29); a spare steered in at the same boundary starts with it. -/
def State.phaseBoundary (s : State) : State :=
  forN (fun b s => if s.flag F.BND_TRAINED DEV b then
    { s with stack := { s.stack with phaseBand := s.stack.phaseBand.put b (s.boundaryBand b) } } else s) 11 s

/-! Faults (R24 to R27). -/

/-- A group is counted as exhausted (R25, R26): EXH at once; a position's CPL_EXH and handover request come at the next boundary. -/
def State.exhaustGroup (s : State) (b g : Nat) : State :=
  let x := s.groupAt b g
  if x.exhausted then s
  else
    let s1 := (s.setGroup b g { x with exhausted := true }).bump F.BND_EXH DEV 1 b
    match groupPos b g with
    | none => s1
    | some p => if p ∈ s1.stack.exh then s1 else { s1 with stack := { s1.stack with exh := s1.stack.exh ++ [p] } }

/-- The traffic that a group carries can be what `f` says. -/
def State.carries (s : State) (b g : Nat) (f : Flight) : Bool :=
  let x := groupShape b g
  carriesTraffic b g &&
  match f with
  | .idle => true
  | .lane l => x.use == .lanes && (match s.laneSlot l.val with | some (k, slot) => x.pos == some (s.ppos k) && x.place / 16 == slot / 8 | none => false)
  | .lineWrite k _ => x.use == .memory || (x.use == .stream && x.pos == some (s.ppos k.val))
  | .lineRead _ _ => x.use == .memory
  | .frame => x.use == .planes
  | .control _ => (x.use == .triggers || x.use == .device || x.use == .strings || x.use == .service || decide (7 ≤ b)) && x.use != .offload

/-- The receiving block's treatment of a bit time that is marked uncorrectable (R27). A marked frame needs none: the frame code or the scrubber
mends it (R336, R447). -/
def State.markFlight (s : State) (b g : Nat) (f : Flight) : State :=
  match f with
  | .idle => s
  | .lane l => s.modLane l.val (fun x => { x with marked := true })
  | .lineWrite k line => if s.halted then s else (s.poisonLine k.val line.toNat).event .poison blkBOLT k.val [k.val, line.toNat] .poison
  | .lineRead k line => { s with stack := { s.stack with marked := s.stack.marked ++ [(k.val, line.toNat)] } }
  | .frame => s
  | .control c =>
    let key := 4096 * b + g
    if s.stack.resend.any (fun r => r.group == key && r.c == c && r.again) then
      { s with stack := { s.stack with resend := s.stack.resend.filter (fun r => !(r.group == key && r.c == c)) } }.completeOpt c .poison
    else { s with stack := { s.stack with resend := s.stack.resend ++ [⟨key, c, false⟩] } }

/-- A group that can no longer carry traffic: the end of its spares is reported once, for its logical patch or its boundary (R11 item 4, R27,
R318). -/
def State.groupOut (s : State) (b g : Nat) : State :=
  let x := s.groupAt b g
  if x.out ∨ x.steer.whole = true then s
  else
    let s1 := s.setGroup b g { x with out := true }
    match (groupPos b g).bind s.posPatch with
    | some k => s1.event .spareExhausted blkPATCH k [b, g]
    | none => s1.event .spareExhausted blkDEV b [b, g]

/-- One more coupler of a group has failed (R24, R25). A parity coupler is steered as a data coupler is; a spare that fails unused is a spare
less, and one in use leaves its coupler to parity (assumption 21). -/
def State.couplerFails (s : State) (b g c : Nat) : State :=
  let x := s.groupAt b g
  let y := { x with failed := x.failed ++ [c] }
  if c = 17 then
    if x.steered.isSome then (s.setGroup b g y).exhaustGroup b g
    else
      let s1 := (s.setGroup b g { y with toSteer := none }).wr F.BND_SPARES_LEFT DEV (s.rd F.BND_SPARES_LEFT DEV b - 1) b
      if x.toSteer.isSome then s1.exhaustGroup b g else s1
  else if x.spareFree then s.setGroup b g { y with toSteer := some c }
  else if x.toSteer.isSome then s.setGroup b g y
  else (s.setGroup b g y).exhaustGroup b g

/-- COUPLER_FAULT (R24 to R27). A bit time that cannot be reconstructed sets the boundary's FAULT bit, and what it carried is marked. -/
def execCouplerFault (b : Fin 11) (group : BitVec 11) (coupler : Fin 18) (x : CouplerHit) (s : State) : Out :=
  let b := b.val
  let g := group.toNat
  let c := coupler.val
  let s1 := ((s.tick x.off).event .couplerFault blkDEV b [b, g, c]).couplerFails b g c
  act s (hasCoupler b g c && s.flag F.BND_TRAINED DEV b && decide (c ∉ (s.groupAt b g).failed) && s.carries b g x.flight && !s.halted)
    (if (s1.groupAt b g).whole then s1 else ((s1.wr F.BND_FAULT DEV 1 b).markFlight b g x.flight).groupOut b g)

/-- The steers that fall due at a boundary (R24); a second failure before the steer leaves the group exhausted (R25). -/
def State.steerBoundary (s : State) : State :=
  forEach (fun e s =>
    let b := e.1 / 4096
    let g := e.1 % 4096
    if e.2.toSteer.isNone then s
    else
      let s1 := (s.setGroup b g e.2.steer).wr F.BND_SPARES_LEFT DEV (s.rd F.BND_SPARES_LEFT DEV b - 1) b
      if e.2.steer.missing = [] then s1 else s1.exhaustGroup b g) s.stack.groups s

/-- Positions with a group newly exhausted (R25): CPL_EXH, and the handover request of an active position; of one in a handover it waits for
the handover's end. -/
def State.exhBoundary (s : State) : State :=
  forEach (fun p s =>
    let s1 := s.wr F.POS_CPL_EXH DEV 1 p
    match s1.posPatch p with
    | some k => s1.requestHandover ⟨k, 1, none, none, false⟩
    | none => if s1.rd F.POS_STATE DEV p = 2 then { s1 with stack := { s1.stack with exh := s1.stack.exh ++ [p] } } else s1)
    s.stack.exh { s with stack := { s.stack with exh := [] } }

/-- Transfers marked uncorrectable are sent again in the stitch that opens (R27); a group that still cannot carry them marks them again, and
they complete with ST_POISON. -/
def State.resendBoundary (s : State) : State :=
  forEach (fun r s =>
    if r.again then s
    else if (s.groupAt (r.group / 4096) (r.group % 4096)).whole then { s with stack := { s.stack with resend := s.stack.resend ++ [{ r with again := true }] } }
    else s.completeOpt r.c .poison) s.stack.resend { s with stack := { s.stack with resend := [] } }

/-! Training (R28). -/

/-- Retires a position before release and binds its logical patch to a spare (R28, R348). R28 names no spare: the model takes the one that R461
gives a handover; with none left the logical patch stays where it is, and the end of the spares is reported (R11, assumption 21). -/
def State.retirePos (s : State) (p : Nat) : State :=
  match s.posPatch p with
  | none => s.setPos p 4
  | some k =>
    let spare := fun q => s.rd F.POS_STATE DEV q == 1
    match (List.range 18).find? (fun q => spare q && s.half_ q == s.half_ p) <|> (List.range 18).find? spare with
    | some q => (((s.wr F.LPM_PPOS DEV q k).wr F.POS_LPATCH DEV k q).setPos q 0).setPos p 4
    | none => (s.setPos p 4).event .spareExhausted blkPATCH k

/-- One coupler that failed training (R28): the first of a group is steered onto the spare; a second leaves the group exhausted, its position
retired. -/
def State.trainFail (s : State) (c : CouplerId) : State :=
  let b := c.b.val
  let g := c.group.toNat
  let x := s.groupAt b g
  let y := { x with failed := x.failed ++ [c.coupler.val] }
  if c.coupler.val ∈ x.failed ∨ ¬ hasCoupler b g c.coupler.val then s
  else if x.failed = [] then
    (s.setGroup b g { y with steered := if c.coupler.val = 17 then none else some c.coupler.val }).wr F.BND_SPARES_LEFT DEV
      (s.rd F.BND_SPARES_LEFT DEV b - 1) b
  else
    let s1 := s.setGroup b g { y with exhausted := true }
    if x.exhausted then s1
    else
      let s2 := s1.bump F.BND_EXH DEV 1 b
      match groupPos b g with
      | none => s2
      | some p => (s2.wr F.POS_CPL_EXH DEV 1 p).retirePos p

/-- A boundary is trained (R28): its couplers take the phase set of its band, and those that failed are steered. -/
def State.trainBoundary (s : State) (failed : List CouplerId) (b : Nat) : State :=
  let s1 := (s.wr F.BND_SPARES_LEFT DEV (boundaryGroups b) b).wr F.BND_TRAINED DEV 1 b
  let s2 : State := { s1 with stack := { s1.stack with phaseBand := s1.stack.phaseBand.put b (s1.boundaryBand b) } }
  forEach (fun c s => s.trainFail c) (failed.filter (fun c => c.b.val == b)) s2

/-! The device key (R42 to R46). -/

/-- A working copy of the device key; one that is not loaded holds zeros. -/
def State.keyCopy (s : State) (i : Nat) : BitVec 256 := Tab.get (fun _ => 0) s.stack.keyCopies i

/-- COPIES shows the working copies that are loaded (R46). -/
def State.showCopies (s : State) : State := s.wr F.KEY_COPIES SEC s.stack.keyCopies.length

/-- The key store loads the working copies of `l`: 0 to 5 the seam engines, 6 to 21 the bolt controllers (R43). -/
def State.loadCopies (s : State) (l : List Nat) : State :=
  if s.rd F.KEY_STATE SEC = 1 then
    { s with stack := { s.stack with keyCopies := forEach (fun i t => Tab.put t i s.stack.keyStore) l s.stack.keyCopies } }.showCopies
  else s

/-- The working copies of `l` are lost with the logic that holds them (R43). -/
def State.dropCopies (s : State) (l : List Nat) : State :=
  { s with stack := { s.stack with keyCopies := s.stack.keyCopies.filter (fun e => decide (e.1 ∉ l)) } }.showCopies

/-- The copies of the seam engines in L0, and of the bolt controllers in L3. -/
def keysL0 : List Nat := List.range 6
def keysL3 : List Nat := (List.range 16).map (fun k => 6 + k)

/-- The TRNG draws a key that no rule fixes (R42): four free values. -/
def State.drawKey (s : State) : State :=
  let w := fun i => (Config.freeValue (s.fresh + i)).toNat
  { s with
    fresh := s.fresh + 4
    stack := { s.stack with keyStore := BitVec.ofNat 256 (w 0 + 2 ^ 64 * w 1 + 2 ^ 128 * w 2 + 2 ^ 192 * w 3) } }

end Sys2Proof.Machine
end

