-- ==== Sys2Proof/Machine/Startup.lean ====
section
/-! DEFINITION. Start-up, resets, the jack, supplies and the test port (R515 to R535, R549 to R552, R559 to R565). -/

namespace Sys2Proof.Machine

/-! Losing and regaining power (R455, R511, R521, R551). -/

/-- What the non-volatile memory and fuses keep (R455): a slot or store in progress is lost. -/
def CfgSt.kept (c base : CfgSt) : CfgSt :=
  { base with
    slots := match c.load with
      | some l => (match l.dest with | some d => c.slots.put d none | none => c.slots)
      | none => c.slots
    settings := c.settings
    fill := c.fill
    gen := c.gen
    half := c.half
    seq := c.seq
    stores := c.stores
    fuses := c.fuses
    slotWrites := c.slotWrites
    jackValid := c.jackValid
    jackImgs := c.jackImgs
    jackActive := c.jackActive }

/-- A key burn cut off by power loss (R432): whether a key fuse was burned by then is left open. -/
def State.cutBurn (s : State) : State :=
  match s.cfg.burn with
  | some (.key _ _) =>
    { s.took with cfg := { s.cfg with burn := none, fuses := { s.cfg.fuses with dkey := if s.freeWord.toNat % 2 = 1 then 2 else 0 } } }
  | _ => s

/-- The state after the loss of everything but what survives a full reset (R519, R521): the jack, housekeeping and its record, the start
status, REFCLK judgement, straps, supplies, non-volatile memory and fuses. -/
def State.coldStart (s0 : State) : State :=
  let s := s0.cutBurn
  let keep := fun a => (decide (HK ≤ a) && decide (a < HOST)) || (decide (JACK ≤ a) && decide (a < JACK + 0x1000))
    || (decide (DEV + 0xC00 ≤ a) && decide (a ≤ DEV + 0xC08))
  let b := State.reset
  let s1 : State := { b with
    pending := s.pending
    regs := s.regs.filter (fun e => keep e.1)
    resp := s.resp
    fresh := s.fresh
    hostMem := s.hostMem
    time := { b.time with run := s.rootNow }
    cfg := s.cfg.kept b.cfg
    hk := { s.hk with stop := 0, both := false, vcore := true, heldReset := none, report := none, reportClk := none }
    clk := { b.clk with good := s.clk.good }
    start := { b.start with began := s.rootNow, vhk := s.start.vhk, vin := s.start.vin, vlane := s.start.vlane, vlaneH := s.start.vlaneH, straps := s.start.straps,
                            jackA0 := s.start.jackA0, vio := s.start.vio, jackSt := s.start.jackSt }
    tap := s.tap }
  let s2 := ((s1.wr F.CLK_STRAP CLK (s.start.straps % 2)).wr F.CLK_STABLE CLK (s.rd F.CLK_STABLE CLK)).wr F.CLK_LAST_COUNT CLK
    (s.rd F.CLK_LAST_COUNT CLK)
  s2.loadFuses.showSlots.loadSubsys

/-- A start that enters R515 at step 4 (R42, R512, R521). -/
def State.startAgain (s : State) (cause : Nat) : State :=
  let s1 := ((s.coldStart.incr F.ST_STARTS DEV).wr F.ST_LAST_START DEV cause).wr F.ST_INTOSC_START DEV 0
  s1.wr F.ST_PHASE DEV (if s1.flag F.CLK_STABLE CLK then 4 else 3)

/-- A full reset (R521, R524): during a stop it is held. -/
def State.fullReset (s : State) (cause : Nat) : State :=
  if s.hk.stop ≠ 0 then { s with hk := { s.hk with heldReset := some cause } }
  else (s.startAgain cause).wr F.HK_LATCHED HK 0

/-- BAR0 offsets of the blocks of L1 to L7: CFG, PATCH and BOLT (R536). -/
def upperBlock (a : Nat) : Bool :=
  (decide (CFG ≤ a) && decide (a < CFG + 0x1000)) || (decide (0x20000 ≤ a) && decide (a < 0x54000))

/-- The contents of L1 to L7 are lost (R455, R511). -/
def State.loseUpper (s : State) : State :=
  let b := State.reset
  let s1 := (s.cutBurn).resetRegs upperBlock
  let s2 := { s1 with
    procs := s1.procs.filter (fun e => !(decide (16 ≤ e.1) && decide (e.1 < 32)))
    banks := []
    bankWin := []
    bolts := []
    boltWin := []
    ports := []
    caps := []
    pats := []
    cvs := []
    fabs := []
    cfg := s1.cfg.kept { b.cfg with released := false }
    res := b.res
    start := { s1.start with lrReq := 0, lrHeld := 0, lrOn := [] } }
  (s2.dropCopies keysL3).showSlots

/-- A thermal shutdown (cause 1) or protective stop (cause 2) (R511, R513). Where both arise, CAUSE reads THERMAL. A command that has earned a
status before ST_REFUSED in the order of R14 ends with it. -/
def State.stopStack (s : State) (cause layer peak : Nat) : State :=
  if s.hk.stop ≠ 0 then
    (if s.hk.stop = 2 ∧ cause = 1 ∧ s.hk.stopAt = s.rootNow then
      { (s.wr F.HK_CAUSE HK 1).wr F.HK_LAYER HK layer with hk := { s.hk with stop := 1, both := true, peak := peak } }
     else if s.hk.stop = 1 ∧ cause = 2 ∧ s.hk.stopAt = s.rootNow then { s with hk := { s.hk with both := true } }
     else s)
  else
    let recent := if cause = 2 then (s.rootNow :: s.hk.stops).filter (fun t => decide (s.rootNow ≤ t + 60 * 3200000000)) else s.hk.stops
    let s1 := (((if cause = 1 then (s.wr F.HK_CAUSE HK cause).wr F.HK_LAYER HK layer else s.wr F.HK_CAUSE HK cause).bump F.HK_STOPS HK).wr F.HK_STOP_STITCH HK
      s.stitch.toNat)
    let s2 := if cause = 2 ∧ 3 ≤ recent.length then s1.wr F.HK_LATCHED HK 1 else s1
    let s3 := { s2 with hk := { s2.hk with stop := cause, both := false, stops := recent, peak := peak, stopAt := s.rootNow, cool := none } }
    let s4 := forEach (fun d s => s.complete d.c (d.status.first .refused)) s3.host.cmds s3
    let s5 := forN (fun n s => if s.seamLive n then s.seamDown n 1 else s) 6 s4
    let still := fun (e : Nat × LaneSt) => (e.1, { e.2 with sending := false, sent := [], prefill := [], eb := [] })
    ({ s5 with lanes := s5.lanes.map still } : State).loseUpper

/-! Power-up (R515 to R519). -/

/-- The state of a jack image whose flip-flops have taken their initial values (R531, R533, R534). -/
def State.jackInit (s : State) (j : Nat) : PlaneSt := initState (s.cfg.jackImgs.get (fun _ => []) j)

/-- VHK_GOOD (R515, R533, R565): straps: bit 0 STRAP_REF, 1 STRAP_PCIE, 2 STRAP_JBOOT, 3 STRAP_TEST. -/
def execVhkGood (straps : BitVec 8) (slot0Ok slot1Ok : Bool) (active : Bool) (s : State) : Out :=
  let st := straps.toNat
  let ok0 := slot0Ok && !bitAt st 2
  let ok1 := slot1Ok && !bitAt st 2
  let boot := if active then (if ok1 then some 1 else if ok0 then some 0 else none) else (if ok0 then some 0 else if ok1 then some 1 else none)
  let s1 := ((s.wr F.CLK_STRAP CLK (st % 2)).wr F.ST_PHASE DEV 3).wr F.ST_LAST_START DEV 0
  let s2 := { s1 with
    start := { s1.start with vhk := true, straps := st }
    cfg := { s1.cfg with jackValid := (bit slot0Ok, bit slot1Ok), jackActive := bit active } }
  let s3 := (s2.wr F.JK_VALID0 JACK (bit slot0Ok)).wr F.JK_VALID1 JACK (bit slot1Ok)
  let s4 := match boot with
    | some j => { (s3.wr F.JK_ACTIVE JACK j).wr F.JK_BLANK JACK 0 with start := { s3.start with jackSt := s3.jackInit j } }
    | none => (s3.wr F.JK_ACTIVE JACK (bit active)).wr F.JK_BLANK JACK 1
  act s (!s.start.vhk) s4.loadFuses.showSlots

/-- BLANK_DRIVE (R533). -/
def execBlankDrive (s : State) : Out :=
  act s (s.start.vhk && s.flag F.JK_BLANK JACK && !s.start.jackA0) { s with start := { s.start with jackA0 := true } }

/-- VIN_STACK_GOOD (R515, R550). -/
def execVinStackGood (s : State) : Out :=
  let s1 := { s with start := { s.start with vin := true, began := s.rootNow } }
  act s (s.start.vhk && !s.start.vin)
    (((s1.loadSubsys.incr F.ST_STARTS DEV).wr F.ST_LAST_START DEV 0).wr F.ST_PHASE DEV (if s.flag F.CLK_STABLE CLK then 4 else 3))

/-- INTOSC_START (R491). -/
def execIntoscStart (s : State) : Out :=
  let rep : EvRec := ⟨⟨0, 0, true, false⟩, EvCode.clockLoss.code, 0, 0, blkCLK, 0, [1, BitVec.ofNat 32 (s.rd F.CLK_LAST_COUNT CLK)]⟩
  let s1 := ((s.wr F.ST_INTOSC_START DEV 1).wr F.CLK_SOURCE CLK 1).wr F.ST_PHASE DEV 4
  act s (s.start.vhk && s.start.vin && !s.clk.locked && !s.flag F.CLK_STABLE CLK && !s.start.resetLow && s.rd F.ST_PHASE DEV == 3)
    { s1 with hk := { s1.hk with reportClk := some rep }, time := { s1.time with degraded := true } }

/-- ROOT_PLL_LOCK (R55, R491, R515, R518): the stitch counter starts at the next boundary, and the seams with EN set begin to train. -/
def execRootPllLock (s : State) : Out :=
  let s1 := { s.wr F.CLK_LOCKED CLK 1 with
    clk := { s.clk with locked := true }
    time := { s.time with counting := false }
    off := 0 }
  let s2 := forN (fun n s => if s.flag F.SEAM_EN (SEAM n) then s.wr F.SEAM_LSTATE (SEAM n) 1 else s) 6 s1
  act s (s.start.vhk && s.start.vin && s.rd F.ST_PHASE DEV == 4 && !s.clk.locked && !s.start.resetLow && !s.start.failed) s2

/-- KEY_ATTEMPT (R42, R45, R517). -/
def execKeyAttempt (ok : Bool) (s : State) : Out :=
  let n := s.rd F.KEY_ATTEMPTS SEC + 1
  let s1 := s.wr F.KEY_ATTEMPTS SEC n
  act s (s.clk.locked && s.rd F.ST_PHASE DEV == 4 && s.rd F.KEY_STATE SEC == 0 && decide (n ≤ 3))
    (if ok then ((s1.wr F.KEY_STATE SEC 1).drawKey.loadCopies keysL0).wr F.ST_PHASE DEV 5
     else if n = 3 then
       let s2 := (s1.wr F.KEY_STATE SEC 3).wr F.ST_FAIL DEV 1
       forEach (fun d s => s.complete d.c .securityHalt) s2.host.cmds
         { s2 with start := { s2.start with failed := true }, stack := { s2.stack with keyStop := true } }
     else s1)

/-- LAYER_RAISED (R43, R515): layers one at a time; with L3 the bolt controllers get their copies of the key. -/
def execLayerRaised (layer : Layer) (s : State) : Out :=
  let s1 := { s with start := { s.start with layers := layer.val } }
  let s2 := if layer.val = 3 then s1.loadCopies keysL3 else s1
  act s (s.rd F.ST_PHASE DEV == 5 && s.stackOn && layer.val == s.start.layers + 1 && !s.start.failed)
    (if layer.val = 7 then s2.wr F.ST_PHASE DEV 6 else s2)

/-- REGULATOR_TIMEOUT (R517). -/
def execRegulatorTimeout (layer : Layer) (s : State) : Out :=
  let s1 := ((s.wr F.ST_FAIL DEV 2).wr F.ST_FAIL_LAYER DEV layer.val).dropCopies keysL3
  act s (s.rd F.ST_PHASE DEV == 5 && s.stackOn && layer.val == s.start.layers + 1 && !s.start.failed)
    (forEach (fun d s => s.complete d.c (d.status.first .refused)) s1.host.cmds { s1 with start := { s1.start with layers := 0, failed := true } })

/-- TRAINING_DONE (R28, R515): the boundaries have trained from the bottom up; the committed settings are then loaded (R453). -/
def execTrainingDone (failed : List CouplerId) (s : State) : Out :=
  let s1 := forEach (fun b s => s.trainBoundary failed b) (List.range 11) s
  let s2 := s1.loadSettings.showSlots
  let s3 := s2.showJournal.wr F.ST_PHASE DEV 7
  act s (s.rd F.ST_PHASE DEV == 6 && s.stackOn && !s.start.failed) { s3 with start := { s3.start with sub := 0 } }

/-- Commands held behind start-up self-tests that have ended are taken up (R480, R518). -/
def State.freeHeld (s : State) : State :=
  { s with host := { s.host with cmds := s.host.cmds.map (fun d => if d.phase = .held ∧ ¬ s.selfTesting d then { d with phase := .fresh } else d) } }

/-- STARTUP_MARCH_DONE (R185, R474, R551): a lane whose loopback test fails enters FAULT; with a lane rail out of limits every lane
does, with cause 2. A loopback test that a request has suspended starts again behind it (R480). -/
def execStartupMarchDone (laneFaults : List Lane) (badPositions : List Pos) (s : State) : Out :=
  let rails := s.start.vlane && s.start.vlaneH
  let s1 := if rails then forEach (fun l s => s.enterFault l.val 5) laneFaults s else forN (fun l s => s.enterFault l 2) 256 s
  let s2 := forEach (fun p s => (s.retirePos p.val).event .selftestFail blkPATCH p.val) badPositions s1
  act s (s.rd F.ST_PHASE DEV == 7 && s.start.sub == 0 && s.stackOn && s.lanes.all (fun e => e.2.runs == [])) ({ s2 with start := { s2.start with sub := 1, marched := s2.rootNow } }.freeHeld)

/-- The spare decoder lane takes the failed one's place; after a second failure the bolt is out of service (R348). -/
def State.boltSpare (s : State) (k : Nat) : State :=
  let s1 := s.event .selftestFail blkBOLT k
  if s.flag F.BOLT_OUT (BOLT k) then s1
  else if s.flag F.BOLT_DEC_SPARE (BOLT k) then (s1.wr F.BOLT_OUT (BOLT k) 1).event .spareExhausted blkBOLT k
  else s1.wr F.BOLT_DEC_SPARE (BOLT k) 1

/-- A decoder that fails its self-test (R348, R448). -/
def State.checkerFail (s : State) (c : Checker) : State :=
  match c with
  | .bank p _ => (s.retirePos p.val).event .selftestFail blkPATCH p.val
  | .plane p _ => (s.retirePos p.val).event .selftestFail blkPATCH p.val
  | .counterStore => s.event .selftestFail blkDEV 0
  | .scrubber upper =>
    ({ s with cfg := { s.cfg with scrubOut := s.cfg.scrubOut + (if bitAt s.cfg.scrubOut (bit upper) then 0 else 2 ^ bit upper) } }).event
      .selftestFail blkCFG (bit upper)
  | .boltLane k => s.boltSpare k.val
  | .boltTag k => s.boltSpare k.val

/-- CHECKER_SELFTEST_DONE (R348). -/
def execCheckerSelftestDone (fails : List Checker) (s : State) : Out :=
  let s1 := forEach (fun c s => s.checkerFail c) fails s
  act s (s.rd F.ST_PHASE DEV == 7 && s.start.sub == 1 && s.stackOn) { s1 with start := { s1.start with sub := 2 } }

/-- DRAM_INIT_DONE (R353, R354, R515): every line is written with data 0 under the new key; slot 0 is then loaded if it is VALID and
STRAP_TEST is 0. -/
def execDramInitDone (hdr : StreamHeader) (s : State) : Out :=
  let s1 := forN (fun k s => s.setBolt k { s.boltAt k with
      mem := []
      meta_ := []
      regionBit := []
      lost := []
      patrol := 0
      passAt := s.rootNow
      passS := s.rd F.BOLT_PATROL_S (BOLT k) }) 16 s
  let s2 := (s1.wr F.ST_PHASE DEV 8).freeHeld
  act s (s.rd F.ST_PHASE DEV == 7 && s.start.sub == 2 && s.stackOn)
    (if s2.rd F.CFG_SSTATE CFG 0 = 2 ∧ ¬ bitAt s2.start.straps 3 ∧ s2.cfg.load.isNone ∧ s2.cfg.inForce.isSome then
      s2.takeHeader (LoadSt.start none 2 0 none false) hdr 0 else s2)

/-! Resets (R520 to R530). -/

/-- RESET_N_ASSERT (R522, R524). -/
def execResetNAssert (s : State) : Out :=
  let s1 := if s.hk.stop ≠ 0 then { s with hk := { s.hk with heldReset := some 1 } } else s.coldStart
  act s (s.start.vhk && !s.start.resetLow) { s1 with start := { s1.start with resetLow := true } }

/-- RESET_N_RISE (R522). -/
def execResetNRise (s : State) : Out :=
  let s1 := { s with start := { s.start with resetLow := false } }
  act s (s.start.vhk && s.start.resetLow) (if s.hk.heldReset.isSome then s1 else if s.start.vin then s1.fullReset 1 else s1)

/-- JRST_FULL (R520). -/
def execJrstFull (s : State) : Out :=
  act s (s.start.vhk && s.start.vin && s.flag F.JK_ALLOW_FULL JACK && !s.start.resetLow) (s.fullReset 2)

/-- HELD_RESET_RELEASE (R524). -/
def execHeldResetRelease (s : State) : Out :=
  let cooled : Bool := match s.hk.cool with | some t => decide (t + 3200000000 ≤ s.rootNow) | none => false
  actOn s (if cooled ∧ ¬ s.start.resetLow then s.hk.heldReset else none) fun cause => (s.startAgain cause).wr F.HK_LATCHED HK 0

/-- A request for layer logic resets (R525, R528): one that names L1 or L3 may have to wait for a handover. -/
def State.requestLayers (s : State) (layers : Nat) : State :=
  if s.cfg.released ∧ ¬ s.halted then
    { s with start := if bitAt layers 1 || bitAt layers 3 then { s.start with lrHeld := s.start.lrHeld ||| layers }
                      else { s.start with lrReq := s.start.lrReq ||| layers } }
  else s

/-- JRST_LAYER (R520). -/
def execJrstLayer (layers : BitVec 8) (s : State) : Out :=
  act s (s.start.vhk && s.flag F.JK_ALLOW_LAYER JACK && s.cfg.released && !s.halted) (s.requestLayers layers.toNat)

/-- A write of LRESET (R525, R530); its SYS_RESET bit acts on the head device (R523). -/
def State.writeLreset (s : State) (v : W32) (be : Nat) : State :=
  let s1 := if bitAt be 0 then s.requestLayers (v.toNat % 256) else s
  let done := s1.rd F.LR_DONE DEV
  let clear := if bitAt be 2 then v.toNat / 65536 % 256 else 0
  let s2 := s1.wr F.LR_DONE DEV ((List.range 8).foldl (fun n k => if bitAt done k && !bitAt clear k then n + 2 ^ k else n) 0)
  if bitAt be 3 ∧ bitAt v.toNat 24 ∧ s2.isHead then s2.raiseReset else s2

/-- LAYER_RESET_WRITE (R525, R528). -/
def execLayerResetWrite (v : W32) (be : BitVec 4) (s : State) : Out := act s (s.cfg.released && !s.halted) (s.writeLreset v be.toNat)

/-! The jack (R531 to R535). -/

/-- A swap request (R534). -/
def State.requestSwap (s : State) : State :=
  let valid := if s.idleJack = 0 then s.flag F.JK_VALID0 JACK else s.flag F.JK_VALID1 JACK
  if s.flag F.JK_SWAP_PEND JACK then s
  else if valid then s.wr F.JK_SWAP_PEND JACK 1
  else s.wr F.JK_SWAP_STATUS JACK Status.refused.code

/-- JACK_SWAP (R534). -/
def execJackSwap (s : State) : Out := act s (s.start.vhk && !s.halted && !s.flag F.JK_SWAP_PEND JACK) s.requestSwap

/-- JACK_SWAP_EXECUTE (R534): with no SMBus transaction in progress, under SWAP_ANY or with SWAP_OK raised. -/
def execJackSwapExecute (swapAny swapOk : Bool) (s : State) : Out :=
  let j := s.idleJack
  let s1 := (((s.wr F.JK_ACTIVE JACK j).wr F.JK_SWAP_PEND JACK 0).wr F.JK_SWAP_STATUS JACK 0).incr F.JK_SWAPS JACK
  act s (s.start.vhk && s.flag F.JK_SWAP_PEND JACK && (swapAny || swapOk)) { s1.wr F.JK_BLANK JACK 0 with cfg := { s1.cfg with jackActive := j }, start := { s1.start with jackSt := s1.jackInit j } }

/-- JACK_SWAP_TIMEOUT (R534). -/
def execJackSwapTimeout (s : State) : Out :=
  act s (s.start.vhk && s.flag F.JK_SWAP_PEND JACK) ((s.wr F.JK_SWAP_PEND JACK 0).wr F.JK_SWAP_STATUS JACK Status.refused.code)

/-! Supplies (R549 to R551). -/

/-- VIO_GOOD (R549). -/
def execVioGood (bank level : Fin 3) (s : State) : Out :=
  act s s.start.vhk { s with start := { s.start with vio := s.start.vio.put bank.val (level.val + 1) } }

/-- VIO_LOSS (R551). -/
def execVioLoss (bank : Fin 3) (s : State) : Out :=
  act s s.start.vhk { s with start := { s.start with vio := s.start.vio.put bank.val 0 } }

/-- VLANE_OUT_OF_LIMITS (R551): lanes that are UP lose lock. -/
def execVlaneOutOfLimits (highRail : Bool) (off : Nat) (s : State) : Out :=
  let s1 := s.tick off
  let s2 := { s1 with start := if highRail then { s1.start with vlaneH := false } else { s1.start with vlane := false } }
  act s (s.start.vhk && (if highRail then s.start.vlaneH else s.start.vlane))
    (if s.halted ∨ ¬ s.cfg.released then s2 else forN (fun l s => if s.ln F.LN_LSTATE l = 2 then s.enterAcquire l else s) 256 s2)

/-- VLANE_RETURN (R551). -/
def execVlaneReturn (highRail : Bool) (off : Nat) (s : State) : Out :=
  let s1 := s.tick off
  act s (s.start.vhk && !(if highRail then s.start.vlaneH else s.start.vlane))
    { s1 with start := if highRail then { s1.start with vlaneH := true } else { s1.start with vlane := true } }

/-- VIN_STACK_LOSS (R455, R551). -/
def execVinStackLoss (s : State) : Out :=
  let s1 := s.coldStart
  act s (s.start.vhk && s.start.vin) ({ s1 with start := { s1.start with vin := false } }.wr F.ST_PHASE DEV 3)

/-- VHK_LOSS (R455, R551). -/
def execVhkLoss (s : State) : Out :=
  let s1 := s.cutBurn
  let b := State.reset
  act s s.start.vhk { b with
    pending := s.pending
    resp := s.resp
    fresh := s1.fresh
    hostMem := s.hostMem
    cfg := s1.cfg.kept b.cfg }

/-! The test port (R562 to R564). -/

/-- The balls may be taken from the device (R564). -/
def State.testBalls (s : State) : Bool := s.start.vin && decide (s.rd F.CFG_STATE CFG ≠ 2)

/-- Loads an instruction; a board-test instruction whose conditions do not hold acts as SAMPLE/PRELOAD, code 2. -/
def State.loadTap (s : State) (code : Nat) (board : Bool) : State :=
  { s with tap := ⟨if board && !s.testBalls then 2 else code⟩ }

/-- TAP_RESET (R562, R563): IDCODE is selected, and the balls return to the device. -/
def execTapReset (s : State) : Out := act s s.start.vhk (s.loadTap 1 false)

/-- BYPASS (R563). -/
def execBypass (s : State) : Out := act s s.start.vhk (s.loadTap 0xFF false)

/-- IDCODE (R563). -/
def execIdcode (s : State) : Out := act s s.start.vhk { s.loadTap 1 false with resp := 0x2025693D }

/-- SAMPLE_PRELOAD (R563). -/
def execSamplePreload (s : State) : Out := act s s.start.vhk (s.loadTap 2 false)

/-- EXTEST (R564). -/
def execExtest (s : State) : Out := act s s.start.vhk (s.loadTap 0 true)

/-- EXTEST_PULSE (R564). -/
def execExtestPulse (s : State) : Out := act s s.start.vhk (s.loadTap 3 true)

/-- EXTEST_TRAIN (R564). -/
def execExtestTrain (s : State) : Out := act s s.start.vhk (s.loadTap 4 true)

/-- CLAMP (R564). -/
def execClamp (s : State) : Out := act s s.start.vhk (s.loadTap 5 true)

/-- HIGHZ (R564). -/
def execHighz (s : State) : Out := act s s.start.vhk (s.loadTap 6 true)

/-- INTERNAL_SCAN (R477, R563): in MANUFACTURE and RETURN only; elsewhere it acts as BYPASS. -/
def execInternalScan (code : BitVec 4) (s : State) : Out :=
  act s s.start.vhk (s.loadTap (if s.rd F.LCS SEC = 1 ∨ s.rd F.LCS SEC = 4 then 0x10 + code.toNat else 0xFF) false)

/-- From the device's release a board-test instruction acts as SAMPLE/PRELOAD (R564). -/
def State.releaseTap (s : State) : State := if s.tap.code = 0 ∨ (3 ≤ s.tap.code ∧ s.tap.code ≤ 6) then { s with tap := ⟨2⟩ } else s

/-- ALARM_N is low (R559, R357): the security halt; this and the three balls below are valid while VHK is good. -/
def State.alarmBall (s : State) : Bool := s.start.vhk && s.halted

/-- NME_N is low (R559, R321): a bit of NM_LATCH is set. -/
def State.nmeBall (s : State) : Bool := s.start.vhk && decide (s.rd F.NM_LATCH TRIG ≠ 0)

/-- STOP_N is low (R559, R511): a thermal shutdown or a protective stop is in force. -/
def State.stopBall (s : State) : Bool := s.start.vhk && decide (s.hk.stop ≠ 0)

/-- RDY_N is low (R559, R456): CFG STATE reads RELEASED. -/
def State.rdyBall (s : State) : Bool := s.start.vhk && decide (s.rd F.CFG_STATE CFG = 2)

end Sys2Proof.Machine
end

