-- ==== Sys2Proof/Machine/Clock.lean ====
section
/-! DEFINITION. Clocks, power and heat (R488 to R514): REFCLK judgement, multiplexers, the gating tree, REFOUT, power and temperature. -/

namespace Sys2Proof.Machine

/-! The reference clock (R488 to R493). -/

/-- Expected count and the GOOD and BAD limits for the strap (R488). -/
def State.refLimits (s : State) : Nat × Nat × Nat := if s.flag F.CLK_STRAP CLK then (204800, 40, 2048) else (131072, 26, 1310)

/-- A BAD window (R489, R490, R492). -/
def State.badWindow (s : State) : State :=
  let s1 := { s.wr F.CLK_STABLE CLK 0 with clk := { s.clk with good := 0, back := false } }
  if s.clk.locked ∧ s.rd F.CLK_SOURCE CLK = 0 then
    let parent := (List.range 6).find? (fun n => s.rd F.SEAM_ROLE (SEAM n) == 1 && s.seamUp n)
    let src := if s.follower && parent.isSome then 2 else 1
    let s2 := ((s1.wr F.CLK_SOURCE CLK src).wr F.CLK_SLEWING CLK 1).wr F.CLK_LOCKED CLK 0
    let s3 := { s2.wr F.SYNC_LOCKED CLK 0 with time := { s2.time with degraded := true, degClear := false, good := 0 } }
    forN (fun n s => s.showRefout n) 8 (s3.event .clockLoss blkCLK 0 [src, s.rd F.CLK_LAST_COUNT CLK])
  else s1

/-- A GOOD window (R490, R493). -/
def State.goodWindow (s : State) : State :=
  let n := min 16 (s.clk.good + 1)
  let s1 := { s with clk := { s.clk with good := n } }
  if n < 16 then s1
  else
    let s2 := s1.wr F.CLK_STABLE CLK 1
    let s3 := if s.clk.locked ∧ s.rd F.CLK_SOURCE CLK ≠ 0 then { s2 with clk := { s2.clk with back := true } } else s2
    if s3.rd F.ST_PHASE DEV = 3 ∧ s3.start.vin ∧ ¬ s3.clk.locked then s3.wr F.ST_PHASE DEV 4 else s3

/-- REFCLK_WINDOW (R489, R490). -/
def execRefclkWindow (count : BitVec 18) (off : Nat) (s : State) : Out :=
  let (e, g, b) := s.refLimits
  let c := count.toNat
  let d := (if c < e then e - c else c - e)
  let s1 := (s.tick off).wr F.CLK_LAST_COUNT CLK c
  act s s.start.vhk
    (if c = 0 ∨ b < d then s1.badWindow
     else if d ≤ g then s1.goodWindow
     else
       let s2 := s1.bump F.CLK_DRIFT_WIN CLK
       if s2.flag F.CLK_STABLE CLK then s2 else { s2 with clk := { s2.clk with good := 0 } })

/-- REFCLK_MISSING (R489). -/
def execRefclkMissing (off : Nat) (s : State) : Out := act s s.start.vhk ((s.tick off).badWindow)

/-- REFCLK_OVERCOUNT (R489). -/
def execRefclkOvercount (count : BitVec 18) (off : Nat) (s : State) : Out :=
  let (e, _, b) := s.refLimits
  act s (s.start.vhk && decide (e + b < count.toNat)) ((s.tick off).badWindow)

/-- CLOCK_RESTORED (R75, R493). -/
def execClockRestored (off : Nat) (s : State) : Out :=
  let s1 := ((((s.tick off).wr F.CLK_SLEWING CLK 0).wr F.CLK_LOCKED CLK 1).event .clockRestored blkCLK 0).bump F.CLK_LOSSES CLK
  act s (s.clk.locked && s.rd F.CLK_SOURCE CLK == 0 && s.flag F.CLK_SLEWING CLK)
    { s1 with time := { s1.time with degClear := true } }

/-- FORCED_SWITCH (R497). -/
def execForcedSwitch (rootRef : Bool) (s : State) : Out :=
  let s1 := s.bump F.CLK_FORCED_SW CLK
  act s s.start.vhk (if rootRef then s1.wr F.CLK_STOPPED_REF CLK 1 else s1)

/-- The reference multiplexer at a boundary (R493). A follower without a parent seam that is UP goes on with the internal oscillator (R410, R492).
When a slew onto a fallback source ends depends on that source's frequency and is left open. -/
def State.clockBoundary (s : State) : State :=
  if s.clk.back then
      { ((s.wr F.CLK_SOURCE CLK 0).wr F.CLK_SLEWING CLK 1).wr F.CLK_LOCKED CLK 0 with clk := { s.clk with back := false } }
    else if s.rd F.CLK_SOURCE CLK = 2 ∧ ¬ s.sys.parentLost ∧ (List.range 6).all (fun n => s.rd F.SEAM_ROLE (SEAM n) != 1 || !s.seamUp n) = true then
      ((s.wr F.CLK_SOURCE CLK 1).wr F.CLK_SLEWING CLK 1).wr F.CLK_LOCKED CLK 0
    else if s.rd F.CLK_SOURCE CLK ≠ 0 ∧ s.flag F.CLK_SLEWING CLK then
      (if s.freeWord.toNat % 2 = 1 then (s.took.wr F.CLK_SLEWING CLK 0).wr F.CLK_LOCKED CLK 1 else s.took)
    else s

/-! The gating tree (R494 to R502). -/

/-- A domain without a gate that can close (R494). -/
def domainFixed (d : Nat) : Bool := decide (d ≤ 16) || d == 20 || d == 33

/-- The children of a gate; the bolt gates count as children of the DRAM gates (R499). -/
def gateChildren (g : Nat) : List Nat :=
  (List.range 115).filter (fun c => gateParent c == some g || (decide (53 ≤ g) && decide (g ≤ 56) && decide (99 ≤ c)))

/-- A logical patch is released. -/
def State.patchOut (s : State) (k : Nat) : Bool := s.cfg.released && (s.fabAt k).released

/-- A position in ACTIVE or HANDOVER that holds a released logical patch. -/
def State.posServes (s : State) (p : Nat) : Bool :=
  (s.rd F.POS_STATE DEV p == 0 || s.rd F.POS_STATE DEV p == 2) && s.patchOut (s.rd F.POS_LPATCH DEV p)

/-- The capture engine or a pattern thread of a position is at work. -/
def State.engineBusy (s : State) (p : Nat) (lower : Bool) : Bool :=
  if lower then !(s.rd F.CAPS_STATE (PATCH p) == 0 || s.rd F.CAPS_STATE (PATCH p) == 4)
  else (List.range 4).any (fun t => !(s.rd F.THR_STATE (PATCH p) t == 0 || s.rd F.THR_STATE (PATCH p) t == 3))

def State.bistAt (s : State) (p : Nat) : Bool := s.res.bists.any (fun b => b.on && (match b.u with | .pos q => q.val == p | _ => false))

/-- A bank of a position is in a march. -/
def State.bankMarched (s : State) (p : Nat) (f : Nat → Bool) : Bool := s.res.marches.any (fun m => m.pos == p && m.bank.any f)

/-- A block under the gate is in service (R499). -/
def State.gateInService (s : State) (g : Nat) : Bool :=
  let lanes := (List.range 256).any (fun l => s.flag F.LN_RX_EN (RIBBON (l / 8)) (l % 8) || s.flag F.LN_TX_EN (RIBBON (l / 8)) (l % 8))
  let anyPatch := (List.range 16).any s.patchOut
  if g = 26 then (List.range 34).any (fun q => s.rd F.PSTATE (RIBBON q) == 1)
  else if g = 27 ∨ g = 31 then lanes
  else if g = 28 then (List.range 6).any (fun n => s.flag F.SEAM_EN (SEAM n))
  else if g = 30 ∨ g = 32 then anyPatch
  else if g = 33 then (List.range 18).any (fun p => s.rd F.PSTATE (PATCH p) == 1)
  else if g = 38 then (List.range 18).any (fun p => s.engineBusy p true || s.bankMarched p (· < 4))
  else if g = 48 then (List.range 18).any (fun p => s.engineBusy p false || s.bankMarched p (4 ≤ ·))
  else if g = 39 ∨ g = 49 then s.res.cur.isSome
  else if g = 40 ∨ g = 50 then s.res.bists.any (fun b => b.on)
  else if g = 41 then s.cfg.load.isSome
  else if g = 43 then s.cfg.load.isSome || s.cfg.storing.isSome || s.flag F.CFG_COMPACTING CFG
  else if (34 ≤ g ∧ g ≤ 37) ∨ (44 ≤ g ∧ g ≤ 47) ∨ g = 51 ∨ g = 52 then anyPatch
  else if 57 ≤ g ∧ g ≤ 74 then
    s.posServes (g - 57) || s.engineBusy (g - 57) true || s.bistAt (g - 57) || s.rd F.PSTATE (PATCH (g - 57)) == 1 || s.bankMarched (g - 57) (· < 4)
  else if 75 ≤ g ∧ g ≤ 92 then s.posServes (g - 75) || s.engineBusy (g - 75) false || s.bistAt (g - 75) || s.bankMarched (g - 75) (4 ≤ ·)
  else if 93 ≤ g ∧ g ≤ 98 then s.flag F.SEAM_EN (SEAM (g - 93))
  else if 99 ≤ g ∧ g ≤ 114 then s.patchOut (g - 99) || s.res.marches.any (fun m => m.k == g - 99 && m.bank.isNone)
  else false

/-- Posted writes of a processor wait to land. -/
def State.postsWait (s : State) (key : Nat) : Bool := !(s.procAt key).wq.isEmpty

/-- A transaction under the gate is outstanding (R500). -/
def State.gateBusy (s : State) (g : Nat) : Bool :=
  let bank := fun p => s.flag F.BK_BUSY (PATCH p) || (s.posPatch p).any (fun k => (s.procAt (16 + k)).wq.any (fun p => !p.isStr))
  if g = 26 then (List.range 32).any (fun r => s.postsWait (32 + r))
  else if g = 33 then (List.range 16).any (fun k => s.postsWait (16 + k))
  else if g = 38 ∨ g = 48 then (List.range 18).any bank
  else if 57 ≤ g ∧ g ≤ 92 then
    let p := if g ≤ 74 then g - 57 else g - 75
    bank p || (g ≤ 74 && (s.posPatch p).any (fun k => s.postsWait (16 + k)))
  else if 99 ≤ g ∧ g ≤ 114 then s.flag F.BOLT_WIN_BUSY (BOLT (g - 99)) || s.flag F.BOLT_REKEYING (BOLT (g - 99))
  else if 93 ≤ g ∧ g ≤ 98 then s.seamUp (g - 93)
  else false

/-- A gate ID of 115 to 126 becomes 127, which names no gate (R498). -/
def gateClamp (g : Nat) : Nat := if 115 ≤ g then 127 else g

/-- HELD_GATE: the latest close that is held; 127 with none (R502). -/
def State.showHeld (s : State) : State := s.wr F.GATE_HELD_GATE CLK (s.clk.heldClose.getLast?.getD 127)

/-- An open request (R500, R501). -/
def State.openGate (s : State) (g0 : Nat) : State :=
  let g := gateClamp g0
  if g = 127 then s.wr F.GATE_STATUS CLK 0
  else
    let s1 := (({ s with clk := { s.clk with heldClose := s.clk.heldClose.erase g } } : State).showHeld).wr F.GATE_STATUS CLK
      (if g ∈ s.clk.heldClose ∨ s.gateIsOpen g = true then 0 else 1)
    { s1 with clk := { s1.clk with gates := s1.clk.gates.filter (fun q => q.1 != g) ++ [(g, false)] } }

/-- A close request (R499, R500). -/
def State.closeGate (s : State) (g0 : Nat) : State :=
  let g := gateClamp g0
  let refused := decide (g = 0 ∨ g = 1) || (decide (9 ≤ g ∧ g ≤ 56) && domainFixed (g - 9)) || (gateChildren g).any s.gateIsOpen || s.gateInService g
  if g = 127 then s.wr F.GATE_STATUS CLK 0
  else if refused then s.wr F.GATE_STATUS CLK 3
  else if s.gateBusy g then
    ({ s.wr F.GATE_STATUS CLK 1 with clk := { s.clk with heldClose := s.clk.heldClose.erase g ++ [g], gates := s.clk.gates.filter (fun q => q.1 != g) } } :
      State).showHeld
  else
    let s1 := s.wr F.GATE_STATUS CLK 1
    { s1 with clk := { s1.clk with gates := s1.clk.gates.filter (fun q => q.1 != g) ++ [(g, true)] } }

/-- GATE_OPEN (R501). -/
def execGateOpen (gate : BitVec 7) (s : State) : Out := act s (s.clk.locked && !s.halted) (s.openGate gate.toNat)

/-- GATE_CLOSE (R499, R500). -/
def execGateClose (gate : BitVec 7) (s : State) : Out := act s (s.clk.locked && !s.halted) (s.closeGate gate.toNat)

/-- HELD_CLOSE_DONE (R500): the transactions under a gate are over, and its close takes effect at the next boundary. -/
def execHeldCloseDone (s : State) : Out :=
  actOn s (if s.halted then none else s.clk.heldClose.find? (fun g => !s.gateBusy g)) fun g =>
    ({ s with clk := { s.clk with heldClose := s.clk.heldClose.erase g, gates := s.clk.gates ++ [(g, true)] } } : State).showHeld

/-- The gate requests that take effect at a boundary (R499 to R501). -/
def State.gateBoundary (s : State) : State :=
  let s1 := forEach (fun q s => (if q.2 then s.setGate q.1 false else s.openChain 5 q.1).wr F.GATE_STATUS CLK 0) s.clk.gates s
  { s1 with clk := { s1.clk with gates := [] } }

/-- DRAM_REWRITE_DONE (R353, R501): every line of every bolt in the layer has lost its contents. -/
def execDramRewriteDone (layer : Layer) (s : State) : Out :=
  let inLayer := fun line => line % 4 + 4 == layer.val
  let s1 := forN (fun k s => s.setBolt k { s.boltAt k with
      mem := (s.boltAt k).mem.filter (fun e => !inLayer (e.1 / 64))
      meta_ := (s.boltAt k).meta_.filter (fun e => !inLayer e.1)
      lost := (s.boltAt k).lost.filter (· != layer.val) }) 16 s
  act s (decide (layer.val ∈ s.clk.rewriting) && !s.halted)
    ({ s1 with clk := { s1.clk with rewriting := s1.clk.rewriting.filter (· != layer.val) } }.setGate (49 + layer.val) true)

/-! REFOUT (R504, R505). -/

/-- A write of a REFOUT word: at once with SSC at 0, else at the start of the next modulation period (R504). -/
def State.writeRefout (s : State) (n : Nat) (word : Bool) (v : W32) (be : Nat) : State :=
  let a := F.REFO_EN.at CLK n 0 + (if word then 4 else 0)
  let s1 := s.mergeWrite a v be
  let s2 := if s.erd F.REFO_SSC CLK n = 0 then { s1 with eff := s1.eff.put a (s1.reg a) }
    else { s1 with clk := { s1.clk with refPend := s1.clk.refPend.put a (s1.reg a, s1.rootNow) } }
  s2.showRefout n

/-- REFOUT_WRITE (R504). -/
def execRefoutWrite (n : Fin 8) (word : Bool) (v : W32) (be : BitVec 4) (s : State) : Out :=
  act s (s.clk.locked && !s.halted) (s.writeRefout n.val word v be.toNat)

/-- Root cycles of an output's modulation period (R504, R505). -/
def State.refoutPeriod (s : State) (n : Nat) : Nat := ceilDiv 32000000 (max 300 (s.erd F.REFO_RATE CLK n))

/-- The words of an output that wait take effect when a modulation period begins (R504): where in a period the write fell is left open, and no
wait lasts longer than one. -/
def State.refoutWord (s : State) (n : Nat) : State :=
  let mine := fun (e : Nat × W32 × Nat) => decide (e.1 / 8 = F.REFO_EN.at CLK n 0 / 8)
  let ps := s.clk.refPend.filter mine
  if ps = [] then s
  else if s.freeWord.toNat % 2 = 1 ∨ ps.any (fun e => decide (e.2.2 + s.refoutPeriod n ≤ s.rootNow)) = true then
    { s.took with
      eff := forEach (fun e t => Tab.put t e.1 e.2.1) ps s.eff
      clk := { s.clk with refPend := s.clk.refPend.filter (fun e => !mine e) } }
  else s.took

/-- The reference clock outputs at a boundary (R504). -/
def State.refoutBoundary (s : State) : State := forN (fun n s => (s.refoutWord n).showRefout n) 8 s

/-! Power (R507) and temperature (R508 to R511). -/

/-- POWER_SAMPLE (R507): the average of the samples of the last 1 ms. -/
def execPowerSample (tenMilliwatts : W16) (off : Nat) (s : State) : Out :=
  let xs := (tenMilliwatts.toNat :: s.hk.samples).take 31
  let sum := xs.foldl (· + ·) 0
  let avg := sum / xs.length
  let s1 := ((s.tick off).wr F.HK_STACK_PWR HK avg).wr F.HK_PEAK_PWR HK (max avg (s.rd F.HK_PEAK_PWR HK))
  let s2 := { s1 with hk := { s1.hk with samples := xs } }
  act s (s.start.vhk && s.start.vin)
    (if 16500 * xs.length < sum then s2.stopStack 2 0 avg else s2)

/-- CURRENT_LIMIT (R507). -/
def execCurrentLimit (off : Nat) (s : State) : Out :=
  act s (s.start.vhk && s.start.vin) ((s.tick off).stopStack 2 0 (s.rd F.HK_STACK_PWR HK))

/-- T_inf in 1/50,000 of a quarter degree (R508): the neighbours' mean plus θ × P. -/
def inferred (s : State) (r : HeatRound) (k : Nat) : Int :=
  let t := fun i => nthD 0 r.diode i
  let mean2 := if k = 0 then 2 * t 1 else if k = 7 then 2 * t 6 else t (k - 1) + t (k + 1)
  25000 * mean2 + 2 * (s.rd F.HK_THETA HK k : Int) * ((nthD 0 r.power k : Nat) : Int)

/-- Which of two adjacent values a register shows for a temperature between them is left open. -/
def showTemp (x : Int) (free : Nat) : Int := if x % 50000 = 0 then x / 50000 else x / 50000 + (free % 2 : Nat)

/-- The band of a temperature: the highest whose lower limit it reaches (R510). -/
def bandOf (t : Int) : Nat := if t < 340 * 50000 then 0 else if t < 380 * 50000 then 1 else if t < 420 * 50000 then 2 else 3

/-- The lower limit of a band in 1/50,000 quarter degrees. -/
def bandLow (b : Nat) : Int := if b = 0 then -100000000 else if b = 1 then 340 * 50000 else if b = 2 then 380 * 50000 else 420 * 50000

/-- The next band of a layer (R510). -/
def nextBand (cur : Nat) (t : Int) : Nat := if cur < bandOf t then bandOf t else if t + 8 * 50000 ≤ bandLow cur then cur - 1 else cur

/-- One layer in a measurement round (R508 to R511). -/
def State.sampleLayer (s : State) (r : HeatRound) (slow : Bool) (k : Nat) : State :=
  let inf := inferred s r k
  let dio := nthD 0 r.diode k * 50000
  let eff := max dio inf
  let free := s.freeWord.toNat
  let teff := if dio ≥ inf then nthD 0 r.diode k else showTemp inf free
  let cur := Tab.get (fun _ => 0) s.hk.bands k
  let nb := nextBand cur eff
  let s1 := (((s.took.wr F.HK_T_DIODE HK (ofSigned 12 (nthD 0 r.diode k)) k).wr F.HK_T_INF HK (ofSigned 12 (showTemp inf free)) k).wr F.HK_T_EFF HK
    (ofSigned 12 teff) k).wr F.HK_P_LAYER HK (nthD 0 r.power k) k
  let s2 := s1.wr F.HK_T_PEAK HK (ofSigned 12 (max teff (toSigned 12 (s.rd F.HK_T_PEAK HK k)))) k
  let hot := decide (400 * 50000 ≤ eff)
  let with_ := fun (on : Bool) (l : List Nat) => if on then (if k ∈ l then l else l ++ [k]) else l.filter (· != k)
  let s4 := { s2 with hk := { s2.hk with
    bands := s2.hk.bands.put k nb
    warm := with_ (decide (360 * 50000 ≤ eff)) s2.hk.warm
    hot := with_ hot s2.hk.hot
    fast := if s.flag F.SYS_SYSMODE DEV && hot then with_ true s2.hk.fast else if slow && !hot then with_ false s2.hk.fast else s2.hk.fast } }
  let s5 := if cur < 2 ∧ nb = 2 then s4.event .thermalWarn blkHK k [k, ofSigned 12 teff]
    else if cur < 3 ∧ nb = 3 then s4.event .thermalCrit blkHK k [k, ofSigned 12 teff] else s4
  if decide (440 * 50000 ≤ eff) then s5.stopStack 1 k (ofSigned 12 teff) else s5

/-- The cooling that a restart waits for (R512): every layer below 90 °C. -/
def State.noteCool (s : State) : State :=
  { s with hk := { s.hk with cool := if s.hk.warm = [] then (match s.hk.cool with | none => some s.rootNow | c => c) else none } }

/-- FAST: the layers sampled every 256 µs, which are the hot ones and their neighbours (R509). -/
def State.showFast (s : State) : State :=
  let near := fun k => s.hk.fast.any (fun j => j == k || j == k + 1 || j + 1 == k)
  forN (fun k s => s.wr F.HK_FAST HK (bit (near k)) k) 8 s

/-- What a slow round finds of the VCORE rails (R478, R509). -/
def State.sampleRails (s : State) (ok : Bool) : State := { s with hk := { s.hk with vcore := ok } }

/-- SLOW_ROUND (R508 to R511). -/
def execSlowRound (r : HeatRound) (off : Nat) (s : State) : Out :=
  act s s.start.vhk ((forEach (fun k s => s.sampleLayer r true k) (List.range 8) ((s.tick off).sampleRails r.vcore)).noteCool.showFast)

/-- FAST_ROUND (R509): the layers sampled fast and their neighbours. -/
def execFastRound (r : HeatRound) (off : Nat) (s : State) : Out :=
  let ks := (List.range 8).filter (fun k => s.flag F.HK_FAST HK k)
  act s (s.start.vhk && ks != []) ((forEach (fun k s => s.sampleLayer r false k) ks (s.tick off)).noteCool.showFast)

/-- COMPARATOR_TRIP (R509, R511). -/
def execComparatorTrip (layer : Layer) (off : Nat) (s : State) : Out :=
  act s s.start.vhk ((s.tick off).stopStack 1 layer.val (s.rd F.HK_T_EFF HK layer.val))

/-- Bands that take effect at a boundary (R510). A change of L0 raises THERMAL in the signal processors, one of L1 or L3 in the patch
sequencers (R324). -/
def State.bandBoundary (s : State) : State :=
  let changed := fun k => decide (Tab.get (fun _ => 0) s.hk.bands k ≠ s.rd F.HK_BAND HK k)
  let s1 := if changed 0 then forN (fun r s => s.raiseProc (32 + r) 6 false) 32 s else s
  let s2 := if changed 1 || changed 3 then forN (fun k s => s.raiseProc (16 + k) 9 false) 16 s1 else s1
  forN (fun k s => s.wr F.HK_BAND HK (Tab.get (fun _ => 0) s.hk.bands k) k) 8 s2

/-- AUTO_RESTART (R512, R513). Which layer the event of a protective stop names no rule says: a free value. -/
def execAutoRestart (s : State) : Out :=
  let cooled : Bool := match s.hk.cool with | some t => decide (t + 3200000000 ≤ s.rootNow) | none => false
  let rested := decide (s.hk.stopAt + 3200000000 ≤ s.rootNow)
  let ok := decide (s.hk.stop ≠ 0) && !s.halted && !s.flag F.HK_LATCHED HK && s.hk.heldReset.isNone && !s.start.resetLow
    && (if s.hk.stop = 1 then cooled && (!s.hk.both || rested) else rested)
  let code := if s.hk.stop = 1 then EvCode.thermalShutdown.code else EvCode.powerStop.code
  let layer := if s.hk.stop = 1 then s.rd F.HK_LAYER HK else s.freeWord.toNat % 2 ^ 32
  let rep : EvRec := ⟨⟨0, 0, false, false⟩, code, 0, s.devnum, blkHK, if s.hk.stop = 1 then layer else 0,
    [BitVec.ofNat 32 layer, BitVec.ofNat 32 s.hk.peak,
     BitVec.ofNat 32 (if s.hk.stop = 1 ∧ s.hk.both then 1 else s.rd F.HK_STOP_STITCH HK)]⟩
  let s1 := s.took.startAgain (if s.hk.stop = 1 then 4 else 5)
  act s ok { s1 with hk := { s1.hk with report := some rep } }

end Sys2Proof.Machine
end

