-- ==== Sys2Proof/Machine/Bus.lean ====
section
/-! DEFINITION. A register write by address (R365): what each register of the map does with a write, whoever makes it. -/

namespace Sys2Proof.Machine

/-- A write of a diagnostic window's control word: INDEX at most the last word of the area (R544). -/
def State.writeDiag (s : State) (a last : Nat) (pages : Nat) (v : W32) (be : Nat) : State :=
  let s1 := s.mergeWrite a v be
  let w := s1.reg a
  let top := if bitsOf 16 16 w = 1 then 247 else last
  s1.setReg a (setBitsOf 15 12 (setBitsOf 11 0 w (min top (bitsOf 11 0 w))) (min pages (bitsOf 15 12 w)))

/-- DEV. -/
def State.writeDev (s : State) (src : Src) (o : Nat) (v : W32) (be : Nat) : State :=
  if o = F.STC_N_REQ.off then (if bitAt be 0 then s.writeNReq (F.STC_N_REQ.wants v be) else s)
  else if 0x200 ≤ o ∧ o < 0x240 then s.writeLpm src ((o - 0x200) / 4) v be
  else if o = 0x680 then s.writeDiag (DEV + o) 4095 15 v be
  else if o = F.LR_LAYERS.off then s.writeLreset v be
  else if o = F.SYS_GO.off then
    let s0 := s.mergeWrite (DEV + o) v be
    let s1 := if F.SYS_GO.wants v be = 1 then s0.askGo else s0
    s1.wr F.SYS_SYSMODE DEV (bit (decide (16 ≤ s1.rd F.SYS_COUNT DEV) || s1.flag F.SYS_SYSMODE_ON DEV))
  else s.mergeWrite (DEV + o) v be

/-- CLK. -/
def State.writeClk (s : State) (o : Nat) (v : W32) (be : Nat) : State :=
  if o = 0x100 then
    let s1 := s.mergeWrite (CLK + o) v be
    if F.GATE_GO.wants v be = 1 then
      (if s1.flag F.GATE_CLOSE CLK then s1.closeGate (s1.rd F.GATE_GATE CLK) else s1.openGate (s1.rd F.GATE_GATE CLK))
    else s1
  else if 0x200 ≤ o ∧ o < 0x240 then s.writeRefout ((o - 0x200) / 8) (o % 8 == 4) v be
  else if o = F.SYNC_MODE.off then s.writeSync v be
  else s.mergeWrite (CLK + o) v be

/-- HOST. -/
def State.writeHost (s : State) (o : Nat) (v : W32) (be : Nat) : State :=
  if 0x100 ≤ o ∧ o < 0x300 ∧ o % 0x20 = 0x0C then s.writeSpoolEn ((o - 0x100) / 0x20) v be
  else if 0x400 ≤ o ∧ o < 0x500 ∧ o % 0x10 = 8 then s.writeConsumed ((o - 0x400) / 0x10) v be
  else if 0x800 ≤ o ∧ o < 0xC00 ∧ o % 0x10 = 0xC then s.writeVectorCtrl ((o - 0x800) / 0x10) v be
  else s.mergeWrite (HOST + o) v be

/-- JACK. -/
def State.writeJack (s : State) (o : Nat) (v : W32) (be : Nat) : State :=
  if o = F.JK_SWAP.off ∧ F.JK_SWAP.wants v be = 1 then (s.mergeWrite (JACK + o) v be).requestSwap else s.mergeWrite (JACK + o) v be

/-- TRIG. -/
def State.writeTrig (s : State) (src : Src) (o : Nat) (v : W32) (be : Nat) : State :=
  if o = F.TRIG_RAISE_LO.off then s.writeRaise src false v be
  else if o = F.TRIG_RAISE_HI.off then s.writeRaise src true v be
  else if (0x20 ≤ o ∧ o < 0x50) ∨ (0x100 ≤ o ∧ o < 0x180) then s.stageWrite (TRIG + o) v be
  else if o = F.EVQ_BASE_LO.off then s.writeEvqLo v be
  else if o = F.EVQ_BASE_HI.off then s.writeEvqHi v be
  else if o = F.EVQ_SIZE.off then s.writeEvqSize v be
  else if o = F.EVQ_TAIL.off then s.writeEvqTail v be
  else s.mergeWrite (TRIG + o) v be

/-- RIBBON: offsets below 0x40 belong to a processor position, the others to the ribbon (R542). -/
def State.writeRibbon (s : State) (r o : Nat) (v : W32) (be : Nat) : State :=
  let l := 8 * r + (o - 0x100) / 0x40
  if o = F.EVT_PEND.off then
    let s1 := s.mergeWrite (RIBBON r + o) v be
    match (List.range 32).find? (fun x => s.rsp x == r) with
    | some x => s1.releaseRecord x
    | none => s1
  else if o = 0x20 then s.writeDiag (RIBBON r + o) 1023 1 v be
  else if o = F.RIB_BOND.off then s.writeRibCtl r v be
  else if 0x100 ≤ o ∧ o < 0x300 then
    (if o % 0x40 = 0 then s.writeLnCtl l v be
     else if o % 0x40 = 4 then s.writeLnRate l v be
     else if o % 0x40 = 0x10 then s.writeTxFfe l v be
     else if o % 0x40 = 0x18 then s.writeQuiet l v be
     else s.mergeWrite (RIBBON r + o) v be)
  else s.mergeWrite (RIBBON r + o) v be

/-- PATCH, of the logical patch `k` that the position holds, where the write acts (R545). -/
def State.writePatch (s : State) (p k o : Nat) (v : W32) (be : Nat) : State :=
  let a := PATCH p + o
  if o = 0x20 then s.writeDiag a 2047 1 v be
  else if o = F.PQ_QUIET_LEN.off then s.writePquiet k v be
  else if o = F.PLC_LOAD_SLOT.off then s.writePlaneCtl k v be
  else if 0x200 ≤ o ∧ o < 0x280 ∧ o % 0x10 = 0 then s.writeQueueCfg k ((o - 0x200) / 0x10) v be
  else if o = F.CAP_CMD.off then s.capCmd k (if 4 < F.CAP_CMD.wants v be then 0 else F.CAP_CMD.wants v be) none
  else if 0x404 ≤ o ∧ o < 0x440 then s.writeCapCfg k o v be
  else if 0x480 ≤ o ∧ o < 0x4C0 then s.writeSlotCfg k ((o - 0x480) / 4) v be
  else if o = F.PAT_CMD.off then s.patCmd k (if 2 < F.PAT_CMD.wants v be then 0 else F.PAT_CMD.wants v be) (F.PAT_THREADS.wants v be) none
  else if 0x640 ≤ o ∧ o < 0x680 then s.stageWrite a v be
  else if 0x680 ≤ o ∧ o < 0x6C0 then s.writeSub k ((o - 0x680) / 8) ((o - 0x680) / 4 % 2) v be
  else if 0x740 ≤ o ∧ o < 0x780 ∧ o % 8 = 4 then s.writeAction k ((o - 0x740) / 8) v be
  else if 0x800 ≤ o ∧ o < 0xA80 ∧ o % 0x20 = 0 then s.writeCvCfg k ((o - 0x800) / 0x20) v be
  else if 0x800 ≤ o ∧ o < 0xA80 ∧ o % 0x20 = 4 then s.writeCvValue k ((o - 0x800) / 0x20) v be
  else if o = F.BK_GO.off then s.writeMgmt p v be
  else s.mergeWrite a v be

/-- The bank integrity registers, which act on the position whatever its state (R332, R545): OVF, DEPTH and LEAK_MS. -/
def State.writeIntegrity (s : State) (p o : Nat) (v : W32) (be : Nat) : State :=
  let s1 := s.mergeWrite (PATCH p + o) v be
  if o = F.BK_DEPTH.off then s1.setDepth (bankUnit p 0) (s1.rd F.BK_DEPTH (PATCH p)) else s1

/-- BOLT. -/
def State.writeBolt (s : State) (k o : Nat) (v : W32) (be : Nat) : State :=
  if o = F.BOLT_DEPTH.off then
    let s1 := s.mergeWrite (BOLT k + o) v be
    s1.setDepth (boltUnit k) (s1.rd F.BOLT_DEPTH (BOLT k))
  else if o = F.BOLT_WIN_GO.off then s.writeBoltWin k v be
  else s.mergeWrite (BOLT k + o) v be

/-- A write of a BAR0 offset under its byte enables (R365): ignored in the halt (R358), by a block that does not answer, and at an unassigned
offset. -/
def State.busWrite (s : State) (src : Src) (a : Nat) (v : W32) (be : Nat) : State :=
  match locate a with
  | none => s
  | some (b, inst, o) =>
    if s.halted ∨ s.silent b o ∨ be % 16 = 0 then s
    else
      match b with
      | .dev => s.writeDev src o v be
      | .clk => s.writeClk o v be
      | .host => s.writeHost o v be
      | .seam => if o = F.SEAM_EN.off then s.writeSeamCtl inst v be else s.mergeWrite a v be
      | .jack => s.writeJack o v be
      | .ribbon => s.writeRibbon inst o v be
      | .patch =>
        if isIntegrity o then s.writeIntegrity inst o v be
        else
          match s.posView inst with
          | .normal => s.writePatch inst (s.rd F.POS_LPATCH DEV inst) o v be
          | .frozen => { s with res := { s.res with held := s.res.held ++ [⟨src, a, v, be⟩] } }
          | .own => s
      | .bolt => s.writeBolt inst o v be
      | .trig => s.writeTrig src o v be
      | _ => s.mergeWrite a v be

/-- REGISTER_WRITE (R365): a write that lands at `off`. Registers written by a command of their own act here in the same way. -/
def execRegisterWrite (src : Src) (a : BitVec 20) (v : W32) (be : BitVec 4) (off : Nat) (s : State) : Out :=
  act s s.clk.locked ((s.tick off).busWrite src (a.toNat / 4 * 4) v be.toNat)

/-- RC_FIELD_READ (R3): a read by BAR0 returns the fields and clears those of access RC to their reset values. -/
def execRcFieldRead (a : BitVec 20) (s : State) : Out :=
  let r := s.busRead (a.toNat / 4 * 4)
  act s s.clk.locked { r.1 with resp := r.2 }

/-- COUNTER_LO_READ (R173, R267, R346): a read of a _LO word captures its _HI word. -/
def execCounterLoRead (a : BitVec 20) (s : State) : Out :=
  let r := s.busRead (a.toNat / 4 * 4)
  act s s.clk.locked { r.1 with resp := r.2 }

end Sys2Proof.Machine
end

