-- ==== Sys2Proof/Machine/GraovCore.lean ====
section
/-! DEFINITION. Graov instructions that every profile has: integer, compare, predicate, move, immediate, memory, branch, loop and DONE
(R123 to R136). Each comes about where the processor's next instruction word is the one that the operands encode. -/

namespace Sys2Proof.Machine

/-- An instruction of processor `h`: where `w` is the word it issues next, `t` and then the next instruction after `cost` cycles (R120). -/
def graov (h : Proc) (w : W32) (cost : Nat) (s t : State) : Out := act s (s.issues h w) (t.retire (Proc.key h) cost)

/-- nop: the all-zero word (R123). -/
def execNop (h : Proc) (s : State) : Out := graov h 0 1 s s

/-- add (R124). -/
def execAdd (h : Proc) (rd ra rb : BitVec 5) (s : State) : Out :=
  let x := s.g (Proc.key h) ra.toNat
  let y := s.g (Proc.key h) rb.toNat
  graov h (wordR 0x01 rd.toNat ra.toNat rb.toNat 0) 1 s (s.setG (Proc.key h) rd.toNat (x + y))

/-- sub (R124). -/
def execSub (h : Proc) (rd ra rb : BitVec 5) (s : State) : Out :=
  let x := s.g (Proc.key h) ra.toNat
  let y := s.g (Proc.key h) rb.toNat
  graov h (wordR 0x01 rd.toNat ra.toNat rb.toNat 1) 1 s (s.setG (Proc.key h) rd.toNat (x - y))

/-- and (R124). -/
def execAnd (h : Proc) (rd ra rb : BitVec 5) (s : State) : Out :=
  let x := s.g (Proc.key h) ra.toNat
  let y := s.g (Proc.key h) rb.toNat
  graov h (wordR 0x01 rd.toNat ra.toNat rb.toNat 2) 1 s (s.setG (Proc.key h) rd.toNat (x &&& y))

/-- or (R124). -/
def execOr (h : Proc) (rd ra rb : BitVec 5) (s : State) : Out :=
  let x := s.g (Proc.key h) ra.toNat
  let y := s.g (Proc.key h) rb.toNat
  graov h (wordR 0x01 rd.toNat ra.toNat rb.toNat 3) 1 s (s.setG (Proc.key h) rd.toNat (x ||| y))

/-- xor (R124). -/
def execXor (h : Proc) (rd ra rb : BitVec 5) (s : State) : Out :=
  let x := s.g (Proc.key h) ra.toNat
  let y := s.g (Proc.key h) rb.toNat
  graov h (wordR 0x01 rd.toNat ra.toNat rb.toNat 4) 1 s (s.setG (Proc.key h) rd.toNat (x ^^^ y))

/-- shl: shift amounts above 63 act as 63 (R124). -/
def execShl (h : Proc) (rd ra rb : BitVec 5) (s : State) : Out :=
  let x := s.g (Proc.key h) ra.toNat
  let y := s.g (Proc.key h) rb.toNat
  graov h (wordR 0x01 rd.toNat ra.toNat rb.toNat 5) 1 s (s.setG (Proc.key h) rd.toNat (x <<< shiftAmount y))

/-- shr: logical right shift (R124). -/
def execShr (h : Proc) (rd ra rb : BitVec 5) (s : State) : Out :=
  let x := s.g (Proc.key h) ra.toNat
  let y := s.g (Proc.key h) rb.toNat
  graov h (wordR 0x01 rd.toNat ra.toNat rb.toNat 6) 1 s (s.setG (Proc.key h) rd.toNat (x >>> shiftAmount y))

/-- sar: arithmetic right shift (R124). -/
def execSar (h : Proc) (rd ra rb : BitVec 5) (s : State) : Out :=
  let x := s.g (Proc.key h) ra.toNat
  let y := s.g (Proc.key h) rb.toNat
  graov h (wordR 0x01 rd.toNat ra.toNat rb.toNat 7) 1 s (s.setG (Proc.key h) rd.toNat (x.sshiftRight (shiftAmount y)))

/-- min, signed (R124). -/
def execMin (h : Proc) (rd ra rb : BitVec 5) (s : State) : Out :=
  let x := s.g (Proc.key h) ra.toNat
  let y := s.g (Proc.key h) rb.toNat
  graov h (wordR 0x01 rd.toNat ra.toNat rb.toNat 8) 1 s (s.setG (Proc.key h) rd.toNat (smin x y))

/-- max, signed (R124). -/
def execMax (h : Proc) (rd ra rb : BitVec 5) (s : State) : Out :=
  let x := s.g (Proc.key h) ra.toNat
  let y := s.g (Proc.key h) rb.toNat
  graov h (wordR 0x01 rd.toNat ra.toNat rb.toNat 9) 1 s (s.setG (Proc.key h) rd.toNat (smax x y))

/-- minu, unsigned (R124). -/
def execMinu (h : Proc) (rd ra rb : BitVec 5) (s : State) : Out :=
  let x := s.g (Proc.key h) ra.toNat
  let y := s.g (Proc.key h) rb.toNat
  graov h (wordR 0x01 rd.toNat ra.toNat rb.toNat 10) 1 s (s.setG (Proc.key h) rd.toNat (umin x y))

/-- maxu, unsigned (R124). -/
def execMaxu (h : Proc) (rd ra rb : BitVec 5) (s : State) : Out :=
  let x := s.g (Proc.key h) ra.toNat
  let y := s.g (Proc.key h) rb.toNat
  graov h (wordR 0x01 rd.toNat ra.toNat rb.toNat 11) 1 s (s.setG (Proc.key h) rd.toNat (umax x y))

/-- mul: the low 64 bits, in 3 cycles (R124). -/
def execMul (h : Proc) (rd ra rb : BitVec 5) (s : State) : Out :=
  let x := s.g (Proc.key h) ra.toNat
  let y := s.g (Proc.key h) rb.toNat
  graov h (wordR 0x01 rd.toNat ra.toNat rb.toNat 12) 3 s (s.setG (Proc.key h) rd.toNat (x * y))

/-- cmp.cc (R125). -/
def execCmp (h : Proc) (cc : Cond) (pd : BitVec 3) (ra rb : BitVec 5) (s : State) : Out :=
  graov h (wordR 0x02 pd.toNat ra.toNat rb.toNat (Cond.fn cc)) 1 s
    (s.setP (Proc.key h) pd.toNat (Cond.holds cc (s.g (Proc.key h) ra.toNat) (s.g (Proc.key h) rb.toNat)))

/-- pand (R126). -/
def execPand (h : Proc) (pd pa pb : BitVec 3) (s : State) : Out :=
  let x := s.p (Proc.key h) pa.toNat
  let y := s.p (Proc.key h) pb.toNat
  graov h (wordR 0x03 pd.toNat pa.toNat pb.toNat 0) 1 s (s.setP (Proc.key h) pd.toNat (x && y))

/-- por (R126). -/
def execPor (h : Proc) (pd pa pb : BitVec 3) (s : State) : Out :=
  let x := s.p (Proc.key h) pa.toNat
  let y := s.p (Proc.key h) pb.toNat
  graov h (wordR 0x03 pd.toNat pa.toNat pb.toNat 1) 1 s (s.setP (Proc.key h) pd.toNat (x || y))

/-- pxor (R126). -/
def execPxor (h : Proc) (pd pa pb : BitVec 3) (s : State) : Out :=
  let x := s.p (Proc.key h) pa.toNat
  let y := s.p (Proc.key h) pb.toNat
  graov h (wordR 0x03 pd.toNat pa.toNat pb.toNat 2) 1 s (s.setP (Proc.key h) pd.toNat (x != y))

/-- pandn (R126). -/
def execPandn (h : Proc) (pd pa pb : BitVec 3) (s : State) : Out :=
  let x := s.p (Proc.key h) pa.toNat
  let y := s.p (Proc.key h) pb.toNat
  graov h (wordR 0x03 pd.toNat pa.toNat pb.toNat 3) 1 s (s.setP (Proc.key h) pd.toNat (x && !y))

/-- pnot (R126). -/
def execPnot (h : Proc) (pd pa : BitVec 3) (s : State) : Out :=
  graov h (wordR 0x03 pd.toNat pa.toNat 0 4) 1 s (s.setP (Proc.key h) pd.toNat (!s.p (Proc.key h) pa.toNat))

/-- mva (R127). -/
def execMva (h : Proc) (ad : BitVec 3) (ga : BitVec 5) (s : State) : Out :=
  graov h (wordR 0x04 ad.toNat ga.toNat 0 0) 1 s (s.setA (Proc.key h) ad.toNat ((s.g (Proc.key h) ga.toNat).setWidth 32))

/-- mvo (R127). -/
def execMvo (h : Proc) (od : BitVec 3) (ga : BitVec 5) (s : State) : Out :=
  graov h (wordR 0x04 od.toNat ga.toNat 0 1) 1 s (s.setO (Proc.key h) od.toNat ((s.g (Proc.key h) ga.toNat).setWidth 32))

/-- mag: zero-extended (R127). -/
def execMag (h : Proc) (gd : BitVec 5) (aa : BitVec 3) (s : State) : Out :=
  graov h (wordR 0x04 gd.toNat aa.toNat 0 2) 1 s (s.setG (Proc.key h) gd.toNat ((s.a (Proc.key h) aa.toNat).setWidth 64))

/-- mog: sign-extended (R127). -/
def execMog (h : Proc) (gd : BitVec 5) (oa : BitVec 3) (s : State) : Out :=
  graov h (wordR 0x04 gd.toNat oa.toNat 0 3) 1 s (s.setG (Proc.key h) gd.toNat ((s.o (Proc.key h) oa.toNat).signExtend 64))

/-- ptog (R127). -/
def execPtog (h : Proc) (gd : BitVec 5) (pa : BitVec 3) (s : State) : Out :=
  graov h (wordR 0x04 gd.toNat pa.toNat 0 4) 1 s (s.setG (Proc.key h) gd.toNat (if s.p (Proc.key h) pa.toNat then 1 else 0))

/-- gtop (R127). -/
def execGtop (h : Proc) (pd : BitVec 3) (ga : BitVec 5) (s : State) : Out :=
  graov h (wordR 0x04 pd.toNat ga.toNat 0 5) 1 s (s.setP (Proc.key h) pd.toNat (s.g (Proc.key h) ga.toNat != 0))

/-- addi: sign-extended imm (R128). -/
def execAddi (h : Proc) (rd ra : BitVec 5) (imm : BitVec 14) (s : State) : Out :=
  let x := s.g (Proc.key h) ra.toNat
  graov h (wordI 0x08 rd.toNat ra.toNat imm.toNat) 1 s (s.setG (Proc.key h) rd.toNat (x + imm.signExtend 64))

/-- andi: zero-extended imm (R128). -/
def execAndi (h : Proc) (rd ra : BitVec 5) (imm : BitVec 14) (s : State) : Out :=
  let x := s.g (Proc.key h) ra.toNat
  graov h (wordI 0x09 rd.toNat ra.toNat imm.toNat) 1 s (s.setG (Proc.key h) rd.toNat (x &&& imm.setWidth 64))

/-- ori: zero-extended imm (R128). -/
def execOri (h : Proc) (rd ra : BitVec 5) (imm : BitVec 14) (s : State) : Out :=
  let x := s.g (Proc.key h) ra.toNat
  graov h (wordI 0x0a rd.toNat ra.toNat imm.toNat) 1 s (s.setG (Proc.key h) rd.toNat (x ||| imm.setWidth 64))

/-- xori: zero-extended imm (R128). -/
def execXori (h : Proc) (rd ra : BitVec 5) (imm : BitVec 14) (s : State) : Out :=
  let x := s.g (Proc.key h) ra.toNat
  graov h (wordI 0x0b rd.toNat ra.toNat imm.toNat) 1 s (s.setG (Proc.key h) rd.toNat (x ^^^ imm.setWidth 64))

/-- shli: imm above 63 acts as the 63 that admission stores (R128). -/
def execShli (h : Proc) (rd ra : BitVec 5) (imm : BitVec 14) (s : State) : Out :=
  let x := s.g (Proc.key h) ra.toNat
  graov h (wordI 0x0c rd.toNat ra.toNat imm.toNat) 1 s (s.setG (Proc.key h) rd.toNat (x <<< min imm.toNat 63))

/-- shri: logical (R128). -/
def execShri (h : Proc) (rd ra : BitVec 5) (imm : BitVec 14) (s : State) : Out :=
  let x := s.g (Proc.key h) ra.toNat
  graov h (wordI 0x0d rd.toNat ra.toNat imm.toNat) 1 s (s.setG (Proc.key h) rd.toNat (x >>> min imm.toNat 63))

/-- sari: arithmetic (R128). -/
def execSari (h : Proc) (rd ra : BitVec 5) (imm : BitVec 14) (s : State) : Out :=
  let x := s.g (Proc.key h) ra.toNat
  graov h (wordI 0x0e rd.toNat ra.toNat imm.toNat) 1 s (s.setG (Proc.key h) rd.toNat (x.sshiftRight (min imm.toNat 63)))

/-- insi: 14 bits inserted below (R128). -/
def execInsi (h : Proc) (rd ra : BitVec 5) (imm : BitVec 14) (s : State) : Out :=
  let x := s.g (Proc.key h) ra.toNat
  graov h (wordI 0x0f rd.toNat ra.toNat imm.toNat) 1 s (s.setG (Proc.key h) rd.toNat ((x <<< 14) ||| imm.setWidth 64))

/-- A signal processor that reads the area of the recovery record finds the samples that have arrived by then (R180). -/
def State.recordSeen (s : State) (key ea : Nat) : State :=
  if 32 ≤ key ∧ 0x1000 ≤ ea ∧ ea < 0x3000 then s.recordTo (key - 32) (s.time.run + 2 * (s.procAt key).cycle) else s

/-- A processor's memory reports an uncorrectable error: the patch's position asks for a handover with cause FAULT (R459), and a ribbon moves
to another processor (R182). -/
def State.memFault (s : State) : Proc → State
  | .m _ => s
  | .p k => s.requestHandover ⟨k.val, 2, none, none, false⟩
  | .s r => s.requestMove r.val true

/-- ld.n: zero-extended load from data memory, then the post-modification (R81, R129). What a load reads whose code word is beyond correction
no rule says: a free value. -/
def execLd (h : Proc) (size : BitVec 2) (rd : BitVec 5) (a o : BitVec 3) (x : LdRead) (s : State) : Out :=
  let key := Proc.key h
  let ea := effAddr (s.a key a.toNat) x.imm (dmemSize key) (accessSize size)
  let s1 := s.recordSeen key ea
  let n := accessSize size
  let s2 := match x.seen with
    | .clean | .corr => s1.setG key rd.toNat (BitVec.ofNat 64 (s1.dload key ea n))
    | .uncorr => (s1.took.memFault h).setG key rd.toNat (BitVec.ofNat 64 (s1.freeWord.toNat % 2 ^ (8 * n)))
    | .miscorrect d | .unseen d => s1.setG key rd.toNat (BitVec.ofNat 64 (leNat (d.take n)))
  graov h (wordM 0x10 rd.toNat a.toNat o.toNat size.toNat x.imm.toNat) 1 s (s2.postMod key a.toNat o.toNat)

/-- st.n: the low n bytes of rd into data memory, then the post-modification (R81, R129). -/
def execSt (h : Proc) (size : BitVec 2) (rd : BitVec 5) (a o : BitVec 3) (imm : BitVec 11) (s : State) : Out :=
  let key := Proc.key h
  let ea := effAddr (s.a key a.toNat) imm (dmemSize key) (accessSize size)
  graov h (wordM 0x11 rd.toNat a.toNat o.toNat size.toNat imm.toNat) 1 s
    ((s.dstore key ea (accessSize size) (s.g key rd.toNat).toNat).postMod key a.toNat o.toNat)

/-- adda (R130). -/
def execAdda (h : Proc) (a : BitVec 3) (imm : BitVec 11) (s : State) : Out :=
  graov h (wordM 0x12 0 a.toNat 0 0 imm.toNat) 1 s (s.setA (Proc.key h) a.toNat (s.a (Proc.key h) a.toNat + imm.signExtend 32))

/-- A branch of word `w` to pc + 1 + offset: 2 cycles taken, 1 not taken (R100, R134). -/
def branch (h : Proc) (w : W32) (taken : Bool) (offset : BitVec 17) (s : State) : Out :=
  let key := Proc.key h
  act s (s.issues h w) (if taken then s.goto key ((s.procAt key).pc + 1 + offset.toNat) 2 else s.retire key 1)

/-- ba: always taken (R134). -/
def execBa (h : Proc) (offset : BitVec 17) (s : State) : Out := branch h (wordB 0x20 0 0 offset.toNat) true offset s

/-- b pn: taken if the predicate is 1 (R134). -/
def execB (h : Proc) (pn : BitVec 3) (offset : BitVec 17) (s : State) : Out :=
  branch h (wordB 0x20 1 pn.toNat offset.toNat) (s.p (Proc.key h) pn.toNat) offset s

/-- bn pn: taken if the predicate is 0 (R134). -/
def execBn (h : Proc) (pn : BitVec 3) (offset : BitVec 17) (s : State) : Out :=
  branch h (wordB 0x20 2 pn.toNat offset.toNat) (!s.p (Proc.key h) pn.toNat) offset s

/-- loop: the `length` instructions that follow run `count` times; a length of 0 is an empty body (R107, R135). -/
def execLoop (h : Proc) (count length : BitVec 10) (s : State) : Out :=
  let key := Proc.key h
  let pc := (s.procAt key).pc
  graov h (wordL 0x21 count.toNat length.toNat) 1 s
    (if length = 0 then s
     else s.modProcAt key (fun x => { x with loops := ⟨pc + 1, pc + 1 + length.toNat, count.toNat⟩ :: x.loops }))

/-- done: the processor idles until the next boundary, and control passes to the next slot in Graov-M; running past the last instruction
acts so too (R108, R136). -/
def execDone (h : Proc) (s : State) : Out :=
  act s (s.procRuns h && (s.fetch (Proc.key h) == none || s.fetch (Proc.key h) == some (wordR 0x22 0 0 0 0))) (s.endWork (Proc.key h) false)

/-- done.hold: in the event program the shadow bank stays selected (R93, R136). -/
def execDoneHold (h : Proc) (s : State) : Out := act s (s.issues h (wordR 0x22 0 0 0 1)) (s.endWork (Proc.key h) true)

end Sys2Proof.Machine
end

