-- ==== Sys2Proof/Machine/GraovMem.lean ====
section
/-! DEFINITION. Graov instructions that reach outside the processor: strings, bank windows, triggers, check-value units and bank ownership
(R82 to R89, R121, R122, R131 to R144). -/

namespace Sys2Proof.Machine

/-! Strings (R84 to R89, R133). -/

/-- The profile of a processor: 0 Graov-M, 1 Graov-P, 2 Graov-S. -/
def profileOf (key : Nat) : Nat := if key < 16 then 0 else if key < 32 then 1 else 2

/-- Who a processor is to a register (R306, R539). -/
def srcOf (key : Nat) : Src :=
  if key < 16 then .hc else if key < 32 then .seq (Fin.ofNat 16 (key - 16)) else .rsp (Fin.ofNat 32 (key - 32))

/-- Clears pending event classes (R84, R93, R180): of a lane event, the recovery record that it held. -/
def State.clearEvents (s : State) (key : Nat) (v : W32) : State :=
  if key = 0 then s.modProcAt 0 (fun x => { x with evWord := x.evWord &&& ~~~(v.setWidth 16) })
  else
    let s1 := s.mergeWrite (F.EVT_PEND.at (s.seqBase key) 0 0) v 15
    if 32 ≤ key then s1.releaseRecord (key - 32) else s1

/-- EVT_PEND_CLEAR (R84, R93): a write of string 2. -/
def execEvtPendClear (h : Proc) (v : BitVec 16) (s : State) : Out :=
  act s (s.up && !(s.procAt (Proc.key h)).frozen) (s.clearEvents (Proc.key h) (v.setWidth 32))

/-- A mailbox reply (R114): words 0 to 10 of MAILBOX_OUT go to the oldest PROG_POST of the target that asked for a reply and has none. -/
def State.mailReply (s : State) (key slot : Nat) : State :=
  let x := s.procAt key
  match x.replies.find? (fun e => e.1 == slot) with
  | none => s
  | some e =>
    (s.modProcAt key (fun x => { x with replies := x.replies.erase e })).complete e.2 .ok
      ((List.range 11).map (fun i => (x.mailOut.get (fun _ => 0) (16 * slot + i)).toNat))

/-- A write of a word of MAILBOX_OUT (R84, R114). -/
def State.writeMailOut (s : State) (key slot w : Nat) (v : W32) : State :=
  let s1 := s.modProcAt key (fun x => { x with mailOut := x.mailOut.put (16 * slot + w) v })
  if w = 11 then s1.mailReply key slot else s1

/-- MAILBOX_REPLY (R114): a write of word 11 of MAILBOX_OUT. -/
def execMailboxReply (h : Proc) (v : W32) (s : State) : Out :=
  act s (s.up && !(s.procAt (Proc.key h)).frozen) (s.writeMailOut (Proc.key h) (match h with | .m n => n.val | _ => 0) 11 v)

/-- The slot whose program a processor runs; 0 but for Graov-M. -/
def State.curSlot (s : State) (key : Nat) : Nat := if key = 0 then (s.procAt 0).cur else 0

/-- The string table of the image that the program in a slot was admitted with. -/
def State.bindsOf (s : State) (key slot : Nat) : List Bind :=
  if key = 0 then ((s.procAt 0).img slot).binds else (s.liveImg key).binds

/-- The register that word `w` of a bound string reaches now (R86). -/
def State.boundAddr (s : State) (key slot str w : Nat) (write : Bool) : Option Nat :=
  if str < 8 then none
  else match findBind (s.bindsOf key slot) str with
    | none => none
    | some b => s.bindAddr key b w write

/-- Where a posted write goes, as R121 orders writes to one target: a bank, a register (the registers of one check-value unit are one
target), or a fixed string that shows no register. -/
inductive PostTarget where
  | bank (b : Nat)
  | reg (a : Nat)
  | fixed (str : Nat)
  deriving DecidableEq, Repr

/-- The target that a register address belongs to. -/
def regTarget (a : Nat) : PostTarget :=
  match locate a with
  | some (.patch, _, o) => .reg (if 0x800 ≤ o ∧ o < 0xA80 then a / 0x20 * 0x20 else a)
  | _ => .reg a

/-- The target of an access to a string, `addr` being the register it reaches if any. -/
def State.strTarget (s : State) (key str : Nat) (addr : Option Nat) : PostTarget :=
  if str = 2 ∧ key ≠ 0 then .reg (F.EVT_PEND.at (s.seqBase key) 0 0)
  else match addr with
    | some a => regTarget a
    | none => .fixed str

/-- The target of a posted write of a processor. -/
def State.postTarget (s : State) (key : Nat) : Posted → PostTarget
  | .str _ n _ addr _ _ => s.strTarget key n addr
  | .stw addr _ _ => .bank (addr / 0x100000 % 8)
  | .cvf u _ _ => .reg (F.CV_POLY.at (s.pb (key - 16)) u 0)
  | .cvwr u _ => .reg (F.CV_POLY.at (s.pb (key - 16)) u 0)

/-- A write of 1s to word 0 of string 6 clears lane-event causes (R179). -/
def State.clearCauses (s : State) (r : Nat) (v : W32) : State :=
  s.modProcAt (32 + r) (fun x =>
    { x with cause := forN (fun i t => t.put i ((t.get (fun _ => 0) i) &&& ~~~(BitVec.ofNat 32 (v.toNat / 16 ^ i % 8)))) 8 x.cause })

/-- A write of word `w` of a fixed string (R84, R179). -/
def State.writeFixed (s : State) (key slot str w : Nat) (v : W32) : State :=
  if str = 2 then s.clearEvents key v
  else if str = 4 then s.writeMailOut key slot w v
  else if str = 6 ∧ 32 ≤ key ∧ w = 0 then s.clearCauses (key - 32) v
  else s

/-- A posted write reaches its target (R84 to R86, R121, R131, R133, R141, R142). -/
def State.landPost (s : State) (key : Nat) (p : Posted) (seen : Ecc) : State :=
  match p with
  | .str slot n w addr v _ =>
    if n < 8 then s.writeFixed key slot n w v
    else match addr with
      | none => s
      | some a => s.busWrite (srcOf key) a v 15
  | .stw addr n v =>
    let k := key - 16
    let sh := addr % 8
    (s.bankWrite (s.ppos k) (addr / 0x100000 % 8) (addr % 0x100000 / 8) (v <<< (8 * sh)) ((2 ^ n - 1) * 2 ^ sh) seen).1
  | .cvf u n v => s.cvLandFeed (key - 16) u n v
  | .cvwr u v => s.cvLandWrite (key - 16) u v.toNat

/-- Of writes in flight, newest first, those that a write or read has to follow: those to its targets and, where it is a string write, the
older string writes, with what these have to follow in turn (R88, R121). -/
def State.mustLand (s : State) (key : Nat) : List Posted → List PostTarget → Bool → List (Posted × Bool)
  | [], _, _ => []
  | x :: t, ts, str =>
    let hit := ts.contains (s.postTarget key x) || (str && x.isStr)
    (x, hit) :: s.mustLand key t (if hit then s.postTarget key x :: ts else ts) (str || (hit && x.isStr))

/-- The writes among the oldest `n` in flight that `mustLand` names land, in issue order; the last of them finds its word as `seen`. -/
def State.landUpTo (s : State) (key n : Nat) (ts : List PostTarget) (str : Bool) (seen : Ecc) : State :=
  let q := (s.procAt key).wq
  let marks := (s.mustLand key (q.take n).reverse ts str).reverse
  let go := (marks.filter (·.2)).map (·.1)
  let s1 := s.modProcAt key (fun x => { x with wq := (marks.filter (!·.2)).map (·.1) ++ q.drop n })
  let s2 := forEach (fun p s => s.landPost key p .clean) go.dropLast s1
  match go.getLast? with
  | none => s2
  | some p => s2.landPost key p seen

/-- The oldest write in flight that `sel` takes lands, and what it has to follow lands before it. -/
def State.landOldest (s : State) (key : Nat) (sel : Posted → Bool) (seen : Ecc) : State :=
  let q := (s.procAt key).wq
  match q.find? sel with
  | none => s
  | some p => s.landUpTo key ((q.takeWhile (fun x => !sel x)).length + 1) [s.postTarget key p] p.isStr seen

/-- What a read of a target has to follow lands (R88, R121). -/
def State.landFor (s : State) (key : Nat) (t : PostTarget) : State := s.landUpTo key (s.procAt key).wq.length [t] false .clean

/-- Every posted write lands, in issue order (R122). -/
def State.landAll (s : State) (key : Nat) : State :=
  forEach (fun p s => s.landPost key p .clean) (s.procAt key).wq (s.modProcAt key (fun x => { x with wq := [] }))

/-- An SWR that lands before offset 8 of the next stitch. -/
def Posted.early : Posted → Bool
  | .str _ _ _ _ _ (some _) => true
  | _ => false

/-- The oldest SWR not yet marked lands at an offset of the next stitch (R89). -/
def markEarly (at_ : Nat) : List Posted → List Posted
  | [] => []
  | .str slot n w addr v none :: t => .str slot n w addr v (some at_) :: t
  | p :: t => p :: markEarly at_ t

/-- The SWRs marked so land, between steps 2 and 3 of the boundary (R51, R89). -/
def State.earlyBoundary (s : State) : State :=
  forEach (fun (e : Nat × ProcSt) s => forN (fun _ s => s.landOldest e.1 Posted.early .clean) (e.2.wq.countP Posted.early) s) s.procs s

/-- SWR_LAND (R87 to R89): the oldest SWR lands, at an offset not below 8. An offset of `P` to `P + 7` lands at offset 0 to 7 of the next
stitch, before the step-3 changes of its boundary. -/
def execSwrLand (h : Proc) (off : Nat) (s : State) : Out :=
  let key := Proc.key h
  act s (s.up && !(s.procAt key).frozen && (s.procAt key).wq.any (fun p => p.isStr && !p.early))
    (if s.period ≤ off ∧ off < s.period + 8 then s.modProcAt key (fun x => { x with wq := markEarly (off - s.period) x.wq })
     else (s.tick (max 8 off)).landOldest key (fun p => p.isStr && !p.early) .clean)

/-- The trigger lines that string 1 shows (R84, R465): for a patch in the first stitch after its rebind, those held during its freeze as well. -/
def State.linesSeen (s : State) (key : Nat) : Nat :=
  let held := if s.res.shown.map (16 + ·) = some key then s.res.lines.map (fun e => e.1) else []
  held.foldl (fun m l => if bitAt m l then m else m + 2 ^ l) s.trig.latched.toNat

/-- The owner codes of the banks of a logical patch (R144). -/
def State.ownerWord (s : State) (k : Nat) : Nat := ((List.range 8).map (fun b => (s.bankAt (s.ppos k) b).owner % 16 * 16 ^ b)).sum

/-- Word `w` of a fixed string, without the effects of reading it (R84, R144, R179). -/
def State.fixedString (s : State) (key slot str w : Nat) : W32 :=
  let x := s.procAt key
  match str with
  | 0 =>
    if key = 0 then (if w = 0 then s.reg (F.HC_PSTATE.at DEV slot 0) else if w = 1 then BitVec.ofNat 32 s.wcSum else 0)
    else if 32 ≤ key ∧ w = 3 then 0 else s.reg (s.seqBase key + 4 * w)
  | 1 => BitVec.ofNat 32 (if w = 0 then s.linesSeen key else s.linesSeen key / 2 ^ 32)
  | 2 => if key = 0 then x.evWord.setWidth 32 else BitVec.ofNat 32 (s.rd F.EVT_PEND (s.seqBase key))
  | 3 => x.mailIn.get (fun _ => 0) (16 * slot + w)
  | 4 => x.mailOut.get (fun _ => 0) (16 * slot + w)
  | 5 => if w = 0 then BitVec.ofNat 32 s.stitch.toNat else if w = 1 then BitVec.ofNat 32 (s.stitch.toNat / 2 ^ 32) else BitVec.ofNat 32 (s.rd F.STC_N_NOW DEV)
  | 6 =>
    if key = 0 then 0
    else if key < 32 then BitVec.ofNat 32 (s.ownerWord (key - 16))
    else
      let r := key - 32
      let q := s.ribAt r
      if w = 0 then BitVec.ofNat 32 (((List.range 8).map (fun i => s.laneCause (8 * r + i) % 16 * 16 ^ i)).sum)
      else if w = 1 then BitVec.ofNat 32 (q.rlane + 8 * bit q.rvalid + 65536 * q.fill)
      else BitVec.ofNat 32 (((List.range 8).map (fun i => s.ln F.LN_LSTATE (8 * r + i) * 16 ^ i)).sum)
  | _ => 0

/-- The BAR0 offset that a read of a string reaches, if it reaches a register: SELF of Graov-P and Graov-S, or a bound group (R84, R86). -/
def State.stringAddr (s : State) (key slot str w : Nat) : Option Nat :=
  if str = 0 ∧ key ≠ 0 then some (s.seqBase key + 4 * w)
  else s.boundAddr key slot str w false

/-- A read of word `w` of a string (R3, R88, R121, R133): the writes in flight that it has to follow land first, and RC fields clear. -/
def State.readString (s0 : State) (key str w : Nat) : State × W32 :=
  let s := if str = 6 then s0.recordSeen key 0x1000 else s0
  let slot := s.curSlot key
  let addr := s.stringAddr key slot str w
  let t := s.landFor key (s.strTarget key str addr)
  match addr with
  | some a => (t.readEffects a, if str < 8 then t.fixedString key slot str w else t.peek a)
  | none => (t, if str < 8 then t.fixedString key slot str w else 0)

/-- The cycles of an SRD (R87). -/
def State.stringCost (s : State) (key str w : Nat) : Nat :=
  if str < 8 then 2
  else match findBind (s.bindsOf key (s.curSlot key)) str with
    | none => 2
    | some b => match targetBlk (profileOf key) b.target with
      | none => 2
      | some k => srdCost (profileOf key) (layerOf k (4 * (b.base + w)))

/-- srd (R133). -/
def execSrd (h : Proc) (rd : BitVec 5) (str : BitVec 7) (w : BitVec 12) (s : State) : Out :=
  let key := Proc.key h
  let r := s.readString key str.toNat w.toNat
  graov h (wordS 0x18 rd.toNat str.toNat w.toNat) (s.stringCost key str.toNat w.toNat) s (r.1.setG key rd.toNat (r.2.setWidth 64))

/-- Room in a processor's write queue (R88). -/
def queueRoomOf (key : Nat) : Nat := if key < 16 then 32 else 8

/-- swr (R88, R121, R133): the write joins the queue, for the register that the string reaches now; it never stalls, so with the queue full
the oldest SWR lands. -/
def execSwr (h : Proc) (rd : BitVec 5) (str : BitVec 7) (w : BitVec 12) (s : State) : Out :=
  let key := Proc.key h
  let slot := s.curSlot key
  let v : W32 := (s.g key rd.toNat).setWidth 32
  let p : Posted := .str slot str.toNat w.toNat (s.boundAddr key slot str.toNat w.toNat true) v none
  let s1 := if queueRoomOf key ≤ (s.procAt key).wq.countP Posted.isStr then s.landOldest key Posted.isStr .clean else s
  graov h (wordS 0x19 rd.toNat str.toNat w.toNat) 1 s (s1.modProcAt key (fun x => { x with wq := x.wq ++ [p] }))

/-! Banks (R82, R83, R121, R122, R131, R132). -/

/-- The window address of an ldw or stw. -/
def State.windowAddr (s : State) (k : Nat) (size : BitVec 2) (a : BitVec 3) (imm : BitVec 11) : Nat :=
  effAddr (s.a (16 + k) a.toNat) imm 0x800000 (accessSize size)

/-- POSTED_WRITE_LAND (R121): the oldest write to a bank or a check-value unit lands. -/
def execPostedWriteLand (k : LPatch) (off : Nat) (seen : Ecc) (s : State) : Out :=
  act s (s.stackOn && (s.procAt (16 + k.val)).wq.any (fun p => !p.isStr)) ((s.tick off).landOldest (16 + k.val) (fun p => !p.isStr) seen)

/-- The sequencer owns a bank of its patch. -/
def State.seqOwns (s : State) (k b : Nat) : Bool := (s.bankAt (s.ppos k) b).owner == 0

/-- ldw.n (R82, R83, R131, R132). Posted writes land first, so that the value includes them (R121). -/
def execLdw (k : LPatch) (size : BitVec 2) (rd : BitVec 5) (a o : BitVec 3) (imm : BitVec 11) (seen : Ecc) (s : State) : Out :=
  let key := 16 + k.val
  let ea := s.windowAddr k.val size a imm
  let b := ea / 0x100000
  let n := accessSize size
  let w := wordM 0x13 rd.toNat a.toNat o.toNat size.toNat imm.toNat
  let cost := if b < 4 then 4 else 10
  let fin := fun (s : State) (v : W64) => (s.setG key rd.toNat v).postMod key a.toNat o.toNat
  graov (.p k) w cost s
    (if s.seqOwns k.val b then
       let r := (s.landFor key (.bank b)).bankRead (s.ppos k.val) b (ea % 0x100000 / 8) seen
       if r.2.2 then fin (r.1.bump F.POISON_RD (s.pb k.val)) 0
       else fin r.1 (BitVec.ofNat 64 (r.2.1.toNat / 2 ^ (8 * (ea % 8)) % 2 ^ (8 * n)))
     else fin (s.bump F.WINDOW_MISS (s.pb k.val)) 0)

/-- stw.n (R82, R83, R121, R131). -/
def execStw (k : LPatch) (size : BitVec 2) (rd : BitVec 5) (a o : BitVec 3) (imm : BitVec 11) (s : State) : Out :=
  let key := 16 + k.val
  let ea := s.windowAddr k.val size a imm
  let v := s.g key rd.toNat
  let s1 := if s.seqOwns k.val (ea / 0x100000) then
      s.modProcAt key (fun x => { x with wq := x.wq ++ [.stw ea (accessSize size) v] })
    else s.bump F.WINDOW_MISS (s.pb k.val)
  graov (.p k) (wordM 0x14 rd.toNat a.toNat o.toNat size.toNat imm.toNat) 1 s (s1.postMod key a.toNat o.toNat)

/-! Triggers (R109, R137, R138). -/

/-- trig (R137): the line is raised at the root-cycle offset at which the instruction issues. -/
def execTrig (k : LPatch) (line : Line) (s : State) : Out :=
  graov (.p k) (wordI 0x28 0 0 line.val) 1 s ((s.tick (2 * (s.procAt (16 + k.val)).cycle)).raiseLine 1 line.val)

/-- waitt (R109, R138): a line raised already in this stitch ends it at once with 1, a bound of 0 with 0; else the processor waits. -/
def execWaitt (k : LPatch) (pd : BitVec 3) (line : Line) (bound : BitVec 12) (s : State) : Out :=
  let key := 16 + k.val
  let t :=
    if (s.trig.raise? line.val).isSome then s.setP key pd.toNat true
    else if bound.toNat = 0 then s.setP key pd.toNat false
    else s.modProcAt key (fun x => { x with wait := some { pd := pd.toNat, line := line.val, from_ := x.cycle, bound := bound.toNat } })
  graov (.p k) (wordS 0x29 pd.toNat line.val bound.toNat) 1 s t

/-- WAITT_TIMEOUT (R109): the bound has passed. -/
def execWaittTimeout (k : LPatch) (s : State) : Out :=
  let key := 16 + k.val
  actOn s (if s.up ∧ ¬ (s.procAt key).frozen then (s.procAt key).wait else none) fun w =>
    let c := w.from_ + 1 + w.bound
    ((s.tick (2 * c)).setP key w.pd false).modProcAt key (fun x => { x with wait := none, cycle := c })

/-! Check-value units (R140 to R142). -/

/-- cvf.n (R140, R141). -/
def execCvf (k : LPatch) (n : BitVec 2) (u : Fin 20) (ra : BitVec 5) (s : State) : Out :=
  let key := 16 + k.val
  let cost := nthD 4 [1, 2, 4] n.toNat
  graov (.p k) (wordI 0x2A 0 ra.toNat (u.val + 32 * n.toNat)) cost s
    (s.modProcAt key (fun x => { x with wq := x.wq ++ [.cvf u.val cost (s.g key ra.toNat)] }))

/-- cvrd (R142): posted writes land first (R121). -/
def execCvrd (k : LPatch) (rd : BitVec 5) (u : Fin 20) (s : State) : Out :=
  let key := 16 + k.val
  let s1 := s.landFor key (.reg (F.CV_POLY.at (s.pb k.val) u.val 0))
  graov (.p k) (wordI 0x2B rd.toNat 0 u.val) (if u.val ≤ 7 ∨ u.val = 16 ∨ u.val = 17 then 3 else 11) s
    (s1.setG key rd.toNat (BitVec.ofNat 64 (s1.cvRead k.val u.val)))

/-- cvwr (R142). -/
def execCvwr (k : LPatch) (u : Fin 20) (ra : BitVec 5) (s : State) : Out :=
  let key := 16 + k.val
  graov (.p k) (wordI 0x2C 0 ra.toNat u.val) 1 s
    (s.modProcAt key (fun x => { x with wq := x.wq ++ [.cvwr u.val (s.g key ra.toNat)] }))

/-! Bank ownership (R143, R328). -/

/-- bown (R143): the last request for a bank in a stitch stands. -/
def execBown (k : LPatch) (bank : Bank) (owner : BitVec 4) (s : State) : Out :=
  graov (.p k) (wordI 0x2D 0 0 (bank.val + 8 * owner.toNat)) 1 s
    (s.setBank (s.ppos k.val) bank.val { s.bankAt (s.ppos k.val) bank.val with req := some (clampOwner bank.val owner.toNat) })

/-- Ownership changes at step 3 of a boundary; posted writes land before it (R122, R328). -/
def State.ownerBoundary (s : State) (k : Nat) : State :=
  let p := s.ppos k
  if (List.range 8).all (fun b => (s.bankAt p b).req.isNone) then s
  else
    forN (fun b s => match (s.bankAt p b).req with
      | none => s
      | some o => s.setBank p b { s.bankAt p b with owner := o, req := none }) 8
      (s.landUpTo (16 + k) (s.procAt (16 + k)).wq.length (((List.range 8).filter (fun b => (s.bankAt p b).req.isSome)).map .bank) false .clean)

end Sys2Proof.Machine
end

