-- ==== Sys2Proof/Machine/Programs.lean ====
section
/-! DEFINITION. Program commands and the programs of a stitch (R77 to R115): loading, admission, start, stop, posts, and step 2 of a
boundary. -/

namespace Sys2Proof.Machine

/-- A freshly dispatched program command; one for a patch in a handover is held until its drain completes (R113). -/
def State.progCmd (s : State) (c : CmdRef) (op : Nat) (f : DispCmd → State) : Out :=
  actOn s (if s.up then s.cmdOf c op .fresh else none) fun d => if d.tkind = 0 ∧ s.hover d.target = true then s.setPhase c .held else f d

/-- The page that a load writes: the staging page, or the slot of the head controller (R110). -/
def State.loadPage (s : State) (d : DispCmd) : Nat :=
  if d.procKey = 0 then d.slot else (s.rd F.LIVE_PAGE (s.seqBase d.procKey) + 1) % 2

/-- A PROG_START of the command's target waits for its boundary (R112). -/
def State.startWaits (s : State) (key slot : Nat) : Bool :=
  (s.procAt key).cmds.any (fun e => e.1 == slot && (match e.2 with | .start _ => true | _ => false))

/-- A PROG_LOAD is taken up, unless a start of its processor waits (R112): the image is read from host memory next. -/
def State.loadNow (s : State) (d : DispCmd) : State := s.setPhase d.c (if s.startWaits d.procKey d.slot then .fresh else .reading)

/-- PROG_LOAD (R110, R112, R113). -/
def execProgLoad (c : CmdRef) (s : State) : Out := s.progCmd c 0x01 s.loadNow

/-- LENGTH of a PROG_LOAD (R374). -/
def DispCmd.loadLen (d : DispCmd) : Nat := (Clamp.range 32 17376).apply (d.param 16 4)

/-- The image of a PROG_LOAD has been read, or its read has failed (R97, R110, R378). -/
def State.takeImage (s : State) (d : DispCmd) (data : Option (List Byte)) : State :=
  let key := d.procKey
  match data with
  | none => (s.dmaErr d.c).complete d.c .poison
  | some bs =>
    let m := parseImage (bs.take d.loadLen)
    let s1 := s.modProcAt key (fun x => { x with imgs := x.imgs.put (s.loadPage d) m })
    let s2 := if key = 0 then
        let s3 := (((s1.wr F.HC_PSTATE DEV 2 d.slot).wr F.HC_ADMITTED DEV 0 d.slot).wr F.HC_WC DEV 0 d.slot).showSum
        if (s.procAt 0).cur = d.slot ∧ (s.procAt 0).active then s3.endWork 0 false else s3
      else (s1.wr F.STAGED (s.seqBase key) 1).wr F.ADMITTED (s.seqBase key) 0
    s2.complete d.c .ok

/-- As `takeImage`; during a handover of its patch the image is held until the drain completes (R113). -/
def State.loadImage (s : State) (d : DispCmd) (data : Option (List Byte)) : State :=
  match data with
  | some bs =>
    if d.tkind = 0 ∧ s.hover d.target = true then { s with res := { s.res with images := s.res.images ++ [(d.c, bs)] } }.setPhase d.c .held
    else s.takeImage d data
  | none => s.takeImage d none

/-- Refuses a program command with a reason (R103); LAST_REFUSE keeps it. -/
def State.refuseProg (s : State) (key : Nat) (c : CmdRef) (wm we reason : Nat) : State :=
  (if key = 0 then s else s.wr F.LAST_REFUSE (s.seqBase key) reason).complete c .refused [wm, we, reason]

/-- Admission of the staged image, or of a slot's (R98 to R106, R110). A refusal for BUDGET keeps the clamped form too (R106); a refusal leaves
an earlier admission of the same image standing (assumption 84). -/
def State.admitImage (s : State) (d : DispCmd) : State :=
  let key := d.procKey
  let page := s.loadPage d
  let m := (s.procAt key).img page
  if ¬ m.loaded then s.refuseProg key d.c 0 0 reasonSTATE
  else
    let r := judgeImage (profileOf key) (s.rd F.BUD_B_ADMIT DEV) m
    if r.1.reason = 0 then
      let s1 := s.modProcAt key (fun x => { x with imgs := x.imgs.put page r.2 })
      let s2 := if key = 0 then ((s1.wr F.HC_ADMITTED DEV 1 d.slot).wr F.HC_WC DEV r.1.wcMain d.slot).showSum
        else s1.wr F.ADMITTED (s.seqBase key) 1
      s2.complete d.c .ok [r.1.wcMain, r.1.wcEvent, 0]
    else
      let s1 := if r.1.reason = reasonBUDGET then
          s.modProcAt key (fun x => { x with imgs := x.imgs.put page { r.2 with admitted := m.admitted, wcMain := m.wcMain, wcEvent := m.wcEvent } })
        else s
      s1.refuseProg key d.c r.1.wcMain r.1.wcEvent r.1.reason

/-- PROG_ADMIT (R102, R103, R110). -/
def execProgAdmit (c : CmdRef) (s : State) : Out := s.progCmd c 0x02 s.admitImage

/-- A command joins those that wait for the boundary. -/
def State.queueProg (s : State) (d : DispCmd) (x : ProgCmd) : State :=
  (s.setPhase d.c .running).modProcAt d.procKey (fun p => { p with cmds := p.cmds ++ [(d.slot, x)] })

/-- A PROG_START is refused at once without an admitted image (R103); else it waits for its boundary (R110). -/
def State.startNow (s : State) (d : DispCmd) : State :=
  let key := d.procKey
  if ¬ ((s.procAt key).img (s.loadPage d)).admitted then s.refuseProg key d.c 0 0 reasonSTATE
  else
    let s1 := s.queueProg d (.start d.c)
    if key = 0 then s1 else s1.wr F.START_PEND (s.seqBase key) 1

/-- PROG_START (R103, R110). -/
def execProgStart (c : CmdRef) (s : State) : Out := s.progCmd c 0x03 s.startNow

/-- PROG_STOP (R110). -/
def execProgStop (c : CmdRef) (s : State) : Out := s.progCmd c 0x04 fun d => s.queueProg d (.stop c)

/-- Words 1 to 11 of MAILBOX_IN as a PROG_POST brings them. -/
def DispCmd.postWords (d : DispCmd) : List W32 := (List.range 11).map (fun i => BitVec.ofNat 32 (d.param (8 + 4 * i) 4))

/-- PROG_POST (R110). -/
def execProgPost (c : CmdRef) (s : State) : Out := s.progCmd c 0x05 fun d => s.queueProg d (.post c d.postWords d.reply)

/-- A command that a handover held takes effect as it would have at its dispatch (R113); one that is no program command is taken up anew. -/
def State.heldNow (s : State) (d : DispCmd) : State :=
  match d.opcode with
  | 0x01 => s.loadNow d
  | 0x02 => s.admitImage d
  | 0x03 => s.startNow d
  | 0x04 => s.queueProg d (.stop d.c)
  | 0x05 => s.queueProg d (.post d.c d.postWords d.reply)
  | _ => s.setPhase d.c .fresh

/-! Step 2 of a boundary (R51, R91, R110 to R112). -/

/-- Every register of both banks reads 0, but p0 (R80). -/
def ProcSt.clearRegs (x : ProcSt) : ProcSt :=
  { x with g := [], a := [], o := [], p := [], v := [], dl := [], tp := 0, e := [], mu := 0 }

/-- START_PEND while a start waits. -/
def State.showStart (s : State) (key : Nat) : State :=
  if key = 0 then s else s.wr F.START_PEND (s.seqBase key) (bit (s.startWaits key 0))

/-- A PROG_START at a patch sequencer or signal processor takes effect (R110, R111). -/
def State.startProg (s : State) (key : Nat) (c : CmdRef) : State :=
  let base := s.seqBase key
  let live := s.rd F.LIVE_PAGE base
  let new := (s.procAt key).img ((live + 1) % 2)
  let old := (s.procAt key).img live
  let b := s.rd F.BUD_B_ADMIT DEV
  if ¬ new.admitted then s.refuseProg key c 0 0 reasonSTATE
  else if b < new.wcMain ∨ b < new.wcEvent then s.refuseProg key c 0 0 reasonBUDGET
  else
    let s1 := (((s.wr F.LIVE_PAGE base ((live + 1) % 2)).wr F.PSTATE base 1).wr F.BANK base 0).wr F.WC_MAIN base new.wcMain
    let s2 := ((s1.wr F.WC_EVENT base new.wcEvent).wr F.STAGED base (bit old.loaded)).wr F.ADMITTED base (bit old.admitted)
    (s2.modProcAt key (fun x => { x.clearRegs with active := false, back := false, wait := none })).complete c .ok [0, 0, 0]

/-- A PROG_START of a head-controller slot takes effect (R102, R111). -/
def State.startSlot (s : State) (n : Nat) (c : CmdRef) : State :=
  let others := s.wcSum - (if s.rd F.HC_PSTATE DEV n = 1 then s.rd F.HC_WC DEV n else 0)
  if ¬ ((s.procAt 0).img n).admitted then s.refuseProg 0 c 0 0 reasonSTATE
  else if s.rd F.BUD_B_ADMIT DEV < others + s.rd F.HC_WC DEV n then s.refuseProg 0 c 0 0 reasonBUDGET
  else (((s.wr F.HC_PSTATE DEV 1 n).showSum).modProcAt 0 ProcSt.clearRegs).complete c .ok [0, 0, 0]

/-- A PROG_STOP takes effect (R110). -/
def State.stopProg (s : State) (key slot : Nat) (c : CmdRef) : State :=
  (if key = 0 then
     (s.wr F.HC_PSTATE DEV 2 slot).showSum
   else
     let base := s.seqBase key
     ((s.wr F.PSTATE base 2).wr F.BANK base 0).modProcAt key (fun x =>
       { x with active := false, back := false, wait := none })).complete c .ok

/-- The starts and stops of a processor, in dispatch order (R112). Those of a frozen processor wait. -/
def State.startStop (s : State) (key : Nat) : State :=
  let isPost := fun (e : Nat × ProgCmd) => match e.2 with | .post _ _ _ => true | _ => false
  let cmds := (s.procAt key).cmds
  if cmds = [] ∨ (s.procAt key).frozen = true then s
  else
    let s1 := s.modProcAt key (fun x => { x with cmds := cmds.filter isPost })
    (forEach (fun e s =>
      match e.2 with
      | .start c => if key = 0 then s.startSlot e.1 c else s.startProg key c
      | .stop c => s.stopProg key e.1 c
      | .post _ _ _ => s) cmds s1).showStart key

/-- The posts of a processor reach its mailbox in step 3 (R110, R112, R114). -/
def State.landPosts (s : State) (key : Nat) : State :=
  let cmds := (s.procAt key).cmds
  if cmds = [] ∨ (s.procAt key).frozen = true then s
  else
    let isPost := fun (e : Nat × ProgCmd) => match e.2 with | .post _ _ _ => true | _ => false
    forEach (fun e s =>
      match e.2 with
      | .post c words reply =>
        let box := fun (t : Tab W32) =>
          let t1 := (words.foldl (fun (p : Tab W32 × Nat) w => (p.1.put (16 * e.1 + p.2) w, p.2 + 1)) (t, 1)).1
          t1.put (16 * e.1) (Tab.get (fun _ => 0) t (16 * e.1) + 1)
        let s1 := s.modProcAt key (fun x =>
          { x with
            mailIn := box x.mailIn
            replies := if reply then x.replies ++ [(e.1, c)] else x.replies })
        let s2 := s1.raiseProc key (if key < 32 then 6 else 4) false
        if reply then s2 else s2.complete c .ok
      | _ => s) cmds (s.modProcAt key (fun x => { x with cmds := cmds.filter (fun e => !isPost e) }))

/-- Step 2 for a patch sequencer or signal processor (R91, R93): the event program is selected while an enabled event is pending, or while
the shadow bank has not been left by DONE. -/
def State.selectProg (s : State) (key : Nat) : State :=
  let base := s.seqBase key
  if s.rd F.PSTATE base ≠ 1 ∨ (s.procAt key).frozen = true ∨ (s.procAt key).stalled = true ∨ s.procClocked key = false then s.modProcAt key (fun x => if x.active then { x with active := false } else x)
  else
    let pend := s.rd F.EVT_PEND base &&& s.rd F.EVT_EN base
    let stay := s.rd F.BANK base == 1 && !(s.procAt key).back
    let ev := (s.liveImg key).hasEvent && (stay || pend != 0)
    (s.wr F.BANK base (bit ev)).beginProgram key 8

/-- Step 2 for the head controller: the lowest RUNNING slot begins (R102). -/
def State.selectSlot (s : State) : State :=
  match s.nextSlot 0 with
  | some n => (s.modProcAt 0 (fun x => { x with cur := n })).beginProgram 0 8
  | none => s.modProcAt 0 (fun x => { x with active := false })

/-- Step 2 of a boundary (R51): starts and stops, the selection of every processor's program, and the state that a mismatch would restore
(R458, R467). -/
def State.stepTwo (s : State) : State :=
  let live := s.procs.map (fun e => e.1)
  let s1 := forEach (fun key s => s.startStop key) live s
  let s2 := forEach (fun key s => if key = 0 then s.selectSlot else s.selectProg key) live s1
  { s2 with snaps := s2.procs }

end Sys2Proof.Machine
end

