-- ==== Sys2Proof/Machine/Messages.lean ====
section
/-! DEFINITION. Messages between devices (R399, R406, R415), the system window (R390 to R392) and host-memory reads (R378, R389). -/

namespace Sys2Proof.Machine

/-! Messages (R399). -/

/-- The answer to a window access has arrived; that of a read is what the read returns. -/
def State.winAnswer (s : State) (d : Nat) (v hi : W32) : State :=
  match s.sys.wins.find? (fun w => w.dev == d) with
  | none => s
  | some w =>
    let s1 := { s with sys := { s.sys with wins := s.sys.wins.erase w } }
    match w.msg with
    | .regRead _ _ wide => { s1 with resp := v, host := { s1.host with respHi := if wide then hi else s1.host.respHi } }
    | _ => s1

/-- A period announced by the head device, or with the present period the cancellation of one (R64); before the alignment it is kept. -/
def State.takePeriod (s : State) (n : Nat) (at_ : W64) : State :=
  let now := s.rd F.STC_N_NOW DEV
  if s.sys.claimed ∧ (¬ s.sys.aligned ∨ s.sys.align.isSome) then { s with sys := { s.sys with headPeriod := some (n, at_) } }
  else if n = now then
    { (s.wr F.STC_PEND DEV 0).wr F.BUD_B_ADMIT DEV (budget now) with time := { s.time with due := 0 } }
  else
    { (s.wr F.STC_PEND DEV 1).wr F.BUD_B_ADMIT DEV (min (budget now) (budget n)) with
      time := { s.time with newN := n, due := (at_ - s.stitch).toNat + 1 } }

/-- A result of a forwarded command (R377, R415). -/
def State.takeResult (s : State) (c : CmdRef) (st : Nat) (data : List W32) : State :=
  if s.host.cmds.any (fun d => d.c = c) then
    match (if Status.ofCode st = .ok then s.remoteOffload c data else none) with
    | some t => t
    | none => s.complete c (Status.ofCode st) (data.map BitVec.toNat)
  else s

/-- A message for this device (R399, R406, R409, R414, R415, R417). -/
def State.takeMsg (s : State) (n : Nat) (m : Msg) : State :=
  match m with
  | .regRead from_ a wide => s.sendMsg from_.val (.regResp (Fin.ofNat 64 s.devnum) (s.windowPeek a.toNat wide).1 (s.windowPeek a.toNat wide).2)
  | .regWrite from_ a v be => (s.busWrite .host (a.toNat / 4 * 4) v be.toNat).sendMsg from_.val (.regResp (Fin.ofNat 64 s.devnum) 0 0)
  | .regResp from_ v hi => s.winAnswer from_.val v hi
  | .command c entry => s.takeCommand c entry
  | .result c st data => s.takeResult c st.toNat data
  | .event record => { s with evq := s.evq ++ [parseRecord record] }.sendMsg (parseRecord record).device .eventAck
  | .eventAck => { s with sys := { s.sys with unacked := s.sys.unacked.drop 1 } }
  | .route d r wide broken =>
    if s.isHead then s
    else
      let s0 := { s with sys := { s.sys with broken := broken } }
      let s1 := ((s0.setRoute d.val r).wr F.SYS_ABSENT DEV (bit (r.pri == 7)) d.val).setWide wide
      (if d.val = 0 then s1.wr F.SYS_DEPTH DEV r.hops.toNat else s1).showSystem
  | .seamReport from_ seam up =>
    if ¬ s.isHead then s
    else
      let was := s.sys.downs.filter (fun d => d != (from_.val, seam.val))
      if up then { s with sys := { s.sys with downs := was } }.headRoutes.showSystem
      else { s with sys := { s.sys with downs := was ++ [(from_.val, seam.val)] } }.headRoutes.showSystem
  | .haltNotice d => if ¬ s.isHead then s.learnHalt d.val n else if s.flag F.SYS_HALTED DEV d.val then s else s.markHalted d.val n
  | .claim devnum depth roles => s.takeClaim devnum.val depth.toNat roles.toNat
  | .frameAgain n => s.replayFrame n.toNat
  | .single => if s.rd F.SYS_STATE DEV = 1 then s.beSingle else s
  | .pageAck ch page => { s with sys := { s.sys with pages := s.sys.pages.filter (fun p => !(p.1 == ch.toNat && p.2.1 == page.toNat)) } }
  | .ready at_ count wide d dc lm =>
    { s with sys := { s.sys with ready := some ⟨at_, count.toNat, wide, d.toNat, dc.toNat, lm.toNat⟩, found := s.upSeams } }
  | .period nn at_ => s.takePeriod nn.toNat at_

/-- A message is for this device: it bears its number, or it is the claim by which the device gets one (R406). -/
def State.forMe (s : State) (dest : Nat) (m : Msg) : Bool :=
  match m with
  | .claim _ _ _ => !s.sys.claimed || dest == s.devnum
  | .frameAgain _ => true
  | _ => dest == s.devnum

/-- MSG_CELL (R399, R406, R415, R417): taken here, or passed on toward its destination. -/
def execMsgCell (n : Seam) (dest : Device) (m : Msg) (off : Nat) (s : State) : Out :=
  let s1 := s.tick off
  act s (s.seamUp n && !s.halted) (if s.forMe dest.val m then s1.takeMsg n.val m else s1.sendMsg dest.val m)

/-! The system window (R390 to R392, R418). -/

/-- A window access that the head device cannot pass on (R392): beyond the system, or to a halted device. -/
def State.winFails (s : State) (d : Nat) : Option State :=
  if s.topDevice < d then some (s.bump F.HOST_WIN_UR HOST)
  else if s.flag F.SYS_HALTED DEV d then some ((s.bump F.HOST_WIN_CA HOST).busError d 1)
  else none

/-- Sends a window access to its device and awaits the answer (R415). -/
def State.winSend (s : State) (d : Nat) (m : Msg) : State :=
  { s with sys := { s.sys with wins := s.sys.wins ++ [(⟨d, m, 0⟩ : WinAcc)] } }.sendMsg d m

/-- WINDOW_READ (R390 to R392), of 4 B or of an aligned 8 B: no side effect, and offsets from 0x10_0000 read 0. -/
def execWindowRead (d : Device) (x : WinRead) (s : State) : Out :=
  let o := x.a.toNat
  let got := fun (r : W32 × W32) => { s with resp := r.1, host := { s.host with respHi := if x.wide then r.2 else s.host.respHi } }
  act s (s.clk.locked && s.isHead)
    (match s.winFails d.val with
     | some t => t
     | none =>
       if 0x100000 ≤ o then got (0, 0)
       else if d.val = s.devnum then got (s.windowPeek o x.wide)
       else s.winSend d.val (.regRead (Fin.ofNat 64 s.devnum) (BitVec.ofNat 20 o) x.wide))

/-- WINDOW_WRITE (R390, R392). A write beyond the system is ignored and counted, one to a halted device discarded. -/
def execWindowWrite (d : Device) (a : BitVec 24) (v : W32) (be : BitVec 4) (off : Nat) (s : State) : Out :=
  let o := a.toNat / 4 * 4
  let s1 := s.tick off
  act s (s.clk.locked && s.isHead)
    (match s1.winFails d.val with
     | some t => t
     | none =>
       if 0x100000 ≤ o then s1
       else if d.val = s.devnum then s1.busWrite .host o v be.toNat
       else s1.winSend d.val (.regWrite (Fin.ofNat 64 s.devnum) (BitVec.ofNat 20 o) v be))

/-- WINDOW_TIMEOUT (R392): the oldest access of a device has had no answer within 64 µs. -/
def execWindowTimeout (d : Device) (s : State) : Out :=
  actOn s (s.sys.wins.find? (fun w => w.dev == d.val)) fun w =>
    { s with sys := { s.sys with wins := s.sys.wins.erase w } }.bump F.HOST_WIN_TIMEOUT HOST

/-- REQUEST_REPEAT (R415): what waits for an answer from a device is sent again: at the head device window accesses, up to three times, and
forwarded commands; elsewhere the event records and offload pages that the head device has not acknowledged. -/
def execRequestRepeat (d : Device) (s : State) : Out :=
  let again := fun (w : WinAcc) => w.dev == d.val && decide (w.tries < 3)
  let s1 := { s with sys := { s.sys with wins := s.sys.wins.map (fun w => if again w then { w with tries := w.tries + 1 } else w) } }
  let s2 := forEach (fun (w : WinAcc) s => if again w then s.sendMsg d.val w.msg else s) s.sys.wins s1
  let s3 := forEach (fun (x : DispCmd) s =>
    if ¬ x.c.remote ∧ x.device = d.val ∧ x.phase = .waiting then s.sendMsg d.val (.command { x.c with remote := true } x.entry) else s) s.host.cmds s2
  let s4 := if d.val = 0 then forEach (fun (e : EvRec) s => s.sendMsg 0 (.event (e.bytes 0))) s.sys.unacked
      (forEach (fun (p : Nat × Nat × List Byte) s => s.sendFlow 0 0 p.2.2) s.sys.pages s3) else s3
  act s (s.up && d.val != s.devnum) s4

/-! Host-memory reads for commands (R378, R389, R415). -/

/-- Data read for a command of another device go to it as DATA cells: spool, sequence number and length before them; a length of all ones
tells of a failed read, which the head device counts. -/
def State.forwardRead (s : State) (d : DispCmd) (data : Option (List Byte)) : State :=
  let head := leBytes 4 d.c.sp.val ++ leBytes 4 d.c.seq.toNat
  match data with
  | some bs => s.sendFlow 2 d.device (head ++ leBytes 4 bs.length ++ bs)
  | none => (s.dmaErr d.c).sendFlow 2 d.device (head ++ leBytes 4 0xFFFFFFFF)

/-- The data that a command waits for are here (R378). -/
def State.takeRead (s : State) (d : DispCmd) (data : Option (List Byte)) : State :=
  if d.opcode = 0x01 then s.loadImage d data
  else if d.opcode = 0x22 then s.boltInRead d data
  else if d.opcode = 0x30 then s.cfgRead d data
  else if d.opcode = 0x31 then s.setStageRead d data
  else s

/-- The length of the data that the oldest flow of host data brings (assumption 30). -/
def flowLen (flow : List Byte) : Nat := let n := leNat ((flow.drop 8).take 4); if n = 0xFFFFFFFF then 12 else 12 + n

/-- HOST_READ_COMPLETE (R378, R389): host data for a command, or none where the read ended with an error. In D3hot the device issues no
DMA (R393). -/
def execHostReadComplete (c : CmdRef) (data : Option (List Byte)) (s : State) : Out :=
  let flow := Tab.get (fun _ => []) s.sys.flows 128
  let s1 := if c.remote then { s with sys := { s.sys with flows := s.sys.flows.put 128 (flow.drop (flowLen flow)) } } else s
  actOn s (if s.up ∧ ¬ s.host.d3 then s.cmd c else none) fun d =>
    if d.device ≠ s.devnum ∧ ¬ c.remote ∧ s.inSystem then s.forwardRead d data
    else if d.phase = .reading then s1.takeRead d data
    else s

end Sys2Proof.Machine
end

