-- ==== Sys2Proof/Machine/Receive.lean ====
section
/-! DEFINITION. Units that the PCS completes, on their way through the elastic buffer to the patch, its check-value units and its capture
engine (R35, R57, R162 to R166, R173 to R175, R226, R227, R229, R464, R529). -/

namespace Sys2Proof.Machine

/-- The counters of a received unit, on the first lane of its group (assumption 92): codewords or flits with their corrections where the mode
has FEC, else blocks or characters (R173 to R175). -/
def State.countUnit (s : State) (l pcs : Nat) (u : RxUnit) : State :=
  let fec := decide (4 ≤ pcs)
  let bad := fun (n : Nat) => decide (corrLimit pcs < n)
  let unc := (u.cws.filter bad).length
  let cw := if fec then u.cws.length else if pcs = 1 then u.bytes.length else 1
  let s1 := s.laneCount64 ctrCw l cw
  let s2 := if fec then
      let good := u.cws.filter (fun n => !bad n)
      let s3 := ((s1.laneCount ctrCorr l (good.filter (fun n => n != 0)).length).laneCount ctrUncorr l unc).laneCount64 ctrSym l good.sum
      forEach (fun n s => s.histogram l pcs n) u.cws s3
    else s1
  (s2.laneCount ctrCode l u.codeErrs).addBurst l (if fec then unc else u.codeErrs)

/-- The units that a PCS mode delivers (R166, R229): raw blocks of 8 B; characters; 66-bit blocks, by what they hold for a frame or an
ordered set; 130-bit blocks of 16 B; flits of 256 B. Only modes with FEC bring codewords. -/
def unitFits (u : RxUnit) (pcs : Nat) : Bool :=
  let n := u.bytes.length
  (match pcs with
   | 0 => u.kind == .whole && n == 8
   | 1 => (u.kind == .whole || u.kind == .os) && n != 0 && u.ctl.length == n
   | 3 => (u.kind == .block || u.kind == .os) && n == 16
   | 4 => u.kind == .whole && n == 256
   | _ => match u.kind with
     | .idle => n == 0
     | .start | .term => decide (n ≤ 7)
     | .data | .os => n == 8
     | .whole | .block => false)
    && (u.cws == [] || decide (4 ≤ pcs))

/-- Line bits of a unit (R166). -/
def lineBits (u : RxUnit) (pcs : Nat) : Nat :=
  match pcs with
  | 0 => 64 | 1 => 10 * u.bytes.length | 3 => 130 | 4 => 2048 | _ => 66

/-- A layer reset has the patch out of release: units wait for the release (R444, R529). -/
def State.resetWaits (s : State) (k : Nat) : Bool :=
  s.cfg.released && s.up && s.patchReset && (s.fabAt k).active.isSome && decide (k ∉ s.res.testing)

/-- The front-end latency of the member of a lane's group whose symbols crossed the balls first (R170). -/
def State.groupLat (s : State) (l : Nat) : Nat := (s.groupLanes l).foldl (fun m i => max m (s.ln F.LN_FE_LAT i)) (s.ln F.LN_FE_LAT l)

/-- Where a unit of a lane goes (R35): to the slot that the lane has left, if its last symbol came before that boundary; else to the slot that
the lane is in. -/
def State.unitSlot (s : State) (l : Nat) (ends : Nat) : Option (Nat × Nat) :=
  match s.stack.late.find? (fun x => x.lane == l && decide (ends ≤ x.at_)) with
  | some x => some (x.k, x.slot)
  | none => s.laneSlot l

/-- A unit leaves the elastic buffer for a slot's stream port, its check-value unit and the capture engine (R162, R163, R226). -/
def State.deliverUnit (s : State) (l k slot : Nat) (e : EbUnit) (u : RxUnit) : State :=
  let pcs := s.pcsOf l
  let s1 := forEach (fun x s => if x.lane = l ∧ x.at_ < e.ends then s.endLate x else s) s.stack.late s
  let x := s1.fabAt k
  let n := Tab.get (fun _ => 0) x.rxUnit slot
  let q := x.rx.get (fun _ => []) slot
  let free := match q.getLast? with | some b => b.at_ + b.beats | none => 0
  let mark := bit (u.kind == .os) + 2 * bit u.fecUnc + 4 * bit (u.linkErr || (s.laneAt l).marked) + 8 * bit (s.laneAt l).disc
  let b : RxBeats := { at_ := max free (ceilDiv s1.rootNow 4), unit := n, bytes := u.bytes, ts := e.ts, mark := mark, sou := [] }
  let s2 := (s1.setFab k { x with rxUnit := x.rxUnit.put slot ((n + 1) % 65536), rx := x.rx.put slot (q ++ [b]) }).modLane l (fun x => { x with disc := false, marked := false })
  let r := s2.cvRx k slot pcs u.kind u.bytes u.ctl
  r.1.capTake k slot pcs
    { lane := l, unit := n, ts := e.ts, kind := u.kind, bytes := u.bytes, ctl := u.ctl, chars := pcs == 1
      fec := u.fecUnc, link := u.linkErr || (s.laneAt l).marked, disc := (s.laneAt l).disc, codeErr := u.codeErr, fecSym := u.fecSym, chk := r.2.1
      strip := r.2.2 }

/-- The stream ports of a patch take units now: it is released and not frozen (R227, R464, R529). -/
def State.takesUnits (s : State) (k : Nat) : Bool := s.patchLive k && s.posView (s.ppos k) == .normal

/-- The units of a patch wait for it (R464, R529). -/
def State.unitsWait (s : State) (k : Nat) : Bool := s.resetWaits k || (s.patchLive k && s.posView (s.ppos k) != .normal)

/-- The oldest unit of an elastic buffer is read, if its patch takes it; one whose patch is out of release is discarded (R444). Answers
whether the buffer moved on. -/
def State.readOldest (s : State) (l : Nat) : State × Bool :=
  match (s.laneAt l).eb with
  | [] => (s, false)
  | e :: t =>
    let s1 := s.modLane l (fun x => { x with eb := t })
    match s.unitSlot l e.ends, e.u with
    | some (k, slot), some u =>
      if s.takesUnits k then (s1.deliverUnit l k slot e u, true)
      else if s.unitsWait k then (s, false)
      else (s1.modLane l (fun x => { x with disc := true }), true)
    | some (k, slot), none => if s.unitsWait k then (s, false) else (s1.cutSlot k slot, true)
    | none, some _ => (s1.modLane l (fun x => { x with disc := true }), true)
    | none, none => (s1, true)

/-- Bytes of a unit in the elastic buffer. -/
def EbUnit.size (e : EbUnit) : Nat := match e.u with | some u => u.bytes.length | none => 0

/-- Bytes in an elastic buffer. -/
def ebLevel (q : List EbUnit) : Nat := (q.map EbUnit.size).sum

/-- Room for a lane's data (R162, R464, R529): 4 KiB, with the hold buffer's 64 KiB during a handover of its patch or a layer reset. -/
def State.ebRoom (s : State) (l : Nat) : Nat :=
  match s.laneSlot l with
  | some (k, _) => if s.hover k || s.resetWaits k then 69632 else 4096
  | none => 4096

/-- A unit arrives at a buffer: whole units are discarded, newest first, until it fits (R163). Answers the buffer and how many were. -/
def ebPush (room : Nat) (e : EbUnit) : Nat → List EbUnit → List EbUnit × Nat
  | 0, q => (q ++ [e], 0)
  | fuel + 1, q =>
    if ebLevel q + e.size ≤ room then (q ++ [e], 0)
    else if q = [] then ([], 1)
    else
      let lost := match q.getLast? with | some x => bit x.u.isSome | none => 0
      let r := ebPush room e fuel q.dropLast
      (r.1, r.2 + lost)

/-- RECEIVED_UNIT (R166): `off` is the offset at which the PCS stamps the unit's first block, from which the front-end latency is
subtracted (R57). The unit passes the elastic buffer at once where nothing waits in it. -/
def execReceivedUnit (l : Lane) (u : RxUnit) (off : Nat) (s : State) : Out :=
  let l := l.val
  let pcs := s.pcsOf l
  let s1 := (s.tick off).countUnit l pcs u
  let lat := s1.groupLat l
  let e : EbUnit := ⟨some u, s1.stampBack lat, s1.rootNow - lat + lineBits u pcs * 3200000 / max 1 (s.rateOf l)⟩
  let q := ebPush (s1.ebRoom l) e 69633 (s1.laneAt l).eb
  let s2 := s1.modLane l (fun x => { x with eb := q.1, disc := x.disc || decide (0 < q.2) })
  act s (s.lanesOn && s.firstLane l == l && s.groupUp l && unitFits u pcs)
    (if q.1.length = 1 then ((s2.laneCount ctrOvf l q.2).readOldest l).1 else s2.laneCount ctrOvf l q.2)

/-- Units are read from an elastic buffer while the time of the patch side suffices. -/
def State.readWhile (s : State) (l : Nat) : Nat → State
  | 0 => s
  | fuel + 1 =>
    match (s.laneAt l).eb with
    | [] => s.modLane l (fun x => { x with ebRead := 0 })
    | e :: _ =>
      if (s.laneAt l).ebRead < e.size then s
      else
        let r := s.readOldest l
        if r.2 then (r.1.modLane l (fun x => { x with ebRead := x.ebRead - e.size })).readWhile l fuel else r.1.modLane l (fun x => { x with ebRead := 0 })

/-- The patch side has read for a stitch of `p` root cycles, 32 B per fabric cycle (R162, R227, R464). -/
def State.ebBoundary (s : State) (p : Nat) : State :=
  forEach (fun l s =>
    if (s.laneAt l).eb = [] then s
    else (s.modLane l (fun x => { x with ebRead := x.ebRead + 8 * p })).readWhile l ((s.laneAt l).eb.length + 1)) (s.lanes.map (fun e => e.1)) s

end Sys2Proof.Machine
end

