-- ==== Sys2Proof/Machine/Resilience.lean ====
section
/-! DEFINITION. Hidden failure handling and self-test (R457 to R487): handovers, rotation, lockstep, logic BIST, march tests. -/

namespace Sys2Proof.Machine

/-! Conditions and permissions (R477, R478). -/

/-- A BIST or march may run (R478): VCORE is within its limits, the root PLL is locked on REFCLK and every layer is in band A or B. -/
def State.testOk (s : State) : Bool :=
  s.flag F.CLK_LOCKED CLK && s.rd F.CLK_SOURCE CLK == 0 && (List.range 8).all (fun k => decide (s.rd F.HK_BAND HK k ≤ 1)) && !s.halted
    && s.hk.stop == 0 && s.hk.vcore

/-- The life-cycle state permits every SELFTEST kind. -/
def State.testFree (s : State) : Bool := s.rd F.LCS SEC == 1 || s.rd F.LCS SEC == 4

/-- Programmed pattern count (R472). -/
def bistCount (log2p : Nat) : Nat := 2 ^ (16 + min log2p 6)

/-! Handover (R459 to R468). -/

/-- The target of a handover (R461): lowest SPARE of the half, lowest SPARE of the other, else a position in TEST, whose BIST is cut
short. -/
def State.findTarget (s : State) (from_ : Nat) : Option Nat :=
  let ps := List.range 18
  let spare := fun p => s.rd F.POS_STATE DEV p == 1
  match ps.find? (fun p => spare p && s.half_ p == s.half_ from_) with
  | some p => some p
  | none => match ps.find? spare with
    | some p => some p
    | none => ps.find? (fun p => s.rd F.POS_STATE DEV p == 3)

/-- A test ends early (R473): its command completes with `st`. What had been applied by then, below the count, and a signature that is never
compared are free values. A test that has not begun leaves the registers as they are. -/
def State.endEarly (s : State) (b : BistRun) (st : Status) : State :=
  let a := s.freeWord.toNat % b.need
  let g := s.took.freeWord.toNat
  let lo := g % 2 ^ 32
  let hi := g / 2 ^ 32
  let s1 := s.took.took
  let s2 := match b.u with
    | .pos p => ((((s1.wr F.BIST_STATUS RES st.code p.val).wr F.BIST_PASS RES 0 p.val).wr F.BIST_APPLIED RES a p.val).wr F.BIST_SIG_LO RES lo
        p.val).wr F.BIST_SIG_HI RES hi p.val
    | .rsp q =>
      if 32 ≤ q.val then
        ((((s1.wr F.RBIST_STATUS RES st.code (q.val - 32)).wr F.RBIST_PASS RES 0 (q.val - 32)).wr F.RBIST_APPLIED RES a (q.val - 32)).wr
          F.RBIST_SIG_LO RES lo (q.val - 32)).wr F.RBIST_SIG_HI RES hi (q.val - 32)
      else s1
  if ¬ b.on then s.completeOpt b.c st
  else
    let out := match s.res.tests.find? (fun t => some t.c = b.c) with | some t => nthD 0 t.words 4 | none => 0
    { s2 with res := { s2.res with tests := s2.res.tests.filter (fun t => some t.c != b.c) } }.completeOpt b.c st [a, 0, 0, 0, out, lo, hi]

/-- The runs of a unit that are under way end early; where `stays`, they begin again as the device's own (R473). -/
def State.endRuns (s : State) (u : BistUnit) (st : Status) (stays : Bool) : State :=
  let mine := fun (b : BistRun) => b.u == u && b.on
  let own : List BistRun := if stays then [⟨u, none, bistCount (s.rd F.RES_LOG2P RES), false⟩] else []
  forEach (fun b s => s.endEarly b st) (s.res.bists.filter mine)
    { s with res := { s.res with bists := s.res.bists.filter (fun b => !mine b) ++ (if s.res.bists.any mine then own else []) } }

/-- Commands end early whose marches a condition `f` names. -/
def State.cutMarchesOf (s : State) (f : MarchRun → Bool) (st : Status) : State :=
  let cs := (s.res.marches.filter f).map (fun m => m.c)
  forEach (fun (t : TestRes) s => s.complete t.c st t.words) (s.res.tests.filter (fun t => cs.contains t.c))
    { s with res := { s.res with
        marches := s.res.marches.filter (fun m => !cs.contains m.c)
        tests := s.res.tests.filter (fun t => !cs.contains t.c) } }

/-- A destructive march in the banks of a position ends early with its command (R473). -/
def State.cutMarches (s : State) (p : Nat) : State := s.cutMarchesOf (fun m => m.pos == p && !m.preserve && m.bank.isSome) .incomplete

/-- A position in TEST becomes a target: its tests end (R461, R473). -/
def State.cutBist (s : State) (p : Nat) : State :=
  let u := BistUnit.pos (Fin.ofNat 18 p)
  let s1 := s.endRuns u .incomplete false
  ({ s1 with res := { s1.res with bists := s1.res.bists.filter (fun b => b.u != u) } } : State).cutMarches p

/-- A handover that finds no target (R468). -/
def State.noTarget (s : State) (r : HoReq) : State :=
  let refuse := fun (s : State) => { s with res := { s.res with refused := s.res.refused ++ [r] } }
  match r.cause with
  | 0 =>
    let s1 := refuse s
    if r.k ∈ s.res.stopped then s1.event .spareExhausted blkPATCH r.k
    else s1.modProcAt (16 + r.k) (fun x => { x with stalled := false })
  | 3 => s.bump F.RES_ROT_SKIPPED RES
  | 4 =>
    match (if r.test then r.c else none) with
    | some c => { s with res := { s.res with waits := s.res.waits ++ [(⟨c, r.k⟩ : TestWait)] } }.defer c
    | none => s.completeOpt r.c .refused
  | _ => (refuse s).event .spareExhausted blkPATCH r.k

/-- The waiting request of highest priority begins its preparation, at step 3 of a boundary (R459, R461, R462); the clocks of the target and of
the state path are opened for it (R501). -/
def State.startHandover (s : State) : State :=
  match s.res.cur, s.res.queue with
  | none, r :: t =>
    let from_ := s.ppos r.k
    let s1 := ({ s with res := { s.res with queue := t } }).showQueued
    match (match r.target with | some p => if s.rd F.POS_STATE DEV p = 1 then some p else none | none => s.findTarget from_) with
    | none => s1.noTarget r
    | some to_ =>
      let s2 := ((if s.rd F.POS_STATE DEV to_ = 3 then s1.cutBist to_ else s1).setPos to_ 2).need [57 + to_, 75 + to_, 39, 49]
      let s3 := ((((s2.wr F.POS_LPATCH DEV r.k to_).wr F.RES_PHASE RES 1).wr F.RES_LPATCH RES r.k).wr F.RES_FROM RES from_).wr F.RES_TO RES to_
      { s3.wr F.RES_CAUSE RES r.cause with
        res := { s3.res with cur := some r, prepLeft := 19200, prepared := false, moveLeft := 0, h := 0, held := [] } }
  | _, _ => s

/-- Fabric cycles of a stitch (R47). -/
def State.fabricCycles (s : State) : Nat := 16 * s.rd F.STC_N_NOW DEV

/-- Bits of hot state of the larger half (R463): flip-flops and SHIFT tables of both resident planes, and the hard blocks'. -/
def State.hotBits (s : State) (k : Nat) : Nat :=
  let x := s.fabAt k
  let half := fun (h : Bool) => 131072 + 16 * (shiftCells x.aCfg h + shiftCells x.sCfg h) + 65536
  max (half false) (half true)

/-- Fabric cycles, and stitches, that the transfer of the hot state takes (R463). -/
def State.hotCycles (s : State) (k : Nat) : Nat := ceilDiv (s.hotBits k) 4096
def State.hotStitches (s : State) (k : Nat) : Nat := ceilDiv (s.hotCycles k) s.fabricCycles

/-- The freeze (R463), at step 3 of the first boundary after preparation. -/
def State.freeze (s0 : State) (r : HoReq) : State :=
  let s := (s0.landAll (16 + r.k)).planeFreeze r.k
  let cycles := s.hotCycles r.k
  let s1 := (s.setPos (s.rd F.RES_FROM RES) 2).wr F.LPM_HOVER DEV 1 r.k
  let s2 := (s1.modProcAt (16 + r.k) (fun x => { x with frozen := true })).wr F.RES_PHASE RES 2
  { s2 with
    res := { s2.res with moveLeft := cycles, h := 0, prepared := false, rotWait := none, lines := [], shown := none,
                         first := if r.cause = 0 then Tab.get (fun _ => s.stitch) s.res.misses r.k else s.stitch } }

/-- A refused handover is raised again when a position becomes SPARE (R468). -/
def State.retryRefused (s : State) : State :=
  let rs := s.res.refused
  if rs = [] ∨ ¬ (List.range 18).any (fun p => s.rd F.POS_STATE DEV p == 1) then s
  else forEach (fun r s => s.requestHandover r) rs { s with res := { s.res with refused := [], stopped := [] } }

/-- ABANDON counts every stitch in which a lockstep mismatch keeps a running program from running (R467). -/
def State.countLockstep (s : State) : State :=
  forN (fun k s => if (s.procAt (16 + k)).stalled ∧ s.rd F.PSTATE (s.pb k) = 1 then s.bump F.ABANDON (s.pb k) else s) 16 s

/-- The part of a handover that a boundary carries (R462 to R466): preparation and transfer go on, the freeze falls due, requests are
taken up. `p` is the period of the stitch that ended. -/
def State.handBoundary (s0 : State) (p : Nat) : State :=
  let n := p / 4
  let s1 := s0.countLockstep.retryRefused
  let held := s1.res.drain = 0
  let s : State := if s1.rd F.RES_PHASE RES = 2 then s1
    else { s1 with res := { s1.res with
      drain := min 128 (s1.res.drain + 1)
      lines := if held then s1.res.lines else []
      shown := if held then s1.res.shown else none } }
  match s.res.cur with
  | none => s.startHandover
  | some r =>
    match s.rd F.RES_PHASE RES with
    | 1 =>
      if s.res.prepared then
        let h := s.hotStitches r.k
        let quiet := s.flag F.PQ_OPEN (s.pb r.k) && decide (h + ceilDiv (5 * h) 4 ≤ s.rd F.PQ_QUIET_LEN (s.pb r.k))
        if r.cause = 3 ∧ s.flag F.RES_ROT_QUIET RES ∧ ¬ quiet then s else s.freeze r
      else { s with res := { s.res with prepLeft := s.res.prepLeft - n } }
    | 2 => { s with res := { s.res with moveLeft := s.res.moveLeft - n, h := s.res.h + 1 } }
    | _ => s

/-- The copy port decodes a word of a position's bank that is not clean (R462): it reaches the target corrected or poisoned, and counts at the
vacated position, past the repeat tracker. A poisoned word is copied as it is. -/
def State.copyWord (s : State) (pos : Nat) (e : CopySeen) : State :=
  let b := e.bank.val
  let w := e.word.toNat
  let u := bankUnit pos b
  let put := fun (s : State) (v : Option W64) => s.setBank pos b { s.bankAt pos b with copy := (s.bankAt pos b).copy.put w v }
  let corr := fun (s : State) => ((s.bumpCorr u).noteErr u w false).bucketAdd u
  if s.bankPoison pos b w then s
  else
    match e.seen with
    | .clean => s
    | .corr => corr s
    | .uncorr => (put s none).countUncorr u w
    | .miscorrect d => corr (put s (some (BitVec.ofNat 64 (leNat d))))
    | .unseen d => put s (some (BitVec.ofNat 64 (leNat d)))

/-- PREPARATION_END (R462): 19,200 fabric cycles from step 3 of the boundary at which the preparation began, the freeze follows at the next
boundary. `seen` names the words that the copy did not find clean. -/
def execPreparationEnd (x : PrepEnd) (s : State) : Out :=
  let pos := s.rd F.RES_FROM RES
  let s0 := forN (fun b s => s.setBank pos b { s.bankAt pos b with copy := [] }) 8 (s.tick x.off)
  let s1 := forEach (fun e s => s.copyWord pos e) x.seen s0
  actOn s (if s.rd F.RES_PHASE RES = 1 ∧ 8 + 4 * s.res.prepLeft ≤ s.clampOff x.off ∧ ¬ s.res.prepared ∧ ¬ s.halted then s.res.cur else none) fun r =>
    { s1 with res := { s1.res with prepared := true, rotWait := if r.cause = 3 then some s1.rootNow else none } }

/-- Moves every entry of a register table from one PATCH block to another, but for the bank integrity words (R332, R463). -/
def moveBlock {α : Type} (from_ to_ : Nat) (t : Tab α) : Tab α :=
  let stays := fun a => decide (0xB00 ≤ a % 0x1000) && decide (a % 0x1000 ≤ 0xB80)
  let isIn := fun p a => decide (PATCH p ≤ a) && decide (a < PATCH p + 0x1000)
  let kept := t.filter (fun e => !((isIn from_ e.1 || isIn to_ e.1) && !stays e.1))
  forEach (fun e t => if isIn from_ e.1 && !stays e.1 then Tab.put t (PATCH to_ + (e.1 - PATCH from_)) e.2 else t) t kept

/-- What the target of a handover holds of a bank (R462): its words and marks, with what the copy found wrong. -/
def BankSt.copied (x : BankSt) : Tab W64 × Tab Bool :=
  forEach (fun e t => (Tab.set x.unlisted t.1 e.1 (e.2.getD 0), Tab.set (fun _ => false) t.2 e.1 e.2.isNone)) x.copy (x.words, x.poison)

/-- Moves a bank's contents, owner and queue to the target; its integrity and row map stay with the position (R332, R462). -/
def State.moveBank (s0 : State) (from_ to_ b : Nat) : State :=
  let x := s0.bankAt from_ b
  let s := s0.setBank from_ b { x with copy := [] }
  s.setBank to_ b { s.bankAt to_ b with
    words := x.copied.1
    lost := x.lost
    poison := x.copied.2
    owner := x.owner
    req := x.req
    qhead := x.qhead
    qtail := x.qtail
    qlevel := x.qlevel }

/-- REBIND (R463 to R465): the switches name the target, the vacated position goes to TEST and its BIST waits for its conditions
(R469); held lines are presented and held writes applied (R545). -/
def execRebind (off : Nat) (s : State) : Out :=
  let from_ := s.rd F.RES_FROM RES
  let to_ := s.rd F.RES_TO RES
  actOn s (match s.res.cur with | some r => if s.rd F.RES_PHASE RES = 2 ∧ s.res.moveLeft = 0 ∧ ¬ s.halted then some r else none | none => none) fun r =>
    let s0 := s.tick off
    let s1 := { s0 with
      regs := moveBlock from_ to_ s0.regs
      eff := moveBlock from_ to_ s0.eff
      live := moveBlock from_ to_ s0.live
      capHi := moveBlock from_ to_ s0.capHi }
    let s2 := forN (fun b s => s.moveBank from_ to_ b) 8 s1
    let s3 := ((s2.wr F.LPM_PPOS DEV to_ r.k).setPos to_ 0).setPos from_ 3
    let s4 := (s3.modProcAt (16 + r.k) (fun x => { x with frozen := false, stalled := false })).wr F.RES_PHASE RES 3
    let s5 := ({ s4 with res := { s4.res with drain := 0, drained := false, shown := some r.k } } : State).ownBist (.pos (Fin.ofNat 18 from_))
    let s5 := s5.setFab r.k { s5.fabAt r.k with edge := 3 }
    let s6 := ((s5.capRebind r.k).modPat r.k (fun x => { x with resume := s5.stitch + 1 })).presentLines r.k s5.res.lines
    let s7 := { s6 with res := { s6.res with held := [] } }
    forEach (fun (w : HeldWrite) s => s.busWrite w.src (PATCH to_ + (w.a - PATCH from_)) w.v w.be) s6.res.held s7

/-- KIND of a SELFTEST (R483). -/
def DispCmd.selfKind (d : DispCmd) : Nat := if 5 ≤ d.param 8 1 then 0 else d.param 8 1

/-- The banks and the bolt that a march names. -/
def DispCmd.marchBanks (d : DispCmd) : List Nat := (List.range 8).filter (fun b => bitAt (d.param 10 1) b)

/-- The result of a test begins to be gathered; a forced test counts the stitches outside a quiet window (R481, R483). -/
def State.openTest (s : State) (c : CmdRef) (k : Nat) (forced : Bool) : State :=
  let out := bit (forced && !s.flag F.PQ_OPEN (s.pb k))
  { s with res := { s.res with
      tests := s.res.tests ++ [(⟨c, k, [0, 0, 0, 0, out, 0, 0], if forced then .forced else .ok⟩ : TestRes)] } }

/-- A disturbing test loses what the banks and the bolt of its patch hold (R481): each word and byte is a free value from now on. -/
def State.loseContents (s : State) (k : Nat) : State :=
  let n := s.fresh
  let s1 := forN (fun b s => s.setBank (s.ppos k) b { s.bankAt (s.ppos k) b with words := [], poison := [], lost := some (n + 131072 * b) }) 8 s
  { s1 with fresh := n + 1048576 + 2147483648 }.setBolt k
    { s1.boltAt k with mem := [], meta_ := (s1.boltAt k).meta_.map (fun (e : Nat × LineMeta) => (e.1, { e.2 with poison := false })), lost := [4, 5, 6, 7],
                       lostAt := n + 1048576 }

/-- A disturbing test takes its patch out of release (R481). -/
def State.takePatch (s : State) (k : Nat) : State :=
  let s1 := (s.holdPatch k).loseContents k
  { s1 with res := { s1.res with testing := s1.res.testing ++ [k] } }

/-- A disturbing test is over: its patch is released again from its reference copies (R481). -/
def State.givePatch (s : State) (k : Nat) : State :=
  if k ∉ s.res.testing then s
  else
    let s1 := { s with res := { s.res with testing := s.res.testing.erase k } }
    if s1.cfg.released ∧ ¬ s1.patchReset then s1.releasePatch k else s1

/-- Starts the parts of a march (R474, R483); with no part it ends at once. -/
def State.startMarch (s : State) (d : DispCmd) (pos : Nat) (preserve bolt : Bool) (banks : List Nat) : State :=
  let k := d.target % 16
  let parts := banks.map (fun b => (⟨d.c, k, pos, some b, preserve⟩ : MarchRun)) ++ (if bolt then [⟨d.c, k, pos, none, preserve⟩] else [])
  if parts = [] then s.complete d.c .ok [0, 0, 0, 0, 0, 0, 0]
  else
    let s1 := (s.setPhase d.c .running).openTest d.c k (d.status == .forced)
    { s1 with res := { s1.res with marches := s1.res.marches ++ parts } }

/-- The images that the drain held are loaded (R113). -/
def State.landImages (s : State) (k : Nat) : State :=
  let mine := fun (e : CmdRef × List Byte) => match s.cmd e.1 with | some d => d.tkind == 0 && d.target == k | none => false
  forEach (fun (e : CmdRef × List Byte) s =>
    match s.cmd e.1 with
    | some d => s.takeImage d (some e.2)
    | none => s) (s.res.images.filter mine) { s with res := { s.res with images := s.res.images.filter (fun e => !mine e) } }

/-- The elastic buffers of a patch's slots will have been read by an offset of the stitch, at 32 B per lane per fabric cycle (R464). -/
def State.backlogGone (s : State) (k off : Nat) : Bool :=
  (List.range 16).all (fun i => match s.slotLane k i with
    | some l => decide (ebLevel (s.laneAt l).eb ≤ (s.laneAt l).ebRead + 8 * off)
    | none => true)

/-- DRAIN_COMPLETE (R464, R466): the backlog is gone; the handover ends at the next boundary. -/
def execDrainComplete (off : Nat) (s : State) : Out :=
  actOn s (if s.rd F.RES_PHASE RES = 3 ∧ ¬ s.res.drained ∧ ¬ s.halted then s.res.cur else none) fun r =>
    if s.backlogGone r.k (s.clampOff off) then { s.tick off with res := { s.res with drained := true } } else s

/-- The commands, plane requests, bindings and frames that a handover held take effect under the rules of the boundary behind its drain (R37,
R113, R212, R445, R466). -/
def State.freeHandover (s0 : State) (k : Nat) : State :=
  let s := s0.drainBinds k
  let s1 := s.setFab k { s.fabAt k with reqs := (s.fabAt k).reqs ++ (s.fabAt k).heldReqs, heldReqs := [] }
  let s2 : State := { s1 with
    cfg := { s1.cfg with
      slotValid := s1.cfg.slotValid ++ s1.cfg.heldFrames.filter (fun (f : Nat × Nat × Nat) => f.1 == k)
      heldFrames := s1.cfg.heldFrames.filter (fun f => f.1 != k) } }
  let s3 := (s2.landFrames k).landImages k
  forEach (fun d s => s.heldNow d) (s3.host.cmds.filter (fun (d : DispCmd) => d.phase == .held && d.target == k && d.tkind == 0)) s3

/-- A self-test whose handover is over tests the vacated position, if its conditions hold (R478, R481); a logic BIST begins with the
position's own turn. -/
def State.testVacated (s : State) (c : CmdRef) (pos : Nat) : State :=
  match s.cmd c with
  | none => s
  | some d =>
    if d.selfKind < 3 then s
    else if !s.testOk then s.complete c .conditions
    else s.startMarch d pos false (d.selfKind == 4 || bitAt (d.param 11 1) 0) (if d.selfKind = 4 then [] else d.marchBanks)

/-- The first boundary after a drain (R466): HOVER clears, HANDOVER is recorded, HANDOVER_DONE raised, and what waited takes effect. -/
def State.endDrain (s : State) : State :=
  match (if s.res.drained then s.res.cur else none) with
  | none => s
  | some r =>
    let from_ := s.rd F.RES_FROM RES
    let h := min s.res.h 63
    let n := min (s.res.drain + 1) 127
    let last := s.stitch - 1
    let w0 := from_ + 32 * s.rd F.RES_TO RES + 1024 * r.cause + 8192 * h + 524288 * n
    let s1 := ((((s.wr F.LPM_HOVER DEV 0 r.k).wr F.RES_PHASE RES 0).wr F.RES_LAST_FIRST RES s.res.first.toNat).wr F.RES_LAST_END RES last.toNat)
    let s2 := ((s1.wr F.RES_LAST_H RES h).wr F.RES_LAST_DRAIN RES n).incr F.RES_HANDOVERS RES
    let s3 := (s2.event .handover blkPATCH r.k [w0, s.res.first.toNat % 2 ^ 32, last.toNat % 2 ^ 32]).raiseProc (16 + r.k) 7 false
    let s4 := { s3 with res := { s3.res with cur := none, drained := false } }.freeHandover r.k
    match r.c with
    | none => s4
    | some c => if r.test then s4.testVacated c from_ else s4.complete c .ok

/-- BIND_PATCH (R470). -/
def execBindPatch (c : CmdRef) (s : State) : Out :=
  actOn s (s.cmdOf c 0x11 .fresh) fun d =>
    let p := min (d.param 8 1) 17
    if s.rd F.POS_STATE DEV p = 1 then
      (s.setPhase c .running).requestHandover ⟨d.target % 16, 4, some p, some c, false⟩
    else s.complete c .refused

/-! Lockstep (R458, R467). -/

/-- The register values that a processor held at step 2 of the stitch. -/
def State.restoreRegs (s : State) (key : Nat) : State :=
  let y := Tab.get (fun _ => s.procAt key) s.snaps key
  s.modProcAt key (fun x => { x with g := y.g, a := y.a, o := y.o, p := y.p, v := y.v, dl := y.dl, tp := y.tp, e := y.e, mu := y.mu })

/-- LOCKSTEP_MISMATCH (R77, R459, R467, R468): the pair takes back its registers and stops; the stitch counts in ABANDON where its program
ran. A handover is requested whatever the sequencer was doing. -/
def execLockstepMismatch (k : LPatch) (off : Nat) (s : State) : Out :=
  let key := 16 + k.val
  let again := match s.res.misses.find? (fun e => e.1 == k.val) with
    | some e => decide ((s.stitch - e.2).toNat ≤ 1024)
    | none => false
  let s1 := ((s.tick off).restoreRegs key).modProcAt key (fun x => { x with active := false, stalled := true, wait := none })
  let s2 := if s.rd F.PSTATE (s.pb k.val) = 1 ∧ ¬ (s.procAt key).stalled ∧ ¬ (s.procAt key).frozen then s1.bump F.ABANDON (s.pb k.val) else s1
  let s3 := { s2 with
    res := { s2.res with
      misses := s2.res.misses.put k.val s.stitch
      stopped := if again then k.val :: s2.res.stopped.erase k.val else s2.res.stopped.erase k.val } }
  act s s.stackOn (s3.requestHandover ⟨k.val, 0, none, none, false⟩)

/-- HC_LOCKSTEP_MISMATCH (R458). -/
def execHcLockstepMismatch (off : Nat) (s : State) : Out :=
  let again := match s.res.misses.find? (fun e => e.1 == 16) with
    | some e => decide ((s.stitch - e.2).toNat ≤ 1024)
    | none => false
  let s1 := (((s.tick off).restoreRegs 0).modProcAt 0 (fun x => { x with active := false, wait := none })).bump F.RES_HC_RETRY RES
  let s2 := { s1 with res := { s1.res with misses := s1.res.misses.put 16 s.stitch } }
  act s (s.clk.locked && !s.halted) (if again then s2.event .spareExhausted blkDEV 0 else s2)

/-! Rotation (R471). -/

/-- ROTATION_STEP (R471). -/
def execRotationStep (off : Nat) (s : State) : Out :=
  let k := s.rd F.RES_ROT_NEXT RES
  let r := s.rd F.RES_ROT_RIB RES
  let l := s.rd F.LCS SEC
  let s1 := ((s.tick off).wr F.RES_ROT_NEXT RES ((k + 1) % 16)).wr F.RES_ROT_RIB RES ((r + 1) % 32)
  let s2 := { s1 with res := { s1.res with rotFrom := s1.rootNow } }
  act s (s.flag F.RES_ROT_EN RES && (l == 1 || l == 3 || l == 4) && s.testOk && s.cfg.released
      && decide (s.res.rotFrom + 3200000000 * s.rd F.RES_ROT_PERIOD RES ≤ s.time.run + s.clampOff off))
    (((s2.requestHandover ⟨k, 3, none, none, false⟩).requestMove r false).need [26])

/-- ROT_WAIT_EXPIRY (R460, R471). -/
def execRotWaitExpiry (off : Nat) (s : State) : Out :=
  act s ((match s.res.rotWait with
      | some t => decide (t + 3200000000 * s.rd F.RES_ROT_WAIT RES ≤ s.time.run + s.clampOff off)
      | none => false) && !s.halted)
    ((s.tick off).abandonPrep)

/-! Self-tests (R469 to R483). -/

/-- A dispatched SELFTEST of a kind that is not for a lane. -/
def State.selfTest (s : State) (c : CmdRef) (kind : Nat) : Option DispCmd :=
  match s.cmdOf c 0x29 .fresh with
  | none => none
  | some d => if d.selfKind = kind ∧ d.tkind ≠ 3 then some d else none

/-- RESULTS (R477, R483, R486). -/
def execResults (c : CmdRef) (s : State) : Out :=
  actOn s (s.selfTest c 0) fun d =>
    let l := s.rd F.LCS SEC
    if l ≠ 1 ∧ l ≠ 3 ∧ l ≠ 4 then s.complete c .refused
    else if d.tkind = 1 then
      let q := s.rsp (d.target % 32)
      if 32 ≤ q then
        s.complete c (Status.ofCode (s.rd F.RBIST_STATUS RES (q - 32)))
          [s.rd F.RBIST_APPLIED RES (q - 32), 0, 0, 0, 0, s.rd F.RBIST_SIG_LO RES (q - 32), s.rd F.RBIST_SIG_HI RES (q - 32)]
      else s.complete c .ok [0, 0, 0, 0, 0, 0, 0]
    else
      let p := min (d.param 9 1) 17
      s.complete c (Status.ofCode (s.rd F.BIST_STATUS RES p))
        [s.rd F.BIST_APPLIED RES p, 0, 0, 0, 0, s.rd F.BIST_SIG_LO RES p, s.rd F.BIST_SIG_HI RES p]

/-- Adds a BIST run, which starts when its conditions hold. -/
def State.addBist (s : State) (b : BistRun) : State := { s with res := { s.res with bists := s.res.bists ++ [b] } }

/-- Stitches that a test of a dispatched command needs (R472, R474). -/
def State.testStitches (s : State) (d : DispCmd) : Nat :=
  let bolt := d.selfKind == 4 || bitAt (d.param 11 1) 0
  ceilDiv (if d.selfKind = 1 then 256 * bistCount (d.param 12 1) else if bolt then 134080000 else 656000) s.period

/-- A disturbing test hands its patch over first; without a spare it waits for a quiet window, or with FORCE starts at once (R481). Answers
whether it starts. -/
def State.disturb (s : State) (d : DispCmd) (k : Nat) : State × Bool :=
  if (List.range 18).any (fun p => s.rd F.POS_STATE DEV p == 1) then
    ((s.setPhase d.c .waiting).requestHandover ⟨k, 4, none, some d.c, true⟩, false)
  else if d.force then (s.takePatch k, true)
  else ({ s.setPhase d.c .waiting with res := { s.res with waits := s.res.waits ++ [(⟨d.c, k⟩ : TestWait)] } }.defer d.c, false)

/-- The gates above what a logic BIST tests (R494, R498, R501). -/
def bistGates : BistUnit → List Nat
  | .pos p => [57 + p.val, 75 + p.val, 40, 50]
  | .rsp _ => [26]

/-- A host's test of a position that serves no patch begins (R472, R473): a test of it under way ends early and runs again behind this one. -/
def State.hostBist (s : State) (c : CmdRef) (p need : Nat) : State :=
  let u := BistUnit.pos (Fin.ofNat 18 p)
  let s1 := s.endRuns u .incomplete (s.rd F.POS_STATE DEV p == 3)
  let s2 := ((if s1.rd F.POS_STATE DEV p = 4 then s1 else s1.setPos p 3).setPhase c .running).need (bistGates u)
  { s2 with res := { s2.res with bists := ⟨u, some c, need, true⟩ :: s2.res.bists } }

/-- LOGIC_BIST (R14, R472, R473, R477, R478, R481, R483). -/
def execLogicBist (c : CmdRef) (s : State) : Out :=
  actOn s (s.selfTest c 1) fun d =>
    let need := bistCount (d.param 12 1)
    if !s.testOk then s.complete c .conditions
    else if !s.testFree then s.complete c .refused
    else if d.tkind = 1 then
      let r := d.target % 32
      if s.spareRsps = [] then s.complete c .refused
      else ((s.setPhase c .running).requestMove r false).addBist ⟨.rsp (Fin.ofNat 34 (s.rsp r)), some c, need, false⟩
    else
      let p := min (d.param 9 1) 17
      match s.posPatch p with
      | none => if s.rd F.POS_STATE DEV p = 2 then s else s.hostBist c p need
      | some k =>
        match s.disturb d k with
        | (s1, false) => s1.addBist ⟨.pos (Fin.ofNat 18 p), some c, need, false⟩
        | (s1, true) =>
          let s2 := (s1.setPhase c .running).openTest c k true
          { s2 with res := { s2.res with bists := ⟨.pos (Fin.ofNat 18 p), some c, need, true⟩ :: s2.res.bists } }

/-- MARCH_PRESERVE (R475, R477, R478, R483). -/
def execMarchPreserve (c : CmdRef) (s : State) : Out :=
  actOn s (s.selfTest c 2) fun d =>
    let l := s.rd F.LCS SEC
    if !s.testOk then s.complete c .conditions
    else if l ≠ 1 ∧ l ≠ 3 ∧ l ≠ 4 then s.complete c .refused
    else s.startMarch d (s.ppos (d.target % 16)) true (bitAt (d.param 11 1) 0) d.marchBanks

/-- A destructive march (R474, R477, R478, R481): it disturbs the patch that it names. -/
def State.destruct (s : State) (d : DispCmd) (bolt : Bool) (banks : List Nat) : State :=
  if !s.testOk then s.complete d.c .conditions
  else if !s.testFree then s.complete d.c .refused
  else
    match s.disturb d (d.target % 16) with
    | (s1, false) => s1
    | (s1, true) => s1.startMarch { d with status := .forced } (s1.ppos (d.target % 16)) false bolt banks

/-- MARCH_DESTRUCT (R474, R481, R483). -/
def execMarchDestruct (c : CmdRef) (s : State) : Out :=
  actOn s (s.selfTest c 3) fun d => s.destruct d (bitAt (d.param 11 1) 0) d.marchBanks

/-- BOLT_ONLY (R481, R483). -/
def execBoltOnly (c : CmdRef) (s : State) : Out := actOn s (s.selfTest c 4) fun d => s.destruct d true []

/-- BIST_DONE (R469, R472, R473, R486). -/
def execBistDone (u : BistUnit) (applied : W32) (sig : W64) (match_ : Bool) (s : State) : Out :=
  actOn s (if s.halted then none else s.res.bists.find? (fun b => b.u == u && b.on)) fun b =>
    let whole := decide (b.need ≤ applied.toNat)
    let pass := whole && match_
    let st : Status := if !whole then .incomplete else if pass then .ok else .refused
    let s1 := { s with res := { s.res with bists := s.res.bists.erase b } }
    let gathered := s.res.tests.find? (fun t => some t.c = b.c)
    let out := match gathered with | some t => nthD 0 t.words 4 | none => 0
    let bad := match u with | .pos p => p.val | .rsp q => q.val
    let words := [applied.toNat, if whole && !match_ then bad else 0, 0, 0, out, sig.toNat % 2 ^ 32, sig.toNat / 2 ^ 32]
    match u with
    | .pos p =>
      let s2 := ((((s1.wr F.BIST_STATUS RES st.code p.val).wr F.BIST_PASS RES (bit pass) p.val).incr F.BIST_RUNS RES 1 p.val).wr F.BIST_APPLIED
        RES applied.toNat p.val)
      let s3 := (s2.wr F.BIST_SIG_LO RES sig.toNat p.val).wr F.BIST_SIG_HI RES (sig.toNat / 2 ^ 32) p.val
      let st1 : Status := match gathered with | some t => st.first t.status | none => st
      let s4 : State := { s3 with res := { s3.res with tests := s3.res.tests.filter (fun (t : TestRes) => some t.c != b.c) } }.completeOpt b.c st1 words
      if s4.rd F.POS_STATE DEV p.val ≠ 3 then
        (match s4.posPatch p.val with
         | some k => s4.givePatch k
         | none => s4)
      else if !whole then s4.ownBist u
      else if pass then (if s4.res.bists.any (fun b => b.u == u) then s4 else s4.setPos p.val 1)
      else (({ s4 with res := { s4.res with bists := s4.res.bists.filter (fun b => b.u != u) } } : State).setPos p.val 4).event .selftestFail blkPATCH p.val
    | .rsp q =>
      let s2 := if 32 ≤ q.val then
          (((((s1.wr F.RBIST_STATUS RES st.code (q.val - 32)).wr F.RBIST_PASS RES (bit pass) (q.val - 32)).incr F.RBIST_RUNS RES 1
            (q.val - 32)).wr F.RBIST_APPLIED RES applied.toNat (q.val - 32)).wr F.RBIST_SIG_LO RES sig.toNat (q.val - 32)).wr
            F.RBIST_SIG_HI RES (sig.toNat / 2 ^ 32) (q.val - 32)
        else s1
      let s3 := s2.completeOpt b.c st words
      if !whole then s3.ownBist u
      else if pass then s3.showRsps
      else ((s3.wr F.RSPH_RETIRED (RIBBON q.val) 1).showRsps).event .selftestFail blkRIBBON q.val

/-- A test that waits may begin (R469): nothing else is tested there, and its position is vacated. -/
def State.bistReady (s : State) (b : BistRun) : Bool :=
  (s.res.bists.find? (fun x => x.u == b.u) == some b) && match b.u with
    | .pos p => s.rd F.POS_STATE DEV p.val == 3
    | .rsp q => (List.range 32).all (fun r => s.rsp r != q.val) && !s.flag F.RSPH_MOVING (RIBBON q.val)

/-- A march that loses its conditions (R478, R487): a preserving one has restored its row. -/
def State.stopMarch (s : State) (m : MarchRun) : State :=
  let s1 := (((s.wr F.MARCH_STATUS RES Status.conditions.code).wr F.MARCH_UNIT RES (bit m.bank.isNone)).wr F.MARCH_BANK RES (m.bank.getD 0)).wr
    F.MARCH_LPATCH RES m.k
  (((s1.wr F.MARCH_FAILED RES 0).wr F.MARCH_FAIL_ADDR RES 0).wr F.MARCH_FAIL_BIT RES 0).wr F.MARCH_ROWS_USED RES 0 |>.wr F.MARCH_COLS_USED RES 0

/-- The tests that a boundary starts or stops (R469, R473, R478), and the stitches of forced ones outside a quiet window (R481). -/
def State.testBoundary (s : State) : State :=
  if s.testOk then
    let new := s.res.bists.filter (fun b => !b.on && s.bistReady b)
    let s1 := forEach (fun (b : BistRun) s => (match b.c with | some c => s.setPhase c .running | none => s).need (bistGates b.u)) new s
    { s1 with res := { s1.res with
      bists := s1.res.bists.map (fun b => if new.contains b then { b with on := true } else b)
      tests := s1.res.tests.map (fun t =>
        if t.status = .forced ∧ ¬ s1.flag F.PQ_OPEN (s1.pb t.k) then { t with words := setNth t.words 4 (nthD 0 t.words 4 + 1) } else t) } }
  else
    let vacated := fun (u : BistUnit) => match u with | .pos p => s.rd F.POS_STATE DEV p.val == 3 | .rsp _ => true
    let s1 := forEach (fun (b : BistRun) s => s.endRuns b.u .conditions (vacated b.u)) (s.res.bists.filter (fun b => b.on)) s
    let s2 := forEach (fun m s => s.stopMarch m) s1.res.marches { s1 with res := { s1.res with marches := [], tests := [] } }
    let s3 := forEach (fun (t : TestRes) s => s.complete t.c .conditions t.words) s1.res.tests s2
    forEach (fun k s => s.givePatch k) s.res.testing s3

/-- Leaves a marched unit at 0 (R474). -/
def State.clearUnit (s : State) (k pos : Nat) (bank : Option Nat) : State :=
  match bank with
  | some b => s.setBank pos b { s.bankAt pos b with words := [], poison := [], lost := none }
  | none => s.setBolt k { s.boltAt k with mem := [], meta_ := [], lost := [] }

/-- MARCH_DONE (R474, R476, R483, R487). -/
def execMarchDone (k : LPatch) (r : MarchResult) (s : State) : Out :=
  let bank := if r.bolt then none else some r.bank.val
  actOn s (if s.halted then none else s.res.marches.find? (fun m => m.k == k.val && m.bank == bank)) fun m =>
    let s1 := { s with res := { s.res with marches := s.res.marches.erase m } }
    let u : MemUnit := match bank with | some b => bankUnit m.pos b | none => boltUnit k.val
    let s1 := if m.preserve then forEach (fun e s => if s.halted then s else s.scrubRead u e.1.toNat e.2) r.seen s1 else s1
    let fix := { unitRows s1 u with kept := if r.unrepaired then (unitRows s1 u).kept else [] }
    let s2 := if m.preserve then s1.setRows u { fix with used := fix.used + r.rowsUsed.toNat }
      else (s1.setRowsLeft u (unitRowsLeft s1 u - r.rowsUsed.toNat)).setRows u fix
    let s3 := ((((s2.wr F.MARCH_STATUS RES 0).wr F.MARCH_UNIT RES (bit r.bolt)).wr F.MARCH_BANK RES r.bank.val).wr F.MARCH_LPATCH RES k.val).wr
      F.MARCH_FAILED RES (bit r.failed)
    let s4 := (((s3.wr F.MARCH_FAIL_ADDR RES r.addr.toNat).wr F.MARCH_FAIL_BIT RES r.bitPos.toNat).wr F.MARCH_ROWS_USED RES r.rowsUsed.toNat).wr
      F.MARCH_COLS_USED RES r.colsUsed.toNat
    let s5 := if m.preserve then s4 else s4.clearUnit k.val m.pos bank
    let s6 := if r.unrepaired then s5.event .spareExhausted (if r.bolt then blkBOLT else blkPATCH) k.val [r.bank.val, r.addr.toNat] else s5
    let upd := fun (t : TestRes) =>
      if t.c = m.c then
        let w := fun i => nthD 0 t.words i
        let first := r.failed && w 2 == 0 && w 1 == 0
        { t with words := [w 0 + r.rowsTested.toNat, if first then r.addr.toNat else w 1, if first then r.bitPos.toNat else w 2,
                           w 3 + r.rowsUsed.toNat + 65536 * r.colsUsed.toNat, w 4, 0, 0] }
      else t
    let s7 := { s6 with res := { s6.res with tests := s6.res.tests.map upd } }
    if s7.res.marches.any (fun x => x.c == m.c) then s7
    else
      match s7.res.tests.find? (fun t => t.c = m.c) with
      | none => s7
      | some t =>
        ({ s7 with res := { s7.res with tests := s7.res.tests.filter (fun x => x.c != m.c) } }.complete t.c t.status t.words).givePatch k.val

/-- Self-tests that wait for a quiet window are taken up when one covers their duration, those with FORCE at once (R481); with the conditions
lost they end (R478). A test whose position has been vacated meanwhile waits no more. -/
def State.wakeTests (s : State) : State :=
  forEach (fun (w : TestWait) s =>
    let s1 : State := { s with res := { s.res with waits := s.res.waits.erase w } }
    match s.cmd w.c with
    | none => s1
    | some d =>
      let begun := fun (b : BistRun) => b.c == some d.c && b.on
      let here := if d.selfKind = 1 then s.posPatch (min (d.param 9 1) 17) else some w.k
      match here with
      | none => s1
      | some k =>
        let window := s.flag F.PQ_OPEN (s.pb k) && decide (s.testStitches d ≤ s.rd F.PQ_QUIET_LEN (s.pb k))
        if s.res.bists.any begun then s1
        else if ¬ (d.force ∨ window) then s
        else if !s.testOk then
          { s1 with res := { s1.res with bists := s1.res.bists.filter (fun b => b.c != some d.c) } }.complete d.c .conditions
        else
          let s2 := s1.takePatch k
          if d.selfKind = 1 then
            let s3 := (s2.setPhase d.c .running).openTest d.c k (d.force && !window)
            { s3 with res := { s3.res with bists := s3.res.bists.map (fun b => if b.c = some d.c then { b with on := true } else b) } }
          else s2.startMarch { d with status := if d.force && !window then .forced else .ok } (s2.ppos k) false
            (d.selfKind == 4 || bitAt (d.param 11 1) 0) (if d.selfKind = 4 then [] else d.marchBanks)) s.res.waits s

/-- The command is a request to a lane or a bolt, which have no spare (R480); the rest of L1 to L7 waits for the end of the self-tests (R518). -/
def DispCmd.noSpare (d : DispCmd) : Bool := d.ofLane || d.opcode == 0x22 || d.opcode == 0x23

/-- HELD_REQUEST_TIMEOUT (R480): a request held behind a start-up self-test is served after 4,096 stitches. -/
def execHeldRequestTimeout (c : CmdRef) (s : State) : Out :=
  actOn s (match s.cmd c with
    | some d => if d.phase = .held ∧ d.noSpare = true ∧ 4096 ≤ (s.stitch - d.at_).toNat ∧ s.rd F.ST_PHASE DEV = 7 ∧ ¬ s.halted then some d else none
    | none => none) fun d => s.setPhase d.c .fresh

/-- PQUIET_WRITE (R482). -/
def execPquietWrite (k : LPatch) (v : W32) (be : BitVec 4) (s : State) : Out :=
  act s (s.cfg.released && !s.halted) (s.viaPatch k.val 0x30 v be.toNat (s.writePquiet k.val v be.toNat))

/-- The quiet windows at a boundary (R482). -/
def State.pquietBoundary (s : State) : State :=
  let s1 := forN (fun k s =>
    let b := s.pb k
    match s.res.pq.find? (fun e => e.1 == k) with
    | some e => (s.wr F.PQ_QUIET_LEN b e.2).wr F.PQ_OPEN b (bit (decide (e.2 ≠ 0)))
    | none =>
      if s.flag F.PQ_OPEN b then
        let n := s.rd F.PQ_QUIET_LEN b - 1
        (s.wr F.PQ_QUIET_LEN b n).wr F.PQ_OPEN b (bit (decide (n ≠ 0)))
      else s) 16 s
  { s1 with res := { s1.res with pq := [] } }

end Sys2Proof.Machine
end

