-- ==== Sys2Proof/Machine/Resets.lean ====
section
/-! DEFINITION. Layer logic resets (R525 to R530). -/

namespace Sys2Proof.Machine

/-- A register of a PATCH block whose offset `f` names. -/
def inPatch (f : Nat → Bool) (a : Nat) : Bool := decide (0x20000 ≤ a) && decide (a < 0x32000) && f (a % 0x1000)

/-- A check-value unit of the lower halves: receive units 0 to 7, free units 16 and 17 (R297). -/
def cvLower (u : Nat) : Bool := decide (u < 8) || u == 16 || u == 17

/-- Ends every command whose work ends in a layer under reset (R527). -/
def State.endReset (s : State) (layer : Nat) : State :=
  forEach (fun d s => if d.layer = some layer then s.complete d.c .targetReset else s) s.host.cmds s

/-- Patches whose disturbing tests have ended are given back (R481). -/
def State.giveTested (s : State) : State :=
  forEach (fun k (s : State) =>
    if s.res.marches.any (fun m => m.k == k && !m.preserve) || s.res.bists.any (fun b => b.u == .pos (Fin.ofNat 18 (s.ppos k))) then s
    else s.givePatch k) s.res.testing s

/-- The self-tests of positions and the marches that a layer reset cuts short (R473, R527). -/
def State.cutTests (s : State) (f : MarchRun → Bool) : State :=
  let vacated := fun (u : BistUnit) => match u with | .pos p => s.rd F.POS_STATE DEV p.val == 3 | .rsp _ => true
  let hit := fun (b : BistRun) => b.on && (match b.u with | .pos _ => true | .rsp _ => false)
  ((forEach (fun (b : BistRun) (s : State) => s.endRuns b.u .incomplete (vacated b.u)) (s.res.bists.filter hit) s).cutMarchesOf f .targetReset).giveTested

/-- Registers of DEV in logic that a reset of L0 reaches: the ribbon map, the head controller's own, and LRESET (R525, R540). -/
def devReset (a : Nat) : Bool :=
  (decide (DEV + 0x300 ≤ a) && decide (a < DEV + 0x380)) || (decide (DEV + 0x600 ≤ a) && decide (a < DEV + 0x900)) || a == DEV + 0xC10

/-- L0 (R525): every lane leaves UP, and what the lanes and the exchange network hold is lost. The record of a handover in progress stays with
the position state. -/
def State.resetL0 (s0 : State) : State :=
  let b := State.reset
  let s := s0.endReset 0
  let s1 := forEach (fun (b : BistRun) (s : State) => s.endRuns b.u .incomplete false) (s.res.bists.filter (fun b => match b.u with | .rsp _ => b.on | .pos _ => false))
    { s with lanes := s.lanes.map (fun (e : Nat × LaneSt) => (e.1, { e.2 with eb := [] })) }
  let s2 := forN (fun l s => if s.ln F.LN_LSTATE l = 2 then (s.leaveUp l).leaveStream l else s) 256 s1
  let word := s2.reg RES
  let hits := fun a => devReset a || (decide (RES ≤ a) && decide (a < RES + 0x1000))
    || (decide (0xA000 ≤ a) && decide (a < 0x20000)) || (decide (TRIG ≤ a) && decide (a < TRIG + 0x1000))
  let s3 := s2.hostReset.resetRegs hits
  let s4 := if s3.res.cur.isSome then s3.setReg RES word else s3.wr F.RES_QUEUED RES s3.res.queue.length
  let s5 := { s4 with
    procs := s4.procs.filter (fun e => decide (16 ≤ e.1) && decide (e.1 < 32))
    lanes := []
    ribs := []
    fabs := s4.fabs.map (fun (e : Nat × FabSt) => (e.1, { e.2 with sendQ := e.2.sendQ.filter (fun m => !m.inNet) }))
    trig := b.trig }
  (forN (fun r (s : State) => s.showRibbon r) 32 s5).showPositions.showRsps

/-- Accesses of the management windows, which lie in L1, to banks of the layer end (R527); called once the registers are at their Reset
values. -/
def State.endWindows (s : State) (lower : Bool) : State :=
  forEach (fun (e : Nat × WinReq) s =>
    if lower || decide (4 ≤ e.2.bank) then
      { (s.wr F.BK_BUSY (PATCH e.1) 0).wr F.BK_STATUS (PATCH e.1) Status.targetReset.code with bankWin := Tab.del s.bankWin e.1 }
    else s) s.bankWin s

/-- A register keeps its field through a layer reset. -/
def State.keepField (t s : State) (f : Fld) (base : Nat) (i : Nat := 0) : State := t.wr f base (s.rd f base i) i

/-- The queue controllers of banks return to reset with their trackers; the banks keep their contents. -/
def BankSt.queueReset (b : BankSt) : BankSt := { b with owner := 0, req := none, qhead := 0, qtail := 0, qlevel := 0, track := [] }

/-- L1 (R525 to R527): the sequencers read EMPTY, captures are IDLE, and plane requests are lost; the resident planes, the directory of stored
planes, RUN of each capture and the rows left stay. -/
def State.resetL1 (s0 : State) : State :=
  let s := (s0.endReset 1).cutTests (fun m => m.bank.any (· < 4))
  let kept := fun o => decide (0x104 ≤ o) && decide (o < 0x140)
  let s1 := s.resetRegs (inPatch (fun o => patchLower o && !kept o))
  let s2 := forN (fun p t => forN (fun b t => t.keepField s F.BK_ROWS_LEFT (PATCH p) b) 4 (t.keepField s F.CAPS_RUN (PATCH p))) 18 s1
  let s3 := forN (fun k s =>
    let x := s.fabAt k
    (((s.setFab k { x with reqs := [], heldReqs := [], armed := none, loadNext := none, lines := [], logNext := 0, sendQ := [], recvQ := [],
                           rxUnit := [] }).wr F.PLS_ARMED (s.pb k) 0).wr F.PLS_SWAP_PEND (s.pb k) 0).restartLoad k) 16 s2
  let s4 := { s3 with
    procs := s3.procs.filter (fun e => !(decide (16 ≤ e.1) && decide (e.1 < 32)))
    caps := []
    cvs := s3.cvs.filter (fun e => !cvLower (e.1 % 32))
    banks := s3.banks.map (fun (e : Nat × BankSt) => if e.1 % 8 < 4 then (e.1, e.2.queueReset) else e) }
  (forEach (fun (e : Nat × CapSt) s => s.modCap e.1 (fun x => { x with held := e.2.held })) s3.caps s4 : State).endWindows true

/-- L2 (R525, R527): a load aborts with ST_TARGET_RESET and no fallback; staged settings are lost. -/
def State.resetL2 (s : State) : State :=
  let s1 := match s.cfg.load with
    | some l => s.abortLoad { l with fallback := true } (s.rd F.CFG_CAUSE CFG) .targetReset
    | none => s
  let st := s1.rd F.CFG_STATE CFG
  let s2 := (s1.endReset 2).resetRegs (fun a => decide (CFG ≤ a) && decide (a < CFG + 0x1000))
  ({ s2 with cfg := { s2.cfg with staged := [], storing := none, storeWait := [] } }.wr F.CFG_STATE CFG st).loadSettings.showSlots.showJournal

/-- L3 (R525, R527, R43): the pattern engines, the bolt controllers with their buckets, trackers and copies of the key; epochs and rows left stay
with the DRAM. -/
def State.resetL3 (s0 : State) : State :=
  let s := (s0.endReset 3).cutTests (fun m => m.bank.all (4 ≤ ·))
  let bolt := fun o => decide (o < 0x1C) || (decide (0x100 ≤ o) && decide (o < 0x110))
  let s1 := s.resetRegs (fun a => inPatch patchUpper a || (decide (0x50000 ≤ a) && decide (a < 0x54000) && bolt (a % 0x400)))
  let s2 := forN (fun p t => forN (fun b t => t.keepField s F.BK_ROWS_LEFT (PATCH p) (4 + b)) 4 t) 18 s1
  let s3 := forN (fun k t =>
    let t1 := (t.keepField s F.BOLT_ROWS_LEFT (BOLT k)).showRekey k
    if s.boltWin.any (fun e => e.1 == k) then
      { t1.wr F.BOLT_WIN_STATUS (BOLT k) Status.targetReset.code with boltWin := Tab.del t1.boltWin k } else t1) 16 s2
  let s4 := forN (fun k s => s.restartLoad k) 16 s3
  (({ s4 with
    pats := []
    cvs := s4.cvs.filter (fun e => cvLower (e.1 % 32))
    banks := s4.banks.map (fun e => if 4 ≤ e.1 % 8 then (e.1, e.2.queueReset) else e)
    bolts := s4.bolts.map (fun e => (e.1, { e.2 with track := [] })) } : State).endWindows false).dropCopies keysL3

/-- Takes every patch out of release, or releases those with a plane again from their resident planes (R526). -/
def State.releaseFabs (s : State) (on : Bool) : State :=
  forN (fun k s => if on then s.releasePatch k else s.holdPatch k) 16 s

/-- Layer logic resets at a boundary (R525, R526, R528): held while a handover is in progress where L1 or L3 is named. `p` is the period of
the stitch that ended. -/
def State.layerBoundary (s : State) (p : Nat) : State :=
  let s0 := { s with start := { s.start with lrOn := s.start.lrOn.map (fun e => (e.1, e.2 - p)) } }
  let wait := decide (2 ≤ s.rd F.RES_PHASE RES)
  let held := if wait then s.start.lrHeld else 0
  let n := if wait then s.start.lrReq else s.start.lrReq ||| s.start.lrHeld
  if s.start.lrReq = 0 ∧ s.start.lrHeld = 0 then s0
  else
    let on := (List.range 8).foldl (fun (t : Tab Nat) k => if bitAt n k then t.put k 6400 else t) s0.start.lrOn
    let s1 : State := { s0 with start := { s0.start with lrReq := 0, lrHeld := held, lrOn := on } }
    let s2 := if bitAt n 0 then s1.resetL0 else s1
    let s3 := if bitAt n 1 then s2.resetL1 else s2
    let s4 := if bitAt n 2 then s3.resetL2 else s3
    let s5 := if bitAt n 3 then s4.resetL3 else s4
    let s6 := if bitAt n 1 || bitAt n 3 then s5.releaseFabs false else s5
    s6.wr F.LR_PEND DEV held

/-- Layers whose 2 µs are over. -/
def State.resetOver (s : State) : List Nat := (s.start.lrOn.filter (fun e => e.2 == 0)).map (fun e => e.1)

/-- LAYER_RESET_END (R525, R526): the patches are released again once neither L1 nor L3 is in reset. -/
def execLayerResetEnd (s : State) : Out :=
  let past := s.resetOver
  let done := past.foldl (fun n k => n ||| 2 ^ k) (s.rd F.LR_DONE DEV)
  let s1 : State := { s with start := { s.start with lrOn := s.start.lrOn.filter (fun e => e.2 != 0) } }
  let s2 := if 3 ∈ past then s1.loadCopies keysL3 else s1
  let s3 := if s.patchReset ∧ ¬ s1.patchReset then s2.releaseFabs true else s2
  act s (past != [] && !s.halted) (s3.wr F.LR_DONE DEV done)

end Sys2Proof.Machine
end

