-- ==== Sys2Proof/Machine/Boundary.lean ====
section
/-! DEFINITION. The stitch boundary (R51): its four steps over every part of the device. -/

namespace Sys2Proof.Machine

/-! The counter and the period (R55, R59, R408). -/

/-- A follower's counter is loaded and its epoch log cleared (R66, R408). Programs that do not fit the head's period are unloaded; a change
of its own that was pending gives way to what the head has announced (R64). -/
def State.takeAlign (s : State) (a : AlignSt) : State :=
  let s1 := forN (fun e s => ((((((s.wr F.EP_STITCH_LO DEV 0 e).wr F.EP_STITCH_HI DEV 0 e).wr F.EP_ROOT_LO DEV 0 e).wr F.EP_ROOT_HI DEV 0 e).wr
    F.EP_N DEV 0 e).wr F.EP_VALID DEV 0 e)) 8 s
  let s2 := ((((s1.wr F.STC_N_NOW DEV a.n).wr F.STC_N_REQ DEV a.n).wr F.BUD_B_NOW DEV (budget a.n)).wr F.BUD_B_ADMIT DEV (budget a.n)).wr
    F.STC_PEND DEV 0
  let s3 : State := { s2 with
    stitch := a.stitch
    off := 0
    time := { s2.time with root := a.root, run := s.time.run + s.period + a.gap, since := a.stitch, before := s.period, due := 0, announce := false }
    sys := { s2.sys with align := none, alignEpoch := some (a.root, a.n) } }
  let s4 := { s3 with sys := { s3.sys with headPeriod := none } }
  let s5 := match s3.sys.headPeriod with
    | some (n, at_) => if 0 < (at_ - a.stitch).toInt then s4.takePeriod n at_ else s4
    | none => s4
  s5.unloadOver (budget a.n)

/-- The counter opens the next stitch (R55, R59): 0 at the first boundary of a start, the loaded number at an alignment. `p` is the period
of the stitch that ended. -/
def State.advance (s : State) (p : Nat) : State :=
  if ¬ s.time.counting then
    let s1 : State := { s with stitch := 0, off := 0, time := { s.time with root := 0, run := s.rootNow, since := 0, before := s.period, counting := true } }
    s1.epochEntry 0 0 0 (s.rd F.STC_N_NOW DEV)
  else
    match s.sys.align with
    | some a => s.takeAlign a
    | none =>
      let s1 : State := { s with stitch := s.stitch + 1, off := 0, time := { s.time with root := s.time.root + p, run := s.time.run + p } }
      match s.sys.alignEpoch with
      | none => s1
      | some (root, n) => { s1.epochEntry 0 s.stitch.toNat root n with sys := { s1.sys with alignEpoch := none } }

/-- A stitch that an announcement names has come. -/
def State.reached (s : State) (at_ : W64) : Bool := decide (0 ≤ (s.stitch - at_).toInt)

/-! Out of release and release (R441 to R444). -/

/-- A logical patch goes out of release with the device (R441). -/
def State.takePatchOut (s : State) (k : Nat) : State :=
  let b := s.pb k
  let s1 := (((s.holdPatch k).wr F.PLS_LOADING b 0).wr F.PLS_SWAP_PEND b 0).wr F.PLS_ARMED b 0
  let s2 := s1.setFab k { s1.fabAt k with reqs := [], heldReqs := [], armed := none, loadNext := none, loadDone := false, loadLeft := 0, balls := [] }
  (s2.haltCap k none).haltPat k 15 none

/-- A processor's program stops with the device (R441). -/
def State.stopForLoad (s : State) (key : Nat) : State :=
  let b := s.seqBase key
  if s.rd F.PSTATE b ≠ 1 then s
  else ((s.wr F.PSTATE b 2).wr F.BANK b 0).modProcAt key (fun x => { x with active := false, back := false, wait := none })

/-- The device goes out of release at step 3 (R441, R444): programs, capture, playback and offloads stop. A load that has aborted by then leaves it
ABORTED. -/
def State.takeOutNow (s : State) : State :=
  if ¬ s.cfg.takeOut then s
  else
    let s1 : State := { s.wr F.CFG_STATE CFG (if s.cfg.load.isSome then 1 else 3) with cfg := { s.cfg with takeOut := false, released := false } }
    let s2 := forN (fun k s => s.takePatchOut k) 16 s1
    let s3 := forN (fun i s => s.stopForLoad (16 + i)) 48 s2
    let s4 := (forN (fun n s => if s.rd F.HC_PSTATE DEV n = 1 then s.wr F.HC_PSTATE DEV 2 n else s) 16 s3).showSum.modProcAt 0
      (fun x => { x with active := false })
    let s5 := forEach (fun e s => if e.2.source.isNone then s.endChan e.1 else s) s4.host.chans s4
    forN (fun l s => if s.ln F.LN_LSTATE l = 0 ∨ s.ln F.LN_LSTATE l = 4 then s else s.laneTo l 0) 256 s5

/-- A plane that a load has written complete (R206, R214, R427, R445): active, shadow or stored; a stored slot becomes VALID at once, or
after the drain of a transfer in progress. -/
def State.placePlane (s : State) (k pl id : Nat) : State :=
  let b := s.pb k
  if pl = 0 then (s.setFab k { s.fabAt k with active := some id }).wr F.PLS_ACTIVE_SRC b 7
  else if pl = 1 then ((s.setFab k { s.fabAt k with shadow := some id, sSt := initState (s.fabAt k).sCfg }).wr F.PLS_SHADOW_SRC b 7).wr F.PLS_SHADOW_VALID b 1
  else if s.hover k && decide (2 ≤ s.rd F.RES_PHASE RES) then
    { s with cfg := { s.cfg with heldFrames := s.cfg.heldFrames ++ [(k, pl - 2, id)] } }
  else (s.wr F.DIR_VALID b 1 (pl - 2)).wr F.DIR_PLANE_ID b id (pl - 2)

/-- The device's release (R442, R564): SETTING pairs, logical patches, then clocks, lanes and balls. T_RELEASE adds to
what the root clock has measured since the start what passed before it ran, which is left open (assumption 106). -/
def State.release (s : State) (l : LoadSt) : State :=
  let s1 := forEach (fun (p : W32 × W32) s => s.busWrite .host (p.1.toNat / 4 * 4) p.2 15) l.pairs s
  let s2 := forN (fun k s => s.releasePatch k) 16 s1
  let s3 : State := { s2 with cfg := { s2.cfg with released := true } }
  let s4 := ((s3.took.wr F.CFG_STATE CFG 2).wr F.ST_PHASE DEV 10).wr F.ST_T_RELEASE DEV
    (min 1048575 ((s3.rootNow - s3.start.began) / 3200 + s3.freeWord.toNat % 1048576))
  (forN (fun l s => if s.ln F.LN_LSTATE l = 0 ∧ bitsOf 0 0 (s.laneAt l).ctl = 1 then s.enterAcquire l else s) 256 s4).releaseTap

/-- Stored slots whose load has ended become VALID, and a load whose END was taken completes (R427, R440 to R442). -/
def State.loadBoundary (s : State) : State :=
  let s1 := forEach (fun (f : Nat × Nat × Nat) s => s.placePlane f.1 (f.2.1 + 2) f.2.2) s.cfg.slotValid { s with cfg := { s.cfg with slotValid := [] } }
  match s1.cfg.load with
  | none => s1
  | some l =>
    if ¬ l.ended ∨ l.done = true then s1
    else
      let s2 := forEach (fun (p : Nat × Nat × Nat) s => s.placePlane p.1 p.2.1 p.2.2) l.planes s1
      let s3 := if l.full then s2.release l else s2
      let s4 := (s3.wr F.CFG_LAST_STATUS CFG 0).completeOpt l.c .ok (l.words 0)
      s4.setLoad (if l.sectionsLeft = 0 then none else some { l with done := true, c := none })

/-! The system (R406, R410). -/

/-- The stitch of READY has come (R406, R409, R411, R421). -/
def State.readyBoundary (s : State) : State :=
  match s.sys.ready with
  | none => s
  | some r =>
    if ¬ s.reached r.at_ then s
    else
      let s1 := ((((s.wr F.SYS_COUNT DEV r.count).wr F.SYS_WIDE DEV (bit r.wide)).wr F.TRIG_D TRIG r.d).wr F.SYS_D_CALC DEV r.dCalc).wr F.SYS_L_MAX DEV
        r.lMax
      let s2 := ((s1.wr F.SYS_D_SHORT DEV 0).wr F.SYS_SYSMODE DEV (bit (decide (16 ≤ r.count) || s1.flag F.SYS_SYSMODE_ON DEV))).wr F.SYS_STATE DEV
        (if r.wide then 4 else 2)
      { s2 with sys := { s2.sys with ready := none, claimed := false } }.showSystem.showSync

/-- The root of the time tree: device 0, or with that HALTED the lowest-numbered device that is neither halted nor absent (R410, R419). -/
def State.timeRoot (s : State) : Nat :=
  if ¬ s.flag F.SYS_HALTED DEV 0 then 0
  else match (List.range (s.rd F.SYS_COUNT DEV)).find? (fun d => !s.flag F.SYS_HALTED DEV d && !s.flag F.SYS_ABSENT DEV d) with
    | some d => d
    | none => s.devnum

/-- A follower whose parent seam went DOWN takes the next neighbour as parent: the one its route table names toward the root (R410). -/
def State.parentBoundary (s : State) : State :=
  if ¬ s.sys.parentLost then s
  else
    let s1 : State := { s with sys := { s.sys with parentLost := false } }
    let n := s.rd F.SYS_PRI DEV s.timeRoot
    let s2 := forN (fun m s => if s.rd F.SEAM_ROLE (SEAM m) = 1 then s.wr F.SEAM_ROLE (SEAM m) 0 else s) 6 s1
    if s.isHead then s1 else if s.timeRoot = s.devnum then s2 else if 6 ≤ n ∨ ¬ s.seamUp n then s1 else s2.wr F.SEAM_ROLE (SEAM n) 1

/-- The event of a restart is recorded once the ring is set up (R491, R512). -/
def State.reportBoundary (s : State) : State :=
  if s.trig.based then
    { s with
      evq := s.evq ++ s.hk.reportClk.toList ++ s.hk.report.toList
      hk := { s.hk with report := none, reportClk := none } }
  else s

/-! The four steps. -/

/-- Step 1 (R51, R305, R317, R325, R465): the latch, raises carried over from a stitch before, and TRIGGER events. Answers the lines. -/
def State.stepOne (s : State) : State × List (Nat × Raise) :=
  let r := s.latchLines
  let lines := r.2.map (fun e => e.1)
  let s1 := (r.1.carryRaises true).holdLines r.2
  let s2 := if lines = [] then s1
    else
      let s3 := forN (fun k s => if s.patchFrozen k then s else s.watchTrigger (16 + k) lines) 16 s1
      forN (fun i s => s.watchTrigger (32 + i) lines) 32 s3
  (s2, r.2)

/-- Step 3 for the engines of a logical patch that no handover has frozen: capture trigger, pattern engine, planes, contention and capture.
`p` is the period of the stitch that ended. -/
def State.patchStep (s : State) (p : Nat) (lines : List (Nat × Raise)) (changed : List Nat) (k : Nat) : State :=
  if s.patchFrozen k then s
  else
    let ls := lines.map (fun e => e.1)
    let s1 := forEach (fun e s => s.capLine k e.1 e.2.ts) (s.latchedNow lines) s
    (((s1.patBoundary ls k).planeBoundary p ls k).lineBoundary k).capBoundary changed k

/-- Step 3 (R51), part one: what was written since the last boundary takes effect, in lanes, queues, check values, bindings and bank
ownership. -/
def State.stepThreeA (s : State) (p : Nat) : State :=
  let s1 := s.takeOutNow.laneBoundary p
  let s2 := forN (fun k s => (s.queueBoundary k).cvBoundary k) 16 s1
  let s3 := (s2.keepMasks.applyDirty.carryRaises false).groupBoundary
  (forN (fun k s => s.ownerBoundary k) 16 s3).lateBoundary.bindBoundary

/-- Step 3 (R51), part two: the engines, the transmitters, posts, gates, couplers, handovers, resets, clocks, tests and moves. -/
def State.stepThreeB (s : State) (p : Nat) (lines : List (Nat × Raise)) (changed : List (List Nat)) : State :=
  let s1 := forN (fun k s => s.patchStep p lines (nthD [] changed k) k) 16 s
  let s1 := s1.ebBoundary p
  let s2 := forEach (fun l s => s.drainBoundary l) (s1.lanes.map (fun e => e.1)) s1
  let s3 := forEach (fun key s => s.landPosts key) (s2.procs.map (fun e => e.1)) s2
  let s4 := ((s3.gateBoundary.steerBoundary.resendBoundary.pquietBoundary.handBoundary p).exhBoundary).layerBoundary p
  let s5 := s4.clockBoundary.bandBoundary.phaseBoundary.refoutBoundary
  let s6 := s5.testBoundary.wakeTests
  let s7 := forN (fun r s => (s.moveBoundary p r).recordTo r s.time.run) 32 s6
  let s8 := forEach (fun e s => s.rowBoundary (bankUnit (e.1 / 8) (e.1 % 8))) s7.banks s7
  forEach (fun e s => s.rowBoundary (boltUnit e.1)) s8.bolts s8

/-- The parts of a boundary that go on in a device that is halted (R358): completed commands and the host's vectors. -/
def State.hostBoundary (s : State) : State := s.readyAll.flushVectors.dispatch

/-- Everything that a boundary does in a device that runs, once the counter has opened the stitch. -/
def State.runBoundary (s : State) (p : Nat) : State :=
  let r := (forN (fun k s => s.closeWindows k) 16 s.snapshot.evqBoundary.endDrain).stepOne
  let s1 := r.1.periodBoundary
  let s2 := (forN (fun i s => s.deposit i) 32 s1).stepTwo.earlyBoundary
  let s3 := s2.chanBoundary.hostBoundary
  let changed := (List.range 16).map s3.chunkEnds
  let s4 := ((s3.stepThreeA p).stepThreeB p r.2 changed).loadBoundary
  s4.showService.readyBoundary.parentBoundary.reportBoundary.driveBalls

/-- STITCH_BOUNDARY (R51, R52, R55, R523). Counters are copied for step 4 before step 3 changes them. -/
def execStitchBoundary (s : State) : Out :=
  let p := s.period
  let s1 := ((forN (fun k s => s.clockStitch k) 16 s).advance p).flagBoundary
  let reset : Bool := match s1.sys.resetAt with | some b => s1.reached b | none => false
  act s s.clk.locked
    (if reset then s1.fullReset 3
     else if s1.halted then s1.hostBoundary
     else s1.runBoundary p)

end Sys2Proof.Machine
end

