-- ==== Sys2Proof/Machine/GraovVector.lean ====
section
/-! DEFINITION. Graov-S instructions: multiply-accumulate, filter taps, add-compare-select and the vector group (R146 to R152). -/

namespace Sys2Proof.Machine

/-- The key of a ribbon's signal processor. -/
def rspKey (r : Ribbon) : Nat := 32 + r.val

/-- mac: vd.i = sat48(vd.i + A_i × B_i) (R148). -/
def execMac (r : Ribbon) (vd : BitVec 3) (ra rb : BitVec 5) (s : State) : Out :=
  let key := rspKey r
  graov (.s r) (wordR 0x30 vd.toNat ra.toNat rb.toNat 0) 1 s
    (s.setVs key vd.toNat (fun i =>
      BitVec.ofInt 48 (sat48 ((s.v key vd.toNat i).toInt + s.half key ra.toNat i * s.half key rb.toNat i))))

/-- One lane of a filter tap: the accumulation with the coefficient before any update, the update, and the move (R149). -/
def tapLane (key vd ea : Nat) (upd mov : Bool) (i : Nat) (s : State) : State :=
  let x := s.procAt key
  let c := toSigned 16 (s.dload key (ea + 2 * i) 2)
  let smp := (s.dlAt key i x.tp.toNat).toInt
  let e := (x.e.get (fun _ => 0) i).toInt
  let s1 := s.setV key vd i (BitVec.ofInt 48 (sat48 ((s.v key vd i).toInt + c * smp)))
  let s2 := if upd then s1.dstore key (ea + 2 * i) 2 (ofSigned 16 (sat16 (c + rnd (e * smp) x.mu.toNat))) else s1
  if mov && decide (x.tp.toNat < 15) then s2.setDl key i (x.tp.toNat + 1) (s.dlAt key i x.tp.toNat) else s2

/-- A filter tap on all eight lanes (R149). -/
def tap (r : Ribbon) (size : Nat) (upd mov : Bool) (vd a o : BitVec 3) (imm : BitVec 11) (s : State) : Out :=
  let key := rspKey r
  let ea := effAddr (s.a key a.toNat) imm 0x8000 16
  graov (.s r) (wordM 0x31 vd.toNat a.toNat o.toNat size imm.toNat) 1 s
    (((forEach (tapLane key vd.toNat ea upd mov) (List.range 8) (s.recordSeen key ea)).modProcAt key (fun x => { x with tp := x.tp - 1 })).postMod key
      a.toNat o.toNat)

/-- tapm (R149). -/
def execTapm (r : Ribbon) (vd a o : BitVec 3) (imm : BitVec 11) (s : State) : Out := tap r 0 false true vd a o imm s

/-- tapm.a: with coefficient update (R149). -/
def execTapmA (r : Ribbon) (vd a o : BitVec 3) (imm : BitVec 11) (s : State) : Out := tap r 1 true true vd a o imm s

/-- tapm.n: the delay line does not move (R149). -/
def execTapmN (r : Ribbon) (vd a o : BitVec 3) (imm : BitVec 11) (s : State) : Out := tap r 2 false false vd a o imm s

/-- tapm.an: update without move (R149). -/
def execTapmAn (r : Ribbon) (vd a o : BitVec 3) (imm : BitVec 11) (s : State) : Out := tap r 3 true false vd a o imm s

/-- The two branch metrics of state `j` in the binary step (R151). -/
def acsM0 (s : State) (key vs vb j : Nat) : BitVec 48 := s.v key vs (j / 2) + s.v key vb j
def acsM1 (s : State) (key vs vb j : Nat) : BitVec 48 := s.v key vs (j / 2 + 4) + s.v key (vb + 1) j

/-- The metric of branch `q` into state `j` in the radix-4 step (R151). -/
def acsMq (s : State) (key vs vb j q : Nat) : BitVec 48 := s.v key vs q + s.v key (vb + q) j

/-- The best branch into state `j` in the radix-4 step (R151). -/
def acsBest (s : State) (key vs vb j : Nat) : Nat :=
  [1, 2, 3].foldl (fun best q => if before48 (acsMq s key vs vb j q) (acsMq s key vs vb j best) then q else best) 0

/-- acs: one trellis step; all reads of vs take place before vd is written (R151). -/
def execAcs (r : Ribbon) (radix4 : Bool) (vd vs vb aN : BitVec 3) (s : State) : Out :=
  let key := rspKey r
  let w := wordR 0x32 vd.toNat vs.toNat vb.toNat (aN.toNat + 8 * bit radix4)
  let at_ := (s.a key aN.toNat).toNat % 0x8000
  if radix4 then
    let b := vb.toNat / 4 * 4
    let t := forEach (fun j t => t.setV key vd.toNat j (acsMq s key vs.toNat b j (acsBest s key vs.toNat b j))) (List.range 4) s
    let byte := ((List.range 4).map (fun j => acsBest s key vs.toNat b j * 4 ^ j)).sum
    graov (.s r) w 3 s ((t.dstore key at_ 1 byte).setA key aN.toNat (s.a key aN.toNat + 1))
  else
    let b := vb.toNat / 2 * 2
    let one := fun j => before48 (acsM1 s key vs.toNat b j) (acsM0 s key vs.toNat b j)
    let t := s.setVs key vd.toNat (fun j => if one j then acsM1 s key vs.toNat b j else acsM0 s key vs.toNat b j)
    let byte := ((List.range 8).map (fun j => bit (one j) * 2 ^ j)).sum
    graov (.s r) w 2 s ((t.dstore key at_ 1 byte).setA key aN.toNat (s.a key aN.toNat + 1))

/-- The word of a vector-group instruction (R150). -/
def wordV (op rd ra rb x : Nat) : W32 := wordR 0x33 rd ra rb (op + 16 * x)

/-- vclr (R150). -/
def execVclr (r : Ribbon) (vd : BitVec 3) (s : State) : Out :=
  graov (.s r) (wordV 0 vd.toNat 0 0 0) 1 s (s.setVs (rspKey r) vd.toNat (fun _ => 0))

/-- vrd: sign-extended lane X (R150). -/
def execVrd (r : Ribbon) (gd : BitVec 5) (vs : BitVec 3) (x : BitVec 5) (s : State) : Out :=
  graov (.s r) (wordV 1 gd.toNat vs.toNat 0 x.toNat) 1 s
    (s.setG (rspKey r) gd.toNat ((s.v (rspKey r) vs.toNat (min x.toNat 7)).signExtend 64))

/-- vwr (R150). -/
def execVwr (r : Ribbon) (vd : BitVec 3) (ra : BitVec 5) (x : BitVec 5) (s : State) : Out :=
  graov (.s r) (wordV 2 vd.toNat ra.toNat 0 x.toNat) 1 s
    (s.setV (rspKey r) vd.toNat (min x.toNat 7) ((s.g (rspKey r) ra.toNat).setWidth 48))

/-- vpk: lane i = sat16(rnd(vs.i, X)) (R150). -/
def execVpk (r : Ribbon) (gd : BitVec 5) (vs : BitVec 3) (x : BitVec 5) (s : State) : Out :=
  graov (.s r) (wordV 3 gd.toNat vs.toNat 0 x.toNat) 1 s
    (s.setHalves (rspKey r) gd.toNat (fun i => sat16 (rnd (s.v (rspKey r) vs.toNat i).toInt x.toNat)))

/-- vaddh (R150). -/
def execVaddh (r : Ribbon) (gd ra rb : BitVec 5) (s : State) : Out :=
  graov (.s r) (wordV 4 gd.toNat ra.toNat rb.toNat 0) 1 s
    (s.setHalves (rspKey r) gd.toNat (fun i => sat16 (s.half (rspKey r) ra.toNat i + s.half (rspKey r) rb.toNat i)))

/-- vsubh (R150). -/
def execVsubh (r : Ribbon) (gd ra rb : BitVec 5) (s : State) : Out :=
  graov (.s r) (wordV 5 gd.toNat ra.toNat rb.toNat 0) 1 s
    (s.setHalves (rspKey r) gd.toNat (fun i => sat16 (s.half (rspKey r) ra.toNat i - s.half (rspKey r) rb.toNat i)))

/-- vbc: every lane = ra[15:0] (R150). -/
def execVbc (r : Ribbon) (gd ra : BitVec 5) (s : State) : Out :=
  graov (.s r) (wordV 6 gd.toNat ra.toNat 0 0) 1 s (s.setHalves (rspKey r) gd.toNat (fun _ => toSigned 16 (s.g (rspKey r) ra.toNat).toNat))

/-- The index of the smallest lane in modular order; ties go to the lower lane (R150). -/
def vminIndex (s : State) (key vs n : Nat) : Nat :=
  (List.range n).foldl (fun best i => if before48 (s.v key vs i) (s.v key vs best) then i else best) 0

/-- vmin: over lanes 0–7 if X = 0, 0–3 if X = 1; 2 cycles (R150). -/
def execVmin (r : Ribbon) (gd : BitVec 5) (vs : BitVec 3) (x : BitVec 5) (s : State) : Out :=
  graov (.s r) (wordV 7 gd.toNat vs.toNat 0 x.toNat) 2 s
    (s.setG (rspKey r) gd.toNat (BitVec.ofNat 64 (vminIndex s (rspKey r) vs.toNat (if x = 0 then 8 else 4))))

/-- dlin: dl[i][0] = A_i for every lane; tp = X (R150). -/
def execDlin (r : Ribbon) (ra x : BitVec 5) (s : State) : Out :=
  graov (.s r) (wordV 8 0 ra.toNat 0 x.toNat) 1 s
    ((forEach (fun i t => t.setDl (rspKey r) i 0 (BitVec.ofInt 16 (s.half (rspKey r) ra.toNat i))) (List.range 8) s).modProcAt (rspKey r)
      (fun y => { y with tp := BitVec.ofNat 4 (min x.toNat 15) }))

/-- dlrd: lane i = dl[i][X] (R150). -/
def execDlrd (r : Ribbon) (gd x : BitVec 5) (s : State) : Out :=
  graov (.s r) (wordV 9 gd.toNat 0 0 x.toNat) 1 s
    (s.setHalves (rspKey r) gd.toNat (fun i => (s.dlAt (rspKey r) i (min x.toNat 15)).toInt))

/-- tpset: tp = X (R150). -/
def execTpset (r : Ribbon) (x : BitVec 5) (s : State) : Out :=
  graov (.s r) (wordV 10 0 0 0 x.toNat) 1 s (s.modProcAt (rspKey r) (fun y => { y with tp := BitVec.ofNat 4 (min x.toNat 15) }))

/-- eset: e[i] = A_i for every lane; mu = X (R150). -/
def execEset (r : Ribbon) (ra x : BitVec 5) (s : State) : Out :=
  graov (.s r) (wordV 11 0 ra.toNat 0 x.toNat) 1 s
    (s.modProcAt (rspKey r) (fun y =>
      { y with
        e := forEach (fun i t => Tab.put t i (BitVec.ofInt 16 (s.half (rspKey r) ra.toNat i))) (List.range 8) y.e
        mu := x }))

end Sys2Proof.Machine
end

