-- ==== Sys2Proof/Machine/Dispatch.lean ====
section
/-! DEFINITION. Every command and its meaning: one arm per constructor, each one direct call. -/

namespace Sys2Proof.Machine

def exec (i : Instr) (s : State) : Host.Outcome State Fault Refusal :=
  match i with
  | .stitchBoundary => Sys2Proof.Machine.execStitchBoundary s
  | .nReqWrite v => Sys2Proof.Machine.execNReqWrite v s
  | .periodChange => Sys2Proof.Machine.execPeriodChange s
  | .stitchLoRead off => Sys2Proof.Machine.execStitchLoRead off s
  | .syncInEdge off => Sys2Proof.Machine.execSyncInEdge off s
  | .holdover off => Sys2Proof.Machine.execHoldover off s
  | .nop h => Sys2Proof.Machine.execNop h s
  | .add h rd ra rb => Sys2Proof.Machine.execAdd h rd ra rb s
  | .sub h rd ra rb => Sys2Proof.Machine.execSub h rd ra rb s
  | .and h rd ra rb => Sys2Proof.Machine.execAnd h rd ra rb s
  | .or h rd ra rb => Sys2Proof.Machine.execOr h rd ra rb s
  | .xor h rd ra rb => Sys2Proof.Machine.execXor h rd ra rb s
  | .shl h rd ra rb => Sys2Proof.Machine.execShl h rd ra rb s
  | .shr h rd ra rb => Sys2Proof.Machine.execShr h rd ra rb s
  | .sar h rd ra rb => Sys2Proof.Machine.execSar h rd ra rb s
  | .min h rd ra rb => Sys2Proof.Machine.execMin h rd ra rb s
  | .max h rd ra rb => Sys2Proof.Machine.execMax h rd ra rb s
  | .minu h rd ra rb => Sys2Proof.Machine.execMinu h rd ra rb s
  | .maxu h rd ra rb => Sys2Proof.Machine.execMaxu h rd ra rb s
  | .mul h rd ra rb => Sys2Proof.Machine.execMul h rd ra rb s
  | .cmp h cc pd ra rb => Sys2Proof.Machine.execCmp h cc pd ra rb s
  | .pand h pd pa pb => Sys2Proof.Machine.execPand h pd pa pb s
  | .por h pd pa pb => Sys2Proof.Machine.execPor h pd pa pb s
  | .pxor h pd pa pb => Sys2Proof.Machine.execPxor h pd pa pb s
  | .pandn h pd pa pb => Sys2Proof.Machine.execPandn h pd pa pb s
  | .pnot h pd pa => Sys2Proof.Machine.execPnot h pd pa s
  | .mva h ad ga => Sys2Proof.Machine.execMva h ad ga s
  | .mvo h od ga => Sys2Proof.Machine.execMvo h od ga s
  | .mag h gd aa => Sys2Proof.Machine.execMag h gd aa s
  | .mog h gd oa => Sys2Proof.Machine.execMog h gd oa s
  | .ptog h gd pa => Sys2Proof.Machine.execPtog h gd pa s
  | .gtop h pd ga => Sys2Proof.Machine.execGtop h pd ga s
  | .addi h rd ra imm => Sys2Proof.Machine.execAddi h rd ra imm s
  | .andi h rd ra imm => Sys2Proof.Machine.execAndi h rd ra imm s
  | .ori h rd ra imm => Sys2Proof.Machine.execOri h rd ra imm s
  | .xori h rd ra imm => Sys2Proof.Machine.execXori h rd ra imm s
  | .shli h rd ra imm => Sys2Proof.Machine.execShli h rd ra imm s
  | .shri h rd ra imm => Sys2Proof.Machine.execShri h rd ra imm s
  | .sari h rd ra imm => Sys2Proof.Machine.execSari h rd ra imm s
  | .insi h rd ra imm => Sys2Proof.Machine.execInsi h rd ra imm s
  | .ld h size rd a o x => Sys2Proof.Machine.execLd h size rd a o x s
  | .st h size rd a o imm => Sys2Proof.Machine.execSt h size rd a o imm s
  | .adda h a imm => Sys2Proof.Machine.execAdda h a imm s
  | .ldw k size rd a o imm seen => Sys2Proof.Machine.execLdw k size rd a o imm seen s
  | .stw k size rd a o imm => Sys2Proof.Machine.execStw k size rd a o imm s
  | .srd h rd str w => Sys2Proof.Machine.execSrd h rd str w s
  | .swr h rd str w => Sys2Proof.Machine.execSwr h rd str w s
  | .swrLand h off => Sys2Proof.Machine.execSwrLand h off s
  | .postedWriteLand k off seen => Sys2Proof.Machine.execPostedWriteLand k off seen s
  | .ba h offset => Sys2Proof.Machine.execBa h offset s
  | .b h pn offset => Sys2Proof.Machine.execB h pn offset s
  | .bn h pn offset => Sys2Proof.Machine.execBn h pn offset s
  | .loop h count length => Sys2Proof.Machine.execLoop h count length s
  | .done h => Sys2Proof.Machine.execDone h s
  | .doneHold h => Sys2Proof.Machine.execDoneHold h s
  | .trig k line => Sys2Proof.Machine.execTrig k line s
  | .waitt k pd line bound => Sys2Proof.Machine.execWaitt k pd line bound s
  | .waittTimeout k => Sys2Proof.Machine.execWaittTimeout k s
  | .cvf k n u ra => Sys2Proof.Machine.execCvf k n u ra s
  | .cvrd k rd u => Sys2Proof.Machine.execCvrd k rd u s
  | .cvwr k u ra => Sys2Proof.Machine.execCvwr k u ra s
  | .bown k bank owner => Sys2Proof.Machine.execBown k bank owner s
  | .mac r vd ra rb => Sys2Proof.Machine.execMac r vd ra rb s
  | .tapm r vd a o imm => Sys2Proof.Machine.execTapm r vd a o imm s
  | .tapmA r vd a o imm => Sys2Proof.Machine.execTapmA r vd a o imm s
  | .tapmN r vd a o imm => Sys2Proof.Machine.execTapmN r vd a o imm s
  | .tapmAn r vd a o imm => Sys2Proof.Machine.execTapmAn r vd a o imm s
  | .acs r radix4 vd vs vb aN => Sys2Proof.Machine.execAcs r radix4 vd vs vb aN s
  | .vclr r vd => Sys2Proof.Machine.execVclr r vd s
  | .vrd r gd vs x => Sys2Proof.Machine.execVrd r gd vs x s
  | .vwr r vd ra x => Sys2Proof.Machine.execVwr r vd ra x s
  | .vpk r gd vs x => Sys2Proof.Machine.execVpk r gd vs x s
  | .vaddh r gd ra rb => Sys2Proof.Machine.execVaddh r gd ra rb s
  | .vsubh r gd ra rb => Sys2Proof.Machine.execVsubh r gd ra rb s
  | .vbc r gd ra => Sys2Proof.Machine.execVbc r gd ra s
  | .vmin r gd vs x => Sys2Proof.Machine.execVmin r gd vs x s
  | .dlin r ra x => Sys2Proof.Machine.execDlin r ra x s
  | .dlrd r gd x => Sys2Proof.Machine.execDlrd r gd x s
  | .tpset r x => Sys2Proof.Machine.execTpset r x s
  | .eset r ra x => Sys2Proof.Machine.execEset r ra x s
  | .progLoad c => Sys2Proof.Machine.execProgLoad c s
  | .progAdmit c => Sys2Proof.Machine.execProgAdmit c s
  | .progStart c => Sys2Proof.Machine.execProgStart c s
  | .progStop c => Sys2Proof.Machine.execProgStop c s
  | .progPost c => Sys2Proof.Machine.execProgPost c s
  | .mailboxReply h v => Sys2Proof.Machine.execMailboxReply h v s
  | .evtPendClear h v => Sys2Proof.Machine.execEvtPendClear h v s
  | .lnCtlWrite l v be => Sys2Proof.Machine.execLnCtlWrite l v be s
  | .lnRateWrite l v be => Sys2Proof.Machine.execLnRateWrite l v be s
  | .coefficientWrite l word v be => Sys2Proof.Machine.execCoefficientWrite l word v be s
  | .txFfeWrite l v be => Sys2Proof.Machine.execTxFfeWrite l v be s
  | .ribCtlWrite r v be => Sys2Proof.Machine.execRibCtlWrite r v be s
  | .laneUp l off => Sys2Proof.Machine.execLaneUp l off s
  | .lossOfLock l off => Sys2Proof.Machine.execLossOfLock l off s
  | .elecIdle l off => Sys2Proof.Machine.execElecIdle l off s
  | .signalDetect l off => Sys2Proof.Machine.execSignalDetect l off s
  | .laneFault l cause off => Sys2Proof.Machine.execLaneFault l cause off s
  | .receivedUnit l u off => Sys2Proof.Machine.execReceivedUnit l u off s
  | .txUnderrun l off => Sys2Proof.Machine.execTxUnderrun l off s
  | .rspMove r off => Sys2Proof.Machine.execRspMove r off s
  | .rspMoveComplete r => Sys2Proof.Machine.execRspMoveComplete r s
  | .eyeScan c => Sys2Proof.Machine.execEyeScan c s
  | .ctleRecal c => Sys2Proof.Machine.execCtleRecal c s
  | .rxRetrain c => Sys2Proof.Machine.execRxRetrain c s
  | .txRecal c => Sys2Proof.Machine.execTxRecal c s
  | .analogTest c => Sys2Proof.Machine.execAnalogTest c s
  | .laneReqEnd l pass cause => Sys2Proof.Machine.execLaneReqEnd l pass cause s
  | .quietWrite l v be => Sys2Proof.Machine.execQuietWrite l v be s
  | .quietWindowEnd l => Sys2Proof.Machine.execQuietWindowEnd l s
  | .busContention k half line off => Sys2Proof.Machine.execBusContention k half line off s
  | .loadGo k v => Sys2Proof.Machine.execLoadGo k v s
  | .swap k v => Sys2Proof.Machine.execSwap k v s
  | .swapOnTrig k v => Sys2Proof.Machine.execSwapOnTrig k v s
  | .planeLoadEnd k bad => Sys2Proof.Machine.execPlaneLoadEnd k bad s
  | .queueModeWrite k bank v be => Sys2Proof.Machine.execQueueModeWrite k bank v be s
  | .queuePush k bank owner data => Sys2Proof.Machine.execQueuePush k bank owner data s
  | .queuePop k bank owner seen => Sys2Proof.Machine.execQueuePop k bank owner seen s
  | .portAccess k port bank write addr data mask seen => Sys2Proof.Machine.execPortAccess k port bank write addr data mask seen s
  | .exchangeSend k flits => Sys2Proof.Machine.execExchangeSend k flits s
  | .exchangeDeliver src dst => Sys2Proof.Machine.execExchangeDeliver src dst s
  | .captureStart k c off => Sys2Proof.Machine.execCaptureStart k c off s
  | .captureStop k c off => Sys2Proof.Machine.execCaptureStop k c off s
  | .captureArm k c off => Sys2Proof.Machine.execCaptureArm k c off s
  | .captureNextSegment k c off => Sys2Proof.Machine.execCaptureNextSegment k c off s
  | .keep k slot unit tag => Sys2Proof.Machine.execKeep k slot unit tag s
  | .keepHead k slot unit n tag => Sys2Proof.Machine.execKeepHead k slot unit n tag s
  | .countOnly k slot unit => Sys2Proof.Machine.execCountOnly k slot unit s
  | .drop k slot unit => Sys2Proof.Machine.execDrop k slot unit s
  | .verdictWindowClose k slot unit => Sys2Proof.Machine.execVerdictWindowClose k slot unit s
  | .streamChunk k slot data off => Sys2Proof.Machine.execStreamChunk k slot data off s
  | .recordWrite k off => Sys2Proof.Machine.execRecordWrite k off s
  | .postDone k off => Sys2Proof.Machine.execPostDone k off s
  | .captureDrained k off => Sys2Proof.Machine.execCaptureDrained k off s
  | .snapshot c => Sys2Proof.Machine.execSnapshot c s
  | .follow c => Sys2Proof.Machine.execFollow c s
  | .offloadPage ch => Sys2Proof.Machine.execOffloadPage ch s
  | .offloadStop c => Sys2Proof.Machine.execOffloadStop c s
  | .consumedWrite ch v be => Sys2Proof.Machine.execConsumedWrite ch v be s
  | .patternStart k threads c => Sys2Proof.Machine.execPatternStart k threads c s
  | .patternStop k threads c => Sys2Proof.Machine.execPatternStop k threads c s
  | .descNop k t => Sys2Proof.Machine.execDescNop k t s
  | .send k t => Sys2Proof.Machine.execSend k t s
  | .descLoop k t => Sys2Proof.Machine.execDescLoop k t s
  | .endloop k t => Sys2Proof.Machine.execEndloop k t s
  | .jmp k t => Sys2Proof.Machine.execJmp k t s
  | .wait k t => Sys2Proof.Machine.execWait k t s
  | .waitResume k t => Sys2Proof.Machine.execWaitResume k t s
  | .sync k t => Sys2Proof.Machine.execSync k t s
  | .syncDone k t => Sys2Proof.Machine.execSyncDone k t s
  | .descTrig k t off => Sys2Proof.Machine.execDescTrig k t off s
  | .descStop k t => Sys2Proof.Machine.execDescStop k t s
  | .descBadop k t => Sys2Proof.Machine.execDescBadop k t s
  | .unitMove k slot => Sys2Proof.Machine.execUnitMove k slot s
  | .actionLoad k a v be => Sys2Proof.Machine.execActionLoad k a v be s
  | .actionStaged k a => Sys2Proof.Machine.execActionStaged k a s
  | .fabricTxUnit k slot kind data => Sys2Proof.Machine.execFabricTxUnit k slot kind data s
  | .cvValueWrite k u v be => Sys2Proof.Machine.execCvValueWrite k u v be s
  | .cvCfgWrite k u v be => Sys2Proof.Machine.execCvCfgWrite k u v be s
  | .fabricRaise k lines off => Sys2Proof.Machine.execFabricRaise k lines off s
  | .raiseWrite src high v off => Sys2Proof.Machine.execRaiseWrite src high v off s
  | .trigxEdge ball rising off => Sys2Proof.Machine.execTrigxEdge ball rising off s
  | .trigxPulseEnd ball => Sys2Proof.Machine.execTrigxPulseEnd ball s
  | .stateLoRead off => Sys2Proof.Machine.execStateLoRead off s
  | .logStatRead off => Sys2Proof.Machine.execLogStatRead off s
  | .eventRecordWrite => Sys2Proof.Machine.execEventRecordWrite s
  | .evqBaseLoWrite v be => Sys2Proof.Machine.execEvqBaseLoWrite v be s
  | .evqBaseHiWrite v be => Sys2Proof.Machine.execEvqBaseHiWrite v be s
  | .evqSizeWrite v be => Sys2Proof.Machine.execEvqSizeWrite v be s
  | .mgmtWindowGo p v be => Sys2Proof.Machine.execMgmtWindowGo p v be s
  | .mgmtWindowDone p seen => Sys2Proof.Machine.execMgmtWindowDone p seen s
  | .boltWindowGo k v be => Sys2Proof.Machine.execBoltWindowGo k v be s
  | .boltWindowDone k seen => Sys2Proof.Machine.execBoltWindowDone k seen s
  | .bucketLeak u => Sys2Proof.Machine.execBucketLeak u s
  | .bucketDepthWrite u v => Sys2Proof.Machine.execBucketDepthWrite u v s
  | .patrolRead u seen => Sys2Proof.Machine.execPatrolRead u seen s
  | .rowCopyDone x => Sys2Proof.Machine.execRowCopyDone x s
  | .boltLineRead k line reader seen => Sys2Proof.Machine.execBoltLineRead k line reader seen s
  | .boltLineWrite k line writer data mask seen => Sys2Proof.Machine.execBoltLineWrite k line writer data mask seen s
  | .rekeyPassDone k => Sys2Proof.Machine.execRekeyPassDone k s
  | .counterUncorrectable c => Sys2Proof.Machine.execCounterUncorrectable c s
  | .registerWrite src a v be off => Sys2Proof.Machine.execRegisterWrite src a v be off s
  | .rcFieldRead a => Sys2Proof.Machine.execRcFieldRead a s
  | .doorbell sp v => Sys2Proof.Machine.execDoorbell sp v s
  | .entryFetched sp entry => Sys2Proof.Machine.execEntryFetched sp entry s
  | .spoolEnWrite sp v be => Sys2Proof.Machine.execSpoolEnWrite sp v be s
  | .nopCommand c => Sys2Proof.Machine.execNopCommand c s
  | .bindRibbon c => Sys2Proof.Machine.execBindRibbon c s
  | .bindPatch c => Sys2Proof.Machine.execBindPatch c s
  | .boltIn c => Sys2Proof.Machine.execBoltIn c s
  | .boltOut c => Sys2Proof.Machine.execBoltOut c s
  | .boltTransferDone c => Sys2Proof.Machine.execBoltTransferDone c s
  | .fence c => Sys2Proof.Machine.execFence c s
  | .releaseWord sp slot v => Sys2Proof.Machine.execReleaseWord sp slot v s
  | .resultSlotRead sp x => Sys2Proof.Machine.execResultSlotRead sp x s
  | .windowRead d x => Sys2Proof.Machine.execWindowRead d x s
  | .windowWrite d a v be off => Sys2Proof.Machine.execWindowWrite d a v be off s
  | .windowTimeout d => Sys2Proof.Machine.execWindowTimeout d s
  | .requestRepeat d => Sys2Proof.Machine.execRequestRepeat d s
  | .vectorUnmask vec => Sys2Proof.Machine.execVectorUnmask vec s
  | .conventionalReset => Sys2Proof.Machine.execConventionalReset s
  | .functionLevelReset => Sys2Proof.Machine.execFunctionLevelReset s
  | .linkLoss => Sys2Proof.Machine.execLinkLoss s
  | .d3hotExit => Sys2Proof.Machine.execD3hotExit s
  | .seamTrained n => Sys2Proof.Machine.execSeamTrained n s
  | .seamKeyReceived n ok peer peerSeam => Sys2Proof.Machine.execSeamKeyReceived n ok peer peerSeam s
  | .seamRetry n => Sys2Proof.Machine.execSeamRetry n s
  | .seamLockLoss n => Sys2Proof.Machine.execSeamLockLoss n s
  | .frameTimeout n => Sys2Proof.Machine.execFrameTimeout n s
  | .retrain n => Sys2Proof.Machine.execRetrain n s
  | .seamEnWrite n v be => Sys2Proof.Machine.execSeamEnWrite n v be s
  | .seamFrameSend n => Sys2Proof.Machine.execSeamFrameSend n s
  | .seamFrameReceive n tagOk corrected uncorrected off => Sys2Proof.Machine.execSeamFrameReceive n tagOk corrected uncorrected off s
  | .timeCell n t => Sys2Proof.Machine.execTimeCell n t s
  | .trigCell n entries off => Sys2Proof.Machine.execTrigCell n entries off s
  | .msgCell n dest m off => Sys2Proof.Machine.execMsgCell n dest m off s
  | .dataCell n d => Sys2Proof.Machine.execDataCell n d s
  | .haltBlock n d off => Sys2Proof.Machine.execHaltBlock n d off s
  | .go links refused => Sys2Proof.Machine.execGo links refused s
  | .sysReset off => Sys2Proof.Machine.execSysReset off s
  | .cfgLoad c => Sys2Proof.Machine.execCfgLoad c s
  | .chainStream hdr => Sys2Proof.Machine.execChainStream hdr s
  | .sectionHeader pos mode frames x => Sys2Proof.Machine.execSectionHeader pos mode frames x s
  | .frameNop f => Sys2Proof.Machine.execFrameNop f s
  | .framePlane f lpatch plane index x => Sys2Proof.Machine.execFramePlane f lpatch plane index x s
  | .frameSetting f pairs => Sys2Proof.Machine.execFrameSetting f pairs s
  | .frameJack f chunk x => Sys2Proof.Machine.execFrameJack f chunk x s
  | .keyroll f => Sys2Proof.Machine.execKeyroll f s
  | .frameEnd f => Sys2Proof.Machine.execFrameEnd f s
  | .streamEnd => Sys2Proof.Machine.execStreamEnd s
  | .streamTimeout => Sys2Proof.Machine.execStreamTimeout s
  | .fallbackLoad hdr => Sys2Proof.Machine.execFallbackLoad hdr s
  | .slotWriteDone => Sys2Proof.Machine.execSlotWriteDone s
  | .scrubFrameRead p upper what frame seen refSeen => Sys2Proof.Machine.execScrubFrameRead p upper what frame seen refSeen s
  | .scrubberCrosscheck differ => Sys2Proof.Machine.execScrubberCrosscheck differ s
  | .setStage c => Sys2Proof.Machine.execSetStage c s
  | .store c => Sys2Proof.Machine.execStore c s
  | .compactionDone => Sys2Proof.Machine.execCompactionDone s
  | .designKey c => Sys2Proof.Machine.execDesignKey c s
  | .lcsAdvance c => Sys2Proof.Machine.execLcsAdvance c s
  | .lockstepMismatch k off => Sys2Proof.Machine.execLockstepMismatch k off s
  | .preparationEnd x => Sys2Proof.Machine.execPreparationEnd x s
  | .rebind off => Sys2Proof.Machine.execRebind off s
  | .drainComplete off => Sys2Proof.Machine.execDrainComplete off s
  | .rotationStep off => Sys2Proof.Machine.execRotationStep off s
  | .rotWaitExpiry off => Sys2Proof.Machine.execRotWaitExpiry off s
  | .results c => Sys2Proof.Machine.execResults c s
  | .logicBist c => Sys2Proof.Machine.execLogicBist c s
  | .marchPreserve c => Sys2Proof.Machine.execMarchPreserve c s
  | .marchDestruct c => Sys2Proof.Machine.execMarchDestruct c s
  | .boltOnly c => Sys2Proof.Machine.execBoltOnly c s
  | .bistDone u applied sig match_ => Sys2Proof.Machine.execBistDone u applied sig match_ s
  | .marchDone k r => Sys2Proof.Machine.execMarchDone k r s
  | .hcLockstepMismatch off => Sys2Proof.Machine.execHcLockstepMismatch off s
  | .heldRequestTimeout c => Sys2Proof.Machine.execHeldRequestTimeout c s
  | .pquietWrite k v be => Sys2Proof.Machine.execPquietWrite k v be s
  | .refclkWindow count off => Sys2Proof.Machine.execRefclkWindow count off s
  | .refclkMissing off => Sys2Proof.Machine.execRefclkMissing off s
  | .refclkOvercount count off => Sys2Proof.Machine.execRefclkOvercount count off s
  | .clockRestored off => Sys2Proof.Machine.execClockRestored off s
  | .intoscStart => Sys2Proof.Machine.execIntoscStart s
  | .forcedSwitch rootRef => Sys2Proof.Machine.execForcedSwitch rootRef s
  | .gateOpen gate => Sys2Proof.Machine.execGateOpen gate s
  | .gateClose gate => Sys2Proof.Machine.execGateClose gate s
  | .heldCloseDone => Sys2Proof.Machine.execHeldCloseDone s
  | .dramRewriteDone layer => Sys2Proof.Machine.execDramRewriteDone layer s
  | .refoutWrite n word v be => Sys2Proof.Machine.execRefoutWrite n word v be s
  | .powerSample tenMilliwatts off => Sys2Proof.Machine.execPowerSample tenMilliwatts off s
  | .currentLimit off => Sys2Proof.Machine.execCurrentLimit off s
  | .slowRound r off => Sys2Proof.Machine.execSlowRound r off s
  | .fastRound r off => Sys2Proof.Machine.execFastRound r off s
  | .comparatorTrip layer off => Sys2Proof.Machine.execComparatorTrip layer off s
  | .autoRestart => Sys2Proof.Machine.execAutoRestart s
  | .vhkGood straps slot0Ok slot1Ok active => Sys2Proof.Machine.execVhkGood straps slot0Ok slot1Ok active s
  | .blankDrive => Sys2Proof.Machine.execBlankDrive s
  | .vinStackGood => Sys2Proof.Machine.execVinStackGood s
  | .rootPllLock => Sys2Proof.Machine.execRootPllLock s
  | .keyAttempt ok => Sys2Proof.Machine.execKeyAttempt ok s
  | .layerRaised layer => Sys2Proof.Machine.execLayerRaised layer s
  | .regulatorTimeout layer => Sys2Proof.Machine.execRegulatorTimeout layer s
  | .trainingDone failed => Sys2Proof.Machine.execTrainingDone failed s
  | .startupMarchDone laneFaults badPositions => Sys2Proof.Machine.execStartupMarchDone laneFaults badPositions s
  | .checkerSelftestDone fails => Sys2Proof.Machine.execCheckerSelftestDone fails s
  | .dramInitDone hdr => Sys2Proof.Machine.execDramInitDone hdr s
  | .resetNAssert => Sys2Proof.Machine.execResetNAssert s
  | .resetNRise => Sys2Proof.Machine.execResetNRise s
  | .jrstFull => Sys2Proof.Machine.execJrstFull s
  | .jrstLayer layers => Sys2Proof.Machine.execJrstLayer layers s
  | .layerResetWrite v be => Sys2Proof.Machine.execLayerResetWrite v be s
  | .layerResetEnd => Sys2Proof.Machine.execLayerResetEnd s
  | .jackSwap => Sys2Proof.Machine.execJackSwap s
  | .jackSwapExecute swapAny swapOk => Sys2Proof.Machine.execJackSwapExecute swapAny swapOk s
  | .jackSwapTimeout => Sys2Proof.Machine.execJackSwapTimeout s
  | .vioGood bank level => Sys2Proof.Machine.execVioGood bank level s
  | .vlaneOutOfLimits highRail off => Sys2Proof.Machine.execVlaneOutOfLimits highRail off s
  | .vinStackLoss => Sys2Proof.Machine.execVinStackLoss s
  | .vhkLoss => Sys2Proof.Machine.execVhkLoss s
  | .tapReset => Sys2Proof.Machine.execTapReset s
  | .bypass => Sys2Proof.Machine.execBypass s
  | .idcode => Sys2Proof.Machine.execIdcode s
  | .samplePreload => Sys2Proof.Machine.execSamplePreload s
  | .extest => Sys2Proof.Machine.execExtest s
  | .extestPulse => Sys2Proof.Machine.execExtestPulse s
  | .extestTrain => Sys2Proof.Machine.execExtestTrain s
  | .clamp => Sys2Proof.Machine.execClamp s
  | .highz => Sys2Proof.Machine.execHighz s
  | .internalScan code => Sys2Proof.Machine.execInternalScan code s
  | .couplerFault b group coupler x => Sys2Proof.Machine.execCouplerFault b group coupler x s
  | .counterLoRead a => Sys2Proof.Machine.execCounterLoRead a s
  | .linkUp speed width x => Sys2Proof.Machine.execLinkUp speed width x s
  | .d3hotEntry => Sys2Proof.Machine.execD3hotEntry s
  | .uncorrectableCodewords n => Sys2Proof.Machine.execUncorrectableCodewords n s
  | .vioLoss bank => Sys2Proof.Machine.execVioLoss bank s
  | .vlaneReturn highRail off => Sys2Proof.Machine.execVlaneReturn highRail off s
  | .hostReadComplete c data => Sys2Proof.Machine.execHostReadComplete c data s
  | .fuseBurnDone verified => Sys2Proof.Machine.execFuseBurnDone verified s
  | .storeComplete => Sys2Proof.Machine.execStoreComplete s
  | .latchVoteFix => Sys2Proof.Machine.execLatchVoteFix s
  | .heldResetRelease => Sys2Proof.Machine.execHeldResetRelease s

end Sys2Proof.Machine
end

