-- ==== Sys2Proof/Safety.lean ====
section
/-! DEFINITION. What claims about runs are stated in: the canonical form of the memories, runs of several steps, and safe runs. -/

namespace Sys2Proof.Machine

/-- A bank is in its canonical form: words and poison tags at strictly rising places, none listed that holds what an unlisted one reads as. -/
abbrev bankOk (x : BankSt) : Prop := Tab.wf x.unlisted x.words = true ∧ Tab.wf (fun _ => false) x.poison = true

/-- A bolt is in its canonical form. -/
abbrev boltOk (x : BoltSt) : Prop := Tab.wf x.unlisted x.mem = true

/-- A byte memory is in its canonical form. -/
abbrev byteOk (t : Tab Byte) : Prop := Tab.wf (fun _ => 0) t = true

/-- The canonical form of every memory: the host memory the device has written (an unlisted byte of which has no value) in strictly rising
order, and every bank, BOLT and data memory with no entry that an unlisted place reads as. Equal memories are then equal data. -/
abbrev Memory.wf (s : State) : Prop :=
  s.hostMem.Pairwise (fun a b => a.1 < b.1) ∧ (∀ e ∈ s.banks, bankOk e.2) ∧ (∀ e ∈ s.bolts, boltOk e.2)
    ∧ (∀ e ∈ s.procs, byteOk e.2.dmem)

/-- `t` follows from `s` by steps. -/
inductive Run : State → State → Prop where
  | refl (s : State) : Run s s
  | step {s t u : State} : Run s t → step t = .next u → Run s u

/-- A run from `s` never stops: every state it reaches answers a next state. -/
def safe (s : State) : Prop := ∀ t, Run s t → ∃ u, step t = .next u

/-! What a command leaves as it was. -/

/-- Nothing but the register words at the offsets of `l` differs. -/
def OnlyRegs (l : List Nat) (s t : State) : Prop := t = { s with regs := t.regs } ∧ ∀ a, a ∉ l → t.reg a = s.reg a

/-- Nothing but one processor differs. -/
def OnlyProc (key : Nat) (s t : State) : Prop := t = { s with procs := t.procs } ∧ ∀ k, k ≠ key → t.procAt k = s.procAt k

/-- A processor that goes on at instruction `pc` after `cost` cycles, the loops in progress counted (R107, R120). -/
def ProcSt.goesTo (x : ProcSt) (pc cost : Nat) : ProcSt :=
  { x with pc := (loopBack pc x.loops).1, loops := (loopBack pc x.loops).2, cycle := x.cycle + cost }

/-- A processor that goes on with its next instruction after `cost` cycles. -/
def ProcSt.goesOn (x : ProcSt) (cost : Nat) : ProcSt := x.goesTo (x.pc + 1) cost

/-- An instruction that writes one general register and goes on: g0 discards the write, and every other register, of either bank, and all
else of the machine are as they were. -/
def WritesG (key rd : Nat) (v : W64) (cost : Nat) (s t : State) : Prop :=
  OnlyProc key s t ∧ t.procAt key = { (s.procAt key).goesOn cost with g := (t.procAt key).g } ∧ t.g key rd = (if rd = 0 then 0 else v)
    ∧ ∀ i, rd = 0 ∨ i ≠ 32 * s.bank key + rd → (t.procAt key).g.get (fun _ => 0) i = (s.procAt key).g.get (fun _ => 0) i

/-- As `WritesG`, for an address register. -/
def WritesA (key rd : Nat) (v : W32) (cost : Nat) (s t : State) : Prop :=
  OnlyProc key s t ∧ t.procAt key = { (s.procAt key).goesOn cost with a := (t.procAt key).a } ∧ t.a key rd = v
    ∧ ∀ i, i ≠ 8 * s.bank key + rd → (t.procAt key).a.get (fun _ => 0) i = (s.procAt key).a.get (fun _ => 0) i

/-- As `WritesG`, for an offset register; o0 discards the write. -/
def WritesO (key rd : Nat) (v : W32) (cost : Nat) (s t : State) : Prop :=
  OnlyProc key s t ∧ t.procAt key = { (s.procAt key).goesOn cost with o := (t.procAt key).o } ∧ t.o key rd = (if rd = 0 then 0 else v)
    ∧ ∀ i, rd = 0 ∨ i ≠ 8 * s.bank key + rd → (t.procAt key).o.get (fun _ => 0) i = (s.procAt key).o.get (fun _ => 0) i

/-- As `WritesG`, for a predicate; p0 stays 1. -/
def WritesP (key pd : Nat) (v : Bool) (cost : Nat) (s t : State) : Prop :=
  OnlyProc key s t ∧ t.procAt key = { (s.procAt key).goesOn cost with p := (t.procAt key).p } ∧ t.p key pd = (if pd = 0 then true else v)
    ∧ ∀ i, pd = 0 ∨ i ≠ 8 * s.bank key + pd → (t.procAt key).p.get (fun _ => false) i = (s.procAt key).p.get (fun _ => false) i

/-- A dispatched command has ended with a status and result words, which its slot shows at the next boundary (R383). -/
def Ends (c : CmdRef) (st : Status) (data : List Nat) (s t : State) : Prop :=
  t.host.done = s.host.done ++ [⟨c, st, data.map (BitVec.ofNat 32)⟩] ∧ t.cmd c = none

/-- A dispatched command has passed to a phase. -/
def Enters (c : CmdRef) (ph : Phase) (s t : State) : Prop :=
  t.cmd c = (s.cmd c).map (fun d => { d with phase := ph }) ∧ t.host.done = s.host.done

end Sys2Proof.Machine
end

