-- ==== Sys2Proof/Certificates/Slice0/Obligations.lean ====
section
/-! DEFINITION. The statements for the provers. Each says which rules of spec/ it formalises; what rests on a choice of the model says so. A
clause about a command has as its conclusion that the command answers a next state, and what that state holds. -/

open Sys2Proof Sys2Proof.Machine

/-! The machine. -/

/-- A step takes the command at the front of the queue and is `exec` of it on the state with the queue's rest; on an empty queue it idles (assumption 40:
the model's own form of a block). -/
def Obligations.StepRunsTheFrontCommand : Prop :=
  (∀ (c : Instr) (s : State) (rest : List Instr), s.pending = c :: rest → Sys2Proof.Machine.step s = exec c { s with pending := rest })
    ∧ ∀ s : State, s.pending = [] → Sys2Proof.Machine.step s = .next s

/-- No command touches the queue of those that wait, and none stops: from every state and with every operand a command answers a next state with the queue
that it was given. The model's own choices that clauses rest on: assumption 1. -/
def Obligations.CommandsLeaveTheQueue : Prop := ∀ (c : Instr) (s : State), ∃ t, exec c s = .next t ∧ t.pending = s.pending

/-- Every step keeps the canonical form of the memories: the host memory written, every bank, BOLT and data memory. -/
def Obligations.StepsKeepMemoryCanonical : Prop := ∀ s t : State, Memory.wf s → Sys2Proof.Machine.step s = .next t → Memory.wf t

/-- Reset: no memory lists anything, so that the canonical form holds; no command waits; the device is not in the halt, and every register word reads as
its table's reset value. The model's own choices that clauses rest on: assumptions 4, 7, 8, 11, 13, 80. -/
def Obligations.ResetState : Prop :=
  Memory.wf State.reset ∧ State.reset.pending = [] ∧ State.reset.halted = false ∧ State.reset.stitch = 0
    ∧ ∀ a, State.reset.reg a = resetWord a

/-- Only the boundary and the starts move the stitch number: every other command leaves it (R55, R59). -/
def Obligations.StitchNumberMoves : Prop :=
  ∀ (c : Instr) (s t : State), c ∉ [.stitchBoundary, .resetNRise, .resetNAssert, .jrstFull, .heldResetRelease, .autoRestart, .vinStackLoss, .vhkLoss] →
    exec c s = .next t → t.stitch = s.stitch

/-- A field of a register reads what was written to it; a write leaves every other field of its word and every other word (R1, R2), and nothing else of
the state. -/
def Obligations.FieldsReadWhatWasWritten : Prop :=
  ∀ (s : State) (f : Fld) (base v i j : Nat), f.lo ≤ f.hi → f.hi < 32 →
    (s.wr f base v i j).rd f base i j = v % 2 ^ (f.hi + 1 - f.lo)
      ∧ (∀ g : Fld, g.lo ≤ g.hi → g.hi < f.lo ∨ f.hi < g.lo → ∀ base' i' j', (s.wr f base v i j).rd g base' i' j' = s.rd g base' i' j')
      ∧ OnlyRegs [f.at base i j] s (s.wr f base v i j)

/-! Graov: what every profile has. `s.issues h w` says that processor `h` is at work and the next word of its program is `w`. -/

/-- nop and the integer group: the result in rd, one cycle, three for mul (R78, R123, R124); a write to g0, o0 or p0 is discarded (R79). -/
def Obligations.IntegerInstructions : Prop :=
  ∀ (h : Proc) (rd ra rb : BitVec 5) (s : State),
    let key := Proc.key h
    let x := s.g key ra.toNat
    let y := s.g key rb.toNat
    let w := fun fn => wordR 0x01 rd.toNat ra.toNat rb.toNat fn
    let gives := fun (c : Instr) (fn : Nat) (v : W64) (cost : Nat) =>
      s.issues h (w fn) = true → ∃ t, exec c s = .next t ∧ WritesG key rd.toNat v cost s t
    (s.issues h 0 = true → ∃ t, exec (.nop h) s = .next t ∧ OnlyProc key s t ∧ t.procAt key = (s.procAt key).goesOn 1)
      ∧ gives (.add h rd ra rb) 0 (x + y) 1 ∧ gives (.sub h rd ra rb) 1 (x - y) 1 ∧ gives (.and h rd ra rb) 2 (x &&& y) 1
      ∧ gives (.or h rd ra rb) 3 (x ||| y) 1 ∧ gives (.xor h rd ra rb) 4 (x ^^^ y) 1
      ∧ gives (.shl h rd ra rb) 5 (x <<< min y.toNat 63) 1 ∧ gives (.shr h rd ra rb) 6 (x >>> min y.toNat 63) 1
      ∧ gives (.sar h rd ra rb) 7 (x.sshiftRight (min y.toNat 63)) 1
      ∧ gives (.min h rd ra rb) 8 (if x.toInt ≤ y.toInt then x else y) 1 ∧ gives (.max h rd ra rb) 9 (if x.toInt ≤ y.toInt then y else x) 1
      ∧ gives (.minu h rd ra rb) 10 (if x.toNat ≤ y.toNat then x else y) 1 ∧ gives (.maxu h rd ra rb) 11 (if x.toNat ≤ y.toNat then y else x) 1
      ∧ gives (.mul h rd ra rb) 12 (BitVec.ofNat 64 (x.toNat * y.toNat)) 3
      ∧ (∀ v : W64, s.setG key 0 v = s) ∧ (∀ v : W32, s.setO key 0 v = s) ∧ ∀ v : Bool, s.setP key 0 v = s

/-- Compare: pd becomes 1 if the condition holds and 0 otherwise; p0 stays 1 (R79, R125). The predicate group (R126) and the moves between register kinds:
mva and mvo take the low 32 bits, mag extends with zeros, mog with the sign, ptog gives 0 or 1, gtop whether the register is nonzero (R127). -/
def Obligations.PredicatesAndMoves : Prop :=
  (∀ (h : Proc) (pd : BitVec 3) (ra rb : BitVec 5) (s : State),
     let key := Proc.key h
     let x := s.g key ra.toNat
     let y := s.g key rb.toNat
     let sets := fun (cc : Cond) (fn : Nat) (v : Bool) =>
       s.issues h (wordR 0x02 pd.toNat ra.toNat rb.toNat fn) = true →
         ∃ t, exec (.cmp h cc pd ra rb) s = .next t ∧ WritesP key pd.toNat v 1 s t
     sets .eq 0 (decide (x = y)) ∧ sets .ne 1 (decide (x ≠ y)) ∧ sets .lt 2 (decide (x.toInt < y.toInt)) ∧ sets .ge 3 (decide (y.toInt ≤ x.toInt))
       ∧ sets .ltu 4 (decide (x.toNat < y.toNat)) ∧ sets .geu 5 (decide (y.toNat ≤ x.toNat)))
  ∧ (∀ (h : Proc) (s : State) (d p q : BitVec 3) (g : BitVec 5),
       let key := Proc.key h
       let x := s.p key p.toNat
       let y := s.p key q.toNat
       let sets := fun (c : Instr) (w : W32) (v : Bool) => s.issues h w = true → ∃ t, exec c s = .next t ∧ WritesP key d.toNat v 1 s t
       let gives := fun (c : Instr) (w : W32) (v : W64) => s.issues h w = true → ∃ t, exec c s = .next t ∧ WritesG key g.toNat v 1 s t
       sets (.pand h d p q) (wordR 0x03 d.toNat p.toNat q.toNat 0) (x && y) ∧ sets (.por h d p q) (wordR 0x03 d.toNat p.toNat q.toNat 1) (x || y)
         ∧ sets (.pxor h d p q) (wordR 0x03 d.toNat p.toNat q.toNat 2) (x ^^ y) ∧ sets (.pandn h d p q) (wordR 0x03 d.toNat p.toNat q.toNat 3) (x && !y)
         ∧ sets (.pnot h d p) (wordR 0x03 d.toNat p.toNat 0 4) (!x)
         ∧ (s.issues h (wordR 0x04 d.toNat g.toNat 0 0) = true →
             ∃ t, exec (.mva h d g) s = .next t ∧ WritesA key d.toNat (BitVec.ofNat 32 (s.g key g.toNat).toNat) 1 s t)
         ∧ (s.issues h (wordR 0x04 d.toNat g.toNat 0 1) = true →
             ∃ t, exec (.mvo h d g) s = .next t ∧ WritesO key d.toNat (BitVec.ofNat 32 (s.g key g.toNat).toNat) 1 s t)
         ∧ gives (.mag h g p) (wordR 0x04 g.toNat p.toNat 0 2) (BitVec.ofNat 64 (s.a key p.toNat).toNat)
         ∧ gives (.mog h g p) (wordR 0x04 g.toNat p.toNat 0 3) (BitVec.ofInt 64 (s.o key p.toNat).toInt)
         ∧ gives (.ptog h g p) (wordR 0x04 g.toNat p.toNat 0 4) (if x then 1 else 0)
         ∧ sets (.gtop h d g) (wordR 0x04 d.toNat g.toNat 0 5) (decide (s.g key g.toNat ≠ 0)))

/-- The immediate group: addi extends with the sign, the others with zeros; a shift above 63 acts as 63 (R128); adda adds to an address register (R130). -/
def Obligations.Immediates : Prop :=
  ∀ (h : Proc) (rd ra : BitVec 5) (imm : BitVec 14) (a : BitVec 3) (k : BitVec 11) (s : State),
    let key := Proc.key h
    let x := s.g key ra.toNat
    let gives := fun (c : Instr) (op : Nat) (v : W64) =>
      s.issues h (wordI op rd.toNat ra.toNat imm.toNat) = true → ∃ t, exec c s = .next t ∧ WritesG key rd.toNat v 1 s t
    gives (.addi h rd ra imm) 0x08 (x + BitVec.ofInt 64 imm.toInt) ∧ gives (.andi h rd ra imm) 0x09 (x &&& BitVec.ofNat 64 imm.toNat)
      ∧ gives (.ori h rd ra imm) 0x0a (x ||| BitVec.ofNat 64 imm.toNat) ∧ gives (.xori h rd ra imm) 0x0b (x ^^^ BitVec.ofNat 64 imm.toNat)
      ∧ gives (.shli h rd ra imm) 0x0c (x <<< min imm.toNat 63) ∧ gives (.shri h rd ra imm) 0x0d (x >>> min imm.toNat 63)
      ∧ gives (.sari h rd ra imm) 0x0e (x.sshiftRight (min imm.toNat 63))
      ∧ gives (.insi h rd ra imm) 0x0f ((x <<< 14) ||| BitVec.ofNat 64 imm.toNat)
      ∧ (s.issues h (wordM 0x12 0 a.toNat 0 0 k.toNat) = true →
          ∃ t, exec (.adda h a k) s = .next t ∧ WritesA key a.toNat (s.a key a.toNat + BitVec.ofInt 32 k.toInt) 1 s t)

/-- Loads and stores of data memory: the address is a + imm modulo the memory and rounded down to the access size; a load is extended with zeros, a store
writes the low bytes, least significant first, and leaves every other byte; the address register becomes a + o, and o0 leaves it (R81, R129). A load
of a word whose errors are beyond correction gives a free value, and the processor's memory has reported a fault (R182, R459); a load in the area of
the recovery record finds the samples that have come by then (R180). The model's own choices that clauses rest on: assumptions 41, 82. -/
def Obligations.DataMemory : Prop :=
  ∀ (h : Proc) (size : BitVec 2) (rd : BitVec 5) (a o : BitVec 3) (imm : BitVec 11) (s : State),
    let key := Proc.key h
    let n := 2 ^ size.toNat
    let ea := (s.a key a.toNat + imm.signExtend 32).toNat % dmemSize key / n * n
    let after := fun (s t : State) => OnlyProc key s t ∧ (∀ r, t.o key r = s.o key r ∧ t.p key r = s.p key r)
      ∧ t.a key a.toNat = s.a key a.toNat + s.o key o.toNat
      ∧ (∀ i, i ≠ 8 * s.bank key + a.toNat → (t.procAt key).a.get (fun _ => 0) i = (s.procAt key).a.get (fun _ => 0) i)
      ∧ (t.procAt key).pc = ((s.procAt key).goesOn 1).pc ∧ (t.procAt key).cycle = (s.procAt key).cycle + 1
    let s1 := s.recordSeen key ea
    (∀ seen : Ecc, s.issues h (wordM 0x10 rd.toNat a.toNat o.toNat size.toNat imm.toNat) = true →
        ∃ t, exec (.ld h size rd a o ⟨imm, seen⟩) s = .next t ∧ after (if seen = .uncorr then s1.took.memFault h else s1) t
        ∧ t.g key rd.toNat = (if rd = 0 then 0 else BitVec.ofNat 64 (match seen with
            | .clean | .corr => s1.dload key ea n
            | .miscorrect d | .unseen d => leNat (d.take n)
            | .uncorr => s1.freeWord.toNat % 2 ^ (8 * n)))
        ∧ (∀ i, rd = 0 ∨ i ≠ 32 * s.bank key + rd.toNat → (t.procAt key).g.get (fun _ => 0) i = (s.procAt key).g.get (fun _ => 0) i)
        ∧ ∀ i, t.dbyte key i = s1.dbyte key i)
      ∧ (s.issues h (wordM 0x11 rd.toNat a.toNat o.toNat size.toNat imm.toNat) = true → ∃ t, exec (.st h size rd a o imm) s = .next t ∧ after s t
        ∧ (∀ r, t.g key r = s.g key r)
        ∧ ∀ i, t.dbyte key i = if ea ≤ i ∧ i < ea + n then BitVec.ofNat 8 ((s.g key rd.toNat).toNat / 256 ^ (i - ea)) else s.dbyte key i)

/-- Branches go to pc + 1 + offset in two cycles, or on in one (R134); loop puts its body and count before the instructions that follow, and an empty body
does nothing (R107, R135). done ends the work of the stitch in Graov-P and Graov-S: the processor idles until the next boundary, where the main bank
is selected again unless done.hold ended the event program; running past the last instruction is done. In Graov-M control passes to the next RUNNING
slot, or the processor idles (R93, R102, R108, R136). -/
def Obligations.ControlFlow : Prop :=
  (∀ (h : Proc) (pn : BitVec 3) (offset : BitVec 17) (count length : BitVec 10) (s : State),
     let key := Proc.key h
     let x := s.procAt key
     let goes := fun (c : Instr) (w : W32) (taken : Bool) => s.issues h w = true → ∃ t, exec c s = .next t ∧ OnlyProc key s t
       ∧ t.procAt key = if taken then x.goesTo (x.pc + 1 + offset.toNat) 2 else x.goesOn 1
     goes (.ba h offset) (wordB 0x20 0 0 offset.toNat) true
       ∧ goes (.b h pn offset) (wordB 0x20 1 pn.toNat offset.toNat) (s.p key pn.toNat)
       ∧ goes (.bn h pn offset) (wordB 0x20 2 pn.toNat offset.toNat) (!s.p key pn.toNat)
       ∧ (s.issues h (wordL 0x21 count.toNat length.toNat) = true → ∃ t, exec (.loop h count length) s = .next t ∧ OnlyProc key s t
           ∧ t.procAt key = if length = 0 then x.goesOn 1
               else ({ x with loops := ⟨x.pc + 1, x.pc + 1 + length.toNat, count.toNat⟩ :: x.loops } : ProcSt).goesOn 1))
  ∧ (∀ (h : Proc) (hold : Bool) (s : State),
       let key := Proc.key h
       (if hold then s.issues h (wordR 0x22 0 0 0 1) = true
         else s.procRuns h = true ∧ (s.fetch key = none ∨ s.fetch key = some (wordR 0x22 0 0 0 0))) →
       ∃ t, exec (if hold then .doneHold h else .done h) s = .next t ∧ OnlyProc key s t
         ∧ (key ≠ 0 → t.procAt key =
             { s.procAt key with active := false, cycle := (s.procAt key).cycle + 1, back := !hold && (s.bank key == 1) })
         ∧ (key = 0 → match s.nextSlot ((s.procAt 0).cur + 1) with
             | none => (t.procAt 0).active = false
             | some n => (t.procAt 0).active = true ∧ (t.procAt 0).cur = n ∧ (t.procAt 0).pc = 0 ∧ (t.procAt 0).cycle = (s.procAt 0).cycle + 1))

/-! Graov: what reaches outside the processor. -/

/-- Posted writes to banks and check-value units land in issue order (R121, R122): the oldest leaves the queue, past string writes to other targets; a
whole-word store puts its word, clears its poison and leaves every other word of every bank. What is fed or written to a check-value unit reaches its
running value, a write in the width of its polynomial; a unit whose stream path is on discards both, and counts what was fed (R141, R142, R302). The
bank window (R82, R83, R131, R132): an access to a bank that the sequencer does not own misses, reads zero, stores nothing and is counted; an own
word's bytes are read, extended with zeros; a poisoned word reads zero and is counted. The posted writes that the load has to follow land before it
(R121). A store is posted with the address that its operands give. The counter saturates. The model's own choices that clauses rest on: assumptions 3,
41, 64. -/
def Obligations.BankWrites : Prop :=
  (∀ (k : LPatch) (off : Nat) (seen : Ecc) (p : Posted) (pre rest : List Posted) (s : State), s.stackOn = true →
     (s.procAt (16 + k.val)).wq = pre ++ p :: rest → p.isStr = false →
     (∀ x ∈ pre, x.isStr = true ∧ s.postTarget (16 + k.val) x ≠ s.postTarget (16 + k.val) p) →
     ∃ t, exec (.postedWriteLand k off seen) s = .next t ∧ (t.procAt (16 + k.val)).wq = pre ++ rest ∧ t.off = s.clampOff off
       ∧ t.hostMem = s.hostMem ∧ t.bolts = s.bolts
       ∧ (∀ addr v, p = .stw addr 8 v → addr % 8 = 0 →
           ∀ pos b w, w < 0x20000 → b < 8 → t.bankWord pos b w
             = if pos = s.ppos k.val ∧ b = addr / 0x100000 % 8 ∧ w = addr % 0x100000 / 8 then v else s.bankWord pos b w)
       ∧ (∀ addr v, p = .stw addr 8 v → addr % 8 = 0 → t.bankPoison (s.ppos k.val) (addr / 0x100000 % 8) (addr % 0x100000 / 8) = false)
       ∧ (∀ u n v, p = .cvf u n v → t.banks = s.banks ∧ ((s.cvCfg k.val u).toNat / 2 ^ F.CV_STREAM_EN.lo % 2 = 0 →
           t.cvValue k.val u = cvFeed (s.cvCfg k.val u) (s.cvValue k.val u) (leBytes n v.toNat) % 2 ^ 32)
         ∧ (u < 20 → s.cvStream k.val u = true → t.cvValue k.val u = s.cvValue k.val u
           ∧ t.rd F.CV_DROP (s.pb k.val) = min (s.rd F.CV_DROP (s.pb k.val) + 1) (Fld.max F.CV_DROP)))
       ∧ (∀ u v, p = .cvwr u v → t.banks = s.banks ∧ (s.cvStream k.val u = false →
           t.cvValue k.val u = v.toNat % 2 ^ cvBits (s.cvCfg k.val u)) ∧ (s.cvStream k.val u = true → t.regs = s.regs)))
  ∧ (∀ (k : LPatch) (size : BitVec 2) (rd : BitVec 5) (a o : BitVec 3) (imm : BitVec 11) (s : State),
       let key := 16 + k.val
       let n := 2 ^ size.toNat
       let ea := (s.a key a.toNat + imm.signExtend 32).toNat % 0x800000 / n * n
       let bank := ea / 0x100000
       let word := ea % 0x100000 / 8
       let own := (s.bankAt (s.ppos k.val) bank).owner = 0
       let u := s.landFor key (.bank bank)
       let kept := fun (u t : State) => t.banks = u.banks ∧ t.bolts = u.bolts ∧ t.hostMem = u.hostMem ∧ (∀ i, t.dbyte key i = s.dbyte key i)
         ∧ t.a key a.toNat = s.a key a.toNat + s.o key o.toNat ∧ (t.procAt key).wq = (u.procAt key).wq
       (∀ seen, s.issues (.p k) (wordM 0x13 rd.toNat a.toNat o.toNat size.toNat imm.toNat) = true →
         (¬ own → ∃ t, exec (.ldw k size rd a o imm seen) s = .next t ∧ kept s t ∧ t.g key rd.toNat = 0
             ∧ t.rd F.WINDOW_MISS (s.pb k.val) = min (s.rd F.WINDOW_MISS (s.pb k.val) + 1) (Fld.max F.WINDOW_MISS))
           ∧ (own → u.bankPoison (s.ppos k.val) bank word = true →
               ∃ t, exec (.ldw k size rd a o imm seen) s = .next t ∧ kept u t ∧ t.g key rd.toNat = 0
                 ∧ t.rd F.POISON_RD (s.pb k.val) = min (u.rd F.POISON_RD (s.pb k.val) + 1) (Fld.max F.POISON_RD))
           ∧ (own → u.bankPoison (s.ppos k.val) bank word = false → seen = .clean →
               ∃ t, exec (.ldw k size rd a o imm seen) s = .next t ∧ kept u t ∧ OnlyProc key u t
                 ∧ t.g key rd.toNat = if rd = 0 then 0
                     else BitVec.ofNat 64 ((u.bankWord (s.ppos k.val) bank word).toNat / 2 ^ (8 * (ea % 8)) % 2 ^ (8 * n))))
         ∧ (s.issues (.p k) (wordM 0x14 rd.toNat a.toNat o.toNat size.toNat imm.toNat) = true →
             ∃ t, exec (.stw k size rd a o imm) s = .next t ∧ t.banks = s.banks ∧ t.bolts = s.bolts ∧ t.hostMem = s.hostMem
               ∧ (∀ i, t.dbyte key i = s.dbyte key i) ∧ t.a key a.toNat = s.a key a.toNat + s.o key o.toNat
               ∧ (t.procAt key).wq = (if own then (s.procAt key).wq ++ [.stw ea n (s.g key rd.toNat)] else (s.procAt key).wq)
               ∧ t.rd F.WINDOW_MISS (s.pb k.val) =
                   if own then s.rd F.WINDOW_MISS (s.pb k.val) else min (s.rd F.WINDOW_MISS (s.pb k.val) + 1) (Fld.max F.WINDOW_MISS)))

/-- Strings (R84 to R89, R121, R133). A read returns what the string's word shows once the writes in flight that it has to follow have landed: a register
through its binding, with the effects of reading it, 0 where the access acts as NULL, or a word of a fixed string. A write joins the queue for the
register that its string reaches as it issues; with the queue full the oldest string write lands first. The oldest string write lands at an offset of
its own not below 8, or before step 3 of the next boundary. The model's own choices that clauses rest on: assumptions 3, 41, 60. -/
def Obligations.StringAccesses : Prop :=
  ∀ (h : Proc) (rd : BitVec 5) (str : BitVec 7) (w : BitVec 12) (s : State),
    let key := Proc.key h
    let slot := s.curSlot key
    let read := s.stringAddr key slot str.toNat w.toNat
    let written := s.boundAddr key slot str.toNat w.toNat true
    let reads := fun (v : W32) (u t : State) => OnlyProc key u t ∧ t.g key rd.toNat = (if rd = 0 then 0 else BitVec.ofNat 64 v.toNat)
      ∧ (t.procAt key).pc = ((s.procAt key).goesOn 1).pc ∧ (t.procAt key).cycle = (s.procAt key).cycle + s.stringCost key str.toNat w.toNat
      ∧ ∀ i, rd = 0 ∨ i ≠ 32 * s.bank key + rd.toNat → (t.procAt key).g.get (fun _ => 0) i = (s.procAt key).g.get (fun _ => 0) i
    (s.issues h (wordS 0x18 rd.toNat str.toNat w.toNat) = true → ∃ t, exec (.srd h rd str w) s = .next t
        ∧ reads (s.readString key str.toNat w.toNat).2 (s.readString key str.toNat w.toNat).1 t
        ∧ ((s.procAt key).wq = [] → 8 ≤ str.toNat → read = none → reads 0 s t)
        ∧ (∀ a, (s.procAt key).wq = [] → 8 ≤ str.toNat → read = some a → reads (s.peek a) (s.readEffects a) t)
        ∧ ((s.procAt key).wq = [] → str = 3 → reads ((s.procAt key).mailIn.get (fun _ => 0) (16 * slot + w.toNat)) s t)
        ∧ ((s.procAt key).wq = [] → str = 5 → w = 0 → reads (BitVec.ofNat 32 s.stitch.toNat) s t))
      ∧ (s.issues h (wordS 0x19 rd.toNat str.toNat w.toNat) = true →
          let full := decide ((if key < 16 then 32 else 8) ≤ (s.procAt key).wq.countP Posted.isStr)
          let u := if full then s.landOldest key Posted.isStr .clean else s
          ∃ t, exec (.swr h rd str w) s = .next t ∧ OnlyProc key u t
            ∧ t.procAt key = { (u.procAt key).goesOn 1 with
                wq := (u.procAt key).wq ++ [.str slot str.toNat w.toNat written (BitVec.ofNat 32 (s.g key rd.toNat).toNat) none] })
      ∧ (∀ off, s.up = true → (s.procAt key).frozen = false → (s.procAt key).wq.any (fun p => p.isStr && !p.early) = true →
          (s.period ≤ off → off < s.period + 8 → ∃ t, exec (.swrLand h off) s = .next t ∧ OnlyProc key s t
            ∧ t.procAt key = { s.procAt key with wq := markEarly (off - s.period) (s.procAt key).wq })
          ∧ ((off < s.period ∨ s.period + 8 ≤ off) → ∃ t, exec (.swrLand h off) s = .next t ∧ t.off = s.clampOff (max 8 off)
            ∧ (∀ slot' str' w' v, (s.procAt key).wq = [.str slot' str' w' none v none] → (t.procAt key).wq = []
                ∧ (str' = 4 → w' ≠ 11 → OnlyProc key (s.tick (max 8 off)) t
                    ∧ (t.procAt key).mailOut.get (fun _ => 0) (16 * slot' + w') = v)
                ∧ (8 ≤ str' → OnlyProc key (s.tick (max 8 off)) t ∧ (t.procAt key).mailOut = (s.procAt key).mailOut))
            ∧ ∀ slot' str' w' a v, (s.procAt key).wq = [.str slot' str' w' (some a) v none] → 8 ≤ str' →
                t = (((s.tick (max 8 off)).modProcAt key (fun x => { x with wq := [] })).busWrite
                  (match h with | .m _ => .hc | .p k => .seq k | .s r => .rsp r) a v 15)))

/-- Mailbox and events (R84, R93, R114): a write of word 11 of MAILBOX_OUT completes the oldest post of the target that asked for a reply with words 0 to
10; an event word is cleared by ones, and a ribbon's recovery record is released once both lane classes are clear (R180). Triggers of a patch
sequencer (R109, R137, R138): a line is raised at the offset of issue, where its mask lets it; waitt ends at once with 1 on a line raised in the
stitch and with 0 for a bound of 0, else waits; its bound passed, it gives 0 and goes on. The model's own choices that clauses rest on: assumption 3. -/
def Obligations.EventsAndTriggers : Prop :=
  ((∀ (h : Proc) (v : W32) (s : State), s.up = true → (s.procAt (Proc.key h)).frozen = false →
     ∃ t, exec (.mailboxReply h v) s = .next t ∧ t.regs = s.regs
       ∧ (t.procAt (Proc.key h)).mailOut.get (fun _ => 0) (16 * (match h with | .m n => n.val | _ => 0) + 11) = v
       ∧ ((s.procAt (Proc.key h)).replies = [] → t.host = s.host)
       ∧ ∀ e, (s.procAt (Proc.key h)).replies = [e] → e.1 = (match h with | .m n => n.val | _ => 0) →
           (t.procAt (Proc.key h)).replies = [] ∧ (t.host.done.map (fun d => (d.c, d.status))) = (s.host.done.map (fun d => (d.c, d.status))) ++ [(e.2, .ok)])
     ∧ (∀ (m : Fin 16) (v : BitVec 16) (s : State), s.up = true → (s.procAt 0).frozen = false →
         ∃ t, exec (.evtPendClear (.m m) v) s = .next t ∧ OnlyProc 0 s t ∧ (t.procAt 0).evWord = (s.procAt 0).evWord &&& ~~~v)
     ∧ (∀ (k : LPatch) (v : BitVec 16) (s : State), s.up = true → (s.procAt (16 + k.val)).frozen = false → s.ppos k.val < 18 →
         ∃ t, exec (.evtPendClear (.p k) v) s = .next t ∧ OnlyRegs [F.EVT_PEND.at (s.pb k.val) 0 0] s t
           ∧ ∀ i, i < 16 → bitAt (t.rd F.EVT_PEND (s.pb k.val)) i = (bitAt (s.rd F.EVT_PEND (s.pb k.val)) i && !bitAt v.toNat i))
     ∧ ∀ (r : Ribbon) (v : BitVec 16) (s : State), s.up = true → (s.procAt (32 + r.val)).frozen = false →
         let b := RIBBON (s.rsp r.val)
         ∃ t, exec (.evtPendClear (.s r) v) s = .next t
           ∧ (∀ i, 2 ≤ i → i < 16 → bitAt (t.rd F.EVT_PEND b) i = (bitAt (s.rd F.EVT_PEND b) i && !bitAt v.toNat i))
           ∧ ((s.ribAt r.val).rvalid = false ∨ (bitAt (s.rd F.EVT_PEND b) 0 && !bitAt v.toNat 0) = true
               ∨ (bitAt (s.rd F.EVT_PEND b) 1 && !bitAt v.toNat 1) = true → OnlyRegs [F.EVT_PEND.at b 0 0] s t
             ∧ ∀ i, i < 2 → bitAt (t.rd F.EVT_PEND b) i = (bitAt (s.rd F.EVT_PEND b) i && !bitAt v.toNat i))
           ∧ ((s.ribAt r.val).rvalid = true → (bitAt (s.rd F.EVT_PEND b) 0 && !bitAt v.toNat 0) = false →
               (bitAt (s.rd F.EVT_PEND b) 1 && !bitAt v.toNat 1) = false → (∀ i, i < 8 → s.laneCause (8 * r.val + i) % 4 = 0) →
               (t.ribAt r.val).rvalid = false ∧ t.rd F.EVT_PEND b % 4 = 0))
  ∧ (∀ (k : LPatch) (pd : BitVec 3) (line : Line) (bound : BitVec 12) (s : State),
       let key := 16 + k.val
       let w := wordS 0x29 pd.toNat line.val bound.toNat
       let u := s.tick (2 * (s.procAt key).cycle)
       (s.issues (.p k) (wordI 0x28 0 0 line.val) = true → s.maskBit 1 line.val u.off = true →
           ∃ t, exec (.trig k line) s = .next t
             ∧ (s.trig.raise? line.val = none → t.trig.raise? line.val = some ⟨u.now, u.off, 1, s.devnum, false⟩)
             ∧ (∀ q, s.trig.raise? line.val = some q → q.at_ ≤ u.off → t.trig.raise? line.val = some { q with multi := true }) ∧ t.off = s.clampOff (2 * (s.procAt key).cycle)
             ∧ t.regs = s.regs ∧ t.banks = s.banks)
         ∧ (s.issues (.p k) (wordI 0x28 0 0 line.val) = true → s.maskBit 1 line.val u.off = false →
             ∃ t, exec (.trig k line) s = .next t ∧ t.trig = s.trig ∧ OnlyProc key u t)
         ∧ (s.issues (.p k) w = true → (s.trig.raise? line.val).isSome → ∃ t, exec (.waitt k pd line bound) s = .next t ∧ WritesP key pd.toNat true 1 s t)
         ∧ (s.issues (.p k) w = true → s.trig.raise? line.val = none → bound = 0 →
             ∃ t, exec (.waitt k pd line bound) s = .next t ∧ WritesP key pd.toNat false 1 s t)
         ∧ (s.issues (.p k) w = true → s.trig.raise? line.val = none → bound ≠ 0 → ∃ t, exec (.waitt k pd line bound) s = .next t ∧ OnlyProc key s t
             ∧ t.procAt key = { (s.procAt key).goesOn 1 with wait := some ⟨pd.toNat, line.val, (s.procAt key).cycle, bound.toNat⟩ })
         ∧ ∀ q, s.up = true → (s.procAt key).frozen = false → (s.procAt key).wait = some q →
             ∃ t, exec (.waittTimeout k) s = .next t ∧ (t.procAt key).wait = none ∧ t.p key q.pd = (if q.pd = 0 then true else false)
               ∧ (t.procAt key).cycle = q.from_ + 1 + q.bound ∧ OnlyProc key (s.tick (2 * (q.from_ + 1 + q.bound))) t)

/-- Check-value and ownership instructions (R140 to R143): cvf and cvwr are posted with the register's value, cvf in 1, 2 or 4 cycles; cvrd returns the
running value, or the last result where the stream path is on, once the posted writes that it has to follow have landed (R121); bown asks for an
owner, which changes at the boundary. Check-value units by register (R302 to R304): a write of the running value reaches it within the width of the
polynomial in effect, and is ignored while the unit works on a stream; the settings wait for the next boundary, and the last four units have no stream
path. -/
def Obligations.CheckValueUnits : Prop :=
  (∀ (k : LPatch) (n : BitVec 2) (u : Fin 20) (ra rd : BitVec 5) (bank : Bank) (owner : BitVec 4) (s : State),
     let key := 16 + k.val
     let bytes := if n = 0 then 1 else if n = 1 then 2 else 4
     (s.issues (.p k) (wordI 0x2A 0 ra.toNat (u.val + 32 * n.toNat)) = true → ∃ t, exec (.cvf k n u ra) s = .next t ∧ OnlyProc key s t
         ∧ t.procAt key = { (s.procAt key).goesOn bytes with wq := (s.procAt key).wq ++ [.cvf u.val bytes (s.g key ra.toNat)] })
       ∧ (s.issues (.p k) (wordI 0x2B rd.toNat 0 u.val) = true →
           let y := s.landFor key (.reg (F.CV_POLY.at (s.pb k.val) u.val 0))
           ∃ t, exec (.cvrd k rd u) s = .next t
           ∧ WritesG key rd.toNat (BitVec.ofNat 64
               (if y.cvStream k.val u.val then y.rd F.CV_LAST (s.pb k.val) u.val else y.rd F.CV_VALUE (s.pb k.val) u.val))
               (if u.val ≤ 7 ∨ u.val = 16 ∨ u.val = 17 then 3 else 11) y t)
       ∧ (s.issues (.p k) (wordI 0x2C 0 ra.toNat u.val) = true → ∃ t, exec (.cvwr k u ra) s = .next t ∧ OnlyProc key s t
           ∧ t.procAt key = { (s.procAt key).goesOn 1 with wq := (s.procAt key).wq ++ [.cvwr u.val (s.g key ra.toNat)] })
       ∧ (s.issues (.p k) (wordI 0x2D 0 0 (bank.val + 8 * owner.toNat)) = true → ∃ t, exec (.bown k bank owner) s = .next t
           ∧ (t.bankAt (s.ppos k.val) bank.val).req = some (clampOwner bank.val owner.toNat)
           ∧ (t.bankAt (s.ppos k.val) bank.val).owner = (s.bankAt (s.ppos k.val) bank.val).owner
           ∧ (∀ p b w, t.bankWord p b w = s.bankWord p b w) ∧ t.procAt key = (s.procAt key).goesOn 1 ∧ t.regs = s.regs))
  ∧ (∀ (k : LPatch) (u : Fin 20) (v : W32) (s : State), s.stackOn = true → s.posView (s.ppos k.val) = .normal → s.silent .patch (0x800 + 0x20 * u.val) = false →
         s.silent .patch (0x804 + 0x20 * u.val) = false →
       let b := s.pb k.val
       (s.cvStream k.val u.val = false → ∃ t, exec (.cvValueWrite k u v 15) s = .next t
           ∧ t.cvValue k.val u.val = v.toNat % 2 ^ cvBits (s.cvCfg k.val u.val) ∧ OnlyRegs [F.CV_VALUE.at b u.val 0] s t)
         ∧ (s.cvStream k.val u.val = true → exec (.cvValueWrite k u v 15) s = .next s)
         ∧ ∃ t, exec (.cvCfgWrite k u v 15) s = .next t ∧ t = { s with regs := t.regs, dirty := s.dirty ++ [F.CV_POLY.at b u.val 0] }
           ∧ t.cvCfg k.val u.val = s.cvCfg k.val u.val ∧ t.rd F.CV_POLY b u.val = bitsOf F.CV_POLY.hi F.CV_POLY.lo v
           ∧ (16 ≤ u.val → t.rd F.CV_STREAM_EN b u.val = 0) ∧ (u.val < 16 → t.rd F.CV_STREAM_EN b u.val = bitsOf F.CV_STREAM_EN.hi F.CV_STREAM_EN.lo v)
           ∧ ∀ a, a ≠ F.CV_POLY.at b u.val 0 → t.reg a = s.reg a)

/-! Graov-S. -/

/-- The vector group (R147, R150): what each operation writes, lane by lane, in one cycle, vmin in two; sat16 clamps to 16 bits, rnd adds half and shifts.
vmin names the lowest lane that no lane is before in modular order, over lanes 0 to 7, or 0 to 3 for X = 1 (R150). -/
def Obligations.VectorOperations : Prop :=
  (∀ (r : Ribbon) (vd vs : BitVec 3) (gd ra rb x : BitVec 5) (s : State),
     let key := 32 + r.val
     let pair := fun (n : BitVec 5) => n.toNat / 2 * 2
     let word := fun (op a b c x : Nat) => wordR 0x33 a b c (op + 16 * x)
     let ok := fun (w : W32) => s.issues (.s r) w = true
     let sets := fun (c : Instr) (f : Nat → BitVec 48) => ∃ t, exec c s = .next t ∧ OnlyProc key s t ∧ (∀ i, i < 8 → t.v key vd.toNat i = f i)
       ∧ (∀ q i, q < 8 → i < 8 → q ≠ vd.toNat → t.v key q i = s.v key q i) ∧ ∀ q, t.g key q = s.g key q
     let packs := fun (c : Instr) (f : Nat → Int) => ∃ t, exec c s = .next t ∧ OnlyProc key s t
       ∧ (∀ i, i < 8 → t.half key gd.toNat i = if pair gd = 0 ∧ i < 4 then 0 else toSigned 16 (ofSigned 16 (f i)))
       ∧ (∀ q, q < 32 → q ≠ pair gd → q ≠ pair gd + 1 → t.g key q = s.g key q) ∧ ∀ q i, t.v key q i = s.v key q i
     (ok (word 0 vd.toNat 0 0 0) → sets (.vclr r vd) (fun _ => 0))
       ∧ (ok (word 2 vd.toNat ra.toNat 0 x.toNat) → sets (.vwr r vd ra x)
           (fun i => if i = min x.toNat 7 then BitVec.ofNat 48 (s.g key ra.toNat).toNat else s.v key vd.toNat i))
       ∧ (ok (word 1 gd.toNat vs.toNat 0 x.toNat) → ∃ t, exec (.vrd r gd vs x) s = .next t
           ∧ WritesG key gd.toNat (BitVec.ofInt 64 (s.v key vs.toNat (min x.toNat 7)).toInt) 1 s t)
       ∧ (ok (word 3 gd.toNat vs.toNat 0 x.toNat) → packs (.vpk r gd vs x)
           (fun i => clampInt (-32768) 32767 (rnd (s.v key vs.toNat i).toInt x.toNat)))
       ∧ (ok (word 4 gd.toNat ra.toNat rb.toNat 0) → packs (.vaddh r gd ra rb)
           (fun i => clampInt (-32768) 32767 (s.half key ra.toNat i + s.half key rb.toNat i)))
       ∧ (ok (word 5 gd.toNat ra.toNat rb.toNat 0) → packs (.vsubh r gd ra rb)
           (fun i => clampInt (-32768) 32767 (s.half key ra.toNat i - s.half key rb.toNat i)))
       ∧ (ok (word 6 gd.toNat ra.toNat 0 0) → packs (.vbc r gd ra) (fun _ => toSigned 16 (s.g key ra.toNat).toNat))
       ∧ (ok (word 9 gd.toNat 0 0 x.toNat) → packs (.dlrd r gd x) (fun i => (s.dlAt key i (min x.toNat 15)).toInt)))
  ∧ (∀ (r : Ribbon) (gd : BitVec 5) (vs : BitVec 3) (x : BitVec 5) (s : State), s.issues (.s r) (wordR 0x33 gd.toNat vs.toNat 0 (7 + 16 * x.toNat)) = true →
       let key := 32 + r.val
       let n := if x = 0 then 8 else 4
       ∃ (t : State) (m : Nat), exec (.vmin r gd vs x) s = .next t ∧ WritesG key gd.toNat (BitVec.ofNat 64 m) 2 s t ∧ m < n
         ∧ ((∀ i j, i < n → j < n → (s.v key vs.toNat i).toNat < 2 ^ 46 ∧ (s.v key vs.toNat j).toNat < 2 ^ 46) →
             (∀ i, i < n → (s.v key vs.toNat m).toNat ≤ (s.v key vs.toNat i).toNat)
               ∧ ∀ i, i < m → (s.v key vs.toNat m).toNat < (s.v key vs.toNat i).toNat))

/-- mac, the delay-line and filter settings, and the taps (R148, R149, R150): mac accumulates with saturation to 48 bits; a tap accumulates coefficient
times sample, moves the line where it does, and counts the tap down, modulo 16. acs, the trellis step (R151): every state takes the branch that comes
before, ties to the lower; the choices go to data memory, and the address register moves on by one. All reads of vs come before vd is written. -/
def Obligations.FiltersAndTrellis : Prop :=
  (∀ (r : Ribbon) (vd a o : BitVec 3) (ra rb x : BitVec 5) (imm : BitVec 11) (s : State),
     let key := 32 + r.val
     let sat := fun (v : Int) => BitVec.ofInt 48 (clampInt (-(2 ^ 47)) (2 ^ 47 - 1) v)
     let ea := (s.a key a.toNat + imm.signExtend 32).toNat % 0x8000 / 16 * 16
     let tp := (s.procAt key).tp
     let coef := fun i => toSigned 16 (s.dload key (ea + 2 * i) 2)
     let smp := fun i => (s.dlAt key i tp.toNat).toInt
     let taps := fun (c : Instr) (size : Nat) (upd mov : Bool) =>
       s.issues (.s r) (wordM 0x31 vd.toNat a.toNat o.toNat size imm.toNat) = true → ∃ t, exec c s = .next t ∧ OnlyProc key s t
         ∧ (t.procAt key).tp = tp - 1 ∧ t.a key a.toNat = s.a key a.toNat + s.o key o.toNat
         ∧ (∀ i, i < 8 → t.v key vd.toNat i = sat ((s.v key vd.toNat i).toInt + coef i * smp i))
         ∧ (∀ i, i < 8 → tp.toNat < 15 → t.dlAt key i (tp.toNat + 1) = if mov then s.dlAt key i tp.toNat else s.dlAt key i (tp.toNat + 1))
         ∧ (∀ i, i < 8 → t.dload key (ea + 2 * i) 2 = if upd then ofSigned 16 (clampInt (-32768) 32767
             (coef i + rnd (((s.procAt key).e.get (fun _ => 0) i).toInt * smp i) (s.procAt key).mu.toNat)) else s.dload key (ea + 2 * i) 2)
         ∧ (∀ i, i < ea ∨ ea + 16 ≤ i → t.dbyte key i = s.dbyte key i) ∧ ∀ q, t.g key q = s.g key q
     (s.issues (.s r) (wordR 0x30 vd.toNat ra.toNat rb.toNat 0) = true → ∃ t, exec (.mac r vd ra rb) s = .next t ∧ OnlyProc key s t
         ∧ (∀ i, i < 8 → t.v key vd.toNat i = sat ((s.v key vd.toNat i).toInt + s.half key ra.toNat i * s.half key rb.toNat i))
         ∧ (∀ q i, q < 8 → i < 8 → q ≠ vd.toNat → t.v key q i = s.v key q i) ∧ (∀ i, t.dbyte key i = s.dbyte key i) ∧ ∀ q, t.g key q = s.g key q)
       ∧ taps (.tapm r vd a o imm) 0 false true ∧ taps (.tapmA r vd a o imm) 1 true true ∧ taps (.tapmN r vd a o imm) 2 false false
       ∧ taps (.tapmAn r vd a o imm) 3 true false
       ∧ (s.issues (.s r) (wordR 0x33 0 ra.toNat 0 (8 + 16 * x.toNat)) = true → ∃ t, exec (.dlin r ra x) s = .next t ∧ OnlyProc key s t
           ∧ (∀ i, i < 8 → t.dlAt key i 0 = BitVec.ofInt 16 (s.half key ra.toNat i)) ∧ (t.procAt key).tp = BitVec.ofNat 4 (min x.toNat 15))
       ∧ (s.issues (.s r) (wordR 0x33 0 0 0 (10 + 16 * x.toNat)) = true → ∃ t, exec (.tpset r x) s = .next t ∧ OnlyProc key s t
           ∧ t.procAt key = { (s.procAt key).goesOn 1 with tp := BitVec.ofNat 4 (min x.toNat 15) })
       ∧ (s.issues (.s r) (wordR 0x33 0 ra.toNat 0 (11 + 16 * x.toNat)) = true → ∃ t, exec (.eset r ra x) s = .next t ∧ OnlyProc key s t
           ∧ (∀ i, i < 8 → (t.procAt key).e.get (fun _ => 0) i = BitVec.ofInt 16 (s.half key ra.toNat i)) ∧ (t.procAt key).mu = x))
  ∧ (∀ (r : Ribbon) (radix4 : Bool) (vd vs vb aN : BitVec 3) (s : State),
       s.issues (.s r) (wordR 0x32 vd.toNat vs.toNat vb.toNat (aN.toNat + 8 * (if radix4 then 1 else 0))) = true →
       let key := 32 + r.val
       let b := if radix4 then vb.toNat / 4 * 4 else vb.toNat / 2 * 2
       let m := fun (j q : Nat) => if radix4 then s.v key vs.toNat q + s.v key (b + q) j else s.v key vs.toNat (j / 2 + 4 * q) + s.v key (b + q) j
       let n := if radix4 then 4 else 2
       ∃ (t : State) (best : Nat → Nat), exec (.acs r radix4 vd vs vb aN) s = .next t ∧ OnlyProc key s t
         ∧ (∀ j, j < (if radix4 then 4 else 8) → best j < n ∧ t.v key vd.toNat j = m j (best j)
             ∧ ((∀ q, q < n → (m j q).toNat < 2 ^ 46) → (∀ q, q < n → (m j (best j)).toNat ≤ (m j q).toNat)
               ∧ ∀ q, q < best j → (m j (best j)).toNat < (m j q).toNat))
         ∧ (∀ q i, q < 8 → i < 8 → q ≠ vd.toNat ∨ (if radix4 then 4 else 8) ≤ i → t.v key q i = s.v key q i)
         ∧ t.dbyte key ((s.a key aN.toNat).toNat % 0x8000)
             = BitVec.ofNat 8 (((List.range (if radix4 then 4 else 8)).map (fun j => best j * n ^ j)).sum)
         ∧ (∀ i, i ≠ (s.a key aN.toNat).toNat % 0x8000 → t.dbyte key i = s.dbyte key i)
         ∧ t.a key aN.toNat = s.a key aN.toNat + 1 ∧ (t.procAt key).cycle = (s.procAt key).cycle + (if radix4 then 3 else 2))

/-! Program commands (R97 to R115). `s.cmdOf c op .fresh` is the dispatched command that has the opcode and awaits its first action here. -/

/-- PROG_LOAD and PROG_STOP, PROG_POST: a load begins to read its image, and one behind a start of its target waits for that start's boundary; stops and
posts join the queue of their boundary, where posts carry words 1 to 11 of the mailbox; a command for a patch in a handover is held (R110, R112,
R113). PROG_ADMIT: an admitted image answers its two worst cases and shows ADMITTED; any other is refused with its worst cases and reason, which
LAST_REFUSE keeps, and a refusal for the budget keeps the clamped words in the page (R106); an empty page is refused for its state (R102, R103, R110).
What the page's own admission becomes after such a refusal is the model's choice (log entry 84). PROG_START waits for the boundary with START_PEND
where the staged image is admitted, and is refused at once where it is not (R103, R110); a read of host memory that brings a load's image stages it,
not yet admitted (R110). The model's own choices that clauses rest on: assumptions 9, 83, 84. -/
def Obligations.ProgramCommands : Prop :=
  (∀ (c : CmdRef) (d : DispCmd) (s : State), s.up = true →
     let key := d.procKey
     let free := ¬ (d.tkind = 0 ∧ s.hover d.target = true)
     let joins := fun (o : Out) (x : ProgCmd) => ∃ t, o = .next t ∧ Enters c .running s t
       ∧ (t.procAt key).cmds = (s.procAt key).cmds ++ [(d.slot, x)] ∧ t.regs = s.regs ∧ t.banks = s.banks
     (s.cmdOf c 0x01 .fresh = some d → free → s.startWaits key d.slot = false →
         ∃ t, exec (.progLoad c) s = .next t ∧ Enters c .reading s t ∧ t = { s with host := t.host })
       ∧ (s.cmdOf c 0x01 .fresh = some d → free → s.startWaits key d.slot = true → exec (.progLoad c) s = .next s)
       ∧ (s.cmdOf c 0x04 .fresh = some d → free → joins (exec (.progStop c) s) (.stop c))
       ∧ (s.cmdOf c 0x05 .fresh = some d → free → joins (exec (.progPost c) s) (.post c d.postWords (bitAt (leNat ((d.entry.drop 1).take 1)) 2)))
       ∧ (∀ op i, (op, i) ∈ [(0x01, Instr.progLoad c), (0x02, .progAdmit c), (0x03, .progStart c), (0x04, .progStop c), (0x05, .progPost c)] →
           s.cmdOf c op .fresh = some d → ¬ free → ∃ t, exec i s = .next t ∧ Enters c .held s t ∧ t = { s with host := t.host }))
  ∧ (∀ (c : CmdRef) (d : DispCmd) (s : State), s.up = true → s.cmdOf c 0x02 .fresh = some d → ¬ (d.tkind = 0 ∧ s.hover d.target = true) →
       d.procKey ≠ 0 →
       let key := d.procKey
       let page := (s.rd F.LIVE_PAGE (s.seqBase key) + 1) % 2
       let m := (s.procAt key).img page
       let r := judgeImage (profileOf key) (s.rd F.BUD_B_ADMIT DEV) m
       ∃ t, exec (.progAdmit c) s = .next t
         ∧ (m.loaded = true → r.1.reason = 0 → Ends c .ok [r.1.wcMain, r.1.wcEvent, 0] s t ∧ t.rd F.ADMITTED (s.seqBase key) = 1
             ∧ (t.procAt key).img page = r.2 ∧ (t.procAt key).img (1 - page) = (s.procAt key).img (1 - page))
         ∧ (m.loaded = true → r.1.reason ≠ 0 → Ends c .refused [r.1.wcMain, r.1.wcEvent, r.1.reason] s t
             ∧ t.rd F.LAST_REFUSE (s.seqBase key) = r.1.reason % 2 ^ (F.LAST_REFUSE.hi + 1 - F.LAST_REFUSE.lo)
             ∧ (r.1.reason ≠ reasonBUDGET → t.procs = s.procs)
             ∧ (r.1.reason = reasonBUDGET → (t.procAt key).img page = { r.2 with admitted := m.admitted, wcMain := m.wcMain, wcEvent := m.wcEvent }
               ∧ (t.procAt key).img (1 - page) = (s.procAt key).img (1 - page)))
         ∧ (m.loaded = false → Ends c .refused [0, 0, reasonSTATE] s t ∧ t.procs = s.procs))
  ∧ (∀ (c : CmdRef) (d : DispCmd) (s : State), s.up = true → d.procKey ≠ 0 →
       let key := d.procKey
       let page := (s.rd F.LIVE_PAGE (s.seqBase key) + 1) % 2
       (s.cmdOf c 0x03 .fresh = some d → ¬ (d.tkind = 0 ∧ s.hover d.target = true) →
           (((s.procAt key).img page).admitted = true → ∃ t, exec (.progStart c) s = .next t ∧ Enters c .running s t
               ∧ t.rd F.START_PEND (s.seqBase key) = 1 ∧ (t.procAt key).cmds = (s.procAt key).cmds ++ [(d.slot, .start c)])
             ∧ (((s.procAt key).img page).admitted = false → ∃ t, exec (.progStart c) s = .next t ∧ Ends c .refused [0, 0, reasonSTATE] s t ∧ t.procs = s.procs))
         ∧ (∀ bytes, s.cmdOf c 0x01 .reading = some d → s.host.d3 = false → ∃ t, exec (.hostReadComplete c (some bytes)) s = .next t
             ∧ Ends c .ok [] s t ∧ t.rd F.STAGED (s.seqBase key) = 1 ∧ t.rd F.ADMITTED (s.seqBase key) = 0
             ∧ (t.procAt key).img page = parseImage (bytes.take d.loadLen)))

/-! Lanes and ribbons (R153 to R192). -/

/-- What a write does to a field, by its access code (R3, R6, R365): an RW field written with every byte enabled holds the value clamped; with no byte
enabled it keeps its value; ones clear the bits of a W1C field; RO, RC and WO fields hold nothing that a write sets; other fields of the word stay. -/
def Obligations.FieldWriteRules : Prop :=
  ∀ (v held : W32) (be : Nat) (r : RegRow), r.f.lo ≤ r.f.hi → r.f.hi < 32 →
    let was := bitsOf r.f.hi r.f.lo held
    let n := bitsOf r.f.hi r.f.lo v
    let now := bitsOf r.f.hi r.f.lo (writeField v be held r)
    let width := r.f.hi + 1 - r.f.lo
    (r.acc = .rw → be % 16 = 15 → now = r.clamp.apply n % 2 ^ width)
      ∧ (be % 16 = 0 → now = was)
      ∧ (r.acc = .w1c → be % 16 = 15 → ∀ i, i < width → bitAt now i = (bitAt was i && !bitAt n i))
      ∧ (r.acc ≠ .rw → r.acc ≠ .w1c → now = was)
      ∧ ∀ hi lo, lo ≤ hi → hi < r.f.lo ∨ r.f.hi < lo → bitsOf hi lo (writeField v be held r) = bitsOf hi lo held

/-- A register write by address changes that word alone, to what its field table makes of it; an offset that no register has ignores it (R4, R365). The
words of LN_CTL, LN_RATE and RIB_CTL act at the next boundary: what is in effect stays, and the word is marked for the boundary; the rate held is one
that the modulation can have. A coefficient word acts at once (R157, R159, R168). TX_FFE: the taps are clamped in three steps, so that their
magnitudes sum to at most 63 and the main tap is 16 to 63 (R160). The model's own choices that clauses rest on: assumptions 37, 88, 89. -/
def Obligations.LaneSettings : Prop :=
  ((∀ (s : State) (a : Nat) (v : W32) (be : Nat), OnlyRegs [a] s (s.mergeWrite a v be) ∧ (locate a = none → s.mergeWrite a v be = s)
       ∧ ∀ b inst o, locate a = some (b, inst, o) →
           (s.mergeWrite a v be).reg a = (rowsAt b inst o).foldl (fun w r => writeField v be w r.1) (s.reg a))
     ∧ (∀ (l : Lane) (word : Fin 7) (v : W32) (be : BitVec 4) (s : State), s.up = true →
         ∃ t, exec (.coefficientWrite l word v be) s = .next t ∧ OnlyRegs [coefAddr l.val word.val] s t
           ∧ t.reg (coefAddr l.val word.val) = (s.mergeWrite (coefAddr l.val word.val) v be.toNat).reg (coefAddr l.val word.val))
     ∧ (∀ (r : Ribbon) (v : W32) (be : BitVec 4) (s : State), s.up = true →
         ∃ t, exec (.ribCtlWrite r v be) s = .next t ∧ t = { s with regs := t.regs, dirty := s.dirty ++ [F.RIB_BOND.at (RIBBON r.val) 0 0] }
           ∧ t.reg (F.RIB_BOND.at (RIBBON r.val) 0 0) = (s.mergeWrite (F.RIB_BOND.at (RIBBON r.val) 0 0) v be.toNat).reg (F.RIB_BOND.at (RIBBON r.val) 0 0))
     ∧ (∀ (l : Lane) (v : W32) (be : BitVec 4) (s : State), s.up = true → (s.laneAt l.val).group.2 = 1 →
         (∃ t, exec (.lnCtlWrite l v be) s = .next t ∧ t = { s with regs := t.regs, dirty := s.dirty ++ [ctlAddr l.val, rateAddr l.val] }
             ∧ (∀ a, a ≠ ctlAddr l.val → a ≠ rateAddr l.val → t.reg a = s.reg a)
             ∧ (t.ln F.LN_MOD l.val = 0 → 1000000 ≤ t.ln F.LN_RATE_KBPS l.val ∧ t.ln F.LN_RATE_KBPS l.val ≤ 58000000)
             ∧ (t.ln F.LN_MOD l.val ≠ 0 → 20000000 ≤ t.ln F.LN_RATE_KBPS l.val ∧ t.ln F.LN_RATE_KBPS l.val ≤ 112500000))
           ∧ (∃ t, exec (.lnRateWrite l v be) s = .next t ∧ t = { s with regs := t.regs, dirty := s.dirty ++ [rateAddr l.val] }
             ∧ (∀ a, a ≠ rateAddr l.val → t.reg a = s.reg a)
             ∧ (t.ln F.LN_MOD l.val = 0 → 1000000 ≤ t.ln F.LN_RATE_KBPS l.val ∧ t.ln F.LN_RATE_KBPS l.val ≤ 58000000)
             ∧ (t.ln F.LN_MOD l.val ≠ 0 → 20000000 ≤ t.ln F.LN_RATE_KBPS l.val ∧ t.ln F.LN_RATE_KBPS l.val ≤ 112500000))))
  ∧ ((∀ m2 m1 c0 p1 p2 : Int, match ffeClamp m2 m1 c0 p1 p2 with
         | (a, b, c, d, e) => a.natAbs + b.natAbs + c.natAbs + d.natAbs + e.natAbs ≤ 63 ∧ 16 ≤ c ∧ c ≤ 63
             ∧ a.natAbs ≤ 8 ∧ -24 ≤ b ∧ b ≤ 0 ∧ -24 ≤ d ∧ d ≤ 0 ∧ e.natAbs ≤ 8
             ∧ (a.natAbs ≤ m2.natAbs ∧ b.natAbs ≤ m1.natAbs ∧ d.natAbs ≤ p1.natAbs ∧ e.natAbs ≤ p2.natAbs)
             ∧ (-8 ≤ m2 → m2 ≤ 8 → -24 ≤ m1 → m1 ≤ 0 → 16 ≤ c0 → -24 ≤ p1 → p1 ≤ 0 → -8 ≤ p2 → p2 ≤ 8 →
                 m2.natAbs + m1.natAbs + c0.natAbs + p1.natAbs + p2.natAbs ≤ 63 → (a, b, c, d, e) = (m2, m1, c0, p1, p2)))
       ∧ ∀ (l : Lane) (v : W32) (be : BitVec 4) (s : State), s.up = true → ∃ t, exec (.txFfeWrite l v be) s = .next t
           ∧ OnlyRegs [F.TX_C_M2.at (RIBBON (l.val / 8)) (l.val % 8) 0] s t
           ∧ 16 ≤ t.ln F.TX_C0 l.val
           ∧ (toSigned 5 (t.ln F.TX_C_M2 l.val)).natAbs + (toSigned 6 (t.ln F.TX_C_M1 l.val)).natAbs + t.ln F.TX_C0 l.val
               + (toSigned 6 (t.ln F.TX_C_P1 l.val)).natAbs + (toSigned 5 (t.ln F.TX_C_P2 l.val)).natAbs ≤ 63)

/-- LANE_UP: the lane is UP with signal, clock recovery and the PCS locked (PCS_LOCK stays 0 in BYPASS); its latency and skew are within what R67 and R168
allow, as is the frequency recovered (free values, assumption 5), which the transmitters in LOOP that name the lane follow (R161); registers outside
the lane's are as they were, but for the phase of the start that the last lane ends (R171, R515). Lanes that leave UP or IDLE (R171, R178, R185): loss
of lock takes a lane to ACQUIRE with its locks and its cause bit; the end of the signal takes it to IDLE; signal again takes it to ACQUIRE; a fault
takes it to FAULT with its cause. The model's own choices that clauses rest on: assumptions 34, 35, 94. -/
def Obligations.LaneStates : Prop :=
  (∀ (l : Lane) (off : Nat) (s : State), s.lanesOn = true → s.ln F.LN_LSTATE l.val = 1 → s.rxBusy l.val = false →
     ∃ t, exec (.laneUp l off) s = .next t ∧ t.ln F.LN_LSTATE l.val = 2 ∧ t.ln F.LN_SIGDET l.val = 1 ∧ t.ln F.LN_CDR_LOCK l.val = 1
       ∧ t.ln F.LN_PCS_LOCK l.val = (if s.pcsOf l.val = 0 then 0 else 1) ∧ t.ln F.LN_FE_LAT l.val ≤ 116 ∧ t.ln F.LN_SKEW l.val ≤ 204
       ∧ -5300 ≤ (t.laneAt l.val).rxPpm ∧ (t.laneAt l.val).rxPpm ≤ 300
       ∧ (∀ i, i < 8 → s.lnCtl F.LN_TX_CLK (l.val / 8 * 8 + i) = 1 → l.val / 8 * 8 + s.ln F.LN_TX_CLK_LANE (l.val / 8 * 8 + i) = l.val →
           (t.laneAt (l.val / 8 * 8 + i)).txHeld = some (t.laneAt l.val).rxPpm)
       ∧ t = { s with regs := t.regs, lanes := t.lanes, fresh := t.fresh, off := t.off }
       ∧ ∀ a, a ≠ F.ST_PHASE.at DEV 0 0 →
           a < RIBBON (l.val / 8) + 0x100 + 0x40 * (l.val % 8) ∨ RIBBON (l.val / 8) + 0x140 + 0x40 * (l.val % 8) ≤ a → t.reg a = s.reg a)
  ∧ (∀ (l : Lane) (off : Nat) (cause : BitVec 4) (s : State), s.lanesOn = true →
       let unlocked := fun (t : State) => t.ln F.LN_CDR_LOCK l.val = 0 ∧ t.ln F.LN_PCS_LOCK l.val = 0
       (s.ln F.LN_LSTATE l.val = 2 → ∃ t, exec (.lossOfLock l off) s = .next t ∧ t.ln F.LN_LSTATE l.val = 1 ∧ unlocked t ∧ bitAt (t.laneCause l.val) 0 = true)
         ∧ (s.ln F.LN_LSTATE l.val = 2 → ∃ t, exec (.elecIdle l off) s = .next t ∧ t.ln F.LN_LSTATE l.val = 3 ∧ unlocked t
             ∧ t.ln F.LN_SIGDET l.val = 0 ∧ bitAt (t.laneCause l.val) 2 = true)
         ∧ (s.ln F.LN_LSTATE l.val = 3 → s.rxBusy l.val = false → ∃ t, exec (.signalDetect l off) s = .next t ∧ t.ln F.LN_LSTATE l.val = 1
             ∧ t.ln F.LN_SIGDET l.val = 1 ∧ unlocked t)
         ∧ (s.ln F.LN_LSTATE l.val ≠ 4 → 1 ≤ cause.toNat → cause.toNat ≤ 5 → ∃ t, exec (.laneFault l cause off) s = .next t
             ∧ t.ln F.LN_LSTATE l.val = 4 ∧ unlocked t ∧ t.ln F.LN_FAULT_CAUSE l.val = cause.toNat ∧ (t.laneAt l.val).sending = false
             ∧ ∀ q ∈ (t.laneAt l.val).runs ++ (t.laneAt l.val).waiting, q.kind = 4))

/-- Transmission and moves (R164, R182 to R184): a lane that sends with no byte in its prefill buffer underruns, which stops the sending of that lane
alone; a reported fault asks for a move of its ribbon alone; a move that has run its time names the new position in the map, and the processor runs
again. Quiet windows of lanes and patches (R188, R482): a write's length waits for the boundary that opens its window; a window with no stitch left
ends. Lane requests (R186, R187, R189): a request, a self-test of a lane among them as an analog test (R483), waits, marked with its length, for the
next boundary to take it up; one that has run its time ends, as forced where stitches fell outside a quiet window; a failed analog test leaves the
lane in FAULT. The model's own choices that clauses rest on: assumptions 3, 38, 90. -/
def Obligations.LaneRequests : Prop :=
  (∀ (l : Lane) (r : Ribbon) (off : Nat) (s : State), s.up = true →
     (s.txRuns l.val = true → (s.laneAt l.val).sending = true → (s.laneAt l.val).level = 0 → ∃ t, exec (.txUnderrun l off) s = .next t
         ∧ (t.laneAt l.val).sending = false ∧ (t.laneAt l.val).prefill = [] ∧ t.off = s.clampOff off
         ∧ (∀ m, m ≠ l.val → t.laneAt m = s.laneAt m) ∧ t.regs = s.regs)
       ∧ ((s.ribAt r.val).moveTo = none → ∃ t, exec (.rspMove r off) s = .next t ∧ (t.ribAt r.val).moveReq = true
           ∧ (∀ q, q ≠ r.val → t.ribAt q = s.ribAt q) ∧ t = { s with ribs := t.ribs, off := t.off })
       ∧ (∀ q, (s.ribAt r.val).moveTo = some q → (s.ribAt r.val).moveLeft = 0 → q < 34 → q ≠ s.rsp r.val →
           ∃ t, exec (.rspMoveComplete r) s = .next t ∧ t.rsp r.val = q ∧ (t.ribAt r.val).moveTo = none ∧ t.rd F.RSPH_MOVING (RIBBON q) = 0
             ∧ (t.procAt (32 + r.val)).frozen = false))
  ∧ (∀ (l : Lane) (k : LPatch) (v : W32) (s : State), s.up = true →
       (∃ t, exec (.quietWrite l v 15) s = .next t ∧ (t.laneAt l.val).quiet = some (v.toNat % 65536) ∧ t = { s with lanes := t.lanes }
           ∧ ∀ m, m ≠ l.val → t.laneAt m = s.laneAt m)
         ∧ (s.ln F.Q_OPEN l.val = 1 → s.ln F.Q_QUIET_LEN l.val = 0 → ∃ t, exec (.quietWindowEnd l) s = .next t ∧ t.ln F.Q_OPEN l.val = 0
             ∧ OnlyRegs [F.Q_OPEN.at (RIBBON (l.val / 8)) (l.val % 8) 0] s t)
         ∧ (s.cfg.released = true → s.posView (s.ppos k.val) = .normal → ∃ t, exec (.pquietWrite k v 15) s = .next t ∧ t = { s with res := t.res }
             ∧ t.res.pq.get (fun _ => 0) k.val = v.toNat % 65536))
  ∧ ((∀ (c : CmdRef) (d : DispCmd) (kind cycles : Nat) (s : State), s.up = true → s.cmdOf c 0x28 .fresh = some d ∨
           s.cmdOf c 0x28 .fresh = none ∧ s.cmdOf c 0x29 .fresh = some d → d.tkind = 3 →
         (if d.opcode = 0x29 then 4 else if 4 < d.param 8 1 then 0 else d.param 8 1) = kind →
         (kind, cycles) ∈ [(0, 0), (1, 64000), (2, 640000), (3, 32000), (4, 320000)] →
         ∃ t q, exec (if kind = 0 then .eyeScan c else if kind = 1 then .ctleRecal c else if kind = 2 then .rxRetrain c
                 else if kind = 3 then .txRecal c else .analogTest c) s = .next t
           ∧ Enters c .waiting s t ∧ (t.laneAt d.target).waiting = (s.laneAt d.target).waiting ++ [q] ∧ q.c = c ∧ q.kind = kind ∧ q.left = cycles
           ∧ q.force = d.force ∧ t = { s with host := t.host, lanes := t.lanes } ∧ ∀ m, m ≠ d.target → t.laneAt m = s.laneAt m)
       ∧ ∀ (l : Lane) (pass : Bool) (cause : BitVec 4) (q : LaneReq) (s : State), s.up = true →
           (s.laneAt l.val).runs.find? (fun q => q.left == 0) = some q → ∃ t, exec (.laneReqEnd l pass cause) s = .next t ∧ t.cmd q.c = none
             ∧ ⟨q.c, if 0 < q.outside then .forced else .ok, [BitVec.ofNat 32 q.outside, if q.kind = 4 ∧ pass = true then 1 else 0]⟩ ∈ t.host.done
             ∧ (q.kind = 4 → pass = false → t.ln F.LN_LSTATE l.val = 4 ∧ t.ln F.LN_FAULT_CAUSE l.val = cause.toNat))

/-- RECEIVED_UNIT: on a lane group that is UP, a unit of its mode's form passes an empty elastic buffer at once: a slot whose patch runs takes it under
the slot's next number (R166, R226); with no patch that takes it, it is lost and the next one carries a discontinuity; while its patch is frozen or in
a layer reset it waits (R162). Behind units that wait it waits too; where it does not fit, whole units are discarded, newest first, until it does
(R163). The model's own choices that clauses rest on: assumptions 3, 87, 91, 92. -/
def Obligations.ReceivedUnits : Prop :=
  ∀ (l : Lane) (u : RxUnit) (off : Nat) (s : State), s.lanesOn = true → s.firstLane l.val = l.val → s.groupUp l.val = true →
    unitFits u (s.pcsOf l.val) = true → (∀ x ∈ s.stack.late, x.lane ≠ l.val) → u.bytes.length ≤ s.ebRoom l.val →
    let eb := fun (s : State) => (s.laneAt l.val).eb
    let room := s.ebRoom l.val
    let n := u.bytes.length
    let lost := fun (t : State) => eb t = [] ∧ (t.laneAt l.val).disc = true ∧ t.off = s.clampOff off ∧ t.fabs = s.fabs
    (eb s = [] → s.laneSlot l.val = none → ∃ t, exec (.receivedUnit l u off) s = .next t ∧ lost t)
      ∧ (∀ k slot, eb s = [] → s.laneSlot l.val = some (k, slot) →
          (s.takesUnits k = false → s.unitsWait k = false → ∃ t, exec (.receivedUnit l u off) s = .next t ∧ lost t)
          ∧ (s.takesUnits k = false → s.unitsWait k = true → ∃ t e, exec (.receivedUnit l u off) s = .next t ∧ eb t = [e] ∧ e.u = some u
              ∧ (t.laneAt l.val).disc = (s.laneAt l.val).disc ∧ t.fabs = s.fabs)
          ∧ (s.takesUnits k = true → ∃ t, exec (.receivedUnit l u off) s = .next t ∧ eb t = [] ∧ (t.laneAt l.val).disc = false
            ∧ (t.fabAt k).rxUnit.get (fun _ => 0) slot = ((s.fabAt k).rxUnit.get (fun _ => 0) slot + 1) % 65536
            ∧ (∃ b, (t.fabAt k).rx.get (fun _ => []) slot = (s.fabAt k).rx.get (fun _ => []) slot ++ [b] ∧ b.bytes = u.bytes
                ∧ b.unit = (s.fabAt k).rxUnit.get (fun _ => 0) slot)
            ∧ ∀ m, m ≠ k → t.fabAt m = s.fabAt m))
      ∧ (eb s ≠ [] → ebLevel (eb s) + n ≤ room → ∃ t e, exec (.receivedUnit l u off) s = .next t ∧ eb t = eb s ++ [e] ∧ e.u = some u
          ∧ (t.laneAt l.val).disc = (s.laneAt l.val).disc ∧ t.fabs = s.fabs)
      ∧ ∀ m, 1 ≤ m → m < (eb s).length → ebLevel ((eb s).take m) + n ≤ room → room < ebLevel ((eb s).take (m + 1)) + n →
          (∀ x ∈ eb s, x.u.isSome) →
          ∃ t e, exec (.receivedUnit l u off) s = .next t ∧ eb t = (eb s).take m ++ [e] ∧ e.u = some u ∧ (t.laneAt l.val).disc = true
            ∧ t.fabs = s.fabs

/-! Time (R47 to R76). -/

/-- The period: a write of N_REQ keeps the clamped value and leaves the settling to the next boundary (R49, R60), with the smaller budget at once while a
change is pending (R62); a follower ignores it (R64). The change takes the announced period, its budget (R48) and an epoch entry at the boundary that
opens the stitch (R60, R66). -/
def Obligations.PeriodChanges : Prop :=
  (∀ (v : BitVec 8) (s : State), s.up = true → s.follower = false →
      ∃ t, exec (.nReqWrite v) s = .next t ∧ t.rd F.STC_N_REQ DEV = max 1 (min 128 v.toNat) ∧ t.rd F.STC_N_NOW DEV = s.rd F.STC_N_NOW DEV
        ∧ t.rd F.STC_PEND DEV = s.rd F.STC_PEND DEV
        ∧ (s.rd F.STC_PEND DEV = 1 → t.rd F.BUD_B_ADMIT DEV = min (budget (s.rd F.STC_N_NOW DEV)) (budget (max 1 (min 128 v.toNat))))
        ∧ t = { s with regs := t.regs, time := { s.time with announce := true } }
        ∧ ∀ a, a ∉ [F.STC_N_REQ.at DEV 0 0, F.BUD_B_ADMIT.at DEV 0 0] → t.reg a = s.reg a)
    ∧ (∀ (v : BitVec 8) (s : State), s.up = true → s.follower = true → exec (.nReqWrite v) s = .next s)
    ∧ (∀ n, 1 ≤ n → n ≤ 128 → budget n = 64 * n / 2 - 8)
    ∧ ∀ s : State, s.up = true → s.time.due = 1 → s.rd F.STC_PEND DEV = 1 → 1 ≤ s.time.newN → s.time.newN ≤ 128 →
        let e := (s.rd F.EP_NEWEST DEV + 1) % 8
        ∃ t, exec .periodChange s = .next t ∧ t.rd F.STC_N_NOW DEV = s.time.newN ∧ t.period = 64 * s.time.newN ∧ t.rd F.STC_PEND DEV = 0
          ∧ t.rd F.BUD_B_NOW DEV = budget s.time.newN ∧ t.rd F.BUD_B_ADMIT DEV = budget s.time.newN ∧ t.time = { s.time with due := 0, since := s.stitch, before := s.period }
          ∧ t.rd F.EP_NEWEST DEV = e ∧ t.rd F.EP_VALID DEV e = 1 ∧ t.rd F.EP_N DEV e = s.time.newN
          ∧ t.reg (F.EP_STITCH_LO.at DEV e 0) = BitVec.ofNat 32 s.stitch.toNat
          ∧ t.reg (F.EP_STITCH_HI.at DEV e 0) = BitVec.ofNat 32 (s.stitch.toNat / 2 ^ 32)
          ∧ t.reg (F.EP_ROOT_LO.at DEV e 0) = BitVec.ofNat 32 s.time.root ∧ t.reg (F.EP_ROOT_HI.at DEV e 0) = BitVec.ofNat 32 (s.time.root / 2 ^ 32)
          ∧ t = { s with regs := t.regs, procs := t.procs, evq := t.evq, time := t.time }

/-- The read of STITCH_LO returns the counter's lower word and captures its upper word and the offset of that instant (R59). A boundary of a running
counter opens the stitch with the next number, at offset 0, and adds the period that ended to the root time (R47, R55); the first boundary of a start
opens stitch 0 with epoch entry 0 (R55, R66). Stated of the counter's own operation, which the boundary runs first; the boundary keeps its stitch
number in a device that no system reset takes down. The model's own choices that clauses rest on: assumptions 3, 71. -/
def Obligations.StitchCounter : Prop :=
  (∀ (off : Nat) (s : State), s.halted = false →
     ∃ t, exec (.stitchLoRead off) s = .next t ∧ t.resp = BitVec.ofNat 32 s.stitch.toNat
       ∧ t.reg (F.STITCH_HI.at DEV 0 0) = BitVec.ofNat 32 (s.stitch.toNat / 2 ^ 32) ∧ t.off = s.clampOff off
       ∧ t.rd F.OFFSET_NOW DEV = s.clampOff off % 8192 ∧ t = { s with regs := t.regs, off := t.off, resp := t.resp }
       ∧ ∀ a, a ∉ [F.STITCH_HI.at DEV 0 0, F.OFFSET_NOW.at DEV 0 0] → t.reg a = s.reg a)
  ∧ ((∀ (p : Nat) (s : State), s.time.counting = true → s.sys.align = none → s.sys.alignEpoch = none →
         s.advance p = { s with stitch := s.stitch + 1, off := 0, time := { s.time with root := s.time.root + p, run := s.time.run + p } })
       ∧ (∀ (p : Nat) (s : State), s.time.counting = false → (s.advance p).stitch = 0 ∧ (s.advance p).off = 0 ∧ (s.advance p).time.root = 0
           ∧ (s.advance p).time.counting = true ∧ (s.advance p).rd F.EP_VALID DEV 0 = 1 ∧ (s.advance p).rd F.EP_NEWEST DEV = 0
           ∧ (s.advance p).rd F.EP_N DEV 0 = s.rd F.STC_N_NOW DEV ∧ (s.advance p).reg (F.EP_STITCH_LO.at DEV 0 0) = 0)
       ∧ (∀ (p : Nat) (s : State) (a : AlignSt), s.time.counting = true → s.sys.align = some a →
           (s.advance p).stitch = a.stitch ∧ (s.advance p).off = 0 ∧ (s.advance p).time.root = a.root ∧ (s.advance p).sys.align = none)
       ∧ ∀ s : State, s.clk.locked = true → s.sys.resetAt = none → ∃ t, exec .stitchBoundary s = .next t ∧ t.stitch = (s.advance s.period).stitch)

/-- SYNC_IN: an edge is stamped (R57, R70), and the registers of the last accepted edge show the stamp of an edge that is accepted, or that no reference
can judge (R74, R76); the first is the reference, with no error; a later one within its window of a whole number k of seconds is accepted, by the
nearest k that has it in its window (the model's reading, assumption 12), its error is what it differs by from the expected edge, which DISCIPLINE
steers by (R71), and the next edge is expected k seconds on; an edge in no window is counted as rejected and changes nothing else that registers show;
1.5 s without an accepted edge while DISCIPLINE is effective is the holdover (R72). The model's own choices that clauses rest on: assumptions 3, 12. -/
def Obligations.SyncEdgesAndHoldover : Prop :=
  ∀ (off : Nat) (s : State), s.up = true →
    let now := (s.tick off).rootNow
    let shown := fun (t : State) => t.reg (F.SYNC_EDGE_STITCH_LO.at CLK 0 0) = BitVec.ofNat 32 s.stitch.toNat
        ∧ t.reg (F.SYNC_EDGE_STITCH_HI.at CLK 0 0) = BitVec.ofNat 32 (s.stitch.toNat / 2 ^ 32)
        ∧ t.rd F.SYNC_EDGE_OFFSET CLK = (s.tick off).now.off % 8192
    let stamped := fun (t : State) => t.time.edge = some (s.tick off).now ∧ t.off = s.clampOff off
    (s.rd F.SYNC_EFFECTIVE CLK ≠ 0 → s.time.degraded = true → ∃ t, exec (.syncInEdge off) s = .next t ∧ stamped t ∧ shown t
        ∧ t.time = { s.time with edge := t.time.edge })
      ∧ (s.rd F.SYNC_EFFECTIVE CLK ≠ 0 → s.time.degraded = false → s.time.syncRef = none → ∃ t, exec (.syncInEdge off) s = .next t ∧ stamped t
        ∧ shown t ∧ t.time.syncRef = some now ∧ t.time.expected = now + 3200000000 ∧ t.reg (F.SYNC_ERR.at CLK 0 0) = 0)
      ∧ (∀ last, s.rd F.SYNC_EFFECTIVE CLK ≠ 0 → s.time.degraded = false → s.time.syncRef = some last →
          let far := fun (k : Nat) => (((now - last : Nat) : Int) - 3200000000 * k).natAbs
          let within := fun (k : Nat) => 1 ≤ k ∧ far k ≤ 3200 * k * s.rd F.SYNC_WINDOW CLK
          let err := (now : Int) - s.time.expected
          (∀ k, within k → 2 * far k < 3200000000 → ∃ t, exec (.syncInEdge off) s = .next t ∧ stamped t ∧ shown t
              ∧ t.time.syncRef = some now ∧ t.time.expected = s.time.expected + 3200000000 * k
              ∧ t.reg (F.SYNC_ERR.at CLK 0 0) = BitVec.ofInt 32 err ∧ t.rd F.SYNC_IN_HOLD CLK = 0
              ∧ t.time.freqAdj = if s.rd F.SYNC_EFFECTIVE CLK = 2 then clampInt (-1280000) 1280000 (s.time.freqAdj - clampInt (-51200) 51200 err)
                  else s.time.freqAdj)
          ∧ (∀ k, within k → ∃ t, exec (.syncInEdge off) s = .next t ∧ stamped t ∧ shown t ∧ t.time.syncRef = some now)
          ∧ ((∀ k, ¬ within k) → ∃ t, exec (.syncInEdge off) s = .next t ∧ stamped t ∧ t.time = { s.time with edge := t.time.edge }
              ∧ OnlyRegs [F.SYNC_REJECTS.at CLK 0 0] { s with off := t.off, time := t.time } t
              ∧ t.rd F.SYNC_REJECTS CLK = min 65535 (s.rd F.SYNC_REJECTS CLK + 1)))
      ∧ (s.rd F.SYNC_EFFECTIVE CLK = 2 → s.rd F.SYNC_IN_HOLD CLK = 0 → max s.time.discFrom s.time.accepted + 4800000000 ≤ now →
          ∃ t, exec (.holdover off) s = .next t ∧ t.rd F.SYNC_IN_HOLD CLK = 1 ∧ t.rd F.SYNC_LOCKED CLK = 0 ∧ t.time.holdover = true
            ∧ t.time.good = 0 ∧ t.time.freqAdj = s.time.freqAdj ∧ t = { s with regs := t.regs, time := t.time, evq := t.evq, off := t.off }
            ∧ ∃ e, t.evq = s.evq ++ [e] ∧ e.code = 0x22)

/-! The fabric of a logical patch (R193 to R228). -/

/-- Contention disables the line, counts it among the disabled, logs it with the stitch, and raises its event to the host and the patch; a recurrence
within 1,024 stitches of its re-enabling locks it (R200 to R204). `u` is the state in which the fabric has run up to the offset. Every write of
PLANE_CTL waits for the next boundary with what it asks for: a load, a swap, and whether and on which line a swap is armed (R209 to R213); during a
handover it waits for the drain. A patch that is frozen holds the write for its new position, one on trial or gone ignores it (R545), as does one
whose layer has lost its clocks (R499, R511, R526). The last frame of a plane load makes its shadow ready for the next boundary; a frame that failed
twice ends the load, drops a swap that waits, and is reported (R209, R210, R214). The logic of a plane: a bus line that is disabled, or whose drivers
are all disabled, reads 0, and one with one driver enabled its value (R199, R200); at an edge of its domain, and at no other, a flip-flop takes what
its enable, its clear and its input give (R193, R216); a plane begins with every element at its initial value, and at a swap an element takes that,
its own value or that of the outgoing plane, by its carry mode (R206). The model's own choices that clauses rest on: assumptions 3, 42, 78, 95, 96. -/
def Obligations.ContentionAndPlanes : Prop :=
  (∀ (k : LPatch) (half : Bool) (line : BitVec 9) (off : Nat) (s : State),
     let b := s.pb k.val
     let u := (s.tick off).clockNow k.val
     let is := fun (x : BusLine) => x.half == half && x.line == line.toNat
     let again := (u.fabAt k.val).lines.find? is |>.any (fun x => x.reen.any (fun r => decide (u.stitch.toNat ≤ r.toNat + 1024)))
     s.fabricRuns k.val = true → (∀ x, (s.fabAt k.val).lines.find? is = some x → x.off = false) →
       ∃ t e, exec (.busContention k half line off) s = .next t
         ∧ (t.fabAt k.val).lines = (u.fabAt k.val).lines.filter (fun x => !is x)
             ++ [⟨half, line.toNat, true, again, driverFrames (u.fabAt k.val).aCfg half line.toNat, none⟩]
         ∧ t.rd F.CONT_DISABLED b = ((t.fabAt k.val).lines.filter (fun x => x.off)).length % 2048
         ∧ t.rd F.CLOG_LINE b e = line.toNat ∧ t.rd F.CLOG_HALF b e = bit half ∧ t.rd F.CLOG_STATE b e = (if again then 2 else 0)
         ∧ t.reg (F.CLOG_STITCH.at b e 0) = BitVec.ofNat 32 s.stitch.toNat
         ∧ (∃ ev, t.evq = u.evq ++ [ev] ∧ ev.code = 0x03)
         ∧ (bitAt (s.rd F.EVT_EN b) 5 = true → bitAt (t.rd F.EVT_PEND b) 5 = true)
         ∧ t = { u with regs := t.regs, fabs := t.fabs, evq := t.evq, procs := t.procs }
         ∧ (∀ m, m ≠ k.val → t.fabAt m = s.fabAt m)
         ∧ ((s.fabAt k.val).aCfg = [] → (s.fabAt k.val).recvQ = [] → u = s.tick off))
  ∧ (∀ (k : LPatch) (v : W32) (c : Instr) (s : State), s.stackOn = true →
       (c = .loadGo k v ∧ F.PLC_LOAD_GO.wants v 15 = 1) ∨ (c = .swap k v ∧ F.PLC_SWAP.wants v 15 = 1) ∨ c = .swapOnTrig k v →
       let slot := min 5 (bitsOf 2 0 v)
       let req : PlaneReq := ⟨if bitsOf 3 3 v = 1 then some slot else none, bitsOf 4 4 v == 1, bitsOf 5 5 v == 1, bitsOf 13 8 v⟩
       (s.posView (s.ppos k.val) = .normal → s.silent .patch 0x100 = false → ∃ t, exec c s = .next t
           ∧ t.fabAt k.val = (if s.hover k.val then { s.fabAt k.val with heldReqs := (s.fabAt k.val).heldReqs ++ [req] }
               else { s.fabAt k.val with reqs := (s.fabAt k.val).reqs ++ [req] })
           ∧ t = { s with regs := t.regs, fabs := t.fabs } ∧ (∀ m, m ≠ k.val → t.fabAt m = s.fabAt m)
           ∧ ∀ a, a ≠ s.pb k.val + 0x100 → t.reg a = s.reg a)
         ∧ (s.posView (s.ppos k.val) = .frozen → ∃ t, exec c s = .next t
             ∧ t = { s with res := { s.res with held := s.res.held ++ [⟨.host, s.pb k.val + 0x100, v, 15⟩] } })
         ∧ (s.posView (s.ppos k.val) = .own ∨ s.posView (s.ppos k.val) = .normal ∧ s.silent .patch 0x100 = true → exec c s = .next s))
  ∧ (∀ (k : LPatch) (s : State), s.stackOn = true → s.hover k.val = false → s.rd F.PLS_LOADING (s.pb k.val) = 1 → (s.fabAt k.val).loadDone = false →
       ((s.fabAt k.val).loadLeft + 8 ≤ s.period → ∃ t, exec (.planeLoadEnd k false) s = .next t
           ∧ t.fabAt k.val = { s.fabAt k.val with loadDone := true, loadLeft := 0 } ∧ t.rd F.PLS_LOAD_FRAMES (s.pb k.val) = 1800 ∧ t.rd F.PLS_LOADING (s.pb k.val) = 1 ∧ t.evq = s.evq
           ∧ (bitAt (s.rd F.EVT_EN (s.pb k.val)) 8 = true → bitAt (t.rd F.EVT_PEND (s.pb k.val)) 8 = true))
         ∧ ∃ t, exec (.planeLoadEnd k true) s = .next t ∧ t.rd F.PLS_LOADING (s.pb k.val) = 0 ∧ t.rd F.PLS_LOAD_BAD (s.pb k.val) = 1
           ∧ t.rd F.PLS_SWAP_PEND (s.pb k.val) = 0 ∧ t.rd F.PLS_SHADOW_VALID (s.pb k.val) = s.rd F.PLS_SHADOW_VALID (s.pb k.val)
           ∧ (t.fabAt k.val).active = (s.fabAt k.val).active ∧ (t.fabAt k.val).shadow = (s.fabAt k.val).shadow ∧ (t.fabAt k.val).loadNext = none
           ∧ ∃ e, t.evq = s.evq ++ [e] ∧ e.code = 0x04)
  ∧ ((∀ (e : FabEnv) (f r n : Nat) (h : Bool), n < 8 →
         let on := (lineDrivers e.items h (8 * r + n)).filter (fun d => e.value f (.sig h d.1 d.2.1))
         (e.off h (8 * r + n) = true → e.value (f + 1) (.row h r n) = false)
           ∧ (on = [] → e.value (f + 1) (.row h r n) = false)
           ∧ ∀ d, e.off h (8 * r + n) = false → on = [d] → e.value (f + 1) (.row h r n) = e.value f (.sig h d.1 d.2.2))
       ∧ (∀ (e : FabEnv) (clk : Bool → Nat → Bool) (key : Nat) (c : CellCfg), ((planeCells e.items).map (fun x => x.1)).Nodup →
           cellAt e.items key = some c →
           (e.edge clk).ffAt key = (if clk (key / 65536 == 1) c.dom.val then e.nextFf key c else e.st.ffAt key)
             ∧ (c.mode = .shift → (e.edge clk).shAt key = if clk (key / 65536 == 1) c.dom.val then e.nextSh key c else e.st.shAt key))
       ∧ ∀ (p : Plane) (own out : PlaneSt) (key : Nat) (c : CellCfg), ((planeCells (planeItems p)).map (fun x => x.1)).Nodup →
           cellAt (planeItems p) key = some c →
           (initState p).ffAt key = c.ffInit
             ∧ (swapState p own out).ffAt key = (if c.ffCarry = 1 then own.ffAt key else if c.ffCarry = 2 then out.ffAt key else c.ffInit))

/-- Bank queues (R218, R219, R329): a write of the mode waits for the next boundary; the owner's push stores its entry at the tail, with no room a FIFO
refuses it and counts, and a RING loses its oldest; the owner's pop takes the oldest entry; any other fabric port is denied. A port's outputs change
once the fabric has run up to that instant. Fabric ports in RAM mode (R218, R329, R337 to R340): the owner reads the bytes at its address in units of
the entry size, or stores its data there, and a word that reads as an error or as poison gives the status ST_POISON; a port that does not own the bank
is denied and changes nothing else. The model's own choices that clauses rest on: assumptions 33, 41, 82. -/
def Obligations.QueuesAndPorts : Prop :=
  (∀ (k : LPatch) (bank : Bank) (owner : BitVec 4) (data : List Byte) (seen : List Ecc) (s : State),
     let pb := s.pb k.val
     let pos := s.ppos k.val
     let x := s.bankAt pos bank.val
     let n := s.entrySize k.val bank.val
     let room := s.queueRoom k.val bank.val
     let own := x.owner = owner.toNat
     let port := fun (t : State) => t.ports.get (fun _ => ⟨false, false, 0, []⟩) (8 * k.val + (owner.toNat - 8))
     let stored := fun (t : State) => ∀ pos' b' w, b' < 8 → w < 131072 → t.bankWord pos' b' w =
       if pos' = pos ∧ b' = bank.val ∧ n * x.qtail / 8 ≤ w ∧ w < n * x.qtail / 8 + n / 8 then
         BitVec.ofNat 64 (leNat ((data.drop (8 * (w - n * x.qtail / 8))).take 8))
       else s.bankWord pos' b' w
     (∀ v : W32, s.stackOn = true → s.posView pos = .normal → s.silent .patch (0x200 + 0x10 * bank.val) = false → ∃ t, exec (.queueModeWrite k bank v 15) s = .next t
         ∧ t.rd F.QC_MODE pb bank.val = (if bitsOf 1 0 v = 3 then 0 else bitsOf 1 0 v) ∧ t.rd F.QC_ESIZE pb bank.val = bitsOf 3 2 v
         ∧ t.eff = s.eff ∧ F.QC_MODE.at pb bank.val 0 ∈ t.dirty ∧ t = { s with regs := t.regs, dirty := t.dirty })
       ∧ (s.fabricRuns k.val = true → s.erd F.QC_MODE pb bank.val ≠ 0 → data.length = n → x.qtail < room → own → x.qlevel < room →
           ∃ t, exec (.queuePush k bank owner data) s = .next t ∧ stored t ∧ (t.bankAt pos bank.val).qhead = x.qhead
             ∧ (t.bankAt pos bank.val).qtail = (x.qtail + 1) % room ∧ (t.bankAt pos bank.val).qlevel = x.qlevel + 1)
       ∧ (s.fabricRuns k.val = true → s.erd F.QC_MODE pb bank.val = 1 → data.length = n → own → room ≤ x.qlevel →
           ∃ t, exec (.queuePush k bank owner data) s = .next t ∧ t.rd F.QC_OVF pb bank.val = min 65535 (s.rd F.QC_OVF pb bank.val + 1)
             ∧ OnlyRegs [F.QC_OVF.at pb bank.val 0] s t)
       ∧ (s.fabricRuns k.val = true → 2 ≤ s.erd F.QC_MODE pb bank.val → data.length = n → x.qtail < room → own → room ≤ x.qlevel →
           ∃ t, exec (.queuePush k bank owner data) s = .next t ∧ stored t ∧ (t.bankAt pos bank.val).qhead = (x.qhead + 1) % room
             ∧ (t.bankAt pos bank.val).qtail = (x.qtail + 1) % room ∧ (t.bankAt pos bank.val).qlevel = x.qlevel)
       ∧ (s.fabricRuns k.val = true → s.erd F.QC_MODE pb bank.val ≠ 0 → own → 0 < x.qlevel →
           ∃ t, exec (.queuePop k bank owner seen) s = .next t ∧ (t.bankAt pos bank.val).qhead = (x.qhead + 1) % room
             ∧ (t.bankAt pos bank.val).qlevel = x.qlevel - 1 ∧ (t.bankAt pos bank.val).qtail = x.qtail
             ∧ ((∀ e ∈ seen, e = .clean) → t.bankAt pos bank.val = { x with qhead := (x.qhead + 1) % room, qlevel := x.qlevel - 1 })
             ∧ (8 ≤ owner.toNat → (port t).valid = true ∧ (port t).deny = false ∧ (port t).data = (s.bankGet k.val bank.val (n * x.qhead) n seen).2.1))
       ∧ (s.fabricRuns k.val = true → s.erd F.QC_MODE pb bank.val ≠ 0 → own → x.qlevel = 0 → 8 ≤ owner.toNat →
           ∃ t, exec (.queuePop k bank owner seen) s = .next t ∧ t.banks = s.banks ∧ (port t).valid = false ∧ (port t).deny = false)
       ∧ (s.fabricRuns k.val = true → s.erd F.QC_MODE pb bank.val ≠ 0 → ¬ own → 8 ≤ owner.toNat → data.length = n →
           (∃ t, exec (.queuePush k bank owner data) s = .next t ∧ t = { s.clockNow k.val with ports := t.ports } ∧ (port t).deny = true)
           ∧ ∃ t, exec (.queuePop k bank owner seen) s = .next t ∧ t = { s.clockNow k.val with ports := t.ports } ∧ (port t).deny = true))
  ∧ (∀ (k : LPatch) (port : Fin 8) (bank : Bank) (addr : BitVec 20) (data : List Byte) (seen : List Ecc) (s : State),
       let pos := s.ppos k.val
       let n := s.entrySize k.val bank.val
       let a := n * addr.toNat % 0x100000
       let own := (s.bankAt pos bank.val).owner = 8 + port.val
       let out := fun (t : State) => t.ports.get (fun _ => ⟨false, false, 0, []⟩) (8 * k.val + port.val)
       s.fabricRuns k.val = true → s.erd F.QC_MODE (s.pb k.val) bank.val = 0 → data.length = n →
         (own → (∀ i, i < n / 8 → s.bankPoison pos bank.val (a / 8 + i) = false) →
             ∃ t, exec (.portAccess k port bank false addr [] [] []) s = .next t ∧ t = { s.clockNow k.val with ports := t.ports } ∧ (out t).valid = true
               ∧ (out t).deny = false ∧ (out t).status = 0 ∧ (out t).data.length = n
               ∧ ∀ i, i < n / 8 → leNat (((out t).data.drop (8 * i)).take 8) = (s.bankWord pos bank.val (a / 8 + i)).toNat)
           ∧ (own → ∃ t, exec (.portAccess k port bank true addr data (List.replicate n true) seen) s = .next t
               ∧ t = { s.clockNow k.val with ports := t.ports, banks := t.banks } ∧ (out t).deny = false ∧ (out t).status = 0
               ∧ ∀ pos' b' w, b' < 8 → w < 131072 → t.bankWord pos' b' w =
                   if pos' = pos ∧ b' = bank.val ∧ a / 8 ≤ w ∧ w < a / 8 + n / 8 then BitVec.ofNat 64 (leNat ((data.drop (8 * (w - a / 8))).take 8))
                   else s.bankWord pos' b' w)
           ∧ (own → (∃ i, i < n / 8 ∧ (nthD .clean seen i = .uncorr ∨ s.bankPoison pos bank.val (a / 8 + i) = true)) →
               ∃ t, exec (.portAccess k port bank false addr [] [] seen) s = .next t ∧ (out t).valid = true ∧ (out t).deny = false
                 ∧ (out t).status = Status.poison.code)
           ∧ (¬ own → ∀ write, ∃ t, exec (.portAccess k port bank write addr data (List.replicate n true) seen) s = .next t
               ∧ t = { s.clockNow k.val with ports := t.ports } ∧ (out t).deny = true ∧ (out t).valid = false))

/-- The exchange network and the transmit port of the fabric: a message joins its patch's send queue while it has room for one more (R220, R222); the
first message that waits for a patch reaches it whole (R221, R223); a unit that the fabric sends joins the prefill buffer of its lane (R288). -/
def Obligations.ExchangeAndTransmitPort : Prop :=
  (∀ (k : LPatch) (flits : List (BitVec 128)) (s : State), s.fabricRuns k.val = true → flits.length = field (flits.headD 0).toNat 12 9 + 1 →
      (s.fabAt k.val).sending + 16 ≤ 64 → ∃ t m, exec (.exchangeSend k flits) s = .next t
        ∧ t.fabAt k.val = { s.fabAt k.val with sendQ := (s.fabAt k.val).sendQ ++ [m] } ∧ m.flits = flits
        ∧ (bitAt (flits.headD 0).toNat 4 = false → m.dests = [(flits.headD 0).toNat % 16])
        ∧ (bitAt (flits.headD 0).toNat 4 = true → ∀ d, d ∈ m.dests ↔ d < 16 ∧ d ≠ k.val)
        ∧ t.rd F.XCH_SENT (s.pb k.val) = (s.rd F.XCH_SENT (s.pb k.val) + 1) % 2 ^ 32 ∧ t.rd F.XCH_TXQ (s.pb k.val) = (t.fabAt k.val).sending
        ∧ t = { s with regs := t.regs, fabs := t.fabs } ∧ ∀ m, m ≠ k.val → t.fabAt m = s.fabAt m)
    ∧ (∀ (src dst : LPatch) (m : XMsg) (q : List XMsg) (s : State),
        let u := s.clockNow dst.val
        u.stackOn = true → (u.waitingFor dst.val).head? = some src.val → u.hover dst.val = false → u.hover src.val = false ∨ m.inNet = true →
        takeMsg dst.val (u.fabAt src.val).sendQ = some (m, q) →
        (u.patchLive dst.val = true → (u.fabAt dst.val).recvQ.length + m.flits.length ≤ 64 →
            ∃ t, exec (.exchangeDeliver src dst) s = .next t ∧ (t.fabAt dst.val).recvQ = (u.fabAt dst.val).recvQ ++ m.flits
              ∧ (t.fabAt src.val).sendQ = q ∧ (t.fabAt dst.val).lastSrc = src.val
              ∧ t.rd F.XCH_RCVD (s.pb dst.val) = (u.rd F.XCH_RCVD (s.pb dst.val) + 1) % 2 ^ 32
              ∧ t.rd F.XCH_RXQ (s.pb dst.val) = (t.fabAt dst.val).recvQ.length ∧ t = { u with regs := t.regs, fabs := t.fabs })
        ∧ (u.patchLive dst.val = true → 64 < (u.fabAt dst.val).recvQ.length + m.flits.length → exec (.exchangeDeliver src dst) s = .next u)
        ∧ (u.patchLive dst.val = false → ∃ t, exec (.exchangeDeliver src dst) s = .next t ∧ (t.fabAt dst.val).recvQ = (u.fabAt dst.val).recvQ
              ∧ (t.fabAt src.val).sendQ = q ∧ t.rd F.XCH_DROP (s.pb src.val) = min 65535 (u.rd F.XCH_DROP (s.pb src.val) + 1)))
    ∧ ∀ (k : LPatch) (slot : Slot) (kind : BitVec 2) (data : List Byte) (l : Nat) (s : State), s.fabricRuns k.val = true →
        data ≠ [] → s.slotLane k.val slot.val = some l → s.txReady k.val slot.val = true →
        ∃ t u, exec (.fabricTxUnit k slot kind data) s = .next t
          ∧ (t.laneAt l).prefill = (s.laneAt l).prefill ++ [u] ∧ u.left = u.body.length ∧ u.gap = s.erd F.PSLOT_MIN_GAP (s.pb k.val) slot.val
          ∧ (s.pcsOf l = 0 → u.body = data) ∧ t = { s with regs := t.regs, lanes := t.lanes } ∧ ∀ m, m ≠ l → t.laneAt m = s.laneAt m

/-! Capture (R229 to R262). -/

/-- Verdicts (R235 to R238): the first verdict on a unit that is still arriving is kept with it; on one that has ended, COUNT_ONLY and DROP count it on
its slot and settle it; a verdict on no captured unit in its window, or on one of a slot without verdicts, counts as stray, and a second one as a
duplicate. Records (R234, R239, R243 to R246, R260): a unit settled by KEEP on its end, one whose window has closed without a verdict, at offset 0 of
the next stitch, or a stream chunk enters the record queue with the next SEQ, at the write position, padded to whole 64 B lines, where no record of a
higher slot has entered in the same fabric cycle, staging has room and the space goes on far enough; with no room in staging it is lost, and counted
on its slot. The model's own choices that clauses rest on: assumptions 3, 97. -/
def Obligations.VerdictsAndRecords : Prop :=
  (∀ (k : LPatch) (slot : Slot) (unit tag : W16) (n : BitVec 14) (c : Instr) (v : Nat × Nat × Nat) (s : State),
     (c, v) ∈ [(.keep k slot unit tag, (0, 0, tag.toNat)), (.keepHead k slot unit n tag, (1, n.toNat, tag.toNat)),
       (.countOnly k slot unit, (2, 0, 0)), (.drop k slot unit, (3, 0, 0))] → s.fabricRuns k.val = true →
     let is := fun (u : CapUnit) => u.slot == slot.val && u.unit == unit.toNat && u.live && !u.novd && !s.windowOver u
     let stray := F.CAPE_VD_STRAY.at (s.pb k.val) 0 0
     (∀ u, (s.capAt k.val).units.find? is = some u → u.verdict = none → u.out = false → u.arriving = true →
         ∃ t, exec c s = .next t ∧ t = { s with caps := t.caps } ∧ (∀ m, m ≠ k.val → t.capAt m = s.capAt m)
           ∧ t.capAt k.val = (s.capAt k.val).mapUnits is (fun u => { u with verdict := some v }))
       ∧ (∀ u, (s.capAt k.val).units.find? is = some u → u.verdict = none → u.out = false → u.arriving = false → u.slot < 16 → 2 ≤ v.1 →
           let f := if v.1 = 2 then F.CCNT_COUNTED else F.CCNT_DROPPED
           ∃ t, exec c s = .next t ∧ t.capAt k.val = (s.capAt k.val).mapUnits is (fun u => { u with verdict := some v, out := true })
             ∧ bitsOf f.hi f.lo (t.liveReg (f.at (s.pb k.val) u.slot 0)) = min f.max (bitsOf f.hi f.lo (s.liveReg (f.at (s.pb k.val) u.slot 0)) + 1)
             ∧ ∀ a, a ≠ f.at (s.pb k.val) u.slot 0 → t.liveReg a = s.liveReg a)
       ∧ ((s.capAt k.val).units.find? is = none → ∃ t, exec c s = .next t ∧ OnlyRegs [stray] s t
           ∧ t.rd F.CAPE_VD_STRAY (s.pb k.val) = min F.CAPE_VD_STRAY.max (s.rd F.CAPE_VD_STRAY (s.pb k.val) + 1))
       ∧ ∀ u, (s.capAt k.val).units.find? is = some u → u.verdict.isSome = true ∨ u.out = true → ∃ t, exec c s = .next t
           ∧ OnlyRegs [F.CAPE_VD_DUP.at (s.pb k.val) 0 0] s t
           ∧ t.rd F.CAPE_VD_DUP (s.pb k.val) = min F.CAPE_VD_DUP.max (s.rd F.CAPE_VD_DUP (s.pb k.val) + 1))
  ∧ (∀ (k : LPatch) (slot : Slot) (s : State),
       let x := s.capAt k.val
       let b := s.pb k.val
       let room := fun (s : State) (n : Nat) => x.queued + n ≤ s.stagingSize k.val ∧ s.postReached k.val = false ∧ x.after s.fabCycle slot.val = []
           ∧ ¬ (s.capState k.val = 3 ∧ (s.rd F.CAPS_STOP_REASON b = 2 ∨ s.rd F.CAPS_STOP_REASON b = 4))
           ∧ x.pl.wpos + n ≤ x.cfg.segStart (s.rd F.CAPS_SEG_NOW b) + x.cfg.zone ∧ s.guardHit k.val n = false
       let queued := fun (t : State) (n : Nat) => (∃ r, (t.capAt k.val).queue = x.queue ++ [r] ∧ r.place = x.pl.wpos ∧ r.bytes.length = n
             ∧ r.seq = x.pl.seq) ∧ (t.capAt k.val).pl.wpos = x.pl.wpos + n ∧ (t.capAt k.val).pl.seq = x.pl.seq + 1
           ∧ t.reg (F.CAPS_SEQ_NEXT.at b 0 0) = x.pl.seq + 1 ∧ (t.capAt k.val).gaps.get (fun _ => 0) slot.val = 0
       let lost := fun (t : State) => (t.capAt k.val).queue = x.queue ∧ (t.capAt k.val).pl = x.pl
           ∧ (t.capAt k.val).gaps.get (fun _ => 0) slot.val = x.gaps.get (fun _ => 0) slot.val + 1
       (∀ (unit tag : W16) (u : CapUnit),
           let is := fun (u : CapUnit) => u.slot == slot.val && u.unit == unit.toNat && u.live && !u.novd && !s.windowOver u
           s.fabricRuns k.val = true → x.units.find? is = some u → u.verdict = none → u.out = false → u.arriving = false →
           let n := recordSize u.payload.length
           (room s n → ∃ t, exec (.keep k slot unit tag) s = .next t ∧ queued t n)
             ∧ (s.postReached k.val = false → s.stagingSize k.val < x.queued + n → ∃ t, exec (.keep k slot unit tag) s = .next t ∧ lost t))
         ∧ (∀ (unit : W16),
             let is := fun (u : CapUnit) => u.slot == slot.val && u.unit == unit.toNat && u.live && !u.arriving && !u.closed
                 && decide (u.due.toNat ≤ s.stitch.toNat + 1)
             s.hardRuns k.val = true → x.units.any is = true → ∃ t, exec (.verdictWindowClose k slot unit) s = .next t
               ∧ t.capAt k.val = x.mapUnits is (fun u => { u with closed := true }) ∧ t.off = s.clampOff (s.period - 1)
               ∧ t = { s with regs := t.regs, caps := t.caps, off := t.off, fresh := t.fresh })
         ∧ (∀ u, s.posView (s.ppos k.val) = .normal → x.units.filter (fun u => s.windowOver u) = [u] → u.slot = slot.val → u.verdict = none →
             (u.out = false → room s (recordSize u.payload.length) → queued (s.closeWindows k.val) (recordSize u.payload.length))
               ∧ (u.out = true → ((s.closeWindows k.val).capAt k.val).queue = x.queue)
               ∧ ((s.closeWindows k.val).capAt k.val).units = x.units.filter (fun u => !s.windowOver u))
         ∧ ∀ (data : List Byte) (off : Nat), s.hardRuns k.val = true →
             let cut := x.cuts.find? (fun e => e.1 == slot.val)
             (∃ e, cut = some e ∧ e.2.stitch = s.stitch ∧ off ≤ e.2.off)
               ∨ (cut = none ∧ data.length = 4064 ∧ ∃ l, s.slotLane k.val slot.val = some l ∧ s.streams k.val slot.val l = true) →
             (room (s.tick off) (recordSize data.length) → ∃ t, exec (.streamChunk k slot data off) s = .next t ∧ queued t (recordSize data.length))
               ∧ (s.postReached k.val = false → s.stagingSize k.val < x.queued + recordSize data.length →
                   ∃ t, exec (.streamChunk k slot data off) s = .next t ∧ lost t))

/-- Capture control (R252 to R257, R263): a start and a stop wait for the boundary; ARM triggers an engine that runs, and is counted as ignored otherwise;
NEXT_SEGMENT closes the open segment and opens the next. A command of a spool does the same. Records go to the bolt in the order of the queue (R246,
R249); POST_DEPTH reached stops a capture, in SEGMENTED mode one that has no segment left (R255); a capture whose queue has drained is STOPPED, and
says so to its sequencer (R253, R258). The model's own choices that clauses rest on: assumptions 3, 97. -/
def Obligations.CaptureControl : Prop :=
  (∀ (k : LPatch) (off : Nat) (s : State), s.patchLive k.val = true →
     let b := s.pb k.val
     let x := s.capAt k.val
     let asked := fun (c : CmdRef) (cmd : Nat) => ∃ d, s.cmdOf c 0x18 .fresh = some d ∧ d.target = k.val ∧ (if 4 < d.param 8 1 then 0 else d.param 8 1) = cmd
     let ready := x.cfg.reached x.cfg.pre x.pl.preRecs x.pl.preBytes
     let armed := fun (t : State) => t.rd F.CAPS_STATE b = 2 ∧ t.reg (F.CAPS_T_LO.at b 0 0) = BitVec.ofNat 32 s.stitch.toNat
         ∧ t.reg (F.CAPS_T_HI.at b 0 0) = BitVec.ofNat 32 (s.stitch.toNat / 2 ^ 32) ∧ t.rd F.CAPS_T_OFF b = (s.tick off).now.off % 8192
         ∧ t.rd F.CAPS_PRE_SHORT b = bit (!ready) ∧ (t.capAt k.val).trigger = some (s.tick off).now ∧ (t.capAt k.val).queue = x.queue
     let ignored := fun (t : State) => t.rd F.CAPE_TRIG_IGNORED b = min F.CAPE_TRIG_IGNORED.max (s.rd F.CAPE_TRIG_IGNORED b + 1) ∧ t.caps = s.caps
         ∧ t.rd F.CAPS_STATE b = s.rd F.CAPS_STATE b
     let direct := s.posView (s.ppos k.val) = .normal ∧ s.silent .patch F.CAP_CMD.off = false
     let runs := s.rd F.CAPS_STATE b = 1 ∧ ¬ (x.cfg.preWait = true ∧ ready = false)
     (∀ cmd, cmd = 3 ∨ cmd = 4 →
         (direct → ∃ t, exec (if cmd = 3 then .captureStart k none off else .captureStop k none off) s = .next t
             ∧ t.capAt k.val = { x with reqs := x.reqs ++ [(cmd, none)] } ∧ t = { s with caps := t.caps, off := t.off })
           ∧ ∀ c, asked c cmd → ∃ t, exec (if cmd = 3 then .captureStart k (some c) off else .captureStop k (some c) off) s = .next t
             ∧ t.capAt k.val = { x with reqs := x.reqs ++ [(cmd, some c)] } ∧ Enters c .running s t
             ∧ t = { s with caps := t.caps, host := t.host, off := t.off })
       ∧ (direct →
           (runs → ∃ t, exec (.captureArm k none off) s = .next t ∧ armed t)
             ∧ (¬ runs → ∃ t, exec (.captureArm k none off) s = .next t ∧ ignored t))
       ∧ (∀ c, asked c 1 → (runs → ∃ t, exec (.captureArm k (some c) off) s = .next t ∧ armed t ∧ Ends c .ok [] s t)
             ∧ (¬ runs → ∃ t, exec (.captureArm k (some c) off) s = .next t ∧ ignored t ∧ Ends c .ok [] s t))
       ∧ (direct → s.capRuns k.val = true → x.cfg.mode = 2 → s.rd F.CAPS_SEG_NOW b + 1 < x.cfg.segCount →
           x.cfg.segCount ≤ 4096 → ∃ t, exec (.captureNextSegment k none off) s = .next t ∧ t.rd F.CAPS_STATE b = 1
             ∧ t.rd F.CAPS_SEG_NOW b = s.rd F.CAPS_SEG_NOW b + 1 ∧ t.rd F.CAPS_WRAPPED b = 0 ∧ (t.capAt k.val).trigger = none
             ∧ (t.capAt k.val).pl.records = 0 ∧ (t.capAt k.val).pl.wpos = x.cfg.segStart (s.rd F.CAPS_SEG_NOW b + 1) ∧ (t.capAt k.val).queue = x.queue)
       ∧ ∀ c, asked c 2 → ¬ (s.capRuns k.val = true ∧ x.cfg.mode = 2) → ∃ t, exec (.captureNextSegment k (some c) off) s = .next t
           ∧ Ends c .ok [] s t ∧ t.caps = s.caps ∧ t.regs = s.regs)
  ∧ (∀ (k : LPatch) (off : Nat) (s : State), s.hardRuns k.val = true →
       let b := s.pb k.val
       let x := s.capAt k.val
       (∀ r rest, s.inReset 3 = false → x.queue = r :: rest → ∃ t, exec (.recordWrite k off) s = .next t ∧ (t.capAt k.val).queue = rest ∧ t.off = s.clampOff off
           ∧ (∀ m, m ≠ k.val → t.boltAt m = s.boltAt m) ∧ t.banks = s.banks
           ∧ (r.place % 64 = 0 → r.bytes.length % 64 = 0 → (∀ e ∈ x.closes, 1 < e.left) → t.halted = false →
               ∀ i, i < r.bytes.length → t.boltByte k.val (r.place + i) = nthD 0 r.bytes i))
         ∧ (s.postReached k.val = true → x.cfg.mode ≠ 2 → ∃ t, exec (.postDone k off) s = .next t ∧ t.rd F.CAPS_STATE b = 3 ∧ t.rd F.CAPS_STOP_REASON b = 3
             ∧ (t.capAt k.val).queue = x.queue ∧ (t.capAt k.val).units = x.units.map (fun u => if u.arriving then { u with live := false } else u))
         ∧ (s.postReached k.val = true → x.cfg.mode = 2 → x.cfg.segCount ≤ s.rd F.CAPS_SEG_NOW b + 1 → x.cfg.segWrap = false →
             ∃ t, exec (.postDone k off) s = .next t ∧ t.rd F.CAPS_STATE b = 3 ∧ t.rd F.CAPS_STOP_REASON b = 5 ∧ (t.capAt k.val).queue = x.queue)
         ∧ (s.capState k.val = 3 → x.queue = [] → x.units.all (fun u => u.out || u.arriving) = true → ∃ t, exec (.captureDrained k off) s = .next t
             ∧ t.rd F.CAPS_STATE b = 4 ∧ (t.capAt k.val).units = x.units.filter (fun u => u.arriving) ∧ (t.capAt k.val).queue = []
             ∧ t.rd F.CAPS_STOP_REASON b = s.rd F.CAPS_STOP_REASON b
             ∧ (bitAt (s.rd F.EVT_EN b) 2 = true → bitAt (t.rd F.EVT_PEND b) 2 = true)))

/-- Offload (R262, R384 to R388): a snapshot or a follow opens its channel, or is refused while the channel is in use; a snapshot of no page ends at once;
the next page of a follow is sent and counted, in the channels' turn, while the host's buffer has room, and stalls the channel where it has none; a
stop waits for the boundary; what the host has consumed is never beyond what was sent. -/
def Obligations.Offloads : Prop :=
  (∀ (c : CmdRef) (follow : Bool) (d : DispCmd) (s : State), s.up = true → s.cmdOf c 0x20 .fresh = some d → bitAt (d.param 8 1) 0 = follow →
      let i : Instr := if follow = true then .follow c else .snapshot c
      let busy := (s.host.chans.find? (fun e => e.1 == d.chan)).isSome = true ∨ s.rd F.BOLT_OUT (BOLT (d.target % 16)) = 1
      (busy → ∃ t, exec i s = .next t ∧ Ends c .refused [] s t ∧ t = { s with host := t.host })
        ∧ (¬ busy → s.offloadNothing d (d.target % 16) = true → ∃ t, exec i s = .next t ∧ Ends c .ok [d.chan, 0, 0, 0] s t ∧ t = { s with host := t.host })
        ∧ (¬ busy → s.offloadNothing d (d.target % 16) = false → follow = true ∨ s.snapPages d (d.target % 16) ≠ [] →
            ∃ t x, exec i s = .next t ∧ Tab.get (fun _ => none) (t.host.chans.map (fun e => (e.1, some e.2))) d.chan = some x ∧ x.c = c ∧ x.follow = follow
              ∧ x.sent = 0 ∧ x.bufPages = max 1 (min 16777216 (d.param 20 4)) ∧ Enters c .running s t ∧ t.rd F.CH_STATE HOST d.chan = 1
              ∧ t.rd F.CH_SENT HOST d.chan = 0 ∧ (follow = false → x.queue.map (fun q => q.1) = s.snapPages d (d.target % 16))
              ∧ t = { s with regs := t.regs, host := t.host }))
    ∧ (∀ (ch : Chan) (e : Nat × ChanSt) (page mark : Nat) (rest : List (Nat × Nat)) (s : State), s.up = true → s.host.d3 = false → s.inReset 3 = false → s.isHead = true →
        s.host.chans.find? (fun e => e.1 == ch.val) = some e → e.2.source = none → e.2.queue = (page, mark) :: rest → e.2.follow = true →
        (s.chanRoom ch.val e.2 = false → ∃ t, exec (.offloadPage ch) s = .next t ∧ t.rd F.CH_STATE HOST ch.val = 2 ∧ OnlyRegs [F.CH_STATE.at HOST ch.val 0] s t)
          ∧ (s.chanRoom ch.val e.2 = true → s.nextChan = some ch.val → (s.pageOf (s.rd F.CH_LPATCH HOST ch.val) page).2.2 = [] →
              ∃ t, exec (.offloadPage ch) s = .next t ∧ t.rd F.CH_STATE HOST ch.val = 1 ∧ t.rd F.CH_SENT HOST ch.val = (e.2.sent + 1) % 2 ^ 32
                ∧ ((∀ h ∈ (s.capAt (s.rd F.CH_LPATCH HOST ch.val)).held, h.bad = false) → t.rd F.CH_DAMAGED HOST ch.val = s.rd F.CH_DAMAGED HOST ch.val)
                ∧ (∃ e', t.host.chans.find? (fun e => e.1 == ch.val) = some e' ∧ e'.2.sent = e.2.sent + 1 ∧ e'.2.queue = rest)
                ∧ t.bolts = s.bolts ∧ t.banks = s.banks))
    ∧ (∀ (c : CmdRef) (d : DispCmd) (s : State), s.cmdOf c 0x21 .fresh = some d → ∃ t, exec (.offloadStop c) s = .next t ∧ Ends c .ok [] s t
        ∧ t.host.chans = s.host.chans.map (fun e => if e.1 = d.chan then (e.1, { e.2 with stopping := true }) else e) ∧ t = { s with host := t.host })
    ∧ ∀ (ch : Chan) (v : W32) (s : State), s.up = true →
        let old := s.reg (F.CH_CONSUMED.at HOST ch.val 0)
        let sent := s.reg (F.CH_SENT.at HOST ch.val 0)
        ∃ t, exec (.consumedWrite ch v 15) s = .next t ∧ OnlyRegs [F.CH_CONSUMED.at HOST ch.val 0] s t
          ∧ t.reg (F.CH_CONSUMED.at HOST ch.val 0) = if (sent - old).toNat < (v - old).toNat then sent else v

/-! The host interface (R360 to R394). -/

/-- Spools (R369 to R371, R378): the doorbell sets PI within the ring; a fetched entry joins those that wait for dispatch and CI moves on round the ring;
a failed read is counted and tried once more, then the spool is switched off; switching a spool on takes its base and depth and begins again at 0 with
empty slots, switching it off stops it at the boundary. NOP and FENCE (R374) and the result slots (R367, R368, R379 to R381): a NOP ends at once; a
FENCE ends when no earlier command of its spool is left; a release word empties a slot that is READY with its number and is counted otherwise; a read
of words of a slot answers them, and counts while READY if it takes in the slot's first byte; unmasking a pending vector sends its message once. -/
def Obligations.SpoolsAndResults : Prop :=
  (∀ (sp : Spool) (s : State),
     let i := sp.val
     let x := s.spoolAt i
     (∀ v : W32, s.clk.locked = true → s.rd F.SP_EN HOST i = 1 → ∃ t, exec (.doorbell sp v) s = .next t
         ∧ t.rd F.SP_PI HOST i = min (v.toNat % 4096) (x.depth - 1) ∧ t.rd F.SP_CI HOST i = s.rd F.SP_CI HOST i ∧ OnlyRegs [F.SP_PI.at HOST i 0] s t)
       ∧ (s.clk.locked = true → s.host.d3 = false → s.rd F.SP_EN HOST i = 1 → s.rd F.SP_CI HOST i ≠ s.rd F.SP_PI HOST i → x.fetched.length < 64 →
           (∀ bs, x.depth ≤ 4096 → 0 < x.depth → ∃ t, exec (.entryFetched sp (some bs)) s = .next t
               ∧ t.spoolAt i = { x with fetched := x.fetched ++ [bs.take 64], retried := false }
               ∧ t.rd F.SP_CI HOST i = (s.rd F.SP_CI HOST i + 1) % x.depth ∧ t.rd F.SP_PI HOST i = s.rd F.SP_PI HOST i
               ∧ (∀ m, m ≠ i → t.spoolAt m = s.spoolAt m) ∧ t = { s with regs := t.regs, host := t.host })
           ∧ ∃ t, exec (.entryFetched sp none) s = .next t ∧ t.rd F.SP_DMA_ERR HOST i = min 65535 (s.rd F.SP_DMA_ERR HOST i + 1)
               ∧ t.rd F.SP_CI HOST i = s.rd F.SP_CI HOST i ∧ t.rd F.SP_EN HOST i = (if x.retried then 0 else 1)
               ∧ (t.spoolAt i).retried = (!x.retried) ∧ (t.spoolAt i).fetched = x.fetched)
       ∧ (∀ v : W32, s.up = true → s.rd F.SP_EN HOST i = 0 → v.toNat % 2 = 1 → ∃ t, exec (.spoolEnWrite sp v 15) s = .next t ∧ t.rd F.SP_EN HOST i = 1
           ∧ t.rd F.SP_CI HOST i = 0 ∧ t.rd F.SP_PI HOST i = 0 ∧ t.rd F.SP_SEQ_NEXT HOST i = 0 ∧ t.rd F.SP_PENDING HOST i = 0
           ∧ (t.spoolAt i).base = s.pair (F.SP_BASE_LO.at HOST i 0) (F.SP_BASE_HI.at HOST i 0) ∧ (t.spoolAt i).depth = s.rd F.SP_DEPTH HOST i
           ∧ (t.spoolAt i).fetched = [] ∧ ∀ n, n < 256 → (t.slotAt i n).state = 0)
       ∧ ∀ v : W32, s.up = true → s.rd F.SP_EN HOST i = 1 → v.toNat % 2 = 0 → ∃ t, exec (.spoolEnWrite sp v 15) s = .next t ∧ t.rd F.SP_EN HOST i = 0
           ∧ t.spoolAt i = { x with stopping := true } ∧ t.host.slots = s.host.slots)
  ∧ ((∀ (c : CmdRef) (d : DispCmd) (s : State),
         (s.cmdOf c 0x00 .fresh = some d → ∃ t, exec (.nopCommand c) s = .next t ∧ Ends c .ok [] s t ∧ t = { s with host := t.host })
           ∧ (s.cmdOf c 0x3F .fresh = some d → s.fenced c = false → ∃ t, exec (.fence c) s = .next t ∧ Ends c .ok [] s t ∧ t = { s with host := t.host })
           ∧ (s.fenced c = true → exec (.fence c) s = .next s))
       ∧ (∀ (sp : Spool) (slot : BitVec 8) (v : W32) (s : State), s.clk.locked = true →
           let x := s.slotAt sp.val slot.toNat
           (x.state = 2 → x.seq.toNat = v.toNat % 65536 → ∃ t, exec (.releaseWord sp slot v) s = .next t ∧ (t.slotAt sp.val slot.toNat).state = 0
               ∧ (∀ sp' i, sp' < 16 → i < 256 → sp' ≠ sp.val ∨ i ≠ slot.toNat → t.slotAt sp' i = s.slotAt sp' i) ∧ t = { s with host := t.host })
             ∧ (x.state ≠ 2 ∨ x.seq.toNat ≠ v.toNat % 65536 → ∃ t, exec (.releaseWord sp slot v) s = .next t
                 ∧ t.rd F.SP_BAD_RELEASE HOST sp.val = min 65535 (s.rd F.SP_BAD_RELEASE HOST sp.val + 1)
                 ∧ OnlyRegs [F.SP_BAD_RELEASE.at HOST sp.val 0] s t)
             ∧ ∀ (first : BitVec 4) (n : BitVec 5),
                 let y := if x.state = 2 ∧ first = 0 then { x with reads := min 65535 (x.reads + 1) } else x
                 let word := fun (i : Nat) => if i = 0 then BitVec.ofNat 32 (x.seq.toNat + 65536 * x.state + 16777216 * x.status)
                   else if i = 1 then BitVec.ofNat 32 (y.tag.toNat + 65536 * y.reads) else nthD 0 x.data (i - 2)
                 ∃ t, exec (.resultSlotRead sp ⟨slot, first, n⟩) s = .next t ∧ t.resp = word first.toNat
                 ∧ t.host.slotData = (List.range n.toNat).map (fun i => word (first.toNat + i)) ∧ t.slotAt sp.val slot.toNat = y
                 ∧ t = { s with host := t.host, resp := t.resp })
       ∧ ∀ (vec : Fin 64) (s : State), s.up = true → ∃ t, exec (.vectorUnmask vec) s = .next t ∧ t.rd F.MSIX_CTRL HOST vec.val = 0
           ∧ (s.rd F.MSIX_CTRL HOST vec.val = 1 → bitAt (s.rd F.MSIX_PBA HOST (vec.val / 32)) (vec.val % 32) = true → s.host.d3 = false → s.host.master = true →
               t.host.msix = s.host.msix ++ [(vec.val, s.pair (F.MSIX_ADDR_LO.at HOST vec.val 0) (F.MSIX_ADDR_HI.at HOST vec.val 0),
                 (s.reg (F.MSIX_DATA.at HOST vec.val 0)).toNat)]
               ∧ bitAt (t.rd F.MSIX_PBA HOST (vec.val / 32)) (vec.val % 32) = false)
           ∧ (s.rd F.MSIX_CTRL HOST vec.val = 0 → t.host = s.host))

/-- Bolt transfers (R348, R389): BOLT_IN goes on to read the host's data, or has nothing to read; BOLT_OUT writes the bytes of its range to host memory;
with the bolt out of service both are refused; a transfer that has ended completes with the status that it earned. -/
def Obligations.BoltTransfers : Prop :=
  ∀ (c : CmdRef) (d : DispCmd) (s : State), s.up = true →
    let k := d.target % 16
    (s.cmdOf c 0x22 .fresh = some d →
        (s.rd F.BOLT_OUT (BOLT k) = 0 → ∃ t, exec (.boltIn c) s = .next t ∧ Enters c (if d.boltLen = 0 then .running else .reading) s t
            ∧ t = { s with host := t.host })
          ∧ (s.rd F.BOLT_OUT (BOLT k) = 1 → ∃ t, exec (.boltIn c) s = .next t ∧ Ends c .refused [] s t ∧ t = { s with host := t.host }))
      ∧ (s.cmdOf c 0x23 .fresh = some d →
          (s.rd F.BOLT_OUT (BOLT k) = 0 → s.isHead = true → s.host.d3 = false → (∀ l, s.lineBad k l = false) →
              ∃ t, exec (.boltOut c) s = .next t ∧ Enters c .running s t ∧ t = { s with host := t.host, hostMem := t.hostMem, stack := { s.stack with marked := t.stack.marked } }
                ∧ ∀ a, Tab.get (fun _ => 0) t.hostMem a =
                    if d.param 8 8 ≤ a ∧ a < d.param 8 8 + d.boltLen then s.boltByte k (d.boltOff + (a - d.param 8 8))
                    else Tab.get (fun _ => 0) s.hostMem a)
            ∧ (s.rd F.BOLT_OUT (BOLT k) = 1 → ∃ t, exec (.boltOut c) s = .next t ∧ Ends c .refused [] s t ∧ t = { s with host := t.host }))
      ∧ (s.cmd c = some d → d.opcode = 0x22 ∨ d.opcode = 0x23 → d.phase = .running → d.device = s.devnum →
          ∃ t, exec (.boltTransferDone c) s = .next t ∧ Ends c d.status [] s t ∧ t = { s with host := t.host })

/-- Resets of the interface and the link (R363, R393, R394): a conventional reset, a function level reset, the loss of the link and the return from D3hot
each restore the registers of HOST and of the event ring, empty the spools, slots and channels, whose offloads end, and leave every other register,
the other commands at work and the memories; the link comes up with what it negotiated. The link (R363, R393, R394): it comes up at the speed and
width negotiated, with FLIT mode always at the sixth speed; D3hot is entered with the link up, and stops the device's own transfers only. The model's
own choices that clauses rest on: assumptions 55, 101. -/
def Obligations.HostLink : Prop :=
  (∀ (c : Instr) (s : State),
     (c = .conventionalReset ∧ s.start.vhk = true) ∨ (c ∈ [.linkLoss, .functionLevelReset] ∧ s.start.vhk = true ∧ s.rd F.HOST_DL_UP HOST = 1)
       ∨ (c = .d3hotExit ∧ s.host.d3 = true) → (s.host.chans.map (fun e => e.1)).Nodup →
     ∃ t, exec c s = .next t ∧ (∀ a, hostResetReg a = true → t.reg a = resetWord a)
         ∧ (∀ a, hostResetReg a = false → a ≠ HOST → t.reg a = s.reg a)
         ∧ t.reg HOST = (if c ∈ [Instr.conventionalReset, .linkLoss] then 0 else s.reg HOST)
         ∧ t.host.spools = [] ∧ t.host.slots = [] ∧ t.host.chans = [] ∧ t.host.d3 = false ∧ t.host.master = false
         ∧ t.host.cmds = s.host.cmds.filter (fun d => s.host.chans.all (fun e => e.2.c != d.c)) ∧ t.trig.based = false
         ∧ t.banks = s.banks ∧ t.bolts = s.bolts ∧ t.hostMem = s.hostMem ∧ t.procs = s.procs)
  ∧ ((∀ (speed : BitVec 3) (width : BitVec 5) (flit master : Bool) (s : State), s.clk.locked = true → bitAt s.start.straps 1 = false → 1 ≤ speed.toNat → speed.toNat ≤ 6 →
         ∃ t, exec (.linkUp speed width ⟨flit, master⟩) s = .next t ∧ t.rd F.HOST_SPEED HOST = speed.toNat
           ∧ t.rd F.HOST_WIDTH HOST = (if 8 ≤ width.toNat then 8 else if 4 ≤ width.toNat then 4 else 1)
           ∧ t.rd F.HOST_FLIT HOST = bit (flit || speed.toNat == 6) ∧ t.rd F.HOST_DL_UP HOST = 1 ∧ t.host.master = master ∧ OnlyRegs [HOST] { s with host := t.host } t)
       ∧ ∀ s : State, s.start.vhk = true → s.rd F.HOST_DL_UP HOST = 1 → ∃ t, exec .d3hotEntry s = .next t ∧ t = { s with host := { s.host with d3 := true } }
           ∧ (∀ a bs, t.hostWrite a bs = t) ∧ ∀ v, t.vector v = t)

/-- Bindings (R36, R37) and the system window (R390 to R392, R415): BIND_RIBBON lets both halves of its patch wait for the boundary, or for the drain of a
handover, in the order in which bindings land, its own at offset 0 of the stitch; a window access reads one word or an aligned pair without side
effect, writes as the host does, or waits for its device; one beyond the system, to a halted device or without an answer is counted; what waits for an
answer is sent again up to three times. The model's own choices that clauses rest on: assumptions 3, 59, 70. -/
def Obligations.BindingsAndWindow : Prop :=
  (∀ (c : CmdRef) (d : DispCmd) (pre post : List BindWrite) (s : State), s.cmdOf c 0x10 .fresh = some d →
      let k := d.target % 16
      let b := fun (f : Bool) (v : Nat) (c : Option CmdRef) => (⟨k, f, if v < 32 then v else 63, s.time.run, 0, c⟩ : BindWrite)
      let was := if s.hover k then s.stack.heldBinds else s.stack.binds
      was = pre ++ post → (∀ x ∈ pre, x.at_ < s.time.run) → (∀ x ∈ post, s.time.run < x.at_) →
      ∃ t, exec (.bindRibbon c) s = .next t ∧ t.rd F.LPM_PEND DEV k = 1 ∧ t.patchRib k 0 = s.patchRib k 0 ∧ t.patchRib k 1 = s.patchRib k 1
        ∧ Enters c .running s t ∧ t = { s with regs := t.regs, host := t.host, stack := t.stack }
        ∧ (if s.hover k then t.stack.heldBinds else t.stack.binds) = pre ++ [b true (d.param 9 1) none, b false (d.param 8 1) (some c)] ++ post
        ∧ (if s.hover k then t.stack.binds = s.stack.binds else t.stack.heldBinds = s.stack.heldBinds))
    ∧ (∀ (d : Device) (a : BitVec 24) (wide : Bool) (v : W32) (be : BitVec 4) (off : Nat) (s : State), s.clk.locked = true → s.isHead = true →
        let o := a.toNat / 4 * 4
        let got := fun (lo hi : W32) => { s with resp := lo, host := { s.host with respHi := if wide then hi else s.host.respHi } }
        (s.topDevice < d.val → (∃ t, exec (.windowRead d ⟨a, wide⟩) s = .next t ∧ OnlyRegs [F.HOST_WIN_UR.at HOST 0 0] s t
              ∧ t.rd F.HOST_WIN_UR HOST = min 65535 (s.rd F.HOST_WIN_UR HOST + 1))
            ∧ ∃ t, exec (.windowWrite d a v be off) s = .next t ∧ OnlyRegs [F.HOST_WIN_UR.at HOST 0 0] (s.tick off) t
              ∧ t.rd F.HOST_WIN_UR HOST = min 65535 (s.rd F.HOST_WIN_UR HOST + 1))
          ∧ (d.val ≤ s.topDevice → s.rd F.SYS_HALTED DEV d.val = 0 →
              (0x100000 ≤ o → exec (.windowRead d ⟨a, wide⟩) s = .next (got 0 0) ∧ exec (.windowWrite d a v be off) s = .next (s.tick off))
              ∧ (o < 0x100000 → d.val = 0 →
                  exec (.windowRead d ⟨a, wide⟩) s = .next (if wide then got (s.peek (o / 8 * 8)) (s.peekNow (o / 8 * 8 + 4)) else got (s.peek o) 0)
                  ∧ exec (.windowWrite d a v be off) s = .next ((s.tick off).busWrite .host o v be.toNat))
              ∧ (o < 0x100000 → d.val ≠ 0 →
                  (∃ t m, exec (.windowRead d ⟨a, wide⟩) s = .next t ∧ t.sys.wins = s.sys.wins ++ [⟨d.val, m, 0⟩] ∧ t.regs = s.regs ∧ t.resp = s.resp)
                  ∧ ∃ t m, exec (.windowWrite d a v be off) s = .next t ∧ t.sys.wins = s.sys.wins ++ [⟨d.val, m, 0⟩] ∧ t.regs = s.regs))
          ∧ (d.val ≤ s.topDevice → s.rd F.SYS_HALTED DEV d.val = 1 → ∃ t, exec (.windowRead d ⟨a, wide⟩) s = .next t ∧ t.resp = s.resp
              ∧ t.rd F.HOST_WIN_CA HOST = min 65535 (s.rd F.HOST_WIN_CA HOST + 1)))
    ∧ (∀ (d : Device) (w : WinAcc) (s : State), s.sys.wins.find? (fun w => w.dev == d.val) = some w → ∃ t, exec (.windowTimeout d) s = .next t
        ∧ t.sys.wins = s.sys.wins.erase w ∧ t.rd F.HOST_WIN_TIMEOUT HOST = min 65535 (s.rd F.HOST_WIN_TIMEOUT HOST + 1))
    ∧ ∀ (d : Device) (s : State), s.up = true → d.val ≠ s.devnum → ∃ t, exec (.requestRepeat d) s = .next t
        ∧ t.sys.wins = s.sys.wins.map (fun w => if w.dev = d.val ∧ w.tries < 3 then { w with tries := w.tries + 1 } else w)
        ∧ t = { s with seams := t.seams, sys := { s.sys with wins := t.sys.wins } }

/-! The pattern engine (R269 to R296). -/

/-- Descriptors (R274 to R277): a running thread executes the one at its PC and goes on, in order or at its target; loops run their body the number of
times counted, four deep; WAIT and SYNC hold the thread until their condition holds; STOP, an unknown operation and the end of the descriptors stop it
with their reasons. A poisoned descriptor raises class 4, and what it says is a free value. The model's own choices that clauses rest on: assumptions
3, 45, 98. -/
def Obligations.Descriptors : Prop :=
  ∀ (k : LPatch) (th : Thread) (off : Nat) (s : State), s.engineRuns k.val = true →
    let i := th.val
    let d := s.descAt k.val i
    let at_ := fun (u t : State) (n : Nat) => t.rd F.THR_PC (u.pb k.val) i = n % 65536
        ∧ (n < u.rd F.PAT_DESC_COUNT (u.pb k.val) → t.rd F.THR_STATE (u.pb k.val) i = 1)
        ∧ (u.rd F.PAT_DESC_COUNT (u.pb k.val) ≤ n → t.rd F.THR_STATE (u.pb k.val) i = 3 ∧ t.rd F.THR_REASON (u.pb k.val) i = 3)
    let kept := fun (u t : State) => t = { u with regs := t.regs, pats := t.pats, procs := t.procs } ∧ (∀ m, m ≠ k.val → t.patAt m = u.patAt m)
        ∧ ∀ j, j < 4 → j ≠ i → t.rd F.THR_STATE (u.pb k.val) j = u.rd F.THR_STATE (u.pb k.val) j
            ∧ t.rd F.THR_PC (u.pb k.val) j = u.rd F.THR_PC (u.pb k.val) j
    let stopped := fun (u t : State) (why : Nat) => t.rd F.THR_STATE (u.pb k.val) i = 3 ∧ t.rd F.THR_REASON (u.pb k.val) i = why
        ∧ t.rd F.THR_PC (u.pb k.val) i = u.rd F.THR_PC (u.pb k.val) i ∧ kept u t
    let runs := s.rd F.THR_STATE (s.pb k.val) i = 1
    (runs → s.rd F.PAT_DESC_COUNT (s.pb k.val) ≤ s.rd F.THR_PC (s.pb k.val) i →
        ∀ c ∈ [Instr.descNop k th, .descLoop k th, .endloop k th, .jmp k th, .wait k th, .sync k th, .descTrig k th off, .descStop k th, .descBadop k th],
          ∃ t, exec c s = .next t ∧ stopped s t 3)
      ∧ (runs → s.rd F.THR_PC (s.pb k.val) i < s.rd F.PAT_DESC_COUNT (s.pb k.val) →
          let u := if (s.descRead k.val i).2 then (s.unmark k.val).took.took.raiseP k.val 4 else s
          let b := u.pb k.val
          let pc := u.rd F.THR_PC b i
          let x := (u.patAt k.val).thread i
          (descOp d = 0 → ∃ t, exec (.descNop k th) s = .next t ∧ at_ u t (pc + 1) ∧ kept u t)
          ∧ (descOp d = 2 → x.loops.length < 4 → ∃ t, exec (.descLoop k th) s = .next t ∧ at_ u t (pc + 1) ∧ kept u t
              ∧ ((t.patAt k.val).thread i).loops = (field d 63 32 + 1, pc + 1) :: x.loops ∧ t.rd F.THR_DEPTH b i = x.loops.length + 1)
          ∧ (descOp d = 2 → 4 ≤ x.loops.length → ∃ t, exec (.descLoop k th) s = .next t ∧ at_ u t (pc + 1) ∧ kept u t
              ∧ ((t.patAt k.val).thread i).loops = x.loops ∧ ((t.patAt k.val).thread i).ovf = x.ovf + 1
              ∧ t.rd F.PATE_NEST_OVF b = min 65535 (u.rd F.PATE_NEST_OVF b + 1))
          ∧ (descOp d = 3 → 0 < x.ovf → ∃ t, exec (.endloop k th) s = .next t ∧ at_ u t (pc + 1) ∧ kept u t
              ∧ ((t.patAt k.val).thread i).ovf = x.ovf - 1 ∧ ((t.patAt k.val).thread i).loops = x.loops)
          ∧ (∀ n body rest, descOp d = 3 → x.ovf = 0 → x.loops = (n, body) :: rest →
              (1 < n → ∃ t, exec (.endloop k th) s = .next t ∧ at_ u t body ∧ kept u t ∧ ((t.patAt k.val).thread i).loops = (n - 1, body) :: rest)
              ∧ (n ≤ 1 → ∃ t, exec (.endloop k th) s = .next t ∧ at_ u t (pc + 1) ∧ kept u t ∧ ((t.patAt k.val).thread i).loops = rest))
          ∧ (descOp d = 3 → x.ovf = 0 → x.loops = [] → ∃ t, exec (.endloop k th) s = .next t ∧ at_ u t (pc + 1) ∧ kept u t)
          ∧ (descOp d = 4 → ∃ t, exec (.jmp k th) s = .next t ∧ at_ u t (field d 47 32) ∧ kept u t)
          ∧ (descOp d = 5 → ∃ t, exec (.wait k th) s = .next t ∧ t.rd F.THR_STATE b i = 2 ∧ t.rd F.THR_PC b i = pc ∧ kept u t
              ∧ ((t.patAt k.val).thread i).until_ = some (u.stitch + BitVec.ofNat 64 (max 1 (field d 63 32))))
          ∧ (descOp d = 6 → ∃ t, exec (.sync k th) s = .next t ∧ t.rd F.THR_STATE b i = 2 ∧ t.rd F.THR_PC b i = pc ∧ kept u t
              ∧ ((t.patAt k.val).thread i).sync = some (field d 19 4))
          ∧ (descOp d = 7 → ∃ t, exec (.descTrig k th off) s = .next t ∧ at_ u t (pc + 1) ∧ t.off = u.clampOff off
              ∧ (u.maskBit 3 (field d 9 4) (u.clampOff off) = true → (t.trig.raise? (field d 9 4)).isSome = true))
          ∧ (descOp d = 8 → ∃ t, exec (.descStop k th) s = .next t ∧ stopped u t 2)
          ∧ (9 ≤ descOp d → ∃ t, exec (.descBadop k th) s = .next t ∧ stopped u t 4))
      ∧ (∀ w, ((s.patAt k.val).thread i).until_ = some w → w.toNat ≤ s.stitch.toNat → ∃ t, exec (.waitResume k th) s = .next t
          ∧ at_ s t (s.rd F.THR_PC (s.pb k.val) i + 1)
          ∧ (s.rd F.THR_PC (s.pb k.val) i + 1 < s.rd F.PAT_DESC_COUNT (s.pb k.val) →
              (t.patAt k.val).thread i = { (s.patAt k.val).thread i with until_ := none }))
      ∧ ∀ slots, ((s.patAt k.val).thread i).sync = some slots → s.synced k.val i slots = true → ∃ t, exec (.syncDone k th) s = .next t
          ∧ at_ s t (s.rd F.THR_PC (s.pb k.val) i + 1) ∧ kept s t

/-- SEND (R272, R278, R279): with a full queue among its slots it waits; else each record is read, and its copies join the queues of the slots named whose
lane can play it. Stated of one record; a poisoned descriptor raises class 4 first. Playback (R274, R280, R284, R287, R293): a start and a stop wait
for the boundary; the oldest unit of a slot moves into its lane's prefill buffer while that is below its level; LOAD clears the slot's READY and waits
for its staging, which makes its record ready, or leaves it not ready where it met padding or poison, which is counted. The model's own choices that
clauses rest on: assumptions 45, 98. -/
def Obligations.PatternPlayback : Prop :=
  (∀ (k : LPatch) (th : Thread) (s : State), s.engineRuns k.val = true →
     let i := th.val
     let d := s.descAt k.val i
     let slots := field d 19 4
     let u := if (s.descRead k.val i).2 then (s.unmark k.val).took.took.raiseP k.val 4 else s
     let b := u.pb k.val
     s.rd F.THR_STATE (s.pb k.val) i = 1 → s.rd F.THR_PC (s.pb k.val) i < s.rd F.PAT_DESC_COUNT (s.pb k.val) → descOp d = 1 →
       (u.sendBlocked k.val slots = true → ∃ t q, exec (.send k th) s = .next t ∧ t.rd F.THR_STATE b i = 2
           ∧ ((t.patAt k.val).thread i).send = some q ∧ q.n = max 1 (field d 63 32) ∧ q.rec_ = field d 88 64 ∧ q.slots = slots
           ∧ (t.patAt k.val).queues = (u.patAt k.val).queues ∧ t = { u with regs := t.regs, pats := t.pats })
         ∧ ∀ kind slen body, u.sendBlocked k.val slots = false → max 1 (field d 63 32) = 1 → u.readRec k.val (64 * field d 88 64) = .ok kind slen body →
             kind ≠ 3 → slen ≠ 0 → ∃ t, exec (.send k th) s = .next t ∧ t.rd F.THR_PC b i = (u.rd F.THR_PC b i + 1) % 65536
               ∧ ((t.patAt k.val).thread i).send = none
               ∧ ∀ slot, slot < 16 → (t.patAt k.val).queue slot = (u.patAt k.val).queue slot ++
                   (if bitAt slots slot = true ∧ (match u.canTake k.val slot with
                       | some l => playable (u.pcsOf l) kind slen body
                       | none => false) = true
                    then [⟨(u.patAt k.val).ser + 1, i, kind, body, field d 27 20, bitAt d 28, field d 103 96⟩] else []))
  ∧ (∀ (k : LPatch) (s : State),
       let b := s.pb k.val
       let x := s.patAt k.val
       let asked := fun (c : CmdRef) (cmd threads : Nat) => ∃ d, s.cmdOf c 0x19 .fresh = some d ∧ d.target = k.val
           ∧ (if 2 < d.param 8 1 then 0 else d.param 8 1) = cmd ∧ d.param 9 1 % 16 = threads
       (∀ (cmd : Nat) (threads : BitVec 4), s.patchLive k.val = true → cmd = 1 ∨ cmd = 2 →
           (s.posView (s.ppos k.val) = .normal → s.silent .patch 0x600 = false → ∃ t, exec (if cmd = 1 then .patternStart k threads none else .patternStop k threads none) s = .next t
               ∧ t.patAt k.val = { x with reqs := x.reqs ++ [(cmd, threads.toNat, none)] } ∧ t = { s with pats := t.pats })
             ∧ ∀ c, asked c cmd threads.toNat → ∃ t, exec (if cmd = 1 then .patternStart k threads (some c) else .patternStop k threads (some c)) s = .next t
               ∧ t.patAt k.val = { x with reqs := x.reqs ++ [(cmd, threads.toNat, some c)] } ∧ Enters c .running s t
               ∧ t = { s with pats := t.pats, host := t.host })
         ∧ (∀ (slot : Slot) (l : Nat) (c : TxCopy) (rest : List TxCopy), s.patDelivers k.val = true → s.slotLane k.val slot.val = some l →
             x.queue slot.val = c :: rest → s.prefetched k.val c = true → s.txRuns l = true → (s.laneAt l).level < 64 * s.ln F.LN_PREFILL l →
             ∃ t u, exec (.unitMove k slot) s = .next t ∧ (t.patAt k.val).queue slot.val = rest ∧ (t.laneAt l).prefill = (s.laneAt l).prefill ++ [u]
               ∧ u.left = u.body.length ∧ u.gap = max (s.erd F.PSLOT_MIN_GAP b slot.val) c.gap ∧ (c.submask = 0 → c.kind ≠ 0 → u.body = c.body)
               ∧ (∀ m, m ≠ l → t.laneAt m = s.laneAt m) ∧ ∀ m, m ≠ slot.val → (t.patAt k.val).queue m = x.queue m)
         ∧ (∀ (a : Fin 8) (v : W32), s.stackOn = true → bitsOf 16 16 v = 1 → s.posView (s.ppos k.val) = .normal → s.silent .patch (0x744 + 8 * a.val) = false → ∃ t, exec (.actionLoad k a v 15) s = .next t
             ∧ t.rd F.ACT_READY b a.val = 0 ∧ t.rd F.ACT_SLOTS b a.val = v.toNat % 65536 ∧ (t.patAt k.val).act? a.val = none
             ∧ (t.patAt k.val).loads = x.loads.filter (fun c => c != a.val) ++ [a.val] ∧ t = { s with regs := t.regs, pats := t.pats })
         ∧ ∀ a : Fin 8, s.engineRuns k.val = true → a.val ∈ x.staging → s.patBanks k.val ≠ 0 →
             let rec_ := s.readRec k.val (64 * s.rd F.ACT_REC b a.val)
             let left := x.staging.filter (fun c => c != a.val)
             (∀ kind slen body, rec_ = .ok kind slen body → kind ≠ 3 → slen ≠ 0 → ∃ t, exec (.actionStaged k a) s = .next t
                 ∧ t.rd F.ACT_READY b a.val = 1 ∧ (t.patAt k.val).act? a.val = some ⟨0, 4, kind, body, 0, false, 0⟩ ∧ (t.patAt k.val).staging = left)
             ∧ (∀ slen body, rec_ = .ok 3 slen body → ∃ t, exec (.actionStaged k a) s = .next t ∧ t.regs = s.regs ∧ (t.patAt k.val).staging = left
                 ∧ (t.patAt k.val).acts = x.acts)
             ∧ (rec_ = .poisonHead → ∃ t, exec (.actionStaged k a) s = .next t ∧ (t.patAt k.val).acts = x.acts
                 ∧ t.rd F.ACT_READY b a.val = s.rd F.ACT_READY b a.val ∧ t.rd F.PATE_PAT_POISON b = min 65535 (s.rd F.PATE_PAT_POISON b + 1)))

/-! Memories (R327 to R359). -/

/-- The management window (R331, R332): GO starts the access that the window's words name, unless one is under way; a read returns the word (zero and
ST_POISON where it is poisoned); a write of all eight bytes stores its word, and one is refused unless the bank's owner is a sequencer that does not
run. The bolt window (R338, R352, R356): GO starts the access; a read returns the eight bytes; a write stores the bytes enabled and leaves every other
byte, unless the device halts. The model's own choices that clauses rest on: assumptions 41, 82. -/
def Obligations.MemoryWindows : Prop :=
  (∀ (p : Pos) (v : W32) (s : State), s.stackOn = true →
     let b := PATCH p.val
     let q := s.bankWin.get (fun _ => ⟨0, 0, 0, false, 0⟩) p.val
     (bitsOf 0 0 v = 1 → s.posView p.val = .normal → s.silent .patch 0xB9C = false → s.rd F.BK_BUSY b = 0 → ∃ t, exec (.mgmtWindowGo p v 15) s = .next t ∧ t.rd F.BK_BUSY b = 1
         ∧ t.bankWin.get (fun _ => ⟨0, 0, 0, false, 0⟩) p.val = ⟨s.rd F.BK_WIN_BANK b, s.rd F.BK_WIN_WORD b,
             BitVec.ofNat 64 (s.pair (b + 0xB94) (b + 0xB98)), bitsOf 1 1 v == 1, bitsOf 9 2 v⟩
         ∧ t = { s with regs := t.regs, bankWin := t.bankWin })
       ∧ (bitsOf 0 0 v = 1 → s.posView p.val = .normal → s.rd F.BK_BUSY b = 1 → ∃ t, exec (.mgmtWindowGo p v 15) s = .next t
           ∧ t.rd F.BK_BUSY b = 1 ∧ OnlyRegs [b + 0xB9C] s t)
       ∧ (s.rd F.BK_BUSY b = 1 → q.write = false →
           ∃ t, exec (.mgmtWindowDone p .clean) s = .next t ∧ t.rd F.BK_BUSY b = 0 ∧ OnlyRegs [b + 0xB94, b + 0xB98, b + 0xB9C] s t
             ∧ t.rd F.BK_STATUS b = (if s.bankPoison p.val q.bank q.word then 7 else 0)
             ∧ t.pair (b + 0xB94) (b + 0xB98) = (if s.bankPoison p.val q.bank q.word then 0 else (s.bankWord p.val q.bank q.word).toNat))
       ∧ (s.rd F.BK_BUSY b = 1 → q.write = true → (s.bankAt p.val q.bank).owner ≠ 0 ∨ s.rd F.PSTATE b = 1 →
           ∃ t, exec (.mgmtWindowDone p .clean) s = .next t ∧ t.rd F.BK_BUSY b = 0 ∧ t.rd F.BK_STATUS b = 3 ∧ OnlyRegs [b + 0xB9C] s t)
       ∧ (s.rd F.BK_BUSY b = 1 → q.write = true → (s.bankAt p.val q.bank).owner = 0 → s.rd F.PSTATE b ≠ 1 → q.bytes = 255 → q.bank < 8 →
           ∃ t, exec (.mgmtWindowDone p .clean) s = .next t ∧ t.rd F.BK_BUSY b = 0 ∧ t.rd F.BK_STATUS b = 0
             ∧ t = { s with regs := t.regs, banks := t.banks } ∧ t.bankPoison p.val q.bank q.word = false
             ∧ ∀ pos b' w, b' < 8 → t.bankWord pos b' w = if pos = p.val ∧ b' = q.bank ∧ w = q.word then q.data else s.bankWord pos b' w))
  ∧ (∀ (k : LPatch) (v : W32) (s : State), s.stackOn = true →
       let b := BOLT k.val
       let q := s.boltWin.get (fun _ => ⟨0, 0, 0, false, 0⟩) k.val
       (bitsOf 0 0 v = 1 → s.silent .bolt 0x10C = false → s.rd F.BOLT_WIN_BUSY b = 0 → ∃ t, exec (.boltWindowGo k v 15) s = .next t ∧ t.rd F.BOLT_WIN_BUSY b = 1
           ∧ t.boltWin.get (fun _ => ⟨0, 0, 0, false, 0⟩) k.val = ⟨0, s.rd F.BOLT_WIN_WORD b,
               BitVec.ofNat 64 (s.pair (b + 0x104) (b + 0x108)), bitsOf 1 1 v == 1, bitsOf 9 2 v⟩
           ∧ t = { s with regs := t.regs, boltWin := t.boltWin })
         ∧ (s.rd F.BOLT_WIN_BUSY b = 1 → q.write = false → s.lineBad k.val (q.word / 8) = false →
             ∃ t, exec (.boltWindowDone k .clean) s = .next t ∧ t.rd F.BOLT_WIN_BUSY b = 0 ∧ t.rd F.BOLT_WIN_STATUS b = 0
               ∧ t.pair (b + 0x104) (b + 0x108) = leNat (s.boltBytes k.val (8 * q.word) 8) ∧ OnlyRegs [b + 0x104, b + 0x108, b + 0x10C] s t)
         ∧ (s.rd F.BOLT_WIN_BUSY b = 1 → q.write = true → s.lineBad k.val (q.word / 8) = false →
             ∃ t, exec (.boltWindowDone k .clean) s = .next t ∧ t.rd F.BOLT_WIN_BUSY b = 0
               ∧ (t.halted = false → t.rd F.BOLT_WIN_STATUS b = 0
                 ∧ ∀ a, t.boltByte k.val a = if 8 * q.word ≤ a ∧ a < 8 * q.word + 8 ∧ bitAt q.bytes (a - 8 * q.word) = true then
                     nthD 0 (leBytes 8 q.data.toNat) (a - 8 * q.word) else s.boltByte k.val a)))

/-- Buckets, patrol and rows (R341 to R344): a leak period that ends takes one from the level and the next has the length then written; a new depth brings
levels down to it; the patrol reads the next word or line at its time in the pass, which begins again after the last, and leaves what it reads clean
as it was; a copied row waits for the boundary at which the row map names it. The model's own choices that clauses rest on: assumptions 41, 100. -/
def Obligations.ErrorManagement : Prop :=
  ∀ (u : MemUnit) (s : State), s.stackOn = true → s.unitReset u = false →
    let t0 := unitLeakEnd s u
    let pass := patrolPass s u
    (s.comes t0 = true → unitLevel s u ≠ 0 → ∃ t, exec (.bucketLeak u) s = .next t ∧ unitLevel t u = unitLevel s u - 1
        ∧ t = { s.tick (t0 - s.time.run) with regs := t.regs, banks := t.banks, bolts := t.bolts }
        ∧ unitDepth t u = unitDepth s u ∧ unitLeakEnd t u = t0 + unitLeakMs s u * cyclesPerMs)
      ∧ (∀ v : BitVec 16, ∃ t, exec (.bucketDepthWrite u v) s = .next t ∧ unitDepth t u = max 1 v.toNat
          ∧ unitLevel t u = min (max 1 v.toNat) (unitLevel s u) ∧ t = { s with regs := t.regs })
      ∧ (8 ≤ s.rd F.ST_PHASE DEV → s.comes (patrolTime s u) = true → (∀ k : LPatch, u = .bolt k → (k.val, pass.1) ∉ s.stack.marked) →
          ∃ t, exec (.patrolRead u .clean) s = .next t
          ∧ t = { s.tick (patrolTime s u - s.time.run) with banks := t.banks, bolts := t.bolts }
          ∧ (∀ pos b w, t.bankWord pos b w = s.bankWord pos b w ∧ t.bankPoison pos b w = s.bankPoison pos b w)
          ∧ (∀ k a, t.boltByte k a = s.boltByte k a)
          ∧ (pass.1 + 1 < pass.2.2.2 → patrolPass t u = (pass.1 + 1, pass.2))
          ∧ (pass.2.2.2 ≤ pass.1 + 1 → (patrolPass t u).1 = 0 ∧ (patrolPass t u).2.1 = pass.2.1 + pass.2.2.1
            ∧ ∀ k, u = .bolt k → (patrolPass t u).2.2.1 = s.rd F.BOLT_PATROL_S (BOLT k.val) * (1000 * cyclesPerMs)))
      ∧ ∀ row rest, (unitRows s u).toCopy = row :: rest →
          (∃ t, exec (.rowCopyDone ⟨u, []⟩) s = .next t
            ∧ unitRows t u = { unitRows s u with toCopy := rest, copied := (unitRows s u).copied ++ [row] }
            ∧ t = { s with banks := t.banks, bolts := t.bolts })
          ∧ ∀ seen, ∃ t, exec (.rowCopyDone ⟨u, seen⟩) s = .next t ∧ row ∈ (unitRows t u).copied

/-- Bolt lines (R337 to R339, R351, R352, R357): a clean read leaves everything; an error within the code is counted and corrected; one beyond it poisons
the line, counts and reports it; one that the tag finds halts the device, with its cause; a write stores exactly the bytes enabled, and a whole line
clears poison. Re-encryption and counters (R347, R355): a pass that is done leaves its region under its new epoch and lets the next begin; an error
that a counter's code cannot correct restarts a leaf, with its discontinuity and stitch, and has a node rebuilt at the next boundary. The model's own
choices that clauses rest on: assumptions 10, 41. -/
def Obligations.BoltLines : Prop :=
  (∀ (k : LPatch) (line : BitVec 25) (who : Reader) (s : State), s.stackOn = true → s.inReset 3 = false →
     let b := BOLT k.val
     let l := line.toNat
     let ok := s.lineBad k.val l = false
     (ok → exec (.boltLineRead k line who .clean) s = .next s)
       ∧ (ok → ∃ t, exec (.boltLineRead k line who .corr) s = .next t ∧ (∀ a, t.boltByte k.val a = s.boltByte k.val a)
           ∧ (t.halted = false → t.rd F.BOLT_CORR b = min (2 ^ 32 - 1) (s.rd F.BOLT_CORR b + 1) ∧ t.rd F.BOLT_ERR_LINE b = l ∧ t.rd F.BOLT_ERR_UNC b = 0))
       ∧ (ok → who = .patrol ∨ who = .rekey → ∃ t, exec (.boltLineRead k line who .uncorr) s = .next t
           ∧ (t.halted = false → (t.lineMeta k.val l).poison = true ∧ t.rd F.BOLT_UNCORR b = min 65535 (s.rd F.BOLT_UNCORR b + 1)
             ∧ t.rd F.BOLT_ERR_LINE b = l ∧ t.rd F.BOLT_ERR_UNC b = 1 ∧ ∃ e, t.evq = s.evq ++ [e] ∧ e.code = 0x13))
       ∧ (∀ bs, (k.val, l) ∉ s.stack.marked → ∃ t, exec (.boltLineRead k line who (.miscorrect bs)) s = .next t ∧ t.halted = true ∧ t.rd F.HALT_CAUSE SEC = 1
           ∧ t.rd F.HALT_SOURCE SEC = k.val ∧ t.rd F.KEY_STATE SEC = 2 ∧ t.rd F.KEY_COPIES SEC = 0 ∧ t.bolts = s.bolts ∧ t.host.cmds = []
           ∧ t.host.done = s.host.done ++ s.host.cmds.map (fun d => ⟨d.c, .securityHalt, []⟩))
       ∧ ∀ (data : List Byte) (mask : List Bool), data.length = 64 → mask.length = 64 → mask.any id = true → ok ∨ mask.all id = true →
           ∃ t, exec (.boltLineWrite k line who data mask .clean) s = .next t
             ∧ (t.halted = false → (t.lineMeta k.val l).poison = false
               ∧ ∀ a, t.boltByte k.val a = if 64 * l ≤ a ∧ a < 64 * l + 64 ∧ nthD false mask (a - 64 * l) = true then nthD 0 data (a - 64 * l)
                   else s.boltByte k.val a))
  ∧ ((∀ (k : LPatch) (j : Nat) (rest : List Nat) (s : State), s.stackOn = true → s.inReset 3 = false → (s.boltAt k.val).rekeys = j :: rest → j < 32 →
         ∃ t, exec (.rekeyPassDone k) s = .next t ∧ (t.boltAt k.val).rekeys = rest ∧ t.rd F.BOLT_REKEY (BOLT k.val) j = bit (decide (j ∈ rest))
           ∧ t.rd F.BOLT_REKEYS (BOLT k.val) = (s.rd F.BOLT_REKEYS (BOLT k.val) + 1) % 65536
           ∧ t.rd F.BOLT_REKEYING (BOLT k.val) = bit (decide (rest ≠ [])) ∧ (∀ a, t.boltByte k.val a = s.boltByte k.val a)
           ∧ (t.boltAt k.val).regionBit.get (fun _ => false) j = bitAt (s.rd F.BOLT_EPOCH (BOLT k.val) j) 0
           ∧ ∀ m, m ≠ k.val → t.boltAt m = s.boltAt m)
       ∧ (∀ (l : Lane) (s : State), s.stackOn = true → ∃ t, exec (.counterUncorrectable (.leaf l)) s = .next t ∧ t.ln F.DISC l.val = 1
           ∧ t.reg (F.DISC_STITCH.at (RIBBON (l.val / 8)) (l.val % 8) 0) = BitVec.ofNat 32 s.stitch.toNat
           ∧ (∀ i, i < 9 → t.liveReg (F.LANE_CW_LO.at (RIBBON (l.val / 8)) (l.val % 8) 0 + 4 * i) = 0)
           ∧ (∀ a, a < F.LANE_CW_LO.at (RIBBON (l.val / 8)) (l.val % 8) 0 ∨ F.LANE_CW_LO.at (RIBBON (l.val / 8)) (l.val % 8) 0 + 36 ≤ a →
               t.liveReg a = s.liveReg a)
           ∧ t = { s with regs := t.regs, live := t.live })
       ∧ ∀ (c : CtrRef) (s : State), s.stackOn = true → (∃ r, c = .ribbonNode r) ∨ (∃ k, c = .patchNode k) ∨ c = .deviceNode →
           ∃ t, exec (.counterUncorrectable c) s = .next t ∧ t = { s with rebuild := t.rebuild } ∧ c ∈ t.rebuild
             ∧ ∀ x, x ∈ t.rebuild ↔ x = c ∨ x ∈ s.rebuild)

/-- The halt (R357, R358): in it no register takes a write, every block but SEC reads 0, no event is raised, and the processors issue nothing. -/
def Obligations.HaltStopsTheDevice : Prop :=
  ∀ s : State, s.halted = true →
    (∀ src a v be, s.busWrite src a v be = s) ∧ (∀ a b inst o, locate a = some (b, inst, o) → b ≠ .sec → s.peek a = 0)
      ∧ (∀ e blk inst args st, s.event e blk inst args st = s) ∧ (∀ h w, s.issues h w = false)
      ∧ (∀ h rd rs rt, exec (.add h rd rs rt) s = .next s) ∧ ∀ k slot unit tag, exec (.keep k slot unit tag) s = .next s

/-! Triggers, events and registers (R1 to R6, R305 to R323, R365). -/

/-- Raises (R306, R308, R314, R315): a port pulse, a register write and an edge on a ball raise exactly the lines that they name and their mask lets
through, with the time of the raise; the earliest raise of a line in a stitch counts; an edge whose filter ends beyond the stitch falls into the next,
with the time at which it was first sampled; an output pulse ends at its inactive level. A signal processor reaches no raise register. The model's own
choices that clauses rest on: assumptions 3, 29, 99. -/
def Obligations.TriggerRaises : Prop :=
  ∀ (off : Nat) (s : State),
    let o := s.clampOff off
    let now := (s.tick off).now
    let raises := fun (t : State) (cls base : Nat) (bits n : Nat) => t.regs = s.regs ∧ t.off = o ∧ ∀ i,
      (base ≤ i → i < base + n → bitAt bits (i - base) = true → s.maskBit cls i o = true →
          (s.trig.raise? i = none → t.trig.raise? i = some ⟨now, o, cls, s.devnum, false⟩)
            ∧ ∀ q, s.trig.raise? i = some q → t.trig.raise? i = some (if o < q.at_ then ⟨now, o, cls, s.devnum, true⟩ else { q with multi := true }))
        ∧ (i < base ∨ base + n ≤ i ∨ bitAt bits (i - base) = false ∨ s.maskBit cls i o = false → t.trig.raise? i = s.trig.raise? i)
    (∀ (k : LPatch) (lines : W64), s.fabricRuns k.val = true → ∃ t, exec (.fabricRaise k lines off) s = .next t ∧ raises t 0 0 lines.toNat 64)
      ∧ (∀ (src : Src) (cls : Nat) (high : Bool) (v : W32), s.up = true → raiseClass src = some cls →
          ∃ t, exec (.raiseWrite src high v off) s = .next t ∧ raises t cls (if high = true then 32 else 0) v.toNat 32)
      ∧ (∀ (src : Src) (high : Bool) (v : W32), s.up = true → raiseClass src = none → exec (.raiseWrite src high v off) s = .next (s.tick off))
      ∧ (∀ (ball : Fin 16) (rising : Bool), s.ballsActive = true → s.ballCfg F.TB_DIR ball.val = 1 →
          (s.ballCfg F.TB_EDGE ball.val = 0 ∧ rising = true) ∨ (s.ballCfg F.TB_EDGE ball.val = 1 ∧ rising = false) ∨ 2 ≤ s.ballCfg F.TB_EDGE ball.val →
          let line := s.ballCfg F.TB_LINE ball.val
          let at_ := o + s.ballCfg F.TB_FILT ball.val + 4
          (at_ < s.period → s.maskBit 4 line at_ = true → s.trig.raise? line = none → ∃ t, exec (.trigxEdge ball rising off) s = .next t
              ∧ t.trig.raise? line = some ⟨now, at_, 4, s.devnum, false⟩ ∧ t.regs = s.regs ∧ t.off = o)
            ∧ (at_ < s.period → s.maskBit 4 line at_ = false → exec (.trigxEdge ball rising off) s = .next (s.tick off))
            ∧ (s.period ≤ at_ → ∃ t, exec (.trigxEdge ball rising off) s = .next t ∧ t.trig.next = s.trig.next ++ [(line, ⟨now, at_ - s.period, 4, s.devnum, false⟩)]
                ∧ t = { s.tick off with trig := { s.trig with next := t.trig.next } }))
      ∧ ∀ (ball : Fin 16) (e : Nat), s.ballsActive = true → (s.ballAt ball.val).pulse = some e → s.time.run ≤ e → e < s.time.run + s.period →
          ∃ t, exec (.trigxPulseEnd ball) s = .next t ∧ t.off = s.clampOff (e - s.time.run) ∧ t.ballLevel ball.val = some (s.idleLevel ball.val)
            ∧ (t.ballAt ball.val).pulse = none ∧ t.regs = s.regs ∧ ∀ m, m ≠ ball.val → t.ballAt m = s.ballAt m

/-- The event ring (R319 to R323, R415): the head device writes the oldest record at its head while the ring has room, with the next number, and counts it
as lost otherwise; the record's class is pending in either case; another device sends it to the head device and keeps it until that has acknowledged
it; a write of the ring's base or size empties the ring. The model's own choices that clauses rest on: assumptions 28, 31. -/
def Obligations.EventRing : Prop :=
  ∀ s : State, s.up = true →
    let head := s.rd F.EVQ_HEAD TRIG
    let size := s.rd F.EVQ_SIZE TRIG
    let next := (head + 1) % size
    let seq : W32 := if s.evSeq = BitVec.allOnes 32 then 1 else s.evSeq + 1
    let emptied := fun (t : State) => t.rd F.EVQ_HEAD TRIG = t.rd F.EVQ_TAIL TRIG
    (∀ e rest, s.evq = e :: rest → s.isHead = true → s.host.d3 = false → 0 < size → size ≤ 65536 → e.code / 16 < 6 →
        (s.trig.based = true → next ≠ s.rd F.EVQ_TAIL TRIG → ∃ t, exec .eventRecordWrite s = .next t ∧ t.evq = rest ∧ t.evSeq = seq
            ∧ t.rd F.EVQ_HEAD TRIG = next ∧ bitAt (t.rd F.EVQ_PEND TRIG) (e.code / 16) = true
            ∧ t.rd F.EVQ_LOST TRIG = s.rd F.EVQ_LOST TRIG
            ∧ ∀ i, i < 32 → Tab.get (fun _ => 0) t.hostMem (s.pair (TRIG + 0x800) (TRIG + 0x804) + 32 * head + i) = nthD 0 (e.bytes seq) i)
          ∧ (s.trig.based = false ∨ next = s.rd F.EVQ_TAIL TRIG → ∃ t, exec .eventRecordWrite s = .next t ∧ t.evq = rest ∧ t.evSeq = s.evSeq
            ∧ t.rd F.EVQ_HEAD TRIG = head ∧ bitAt (t.rd F.EVQ_PEND TRIG) (e.code / 16) = true ∧ t.hostMem = s.hostMem
            ∧ t.rd F.EVQ_LOST TRIG = min (2 ^ 32 - 1) (s.rd F.EVQ_LOST TRIG + 1)))
      ∧ (∀ e rest, s.evq = e :: rest → s.isHead = false → ∃ t, exec .eventRecordWrite s = .next t ∧ t.evq = rest
          ∧ t.sys.unacked = s.sys.unacked ++ [e] ∧ t.regs = s.regs ∧ t.hostMem = s.hostMem)
      ∧ (∀ v : W32, ∃ t, exec (.evqBaseLoWrite v 15) s = .next t ∧ t.reg (TRIG + 0x800) = BitVec.ofNat 32 (v.toNat / 4096 * 4096) ∧ emptied t
          ∧ t.trig.based = true ∧ t.rd F.EVQ_TAIL TRIG = s.rd F.EVQ_TAIL TRIG)
      ∧ (∀ v : W32, ∃ t, exec (.evqBaseHiWrite v 15) s = .next t ∧ t.reg (TRIG + 0x804) = v ∧ emptied t ∧ t.trig = s.trig)
      ∧ ∀ v : W32, ∃ t, exec (.evqSizeWrite v 15) s = .next t ∧ emptied t ∧ t.trig = s.trig ∧ 64 ≤ t.rd F.EVQ_SIZE TRIG
          ∧ t.rd F.EVQ_SIZE TRIG ≤ 65536 ∧ (∃ j, t.rd F.EVQ_SIZE TRIG = 2 ^ j)
          ∧ t.rd F.EVQ_TAIL TRIG = min (s.rd F.EVQ_TAIL TRIG) (t.rd F.EVQ_SIZE TRIG - 1)

/-- Register accesses by address (R3, R4, R173, R308, R317, R365): a write lands at its offset under its byte enables; at an offset that no register has
it is ignored; a read answers the word, sets fields that it clears to their reset values, and of a counter's low word captures the high one. The
model's own choices that clauses rest on: assumption 3. -/
def Obligations.RegisterAccesses : Prop :=
  ∀ (a : BitVec 20) (s : State), s.up = true →
    let a4 := a.toNat / 4 * 4
    (∀ (src : Src) (v : W32) (be : BitVec 4) (off : Nat),
        (locate a4 = none → exec (.registerWrite src a v be off) s = .next (s.tick off))
          ∧ (be = 0 → exec (.registerWrite src a v be off) s = .next (s.tick off))
          ∧ ∀ b inst o, locate a4 = some (b, inst, o) → b ∈ [Blk.hk, .cfg, .sec, .res] → s.silent b o = false → be ≠ 0 →
              ∃ t, exec (.registerWrite src a v be off) s = .next t ∧ OnlyRegs [a4] (s.tick off) t
                ∧ t.reg a4 = (rowsAt b inst o).foldl (fun w r => writeField v be.toNat w r.1) (s.reg a4))
      ∧ (∀ b inst o, locate a4 = some (b, inst, o) → b ∈ [Blk.hk, .cfg, .sec, .res, .seam] → s.silent b o = false →
          ∃ t, exec (.rcFieldRead a) s = .next t ∧ t.resp = s.reg a4 ∧ OnlyRegs [a4] { s with resp := t.resp } t
            ∧ t.reg a4 = ((rowsAt b inst o).filter (fun r => r.1.acc = .rc)).foldl
                (fun w r => setBitsOf r.1.f.hi r.1.f.lo w (r.1.reset inst r.2)) (s.reg a4))
      ∧ (∀ b inst o, locate a4 = some (b, inst, o) → b ∈ [Blk.dev, .ribbon] → s.silent b o = false → (hiOf b o).isSome = true →
          ∃ t, exec (.counterLoRead a) s = .next t ∧ t.resp = s.reg a4 ∧ t.capHi.get resetWord (a4 + 4) = s.reg (a4 + 4)
            ∧ ∀ m, m ≠ a4 + 4 → t.capHi.get resetWord m = s.capHi.get resetWord m)
      ∧ (∀ off : Nat, s.silent .trig 0 = false → ∃ t, exec (.stateLoRead off) s = .next t ∧ t.resp = BitVec.ofNat 32 s.trig.latched.toNat
          ∧ t.capHi.get resetWord (TRIG + 4) = BitVec.ofNat 32 (s.trig.latched.toNat / 2 ^ 32) ∧ t.regs = s.regs)
      ∧ (∀ off : Nat, s.silent .trig 0x208 = false → ∃ t, exec (.logStatRead off) s = .next t ∧ t.resp = s.reg (TRIG + 0x208) ∧ t.rd F.LOG_LOST TRIG = 0
          ∧ t.rd F.LOG_NEWEST TRIG = s.rd F.LOG_NEWEST TRIG ∧ t.trig = s.trig)

/-! Seams and systems (R395 to R421). The links that discovery found name devices 0 to 63 and their six seams (R406). -/

/-- Link states (R402, R405, R420): a seam that is DOWN and enabled trains 10 ms after, awaits the key and comes UP with the next generation; it goes DOWN
with the cause of its failure, which is counted, and its peer's key is erased. -/
def Obligations.SeamLinkStates : Prop :=
  ∀ (n : Seam) (s : State), s.halted = false → (∀ l ∈ s.sys.links, l.a < 64 ∧ l.b < 64) →
    let b := SEAM n.val
    let state := s.rd F.SEAM_LSTATE b
    let down := fun (t : State) (cause : Nat) => t.rd F.SEAM_LSTATE b = 0 ∧ t.rd F.SEAM_FAIL_CAUSE b = cause
        ∧ t.rd F.SEAM_DOWNS b = min 65535 (s.rd F.SEAM_DOWNS b + 1) ∧ (t.seamAt n.val).key = false
        ∧ t = { s with regs := t.regs, seams := t.seams, sys := t.sys }
        ∧ ∀ m, m < 6 → m ≠ n.val → t.rd F.SEAM_LSTATE (SEAM m) = s.rd F.SEAM_LSTATE (SEAM m)
    (state = 0 → s.rd F.SEAM_EN b = 1 → s.clk.locked = true → s.seamClocked n.val = true →
        (∀ w, (s.seamAt n.val).downAt = some w → w + 10 * cyclesPerMs < s.time.run + s.period) → ∃ t, exec (.seamRetry n) s = .next t ∧ t.rd F.SEAM_LSTATE b = 1 ∧ OnlyRegs [b + 4] s t)
      ∧ (state = 1 → s.rd F.SEAM_EN b = 1 → s.seamClocked n.val = true → s.start.vlane = true → s.start.vlaneH = true → ∃ t, exec (.seamTrained n) s = .next t ∧ t.rd F.SEAM_LSTATE b = 2 ∧ OnlyRegs [b + 4] s t)
      ∧ (∀ (peer : Device) (ps : Seam), state = 2 → s.rd F.KEY_STATE SEC = 1 → s.seamClocked n.val = true →
          (∃ t, exec (.seamKeyReceived n true peer ps) s = .next t ∧ t.rd F.SEAM_LSTATE b = 3 ∧ t.rd F.SEAM_PEER_DEV b = peer.val
              ∧ t.rd F.SEAM_PEER_SEAM b = ps.val ∧ t.rd F.SEAM_GEN b = (s.rd F.SEAM_GEN b + 1) % 2 ^ 29 ∧ (t.seamAt n.val).fctr = 0
              ∧ (t.seamAt n.val).key = true ∧ t = { s with regs := t.regs, seams := t.seams })
          ∧ ∃ t, exec (.seamKeyReceived n false peer ps) s = .next t ∧ down t 3)
      ∧ (state = 1 ∨ state = 2 ∨ state = 3 → (∃ t, exec (.seamLockLoss n) s = .next t ∧ down t 1)
          ∧ ∃ t, exec (.uncorrectableCodewords n) s = .next t ∧ down t 4)
      ∧ (state = 3 → ∃ t, exec (.frameTimeout n) s = .next t ∧ down t 2)
      ∧ (state ≠ 0 → ∃ t, exec (.retrain n) s = .next t ∧ down t 6)
      ∧ (∀ v : W32, v.toNat % 2 = 0 → state ≠ 0 → ∃ t, exec (.seamEnWrite n v 15) s = .next t ∧ t.rd F.SEAM_EN b = 0 ∧ down t 6)
      ∧ ∀ v : W32, v.toNat % 4 = 1 → ∃ t, exec (.seamEnWrite n v 15) s = .next t ∧ t.rd F.SEAM_EN b = 1 ∧ OnlyRegs [b] s t

/-- Frames and TIME cells (R397 to R400, R404, R408): a frame, one every 128 root cycles, carries the next number, the stitch and the offset, up to 15
control cells, of which those of raises hold up to 15 entries and leave first, and 48 data cells; all leave their queues; a frame received counts its
codewords, and halts the device where its tag fails; a TIME cell gives the round trip, half of whose mean is the one-way time, and from a parent the
alignment of a device that has not aligned: its counter, and the extension with which its stitch ends where one of the parent's does. Raise entries
and data cells (R309, R399, R411, R415, R417): an entry not seen before is latched D stitches after its raise, or at the next boundary where it is
late, which is counted; one seen before is dropped; a data cell goes on toward its destination, to host memory, or into its flow; a HALT block leaves
the seam PEER_HALTED and is reported. The model's own choices that clauses rest on: assumptions 3, 18, 30, 82, 102. -/
def Obligations.SeamTraffic : Prop :=
  (∀ (n : Seam) (s : State), s.rd F.SEAM_LSTATE (SEAM n.val) = 3 → s.halted = false →
     let b := SEAM n.val
     let x := s.seamAt n.val
     let at_ := x.launch.getD s.rootNow
     let s1 := s.tick (at_ - s.time.run)
     (at_ < s.time.run + s.period → ∃ t fr, exec (.seamFrameSend n) s = .next t ∧ (t.seamAt n.val).frame = some fr ∧ fr.fctr = x.fctr
         ∧ fr.gen = s.rd F.SEAM_GEN b ∧ fr.seam = n.val ∧ fr.src = s.devnum ∧ fr.stitch = s.stitch ∧ fr.offset = 32 * s1.off
         ∧ fr.echo = x.echo.map (fun e => (e.1, e.2.1, 32 * (at_ - e.2.2)))
         ∧ fr.trigs ++ (t.seamAt n.val).trigOut = x.trigOut ∧ fr.msgs ++ (t.seamAt n.val).msgOut = x.msgOut
         ∧ ceilDiv fr.trigs.length 15 + fr.msgs.length ≤ 15 ∧ (fr.msgs ≠ [] → ceilDiv x.trigOut.length 15 = ceilDiv fr.trigs.length 15)
         ∧ fr.data.length ≤ 48 ∧ List.Perm (fr.data ++ (t.seamAt n.val).dataOut) x.dataOut
         ∧ (t.seamAt n.val).fctr = x.fctr + 1 ∧ (t.seamAt n.val).launch = some (at_ + 128) ∧ t = { s1 with seams := t.seams, fresh := t.fresh })
       ∧ (∀ (corr uncorr : BitVec 16) (off : Nat),
           (∃ t, exec (.seamFrameReceive n true corr uncorr off) s = .next t ∧ t.rd F.SEAM_CW_CORR b = min 65535 (s.rd F.SEAM_CW_CORR b + corr.toNat)
               ∧ t.rd F.SEAM_CW_UNCORR b = min 65535 (s.rd F.SEAM_CW_UNCORR b + uncorr.toNat) ∧ OnlyRegs [b + 0x18] (s.tick off) t)
           ∧ ∃ t, exec (.seamFrameReceive n false corr uncorr off) s = .next t ∧ t.halted = true ∧ t.rd F.HALT_CAUSE SEC = 2
               ∧ t.rd F.HALT_SOURCE SEC = n.val ∧ t.rd F.KEY_STATE SEC = 2)
       ∧ ∀ c : TimeCell, let rs := (c.rtt :: x.rtts).take 256
           let s2 := s.tick c.at_
           ∃ t, exec (.timeCell n c) s = .next t ∧ (t.seamAt n.val).rtts = rs ∧ (t.seamAt n.val).echo = some (c.stitch, c.offset, s2.rootNow)
             ∧ t.rd F.SEAM_RTT b = rs.foldl (· + ·) 0 / rs.length % 2 ^ 20 ∧ t.rd F.SEAM_ONEWAY b = rs.foldl (· + ·) 0 / rs.length / 2 % 2 ^ 16
             ∧ (t.seamAt n.val).hot = c.hot.isSome ∧ t.stitch = s.stitch
             ∧ (s.rd F.SEAM_ROLE b = 1 → s.sys.claimed = true → s.sys.aligned = false → 0 < c.headN.toNat →
                 let p := 64 * c.headN.toNat
                 let here := (c.offset + t.rd F.SEAM_ONEWAY b) / 32 + (s.period - s2.off)
                 t.sys.aligned = true ∧ ∃ a, t.sys.align = some a ∧ a.n = c.headN.toNat ∧ a.root = c.headRoot.toNat ∧ a.gap < p
                   ∧ (here + a.gap) % p = 0 ∧ a.stitch = c.stitch + BitVec.ofNat 64 ((here + a.gap) / p))
             ∧ (¬ (s.rd F.SEAM_ROLE b = 1 ∧ s.sys.claimed = true ∧ s.sys.aligned = false) → t.sys.align = s.sys.align))
  ∧ (∀ (n : Seam) (off : Nat) (s : State), s.rd F.SEAM_LSTATE (SEAM n.val) = 3 → s.halted = false →
       (∀ e : TrigEntry, e.reset = false →
           let line := 48 + e.line.val
           let back := (s.stitch.toNat + 65536 - e.stitch.toNat) % 65536
           let due := s.stitch - BitVec.ofNat 64 back + BitVec.ofNat 64 (s.rd F.TRIG_D TRIG)
           ((line, e.origin.val, e.stitch.toNat) ∈ s.sys.seen → exec (.trigCell n [e] off) s = .next (s.tick off))
             ∧ ((line, e.origin.val, e.stitch.toNat) ∉ s.sys.seen → back < 32768 → back < s.rd F.TRIG_D TRIG → ∃ t q, exec (.trigCell n [e] off) s = .next t
                 ∧ t.trig.sysDue = s.trig.sysDue ++ [q] ∧ q.line = line ∧ q.due = due ∧ q.r.dev = e.origin.val
                 ∧ (line, e.origin.val, e.stitch.toNat) ∈ t.sys.seen ∧ t.rd F.TRIG_LATE TRIG = s.rd F.TRIG_LATE TRIG)
             ∧ ((line, e.origin.val, e.stitch.toNat) ∉ s.sys.seen → back < 32768 → s.rd F.TRIG_D TRIG ≤ back → ∃ t q, exec (.trigCell n [e] off) s = .next t
                 ∧ t.trig.sysDue = s.trig.sysDue ++ [q] ∧ q.line = line ∧ q.due = s.stitch + 1
                 ∧ t.rd F.TRIG_LATE TRIG = min 65535 (s.rd F.TRIG_LATE TRIG + 1)))
         ∧ (∀ d : DataCell,
             (d.kind = 1 → exec (.dataCell n d) s = .next s)
             ∧ (d.dest.val = s.devnum → d.kind ≠ 1 → ¬ (d.kind = 2 ∧ s.isHead = true) → ∃ t, exec (.dataCell n d) s = .next t
                 ∧ t.sys.flows.get (fun _ => []) (64 * d.kind.toNat + d.source.val)
                     = flowSoFar (s.sys.flows.get (fun _ => []) (64 * d.kind.toNat + d.source.val)) d ++ d.payload
                 ∧ t = { s with sys := { s.sys with flows := t.sys.flows } })
             ∧ (d.dest.val = s.devnum → d.kind = 2 → s.isHead = true → s.host.d3 = false → ∃ t, exec (.dataCell n d) s = .next t
                 ∧ t = { s with hostMem := t.hostMem } ∧ ∀ a, Tab.get (fun _ => 0) t.hostMem a =
                     if leNat (d.payload.take 8) ≤ a
                         ∧ a < leNat (d.payload.take 8) + ((d.payload.drop 12).take (leNat ((d.payload.drop 8).take 4))).length then
                       nthD 0 (d.payload.drop 12) (a - leNat (d.payload.take 8)) else Tab.get (fun _ => 0) s.hostMem a)
             ∧ (∀ m, d.kind ≠ 1 → d.dest.val ≠ s.devnum → s.routeTo d.dest.val = some m → ∃ t, exec (.dataCell n d) s = .next t
                 ∧ (t.seamAt m).dataOut = (s.seamAt m).dataOut ++ [d] ∧ t = { s with seams := t.seams } ∧ ∀ i, i ≠ m → t.seamAt i = s.seamAt i))
         ∧ ∀ d : Device, s.isHead = false → ∃ t, exec (.haltBlock n d off) s = .next t ∧ t.rd F.SEAM_LSTATE (SEAM n.val) = 4
             ∧ t.rd F.SEAM_FAIL_CAUSE (SEAM n.val) = 5 ∧ (t.seamAt n.val).key = false ∧ t.off = s.clampOff off
             ∧ ∃ e, t.evq = s.evq ++ [e] ∧ e.code = 0x40)

/-- Messages, bring-up and the system reset (R399, R406, R415, R523): a message for another device goes on toward it; one for this device is taken, a
register write as the host's, a register read with the word or the pair that it names; GO numbers this device 0 and announces a READY within 5 ms, or
leaves the device alone, in a system of its own, where discovery was refused; the head's system reset takes effect D stitches later. The model's own
choices that clauses rest on: assumptions 3, 17, 62, 102. -/
def Obligations.SystemBringUp : Prop :=
  (∀ (n : Seam) (dest : Device) (m : Msg) (off : Nat) (s : State), s.rd F.SEAM_LSTATE (SEAM n.val) = 3 → s.halted = false →
      (∀ r, s.forMe dest.val m = false → s.routeTo dest.val = some r → ∃ t, exec (.msgCell n dest m off) s = .next t
          ∧ (t.seamAt r).msgOut = (s.seamAt r).msgOut ++ [(dest.val, m)] ∧ t = { s with seams := t.seams, off := t.off }
          ∧ ∀ i, i ≠ r → t.seamAt i = s.seamAt i)
        ∧ (m = .eventAck → dest.val = s.devnum → ∃ t, exec (.msgCell n dest m off) s = .next t ∧ t.sys.unacked = s.sys.unacked.drop 1
            ∧ t.regs = s.regs ∧ t.off = s.clampOff off)
        ∧ (∀ from_ a v be, m = .regWrite from_ a v be → dest.val = s.devnum → exec (.msgCell n dest m off) s
            = .next (((s.tick off).busWrite .host (a.toNat / 4 * 4) v be.toNat).sendMsg from_.val (.regResp (Fin.ofNat 64 s.devnum) 0 0)))
        ∧ (∀ from_ a wide, m = .regRead from_ a wide → dest.val = s.devnum → exec (.msgCell n dest m off) s
            = .next ((s.tick off).sendMsg from_.val (.regResp (Fin.ofNat 64 s.devnum) ((s.tick off).windowPeek a.toNat wide).1
                ((s.tick off).windowPeek a.toNat wide).2))))
    ∧ (∀ (cabling : List Link) (s : State), s.clk.locked = true → s.halted = false → s.rd F.SYS_STATE DEV ≠ 1 ∨ s.sys.goAsked = true →
        1 ≤ s.rd F.STC_N_NOW DEV →
        let links := numbered cabling
        (∀ l ∈ links, l.a < 64 ∧ l.b < 64) →
        (∃ t, exec (.go cabling true) s = .next t ∧ t.rd F.SYS_STATE DEV = 0 ∧ t.rd F.SYS_HEAD DEV = 1 ∧ t.rd F.SYS_DEVNUM DEV = 0
            ∧ t.rd F.SYS_COUNT DEV = 1 ∧ t.rd F.TRIG_D TRIG = 1 ∧ t.sys.ready = none ∧ t.sys.claimed = false ∧ t.stitch = s.stitch)
          ∧ ∃ t r, exec (.go cabling false) s = .next t ∧ t.rd F.SYS_STATE DEV = 1 ∧ t.rd F.SYS_HEAD DEV = 1 ∧ t.rd F.SYS_DEVNUM DEV = 0
            ∧ t.sys.ready = some r ∧ t.sys.links = links ∧ r.count = deviceCount links ∧ 1 ≤ (r.at_ - s.stitch).toNat
            ∧ (r.at_ - s.stitch).toNat * s.period ≤ 16000000
            ∧ r.d = (if r.count < 2 then 1 else min 255 (max (dCalcOf r.count (lMaxOf links) s.period) (s.rd F.SYS_D_MIN DEV))))
    ∧ ∀ (off : Nat) (s : State), s.isHead = true → s.up = true → ∃ t, exec (.sysReset off) s = .next t
        ∧ t.sys.resetAt = some (s.stitch + BitVec.ofNat 64 (s.rd F.TRIG_D TRIG)) ∧ t.regs = s.regs ∧ t.stitch = s.stitch ∧ t.off = s.clampOff off

/-! Configuration, scrubbing, settings and fuses (R422 to R456). -/

/-- Frames of the device's own section (R425 to R429, R439, R440): each counts against its key and against the section's frames, and has its own effect; a
key is good for 126 frames; a frame that fails its check is asked for once more, and the second failure ends the load; END ends the section where
every plane is whole. A slot write only checks its frames (R423). Loads begin and end (R423, R435 to R443): a command's load from the host goes on to
read its header; one during another load is refused; a chain stream whose header passes begins a load, one during a load is counted; a section for
this device is taken once; a stream that ends or stops too soon ends the load; a slot written whole is STORED; a fallback load takes its slot. The
model's own choices that clauses rest on: assumptions 41, 47, 103. -/
def Obligations.Configuration : Prop :=
  (∀ (f : FrameInfo) (l : LoadSt) (s : State), s.loading = some l →
     let l1 := { l with again := false, keyFrames := l.keyFrames + 1, left := l.left - 1, seen := l.seen + 1 }
     let goesOn := fun (t : State) (q : LoadSt) => t.cfg.load = some { q with mine := q.mine && decide (q.left ≠ 0) }
         ∧ t.rd F.CFG_FRAMES CFG = q.frames % 2 ^ 32
     let only := fun (t : State) => t = { s with regs := t.regs, cfg := { s.cfg with load := t.cfg.load } }
     let ended := fun (t : State) (cause st : Nat) => t.cfg.load = none ∧ t.rd F.CFG_CAUSE CFG = cause ∧ t.rd F.CFG_LAST_STATUS CFG = st
     (l.dest = none → f.crcOk = true → l.keyFrames < 126 →
         (∃ t, exec (.frameNop f) s = .next t ∧ goesOn t l1 ∧ only t)
           ∧ (∀ (k : LPatch) (plane : BitVec 4) (index : BitVec 11) (id : W16) (items : List PlaneItem), index.toNat < 1800 →
               l.full = true ∨ 2 ≤ plane.toNat →
               let pl := min plane.toNat 7
               let waits := l.full = false ∧ s.rd F.LPM_HOVER DEV k.val = 1 ∧ 2 ≤ s.rd F.RES_PHASE RES
               ∃ t q, exec (.framePlane f k plane index ⟨id, items⟩) s = .next t ∧ t.cfg.load = some q ∧ q.frames = l.frames + 1 ∧ q.left = l.left - 1
                 ∧ q.got.get (fun _ => false) (2048 * (8 * k.val + pl) + index.toNat) = true ∧ q.keyFrames = l.keyFrames + 1
                 ∧ (q.planes.any (fun p => p.1 == k.val && p.2.1 == pl)) = true ∧ t.rd F.CFG_FRAMES CFG = (l.frames + 1) % 2 ^ 32
                 ∧ (pl = 0 → (t.fabAt k.val).aCfg = Tab.put (s.fabAt k.val).aCfg index.toNat items)
                 ∧ (pl = 1 → (t.fabAt k.val).sCfg = Tab.put (s.fabAt k.val).sCfg index.toNat items)
                 ∧ (2 ≤ pl → ¬ waits → t.rd F.DIR_VALID (s.pb k.val) (pl - 2) = 0
                   ∧ (t.fabAt k.val).store.get (fun _ => []) (pl - 2) = Tab.put ((s.fabAt k.val).store.get (fun _ => []) (pl - 2)) index.toNat items)
                 ∧ (2 ≤ pl → waits → t.fabs = s.fabs ∧ t.cfg.heldWrites = s.cfg.heldWrites ++ [(k.val, pl - 2, index.toNat, items)]))
           ∧ (∀ pairs, l.full = true → ∃ t, exec (.frameSetting f pairs) s = .next t ∧ only t
               ∧ goesOn t { l1 with pairs := l.pairs ++ pairs.filter (fun p => p.1 != 0xFFFFFFFF), frames := l.frames + 1 })
           ∧ (∀ pairs, l.full = false → ∃ t, exec (.frameSetting f pairs) s = .next t ∧ only t ∧ goesOn t l1)
           ∧ (∀ (chunk : BitVec 11) (last : Bool) (items : List PlaneItem), ∃ t, exec (.frameJack f chunk ⟨last, items⟩) s = .next t
               ∧ goesOn t { l1 with jackGot := l.jackGot ++ [chunk.toNat], frames := l.frames + 1 }
               ∧ Tab.get (fun _ => []) (t.cfg.jackImgs.get (fun _ => []) (1 - s.rd F.JK_ACTIVE JACK) : Plane) chunk.toNat = items
               ∧ (s.rd F.JK_ACTIVE JACK = 1 → t.rd F.JK_VALID0 JACK = bit last ∧ t.rd F.JK_VALID1 JACK = s.rd F.JK_VALID1 JACK)
               ∧ (s.rd F.JK_ACTIVE JACK ≠ 1 → t.rd F.JK_VALID1 JACK = bit last ∧ t.rd F.JK_VALID0 JACK = s.rd F.JK_VALID0 JACK))
           ∧ (∃ t, exec (.keyroll f) s = .next t ∧ goesOn t { l1 with keyFrames := 0, keyIndex := l.keyIndex + 1 } ∧ only t)
           ∧ (l.complete_ = true → ∃ t, exec (.frameEnd f) s = .next t ∧ goesOn t { l1 with mine := false, ended := true } ∧ only t)
           ∧ (l.complete_ = false → ∃ t, exec (.frameEnd f) s = .next t ∧ ended t 5 0x0A))
       ∧ (l.dest = none → f.crcOk = true → 126 ≤ l.keyFrames → ∃ t, exec (.frameNop f) s = .next t ∧ ended t 6 0x03)
       ∧ (l.dest.isSome = true → f.crcOk = true → ∃ t, exec (.frameNop f) s = .next t ∧ only t ∧ t.cfg.load = some { l with again := false, frames := l.frames + 1 }
           ∧ t.rd F.CFG_FRAMES CFG = (l.frames + 1) % 2 ^ 32)
       ∧ (f.crcOk = false → f.readError = false → l.again = false → ∃ t, exec (.frameNop f) s = .next t
           ∧ t.cfg.load = some { l with again := true, repeats := l.repeats + 1 }
           ∧ t.rd F.CFG_RETRIES CFG = min F.CFG_RETRIES.max (s.rd F.CFG_RETRIES CFG + 1))
       ∧ (f.crcOk = false → f.readError = false → l.again = true → ∃ t, exec (.frameNop f) s = .next t ∧ ended t 2 0x07))
  ∧ (∀ s : State, s.halted = false →
       (∀ (c : CmdRef) (d : DispCmd), s.cmdOf c 0x30 .fresh = some d → s.rd F.LCS SEC ≠ 5 →
           (∀ l, s.cfg.load = some l → ∃ t, exec (.cfgLoad c) s = .next t ∧ Ends c .refused [] s t ∧ t = { s with host := t.host })
             ∧ (s.cfg.load = none → d.param 8 1 = 0 → ∃ t l, exec (.cfgLoad c) s = .next t ∧ Enters c .reading s t ∧ t.cfg.load = some l ∧ l.c = some c
                 ∧ l.source = 0 ∧ l.dest = (if d.param 10 1 = 0 then none else some (min (d.param 11 1) 7)) ∧ l.hdr = StreamHeader.none_ ∧ t.regs = s.regs))
         ∧ (∀ hdr : StreamHeader, s.clk.locked = true → s.rd F.SYS_CHAIN_IN DEV < 6 → s.seamUp (s.rd F.SYS_CHAIN_IN DEV) = true → s.rd F.LCS SEC ≠ 5 →
             (s.cfg.load = none → s.headerOk hdr true = true → ∃ t l, exec (.chainStream hdr) s = .next t ∧ t.cfg.load = some l ∧ l.source = 1 ∧ l.hdr = hdr
                 ∧ l.sectionsLeft = hdr.sections.toNat ∧ l.dest = none ∧ t.rd F.CFG_SOURCE CFG = 1 ∧ t.rd F.CFG_CAUSE CFG = 0 ∧ t.rd F.CFG_FRAMES CFG = 0)
               ∧ (s.cfg.load = none → s.headerOk hdr true = false → ∃ t, exec (.chainStream hdr) s = .next t ∧ t.cfg.load = none
                 ∧ t.rd F.CFG_CAUSE CFG = 1 ∧ t.rd F.CFG_LAST_STATUS CFG = 9)
               ∧ (∀ l, s.cfg.load = some l → ∃ t, exec (.chainStream hdr) s = .next t ∧ t.cfg = s.cfg
                 ∧ t.rd F.CFG_CHAIN_BUSY CFG = min F.CFG_CHAIN_BUSY.max (s.rd F.CFG_CHAIN_BUSY CFG + 1)))
         ∧ (∀ (pos : BitVec 6) (mode : BitVec 2) (frames : W32) (raw : List Byte) (l : LoadSt), s.cfg.load = some l → 0 < l.sectionsLeft → l.mine = false → l.dest = none →
             l.source ≠ 2 →
             (pos.toNat = s.rd F.SYS_CHAIN_POS DEV → l.taken = false → ∃ t q, exec (.sectionHeader pos mode frames ⟨true, raw⟩) s = .next t ∧ t.cfg.load = some q
                 ∧ q.taken = true ∧ q.mine = decide (frames ≠ 0) ∧ q.left = frames.toNat ∧ q.full = (mode != 1) ∧ q.sectionsLeft = l.sectionsLeft - 1 ∧ t.regs = s.regs
                 ∧ t.cfg.takeOut = (s.cfg.takeOut || mode != 1))
               ∧ (pos.toNat < s.rd F.SYS_CHAIN_POS DEV → ∃ t q, exec (.sectionHeader pos mode frames ⟨true, raw⟩) s = .next t ∧ t.cfg.load = some q
                 ∧ q.taken = l.taken ∧ q.mine = false ∧ t.rd F.CFG_DISCARDED CFG = min F.CFG_DISCARDED.max (s.rd F.CFG_DISCARDED CFG + 1))
               ∧ (s.rd F.SYS_CHAIN_POS DEV < pos.toNat → s.rd F.SYS_CHAIN_OUT DEV ≠ 7 → ∃ t q, exec (.sectionHeader pos mode frames ⟨true, raw⟩) s = .next t
                 ∧ t.cfg.load = some q ∧ q.taken = l.taken ∧ q.mine = false ∧ q.passed = l.passed + 1 ∧ t.rd F.CFG_PASSED CFG = (l.passed + 1) % 256))
         ∧ (∀ l, s.cfg.load = some l →
             (l.dest = none → l.hdr ≠ StreamHeader.none_ → l.done = false → l.mine = true ∨ l.again = true ∨ (l.taken = true ∧ l.ended = false) → ∃ t, exec .streamEnd s = .next t ∧ t.cfg.load = none
                 ∧ t.rd F.CFG_CAUSE CFG = 3 ∧ t.rd F.CFG_LAST_STATUS CFG = 0x0A)
               ∧ (l.dest = none → l.hdr ≠ StreamHeader.none_ → l.done = false → l.mine = false → l.again = false → l.taken = false →
                 ∃ t, exec .streamEnd s = .next t ∧ t.cfg.load = none ∧ t.rd F.CFG_LAST_STATUS CFG = 0)
               ∧ (l.done = false → l.ended = false → ∃ t, exec .streamTimeout s = .next t ∧ t.cfg.load = none ∧ t.rd F.CFG_CAUSE CFG = 4
                 ∧ t.rd F.CFG_LAST_STATUS CFG = 0x0A)
               ∧ (∀ slot, l.dest = some slot → l.hdr ≠ StreamHeader.none_ → l.again = false → slot < 8 → ∃ t, exec .slotWriteDone s = .next t
                 ∧ t.cfg.load = none ∧ t.rd F.CFG_SSTATE CFG slot = 2 ∧ t.rd F.CFG_LAST_STATUS CFG = 0))
         ∧ ∀ hdr : StreamHeader, s.cfg.fallback = true → s.cfg.load = none →
             (s.rd F.CFG_SSTATE CFG (s.rd F.CFG_FB_SLOT CFG) = 2 → s.cfg.inForce.isSome = true → s.headerOk hdr false = true → ∃ t l, exec (.fallbackLoad hdr) s = .next t
                 ∧ t.cfg.load = some l ∧ l.fallback = true ∧ l.source = 2 ∧ l.slot = s.rd F.CFG_FB_SLOT CFG ∧ t.cfg.fallback = false
                 ∧ t.rd F.CFG_FALLBACK_USED CFG = 1)
               ∧ (s.rd F.CFG_SSTATE CFG (s.rd F.CFG_FB_SLOT CFG) ≠ 2 → ∃ t, exec (.fallbackLoad hdr) s = .next t ∧ t.cfg.load = none
                 ∧ t.cfg.fallback = false ∧ t.rd F.CFG_FALLBACK_USED CFG = 1))

/-- Scrubbing (R446 to R448): a clean frame changes no count; a corrected one is counted; one that its reference mends is counted; one that is lost marks
the damage, or makes its stored slot not VALID, and is reported; a disabled line waits for the frames of its drivers; the last frame of the last
position ends a pass; differences of the scrubbers and voted latches are counted. Settings (R450, R451, R454): a value is staged, clamped as its
fields are; a STORE begins, waits for another, or has nothing to do; its end makes every staged value the committed one; a compaction leaves one
record for each setting and one commit in the other half. The model's own choices that clauses rest on: assumption 41. -/
def Obligations.ScrubbingAndSettings : Prop :=
  (∀ (p : Pos) (upper : Bool) (frame : BitVec 11) (s : State), 8 ≤ s.rd F.ST_PHASE DEV → s.halted = false → s.hk.stop = 0 →
     let quiet := ∀ k, s.posPatch p.val = some k → (s.fabAt k).lines.all (fun b => !b.off) = true
     let lost := fun (t : State) => ∃ e, t.evq = s.evq ++ [e] ∧ e.code = 0x13 ∧ e.inst = p.val
     let inRange := frame.toNat < 1800
     (inRange → quiet → ∀ r, exec (.scrubFrameRead p upper .active frame .clean r) s = .next s)
       ∧ (inRange → ∀ k r, s.posPatch p.val = some k → ∃ t, exec (.scrubFrameRead p upper .active frame .clean r) s = .next t ∧ t.regs = s.regs
           ∧ (t.fabAt k).lines = (s.fabAt k).lines.map (fun b =>
               if b.off = true ∧ frame.toNat ∈ driverFrames (s.fabAt k).aCfg b.half b.line then { b with need := b.need.erase frame.toNat } else b))
       ∧ (inRange → ∀ r, ∃ t, exec (.scrubFrameRead p upper .active frame .corr r) s = .next t
           ∧ t.rd F.CFG_CORR CFG = min F.CFG_CORR.max (s.rd F.CFG_CORR CFG + 1))
       ∧ (inRange → quiet → ∃ t, exec (.scrubFrameRead p upper .active frame .uncorr .clean) s = .next t
           ∧ t.rd F.CFG_UNC CFG = min F.CFG_UNC.max (s.rd F.CFG_UNC CFG + 1) ∧ OnlyRegs [F.CFG_UNC.at CFG 0 0] s t)
       ∧ (inRange → ∃ t, exec (.scrubFrameRead p upper .active frame .uncorr .uncorr) s = .next t ∧ t.rd F.CFG_DAMAGED CFG = 1 ∧ lost t)
       ∧ (inRange → ∃ t, exec (.scrubFrameRead p upper .reference frame .uncorr .uncorr) s = .next t ∧ t.rd F.CFG_DAMAGED CFG = 1 ∧ lost t)
       ∧ (∀ (slot : Fin 6) (r : FrameCode) (k : Nat), inRange → s.posPatch p.val = some k → s.fromNvm k slot.val = false →
           ∃ t, exec (.scrubFrameRead p upper (.stored slot) frame .uncorr r) s = .next t ∧ t.rd F.DIR_VALID (PATCH p.val) slot.val = 0 ∧ lost t)
       ∧ (frame.toNat = 1799 → p.val = 17 → s.rd F.PLS_SHADOW_VALID (PATCH p.val) = 0 → ∀ a r, ∃ t, exec (.scrubFrameRead p upper .shadow frame a r) s = .next t
           ∧ t.rd F.CFG_PASSES CFG = (s.rd F.CFG_PASSES CFG + 1) % (F.CFG_PASSES.max + 1))
       ∧ (∃ t, exec (.scrubberCrosscheck true) s = .next t ∧ t.rd F.CFG_XFIX CFG = min F.CFG_XFIX.max (s.rd F.CFG_XFIX CFG + 1)
           ∧ OnlyRegs [F.CFG_XFIX.at CFG 0 0] s t)
       ∧ exec (.scrubberCrosscheck false) s = .next s
       ∧ ∃ t, exec .latchVoteFix s = .next t ∧ t.rd F.CFG_VOTE_FIX CFG = min F.CFG_VOTE_FIX.max (s.rd F.CFG_VOTE_FIX CFG + 1)
           ∧ OnlyRegs [F.CFG_VOTE_FIX.at CFG 0 0] s t)
  ∧ ((∀ (c : CmdRef) (d : DispCmd) (s : State), s.cmdOf c 0x31 .fresh = some d → bitAt (d.param 11 1) 1 = false →
         let n := min (d.param 8 2) 0x1FFF
         let len := min (d.param 10 1) 64
         (0 < len → len ≤ 48 → bitAt (d.param 11 1) 0 = false → (Tab.put s.cfg.staged n none).length ≤ 256 → ∃ t, exec (.setStage c) s = .next t
             ∧ Ends c .ok [] s t ∧ t.cfg.staged.get (fun _ => none) n = some (clampSetting n ((d.entry.drop 16).take len))
             ∧ t.cfg.settings = s.cfg.settings ∧ ∀ m, m ≠ n → t.cfg.staged.get (fun _ => none) m = s.cfg.staged.get (fun _ => none) m)
           ∧ (0 < len → 48 < len ∨ bitAt (d.param 11 1) 0 = true → ∃ t, exec (.setStage c) s = .next t ∧ Enters c .reading s t ∧ t = { s with host := t.host }))
       ∧ (∀ (c : CmdRef) (d : DispCmd) (s : State), s.cmdOf c 0x32 .fresh = some d →
           (s.rd F.CFG_COMPACTING CFG = 1 ∨ s.cfg.storing.isSome = true → ∃ t, exec (.store c) s = .next t ∧ Enters c .waiting s t
               ∧ t.cfg = { s.cfg with storeWait := s.cfg.storeWait ++ [c] })
             ∧ (s.rd F.CFG_COMPACTING CFG = 0 → s.cfg.storing = none → s.cfg.staged = [] → ∃ t, exec (.store c) s = .next t
               ∧ Ends c .ok [0, s.rd F.CFG_FILL_KIB CFG] s t ∧ t.cfg = s.cfg)
             ∧ (s.rd F.CFG_COMPACTING CFG = 0 → s.cfg.storing = none → s.cfg.staged ≠ [] → ∃ t, exec (.store c) s = .next t ∧ Enters c .running s t
               ∧ t.cfg = { s.cfg with storing := some (c, s.cfg.staged.length) }))
       ∧ (∀ (c : CmdRef) (n : Nat) (s : State), s.halted = false → s.cfg.storing = some (c, n) → ∃ t, exec .storeComplete s = .next t ∧ t.cfg.storing = none
           ∧ t.cfg.staged = [] ∧ t.cfg.settings = commitStaged s.cfg.staged s.cfg.settings ∧ t.cfg.fill = s.cfg.fill + s.cfg.staged.length + 1
           ∧ t.cmd c = none)
       ∧ ∀ s : State, s.halted = false → s.rd F.CFG_COMPACTING CFG = 1 → ∃ t, exec .compactionDone s = .next t ∧ t.cfg.fill = s.cfg.settings.length + 1
           ∧ t.cfg.settings = s.cfg.settings ∧ t.cfg.half = 1 - s.cfg.half ∧ t.cfg.gen = s.cfg.gen + 1 ∧ t.rd F.CFG_COMPACTING CFG = 0)

/-- Fuses (R431 to R433): a design key is burned once, in its life-cycle state and where its CRC matches, and becomes invalid where its verification
fails; a life-cycle state moves only forward, by the allowed transitions, from the next start. -/
def Obligations.FusesAndLifeCycle : Prop :=
  (∀ (c : CmdRef) (d : DispCmd) (s : State), s.cfg.burn = none → s.cmdOf c 0x33 .fresh = some d →
      let key := (d.entry.drop 8).take 32
      let may := s.rd F.LCS SEC = 2 ∧ s.rd F.DKEY_STATE SEC = 0 ∧ s.cfg.load = none ∧ crc32c key = d.param 40 4
      (may → ∃ t, exec (.designKey c) s = .next t ∧ Enters c .running s t ∧ t.cfg = { s.cfg with burn := some (.key c key) } ∧ t.regs = s.regs)
        ∧ (¬ may → ∃ t, exec (.designKey c) s = .next t ∧ Ends c .refused [] s t ∧ t = { s with host := t.host }))
    ∧ (∀ (c : CmdRef) (d : DispCmd) (s : State), s.cfg.burn = none → s.cmdOf c 0x34 .fresh = some d →
        let target := min (d.param 8 1) 5
        let may := lcsAllowed (s.rd F.LCS SEC) target (s.rd F.DKEY_STATE SEC) = true ∧ (s.rd F.PEND_LCS SEC = s.rd F.LCS SEC ∨ target = 5)
        (may → ∃ t, exec (.lcsAdvance c) s = .next t ∧ Enters c .running s t ∧ t.cfg = { s.cfg with burn := some (.state c target) } ∧ t.regs = s.regs)
          ∧ (¬ may → ∃ t, exec (.lcsAdvance c) s = .next t ∧ Ends c .refused [] s t ∧ t = { s with host := t.host }))
    ∧ (∀ (c : CmdRef) (key : List Byte) (s : State), s.cfg.burn = some (.key c key) →
        (∃ t, exec (.fuseBurnDone true) s = .next t ∧ Ends c .ok [] s t ∧ t.rd F.DKEY_STATE SEC = 1 ∧ t.cfg.fuses.dkey = 1 ∧ t.cfg.burn = none
            ∧ t.rd F.LCS SEC = s.rd F.LCS SEC)
          ∧ ∃ t, exec (.fuseBurnDone false) s = .next t ∧ Ends c .refused [] s t ∧ t.rd F.DKEY_STATE SEC = 2 ∧ t.cfg.fuses.dkey = 2 ∧ t.cfg.burn = none)
    ∧ (∀ (c : CmdRef) (target : Nat) (v : Bool) (s : State), s.cfg.burn = some (.state c target) → target ≤ 5 → ∃ t, exec (.fuseBurnDone v) s = .next t
        ∧ Ends c .ok [target] s t ∧ t.rd F.PEND_LCS SEC = target ∧ t.cfg.fuses.next = target ∧ t.cfg.fuses.lcs = s.cfg.fuses.lcs
        ∧ t.rd F.LCS SEC = s.rd F.LCS SEC)
    ∧ ∀ a b k, lcsAllowed a b k = true → a < b

/-! Handovers, rotation and self-test (R457 to R487, R17 to R29). -/

/-- Requests for a handover (R24 to R27, R459, R467, R470, R471): a request joins the queue behind those of its own and of higher priorities; a binding by
hand needs a spare position; a mismatch of a patch sequencer restores its registers, stops it and asks for a handover, whatever it was doing; one of
the head controller ends its work in the stitch and counts a retry, and is reported when it recurs within 1,024 stitches; a rotation step asks for the
next patch and the next ribbon; a first failing coupler of a group waits for its spare, a second exhausts the group, and what no spare mends is lost
and sent again. The model's own choices that clauses rest on: assumptions 3, 21, 104. -/
def Obligations.HandoverRequests : Prop :=
  (∀ (r : HoReq) (q : List HoReq), q.Pairwise (fun a b => a.cause ≤ b.cause) →
      (insertReq r q).Pairwise (fun a b => a.cause ≤ b.cause) ∧ (insertReq r q).Perm (r :: q)
        ∧ ∀ (x : HoReq) (a b : List HoReq), q = a ++ x :: b → x.cause ≤ r.cause → ∃ b', insertReq r q = a ++ x :: b')
    ∧ (∀ (c : CmdRef) (d : DispCmd) (s : State), s.cmdOf c 0x11 .fresh = some d →
        let p := min (d.param 8 1) 17
        (s.rd F.POS_STATE DEV p = 1 → ∃ t, exec (.bindPatch c) s = .next t ∧ Enters c .running s t
            ∧ t.res = { s.res with queue := insertReq ⟨d.target % 16, 4, some p, some c, false⟩ s.res.queue }
            ∧ t.rd F.RES_QUEUED RES = min 15 (s.res.queue.length + 1) ∧ t = { s with regs := t.regs, host := t.host, res := t.res })
          ∧ (s.rd F.POS_STATE DEV p ≠ 1 → ∃ t, exec (.bindPatch c) s = .next t ∧ Ends c .refused [] s t ∧ t = { s with host := t.host }))
    ∧ (∀ (k : LPatch) (off : Nat) (s : State), s.stackOn = true →
        let runs := s.rd F.PSTATE (s.pb k.val) = 1 ∧ (s.procAt (16 + k.val)).frozen = false ∧ (s.procAt (16 + k.val)).stalled = false
        let y := Tab.get (fun _ => s.procAt (16 + k.val)) s.snaps (16 + k.val)
        (∀ q ∈ s.res.queue, ¬ (q.k = k.val ∧ q.cause = 0)) → (∀ q, s.res.cur = some q → ¬ (q.k = k.val ∧ q.cause = 0)) →
        ∃ t x, exec (.lockstepMismatch k off) s = .next t ∧ t.procAt (16 + k.val) = x ∧ x.active = false ∧ x.stalled = true ∧ x.wait = none
          ∧ x.g = y.g ∧ x.a = y.a ∧ x.o = y.o ∧ x.p = y.p ∧ x.dmem = (s.procAt (16 + k.val)).dmem
          ∧ t.res.queue = insertReq ⟨k.val, 0, none, none, false⟩ s.res.queue ∧ t.res.misses.get (fun _ => 0) k.val = s.stitch
          ∧ (runs → t.rd F.ABANDON (s.pb k.val) = min F.ABANDON.max (s.rd F.ABANDON (s.pb k.val) + 1))
          ∧ (¬ runs → t.rd F.ABANDON (s.pb k.val) = s.rd F.ABANDON (s.pb k.val))
          ∧ (∀ key, key ≠ 16 + k.val → t.procAt key = s.procAt key) ∧ t.banks = s.banks ∧ t.bolts = s.bolts)
    ∧ (∀ (off : Nat) (s : State), s.up = true →
        let again := ∃ e, s.res.misses.find? (fun e => e.1 == 16) = some e ∧ (s.stitch - e.2).toNat ≤ 1024
        ∃ t, exec (.hcLockstepMismatch off) s = .next t ∧ (t.procAt 0).active = false
          ∧ t.rd F.RES_HC_RETRY RES = min F.RES_HC_RETRY.max (s.rd F.RES_HC_RETRY RES + 1) ∧ t.res.misses.get (fun _ => 0) 16 = s.stitch
          ∧ (∀ key, key ≠ 0 → t.procAt key = s.procAt key) ∧ (¬ again → t.evq = s.evq) ∧ (again → ∃ e, t.evq = s.evq ++ [e] ∧ e.code = 0x12))
    ∧ (∀ (off : Nat) (s : State), s.rd F.RES_ROT_EN RES = 1 → s.rd F.LCS SEC ∈ [1, 3, 4] → s.testOk = true → s.cfg.released = true →
        s.res.rotFrom + 3200000000 * s.rd F.RES_ROT_PERIOD RES ≤ s.time.run + s.clampOff off →
        let k := s.rd F.RES_ROT_NEXT RES
        let r := s.rd F.RES_ROT_RIB RES
        ∃ t, exec (.rotationStep off) s = .next t ∧ t.rd F.RES_ROT_NEXT RES = (k + 1) % 16 ∧ t.rd F.RES_ROT_RIB RES = (r + 1) % 32
          ∧ t.res.queue = insertReq ⟨k, 3, none, none, false⟩ s.res.queue ∧ (t.ribAt r).moveReq = true ∧ t.res.rotFrom = s.time.run + s.clampOff off
          ∧ t = { s with regs := t.regs, res := t.res, ribs := t.ribs, off := t.off, clk := t.clk })
    ∧ ∀ (id : CouplerId) (flight : Flight) (off : Nat) (s : State),
        let b := id.b.val
        let g := id.group.toNat
        let c := id.coupler.val
        let x := s.groupAt b g
        let now := fun (t : State) => t.groupAt b g
        hasCoupler b g c = true → s.rd F.BND_TRAINED DEV b = 1 → s.halted = false → c ∉ x.failed → s.carries b g flight = true →
          ∃ t, exec (.couplerFault id.b id.group id.coupler ⟨flight, off⟩) s = .next t ∧ t.evq.take s.evq.length = s.evq
          ∧ (∃ e, t.evq[s.evq.length]? = some e ∧ e.code = 0x01 ∧ e.inst = b)
          ∧ (now t).failed = x.failed ++ [c]
          ∧ (c ≠ 17 → x.failed = [] → x.spareFree = true → (now t).toSteer = some c ∧ (now t).exhausted = x.exhausted ∧ t.regs = s.regs)
          ∧ (x.toSteer = none → x.steered ≠ none → x.exhausted = false → (now t).exhausted = true
              ∧ t.rd F.BND_EXH DEV b = min F.BND_EXH.max (s.rd F.BND_EXH DEV b + 1))
          ∧ ((now t).whole = true → t.rd F.BND_FAULT DEV b = s.rd F.BND_FAULT DEV b ∧ t.stack.resend = s.stack.resend)
          ∧ ((now t).whole = false → t.rd F.BND_FAULT DEV b = 1
              ∧ ∀ cmd, flight = .control cmd → (∀ w ∈ s.stack.resend, ¬ (w.group = 4096 * b + g ∧ w.c = cmd)) →
                t.stack.resend = s.stack.resend ++ [⟨4096 * b + g, cmd, false⟩])

/-- The phases of a handover (R460 to R466, R471): the preparation ends and the freeze follows at the next boundary; after the transfer the switches name
the target, which holds what the old position held, while that one goes to its test; the drain ends when the backlog is gone, and at the boundary
behind it (`State.endDrain`) the patch is out of the handover, what waited for it takes effect, and the host and the sequencer are told; a rotation
that finds no quiet window is given up. The model's own choices that clauses rest on: assumptions 3, 25, 41, 104. -/
def Obligations.HandoverPhases : Prop :=
  ∀ (off : Nat) (s : State) (r : HoReq), s.halted = false → s.res.cur = some r → r.k < 16 →
    let from_ := s.rd F.RES_FROM RES
    let to_ := s.rd F.RES_TO RES
    (s.rd F.RES_PHASE RES = 1 → 8 + 4 * s.res.prepLeft ≤ s.clampOff off → s.res.prepared = false →
        (∃ t, exec (.preparationEnd ⟨off, []⟩) s = .next t ∧ t = { s.tick off with res := t.res, banks := t.banks }
          ∧ t.res = { s.res with prepared := true, rotWait := if r.cause = 3 then some (s.tick off).rootNow else none }
          ∧ ∀ p b w, t.bankWord p b w = s.bankWord p b w ∧ t.bankPoison p b w = s.bankPoison p b w)
        ∧ ∀ seen, ∃ t, exec (.preparationEnd ⟨off, seen⟩) s = .next t ∧ t.res.prepared = true)
      ∧ (s.rd F.RES_PHASE RES = 2 → s.res.moveLeft = 0 → s.res.held = [] → s.res.lines = [] →
          (∀ b, b < 8 → (s.bankAt from_ b).copy = []) → from_ < 18 → to_ < 18 → from_ ≠ to_ →
          ∃ t, exec (.rebind off) s = .next t ∧ t.ppos r.k = to_ ∧ t.rd F.POS_STATE DEV to_ = 0 ∧ t.rd F.POS_STATE DEV from_ = 3
            ∧ t.rd F.RES_PHASE RES = 3 ∧ (t.procAt (16 + r.k)).frozen = false ∧ t.res.drain = 0
            ∧ (∀ b, b < 8 → (∀ w, t.bankWord to_ b w = s.bankWord from_ b w ∧ t.bankPoison to_ b w = s.bankPoison from_ b w)
                ∧ (t.bankAt to_ b).owner = (s.bankAt from_ b).owner ∧ (t.bankAt to_ b).rows = (s.bankAt to_ b).rows)
            ∧ (∀ p b, p ≠ to_ → b < 8 → p < 18 → t.bankAt p b = s.bankAt p b) ∧ t.bolts = s.bolts
            ∧ t.res.bists.any (fun b => match b.u with | .pos q => q.val == from_ | _ => false) = true)
      ∧ (s.rd F.RES_PHASE RES = 3 → s.res.drained = false → s.backlogGone r.k (s.clampOff off) = true →
          exec (.drainComplete off) s = .next { s.tick off with res := { s.res with drained := true } })
      ∧ (s.res.drained = true → r.test = false → s.res.images = [] → s.cfg.heldWrites = [] → (∀ d ∈ s.host.cmds, d.phase ≠ .held) →
          let t := s.endDrain
          t.rd F.LPM_HOVER DEV r.k = 0 ∧ t.rd F.RES_PHASE RES = 0 ∧ t.res.cur = none
            ∧ t.rd F.RES_LAST_FIRST RES = s.res.first.toNat % 2 ^ 32 ∧ t.rd F.RES_LAST_H RES = min s.res.h 63
            ∧ t.rd F.RES_HANDOVERS RES = (s.rd F.RES_HANDOVERS RES + 1) % 65536
            ∧ (∃ e, t.evq = s.evq ++ [e] ∧ e.code = 0x05 ∧ e.inst = r.k)
            ∧ (bitAt (s.rd F.EVT_EN (s.pb r.k)) 7 = true → bitAt (t.rd F.EVT_PEND (s.pb r.k)) 7 = true)
            ∧ (∀ c, r.c = some c → Ends c .ok [] s t) ∧ (r.c = none → t.host.done = s.host.done)
            ∧ t.stack.heldBinds = s.stack.heldBinds.filter (fun b => b.k != r.k)
            ∧ (s.stack.binds = [] → s.stack.heldBinds = [] → t.stack.binds = [])
            ∧ (t.fabAt r.k).reqs = (s.fabAt r.k).reqs ++ (s.fabAt r.k).heldReqs ∧ t.banks = s.banks ∧ t.bolts = s.bolts)
      ∧ ∀ w, s.res.rotWait = some w → w + 3200000000 * s.rd F.RES_ROT_WAIT RES ≤ s.time.run + s.clampOff off → r.cause = 3 → r.c = none → to_ < 18 →
          ∃ t, exec (.rotWaitExpiry off) s = .next t ∧ t.res.cur = none ∧ t.res.rotWait = none ∧ t.rd F.RES_PHASE RES = 0
            ∧ t.rd F.POS_STATE DEV to_ = 1 ∧ t.rd F.RES_ROT_SKIPPED RES = min F.RES_ROT_SKIPPED.max (s.rd F.RES_ROT_SKIPPED RES + 1)
            ∧ t = { s with regs := t.regs, res := t.res, off := t.off }

/-- SELFTEST commands (R472, R474, R477, R478, R481, R483): RESULTS answers what the last test left; a test is refused where its life-cycle state forbids
it and answers ST_CONDITIONS, which comes first, where its conditions do not hold; a position that serves no patch is tested at once; a test that
disturbs a patch first asks for a handover, waits for a quiet window without a spare, or with FORCE takes the patch; a march that preserves starts its
parts at once. The ends of tests (R469, R472 to R474, R476, R480, R486, R487): a BIST shows its status, count and signature; a position that passed
becomes SPARE, one that failed RETIRED, and one cut short is tested again; a march shows its result, leaves a unit that it did not preserve at 0, and
answers its command with its last part; a request held at start-up is served after 4,096 stitches. The model's own choices that clauses rest on:
assumptions 48, 104. -/
def Obligations.SelfTests : Prop :=
  (∀ (c : CmdRef) (d : DispCmd) (s : State),
     let k := d.target % 16
     let p := min (d.param 9 1) 17
     let spare := ∃ q, q < 18 ∧ s.rd F.POS_STATE DEV q = 1
     let l := s.rd F.LCS SEC
     let refused := fun (i : Instr) => ∃ t, exec i s = .next t ∧ Ends c .refused [] s t ∧ t = { s with host := t.host }
     let failed := fun (i : Instr) => ∃ t, exec i s = .next t ∧ Ends c .conditions [] s t ∧ t = { s with host := t.host }
     let handed := fun (k : Nat) (t : State) => Enters c .waiting s t ∧ t.res.queue = insertReq ⟨k, 4, none, some c, true⟩ s.res.queue ∧ t.fabs = s.fabs
         ∧ t.res.marches = s.res.marches
     let waits := fun (k : Nat) (t : State) => Enters c .waiting s t ∧ t.res.waits = s.res.waits ++ [⟨c, k⟩] ∧ t.res.queue = s.res.queue ∧ t.fabs = s.fabs
         ∧ t.regs = s.regs
     (s.selfTest c 0 = some d →
         (l ∉ [1, 3, 4] → refused (.results c))
           ∧ (l ∈ [1, 3, 4] → d.tkind ≠ 1 → ∃ t, exec (.results c) s = .next t ∧ t = { s with host := t.host }
             ∧ Ends c (Status.ofCode (s.rd F.BIST_STATUS RES p))
               [s.rd F.BIST_APPLIED RES p, 0, 0, 0, 0, s.rd F.BIST_SIG_LO RES p, s.rd F.BIST_SIG_HI RES p] s t)
           ∧ (l ∈ [1, 3, 4] → d.tkind = 1 → s.rsp (d.target % 32) < 32 → ∃ t, exec (.results c) s = .next t ∧ t = { s with host := t.host }
             ∧ Ends c .ok [0, 0, 0, 0, 0, 0, 0] s t)
           ∧ (l ∈ [1, 3, 4] → d.tkind = 1 → 32 ≤ s.rsp (d.target % 32) → let q := s.rsp (d.target % 32) - 32
             ∃ t, exec (.results c) s = .next t ∧ t = { s with host := t.host }
             ∧ Ends c (Status.ofCode (s.rd F.RBIST_STATUS RES q)) [s.rd F.RBIST_APPLIED RES q, 0, 0, 0, 0, s.rd F.RBIST_SIG_LO RES q, s.rd F.RBIST_SIG_HI RES q] s t))
       ∧ (s.selfTest c 1 = some d →
           (s.testOk = false → failed (.logicBist c)) ∧ (s.testOk = true → s.testFree = false → refused (.logicBist c))
             ∧ (s.testFree = true → s.testOk = true → d.tkind ≠ 1 →
                 (s.rd F.POS_STATE DEV p = 2 → exec (.logicBist c) s = .next s)
                   ∧ (s.rd F.POS_STATE DEV p ∈ [1, 3, 4] → (∀ b ∈ s.res.bists, ∀ q, b.u = .pos q → q.val ≠ p) →
                     ∃ t, exec (.logicBist c) s = .next t ∧ Enters c .running s t ∧ t.rd F.POS_STATE DEV p = (if s.rd F.POS_STATE DEV p = 4 then 4 else 3)
                       ∧ t.res = { s.res with bists := ⟨.pos (Fin.ofNat 18 p), some c, bistCount (d.param 12 1), true⟩ :: s.res.bists }
                       ∧ t = { s with regs := t.regs, host := t.host, res := t.res, clk := t.clk })
                   ∧ (s.rd F.POS_STATE DEV p = 0 → let k := s.rd F.POS_LPATCH DEV p
                       (spare → ∃ t, exec (.logicBist c) s = .next t ∧ handed k t
                           ∧ t.res.bists = s.res.bists ++ [⟨.pos (Fin.ofNat 18 p), some c, bistCount (d.param 12 1), false⟩])
                         ∧ (¬ spare → d.force = false → ∃ t, exec (.logicBist c) s = .next t ∧ waits k t)
                         ∧ (¬ spare → d.force = true → ∃ t, exec (.logicBist c) s = .next t ∧ Enters c .running s t
                           ∧ (t.fabAt k).released = false ∧ k ∈ t.res.testing
                           ∧ t.res.bists = ⟨.pos (Fin.ofNat 18 p), some c, bistCount (d.param 12 1), true⟩ :: s.res.bists)))
             ∧ (s.testFree = true → s.testOk = true → d.tkind = 1 →
                 (s.spareRsps = [] → refused (.logicBist c))
                   ∧ (s.spareRsps ≠ [] → ∃ t, exec (.logicBist c) s = .next t ∧ Enters c .running s t ∧ (t.ribAt (d.target % 32)).moveReq = true
                     ∧ t.res.bists = s.res.bists ++ [⟨.rsp (Fin.ofNat 34 (s.rsp (d.target % 32))), some c, bistCount (d.param 12 1), false⟩])))
       ∧ (s.selfTest c 2 = some d →
           (s.testOk = false → failed (.marchPreserve c)) ∧ (s.testOk = true → l ∉ [1, 3, 4] → refused (.marchPreserve c))
             ∧ (l ∈ [1, 3, 4] → s.testOk = true → d.marchBanks ≠ [] → bitAt (d.param 11 1) 0 = false →
                 ∃ t, exec (.marchPreserve c) s = .next t ∧ Enters c .running s t ∧ t.regs = s.regs ∧ t.banks = s.banks
                   ∧ t.res.marches = s.res.marches ++ d.marchBanks.map (fun b => ⟨c, k, s.ppos k, some b, true⟩)))
       ∧ ∀ kind, kind = 3 ∨ kind = 4 → s.selfTest c kind = some d →
           let i := if kind = 3 then Instr.marchDestruct c else .boltOnly c
           (s.testOk = false → failed i) ∧ (s.testOk = true → s.testFree = false → refused i)
             ∧ (s.testFree = true → s.testOk = true → (spare → ∃ t, exec i s = .next t ∧ handed k t)
               ∧ (¬ spare → d.force = false → ∃ t, exec i s = .next t ∧ waits k t)
               ∧ (¬ spare → d.force = true → kind = 4 → ∃ t, exec i s = .next t ∧ Enters c .running s t ∧ (t.fabAt k).released = false ∧ k ∈ t.res.testing
                 ∧ t.res.marches = s.res.marches ++ [⟨c, k, s.ppos k, none, false⟩])
               ∧ (¬ spare → d.force = true → kind = 3 → d.marchBanks ≠ [] → ∃ t, exec i s = .next t ∧ Enters c .running s t
                 ∧ (t.fabAt k).released = false ∧ k ∈ t.res.testing
                 ∧ t.res.marches = s.res.marches ++ (d.marchBanks.map (fun b => (⟨c, k, s.ppos k, some b, false⟩ : MarchRun))
                     ++ if bitAt (d.param 11 1) 0 then [⟨c, k, s.ppos k, none, false⟩] else []))))
  ∧ ((∀ (p : Pos) (applied : W32) (sig : W64) (ok : Bool) (b : BistRun) (s : State), s.halted = false →
         s.res.bists.find? (fun b => b.u == .pos p && b.on) = some b → s.rd F.POS_STATE DEV p.val = 3 →
         let whole := decide (b.need ≤ applied.toNat)
         ∃ t, exec (.bistDone (.pos p) applied sig ok) s = .next t
           ∧ t.rd F.BIST_STATUS RES p.val = (if !whole then 6 else if ok then 0 else 3) ∧ t.rd F.BIST_PASS RES p.val = bit (whole && ok)
           ∧ t.rd F.BIST_RUNS RES p.val = (s.rd F.BIST_RUNS RES p.val + 1) % 65536 ∧ t.rd F.BIST_APPLIED RES p.val = applied.toNat
           ∧ t.rd F.BIST_SIG_LO RES p.val = sig.toNat % 2 ^ 32 ∧ t.rd F.BIST_SIG_HI RES p.val = sig.toNat / 2 ^ 32
           ∧ ((∀ x ∈ s.res.bists.erase b, x.u ≠ .pos p) → t.rd F.POS_STATE DEV p.val = (if !whole then 3 else if ok then 1 else 4)
             ∧ (whole = true → t.res.bists = s.res.bists.erase b)
             ∧ (whole = false → t.res.bists = s.res.bists.erase b ++ [⟨.pos p, none, bistCount (s.rd F.RES_LOG2P RES), false⟩]))
           ∧ ((∃ x ∈ s.res.bists.erase b, x.u = .pos p) → whole = true → ok = true → t.rd F.POS_STATE DEV p.val = 3 ∧ t.res.bists = s.res.bists.erase b)
           ∧ (whole = true → ok = false → ∃ e, t.evq = s.evq ++ [e] ∧ e.code = 0x08 ∧ e.inst = p.val)
           ∧ (∀ c, b.c = some c → (∀ x ∈ s.res.tests, x.c ≠ c) → Ends c (if !whole then .incomplete else if ok then .ok else .refused)
               [applied.toNat, if whole && !ok then p.val else 0, 0, 0, 0, sig.toNat % 2 ^ 32, sig.toNat / 2 ^ 32] s t)
           ∧ t.banks = s.banks ∧ t.bolts = s.bolts)
       ∧ (∀ (q : Fin 34) (applied : W32) (sig : W64) (ok : Bool) (b : BistRun) (s : State), s.halted = false → 32 ≤ q.val →
           s.res.bists.find? (fun b => b.u == .rsp q && b.on) = some b → b.need ≤ applied.toNat →
           ∃ t, exec (.bistDone (.rsp q) applied sig ok) s = .next t ∧ t.rd F.RBIST_STATUS RES (q.val - 32) = (if ok then 0 else 3)
             ∧ t.rd F.RBIST_PASS RES (q.val - 32) = bit ok ∧ t.rd F.RBIST_APPLIED RES (q.val - 32) = applied.toNat
             ∧ t.rd F.RSPH_RETIRED (RIBBON q.val) = (if ok then s.rd F.RSPH_RETIRED (RIBBON q.val) else 1))
       ∧ (∀ (k : LPatch) (r : MarchResult) (m : MarchRun) (s : State), s.halted = false →
           s.res.marches.find? (fun m => m.k == k.val && m.bank == if r.bolt then none else some r.bank.val) = some m → k.val ∉ s.res.testing →
           ∃ t, exec (.marchDone k r) s = .next t ∧ t.rd F.MARCH_UNIT RES = bit r.bolt ∧ t.rd F.MARCH_BANK RES = r.bank.val
             ∧ t.rd F.MARCH_LPATCH RES = k.val ∧ t.rd F.MARCH_FAILED RES = bit r.failed ∧ t.rd F.MARCH_FAIL_ADDR RES = r.addr.toNat
             ∧ t.rd F.MARCH_FAIL_BIT RES = r.bitPos.toNat ∧ t.rd F.MARCH_ROWS_USED RES = r.rowsUsed.toNat
             ∧ t.rd F.MARCH_COLS_USED RES = r.colsUsed.toNat ∧ t.res.marches = s.res.marches.erase m
             ∧ (m.preserve = true → r.seen = [] → (∀ p b w, t.bankWord p b w = s.bankWord p b w ∧ t.bankPoison p b w = s.bankPoison p b w)
                 ∧ (∀ j a, t.boltByte j a = s.boltByte j a)
                 ∧ (r.bolt = false → (t.bankAt m.pos r.bank.val).rows.used = (s.bankAt m.pos r.bank.val).rows.used + r.rowsUsed.toNat)
                 ∧ (r.bolt = true → (t.boltAt k.val).rows.used = (s.boltAt k.val).rows.used + r.rowsUsed.toNat))
             ∧ (m.preserve = false → r.bolt = false → t.bolts = s.bolts ∧ ∀ p b w, p < 18 → b < 8 →
                 t.bankWord p b w = if 8 * p + b = 8 * m.pos + r.bank.val then 0 else s.bankWord p b w)
             ∧ (m.preserve = false → r.bolt = true → t.banks = s.banks ∧ ∀ j a, t.boltByte j a = if j = k.val then 0 else s.boltByte j a)
             ∧ (r.unrepaired = true → m.preserve = false ∨ r.seen = [] → ∃ e, t.evq = s.evq ++ [e] ∧ e.code = 0x12)
             ∧ ((∃ x ∈ s.res.marches.erase m, x.c = m.c) → t.host = s.host)
             ∧ ∀ x, s.res.tests = [x] → x.c = m.c → x.words = [0, 0, 0, 0, 0, 0, 0] → (∀ y ∈ s.res.marches.erase m, y.c ≠ m.c) →
                 Ends m.c x.status [r.rowsTested.toNat, if r.failed then r.addr.toNat else 0, if r.failed then r.bitPos.toNat else 0,
                   r.rowsUsed.toNat + 65536 * r.colsUsed.toNat, 0, 0, 0] s t)
       ∧ ∀ (c : CmdRef) (d : DispCmd) (s : State), s.halted = false → s.cmd c = some d → d.phase = .held → d.noSpare = true → 4096 ≤ (s.stitch - d.at_).toNat →
           s.rd F.ST_PHASE DEV = 7 → ∃ t, exec (.heldRequestTimeout c) s = .next t ∧ Enters c .fresh s t ∧ t = { s with host := t.host })

/-! Clocks, power and heat (R488 to R514). -/

/-- The reference clock (R488 to R493, R497, R515): each window is BAD, GOOD or counted as drift by its distance from the expected count; the sixteenth
GOOD window in a row makes REFCLK stable; a BAD one of a locked device on REFCLK switches to a fallback source and reports it; with the slew over, the
device is locked again; a start whose REFCLK stays away runs on the internal oscillator; the root PLL's lock lets the enabled seams train. -/
def Obligations.ReferenceClock : Prop :=
  ∀ (off : Nat) (s : State), s.start.vhk = true →
    let e := if s.rd F.CLK_STRAP CLK = 1 then 204800 else 131072
    let g := if s.rd F.CLK_STRAP CLK = 1 then 40 else 26
    let b := if s.rd F.CLK_STRAP CLK = 1 then 2048 else 1310
    let bad := fun (i : Instr) => ∃ t, exec i s = .next t ∧ t.rd F.CLK_STABLE CLK = 0 ∧ t.clk.good = 0 ∧ t.clk.back = false
      ∧ (s.clk.locked = false ∨ s.rd F.CLK_SOURCE CLK ≠ 0 → t.evq = s.evq ∧ t.rd F.CLK_SOURCE CLK = s.rd F.CLK_SOURCE CLK ∧ t.time = s.time)
      ∧ (s.up = true → s.rd F.CLK_SOURCE CLK = 0 →
          t.rd F.CLK_SOURCE CLK = (if s.follower = true ∧ (List.range 6).any (fun n => s.rd F.SEAM_ROLE (SEAM n) == 1 && s.seamUp n) = true then 2 else 1)
          ∧ t.rd F.CLK_SLEWING CLK = 1 ∧ t.rd F.CLK_LOCKED CLK = 0 ∧ t.rd F.SYNC_LOCKED CLK = 0 ∧ t.time.degraded = true ∧ t.time.degClear = false
          ∧ t.clk.locked = true ∧ ∃ ev, t.evq = s.evq ++ [ev] ∧ ev.code = 0x20 ∧ ev.ts.deg = true)
    (∀ count : BitVec 18,
        let c := count.toNat
        let d := max (c - e) (e - c)
        (c = 0 ∨ b < d → bad (.refclkWindow count off) ∧ ∃ t, exec (.refclkWindow count off) s = .next t ∧ t.rd F.CLK_LAST_COUNT CLK = c)
          ∧ (d ≤ g → ∃ t, exec (.refclkWindow count off) s = .next t ∧ t.rd F.CLK_LAST_COUNT CLK = c ∧ t.clk.good = min 16 (s.clk.good + 1)
            ∧ (s.clk.good < 15 → t.rd F.CLK_STABLE CLK = s.rd F.CLK_STABLE CLK) ∧ (15 ≤ s.clk.good → t.rd F.CLK_STABLE CLK = 1)
            ∧ (15 ≤ s.clk.good → s.clk.locked = true → s.rd F.CLK_SOURCE CLK ≠ 0 → t.clk.back = true) ∧ t.evq = s.evq ∧ t.time = s.time
            ∧ (s.rd F.ST_PHASE DEV = 3 → t.rd F.ST_PHASE DEV = if 15 ≤ s.clk.good ∧ s.start.vin = true ∧ s.clk.locked = false then 4 else 3))
          ∧ (g < d → d ≤ b → c ≠ 0 → ∃ t, exec (.refclkWindow count off) s = .next t ∧ t.rd F.CLK_LAST_COUNT CLK = c
            ∧ t.rd F.CLK_DRIFT_WIN CLK = min F.CLK_DRIFT_WIN.max (s.rd F.CLK_DRIFT_WIN CLK + 1)
            ∧ t.rd F.CLK_STABLE CLK = s.rd F.CLK_STABLE CLK ∧ t.clk.good = (if s.rd F.CLK_STABLE CLK = 1 then s.clk.good else 0))
          ∧ (e + b < c → bad (.refclkOvercount count off)))
      ∧ bad (.refclkMissing off)
      ∧ (s.clk.locked = true → s.rd F.CLK_SOURCE CLK = 0 → s.rd F.CLK_SLEWING CLK = 1 → ∃ t, exec (.clockRestored off) s = .next t
          ∧ t.rd F.CLK_SLEWING CLK = 0 ∧ t.rd F.CLK_LOCKED CLK = 1 ∧ t.rd F.CLK_LOSSES CLK = min F.CLK_LOSSES.max (s.rd F.CLK_LOSSES CLK + 1)
          ∧ (s.halted = false → ∃ ev, t.evq = s.evq ++ [ev] ∧ ev.code = 0x21) ∧ (s.halted = true → t.evq = s.evq) ∧ t.time = { s.time with degClear := true } ∧ t.clk = s.clk)
      ∧ (∀ root : Bool, ∃ t, exec (.forcedSwitch root) s = .next t ∧ t.rd F.CLK_FORCED_SW CLK = min F.CLK_FORCED_SW.max (s.rd F.CLK_FORCED_SW CLK + 1)
          ∧ t.rd F.CLK_STOPPED_REF CLK = (if root then 1 else s.rd F.CLK_STOPPED_REF CLK)
          ∧ OnlyRegs [F.CLK_FORCED_SW.at CLK 0 0, F.CLK_STOPPED_REF.at CLK 0 0] s t)
      ∧ (s.start.vin = true → s.clk.locked = false → s.rd F.CLK_STABLE CLK = 0 → s.start.resetLow = false → s.rd F.ST_PHASE DEV = 3 →
          ∃ t, exec .intoscStart s = .next t ∧ t.rd F.ST_INTOSC_START DEV = 1 ∧ t.rd F.CLK_SOURCE CLK = 1 ∧ t.rd F.ST_PHASE DEV = 4
            ∧ t.time.degraded = true ∧ t.hk.reportClk.isSome = true ∧ t.rd F.CLK_STABLE CLK = 0)
      ∧ (s.start.vin = true → s.clk.locked = false → s.start.resetLow = false → s.start.failed = false → s.rd F.ST_PHASE DEV = 4 →
          ∃ t, exec .rootPllLock s = .next t ∧ t.clk = { s.clk with locked := true } ∧ t.rd F.CLK_LOCKED CLK = 1 ∧ t.time.counting = false ∧ t.off = 0
            ∧ ∀ n, n < 6 → t.rd F.SEAM_LSTATE (SEAM n) = if s.rd F.SEAM_EN (SEAM n) = 1 then 1 else s.rd F.SEAM_LSTATE (SEAM n))

/-- Clock gates and reference outputs (R498 to R505, R353): an open request waits for the boundary, and withdraws a held close of its gate; a close is
refused for a gate that may not close, has an open child, or clocks something in service; it is held while a transaction is under way, and goes on
when that has ended; gates that no tree has answer at once; a DRAM layer that has been rewritten loses its lines' contents. A reference output's word
acts at once without modulation, and at the next period with it. The model's own choices that clauses rest on: assumptions 22, 23, 105. -/
def Obligations.ClockGates : Prop :=
  ∀ s : State, s.up = true →
    let st := F.GATE_STATUS.at CLK 0 0
    (∀ gate : BitVec 7, 115 ≤ gate.toNat → ∀ i ∈ [Instr.gateOpen gate, .gateClose gate], ∃ t, exec i s = .next t ∧ t.rd F.GATE_STATUS CLK = 0
        ∧ t.rd F.GATE_HELD_GATE CLK = s.rd F.GATE_HELD_GATE CLK ∧ OnlyRegs [st] s t)
      ∧ (∀ gate : BitVec 7, gate.toNat < 115 →
          let g := gate.toNat
          let may := ¬ (g = 0 ∨ g = 1) ∧ ¬ (9 ≤ g ∧ g ≤ 56 ∧ domainFixed (g - 9) = true) ∧ (∀ x ∈ gateChildren g, s.gateIsOpen x = false)
            ∧ s.gateInService g = false
          (∃ t, exec (.gateOpen gate) s = .next t ∧ t.clk.gates = s.clk.gates.filter (fun q => q.1 != g) ++ [(g, false)]
              ∧ t.clk.heldClose = s.clk.heldClose.erase g ∧ t.rd F.GATE_HELD_GATE CLK = t.clk.heldClose.getLast?.getD 127 % 128
              ∧ t.rd F.GATE_STATUS CLK = (if g ∈ s.clk.heldClose ∨ s.gateIsOpen g = true then 0 else 1)
              ∧ t = { s with regs := t.regs, clk := { s.clk with gates := t.clk.gates, heldClose := t.clk.heldClose } })
            ∧ (¬ may → ∃ t, exec (.gateClose gate) s = .next t ∧ t.rd F.GATE_STATUS CLK = 3 ∧ OnlyRegs [st] s t)
            ∧ (may → s.gateBusy g = false → ∃ t, exec (.gateClose gate) s = .next t ∧ t.rd F.GATE_STATUS CLK = 1
              ∧ t.clk.gates = s.clk.gates.filter (fun q => q.1 != g) ++ [(g, true)] ∧ t.clk.heldClose = s.clk.heldClose)
            ∧ (may → s.gateBusy g = true → ∃ t, exec (.gateClose gate) s = .next t ∧ t.rd F.GATE_STATUS CLK = 1 ∧ t.rd F.GATE_HELD_GATE CLK = g
              ∧ t.clk.heldClose = s.clk.heldClose.erase g ++ [g] ∧ t.clk.gates = s.clk.gates.filter (fun q => q.1 != g)))
      ∧ (∀ g, s.clk.heldClose.find? (fun x => !s.gateBusy x) = some g →
          ∃ t, exec .heldCloseDone s = .next t ∧ t.rd F.GATE_HELD_GATE CLK = t.clk.heldClose.getLast?.getD 127 % 128
          ∧ t.clk = { s.clk with heldClose := s.clk.heldClose.erase g, gates := s.clk.gates ++ [(g, true)] } ∧ t = { s with regs := t.regs, clk := t.clk })
      ∧ (∀ layer : Layer, layer.val ∈ s.clk.rewriting → layer.val < 8 → ∃ t, exec (.dramRewriteDone layer) s = .next t
          ∧ (∀ (k : LPatch) a, a / 64 % 4 + 4 = layer.val → t.boltByte k.val a = 0)
          ∧ (∀ (k : LPatch) a, a / 64 % 4 + 4 ≠ layer.val → t.boltByte k.val a = s.boltByte k.val a)
          ∧ t.gateIsOpen (49 + layer.val) = true ∧ layer.val ∉ t.clk.rewriting ∧ t = { s with regs := t.regs, bolts := t.bolts, clk := t.clk })
      ∧ ∀ (n : Fin 8) (word : Bool) (v : W32) (be : BitVec 4),
          let a := CLK + 0x200 + 8 * n.val + (if word then 4 else 0)
          ∃ t, exec (.refoutWrite n word v be) s = .next t
            ∧ (s.erd F.REFO_SSC CLK n.val = 0 → t.effReg a = (s.mergeWrite a v be.toNat).reg a ∧ t.clk = s.clk)
            ∧ (s.erd F.REFO_SSC CLK n.val ≠ 0 → t.eff = s.eff ∧ t.clk.refPend.get (fun _ => (0, 0)) a = ((s.mergeWrite a v be.toNat).reg a, s.rootNow))
            ∧ (∀ b, b ≠ CLK + 0x200 + 8 * n.val → b ≠ CLK + 0x204 + 8 * n.val → t.reg b = s.reg b)
            ∧ (word = false → t.reg a = (s.mergeWrite a v be.toNat).reg a)

/-- Power and heat (R507 to R513): the power shown is the mean of the last 1 ms; more than 165 W, the current limit, a comparator and 110 °C each stop the
stack: the layers above lose their contents, the seams go down and every command at work ends, as refused where it has earned no status before that; a
round shows each layer's readings and moves its band, up by its limits and down 2 °C below them. The model's own choices that clauses rest on:
assumptions 3, 19, 105. -/
def Obligations.PowerAndHeat : Prop :=
  ∀ (off : Nat) (s : State), s.start.vhk = true →
    let stops := fun (t : State) (cause layer : Nat) => t.hk.stop = cause ∧ t.rd F.HK_CAUSE HK = cause ∧ t.rd F.HK_LAYER HK = layer
      ∧ t.rd F.HK_STOPS HK = min F.HK_STOPS.max (s.rd F.HK_STOPS HK + 1) ∧ t.banks = [] ∧ t.bolts = [] ∧ t.host.cmds = []
      ∧ t.host.done = s.host.done ++ s.host.cmds.map (fun d => ⟨d.c, d.status.first .refused, []⟩) ∧ (∀ n, n < 6 → t.seamUp n = false)
      ∧ (∀ i, 6 ≤ i → i < 22 → t.keyCopy i = 0) ∧ t.cfg.released = false ∧ t.stitch = s.stitch ∧ t.cfg.settings = s.cfg.settings
      ∧ t.hk.stopAt = s.rootNow + t.off - s.off
    (∀ x : W16, s.start.vin = true →
        let xs := (x.toNat :: s.hk.samples).take 31
        (xs.sum ≤ 16500 * xs.length → ∃ t, exec (.powerSample x off) s = .next t ∧ t.rd F.HK_STACK_PWR HK = xs.sum / xs.length % 65536
            ∧ t.rd F.HK_PEAK_PWR HK = max (xs.sum / xs.length) (s.rd F.HK_PEAK_PWR HK) % 65536 ∧ t.hk = { s.hk with samples := xs }
            ∧ OnlyRegs [F.HK_STACK_PWR.at HK 0 0] { s.tick off with hk := t.hk } t)
          ∧ (16500 * xs.length < xs.sum → s.hk.stop = 0 →
            ∃ t, exec (.powerSample x off) s = .next t ∧ stops t 2 (s.rd F.HK_LAYER HK)))
      ∧ (s.start.vin = true → s.hk.stop = 0 → ∃ t, exec (.currentLimit off) s = .next t ∧ stops t 2 (s.rd F.HK_LAYER HK))
      ∧ (∀ layer : Layer, s.hk.stop = 0 → ∃ t, exec (.comparatorTrip layer off) s = .next t ∧ stops t 1 layer.val)
      ∧ ∀ (r : HeatRound) (slow : Bool),
          let fast := fun k => s.rd F.HK_FAST HK k = 1
          let sampled := fun k => slow = true ∨ fast k
          let eff := fun k => max (nthD 0 r.diode k * 50000) (inferred s r k)
          let old := fun k => s.hk.bands.get (fun _ => 0) k
          slow = true ∨ (∃ k, k < 8 ∧ fast k) → ∃ t, exec (if slow then .slowRound r off else .fastRound r off) s = .next t
            ∧ (∀ k, k < 8 → sampled k → t.rd F.HK_T_DIODE HK k = ofSigned 12 (nthD 0 r.diode k) ∧ t.rd F.HK_P_LAYER HK k = nthD 0 r.power k % 65536
                ∧ t.hk.bands.get (fun _ => 0) k = nextBand (old k) (eff k))
            ∧ (∀ k, k < 8 → ¬ sampled k → t.rd F.HK_T_DIODE HK k = s.rd F.HK_T_DIODE HK k ∧ t.hk.bands.get (fun _ => 0) k = old k)
            ∧ t.hk.vcore = (if slow then r.vcore else s.hk.vcore)
            ∧ ((∀ k, k < 8 → eff k < 440 * 50000) → t.hk.stop = s.hk.stop)
            ∧ (s.hk.stop = 0 → (∃ k, k < 8 ∧ sampled k ∧ 440 * 50000 ≤ eff k) → t.hk.stop = 1 ∧ t.rd F.HK_CAUSE HK = 1 ∧ t.banks = [] ∧ t.bolts = [])

/-! Start-up, resets, the jack, supplies and the test port (R42 to R45, R348, R353, R474, R515 to R535, R549 to R565). -/

/-- The first steps of a start (R42 to R45, R515, R517, R533): the housekeeping supply reads the straps, brings the committed fuses into effect and starts
a valid jack, the active one first; the stack supply counts a start; the key is drawn within three attempts, and copied to the seam engines; the
layers come up one by one, with L3 the copies of the bolt controllers; a failure ends the start with its cause, and the commands at work. The last
steps of a start (R28, R185, R348, R353, R354, R453, R474, R515, R551): training leaves each boundary its spare couplers, less one for each group with
a failure, and loads the committed settings; lanes and positions that fail their tests are taken out of service; a bolt whose checker fails goes to
its spare, and out of service with the next failure; every bolt then reads 0, held commands are taken up, and a valid slot 0 is loaded. The model's
own choices that clauses rest on: assumptions 21, 82, 106. -/
def Obligations.StartUp : Prop :=
  (∀ s : State,
     (∀ (straps : BitVec 8) (ok0 ok1 active : Bool), s.start.vhk = false →
         let boots := fun (j : Bool) => (if j then ok1 else ok0) = true ∧ bitAt straps.toNat 2 = false
         let image := fun (j : Bool) => initState (s.cfg.jackImgs.get (fun _ => []) (bit j))
         ∃ t, exec (.vhkGood straps ok0 ok1 active) s = .next t
           ∧ t.start = { s.start with vhk := true, straps := straps.toNat, jackSt := t.start.jackSt }
           ∧ t.rd F.ST_PHASE DEV = 3 ∧ t.rd F.CLK_STRAP CLK = straps.toNat % 2 ∧ t.rd F.JK_VALID0 JACK = bit ok0 ∧ t.rd F.JK_VALID1 JACK = bit ok1
           ∧ t.cfg.fuses = { s.cfg.fuses with lcs := s.cfg.fuses.next }
           ∧ (boots active → t.rd F.JK_ACTIVE JACK = bit active ∧ t.rd F.JK_BLANK JACK = 0 ∧ t.start.jackSt = image active)
           ∧ (¬ boots active → boots (!active) → t.rd F.JK_ACTIVE JACK = bit (!active) ∧ t.rd F.JK_BLANK JACK = 0
             ∧ t.start.jackSt = image (!active))
           ∧ (¬ boots active → ¬ boots (!active) → t.rd F.JK_ACTIVE JACK = bit active ∧ t.rd F.JK_BLANK JACK = 1
             ∧ t.start.jackSt = s.start.jackSt))
       ∧ (s.start.vhk = true → s.rd F.JK_BLANK JACK = 1 → s.start.jackA0 = false →
           exec .blankDrive s = .next { s with start := { s.start with jackA0 := true } })
       ∧ (s.start.vhk = true → s.start.vin = false → ∃ t, exec .vinStackGood s = .next t ∧ t.start = { s.start with vin := true, began := s.rootNow }
           ∧ t.rd F.ST_STARTS DEV = (s.rd F.ST_STARTS DEV + 1) % 65536 ∧ t.rd F.ST_LAST_START DEV = 0
           ∧ t.rd F.ST_PHASE DEV = (if s.rd F.CLK_STABLE CLK = 1 then 4 else 3) ∧ t = { s with regs := t.regs, start := t.start, host := t.host })
       ∧ (s.clk.locked = true → s.rd F.ST_PHASE DEV = 4 → s.rd F.KEY_STATE SEC = 0 → s.rd F.KEY_ATTEMPTS SEC ≤ 2 →
           let n := s.rd F.KEY_ATTEMPTS SEC + 1
           (∃ t, exec (.keyAttempt true) s = .next t ∧ t.rd F.KEY_ATTEMPTS SEC = n ∧ t.rd F.KEY_STATE SEC = 1
               ∧ (∀ i, i < 6 → t.keyCopy i = t.stack.keyStore) ∧ (∀ i, 6 ≤ i → t.keyCopy i = s.keyCopy i)
               ∧ (s.stack.keyCopies = [] → t.rd F.KEY_COPIES SEC = 6) ∧ t.rd F.ST_PHASE DEV = 5
               ∧ t.stack = { s.stack with keyStore := t.stack.keyStore, keyCopies := t.stack.keyCopies }
               ∧ OnlyRegs [SEC + 0x10, DEV + 0xC00] { s with stack := t.stack, fresh := t.fresh } t)
             ∧ ∃ t, exec (.keyAttempt false) s = .next t ∧ t.rd F.KEY_ATTEMPTS SEC = n ∧ t.rd F.ST_PHASE DEV = 4
               ∧ (n < 3 → t.rd F.KEY_STATE SEC = 0 ∧ t.start = s.start) ∧ (n = 3 → t.rd F.KEY_STATE SEC = 3 ∧ t.rd F.ST_FAIL DEV = 1 ∧ t.start.failed = true
                 ∧ t.stack = { s.stack with keyStop := true } ∧ t.host.cmds = []
                 ∧ t.host.done = s.host.done ++ s.host.cmds.map (fun d => ⟨d.c, .securityHalt, []⟩)))
       ∧ ∀ layer : Layer, s.stackOn = true → s.rd F.ST_PHASE DEV = 5 → s.start.failed = false → layer.val = s.start.layers + 1 →
           (∃ t, exec (.layerRaised layer) s = .next t ∧ t.start = { s.start with layers := layer.val }
               ∧ (layer.val = 3 → s.rd F.KEY_STATE SEC = 1 → (∀ i, 6 ≤ i → i < 22 → t.keyCopy i = s.stack.keyStore)
                 ∧ (∀ i, i < 6 ∨ 22 ≤ i → t.keyCopy i = s.keyCopy i) ∧ (s.stack.keyCopies.length = 6 → (∀ e ∈ s.stack.keyCopies, e.1 < 6) → t.rd F.KEY_COPIES SEC = 22))
               ∧ (layer.val ≠ 3 → t.stack = s.stack ∧ t.rd F.KEY_COPIES SEC = s.rd F.KEY_COPIES SEC)
               ∧ t.rd F.ST_PHASE DEV = (if layer.val = 7 then 6 else 5) ∧ t = { s with regs := t.regs, start := t.start, stack := t.stack })
             ∧ ∃ t, exec (.regulatorTimeout layer) s = .next t ∧ t.start = { s.start with layers := 0, failed := true } ∧ t.rd F.ST_FAIL DEV = 2
               ∧ t.rd F.ST_FAIL_LAYER DEV = layer.val ∧ (∀ i, 6 ≤ i → i < 22 → t.keyCopy i = 0) ∧ t.host.cmds = []
               ∧ t.host.done = s.host.done ++ s.host.cmds.map (fun d => ⟨d.c, d.status.first .refused, []⟩)
               ∧ t = { s with regs := t.regs, start := t.start, stack := { s.stack with keyCopies := t.stack.keyCopies },
                              host := { s.host with cmds := [], done := t.host.done } })
  ∧ (∀ s : State, s.start.failed = false → s.stackOn = true →
       (s.rd F.ST_PHASE DEV = 6 → ∀ failed : List CouplerId,
           ∃ t, exec (.trainingDone failed) s = .next t ∧ t.rd F.ST_PHASE DEV = 7 ∧ t.start.sub = 0 ∧ (∀ b, b < 11 → t.rd F.BND_TRAINED DEV b = 1)
             ∧ t.rd F.SYS_CHAIN_IN DEV = leNat (s.setting 1) % 2 ^ (F.SYS_CHAIN_IN.hi + 1 - F.SYS_CHAIN_IN.lo)
             ∧ t.rd F.CFG_FALLBACK CFG = leNat (s.setting 3) % 2
             ∧ (∀ b, b < 11 → t.stack.phaseBand.get (fun _ => 0) b = s.boundaryBand b)
             ∧ (failed = [] → (∀ b, b < 11 → t.rd F.BND_SPARES_LEFT DEV b = boundaryGroups b) ∧ t.stack = { s.stack with phaseBand := t.stack.phaseBand })
             ∧ (∀ c, failed = [c] → hasCoupler c.b.val c.group.toNat c.coupler.val = true → (s.groupAt c.b.val c.group.toNat).failed = [] →
                 t.rd F.BND_SPARES_LEFT DEV c.b.val = boundaryGroups c.b.val - 1
                 ∧ t.groupAt c.b.val c.group.toNat = { s.groupAt c.b.val c.group.toNat with
                     failed := [c.coupler.val], steered := if c.coupler.val = 17 then none else some c.coupler.val })
             ∧ ∀ c d, failed = [c, d] → c.b = d.b → c.group = d.group → c.coupler ≠ d.coupler → hasCoupler c.b.val c.group.toNat c.coupler.val = true →
                 hasCoupler c.b.val c.group.toNat d.coupler.val = true → (s.groupAt c.b.val c.group.toNat).failed = [] →
                 (s.groupAt c.b.val c.group.toNat).exhausted = false →
                 (t.groupAt c.b.val c.group.toNat).failed = [c.coupler.val, d.coupler.val] ∧ (t.groupAt c.b.val c.group.toNat).exhausted = true
                 ∧ t.rd F.BND_EXH DEV c.b.val = min F.BND_EXH.max (s.rd F.BND_EXH DEV c.b.val + 1))
         ∧ (s.rd F.ST_PHASE DEV = 7 → s.start.sub = 0 → s.lanes.all (fun e => e.2.runs == []) = true →
             (∀ (ls : List Lane) (ps : List Pos), ∃ t, exec (.startupMarchDone ls ps) s = .next t ∧ t.start = { s.start with sub := 1, marched := s.rootNow }
                 ∧ (∀ d ∈ t.host.cmds, d.phase = .held → d.upper = true)
                 ∧ (s.start.vlane = true → s.start.vlaneH = true → (∀ l ∈ ls, t.ln F.LN_LSTATE l.val = 4 ∧ t.ln F.LN_FAULT_CAUSE l.val = 5)
                   ∧ ∀ l : Lane, l ∉ ls → t.ln F.LN_LSTATE l.val = s.ln F.LN_LSTATE l.val)
                 ∧ (s.start.vlane = false ∨ s.start.vlaneH = false → ∀ l : Lane, t.ln F.LN_LSTATE l.val = 4 ∧ t.ln F.LN_FAULT_CAUSE l.val = 2))
               ∧ ∀ p : Pos, s.start.vlane = true → s.start.vlaneH = true → ∃ t, exec (.startupMarchDone [] [p]) s = .next t ∧ t.rd F.POS_STATE DEV p.val = 4
                 ∧ t.evq.map (fun e => e.code) = s.evq.map (fun e => e.code)
                   ++ (if s.rd F.POS_STATE DEV p.val = 0 ∧ (List.range 18).all (fun q => s.rd F.POS_STATE DEV q != 1) = true then [0x12, 0x08] else [0x08])
                 ∧ (s.rd F.POS_STATE DEV p.val = 0 → (∃ q, q < 18 ∧ s.rd F.POS_STATE DEV q = 1) → ∃ q, q < 18 ∧ s.rd F.POS_STATE DEV q = 1
                   ∧ t.ppos (s.rd F.POS_LPATCH DEV p.val) = q ∧ t.rd F.POS_STATE DEV q = 0))
         ∧ (s.rd F.ST_PHASE DEV = 7 → s.start.sub = 1 →
             (∀ fails : List Checker, ∃ t, exec (.checkerSelftestDone fails) s = .next t ∧ t.start = { s.start with sub := 2 }
                 ∧ (fails = [] → t = { s with start := t.start }))
               ∧ ∀ (k : LPatch) (c : Checker), c = .boltLane k ∨ c = .boltTag k → ∃ t, exec (.checkerSelftestDone [c]) s = .next t
                 ∧ t.rd F.BOLT_DEC_SPARE (BOLT k.val) = 1
                 ∧ (s.rd F.BOLT_DEC_SPARE (BOLT k.val) = 0 → t.rd F.BOLT_OUT (BOLT k.val) = s.rd F.BOLT_OUT (BOLT k.val) ∧ t.evq.map (fun e => e.code)
                   = s.evq.map (fun e => e.code) ++ [0x08])
                 ∧ (s.rd F.BOLT_DEC_SPARE (BOLT k.val) = 1 → t.rd F.BOLT_OUT (BOLT k.val) = 1 ∧ t.evq.map (fun e => e.code)
                   = s.evq.map (fun e => e.code) ++ [0x08, 0x12]))
         ∧ (s.rd F.ST_PHASE DEV = 7 → s.start.sub = 2 → ∀ hdr : StreamHeader,
             let loads := s.rd F.CFG_SSTATE CFG 0 = 2 ∧ bitAt s.start.straps 3 = false ∧ s.cfg.load = none ∧ s.cfg.inForce.isSome = true
             ∃ t, exec (.dramInitDone hdr) s = .next t ∧ t.rd F.ST_PHASE DEV = 8 ∧ (∀ (k : LPatch) a, t.boltByte k.val a = 0)
               ∧ (∀ d ∈ t.host.cmds, d.phase ≠ .held) ∧ t.host.cmds.length = s.host.cmds.length ∧ (¬ loads → t.cfg = s.cfg)
               ∧ (loads → s.headerOk hdr false = true → ∃ l, t.cfg.load = some l ∧ l.source = 2 ∧ l.slot = 0 ∧ l.hdr = hdr)
               ∧ (loads → s.headerOk hdr false = false → t.cfg = s.cfg ∧ t.rd F.CFG_CAUSE CFG = 1 ∧ t.rd F.CFG_LAST_STATUS CFG = 9)))

/-- Resets and losses of supply (R455, R512, R513, R520 to R524, R551): each full reset starts the device again from step 4 with its cause, its memories,
processors and commands gone, its settings, host memory and fuses kept, and the burned life-cycle state in effect; while a stop is in force it is
held; a restart after a stop needs its cause to have passed; without VIN_STACK only housekeeping remains, without VHK only what is stored. Layer logic
resets (R525, R526, R528, R530): a request adds its layers to those that wait, and where it names L1 or L3 to those that a handover may hold; a write
of LRESET also clears its DONE bits, and on the head device asks for the system reset; the end of a reset shows its layers DONE, loads the key again
for the bolt controllers of L3, and releases the patches once neither L1 nor L3 is in reset. The model's own choices that clauses rest on: assumptions
81, 106. -/
def Obligations.Resets : Prop :=
  (∀ s : State, s.start.vhk = true →
     let cold := fun (t : State) => t.clk.locked = false ∧ t.stitch = 0 ∧ t.banks = [] ∧ t.bolts = [] ∧ t.procs = [] ∧ t.host.cmds = []
       ∧ t.evq = [] ∧ t.stack = State.reset.stack ∧ t.cfg.released = false ∧ t.cfg.settings = s.cfg.settings ∧ t.cfg.jackImgs = s.cfg.jackImgs
       ∧ t.hostMem = s.hostMem
     let restarts := fun (i : Instr) (cause : Nat) => ∃ t, exec i s = .next t ∧ cold t ∧ t.rd F.ST_LAST_START DEV = cause
       ∧ t.rd F.ST_STARTS DEV = (s.rd F.ST_STARTS DEV + 1) % 65536 ∧ t.rd F.ST_PHASE DEV = (if s.rd F.CLK_STABLE CLK = 1 then 4 else 3)
       ∧ t.cfg.fuses.lcs = s.cfg.fuses.next ∧ t.hk.stop = 0 ∧ t.hk.heldReset = none ∧ t.start.resetLow = false
       ∧ t.start.jackSt = s.start.jackSt ∧ t.rootNow = s.rootNow
     let rested := s.hk.stopAt + 3200000000 ≤ s.rootNow
     let cooled := ∃ c, s.hk.cool = some c ∧ c + 3200000000 ≤ s.rootNow
     (s.start.resetLow = false → (s.hk.stop = 0 → ∃ t, exec .resetNAssert s = .next t ∧ cold t ∧ t.start.resetLow = true)
         ∧ (s.hk.stop ≠ 0 → exec .resetNAssert s
             = .next { s with hk := { s.hk with heldReset := some 1 }, start := { s.start with resetLow := true } }))
       ∧ (s.start.resetLow = true →
           (s.hk.heldReset = none → s.start.vin = true → s.hk.stop = 0 → restarts .resetNRise 1)
             ∧ (s.hk.heldReset = none → s.start.vin = true → s.hk.stop ≠ 0 → exec .resetNRise s
               = .next { s with hk := { s.hk with heldReset := some 1 }, start := { s.start with resetLow := false } })
             ∧ (s.hk.heldReset ≠ none ∨ s.start.vin = false → exec .resetNRise s = .next { s with start := { s.start with resetLow := false } }))
       ∧ (s.start.vin = true → s.rd F.JK_ALLOW_FULL JACK = 1 → s.start.resetLow = false →
           (s.hk.stop = 0 → restarts .jrstFull 2)
             ∧ (s.hk.stop ≠ 0 → exec .jrstFull s = .next { s with hk := { s.hk with heldReset := some 2 } }))
       ∧ (∀ cause, s.hk.heldReset = some cause → cause < 8 → cooled → s.start.resetLow = false → restarts .heldResetRelease cause)
       ∧ (s.halted = false → s.rd F.HK_LATCHED HK = 0 → s.hk.heldReset = none → s.start.resetLow = false →
           let reports := fun (code : Nat) => ∃ t, exec .autoRestart s = .next t ∧ ∃ e, t.hk.report = some e ∧ e.code = code ∧ e.block = 2
             ∧ e.args.getD 2 0 = BitVec.ofNat 32 (if s.hk.stop = 1 ∧ s.hk.both = true then 1 else s.rd F.HK_STOP_STITCH HK)
           (s.hk.stop = 1 → cooled → s.hk.both = false ∨ rested → restarts .autoRestart 4 ∧ reports 0x32)
             ∧ (2 ≤ s.hk.stop → rested → restarts .autoRestart 5 ∧ reports 0x34))
       ∧ (s.start.vin = true → ∃ t, exec .vinStackLoss s = .next t ∧ cold t ∧ t.start.vin = false ∧ t.start.vhk = true ∧ t.rd F.ST_PHASE DEV = 3)
       ∧ ∃ t, exec .vhkLoss s = .next t ∧ cold t ∧ t.regs = [] ∧ t.start = State.reset.start ∧ t.host = State.reset.host)
  ∧ (∀ s : State, s.cfg.released = true → s.halted = false →
       let asks := fun (layers : Nat) (t : State) =>
         (bitAt layers 1 = true ∨ bitAt layers 3 = true → t.start.lrReq = s.start.lrReq
             ∧ ∀ i, i < 8 → bitAt t.start.lrHeld i = (bitAt layers i || bitAt s.start.lrHeld i))
           ∧ (bitAt layers 1 = false → bitAt layers 3 = false → t.start.lrHeld = s.start.lrHeld
             ∧ ∀ i, i < 8 → bitAt t.start.lrReq i = (bitAt layers i || bitAt s.start.lrReq i))
           ∧ t.start = { s.start with lrReq := t.start.lrReq, lrHeld := t.start.lrHeld }
       (∀ layers : BitVec 8, s.start.vhk = true → s.rd F.JK_ALLOW_LAYER JACK = 1 → ∃ t, exec (.jrstLayer layers) s = .next t
           ∧ asks layers.toNat t ∧ t = { s with start := t.start })
         ∧ (∀ (v : W32) (be : BitVec 4), ∃ t, exec (.layerResetWrite v be) s = .next t
             ∧ (bitAt be.toNat 0 = true → asks (v.toNat % 256) t) ∧ (bitAt be.toNat 0 = false → t.start = s.start)
             ∧ (∀ i, i < 8 → bitAt (t.rd F.LR_DONE DEV) i = (bitAt (s.rd F.LR_DONE DEV) i && !(bitAt be.toNat 2 && bitAt v.toNat (16 + i))))
             ∧ (bitAt be.toNat 3 = true → bitAt v.toNat 24 = true → s.isHead = true → t.sys.resetAt = some (s.stitch + BitVec.ofNat 64 (s.rd F.TRIG_D TRIG)))
             ∧ (bitAt be.toNat 3 = false ∨ bitAt v.toNat 24 = false ∨ s.isHead = false → t.sys = s.sys ∧ t.seams = s.seams)
             ∧ t = { s with regs := t.regs, start := t.start, sys := t.sys, seams := t.seams })
         ∧ (s.start.lrOn.any (fun e => e.2 == 0) = true →
             let ended := fun i => s.start.lrOn.any (fun e => e.1 == i && e.2 == 0) = true
             let left := s.start.lrOn.filter (fun e => e.2 != 0)
             ∃ t, exec .layerResetEnd s = .next t ∧ t.start = { s.start with lrOn := left }
             ∧ (∀ i, i < 8 → (bitAt (t.rd F.LR_DONE DEV) i = true ↔ bitAt (s.rd F.LR_DONE DEV) i = true ∨ ended i))
             ∧ (ended 3 → s.rd F.KEY_STATE SEC = 1 → ∀ i, 6 ≤ i → i < 22 → t.keyCopy i = s.stack.keyStore)
             ∧ (¬ ended 3 → t.stack = s.stack)
             ∧ (ended 1 ∨ ended 3 → left.all (fun e => e.1 != 1 && e.1 != 3) = true → ∀ k, k < 16 → (s.fabAt k).active ≠ none → k ∉ s.res.testing →
                 (t.fabAt k).released = true ∧ (t.fabAt k).aSt = initState (s.fabAt k).aCfg)
             ∧ (left.any (fun e => e.1 == 1 || e.1 == 3) = true → t.fabs = s.fabs) ∧ (¬ ended 1 → ¬ ended 3 → t.fabs = s.fabs)))

/-- The jack, the supplies and the test port (R533, R534, R549, R551, R562 to R565): a swap asks for a valid inactive jack; it takes place, or is given
up; a VIO bank is on at its level or off; a lane rail out of limits takes lanes that are UP to ACQUIRE; the port holds its instruction, a board-test
one only where the balls may be taken, and an internal scan only in MANUFACTURE and RETURN. The model's own choices that clauses rest on: assumption
106. -/
def Obligations.JackSuppliesAndTestPort : Prop :=
  ∀ s : State, s.start.vhk = true →
    let active := s.rd F.JK_ACTIVE JACK
    let valid := if active = 1 then s.rd F.JK_VALID0 JACK = 1 else s.rd F.JK_VALID1 JACK = 1
    let jk := F.JK_ACTIVE.at JACK 0 0
    (s.halted = false → s.rd F.JK_SWAP_PEND JACK = 0 →
        (valid → ∃ t, exec .jackSwap s = .next t ∧ t.rd F.JK_SWAP_PEND JACK = 1 ∧ t.rd F.JK_ACTIVE JACK = active ∧ OnlyRegs [jk] s t)
          ∧ (¬ valid → ∃ t, exec .jackSwap s = .next t ∧ t.rd F.JK_SWAP_STATUS JACK = 3 ∧ t.rd F.JK_SWAP_PEND JACK = 0 ∧ OnlyRegs [jk] s t))
      ∧ (s.rd F.JK_SWAP_PEND JACK = 1 →
          (∀ any ok : Bool, any = true ∨ ok = true → ∃ t, exec (.jackSwapExecute any ok) s = .next t ∧ t.rd F.JK_ACTIVE JACK = 1 - active
              ∧ t.rd F.JK_SWAP_PEND JACK = 0 ∧ t.rd F.JK_SWAP_STATUS JACK = 0 ∧ t.rd F.JK_SWAPS JACK = (s.rd F.JK_SWAPS JACK + 1) % 65536
              ∧ t.rd F.JK_BLANK JACK = 0
              ∧ t = { s with regs := t.regs, cfg := { s.cfg with jackActive := 1 - active },
                             start := { s.start with jackSt := initState (s.cfg.jackImgs.get (fun _ => []) (1 - active)) } })
            ∧ ∃ t, exec .jackSwapTimeout s = .next t ∧ t.rd F.JK_SWAP_PEND JACK = 0 ∧ t.rd F.JK_SWAP_STATUS JACK = 3 ∧ t.rd F.JK_ACTIVE JACK = active
              ∧ OnlyRegs [jk] s t)
      ∧ (∀ bank level : Fin 3, ∃ t, exec (.vioGood bank level) s = .next t ∧ t = { s with start := { s.start with vio := t.start.vio } }
          ∧ (∀ b, t.start.vio.get (fun _ => 0) b = if b = bank.val then level.val + 1 else s.start.vio.get (fun _ => 0) b)
          ∧ ∃ u, exec (.vioLoss bank) s = .next u ∧ u = { s with start := { s.start with vio := u.start.vio } }
            ∧ ∀ b, u.start.vio.get (fun _ => 0) b = if b = bank.val then 0 else s.start.vio.get (fun _ => 0) b)
      ∧ (∀ (high : Bool) (off : Nat),
          let rail := fun (t : State) => if high then t.start.vlaneH else t.start.vlane
          (rail s = true → ∃ t, exec (.vlaneOutOfLimits high off) s = .next t ∧ rail t = false
              ∧ (s.halted = false → s.cfg.released = true → ∀ l : Lane,
                t.ln F.LN_LSTATE l.val = if s.ln F.LN_LSTATE l.val = 2 then 1 else s.ln F.LN_LSTATE l.val)
              ∧ (s.halted = true ∨ s.cfg.released = false → t.regs = s.regs))
            ∧ (rail s = false → ∃ t, exec (.vlaneReturn high off) s = .next t ∧ rail t = true ∧ t = { s with start := t.start, off := t.off }))
      ∧ (∀ (i : Instr) (code : Nat), (i, code) ∈ [(.tapReset, 1), (.bypass, 0xFF), (.samplePreload, 2)] → exec i s = .next { s with tap := ⟨code⟩ })
      ∧ exec .idcode s = .next { s with tap := ⟨1⟩, resp := 0x2025693D }
      ∧ (∀ (i : Instr) (code : Nat), (i, code) ∈ [(.extest, 0), (.extestPulse, 3), (.extestTrain, 4), (.clamp, 5), (.highz, 6)] →
          exec i s = .next { s with tap := ⟨if s.start.vin = true ∧ s.rd F.CFG_STATE CFG ≠ 2 then code else 2⟩ })
      ∧ ∀ code : BitVec 4, exec (.internalScan code) s
          = .next { s with tap := ⟨if s.rd F.LCS SEC = 1 ∨ s.rd F.LCS SEC = 4 then 0x10 + code.toNat else 0xFF⟩ }
end

