-- ==== Sys2Proof/Laws/Tab.lean ====
section
/-! SUPPORT. Laws of the sorted tables: what a read finds after a write, and that writes keep the canonical form. -/

namespace Sys2Proof

theorem Tab.get_put_same {α : Type} (d : Nat → α) (t : Tab α) (k : Nat) (v : α) : Tab.get d (Tab.put t k v) k = v := by
  induction t with
  | nil => simp [Tab.put, Tab.get]
  | cons x t ih =>
    simp only [Tab.put]
    split
    · simp [Tab.get]
    · split
      · simp [Tab.get]
      · rename_i h
        simp only [Tab.get, h, if_false, ih]

theorem Tab.get_put_other {α : Type} (d : Nat → α) (t : Tab α) {k k' : Nat} (v : α) (h : k' ≠ k) :
    Tab.get d (Tab.put t k v) k' = Tab.get d t k' := by
  induction t with
  | nil => simp [Tab.put, Tab.get, Ne.symm h]
  | cons x t ih =>
    simp only [Tab.put]
    split
    · simp [Tab.get, Ne.symm h]
    · split
      · rename_i e; simp [Tab.get, e, Ne.symm h]
      · simp only [Tab.get, ih]

/-- A read after a write: the value written at the key, what was there elsewhere. -/
theorem Tab.get_put {α : Type} (d : Nat → α) (t : Tab α) (k k' : Nat) (v : α) :
    Tab.get d (Tab.put t k v) k' = if k' = k then v else Tab.get d t k' := by
  split
  · rename_i h; subst h; exact Tab.get_put_same d t _ v
  · rename_i h; exact Tab.get_put_other d t v h

theorem Tab.get_del_same {α : Type} (d : Nat → α) (t : Tab α) (k : Nat) : Tab.get d (Tab.del t k) k = d k := by
  induction t with
  | nil => rfl
  | cons x t ih =>
    simp only [Tab.del, List.filter_cons]
    split
    · rename_i h
      have h1 : x.1 ≠ k := by simpa using h
      simp only [Tab.get, h1, if_false]
      exact ih
    · exact ih

theorem Tab.get_del_other {α : Type} (d : Nat → α) (t : Tab α) {k k' : Nat} (h : k' ≠ k) : Tab.get d (Tab.del t k) k' = Tab.get d t k' := by
  induction t with
  | nil => rfl
  | cons x t ih =>
    simp only [Tab.del, List.filter_cons]
    split
    · simp only [Tab.get]
      split
      · rfl
      · exact ih
    · rename_i h1
      have h2 : x.1 = k := by simpa using h1
      have h3 : x.1 ≠ k' := fun e => h (e.symm.trans h2)
      simp only [Tab.get, h3, if_false]
      exact ih

/-- A read after a write in the canonical form. -/
theorem Tab.get_set {α : Type} [DecidableEq α] (d : Nat → α) (t : Tab α) (k k' : Nat) (v : α) :
    Tab.get d (Tab.set d t k v) k' = if k' = k then v else Tab.get d t k' := by
  unfold Tab.set
  split
  · rename_i h
    split
    · rename_i e; subst e; rw [Tab.get_del_same, h]
    · rename_i e; exact Tab.get_del_other d t e
  · exact Tab.get_put d t k k' v

theorem Tab.mem_put {α : Type} {t : Tab α} {k : Nat} {v : α} {e : Nat × α} (h : e ∈ Tab.put t k v) : e = (k, v) ∨ e ∈ t := by
  induction t with
  | nil => simpa [Tab.put] using h
  | cons x t ih =>
    simp only [Tab.put] at h
    split at h
    · simpa using h
    · split at h
      · rcases List.mem_cons.1 h with h | h
        · exact .inl h
        · exact .inr (List.mem_cons_of_mem _ h)
      · rcases List.mem_cons.1 h with h | h
        · exact .inr (h ▸ List.mem_cons_self)
        · rcases ih h with h | h
          · exact .inl h
          · exact .inr (List.mem_cons_of_mem _ h)

theorem Tab.put_sorted {α : Type} {t : Tab α} {k : Nat} {v : α} (h : t.Pairwise (fun a b => a.1 < b.1)) :
    (Tab.put t k v).Pairwise (fun a b => a.1 < b.1) := by
  induction t with
  | nil => simp [Tab.put]
  | cons x t ih =>
    obtain ⟨hx, ht⟩ := List.pairwise_cons.1 h
    simp only [Tab.put]
    split
    · refine List.pairwise_cons.2 ⟨fun e he => ?_, h⟩
      rcases List.mem_cons.1 he with he | he
      · subst he; assumption
      · exact Nat.lt_trans (by assumption) (hx e he)
    · split
      · refine List.pairwise_cons.2 ⟨fun e he => ?_, ht⟩
        have := hx e he; simp_all
      · refine List.pairwise_cons.2 ⟨fun e he => ?_, ih ht⟩
        rcases Tab.mem_put he with he | he
        · subst he; simp; omega
        · exact hx e he

theorem Tab.set_wf {α : Type} [DecidableEq α] {d : Nat → α} {t : Tab α} {k : Nat} {v : α} (h : Tab.wf d t = true) :
    Tab.wf d (Tab.set d t k v) = true := by
  simp only [Tab.wf, Bool.and_eq_true, decide_eq_true_eq, List.all_eq_true] at h ⊢
  unfold Tab.set
  split
  · refine ⟨h.1.filter _, fun e he => h.2 e (List.mem_of_mem_filter he)⟩
  · refine ⟨Tab.put_sorted h.1, fun e he => ?_⟩
    rcases Tab.mem_put he with he | he
    · subst he; assumption
    · exact h.2 e he

theorem Tab.filter_wf {α : Type} [DecidableEq α] {d : Nat → α} {t : Tab α} {p : Nat × α → Bool} (h : Tab.wf d t = true) :
    Tab.wf d (t.filter p) = true := by
  simp only [Tab.wf, Bool.and_eq_true, decide_eq_true_eq, List.all_eq_true] at h ⊢
  exact ⟨h.1.filter _, fun e he => h.2 e (List.mem_of_mem_filter he)⟩

/-- A table's read is its default or one of its entries. -/
theorem Tab.get_mem {α : Type} (d : Nat → α) (t : Tab α) (k : Nat) : Tab.get d t k = d k ∨ ∃ e ∈ t, e.2 = Tab.get d t k := by
  induction t with
  | nil => exact .inl rfl
  | cons x t ih =>
    simp only [Tab.get]
    split
    · exact .inr ⟨x, List.mem_cons_self, rfl⟩
    · rcases ih with h | ⟨e, he, h⟩
      · exact .inl h
      · exact .inr ⟨e, List.mem_cons_of_mem _ he, h⟩

/-- What holds of every entry and of what an unlisted place reads as holds of what any place reads as. -/
theorem Tab.get_all {α : Type} {P : α → Prop} {d : Nat → α} {t : Tab α} {k : Nat} (hd : P (d k)) (h : ∀ e ∈ t, P e.2) : P (Tab.get d t k) := by
  rcases Tab.get_mem d t k with h1 | ⟨e, he, h1⟩
  · rw [h1]; exact hd
  · rw [← h1]; exact h e he

/-- A property that each round keeps holds after all of them. -/
theorem forEach_induct {α β : Type} {P : β → Prop} {f : α → β → β} {l : List α} {t : β} (hf : ∀ a t, P t → P (f a t)) (h : P t) :
    P (forEach f l t) := by
  induction l generalizing t with
  | nil => exact h
  | cons a l ih => exact ih (hf a t h)

theorem forN_induct {β : Type} {P : β → Prop} {f : Nat → β → β} {n : Nat} {t : β} (hf : ∀ i t, P t → P (f i t)) (h : P t) : P (forN f n t) := by
  induction n with
  | zero => exact h
  | succ n ih => exact hf n _ ih

end Sys2Proof
end

