-- ==== Sys2Proof/Laws/Regs.lean ====
section
/-! SUPPORT. Laws of registers and fields: a field reads what was written to it, and a write leaves every other word and every other field
of its word as they were. -/

namespace Sys2Proof

theorem setBitsOf_toNat {hi lo : Nat} (w : W32) (v : Nat) (h : lo ≤ hi) (h2 : hi < 32) :
    (setBitsOf hi lo w v).toNat = w.toNat % 2 ^ lo + 2 ^ lo * (v % 2 ^ (hi + 1 - lo)) + 2 ^ (hi + 1) * (w.toNat / 2 ^ (hi + 1)) := by
  have ha : w.toNat % 2 ^ lo < 2 ^ lo := Nat.mod_lt _ (by positivity)
  have hb : v % 2 ^ (hi + 1 - lo) < 2 ^ (hi + 1 - lo) := Nat.mod_lt _ (by positivity)
  have e1 : 2 ^ lo * 2 ^ (hi + 1 - lo) = 2 ^ (hi + 1) := by rw [← pow_add]; congr 1; omega
  have e2 : 2 ^ (hi + 1) * 2 ^ (32 - (hi + 1)) = 2 ^ 32 := by rw [← pow_add]; congr 1; omega
  have hc : w.toNat / 2 ^ (hi + 1) < 2 ^ (32 - (hi + 1)) := by
    apply Nat.div_lt_of_lt_mul; rw [e2]; exact w.isLt
  unfold setBitsOf
  rw [BitVec.toNat_ofNat]
  apply Nat.mod_eq_of_lt
  have l1 : w.toNat % 2 ^ lo + 2 ^ lo * (v % 2 ^ (hi + 1 - lo)) < 2 ^ (hi + 1) := by
    rw [← e1]
    calc _ < 2 ^ lo + 2 ^ lo * (v % 2 ^ (hi + 1 - lo)) := Nat.add_lt_add_right ha _
      _ = 2 ^ lo * (v % 2 ^ (hi + 1 - lo) + 1) := by ring
      _ ≤ _ := Nat.mul_le_mul_left _ hb
  calc _ < 2 ^ (hi + 1) + 2 ^ (hi + 1) * (w.toNat / 2 ^ (hi + 1)) := Nat.add_lt_add_right l1 _
    _ = 2 ^ (hi + 1) * (w.toNat / 2 ^ (hi + 1) + 1) := by ring
    _ ≤ 2 ^ (hi + 1) * 2 ^ (32 - (hi + 1)) := Nat.mul_le_mul_left _ hc
    _ = 2 ^ 32 := e2

/-- A field reads what was written to it. -/
theorem bitsOf_setBitsOf {hi lo : Nat} (w : W32) (v : Nat) (h : lo ≤ hi) (h2 : hi < 32) :
    bitsOf hi lo (setBitsOf hi lo w v) = v % 2 ^ (hi + 1 - lo) := by
  have e1 : 2 ^ (hi + 1) = 2 ^ lo * 2 ^ (hi + 1 - lo) := by rw [← pow_add]; congr 1; omega
  have hA : 0 < 2 ^ lo := by positivity
  unfold bitsOf
  rw [setBitsOf_toNat w v h h2, e1]
  rw [show w.toNat % 2 ^ lo + 2 ^ lo * (v % 2 ^ (hi + 1 - lo)) + 2 ^ lo * 2 ^ (hi + 1 - lo) * (w.toNat / (2 ^ lo * 2 ^ (hi + 1 - lo)))
      = w.toNat % 2 ^ lo + 2 ^ lo * (v % 2 ^ (hi + 1 - lo) + 2 ^ (hi + 1 - lo) * (w.toNat / (2 ^ lo * 2 ^ (hi + 1 - lo)))) by ring]
  rw [Nat.add_mul_div_left _ _ hA, Nat.div_eq_of_lt (Nat.mod_lt _ hA), Nat.zero_add, Nat.add_mul_mod_self_left, Nat.mod_mod]

/-- A write to one field leaves every other field of the word. -/
theorem bitsOf_setBitsOf_other {hi lo hi' lo' : Nat} (w : W32) (v : Nat) (h : lo ≤ hi) (h2 : hi < 32) (h' : lo' ≤ hi')
    (hd : hi' < lo ∨ hi < lo') : bitsOf hi' lo' (setBitsOf hi lo w v) = bitsOf hi' lo' w := by
  have e1 : 2 ^ (hi + 1) = 2 ^ lo * 2 ^ (hi + 1 - lo) := by rw [← pow_add]; congr 1; omega
  have hA : 0 < 2 ^ lo := by positivity
  have hAB : 0 < 2 ^ (hi + 1) := by positivity
  unfold bitsOf
  rw [setBitsOf_toNat w v h h2]
  rcases hd with hd | hd
  · have e2 : 2 ^ lo = 2 ^ lo' * 2 ^ (hi' + 1 - lo') * 2 ^ (lo - (hi' + 1)) := by rw [← pow_add, ← pow_add]; congr 1; omega
    rw [← Nat.mod_mul_right_div_self, ← Nat.mod_mul_right_div_self w.toNat]
    congr 1
    have hx : (w.toNat % 2 ^ lo + 2 ^ lo * (v % 2 ^ (hi + 1 - lo)) + 2 ^ (hi + 1) * (w.toNat / 2 ^ (hi + 1))) % 2 ^ lo = w.toNat % 2 ^ lo := by
      rw [e1, Nat.mul_assoc, Nat.add_assoc, ← Nat.mul_add, Nat.add_mul_mod_self_left, Nat.mod_mod]
    have key : ∀ x : Nat, x % (2 ^ lo' * 2 ^ (hi' + 1 - lo')) = x % 2 ^ lo % (2 ^ lo' * 2 ^ (hi' + 1 - lo')) := by
      intro x; rw [Nat.mod_mod_of_dvd]; rw [e2]; exact Dvd.intro _ rfl
    rw [key, hx, ← key]
  · have e2 : 2 ^ lo' = 2 ^ (hi + 1) * 2 ^ (lo' - (hi + 1)) := by rw [← pow_add]; congr 1; omega
    have ha : w.toNat % 2 ^ lo < 2 ^ lo := Nat.mod_lt _ hA
    have hb : v % 2 ^ (hi + 1 - lo) < 2 ^ (hi + 1 - lo) := Nat.mod_lt _ (by positivity)
    have l1 : w.toNat % 2 ^ lo + 2 ^ lo * (v % 2 ^ (hi + 1 - lo)) < 2 ^ (hi + 1) := by
      rw [e1]
      calc _ < 2 ^ lo + 2 ^ lo * (v % 2 ^ (hi + 1 - lo)) := Nat.add_lt_add_right ha _
        _ = 2 ^ lo * (v % 2 ^ (hi + 1 - lo) + 1) := by ring
        _ ≤ _ := Nat.mul_le_mul_left _ hb
    rw [e2, ← Nat.div_div_eq_div_mul, ← Nat.div_div_eq_div_mul, Nat.add_mul_div_left _ _ hAB, Nat.div_eq_of_lt l1, Nat.zero_add]

end Sys2Proof

namespace Sys2Proof.Machine

theorem State.reg_setReg (s : State) (a b : Nat) (w : W32) : (s.setReg a w).reg b = if b = a then w else s.reg b :=
  Tab.get_put resetWord s.regs a b w

theorem State.reg_setReg_same (s : State) (a : Nat) (w : W32) : (s.setReg a w).reg a = w := by simp [State.reg_setReg]

theorem State.reg_setReg_other (s : State) {a b : Nat} (w : W32) (h : b ≠ a) : (s.setReg a w).reg b = s.reg b := by simp [State.reg_setReg, h]

/-- A write of a field leaves every word at another offset. -/
theorem State.reg_wr_other (s : State) (f : Fld) (base v i j : Nat) {a : Nat} (h : a ≠ f.at base i j) : (s.wr f base v i j).reg a = s.reg a :=
  State.reg_setReg_other s _ h

/-- A field reads what was written to it, within its width. -/
theorem State.rd_wr_same (s : State) (f : Fld) (base v i j : Nat) (h : f.lo ≤ f.hi) (h2 : f.hi < 32) :
    (s.wr f base v i j).rd f base i j = v % 2 ^ (f.hi + 1 - f.lo) := by
  unfold State.rd State.wr
  rw [State.reg_setReg_same, bitsOf_setBitsOf _ _ h h2]

/-- A write of a field leaves every field of another word. -/
theorem State.rd_wr_word (s : State) (f g : Fld) (base base' v i j i' j' : Nat) (h : g.at base' i' j' ≠ f.at base i j) :
    (s.wr f base v i j).rd g base' i' j' = s.rd g base' i' j' := by
  unfold State.rd
  rw [State.reg_wr_other s f base v i j h]

/-- A write of a field leaves the other fields of its word. -/
theorem State.rd_wr_field (s : State) (f g : Fld) (base base' v i j i' j' : Nat) (h : f.lo ≤ f.hi) (h2 : f.hi < 32) (h' : g.lo ≤ g.hi)
    (hd : g.hi < f.lo ∨ f.hi < g.lo) : (s.wr f base v i j).rd g base' i' j' = s.rd g base' i' j' := by
  unfold State.rd State.wr
  rw [State.reg_setReg]
  split
  · rename_i e; rw [e, bitsOf_setBitsOf_other _ _ h h2 h' hd]
  · rfl

/-- What a write of a word leaves: every part of the state but the registers. -/
theorem State.setReg_frame (s : State) (a : Nat) (w : W32) : s.setReg a w = { s with regs := (s.setReg a w).regs } := rfl

theorem State.wr_frame (s : State) (f : Fld) (base v i j : Nat) : s.wr f base v i j = { s with regs := (s.wr f base v i j).regs } := rfl

/-! Processors. -/

theorem State.procAt_set (s : State) (k k' : Nat) (x : ProcSt) : (s.setProcAt k x).procAt k' = if k' = k then x else s.procAt k' :=
  Tab.get_put _ s.procs k k' x

theorem State.procAt_mod (s : State) (k k' : Nat) (f : ProcSt → ProcSt) :
    (s.modProcAt k f).procAt k' = if k' = k then f (s.procAt k) else s.procAt k' := State.procAt_set s k k' _

end Sys2Proof.Machine
end

