-- ==== Sys2Proof/Laws/Graov.lean ====
section
/-! SUPPORT. Laws of the processors: what a change of one processor leaves, and what writing a register and going on does. -/

namespace Sys2Proof.Machine

theorem State.bank_modProcAt (s : State) (k key : Nat) (f) : (s.modProcAt k f).bank key = s.bank key := by
  unfold State.bank State.seqBase State.pb State.ppos State.rsp State.rd State.reg; rfl

theorem OnlyProc.ofMod (s : State) (k : Nat) (f) : OnlyProc k s (s.modProcAt k f) :=
  ⟨rfl, fun k' h => by rw [State.procAt_mod, if_neg h]⟩

theorem OnlyProc.mod {s t : State} {k : Nat} (h : OnlyProc k s t) (f) : OnlyProc k s (t.modProcAt k f) :=
  ⟨by rw [h.1]; rfl, fun k' e => by rw [State.procAt_mod, if_neg e, h.2 k' e]⟩

theorem OnlyProc.refl (s k) : OnlyProc k s s := ⟨rfl, fun _ _ => rfl⟩

theorem OnlyProc.retire {s t : State} {k : Nat} (h : OnlyProc k s t) (c) : OnlyProc k s (t.retire k c) := by
  unfold State.retire State.goto
  exact h.mod _

theorem State.retire_eq (s : State) (k c : Nat) : s.retire k c = s.modProcAt k (fun x => x.goesTo ((s.procAt k).pc + 1) c) := rfl

theorem State.procAt_modSame (s : State) (k : Nat) (f) : (s.modProcAt k f).procAt k = f (s.procAt k) := by rw [State.procAt_mod, if_pos rfl]

theorem bank_of {s t : State} {k : Nat} (h : OnlyProc k s t) (key) : t.bank key = s.bank key := by
  rw [h.1]; unfold State.bank State.seqBase State.pb State.ppos State.rsp State.rd State.reg; rfl


/-- Writing a general register and going on (R78, R120). -/
theorem writesG (s : State) (key rd : Nat) (v : W64) (c : Nat) : WritesG key rd v c s ((s.setG key rd v).retire key c) := by
  unfold State.setG
  by_cases h : rd = 0
  · subst h
    simp only [if_true]
    refine ⟨(OnlyProc.refl s key).retire _, ?_, ?_, ?_⟩
    · rw [State.retire_eq, State.procAt_modSame]; rfl
    · simp [State.g]
    · intro i _; rw [State.retire_eq, State.procAt_modSame]; rfl
  · simp only [h, if_false]
    refine ⟨(OnlyProc.ofMod _ _ _).retire _, ?_, ?_, ?_⟩
    · simp only [State.retire_eq, State.procAt_modSame]; rfl
    · simp only [State.g, h, if_false, State.retire_eq, State.procAt_modSame, State.bank_modProcAt]
      simp only [ProcSt.goesTo, Tab.get_put_same]
    · intro i hi
      simp only [State.retire_eq, State.procAt_modSame, ProcSt.goesTo]
      rw [Tab.get_put_other]; simpa [h] using hi

/-- Writing a predicate and going on (R79, R120). -/
theorem writesP (s : State) (key rd : Nat) (v : Bool) (c : Nat) : WritesP key rd v c s ((s.setP key rd v).retire key c) := by
  unfold State.setP
  by_cases h : rd = 0
  · subst h
    simp only [if_true]
    refine ⟨(OnlyProc.refl s key).retire _, ?_, ?_, ?_⟩
    · rw [State.retire_eq, State.procAt_modSame]; rfl
    · simp [State.p]
    · intro i _; rw [State.retire_eq, State.procAt_modSame]; rfl
  · simp only [h, if_false]
    refine ⟨(OnlyProc.ofMod _ _ _).retire _, ?_, ?_, ?_⟩
    · simp only [State.retire_eq, State.procAt_modSame]; rfl
    · simp only [State.p, h, if_false, State.retire_eq, State.procAt_modSame, State.bank_modProcAt]
      simp only [ProcSt.goesTo, Tab.get_put_same]
    · intro i hi
      simp only [State.retire_eq, State.procAt_modSame, ProcSt.goesTo]
      rw [Tab.get_put_other]; simpa [h] using hi

/-- Writing an offset register and going on (R78, R120). -/
theorem writesO (s : State) (key rd : Nat) (v : W32) (c : Nat) : WritesO key rd v c s ((s.setO key rd v).retire key c) := by
  unfold State.setO
  by_cases h : rd = 0
  · subst h
    simp only [if_true]
    refine ⟨(OnlyProc.refl s key).retire _, ?_, ?_, ?_⟩
    · rw [State.retire_eq, State.procAt_modSame]; rfl
    · simp [State.o]
    · intro i _; rw [State.retire_eq, State.procAt_modSame]; rfl
  · simp only [h, if_false]
    refine ⟨(OnlyProc.ofMod _ _ _).retire _, ?_, ?_, ?_⟩
    · simp only [State.retire_eq, State.procAt_modSame]; rfl
    · simp only [State.o, h, if_false, State.retire_eq, State.procAt_modSame, State.bank_modProcAt]
      simp only [ProcSt.goesTo, Tab.get_put_same]
    · intro i hi
      simp only [State.retire_eq, State.procAt_modSame, ProcSt.goesTo]
      rw [Tab.get_put_other]; simpa [h] using hi

/-- Writing an address register and going on (R78, R120). -/
theorem writesA (s : State) (key rd : Nat) (v : W32) (c : Nat) : WritesA key rd v c s ((s.setA key rd v).retire key c) := by
  unfold State.setA
  refine ⟨(OnlyProc.ofMod _ _ _).retire _, ?_, ?_, ?_⟩
  · simp only [State.retire_eq, State.procAt_modSame]; rfl
  · simp only [State.a, State.retire_eq, State.procAt_modSame, State.bank_modProcAt]
    simp only [ProcSt.goesTo, Tab.get_put_same]
  · intro i hi
    simp only [State.retire_eq, State.procAt_modSame, ProcSt.goesTo]
    rw [Tab.get_put_other]; simpa using hi

/-- A command that comes about answers its effect. -/
theorem act_next {s t : State} {ok : Bool} (h : ok = true) : act s ok t = .next t := by subst h; rfl

/-- A command that does not come about changes nothing. -/
theorem act_still {s t : State} {ok : Bool} (h : ok = false) : act s ok t = .next s := by subst h; rfl

theorem leBytes_length (n v : Nat) : (leBytes n v).length = n := by
  induction n generalizing v with
  | zero => rfl
  | succ n ih => simp [leBytes, ih]

theorem leBytes_nth (n v i : Nat) (h : i < n) : nthD 0 (leBytes n v) i = BitVec.ofNat 8 (v / 256 ^ i) := by
  induction n generalizing v i with
  | zero => omega
  | succ n ih =>
    cases i with
    | zero => simp [leBytes, nthD]
    | succ i =>
      simp only [leBytes, nthD]
      rw [ih _ _ (by omega), Nat.div_div_eq_div_mul, Nat.pow_succ, Nat.mul_comm]

/-- Storing bytes: the bytes stored read as stored, and every other byte as before. -/
theorem storeBytes_get (t : Tab Byte) (a : Nat) (l : List Byte) (i : Nat) :
    Tab.get (fun _ => 0) (storeBytes t a l) i = if a ≤ i ∧ i < a + l.length then nthD 0 l (i - a) else Tab.get (fun _ => 0) t i := by
  induction l generalizing t a with
  | nil =>
    have h : ¬ (a ≤ i ∧ i < a + ([] : List Byte).length) := by simp
    rw [if_neg h]; rfl
  | cons b l ih =>
    simp only [storeBytes, List.length_cons]
    rw [ih, Tab.get_set]
    by_cases h1 : i = a
    · subst h1; simp [nthD]
    · by_cases h2 : a + 1 ≤ i ∧ i < a + 1 + l.length
      · rw [if_pos h2, if_pos (by omega), show i - a = (i - (a + 1)) + 1 by omega]; rfl
      · rw [if_neg h2, if_neg h1, if_neg (by omega)]

/-- A store into data memory: the bytes of the value, least significant first; every other byte as before. -/
theorem State.dbyte_dstore (s : State) (key a n v i : Nat) :
    (s.dstore key a n v).dbyte key i = if a ≤ i ∧ i < a + n then BitVec.ofNat 8 (v / 256 ^ (i - a)) else s.dbyte key i := by
  unfold State.dstore State.dbyte
  rw [State.procAt_modSame]
  dsimp only
  rw [storeBytes_get, leBytes_length]
  split
  · rw [leBytes_nth _ _ _ (by omega)]
  · rfl

end Sys2Proof.Machine
end

