-- ==== Sys2Proof/Laws/Keeps.lean ====
section
/-! SUPPORT. What every operation keeps: the queue, the stitch number, and the canonical form of the memories. The relation, and how it
passes through updates, conditions and loops. -/

namespace Sys2Proof.Machine

/-- `t` holds the queue and the stitch number of `s`, and canonical memories where `s` has them: what every shared operation leaves (R13,
R55: only a boundary advances the stitch number). -/
def Keeps (s t : State) : Prop := t.pending = s.pending ∧ t.stitch = s.stitch ∧ (Memory.wf s → Memory.wf t)

theorem Keeps.refl (s : State) : Keeps s s := ⟨rfl, rfl, id⟩
theorem Keeps.trans {s t u : State} (h : Keeps s t) (g : Keeps t u) : Keeps s u :=
  ⟨g.1.trans h.1, g.2.1.trans h.2.1, fun x => g.2.2 (h.2.2 x)⟩

/-- `Keeps`, of the parts that it speaks of. -/
def KeepsF (s : State) (p : List Instr) (st : W64) (hm : List Host.Cell) (bk : Tab BankSt) (bt : Tab BoltSt) (pr : Tab ProcSt) : Prop :=
  Keeps s { s with pending := p, stitch := st, hostMem := hm, banks := bk, bolts := bt, procs := pr }

theorem keeps_mk (s : State) (p a1 a2 a3 a4 a5 a6 a7 hm st a8 a9 a10 a11 a12 pr a13 bk a14 bt a15 a16 a17 a18 a19 a20 a21 a22 a23 a24 a25 a26 a27 a28 a29 a30 a31 a32 a33) :
    Keeps s (State.mk p a1 a2 a3 a4 a5 a6 a7 hm st a8 a9 a10 a11 a12 pr a13 bk a14 bt a15 a16 a17 a18 a19 a20 a21 a22 a23 a24 a25 a26 a27 a28 a29 a30 a31 a32 a33)
      = KeepsF s p st hm bk bt pr := rfl

theorem keeps_fields {s e : State} (h : Keeps s e) : KeepsF s e.pending e.stitch e.hostMem e.banks e.bolts e.procs := h

theorem hostPut_ok {t : Tab Byte} {a : Nat} {l : List Byte} (h : t.Pairwise (fun a b => a.1 < b.1)) :
    (l.foldl (fun (p : Tab Byte × Nat) b => (p.1.put p.2 b, p.2 + 1)) (t, a)).1.Pairwise (fun a b => a.1 < b.1) := by
  induction l generalizing t a with
  | nil => exact h
  | cons b l ih => exact ih (Tab.put_sorted h)

theorem putBytes_ok {t : Tab Byte} {a : Nat} {l : List Byte} (h : byteOk t) : byteOk (putBytes t a l) := by
  induction l generalizing t a with
  | nil => exact h
  | cons b l ih => exact ih (Tab.set_wf h)

theorem putBolt_ok {d : Nat → Byte} {t : Tab Byte} {a : Nat} {l : List Byte} (h : Tab.wf d t = true) : Tab.wf d (putBolt d t a l) = true := by
  induction l generalizing t a with
  | nil => exact h
  | cons b l ih => exact ih (Tab.set_wf h)

theorem storeBytes_ok {t : Tab Byte} {a : Nat} {l : List Byte} (h : byteOk t) : byteOk (storeBytes t a l) := by
  induction l generalizing t a with
  | nil => exact h
  | cons b l ih => exact ih (Tab.set_wf h)

theorem procAt_ok {s : State} (h : Memory.wf s) (key : Nat) : byteOk (s.procAt key).dmem := by
  unfold State.procAt
  exact Tab.get_all (P := fun x : ProcSt => byteOk x.dmem) rfl h.2.2.2

theorem setProcAt_keeps {s e : State} {key : Nat} {x : ProcSt} (h : Keeps s e) (hx : Memory.wf e → byteOk x.dmem) : Keeps s (e.setProcAt key x) :=
  h.trans ⟨rfl, rfl, fun m => ⟨m.1, m.2.1, m.2.2.1, fun e he => by
    rcases Tab.mem_put he with he | he
    · subst he; exact hx m
    · exact m.2.2.2 e he⟩⟩

theorem modProcAt_keeps {s e : State} {key : Nat} {f : ProcSt → ProcSt} (h : Keeps s e) (hf : ∀ x, byteOk x.dmem → byteOk (f x).dmem) :
    Keeps s (e.modProcAt key f) := setProcAt_keeps h (fun m => hf _ (procAt_ok m key))

theorem bankAt_ok {s : State} (h : Memory.wf s) (p b : Nat) : bankOk (s.bankAt p b) := by
  unfold State.bankAt
  exact Tab.get_all (P := bankOk) ⟨rfl, rfl⟩ h.2.1

theorem boltAt_ok {s : State} (h : Memory.wf s) (k : Nat) : boltOk (s.boltAt k) := by
  unfold State.boltAt
  exact Tab.get_all (P := boltOk) rfl h.2.2.1

theorem setBank_keeps {s e : State} {p b : Nat} {x : BankSt} (h : Keeps s e) (hx : Memory.wf e → bankOk x) : Keeps s (e.setBank p b x) :=
  h.trans ⟨rfl, rfl, fun m => ⟨m.1, fun e he => by
    rcases Tab.mem_put he with he | he
    · subst he; exact hx m
    · exact m.2.1 e he, m.2.2.1, m.2.2.2⟩⟩

theorem setBolt_keeps {s e : State} {k : Nat} {x : BoltSt} (h : Keeps s e) (hx : Memory.wf e → boltOk x) : Keeps s (e.setBolt k x) :=
  h.trans ⟨rfl, rfl, fun m => ⟨m.1, m.2.1, fun e he => by
    rcases Tab.mem_put he with he | he
    · subst he; exact hx m
    · exact m.2.2.1 e he, m.2.2.2⟩⟩

theorem keepsF_of {z e : State} {bk : Tab BankSt} {bt : Tab BoltSt} {pr : Tab ProcSt} (h : Keeps z e) (hb : Memory.wf e → ∀ x ∈ bk, bankOk x.2)
    (ht : Memory.wf e → ∀ x ∈ bt, boltOk x.2) (hp : Memory.wf e → ∀ x ∈ pr, byteOk x.2.dmem) : KeepsF z e.pending e.stitch e.hostMem bk bt pr :=
  ⟨h.1, h.2.1, fun m => ⟨(h.2.2 m).1, hb (h.2.2 m), ht (h.2.2 m), hp (h.2.2 m)⟩⟩

theorem banks_map_ok {e : State} (m : Memory.wf e) {f : Nat × BankSt → Nat × BankSt} (hf : ∀ x, bankOk x.2 → bankOk (f x).2) :
    ∀ x ∈ e.banks.map f, bankOk x.2 := by
  intro x hx
  obtain ⟨y, hy, rfl⟩ := List.mem_map.1 hx
  exact hf y (m.2.1 y hy)

theorem bolts_map_ok {e : State} (m : Memory.wf e) {f : Nat × BoltSt → Nat × BoltSt} (hf : ∀ x, boltOk x.2 → boltOk (f x).2) :
    ∀ x ∈ e.bolts.map f, boltOk x.2 := by
  intro x hx
  obtain ⟨y, hy, rfl⟩ := List.mem_map.1 hx
  exact hf y (m.2.2.1 y hy)

theorem forEach_keeps {α : Type} {f : α → State → State} {l : List α} {s e : State} (h : Keeps s e) (hf : ∀ a s, Keeps s (f a s)) :
    Keeps s (forEach f l e) := by
  induction l generalizing e with
  | nil => exact h
  | cons a l ih => exact ih (h.trans (hf a e))

theorem forN_keeps {f : Nat → State → State} {n : Nat} {s e : State} (h : Keeps s e) (hf : ∀ i s, Keeps s (f i s)) :
    Keeps s (forN f n e) := by
  induction n with
  | zero => exact h
  | succ n ih => exact ih.trans (hf n _)

theorem ite_keeps {s t u : State} {c : Prop} [Decidable c] (ht : Keeps s t) (hu : Keeps s u) : Keeps s (if c then t else u) := by
  split <;> assumption

theorem foldl1_keeps {α β : Type} {f : State × β → α → State × β} {l : List α} {s : State} {p : State × β} (h : Keeps s p.1)
    (hf : ∀ p a, Keeps p.1 (f p a).1) : Keeps s (l.foldl f p).1 := by
  induction l generalizing p with
  | nil => exact h
  | cons a l ih => exact ih (h.trans (hf p a))

end Sys2Proof.Machine
end

