-- ==== Sys2Proof/Laws/KeepsOps1.lean ====
section
/-! SUPPORT. Every shared operation keeps the queue, the stitch number and canonical memories: one lemma per operation (part 1 of 4). -/

namespace Sys2Proof.Machine

theorem BankSt.copied_ok {x : BankSt} (h : bankOk x) :
    Tab.wf x.unlisted x.copied.1 = true ∧ Tab.wf (fun _ => false) x.copied.2 = true := by
  unfold BankSt.copied
  exact forEach_induct (P := fun t : Tab W64 × Tab Bool => Tab.wf x.unlisted t.1 = true ∧ Tab.wf (fun _ => false) t.2 = true)
    (fun e t ht => ⟨Tab.set_wf ht.1, Tab.set_wf ht.2⟩) h

theorem State.complete_keeps {z s : State} {c : CmdRef} {st : Status} {data : optParam (List ℕ) []} (hz : Keeps z s) :
    Keeps z (State.complete s c st data) := by
  unfold State.complete
  with_reducible repeat' first | assumption | (simp only [keeps_mk]; refine keeps_fields ?_)

theorem State.setReg_keeps {z s : State} {a : ℕ} {w : W32} (hz : Keeps z s) : Keeps z (State.setReg s a w) := by
  unfold State.setReg
  with_reducible repeat' first | assumption | (simp only [keeps_mk]; refine keeps_fields ?_)

theorem State.wr_keeps {z s : State} {f : Fld} {base : ℕ} {v : ℕ} {i : optParam ℕ 0} {j : optParam ℕ 0} (hz : Keeps z s) :
    Keeps z (State.wr s f base v i j) := by
  unfold State.wr
  with_reducible repeat' first | assumption | refine State.setReg_keeps ?_

theorem State.refuseProg_keeps {z s : State} {key : ℕ} {c : CmdRef} {wm : ℕ} {we : ℕ} {reason : ℕ} (hz : Keeps z s) :
    Keeps z (State.refuseProg s key c wm we reason) := by
  unfold State.refuseProg
  with_reducible repeat' first | assumption | refine State.complete_keeps ?_ | refine State.wr_keeps ?_ | refine ite_keeps ?_ ?_

theorem State.showSum_keeps {z s : State} (hz : Keeps z s) : Keeps z (State.showSum s) := by
  unfold State.showSum
  with_reducible repeat' first | assumption | refine State.wr_keeps ?_

theorem State.admitImage_keeps {z s : State} {d : DispCmd} (hz : Keeps z s) : Keeps z (State.admitImage s d) := by
  unfold State.admitImage
  with_reducible repeat' first
    | assumption | refine State.refuseProg_keeps ?_ | (refine modProcAt_keeps ?_ (fun x h => h)) | refine State.showSum_keeps ?_
    | refine State.wr_keeps ?_ | refine State.complete_keeps ?_ | refine ite_keeps ?_ ?_

theorem State.showFast_keeps {z s : State} (hz : Keeps z s) : Keeps z (State.showFast s) := by
  unfold State.showFast
  with_reducible repeat' first
    | assumption | refine State.wr_keeps ?_ | refine ite_keeps ?_ ?_ | refine forN_keeps ?_ ?_ | exact Keeps.refl _ | dsimp only | split
    | (intro _; try beta_reduce)

theorem State.noteCool_keeps {z s : State} (hz : Keeps z s) : Keeps z (State.noteCool s) := by
  unfold State.noteCool
  with_reducible repeat' first | assumption | (simp only [keeps_mk]; refine keeps_fields ?_)

theorem State.took_keeps {z s : State} (hz : Keeps z s) : Keeps z (State.took s) := by
  unfold State.took
  with_reducible repeat' first | assumption | (simp only [keeps_mk]; refine keeps_fields ?_)

theorem State.event_keeps {z s : State} {e : EvCode} {block : ℕ} {inst : ℕ} {args : optParam (List ℕ) []} {st : optParam Status Status.ok} (hz : Keeps z s) :
    Keeps z (State.event s e block inst args st) := by
  unfold State.event
  with_reducible repeat' first | assumption | (simp only [keeps_mk]; refine keeps_fields ?_) | refine ite_keeps ?_ ?_

theorem State.bump_keeps {z s : State} {f : Fld} {base : ℕ} {n : optParam ℕ 1} {i : optParam ℕ 0} {j : optParam ℕ 0} (hz : Keeps z s) :
    Keeps z (State.bump s f base n i j) := by
  unfold State.bump
  with_reducible repeat' first | assumption | refine State.wr_keeps ?_

theorem State.modSeam_keeps {z s : State} {n : ℕ} {f : SeamSt → SeamSt} (hz : Keeps z s) : Keeps z (State.modSeam s n f) := by
  unfold State.modSeam
  with_reducible repeat' first | assumption | (simp only [keeps_mk]; refine keeps_fields ?_)

theorem State.switchRoutes_keeps {z s : State} {n : ℕ} (hz : Keeps z s) : Keeps z (State.switchRoutes s n) := by
  unfold State.switchRoutes
  with_reducible repeat' first
    | assumption | refine State.wr_keeps ?_ | refine ite_keeps ?_ ?_ | refine forN_keeps ?_ ?_ | exact Keeps.refl _ | dsimp only | split
    | (intro _; try beta_reduce)

theorem State.sendMsg_keeps {z s : State} {d : ℕ} {m : Msg} (hz : Keeps z s) : Keeps z (State.sendMsg s d m) := by
  unfold State.sendMsg
  with_reducible repeat' first | assumption | refine State.modSeam_keeps ?_ | refine ite_keeps ?_ ?_ | dsimp only | split

theorem State.tellRoutes_keeps {z s : State} {x : ℕ} (hz : Keeps z s) : Keeps z (State.tellRoutes s x) := by
  unfold State.tellRoutes
  with_reducible repeat' first
    | assumption | refine State.sendMsg_keeps ?_ | refine ite_keeps ?_ ?_ | refine forN_keeps ?_ ?_ | exact Keeps.refl _ | dsimp only
    | split | (intro _; try beta_reduce)

theorem State.setRoute_keeps {z s : State} {d : ℕ} {r : Route} (hz : Keeps z s) : Keeps z (State.setRoute s d r) := by
  unfold State.setRoute
  with_reducible repeat' first | assumption | refine State.wr_keeps ?_

theorem State.setWide_keeps {z s : State} {wide : Bool} (hz : Keeps z s) : Keeps z (State.setWide s wide) := by
  unfold State.setWide
  with_reducible repeat' first | assumption | refine State.wr_keeps ?_ | refine ite_keeps ?_ ?_

theorem State.ownRoutes_keeps {z s : State} (hz : Keeps z s) : Keeps z (State.ownRoutes s) := by
  unfold State.ownRoutes
  with_reducible repeat' first
    | assumption | refine State.wr_keeps ?_ | refine State.setRoute_keeps ?_ | refine State.setWide_keeps ?_ | refine ite_keeps ?_ ?_
    | refine forN_keeps ?_ ?_ | exact Keeps.refl _ | dsimp only | split | (intro _; try beta_reduce)

theorem State.headRoutes_keeps {z s : State} (hz : Keeps z s) : Keeps z (State.headRoutes s) := by
  unfold State.headRoutes
  with_reducible repeat' first
    | assumption | refine State.tellRoutes_keeps ?_ | refine State.ownRoutes_keeps ?_ | refine ite_keeps ?_ ?_ | refine forN_keeps ?_ ?_
    | exact Keeps.refl _ | dsimp only | split | (intro _; try beta_reduce)

theorem State.reportSeam_keeps {z s : State} {n : ℕ} {up : Bool} (hz : Keeps z s) : Keeps z (State.reportSeam s n up) := by
  unfold State.reportSeam
  with_reducible repeat' first | assumption | refine State.sendMsg_keeps ?_ | refine ite_keeps ?_ ?_

theorem State.showSystem_keeps {z s : State} (hz : Keeps z s) : Keeps z (State.showSystem s) := by
  unfold State.showSystem
  with_reducible repeat' first | assumption | refine State.wr_keeps ?_ | refine ite_keeps ?_ ?_

theorem State.seamDown_keeps {z s : State} {n : ℕ} {cause : ℕ} (hz : Keeps z s) : Keeps z (State.seamDown s n cause) := by
  unfold State.seamDown
  with_reducible repeat' first
    | assumption | (simp only [keeps_mk]; refine keeps_fields ?_) | refine State.modSeam_keeps ?_ | refine State.bump_keeps ?_
    | refine State.wr_keeps ?_ | refine State.switchRoutes_keeps ?_ | refine State.headRoutes_keeps ?_ | refine State.reportSeam_keeps ?_
    | refine State.showSystem_keeps ?_ | refine ite_keeps ?_ ?_

theorem State.resetRegs_keeps {z s : State} {p : ℕ → Bool} (hz : Keeps z s) : Keeps z (State.resetRegs s p) := by
  unfold State.resetRegs
  with_reducible repeat' first | assumption | (simp only [keeps_mk]; refine keeps_fields ?_)

theorem State.cutBurn_keeps {z s : State} (hz : Keeps z s) : Keeps z (State.cutBurn s) := by
  unfold State.cutBurn
  with_reducible repeat' first
    | assumption | (simp only [keeps_mk]; refine keeps_fields ?_) | refine State.took_keeps ?_ | refine ite_keeps ?_ ?_ | dsimp only
    | split

theorem State.showSlots_keeps {z s : State} (hz : Keeps z s) : Keeps z (State.showSlots s) := by
  unfold State.showSlots
  with_reducible repeat' first
    | assumption | refine State.wr_keeps ?_ | refine ite_keeps ?_ ?_ | refine forN_keeps ?_ ?_ | exact Keeps.refl _ | dsimp only | split
    | (intro _; try beta_reduce)

theorem State.showCopies_keeps {z s : State} (hz : Keeps z s) : Keeps z (State.showCopies s) := by
  unfold State.showCopies
  with_reducible repeat' first | assumption | refine State.wr_keeps ?_

theorem State.dropCopies_keeps {z s : State} {l : List ℕ} (hz : Keeps z s) : Keeps z (State.dropCopies s l) := by
  unfold State.dropCopies
  with_reducible repeat' first | assumption | (simp only [keeps_mk]; refine keeps_fields ?_) | refine State.showCopies_keeps ?_

theorem State.loseUpper_keeps {z s : State} (hz : Keeps z s) : Keeps z s.loseUpper := by
  unfold State.loseUpper
  dsimp only
  refine State.showSlots_keeps (State.dropCopies_keeps ?_)
  simp only [keeps_mk]
  exact keepsF_of (State.resetRegs_keeps (State.cutBurn_keeps hz)) (fun _ e he => nomatch he) (fun _ e he => nomatch he)
    (fun m e he => m.2.2.2 e (List.mem_of_mem_filter he))

theorem State.stopStack_keeps {z s : State} {cause : ℕ} {layer : ℕ} {peak : ℕ} (hz : Keeps z s) : Keeps z (State.stopStack s cause layer peak) := by
  unfold State.stopStack
  with_reducible repeat' first
    | assumption | (simp only [keeps_mk]; refine keeps_fields ?_) | refine State.wr_keeps ?_ | refine State.bump_keeps ?_
    | refine State.complete_keeps ?_ | refine State.seamDown_keeps ?_ | refine State.loseUpper_keeps ?_ | refine ite_keeps ?_ ?_
    | refine forEach_keeps ?_ ?_ | refine forN_keeps ?_ ?_ | exact Keeps.refl _ | dsimp only | split | (intro _; try beta_reduce)

theorem State.sampleLayer_keeps {z s : State} {r : HeatRound} {slow : Bool} {k : ℕ} (hz : Keeps z s) : Keeps z (State.sampleLayer s r slow k) := by
  unfold State.sampleLayer
  with_reducible repeat' first
    | assumption | (simp only [keeps_mk]; refine keeps_fields ?_) | refine State.wr_keeps ?_ | refine State.took_keeps ?_
    | refine State.event_keeps ?_ | refine State.stopStack_keeps ?_ | refine ite_keeps ?_ ?_

theorem State.tick_keeps {z s : State} {off : ℕ} (hz : Keeps z s) : Keeps z (State.tick s off) := by
  unfold State.tick
  with_reducible repeat' first | assumption | (simp only [keeps_mk]; refine keeps_fields ?_)

theorem State.setGate_keeps {z s : State} {g : ℕ} {v : Bool} (hz : Keeps z s) : Keeps z (State.setGate s g v) := by
  unfold State.setGate
  with_reducible repeat' first | assumption | refine State.wr_keeps ?_

theorem State.openChain_keeps {z s : State} {fuel g : Nat} (hz : Keeps z s) : Keeps z (s.openChain fuel g) := by
  induction fuel generalizing s g with
  | zero => exact hz
  | succ n ih =>
    simp only [State.openChain]
    with_reducible repeat' first
      | assumption | (simp only [keeps_mk]; refine keeps_fields ?_) | refine State.setGate_keeps ?_ | refine ih ?_ | refine ite_keeps ?_ ?_ | split

theorem State.need_keeps {z s : State} {gs : List ℕ} (hz : Keeps z s) : Keeps z (State.need s gs) := by
  unfold State.need
  with_reducible repeat' first
    | assumption | refine State.openChain_keeps ?_ | refine ite_keeps ?_ ?_ | refine forEach_keeps ?_ ?_ | exact Keeps.refl _ | dsimp only
    | split | (intro _; try beta_reduce)

theorem State.modRib_keeps {z s : State} {r : ℕ} {f : RibSt → RibSt} (hz : Keeps z s) : Keeps z (State.modRib s r f) := by
  unfold State.modRib
  with_reducible repeat' first | assumption | (simp only [keeps_mk]; refine keeps_fields ?_)

theorem State.requestMove_keeps {z s : State} {r : ℕ} {fault : Bool} (hz : Keeps z s) : Keeps z (State.requestMove s r fault) := by
  unfold State.requestMove
  with_reducible repeat' first | assumption | refine State.modRib_keeps ?_

theorem State.showPositions_keeps {z s : State} (hz : Keeps z s) : Keeps z (State.showPositions s) := by
  unfold State.showPositions
  with_reducible repeat' first | assumption | refine State.wr_keeps ?_

theorem State.setPos_keeps {z s : State} {p : ℕ} {st : ℕ} (hz : Keeps z s) : Keeps z (State.setPos s p st) := by
  unfold State.setPos
  with_reducible repeat' first | assumption | refine State.showPositions_keeps ?_ | refine State.wr_keeps ?_

theorem State.completeOpt_keeps {z s : State} {c : Option CmdRef} {st : Status} {data : optParam (List ℕ) []} (hz : Keeps z s) :
    Keeps z (State.completeOpt s c st data) := by
  unfold State.completeOpt
  with_reducible repeat' first | assumption | refine State.complete_keeps ?_ | refine ite_keeps ?_ ?_ | dsimp only | split

theorem State.abandonPrep_keeps {z s : State} (hz : Keeps z s) : Keeps z (State.abandonPrep s) := by
  unfold State.abandonPrep
  with_reducible repeat' first
    | assumption | (simp only [keeps_mk]; refine keeps_fields ?_) | refine State.wr_keeps ?_ | refine State.setPos_keeps ?_
    | refine State.bump_keeps ?_ | refine State.completeOpt_keeps ?_ | refine ite_keeps ?_ ?_ | dsimp only | split

theorem State.showQueued_keeps {z s : State} (hz : Keeps z s) : Keeps z (State.showQueued s) := by
  unfold State.showQueued
  with_reducible repeat' first | assumption | refine State.wr_keeps ?_

theorem State.requestHandover_keeps {z s : State} {r : HoReq} (hz : Keeps z s) : Keeps z (State.requestHandover s r) := by
  unfold State.requestHandover
  with_reducible repeat' first
    | assumption | (simp only [keeps_mk]; refine keeps_fields ?_) | refine State.abandonPrep_keeps ?_ | refine State.showQueued_keeps ?_
    | refine ite_keeps ?_ ?_

theorem State.setCap_keeps {z s : State} {k : ℕ} {x : CapSt} (hz : Keeps z s) : Keeps z (State.setCap s k x) := by
  unfold State.setCap
  with_reducible repeat' first | assumption | (simp only [keeps_mk]; refine keeps_fields ?_)

theorem State.modCap_keeps {z s : State} {k : ℕ} {f : CapSt → CapSt} (hz : Keeps z s) : Keeps z (State.modCap s k f) := by
  unfold State.modCap
  with_reducible repeat' first | assumption | refine State.setCap_keeps ?_

theorem State.showCap_keeps {z s : State} {k : ℕ} (hz : Keeps z s) : Keeps z (State.showCap s k) := by
  unfold State.showCap
  with_reducible repeat' first | assumption | refine State.took_keeps ?_ | refine State.wr_keeps ?_ | refine ite_keeps ?_ ?_

theorem State.liveBump_keeps {z s : State} {f : Fld} {base : ℕ} {n : optParam ℕ 1} {i : optParam ℕ 0} (hz : Keeps z s) :
    Keeps z (State.liveBump s f base n i) := by
  unfold State.liveBump
  with_reducible repeat' first | assumption | (simp only [keeps_mk]; refine keeps_fields ?_)

theorem State.modChan_keeps {z s : State} {ch : ℕ} {f : ChanSt → ChanSt} (hz : Keeps z s) : Keeps z (State.modChan s ch f) := by
  unfold State.modChan
  with_reducible repeat' first | assumption | (simp only [keeps_mk]; refine keeps_fields ?_)

theorem State.segPhase_keeps {z s : State} {k : ℕ} {seg : ℕ} {from_ : ℕ} (hz : Keeps z s) : Keeps z (State.segPhase s k seg from_) := by
  unfold State.segPhase
  with_reducible repeat' first
    | assumption | refine State.modChan_keeps ?_ | refine ite_keeps ?_ ?_ | refine forEach_keeps ?_ ?_ | exact Keeps.refl _ | dsimp only
    | split | (intro _; try beta_reduce)

theorem State.endWaits_keeps {z s : State} {line : ℕ} (hz : Keeps z s) : Keeps z (State.endWaits s line) := by
  unfold State.endWaits
  with_reducible repeat' first
    | assumption | (refine modProcAt_keeps ?_ (fun x h => h)) | refine ite_keeps ?_ ?_ | refine forN_keeps ?_ ?_ | exact Keeps.refl _
    | dsimp only | split | (intro _; try beta_reduce)

theorem State.noteRaise_keeps {z s : State} {line : ℕ} {r : Raise} (hz : Keeps z s) : Keeps z (State.noteRaise s line r) := by
  unfold State.noteRaise
  with_reducible repeat' first | assumption | (simp only [keeps_mk]; refine keeps_fields ?_)

theorem State.flood_keeps {z s : State} {e : TrigEntry} (hz : Keeps z s) : Keeps z (State.flood s e) := by
  unfold State.flood
  with_reducible repeat' first
    | assumption | refine State.modSeam_keeps ?_ | refine ite_keeps ?_ ?_ | refine forEach_keeps ?_ ?_ | exact Keeps.refl _ | dsimp only
    | split | (intro _; try beta_reduce)

theorem State.noteSystem_keeps {z s : State} {line : ℕ} {origin : ℕ} {due : W64} {r : Raise} (hz : Keeps z s) :
    Keeps z (State.noteSystem s line origin due r) := by
  unfold State.noteSystem
  with_reducible repeat' first | assumption | (simp only [keeps_mk]; refine keeps_fields ?_)

theorem State.raiseAs_keeps {z s : State} {cls : ℕ} {line : ℕ} {r : Raise} (hz : Keeps z s) : Keeps z (State.raiseAs s cls line r) := by
  unfold State.raiseAs
  with_reducible repeat' first
    | assumption | refine State.endWaits_keeps ?_ | refine State.noteRaise_keeps ?_ | refine State.flood_keeps ?_
    | refine State.noteSystem_keeps ?_ | refine ite_keeps ?_ ?_

theorem State.raiseLine_keeps {z s : State} {cls : ℕ} {line : ℕ} (hz : Keeps z s) : Keeps z (State.raiseLine s cls line) := by
  unfold State.raiseLine
  with_reducible repeat' first | assumption | refine State.raiseAs_keeps ?_

theorem State.closeLine_keeps {z s : State} {k : ℕ} (hz : Keeps z s) : Keeps z (State.closeLine s k) := by
  unfold State.closeLine
  with_reducible repeat' first | assumption | refine State.raiseLine_keeps ?_ | refine ite_keeps ?_ ?_

theorem State.segEntry_keeps {z s : State} {k : ℕ} {c : SegClose} (hz : Keeps z s) : Keeps z (State.segEntry s k c).1 := by
  unfold State.segEntry
  with_reducible repeat' first | assumption | refine State.took_keeps ?_ | refine ite_keeps ?_ ?_

theorem State.setMeta_keeps {z s : State} {k : ℕ} {line : ℕ} {m : LineMeta} (hz : Keeps z s) : Keeps z (State.setMeta s k line m) := by
  unfold State.setMeta
  with_reducible repeat' first | assumption | (refine setBolt_keeps ?_ (fun m => ?hp); case hp => exact boltAt_ok m _)

theorem State.showRekey_keeps {z s : State} {k : ℕ} (hz : Keeps z s) : Keeps z (State.showRekey s k) := by
  unfold State.showRekey
  with_reducible repeat' first | assumption | refine State.wr_keeps ?_ | refine ite_keeps ?_ ?_ | dsimp only | split

theorem State.bumpLine_keeps {z s t : State} {k : ℕ} {line : ℕ} {poison : Bool} (h : Keeps z s) (e : State.bumpLine s k line poison = some t) :
    Keeps z t := by
  unfold State.bumpLine at e
  dsimp only at e
  split at e
  · cases e; exact State.setMeta_keeps h
  · split at e
    · split at e
      · cases e
      · cases e
        exact State.showRekey_keeps (setBolt_keeps (State.setMeta_keeps (State.wr_keeps (State.wr_keeps (State.wr_keeps h)))) (fun m => boltAt_ok m k))
    · cases e; exact State.wr_keeps (State.setMeta_keeps h)

theorem State.aerNote_keeps {z s : State} {e : AerErr} (hz : Keeps z s) : Keeps z (State.aerNote s e) := by
  unfold State.aerNote
  with_reducible repeat' first | assumption | (simp only [keeps_mk]; refine keeps_fields ?_)

theorem State.showRefout_keeps {z s : State} {n : ℕ} (hz : Keeps z s) : Keeps z (State.showRefout s n) := by
  unfold State.showRefout
  with_reducible repeat' first | assumption | refine State.wr_keeps ?_

theorem State.enterHalt_keeps {z s : State} {cause : ℕ} {source : ℕ} {line : ℕ} (hz : Keeps z s) : Keeps z (State.enterHalt s cause source line) := by
  unfold State.enterHalt
  with_reducible repeat' first
    | assumption | (simp only [keeps_mk]; refine keeps_fields ?_) | refine State.wr_keeps ?_ | refine State.aerNote_keeps ?_
    | refine State.showRefout_keeps ?_ | refine State.complete_keeps ?_ | refine ite_keeps ?_ ?_ | refine forEach_keeps ?_ ?_
    | refine forN_keeps ?_ ?_ | exact Keeps.refl _ | dsimp only | split | (intro _; try beta_reduce)

theorem State.putLine_keeps {z s : State} {k : ℕ} {line : ℕ} {data : List Sys2Proof.Byte} {poison : Bool} (h : Keeps z s) :
    Keeps z (State.putLine s k line data poison) := by
  unfold State.putLine
  split
  · exact State.enterHalt_keeps h
  · exact setBolt_keeps (State.bumpLine_keeps h (by assumption)) (fun m => putBolt_ok (boltAt_ok m k))

theorem State.poisonLine_keeps {z s : State} {k : ℕ} {line : ℕ} (hz : Keeps z s) : Keeps z (State.poisonLine s k line) := by
  unfold State.poisonLine
  with_reducible repeat' first | assumption | refine State.putLine_keeps ?_

theorem State.noteErr_keeps {z s : State} {u : MemUnit} {addr : ℕ} {unc : Bool} (hz : Keeps z s) : Keeps z (State.noteErr s u addr unc) := by
  unfold State.noteErr
  with_reducible repeat' first | assumption | refine State.wr_keeps ?_ | refine ite_keeps ?_ ?_ | dsimp only | split

theorem State.bumpUncorr_keeps {z s : State} {u : MemUnit} (hz : Keeps z s) : Keeps z (State.bumpUncorr s u) := by
  unfold State.bumpUncorr
  with_reducible repeat' first | assumption | refine State.bump_keeps ?_ | refine ite_keeps ?_ ?_ | dsimp only | split

theorem State.countUncorr_keeps {z s : State} {u : MemUnit} {addr : ℕ} (hz : Keeps z s) : Keeps z (State.countUncorr s u addr) := by
  unfold State.countUncorr
  with_reducible repeat' first
    | assumption | refine State.event_keeps ?_ | refine State.noteErr_keeps ?_ | refine State.bumpUncorr_keeps ?_

theorem State.setLevel_keeps {z s : State} {u : MemUnit} {v : ℕ} (hz : Keeps z s) : Keeps z (State.setLevel s u v) := by
  unfold State.setLevel
  with_reducible repeat' first | assumption | refine State.wr_keeps ?_ | refine ite_keeps ?_ ?_ | dsimp only | split

theorem State.setOvf_keeps {z s : State} {u : MemUnit} (hz : Keeps z s) : Keeps z (State.setOvf s u) := by
  unfold State.setOvf
  with_reducible repeat' first | assumption | refine State.wr_keeps ?_ | refine ite_keeps ?_ ?_ | dsimp only | split

theorem State.bucketAdd_keeps {z s : State} {u : MemUnit} (hz : Keeps z s) : Keeps z (State.bucketAdd s u) := by
  unfold State.bucketAdd
  with_reducible repeat' first
    | assumption | refine State.setLevel_keeps ?_ | refine State.setOvf_keeps ?_ | refine State.event_keeps ?_ | refine ite_keeps ?_ ?_

theorem State.bumpCorr_keeps {z s : State} {u : MemUnit} (hz : Keeps z s) : Keeps z (State.bumpCorr s u) := by
  unfold State.bumpCorr
  with_reducible repeat' first | assumption | refine State.bump_keeps ?_ | refine ite_keeps ?_ ?_ | dsimp only | split

theorem State.setTrack_keeps {z s : State} {u : MemUnit} {t : List TrackEnt} (hz : Keeps z s) : Keeps z (State.setTrack s u t) := by
  unfold State.setTrack
  with_reducible repeat' first
    | assumption | (refine setBank_keeps ?_ (fun m => ?hp); case hp => exact ⟨(bankAt_ok m _ _).1, (bankAt_ok m _ _).2⟩)
    | (refine setBolt_keeps ?_ (fun m => ?hp); case hp => exact boltAt_ok m _) | refine ite_keeps ?_ ?_ | dsimp only | split

theorem State.setRows_keeps {z s : State} {u : MemUnit} {r : RowFix} (hz : Keeps z s) : Keeps z (State.setRows s u r) := by
  unfold State.setRows
  with_reducible repeat' first
    | assumption | (refine setBank_keeps ?_ (fun m => ?hp); case hp => exact ⟨(bankAt_ok m _ _).1, (bankAt_ok m _ _).2⟩)
    | (refine setBolt_keeps ?_ (fun m => ?hp); case hp => exact boltAt_ok m _) | refine ite_keeps ?_ ?_ | dsimp only | split

theorem State.faultPosition_keeps {z s : State} {p : ℕ} (hz : Keeps z s) : Keeps z (State.faultPosition s p) := by
  unfold State.faultPosition
  with_reducible repeat' first | assumption | refine State.requestHandover_keeps ?_ | refine ite_keeps ?_ ?_ | dsimp only | split

theorem State.hardFault_keeps {z s : State} {u : MemUnit} {addr : ℕ} (hz : Keeps z s) : Keeps z (State.hardFault s u addr) := by
  unfold State.hardFault
  with_reducible repeat' first
    | assumption | refine State.setRows_keeps ?_ | refine State.event_keeps ?_ | refine State.faultPosition_keeps ?_
    | refine ite_keeps ?_ ?_ | dsimp only | split

theorem State.countCorr_keeps {z s : State} {u : MemUnit} {addr : ℕ} (hz : Keeps z s) : Keeps z (State.countCorr s u addr) := by
  unfold State.countCorr
  with_reducible repeat' first
    | assumption | refine State.bucketAdd_keeps ?_ | refine State.noteErr_keeps ?_ | refine State.bumpCorr_keeps ?_
    | refine State.setTrack_keeps ?_ | refine State.hardFault_keeps ?_ | refine ite_keeps ?_ ?_

theorem State.boltRead_keeps {z s : State} {k : ℕ} {line : ℕ} {seen : Ecc} (hz : Keeps z s) : Keeps z (State.boltRead s k line seen).1 := by
  unfold State.boltRead
  with_reducible repeat' first
    | assumption | (simp only [keeps_mk]; refine keeps_fields ?_) | refine State.poisonLine_keeps ?_ | refine State.countUncorr_keeps ?_
    | refine State.enterHalt_keeps ?_ | refine State.putLine_keeps ?_ | refine State.countCorr_keeps ?_ | refine ite_keeps ?_ ?_
    | dsimp only | split

theorem State.bumpWrPoison_keeps {z s : State} {u : MemUnit} (hz : Keeps z s) : Keeps z (State.bumpWrPoison s u) := by
  unfold State.bumpWrPoison
  with_reducible repeat' first | assumption | refine State.bump_keeps ?_ | refine ite_keeps ?_ ?_ | dsimp only | split

theorem State.boltWrite_keeps {z s : State} {k line : ℕ} {data : List Sys2Proof.Byte} {mask : List Bool} {seen : Sys2Proof.Ecc} (h : Keeps z s) :
    Keeps z (s.boltWrite k line data mask seen).1 := by
  have hd := State.boltRead_keeps (k := k) (line := line) (seen := seen) h
  unfold State.boltWrite
  split
  · exact State.putLine_keeps h
  · split
    · rename_i e; rw [e] at hd; exact hd
    · rename_i e; rw [e] at hd; exact State.bumpWrPoison_keeps hd
    · rename_i e; rw [e] at hd; exact State.putLine_keeps hd

theorem State.boltPut_keeps {z s : State} {k a : ℕ} {bytes : List Sys2Proof.Byte} (h : Keeps z s) : Keeps z (s.boltPut k a bytes).1 := by
  unfold State.boltPut
  dsimp only
  split
  · exact h
  · refine foldl1_keeps h (fun p i => ?_)
    split
    · rename_i e
      exact (congrArg Prod.fst e) ▸ State.boltWrite_keeps (Keeps.refl p.1)
    · rename_i e
      exact (congrArg Prod.fst e) ▸ State.boltWrite_keeps (Keeps.refl p.1)

theorem State.putSegEntry_keeps {z s : State} {k : ℕ} {c : SegClose} (hz : Keeps z s) : Keeps z (State.putSegEntry s k c) := by
  unfold State.putSegEntry
  with_reducible repeat' first | assumption | refine State.segEntry_keeps ?_ | refine State.boltPut_keeps ?_

theorem State.flushCloses_keeps {z s : State} {k : ℕ} (hz : Keeps z s) : Keeps z (State.flushCloses s k) := by
  unfold State.flushCloses
  with_reducible repeat' first
    | assumption | refine State.modCap_keeps ?_ | refine State.putSegEntry_keeps ?_ | refine ite_keeps ?_ ?_ | refine forEach_keeps ?_ ?_
    | exact Keeps.refl _ | dsimp only | split | (intro _; try beta_reduce)

theorem State.openSeg_keeps {z s : State} {k : ℕ} {seg : ℕ} (hz : Keeps z s) : Keeps z (State.openSeg s k seg) := by
  unfold State.openSeg
  with_reducible repeat' first | assumption | refine State.wr_keeps ?_ | refine State.segPhase_keeps ?_ | refine State.modCap_keeps ?_

theorem State.cutChunk_keeps {z s : State} {k : ℕ} {slot : ℕ} {l : ℕ} (hz : Keeps z s) : Keeps z (State.cutChunk s k slot l) := by
  unfold State.cutChunk
  with_reducible repeat' first | assumption | refine State.modCap_keeps ?_

theorem State.streamCut_keeps {z s : State} {k : ℕ} {slot : ℕ} {l : ℕ} (hz : Keeps z s) : Keeps z (State.streamCut s k slot l) := by
  unfold State.streamCut
  with_reducible repeat' first | assumption | refine State.cutChunk_keeps ?_ | refine ite_keeps ?_ ?_

theorem State.stopCap_keeps {z s : State} {k : ℕ} {reason : ℕ} (hz : Keeps z s) : Keeps z (State.stopCap s k reason) := by
  unfold State.stopCap
  with_reducible repeat' first
    | assumption | refine State.streamCut_keeps ?_ | refine State.wr_keeps ?_ | refine State.modCap_keeps ?_ | refine ite_keeps ?_ ?_
    | refine forN_keeps ?_ ?_ | exact Keeps.refl _ | dsimp only | split | (intro _; try beta_reduce)

theorem State.closeSeg_keeps {z s : State} {k : ℕ} {cause : ℕ} (hz : Keeps z s) : Keeps z (State.closeSeg s k cause) := by
  unfold State.closeSeg
  with_reducible repeat' first
    | assumption | refine State.modCap_keeps ?_ | refine State.segPhase_keeps ?_ | refine State.closeLine_keeps ?_
    | refine State.flushCloses_keeps ?_ | refine State.openSeg_keeps ?_ | refine State.stopCap_keeps ?_ | refine ite_keeps ?_ ?_

theorem State.postDone_keeps {z s : State} {k : ℕ} (hz : Keeps z s) : Keeps z (State.postDone s k) := by
  unfold State.postDone
  with_reducible repeat' first | assumption | refine State.closeSeg_keeps ?_ | refine State.stopCap_keeps ?_ | refine ite_keeps ?_ ?_

theorem State.preGuard_keeps {z s : State} {k : ℕ} (hz : Keeps z s) : Keeps z (State.preGuard s k) := by
  unfold State.preGuard
  with_reducible repeat' first | assumption | refine State.closeSeg_keeps ?_ | refine State.stopCap_keeps ?_ | refine ite_keeps ?_ ?_

theorem State.placeFill_keeps {z s : State} {k : ℕ} (hz : Keeps z s) : Keeps z (State.placeFill s k) := by
  unfold State.placeFill
  with_reducible repeat' first | assumption | refine State.modCap_keeps ?_ | refine State.took_keeps ?_ | refine ite_keeps ?_ ?_

theorem State.wrapSpace_keeps {z s : State} {k : ℕ} (hz : Keeps z s) : Keeps z (State.wrapSpace s k) := by
  unfold State.wrapSpace
  with_reducible repeat' first | assumption | refine State.modCap_keeps ?_

theorem State.findPlace_keeps {z s : State} {k : ℕ} {n : ℕ} (hz : Keeps z s) : Keeps z (State.findPlace s k n).1 := by
  unfold State.findPlace
  with_reducible repeat' first
    | assumption | refine State.preGuard_keeps ?_ | refine State.placeFill_keeps ?_ | refine State.stopCap_keeps ?_
    | refine State.wrapSpace_keeps ?_ | refine ite_keeps ?_ ?_ | dsimp only | split

theorem State.liveAdd64_keeps {z s : State} {lo : ℕ} {hi : ℕ} {n : ℕ} (hz : Keeps z s) : Keeps z (State.liveAdd64 s lo hi n) := by
  unfold State.liveAdd64
  with_reducible repeat' first | assumption | (simp only [keeps_mk]; refine keeps_fields ?_)

theorem State.place_keeps {z s : State} {k : ℕ} {r : RecInfo} (hz : Keeps z s) : Keeps z (State.place s k r) := by
  unfold State.place
  with_reducible repeat' first
    | assumption | refine State.findPlace_keeps ?_ | refine State.modCap_keeps ?_ | refine State.liveAdd64_keeps ?_
    | refine ite_keeps ?_ ?_

theorem State.unBytes_keeps {z s : State} {k : ℕ} {slot : ℕ} {n : ℕ} (hz : Keeps z s) : Keeps z (State.unBytes s k slot n) := by
  unfold State.unBytes
  with_reducible repeat' first | assumption | refine State.liveAdd64_keeps ?_

theorem State.unplace_keeps {z s : State} {k : ℕ} {rs : List CapRec} (hz : Keeps z s) : Keeps z (State.unplace s k rs) := by
  unfold State.unplace
  with_reducible repeat' first
    | assumption | refine State.modCap_keeps ?_ | refine State.unBytes_keeps ?_ | refine ite_keeps ?_ ?_ | refine forEach_keeps ?_ ?_
    | exact Keeps.refl _ | dsimp only | split | (intro _; try beta_reduce)

theorem State.enqueue_keeps {z s0 : State} {k : ℕ} {r : RecInfo} (hz : Keeps z s0) : Keeps z (State.enqueue s0 k r) := by
  unfold State.enqueue
  with_reducible repeat' first
    | assumption | refine State.postDone_keeps ?_ | refine State.modCap_keeps ?_ | refine State.liveBump_keeps ?_
    | refine State.place_keeps ?_ | refine State.unplace_keeps ?_ | refine ite_keeps ?_ ?_ | refine forEach_keeps ?_ ?_
    | exact Keeps.refl _ | dsimp only | split | (intro _; try beta_reduce)

theorem State.settle_keeps {z s : State} {k : ℕ} {u : CapUnit} (hz : Keeps z s) : Keeps z (State.settle s k u) := by
  unfold State.settle
  with_reducible repeat' first
    | assumption | refine State.liveBump_keeps ?_ | refine State.enqueue_keeps ?_ | refine ite_keeps ?_ ?_ | dsimp only | split

theorem State.closeWindows_keeps {z s : State} {k : ℕ} (hz : Keeps z s) : Keeps z (State.closeWindows s k) := by
  unfold State.closeWindows
  with_reducible repeat' first
    | assumption | refine State.modCap_keeps ?_ | refine State.showCap_keeps ?_ | refine State.settle_keeps ?_ | refine ite_keeps ?_ ?_
    | refine forEach_keeps ?_ ?_ | refine forN_keeps ?_ ?_ | exact Keeps.refl _ | dsimp only | split | (intro _; try beta_reduce)

theorem State.joinUnit_keeps {z s : State} {k : ℕ} {slot : ℕ} {b : Beat} {bytes : List Byte} (hz : Keeps z s) :
    Keeps z (State.joinUnit s k slot b bytes) := by
  unfold State.joinUnit
  with_reducible repeat' first | assumption | refine State.modCap_keeps ?_

theorem State.setInFrame_keeps {z s : State} {k : ℕ} {slot : ℕ} {v : Bool} (hz : Keeps z s) : Keeps z (State.setInFrame s k slot v) := by
  unfold State.setInFrame
  with_reducible repeat' first | assumption | refine State.modCap_keeps ?_

theorem State.endUnit_keeps {z s : State} {k : ℕ} {slot : ℕ} (hz : Keeps z s) : Keeps z (State.endUnit s k slot) := by
  unfold State.endUnit
  with_reducible repeat' first
    | assumption | refine State.modCap_keeps ?_ | refine State.settle_keeps ?_ | refine ite_keeps ?_ ?_ | dsimp only | split

theorem State.setFab_keeps {z s : State} {k : ℕ} {x : FabSt} (hz : Keeps z s) : Keeps z (State.setFab s k x) := by
  unfold State.setFab
  with_reducible repeat' first | assumption | (simp only [keeps_mk]; refine keeps_fields ?_)

theorem State.markSou_keeps {z s : State} {k : ℕ} {slot : ℕ} (hz : Keeps z s) : Keeps z (State.markSou s k slot) := by
  unfold State.markSou
  with_reducible repeat' first | assumption | refine State.setFab_keeps ?_ | refine ite_keeps ?_ ?_ | dsimp only | split

theorem State.newUnit_keeps {z s : State} {k : ℕ} {slot : ℕ} {b : Beat} {kind : ℕ} {bytes : List Byte} {os : Bool} {cont : Bool} (hz : Keeps z s) :
    Keeps z (State.newUnit s k slot b kind bytes os cont) := by
  unfold State.newUnit
  with_reducible repeat' first | assumption | refine State.modCap_keeps ?_ | refine State.markSou_keeps ?_ | refine ite_keeps ?_ ?_

theorem State.frameOctets_keeps {z s : State} {k : ℕ} {slot : ℕ} {b : Beat} (hz : Keeps z s) : Keeps z (State.frameOctets s k slot b) := by
  unfold State.frameOctets
  with_reducible repeat' first
    | assumption | refine State.joinUnit_keeps ?_ | refine State.setInFrame_keeps ?_ | refine State.endUnit_keeps ?_
    | refine State.newUnit_keeps ?_ | refine ite_keeps ?_ ?_ | dsimp only | split

theorem State.openChan_keeps {z s : State} {d : DispCmd} {x : ChanSt} {dev : ℕ} (hz : Keeps z s) : Keeps z (State.openChan s d x dev) := by
  unfold State.openChan
  with_reducible repeat' first | assumption | (simp only [keeps_mk]; refine keeps_fields ?_) | refine State.wr_keeps ?_

theorem State.showSync_keeps {z s : State} (hz : Keeps z s) : Keeps z (State.showSync s) := by
  unfold State.showSync
  with_reducible repeat' first
    | assumption | (simp only [keeps_mk]; refine keeps_fields ?_) | refine State.wr_keeps ?_ | refine ite_keeps ?_ ?_

theorem State.readyBoundary_keeps {z s : State} (hz : Keeps z s) : Keeps z (State.readyBoundary s) := by
  unfold State.readyBoundary
  with_reducible repeat' first
    | assumption | (simp only [keeps_mk]; refine keeps_fields ?_) | refine State.wr_keeps ?_ | refine State.showSync_keeps ?_
    | refine State.showSystem_keeps ?_ | refine ite_keeps ?_ ?_ | dsimp only | split

theorem State.openTest_keeps {z s : State} {c : CmdRef} {k : ℕ} {forced : Bool} (hz : Keeps z s) : Keeps z (State.openTest s c k forced) := by
  unfold State.openTest
  with_reducible repeat' first | assumption | (simp only [keeps_mk]; refine keeps_fields ?_)

theorem State.setPhase_keeps {z s : State} {c : CmdRef} {ph : Phase} (hz : Keeps z s) : Keeps z (State.setPhase s c ph) := by
  unfold State.setPhase
  with_reducible repeat' first | assumption | (simp only [keeps_mk]; refine keeps_fields ?_)

theorem State.startMarch_keeps {z s : State} {d : DispCmd} {pos : ℕ} {preserve : Bool} {bolt : Bool} {banks : List ℕ} (hz : Keeps z s) :
    Keeps z (State.startMarch s d pos preserve bolt banks) := by
  unfold State.startMarch
  with_reducible repeat' first
    | assumption | (simp only [keeps_mk]; refine keeps_fields ?_) | refine State.complete_keeps ?_ | refine State.openTest_keeps ?_
    | refine State.setPhase_keeps ?_ | refine ite_keeps ?_ ?_

theorem State.arriveRaise_keeps {z s : State} {e : TrigEntry} (hz : Keeps z s) : Keeps z (State.arriveRaise s e) := by
  unfold State.arriveRaise
  with_reducible repeat' first
    | assumption | (simp only [keeps_mk]; refine keeps_fields ?_) | refine State.flood_keeps ?_ | refine State.took_keeps ?_
    | refine State.noteSystem_keeps ?_ | refine State.event_keeps ?_ | refine State.bump_keeps ?_ | refine ite_keeps ?_ ?_

theorem State.dstore_keeps {z s : State} {key : ℕ} {a : ℕ} {n : ℕ} {v : ℕ} (hz : Keeps z s) : Keeps z (State.dstore s key a n v) := by
  unfold State.dstore
  with_reducible repeat' first
    | assumption
    | (refine modProcAt_keeps ?_ (fun x h => ?hp); case hp => first | exact h | (simp only [ProcSt.clearRegs]; exact h) | exact putBytes_ok h | exact storeBytes_ok h)

theorem State.loseContents_keeps {z s : State} {k : Nat} (hz : Keeps z s) : Keeps z (State.loseContents s k) := by
  unfold State.loseContents
  refine setBolt_keeps ?_ (fun _ => rfl)
  simp only [keeps_mk]
  refine keeps_fields (forN_keeps hz fun b s => ?_)
  exact setBank_keeps (Keeps.refl s) (fun _ => ⟨rfl, rfl⟩)

theorem State.holdPatch_keeps {z s : State} {k : ℕ} (hz : Keeps z s) : Keeps z (State.holdPatch s k) := by
  unfold State.holdPatch
  with_reducible repeat' first | assumption | refine State.setFab_keeps ?_ | refine ite_keeps ?_ ?_

theorem State.takePatch_keeps {z s : State} {k : ℕ} (hz : Keeps z s) : Keeps z (State.takePatch s k) := by
  unfold State.takePatch
  with_reducible repeat' first
    | assumption | (simp only [keeps_mk]; refine keeps_fields ?_) | refine State.loseContents_keeps ?_ | refine State.holdPatch_keeps ?_

theorem State.mergeWrite_keeps {z s : State} {a : ℕ} {v : W32} {be : ℕ} (hz : Keeps z s) : Keeps z (State.mergeWrite s a v be) := by
  unfold State.mergeWrite
  with_reducible repeat' first
    | assumption | refine State.setReg_keeps ?_ | refine ite_keeps ?_ ?_ | refine foldl1_keeps ?_ ?_ | exact Keeps.refl _ | dsimp only
    | split

theorem State.modLane_keeps {z s : State} {l : ℕ} {f : LaneSt → LaneSt} (hz : Keeps z s) : Keeps z (State.modLane s l f) := by
  unfold State.modLane
  with_reducible repeat' first | assumption | (simp only [keeps_mk]; refine keeps_fields ?_)

theorem State.writeQuiet_keeps {z s : State} {l : ℕ} {v : W32} {be : ℕ} (hz : Keeps z s) : Keeps z (State.writeQuiet s l v be) := by
  unfold State.writeQuiet
  with_reducible repeat' first | assumption | refine State.mergeWrite_keeps ?_ | refine State.modLane_keeps ?_ | refine ite_keeps ?_ ?_

theorem State.drainBinds_keeps {z s : State} {k : ℕ} (hz : Keeps z s) : Keeps z (State.drainBinds s k) := by
  unfold State.drainBinds
  with_reducible repeat' first | assumption | (simp only [keeps_mk]; refine keeps_fields ?_)

theorem State.advanceIn_keeps {z s : State} {d : DispCmd} {n : ℕ} (hz : Keeps z s) : Keeps z (State.advanceIn s d n) := by
  unfold State.advanceIn
  with_reducible repeat' first | assumption | (simp only [keeps_mk]; refine keeps_fields ?_)

theorem State.earn_keeps {z s : State} {c : CmdRef} {st : Status} (hz : Keeps z s) : Keeps z (State.earn s c st) := by
  unfold State.earn
  with_reducible repeat' first | assumption | (simp only [keeps_mk]; refine keeps_fields ?_)

theorem State.markBit_keeps {z s : State} {k : ℕ} {a : ℕ} {bitNo : ℕ} (hz : Keeps z s) : Keeps z (State.markBit s k a bitNo) := by
  unfold State.markBit
  with_reducible repeat' first | assumption | refine State.boltPut_keeps ?_

theorem State.damagePage_keeps {z s : State} {k : ℕ} {h : HeldRec} (hz : Keeps z s) : Keeps z (State.damagePage s k h) := by
  unfold State.damagePage
  with_reducible repeat' first
    | assumption | refine State.modCap_keeps ?_ | refine State.markBit_keeps ?_ | refine ite_keeps ?_ ?_ | dsimp only | split

theorem State.damageSeg_keeps {z s : State} {k : ℕ} {h : HeldRec} (hz : Keeps z s) : Keeps z (State.damageSeg s k h) := by
  unfold State.damageSeg
  with_reducible repeat' first | assumption | refine State.modCap_keeps ?_ | refine State.markBit_keeps ?_ | refine ite_keeps ?_ ?_

theorem State.markDamage_keeps {z s : State} {k : ℕ} {line : ℕ} (hz : Keeps z s) : Keeps z (State.markDamage s k line) := by
  unfold State.markDamage
  with_reducible repeat' first
    | assumption | refine State.modCap_keeps ?_ | refine State.damagePage_keeps ?_ | refine State.damageSeg_keeps ?_
    | refine State.markBit_keeps ?_ | refine ite_keeps ?_ ?_ | dsimp only | split

theorem State.dmaErr_keeps {z s : State} {c : CmdRef} (hz : Keeps z s) : Keeps z (State.dmaErr s c) := by
  unfold State.dmaErr
  with_reducible repeat' first | assumption | refine State.aerNote_keeps ?_ | refine State.bump_keeps ?_ | refine ite_keeps ?_ ?_

theorem State.boltInRead_keeps {z s : State} {d : DispCmd} {data : Option (List Byte)} (hz : Keeps z s) : Keeps z (State.boltInRead s d data) := by
  unfold State.boltInRead
  with_reducible repeat' first
    | assumption | refine State.boltPut_keeps ?_ | refine State.advanceIn_keeps ?_ | refine State.earn_keeps ?_
    | refine State.markDamage_keeps ?_ | refine State.dmaErr_keeps ?_ | refine ite_keeps ?_ ?_ | refine forEach_keeps ?_ ?_
    | exact Keeps.refl _ | dsimp only | split | (intro _; try beta_reduce)

theorem State.restartTx_keeps {z s : State} {l : ℕ} (hz : Keeps z s) : Keeps z (State.restartTx s l) := by
  unfold State.restartTx
  with_reducible repeat' first | assumption | refine State.modLane_keeps ?_

theorem State.setLn_keeps {z s : State} {f : Fld} {l : ℕ} {v : ℕ} (hz : Keeps z s) : Keeps z (State.setLn s f l v) := by
  unfold State.setLn
  with_reducible repeat' first | assumption | refine State.wr_keeps ?_

theorem State.setDown_keeps {z s : State} {l : ℕ} {st : ℕ} (hz : Keeps z s) : Keeps z (State.setDown s l st) := by
  unfold State.setDown
  with_reducible repeat' first | assumption | refine State.setLn_keeps ?_

theorem State.capCut_keeps {z s : State} {k : ℕ} {slot : ℕ} (hz : Keeps z s) : Keeps z (State.capCut s k slot) := by
  unfold State.capCut
  with_reducible repeat' first | assumption | refine State.modCap_keeps ?_ | refine State.showCap_keeps ?_ | refine State.endUnit_keeps ?_

theorem State.setCv_keeps {z s : State} {k : ℕ} {u : ℕ} {x : CvSt} (hz : Keeps z s) : Keeps z (State.setCv s k u x) := by
  unfold State.setCv
  with_reducible repeat' first | assumption | (simp only [keeps_mk]; refine keeps_fields ?_)

theorem State.cvOver_keeps {z s : State} {k : ℕ} {slot : ℕ} {chk : ℕ} (hz : Keeps z s) : Keeps z (State.cvOver s k slot chk) := by
  unfold State.cvOver
  with_reducible repeat' first | assumption | refine State.wr_keeps ?_ | refine State.setCv_keeps ?_

theorem State.cvCut_keeps {z s : State} {k : ℕ} {slot : ℕ} (hz : Keeps z s) : Keeps z (State.cvCut s k slot) := by
  unfold State.cvCut
  with_reducible repeat' first | assumption | refine State.cvOver_keeps ?_ | refine ite_keeps ?_ ?_

theorem State.beginProgram_keeps {z s : State} {key : ℕ} {cycle : ℕ} (hz : Keeps z s) : Keeps z (State.beginProgram s key cycle) := by
  unfold State.beginProgram
  with_reducible repeat' first | assumption | (refine modProcAt_keeps ?_ (fun x h => h))

theorem State.switchBank_keeps {z s : State} {key : ℕ} (hz : Keeps z s) : Keeps z (State.switchBank s key) := by
  unfold State.switchBank
  with_reducible repeat' first
    | assumption | (refine modProcAt_keeps ?_ (fun x h => h)) | refine State.bump_keeps ?_ | refine State.wr_keeps ?_
    | refine State.beginProgram_keeps ?_ | refine ite_keeps ?_ ?_

theorem State.raiseProc_keeps {z s : State} {key : ℕ} {cls : ℕ} {mid : Bool} (hz : Keeps z s) : Keeps z (State.raiseProc s key cls mid) := by
  unfold State.raiseProc
  with_reducible repeat' first | assumption | refine State.wr_keeps ?_ | refine State.switchBank_keeps ?_ | refine ite_keeps ?_ ?_

theorem State.raiseP_keeps {z s : State} {k : ℕ} {cls : ℕ} (hz : Keeps z s) : Keeps z (State.raiseP s k cls) := by
  unfold State.raiseP
  with_reducible repeat' first | assumption | refine State.raiseProc_keeps ?_

theorem State.leaveUp_keeps {z s : State} {l : ℕ} (hz : Keeps z s) : Keeps z (State.leaveUp s l) := by
  unfold State.leaveUp
  with_reducible repeat' first
    | assumption | refine State.capCut_keeps ?_ | refine State.cvCut_keeps ?_ | refine State.modLane_keeps ?_
    | refine State.raiseP_keeps ?_ | refine ite_keeps ?_ ?_ | dsimp only | split

theorem State.leaveStream_keeps {z s : State} {l : ℕ} (hz : Keeps z s) : Keeps z (State.leaveStream s l) := by
  unfold State.leaveStream
  with_reducible repeat' first | assumption | refine State.streamCut_keeps ?_ | refine ite_keeps ?_ ?_ | dsimp only | split

theorem State.laneTo_keeps {z s : State} {l : ℕ} {st : ℕ} (hz : Keeps z s) : Keeps z (State.laneTo s l st) := by
  unfold State.laneTo
  with_reducible repeat' first
    | assumption | refine State.setDown_keeps ?_ | refine State.leaveUp_keeps ?_ | refine State.leaveStream_keeps ?_
    | refine ite_keeps ?_ ?_

theorem State.enterFault_keeps {z s : State} {l : ℕ} {cause : ℕ} (hz : Keeps z s) : Keeps z (State.enterFault s l cause) := by
  unfold State.enterFault
  with_reducible repeat' first
    | assumption | refine State.modLane_keeps ?_ | refine State.restartTx_keeps ?_ | refine State.setLn_keeps ?_
    | refine State.laneTo_keeps ?_ | refine State.event_keeps ?_ | refine State.complete_keeps ?_ | refine ite_keeps ?_ ?_
    | refine forEach_keeps ?_ ?_ | exact Keeps.refl _ | dsimp only | split | (intro _; try beta_reduce)

theorem State.retirePos_keeps {z s : State} {p : ℕ} (hz : Keeps z s) : Keeps z (State.retirePos s p) := by
  unfold State.retirePos
  with_reducible repeat' first
    | assumption | refine State.setPos_keeps ?_ | refine State.wr_keeps ?_ | refine State.event_keeps ?_ | refine ite_keeps ?_ ?_
    | dsimp only | split

theorem State.freeHeld_keeps {z s : State} (hz : Keeps z s) : Keeps z (State.freeHeld s) := by
  unfold State.freeHeld
  with_reducible repeat' first | assumption | (simp only [keeps_mk]; refine keeps_fields ?_)

theorem State.dropAdmission_keeps {z s : State} {key : ℕ} {page : ℕ} (hz : Keeps z s) : Keeps z (State.dropAdmission s key page) := by
  unfold State.dropAdmission
  with_reducible repeat' first | assumption | (refine modProcAt_keeps ?_ (fun x h => h))

theorem State.unloadSlot_keeps {z s : State} {n : ℕ} (hz : Keeps z s) : Keeps z (State.unloadSlot s n) := by
  unfold State.unloadSlot
  with_reducible repeat' first
    | assumption | refine State.showSum_keeps ?_ | refine State.event_keeps ?_ | refine State.dropAdmission_keeps ?_
    | refine State.wr_keeps ?_ | (refine modProcAt_keeps ?_ (fun x h => h)) | refine ite_keeps ?_ ?_

theorem State.showJournal_keeps {z s : State} (hz : Keeps z s) : Keeps z (State.showJournal s) := by
  unfold State.showJournal
  with_reducible repeat' first | assumption | refine State.wr_keeps ?_ | refine State.took_keeps ?_

theorem State.wakeStores_keeps {z s : State} (hz : Keeps z s) : Keeps z (State.wakeStores s) := by
  unfold State.wakeStores
  with_reducible repeat' first
    | assumption | (simp only [keeps_mk]; refine keeps_fields ?_) | refine State.setPhase_keeps ?_ | refine ite_keeps ?_ ?_
    | refine forEach_keeps ?_ ?_ | exact Keeps.refl _ | dsimp only | split | (intro _; try beta_reduce)

theorem State.substitute_keeps {z s : State} {k : ℕ} {e : ℕ} {body : List Byte} (hz : Keeps z s) : Keeps z (State.substitute s k e body).1 := by
  unfold State.substitute
  with_reducible repeat' first | assumption | refine State.wr_keeps ?_ | refine ite_keeps ?_ ?_ | dsimp only | split

theorem State.setLoad_keeps {z s : State} {l : Option LoadSt} (hz : Keeps z s) : Keeps z (State.setLoad s l) := by
  unfold State.setLoad
  with_reducible repeat' first | assumption | (simp only [keeps_mk]; refine keeps_fields ?_)

theorem State.failIdentity_keeps {z s : State} {l : LoadSt} (hz : Keeps z s) : Keeps z (State.failIdentity s l) := by
  unfold State.failIdentity
  with_reducible repeat' first | assumption | refine State.completeOpt_keeps ?_ | refine State.wr_keeps ?_ | refine State.setLoad_keeps ?_

theorem State.takeHeader_keeps {z s : State} {l : LoadSt} {h : StreamHeader} {bytes : ℕ} (hz : Keeps z s) :
    Keeps z (State.takeHeader s l h bytes) := by
  unfold State.takeHeader
  with_reducible repeat' first
    | assumption | (simp only [keeps_mk]; refine keeps_fields ?_) | refine State.need_keeps ?_ | refine State.wr_keeps ?_
    | refine State.setLoad_keeps ?_ | refine State.failIdentity_keeps ?_ | refine ite_keeps ?_ ?_ | dsimp only | split

theorem State.emptyRing_keeps {z s : State} (hz : Keeps z s) : Keeps z (State.emptyRing s) := by
  unfold State.emptyRing
  with_reducible repeat' first | assumption | refine State.wr_keeps ?_

theorem State.writeEvqHi_keeps {z s : State} {v : W32} {be : ℕ} (hz : Keeps z s) : Keeps z (State.writeEvqHi s v be) := by
  unfold State.writeEvqHi
  with_reducible repeat' first | assumption | refine State.emptyRing_keeps ?_ | refine State.mergeWrite_keeps ?_ | refine ite_keeps ?_ ?_

theorem State.loadTap_keeps {z s : State} {code : ℕ} {board : Bool} (hz : Keeps z s) : Keeps z (State.loadTap s code board) := by
  unfold State.loadTap
  with_reducible repeat' first | assumption | (simp only [keeps_mk]; refine keeps_fields ?_)

end Sys2Proof.Machine
end

