-- ==== Sys2Proof/Laws/KeepsOps2.lean ====
section
/-! SUPPORT. Every shared operation keeps the queue, the stitch number and canonical memories: one lemma per operation (part 2 of 4). -/

namespace Sys2Proof.Machine

theorem State.landBind_keeps {z s : State} {b : BindWrite} (hz : Keeps z s) : Keeps z (State.landBind s b) := by
  unfold State.landBind
  with_reducible repeat' first
    | assumption | (simp only [keeps_mk]; refine keeps_fields ?_) | refine State.wr_keeps ?_ | refine ite_keeps ?_ ?_

theorem State.writeLpm_keeps {z s : State} {src : Src} {k : ℕ} {v : W32} {be : ℕ} (hz : Keeps z s) : Keeps z (State.writeLpm s src k v be) := by
  unfold State.writeLpm
  with_reducible repeat' first | assumption | refine State.landBind_keeps ?_ | refine ite_keeps ?_ ?_

theorem State.writeNReq_keeps {z s : State} {v : ℕ} (hz : Keeps z s) : Keeps z (State.writeNReq s v) := by
  unfold State.writeNReq
  with_reducible repeat' first
    | assumption | (simp only [keeps_mk]; refine keeps_fields ?_) | refine State.wr_keeps ?_ | refine ite_keeps ?_ ?_

theorem State.deposit_keeps {z s : State} {r : ℕ} (hz : Keeps z s) : Keeps z (State.deposit s r) := by
  unfold State.deposit
  with_reducible repeat' first
    | assumption | refine State.took_keeps ?_
    | (refine modProcAt_keeps ?_ (fun x h => ?hp); case hp => first | exact h | (simp only [ProcSt.clearRegs]; exact h) | exact putBytes_ok h)
    | refine ite_keeps ?_ ?_ | refine forN_keeps ?_ ?_ | exact Keeps.refl _ | dsimp only | split | (intro _; try beta_reduce)

theorem State.showLines_keeps {z s : State} {k : ℕ} (hz : Keeps z s) : Keeps z (State.showLines s k) := by
  unfold State.showLines
  with_reducible repeat' first | assumption | refine State.wr_keeps ?_

theorem State.lineBoundary_keeps {z s : State} {k : ℕ} (hz : Keeps z s) : Keeps z (State.lineBoundary s k) := by
  unfold State.lineBoundary
  with_reducible repeat' first
    | assumption | refine State.wr_keeps ?_ | refine State.showLines_keeps ?_ | refine State.setFab_keeps ?_ | refine ite_keeps ?_ ?_
    | refine forEach_keeps ?_ ?_ | exact Keeps.refl _ | dsimp only | split | (intro _; try beta_reduce)

theorem State.setG_keeps {z s : State} {key : ℕ} {r : ℕ} {v : W64} (hz : Keeps z s) : Keeps z (State.setG s key r v) := by
  unfold State.setG
  with_reducible repeat' first | assumption | (refine modProcAt_keeps ?_ (fun x h => h)) | refine ite_keeps ?_ ?_

theorem State.showPending_keeps {z s : State} {sp : ℕ} (hz : Keeps z s) : Keeps z (State.showPending s sp) := by
  unfold State.showPending
  with_reducible repeat' first | assumption | refine State.wr_keeps ?_

theorem State.setSlot_keeps {z s : State} {sp : ℕ} {i : ℕ} {x : SlotSt} (hz : Keeps z s) : Keeps z (State.setSlot s sp i x) := by
  unfold State.setSlot
  with_reducible repeat' first | assumption | (simp only [keeps_mk]; refine keeps_fields ?_)

theorem State.vector_keeps {z s : State} {v : ℕ} (hz : Keeps z s) : Keeps z (State.vector s v) := by
  unfold State.vector
  with_reducible repeat' first | assumption | (simp only [keeps_mk]; refine keeps_fields ?_) | refine ite_keeps ?_ ?_

theorem State.ready_keeps {z s : State} {d : DoneCmd} (hz : Keeps z s) : Keeps z (State.ready s d) := by
  unfold State.ready
  with_reducible repeat' first
    | assumption | (simp only [keeps_mk]; refine keeps_fields ?_) | refine State.sendMsg_keeps ?_ | refine State.showPending_keeps ?_
    | refine State.setSlot_keeps ?_ | refine State.vector_keeps ?_ | refine ite_keeps ?_ ?_

theorem State.stampEdge_keeps {z s : State} (hz : Keeps z s) : Keeps z (State.stampEdge s) := by
  unfold State.stampEdge
  with_reducible repeat' first | assumption | (simp only [keeps_mk]; refine keeps_fields ?_)

theorem State.showEdge_keeps {z s : State} (hz : Keeps z s) : Keeps z (State.showEdge s) := by
  unfold State.showEdge
  with_reducible repeat' first | assumption | refine State.wr_keeps ?_

theorem State.expectEdge_keeps {z s : State} {e : ℕ} (hz : Keeps z s) : Keeps z (State.expectEdge s e) := by
  unfold State.expectEdge
  with_reducible repeat' first | assumption | (simp only [keeps_mk]; refine keeps_fields ?_)

theorem State.acceptEdge_keeps {z s : State} {t : ℕ} {err : ℤ} (hz : Keeps z s) : Keeps z (State.acceptEdge s t err) := by
  unfold State.acceptEdge
  with_reducible repeat' first
    | assumption | (simp only [keeps_mk]; refine keeps_fields ?_) | refine State.wr_keeps ?_ | refine State.showEdge_keeps ?_
    | refine ite_keeps ?_ ?_

theorem State.showFreq_keeps {z s : State} (hz : Keeps z s) : Keeps z (State.showFreq s) := by
  unfold State.showFreq
  with_reducible repeat' first | assumption | refine State.wr_keeps ?_ | refine State.took_keeps ?_ | refine ite_keeps ?_ ?_

theorem State.steer_keeps {z s : State} {err : ℤ} (hz : Keeps z s) : Keeps z (State.steer s err) := by
  unfold State.steer
  with_reducible repeat' first
    | assumption | (simp only [keeps_mk]; refine keeps_fields ?_) | refine State.showFreq_keeps ?_ | refine State.wr_keeps ?_
    | refine ite_keeps ?_ ?_

theorem State.regularEdge_keeps {z s : State} {t : ℕ} {o : Option ℕ} (hz : Keeps z s) : Keeps z (State.regularEdge s t o) := by
  unfold State.regularEdge
  with_reducible repeat' first
    | assumption | refine State.bump_keeps ?_ | refine State.acceptEdge_keeps ?_ | refine State.expectEdge_keeps ?_
    | refine State.steer_keeps ?_ | refine ite_keeps ?_ ?_ | dsimp only | split

theorem State.judgeEdge_keeps {z s : State} {t : ℕ} (hz : Keeps z s) : Keeps z (State.judgeEdge s t) := by
  unfold State.judgeEdge
  with_reducible repeat' first
    | assumption | refine State.expectEdge_keeps ?_ | refine State.acceptEdge_keeps ?_ | refine State.regularEdge_keeps ?_
    | refine ite_keeps ?_ ?_ | dsimp only | split

theorem State.setCause_keeps {z s : State} {l : ℕ} {v : ℕ} (hz : Keeps z s) : Keeps z (State.setCause s l v) := by
  unfold State.setCause
  with_reducible repeat' first | assumption | (refine modProcAt_keeps ?_ (fun x h => h))

theorem State.writeSeamCtl_keeps {z s : State} {n : ℕ} {v : W32} {be : ℕ} (hz : Keeps z s) : Keeps z (State.writeSeamCtl s n v be) := by
  unfold State.writeSeamCtl
  with_reducible repeat' first | assumption | refine State.wr_keeps ?_ | refine State.seamDown_keeps ?_ | refine ite_keeps ?_ ?_

theorem State.restoreRegs_keeps {z s : State} {key : ℕ} (hz : Keeps z s) : Keeps z (State.restoreRegs s key) := by
  unfold State.restoreRegs
  with_reducible repeat' first | assumption | (refine modProcAt_keeps ?_ (fun x h => h))

theorem State.showHeld_keeps {z s : State} (hz : Keeps z s) : Keeps z (State.showHeld s) := by
  unfold State.showHeld
  with_reducible repeat' first | assumption | refine State.wr_keeps ?_

theorem State.clearLines_keeps {z s : State} {k : ℕ} (hz : Keeps z s) : Keeps z (State.clearLines s k) := by
  unfold State.clearLines
  with_reducible repeat' first | assumption | refine State.showLines_keeps ?_ | refine State.setFab_keeps ?_

theorem State.releasePatch_keeps {z s : State} {k : ℕ} (hz : Keeps z s) : Keeps z (State.releasePatch s k) := by
  unfold State.releasePatch
  with_reducible repeat' first
    | assumption | refine State.clearLines_keeps ?_ | refine State.wr_keeps ?_ | refine State.setFab_keeps ?_ | refine ite_keeps ?_ ?_

theorem State.givePatch_keeps {z s : State} {k : ℕ} (hz : Keeps z s) : Keeps z (State.givePatch s k) := by
  unfold State.givePatch
  with_reducible repeat' first
    | assumption | (simp only [keeps_mk]; refine keeps_fields ?_) | refine State.releasePatch_keeps ?_ | refine ite_keeps ?_ ?_

theorem State.giveTested_keeps {z s : State} (hz : Keeps z s) : Keeps z (State.giveTested s) := by
  unfold State.giveTested
  with_reducible repeat' first
    | assumption | refine State.givePatch_keeps ?_ | refine ite_keeps ?_ ?_ | refine forEach_keeps ?_ ?_ | exact Keeps.refl _ | dsimp only
    | split | (intro _; try beta_reduce)

theorem State.cutMarchesOf_keeps {z s : State} {f : MarchRun → Bool} {st : Status} (hz : Keeps z s) : Keeps z (State.cutMarchesOf s f st) := by
  unfold State.cutMarchesOf
  with_reducible repeat' first
    | assumption | (simp only [keeps_mk]; refine keeps_fields ?_) | refine State.complete_keeps ?_ | refine ite_keeps ?_ ?_
    | refine forEach_keeps ?_ ?_ | exact Keeps.refl _ | dsimp only | split | (intro _; try beta_reduce)

theorem State.endEarly_keeps {z s : State} {b : BistRun} {st : Status} (hz : Keeps z s) : Keeps z (State.endEarly s b st) := by
  unfold State.endEarly
  with_reducible repeat' first
    | assumption | (simp only [keeps_mk]; refine keeps_fields ?_) | refine State.took_keeps ?_ | refine State.wr_keeps ?_
    | refine State.completeOpt_keeps ?_ | refine ite_keeps ?_ ?_ | dsimp only | split

theorem State.endRuns_keeps {z s : State} {u : BistUnit} {st : Status} {stays : Bool} (hz : Keeps z s) : Keeps z (State.endRuns s u st stays) := by
  unfold State.endRuns
  with_reducible repeat' first
    | assumption | (simp only [keeps_mk]; refine keeps_fields ?_) | refine State.endEarly_keeps ?_ | refine ite_keeps ?_ ?_
    | refine forEach_keeps ?_ ?_ | exact Keeps.refl _ | dsimp only | split | (intro _; try beta_reduce)

theorem State.cutTests_keeps {z s : State} {f : MarchRun → Bool} (hz : Keeps z s) : Keeps z (State.cutTests s f) := by
  unfold State.cutTests
  with_reducible repeat' first
    | assumption | refine State.giveTested_keeps ?_ | refine State.cutMarchesOf_keeps ?_ | refine State.endRuns_keeps ?_
    | refine ite_keeps ?_ ?_ | refine forEach_keeps ?_ ?_ | exact Keeps.refl _ | dsimp only | split | (intro _; try beta_reduce)

theorem State.beginRecord_keeps {z s : State} {l : ℕ} (hz : Keeps z s) : Keeps z (State.beginRecord s l) := by
  unfold State.beginRecord
  with_reducible repeat' first | assumption | refine State.modRib_keeps ?_ | refine State.took_keeps ?_ | refine ite_keeps ?_ ?_

theorem State.raiseS_keeps {z s : State} {r : ℕ} {cls : ℕ} (hz : Keeps z s) : Keeps z (State.raiseS s r cls) := by
  unfold State.raiseS
  with_reducible repeat' first | assumption | refine State.raiseProc_keeps ?_

theorem State.releaseRecord_keeps {z s : State} {r : ℕ} (hz : Keeps z s) : Keeps z (State.releaseRecord s r) := by
  unfold State.releaseRecord
  with_reducible repeat' first
    | assumption | refine State.modRib_keeps ?_ | refine State.beginRecord_keeps ?_ | refine State.raiseS_keeps ?_
    | refine ite_keeps ?_ ?_ | dsimp only | split

theorem State.clearEvents_keeps {z s : State} {key : ℕ} {v : W32} (hz : Keeps z s) : Keeps z (State.clearEvents s key v) := by
  unfold State.clearEvents
  with_reducible repeat' first
    | assumption | (refine modProcAt_keeps ?_ (fun x h => h)) | refine State.mergeWrite_keeps ?_ | refine State.releaseRecord_keeps ?_
    | refine ite_keeps ?_ ?_

theorem State.requestSwap_keeps {z s : State} (hz : Keeps z s) : Keeps z (State.requestSwap s) := by
  unfold State.requestSwap
  with_reducible repeat' first | assumption | refine State.wr_keeps ?_ | refine ite_keeps ?_ ?_

theorem State.writeJack_keeps {z s : State} {o : ℕ} {v : W32} {be : ℕ} (hz : Keeps z s) : Keeps z (State.writeJack s o v be) := by
  unfold State.writeJack
  with_reducible repeat' first
    | assumption | refine State.requestSwap_keeps ?_ | refine State.mergeWrite_keeps ?_ | refine ite_keeps ?_ ?_

theorem State.verdict_keeps {z s : State} {k : ℕ} {slot : ℕ} {unit : ℕ} {v : ℕ × ℕ × ℕ} (hz : Keeps z s) :
    Keeps z (State.verdict s k slot unit v) := by
  unfold State.verdict
  with_reducible repeat' first
    | assumption | refine State.bump_keeps ?_ | refine State.modCap_keeps ?_ | refine State.showCap_keeps ?_
    | refine State.settle_keeps ?_ | refine ite_keeps ?_ ?_ | dsimp only | split

theorem State.followLoop_keeps {z s : State} {l : ℕ} (hz : Keeps z s) : Keeps z (State.followLoop s l) := by
  unfold State.followLoop
  with_reducible repeat' first | assumption | refine State.modLane_keeps ?_ | refine ite_keeps ?_ ?_

theorem State.laneCount_keeps {z s : State} {c : LaneCtr} {l : ℕ} {n : ℕ} (hz : Keeps z s) : Keeps z (State.laneCount s c l n) := by
  unfold State.laneCount
  with_reducible repeat' first | assumption | refine State.liveBump_keeps ?_ | refine ite_keeps ?_ ?_ | dsimp only | split

theorem State.laneEvent_keeps {z s : State} {l : ℕ} {cls : ℕ} (hz : Keeps z s) : Keeps z (State.laneEvent s l cls) := by
  unfold State.laneEvent
  with_reducible repeat' first
    | assumption | refine State.setCause_keeps ?_ | refine State.raiseS_keeps ?_ | refine State.beginRecord_keeps ?_
    | refine ite_keeps ?_ ?_

theorem State.loadBand_keeps {z s : State} {l : ℕ} (hz : Keeps z s) : Keeps z (State.loadBand s l) := by
  unfold State.loadBand
  with_reducible repeat' first
    | assumption | refine State.setLn_keeps ?_ | refine ite_keeps ?_ ?_ | refine forEach_keeps ?_ ?_ | exact Keeps.refl _ | dsimp only
    | split | (intro _; try beta_reduce)

theorem State.acquireFrom_keeps {z s : State} {l : ℕ} {up : Bool} (hz : Keeps z s) : Keeps z (State.acquireFrom s l up) := by
  unfold State.acquireFrom
  with_reducible repeat' first
    | assumption | refine State.setDown_keeps ?_ | refine State.laneCount_keeps ?_ | refine State.laneEvent_keeps ?_
    | refine State.loadBand_keeps ?_ | refine ite_keeps ?_ ?_

theorem State.enterAcquire_keeps {z s : State} {l : ℕ} (hz : Keeps z s) : Keeps z (State.enterAcquire s l) := by
  unfold State.enterAcquire
  with_reducible repeat' first | assumption | refine State.acquireFrom_keeps ?_ | refine State.leaveUp_keeps ?_

theorem State.applyLane_keeps {z s : State} {l : ℕ} (hz : Keeps z s) : Keeps z (State.applyLane s l) := by
  unfold State.applyLane
  with_reducible repeat' first
    | assumption | refine State.followLoop_keeps ?_ | refine State.modLane_keeps ?_ | refine State.restartTx_keeps ?_
    | refine State.laneTo_keeps ?_ | refine State.enterAcquire_keeps ?_ | refine ite_keeps ?_ ?_

theorem State.startReq_keeps {z s : State} {l : ℕ} {q : LaneReq} {counted : Bool} (hz : Keeps z s) : Keeps z (State.startReq s l q counted) := by
  unfold State.startReq
  with_reducible repeat' first
    | assumption | refine State.enterAcquire_keeps ?_ | refine State.restartTx_keeps ?_ | refine State.modLane_keeps ?_
    | refine ite_keeps ?_ ?_

theorem State.defer_keeps {z s : State} {c : CmdRef} (hz : Keeps z s) : Keeps z (State.defer s c) := by
  unfold State.defer
  with_reducible repeat' first | assumption | (simp only [keeps_mk]; refine keeps_fields ?_) | refine ite_keeps ?_ ?_

theorem State.evalReq_keeps {z s : State} {l : ℕ} {q : LaneReq} (hz : Keeps z s) : Keeps z (State.evalReq s l q) := by
  unfold State.evalReq
  with_reducible repeat' first
    | assumption | refine State.modLane_keeps ?_ | refine State.complete_keeps ?_ | refine State.startReq_keeps ?_
    | refine State.defer_keeps ?_ | refine ite_keeps ?_ ?_

theorem State.evalReqs_keeps {z s : State} {l : ℕ} (hz : Keeps z s) : Keeps z (State.evalReqs s l) := by
  unfold State.evalReqs
  with_reducible repeat' first
    | assumption | refine State.evalReq_keeps ?_ | refine ite_keeps ?_ ?_ | refine forEach_keeps ?_ ?_ | exact Keeps.refl _ | dsimp only
    | split | (intro _; try beta_reduce)

theorem State.reqBoundary_keeps {z s : State} {p : ℕ} {l : ℕ} (hz : Keeps z s) : Keeps z (State.reqBoundary s p l) := by
  unfold State.reqBoundary
  with_reducible repeat' first | assumption | refine State.evalReqs_keeps ?_ | refine State.modLane_keeps ?_

theorem State.quietBoundary_keeps {z s : State} {l : ℕ} (hz : Keeps z s) : Keeps z (State.quietBoundary s l) := by
  unfold State.quietBoundary
  with_reducible repeat' first
    | assumption | refine State.modLane_keeps ?_ | refine State.setLn_keeps ?_ | refine ite_keeps ?_ ?_ | dsimp only | split

theorem State.eyeBoundary_keeps {z s : State} {p : ℕ} {l : ℕ} (hz : Keeps z s) : Keeps z (State.eyeBoundary s p l) := by
  unfold State.eyeBoundary
  with_reducible repeat' first | assumption | refine State.bump_keeps ?_ | refine State.took_keeps ?_ | refine ite_keeps ?_ ?_

theorem State.burstBoundary_keeps {z s : State} {l : ℕ} (hz : Keeps z s) : Keeps z (State.burstBoundary s l) := by
  unfold State.burstBoundary
  with_reducible repeat' first | assumption | refine State.modLane_keeps ?_

theorem State.laneBoundary_keeps {z s : State} {p : ℕ} (hz : Keeps z s) : Keeps z (State.laneBoundary s p) := by
  unfold State.laneBoundary
  with_reducible repeat' first
    | assumption | refine State.applyLane_keeps ?_ | refine State.reqBoundary_keeps ?_ | refine State.quietBoundary_keeps ?_
    | refine State.eyeBoundary_keeps ?_ | refine State.burstBoundary_keeps ?_ | refine ite_keeps ?_ ?_ | refine forEach_keeps ?_ ?_
    | exact Keeps.refl _ | dsimp only | split | (intro _; try beta_reduce)

theorem State.modPat_keeps {z s : State} {k : ℕ} {f : PatSt → PatSt} (hz : Keeps z s) : Keeps z (State.modPat s k f) := by
  unfold State.modPat
  with_reducible repeat' first | assumption | (simp only [keeps_mk]; refine keeps_fields ?_)

theorem State.modThread_keeps {z s : State} {k : ℕ} {t : ℕ} {f : ThreadSt → ThreadSt} (hz : Keeps z s) : Keeps z (State.modThread s k t f) := by
  unfold State.modThread
  with_reducible repeat' first | assumption | refine State.modPat_keeps ?_

theorem State.stopThread_keeps {z s : State} {k : ℕ} {t : ℕ} {reason : ℕ} (hz : Keeps z s) : Keeps z (State.stopThread s k t reason) := by
  unfold State.stopThread
  with_reducible repeat' first
    | assumption | refine State.modThread_keeps ?_ | refine State.wr_keeps ?_ | refine State.raiseP_keeps ?_ | refine ite_keeps ?_ ?_

theorem State.flushThread_keeps {z s : State} {k : ℕ} {t : ℕ} (hz : Keeps z s) : Keeps z (State.flushThread s k t) := by
  unfold State.flushThread
  with_reducible repeat' first | assumption | refine State.modPat_keeps ?_

theorem State.haltPat_keeps {z s : State} {k : ℕ} {threads : ℕ} {c : Option CmdRef} (hz : Keeps z s) : Keeps z (State.haltPat s k threads c) := by
  unfold State.haltPat
  with_reducible repeat' first
    | assumption | refine State.completeOpt_keeps ?_ | refine State.stopThread_keeps ?_ | refine State.flushThread_keeps ?_
    | refine ite_keeps ?_ ?_ | refine forN_keeps ?_ ?_ | exact Keeps.refl _ | dsimp only | split | (intro _; try beta_reduce)

theorem State.haltCap_keeps {z s : State} {k : ℕ} {c : Option CmdRef} (hz : Keeps z s) : Keeps z (State.haltCap s k c) := by
  unfold State.haltCap
  with_reducible repeat' first
    | assumption | refine State.completeOpt_keeps ?_ | refine State.showCap_keeps ?_ | refine State.stopCap_keeps ?_
    | refine ite_keeps ?_ ?_

theorem State.takePatchOut_keeps {z s : State} {k : ℕ} (hz : Keeps z s) : Keeps z (State.takePatchOut s k) := by
  unfold State.takePatchOut
  with_reducible repeat' first
    | assumption | refine State.wr_keeps ?_ | refine State.holdPatch_keeps ?_ | refine State.setFab_keeps ?_
    | refine State.haltPat_keeps ?_ | refine State.haltCap_keeps ?_

theorem State.stopForLoad_keeps {z s : State} {key : ℕ} (hz : Keeps z s) : Keeps z (State.stopForLoad s key) := by
  unfold State.stopForLoad
  with_reducible repeat' first
    | assumption | (refine modProcAt_keeps ?_ (fun x h => h)) | refine State.wr_keeps ?_ | refine ite_keeps ?_ ?_

theorem State.endChanAs_keeps {z s : State} {ch : ℕ} {st : Status} (hz : Keeps z s) : Keeps z (State.endChanAs s ch st) := by
  unfold State.endChanAs
  with_reducible repeat' first
    | assumption | (simp only [keeps_mk]; refine keeps_fields ?_) | refine State.wr_keeps ?_ | refine State.complete_keeps ?_
    | refine ite_keeps ?_ ?_ | dsimp only | split

theorem State.endChan_keeps {z s : State} {ch : ℕ} (hz : Keeps z s) : Keeps z (State.endChan s ch) := by
  unfold State.endChan
  with_reducible repeat' first | assumption | refine State.endChanAs_keeps ?_

theorem State.takeOutNow_keeps {z s : State} (hz : Keeps z s) : Keeps z (State.takeOutNow s) := by
  unfold State.takeOutNow
  with_reducible repeat' first
    | assumption | (simp only [keeps_mk]; refine keeps_fields ?_) | refine State.wr_keeps ?_ | refine State.takePatchOut_keeps ?_
    | refine State.stopForLoad_keeps ?_ | (refine modProcAt_keeps ?_ (fun x h => h)) | refine State.showSum_keeps ?_
    | refine State.endChan_keeps ?_ | refine State.laneTo_keeps ?_ | refine ite_keeps ?_ ?_ | refine forEach_keeps ?_ ?_
    | refine forN_keeps ?_ ?_ | exact Keeps.refl _ | dsimp only | split | (intro _; try beta_reduce)

theorem State.cvBoundary_keeps {z s : State} {k : ℕ} (hz : Keeps z s) : Keeps z (State.cvBoundary s k) := by
  unfold State.cvBoundary
  with_reducible repeat' first
    | assumption | refine State.wr_keeps ?_ | refine ite_keeps ?_ ?_ | refine forN_keeps ?_ ?_ | exact Keeps.refl _ | dsimp only | split
    | (intro _; try beta_reduce)

theorem State.showQueue_keeps {z s : State} {k : ℕ} {b : ℕ} (hz : Keeps z s) : Keeps z (State.showQueue s k b) := by
  unfold State.showQueue
  with_reducible repeat' first | assumption | refine State.wr_keeps ?_

theorem State.queueBoundary_keeps {z s : State} {k : ℕ} (hz : Keeps z s) : Keeps z (State.queueBoundary s k) := by
  unfold State.queueBoundary
  with_reducible repeat' first
    | assumption | (simp only [keeps_mk]; refine keeps_fields ?_) | refine State.showQueue_keeps ?_
    | (refine setBank_keeps ?_ (fun m => ?hp); case hp => exact ⟨(bankAt_ok m _ _).1, (bankAt_ok m _ _).2⟩) | refine ite_keeps ?_ ?_
    | refine forN_keeps ?_ ?_ | exact Keeps.refl _ | dsimp only | split | (intro _; try beta_reduce)

theorem State.applyGroup_keeps {z s : State} {l : ℕ} (hz : Keeps z s) : Keeps z (State.applyGroup s l) := by
  unfold State.applyGroup
  with_reducible repeat' first
    | assumption | refine State.leaveUp_keeps ?_ | refine State.setLn_keeps ?_ | refine State.modLane_keeps ?_
    | refine State.restartTx_keeps ?_ | refine State.acquireFrom_keeps ?_ | refine ite_keeps ?_ ?_

theorem State.groupBoundary_keeps {z s : State} (hz : Keeps z s) : Keeps z (State.groupBoundary s) := by
  unfold State.groupBoundary
  with_reducible repeat' first
    | assumption | refine State.applyGroup_keeps ?_ | refine ite_keeps ?_ ?_ | refine forN_keeps ?_ ?_ | exact Keeps.refl _ | dsimp only
    | split | (intro _; try beta_reduce)

theorem State.carryRaises_keeps {z s : State} {early : Bool} (hz : Keeps z s) : Keeps z (State.carryRaises s early) := by
  unfold State.carryRaises
  with_reducible repeat' first
    | assumption | (simp only [keeps_mk]; refine keeps_fields ?_) | refine State.raiseAs_keeps ?_ | refine ite_keeps ?_ ?_
    | refine forEach_keeps ?_ ?_ | exact Keeps.refl _ | dsimp only | split | (intro _; try beta_reduce)

theorem State.applyDirty_keeps {z s : State} (hz : Keeps z s) : Keeps z (State.applyDirty s) := by
  unfold State.applyDirty
  with_reducible repeat' first | assumption | (simp only [keeps_mk]; refine keeps_fields ?_)

theorem State.keepMasks_keeps {z s : State} (hz : Keeps z s) : Keeps z (State.keepMasks s) := by
  unfold State.keepMasks
  with_reducible repeat' first | assumption | (simp only [keeps_mk]; refine keeps_fields ?_)

theorem State.cutSlot_keeps {z s : State} {k : ℕ} {slot : ℕ} (hz : Keeps z s) : Keeps z (State.cutSlot s k slot) := by
  unfold State.cutSlot
  with_reducible repeat' first | assumption | refine State.capCut_keeps ?_ | refine State.cvCut_keeps ?_

theorem State.endLate_keeps {z s : State} {x : LateSlot} (hz : Keeps z s) : Keeps z (State.endLate s x) := by
  unfold State.endLate
  with_reducible repeat' first | assumption | (simp only [keeps_mk]; refine keeps_fields ?_) | refine State.cutSlot_keeps ?_

theorem State.leaveSlot_keeps {z s : State} {k : ℕ} {slot : ℕ} {lane : ℕ} (hz : Keeps z s) : Keeps z (State.leaveSlot s k slot lane) := by
  unfold State.leaveSlot
  with_reducible repeat' first
    | assumption | (simp only [keeps_mk]; refine keeps_fields ?_) | refine State.endLate_keeps ?_ | refine State.streamCut_keeps ?_
    | refine ite_keeps ?_ ?_ | refine forEach_keeps ?_ ?_ | exact Keeps.refl _ | dsimp only | split | (intro _; try beta_reduce)

theorem State.setRib_keeps {z s : State} {k : ℕ} {half : ℕ} {rib : ℕ} (hz : Keeps z s) : Keeps z (State.setRib s k half rib) := by
  unfold State.setRib
  with_reducible repeat' first
    | assumption | refine State.leaveSlot_keeps ?_ | refine State.wr_keeps ?_ | refine ite_keeps ?_ ?_ | refine forN_keeps ?_ ?_
    | exact Keeps.refl _ | dsimp only | split | (intro _; try beta_reduce)

theorem State.showRibbon_keeps {z s : State} {r : ℕ} (hz : Keeps z s) : Keeps z (State.showRibbon s r) := by
  unfold State.showRibbon
  with_reducible repeat' first | assumption | refine State.wr_keeps ?_ | refine ite_keeps ?_ ?_ | dsimp only | split

theorem State.applyBind_keeps {z s : State} {b : BindWrite} (hz : Keeps z s) : Keeps z (State.applyBind s b) := by
  unfold State.applyBind
  with_reducible repeat' first
    | assumption | refine State.completeOpt_keeps ?_ | refine State.setRib_keeps ?_ | refine State.showRibbon_keeps ?_
    | refine ite_keeps ?_ ?_ | refine forN_keeps ?_ ?_ | exact Keeps.refl _ | dsimp only | split | (intro _; try beta_reduce)

theorem State.bindBoundary_keeps {z s : State} (hz : Keeps z s) : Keeps z (State.bindBoundary s) := by
  unfold State.bindBoundary
  with_reducible repeat' first
    | assumption | (simp only [keeps_mk]; refine keeps_fields ?_) | refine State.applyBind_keeps ?_ | refine State.wr_keeps ?_
    | refine ite_keeps ?_ ?_ | refine forEach_keeps ?_ ?_ | exact Keeps.refl _ | dsimp only | split | (intro _; try beta_reduce)

theorem State.lateBoundary_keeps {z s : State} (hz : Keeps z s) : Keeps z (State.lateBoundary s) := by
  unfold State.lateBoundary
  with_reducible repeat' first
    | assumption | refine State.endLate_keeps ?_ | refine ite_keeps ?_ ?_ | refine forEach_keeps ?_ ?_ | exact Keeps.refl _ | dsimp only
    | split | (intro _; try beta_reduce)

theorem State.mailReply_keeps {z s : State} {key : ℕ} {slot : ℕ} (hz : Keeps z s) : Keeps z (State.mailReply s key slot) := by
  unfold State.mailReply
  with_reducible repeat' first
    | assumption | refine State.complete_keeps ?_ | (refine modProcAt_keeps ?_ (fun x h => h)) | refine ite_keeps ?_ ?_ | dsimp only
    | split

theorem State.writeMailOut_keeps {z s : State} {key : ℕ} {slot : ℕ} {w : ℕ} {v : W32} (hz : Keeps z s) :
    Keeps z (State.writeMailOut s key slot w v) := by
  unfold State.writeMailOut
  with_reducible repeat' first
    | assumption | (refine modProcAt_keeps ?_ (fun x h => h)) | refine State.mailReply_keeps ?_ | refine ite_keeps ?_ ?_

theorem State.clearCauses_keeps {z s : State} {r : ℕ} {v : W32} (hz : Keeps z s) : Keeps z (State.clearCauses s r v) := by
  unfold State.clearCauses
  with_reducible repeat' first | assumption | (refine modProcAt_keeps ?_ (fun x h => h))

theorem State.writeFixed_keeps {z s : State} {key : ℕ} {slot : ℕ} {str : ℕ} {w : ℕ} {v : W32} (hz : Keeps z s) :
    Keeps z (State.writeFixed s key slot str w v) := by
  unfold State.writeFixed
  with_reducible repeat' first
    | assumption | refine State.clearEvents_keeps ?_ | refine State.writeMailOut_keeps ?_ | refine State.clearCauses_keeps ?_
    | refine ite_keeps ?_ ?_

theorem State.writeDiag_keeps {z s : State} {a : ℕ} {last : ℕ} {pages : ℕ} {v : W32} {be : ℕ} (hz : Keeps z s) :
    Keeps z (State.writeDiag s a last pages v be) := by
  unfold State.writeDiag
  with_reducible repeat' first | assumption | refine State.mergeWrite_keeps ?_ | refine State.setReg_keeps ?_

theorem State.requestLayers_keeps {z s : State} {layers : ℕ} (hz : Keeps z s) : Keeps z (State.requestLayers s layers) := by
  unfold State.requestLayers
  with_reducible repeat' first | assumption | (simp only [keeps_mk]; refine keeps_fields ?_) | refine ite_keeps ?_ ?_

theorem State.raiseReset_keeps {z s : State} (hz : Keeps z s) : Keeps z (State.raiseReset s) := by
  unfold State.raiseReset
  with_reducible repeat' first | assumption | (simp only [keeps_mk]; refine keeps_fields ?_) | refine State.flood_keeps ?_

theorem State.writeLreset_keeps {z s : State} {v : W32} {be : ℕ} (hz : Keeps z s) : Keeps z (State.writeLreset s v be) := by
  unfold State.writeLreset
  with_reducible repeat' first
    | assumption | refine State.requestLayers_keeps ?_ | refine State.wr_keeps ?_ | refine State.raiseReset_keeps ?_
    | refine ite_keeps ?_ ?_

theorem State.askGo_keeps {z s : State} (hz : Keeps z s) : Keeps z (State.askGo s) := by
  unfold State.askGo
  with_reducible repeat' first
    | assumption | (simp only [keeps_mk]; refine keeps_fields ?_) | refine State.wr_keeps ?_ | refine ite_keeps ?_ ?_

theorem State.writeDev_keeps {z s : State} {src : Src} {o : ℕ} {v : W32} {be : ℕ} (hz : Keeps z s) : Keeps z (State.writeDev s src o v be) := by
  unfold State.writeDev
  with_reducible repeat' first
    | assumption | refine State.writeNReq_keeps ?_ | refine State.writeLpm_keeps ?_ | refine State.writeDiag_keeps ?_
    | refine State.writeLreset_keeps ?_ | refine State.mergeWrite_keeps ?_ | refine State.askGo_keeps ?_ | refine State.wr_keeps ?_
    | refine ite_keeps ?_ ?_

theorem State.closeGate_keeps {z s : State} {g0 : ℕ} (hz : Keeps z s) : Keeps z (State.closeGate s g0) := by
  unfold State.closeGate
  with_reducible repeat' first
    | assumption | (simp only [keeps_mk]; refine keeps_fields ?_) | refine State.wr_keeps ?_ | refine State.showHeld_keeps ?_
    | refine ite_keeps ?_ ?_

theorem State.openGate_keeps {z s : State} {g0 : ℕ} (hz : Keeps z s) : Keeps z (State.openGate s g0) := by
  unfold State.openGate
  with_reducible repeat' first
    | assumption | (simp only [keeps_mk]; refine keeps_fields ?_) | refine State.wr_keeps ?_ | refine State.showHeld_keeps ?_
    | refine ite_keeps ?_ ?_

theorem State.writeRefout_keeps {z s : State} {n : ℕ} {word : Bool} {v : W32} {be : ℕ} (hz : Keeps z s) :
    Keeps z (State.writeRefout s n word v be) := by
  unfold State.writeRefout
  with_reducible repeat' first
    | assumption | (simp only [keeps_mk]; refine keeps_fields ?_) | refine State.mergeWrite_keeps ?_ | refine State.showRefout_keeps ?_
    | refine ite_keeps ?_ ?_

theorem State.writeSync_keeps {z s : State} {v : W32} {be : ℕ} (hz : Keeps z s) : Keeps z (State.writeSync s v be) := by
  unfold State.writeSync
  with_reducible repeat' first | assumption | refine State.showSync_keeps ?_ | refine State.mergeWrite_keeps ?_

theorem State.writeClk_keeps {z s : State} {o : ℕ} {v : W32} {be : ℕ} (hz : Keeps z s) : Keeps z (State.writeClk s o v be) := by
  unfold State.writeClk
  with_reducible repeat' first
    | assumption | refine State.mergeWrite_keeps ?_ | refine State.closeGate_keeps ?_ | refine State.openGate_keeps ?_
    | refine State.writeRefout_keeps ?_ | refine State.writeSync_keeps ?_ | refine ite_keeps ?_ ?_

theorem State.setSpool_keeps {z s : State} {sp : ℕ} {x : SpoolSt} (hz : Keeps z s) : Keeps z (State.setSpool s sp x) := by
  unfold State.setSpool
  with_reducible repeat' first | assumption | (simp only [keeps_mk]; refine keeps_fields ?_)

theorem State.orphanSpool_keeps {z s : State} {sp : ℕ} (hz : Keeps z s) : Keeps z (State.orphanSpool s sp) := by
  unfold State.orphanSpool
  with_reducible repeat' first | assumption | (simp only [keeps_mk]; refine keeps_fields ?_) | refine State.showPending_keeps ?_

theorem State.writeSpoolEn_keeps {z s : State} {sp : ℕ} {v : W32} {be : ℕ} (hz : Keeps z s) : Keeps z (State.writeSpoolEn s sp v be) := by
  unfold State.writeSpoolEn
  with_reducible repeat' first
    | assumption | refine State.mergeWrite_keeps ?_ | refine State.setSpool_keeps ?_ | refine State.wr_keeps ?_
    | refine State.orphanSpool_keeps ?_ | refine ite_keeps ?_ ?_

theorem State.showChan_keeps {z s : State} {ch : ℕ} (hz : Keeps z s) : Keeps z (State.showChan s ch) := by
  unfold State.showChan
  with_reducible repeat' first | assumption | refine State.wr_keeps ?_ | refine ite_keeps ?_ ?_ | dsimp only | split

theorem State.putConsumed_keeps {z s : State} {ch : ℕ} {v : W32} {be : ℕ} (hz : Keeps z s) : Keeps z (State.putConsumed s ch v be) := by
  unfold State.putConsumed
  with_reducible repeat' first | assumption | refine State.mergeWrite_keeps ?_ | refine State.setReg_keeps ?_ | refine ite_keeps ?_ ?_

theorem State.writeConsumed_keeps {z s : State} {ch : ℕ} {v : W32} {be : ℕ} (hz : Keeps z s) : Keeps z (State.writeConsumed s ch v be) := by
  unfold State.writeConsumed
  with_reducible repeat' first | assumption | refine State.showChan_keeps ?_ | refine State.putConsumed_keeps ?_

theorem State.sendVector_keeps {z s : State} {v : ℕ} (hz : Keeps z s) : Keeps z (State.sendVector s v) := by
  unfold State.sendVector
  with_reducible repeat' first | assumption | (simp only [keeps_mk]; refine keeps_fields ?_)

theorem State.setPba_keeps {z s : State} {v : ℕ} {on : Bool} (hz : Keeps z s) : Keeps z (State.setPba s v on) := by
  unfold State.setPba
  with_reducible repeat' first | assumption | refine State.wr_keeps ?_

theorem State.writeVectorCtrl_keeps {z s : State} {v : ℕ} {w : W32} {be : ℕ} (hz : Keeps z s) : Keeps z (State.writeVectorCtrl s v w be) := by
  unfold State.writeVectorCtrl
  with_reducible repeat' first
    | assumption | refine State.mergeWrite_keeps ?_ | refine State.sendVector_keeps ?_ | refine State.setPba_keeps ?_
    | refine ite_keeps ?_ ?_

theorem State.writeHost_keeps {z s : State} {o : ℕ} {v : W32} {be : ℕ} (hz : Keeps z s) : Keeps z (State.writeHost s o v be) := by
  unfold State.writeHost
  with_reducible repeat' first
    | assumption | refine State.writeSpoolEn_keeps ?_ | refine State.writeConsumed_keeps ?_ | refine State.writeVectorCtrl_keeps ?_
    | refine State.mergeWrite_keeps ?_ | refine ite_keeps ?_ ?_

theorem State.markDirty_keeps {z s : State} {a : ℕ} (hz : Keeps z s) : Keeps z (State.markDirty s a) := by
  unfold State.markDirty
  with_reducible repeat' first | assumption | (simp only [keeps_mk]; refine keeps_fields ?_)

theorem State.stageWrite_keeps {z s : State} {a : ℕ} {v : W32} {be : ℕ} (hz : Keeps z s) : Keeps z (State.stageWrite s a v be) := by
  unfold State.stageWrite
  with_reducible repeat' first | assumption | refine State.markDirty_keeps ?_ | refine State.mergeWrite_keeps ?_

theorem State.writeRibCtl_keeps {z s : State} {r : ℕ} {v : W32} {be : ℕ} (hz : Keeps z s) : Keeps z (State.writeRibCtl s r v be) := by
  unfold State.writeRibCtl
  with_reducible repeat' first | assumption | refine State.stageWrite_keeps ?_

theorem State.followFirst_keeps {z s : State} {l : ℕ} (hz : Keeps z s) : Keeps z (State.followFirst s l) := by
  unfold State.followFirst
  with_reducible repeat' first
    | assumption | refine State.markDirty_keeps ?_ | refine State.setLn_keeps ?_ | refine ite_keeps ?_ ?_ | refine forEach_keeps ?_ ?_
    | exact Keeps.refl _ | dsimp only | split | (intro _; try beta_reduce)

theorem State.clampRate_keeps {z s : State} {l : ℕ} (hz : Keeps z s) : Keeps z (State.clampRate s l) := by
  unfold State.clampRate
  with_reducible repeat' first | assumption | refine State.setLn_keeps ?_

theorem State.writeLnCtl_keeps {z s : State} {l : ℕ} {v : W32} {be : ℕ} (hz : Keeps z s) : Keeps z (State.writeLnCtl s l v be) := by
  unfold State.writeLnCtl
  with_reducible repeat' first
    | assumption | refine State.followFirst_keeps ?_ | refine State.markDirty_keeps ?_ | refine State.clampRate_keeps ?_
    | refine State.stageWrite_keeps ?_

theorem State.writeLnRate_keeps {z s : State} {l : ℕ} {v : W32} {be : ℕ} (hz : Keeps z s) : Keeps z (State.writeLnRate s l v be) := by
  unfold State.writeLnRate
  with_reducible repeat' first
    | assumption | refine State.followFirst_keeps ?_ | refine State.clampRate_keeps ?_ | refine State.stageWrite_keeps ?_

theorem State.writeTxFfe_keeps {z s : State} {l : ℕ} {v : W32} {be : ℕ} (hz : Keeps z s) : Keeps z (State.writeTxFfe s l v be) := by
  unfold State.writeTxFfe
  with_reducible repeat' first | assumption | refine State.mergeWrite_keeps ?_ | refine State.setLn_keeps ?_

theorem State.writeRibbon_keeps {z s : State} {r : ℕ} {o : ℕ} {v : W32} {be : ℕ} (hz : Keeps z s) : Keeps z (State.writeRibbon s r o v be) := by
  unfold State.writeRibbon
  with_reducible repeat' first
    | assumption | refine State.mergeWrite_keeps ?_ | refine State.releaseRecord_keeps ?_ | refine State.writeDiag_keeps ?_
    | refine State.writeRibCtl_keeps ?_ | refine State.writeLnCtl_keeps ?_ | refine State.writeLnRate_keeps ?_
    | refine State.writeTxFfe_keeps ?_ | refine State.writeQuiet_keeps ?_ | refine ite_keeps ?_ ?_ | dsimp only | split

theorem State.setDepth_keeps {z s : State} {u : MemUnit} {v : ℕ} (hz : Keeps z s) : Keeps z (State.setDepth s u v) := by
  unfold State.setDepth
  with_reducible repeat' first
    | assumption | refine State.wr_keeps ?_ | refine ite_keeps ?_ ?_ | refine forN_keeps ?_ ?_ | exact Keeps.refl _ | dsimp only | split
    | (intro _; try beta_reduce)

theorem State.writeIntegrity_keeps {z s : State} {p : ℕ} {o : ℕ} {v : W32} {be : ℕ} (hz : Keeps z s) : Keeps z (State.writeIntegrity s p o v be) := by
  unfold State.writeIntegrity
  with_reducible repeat' first | assumption | refine State.mergeWrite_keeps ?_ | refine State.setDepth_keeps ?_ | refine ite_keeps ?_ ?_

theorem State.writePquiet_keeps {z s : State} {k : ℕ} {v : W32} {be : ℕ} (hz : Keeps z s) : Keeps z (State.writePquiet s k v be) := by
  unfold State.writePquiet
  with_reducible repeat' first | assumption | (simp only [keeps_mk]; refine keeps_fields ?_) | refine ite_keeps ?_ ?_

theorem State.writePlaneCtl_keeps {z s : State} {k : ℕ} {v : W32} {be : ℕ} (hz : Keeps z s) : Keeps z (State.writePlaneCtl s k v be) := by
  unfold State.writePlaneCtl
  with_reducible repeat' first | assumption | refine State.mergeWrite_keeps ?_ | refine State.setFab_keeps ?_ | refine ite_keeps ?_ ?_

theorem State.writeQueueCfg_keeps {z s : State} {k : ℕ} {b : ℕ} {v : W32} {be : ℕ} (hz : Keeps z s) : Keeps z (State.writeQueueCfg s k b v be) := by
  unfold State.writeQueueCfg
  with_reducible repeat' first | assumption | refine State.showQueue_keeps ?_ | refine State.stageWrite_keeps ?_

theorem State.capTrigger_keeps {z s : State} {k : ℕ} {t : Stamp} (hz : Keeps z s) : Keeps z (State.capTrigger s k t) := by
  unfold State.capTrigger
  with_reducible repeat' first
    | assumption | refine State.bump_keeps ?_ | refine State.wr_keeps ?_ | refine State.modCap_keeps ?_ | refine ite_keeps ?_ ?_

theorem State.nextSegment_keeps {z s : State} {k : ℕ} (hz : Keeps z s) : Keeps z (State.nextSegment s k) := by
  unfold State.nextSegment
  with_reducible repeat' first | assumption | refine State.showCap_keeps ?_ | refine State.closeSeg_keeps ?_ | refine ite_keeps ?_ ?_

theorem State.capReq_keeps {z s : State} {k : ℕ} {cmd : ℕ} {c : Option CmdRef} (hz : Keeps z s) : Keeps z (State.capReq s k cmd c) := by
  unfold State.capReq
  with_reducible repeat' first | assumption | refine State.modCap_keeps ?_

theorem State.capCmd_keeps {z s : State} {k : ℕ} {cmd : ℕ} {c : Option CmdRef} (hz : Keeps z s) : Keeps z (State.capCmd s k cmd c) := by
  unfold State.capCmd
  with_reducible repeat' first
    | assumption | refine State.completeOpt_keeps ?_ | refine State.capTrigger_keeps ?_ | refine State.nextSegment_keeps ?_
    | refine State.capReq_keeps ?_ | refine ite_keeps ?_ ?_ | dsimp only | split

theorem State.clampCap_keeps {z s : State} {k : ℕ} (hz : Keeps z s) : Keeps z (State.clampCap s k) := by
  unfold State.clampCap
  with_reducible repeat' first | assumption | refine State.wr_keeps ?_

theorem State.writeCapCfg_keeps {z s : State} {k : ℕ} {o : ℕ} {v : W32} {be : ℕ} (hz : Keeps z s) : Keeps z (State.writeCapCfg s k o v be) := by
  unfold State.writeCapCfg
  with_reducible repeat' first
    | assumption | refine State.mergeWrite_keeps ?_ | refine State.wr_keeps ?_ | refine State.clampCap_keeps ?_ | refine ite_keeps ?_ ?_

theorem State.writeSlotCfg_keeps {z s : State} {k : ℕ} {slot : ℕ} {v : W32} {be : ℕ} (hz : Keeps z s) :
    Keeps z (State.writeSlotCfg s k slot v be) := by
  unfold State.writeSlotCfg
  with_reducible repeat' first | assumption | refine State.stageWrite_keeps ?_

theorem State.patCmd_keeps {z s : State} {k : ℕ} {cmd : ℕ} {threads : ℕ} {c : Option CmdRef} (hz : Keeps z s) :
    Keeps z (State.patCmd s k cmd threads c) := by
  unfold State.patCmd
  with_reducible repeat' first | assumption | refine State.modPat_keeps ?_ | refine State.completeOpt_keeps ?_ | refine ite_keeps ?_ ?_

theorem State.writeSub_keeps {z s : State} {k : ℕ} {e : ℕ} {half : ℕ} {v : W32} {be : ℕ} (hz : Keeps z s) :
    Keeps z (State.writeSub s k e half v be) := by
  unfold State.writeSub
  with_reducible repeat' first | assumption | refine State.modPat_keeps ?_

theorem State.writeAction_keeps {z s : State} {k : ℕ} {a : ℕ} {v : W32} {be : ℕ} (hz : Keeps z s) : Keeps z (State.writeAction s k a v be) := by
  unfold State.writeAction
  with_reducible repeat' first
    | assumption | refine State.mergeWrite_keeps ?_ | refine State.modPat_keeps ?_ | refine State.wr_keeps ?_ | refine ite_keeps ?_ ?_

theorem State.writeCvCfg_keeps {z s : State} {k : ℕ} {u : ℕ} {v : W32} {be : ℕ} (hz : Keeps z s) : Keeps z (State.writeCvCfg s k u v be) := by
  unfold State.writeCvCfg
  with_reducible repeat' first | assumption | refine State.stageWrite_keeps ?_ | refine State.wr_keeps ?_ | refine ite_keeps ?_ ?_

theorem State.cvLandWrite_keeps {z s : State} {k : ℕ} {u : ℕ} {v : ℕ} (hz : Keeps z s) : Keeps z (State.cvLandWrite s k u v) := by
  unfold State.cvLandWrite
  with_reducible repeat' first | assumption | refine State.wr_keeps ?_ | refine ite_keeps ?_ ?_

theorem State.writeCvValue_keeps {z s : State} {k : ℕ} {u : ℕ} {v : W32} {be : ℕ} (hz : Keeps z s) : Keeps z (State.writeCvValue s k u v be) := by
  unfold State.writeCvValue
  with_reducible repeat' first | assumption | refine State.cvLandWrite_keeps ?_

theorem State.writeMgmt_keeps {z s : State} {p : ℕ} {v : W32} {be : ℕ} (hz : Keeps z s) : Keeps z (State.writeMgmt s p v be) := by
  unfold State.writeMgmt
  with_reducible repeat' first
    | assumption | (simp only [keeps_mk]; refine keeps_fields ?_) | refine State.mergeWrite_keeps ?_ | refine State.wr_keeps ?_
    | refine ite_keeps ?_ ?_

theorem State.writePatch_keeps {z s : State} {p : ℕ} {k : ℕ} {o : ℕ} {v : W32} {be : ℕ} (hz : Keeps z s) :
    Keeps z (State.writePatch s p k o v be) := by
  unfold State.writePatch
  with_reducible repeat' first
    | assumption | refine State.writeDiag_keeps ?_ | refine State.writePquiet_keeps ?_ | refine State.writePlaneCtl_keeps ?_
    | refine State.writeQueueCfg_keeps ?_ | refine State.capCmd_keeps ?_ | refine State.writeCapCfg_keeps ?_
    | refine State.writeSlotCfg_keeps ?_ | refine State.patCmd_keeps ?_ | refine State.stageWrite_keeps ?_
    | refine State.writeSub_keeps ?_ | refine State.writeAction_keeps ?_ | refine State.writeCvCfg_keeps ?_
    | refine State.writeCvValue_keeps ?_ | refine State.writeMgmt_keeps ?_ | refine State.mergeWrite_keeps ?_ | refine ite_keeps ?_ ?_

theorem State.writeBoltWin_keeps {z s : State} {k : ℕ} {v : W32} {be : ℕ} (hz : Keeps z s) : Keeps z (State.writeBoltWin s k v be) := by
  unfold State.writeBoltWin
  with_reducible repeat' first
    | assumption | (simp only [keeps_mk]; refine keeps_fields ?_) | refine State.mergeWrite_keeps ?_ | refine State.wr_keeps ?_
    | refine ite_keeps ?_ ?_

theorem State.writeBolt_keeps {z s : State} {k : ℕ} {o : ℕ} {v : W32} {be : ℕ} (hz : Keeps z s) : Keeps z (State.writeBolt s k o v be) := by
  unfold State.writeBolt
  with_reducible repeat' first
    | assumption | refine State.mergeWrite_keeps ?_ | refine State.setDepth_keeps ?_ | refine State.writeBoltWin_keeps ?_
    | refine ite_keeps ?_ ?_

theorem State.raiseMask_keeps {z s : State} {cls : ℕ} {mask : ℕ} {base : ℕ} {n : ℕ} (hz : Keeps z s) :
    Keeps z (State.raiseMask s cls mask base n) := by
  unfold State.raiseMask
  with_reducible repeat' first
    | assumption | refine State.raiseLine_keeps ?_ | refine ite_keeps ?_ ?_ | refine forEach_keeps ?_ ?_ | exact Keeps.refl _ | dsimp only
    | split | (intro _; try beta_reduce)

theorem State.writeRaise_keeps {z s : State} {src : Src} {high : Bool} {v : W32} {be : ℕ} (hz : Keeps z s) :
    Keeps z (State.writeRaise s src high v be) := by
  unfold State.writeRaise
  with_reducible repeat' first | assumption | refine State.raiseMask_keeps ?_ | refine ite_keeps ?_ ?_ | dsimp only | split

theorem State.writeEvqLo_keeps {z s : State} {v : W32} {be : ℕ} (hz : Keeps z s) : Keeps z (State.writeEvqLo s v be) := by
  unfold State.writeEvqLo
  with_reducible repeat' first
    | assumption | (simp only [keeps_mk]; refine keeps_fields ?_) | refine State.emptyRing_keeps ?_ | refine State.mergeWrite_keeps ?_
    | refine ite_keeps ?_ ?_

theorem State.writeEvqSize_keeps {z s : State} {v : W32} {be : ℕ} (hz : Keeps z s) : Keeps z (State.writeEvqSize s v be) := by
  unfold State.writeEvqSize
  with_reducible repeat' first
    | assumption | refine State.mergeWrite_keeps ?_ | refine State.emptyRing_keeps ?_ | refine State.wr_keeps ?_ | refine ite_keeps ?_ ?_

theorem State.writeEvqTail_keeps {z s : State} {v : W32} {be : ℕ} (hz : Keeps z s) : Keeps z (State.writeEvqTail s v be) := by
  unfold State.writeEvqTail
  with_reducible repeat' first | assumption | refine State.mergeWrite_keeps ?_ | refine State.wr_keeps ?_

theorem State.writeTrig_keeps {z s : State} {src : Src} {o : ℕ} {v : W32} {be : ℕ} (hz : Keeps z s) : Keeps z (State.writeTrig s src o v be) := by
  unfold State.writeTrig
  with_reducible repeat' first
    | assumption | refine State.writeRaise_keeps ?_ | refine State.stageWrite_keeps ?_ | refine State.writeEvqLo_keeps ?_
    | refine State.writeEvqHi_keeps ?_ | refine State.writeEvqSize_keeps ?_ | refine State.writeEvqTail_keeps ?_
    | refine State.mergeWrite_keeps ?_ | refine ite_keeps ?_ ?_

theorem State.busWrite_keeps {z s : State} {src : Src} {a : ℕ} {v : W32} {be : ℕ} (hz : Keeps z s) : Keeps z (State.busWrite s src a v be) := by
  unfold State.busWrite
  with_reducible repeat' first
    | assumption | (simp only [keeps_mk]; refine keeps_fields ?_) | refine State.writeDev_keeps ?_ | refine State.writeClk_keeps ?_
    | refine State.writeHost_keeps ?_ | refine State.writeSeamCtl_keeps ?_ | refine State.mergeWrite_keeps ?_
    | refine State.writeJack_keeps ?_ | refine State.writeRibbon_keeps ?_ | refine State.writeIntegrity_keeps ?_
    | refine State.writePatch_keeps ?_ | refine State.writeBolt_keeps ?_ | refine State.writeTrig_keeps ?_ | refine ite_keeps ?_ ?_
    | dsimp only | split

theorem State.putWord_keeps {z s : State} {pos : ℕ} {b : ℕ} {w : ℕ} {v : Sys2Proof.W64} (h : Keeps z s) : Keeps z (State.putWord s pos b w v) := by
  unfold State.putWord
  refine setBank_keeps h (fun m => ⟨?_, ?_⟩) <;> dsimp only
  · exact Tab.set_wf (bankAt_ok m pos b).1
  · exact Tab.set_wf (bankAt_ok m pos b).2

theorem State.poisonWord_keeps {z s : State} {pos : ℕ} {b : ℕ} {w : ℕ} (h : Keeps z s) : Keeps z (State.poisonWord s pos b w) := by
  unfold State.poisonWord
  refine setBank_keeps h (fun m => ⟨?_, ?_⟩) <;> dsimp only
  · exact Tab.set_wf (bankAt_ok m pos b).1
  · exact Tab.set_wf (bankAt_ok m pos b).2

theorem State.bankRead_keeps {z s : State} {pos : ℕ} {b : ℕ} {w : ℕ} {seen : Ecc} (hz : Keeps z s) : Keeps z (State.bankRead s pos b w seen).1 := by
  unfold State.bankRead
  with_reducible repeat' first
    | assumption | refine State.countCorr_keeps ?_ | refine State.countUncorr_keeps ?_ | refine State.poisonWord_keeps ?_
    | refine State.putWord_keeps ?_ | refine ite_keeps ?_ ?_ | dsimp only | split

theorem State.bankWrite_keeps {z s : State} {pos : ℕ} {b : ℕ} {w : ℕ} {v : W64} {mask : ℕ} {seen : Ecc} (hz : Keeps z s) :
    Keeps z (State.bankWrite s pos b w v mask seen).1 := by
  unfold State.bankWrite
  with_reducible repeat' first
    | assumption | refine State.putWord_keeps ?_ | refine State.bankRead_keeps ?_ | refine State.bumpWrPoison_keeps ?_
    | refine ite_keeps ?_ ?_ | dsimp only | split

theorem State.cvLandFeed_keeps {z s : State} {k : ℕ} {u : ℕ} {n : ℕ} {v : W64} (hz : Keeps z s) : Keeps z (State.cvLandFeed s k u n v) := by
  unfold State.cvLandFeed
  with_reducible repeat' first | assumption | refine State.bump_keeps ?_ | refine State.wr_keeps ?_ | refine ite_keeps ?_ ?_

theorem State.landPost_keeps {z s : State} {key : ℕ} {p : Posted} {seen : Ecc} (hz : Keeps z s) : Keeps z (State.landPost s key p seen) := by
  unfold State.landPost
  with_reducible repeat' first
    | assumption | refine State.writeFixed_keeps ?_ | refine State.busWrite_keeps ?_ | refine State.bankWrite_keeps ?_
    | refine State.cvLandFeed_keeps ?_ | refine State.cvLandWrite_keeps ?_ | refine ite_keeps ?_ ?_ | dsimp only | split

theorem State.landUpTo_keeps {z s : State} {key : ℕ} {n : ℕ} {ts : List PostTarget} {str : Bool} {seen : Ecc} (hz : Keeps z s) :
    Keeps z (State.landUpTo s key n ts str seen) := by
  unfold State.landUpTo
  with_reducible repeat' first
    | assumption | (refine modProcAt_keeps ?_ (fun x h => h)) | refine State.landPost_keeps ?_ | refine ite_keeps ?_ ?_
    | refine forEach_keeps ?_ ?_ | exact Keeps.refl _ | dsimp only | split | (intro _; try beta_reduce)

theorem State.ownerBoundary_keeps {z s : State} {k : ℕ} (hz : Keeps z s) : Keeps z (State.ownerBoundary s k) := by
  unfold State.ownerBoundary
  with_reducible repeat' first
    | assumption | (refine setBank_keeps ?_ (fun m => ?hp); case hp => exact ⟨(bankAt_ok m _ _).1, (bankAt_ok m _ _).2⟩)
    | refine State.landUpTo_keeps ?_ | refine ite_keeps ?_ ?_ | refine forN_keeps ?_ ?_ | exact Keeps.refl _ | dsimp only | split
    | (intro _; try beta_reduce)

end Sys2Proof.Machine
end

