-- ==== Sys2Proof/Laws/KeepsOps3.lean ====
section
/-! SUPPORT. Every shared operation keeps the queue, the stitch number and canonical memories: one lemma per operation (part 3 of 4). -/

namespace Sys2Proof.Machine

theorem State.stepThreeA_keeps {z s : State} {p : ℕ} (hz : Keeps z s) : Keeps z (State.stepThreeA s p) := by
  unfold State.stepThreeA
  with_reducible repeat' first
    | assumption | refine State.laneBoundary_keeps ?_ | refine State.takeOutNow_keeps ?_ | refine State.cvBoundary_keeps ?_
    | refine State.queueBoundary_keeps ?_ | refine State.groupBoundary_keeps ?_ | refine State.carryRaises_keeps ?_
    | refine State.applyDirty_keeps ?_ | refine State.keepMasks_keeps ?_ | refine State.bindBoundary_keeps ?_
    | refine State.lateBoundary_keeps ?_ | refine State.ownerBoundary_keeps ?_ | refine ite_keeps ?_ ?_ | refine forN_keeps ?_ ?_
    | exact Keeps.refl _ | dsimp only | split | (intro _; try beta_reduce)

theorem State.queueProg_keeps {z s : State} {d : DispCmd} {x : ProgCmd} (hz : Keeps z s) : Keeps z (State.queueProg s d x) := by
  unfold State.queueProg
  with_reducible repeat' first | assumption | (refine modProcAt_keeps ?_ (fun x h => h)) | refine State.setPhase_keeps ?_

theorem State.disturb_keeps {z s : State} {d : DispCmd} {k : ℕ} (hz : Keeps z s) : Keeps z (State.disturb s d k).1 := by
  unfold State.disturb
  with_reducible repeat' first
    | assumption | (simp only [keeps_mk]; refine keeps_fields ?_) | refine State.requestHandover_keeps ?_ | refine State.setPhase_keeps ?_
    | refine State.takePatch_keeps ?_ | refine State.defer_keeps ?_ | refine ite_keeps ?_ ?_ | dsimp only | split

theorem State.destruct_keeps {z s : State} {d : DispCmd} {bolt : Bool} {banks : List ℕ} (h : Keeps z s) : Keeps z (s.destruct d bolt banks) := by
  have hd := State.disturb_keeps (d := d) (k := d.target % 16) h
  unfold State.destruct
  split
  · exact State.complete_keeps h
  · split
    · exact State.complete_keeps h
    · split
      · rename_i e; rw [e] at hd; exact hd
      · rename_i e; rw [e] at hd; exact State.startMarch_keeps hd

theorem State.readEffects_keeps {z s : State} {a : ℕ} (hz : Keeps z s) : Keeps z (State.readEffects s a) := by
  unfold State.readEffects
  with_reducible repeat' first
    | assumption | (simp only [keeps_mk]; refine keeps_fields ?_) | refine State.wr_keeps ?_ | refine State.took_keeps ?_
    | refine State.setReg_keeps ?_ | refine ite_keeps ?_ ?_ | refine foldl1_keeps ?_ ?_ | exact Keeps.refl _ | dsimp only | split

theorem State.busRead_keeps {z s : State} {a : ℕ} (hz : Keeps z s) : Keeps z (State.busRead s a).1 := by
  unfold State.busRead
  with_reducible repeat' first | assumption | refine State.readEffects_keeps ?_

theorem State.setRowsLeft_keeps {z s : State} {u : MemUnit} {v : ℕ} (hz : Keeps z s) : Keeps z (State.setRowsLeft s u v) := by
  unfold State.setRowsLeft
  with_reducible repeat' first | assumption | refine State.wr_keeps ?_ | refine ite_keeps ?_ ?_ | dsimp only | split

theorem State.raiseLater_keeps {z s : State} {cls : ℕ} {line : ℕ} {late : ℕ} (hz : Keeps z s) : Keeps z (State.raiseLater s cls line late) := by
  unfold State.raiseLater
  with_reducible repeat' first
    | assumption | (simp only [keeps_mk]; refine keeps_fields ?_) | refine State.raiseAs_keeps ?_ | refine ite_keeps ?_ ?_

theorem State.hostWrite_keeps {z s : State} {addr : ℕ} {bytes : List Sys2Proof.Byte} (h : Keeps z s) : Keeps z (State.hostWrite s addr bytes) := by
  unfold State.hostWrite
  split
  · exact h
  · exact h.trans ⟨rfl, rfl, fun m => ⟨hostPut_ok m.1, m.2⟩⟩

theorem State.writeRecord_keeps {z s : State} {e : EvRec} (hz : Keeps z s) : Keeps z (State.writeRecord s e) := by
  unfold State.writeRecord
  with_reducible repeat' first
    | assumption | (simp only [keeps_mk]; refine keeps_fields ?_) | refine State.bump_keeps ?_ | refine State.wr_keeps ?_
    | refine State.hostWrite_keeps ?_ | (refine modProcAt_keeps ?_ (fun x h => h)) | refine State.vector_keeps ?_ | refine ite_keeps ?_ ?_
    | dsimp only | split

theorem State.putRecord_keeps {z s : State} (hz : Keeps z s) : Keeps z (State.putRecord s) := by
  unfold State.putRecord
  with_reducible repeat' first
    | assumption | (simp only [keeps_mk]; refine keeps_fields ?_) | refine State.writeRecord_keeps ?_ | refine State.sendMsg_keeps ?_
    | refine ite_keeps ?_ ?_ | dsimp only | split

theorem State.setA_keeps {z s : State} {key : ℕ} {r : ℕ} {v : W32} (hz : Keeps z s) : Keeps z (State.setA s key r v) := by
  unfold State.setA
  with_reducible repeat' first | assumption | (refine modProcAt_keeps ?_ (fun x h => h))

theorem State.postMod_keeps {z s : State} {key : ℕ} {a : ℕ} {o : ℕ} (hz : Keeps z s) : Keeps z (State.postMod s key a o) := by
  unfold State.postMod
  with_reducible repeat' first | assumption | refine State.setA_keeps ?_

theorem State.setV_keeps {z s : State} {key : ℕ} {r : ℕ} {i : ℕ} {v : BitVec 48} (hz : Keeps z s) : Keeps z (State.setV s key r i v) := by
  unfold State.setV
  with_reducible repeat' first | assumption | (refine modProcAt_keeps ?_ (fun x h => h))

theorem State.setDl_keeps {z s : State} {key : ℕ} {lane : ℕ} {i : ℕ} {v : W16} (hz : Keeps z s) : Keeps z (State.setDl s key lane i v) := by
  unfold State.setDl
  with_reducible repeat' first | assumption | (refine modProcAt_keeps ?_ (fun x h => h))

theorem tapLane_keeps {z s : State} {key : ℕ} {vd : ℕ} {ea : ℕ} {upd : Bool} {mov : Bool} {i : ℕ} (hz : Keeps z s) :
    Keeps z (tapLane key vd ea upd mov i s) := by
  unfold tapLane
  with_reducible repeat' first
    | assumption | refine State.setV_keeps ?_ | refine State.dstore_keeps ?_ | refine State.setDl_keeps ?_ | refine ite_keeps ?_ ?_

theorem State.recordTo_keeps {z s : State} {r at_ : Nat} (hz : Keeps z s) : Keeps z (s.recordTo r at_) := by
  unfold State.recordTo
  dsimp only
  refine ite_keeps hz (forEach_keeps (State.modRib_keeps hz) fun i s => ?_)
  exact modProcAt_keeps (State.took_keeps (Keeps.refl s)) fun x h => putBytes_ok h

theorem State.recordSeen_keeps {z s : State} {key : ℕ} {ea : ℕ} (hz : Keeps z s) : Keeps z (State.recordSeen s key ea) := by
  unfold State.recordSeen
  with_reducible repeat' first | assumption | refine State.recordTo_keeps ?_ | refine ite_keeps ?_ ?_

theorem State.abortLoad_keeps {z s : State} {l : LoadSt} {cause : ℕ} {st : Status} (hz : Keeps z s) : Keeps z (State.abortLoad s l cause st) := by
  unfold State.abortLoad
  with_reducible repeat' first
    | assumption | (simp only [keeps_mk]; refine keeps_fields ?_) | refine State.completeOpt_keeps ?_ | refine State.wr_keeps ?_
    | refine State.setLoad_keeps ?_ | refine ite_keeps ?_ ?_ | dsimp only | split

theorem State.requestAgain_keeps {z s : State} {l : LoadSt} {readError : Bool} (hz : Keeps z s) : Keeps z (State.requestAgain s l readError) := by
  unfold State.requestAgain
  with_reducible repeat' first
    | assumption | refine State.abortLoad_keeps ?_ | refine State.dmaErr_keeps ?_ | refine State.bump_keeps ?_
    | refine State.setLoad_keeps ?_ | refine State.modSeam_keeps ?_ | refine ite_keeps ?_ ?_ | dsimp only | split

theorem State.showLoad_keeps {z s : State} (hz : Keeps z s) : Keeps z (State.showLoad s) := by
  unfold State.showLoad
  with_reducible repeat' first
    | assumption | refine State.wr_keeps ?_ | refine State.setLoad_keeps ?_ | refine ite_keeps ?_ ?_ | dsimp only | split

theorem State.rebuildNode_keeps {z s : State} {c : CtrRef} (hz : Keeps z s) : Keeps z (State.rebuildNode s c) := by
  unfold State.rebuildNode
  with_reducible repeat' first
    | assumption | (simp only [keeps_mk]; refine keeps_fields ?_) | refine State.wr_keeps ?_ | refine ite_keeps ?_ ?_
    | refine foldl1_keeps ?_ ?_ | exact Keeps.refl _ | dsimp only | split

theorem State.drainBoundary_keeps {z s : State} {l : ℕ} (hz : Keeps z s) : Keeps z (State.drainBoundary s l) := by
  unfold State.drainBoundary
  with_reducible repeat' first | assumption | refine State.modLane_keeps ?_ | refine ite_keeps ?_ ?_

theorem State.threadTo_keeps {z s : State} {k : ℕ} {t : ℕ} {pc : ℕ} (hz : Keeps z s) : Keeps z (State.threadTo s k t pc) := by
  unfold State.threadTo
  with_reducible repeat' first | assumption | refine State.wr_keeps ?_ | refine State.stopThread_keeps ?_ | refine ite_keeps ?_ ?_

theorem State.threadNext_keeps {z s : State} {k : ℕ} {t : ℕ} (hz : Keeps z s) : Keeps z (State.threadNext s k t) := by
  unfold State.threadNext
  with_reducible repeat' first | assumption | refine State.threadTo_keeps ?_

theorem State.bankGet_keeps {z s : State} {k : ℕ} {b : ℕ} {a : ℕ} {n : ℕ} {seen : List Ecc} (hz : Keeps z s) :
    Keeps z (State.bankGet s k b a n seen).1 := by
  unfold State.bankGet
  with_reducible repeat' first
    | assumption | refine State.bankRead_keeps ?_ | refine ite_keeps ?_ ?_ | refine foldl1_keeps ?_ ?_ | exact Keeps.refl _ | dsimp only
    | split | (intro _; try beta_reduce)

theorem State.setLeakEnd_keeps {z s : State} {u : MemUnit} {t : ℕ} (hz : Keeps z s) : Keeps z (State.setLeakEnd s u t) := by
  unfold State.setLeakEnd
  with_reducible repeat' first
    | assumption | (refine setBank_keeps ?_ (fun m => ?hp); case hp => exact ⟨(bankAt_ok m _ _).1, (bankAt_ok m _ _).2⟩)
    | (refine setBolt_keeps ?_ (fun m => ?hp); case hp => exact boltAt_ok m _) | refine ite_keeps ?_ ?_ | dsimp only | split

theorem State.showService_keeps {z s : State} (hz : Keeps z s) : Keeps z (State.showService s) := by
  unfold State.showService
  with_reducible repeat' first | assumption | refine State.wr_keeps ?_ | refine ite_keeps ?_ ?_

theorem State.enterUp_keeps {z s : State} {l : ℕ} (hz : Keeps z s) : Keeps z (State.enterUp s l) := by
  unfold State.enterUp
  with_reducible repeat' first
    | assumption | refine State.setLn_keeps ?_ | refine State.took_keeps ?_ | refine State.showService_keeps ?_
    | refine State.followLoop_keeps ?_ | refine State.modLane_keeps ?_ | refine ite_keeps ?_ ?_ | refine forN_keeps ?_ ?_
    | exact Keeps.refl _ | dsimp only | split | (intro _; try beta_reduce)

theorem State.poisonSeen_keeps {z s : State} {k : ℕ} {line : ℕ} {r : Reader} (hz : Keeps z s) : Keeps z (State.poisonSeen s k line r) := by
  unfold State.poisonSeen
  with_reducible repeat' first
    | assumption | refine State.raiseP_keeps ?_ | refine State.markDamage_keeps ?_ | refine ite_keeps ?_ ?_ | dsimp only | split

theorem State.endTrain_keeps {z s : State} {k : ℕ} {slot : ℕ} (hz : Keeps z s) : Keeps z (State.endTrain s k slot) := by
  unfold State.endTrain
  with_reducible repeat' first | assumption | refine State.endUnit_keeps ?_ | refine ite_keeps ?_ ?_ | dsimp only | split

theorem State.incr_keeps {z s : State} {f : Fld} {base : ℕ} {n : optParam ℕ 1} {i : optParam ℕ 0} {j : optParam ℕ 0} (hz : Keeps z s) :
    Keeps z (State.incr s f base n i j) := by
  unfold State.incr
  with_reducible repeat' first | assumption | refine State.wr_keeps ?_

theorem State.cvEnd_keeps {z s : State} {k : ℕ} {slot : ℕ} (hz : Keeps z s) : Keeps z (State.cvEnd s k slot).1 := by
  unfold State.cvEnd
  with_reducible repeat' first
    | assumption | refine State.incr_keeps ?_ | refine State.wr_keeps ?_ | refine State.cvOver_keeps ?_ | refine State.bump_keeps ?_
    | refine ite_keeps ?_ ?_ | dsimp only | split

theorem State.stage_keeps {z s : State} {c : CmdRef} {n : ℕ} {v : Option (List Byte)} (hz : Keeps z s) : Keeps z (State.stage s c n v) := by
  unfold State.stage
  with_reducible repeat' first
    | assumption | (simp only [keeps_mk]; refine keeps_fields ?_) | refine State.complete_keeps ?_ | refine State.wr_keeps ?_
    | refine ite_keeps ?_ ?_

theorem State.setStageRead_keeps {z s : State} {d : DispCmd} {data : Option (List Byte)} (hz : Keeps z s) :
    Keeps z (State.setStageRead s d data) := by
  unfold State.setStageRead
  with_reducible repeat' first
    | assumption | refine State.complete_keeps ?_ | refine State.dmaErr_keeps ?_ | refine State.stage_keeps ?_ | refine ite_keeps ?_ ?_
    | dsimp only | split

theorem State.releaseTap_keeps {z s : State} (hz : Keeps z s) : Keeps z (State.releaseTap s) := by
  unfold State.releaseTap
  with_reducible repeat' first | assumption | (simp only [keeps_mk]; refine keeps_fields ?_) | refine ite_keeps ?_ ?_

theorem State.release_keeps {z s : State} {l : LoadSt} (hz : Keeps z s) : Keeps z (State.release s l) := by
  unfold State.release
  with_reducible repeat' first
    | assumption | (simp only [keeps_mk]; refine keeps_fields ?_) | refine State.busWrite_keeps ?_ | refine State.releasePatch_keeps ?_
    | refine State.wr_keeps ?_ | refine State.took_keeps ?_ | refine State.releaseTap_keeps ?_ | refine State.enterAcquire_keeps ?_
    | refine ite_keeps ?_ ?_ | refine forEach_keeps ?_ ?_ | refine forN_keeps ?_ ?_ | exact Keeps.refl _ | dsimp only | split
    | (intro _; try beta_reduce)

theorem State.readyAll_keeps {z s : State} (hz : Keeps z s) : Keeps z (State.readyAll s) := by
  unfold State.readyAll
  with_reducible repeat' first
    | assumption | (simp only [keeps_mk]; refine keeps_fields ?_) | refine State.ready_keeps ?_ | refine ite_keeps ?_ ?_
    | refine forEach_keeps ?_ ?_ | exact Keeps.refl _ | dsimp only | split | (intro _; try beta_reduce)

theorem State.unload_keeps {z s : State} {key : ℕ} (hz : Keeps z s) : Keeps z (State.unload s key) := by
  unfold State.unload
  with_reducible repeat' first
    | assumption | refine State.wr_keeps ?_ | (refine modProcAt_keeps ?_ (fun x h => h)) | refine State.dropAdmission_keeps ?_
    | refine State.event_keeps ?_

theorem State.budgetProc_keeps {z s : State} {b : ℕ} {key : ℕ} (hz : Keeps z s) : Keeps z (State.budgetProc s b key) := by
  unfold State.budgetProc
  with_reducible repeat' first
    | assumption | refine State.wr_keeps ?_ | refine State.dropAdmission_keeps ?_ | refine State.unload_keeps ?_ | refine ite_keeps ?_ ?_

theorem State.scrubRead_keeps {z s : State} {u : MemUnit} {addr : ℕ} {seen : Ecc} (hz : Keeps z s) : Keeps z (State.scrubRead s u addr seen) := by
  unfold State.scrubRead
  with_reducible repeat' first
    | assumption | refine State.bankRead_keeps ?_ | refine State.boltRead_keeps ?_ | refine ite_keeps ?_ ?_ | dsimp only | split

theorem State.setP_keeps {z s : State} {key : ℕ} {r : ℕ} {v : Bool} (hz : Keeps z s) : Keeps z (State.setP s key r v) := by
  unfold State.setP
  with_reducible repeat' first | assumption | (refine modProcAt_keeps ?_ (fun x h => h)) | refine ite_keeps ?_ ?_

theorem State.sendData_keeps {z s : State} {c : DataCell} (hz : Keeps z s) : Keeps z (State.sendData s c) := by
  unfold State.sendData
  with_reducible repeat' first | assumption | refine State.modSeam_keeps ?_ | refine ite_keeps ?_ ?_ | dsimp only | split

theorem State.sendFlow_keeps {z s : State} {kind : ℕ} {d : ℕ} {bs : List Byte} (hz : Keeps z s) : Keeps z (State.sendFlow s kind d bs) := by
  unfold State.sendFlow
  with_reducible repeat' first
    | assumption | refine State.sendData_keeps ?_ | refine ite_keeps ?_ ?_ | refine foldl1_keeps ?_ ?_ | exact Keeps.refl _ | dsimp only
    | split | (intro _; try beta_reduce)

theorem State.landFor_keeps {z s : State} {key : ℕ} {t : PostTarget} (hz : Keeps z s) : Keeps z (State.landFor s key t) := by
  unfold State.landFor
  with_reducible repeat' first | assumption | refine State.landUpTo_keeps ?_

theorem State.readString_keeps {z s : State} {key str w : Nat} (hz : Keeps z s) : Keeps z (s.readString key str w).1 := by
  unfold State.readString
  dsimp only
  with_reducible repeat' first
    | assumption | refine State.readEffects_keeps ?_ | refine State.landFor_keeps ?_ | refine State.recordSeen_keeps ?_ | refine ite_keeps ?_ ?_ | split

theorem State.landOldest_keeps {z s : State} {key : ℕ} {sel : Posted → Bool} {seen : Ecc} (hz : Keeps z s) :
    Keeps z (State.landOldest s key sel seen) := by
  unfold State.landOldest
  with_reducible repeat' first | assumption | refine State.landUpTo_keeps ?_ | refine ite_keeps ?_ ?_ | dsimp only | split

theorem State.busError_keeps {z s : State} {d : ℕ} {kind : ℕ} (hz : Keeps z s) : Keeps z (State.busError s d kind) := by
  unfold State.busError
  with_reducible repeat' first | assumption | refine State.event_keeps ?_

theorem State.winFails_keeps {z s t : State} {d : ℕ} (h : Keeps z s) (e : s.winFails d = some t) : Keeps z t := by
  unfold State.winFails at e
  repeat' split at e
  all_goals cases e
  all_goals
  with_reducible repeat' first
    | assumption | refine State.bump_keeps ?_ | refine State.busError_keeps ?_ | refine ite_keeps ?_ ?_ | dsimp only | split

theorem State.winSend_keeps {z s : State} {d : ℕ} {m : Msg} (hz : Keeps z s) : Keeps z (State.winSend s d m) := by
  unfold State.winSend
  with_reducible repeat' first | assumption | (simp only [keeps_mk]; refine keeps_fields ?_) | refine State.sendMsg_keeps ?_

theorem State.openCopy_keeps {z s : State} {c : TxCopy} (hz : Keeps z s) : Keeps z (State.openCopy s c).1 := by
  unfold State.openCopy
  with_reducible repeat' first | assumption | (simp only [keeps_mk]; refine keeps_fields ?_)

theorem State.patBanksNow_keeps {z s : State} {k : ℕ} (hz : Keeps z s) : Keeps z (State.patBanksNow s k) := by
  unfold State.patBanksNow
  with_reducible repeat' first
    | assumption | refine State.modPat_keeps ?_ | refine State.stopThread_keeps ?_ | refine State.wr_keeps ?_
    | refine State.openCopy_keeps ?_ | refine ite_keeps ?_ ?_ | refine forEach_keeps ?_ ?_ | refine forN_keeps ?_ ?_
    | refine foldl1_keeps ?_ ?_ | exact Keeps.refl _ | dsimp only | split | (intro _; try beta_reduce)

theorem State.cvTx_keeps {z s : State} {k : ℕ} {slot : ℕ} {pcs : ℕ} {kind : ℕ} {body : List Byte} {badcv : Bool} (hz : Keeps z s) :
    Keeps z (State.cvTx s k slot pcs kind body badcv).1 := by
  unfold State.cvTx
  with_reducible repeat' first
    | assumption | refine State.incr_keeps ?_ | refine State.wr_keeps ?_ | refine State.bump_keeps ?_ | refine ite_keeps ?_ ?_
    | dsimp only | split

theorem State.actionUnit_keeps {z s : State} {k : ℕ} {a : ℕ} {slot : ℕ} (hz : Keeps z s) : Keeps z (State.actionUnit s k a slot).1 := by
  unfold State.actionUnit
  with_reducible repeat' first
    | assumption | refine State.bump_keeps ?_ | refine State.cvTx_keeps ?_ | refine ite_keeps ?_ ?_ | dsimp only | split

theorem State.releaseActions_keeps {z s : State} {k : ℕ} {as : List ℕ} (hz : Keeps z s) : Keeps z (State.releaseActions s k as) := by
  unfold State.releaseActions
  with_reducible repeat' first
    | assumption | refine State.bump_keeps ?_ | refine State.actionUnit_keeps ?_ | refine State.modLane_keeps ?_ | refine ite_keeps ?_ ?_
    | refine forEach_keeps ?_ ?_ | refine foldl1_keeps ?_ ?_ | exact Keeps.refl _ | dsimp only | split | (intro _; try beta_reduce)

theorem State.showDepth_keeps {z s : State} {k : ℕ} {t : ℕ} (hz : Keeps z s) : Keeps z (State.showDepth s k t) := by
  unfold State.showDepth
  with_reducible repeat' first | assumption | refine State.wr_keeps ?_

theorem State.jumpThread_keeps {z s : State} {k : ℕ} {t : ℕ} {target : ℕ} {flush : Bool} (hz : Keeps z s) :
    Keeps z (State.jumpThread s k t target flush) := by
  unfold State.jumpThread
  with_reducible repeat' first
    | assumption | refine State.flushThread_keeps ?_ | refine State.showDepth_keeps ?_ | refine State.modThread_keeps ?_
    | refine State.threadTo_keeps ?_ | refine State.incr_keeps ?_ | refine State.wr_keeps ?_ | refine ite_keeps ?_ ?_

theorem State.fireWatches_keeps {z s : State} {k : ℕ} {lines : List ℕ} (hz : Keeps z s) : Keeps z (State.fireWatches s k lines) := by
  unfold State.fireWatches
  with_reducible repeat' first
    | assumption | refine State.jumpThread_keeps ?_ | refine State.wr_keeps ?_ | refine State.releaseActions_keeps ?_
    | refine State.modPat_keeps ?_ | refine ite_keeps ?_ ?_ | refine forEach_keeps ?_ ?_ | refine forN_keeps ?_ ?_ | exact Keeps.refl _
    | dsimp only | split | (intro _; try beta_reduce)

theorem State.startPat_keeps {z s : State} {k : ℕ} {threads : ℕ} {c : Option CmdRef} (hz : Keeps z s) : Keeps z (State.startPat s k threads c) := by
  unfold State.startPat
  with_reducible repeat' first
    | assumption | refine State.completeOpt_keeps ?_ | refine State.wr_keeps ?_ | refine State.threadTo_keeps ?_
    | refine State.showDepth_keeps ?_ | refine State.modThread_keeps ?_ | refine ite_keeps ?_ ?_ | refine forN_keeps ?_ ?_
    | exact Keeps.refl _ | dsimp only | split | (intro _; try beta_reduce)

theorem State.patBoundary_keeps {z s : State} {lines : List ℕ} {k : ℕ} (hz : Keeps z s) : Keeps z (State.patBoundary s lines k) := by
  unfold State.patBoundary
  with_reducible repeat' first
    | assumption | refine State.patBanksNow_keeps ?_ | refine State.wr_keeps ?_ | refine State.modPat_keeps ?_
    | refine State.releaseActions_keeps ?_ | refine State.fireWatches_keeps ?_ | refine State.startPat_keeps ?_
    | refine State.haltPat_keeps ?_ | refine ite_keeps ?_ ?_ | refine forEach_keeps ?_ ?_ | refine forN_keeps ?_ ?_ | exact Keeps.refl _
    | dsimp only | split | (intro _; try beta_reduce)

theorem State.cutMarches_keeps {z s : State} {p : ℕ} (hz : Keeps z s) : Keeps z (State.cutMarches s p) := by
  unfold State.cutMarches
  with_reducible repeat' first | assumption | refine State.cutMarchesOf_keeps ?_

theorem State.loadSubsys_keeps {z s : State} (hz : Keeps z s) : Keeps z (State.loadSubsys s) := by
  unfold State.loadSubsys
  with_reducible repeat' first | assumption | (simp only [keeps_mk]; refine keeps_fields ?_)

theorem State.loadFuses_keeps {z s : State} (hz : Keeps z s) : Keeps z (State.loadFuses s) := by
  unfold State.loadFuses
  with_reducible repeat' first | assumption | (simp only [keeps_mk]; refine keeps_fields ?_) | refine State.wr_keeps ?_

theorem State.goto_keeps {z s : State} {key : ℕ} {pc : ℕ} {cost : ℕ} (hz : Keeps z s) : Keeps z (State.goto s key pc cost) := by
  unfold State.goto
  with_reducible repeat' first | assumption | (refine modProcAt_keeps ?_ (fun x h => h))

theorem State.retire_keeps {z s : State} {key : ℕ} {cost : ℕ} (hz : Keeps z s) : Keeps z (State.retire s key cost) := by
  unfold State.retire
  with_reducible repeat' first | assumption | refine State.goto_keeps ?_

theorem State.earlyBoundary_keeps {z s : State} (hz : Keeps z s) : Keeps z (State.earlyBoundary s) := by
  unfold State.earlyBoundary
  with_reducible repeat' first
    | assumption | refine State.landOldest_keeps ?_ | refine ite_keeps ?_ ?_ | refine forEach_keeps ?_ ?_ | refine forN_keeps ?_ ?_
    | exact Keeps.refl _ | dsimp only | split | (intro _; try beta_reduce)

theorem State.viaPatch_keeps {z s t : State} {k : ℕ} {o : ℕ} {v : W32} {be : ℕ} (hz : Keeps z s) (hz1 : Keeps z t) :
    Keeps z (State.viaPatch s k o v be t) := by
  unfold State.viaPatch
  with_reducible repeat' first | assumption | (simp only [keeps_mk]; refine keeps_fields ?_) | refine ite_keeps ?_ ?_ | dsimp only | split

theorem State.patternCmd_keeps {z s t : State} {k cmd threads : ℕ} {c : Option Sys2Proof.CmdRef} (h : Keeps z s) (e : s.patternCmd k cmd threads c = some t) : Keeps z t := by
  unfold State.patternCmd at e
  dsimp only at e
  repeat' split at e
  all_goals cases e
  all_goals
  with_reducible repeat' first
    | assumption | refine State.patCmd_keeps ?_ | refine State.setPhase_keeps ?_ | refine State.viaPatch_keeps ?_ ?_ | refine ite_keeps ?_ ?_
    | dsimp only | split

theorem State.capture_keeps {z s t : State} {k cmd : ℕ} {c : Option Sys2Proof.CmdRef} (h : Keeps z s) (e : s.capture k cmd c = some t) : Keeps z t := by
  unfold State.capture at e
  dsimp only at e
  repeat' split at e
  all_goals cases e
  all_goals
  with_reducible repeat' first
    | assumption | refine State.capCmd_keeps ?_ | refine State.setPhase_keeps ?_ | refine State.viaPatch_keeps ?_ ?_ | refine ite_keeps ?_ ?_
    | dsimp only | split

theorem State.endWindows_keeps {z s : State} {lower : Bool} (hz : Keeps z s) : Keeps z (State.endWindows s lower) := by
  unfold State.endWindows
  with_reducible repeat' first
    | assumption | (simp only [keeps_mk]; refine keeps_fields ?_) | refine State.wr_keeps ?_ | refine ite_keeps ?_ ?_
    | refine forEach_keeps ?_ ?_ | exact Keeps.refl _ | dsimp only | split | (intro _; try beta_reduce)

theorem State.snapEnd_keeps {z s : State} {ch : ℕ} (hz : Keeps z s) : Keeps z (State.snapEnd s ch) := by
  unfold State.snapEnd
  with_reducible repeat' first | assumption | refine State.endChan_keeps ?_ | refine ite_keeps ?_ ?_ | dsimp only | split

theorem State.putPage_keeps {z s : State} {ch : ℕ} {x : ChanSt} {data : List Byte} {entry : List Byte} (hz : Keeps z s) :
    Keeps z (State.putPage s ch x data entry) := by
  unfold State.putPage
  with_reducible repeat' first
    | assumption | (simp only [keeps_mk]; refine keeps_fields ?_) | refine State.hostWrite_keeps ?_ | refine State.wr_keeps ?_
    | refine State.modChan_keeps ?_ | refine State.vector_keeps ?_ | refine ite_keeps ?_ ?_

theorem State.skipPages_keeps {z s : State} {ch : ℕ} {n : ℕ} (hz : Keeps z s) : Keeps z (State.skipPages s ch n) := by
  unfold State.skipPages
  with_reducible repeat' first | assumption | refine State.bump_keeps ?_ | refine State.modChan_keeps ?_

theorem State.unmark_keeps {z s : State} {k : ℕ} (hz : Keeps z s) : Keeps z (State.unmark s k) := by
  unfold State.unmark
  with_reducible repeat' first | assumption | (simp only [keeps_mk]; refine keeps_fields ?_)

theorem State.sendRemote_keeps {z s : State} {ch : ℕ} {page : ℕ} {entry : List Byte} {data : List Byte} (hz : Keeps z s) :
    Keeps z (State.sendRemote s ch page entry data) := by
  unfold State.sendRemote
  with_reducible repeat' first | assumption | (simp only [keeps_mk]; refine keeps_fields ?_) | refine State.sendFlow_keeps ?_

theorem State.sendPage_keeps {z s : State} {ch : ℕ} {x : ChanSt} (hz : Keeps z s) : Keeps z (State.sendPage s ch x) := by
  unfold State.sendPage
  with_reducible repeat' first
    | assumption | (simp only [keeps_mk]; refine keeps_fields ?_) | refine State.sendMsg_keeps ?_ | refine State.putPage_keeps ?_
    | refine State.wr_keeps ?_ | refine State.modChan_keeps ?_ | refine State.skipPages_keeps ?_ | refine State.markDamage_keeps ?_
    | refine State.unmark_keeps ?_ | refine State.bump_keeps ?_ | refine State.sendRemote_keeps ?_ | refine ite_keeps ?_ ?_
    | refine forEach_keeps ?_ ?_ | exact Keeps.refl _ | dsimp only | split | (intro _; try beta_reduce)

theorem State.framePoison_keeps {z s : State} {p : ℕ} {frame : ℕ} (hz : Keeps z s) : Keeps z (State.framePoison s p frame) := by
  unfold State.framePoison
  with_reducible repeat' first | assumption | refine State.event_keeps ?_

theorem State.pageWritten_keeps {z s0 : State} {k : ℕ} {page : ℕ} (hz : Keeps z s0) : Keeps z (State.pageWritten s0 k page) := by
  unfold State.pageWritten
  with_reducible repeat' first
    | assumption | refine State.modCap_keeps ?_ | refine State.modChan_keeps ?_ | refine ite_keeps ?_ ?_ | refine forEach_keeps ?_ ?_
    | exact Keeps.refl _ | dsimp only | split | (intro _; try beta_reduce)

theorem State.putNone_keeps {z s : State} {k : ℕ} {page : ℕ} {pass : ℕ} (hz : Keeps z s) : Keeps z (State.putNone s k page pass) := by
  unfold State.putNone
  with_reducible repeat' first
    | assumption | refine State.pageWritten_keeps ?_ | refine State.boltPut_keeps ?_ | refine State.took_keeps ?_

theorem State.landCmd_keeps {z s : State} {d : DispCmd} (hz : Keeps z s) : Keeps z (State.landCmd s d) := by
  unfold State.landCmd
  with_reducible repeat' first
    | assumption | (simp only [keeps_mk]; refine keeps_fields ?_) | refine State.complete_keeps ?_ | refine ite_keeps ?_ ?_

theorem State.takeCommand_keeps {z s : State} {c : CmdRef} {entry : List Byte} (hz : Keeps z s) : Keeps z (State.takeCommand s c entry) := by
  unfold State.takeCommand
  with_reducible repeat' first
    | assumption | (simp only [keeps_mk]; refine keeps_fields ?_) | refine State.sendMsg_keeps ?_ | refine State.landCmd_keeps ?_
    | refine ite_keeps ?_ ?_ | dsimp only | split

theorem State.laneReq_keeps {z s t : State} {c : Sys2Proof.CmdRef} {kind : ℕ} (h : Keeps z s) (e : s.laneReq c kind = some t) : Keeps z t := by
  unfold State.laneReq at e
  dsimp only at e
  repeat' split at e
  all_goals cases e
  all_goals
  with_reducible repeat' first
    | assumption | refine State.modLane_keeps ?_ | refine State.setPhase_keeps ?_ | refine ite_keeps ?_ ?_ | dsimp only | split

theorem State.descSeen_keeps {z s : State} {k t : Nat} (h : Keeps z s) : Keeps z (s.descSeen k t) := by
  unfold State.descSeen
  split
  · exact State.raiseP_keeps (State.took_keeps (State.took_keeps h))
  · exact h

theorem State.showExchange_keeps {z s : State} {k : ℕ} (hz : Keeps z s) : Keeps z (State.showExchange s k) := by
  unfold State.showExchange
  with_reducible repeat' first | assumption | refine State.wr_keeps ?_

theorem State.logContention_keeps {z s : State} {k : ℕ} {half : ℕ} {line : ℕ} {st : ℕ} (hz : Keeps z s) :
    Keeps z (State.logContention s k half line st) := by
  unfold State.logContention
  with_reducible repeat' first
    | assumption | refine State.wr_keeps ?_ | refine State.bump_keeps ?_ | refine State.setFab_keeps ?_ | refine ite_keeps ?_ ?_
    | dsimp only | split

theorem State.contend_keeps {z s : State} {k : ℕ} {half : Bool} {line : ℕ} (hz : Keeps z s) : Keeps z (State.contend s k half line) := by
  unfold State.contend
  with_reducible repeat' first
    | assumption | refine State.logContention_keeps ?_ | refine State.showLines_keeps ?_ | refine State.setFab_keeps ?_
    | refine State.raiseP_keeps ?_ | refine State.event_keeps ?_

theorem State.fabricCycle_keeps {z s : State} {k : ℕ} {j : ℕ} (hz : Keeps z s) : Keeps z (State.fabricCycle s k j) := by
  unfold State.fabricCycle
  with_reducible repeat' first
    | assumption | refine State.contend_keeps ?_ | refine State.took_keeps ?_ | refine State.tick_keeps ?_ | refine State.setFab_keeps ?_
    | refine State.showExchange_keeps ?_ | refine ite_keeps ?_ ?_ | refine forEach_keeps ?_ ?_ | exact Keeps.refl _ | dsimp only | split
    | (intro _; try beta_reduce)

theorem State.clockTo_keeps {z s : State} {k : ℕ} {n : ℕ} (hz : Keeps z s) : Keeps z (State.clockTo s k n) := by
  unfold State.clockTo
  with_reducible repeat' first
    | assumption | refine State.setFab_keeps ?_ | refine State.showExchange_keeps ?_ | refine State.fabricCycle_keeps ?_
    | refine ite_keeps ?_ ?_ | refine forEach_keeps ?_ ?_ | exact Keeps.refl _ | dsimp only | split | (intro _; try beta_reduce)

theorem State.clockStitch_keeps {z s : State} {k : ℕ} (hz : Keeps z s) : Keeps z (State.clockStitch s k) := by
  unfold State.clockStitch
  with_reducible repeat' first | assumption | refine State.clockTo_keeps ?_ | refine State.setFab_keeps ?_ | refine ite_keeps ?_ ?_

theorem State.loadCopies_keeps {z s : State} {l : List ℕ} (hz : Keeps z s) : Keeps z (State.loadCopies s l) := by
  unfold State.loadCopies
  with_reducible repeat' first
    | assumption | (simp only [keeps_mk]; refine keeps_fields ?_) | refine State.showCopies_keeps ?_ | refine ite_keeps ?_ ?_

theorem State.boltSpare_keeps {z s : State} {k : ℕ} (hz : Keeps z s) : Keeps z (State.boltSpare s k) := by
  unfold State.boltSpare
  with_reducible repeat' first | assumption | refine State.event_keeps ?_ | refine State.wr_keeps ?_ | refine ite_keeps ?_ ?_

theorem State.endWork_keeps {z s : State} {key : ℕ} {hold : Bool} (hz : Keeps z s) : Keeps z (State.endWork s key hold) := by
  unfold State.endWork
  with_reducible repeat' first
    | assumption | refine State.beginProgram_keeps ?_ | (refine modProcAt_keeps ?_ (fun x h => h)) | refine ite_keeps ?_ ?_ | dsimp only
    | split

theorem State.loadSettings_keeps {z s : State} (hz : Keeps z s) : Keeps z (State.loadSettings s) := by
  unfold State.loadSettings
  with_reducible repeat' first | assumption | refine State.wr_keeps ?_

theorem State.holdRecord_keeps {z s : State} {k : ℕ} {r : CapRec} (hz : Keeps z s) : Keeps z (State.holdRecord s k r) := by
  unfold State.holdRecord
  with_reducible repeat' first | assumption | refine State.modCap_keeps ?_

theorem State.putIndex_keeps {z s : State} {k : ℕ} {next : Option ℕ} (hz : Keeps z s) : Keeps z (State.putIndex s k next) := by
  unfold State.putIndex
  with_reducible repeat' first
    | assumption | refine State.pageWritten_keeps ?_ | refine State.boltPut_keeps ?_ | refine State.putNone_keeps ?_
    | refine State.modCap_keeps ?_ | refine ite_keeps ?_ ?_ | refine forEach_keeps ?_ ?_ | exact Keeps.refl _ | dsimp only | split
    | (intro _; try beta_reduce)

theorem State.clockNow_keeps {z s : State} {k : ℕ} (hz : Keeps z s) : Keeps z (State.clockNow s k) := by
  unfold State.clockNow
  with_reducible repeat' first | assumption | refine State.clockTo_keeps ?_

theorem State.showRsps_keeps {z s : State} (hz : Keeps z s) : Keeps z (State.showRsps s) := by
  unfold State.showRsps
  with_reducible repeat' first | assumption | refine State.wr_keeps ?_

theorem State.moveBoundary_keeps {z s : State} {p : ℕ} {r : ℕ} (hz : Keeps z s) : Keeps z (State.moveBoundary s p r) := by
  unfold State.moveBoundary
  with_reducible repeat' first
    | assumption | (simp only [keeps_mk]; refine keeps_fields ?_) | refine State.modRib_keeps ?_
    | (refine modProcAt_keeps ?_ (fun x h => h)) | refine State.event_keeps ?_ | refine State.showRsps_keeps ?_ | refine State.wr_keeps ?_
    | refine State.completeOpt_keeps ?_ | refine ite_keeps ?_ ?_ | refine forEach_keeps ?_ ?_ | exact Keeps.refl _ | dsimp only | split
    | (intro _; try beta_reduce)

theorem State.setRoles_keeps {z s : State} {roles : ℕ} (hz : Keeps z s) : Keeps z (State.setRoles s roles) := by
  unfold State.setRoles
  with_reducible repeat' first
    | assumption | refine State.wr_keeps ?_ | refine ite_keeps ?_ ?_ | refine forN_keeps ?_ ?_ | exact Keeps.refl _ | dsimp only | split
    | (intro _; try beta_reduce)

theorem State.beSingle_keeps {z s : State} (hz : Keeps z s) : Keeps z (State.beSingle s) := by
  unfold State.beSingle
  with_reducible repeat' first
    | assumption | (simp only [keeps_mk]; refine keeps_fields ?_) | refine State.wr_keeps ?_ | refine State.setRoute_keeps ?_
    | refine State.setRoles_keeps ?_ | refine State.showSync_keeps ?_ | refine ite_keeps ?_ ?_ | refine forN_keeps ?_ ?_
    | exact Keeps.refl _ | dsimp only | split | (intro _; try beta_reduce)

theorem State.endReset_keeps {z s : State} {layer : ℕ} (hz : Keeps z s) : Keeps z (State.endReset s layer) := by
  unfold State.endReset
  with_reducible repeat' first
    | assumption | refine State.complete_keeps ?_ | refine ite_keeps ?_ ?_ | refine forEach_keeps ?_ ?_ | exact Keeps.refl _ | dsimp only
    | split | (intro _; try beta_reduce)

theorem State.remoteOffload_keeps {z s t : State} {c : Sys2Proof.CmdRef} {data : List Sys2Proof.W32} (h : Keeps z s)
    (e : s.remoteOffload c data = some t) : Keeps z t := by
  unfold State.remoteOffload at e
  rw [Option.map_eq_some_iff] at e
  obtain ⟨x, _, rfl⟩ := e
  exact State.wr_keeps (State.wr_keeps (State.modChan_keeps h))

theorem State.refoutWord_keeps {z s : State} {n : ℕ} (hz : Keeps z s) : Keeps z (State.refoutWord s n) := by
  unfold State.refoutWord
  with_reducible repeat' first
    | assumption | (simp only [keeps_mk]; refine keeps_fields ?_) | refine State.took_keeps ?_ | refine ite_keeps ?_ ?_

theorem State.markFlight_keeps {z s : State} {b : ℕ} {g : ℕ} {f : Flight} (hz : Keeps z s) : Keeps z (State.markFlight s b g f) := by
  unfold State.markFlight
  with_reducible repeat' first
    | assumption | (simp only [keeps_mk]; refine keeps_fields ?_) | refine State.modLane_keeps ?_ | refine State.event_keeps ?_
    | refine State.poisonLine_keeps ?_ | refine State.completeOpt_keeps ?_ | refine ite_keeps ?_ ?_ | dsimp only | split

theorem State.capCheck_keeps {z s : State} {k : ℕ} {slot : ℕ} {chk : ℕ} {strip : ℕ} (hz : Keeps z s) :
    Keeps z (State.capCheck s k slot chk strip) := by
  unfold State.capCheck
  with_reducible repeat' first | assumption | refine State.modCap_keeps ?_

theorem State.rowBoundary_keeps {z s : State} {u : MemUnit} (hz : Keeps z s) : Keeps z (State.rowBoundary s u) := by
  unfold State.rowBoundary
  with_reducible repeat' first
    | assumption | refine State.setRows_keeps ?_ | refine State.setRowsLeft_keeps ?_ | refine State.event_keeps ?_
    | refine ite_keeps ?_ ?_ | refine forEach_keeps ?_ ?_ | exact Keeps.refl _ | dsimp only | split | (intro _; try beta_reduce)

theorem State.putChunk_keeps {z s : State} {k : ℕ} {slot : ℕ} {l : ℕ} {rate : ℕ} {lat : ℕ} {data : List Byte} {disc : Bool} (hz : Keeps z s) :
    Keeps z (State.putChunk s k slot l rate lat data disc) := by
  unfold State.putChunk
  with_reducible repeat' first
    | assumption | refine State.showCap_keeps ?_ | refine State.enqueue_keeps ?_ | refine State.liveBump_keeps ?_

theorem State.sampleRails_keeps {z s : State} {ok : Bool} (hz : Keeps z s) : Keeps z (State.sampleRails s ok) := by
  unfold State.sampleRails
  with_reducible repeat' first | assumption | (simp only [keeps_mk]; refine keeps_fields ?_)

theorem State.markHalted_keeps {z s : State} {d : ℕ} {seam : ℕ} (hz : Keeps z s) : Keeps z (State.markHalted s d seam) := by
  unfold State.markHalted
  with_reducible repeat' first
    | assumption | (simp only [keeps_mk]; refine keeps_fields ?_) | refine State.wr_keeps ?_ | refine State.event_keeps ?_
    | refine State.busError_keeps ?_ | refine State.bump_keeps ?_ | refine State.endChanAs_keeps ?_ | refine State.complete_keeps ?_
    | refine State.sendMsg_keeps ?_ | refine State.showSystem_keeps ?_ | refine State.headRoutes_keeps ?_ | refine ite_keeps ?_ ?_
    | refine forEach_keeps ?_ ?_ | refine forN_keeps ?_ ?_ | exact Keeps.refl _ | dsimp only | split | (intro _; try beta_reduce)

theorem State.setGroup_keeps {z s : State} {b : ℕ} {g : ℕ} {x : GroupSt} (hz : Keeps z s) : Keeps z (State.setGroup s b g x) := by
  unfold State.setGroup
  with_reducible repeat' first | assumption | (simp only [keeps_mk]; refine keeps_fields ?_)

theorem State.groupOut_keeps {z s : State} {b : ℕ} {g : ℕ} (hz : Keeps z s) : Keeps z (State.groupOut s b g) := by
  unfold State.groupOut
  with_reducible repeat' first
    | assumption | refine State.setGroup_keeps ?_ | refine State.event_keeps ?_ | refine ite_keeps ?_ ?_ | dsimp only | split

theorem State.hostReset_keeps {z s : State} (hz : Keeps z s) : Keeps z (State.hostReset s) := by
  unfold State.hostReset
  with_reducible repeat' first
    | assumption | (simp only [keeps_mk]; refine keeps_fields ?_) | refine State.orphanSpool_keeps ?_ | refine State.endChan_keeps ?_
    | refine State.resetRegs_keeps ?_ | refine ite_keeps ?_ ?_ | refine forEach_keeps ?_ ?_ | refine forN_keeps ?_ ?_ | exact Keeps.refl _
    | dsimp only | split | (intro _; try beta_reduce)

theorem State.setPort_keeps {z s0 : State} {k : ℕ} {port : ℕ} {x : PortOut} (hz : Keeps z s0) : Keeps z (State.setPort s0 k port x) := by
  unfold State.setPort
  with_reducible repeat' first | assumption | (simp only [keeps_mk]; refine keeps_fields ?_) | refine State.clockNow_keeps ?_

theorem State.denyPort_keeps {z s : State} {k : ℕ} {code : ℕ} {n : ℕ} (hz : Keeps z s) : Keeps z (State.denyPort s k code n) := by
  unfold State.denyPort
  with_reducible repeat' first | assumption | refine State.setPort_keeps ?_ | refine ite_keeps ?_ ?_

theorem State.forward_keeps {z s : State} {d : DispCmd} (hz : Keeps z s) : Keeps z (State.forward s d) := by
  unfold State.forward
  with_reducible repeat' first
    | assumption | (simp only [keeps_mk]; refine keeps_fields ?_) | refine State.busError_keeps ?_ | refine State.complete_keeps ?_
    | refine State.openChan_keeps ?_ | refine State.sendMsg_keeps ?_ | refine ite_keeps ?_ ?_

theorem State.resetL2_keeps {z s : State} (hz : Keeps z s) : Keeps z (State.resetL2 s) := by
  unfold State.resetL2
  with_reducible repeat' first
    | assumption | (simp only [keeps_mk]; refine keeps_fields ?_) | refine State.abortLoad_keeps ?_ | refine State.resetRegs_keeps ?_
    | refine State.endReset_keeps ?_ | refine State.showJournal_keeps ?_ | refine State.showSlots_keeps ?_
    | refine State.loadSettings_keeps ?_ | refine State.wr_keeps ?_ | refine ite_keeps ?_ ?_ | dsimp only | split

theorem State.keepField_keeps {z t s : State} {f : Fld} {base i : Nat} (hz : Keeps z t) : Keeps z (t.keepField s f base i) := State.wr_keeps hz

theorem State.restartLoad_keeps {z s : State} {k : ℕ} (hz : Keeps z s) : Keeps z (State.restartLoad s k) := by
  unfold State.restartLoad
  with_reducible repeat' first | assumption | refine State.wr_keeps ?_ | refine State.setFab_keeps ?_ | refine ite_keeps ?_ ?_

theorem State.resetL1_keeps {z s : State} (hz : Keeps z s) : Keeps z s.resetL1 := by
  unfold State.resetL1
  dsimp only
  refine State.endWindows_keeps (forEach_keeps ?_ fun e s => State.modCap_keeps (Keeps.refl s))
  simp only [keeps_mk]
  refine keepsF_of (forN_keeps (forN_keeps (State.resetRegs_keeps (State.cutTests_keeps (State.endReset_keeps hz))) fun p t =>
      forN_keeps (State.keepField_keeps (Keeps.refl t)) fun b t => State.keepField_keeps (Keeps.refl t)) fun k s =>
      State.restartLoad_keeps (State.wr_keeps (State.wr_keeps (State.setFab_keeps (Keeps.refl s)))))
    (fun m => banks_map_ok m fun e => by split <;> exact id) (fun m => m.2.2.1) (fun m e he => m.2.2.2 e (List.mem_of_mem_filter he))

theorem State.startNow_keeps {z s : State} {d : DispCmd} (hz : Keeps z s) : Keeps z (State.startNow s d) := by
  unfold State.startNow
  with_reducible repeat' first
    | assumption | refine State.refuseProg_keeps ?_ | refine State.queueProg_keeps ?_ | refine State.wr_keeps ?_ | refine ite_keeps ?_ ?_

theorem State.toHost_keeps {z s : State} {addr : ℕ} {bytes : List Byte} (hz : Keeps z s) : Keeps z (State.toHost s addr bytes) := by
  unfold State.toHost
  with_reducible repeat' first
    | assumption | refine State.hostWrite_keeps ?_ | refine State.sendFlow_keeps ?_ | refine ite_keeps ?_ ?_ | refine foldl1_keeps ?_ ?_
    | exact Keeps.refl _ | dsimp only | split | (intro _; try beta_reduce)

theorem State.frameHit_keeps {z s : State} {p : ℕ} {key : ℕ} (hz : Keeps z s) : Keeps z (State.frameHit s p key) := by
  unfold State.frameHit
  with_reducible repeat' first
    | assumption | (simp only [keeps_mk]; refine keeps_fields ?_) | refine State.faultPosition_keeps ?_ | refine ite_keeps ?_ ?_

theorem State.readBack_keeps {z s : State} {p : ℕ} {frame : ℕ} {clean : Bool} (hz : Keeps z s) : Keeps z (State.readBack s p frame clean) := by
  unfold State.readBack
  with_reducible repeat' first | assumption | refine State.setFab_keeps ?_ | refine ite_keeps ?_ ?_ | dsimp only | split

theorem State.learnHalt_keeps {z s : State} {d : ℕ} {seam : ℕ} (hz : Keeps z s) : Keeps z (State.learnHalt s d seam) := by
  unfold State.learnHalt
  with_reducible repeat' first
    | assumption | (simp only [keeps_mk]; refine keeps_fields ?_) | refine State.showSystem_keeps ?_ | refine State.wr_keeps ?_
    | refine ite_keeps ?_ ?_

theorem State.clockBoundary_keeps {z s : State} (hz : Keeps z s) : Keeps z (State.clockBoundary s) := by
  unfold State.clockBoundary
  with_reducible repeat' first
    | assumption | (simp only [keeps_mk]; refine keeps_fields ?_) | refine State.wr_keeps ?_ | refine State.took_keeps ?_
    | refine ite_keeps ?_ ?_

theorem State.planeFreeze_keeps {z s0 : State} {k : ℕ} (hz : Keeps z s0) : Keeps z (State.planeFreeze s0 k) := by
  unfold State.planeFreeze
  with_reducible repeat' first
    | assumption | refine State.clockTo_keeps ?_ | refine State.setFab_keeps ?_ | refine State.restartLoad_keeps ?_
    | refine ite_keeps ?_ ?_

theorem State.landAll_keeps {z s : State} {key : ℕ} (hz : Keeps z s) : Keeps z (State.landAll s key) := by
  unfold State.landAll
  with_reducible repeat' first
    | assumption | refine State.landPost_keeps ?_ | (refine modProcAt_keeps ?_ (fun x h => h)) | refine ite_keeps ?_ ?_
    | refine forEach_keeps ?_ ?_ | exact Keeps.refl _ | dsimp only | split | (intro _; try beta_reduce)

theorem State.freeze_keeps {z s0 : State} {r : HoReq} (hz : Keeps z s0) : Keeps z (State.freeze s0 r) := by
  unfold State.freeze
  with_reducible repeat' first
    | assumption | (simp only [keeps_mk]; refine keeps_fields ?_) | refine State.planeFreeze_keeps ?_ | refine State.landAll_keeps ?_
    | refine State.wr_keeps ?_ | refine State.setPos_keeps ?_ | (refine modProcAt_keeps ?_ (fun x h => h))

theorem State.laneCount64_keeps {z s : State} {c : LaneCtr} {l : ℕ} {n : ℕ} (hz : Keeps z s) : Keeps z (State.laneCount64 s c l n) := by
  unfold State.laneCount64
  with_reducible repeat' first | assumption | refine State.liveAdd64_keeps ?_ | refine ite_keeps ?_ ?_ | dsimp only | split

theorem State.drawKey_keeps {z s : State} (hz : Keeps z s) : Keeps z (State.drawKey s) := by
  unfold State.drawKey
  with_reducible repeat' first | assumption | (simp only [keeps_mk]; refine keeps_fields ?_)

theorem State.patrolNext_keeps {z s : State} {u : MemUnit} (hz : Keeps z s) : Keeps z (State.patrolNext s u) := by
  unfold State.patrolNext
  with_reducible repeat' first
    | assumption | (refine setBank_keeps ?_ (fun m => ?hp); case hp => exact ⟨(bankAt_ok m _ _).1, (bankAt_ok m _ _).2⟩)
    | (refine setBolt_keeps ?_ (fun m => ?hp); case hp => exact boltAt_ok m _) | refine ite_keeps ?_ ?_ | dsimp only | split

theorem State.tellHalt_keeps {z s : State} {d : Device} {seam : ℕ} (hz : Keeps z s) : Keeps z (State.tellHalt s d seam) := by
  unfold State.tellHalt
  with_reducible repeat' first
    | assumption | refine State.showSystem_keeps ?_ | refine State.sendMsg_keeps ?_ | refine State.learnHalt_keeps ?_
    | refine ite_keeps ?_ ?_ | refine forN_keeps ?_ ?_ | exact Keeps.refl _ | dsimp only | split | (intro _; try beta_reduce)

theorem State.memFault_keeps {z s : State} {h : Proc} (hz : Keeps z s) : Keeps z (State.memFault s h) := by
  cases h
  · exact hz
  · exact State.requestHandover_keeps hz
  · exact State.requestMove_keeps hz

theorem State.exhaustGroup_keeps {z s : State} {b : ℕ} {g : ℕ} (hz : Keeps z s) : Keeps z (State.exhaustGroup s b g) := by
  unfold State.exhaustGroup
  with_reducible repeat' first
    | assumption | (simp only [keeps_mk]; refine keeps_fields ?_) | refine State.bump_keeps ?_ | refine State.setGroup_keeps ?_
    | refine ite_keeps ?_ ?_ | dsimp only | split

theorem State.couplerFails_keeps {z s : State} {b : ℕ} {g : ℕ} {c : ℕ} (hz : Keeps z s) : Keeps z (State.couplerFails s b g c) := by
  unfold State.couplerFails
  with_reducible repeat' first
    | assumption | refine State.exhaustGroup_keeps ?_ | refine State.setGroup_keeps ?_ | refine State.wr_keeps ?_ | refine ite_keeps ?_ ?_

theorem State.evqBoundary_keeps {z s : State} (hz : Keeps z s) : Keeps z (State.evqBoundary s) := by
  unfold State.evqBoundary
  with_reducible repeat' first
    | assumption | refine State.putRecord_keeps ?_ | refine ite_keeps ?_ ?_ | refine forEach_keeps ?_ ?_ | exact Keeps.refl _ | dsimp only
    | split | (intro _; try beta_reduce)

theorem State.seamRejoins_keeps {z s : State} {n : ℕ} (hz : Keeps z s) : Keeps z (State.seamRejoins s n) := by
  unfold State.seamRejoins
  with_reducible repeat' first
    | assumption | refine State.showSystem_keeps ?_ | refine State.headRoutes_keeps ?_ | refine State.reportSeam_keeps ?_
    | refine ite_keeps ?_ ?_

theorem State.pagesLost_keeps {z s0 : State} {k : ℕ} {first : ℕ} {last : ℕ} (hz : Keeps z s0) : Keeps z (State.pagesLost s0 k first last) := by
  unfold State.pagesLost
  with_reducible repeat' first
    | assumption | refine State.modCap_keeps ?_ | refine State.skipPages_keeps ?_ | refine State.modChan_keeps ?_ | refine ite_keeps ?_ ?_
    | refine forEach_keeps ?_ ?_ | exact Keeps.refl _ | dsimp only | split | (intro _; try beta_reduce)

theorem State.epochEntry_keeps {z s : State} {e : ℕ} {stitch : ℕ} {root : ℕ} {n : ℕ} (hz : Keeps z s) :
    Keeps z (State.epochEntry s e stitch root n) := by
  unfold State.epochEntry
  with_reducible repeat' first | assumption | refine State.wr_keeps ?_

theorem State.takePeriod_keeps {z s : State} {n : ℕ} {at_ : W64} (hz : Keeps z s) : Keeps z (State.takePeriod s n at_) := by
  unfold State.takePeriod
  with_reducible repeat' first
    | assumption | (simp only [keeps_mk]; refine keeps_fields ?_) | refine State.wr_keeps ?_ | refine ite_keeps ?_ ?_

theorem State.budgetHc_keeps {z s : State} {b : ℕ} (hz : Keeps z s) : Keeps z (State.budgetHc s b) := by
  unfold State.budgetHc
  with_reducible repeat' first
    | assumption | refine State.unloadSlot_keeps ?_ | refine State.dropAdmission_keeps ?_ | refine State.wr_keeps ?_
    | refine ite_keeps ?_ ?_ | refine forEach_keeps ?_ ?_ | refine forN_keeps ?_ ?_ | exact Keeps.refl _ | dsimp only | split
    | (intro _; try beta_reduce)

theorem State.unloadOver_keeps {z s : State} {b : ℕ} (hz : Keeps z s) : Keeps z (State.unloadOver s b) := by
  unfold State.unloadOver
  with_reducible repeat' first
    | assumption | refine State.budgetProc_keeps ?_ | refine State.budgetHc_keeps ?_ | refine ite_keeps ?_ ?_ | refine forN_keeps ?_ ?_
    | exact Keeps.refl _ | dsimp only | split | (intro _; try beta_reduce)

end Sys2Proof.Machine
end

