-- ==== Sys2Proof/Laws/KeepsOps4.lean ====
section
/-! SUPPORT. Every shared operation keeps the queue, the stitch number and canonical memories: one lemma per operation (part 4 of 4). -/

namespace Sys2Proof.Machine

theorem State.copyWord_keeps {z s : State} {pos : ℕ} {e : CopySeen} (hz : Keeps z s) : Keeps z (State.copyWord s pos e) := by
  unfold State.copyWord
  with_reducible repeat' first
    | assumption | (refine setBank_keeps ?_ (fun m => ?hp); case hp => exact ⟨(bankAt_ok m _ _).1, (bankAt_ok m _ _).2⟩)
    | refine State.bucketAdd_keeps ?_ | refine State.noteErr_keeps ?_ | refine State.bumpCorr_keeps ?_ | refine State.countUncorr_keeps ?_
    | refine ite_keeps ?_ ?_ | dsimp only | split

theorem State.swapPlanes_keeps {z s0 : State} {k : ℕ} (hz : Keeps z s0) : Keeps z (State.swapPlanes s0 k) := by
  unfold State.swapPlanes
  with_reducible repeat' first
    | assumption | refine State.clockTo_keeps ?_ | refine State.wr_keeps ?_ | refine State.setFab_keeps ?_ | refine State.raiseP_keeps ?_
    | refine State.clearLines_keeps ?_ | refine State.incr_keeps ?_

theorem State.dueSwap_keeps {z s : State} {k : ℕ} (hz : Keeps z s) : Keeps z (State.dueSwap s k) := by
  unfold State.dueSwap
  with_reducible repeat' first | assumption | refine State.swapPlanes_keeps ?_ | refine State.wr_keeps ?_ | refine ite_keeps ?_ ?_

theorem State.forwardRead_keeps {z s : State} {d : DispCmd} {data : Option (List Byte)} (hz : Keeps z s) : Keeps z (State.forwardRead s d data) := by
  unfold State.forwardRead
  with_reducible repeat' first
    | assumption | refine State.sendFlow_keeps ?_ | refine State.dmaErr_keeps ?_ | refine ite_keeps ?_ ?_ | dsimp only | split

theorem State.takeImage_keeps {z s : State} {d : DispCmd} {data : Option (List Byte)} (hz : Keeps z s) : Keeps z (State.takeImage s d data) := by
  unfold State.takeImage
  with_reducible repeat' first
    | assumption | refine State.complete_keeps ?_ | refine State.dmaErr_keeps ?_ | (refine modProcAt_keeps ?_ (fun x h => h))
    | refine State.showSum_keeps ?_ | refine State.wr_keeps ?_ | refine State.endWork_keeps ?_ | refine ite_keeps ?_ ?_ | dsimp only
    | split

theorem State.loadImage_keeps {z s : State} {d : DispCmd} {data : Option (List Byte)} (hz : Keeps z s) : Keeps z (State.loadImage s d data) := by
  unfold State.loadImage
  with_reducible repeat' first
    | assumption | (simp only [keeps_mk]; refine keeps_fields ?_) | refine State.setPhase_keeps ?_ | refine State.takeImage_keeps ?_
    | refine ite_keeps ?_ ?_ | dsimp only | split

theorem State.cfgRead_keeps {z s : State} {d : DispCmd} {data : Option (List Byte)} (hz : Keeps z s) : Keeps z (State.cfgRead s d data) := by
  unfold State.cfgRead
  with_reducible repeat' first
    | assumption | refine State.abortLoad_keeps ?_ | refine State.dmaErr_keeps ?_ | refine State.takeHeader_keeps ?_
    | refine State.setPhase_keeps ?_ | refine ite_keeps ?_ ?_ | dsimp only | split

theorem State.takeRead_keeps {z s : State} {d : DispCmd} {data : Option (List Byte)} (hz : Keeps z s) : Keeps z (State.takeRead s d data) := by
  unfold State.takeRead
  with_reducible repeat' first
    | assumption | refine State.loadImage_keeps ?_ | refine State.boltInRead_keeps ?_ | refine State.cfgRead_keeps ?_
    | refine State.setStageRead_keeps ?_ | refine ite_keeps ?_ ?_

theorem State.reportBoundary_keeps {z s : State} (hz : Keeps z s) : Keeps z (State.reportBoundary s) := by
  unfold State.reportBoundary
  with_reducible repeat' first | assumption | (simp only [keeps_mk]; refine keeps_fields ?_) | refine ite_keeps ?_ ?_

theorem State.holdLines_keeps {z s : State} {lines : List (ℕ × Raise)} (hz : Keeps z s) : Keeps z (State.holdLines s lines) := by
  unfold State.holdLines
  with_reducible repeat' first | assumption | (simp only [keeps_mk]; refine keeps_fields ?_) | refine ite_keeps ?_ ?_ | dsimp only | split

theorem State.setVs_keeps {z s : State} {key : ℕ} {r : ℕ} {f : ℕ → BitVec 48} (hz : Keeps z s) : Keeps z (State.setVs s key r f) := by
  unfold State.setVs
  with_reducible repeat' first
    | assumption | refine State.setV_keeps ?_ | refine ite_keeps ?_ ?_ | refine forEach_keeps ?_ ?_ | exact Keeps.refl _ | dsimp only
    | split | (intro _; try beta_reduce)

theorem State.trainFail_keeps {z s : State} {c : CouplerId} (hz : Keeps z s) : Keeps z (State.trainFail s c) := by
  unfold State.trainFail
  with_reducible repeat' first
    | assumption | refine State.wr_keeps ?_ | refine State.setGroup_keeps ?_ | refine State.bump_keeps ?_
    | refine State.retirePos_keeps ?_ | refine ite_keeps ?_ ?_ | dsimp only | split

theorem State.trainBoundary_keeps {z s : State} {failed : List CouplerId} {b : ℕ} (hz : Keeps z s) : Keeps z (State.trainBoundary s failed b) := by
  unfold State.trainBoundary
  with_reducible repeat' first
    | assumption | (simp only [keeps_mk]; refine keeps_fields ?_) | refine State.wr_keeps ?_ | refine State.trainFail_keeps ?_
    | refine ite_keeps ?_ ?_ | refine forEach_keeps ?_ ?_ | exact Keeps.refl _ | dsimp only | split | (intro _; try beta_reduce)

theorem State.noTarget_keeps {z s : State} {r : HoReq} (hz : Keeps z s) : Keeps z (State.noTarget s r) := by
  unfold State.noTarget
  with_reducible repeat' first
    | assumption | (simp only [keeps_mk]; refine keeps_fields ?_) | refine State.event_keeps ?_
    | (refine modProcAt_keeps ?_ (fun x h => h)) | refine State.bump_keeps ?_ | refine State.defer_keeps ?_
    | refine State.completeOpt_keeps ?_ | refine ite_keeps ?_ ?_ | dsimp only | split

theorem State.cutBist_keeps {z s : State} {p : ℕ} (hz : Keeps z s) : Keeps z (State.cutBist s p) := by
  unfold State.cutBist
  with_reducible repeat' first
    | assumption | (simp only [keeps_mk]; refine keeps_fields ?_) | refine State.endRuns_keeps ?_ | refine State.cutMarches_keeps ?_

theorem State.startHandover_keeps {z s : State} (hz : Keeps z s) : Keeps z (State.startHandover s) := by
  unfold State.startHandover
  with_reducible repeat' first
    | assumption | (simp only [keeps_mk]; refine keeps_fields ?_) | refine State.showQueued_keeps ?_ | refine State.noTarget_keeps ?_
    | refine State.need_keeps ?_ | refine State.setPos_keeps ?_ | refine State.cutBist_keeps ?_ | refine State.wr_keeps ?_
    | refine ite_keeps ?_ ?_ | dsimp only | split

theorem State.parentBoundary_keeps {z s : State} (hz : Keeps z s) : Keeps z (State.parentBoundary s) := by
  unfold State.parentBoundary
  with_reducible repeat' first
    | assumption | (simp only [keeps_mk]; refine keeps_fields ?_) | refine State.wr_keeps ?_ | refine ite_keeps ?_ ?_
    | refine forN_keeps ?_ ?_ | exact Keeps.refl _ | dsimp only | split | (intro _; try beta_reduce)

theorem State.wakeTests_keeps {z s : State} (hz : Keeps z s) : Keeps z (State.wakeTests s) := by
  unfold State.wakeTests
  with_reducible repeat' first
    | assumption | (simp only [keeps_mk]; refine keeps_fields ?_) | refine State.complete_keeps ?_ | refine State.takePatch_keeps ?_
    | refine State.openTest_keeps ?_ | refine State.setPhase_keeps ?_ | refine State.startMarch_keeps ?_ | refine ite_keeps ?_ ?_
    | refine forEach_keeps ?_ ?_ | exact Keeps.refl _ | dsimp only | split | (intro _; try beta_reduce)

theorem State.tellPeriod_keeps {z s : State} {n : ℕ} (hz : Keeps z s) : Keeps z (State.tellPeriod s n) := by
  unfold State.tellPeriod
  with_reducible repeat' first
    | assumption | refine State.sendMsg_keeps ?_ | refine ite_keeps ?_ ?_ | refine forN_keeps ?_ ?_ | exact Keeps.refl _ | dsimp only
    | split | (intro _; try beta_reduce)

theorem State.periodBoundary_keeps {z s : State} (hz : Keeps z s) : Keeps z (State.periodBoundary s) := by
  unfold State.periodBoundary
  with_reducible repeat' first
    | assumption | (simp only [keeps_mk]; refine keeps_fields ?_) | refine State.wr_keeps ?_ | refine State.tellPeriod_keeps ?_
    | refine State.unloadOver_keeps ?_ | refine ite_keeps ?_ ?_

theorem State.startLoad_keeps {z s : State} {k : ℕ} {slot : ℕ} (hz : Keeps z s) : Keeps z (State.startLoad s k slot) := by
  unfold State.startLoad
  with_reducible repeat' first | assumption | refine State.wr_keeps ?_ | refine State.setFab_keeps ?_ | refine ite_keeps ?_ ?_

theorem State.loadNow_keeps {z s : State} {d : DispCmd} (hz : Keeps z s) : Keeps z (State.loadNow s d) := by
  unfold State.loadNow
  with_reducible repeat' first | assumption | refine State.setPhase_keeps ?_

theorem State.heldNow_keeps {z s : State} {d : DispCmd} (hz : Keeps z s) : Keeps z (State.heldNow s d) := by
  unfold State.heldNow
  with_reducible repeat' first
    | assumption | refine State.loadNow_keeps ?_ | refine State.admitImage_keeps ?_ | refine State.startNow_keeps ?_
    | refine State.queueProg_keeps ?_ | refine State.setPhase_keeps ?_ | refine ite_keeps ?_ ?_ | dsimp only | split

theorem State.seeHot_keeps {z s : State} {n : ℕ} {hot : Option (Layer × BitVec 12)} {dev : ℕ} (hz : Keeps z s) :
    Keeps z (State.seeHot s n hot dev) := by
  unfold State.seeHot
  with_reducible repeat' first
    | assumption | refine State.modSeam_keeps ?_ | refine State.event_keeps ?_ | refine ite_keeps ?_ ?_ | dsimp only | split

theorem State.measure_keeps {z s : State} {n : ℕ} {rtt : ℕ} (hz : Keeps z s) : Keeps z (State.measure s n rtt) := by
  unfold State.measure
  with_reducible repeat' first | assumption | refine State.wr_keeps ?_ | refine State.modSeam_keeps ?_

theorem State.trainBlock_keeps {z s : State} {k : ℕ} {slot : ℕ} {b : Beat} {os : Bool} (hz : Keeps z s) :
    Keeps z (State.trainBlock s k slot b os) := by
  unfold State.trainBlock
  with_reducible repeat' first
    | assumption | refine State.newUnit_keeps ?_ | refine State.joinUnit_keeps ?_ | refine State.endUnit_keeps ?_ | refine ite_keeps ?_ ?_
    | dsimp only | split

theorem State.capTake_keeps {z s : State} {k : ℕ} {slot : ℕ} {pcs : ℕ} {b : Beat} (hz : Keeps z s) : Keeps z (State.capTake s k slot pcs b) := by
  unfold State.capTake
  with_reducible repeat' first
    | assumption | refine State.endUnit_keeps ?_ | refine State.newUnit_keeps ?_ | refine State.showCap_keeps ?_
    | refine State.setInFrame_keeps ?_ | refine State.frameOctets_keeps ?_ | refine State.endTrain_keeps ?_
    | refine State.trainBlock_keeps ?_ | refine ite_keeps ?_ ?_ | dsimp only | split

theorem State.startOffload_keeps {z s : State} {d : DispCmd} (hz : Keeps z s) : Keeps z (State.startOffload s d) := by
  unfold State.startOffload
  with_reducible repeat' first
    | assumption | refine State.complete_keeps ?_ | refine State.openChan_keeps ?_ | refine State.setPhase_keeps ?_
    | refine ite_keeps ?_ ?_

theorem State.badWindow_keeps {z s : State} (hz : Keeps z s) : Keeps z (State.badWindow s) := by
  unfold State.badWindow
  with_reducible repeat' first
    | assumption | (simp only [keeps_mk]; refine keeps_fields ?_) | refine State.wr_keeps ?_ | refine State.showRefout_keeps ?_
    | refine State.event_keeps ?_ | refine ite_keeps ?_ ?_ | refine forN_keeps ?_ ?_ | exact Keeps.refl _ | dsimp only | split
    | (intro _; try beta_reduce)

theorem State.planeWrite_keeps {z s : State} {k : ℕ} {v : Sys2Proof.W32} {be : ℕ} (h : Keeps z s) : Keeps z (s.planeWrite k v be) :=
  State.viaPatch_keeps h (State.writePlaneCtl_keeps h)

theorem State.setBall_keeps {z s : State} {b : ℕ} {x : BallSt} (hz : Keeps z s) : Keeps z (State.setBall s b x) := by
  unfold State.setBall
  with_reducible repeat' first | assumption | (simp only [keeps_mk]; refine keeps_fields ?_)

theorem State.bankPut_keeps {z s : State} {k : ℕ} {b : ℕ} {a : ℕ} {data : List Byte} {mask : List Bool} {seen : List Ecc} (hz : Keeps z s) :
    Keeps z (State.bankPut s k b a data mask seen).1 := by
  unfold State.bankPut
  with_reducible repeat' first
    | assumption | refine State.bankWrite_keeps ?_ | refine ite_keeps ?_ ?_ | refine foldl1_keeps ?_ ?_ | exact Keeps.refl _ | dsimp only
    | split | (intro _; try beta_reduce)

theorem State.showFrames_keeps {z s : State} {k : ℕ} (hz : Keeps z s) : Keeps z (State.showFrames s k) := by
  unfold State.showFrames
  with_reducible repeat' first | assumption | refine State.wr_keeps ?_

theorem State.loadOn_keeps {z s : State} {p : ℕ} {k : ℕ} (hz : Keeps z s) : Keeps z (State.loadOn s p k) := by
  unfold State.loadOn
  with_reducible repeat' first
    | assumption | refine State.wr_keeps ?_ | refine State.setFab_keeps ?_ | refine State.showFrames_keeps ?_ | refine ite_keeps ?_ ?_

theorem State.retryRefused_keeps {z s : State} (hz : Keeps z s) : Keeps z (State.retryRefused s) := by
  unfold State.retryRefused
  with_reducible repeat' first
    | assumption | (simp only [keeps_mk]; refine keeps_fields ?_) | refine State.requestHandover_keeps ?_ | refine ite_keeps ?_ ?_
    | refine forEach_keeps ?_ ?_ | exact Keeps.refl _ | dsimp only | split | (intro _; try beta_reduce)

theorem State.cvTake_keeps {z s : State} {k : ℕ} {slot : ℕ} {bytes : List Byte} {ctl : List Bool} (hz : Keeps z s) :
    Keeps z (State.cvTake s k slot bytes ctl) := by
  unfold State.cvTake
  with_reducible repeat' first | assumption | refine State.setCv_keeps ?_ | refine State.wr_keeps ?_ | refine ite_keeps ?_ ?_

theorem State.cvBegin_keeps {z s : State} {k : ℕ} {slot : ℕ} (hz : Keeps z s) : Keeps z (State.cvBegin s k slot) := by
  unfold State.cvBegin
  with_reducible repeat' first | assumption | refine State.setCv_keeps ?_ | refine ite_keeps ?_ ?_

theorem State.cvRx_keeps {z s : State} {k : ℕ} {slot : ℕ} {pcs : ℕ} {kind : SKind} {bytes : List Byte} {ctl : List Bool} (hz : Keeps z s) :
    Keeps z (State.cvRx s k slot pcs kind bytes ctl).1 := by
  unfold State.cvRx
  with_reducible repeat' first
    | assumption | refine State.cvEnd_keeps ?_ | refine State.capCheck_keeps ?_ | refine State.cvTake_keeps ?_
    | refine State.cvBegin_keeps ?_ | refine State.cvCut_keeps ?_ | refine ite_keeps ?_ ?_ | dsimp only | split

theorem State.moveBank_keeps {z s : State} {from_ to_ b : Nat} (hz : Keeps z s) : Keeps z (s.moveBank from_ to_ b) := by
  refine hz.trans ⟨rfl, rfl, fun m => ?_⟩
  have h : bankOk (s.bankAt from_ b) := bankAt_ok m from_ b
  have h1 := (setBank_keeps (p := from_) (b := b) (x := { s.bankAt from_ b with copy := [] }) (Keeps.refl s) fun _ => h).2.2 m
  unfold State.moveBank
  exact (setBank_keeps (Keeps.refl _) fun _ => BankSt.copied_ok h).2.2 h1

theorem State.ownBist_keeps {z s : State} {u : BistUnit} (hz : Keeps z s) : Keeps z (State.ownBist s u) := by
  unfold State.ownBist
  with_reducible repeat' first | assumption | (simp only [keeps_mk]; refine keeps_fields ?_) | refine ite_keeps ?_ ?_

theorem State.capLine_keeps {z s : State} {k : ℕ} {line : ℕ} {t : Stamp} (hz : Keeps z s) : Keeps z (State.capLine s k line t) := by
  unfold State.capLine
  with_reducible repeat' first | assumption | refine State.capTrigger_keeps ?_ | refine ite_keeps ?_ ?_

theorem State.watchTrigger_keeps {z s : State} {key : ℕ} {lines : List ℕ} (hz : Keeps z s) : Keeps z (State.watchTrigger s key lines) := by
  unfold State.watchTrigger
  with_reducible repeat' first | assumption | refine State.raiseProc_keeps ?_ | refine ite_keeps ?_ ?_

theorem State.presentLines_keeps {z s : State} {k : ℕ} {lines : List (ℕ × Raise)} (hz : Keeps z s) : Keeps z (State.presentLines s k lines) := by
  unfold State.presentLines
  with_reducible repeat' first
    | assumption | refine State.capLine_keeps ?_ | refine State.watchTrigger_keeps ?_ | refine State.fireWatches_keeps ?_
    | refine State.dueSwap_keeps ?_ | refine ite_keeps ?_ ?_ | refine forEach_keeps ?_ ?_ | exact Keeps.refl _ | dsimp only | split
    | (intro _; try beta_reduce)

theorem State.capRebind_keeps {z s : State} {k : ℕ} (hz : Keeps z s) : Keeps z (State.capRebind s k) := by
  unfold State.capRebind
  with_reducible repeat' first | assumption | refine State.modCap_keeps ?_

theorem State.stopProg_keeps {z s : State} {key : ℕ} {slot : ℕ} {c : CmdRef} (hz : Keeps z s) : Keeps z (State.stopProg s key slot c) := by
  unfold State.stopProg
  with_reducible repeat' first
    | assumption | refine State.complete_keeps ?_ | refine State.showSum_keeps ?_ | refine State.wr_keeps ?_
    | (refine modProcAt_keeps ?_ (fun x h => h)) | refine ite_keeps ?_ ?_

theorem State.dispatchOne_keeps {z s : State} {sp : ℕ} (hz : Keeps z s) : Keeps z (State.dispatchOne s sp) := by
  unfold State.dispatchOne
  with_reducible repeat' first
    | assumption | (simp only [keeps_mk]; refine keeps_fields ?_) | refine State.incr_keeps ?_ | refine State.setSpool_keeps ?_
    | refine State.bump_keeps ?_ | refine State.showPending_keeps ?_ | refine State.setSlot_keeps ?_ | refine State.landCmd_keeps ?_
    | refine State.forward_keeps ?_ | refine ite_keeps ?_ ?_ | dsimp only | split

theorem State.dispatch_keeps {z s : State} (hz : Keeps z s) : Keeps z (State.dispatch s) := by
  unfold State.dispatch
  with_reducible repeat' first
    | assumption | refine State.setSpool_keeps ?_ | refine State.dispatchOne_keeps ?_ | refine ite_keeps ?_ ?_ | refine forN_keeps ?_ ?_
    | exact Keeps.refl _ | dsimp only | split | (intro _; try beta_reduce)

theorem State.flushVectors_keeps {z s : State} (hz : Keeps z s) : Keeps z (State.flushVectors s) := by
  unfold State.flushVectors
  with_reducible repeat' first
    | assumption | (simp only [keeps_mk]; refine keeps_fields ?_) | refine State.setPba_keeps ?_ | refine State.sendVector_keeps ?_
    | refine ite_keeps ?_ ?_ | refine forEach_keeps ?_ ?_ | exact Keeps.refl _ | dsimp only | split | (intro _; try beta_reduce)

theorem State.hostBoundary_keeps {z s : State} (hz : Keeps z s) : Keeps z (State.hostBoundary s) := by
  unfold State.hostBoundary
  with_reducible repeat' first
    | assumption | refine State.dispatch_keeps ?_ | refine State.flushVectors_keeps ?_ | refine State.readyAll_keeps ?_

theorem State.showStart_keeps {z s : State} {key : ℕ} (hz : Keeps z s) : Keeps z (State.showStart s key) := by
  unfold State.showStart
  with_reducible repeat' first | assumption | refine State.wr_keeps ?_ | refine ite_keeps ?_ ?_

theorem State.checkerFail_keeps {z s : State} {c : Checker} (hz : Keeps z s) : Keeps z (State.checkerFail s c) := by
  unfold State.checkerFail
  with_reducible repeat' first
    | assumption | (simp only [keeps_mk]; refine keeps_fields ?_) | refine State.event_keeps ?_ | refine State.retirePos_keeps ?_
    | refine State.boltSpare_keeps ?_ | refine ite_keeps ?_ ?_ | dsimp only | split

theorem State.deliverUnit_keeps {z s : State} {l : ℕ} {k : ℕ} {slot : ℕ} {e : EbUnit} {u : RxUnit} (hz : Keeps z s) :
    Keeps z (State.deliverUnit s l k slot e u) := by
  unfold State.deliverUnit
  with_reducible repeat' first
    | assumption | refine State.endLate_keeps ?_ | refine State.modLane_keeps ?_ | refine State.setFab_keeps ?_
    | refine State.cvRx_keeps ?_ | refine State.capTake_keeps ?_ | refine ite_keeps ?_ ?_ | refine forEach_keeps ?_ ?_
    | exact Keeps.refl _ | dsimp only | split | (intro _; try beta_reduce)

theorem State.readOldest_keeps {z s : State} {l : ℕ} (hz : Keeps z s) : Keeps z (State.readOldest s l).1 := by
  unfold State.readOldest
  with_reducible repeat' first
    | assumption | refine State.modLane_keeps ?_ | refine State.deliverUnit_keeps ?_ | refine State.cutSlot_keeps ?_
    | refine ite_keeps ?_ ?_ | dsimp only | split

theorem State.readWhile_keeps {z s : State} {l n : Nat} (hz : Keeps z s) : Keeps z (s.readWhile l n) := by
  induction n generalizing s with
  | zero => exact hz
  | succ n ih =>
    simp only [State.readWhile]
    with_reducible repeat' first
      | assumption | refine State.modLane_keeps ?_ | refine State.readOldest_keeps ?_ | refine ih ?_ | refine ite_keeps ?_ ?_ | split

theorem State.ebBoundary_keeps {z s : State} {p : ℕ} (hz : Keeps z s) : Keeps z (State.ebBoundary s p) := by
  unfold State.ebBoundary
  with_reducible repeat' first
    | assumption | refine State.readWhile_keeps ?_ | refine State.modLane_keeps ?_ | refine ite_keeps ?_ ?_ | refine forEach_keeps ?_ ?_
    | exact Keeps.refl _ | dsimp only | split | (intro _; try beta_reduce)

theorem State.selectSlot_keeps {z s : State} (hz : Keeps z s) : Keeps z (State.selectSlot s) := by
  unfold State.selectSlot
  with_reducible repeat' first
    | assumption | refine State.beginProgram_keeps ?_ | (refine modProcAt_keeps ?_ (fun x h => h)) | refine ite_keeps ?_ ?_ | dsimp only
    | split

theorem State.setO_keeps {z s : State} {key : ℕ} {r : ℕ} {v : W32} (hz : Keeps z s) : Keeps z (State.setO s key r v) := by
  unfold State.setO
  with_reducible repeat' first | assumption | (refine modProcAt_keeps ?_ (fun x h => h)) | refine ite_keeps ?_ ?_

theorem State.viaPos_keeps {z s t : State} {p : ℕ} {o : ℕ} {v : W32} {be : ℕ} (hz : Keeps z s) (hz1 : Keeps z t) :
    Keeps z (State.viaPos s p o v be t) := by
  unfold State.viaPos
  with_reducible repeat' first | assumption | (simp only [keeps_mk]; refine keeps_fields ?_) | refine ite_keeps ?_ ?_ | dsimp only | split

theorem State.noteIndex_keeps {z s : State} {k : ℕ} {r : CapRec} (hz : Keeps z s) : Keeps z (State.noteIndex s k r) := by
  unfold State.noteIndex
  with_reducible repeat' first
    | assumption | refine State.modCap_keeps ?_ | refine State.putIndex_keeps ?_ | refine ite_keeps ?_ ?_ | dsimp only | split

theorem State.pquietBoundary_keeps {z s : State} (hz : Keeps z s) : Keeps z (State.pquietBoundary s) := by
  unfold State.pquietBoundary
  with_reducible repeat' first
    | assumption | (simp only [keeps_mk]; refine keeps_fields ?_) | refine State.wr_keeps ?_ | refine ite_keeps ?_ ?_
    | refine forN_keeps ?_ ?_ | exact Keeps.refl _ | dsimp only | split | (intro _; try beta_reduce)

theorem State.dropQueue_keeps {z s : State} {k : ℕ} (hz : Keeps z s) : Keeps z (State.dropQueue s k) := by
  unfold State.dropQueue
  with_reducible repeat' first
    | assumption | refine State.unBytes_keeps ?_ | refine State.modCap_keeps ?_ | refine ite_keeps ?_ ?_ | refine forEach_keeps ?_ ?_
    | refine foldl1_keeps ?_ ?_ | exact Keeps.refl _ | dsimp only | split | (intro _; try beta_reduce)

theorem State.bankStop_keeps {z s : State} {k : ℕ} (hz : Keeps z s) : Keeps z (State.bankStop s k) := by
  unfold State.bankStop
  with_reducible repeat' first
    | assumption | refine State.bump_keeps ?_ | refine State.stopCap_keeps ?_ | refine State.modCap_keeps ?_
    | refine State.dropQueue_keeps ?_ | refine ite_keeps ?_ ?_

theorem State.resendBoundary_keeps {z s : State} (hz : Keeps z s) : Keeps z (State.resendBoundary s) := by
  unfold State.resendBoundary
  with_reducible repeat' first
    | assumption | (simp only [keeps_mk]; refine keeps_fields ?_) | refine State.completeOpt_keeps ?_ | refine ite_keeps ?_ ?_
    | refine forEach_keeps ?_ ?_ | exact Keeps.refl _ | dsimp only | split | (intro _; try beta_reduce)

theorem State.testVacated_keeps {z s : State} {c : CmdRef} {pos : ℕ} (hz : Keeps z s) : Keeps z (State.testVacated s c pos) := by
  unfold State.testVacated
  with_reducible repeat' first
    | assumption | refine State.complete_keeps ?_ | refine State.startMarch_keeps ?_ | refine ite_keeps ?_ ?_ | dsimp only | split

theorem State.stopMarch_keeps {z s : State} {m : MarchRun} (hz : Keeps z s) : Keeps z (State.stopMarch s m) := by
  unfold State.stopMarch
  with_reducible repeat' first | assumption | refine State.wr_keeps ?_

theorem State.startCap_keeps {z s : State} {k : ℕ} {c : Option CmdRef} (hz : Keeps z s) : Keeps z (State.startCap s k c) := by
  unfold State.startCap
  with_reducible repeat' first
    | assumption | refine State.completeOpt_keeps ?_ | refine State.wr_keeps ?_ | refine State.incr_keeps ?_
    | refine State.setCap_keeps ?_ | refine State.showCap_keeps ?_ | refine State.openSeg_keeps ?_ | refine ite_keeps ?_ ?_

theorem State.capBoundary_keeps {z s : State} {changed : List ℕ} {k : ℕ} (hz : Keeps z s) : Keeps z (State.capBoundary s changed k) := by
  unfold State.capBoundary
  with_reducible repeat' first
    | assumption | refine State.bankStop_keeps ?_ | refine State.modCap_keeps ?_ | refine State.startCap_keeps ?_
    | refine State.haltCap_keeps ?_ | refine State.cutChunk_keeps ?_ | refine State.showCap_keeps ?_ | refine State.wr_keeps ?_
    | refine ite_keeps ?_ ?_ | refine forEach_keeps ?_ ?_ | exact Keeps.refl _ | dsimp only | split | (intro _; try beta_reduce)

theorem State.planeRequests_keeps {z s1 : State} {lines : List ℕ} {k : ℕ} (hz : Keeps z s1) : Keeps z (State.planeRequests s1 lines k) := by
  unfold State.planeRequests
  with_reducible repeat' first
    | assumption | refine State.wr_keeps ?_ | refine State.setFab_keeps ?_ | refine State.dueSwap_keeps ?_
    | refine State.startLoad_keeps ?_ | refine ite_keeps ?_ ?_ | dsimp only | split

theorem State.planeBoundary_keeps {z s : State} {p : ℕ} {lines : List ℕ} {k : ℕ} (hz : Keeps z s) : Keeps z (State.planeBoundary s p lines k) := by
  unfold State.planeBoundary
  with_reducible repeat' first | assumption | refine State.planeRequests_keeps ?_ | refine State.loadOn_keeps ?_ | refine ite_keeps ?_ ?_

theorem State.patchStep_keeps {z s : State} {p : ℕ} {lines : List (ℕ × Raise)} {changed : List ℕ} {k : ℕ} (hz : Keeps z s) :
    Keeps z (State.patchStep s p lines changed k) := by
  unfold State.patchStep
  with_reducible repeat' first
    | assumption | refine State.capLine_keeps ?_ | refine State.capBoundary_keeps ?_ | refine State.lineBoundary_keeps ?_
    | refine State.planeBoundary_keeps ?_ | refine State.patBoundary_keeps ?_ | refine ite_keeps ?_ ?_ | refine forEach_keeps ?_ ?_
    | exact Keeps.refl _ | dsimp only | split | (intro _; try beta_reduce)

theorem State.landImages_keeps {z s : State} {k : ℕ} (hz : Keeps z s) : Keeps z (State.landImages s k) := by
  unfold State.landImages
  with_reducible repeat' first
    | assumption | (simp only [keeps_mk]; refine keeps_fields ?_) | refine State.takeImage_keeps ?_ | refine ite_keeps ?_ ?_
    | refine forEach_keeps ?_ ?_ | exact Keeps.refl _ | dsimp only | split | (intro _; try beta_reduce)

theorem State.snapshot_keeps {z s : State} (hz : Keeps z s) : Keeps z (State.snapshot s) := by
  unfold State.snapshot
  with_reducible repeat' first
    | assumption | (simp only [keeps_mk]; refine keeps_fields ?_) | refine State.rebuildNode_keeps ?_ | refine ite_keeps ?_ ?_
    | refine forEach_keeps ?_ ?_ | refine forN_keeps ?_ ?_ | refine foldl1_keeps ?_ ?_ | exact Keeps.refl _ | dsimp only | split
    | (intro _; try beta_reduce)

theorem State.entryRead_keeps {z s : State} {sp : ℕ} {entry : Option (List Byte)} (hz : Keeps z s) : Keeps z (State.entryRead s sp entry) := by
  unfold State.entryRead
  with_reducible repeat' first
    | assumption | refine State.setSpool_keeps ?_ | refine State.wr_keeps ?_ | refine State.aerNote_keeps ?_ | refine State.bump_keeps ?_
    | refine ite_keeps ?_ ?_ | dsimp only | split

theorem State.exhBoundary_keeps {z s : State} (hz : Keeps z s) : Keeps z (State.exhBoundary s) := by
  unfold State.exhBoundary
  with_reducible repeat' first
    | assumption | (simp only [keeps_mk]; refine keeps_fields ?_) | refine State.wr_keeps ?_ | refine State.requestHandover_keeps ?_
    | refine ite_keeps ?_ ?_ | refine forEach_keeps ?_ ?_ | exact Keeps.refl _ | dsimp only | split | (intro _; try beta_reduce)

theorem State.queueCopies_keeps {z s : State} {k : ℕ} {t : ℕ} {q : SendSt} {kind : ℕ} {slen : ℕ} {body : List Byte} (hz : Keeps z s) :
    Keeps z (State.queueCopies s k t q kind slen body) := by
  unfold State.queueCopies
  with_reducible repeat' first
    | assumption | refine State.modPat_keeps ?_ | refine State.bump_keeps ?_ | refine ite_keeps ?_ ?_ | refine forEach_keeps ?_ ?_
    | exact Keeps.refl _ | dsimp only | split | (intro _; try beta_reduce)

theorem State.sendChain_keeps {z s : State} {bs : List Byte} (hz : Keeps z s) : Keeps z (State.sendChain s bs) := by
  unfold State.sendChain
  with_reducible repeat' first | assumption | refine State.modSeam_keeps ?_ | refine ite_keeps ?_ ?_

theorem State.passSection_keeps {z s : State} {l : LoadSt} {raw : List Byte} (hz : Keeps z s) : Keeps z (State.passSection s l raw) := by
  unfold State.passSection
  with_reducible repeat' first
    | assumption | (simp only [keeps_mk]; refine keeps_fields ?_) | refine State.sendChain_keeps ?_ | refine ite_keeps ?_ ?_

theorem State.startSlot_keeps {z s : State} {n : ℕ} {c : CmdRef} (hz : Keeps z s) : Keeps z (State.startSlot s n c) := by
  unfold State.startSlot
  with_reducible repeat' first
    | assumption | refine State.refuseProg_keeps ?_ | refine State.complete_keeps ?_ | refine State.showSum_keeps ?_ | refine State.wr_keeps ?_
    | (refine modProcAt_keeps ?_ (fun x h => ?hp); case hp => first | exact h | (simp only [ProcSt.clearRegs]; exact h)) | refine ite_keeps ?_ ?_

theorem State.startProg_keeps {z s : State} {key : ℕ} {c : CmdRef} (hz : Keeps z s) : Keeps z (State.startProg s key c) := by
  unfold State.startProg
  with_reducible repeat' first
    | assumption | refine State.refuseProg_keeps ?_ | refine State.wr_keeps ?_ | refine State.complete_keeps ?_
    | (refine modProcAt_keeps ?_ (fun x h => ?hp); case hp => first | exact h | (simp only [ProcSt.clearRegs]; exact h)) | refine ite_keeps ?_ ?_

theorem State.startStop_keeps {z s : State} {key : ℕ} (hz : Keeps z s) : Keeps z (State.startStop s key) := by
  unfold State.startStop
  with_reducible repeat' first
    | assumption | (refine modProcAt_keeps ?_ (fun x h => h)) | refine State.showStart_keeps ?_ | refine State.startSlot_keeps ?_
    | refine State.startProg_keeps ?_ | refine State.stopProg_keeps ?_ | refine ite_keeps ?_ ?_ | refine forEach_keeps ?_ ?_
    | exact Keeps.refl _ | dsimp only | split | (intro _; try beta_reduce)

theorem State.selectProg_keeps {z s : State} {key : ℕ} (hz : Keeps z s) : Keeps z (State.selectProg s key) := by
  unfold State.selectProg
  with_reducible repeat' first
    | assumption | refine State.beginProgram_keeps ?_ | refine State.wr_keeps ?_
    | (refine modProcAt_keeps ?_ (fun x h => ?hp); case hp => first | exact h | (simp only [ProcSt.clearRegs]; exact h) | exact storeBytes_ok h | ((repeat' split) <;> first | exact h | exact putBytes_ok h))
    | refine ite_keeps ?_ ?_

theorem State.stepTwo_keeps {z s : State} (hz : Keeps z s) : Keeps z (State.stepTwo s) := by
  unfold State.stepTwo
  with_reducible repeat' first
    | assumption | (simp only [keeps_mk]; refine keeps_fields ?_) | refine State.startStop_keeps ?_ | refine State.selectSlot_keeps ?_
    | refine State.selectProg_keeps ?_ | refine ite_keeps ?_ ?_ | refine forEach_keeps ?_ ?_ | exact Keeps.refl _ | dsimp only | split
    | (intro _; try beta_reduce)

theorem State.resetL3_keeps {z s : State} (hz : Keeps z s) : Keeps z s.resetL3 := by
  unfold State.resetL3
  dsimp only
  refine State.dropCopies_keeps (State.endWindows_keeps ?_)
  simp only [keeps_mk]
  refine keepsF_of (forN_keeps (forN_keeps (forN_keeps (State.resetRegs_keeps (State.cutTests_keeps (State.endReset_keeps hz))) fun p t =>
      forN_keeps (Keeps.refl t) fun b t => State.keepField_keeps (Keeps.refl t)) fun k t => ?_) fun k s => State.restartLoad_keeps (Keeps.refl s))
    (fun m => banks_map_ok m fun e => by split <;> exact id) (fun m => bolts_map_ok m fun e => id) (fun m => m.2.2.2)
  refine ite_keeps ?_ (State.showRekey_keeps (State.keepField_keeps (Keeps.refl t)))
  simp only [keeps_mk]
  exact keeps_fields (State.wr_keeps (State.showRekey_keeps (State.keepField_keeps (Keeps.refl t))))

theorem State.setHalves_keeps {z s : State} {key : ℕ} {r : ℕ} {f : ℕ → ℤ} (hz : Keeps z s) : Keeps z (State.setHalves s key r f) := by
  unfold State.setHalves
  with_reducible repeat' first | assumption | refine State.setG_keeps ?_

theorem State.writeFrame_keeps {z s : State} {k : ℕ} {pl : ℕ} {index : ℕ} {items : List PlaneItem} (hz : Keeps z s) :
    Keeps z (State.writeFrame s k pl index items) := by
  unfold State.writeFrame
  with_reducible repeat' first | assumption | refine State.setFab_keeps ?_

theorem State.writeStored_keeps {z s : State} {k : ℕ} {slot : ℕ} {index : ℕ} {items : List PlaneItem} (hz : Keeps z s) :
    Keeps z (State.writeStored s k slot index items) := by
  unfold State.writeStored
  with_reducible repeat' first
    | assumption | (simp only [keeps_mk]; refine keeps_fields ?_) | refine State.wr_keeps ?_ | refine State.writeFrame_keeps ?_

theorem State.landFrames_keeps {z s : State} {k : ℕ} (hz : Keeps z s) : Keeps z (State.landFrames s k) := by
  unfold State.landFrames
  with_reducible repeat' first
    | assumption | (simp only [keeps_mk]; refine keeps_fields ?_) | refine State.writeStored_keeps ?_ | refine ite_keeps ?_ ?_
    | refine forEach_keeps ?_ ?_ | exact Keeps.refl _ | dsimp only | split | (intro _; try beta_reduce)

theorem State.freeHandover_keeps {z s0 : State} {k : ℕ} (hz : Keeps z s0) : Keeps z (State.freeHandover s0 k) := by
  unfold State.freeHandover
  with_reducible repeat' first
    | assumption | (simp only [keeps_mk]; refine keeps_fields ?_) | refine State.drainBinds_keeps ?_ | refine State.setFab_keeps ?_
    | refine State.landImages_keeps ?_ | refine State.landFrames_keeps ?_ | refine State.heldNow_keeps ?_ | refine ite_keeps ?_ ?_
    | refine forEach_keeps ?_ ?_ | exact Keeps.refl _ | dsimp only | split | (intro _; try beta_reduce)

theorem State.endDrain_keeps {z s : State} (hz : Keeps z s) : Keeps z (State.endDrain s) := by
  unfold State.endDrain
  with_reducible repeat' first
    | assumption | (simp only [keeps_mk]; refine keeps_fields ?_) | refine State.wr_keeps ?_ | refine State.incr_keeps ?_
    | refine State.raiseProc_keeps ?_ | refine State.event_keeps ?_ | refine State.freeHandover_keeps ?_
    | refine State.testVacated_keeps ?_ | refine State.complete_keeps ?_ | refine ite_keeps ?_ ?_ | dsimp only | split

theorem State.replayFrame_keeps {z s : State} {n : ℕ} (hz : Keeps z s) : Keeps z (State.replayFrame s n) := by
  unfold State.replayFrame
  with_reducible repeat' first | assumption | refine State.sendChain_keeps ?_ | refine ite_keeps ?_ ?_

theorem State.placePlane_keeps {z s : State} {k : ℕ} {pl : ℕ} {id : ℕ} (hz : Keeps z s) : Keeps z (State.placePlane s k pl id) := by
  unfold State.placePlane
  with_reducible repeat' first
    | assumption | (simp only [keeps_mk]; refine keeps_fields ?_) | refine State.wr_keeps ?_ | refine State.setFab_keeps ?_
    | refine ite_keeps ?_ ?_

theorem State.bandBoundary_keeps {z s : State} (hz : Keeps z s) : Keeps z (State.bandBoundary s) := by
  unfold State.bandBoundary
  with_reducible repeat' first
    | assumption | refine State.raiseProc_keeps ?_ | refine State.wr_keeps ?_ | refine ite_keeps ?_ ?_ | refine forN_keeps ?_ ?_
    | exact Keeps.refl _ | dsimp only | split | (intro _; try beta_reduce)

theorem State.logEntry_keeps {z s : State} {line : ℕ} {r : Raise} (hz : Keeps z s) : Keeps z (State.logEntry s line r) := by
  unfold State.logEntry
  with_reducible repeat' first
    | assumption | (simp only [keeps_mk]; refine keeps_fields ?_) | refine State.bump_keeps ?_ | refine State.wr_keeps ?_
    | refine ite_keeps ?_ ?_

theorem State.latchLines_keeps {z s : State} (hz : Keeps z s) : Keeps z (State.latchLines s).1 := by
  unfold State.latchLines
  with_reducible repeat' first
    | assumption | (simp only [keeps_mk]; refine keeps_fields ?_) | refine State.logEntry_keeps ?_ | refine ite_keeps ?_ ?_
    | refine forEach_keeps ?_ ?_ | refine foldl1_keeps ?_ ?_ | exact Keeps.refl _ | dsimp only | split | (intro _; try beta_reduce)

theorem State.stepOne_keeps {z s : State} (hz : Keeps z s) : Keeps z (State.stepOne s).1 := by
  unfold State.stepOne
  with_reducible repeat' first
    | assumption | refine State.latchLines_keeps ?_ | refine State.holdLines_keeps ?_ | refine State.carryRaises_keeps ?_
    | refine State.watchTrigger_keeps ?_ | refine ite_keeps ?_ ?_ | refine forN_keeps ?_ ?_ | exact Keeps.refl _ | dsimp only | split
    | (intro _; try beta_reduce)

theorem State.takeClaim_keeps {z s : State} {devnum : ℕ} {depth : ℕ} {roles : ℕ} (hz : Keeps z s) :
    Keeps z (State.takeClaim s devnum depth roles) := by
  unfold State.takeClaim
  with_reducible repeat' first
    | assumption | (simp only [keeps_mk]; refine keeps_fields ?_) | refine State.setRoles_keeps ?_ | refine State.wr_keeps ?_
    | refine ite_keeps ?_ ?_

theorem State.winAnswer_keeps {z s : State} {d : ℕ} {v : W32} {hi : W32} (hz : Keeps z s) : Keeps z (State.winAnswer s d v hi) := by
  unfold State.winAnswer
  with_reducible repeat' first | assumption | (simp only [keeps_mk]; refine keeps_fields ?_) | refine ite_keeps ?_ ?_ | dsimp only | split

theorem State.takeResult_keeps {z s : State} {c : Sys2Proof.CmdRef} {st : ℕ} {data : List Sys2Proof.W32} (h : Keeps z s) :
    Keeps z (s.takeResult c st data) := by
  unfold State.takeResult
  split
  · split
    · rename_i e
      split at e
      · exact State.remoteOffload_keeps h e
      · contradiction
    · exact State.complete_keeps h
  · exact h

theorem State.takeMsg_keeps {z s : State} {n : ℕ} {m : Msg} (hz : Keeps z s) : Keeps z (State.takeMsg s n m) := by
  unfold State.takeMsg
  with_reducible repeat' first
    | assumption | (simp only [keeps_mk]; refine keeps_fields ?_) | refine State.sendMsg_keeps ?_ | refine State.busWrite_keeps ?_
    | refine State.winAnswer_keeps ?_ | refine State.takeCommand_keeps ?_ | refine State.takeResult_keeps ?_
    | refine State.setWide_keeps ?_ | refine State.wr_keeps ?_ | refine State.setRoute_keeps ?_ | refine State.showSystem_keeps ?_
    | refine State.headRoutes_keeps ?_ | refine State.learnHalt_keeps ?_ | refine State.markHalted_keeps ?_
    | refine State.takeClaim_keeps ?_ | refine State.replayFrame_keeps ?_ | refine State.beSingle_keeps ?_
    | refine State.takePeriod_keeps ?_ | refine ite_keeps ?_ ?_ | dsimp only | split

theorem State.refoutBoundary_keeps {z s : State} (hz : Keeps z s) : Keeps z (State.refoutBoundary s) := by
  unfold State.refoutBoundary
  with_reducible repeat' first
    | assumption | refine State.showRefout_keeps ?_ | refine State.refoutWord_keeps ?_ | refine ite_keeps ?_ ?_ | refine forN_keeps ?_ ?_
    | exact Keeps.refl _ | dsimp only | split | (intro _; try beta_reduce)

theorem State.liveAdd_keeps {z s : State} {a : ℕ} {n : ℕ} (hz : Keeps z s) : Keeps z (State.liveAdd s a n) := by
  unfold State.liveAdd
  with_reducible repeat' first | assumption | (simp only [keeps_mk]; refine keeps_fields ?_)

theorem State.startPulse_keeps {z s : State} {b : ℕ} {t : ℕ} (hz : Keeps z s) : Keeps z (State.startPulse s b t) := by
  unfold State.startPulse
  with_reducible repeat' first | assumption | refine State.setBall_keeps ?_

theorem State.driveBalls_keeps {z s : State} (hz : Keeps z s) : Keeps z (State.driveBalls s) := by
  unfold State.driveBalls
  with_reducible repeat' first
    | assumption | refine State.setBall_keeps ?_ | refine State.startPulse_keeps ?_ | refine ite_keeps ?_ ?_ | refine forN_keeps ?_ ?_
    | exact Keeps.refl _ | dsimp only | split | (intro _; try beta_reduce)

theorem State.landPosts_keeps {z s : State} {key : ℕ} (hz : Keeps z s) : Keeps z (State.landPosts s key) := by
  unfold State.landPosts
  with_reducible repeat' first
    | assumption | (refine modProcAt_keeps ?_ (fun x h => h)) | refine State.raiseProc_keeps ?_ | refine State.complete_keeps ?_
    | refine ite_keeps ?_ ?_ | refine forEach_keeps ?_ ?_ | refine foldl1_keeps ?_ ?_ | exact Keeps.refl _ | dsimp only | split
    | (intro _; try beta_reduce)

theorem State.gateBoundary_keeps {z s : State} (hz : Keeps z s) : Keeps z (State.gateBoundary s) := by
  unfold State.gateBoundary
  with_reducible repeat' first
    | assumption | (simp only [keeps_mk]; refine keeps_fields ?_) | refine State.wr_keeps ?_ | refine State.setGate_keeps ?_
    | refine State.openChain_keeps ?_ | refine ite_keeps ?_ ?_ | refine forEach_keeps ?_ ?_ | exact Keeps.refl _ | dsimp only | split
    | (intro _; try beta_reduce)

theorem State.chanBoundary_keeps {z s : State} (hz : Keeps z s) : Keeps z (State.chanBoundary s) := by
  unfold State.chanBoundary
  with_reducible repeat' first
    | assumption | refine State.endChan_keeps ?_ | refine ite_keeps ?_ ?_ | refine forEach_keeps ?_ ?_ | exact Keeps.refl _ | dsimp only
    | split | (intro _; try beta_reduce)

theorem State.loadBoundary_keeps {z s : State} (hz : Keeps z s) : Keeps z (State.loadBoundary s) := by
  unfold State.loadBoundary
  with_reducible repeat' first
    | assumption | (simp only [keeps_mk]; refine keeps_fields ?_) | refine State.placePlane_keeps ?_ | refine State.release_keeps ?_
    | refine State.completeOpt_keeps ?_ | refine State.wr_keeps ?_ | refine State.setLoad_keeps ?_ | refine ite_keeps ?_ ?_
    | refine forEach_keeps ?_ ?_ | exact Keeps.refl _ | dsimp only | split | (intro _; try beta_reduce)

theorem State.resetL0_keeps {z s : State} (hz : Keeps z s) : Keeps z s.resetL0 := by
  unfold State.resetL0
  dsimp only
  refine State.showRsps_keeps (State.showPositions_keeps (forN_keeps ?_ fun r s => State.showRibbon_keeps (Keeps.refl s)))
  simp only [keeps_mk]
  refine keepsF_of ?_ (fun m => m.2.1) (fun m => m.2.2.1) (fun m e he => m.2.2.2 e (List.mem_of_mem_filter he))
  have h : Keeps z (s.endReset 0) := State.endReset_keeps hz
  have h1 : Keeps z { s.endReset 0 with lanes := (s.endReset 0).lanes.map (fun (e : Nat × LaneSt) => (e.1, { e.2 with eb := [] })) } := h
  have h2 := fun (l : List BistRun) => forEach_keeps (l := l) h1 fun (b : BistRun) (s : State) => State.endRuns_keeps (u := b.u) (st := .incomplete) (stays := false) (Keeps.refl s)
  have h3 := fun (l : List BistRun) => forN_keeps (n := 256) (h2 l) fun l s => ite_keeps (c := s.ln F.LN_LSTATE l = 2) (State.leaveStream_keeps (l := l) (State.leaveUp_keeps (l := l) (Keeps.refl s))) (Keeps.refl s)
  refine ite_keeps (State.setReg_keeps (State.resetRegs_keeps (State.hostReset_keeps (h3 _)))) (State.wr_keeps (State.resetRegs_keeps (State.hostReset_keeps (h3 _))))

theorem State.releaseFabs_keeps {z s : State} {on : Bool} (hz : Keeps z s) : Keeps z (State.releaseFabs s on) := by
  unfold State.releaseFabs
  with_reducible repeat' first
    | assumption | refine State.releasePatch_keeps ?_ | refine State.holdPatch_keeps ?_ | refine ite_keeps ?_ ?_ | refine forN_keeps ?_ ?_
    | exact Keeps.refl _ | dsimp only | split | (intro _; try beta_reduce)

theorem State.layerBoundary_keeps {z s : State} {p : ℕ} (hz : Keeps z s) : Keeps z (State.layerBoundary s p) := by
  unfold State.layerBoundary
  with_reducible repeat' first
    | assumption | (simp only [keeps_mk]; refine keeps_fields ?_) | refine State.resetL0_keeps ?_ | refine State.resetL1_keeps ?_
    | refine State.resetL2_keeps ?_ | refine State.resetL3_keeps ?_ | refine State.releaseFabs_keeps ?_ | refine State.wr_keeps ?_
    | refine ite_keeps ?_ ?_

theorem State.countLockstep_keeps {z s : State} (hz : Keeps z s) : Keeps z (State.countLockstep s) := by
  unfold State.countLockstep
  with_reducible repeat' first
    | assumption | refine State.bump_keeps ?_ | refine ite_keeps ?_ ?_ | refine forN_keeps ?_ ?_ | exact Keeps.refl _ | dsimp only | split
    | (intro _; try beta_reduce)

theorem State.handBoundary_keeps {z s0 : State} {p : ℕ} (hz : Keeps z s0) : Keeps z (State.handBoundary s0 p) := by
  unfold State.handBoundary
  with_reducible repeat' first
    | assumption | (simp only [keeps_mk]; refine keeps_fields ?_) | refine State.retryRefused_keeps ?_
    | refine State.countLockstep_keeps ?_ | refine State.startHandover_keeps ?_ | refine State.freeze_keeps ?_ | refine ite_keeps ?_ ?_
    | dsimp only | split

theorem State.steerBoundary_keeps {z s : State} (hz : Keeps z s) : Keeps z (State.steerBoundary s) := by
  unfold State.steerBoundary
  with_reducible repeat' first
    | assumption | refine State.wr_keeps ?_ | refine State.setGroup_keeps ?_ | refine State.exhaustGroup_keeps ?_ | refine ite_keeps ?_ ?_
    | refine forEach_keeps ?_ ?_ | exact Keeps.refl _ | dsimp only | split | (intro _; try beta_reduce)

theorem State.phaseBoundary_keeps {z s : State} (hz : Keeps z s) : Keeps z (State.phaseBoundary s) := by
  unfold State.phaseBoundary
  with_reducible repeat' first
    | assumption | (simp only [keeps_mk]; refine keeps_fields ?_) | refine ite_keeps ?_ ?_ | refine forN_keeps ?_ ?_ | exact Keeps.refl _
    | dsimp only | split | (intro _; try beta_reduce)

theorem State.testBoundary_keeps {z s : State} (hz : Keeps z s) : Keeps z (State.testBoundary s) := by
  unfold State.testBoundary
  with_reducible repeat' first
    | assumption | (simp only [keeps_mk]; refine keeps_fields ?_) | refine State.need_keeps ?_ | refine State.setPhase_keeps ?_
    | refine State.endRuns_keeps ?_ | refine State.stopMarch_keeps ?_ | refine State.complete_keeps ?_ | refine State.givePatch_keeps ?_
    | refine ite_keeps ?_ ?_ | refine forEach_keeps ?_ ?_ | exact Keeps.refl _ | dsimp only | split | (intro _; try beta_reduce)

theorem State.stepThreeB_keeps {z s : State} {p : Nat} {lines : List (Nat × Raise)} {changed : List (List Nat)} (hz : Keeps z s) :
    Keeps z (s.stepThreeB p lines changed) := by
  unfold State.stepThreeB
  dsimp only
  with_reducible
    have h1 := fun l => forEach_keeps (l := l) (State.ebBoundary_keeps (p := p) (forN_keeps (n := 16) hz fun k s =>
      State.patchStep_keeps (p := p) (lines := lines) (changed := nthD [] changed k) (k := k) (Keeps.refl s))) fun l s => State.drainBoundary_keeps (l := l) (Keeps.refl s)
    refine forEach_keeps (forEach_keeps (forN_keeps (State.wakeTests_keeps (State.testBoundary_keeps (State.refoutBoundary_keeps
      (State.phaseBoundary_keeps (State.bandBoundary_keeps (State.clockBoundary_keeps (State.layerBoundary_keeps (State.exhBoundary_keeps
      (State.handBoundary_keeps (State.pquietBoundary_keeps (State.resendBoundary_keeps (State.steerBoundary_keeps (State.gateBoundary_keeps
      (forEach_keeps (h1 _) fun key s => State.landPosts_keeps (Keeps.refl s))))))))))))))) fun r s =>
      State.recordTo_keeps (State.moveBoundary_keeps (Keeps.refl s))) fun e s => State.rowBoundary_keeps (Keeps.refl s)) fun e s => State.rowBoundary_keeps (Keeps.refl s)

theorem State.runBoundary_keeps {z s : State} {p : ℕ} (hz : Keeps z s) : Keeps z (State.runBoundary s p) := by
  unfold State.runBoundary
  with_reducible repeat' first
    | assumption | refine State.stepOne_keeps ?_ | refine State.closeWindows_keeps ?_ | refine State.endDrain_keeps ?_
    | refine State.evqBoundary_keeps ?_ | refine State.snapshot_keeps ?_ | refine State.periodBoundary_keeps ?_
    | refine State.earlyBoundary_keeps ?_ | refine State.stepTwo_keeps ?_ | refine State.deposit_keeps ?_
    | refine State.hostBoundary_keeps ?_ | refine State.chanBoundary_keeps ?_ | refine State.loadBoundary_keeps ?_
    | refine State.stepThreeB_keeps ?_ | refine State.stepThreeA_keeps ?_ | refine State.driveBalls_keeps ?_
    | refine State.reportBoundary_keeps ?_ | refine State.parentBoundary_keeps ?_ | refine State.readyBoundary_keeps ?_
    | refine State.showService_keeps ?_ | refine ite_keeps ?_ ?_ | refine forN_keeps ?_ ?_ | exact Keeps.refl _ | dsimp only | split
    | (intro _; try beta_reduce)

theorem State.clearUnit_keeps {z s : State} {k : ℕ} {pos : ℕ} {bank : Option ℕ} (h : Keeps z s) : Keeps z (State.clearUnit s k pos bank) := by
  unfold State.clearUnit
  split
  · exact setBank_keeps h (fun _ => ⟨rfl, rfl⟩)
  · exact setBolt_keeps h (fun _ => rfl)

theorem State.addBist_keeps {z s : State} {b : BistRun} (hz : Keeps z s) : Keeps z (State.addBist s b) := by
  unfold State.addBist
  with_reducible repeat' first | assumption | (simp only [keeps_mk]; refine keeps_fields ?_)

theorem State.hostBist_keeps {z s : State} {c : CmdRef} {p : ℕ} {need : ℕ} (hz : Keeps z s) : Keeps z (State.hostBist s c p need) := by
  unfold State.hostBist
  with_reducible repeat' first
    | assumption | (simp only [keeps_mk]; refine keeps_fields ?_) | refine State.endRuns_keeps ?_ | refine State.need_keeps ?_
    | refine State.setPhase_keeps ?_ | refine State.setPos_keeps ?_ | refine ite_keeps ?_ ?_

theorem State.goodWindow_keeps {z s : State} (hz : Keeps z s) : Keeps z (State.goodWindow s) := by
  unfold State.goodWindow
  with_reducible repeat' first
    | assumption | (simp only [keeps_mk]; refine keeps_fields ?_) | refine State.wr_keeps ?_ | refine ite_keeps ?_ ?_

theorem State.patPoison_keeps {z s : State} {k : ℕ} (hz : Keeps z s) : Keeps z (State.patPoison s k) := by
  unfold State.patPoison
  with_reducible repeat' first | assumption | refine State.raiseP_keeps ?_ | refine State.bump_keeps ?_ | refine State.unmark_keeps ?_

theorem State.sendOn_keeps {z s : State} {fuel k t : ℕ} (hz : Keeps z s) : Keeps z (State.sendOn fuel s k t) := by
  induction fuel generalizing s with
  | zero => exact hz
  | succ n ih =>
    simp only [State.sendOn]
    with_reducible repeat' first
      | assumption | refine ih ?_ | refine State.threadNext_keeps ?_ | refine State.modThread_keeps ?_ | refine State.wr_keeps ?_
      | refine State.patPoison_keeps ?_ | refine State.bump_keeps ?_ | refine State.queueCopies_keeps ?_ | refine ite_keeps ?_ ?_ | split

theorem State.addBurst_keeps {z s : State} {l : ℕ} {n : ℕ} (hz : Keeps z s) : Keeps z (State.addBurst s l n) := by
  unfold State.addBurst
  with_reducible repeat' first | assumption | refine State.modLane_keeps ?_ | refine State.laneEvent_keeps ?_ | refine ite_keeps ?_ ?_

theorem State.histogram_keeps {z s : State} {l : ℕ} {pcs : ℕ} {corrected : ℕ} (hz : Keeps z s) : Keeps z (State.histogram s l pcs corrected) := by
  unfold State.histogram
  with_reducible repeat' first | assumption | (simp only [keeps_mk]; refine keeps_fields ?_) | refine ite_keeps ?_ ?_

theorem State.countUnit_keeps {z s : State} {l : ℕ} {pcs : ℕ} {u : RxUnit} (hz : Keeps z s) : Keeps z (State.countUnit s l pcs u) := by
  unfold State.countUnit
  with_reducible repeat' first
    | assumption | refine State.laneCount64_keeps ?_ | refine State.laneCount_keeps ?_ | refine State.histogram_keeps ?_
    | refine State.addBurst_keeps ?_ | refine ite_keeps ?_ ?_ | refine forEach_keeps ?_ ?_ | exact Keeps.refl _ | dsimp only | split
    | (intro _; try beta_reduce)

theorem State.flagBoundary_keeps {z s : State} (hz : Keeps z s) : Keeps z (State.flagBoundary s) := by
  unfold State.flagBoundary
  with_reducible repeat' first | assumption | (simp only [keeps_mk]; refine keeps_fields ?_)

theorem State.showShort_keeps {z s : State} (hz : Keeps z s) : Keeps z (State.showShort s) := by
  unfold State.showShort
  with_reducible repeat' first | assumption | refine State.wr_keeps ?_ | refine ite_keeps ?_ ?_

end Sys2Proof.Machine
end

