-- ==== Sys2Proof/Laws/KeepsExec1.lean ====
section
/-! SUPPORT. Every command's meaning keeps the queue, the stitch number and canonical memories: one lemma per meaning, but for the boundary and the starts (part 1 of 3). -/

namespace Sys2Proof.Machine

/-- The next state that a command answers is kept from `z`. -/
def KeepsOut (z : State) (o : Out) : Prop := ∀ t, o = .next t → Keeps z t

theorem KeepsOut.next {z t : State} (h : Keeps z t) : KeepsOut z (.next t) := fun _ e => by cases e; exact h
theorem KeepsOut.ite {z : State} {c : Prop} [Decidable c] {o p : Out} (ho : KeepsOut z o) (hp : KeepsOut z p) :
    KeepsOut z (if c then o else p) := by split <;> assumption
theorem act_keeps {z s t : State} {ok : Bool} (h : Keeps z s) (ht : Keeps z t) : KeepsOut z (act s ok t) :=
  KeepsOut.next (by split <;> assumption)
theorem actOn_keeps {z s : State} {α : Type} {o : Option α} {f : α → State} (h : Keeps z s) (hf : ∀ x, Keeps z (f x)) : KeepsOut z (actOn s o f) := by
  unfold actOn
  split
  · exact .next h
  · exact .next (hf _)
theorem actOn_id_keeps {z s : State} {o : Option State} (h : Keeps z s) (hf : ∀ t, o = some t → Keeps z t) : KeepsOut z (actOn s o id) := by
  unfold actOn
  split
  · exact .next h
  · exact .next (hf _ rfl)
theorem of_ite_none {α : Type} {c : Prop} [Decidable c] {o : Option α} {t : α} (e : (if c then o else none) = some t) : o = some t := by
  split at e
  · exact e
  · contradiction
theorem graov_keeps {z s t : State} {h : Proc} {w : W32} {c : Nat} (hs : Keeps z s) (ht : Keeps z t) : KeepsOut z (graov h w c s t) :=
  act_keeps hs (State.retire_keeps ht)

theorem execFastRound_keeps {z s : State} {r : HeatRound} {off : ℕ} (hz : Keeps z s) : KeepsOut z (execFastRound r off s) := by
  unfold execFastRound
  with_reducible repeat' first
    | refine act_keeps ?_ ?_ | refine KeepsOut.ite ?_ ?_ | refine KeepsOut.next ?_ | assumption | refine State.showFast_keeps ?_
    | refine State.noteCool_keeps ?_ | refine State.sampleLayer_keeps ?_ | refine State.tick_keeps ?_ | refine ite_keeps ?_ ?_
    | refine forEach_keeps ?_ ?_ | exact Keeps.refl _ | dsimp only | split | (intro _; try beta_reduce)

theorem execRotationStep_keeps {z s : State} {off : ℕ} (hz : Keeps z s) : KeepsOut z (execRotationStep off s) := by
  unfold execRotationStep
  with_reducible repeat' first
    | refine act_keeps ?_ ?_ | refine KeepsOut.ite ?_ ?_ | refine KeepsOut.next ?_ | assumption
    | (simp only [keeps_mk]; refine keeps_fields ?_) | refine State.wr_keeps ?_ | refine State.tick_keeps ?_ | refine State.need_keeps ?_
    | refine State.requestMove_keeps ?_ | refine State.requestHandover_keeps ?_

theorem execTrigCell_keeps {z s : State} {n : Seam} {entries : List TrigEntry} {off : ℕ} (hz : Keeps z s) :
    KeepsOut z (execTrigCell n entries off s) := by
  unfold execTrigCell
  with_reducible repeat' first
    | refine act_keeps ?_ ?_ | refine KeepsOut.ite ?_ ?_ | refine KeepsOut.next ?_ | assumption | refine State.arriveRaise_keeps ?_
    | refine State.tick_keeps ?_ | refine ite_keeps ?_ ?_ | refine forEach_keeps ?_ ?_ | exact Keeps.refl _ | dsimp only | split
    | (intro _; try beta_reduce)

theorem execComparatorTrip_keeps {z s : State} {layer : Layer} {off : ℕ} (hz : Keeps z s) : KeepsOut z (execComparatorTrip layer off s) := by
  unfold execComparatorTrip
  with_reducible repeat' first
    | refine act_keeps ?_ ?_ | refine KeepsOut.ite ?_ ?_ | refine KeepsOut.next ?_ | assumption | refine State.stopStack_keeps ?_
    | refine State.tick_keeps ?_

theorem execFrameTimeout_keeps {z s : State} {n : Seam} (hz : Keeps z s) : KeepsOut z (execFrameTimeout n s) := by
  unfold execFrameTimeout
  with_reducible repeat' first
    | refine act_keeps ?_ ?_ | refine KeepsOut.ite ?_ ?_ | refine KeepsOut.next ?_ | assumption | refine State.seamDown_keeps ?_

theorem execStartupMarchDone_keeps {z s : State} {laneFaults : List Lane} {badPositions : List Pos} (hz : Keeps z s) :
    KeepsOut z (execStartupMarchDone laneFaults badPositions s) := by
  unfold execStartupMarchDone
  with_reducible repeat' first
    | refine act_keeps ?_ ?_ | refine KeepsOut.ite ?_ ?_ | refine KeepsOut.next ?_ | assumption
    | (simp only [keeps_mk]; refine keeps_fields ?_) | refine State.enterFault_keeps ?_ | refine State.event_keeps ?_
    | refine State.retirePos_keeps ?_ | refine State.freeHeld_keeps ?_ | refine ite_keeps ?_ ?_ | refine forEach_keeps ?_ ?_
    | refine forN_keeps ?_ ?_ | exact Keeps.refl _ | dsimp only | split | (intro _; try beta_reduce)

theorem execStoreComplete_keeps {z s : State} (hz : Keeps z s) : KeepsOut z (execStoreComplete s) := by
  unfold execStoreComplete
  with_reducible repeat' first
    | refine actOn_keeps ?_ ?_ | refine KeepsOut.ite ?_ ?_ | refine KeepsOut.next ?_ | assumption
    | (simp only [keeps_mk]; refine keeps_fields ?_) | refine State.showJournal_keeps ?_ | refine State.complete_keeps ?_
    | refine State.wr_keeps ?_ | refine State.wakeStores_keeps ?_ | refine ite_keeps ?_ ?_ | dsimp only | split
    | (intro _; try beta_reduce)

theorem execDesignKey_keeps {z s : State} {c : CmdRef} (hz : Keeps z s) : KeepsOut z (execDesignKey c s) := by
  unfold execDesignKey
  with_reducible repeat' first
    | refine actOn_keeps ?_ ?_ | refine KeepsOut.ite ?_ ?_ | refine KeepsOut.next ?_ | assumption
    | (simp only [keeps_mk]; refine keeps_fields ?_) | refine State.complete_keeps ?_ | refine State.setPhase_keeps ?_
    | refine ite_keeps ?_ ?_ | dsimp only | split | (intro _; try beta_reduce)

theorem execFallbackLoad_keeps {z s : State} {hdr : StreamHeader} (hz : Keeps z s) : KeepsOut z (execFallbackLoad hdr s) := by
  unfold execFallbackLoad
  with_reducible repeat' first
    | refine act_keeps ?_ ?_ | refine KeepsOut.ite ?_ ?_ | refine KeepsOut.next ?_ | assumption
    | (simp only [keeps_mk]; refine keeps_fields ?_) | refine State.wr_keeps ?_ | refine State.takeHeader_keeps ?_
    | refine ite_keeps ?_ ?_

theorem execExtestTrain_keeps {z s : State} (hz : Keeps z s) : KeepsOut z (execExtestTrain s) := by
  unfold execExtestTrain
  with_reducible repeat' first
    | refine act_keeps ?_ ?_ | refine KeepsOut.ite ?_ ?_ | refine KeepsOut.next ?_ | assumption | refine State.loadTap_keeps ?_

theorem execNReqWrite_keeps {z s : State} {v : BitVec 8} (hz : Keeps z s) : KeepsOut z (execNReqWrite v s) := by
  unfold execNReqWrite
  with_reducible repeat' first
    | refine act_keeps ?_ ?_ | refine KeepsOut.ite ?_ ?_ | refine KeepsOut.next ?_ | assumption | refine State.writeNReq_keeps ?_

theorem execCounterUncorrectable_keeps {z s : State} {c : CtrRef} (hz : Keeps z s) : KeepsOut z (execCounterUncorrectable c s) := by
  unfold execCounterUncorrectable
  with_reducible repeat' first
    | refine act_keeps ?_ ?_ | refine KeepsOut.ite ?_ ?_ | refine KeepsOut.next ?_ | assumption
    | (simp only [keeps_mk]; refine keeps_fields ?_) | refine State.wr_keeps ?_ | refine State.event_keeps ?_
    | refine State.setReg_keeps ?_ | refine ite_keeps ?_ ?_ | refine foldl1_keeps ?_ ?_ | exact Keeps.refl _ | dsimp only | split

theorem execShri_keeps {z s : State} {h : Proc} {rd : BitVec 5} {ra : BitVec 5} {imm : BitVec 14} (hz : Keeps z s) :
    KeepsOut z (execShri h rd ra imm s) := by
  unfold execShri
  with_reducible repeat' first
    | refine graov_keeps ?_ ?_ | refine KeepsOut.ite ?_ ?_ | refine KeepsOut.next ?_ | assumption | refine State.setG_keeps ?_

theorem execSub_keeps {z s : State} {h : Proc} {rd : BitVec 5} {ra : BitVec 5} {rb : BitVec 5} (hz : Keeps z s) :
    KeepsOut z (execSub h rd ra rb s) := by
  unfold execSub
  with_reducible repeat' first
    | refine graov_keeps ?_ ?_ | refine KeepsOut.ite ?_ ?_ | refine KeepsOut.next ?_ | assumption | refine State.setG_keeps ?_

theorem execBown_keeps {z s : State} {k : LPatch} {bank : Bank} {owner : BitVec 4} (hz : Keeps z s) : KeepsOut z (execBown k bank owner s) := by
  unfold execBown
  with_reducible repeat' first
    | refine graov_keeps ?_ ?_ | refine KeepsOut.ite ?_ ?_ | refine KeepsOut.next ?_ | assumption
    | (refine setBank_keeps ?_ (fun m => ?hp); case hp => exact ⟨(bankAt_ok m _ _).1, (bankAt_ok m _ _).2⟩)

theorem execSyncInEdge_keeps {z s : State} {off : ℕ} (hz : Keeps z s) : KeepsOut z (execSyncInEdge off s) := by
  unfold execSyncInEdge
  with_reducible repeat' first
    | refine act_keeps ?_ ?_ | refine KeepsOut.ite ?_ ?_ | refine KeepsOut.next ?_ | assumption | refine State.stampEdge_keeps ?_
    | refine State.tick_keeps ?_ | refine State.showEdge_keeps ?_ | refine State.judgeEdge_keeps ?_ | refine ite_keeps ?_ ?_

theorem execSeamEnWrite_keeps {z s : State} {n : Seam} {v : W32} {be : BitVec 4} (hz : Keeps z s) : KeepsOut z (execSeamEnWrite n v be s) := by
  unfold execSeamEnWrite
  with_reducible repeat' first
    | refine act_keeps ?_ ?_ | refine KeepsOut.ite ?_ ?_ | refine KeepsOut.next ?_ | assumption | refine State.writeSeamCtl_keeps ?_

theorem execVlaneReturn_keeps {z s : State} {highRail : Bool} {off : ℕ} (hz : Keeps z s) : KeepsOut z (execVlaneReturn highRail off s) := by
  unfold execVlaneReturn
  with_reducible repeat' first
    | refine act_keeps ?_ ?_ | refine KeepsOut.ite ?_ ?_ | refine KeepsOut.next ?_ | assumption
    | (simp only [keeps_mk]; refine keeps_fields ?_) | refine State.tick_keeps ?_

theorem execExtest_keeps {z s : State} (hz : Keeps z s) : KeepsOut z (execExtest s) := by
  unfold execExtest
  with_reducible repeat' first
    | refine act_keeps ?_ ?_ | refine KeepsOut.ite ?_ ?_ | refine KeepsOut.next ?_ | assumption | refine State.loadTap_keeps ?_

theorem execLockstepMismatch_keeps {z s : State} {k : LPatch} {off : ℕ} (hz : Keeps z s) : KeepsOut z (execLockstepMismatch k off s) := by
  unfold execLockstepMismatch
  with_reducible repeat' first
    | refine act_keeps ?_ ?_ | refine KeepsOut.ite ?_ ?_ | refine KeepsOut.next ?_ | assumption
    | (simp only [keeps_mk]; refine keeps_fields ?_) | (refine modProcAt_keeps ?_ (fun x h => h)) | refine State.restoreRegs_keeps ?_
    | refine State.tick_keeps ?_ | refine State.bump_keeps ?_ | refine State.requestHandover_keeps ?_ | refine ite_keeps ?_ ?_

theorem execKeepHead_keeps {z s : State} {k : LPatch} {slot : Slot} {unit : W16} {n : BitVec 14} {tag : W16} (hz : Keeps z s) :
    KeepsOut z (execKeepHead k slot unit n tag s) := by
  unfold execKeepHead
  with_reducible repeat' first
    | refine act_keeps ?_ ?_ | refine KeepsOut.ite ?_ ?_ | refine KeepsOut.next ?_ | assumption | refine State.verdict_keeps ?_

theorem execPtog_keeps {z s : State} {h : Proc} {gd : BitVec 5} {pa : BitVec 3} (hz : Keeps z s) : KeepsOut z (execPtog h gd pa s) := by
  unfold execPtog
  with_reducible repeat' first
    | refine graov_keeps ?_ ?_ | refine KeepsOut.ite ?_ ?_ | refine KeepsOut.next ?_ | assumption | refine State.setG_keeps ?_

theorem execBoltOnly_keeps {z s : State} {c : CmdRef} (hz : Keeps z s) : KeepsOut z (execBoltOnly c s) := by
  unfold execBoltOnly
  with_reducible repeat' first
    | refine actOn_keeps ?_ ?_ | refine KeepsOut.ite ?_ ?_ | refine KeepsOut.next ?_ | assumption | refine State.destruct_keeps ?_
    | refine ite_keeps ?_ ?_ | dsimp only | split | (intro _; try beta_reduce)

theorem execStateLoRead_keeps {z s : State} {off : ℕ} (hz : Keeps z s) : KeepsOut z (execStateLoRead off s) := by
  unfold execStateLoRead
  with_reducible repeat' first
    | refine KeepsOut.ite ?_ ?_ | refine KeepsOut.next ?_ | assumption | (simp only [keeps_mk]; refine keeps_fields ?_)
    | refine State.busRead_keeps ?_ | refine State.tick_keeps ?_

theorem execQuietWindowEnd_keeps {z s : State} {l : Lane} (hz : Keeps z s) : KeepsOut z (execQuietWindowEnd l s) := by
  unfold execQuietWindowEnd
  with_reducible repeat' first
    | refine act_keeps ?_ ?_ | refine KeepsOut.ite ?_ ?_ | refine KeepsOut.next ?_ | assumption | refine State.setLn_keeps ?_

theorem execMinu_keeps {z s : State} {h : Proc} {rd : BitVec 5} {ra : BitVec 5} {rb : BitVec 5} (hz : Keeps z s) :
    KeepsOut z (execMinu h rd ra rb s) := by
  unfold execMinu
  with_reducible repeat' first
    | refine graov_keeps ?_ ?_ | refine KeepsOut.ite ?_ ?_ | refine KeepsOut.next ?_ | assumption | refine State.setG_keeps ?_

theorem execTrigxEdge_keeps {z s : State} {ball : Fin 16} {rising : Bool} {off : ℕ} (hz : Keeps z s) :
    KeepsOut z (execTrigxEdge ball rising off s) := by
  unfold execTrigxEdge
  with_reducible repeat' first
    | refine act_keeps ?_ ?_ | refine KeepsOut.ite ?_ ?_ | refine KeepsOut.next ?_ | assumption | refine State.raiseLater_keeps ?_
    | refine State.tick_keeps ?_

theorem tap_keeps {z s : State} {r : Ribbon} {size : ℕ} {upd : Bool} {mov : Bool} {vd : BitVec 3} {a : BitVec 3} {o : BitVec 3} {imm : BitVec 11} (hz : Keeps z s) :
    KeepsOut z (tap r size upd mov vd a o imm s) := by
  unfold tap
  with_reducible repeat' first
    | refine graov_keeps ?_ ?_ | refine KeepsOut.ite ?_ ?_ | refine KeepsOut.next ?_ | assumption | refine State.postMod_keeps ?_
    | (refine modProcAt_keeps ?_ (fun x h => h)) | refine tapLane_keeps ?_ | refine State.recordSeen_keeps ?_ | refine ite_keeps ?_ ?_
    | refine forEach_keeps ?_ ?_ | exact Keeps.refl _ | dsimp only | split | (intro _; try beta_reduce)

theorem execMag_keeps {z s : State} {h : Proc} {gd : BitVec 5} {aa : BitVec 3} (hz : Keeps z s) : KeepsOut z (execMag h gd aa s) := by
  unfold execMag
  with_reducible repeat' first
    | refine graov_keeps ?_ ?_ | refine KeepsOut.ite ?_ ?_ | refine KeepsOut.next ?_ | assumption | refine State.setG_keeps ?_

theorem State.onFrame_keeps {z s : State} {f : FrameInfo} {e : LoadSt → State → State} (h : Keeps z s) (he : ∀ l s, Keeps z s → Keeps z (e l s)) :
    KeepsOut z (s.onFrame f e) := by
  unfold State.onFrame
  refine actOn_keeps h fun l => ?_
  repeat' split
  · exact State.requestAgain_keeps h
  · exact State.showLoad_keeps (State.setLoad_keeps h)
  · exact State.abortLoad_keeps h
  · exact State.showLoad_keeps (he _ _ h)

theorem execFrameEnd_keeps {z s : State} {f : FrameInfo} (hz : Keeps z s) : KeepsOut z (execFrameEnd f s) := by
  unfold execFrameEnd
  with_reducible repeat' first
    | refine State.onFrame_keeps ?_ ?_ | refine KeepsOut.ite ?_ ?_ | assumption | refine State.abortLoad_keeps ?_ | refine State.setLoad_keeps ?_
    | refine ite_keeps ?_ ?_ | exact Keeps.refl _ | dsimp only | split | (intro _; try beta_reduce)

theorem execSyncDone_keeps {z s : State} {k : LPatch} {t : Thread} (hz : Keeps z s) : KeepsOut z (execSyncDone k t s) := by
  unfold execSyncDone
  with_reducible repeat' first
    | refine actOn_keeps ?_ ?_ | refine KeepsOut.ite ?_ ?_ | refine KeepsOut.next ?_ | assumption | refine State.threadNext_keeps ?_
    | refine State.modThread_keeps ?_ | refine ite_keeps ?_ ?_ | dsimp only | split | (intro _; try beta_reduce)

theorem execMva_keeps {z s : State} {h : Proc} {ad : BitVec 3} {ga : BitVec 5} (hz : Keeps z s) : KeepsOut z (execMva h ad ga s) := by
  unfold execMva
  with_reducible repeat' first
    | refine graov_keeps ?_ ?_ | refine KeepsOut.ite ?_ ?_ | refine KeepsOut.next ?_ | assumption | refine State.setA_keeps ?_

theorem execRowCopyDone_keeps {z s : State} {x : RowCopy} (hz : Keeps z s) : KeepsOut z (execRowCopyDone x s) := by
  unfold execRowCopyDone
  with_reducible repeat' first
    | refine actOn_keeps ?_ ?_ | refine KeepsOut.ite ?_ ?_ | refine KeepsOut.next ?_ | assumption | refine State.scrubRead_keeps ?_
    | refine State.setRows_keeps ?_ | refine ite_keeps ?_ ?_ | refine forEach_keeps ?_ ?_ | exact Keeps.refl _ | dsimp only | split
    | (intro _; try beta_reduce)

theorem execSpoolEnWrite_keeps {z s : State} {sp : Spool} {v : W32} {be : BitVec 4} (hz : Keeps z s) : KeepsOut z (execSpoolEnWrite sp v be s) := by
  unfold execSpoolEnWrite
  with_reducible repeat' first
    | refine act_keeps ?_ ?_ | refine KeepsOut.ite ?_ ?_ | refine KeepsOut.next ?_ | assumption | refine State.writeSpoolEn_keeps ?_

theorem execWaitt_keeps {z s : State} {k : LPatch} {pd : BitVec 3} {line : Line} {bound : BitVec 12} (hz : Keeps z s) :
    KeepsOut z (execWaitt k pd line bound s) := by
  unfold execWaitt
  with_reducible repeat' first
    | refine graov_keeps ?_ ?_ | refine KeepsOut.ite ?_ ?_ | refine KeepsOut.next ?_ | assumption | refine State.setP_keeps ?_
    | (refine modProcAt_keeps ?_ (fun x h => h)) | refine ite_keeps ?_ ?_

theorem execRequestRepeat_keeps {z s : State} {d : Device} (hz : Keeps z s) : KeepsOut z (execRequestRepeat d s) := by
  unfold execRequestRepeat
  with_reducible repeat' first
    | refine act_keeps ?_ ?_ | refine KeepsOut.ite ?_ ?_ | refine KeepsOut.next ?_ | assumption
    | (simp only [keeps_mk]; refine keeps_fields ?_) | refine State.sendMsg_keeps ?_ | refine State.sendFlow_keeps ?_
    | refine ite_keeps ?_ ?_ | refine forEach_keeps ?_ ?_ | exact Keeps.refl _ | dsimp only | split | (intro _; try beta_reduce)

theorem execSrd_keeps {z s : State} {h : Proc} {rd : BitVec 5} {str : BitVec 7} {w : BitVec 12} (hz : Keeps z s) :
    KeepsOut z (execSrd h rd str w s) := by
  unfold execSrd
  with_reducible repeat' first
    | refine graov_keeps ?_ ?_ | refine KeepsOut.ite ?_ ?_ | refine KeepsOut.next ?_ | assumption | refine State.readString_keeps ?_
    | refine State.setG_keeps ?_

theorem execSwr_keeps {z s : State} {h : Proc} {rd : BitVec 5} {str : BitVec 7} {w : BitVec 12} (hz : Keeps z s) :
    KeepsOut z (execSwr h rd str w s) := by
  unfold execSwr
  with_reducible repeat' first
    | refine graov_keeps ?_ ?_ | refine KeepsOut.ite ?_ ?_ | refine KeepsOut.next ?_ | assumption | refine State.landOldest_keeps ?_
    | (refine modProcAt_keeps ?_ (fun x h => h)) | refine ite_keeps ?_ ?_

theorem execHoldover_keeps {z s : State} {off : ℕ} (hz : Keeps z s) : KeepsOut z (execHoldover off s) := by
  unfold execHoldover
  with_reducible repeat' first
    | refine act_keeps ?_ ?_ | refine KeepsOut.ite ?_ ?_ | refine KeepsOut.next ?_ | assumption
    | (simp only [keeps_mk]; refine keeps_fields ?_) | refine State.tick_keeps ?_ | refine State.event_keeps ?_ | refine State.wr_keeps ?_

theorem execTapm_keeps {z s : State} {r : Ribbon} {vd : BitVec 3} {a : BitVec 3} {o : BitVec 3} {imm : BitVec 11} (hz : Keeps z s) :
    KeepsOut z (execTapm r vd a o imm s) := by
  unfold execTapm
  with_reducible repeat' first | refine KeepsOut.ite ?_ ?_ | refine KeepsOut.next ?_ | assumption | refine tap_keeps ?_

theorem execSeamFrameReceive_keeps {z s : State} {n : Seam} {tagOk : Bool} {corrected : W16} {uncorrected : W16} {off : ℕ} (hz : Keeps z s) :
    KeepsOut z (execSeamFrameReceive n tagOk corrected uncorrected off s) := by
  unfold execSeamFrameReceive
  with_reducible repeat' first
    | refine act_keeps ?_ ?_ | refine KeepsOut.ite ?_ ?_ | refine KeepsOut.next ?_ | assumption | refine State.bump_keeps ?_
    | refine State.tick_keeps ?_ | refine State.enterHalt_keeps ?_ | refine ite_keeps ?_ ?_

theorem execWindowRead_keeps {z s : State} {d : Device} {x : WinRead} (hz : Keeps z s) : KeepsOut z (execWindowRead d x s) := by
  refine act_keeps hz ?_
  split
  · exact State.winFails_keeps hz (by assumption)
  · exact ite_keeps hz (ite_keeps hz (State.winSend_keeps hz))

theorem execRibCtlWrite_keeps {z s : State} {r : Ribbon} {v : W32} {be : BitVec 4} (hz : Keeps z s) : KeepsOut z (execRibCtlWrite r v be s) := by
  unfold execRibCtlWrite
  with_reducible repeat' first
    | refine act_keeps ?_ ?_ | refine KeepsOut.ite ?_ ?_ | refine KeepsOut.next ?_ | assumption | refine State.writeRibCtl_keeps ?_

theorem execAndi_keeps {z s : State} {h : Proc} {rd : BitVec 5} {ra : BitVec 5} {imm : BitVec 14} (hz : Keeps z s) :
    KeepsOut z (execAndi h rd ra imm s) := by
  unfold execAndi
  with_reducible repeat' first
    | refine graov_keeps ?_ ?_ | refine KeepsOut.ite ?_ ?_ | refine KeepsOut.next ?_ | assumption | refine State.setG_keeps ?_

theorem execPatternStart_keeps {z s : State} {k : LPatch} {threads : BitVec 4} {c : Option CmdRef} (hz : Keeps z s) :
    KeepsOut z (execPatternStart k threads c s) := by
  unfold execPatternStart
  with_reducible repeat' first | exact actOn_id_keeps hz (fun t e => State.patternCmd_keeps hz (of_ite_none e))

theorem execPlaneLoadEnd_keeps {z s : State} {k : LPatch} {bad : Bool} (hz : Keeps z s) : KeepsOut z (execPlaneLoadEnd k bad s) := by
  unfold execPlaneLoadEnd
  with_reducible repeat' first
    | refine act_keeps ?_ ?_ | refine KeepsOut.ite ?_ ?_ | refine KeepsOut.next ?_ | assumption | refine State.event_keeps ?_
    | refine State.setFab_keeps ?_ | refine State.wr_keeps ?_ | refine State.raiseP_keeps ?_ | refine ite_keeps ?_ ?_

theorem execSar_keeps {z s : State} {h : Proc} {rd : BitVec 5} {ra : BitVec 5} {rb : BitVec 5} (hz : Keeps z s) :
    KeepsOut z (execSar h rd ra rb s) := by
  unfold execSar
  with_reducible repeat' first
    | refine graov_keeps ?_ ?_ | refine KeepsOut.ite ?_ ?_ | refine KeepsOut.next ?_ | assumption | refine State.setG_keeps ?_

theorem execKeep_keeps {z s : State} {k : LPatch} {slot : Slot} {unit : W16} {tag : W16} (hz : Keeps z s) :
    KeepsOut z (execKeep k slot unit tag s) := by
  unfold execKeep
  with_reducible repeat' first
    | refine act_keeps ?_ ?_ | refine KeepsOut.ite ?_ ?_ | refine KeepsOut.next ?_ | assumption | refine State.verdict_keeps ?_

theorem execOffloadPage_keeps {z s : State} {ch : Chan} (hz : Keeps z s) : KeepsOut z (execOffloadPage ch s) := by
  unfold execOffloadPage
  with_reducible repeat' first
    | refine actOn_keeps ?_ ?_ | refine KeepsOut.ite ?_ ?_ | refine KeepsOut.next ?_ | assumption | refine State.snapEnd_keeps ?_
    | refine State.sendPage_keeps ?_ | refine ite_keeps ?_ ?_ | dsimp only | split | (intro _; try beta_reduce)

theorem execBoltLineWrite_keeps {z s : State} {k : LPatch} {line : BitVec 25} {_writer : Reader} {data : List Byte} {mask : List Bool} {seen : Ecc} (hz : Keeps z s) :
    KeepsOut z (execBoltLineWrite k line _writer data mask seen s) := by
  unfold execBoltLineWrite
  with_reducible repeat' first
    | refine act_keeps ?_ ?_ | refine KeepsOut.ite ?_ ?_ | refine KeepsOut.next ?_ | assumption | refine State.boltWrite_keeps ?_

theorem execPowerSample_keeps {z s : State} {tenMilliwatts : W16} {off : ℕ} (hz : Keeps z s) : KeepsOut z (execPowerSample tenMilliwatts off s) := by
  unfold execPowerSample
  with_reducible repeat' first
    | refine act_keeps ?_ ?_ | refine KeepsOut.ite ?_ ?_ | refine KeepsOut.next ?_ | assumption
    | (simp only [keeps_mk]; refine keeps_fields ?_) | refine State.wr_keeps ?_ | refine State.tick_keeps ?_
    | refine State.stopStack_keeps ?_ | refine ite_keeps ?_ ?_

theorem State.desc_keeps {z s : State} {k t op : Nat} {f : State → Nat → State} (h : Keeps z s) (hf : ∀ u x, Keeps z u → Keeps z (f u x)) :
    KeepsOut z (s.desc k t op f) := by
  unfold State.desc
  split
  · exact .next h
  · split
    · exact .next (State.stopThread_keeps h)
    · split
      · exact .next (hf _ _ (State.descSeen_keeps h))
      · exact .next h

theorem execDescStop_keeps {z s : State} {k : LPatch} {t : Thread} (hz : Keeps z s) : KeepsOut z (execDescStop k t s) := by
  unfold execDescStop
  with_reducible repeat' first
    | refine State.desc_keeps ?_ ?_ | assumption | refine State.stopThread_keeps ?_ | exact Keeps.refl _ | dsimp only | split
    | (intro _; try beta_reduce)

theorem execHeldCloseDone_keeps {z s : State} (hz : Keeps z s) : KeepsOut z (execHeldCloseDone s) := by
  unfold execHeldCloseDone
  with_reducible repeat' first
    | refine actOn_keeps ?_ ?_ | refine KeepsOut.ite ?_ ?_ | refine KeepsOut.next ?_ | assumption
    | (simp only [keeps_mk]; refine keeps_fields ?_) | refine State.showHeld_keeps ?_ | refine ite_keeps ?_ ?_ | dsimp only | split
    | (intro _; try beta_reduce)

theorem execXori_keeps {z s : State} {h : Proc} {rd : BitVec 5} {ra : BitVec 5} {imm : BitVec 14} (hz : Keeps z s) :
    KeepsOut z (execXori h rd ra imm s) := by
  unfold execXori
  with_reducible repeat' first
    | refine graov_keeps ?_ ?_ | refine KeepsOut.ite ?_ ?_ | refine KeepsOut.next ?_ | assumption | refine State.setG_keeps ?_

theorem execLnCtlWrite_keeps {z s : State} {l : Lane} {v : W32} {be : BitVec 4} (hz : Keeps z s) : KeepsOut z (execLnCtlWrite l v be s) := by
  unfold execLnCtlWrite
  with_reducible repeat' first
    | refine act_keeps ?_ ?_ | refine KeepsOut.ite ?_ ?_ | refine KeepsOut.next ?_ | assumption | refine State.writeLnCtl_keeps ?_

theorem execIdcode_keeps {z s : State} (hz : Keeps z s) : KeepsOut z (execIdcode s) := by
  unfold execIdcode
  with_reducible repeat' first
    | refine act_keeps ?_ ?_ | refine KeepsOut.ite ?_ ?_ | refine KeepsOut.next ?_ | assumption
    | (simp only [keeps_mk]; refine keeps_fields ?_) | refine State.loadTap_keeps ?_

theorem execInternalScan_keeps {z s : State} {code : BitVec 4} (hz : Keeps z s) : KeepsOut z (execInternalScan code s) := by
  unfold execInternalScan
  with_reducible repeat' first
    | refine act_keeps ?_ ?_ | refine KeepsOut.ite ?_ ?_ | refine KeepsOut.next ?_ | assumption | refine State.loadTap_keeps ?_

theorem execFence_keeps {z s : State} {c : CmdRef} (hz : Keeps z s) : KeepsOut z (execFence c s) := by
  unfold execFence
  with_reducible repeat' first
    | refine actOn_keeps ?_ ?_ | refine KeepsOut.ite ?_ ?_ | refine KeepsOut.next ?_ | assumption | refine State.complete_keeps ?_
    | refine ite_keeps ?_ ?_ | dsimp only | split | (intro _; try beta_reduce)

theorem execPnot_keeps {z s : State} {h : Proc} {pd : BitVec 3} {pa : BitVec 3} (hz : Keeps z s) : KeepsOut z (execPnot h pd pa s) := by
  unfold execPnot
  with_reducible repeat' first
    | refine graov_keeps ?_ ?_ | refine KeepsOut.ite ?_ ?_ | refine KeepsOut.next ?_ | assumption | refine State.setP_keeps ?_

theorem execVioLoss_keeps {z s : State} {bank : Fin 3} (hz : Keeps z s) : KeepsOut z (execVioLoss bank s) := by
  unfold execVioLoss
  with_reducible repeat' first
    | refine act_keeps ?_ ?_ | refine KeepsOut.ite ?_ ?_ | refine KeepsOut.next ?_ | assumption
    | (simp only [keeps_mk]; refine keeps_fields ?_)

theorem execSwrLand_keeps {z s : State} {h : Proc} {off : ℕ} (hz : Keeps z s) : KeepsOut z (execSwrLand h off s) := by
  unfold execSwrLand
  with_reducible repeat' first
    | refine act_keeps ?_ ?_ | refine KeepsOut.ite ?_ ?_ | refine KeepsOut.next ?_ | assumption
    | (refine modProcAt_keeps ?_ (fun x h => h)) | refine State.landOldest_keeps ?_ | refine State.tick_keeps ?_ | refine ite_keeps ?_ ?_

theorem execSeamRetry_keeps {z s : State} {n : Seam} (hz : Keeps z s) : KeepsOut z (execSeamRetry n s) := by
  unfold execSeamRetry
  with_reducible repeat' first
    | refine act_keeps ?_ ?_ | refine KeepsOut.ite ?_ ?_ | refine KeepsOut.next ?_ | assumption | refine State.wr_keeps ?_

theorem execAdda_keeps {z s : State} {h : Proc} {a : BitVec 3} {imm : BitVec 11} (hz : Keeps z s) : KeepsOut z (execAdda h a imm s) := by
  unfold execAdda
  with_reducible repeat' first
    | refine graov_keeps ?_ ?_ | refine KeepsOut.ite ?_ ?_ | refine KeepsOut.next ?_ | assumption | refine State.setA_keeps ?_

theorem execCaptureDrained_keeps {z s : State} {k : LPatch} {off : ℕ} (hz : Keeps z s) : KeepsOut z (execCaptureDrained k off s) := by
  unfold execCaptureDrained
  with_reducible repeat' first
    | refine act_keeps ?_ ?_ | refine KeepsOut.ite ?_ ?_ | refine KeepsOut.next ?_ | assumption | refine State.putSegEntry_keeps ?_
    | refine State.flushCloses_keeps ?_ | refine State.putIndex_keeps ?_ | refine State.tick_keeps ?_ | refine State.modCap_keeps ?_
    | refine State.wr_keeps ?_ | refine State.closeLine_keeps ?_ | refine State.showCap_keeps ?_ | refine State.raiseP_keeps ?_
    | refine ite_keeps ?_ ?_

theorem execBusContention_keeps {z s : State} {k : LPatch} {half : Bool} {line : BitVec 9} {off : ℕ} (hz : Keeps z s) :
    KeepsOut z (execBusContention k half line off s) := by
  unfold execBusContention
  with_reducible repeat' first
    | refine act_keeps ?_ ?_ | refine KeepsOut.ite ?_ ?_ | refine KeepsOut.next ?_ | assumption | refine State.contend_keeps ?_
    | refine State.clockNow_keeps ?_ | refine State.tick_keeps ?_

theorem execStreamChunk_keeps {z s : State} {k : LPatch} {slot : Slot} {data : List Byte} {off : ℕ} (hz : Keeps z s) :
    KeepsOut z (execStreamChunk k slot data off s) := by
  unfold execStreamChunk
  with_reducible repeat' first
    | refine actOn_keeps ?_ ?_ | refine KeepsOut.ite ?_ ?_ | refine KeepsOut.next ?_ | assumption | refine State.modCap_keeps ?_
    | refine State.putChunk_keeps ?_ | refine State.tick_keeps ?_ | refine ite_keeps ?_ ?_ | dsimp only | split
    | (intro _; try beta_reduce)

theorem execJackSwapTimeout_keeps {z s : State} (hz : Keeps z s) : KeepsOut z (execJackSwapTimeout s) := by
  unfold execJackSwapTimeout
  with_reducible repeat' first
    | refine act_keeps ?_ ?_ | refine KeepsOut.ite ?_ ?_ | refine KeepsOut.next ?_ | assumption | refine State.wr_keeps ?_

theorem execLatchVoteFix_keeps {z s : State} (hz : Keeps z s) : KeepsOut z (execLatchVoteFix s) := by
  unfold execLatchVoteFix
  with_reducible repeat' first
    | refine act_keeps ?_ ?_ | refine KeepsOut.ite ?_ ?_ | refine KeepsOut.next ?_ | assumption | refine State.bump_keeps ?_

theorem execStitchLoRead_keeps {z s : State} {off : ℕ} (hz : Keeps z s) : KeepsOut z (execStitchLoRead off s) := by
  unfold execStitchLoRead
  with_reducible repeat' first
    | refine KeepsOut.ite ?_ ?_ | refine KeepsOut.next ?_ | assumption | (simp only [keeps_mk]; refine keeps_fields ?_)
    | refine State.tick_keeps ?_ | refine State.busRead_keeps ?_

theorem execD3hotExit_keeps {z s : State} (hz : Keeps z s) : KeepsOut z (execD3hotExit s) := by
  unfold execD3hotExit
  with_reducible repeat' first
    | refine act_keeps ?_ ?_ | refine KeepsOut.ite ?_ ?_ | refine KeepsOut.next ?_ | assumption | refine State.hostReset_keeps ?_

theorem execMgmtWindowDone_keeps {z s : State} {p : Pos} {seen : Ecc} (hz : Keeps z s) : KeepsOut z (execMgmtWindowDone p seen s) := by
  unfold execMgmtWindowDone
  with_reducible repeat' first
    | refine act_keeps ?_ ?_ | refine KeepsOut.ite ?_ ?_ | refine KeepsOut.next ?_ | assumption | refine State.wr_keeps ?_
    | refine State.bankWrite_keeps ?_ | refine State.bankRead_keeps ?_ | refine State.setReg_keeps ?_ | refine ite_keeps ?_ ?_

theorem execDoorbell_keeps {z s : State} {sp : Spool} {v : W32} (hz : Keeps z s) : KeepsOut z (execDoorbell sp v s) := by
  unfold execDoorbell
  with_reducible repeat' first
    | refine act_keeps ?_ ?_ | refine KeepsOut.ite ?_ ?_ | refine KeepsOut.next ?_ | assumption | refine State.wr_keeps ?_

theorem execEvqBaseLoWrite_keeps {z s : State} {v : W32} {be : BitVec 4} (hz : Keeps z s) : KeepsOut z (execEvqBaseLoWrite v be s) := by
  unfold execEvqBaseLoWrite
  with_reducible repeat' first
    | refine act_keeps ?_ ?_ | refine KeepsOut.ite ?_ ?_ | refine KeepsOut.next ?_ | assumption | refine State.writeEvqLo_keeps ?_

theorem execFrameSetting_keeps {z s : State} {f : FrameInfo} {pairs : List (W32 × W32)} (hz : Keeps z s) :
    KeepsOut z (execFrameSetting f pairs s) := by
  unfold execFrameSetting
  with_reducible repeat' first
    | refine State.onFrame_keeps ?_ ?_ | refine KeepsOut.ite ?_ ?_ | assumption | refine State.setLoad_keeps ?_ | refine ite_keeps ?_ ?_
    | exact Keeps.refl _ | dsimp only | split | (intro _; try beta_reduce)

theorem State.progCmd_keeps {z s : State} {c : CmdRef} {op : Nat} {f : DispCmd → State} (h : Keeps z s) (hf : ∀ x, Keeps z (f x)) :
    KeepsOut z (s.progCmd c op f) := by
  unfold State.progCmd
  refine actOn_keeps h fun d => ?_
  split
  · exact State.setPhase_keeps h
  · exact hf d

theorem execProgStart_keeps {z s : State} {c : CmdRef} (hz : Keeps z s) : KeepsOut z (execProgStart c s) :=
  State.progCmd_keeps hz fun _ => State.startNow_keeps hz

theorem execPand_keeps {z s : State} {h : Proc} {pd : BitVec 3} {pa : BitVec 3} {pb : BitVec 3} (hz : Keeps z s) :
    KeepsOut z (execPand h pd pa pb s) := by
  unfold execPand
  with_reducible repeat' first
    | refine graov_keeps ?_ ?_ | refine KeepsOut.ite ?_ ?_ | refine KeepsOut.next ?_ | assumption | refine State.setP_keeps ?_

theorem execScrubFrameRead_keeps {z s : State} {p : Pos} {upper : Bool} {what : ScrubWhat} {frame : BitVec 11} {seen : FrameCode} {refSeen : FrameCode} (hz : Keeps z s) :
    KeepsOut z (execScrubFrameRead p upper what frame seen refSeen s) := by
  unfold execScrubFrameRead
  with_reducible repeat' first
    | refine act_keeps ?_ ?_ | refine KeepsOut.ite ?_ ?_ | refine KeepsOut.next ?_ | assumption | refine State.frameHit_keeps ?_
    | refine State.bump_keeps ?_ | refine State.framePoison_keeps ?_ | refine State.wr_keeps ?_ | refine State.incr_keeps ?_
    | refine State.readBack_keeps ?_ | refine ite_keeps ?_ ?_ | dsimp only | split

theorem execWindowTimeout_keeps {z s : State} {d : Device} (hz : Keeps z s) : KeepsOut z (execWindowTimeout d s) := by
  unfold execWindowTimeout
  with_reducible repeat' first
    | refine actOn_keeps ?_ ?_ | refine KeepsOut.ite ?_ ?_ | refine KeepsOut.next ?_ | assumption
    | (simp only [keeps_mk]; refine keeps_fields ?_) | refine State.bump_keeps ?_ | refine ite_keeps ?_ ?_ | dsimp only | split
    | (intro _; try beta_reduce)

theorem execVmin_keeps {z s : State} {r : Ribbon} {gd : BitVec 5} {vs : BitVec 3} {x : BitVec 5} (hz : Keeps z s) :
    KeepsOut z (execVmin r gd vs x s) := by
  unfold execVmin
  with_reducible repeat' first
    | refine graov_keeps ?_ ?_ | refine KeepsOut.ite ?_ ?_ | refine KeepsOut.next ?_ | assumption | refine State.setG_keeps ?_

theorem execDescNop_keeps {z s : State} {k : LPatch} {t : Thread} (hz : Keeps z s) : KeepsOut z (execDescNop k t s) := by
  unfold execDescNop
  with_reducible repeat' first
    | refine State.desc_keeps ?_ ?_ | assumption | refine State.threadNext_keeps ?_ | exact Keeps.refl _ | dsimp only | split
    | (intro _; try beta_reduce)

theorem execBucketLeak_keeps {z s : State} {u : MemUnit} (hz : Keeps z s) : KeepsOut z (execBucketLeak u s) := by
  unfold execBucketLeak
  with_reducible repeat' first
    | refine act_keeps ?_ ?_ | refine KeepsOut.ite ?_ ?_ | refine KeepsOut.next ?_ | assumption | refine State.setLeakEnd_keeps ?_
    | refine State.setLevel_keeps ?_ | refine State.tick_keeps ?_

theorem execLaneUp_keeps {z s : State} {l : Lane} {off : ℕ} (hz : Keeps z s) : KeepsOut z (execLaneUp l off s) := by
  unfold execLaneUp
  with_reducible repeat' first
    | refine act_keeps ?_ ?_ | refine KeepsOut.ite ?_ ?_ | refine KeepsOut.next ?_ | assumption | refine State.enterUp_keeps ?_
    | refine State.tick_keeps ?_

theorem execInsi_keeps {z s : State} {h : Proc} {rd : BitVec 5} {ra : BitVec 5} {imm : BitVec 14} (hz : Keeps z s) :
    KeepsOut z (execInsi h rd ra imm s) := by
  unfold execInsi
  with_reducible repeat' first
    | refine graov_keeps ?_ ?_ | refine KeepsOut.ite ?_ ?_ | refine KeepsOut.next ?_ | assumption | refine State.setG_keeps ?_

theorem execVinStackGood_keeps {z s : State} (hz : Keeps z s) : KeepsOut z (execVinStackGood s) := by
  unfold execVinStackGood
  with_reducible repeat' first
    | refine act_keeps ?_ ?_ | refine KeepsOut.ite ?_ ?_ | refine KeepsOut.next ?_ | assumption
    | (simp only [keeps_mk]; refine keeps_fields ?_) | refine State.wr_keeps ?_ | refine State.incr_keeps ?_
    | refine State.loadSubsys_keeps ?_

theorem execForcedSwitch_keeps {z s : State} {rootRef : Bool} (hz : Keeps z s) : KeepsOut z (execForcedSwitch rootRef s) := by
  unfold execForcedSwitch
  with_reducible repeat' first
    | refine act_keeps ?_ ?_ | refine KeepsOut.ite ?_ ?_ | refine KeepsOut.next ?_ | assumption | refine State.bump_keeps ?_
    | refine State.wr_keeps ?_ | refine ite_keeps ?_ ?_

theorem execLayerResetWrite_keeps {z s : State} {v : W32} {be : BitVec 4} (hz : Keeps z s) : KeepsOut z (execLayerResetWrite v be s) := by
  unfold execLayerResetWrite
  with_reducible repeat' first
    | refine act_keeps ?_ ?_ | refine KeepsOut.ite ?_ ?_ | refine KeepsOut.next ?_ | assumption | refine State.writeLreset_keeps ?_

theorem execHaltBlock_keeps {z s : State} {n : Seam} {d : Device} {off : ℕ} (hz : Keeps z s) : KeepsOut z (execHaltBlock n d off s) := by
  unfold execHaltBlock
  with_reducible repeat' first
    | refine act_keeps ?_ ?_ | refine KeepsOut.ite ?_ ?_ | refine KeepsOut.next ?_ | assumption
    | (simp only [keeps_mk]; refine keeps_fields ?_) | refine State.modSeam_keeps ?_ | refine State.wr_keeps ?_
    | refine State.tick_keeps ?_ | refine State.switchRoutes_keeps ?_ | refine State.markHalted_keeps ?_ | refine State.tellHalt_keeps ?_
    | refine State.event_keeps ?_ | refine ite_keeps ?_ ?_

theorem execSeamFrameSend_keeps {z s : State} {n : Seam} (hz : Keeps z s) : KeepsOut z (execSeamFrameSend n s) := by
  unfold execSeamFrameSend
  with_reducible repeat' first
    | refine act_keeps ?_ ?_ | refine KeepsOut.ite ?_ ?_ | refine KeepsOut.next ?_ | assumption | refine State.tick_keeps ?_
    | refine State.took_keeps ?_ | refine State.modSeam_keeps ?_

theorem execEvqSizeWrite_keeps {z s : State} {v : W32} {be : BitVec 4} (hz : Keeps z s) : KeepsOut z (execEvqSizeWrite v be s) := by
  unfold execEvqSizeWrite
  with_reducible repeat' first
    | refine act_keeps ?_ ?_ | refine KeepsOut.ite ?_ ?_ | refine KeepsOut.next ?_ | assumption | refine State.writeEvqSize_keeps ?_

theorem execElecIdle_keeps {z s : State} {l : Lane} {off : ℕ} (hz : Keeps z s) : KeepsOut z (execElecIdle l off s) := by
  unfold execElecIdle
  with_reducible repeat' first
    | refine act_keeps ?_ ?_ | refine KeepsOut.ite ?_ ?_ | refine KeepsOut.next ?_ | assumption | refine State.setLn_keeps ?_
    | refine State.laneTo_keeps ?_ | refine State.tick_keeps ?_ | refine State.laneEvent_keeps ?_ | refine State.laneCount_keeps ?_

theorem execKeyroll_keeps {z s : State} {f : FrameInfo} (hz : Keeps z s) : KeepsOut z (execKeyroll f s) := by
  unfold execKeyroll
  with_reducible repeat' first
    | refine State.onFrame_keeps ?_ ?_ | assumption | refine State.setLoad_keeps ?_ | exact Keeps.refl _ | dsimp only | split
    | (intro _; try beta_reduce)

theorem execLd_keeps {z s : State} {h : Proc} {size : BitVec 2} {rd : BitVec 5} {a : BitVec 3} {o : BitVec 3} {x : LdRead} (hz : Keeps z s) :
    KeepsOut z (execLd h size rd a o x s) := by
  unfold execLd
  with_reducible repeat' first
    | refine graov_keeps ?_ ?_ | refine KeepsOut.ite ?_ ?_ | refine KeepsOut.next ?_ | assumption | refine State.recordSeen_keeps ?_
    | refine State.setG_keeps ?_ | refine State.memFault_keeps ?_ | refine State.took_keeps ?_ | refine State.postMod_keeps ?_
    | refine ite_keeps ?_ ?_ | dsimp only | split

theorem execDescLoop_keeps {z s : State} {k : LPatch} {t : Thread} (hz : Keeps z s) : KeepsOut z (execDescLoop k t s) := by
  unfold execDescLoop
  with_reducible repeat' first
    | refine State.desc_keeps ?_ ?_ | refine KeepsOut.ite ?_ ?_ | assumption | refine State.bump_keeps ?_ | refine State.modThread_keeps ?_
    | refine State.threadNext_keeps ?_ | refine State.showDepth_keeps ?_ | refine ite_keeps ?_ ?_ | exact Keeps.refl _ | dsimp only | split
    | (intro _; try beta_reduce)

theorem execOri_keeps {z s : State} {h : Proc} {rd : BitVec 5} {ra : BitVec 5} {imm : BitVec 14} (hz : Keeps z s) :
    KeepsOut z (execOri h rd ra imm s) := by
  unfold execOri
  with_reducible repeat' first
    | refine graov_keeps ?_ ?_ | refine KeepsOut.ite ?_ ?_ | refine KeepsOut.next ?_ | assumption | refine State.setG_keeps ?_

theorem branch_keeps {z s : State} {h : Proc} {w : W32} {taken : Bool} {offset : BitVec 17} (hz : Keeps z s) :
    KeepsOut z (branch h w taken offset s) := by
  unfold branch
  with_reducible repeat' first
    | refine act_keeps ?_ ?_ | refine KeepsOut.ite ?_ ?_ | refine KeepsOut.next ?_ | assumption | refine State.goto_keeps ?_
    | refine State.retire_keeps ?_ | refine ite_keeps ?_ ?_

theorem execBa_keeps {z s : State} {h : Proc} {offset : BitVec 17} (hz : Keeps z s) : KeepsOut z (execBa h offset s) := by
  unfold execBa
  with_reducible repeat' first | refine KeepsOut.ite ?_ ?_ | refine KeepsOut.next ?_ | assumption | refine branch_keeps ?_

theorem execCounterLoRead_keeps {z s : State} {a : BitVec 20} (hz : Keeps z s) : KeepsOut z (execCounterLoRead a s) := by
  unfold execCounterLoRead
  with_reducible repeat' first
    | refine act_keeps ?_ ?_ | refine KeepsOut.ite ?_ ?_ | refine KeepsOut.next ?_ | assumption
    | (simp only [keeps_mk]; refine keeps_fields ?_) | refine State.busRead_keeps ?_

theorem execTxUnderrun_keeps {z s : State} {l : Lane} {off : ℕ} (hz : Keeps z s) : KeepsOut z (execTxUnderrun l off s) := by
  unfold execTxUnderrun
  with_reducible repeat' first
    | refine act_keeps ?_ ?_ | refine KeepsOut.ite ?_ ?_ | refine KeepsOut.next ?_ | assumption | refine State.modLane_keeps ?_
    | refine State.laneCount_keeps ?_ | refine State.tick_keeps ?_

theorem execXor_keeps {z s : State} {h : Proc} {rd : BitVec 5} {ra : BitVec 5} {rb : BitVec 5} (hz : Keeps z s) :
    KeepsOut z (execXor h rd ra rb s) := by
  unfold execXor
  with_reducible repeat' first
    | refine graov_keeps ?_ ?_ | refine KeepsOut.ite ?_ ?_ | refine KeepsOut.next ?_ | assumption | refine State.setG_keeps ?_

theorem execDramInitDone_keeps {z s : State} {hdr : StreamHeader} (hz : Keeps z s) : KeepsOut z (execDramInitDone hdr s) := by
  unfold execDramInitDone
  repeat' (first
    | with_reducible assumption
    | with_reducible refine act_keeps ?_ ?_
    | with_reducible exact setBolt_keeps (Keeps.refl _) fun _ => rfl
    | with_reducible refine State.takeHeader_keeps ?_
    | with_reducible refine State.freeHeld_keeps ?_
    | with_reducible refine State.wr_keeps ?_
    | with_reducible refine forN_keeps ?_ ?_
    | with_reducible refine ite_keeps ?_ ?_
    | (simp only [keeps_mk]; with_reducible refine keeps_fields ?_)
    | dsimp only
    | split
    | intro _)

theorem execOr_keeps {z s : State} {h : Proc} {rd : BitVec 5} {ra : BitVec 5} {rb : BitVec 5} (hz : Keeps z s) :
    KeepsOut z (execOr h rd ra rb s) := by
  unfold execOr
  with_reducible repeat' first
    | refine graov_keeps ?_ ?_ | refine KeepsOut.ite ?_ ?_ | refine KeepsOut.next ?_ | assumption | refine State.setG_keeps ?_

theorem execCoefficientWrite_keeps {z s : State} {l : Lane} {word : Fin 7} {v : W32} {be : BitVec 4} (hz : Keeps z s) :
    KeepsOut z (execCoefficientWrite l word v be s) := by
  unfold execCoefficientWrite
  with_reducible repeat' first
    | refine act_keeps ?_ ?_ | refine KeepsOut.ite ?_ ?_ | refine KeepsOut.next ?_ | assumption | refine State.mergeWrite_keeps ?_

theorem execCaptureArm_keeps {z s : State} {k : LPatch} {c : Option CmdRef} {off : ℕ} (hz : Keeps z s) : KeepsOut z (execCaptureArm k c off s) := by
  unfold execCaptureArm
  with_reducible repeat' first | exact actOn_id_keeps hz (fun t e => State.capture_keeps (State.tick_keeps hz) (of_ite_none e))

end Sys2Proof.Machine
end

