-- ==== Sys2Proof/Laws/KeepsExec2.lean ====
section
/-! SUPPORT. Every command's meaning keeps the queue, the stitch number and canonical memories: one lemma per meaning, but for the boundary and the starts (part 2 of 3). -/

namespace Sys2Proof.Machine

theorem execSeamLockLoss_keeps {z s : State} {n : Seam} (hz : Keeps z s) : KeepsOut z (execSeamLockLoss n s) := by
  unfold execSeamLockLoss
  with_reducible repeat' first
    | refine act_keeps ?_ ?_ | refine KeepsOut.ite ?_ ?_ | refine KeepsOut.next ?_ | assumption | refine State.seamDown_keeps ?_

theorem execJrstLayer_keeps {z s : State} {layers : BitVec 8} (hz : Keeps z s) : KeepsOut z (execJrstLayer layers s) := by
  unfold execJrstLayer
  with_reducible repeat' first
    | refine act_keeps ?_ ?_ | refine KeepsOut.ite ?_ ?_ | refine KeepsOut.next ?_ | assumption | refine State.requestLayers_keeps ?_

theorem execRetrain_keeps {z s : State} {n : Seam} (hz : Keeps z s) : KeepsOut z (execRetrain n s) := by
  unfold execRetrain
  with_reducible repeat' first
    | refine act_keeps ?_ ?_ | refine KeepsOut.ite ?_ ?_ | refine KeepsOut.next ?_ | assumption | refine State.seamDown_keeps ?_

theorem execShl_keeps {z s : State} {h : Proc} {rd : BitVec 5} {ra : BitVec 5} {rb : BitVec 5} (hz : Keeps z s) :
    KeepsOut z (execShl h rd ra rb s) := by
  unfold execShl
  with_reducible repeat' first
    | refine graov_keeps ?_ ?_ | refine KeepsOut.ite ?_ ?_ | refine KeepsOut.next ?_ | assumption | refine State.setG_keeps ?_

theorem execNop_keeps {z s : State} {h : Proc} (hz : Keeps z s) : KeepsOut z (execNop h s) := by
  unfold execNop
  with_reducible repeat' first | refine graov_keeps ?_ ?_ | refine KeepsOut.ite ?_ ?_ | refine KeepsOut.next ?_ | assumption

theorem execSlotWriteDone_keeps {z s : State} (hz : Keeps z s) : KeepsOut z (execSlotWriteDone s) := by
  unfold execSlotWriteDone
  with_reducible repeat' first
    | refine actOn_keeps ?_ ?_ | refine KeepsOut.ite ?_ ?_ | refine KeepsOut.next ?_ | assumption | refine State.completeOpt_keeps ?_
    | refine State.wr_keeps ?_ | refine State.setLoad_keeps ?_ | refine ite_keeps ?_ ?_ | dsimp only | split | (intro _; try beta_reduce)

theorem execGtop_keeps {z s : State} {h : Proc} {pd : BitVec 3} {ga : BitVec 5} (hz : Keeps z s) : KeepsOut z (execGtop h pd ga s) := by
  unfold execGtop
  with_reducible repeat' first
    | refine graov_keeps ?_ ?_ | refine KeepsOut.ite ?_ ?_ | refine KeepsOut.next ?_ | assumption | refine State.setP_keeps ?_

theorem execJackSwap_keeps {z s : State} (hz : Keeps z s) : KeepsOut z (execJackSwap s) := by
  unfold execJackSwap
  with_reducible repeat' first
    | refine act_keeps ?_ ?_ | refine KeepsOut.ite ?_ ?_ | refine KeepsOut.next ?_ | assumption | refine State.requestSwap_keeps ?_

theorem execDescBadop_keeps {z s : State} {k : LPatch} {t : Thread} (hz : Keeps z s) : KeepsOut z (execDescBadop k t s) := by
  unfold execDescBadop
  with_reducible repeat' first
    | refine State.desc_keeps ?_ ?_ | assumption | refine State.stopThread_keeps ?_ | exact Keeps.refl _ | dsimp only | split
    | (intro _; try beta_reduce)

theorem execSeamKeyReceived_keeps {z s : State} {n : Seam} {ok : Bool} {peer : Device} {peerSeam : Seam} (hz : Keeps z s) :
    KeepsOut z (execSeamKeyReceived n ok peer peerSeam s) := by
  unfold execSeamKeyReceived
  with_reducible repeat' first
    | refine act_keeps ?_ ?_ | refine KeepsOut.ite ?_ ?_ | refine KeepsOut.next ?_ | assumption | refine State.seamRejoins_keeps ?_
    | refine State.modSeam_keeps ?_ | refine State.wr_keeps ?_ | refine State.seamDown_keeps ?_ | refine ite_keeps ?_ ?_

theorem execJackSwapExecute_keeps {z s : State} {swapAny : Bool} {swapOk : Bool} (hz : Keeps z s) :
    KeepsOut z (execJackSwapExecute swapAny swapOk s) := by
  unfold execJackSwapExecute
  with_reducible repeat' first
    | refine act_keeps ?_ ?_ | refine KeepsOut.ite ?_ ?_ | refine KeepsOut.next ?_ | assumption
    | (simp only [keeps_mk]; refine keeps_fields ?_) | refine State.incr_keeps ?_ | refine State.wr_keeps ?_

theorem execPreparationEnd_keeps {z s : State} {x : PrepEnd} (hz : Keeps z s) : KeepsOut z (execPreparationEnd x s) := by
  unfold execPreparationEnd
  with_reducible repeat' first
    | refine actOn_keeps ?_ ?_ | refine KeepsOut.ite ?_ ?_ | refine KeepsOut.next ?_ | assumption
    | (simp only [keeps_mk]; refine keeps_fields ?_)
    | (refine setBank_keeps ?_ (fun m => ?hp); case hp => exact ⟨(bankAt_ok m _ _).1, (bankAt_ok m _ _).2⟩) | refine State.tick_keeps ?_
    | refine State.copyWord_keeps ?_ | refine ite_keeps ?_ ?_ | refine forEach_keeps ?_ ?_ | refine forN_keeps ?_ ?_ | exact Keeps.refl _
    | dsimp only | split | (intro _; try beta_reduce)

theorem execHostReadComplete_keeps {z s : State} {c : CmdRef} {data : Option (List Byte)} (hz : Keeps z s) :
    KeepsOut z (execHostReadComplete c data s) := by
  unfold execHostReadComplete
  with_reducible repeat' first
    | refine actOn_keeps ?_ ?_ | refine KeepsOut.ite ?_ ?_ | refine KeepsOut.next ?_ | assumption
    | (simp only [keeps_mk]; refine keeps_fields ?_) | refine State.forwardRead_keeps ?_ | refine State.takeRead_keeps ?_
    | refine ite_keeps ?_ ?_ | dsimp only | split | (intro _; try beta_reduce)

theorem execWait_keeps {z s : State} {k : LPatch} {t : Thread} (hz : Keeps z s) : KeepsOut z (execWait k t s) := by
  unfold execWait
  with_reducible repeat' first
    | refine State.desc_keeps ?_ ?_ | assumption | refine State.modThread_keeps ?_ | refine State.wr_keeps ?_ | exact Keeps.refl _ | dsimp only
    | split | (intro _; try beta_reduce)

theorem execWindowWrite_keeps {z s : State} {d : Device} {a : BitVec 24} {v : W32} {be : BitVec 4} {off : ℕ} (hz : Keeps z s) :
    KeepsOut z (execWindowWrite d a v be off s) := by
  refine act_keeps hz ?_
  split
  · exact State.winFails_keeps (State.tick_keeps hz) (by assumption)
  · repeat' (first
      | with_reducible assumption
      | with_reducible refine State.tick_keeps ?_
      | with_reducible refine State.busWrite_keeps ?_
      | with_reducible refine State.winSend_keeps ?_
      | split)

theorem execTrainingDone_keeps {z s : State} {failed : List CouplerId} (hz : Keeps z s) : KeepsOut z (execTrainingDone failed s) := by
  unfold execTrainingDone
  with_reducible repeat' first
    | refine act_keeps ?_ ?_ | refine KeepsOut.ite ?_ ?_ | refine KeepsOut.next ?_ | assumption
    | (simp only [keeps_mk]; refine keeps_fields ?_) | refine State.trainBoundary_keeps ?_ | refine State.showSlots_keeps ?_
    | refine State.loadSettings_keeps ?_ | refine State.wr_keeps ?_ | refine State.showJournal_keeps ?_ | refine ite_keeps ?_ ?_
    | refine forEach_keeps ?_ ?_ | exact Keeps.refl _ | dsimp only | split | (intro _; try beta_reduce)

theorem execExtestPulse_keeps {z s : State} (hz : Keeps z s) : KeepsOut z (execExtestPulse s) := by
  unfold execExtestPulse
  with_reducible repeat' first
    | refine act_keeps ?_ ?_ | refine KeepsOut.ite ?_ ?_ | refine KeepsOut.next ?_ | assumption | refine State.loadTap_keeps ?_

theorem execPquietWrite_keeps {z s : State} {k : LPatch} {v : W32} {be : BitVec 4} (hz : Keeps z s) : KeepsOut z (execPquietWrite k v be s) := by
  unfold execPquietWrite
  with_reducible repeat' first
    | refine act_keeps ?_ ?_ | refine KeepsOut.ite ?_ ?_ | refine KeepsOut.next ?_ | assumption | refine State.viaPatch_keeps ?_ ?_
    | refine State.writePquiet_keeps ?_

theorem execStw_keeps {z s : State} {k : LPatch} {size : BitVec 2} {rd : BitVec 5} {a : BitVec 3} {o : BitVec 3} {imm : BitVec 11} (hz : Keeps z s) :
    KeepsOut z (execStw k size rd a o imm s) := by
  unfold execStw
  with_reducible repeat' first
    | refine graov_keeps ?_ ?_ | refine KeepsOut.ite ?_ ?_ | refine KeepsOut.next ?_ | assumption
    | (refine modProcAt_keeps ?_ (fun x h => h)) | refine State.bump_keeps ?_ | refine State.postMod_keeps ?_ | refine ite_keeps ?_ ?_

theorem execIntoscStart_keeps {z s : State} (hz : Keeps z s) : KeepsOut z (execIntoscStart s) := by
  unfold execIntoscStart
  with_reducible repeat' first
    | refine act_keeps ?_ ?_ | refine KeepsOut.ite ?_ ?_ | refine KeepsOut.next ?_ | assumption
    | (simp only [keeps_mk]; refine keeps_fields ?_) | refine State.wr_keeps ?_

theorem execTimeCell_keeps {z s : State} {n : Seam} {t : TimeCell} (hz : Keeps z s) : KeepsOut z (execTimeCell n t s) := by
  unfold execTimeCell
  with_reducible repeat' first
    | refine act_keeps ?_ ?_ | refine KeepsOut.ite ?_ ?_ | refine KeepsOut.next ?_ | assumption
    | (simp only [keeps_mk]; refine keeps_fields ?_) | refine State.tick_keeps ?_ | refine State.seeHot_keeps ?_
    | refine State.modSeam_keeps ?_ | refine State.measure_keeps ?_ | refine State.wr_keeps ?_ | refine ite_keeps ?_ ?_

theorem execSari_keeps {z s : State} {h : Proc} {rd : BitVec 5} {ra : BitVec 5} {imm : BitVec 14} (hz : Keeps z s) :
    KeepsOut z (execSari h rd ra imm s) := by
  unfold execSari
  with_reducible repeat' first
    | refine graov_keeps ?_ ?_ | refine KeepsOut.ite ?_ ?_ | refine KeepsOut.next ?_ | assumption | refine State.setG_keeps ?_

theorem execFollow_keeps {z s : State} {c : CmdRef} (hz : Keeps z s) : KeepsOut z (execFollow c s) := by
  unfold execFollow
  with_reducible repeat' first
    | refine actOn_keeps ?_ ?_ | refine KeepsOut.ite ?_ ?_ | refine KeepsOut.next ?_ | assumption | refine State.startOffload_keeps ?_
    | refine ite_keeps ?_ ?_ | dsimp only | split | (intro _; try beta_reduce)

theorem execRefclkMissing_keeps {z s : State} {off : ℕ} (hz : Keeps z s) : KeepsOut z (execRefclkMissing off s) := by
  unfold execRefclkMissing
  with_reducible repeat' first
    | refine act_keeps ?_ ?_ | refine KeepsOut.ite ?_ ?_ | refine KeepsOut.next ?_ | assumption | refine State.badWindow_keeps ?_
    | refine State.tick_keeps ?_

theorem execClockRestored_keeps {z s : State} {off : ℕ} (hz : Keeps z s) : KeepsOut z (execClockRestored off s) := by
  unfold execClockRestored
  with_reducible repeat' first
    | refine act_keeps ?_ ?_ | refine KeepsOut.ite ?_ ?_ | refine KeepsOut.next ?_ | assumption
    | (simp only [keeps_mk]; refine keeps_fields ?_) | refine State.bump_keeps ?_ | refine State.event_keeps ?_ | refine State.wr_keeps ?_
    | refine State.tick_keeps ?_

theorem execBlankDrive_keeps {z s : State} (hz : Keeps z s) : KeepsOut z (execBlankDrive s) := by
  unfold execBlankDrive
  with_reducible repeat' first
    | refine act_keeps ?_ ?_ | refine KeepsOut.ite ?_ ?_ | refine KeepsOut.next ?_ | assumption
    | (simp only [keeps_mk]; refine keeps_fields ?_)

theorem execMax_keeps {z s : State} {h : Proc} {rd : BitVec 5} {ra : BitVec 5} {rb : BitVec 5} (hz : Keeps z s) :
    KeepsOut z (execMax h rd ra rb s) := by
  unfold execMax
  with_reducible repeat' first
    | refine graov_keeps ?_ ?_ | refine KeepsOut.ite ?_ ?_ | refine KeepsOut.next ?_ | assumption | refine State.setG_keeps ?_

theorem execTapReset_keeps {z s : State} (hz : Keeps z s) : KeepsOut z (execTapReset s) := by
  unfold execTapReset
  with_reducible repeat' first
    | refine act_keeps ?_ ?_ | refine KeepsOut.ite ?_ ?_ | refine KeepsOut.next ?_ | assumption | refine State.loadTap_keeps ?_

theorem execLogStatRead_keeps {z s : State} {off : ℕ} (hz : Keeps z s) : KeepsOut z (execLogStatRead off s) := by
  unfold execLogStatRead
  with_reducible repeat' first
    | refine KeepsOut.ite ?_ ?_ | refine KeepsOut.next ?_ | assumption | (simp only [keeps_mk]; refine keeps_fields ?_)
    | refine State.busRead_keeps ?_ | refine State.tick_keeps ?_

theorem execSwap_keeps {z s : State} {k : LPatch} {v : W32} (hz : Keeps z s) : KeepsOut z (execSwap k v s) := by
  unfold execSwap
  with_reducible repeat' first
    | refine act_keeps ?_ ?_ | refine KeepsOut.ite ?_ ?_ | refine KeepsOut.next ?_ | assumption | refine State.planeWrite_keeps ?_

theorem execMaxu_keeps {z s : State} {h : Proc} {rd : BitVec 5} {ra : BitVec 5} {rb : BitVec 5} (hz : Keeps z s) :
    KeepsOut z (execMaxu h rd ra rb s) := by
  unfold execMaxu
  with_reducible repeat' first
    | refine graov_keeps ?_ ?_ | refine KeepsOut.ite ?_ ?_ | refine KeepsOut.next ?_ | assumption | refine State.setG_keeps ?_

theorem execLinkLoss_keeps {z s : State} (hz : Keeps z s) : KeepsOut z (execLinkLoss s) := by
  unfold execLinkLoss
  with_reducible repeat' first
    | refine act_keeps ?_ ?_ | refine KeepsOut.ite ?_ ?_ | refine KeepsOut.next ?_ | assumption | refine State.setReg_keeps ?_
    | refine State.hostReset_keeps ?_

theorem execTxRecal_keeps {z s : State} {c : CmdRef} (hz : Keeps z s) : KeepsOut z (execTxRecal c s) := by
  unfold execTxRecal
  with_reducible repeat' first | exact actOn_id_keeps hz (fun t e => State.laneReq_keeps hz (of_ite_none e))

theorem execProgLoad_keeps {z s : State} {c : CmdRef} (hz : Keeps z s) : KeepsOut z (execProgLoad c s) :=
  State.progCmd_keeps hz fun _ => State.loadNow_keeps hz

theorem execProgStop_keeps {z s : State} {c : CmdRef} (hz : Keeps z s) : KeepsOut z (execProgStop c s) := by
  unfold execProgStop
  with_reducible repeat' first
    | refine State.progCmd_keeps ?_ ?_ | assumption | refine State.queueProg_keeps ?_ | exact Keeps.refl _ | dsimp only | split
    | (intro _; try beta_reduce)

theorem execRaiseWrite_keeps {z s : State} {src : Src} {high : Bool} {v : W32} {off : ℕ} (hz : Keeps z s) :
    KeepsOut z (execRaiseWrite src high v off s) := by
  unfold execRaiseWrite
  with_reducible repeat' first
    | refine act_keeps ?_ ?_ | refine KeepsOut.ite ?_ ?_ | refine KeepsOut.next ?_ | assumption | refine State.writeRaise_keeps ?_
    | refine State.tick_keeps ?_

theorem execGo_keeps {z s : State} {cabling : List Link} {refused : Bool} (hz : Keeps z s) : KeepsOut z (execGo cabling refused s) := by
  unfold execGo
  with_reducible repeat' first
    | refine act_keeps ?_ ?_ | refine KeepsOut.ite ?_ ?_ | refine KeepsOut.next ?_ | assumption
    | (simp only [keeps_mk]; refine keeps_fields ?_) | refine State.wr_keeps ?_ | refine State.took_keeps ?_
    | refine State.ownRoutes_keeps ?_ | refine State.setRoles_keeps ?_ | refine State.sendMsg_keeps ?_ | refine State.tellRoutes_keeps ?_
    | refine State.beSingle_keeps ?_ | refine ite_keeps ?_ ?_ | refine forN_keeps ?_ ?_ | exact Keeps.refl _ | dsimp only | split
    | (intro _; try beta_reduce)

theorem execRebind_keeps {z s : State} {off : ℕ} (hz : Keeps z s) : KeepsOut z (execRebind off s) := by
  unfold execRebind
  with_reducible repeat' first
    | refine actOn_keeps ?_ ?_ | refine KeepsOut.ite ?_ ?_ | refine KeepsOut.next ?_ | assumption
    | (simp only [keeps_mk]; refine keeps_fields ?_) | refine State.tick_keeps ?_ | refine State.moveBank_keeps ?_
    | refine State.setPos_keeps ?_ | refine State.wr_keeps ?_ | (refine modProcAt_keeps ?_ (fun x h => h)) | refine State.ownBist_keeps ?_
    | refine State.setFab_keeps ?_ | refine State.presentLines_keeps ?_ | refine State.modPat_keeps ?_ | refine State.capRebind_keeps ?_
    | refine State.busWrite_keeps ?_ | refine ite_keeps ?_ ?_ | refine forEach_keeps ?_ ?_ | refine forN_keeps ?_ ?_ | exact Keeps.refl _
    | dsimp only | split | (intro _; try beta_reduce)

theorem execEventRecordWrite_keeps {z s : State} (hz : Keeps z s) : KeepsOut z (execEventRecordWrite s) := by
  unfold execEventRecordWrite
  with_reducible repeat' first
    | refine act_keeps ?_ ?_ | refine KeepsOut.ite ?_ ?_ | refine KeepsOut.next ?_ | assumption | refine State.putRecord_keeps ?_

theorem execAcs_keeps {z s : State} {r : Ribbon} {radix4 : Bool} {vd : BitVec 3} {vs : BitVec 3} {vb : BitVec 3} {aN : BitVec 3} (hz : Keeps z s) :
    KeepsOut z (execAcs r radix4 vd vs vb aN s) := by
  unfold execAcs
  with_reducible repeat' first
    | refine graov_keeps ?_ ?_ | refine KeepsOut.ite ?_ ?_ | refine KeepsOut.next ?_ | assumption | refine State.setV_keeps ?_
    | refine State.setA_keeps ?_ | refine State.dstore_keeps ?_ | refine State.setVs_keeps ?_ | refine ite_keeps ?_ ?_
    | refine forEach_keeps ?_ ?_ | exact Keeps.refl _ | dsimp only | split | (intro _; try beta_reduce)

theorem execPostDone_keeps {z s : State} {k : LPatch} {off : ℕ} (hz : Keeps z s) : KeepsOut z (execPostDone k off s) := by
  unfold execPostDone
  with_reducible repeat' first
    | refine act_keeps ?_ ?_ | refine KeepsOut.ite ?_ ?_ | refine KeepsOut.next ?_ | assumption | refine State.showCap_keeps ?_
    | refine State.postDone_keeps ?_ | refine State.tick_keeps ?_

theorem execVrd_keeps {z s : State} {r : Ribbon} {gd : BitVec 5} {vs : BitVec 3} {x : BitVec 5} (hz : Keeps z s) :
    KeepsOut z (execVrd r gd vs x s) := by
  unfold execVrd
  with_reducible repeat' first
    | refine graov_keeps ?_ ?_ | refine KeepsOut.ite ?_ ?_ | refine KeepsOut.next ?_ | assumption | refine State.setG_keeps ?_

theorem execMvo_keeps {z s : State} {h : Proc} {od : BitVec 3} {ga : BitVec 5} (hz : Keeps z s) : KeepsOut z (execMvo h od ga s) := by
  unfold execMvo
  with_reducible repeat' first
    | refine graov_keeps ?_ ?_ | refine KeepsOut.ite ?_ ?_ | refine KeepsOut.next ?_ | assumption | refine State.setO_keeps ?_

theorem execMarchDestruct_keeps {z s : State} {c : CmdRef} (hz : Keeps z s) : KeepsOut z (execMarchDestruct c s) := by
  unfold execMarchDestruct
  with_reducible repeat' first
    | refine actOn_keeps ?_ ?_ | refine KeepsOut.ite ?_ ?_ | refine KeepsOut.next ?_ | assumption | refine State.destruct_keeps ?_
    | refine ite_keeps ?_ ?_ | dsimp only | split | (intro _; try beta_reduce)

theorem execOffloadStop_keeps {z s : State} {c : CmdRef} (hz : Keeps z s) : KeepsOut z (execOffloadStop c s) := by
  unfold execOffloadStop
  with_reducible repeat' first
    | refine actOn_keeps ?_ ?_ | refine KeepsOut.ite ?_ ?_ | refine KeepsOut.next ?_ | assumption | refine State.complete_keeps ?_
    | refine State.modChan_keeps ?_ | refine ite_keeps ?_ ?_ | dsimp only | split | (intro _; try beta_reduce)

theorem execDrop_keeps {z s : State} {k : LPatch} {slot : Slot} {unit : W16} (hz : Keeps z s) : KeepsOut z (execDrop k slot unit s) := by
  unfold execDrop
  with_reducible repeat' first
    | refine act_keeps ?_ ?_ | refine KeepsOut.ite ?_ ?_ | refine KeepsOut.next ?_ | assumption | refine State.verdict_keeps ?_

theorem execDescTrig_keeps {z s : State} {k : LPatch} {t : Thread} {off : ℕ} (hz : Keeps z s) : KeepsOut z (execDescTrig k t off s) := by
  unfold execDescTrig
  with_reducible repeat' first
    | refine State.desc_keeps ?_ ?_ | assumption | refine State.raiseLine_keeps ?_ | refine State.threadNext_keeps ?_ | refine State.tick_keeps ?_
    | exact Keeps.refl _ | dsimp only | split | (intro _; try beta_reduce)

theorem execRotWaitExpiry_keeps {z s : State} {off : ℕ} (hz : Keeps z s) : KeepsOut z (execRotWaitExpiry off s) := by
  unfold execRotWaitExpiry
  with_reducible repeat' first
    | refine act_keeps ?_ ?_ | refine KeepsOut.ite ?_ ?_ | refine KeepsOut.next ?_ | assumption | refine State.abandonPrep_keeps ?_
    | refine State.tick_keeps ?_

theorem execMailboxReply_keeps {z s : State} {h : Proc} {v : W32} (hz : Keeps z s) : KeepsOut z (execMailboxReply h v s) := by
  unfold execMailboxReply
  with_reducible repeat' first
    | refine act_keeps ?_ ?_ | refine KeepsOut.ite ?_ ?_ | refine KeepsOut.next ?_ | assumption | refine State.writeMailOut_keeps ?_

theorem execSeamTrained_keeps {z s : State} {n : Seam} (hz : Keeps z s) : KeepsOut z (execSeamTrained n s) := by
  unfold execSeamTrained
  with_reducible repeat' first
    | refine act_keeps ?_ ?_ | refine KeepsOut.ite ?_ ?_ | refine KeepsOut.next ?_ | assumption | refine State.wr_keeps ?_

theorem execLaneReqEnd_keeps {z s : State} {l : Lane} {pass : Bool} {cause : BitVec 4} (hz : Keeps z s) :
    KeepsOut z (execLaneReqEnd l pass cause s) := by
  unfold execLaneReqEnd
  with_reducible repeat' first
    | refine actOn_keeps ?_ ?_ | refine KeepsOut.ite ?_ ?_ | refine KeepsOut.next ?_ | assumption | refine State.modLane_keeps ?_
    | refine State.restartTx_keeps ?_ | refine State.enterFault_keeps ?_ | refine State.setLn_keeps ?_
    | refine State.enterAcquire_keeps ?_ | refine State.laneTo_keeps ?_ | refine State.enterUp_keeps ?_ | refine State.evalReqs_keeps ?_
    | refine State.complete_keeps ?_ | refine ite_keeps ?_ ?_ | dsimp only | split | (intro _; try beta_reduce)

theorem execRecordWrite_keeps {z s : State} {k : LPatch} {off : ℕ} (hz : Keeps z s) : KeepsOut z (execRecordWrite k off s) := by
  unfold execRecordWrite
  with_reducible repeat' first
    | refine actOn_keeps ?_ ?_ | refine KeepsOut.ite ?_ ?_ | refine KeepsOut.next ?_ | assumption | refine State.modCap_keeps ?_
    | refine State.tick_keeps ?_ | refine State.pagesLost_keeps ?_ | refine State.boltPut_keeps ?_ | refine State.holdRecord_keeps ?_
    | refine State.noteIndex_keeps ?_ | refine State.showCap_keeps ?_ | refine State.flushCloses_keeps ?_ | refine ite_keeps ?_ ?_
    | dsimp only | split | (intro _; try beta_reduce)

theorem execProgAdmit_keeps {z s : State} {c : CmdRef} (hz : Keeps z s) : KeepsOut z (execProgAdmit c s) := by
  unfold execProgAdmit
  with_reducible repeat' first
    | refine State.progCmd_keeps ?_ ?_ | assumption | refine State.admitImage_keeps ?_ | exact Keeps.refl _ | dsimp only | split
    | (intro _; try beta_reduce)

theorem execReleaseWord_keeps {z s : State} {sp : Spool} {slot : BitVec 8} {v : W32} (hz : Keeps z s) : KeepsOut z (execReleaseWord sp slot v s) := by
  unfold execReleaseWord
  with_reducible repeat' first
    | refine act_keeps ?_ ?_ | refine KeepsOut.ite ?_ ?_ | refine KeepsOut.next ?_ | assumption | refine State.setSlot_keeps ?_
    | refine State.bump_keeps ?_ | refine ite_keeps ?_ ?_

theorem execGateClose_keeps {z s : State} {gate : BitVec 7} (hz : Keeps z s) : KeepsOut z (execGateClose gate s) := by
  unfold execGateClose
  with_reducible repeat' first
    | refine act_keeps ?_ ?_ | refine KeepsOut.ite ?_ ?_ | refine KeepsOut.next ?_ | assumption | refine State.closeGate_keeps ?_

theorem execSamplePreload_keeps {z s : State} (hz : Keeps z s) : KeepsOut z (execSamplePreload s) := by
  unfold execSamplePreload
  with_reducible repeat' first
    | refine act_keeps ?_ ?_ | refine KeepsOut.ite ?_ ?_ | refine KeepsOut.next ?_ | assumption | refine State.loadTap_keeps ?_

theorem execB_keeps {z s : State} {h : Proc} {pn : BitVec 3} {offset : BitVec 17} (hz : Keeps z s) : KeepsOut z (execB h pn offset s) := by
  unfold execB
  with_reducible repeat' first | refine KeepsOut.ite ?_ ?_ | refine KeepsOut.next ?_ | assumption | refine branch_keeps ?_

theorem execCountOnly_keeps {z s : State} {k : LPatch} {slot : Slot} {unit : W16} (hz : Keeps z s) : KeepsOut z (execCountOnly k slot unit s) := by
  unfold execCountOnly
  with_reducible repeat' first
    | refine act_keeps ?_ ?_ | refine KeepsOut.ite ?_ ?_ | refine KeepsOut.next ?_ | assumption | refine State.verdict_keeps ?_

theorem execGateOpen_keeps {z s : State} {gate : BitVec 7} (hz : Keeps z s) : KeepsOut z (execGateOpen gate s) := by
  unfold execGateOpen
  with_reducible repeat' first
    | refine act_keeps ?_ ?_ | refine KeepsOut.ite ?_ ?_ | refine KeepsOut.next ?_ | assumption | refine State.openGate_keeps ?_

theorem execCompactionDone_keeps {z s : State} (hz : Keeps z s) : KeepsOut z (execCompactionDone s) := by
  unfold execCompactionDone
  with_reducible repeat' first
    | refine act_keeps ?_ ?_ | refine KeepsOut.ite ?_ ?_ | refine KeepsOut.next ?_ | assumption
    | (simp only [keeps_mk]; refine keeps_fields ?_) | refine State.wakeStores_keeps ?_ | refine State.wr_keeps ?_
    | refine State.showJournal_keeps ?_

theorem execEndloop_keeps {z s : State} {k : LPatch} {t : Thread} (hz : Keeps z s) : KeepsOut z (execEndloop k t s) := by
  unfold execEndloop
  with_reducible repeat' first
    | refine State.desc_keeps ?_ ?_ | refine KeepsOut.ite ?_ ?_ | assumption | refine State.threadNext_keeps ?_ | refine State.modThread_keeps ?_
    | refine State.threadTo_keeps ?_ | refine State.showDepth_keeps ?_ | refine ite_keeps ?_ ?_ | exact Keeps.refl _ | dsimp only | split
    | (intro _; try beta_reduce)

theorem execLossOfLock_keeps {z s : State} {l : Lane} {off : ℕ} (hz : Keeps z s) : KeepsOut z (execLossOfLock l off s) := by
  unfold execLossOfLock
  with_reducible repeat' first
    | refine act_keeps ?_ ?_ | refine KeepsOut.ite ?_ ?_ | refine KeepsOut.next ?_ | assumption | refine State.enterAcquire_keeps ?_
    | refine State.tick_keeps ?_

theorem execBn_keeps {z s : State} {h : Proc} {pn : BitVec 3} {offset : BitVec 17} (hz : Keeps z s) : KeepsOut z (execBn h pn offset s) := by
  unfold execBn
  with_reducible repeat' first | refine KeepsOut.ite ?_ ?_ | refine KeepsOut.next ?_ | assumption | refine branch_keeps ?_

theorem execLaneFault_keeps {z s : State} {l : Lane} {cause : BitVec 4} {off : ℕ} (hz : Keeps z s) : KeepsOut z (execLaneFault l cause off s) := by
  unfold execLaneFault
  with_reducible repeat' first
    | refine act_keeps ?_ ?_ | refine KeepsOut.ite ?_ ?_ | refine KeepsOut.next ?_ | assumption | refine State.enterFault_keeps ?_
    | refine State.tick_keeps ?_

theorem execShli_keeps {z s : State} {h : Proc} {rd : BitVec 5} {ra : BitVec 5} {imm : BitVec 14} (hz : Keeps z s) :
    KeepsOut z (execShli h rd ra imm s) := by
  unfold execShli
  with_reducible repeat' first
    | refine graov_keeps ?_ ?_ | refine KeepsOut.ite ?_ ?_ | refine KeepsOut.next ?_ | assumption | refine State.setG_keeps ?_

theorem execStreamEnd_keeps {z s : State} (hz : Keeps z s) : KeepsOut z (execStreamEnd s) := by
  unfold execStreamEnd
  with_reducible repeat' first
    | refine actOn_keeps ?_ ?_ | refine KeepsOut.ite ?_ ?_ | refine KeepsOut.next ?_ | assumption | refine State.setLoad_keeps ?_
    | refine State.abortLoad_keeps ?_ | refine State.completeOpt_keeps ?_ | refine State.wr_keeps ?_ | refine ite_keeps ?_ ?_ | dsimp only
    | split | (intro _; try beta_reduce)

theorem execVerdictWindowClose_keeps {z s : State} {k : LPatch} {slot : Slot} {unit : W16} (hz : Keeps z s) :
    KeepsOut z (execVerdictWindowClose k slot unit s) := by
  unfold execVerdictWindowClose
  with_reducible repeat' first
    | refine act_keeps ?_ ?_ | refine KeepsOut.ite ?_ ?_ | refine KeepsOut.next ?_ | assumption | refine State.showCap_keeps ?_
    | refine State.modCap_keeps ?_ | refine State.tick_keeps ?_

theorem execMgmtWindowGo_keeps {z s : State} {p : Pos} {v : W32} {be : BitVec 4} (hz : Keeps z s) : KeepsOut z (execMgmtWindowGo p v be s) := by
  unfold execMgmtWindowGo
  with_reducible repeat' first
    | refine act_keeps ?_ ?_ | refine KeepsOut.ite ?_ ?_ | refine KeepsOut.next ?_ | assumption | refine State.viaPos_keeps ?_ ?_
    | refine State.writeMgmt_keeps ?_

theorem execPxor_keeps {z s : State} {h : Proc} {pd : BitVec 3} {pa : BitVec 3} {pb : BitVec 3} (hz : Keeps z s) :
    KeepsOut z (execPxor h pd pa pb s) := by
  unfold execPxor
  with_reducible repeat' first
    | refine graov_keeps ?_ ?_ | refine KeepsOut.ite ?_ ?_ | refine KeepsOut.next ?_ | assumption | refine State.setP_keeps ?_

theorem execLcsAdvance_keeps {z s : State} {c : CmdRef} (hz : Keeps z s) : KeepsOut z (execLcsAdvance c s) := by
  unfold execLcsAdvance
  with_reducible repeat' first
    | refine actOn_keeps ?_ ?_ | refine KeepsOut.ite ?_ ?_ | refine KeepsOut.next ?_ | assumption
    | (simp only [keeps_mk]; refine keeps_fields ?_) | refine State.setPhase_keeps ?_ | refine State.complete_keeps ?_
    | refine ite_keeps ?_ ?_ | dsimp only | split | (intro _; try beta_reduce)

theorem execBoltLineRead_keeps {z s : State} {k : LPatch} {line : BitVec 25} {reader : Reader} {seen : Ecc} (hz : Keeps z s) :
    KeepsOut z (execBoltLineRead k line reader seen s) := by
  have hd := State.boltRead_keeps (k := k.val) (line := line.toNat) (seen := seen) hz
  refine act_keeps hz ?_
  split
  · rename_i e; rw [e] at hd; exact State.poisonSeen_keeps hd
  · rename_i e; rw [e] at hd; exact hd

theorem execExchangeSend_keeps {z s : State} {k : LPatch} {flits : List (BitVec 128)} (hz : Keeps z s) : KeepsOut z (execExchangeSend k flits s) := by
  unfold execExchangeSend
  with_reducible repeat' first
    | refine act_keeps ?_ ?_ | refine KeepsOut.ite ?_ ?_ | refine KeepsOut.next ?_ | assumption | refine State.showExchange_keeps ?_
    | refine State.incr_keeps ?_ | refine State.setFab_keeps ?_

theorem execUncorrectableCodewords_keeps {z s : State} {n : Seam} (hz : Keeps z s) : KeepsOut z (execUncorrectableCodewords n s) := by
  unfold execUncorrectableCodewords
  with_reducible repeat' first
    | refine act_keeps ?_ ?_ | refine KeepsOut.ite ?_ ?_ | refine KeepsOut.next ?_ | assumption | refine State.seamDown_keeps ?_

theorem execQueuePop_keeps {z s : State} {k : LPatch} {bank : Bank} {owner : BitVec 4} {seen : List Ecc} (hz : Keeps z s) :
    KeepsOut z (execQueuePop k bank owner seen s) := by
  unfold execQueuePop
  with_reducible repeat' first
    | refine act_keeps ?_ ?_ | refine KeepsOut.ite ?_ ?_ | refine KeepsOut.next ?_ | assumption | refine State.setPort_keeps ?_
    | refine State.denyPort_keeps ?_ | refine State.bankGet_keeps ?_
    | (refine setBank_keeps ?_ (fun m => ?hp); case hp => exact ⟨(bankAt_ok m _ _).1, (bankAt_ok m _ _).2⟩)
    | refine State.showQueue_keeps ?_ | refine ite_keeps ?_ ?_

theorem execHcLockstepMismatch_keeps {z s : State} {off : ℕ} (hz : Keeps z s) : KeepsOut z (execHcLockstepMismatch off s) := by
  unfold execHcLockstepMismatch
  with_reducible repeat' first
    | refine act_keeps ?_ ?_ | refine KeepsOut.ite ?_ ?_ | refine KeepsOut.next ?_ | assumption
    | (simp only [keeps_mk]; refine keeps_fields ?_) | refine State.bump_keeps ?_ | (refine modProcAt_keeps ?_ (fun x h => h))
    | refine State.restoreRegs_keeps ?_ | refine State.tick_keeps ?_ | refine State.event_keeps ?_ | refine ite_keeps ?_ ?_

theorem execRootPllLock_keeps {z s : State} (hz : Keeps z s) : KeepsOut z (execRootPllLock s) := by
  unfold execRootPllLock
  with_reducible repeat' first
    | refine act_keeps ?_ ?_ | refine KeepsOut.ite ?_ ?_ | refine KeepsOut.next ?_ | assumption
    | (simp only [keeps_mk]; refine keeps_fields ?_) | refine State.wr_keeps ?_ | refine ite_keeps ?_ ?_ | refine forN_keeps ?_ ?_
    | exact Keeps.refl _ | dsimp only | split | (intro _; try beta_reduce)

theorem execSync_keeps {z s : State} {k : LPatch} {t : Thread} (hz : Keeps z s) : KeepsOut z (execSync k t s) := by
  unfold execSync
  with_reducible repeat' first
    | refine State.desc_keeps ?_ ?_ | assumption | refine State.modThread_keeps ?_ | refine State.wr_keeps ?_ | exact Keeps.refl _ | dsimp only
    | split | (intro _; try beta_reduce)

theorem execLayerRaised_keeps {z s : State} {layer : Layer} (hz : Keeps z s) : KeepsOut z (execLayerRaised layer s) := by
  unfold execLayerRaised
  with_reducible repeat' first
    | refine act_keeps ?_ ?_ | refine KeepsOut.ite ?_ ?_ | refine KeepsOut.next ?_ | assumption
    | (simp only [keeps_mk]; refine keeps_fields ?_) | refine State.loadCopies_keeps ?_ | refine State.wr_keeps ?_
    | refine ite_keeps ?_ ?_

theorem execSectionHeader_keeps {z s : State} {pos : BitVec 6} {mode : BitVec 2} {frames : W32} {x : SectionBody} (hz : Keeps z s) :
    KeepsOut z (execSectionHeader pos mode frames x s) := by
  unfold execSectionHeader
  with_reducible repeat' first
    | refine actOn_keeps ?_ ?_ | refine KeepsOut.ite ?_ ?_ | refine KeepsOut.next ?_ | assumption
    | (simp only [keeps_mk]; refine keeps_fields ?_) | refine State.requestAgain_keeps ?_ | refine State.setLoad_keeps ?_
    | refine State.bump_keeps ?_ | refine State.wr_keeps ?_ | refine State.passSection_keeps ?_ | refine ite_keeps ?_ ?_ | dsimp only
    | split | (intro _; try beta_reduce)

theorem execSignalDetect_keeps {z s : State} {l : Lane} {off : ℕ} (hz : Keeps z s) : KeepsOut z (execSignalDetect l off s) := by
  unfold execSignalDetect
  with_reducible repeat' first
    | refine act_keeps ?_ ?_ | refine KeepsOut.ite ?_ ?_ | refine KeepsOut.next ?_ | assumption | refine State.enterAcquire_keeps ?_
    | refine State.setLn_keeps ?_ | refine State.tick_keeps ?_

theorem execResults_keeps {z s : State} {c : CmdRef} (hz : Keeps z s) : KeepsOut z (execResults c s) := by
  unfold execResults
  with_reducible repeat' first
    | refine actOn_keeps ?_ ?_ | refine KeepsOut.ite ?_ ?_ | refine KeepsOut.next ?_ | assumption | refine State.complete_keeps ?_
    | refine ite_keeps ?_ ?_ | dsimp only | split | (intro _; try beta_reduce)

theorem execBoltWindowDone_keeps {z s : State} {k : LPatch} {seen : Ecc} (hz : Keeps z s) : KeepsOut z (execBoltWindowDone k seen s) := by
  refine act_keeps hz ?_
  have hw := fun line data mask => State.boltWrite_keeps (k := k.val) (line := line) (data := data) (mask := mask) (seen := seen) hz
  have hr := fun line => State.boltRead_keeps (k := k.val) (line := line) (seen := seen) hz
  repeat' (first
    | with_reducible exact hw _ _ _
    | with_reducible exact hr _
    | (rename_i e; have := congrArg Prod.fst e; dsimp only at this; subst this; first | exact hw _ _ _ | exact hr _)
    | with_reducible refine State.wr_keeps ?_
    | with_reducible refine State.poisonSeen_keeps ?_
    | with_reducible refine State.markDamage_keeps ?_
    | with_reducible refine State.setReg_keeps ?_
    | split
    | dsimp only)

theorem execVpk_keeps {z s : State} {r : Ribbon} {gd : BitVec 5} {vs : BitVec 3} {x : BitVec 5} (hz : Keeps z s) :
    KeepsOut z (execVpk r gd vs x s) := by
  unfold execVpk
  with_reducible repeat' first
    | refine graov_keeps ?_ ?_ | refine KeepsOut.ite ?_ ?_ | refine KeepsOut.next ?_ | assumption | refine State.setHalves_keeps ?_

theorem execVectorUnmask_keeps {z s : State} {vec : Fin 64} (hz : Keeps z s) : KeepsOut z (execVectorUnmask vec s) := by
  unfold execVectorUnmask
  with_reducible repeat' first
    | refine act_keeps ?_ ?_ | refine KeepsOut.ite ?_ ?_ | refine KeepsOut.next ?_ | assumption | refine State.writeVectorCtrl_keeps ?_

theorem execPatternStop_keeps {z s : State} {k : LPatch} {threads : BitVec 4} {c : Option CmdRef} (hz : Keeps z s) :
    KeepsOut z (execPatternStop k threads c s) := by
  unfold execPatternStop
  with_reducible repeat' first | exact actOn_id_keeps hz (fun t e => State.patternCmd_keeps hz (of_ite_none e))

theorem execRefclkOvercount_keeps {z s : State} {count : BitVec 18} {off : ℕ} (hz : Keeps z s) : KeepsOut z (execRefclkOvercount count off s) := by
  unfold execRefclkOvercount
  with_reducible repeat' first
    | refine act_keeps ?_ ?_ | refine KeepsOut.ite ?_ ?_ | refine KeepsOut.next ?_ | assumption | refine State.badWindow_keeps ?_
    | refine State.tick_keeps ?_

theorem execActionLoad_keeps {z s : State} {k : LPatch} {a : Fin 8} {v : W32} {be : BitVec 4} (hz : Keeps z s) :
    KeepsOut z (execActionLoad k a v be s) := by
  unfold execActionLoad
  with_reducible repeat' first
    | refine act_keeps ?_ ?_ | refine KeepsOut.ite ?_ ?_ | refine KeepsOut.next ?_ | assumption | refine State.viaPatch_keeps ?_ ?_
    | refine State.writeAction_keeps ?_

theorem execMul_keeps {z s : State} {h : Proc} {rd : BitVec 5} {ra : BitVec 5} {rb : BitVec 5} (hz : Keeps z s) :
    KeepsOut z (execMul h rd ra rb s) := by
  unfold execMul
  with_reducible repeat' first
    | refine graov_keeps ?_ ?_ | refine KeepsOut.ite ?_ ?_ | refine KeepsOut.next ?_ | assumption | refine State.setG_keeps ?_

theorem execTapmA_keeps {z s : State} {r : Ribbon} {vd : BitVec 3} {a : BitVec 3} {o : BitVec 3} {imm : BitVec 11} (hz : Keeps z s) :
    KeepsOut z (execTapmA r vd a o imm s) := by
  unfold execTapmA
  with_reducible repeat' first | refine KeepsOut.ite ?_ ?_ | refine KeepsOut.next ?_ | assumption | refine tap_keeps ?_

theorem execAnd_keeps {z s : State} {h : Proc} {rd : BitVec 5} {ra : BitVec 5} {rb : BitVec 5} (hz : Keeps z s) :
    KeepsOut z (execAnd h rd ra rb s) := by
  unfold execAnd
  with_reducible repeat' first
    | refine graov_keeps ?_ ?_ | refine KeepsOut.ite ?_ ?_ | refine KeepsOut.next ?_ | assumption | refine State.setG_keeps ?_

theorem execStore_keeps {z s : State} {c : CmdRef} (hz : Keeps z s) : KeepsOut z (execStore c s) := by
  unfold execStore
  with_reducible repeat' first
    | refine actOn_keeps ?_ ?_ | refine KeepsOut.ite ?_ ?_ | refine KeepsOut.next ?_ | assumption
    | (simp only [keeps_mk]; refine keeps_fields ?_) | refine State.setPhase_keeps ?_ | refine State.complete_keeps ?_
    | refine ite_keeps ?_ ?_ | dsimp only | split | (intro _; try beta_reduce)

theorem execChainStream_keeps {z s : State} {hdr : StreamHeader} (hz : Keeps z s) : KeepsOut z (execChainStream hdr s) := by
  unfold execChainStream
  with_reducible repeat' first
    | refine act_keeps ?_ ?_ | refine KeepsOut.ite ?_ ?_ | refine KeepsOut.next ?_ | assumption | refine State.bump_keeps ?_
    | refine State.takeHeader_keeps ?_ | refine ite_keeps ?_ ?_

theorem execTpset_keeps {z s : State} {r : Ribbon} {x : BitVec 5} (hz : Keeps z s) : KeepsOut z (execTpset r x s) := by
  unfold execTpset
  with_reducible repeat' first
    | refine graov_keeps ?_ ?_ | refine KeepsOut.ite ?_ ?_ | refine KeepsOut.next ?_ | assumption
    | (refine modProcAt_keeps ?_ (fun x h => h))

theorem execCvCfgWrite_keeps {z s : State} {k : LPatch} {u : Fin 20} {v : W32} {be : BitVec 4} (hz : Keeps z s) :
    KeepsOut z (execCvCfgWrite k u v be s) := by
  unfold execCvCfgWrite
  with_reducible repeat' first
    | refine act_keeps ?_ ?_ | refine KeepsOut.ite ?_ ?_ | refine KeepsOut.next ?_ | assumption | refine State.viaPatch_keeps ?_ ?_
    | refine State.writeCvCfg_keeps ?_

theorem execExchangeDeliver_keeps {z s0 : State} {src : LPatch} {dst : LPatch} (hz : Keeps z s0) : KeepsOut z (execExchangeDeliver src dst s0) := by
  unfold execExchangeDeliver
  with_reducible repeat' first
    | refine actOn_keeps ?_ ?_ | refine KeepsOut.ite ?_ ?_ | refine KeepsOut.next ?_ | assumption | refine State.clockNow_keeps ?_
    | refine State.setFab_keeps ?_ | refine State.showExchange_keeps ?_ | refine State.bump_keeps ?_ | refine State.incr_keeps ?_
    | refine ite_keeps ?_ ?_ | dsimp only | split | (intro _; try beta_reduce)

theorem execLoop_keeps {z s : State} {h : Proc} {count : BitVec 10} {length : BitVec 10} (hz : Keeps z s) :
    KeepsOut z (execLoop h count length s) := by
  unfold execLoop
  with_reducible repeat' first
    | refine graov_keeps ?_ ?_ | refine KeepsOut.ite ?_ ?_ | refine KeepsOut.next ?_ | assumption
    | (refine modProcAt_keeps ?_ (fun x h => h)) | refine ite_keeps ?_ ?_

theorem execBoltTransferDone_keeps {z s : State} {c : CmdRef} (hz : Keeps z s) : KeepsOut z (execBoltTransferDone c s) := by
  unfold execBoltTransferDone
  with_reducible repeat' first
    | refine actOn_keeps ?_ ?_ | refine KeepsOut.ite ?_ ?_ | refine KeepsOut.next ?_ | assumption | refine State.complete_keeps ?_
    | refine ite_keeps ?_ ?_ | dsimp only | split | (intro _; try beta_reduce)

theorem execCvrd_keeps {z s : State} {k : LPatch} {rd : BitVec 5} {u : Fin 20} (hz : Keeps z s) : KeepsOut z (execCvrd k rd u s) := by
  unfold execCvrd
  with_reducible repeat' first
    | refine graov_keeps ?_ ?_ | refine KeepsOut.ite ?_ ?_ | refine KeepsOut.next ?_ | assumption | refine State.landFor_keeps ?_
    | refine State.setG_keeps ?_

theorem execFramePlane_keeps {z s : State} {f : FrameInfo} {lpatch : LPatch} {plane : BitVec 4} {index : BitVec 11} {x : PlaneBody}
    (hz : Keeps z s) : KeepsOut z (execFramePlane f lpatch plane index x s) := by
  unfold execFramePlane
  refine State.onFrame_keeps hz fun l s h => ?_
  dsimp only
  refine ite_keeps (State.setLoad_keeps h) (ite_keeps (State.writeFrame_keeps (State.setLoad_keeps h)) (ite_keeps ?_ (State.writeStored_keeps (State.setLoad_keeps h))))
  simp only [keeps_mk]
  exact keeps_fields (State.setLoad_keeps h)

theorem execPatrolRead_keeps {z s : State} {u : MemUnit} {seen : Ecc} (hz : Keeps z s) : KeepsOut z (execPatrolRead u seen s) := by
  unfold execPatrolRead
  with_reducible repeat' first
    | refine act_keeps ?_ ?_ | refine KeepsOut.ite ?_ ?_ | refine KeepsOut.next ?_ | assumption | refine State.patrolNext_keeps ?_
    | refine State.scrubRead_keeps ?_ | refine State.tick_keeps ?_

theorem execCtleRecal_keeps {z s : State} {c : CmdRef} (hz : Keeps z s) : KeepsOut z (execCtleRecal c s) := by
  unfold execCtleRecal
  with_reducible repeat' first | exact actOn_id_keeps hz (fun t e => State.laneReq_keeps hz (of_ite_none e))

theorem execQueueModeWrite_keeps {z s : State} {k : LPatch} {bank : Bank} {v : W32} {be : BitVec 4} (hz : Keeps z s) :
    KeepsOut z (execQueueModeWrite k bank v be s) := by
  unfold execQueueModeWrite
  with_reducible repeat' first
    | refine act_keeps ?_ ?_ | refine KeepsOut.ite ?_ ?_ | refine KeepsOut.next ?_ | assumption | refine State.viaPatch_keeps ?_ ?_
    | refine State.writeQueueCfg_keeps ?_

theorem execPandn_keeps {z s : State} {h : Proc} {pd : BitVec 3} {pa : BitVec 3} {pb : BitVec 3} (hz : Keeps z s) :
    KeepsOut z (execPandn h pd pa pb s) := by
  unfold execPandn
  with_reducible repeat' first
    | refine graov_keeps ?_ ?_ | refine KeepsOut.ite ?_ ?_ | refine KeepsOut.next ?_ | assumption | refine State.setP_keeps ?_

theorem execShr_keeps {z s : State} {h : Proc} {rd : BitVec 5} {ra : BitVec 5} {rb : BitVec 5} (hz : Keeps z s) :
    KeepsOut z (execShr h rd ra rb s) := by
  unfold execShr
  with_reducible repeat' first
    | refine graov_keeps ?_ ?_ | refine KeepsOut.ite ?_ ?_ | refine KeepsOut.next ?_ | assumption | refine State.setG_keeps ?_

theorem execTapmAn_keeps {z s : State} {r : Ribbon} {vd : BitVec 3} {a : BitVec 3} {o : BitVec 3} {imm : BitVec 11} (hz : Keeps z s) :
    KeepsOut z (execTapmAn r vd a o imm s) := by
  unfold execTapmAn
  with_reducible repeat' first | refine KeepsOut.ite ?_ ?_ | refine KeepsOut.next ?_ | assumption | refine tap_keeps ?_

theorem execRefoutWrite_keeps {z s : State} {n : Fin 8} {word : Bool} {v : W32} {be : BitVec 4} (hz : Keeps z s) :
    KeepsOut z (execRefoutWrite n word v be s) := by
  unfold execRefoutWrite
  with_reducible repeat' first
    | refine act_keeps ?_ ?_ | refine KeepsOut.ite ?_ ?_ | refine KeepsOut.next ?_ | assumption | refine State.writeRefout_keeps ?_

end Sys2Proof.Machine
end

