-- ==== Sys2Proof/Laws/KeepsExec3.lean ====
section
/-! SUPPORT. Every command's meaning keeps the queue, the stitch number and canonical memories: one lemma per meaning, but for the boundary and the starts (part 3 of 3). -/

namespace Sys2Proof.Machine

theorem execSetStage_keeps {z s : State} {c : CmdRef} (hz : Keeps z s) : KeepsOut z (execSetStage c s) := by
  unfold execSetStage
  with_reducible repeat' first
    | refine actOn_keeps ?_ ?_ | refine KeepsOut.ite ?_ ?_ | refine KeepsOut.next ?_ | assumption | refine State.complete_keeps ?_
    | refine State.toHost_keeps ?_ | refine State.stage_keeps ?_ | refine State.setPhase_keeps ?_ | refine ite_keeps ?_ ?_ | dsimp only
    | split | (intro _; try beta_reduce)

theorem execFuseBurnDone_keeps {z s : State} {verified : Bool} (hz : Keeps z s) : KeepsOut z (execFuseBurnDone verified s) := by
  unfold execFuseBurnDone
  with_reducible repeat' first
    | refine actOn_keeps ?_ ?_ | refine KeepsOut.ite ?_ ?_ | refine KeepsOut.next ?_ | assumption
    | (simp only [keeps_mk]; refine keeps_fields ?_) | refine State.complete_keeps ?_ | refine State.wr_keeps ?_ | refine ite_keeps ?_ ?_
    | dsimp only | split | (intro _; try beta_reduce)

theorem execPortAccess_keeps {z s : State} {k : LPatch} {port : Fin 8} {bank : Bank} {write : Bool} {addr : BitVec 20} {data : List Byte} {mask : List Bool} {seen : List Ecc} (hz : Keeps z s) :
    KeepsOut z (execPortAccess k port bank write addr data mask seen s) := by
  unfold execPortAccess
  with_reducible repeat' first
    | refine act_keeps ?_ ?_ | refine KeepsOut.ite ?_ ?_ | refine KeepsOut.next ?_ | assumption | refine State.denyPort_keeps ?_
    | refine State.bankPut_keeps ?_ | refine State.setPort_keeps ?_ | refine State.bankGet_keeps ?_ | refine ite_keeps ?_ ?_

theorem execBoltOut_keeps {z s : State} {c : CmdRef} (hz : Keeps z s) : KeepsOut z (execBoltOut c s) := by
  unfold execBoltOut
  with_reducible repeat' first
    | refine actOn_keeps ?_ ?_ | refine KeepsOut.ite ?_ ?_ | refine KeepsOut.next ?_ | assumption | refine State.complete_keeps ?_
    | refine State.markDamage_keeps ?_ | refine State.setPhase_keeps ?_ | refine State.unmark_keeps ?_ | refine State.toHost_keeps ?_
    | refine State.earn_keeps ?_ | refine ite_keeps ?_ ?_ | refine forEach_keeps ?_ ?_ | exact Keeps.refl _ | dsimp only | split
    | (intro _; try beta_reduce)

theorem execCmp_keeps {z s : State} {h : Proc} {cc : Cond} {pd : BitVec 3} {ra : BitVec 5} {rb : BitVec 5} (hz : Keeps z s) :
    KeepsOut z (execCmp h cc pd ra rb s) := by
  unfold execCmp
  with_reducible repeat' first
    | refine graov_keeps ?_ ?_ | refine KeepsOut.ite ?_ ?_ | refine KeepsOut.next ?_ | assumption | refine State.setP_keeps ?_

theorem execConsumedWrite_keeps {z s : State} {ch : Chan} {v : W32} {be : BitVec 4} (hz : Keeps z s) : KeepsOut z (execConsumedWrite ch v be s) := by
  unfold execConsumedWrite
  with_reducible repeat' first
    | refine act_keeps ?_ ?_ | refine KeepsOut.ite ?_ ?_ | refine KeepsOut.next ?_ | assumption | refine State.writeConsumed_keeps ?_

theorem execBistDone_keeps {z s : State} {u : BistUnit} {applied : W32} {sig : W64} {match_ : Bool} (hz : Keeps z s) :
    KeepsOut z (execBistDone u applied sig match_ s) := by
  unfold execBistDone
  with_reducible repeat' first
    | refine actOn_keeps ?_ ?_ | refine KeepsOut.ite ?_ ?_ | refine KeepsOut.next ?_ | assumption
    | (simp only [keeps_mk]; refine keeps_fields ?_) | refine State.wr_keeps ?_ | refine State.incr_keeps ?_
    | refine State.completeOpt_keeps ?_ | refine State.givePatch_keeps ?_ | refine State.ownBist_keeps ?_ | refine State.setPos_keeps ?_
    | refine State.event_keeps ?_ | refine State.showRsps_keeps ?_ | refine ite_keeps ?_ ?_ | dsimp only | split
    | (intro _; try beta_reduce)

theorem execRxRetrain_keeps {z s : State} {c : CmdRef} (hz : Keeps z s) : KeepsOut z (execRxRetrain c s) := by
  unfold execRxRetrain
  with_reducible repeat' first | exact actOn_id_keeps hz (fun t e => State.laneReq_keeps hz (of_ite_none e))

theorem execCvf_keeps {z s : State} {k : LPatch} {n : BitVec 2} {u : Fin 20} {ra : BitVec 5} (hz : Keeps z s) : KeepsOut z (execCvf k n u ra s) := by
  unfold execCvf
  with_reducible repeat' first
    | refine graov_keeps ?_ ?_ | refine KeepsOut.ite ?_ ?_ | refine KeepsOut.next ?_ | assumption
    | (refine modProcAt_keeps ?_ (fun x h => h))

theorem execMsgCell_keeps {z s : State} {n : Seam} {dest : Device} {m : Msg} {off : ℕ} (hz : Keeps z s) :
    KeepsOut z (execMsgCell n dest m off s) := by
  unfold execMsgCell
  with_reducible repeat' first
    | refine act_keeps ?_ ?_ | refine KeepsOut.ite ?_ ?_ | refine KeepsOut.next ?_ | assumption | refine State.tick_keeps ?_
    | refine State.takeMsg_keeps ?_ | refine State.sendMsg_keeps ?_ | refine ite_keeps ?_ ?_

theorem execCfgLoad_keeps {z s : State} {c : CmdRef} (hz : Keeps z s) : KeepsOut z (execCfgLoad c s) := by
  unfold execCfgLoad
  with_reducible repeat' first
    | refine actOn_keeps ?_ ?_ | refine KeepsOut.ite ?_ ?_ | refine KeepsOut.next ?_ | assumption | refine State.complete_keeps ?_
    | refine State.setPhase_keeps ?_ | refine State.setLoad_keeps ?_ | refine State.takeHeader_keeps ?_
    | refine State.failIdentity_keeps ?_ | refine ite_keeps ?_ ?_ | dsimp only | split | (intro _; try beta_reduce)

theorem execLoadGo_keeps {z s : State} {k : LPatch} {v : W32} (hz : Keeps z s) : KeepsOut z (execLoadGo k v s) := by
  unfold execLoadGo
  with_reducible repeat' first
    | refine act_keeps ?_ ?_ | refine KeepsOut.ite ?_ ?_ | refine KeepsOut.next ?_ | assumption | refine State.planeWrite_keeps ?_

theorem execLdw_keeps {z s : State} {k : LPatch} {size : BitVec 2} {rd : BitVec 5} {a : BitVec 3} {o : BitVec 3} {imm : BitVec 11} {seen : Ecc} (hz : Keeps z s) :
    KeepsOut z (execLdw k size rd a o imm seen s) := by
  unfold execLdw
  with_reducible repeat' first
    | refine graov_keeps ?_ ?_ | refine KeepsOut.ite ?_ ?_ | refine KeepsOut.next ?_ | assumption | refine State.postMod_keeps ?_
    | refine State.setG_keeps ?_ | refine State.bankRead_keeps ?_ | refine State.landFor_keeps ?_ | refine State.bump_keeps ?_
    | refine ite_keeps ?_ ?_

theorem execMarchDone_keeps {z s : State} {k : LPatch} {r : MarchResult} (hz : Keeps z s) : KeepsOut z (execMarchDone k r s) := by
  refine actOn_keeps hz fun m => ?_
  extract_lets rs s1 u s1' rf fix s2 s3 s4 s5 s6 upd rt s7 rv
  have h1 : Keeps z s1' := ite_keeps (forEach_keeps hz fun e s => ite_keeps (Keeps.refl s) (State.scrubRead_keeps (Keeps.refl s))) hz
  have h2 : Keeps z s2 := ite_keeps (State.setRows_keeps h1) (State.setRows_keeps (State.setRowsLeft_keeps h1))
  have h4 : Keeps z s4 := State.wr_keeps (State.wr_keeps (State.wr_keeps (State.wr_keeps
    (State.wr_keeps (State.wr_keeps (State.wr_keeps (State.wr_keeps (State.wr_keeps h2))))))))
  have h5 : Keeps z s5 := ite_keeps h4 (State.clearUnit_keeps h4)
  have h7 : Keeps z s7 := (ite_keeps (State.event_keeps h5) h5 : Keeps z s6)
  refine ite_keeps h7 ?_
  split
  · exact h7
  · exact State.givePatch_keeps (State.complete_keeps h7)


theorem execVbc_keeps {z s : State} {r : Ribbon} {gd : BitVec 5} {ra : BitVec 5} (hz : Keeps z s) : KeepsOut z (execVbc r gd ra s) := by
  unfold execVbc
  with_reducible repeat' first
    | refine graov_keeps ?_ ?_ | refine KeepsOut.ite ?_ ?_ | refine KeepsOut.next ?_ | assumption | refine State.setHalves_keeps ?_

theorem execBypass_keeps {z s : State} (hz : Keeps z s) : KeepsOut z (execBypass s) := by
  unfold execBypass
  with_reducible repeat' first
    | refine act_keeps ?_ ?_ | refine KeepsOut.ite ?_ ?_ | refine KeepsOut.next ?_ | assumption | refine State.loadTap_keeps ?_

theorem execTrigxPulseEnd_keeps {z s : State} {ball : Fin 16} (hz : Keeps z s) : KeepsOut z (execTrigxPulseEnd ball s) := by
  unfold execTrigxPulseEnd
  with_reducible repeat' first
    | refine actOn_keeps ?_ ?_ | refine KeepsOut.ite ?_ ?_ | refine KeepsOut.next ?_ | assumption | refine State.setBall_keeps ?_
    | refine State.tick_keeps ?_ | refine ite_keeps ?_ ?_ | dsimp only | split | (intro _; try beta_reduce)

theorem execDone_keeps {z s : State} {h : Proc} (hz : Keeps z s) : KeepsOut z (execDone h s) := by
  unfold execDone
  with_reducible repeat' first
    | refine act_keeps ?_ ?_ | refine KeepsOut.ite ?_ ?_ | refine KeepsOut.next ?_ | assumption | refine State.endWork_keeps ?_

theorem execD3hotEntry_keeps {z s : State} (hz : Keeps z s) : KeepsOut z (execD3hotEntry s) := by
  unfold execD3hotEntry
  with_reducible repeat' first
    | refine act_keeps ?_ ?_ | refine KeepsOut.ite ?_ ?_ | refine KeepsOut.next ?_ | assumption
    | (simp only [keeps_mk]; refine keeps_fields ?_)

theorem execHeldRequestTimeout_keeps {z s : State} {c : CmdRef} (hz : Keeps z s) : KeepsOut z (execHeldRequestTimeout c s) := by
  unfold execHeldRequestTimeout
  with_reducible repeat' first
    | refine actOn_keeps ?_ ?_ | refine KeepsOut.ite ?_ ?_ | refine KeepsOut.next ?_ | assumption | refine State.setPhase_keeps ?_
    | refine ite_keeps ?_ ?_ | dsimp only | split | (intro _; try beta_reduce)

theorem execLogicBist_keeps {z s : State} {c : CmdRef} (hz : Keeps z s) : KeepsOut z (execLogicBist c s) := by
  refine actOn_keeps hz fun d => ?_
  dsimp only
  refine ite_keeps (State.complete_keeps hz) (ite_keeps (State.complete_keeps hz) (ite_keeps (ite_keeps (State.complete_keeps hz) ?_) ?_))
  · exact State.addBist_keeps (State.requestMove_keeps (State.setPhase_keeps hz))
  · split
    · exact ite_keeps hz (State.hostBist_keeps hz)
    · rename_i k _
      have hd := State.disturb_keeps (d := d) (k := k) hz
      split <;> (rename_i e; rw [e] at hd)
      · exact State.addBist_keeps hd
      · simp only [keeps_mk]
        exact keeps_fields (State.openTest_keeps (State.setPhase_keeps hd))

theorem execSwapOnTrig_keeps {z s : State} {k : LPatch} {v : W32} (hz : Keeps z s) : KeepsOut z (execSwapOnTrig k v s) := by
  unfold execSwapOnTrig
  with_reducible repeat' first
    | refine act_keeps ?_ ?_ | refine KeepsOut.ite ?_ ?_ | refine KeepsOut.next ?_ | assumption | refine State.planeWrite_keeps ?_

theorem execClamp_keeps {z s : State} (hz : Keeps z s) : KeepsOut z (execClamp s) := by
  unfold execClamp
  with_reducible repeat' first
    | refine act_keeps ?_ ?_ | refine KeepsOut.ite ?_ ?_ | refine KeepsOut.next ?_ | assumption | refine State.loadTap_keeps ?_

theorem execFrameNop_keeps {z s : State} {f : FrameInfo} (hz : Keeps z s) : KeepsOut z (execFrameNop f s) := by
  unfold execFrameNop
  with_reducible repeat' first
    | refine State.onFrame_keeps ?_ ?_ | assumption | refine State.setLoad_keeps ?_ | exact Keeps.refl _ | dsimp only | split
    | (intro _; try beta_reduce)

theorem execRefclkWindow_keeps {z s : State} {count : BitVec 18} {off : ℕ} (hz : Keeps z s) : KeepsOut z (execRefclkWindow count off s) := by
  unfold execRefclkWindow
  with_reducible repeat' first
    | refine act_keeps ?_ ?_ | refine KeepsOut.ite ?_ ?_ | refine KeepsOut.next ?_ | assumption
    | (simp only [keeps_mk]; refine keeps_fields ?_) | refine State.wr_keeps ?_ | refine State.tick_keeps ?_
    | refine State.badWindow_keeps ?_ | refine State.goodWindow_keeps ?_ | refine State.bump_keeps ?_ | refine ite_keeps ?_ ?_

theorem execRekeyPassDone_keeps {z s : State} {k : LPatch} (hz : Keeps z s) : KeepsOut z (execRekeyPassDone k s) := by
  unfold execRekeyPassDone
  with_reducible repeat' first
    | refine actOn_keeps ?_ ?_ | refine KeepsOut.ite ?_ ?_ | refine KeepsOut.next ?_ | assumption
    | (refine setBolt_keeps ?_ (fun m => ?hp); case hp => exact boltAt_ok m _) | refine State.showRekey_keeps ?_
    | refine State.incr_keeps ?_ | refine State.wr_keeps ?_ | refine ite_keeps ?_ ?_ | dsimp only | split | (intro _; try beta_reduce)

theorem execDoneHold_keeps {z s : State} {h : Proc} (hz : Keeps z s) : KeepsOut z (execDoneHold h s) := by
  unfold execDoneHold
  with_reducible repeat' first
    | refine act_keeps ?_ ?_ | refine KeepsOut.ite ?_ ?_ | refine KeepsOut.next ?_ | assumption | refine State.endWork_keeps ?_

theorem execSlowRound_keeps {z s : State} {r : HeatRound} {off : ℕ} (hz : Keeps z s) : KeepsOut z (execSlowRound r off s) := by
  unfold execSlowRound
  with_reducible repeat' first
    | refine act_keeps ?_ ?_ | refine KeepsOut.ite ?_ ?_ | refine KeepsOut.next ?_ | assumption | refine State.showFast_keeps ?_
    | refine State.noteCool_keeps ?_ | refine State.sampleLayer_keeps ?_ | refine State.sampleRails_keeps ?_ | refine State.tick_keeps ?_
    | refine ite_keeps ?_ ?_ | refine forEach_keeps ?_ ?_ | exact Keeps.refl _ | dsimp only | split | (intro _; try beta_reduce)

theorem execJmp_keeps {z s : State} {k : LPatch} {t : Thread} (hz : Keeps z s) : KeepsOut z (execJmp k t s) := by
  unfold execJmp
  with_reducible repeat' first
    | refine State.desc_keeps ?_ ?_ | assumption | refine State.threadTo_keeps ?_ | exact Keeps.refl _ | dsimp only | split
    | (intro _; try beta_reduce)

theorem execQuietWrite_keeps {z s : State} {l : Lane} {v : W32} {be : BitVec 4} (hz : Keeps z s) : KeepsOut z (execQuietWrite l v be s) := by
  unfold execQuietWrite
  with_reducible repeat' first
    | refine act_keeps ?_ ?_ | refine KeepsOut.ite ?_ ?_ | refine KeepsOut.next ?_ | assumption | refine State.writeQuiet_keeps ?_

theorem execUnitMove_keeps {z s : State} {k : LPatch} {slot : Slot} (hz : Keeps z s) : KeepsOut z (execUnitMove k slot s) := by
  unfold execUnitMove
  with_reducible repeat' first
    | refine actOn_keeps ?_ ?_ | refine KeepsOut.ite ?_ ?_ | refine KeepsOut.next ?_ | assumption | refine State.modPat_keeps ?_
    | refine State.substitute_keeps ?_ | refine State.cvTx_keeps ?_ | refine State.modLane_keeps ?_ | refine ite_keeps ?_ ?_
    | refine foldl1_keeps ?_ ?_ | exact Keeps.refl _ | dsimp only | split | (intro _; try beta_reduce)

theorem execVsubh_keeps {z s : State} {r : Ribbon} {gd : BitVec 5} {ra : BitVec 5} {rb : BitVec 5} (hz : Keeps z s) :
    KeepsOut z (execVsubh r gd ra rb s) := by
  unfold execVsubh
  with_reducible repeat' first
    | refine graov_keeps ?_ ?_ | refine KeepsOut.ite ?_ ?_ | refine KeepsOut.next ?_ | assumption | refine State.setHalves_keeps ?_

theorem execHighz_keeps {z s : State} (hz : Keeps z s) : KeepsOut z (execHighz s) := by
  unfold execHighz
  with_reducible repeat' first
    | refine act_keeps ?_ ?_ | refine KeepsOut.ite ?_ ?_ | refine KeepsOut.next ?_ | assumption | refine State.loadTap_keeps ?_

theorem execVhkGood_keeps {z s : State} {straps : BitVec 8} {slot0Ok : Bool} {slot1Ok : Bool} {active : Bool} (hz : Keeps z s) :
    KeepsOut z (execVhkGood straps slot0Ok slot1Ok active s) := by
  unfold execVhkGood
  with_reducible repeat' first
    | refine act_keeps ?_ ?_ | refine KeepsOut.ite ?_ ?_ | refine KeepsOut.next ?_ | assumption
    | (simp only [keeps_mk]; refine keeps_fields ?_) | refine State.wr_keeps ?_ | refine State.showSlots_keeps ?_
    | refine State.loadFuses_keeps ?_ | refine ite_keeps ?_ ?_ | dsimp only | split

theorem execDrainComplete_keeps {z s : State} {off : ℕ} (hz : Keeps z s) : KeepsOut z (execDrainComplete off s) := by
  unfold execDrainComplete
  with_reducible repeat' first
    | refine actOn_keeps ?_ ?_ | refine KeepsOut.ite ?_ ?_ | refine KeepsOut.next ?_ | assumption
    | (simp only [keeps_mk]; refine keeps_fields ?_) | refine State.tick_keeps ?_ | refine ite_keeps ?_ ?_ | dsimp only | split
    | (intro _; try beta_reduce)

theorem execNopCommand_keeps {z s : State} {c : CmdRef} (hz : Keeps z s) : KeepsOut z (execNopCommand c s) := by
  unfold execNopCommand
  with_reducible repeat' first
    | refine actOn_keeps ?_ ?_ | refine KeepsOut.ite ?_ ?_ | refine KeepsOut.next ?_ | assumption | refine State.complete_keeps ?_
    | refine ite_keeps ?_ ?_ | dsimp only | split | (intro _; try beta_reduce)

theorem execDataCell_keeps {z s : State} {n : Seam} {d : DataCell} (hz : Keeps z s) : KeepsOut z (execDataCell n d s) := by
  unfold execDataCell
  with_reducible repeat' first
    | refine act_keeps ?_ ?_ | refine KeepsOut.ite ?_ ?_ | refine KeepsOut.next ?_ | assumption
    | (simp only [keeps_mk]; refine keeps_fields ?_) | refine State.sendData_keeps ?_ | refine State.hostWrite_keeps ?_
    | refine ite_keeps ?_ ?_

theorem execStreamTimeout_keeps {z s : State} (hz : Keeps z s) : KeepsOut z (execStreamTimeout s) := by
  unfold execStreamTimeout
  with_reducible repeat' first
    | refine actOn_keeps ?_ ?_ | refine KeepsOut.ite ?_ ?_ | refine KeepsOut.next ?_ | assumption | refine State.setLoad_keeps ?_
    | refine State.abortLoad_keeps ?_ | refine ite_keeps ?_ ?_ | dsimp only | split | (intro _; try beta_reduce)

theorem execDramRewriteDone_keeps {z s : State} {layer : Layer} (hz : Keeps z s) : KeepsOut z (execDramRewriteDone layer s) := by
  refine act_keeps hz (State.setGate_keeps ?_)
  simp only [keeps_mk]
  refine keeps_fields (forN_keeps hz fun i s => ?_)
  refine setBolt_keeps (Keeps.refl s) fun m => ?_
  have h := boltAt_ok m i
  simp only [boltOk, Tab.wf, Bool.and_eq_true, decide_eq_true_eq, List.all_eq_true] at h ⊢
  refine ⟨h.1.filter _, fun e he => ?_⟩
  have h1 := List.mem_filter.1 he
  have h2 := h.2 e h1.1
  have h3 : e.1 / 64 % 4 + 4 ≠ layer.val := by simpa using h1.2
  simpa [boltUnlisted, List.mem_filter, h3] using h2

theorem execEntryFetched_keeps {z s : State} {sp : Spool} {entry : Option (List Byte)} (hz : Keeps z s) :
    KeepsOut z (execEntryFetched sp entry s) := by
  unfold execEntryFetched
  with_reducible repeat' first
    | refine act_keeps ?_ ?_ | refine KeepsOut.ite ?_ ?_ | refine KeepsOut.next ?_ | assumption | refine State.entryRead_keeps ?_

theorem execCurrentLimit_keeps {z s : State} {off : ℕ} (hz : Keeps z s) : KeepsOut z (execCurrentLimit off s) := by
  unfold execCurrentLimit
  with_reducible repeat' first
    | refine act_keeps ?_ ?_ | refine KeepsOut.ite ?_ ?_ | refine KeepsOut.next ?_ | assumption | refine State.stopStack_keeps ?_
    | refine State.tick_keeps ?_

theorem execFabricTxUnit_keeps {z s : State} {k : LPatch} {slot : Slot} {kind : BitVec 2} {data : List Byte} (hz : Keeps z s) :
    KeepsOut z (execFabricTxUnit k slot kind data s) := by
  unfold execFabricTxUnit
  with_reducible repeat' first
    | refine actOn_keeps ?_ ?_ | refine KeepsOut.ite ?_ ?_ | refine KeepsOut.next ?_ | assumption | refine State.cvTx_keeps ?_
    | refine State.modLane_keeps ?_ | refine ite_keeps ?_ ?_ | dsimp only | split | (intro _; try beta_reduce)

theorem execQueuePush_keeps {z s : State} {k : LPatch} {bank : Bank} {owner : BitVec 4} {data : List Byte} (hz : Keeps z s) :
    KeepsOut z (execQueuePush k bank owner data s) := by
  unfold execQueuePush
  with_reducible repeat' first
    | refine act_keeps ?_ ?_ | refine KeepsOut.ite ?_ ?_ | refine KeepsOut.next ?_ | assumption | refine State.bankPut_keeps ?_
    | refine State.showQueue_keeps ?_
    | (refine setBank_keeps ?_ (fun m => ?hp); case hp => exact ⟨(bankAt_ok m _ _).1, (bankAt_ok m _ _).2⟩)
    | refine State.denyPort_keeps ?_ | refine State.bump_keeps ?_ | refine ite_keeps ?_ ?_

theorem execEvtPendClear_keeps {z s : State} {h : Proc} {v : BitVec 16} (hz : Keeps z s) : KeepsOut z (execEvtPendClear h v s) := by
  unfold execEvtPendClear
  with_reducible repeat' first
    | refine act_keeps ?_ ?_ | refine KeepsOut.ite ?_ ?_ | refine KeepsOut.next ?_ | assumption | refine State.clearEvents_keeps ?_

theorem execMog_keeps {z s : State} {h : Proc} {gd : BitVec 5} {oa : BitVec 3} (hz : Keeps z s) : KeepsOut z (execMog h gd oa s) := by
  unfold execMog
  with_reducible repeat' first
    | refine graov_keeps ?_ ?_ | refine KeepsOut.ite ?_ ?_ | refine KeepsOut.next ?_ | assumption | refine State.setG_keeps ?_

theorem execRegisterWrite_keeps {z s : State} {src : Src} {a : BitVec 20} {v : W32} {be : BitVec 4} {off : ℕ} (hz : Keeps z s) :
    KeepsOut z (execRegisterWrite src a v be off s) := by
  unfold execRegisterWrite
  with_reducible repeat' first
    | refine act_keeps ?_ ?_ | refine KeepsOut.ite ?_ ?_ | refine KeepsOut.next ?_ | assumption | refine State.busWrite_keeps ?_
    | refine State.tick_keeps ?_

theorem execEset_keeps {z s : State} {r : Ribbon} {ra : BitVec 5} {x : BitVec 5} (hz : Keeps z s) : KeepsOut z (execEset r ra x s) := by
  unfold execEset
  with_reducible repeat' first
    | refine graov_keeps ?_ ?_ | refine KeepsOut.ite ?_ ?_ | refine KeepsOut.next ?_ | assumption
    | (refine modProcAt_keeps ?_ (fun x h => h))

theorem execReceivedUnit_keeps {z s : State} {l : Lane} {u : RxUnit} {off : ℕ} (hz : Keeps z s) : KeepsOut z (execReceivedUnit l u off s) := by
  unfold execReceivedUnit
  with_reducible repeat' first
    | refine act_keeps ?_ ?_ | refine KeepsOut.ite ?_ ?_ | refine KeepsOut.next ?_ | assumption | refine State.countUnit_keeps ?_
    | refine State.tick_keeps ?_ | refine State.modLane_keeps ?_ | refine State.readOldest_keeps ?_ | refine State.laneCount_keeps ?_
    | refine ite_keeps ?_ ?_

theorem execVaddh_keeps {z s : State} {r : Ribbon} {gd : BitVec 5} {ra : BitVec 5} {rb : BitVec 5} (hz : Keeps z s) :
    KeepsOut z (execVaddh r gd ra rb s) := by
  unfold execVaddh
  with_reducible repeat' first
    | refine graov_keeps ?_ ?_ | refine KeepsOut.ite ?_ ?_ | refine KeepsOut.next ?_ | assumption | refine State.setHalves_keeps ?_

theorem execSend_keeps {z s : State} {k : LPatch} {t : Thread} (hz : Keeps z s) : KeepsOut z (execSend k t s) := by
  unfold execSend
  with_reducible repeat' first
    | refine KeepsOut.next ?_ | refine State.desc_keeps ?_ ?_ | refine KeepsOut.ite ?_ ?_ | assumption | refine State.sendOn_keeps ?_
    | refine State.wr_keeps ?_ | refine State.modThread_keeps ?_ | refine ite_keeps ?_ ?_ | exact Keeps.refl _ | dsimp only | split
    | (intro _; try beta_reduce)

theorem execCvwr_keeps {z s : State} {k : LPatch} {u : Fin 20} {ra : BitVec 5} (hz : Keeps z s) : KeepsOut z (execCvwr k u ra s) := by
  unfold execCvwr
  with_reducible repeat' first
    | refine graov_keeps ?_ ?_ | refine KeepsOut.ite ?_ ?_ | refine KeepsOut.next ?_ | assumption
    | (refine modProcAt_keeps ?_ (fun x h => h))

theorem execCaptureNextSegment_keeps {z s : State} {k : LPatch} {c : Option CmdRef} {off : ℕ} (hz : Keeps z s) :
    KeepsOut z (execCaptureNextSegment k c off s) := by
  unfold execCaptureNextSegment
  with_reducible repeat' first | exact actOn_id_keeps hz (fun t e => State.capture_keeps (State.tick_keeps hz) (of_ite_none e))

theorem execAddi_keeps {z s : State} {h : Proc} {rd : BitVec 5} {ra : BitVec 5} {imm : BitVec 14} (hz : Keeps z s) :
    KeepsOut z (execAddi h rd ra imm s) := by
  unfold execAddi
  with_reducible repeat' first
    | refine graov_keeps ?_ ?_ | refine KeepsOut.ite ?_ ?_ | refine KeepsOut.next ?_ | assumption | refine State.setG_keeps ?_

theorem execAnalogTest_keeps {z s : State} {c : CmdRef} (hz : Keeps z s) : KeepsOut z (execAnalogTest c s) := by
  unfold execAnalogTest
  with_reducible repeat' first | exact actOn_id_keeps hz (fun t e => State.laneReq_keeps hz (of_ite_none e))

theorem execCaptureStop_keeps {z s : State} {k : LPatch} {c : Option CmdRef} {off : ℕ} (hz : Keeps z s) : KeepsOut z (execCaptureStop k c off s) := by
  unfold execCaptureStop
  with_reducible repeat' first | exact actOn_id_keeps hz (fun t e => State.capture_keeps (State.tick_keeps hz) (of_ite_none e))

theorem execTxFfeWrite_keeps {z s : State} {l : Lane} {v : W32} {be : BitVec 4} (hz : Keeps z s) : KeepsOut z (execTxFfeWrite l v be s) := by
  unfold execTxFfeWrite
  with_reducible repeat' first
    | refine act_keeps ?_ ?_ | refine KeepsOut.ite ?_ ?_ | refine KeepsOut.next ?_ | assumption | refine State.writeTxFfe_keeps ?_

theorem execTrig_keeps {z s : State} {k : LPatch} {line : Line} (hz : Keeps z s) : KeepsOut z (execTrig k line s) := by
  unfold execTrig
  with_reducible repeat' first
    | refine graov_keeps ?_ ?_ | refine KeepsOut.ite ?_ ?_ | refine KeepsOut.next ?_ | assumption | refine State.raiseLine_keeps ?_
    | refine State.tick_keeps ?_

theorem execProgPost_keeps {z s : State} {c : CmdRef} (hz : Keeps z s) : KeepsOut z (execProgPost c s) := by
  unfold execProgPost
  with_reducible repeat' first
    | refine State.progCmd_keeps ?_ ?_ | assumption | refine State.queueProg_keeps ?_ | exact Keeps.refl _ | dsimp only | split
    | (intro _; try beta_reduce)

theorem execVioGood_keeps {z s : State} {bank : Fin 3} {level : Fin 3} (hz : Keeps z s) : KeepsOut z (execVioGood bank level s) := by
  unfold execVioGood
  with_reducible repeat' first
    | refine act_keeps ?_ ?_ | refine KeepsOut.ite ?_ ?_ | refine KeepsOut.next ?_ | assumption
    | (simp only [keeps_mk]; refine keeps_fields ?_)

theorem execFunctionLevelReset_keeps {z s : State} (hz : Keeps z s) : KeepsOut z (execFunctionLevelReset s) := by
  unfold execFunctionLevelReset
  with_reducible repeat' first
    | refine act_keeps ?_ ?_ | refine KeepsOut.ite ?_ ?_ | refine KeepsOut.next ?_ | assumption | refine State.hostReset_keeps ?_

theorem execPostedWriteLand_keeps {z s : State} {k : LPatch} {off : ℕ} {seen : Ecc} (hz : Keeps z s) :
    KeepsOut z (execPostedWriteLand k off seen s) := by
  unfold execPostedWriteLand
  with_reducible repeat' first
    | refine act_keeps ?_ ?_ | refine KeepsOut.ite ?_ ?_ | refine KeepsOut.next ?_ | assumption | refine State.landOldest_keeps ?_
    | refine State.tick_keeps ?_

theorem execSysReset_keeps {z s : State} {off : ℕ} (hz : Keeps z s) : KeepsOut z (execSysReset off s) := by
  unfold execSysReset
  with_reducible repeat' first
    | refine act_keeps ?_ ?_ | refine KeepsOut.ite ?_ ?_ | refine KeepsOut.next ?_ | assumption | refine State.raiseReset_keeps ?_
    | refine State.tick_keeps ?_

theorem execLinkUp_keeps {z s : State} {speed : BitVec 3} {width : BitVec 5} {x : LinkMode} (hz : Keeps z s) :
    KeepsOut z (execLinkUp speed width x s) := by
  unfold execLinkUp
  with_reducible repeat' first
    | refine act_keeps ?_ ?_ | refine KeepsOut.ite ?_ ?_ | refine KeepsOut.next ?_ | assumption
    | (simp only [keeps_mk]; refine keeps_fields ?_) | refine State.wr_keeps ?_

theorem execBindRibbon_keeps {z s : State} {c : CmdRef} (hz : Keeps z s) : KeepsOut z (execBindRibbon c s) := by
  unfold execBindRibbon
  with_reducible repeat' first
    | refine actOn_keeps ?_ ?_ | refine KeepsOut.ite ?_ ?_ | refine KeepsOut.next ?_ | assumption | refine State.landBind_keeps ?_
    | refine State.setPhase_keeps ?_ | refine ite_keeps ?_ ?_ | dsimp only | split | (intro _; try beta_reduce)

theorem execPor_keeps {z s : State} {h : Proc} {pd : BitVec 3} {pa : BitVec 3} {pb : BitVec 3} (hz : Keeps z s) :
    KeepsOut z (execPor h pd pa pb s) := by
  unfold execPor
  with_reducible repeat' first
    | refine graov_keeps ?_ ?_ | refine KeepsOut.ite ?_ ?_ | refine KeepsOut.next ?_ | assumption | refine State.setP_keeps ?_

theorem execSnapshot_keeps {z s : State} {c : CmdRef} (hz : Keeps z s) : KeepsOut z (execSnapshot c s) := by
  unfold execSnapshot
  with_reducible repeat' first
    | refine actOn_keeps ?_ ?_ | refine KeepsOut.ite ?_ ?_ | refine KeepsOut.next ?_ | assumption | refine State.startOffload_keeps ?_
    | refine ite_keeps ?_ ?_ | dsimp only | split | (intro _; try beta_reduce)

theorem execCheckerSelftestDone_keeps {z s : State} {fails : List Checker} (hz : Keeps z s) : KeepsOut z (execCheckerSelftestDone fails s) := by
  unfold execCheckerSelftestDone
  with_reducible repeat' first
    | refine act_keeps ?_ ?_ | refine KeepsOut.ite ?_ ?_ | refine KeepsOut.next ?_ | assumption
    | (simp only [keeps_mk]; refine keeps_fields ?_) | refine State.checkerFail_keeps ?_ | refine ite_keeps ?_ ?_
    | refine forEach_keeps ?_ ?_ | exact Keeps.refl _ | dsimp only | split | (intro _; try beta_reduce)

theorem execRcFieldRead_keeps {z s : State} {a : BitVec 20} (hz : Keeps z s) : KeepsOut z (execRcFieldRead a s) := by
  unfold execRcFieldRead
  with_reducible repeat' first
    | refine act_keeps ?_ ?_ | refine KeepsOut.ite ?_ ?_ | refine KeepsOut.next ?_ | assumption
    | (simp only [keeps_mk]; refine keeps_fields ?_) | refine State.busRead_keeps ?_

theorem execMac_keeps {z s : State} {r : Ribbon} {vd : BitVec 3} {ra : BitVec 5} {rb : BitVec 5} (hz : Keeps z s) :
    KeepsOut z (execMac r vd ra rb s) := by
  unfold execMac
  with_reducible repeat' first
    | refine graov_keeps ?_ ?_ | refine KeepsOut.ite ?_ ?_ | refine KeepsOut.next ?_ | assumption | refine State.setVs_keeps ?_

theorem execWaitResume_keeps {z s : State} {k : LPatch} {t : Thread} (hz : Keeps z s) : KeepsOut z (execWaitResume k t s) := by
  unfold execWaitResume
  with_reducible repeat' first
    | refine actOn_keeps ?_ ?_ | refine KeepsOut.ite ?_ ?_ | refine KeepsOut.next ?_ | assumption | refine State.threadNext_keeps ?_
    | refine State.modThread_keeps ?_ | refine ite_keeps ?_ ?_ | dsimp only | split | (intro _; try beta_reduce)

theorem execBucketDepthWrite_keeps {z s : State} {u : MemUnit} {v : BitVec 16} (hz : Keeps z s) : KeepsOut z (execBucketDepthWrite u v s) := by
  unfold execBucketDepthWrite
  with_reducible repeat' first
    | refine act_keeps ?_ ?_ | refine KeepsOut.ite ?_ ?_ | refine KeepsOut.next ?_ | assumption | refine State.setDepth_keeps ?_

theorem execLnRateWrite_keeps {z s : State} {l : Lane} {v : W32} {be : BitVec 4} (hz : Keeps z s) : KeepsOut z (execLnRateWrite l v be s) := by
  unfold execLnRateWrite
  with_reducible repeat' first
    | refine act_keeps ?_ ?_ | refine KeepsOut.ite ?_ ?_ | refine KeepsOut.next ?_ | assumption | refine State.writeLnRate_keeps ?_

theorem execCouplerFault_keeps {z s : State} {b : Fin 11} {group : BitVec 11} {coupler : Fin 18} {x : CouplerHit} (hz : Keeps z s) :
    KeepsOut z (execCouplerFault b group coupler x s) := by
  unfold execCouplerFault
  with_reducible repeat' first
    | refine act_keeps ?_ ?_ | refine KeepsOut.ite ?_ ?_ | refine KeepsOut.next ?_ | assumption | refine State.couplerFails_keeps ?_
    | refine State.event_keeps ?_ | refine State.tick_keeps ?_ | refine State.groupOut_keeps ?_ | refine State.markFlight_keeps ?_
    | refine State.wr_keeps ?_ | refine ite_keeps ?_ ?_

theorem execFrameJack_keeps {z s : State} {f : FrameInfo} {chunk : BitVec 11} {x : JackBody} (hz : Keeps z s) :
    KeepsOut z (execFrameJack f chunk x s) := by
  unfold execFrameJack
  with_reducible repeat' first
    | refine State.onFrame_keeps ?_ ?_ | refine KeepsOut.ite ?_ ?_ | assumption | (simp only [keeps_mk]; refine keeps_fields ?_)
    | refine State.setLoad_keeps ?_ | refine State.wr_keeps ?_ | refine ite_keeps ?_ ?_ | exact Keeps.refl _ | dsimp only | split
    | (intro _; try beta_reduce)

theorem execPeriodChange_keeps {z s : State} (hz : Keeps z s) : KeepsOut z (execPeriodChange s) := by
  unfold execPeriodChange
  with_reducible repeat' first
    | refine act_keeps ?_ ?_ | refine KeepsOut.ite ?_ ?_ | refine KeepsOut.next ?_ | assumption
    | (simp only [keeps_mk]; refine keeps_fields ?_) | refine State.unloadOver_keeps ?_ | refine State.wr_keeps ?_
    | refine State.showShort_keeps ?_ | refine State.epochEntry_keeps ?_ | refine ite_keeps ?_ ?_

theorem execMarchPreserve_keeps {z s : State} {c : CmdRef} (hz : Keeps z s) : KeepsOut z (execMarchPreserve c s) := by
  unfold execMarchPreserve
  with_reducible repeat' first
    | refine actOn_keeps ?_ ?_ | refine KeepsOut.ite ?_ ?_ | refine KeepsOut.next ?_ | assumption | refine State.complete_keeps ?_
    | refine State.startMarch_keeps ?_ | refine ite_keeps ?_ ?_ | dsimp only | split | (intro _; try beta_reduce)

theorem execTapmN_keeps {z s : State} {r : Ribbon} {vd : BitVec 3} {a : BitVec 3} {o : BitVec 3} {imm : BitVec 11} (hz : Keeps z s) :
    KeepsOut z (execTapmN r vd a o imm s) := by
  unfold execTapmN
  with_reducible repeat' first | refine KeepsOut.ite ?_ ?_ | refine KeepsOut.next ?_ | assumption | refine tap_keeps ?_

theorem execRspMove_keeps {z s : State} {r : Ribbon} {off : ℕ} (hz : Keeps z s) : KeepsOut z (execRspMove r off s) := by
  unfold execRspMove
  with_reducible repeat' first
    | refine act_keeps ?_ ?_ | refine KeepsOut.ite ?_ ?_ | refine KeepsOut.next ?_ | assumption | refine State.requestMove_keeps ?_
    | refine State.tick_keeps ?_

theorem execMin_keeps {z s : State} {h : Proc} {rd : BitVec 5} {ra : BitVec 5} {rb : BitVec 5} (hz : Keeps z s) :
    KeepsOut z (execMin h rd ra rb s) := by
  unfold execMin
  with_reducible repeat' first
    | refine graov_keeps ?_ ?_ | refine KeepsOut.ite ?_ ?_ | refine KeepsOut.next ?_ | assumption | refine State.setG_keeps ?_

theorem execResultSlotRead_keeps {z s : State} {sp : Spool} {p : SlotPart} (hz : Keeps z s) : KeepsOut z (execResultSlotRead sp p s) := by
  unfold execResultSlotRead
  with_reducible repeat' first
    | refine act_keeps ?_ ?_ | refine KeepsOut.ite ?_ ?_ | refine KeepsOut.next ?_ | assumption
    | (simp only [keeps_mk]; refine keeps_fields ?_) | refine State.setSlot_keeps ?_ | refine ite_keeps ?_ ?_

theorem execScrubberCrosscheck_keeps {z s : State} {differ : Bool} (hz : Keeps z s) : KeepsOut z (execScrubberCrosscheck differ s) := by
  unfold execScrubberCrosscheck
  with_reducible repeat' first
    | refine act_keeps ?_ ?_ | refine KeepsOut.ite ?_ ?_ | refine KeepsOut.next ?_ | assumption | refine State.bump_keeps ?_
    | refine ite_keeps ?_ ?_

theorem execCaptureStart_keeps {z s : State} {k : LPatch} {c : Option CmdRef} {off : ℕ} (hz : Keeps z s) :
    KeepsOut z (execCaptureStart k c off s) := by
  unfold execCaptureStart
  with_reducible repeat' first | exact actOn_id_keeps hz (fun t e => State.capture_keeps (State.tick_keeps hz) (of_ite_none e))

theorem execRegulatorTimeout_keeps {z s : State} {layer : Layer} (hz : Keeps z s) : KeepsOut z (execRegulatorTimeout layer s) := by
  unfold execRegulatorTimeout
  with_reducible repeat' first
    | refine act_keeps ?_ ?_ | refine KeepsOut.ite ?_ ?_ | refine KeepsOut.next ?_ | assumption
    | (simp only [keeps_mk]; refine keeps_fields ?_) | refine State.dropCopies_keeps ?_ | refine State.wr_keeps ?_
    | refine State.complete_keeps ?_ | refine ite_keeps ?_ ?_ | refine forEach_keeps ?_ ?_ | exact Keeps.refl _ | dsimp only | split
    | (intro _; try beta_reduce)

theorem execDlin_keeps {z s : State} {r : Ribbon} {ra : BitVec 5} {x : BitVec 5} (hz : Keeps z s) : KeepsOut z (execDlin r ra x s) := by
  unfold execDlin
  with_reducible repeat' first
    | refine graov_keeps ?_ ?_ | refine KeepsOut.ite ?_ ?_ | refine KeepsOut.next ?_ | assumption
    | (refine modProcAt_keeps ?_ (fun x h => h)) | refine State.setDl_keeps ?_ | refine ite_keeps ?_ ?_ | refine forEach_keeps ?_ ?_
    | exact Keeps.refl _ | dsimp only | split | (intro _; try beta_reduce)

theorem execBoltWindowGo_keeps {z s : State} {k : LPatch} {v : W32} {be : BitVec 4} (hz : Keeps z s) : KeepsOut z (execBoltWindowGo k v be s) := by
  unfold execBoltWindowGo
  with_reducible repeat' first
    | refine act_keeps ?_ ?_ | refine KeepsOut.ite ?_ ?_ | refine KeepsOut.next ?_ | assumption | refine State.writeBoltWin_keeps ?_
    | refine ite_keeps ?_ ?_

theorem execCvValueWrite_keeps {z s : State} {k : LPatch} {u : Fin 20} {v : W32} {be : BitVec 4} (hz : Keeps z s) :
    KeepsOut z (execCvValueWrite k u v be s) := by
  unfold execCvValueWrite
  with_reducible repeat' first
    | refine act_keeps ?_ ?_ | refine KeepsOut.ite ?_ ?_ | refine KeepsOut.next ?_ | assumption | refine State.viaPatch_keeps ?_ ?_
    | refine State.writeCvValue_keeps ?_

theorem execKeyAttempt_keeps {z s : State} {ok : Bool} (hz : Keeps z s) : KeepsOut z (execKeyAttempt ok s) := by
  unfold execKeyAttempt
  with_reducible repeat' first
    | refine act_keeps ?_ ?_ | refine KeepsOut.ite ?_ ?_ | refine KeepsOut.next ?_ | assumption
    | (simp only [keeps_mk]; refine keeps_fields ?_) | refine State.wr_keeps ?_ | refine State.loadCopies_keeps ?_
    | refine State.drawKey_keeps ?_ | refine State.complete_keeps ?_ | refine ite_keeps ?_ ?_ | refine forEach_keeps ?_ ?_
    | exact Keeps.refl _ | dsimp only | split | (intro _; try beta_reduce)

theorem execWaittTimeout_keeps {z s : State} {k : LPatch} (hz : Keeps z s) : KeepsOut z (execWaittTimeout k s) := by
  unfold execWaittTimeout
  with_reducible repeat' first
    | refine actOn_keeps ?_ ?_ | refine KeepsOut.ite ?_ ?_ | refine KeepsOut.next ?_ | assumption
    | (refine modProcAt_keeps ?_ (fun x h => h)) | refine State.setP_keeps ?_ | refine State.tick_keeps ?_ | refine ite_keeps ?_ ?_
    | dsimp only | split | (intro _; try beta_reduce)

theorem execRspMoveComplete_keeps {z s : State} {r : Ribbon} (hz : Keeps z s) : KeepsOut z (execRspMoveComplete r s) := by
  unfold execRspMoveComplete
  with_reducible repeat' first
    | refine actOn_keeps ?_ ?_ | refine KeepsOut.ite ?_ ?_ | refine KeepsOut.next ?_ | assumption
    | (simp only [keeps_mk]; refine keeps_fields ?_) | refine State.wr_keeps ?_ | (refine modProcAt_keeps ?_ (fun x h => h))
    | refine State.modRib_keeps ?_ | refine State.ownBist_keeps ?_ | refine State.event_keeps ?_ | refine State.raiseProc_keeps ?_
    | refine State.showRsps_keeps ?_ | refine ite_keeps ?_ ?_ | dsimp only | split | (intro _; try beta_reduce)

theorem execAdd_keeps {z s : State} {h : Proc} {rd : BitVec 5} {ra : BitVec 5} {rb : BitVec 5} (hz : Keeps z s) :
    KeepsOut z (execAdd h rd ra rb s) := by
  unfold execAdd
  with_reducible repeat' first
    | refine graov_keeps ?_ ?_ | refine KeepsOut.ite ?_ ?_ | refine KeepsOut.next ?_ | assumption | refine State.setG_keeps ?_

theorem execActionStaged_keeps {z s : State} {k : LPatch} {a : Fin 8} (hz : Keeps z s) : KeepsOut z (execActionStaged k a s) := by
  unfold execActionStaged
  with_reducible repeat' first
    | refine act_keeps ?_ ?_ | refine KeepsOut.ite ?_ ?_ | refine KeepsOut.next ?_ | assumption | refine State.modPat_keeps ?_
    | refine State.patPoison_keeps ?_ | refine State.bump_keeps ?_ | refine State.wr_keeps ?_ | refine ite_keeps ?_ ?_ | dsimp only
    | split

theorem execConventionalReset_keeps {z s : State} (hz : Keeps z s) : KeepsOut z (execConventionalReset s) := by
  unfold execConventionalReset
  with_reducible repeat' first
    | refine act_keeps ?_ ?_ | refine KeepsOut.ite ?_ ?_ | refine KeepsOut.next ?_ | assumption | refine State.setReg_keeps ?_
    | refine State.hostReset_keeps ?_

theorem execDlrd_keeps {z s : State} {r : Ribbon} {gd : BitVec 5} {x : BitVec 5} (hz : Keeps z s) : KeepsOut z (execDlrd r gd x s) := by
  unfold execDlrd
  with_reducible repeat' first
    | refine graov_keeps ?_ ?_ | refine KeepsOut.ite ?_ ?_ | refine KeepsOut.next ?_ | assumption | refine State.setHalves_keeps ?_

theorem execVclr_keeps {z s : State} {r : Ribbon} {vd : BitVec 3} (hz : Keeps z s) : KeepsOut z (execVclr r vd s) := by
  unfold execVclr
  with_reducible repeat' first
    | refine graov_keeps ?_ ?_ | refine KeepsOut.ite ?_ ?_ | refine KeepsOut.next ?_ | assumption | refine State.setVs_keeps ?_

theorem execSt_keeps {z s : State} {h : Proc} {size : BitVec 2} {rd : BitVec 5} {a : BitVec 3} {o : BitVec 3} {imm : BitVec 11} (hz : Keeps z s) :
    KeepsOut z (execSt h size rd a o imm s) := by
  unfold execSt
  with_reducible repeat' first
    | refine graov_keeps ?_ ?_ | refine KeepsOut.ite ?_ ?_ | refine KeepsOut.next ?_ | assumption | refine State.postMod_keeps ?_
    | refine State.dstore_keeps ?_

theorem execBindPatch_keeps {z s : State} {c : CmdRef} (hz : Keeps z s) : KeepsOut z (execBindPatch c s) := by
  unfold execBindPatch
  with_reducible repeat' first
    | refine actOn_keeps ?_ ?_ | refine KeepsOut.ite ?_ ?_ | refine KeepsOut.next ?_ | assumption | refine State.requestHandover_keeps ?_
    | refine State.setPhase_keeps ?_ | refine State.complete_keeps ?_ | refine ite_keeps ?_ ?_ | dsimp only | split
    | (intro _; try beta_reduce)

theorem execEyeScan_keeps {z s : State} {c : CmdRef} (hz : Keeps z s) : KeepsOut z (execEyeScan c s) := by
  unfold execEyeScan
  with_reducible repeat' first | exact actOn_id_keeps hz (fun t e => State.laneReq_keeps hz (of_ite_none e))

theorem execVlaneOutOfLimits_keeps {z s : State} {highRail : Bool} {off : ℕ} (hz : Keeps z s) : KeepsOut z (execVlaneOutOfLimits highRail off s) := by
  unfold execVlaneOutOfLimits
  with_reducible repeat' first
    | refine act_keeps ?_ ?_ | refine KeepsOut.ite ?_ ?_ | refine KeepsOut.next ?_ | assumption
    | (simp only [keeps_mk]; refine keeps_fields ?_) | refine State.tick_keeps ?_ | refine State.enterAcquire_keeps ?_
    | refine ite_keeps ?_ ?_ | refine forN_keeps ?_ ?_ | exact Keeps.refl _ | dsimp only | split | (intro _; try beta_reduce)

theorem execLayerResetEnd_keeps {z s : State} (hz : Keeps z s) : KeepsOut z (execLayerResetEnd s) := by
  unfold execLayerResetEnd
  with_reducible repeat' first
    | refine act_keeps ?_ ?_ | refine KeepsOut.ite ?_ ?_ | refine KeepsOut.next ?_ | assumption
    | (simp only [keeps_mk]; refine keeps_fields ?_) | refine State.loadCopies_keeps ?_ | refine State.releaseFabs_keeps ?_
    | refine State.wr_keeps ?_ | refine ite_keeps ?_ ?_

theorem execFabricRaise_keeps {z s : State} {k : LPatch} {lines : W64} {off : ℕ} (hz : Keeps z s) : KeepsOut z (execFabricRaise k lines off s) := by
  unfold execFabricRaise
  with_reducible repeat' first
    | refine act_keeps ?_ ?_ | refine KeepsOut.ite ?_ ?_ | refine KeepsOut.next ?_ | assumption | refine State.raiseMask_keeps ?_
    | refine State.tick_keeps ?_

theorem execBoltIn_keeps {z s : State} {c : CmdRef} (hz : Keeps z s) : KeepsOut z (execBoltIn c s) := by
  unfold execBoltIn
  with_reducible repeat' first
    | refine actOn_keeps ?_ ?_ | refine KeepsOut.ite ?_ ?_ | refine KeepsOut.next ?_ | assumption | refine State.complete_keeps ?_
    | refine State.setPhase_keeps ?_ | refine ite_keeps ?_ ?_ | dsimp only | split | (intro _; try beta_reduce)

theorem execVwr_keeps {z s : State} {r : Ribbon} {vd : BitVec 3} {ra : BitVec 5} {x : BitVec 5} (hz : Keeps z s) :
    KeepsOut z (execVwr r vd ra x s) := by
  unfold execVwr
  with_reducible repeat' first
    | refine graov_keeps ?_ ?_ | refine KeepsOut.ite ?_ ?_ | refine KeepsOut.next ?_ | assumption | refine State.setV_keeps ?_

theorem execEvqBaseHiWrite_keeps {z s : State} {v : W32} {be : BitVec 4} (hz : Keeps z s) : KeepsOut z (execEvqBaseHiWrite v be s) := by
  unfold execEvqBaseHiWrite
  with_reducible repeat' first
    | refine act_keeps ?_ ?_ | refine KeepsOut.ite ?_ ?_ | refine KeepsOut.next ?_ | assumption | refine State.writeEvqHi_keeps ?_

end Sys2Proof.Machine
end

