-- ==== Sys2Proof/Laws/KeepsStart.lean ====
section
/-! SUPPORT. The boundary and the starts: they keep the queue and canonical memories, though not the stitch number. -/

namespace Sys2Proof.Machine

/-- `t` holds the queue of `s`, and canonical memories where `s` has them. -/
def Rests (s t : State) : Prop := t.pending = s.pending ∧ (Memory.wf s → Memory.wf t)

/-- `Rests`, of the parts that it speaks of. -/
def RestsF (s : State) (p : List Instr) (hm : List Host.Cell) (bk : Tab BankSt) (bt : Tab BoltSt) (pr : Tab ProcSt) : Prop :=
  Rests s { s with pending := p, hostMem := hm, banks := bk, bolts := bt, procs := pr }

theorem Rests.refl (s : State) : Rests s s := ⟨rfl, id⟩
theorem Keeps.rests {s t : State} (h : Keeps s t) : Rests s t := ⟨h.1, h.2.2⟩
theorem Rests.keeps {s t u : State} (h : Rests s t) (g : Keeps t u) : Rests s u := ⟨g.1.trans h.1, fun m => g.2.2 (h.2 m)⟩
theorem Rests.ite {s t u : State} {c : Prop} [Decidable c] (ht : Rests s t) (hu : Rests s u) : Rests s (if c then t else u) := by
  split <;> assumption

theorem rests_mk (s : State) (p a1 a2 a3 a4 a5 a6 a7 hm st a8 a9 a10 a11 a12 pr a13 bk a14 bt a15 a16 a17 a18 a19 a20 a21 a22 a23 a24 a25 a26 a27 a28 a29 a30 a31 a32 a33) :
    Rests s (State.mk p a1 a2 a3 a4 a5 a6 a7 hm st a8 a9 a10 a11 a12 pr a13 bk a14 bt a15 a16 a17 a18 a19 a20 a21 a22 a23 a24 a25 a26 a27 a28 a29 a30 a31 a32 a33)
      = RestsF s p hm bk bt pr := rfl

theorem rests_fields {s e : State} (h : Rests s e) : RestsF s e.pending e.hostMem e.banks e.bolts e.procs := h

/-- A start keeps the queue and the host memory and empties every other memory. -/
theorem rests_empty {z e : State} (h : Rests z e) : RestsF z e.pending e.hostMem [] [] [] :=
  ⟨h.1, fun m => ⟨(h.2 m).1, fun _ e => absurd e List.not_mem_nil, fun _ e => absurd e List.not_mem_nil, fun _ e => absurd e List.not_mem_nil⟩⟩

theorem State.coldStart_rests {z s : State} (h : Rests z s) : Rests z s.coldStart := by
  unfold State.coldStart
  refine Rests.keeps ?_ (State.loadSubsys_keeps (State.showSlots_keeps (State.loadFuses_keeps (State.wr_keeps (State.wr_keeps
    (State.wr_keeps (Keeps.refl _)))))))
  simp only [rests_mk]
  exact rests_empty (e := s.cutBurn) (h.keeps (State.cutBurn_keeps (Keeps.refl s)))

theorem State.startAgain_rests {z s : State} {c : Nat} (h : Rests z s) : Rests z (s.startAgain c) := by
  unfold State.startAgain
  with_reducible exact (State.coldStart_rests h).keeps (State.wr_keeps (State.wr_keeps (State.wr_keeps (State.incr_keeps (Keeps.refl _)))))

theorem State.fullReset_rests {z s : State} {c : Nat} (h : Rests z s) : Rests z (s.fullReset c) := by
  unfold State.fullReset
  refine Rests.ite ?_ ((State.startAgain_rests h).keeps (State.wr_keeps (Keeps.refl _)))
  exact h

theorem rests_time {z e : State} {st : W64} {o : Nat} {tm : TimeSt} {sy : SysSt} (h : Rests z e) :
    Rests z { e with stitch := st, off := o, time := tm, sys := sy } := h
theorem rests_sys {z e : State} {sy : SysSt} (h : Rests z e) : Rests z { e with sys := sy } := h

theorem State.takeAlign_rests {z s : State} {a : AlignSt} (h : Rests z s) : Rests z (s.takeAlign a) := by
  unfold State.takeAlign
  extract_lets s1 s2 _ _ s3 _ s4 s5
  have h2 : Keeps s s2 := State.wr_keeps (State.wr_keeps (State.wr_keeps (State.wr_keeps (State.wr_keeps (forN_keeps (Keeps.refl s) fun e s =>
    State.wr_keeps (State.wr_keeps (State.wr_keeps (State.wr_keeps (State.wr_keeps (State.wr_keeps (Keeps.refl s)))))))))))
  have h3 : Rests z s3 := rests_time (h.keeps h2)
  have h4 : Rests z s4 := rests_sys h3
  clear_value s4
  have h5 : Rests z s5 := by
    dsimp only [s5]
    generalize s3.sys.headPeriod = o
    split
    · exact Rests.ite (h4.keeps (State.takePeriod_keeps (Keeps.refl s4))) h4
    · exact h4
  exact h5.keeps (State.unloadOver_keeps (Keeps.refl s5))

theorem State.advance_rests {z s : State} {p : Nat} (h : Rests z s) : Rests z (s.advance p) := by
  unfold State.advance
  split
  · with_reducible refine Rests.keeps ?_ (State.epochEntry_keeps (Keeps.refl _))
    simp only [rests_mk]
    with_reducible exact rests_fields h
  · split
    · with_reducible exact State.takeAlign_rests h
    · split
      · simp only [rests_mk]
        with_reducible exact rests_fields h
      · simp only [rests_mk]
        with_reducible refine rests_fields (Rests.keeps ?_ (State.epochEntry_keeps (Keeps.refl _)))
        simp only [rests_mk]
        with_reducible exact rests_fields h

/-- The next state that a command answers rests on `z`. -/
def RestsOut (z : State) (o : Out) : Prop := ∀ t, o = .next t → Rests z t

theorem KeepsOut.rests {z : State} {o : Out} (h : KeepsOut z o) : RestsOut z o := fun t e => (h t e).rests
theorem act_rests {z s t : State} {ok : Bool} (h : Rests z s) (ht : Rests z t) : RestsOut z (act s ok t) := by
  intro u e
  cases e
  split <;> assumption

theorem actOn_rests {z s : State} {α : Type} {o : Option α} {f : α → State} (h : Rests z s) (hf : ∀ x, Rests z (f x)) : RestsOut z (actOn s o f) := by
  intro u e
  cases o with
  | none => cases e; exact h
  | some x => cases e; exact hf x

theorem execStitchBoundary_rests {z s : State} (h : Rests z s) : RestsOut z (execStitchBoundary s) := by
  have ha : Rests z ((forN (fun k s => s.clockStitch k) 16 s).advance s.period).flagBoundary :=
    (State.advance_rests (h.keeps (forN_keeps (Keeps.refl s) fun k s => State.clockStitch_keeps (Keeps.refl s)))).keeps
      (State.flagBoundary_keeps (Keeps.refl _))
  unfold execStitchBoundary
  with_reducible exact act_rests h (Rests.ite (State.fullReset_rests ha) (Rests.ite (ha.keeps (State.hostBoundary_keeps (Keeps.refl _)))
    (ha.keeps (State.runBoundary_keeps (Keeps.refl _)))))

theorem execResetNRise_rests {z s : State} (h : Rests z s) : RestsOut z (execResetNRise s) := by
  unfold execResetNRise
  dsimp only
  with_reducible repeat' first
    | exact h
    | (simp only [rests_mk]; refine rests_fields ?_)
    | refine act_rests ?_ ?_
    | refine State.fullReset_rests ?_
    | refine Rests.ite ?_ ?_

theorem execJrstFull_rests {z s : State} (h : Rests z s) : RestsOut z (execJrstFull s) := act_rests h (State.fullReset_rests h)

theorem execResetNAssert_rests {z s : State} (h : Rests z s) : RestsOut z (execResetNAssert s) := by
  unfold execResetNAssert
  dsimp only
  with_reducible repeat' first
    | exact h
    | (simp only [rests_mk]; refine rests_fields ?_)
    | refine act_rests ?_ ?_
    | refine State.coldStart_rests ?_
    | refine Rests.ite ?_ ?_

theorem execHeldResetRelease_rests {z s : State} (h : Rests z s) : RestsOut z (execHeldResetRelease s) := by
  unfold execHeldResetRelease
  with_reducible exact actOn_rests h fun _ => (State.startAgain_rests h).keeps (State.wr_keeps (Keeps.refl _))

theorem execAutoRestart_rests {z s : State} (h : Rests z s) : RestsOut z (execAutoRestart s) := by
  unfold execAutoRestart
  dsimp only
  with_reducible refine act_rests h ?_
  simp only [rests_mk]
  with_reducible exact rests_fields (State.startAgain_rests (h.keeps (State.took_keeps (Keeps.refl s))))

theorem execVinStackLoss_rests {z s : State} (h : Rests z s) : RestsOut z (execVinStackLoss s) := by
  unfold execVinStackLoss
  dsimp only
  with_reducible refine act_rests h (Rests.keeps ?_ (State.wr_keeps (Keeps.refl _)))
  simp only [rests_mk]
  with_reducible exact rests_fields (State.coldStart_rests h)

theorem execVhkLoss_rests {z s : State} (h : Rests z s) : RestsOut z (execVhkLoss s) := by
  unfold execVhkLoss
  dsimp only
  with_reducible refine act_rests h ?_
  simp only [rests_mk]
  exact rests_empty (e := s) h

end Sys2Proof.Machine
end

