-- ==== Sys2Proof/Laws/State.lean ====
section
/-! SUPPORT. One lemma per field per update of the state: what an update of the registers or of a processor leaves. -/

namespace Sys2Proof.Machine

/-! `setReg`. -/

@[simp] theorem State.pending_setReg (s : State) (a : Nat) (w : W32) : (s.setReg a w).pending = s.pending := rfl
@[simp] theorem State.eff_setReg (s : State) (a : Nat) (w : W32) : (s.setReg a w).eff = s.eff := rfl
@[simp] theorem State.dirty_setReg (s : State) (a : Nat) (w : W32) : (s.setReg a w).dirty = s.dirty := rfl
@[simp] theorem State.live_setReg (s : State) (a : Nat) (w : W32) : (s.setReg a w).live = s.live := rfl
@[simp] theorem State.capHi_setReg (s : State) (a : Nat) (w : W32) : (s.setReg a w).capHi = s.capHi := rfl
@[simp] theorem State.resp_setReg (s : State) (a : Nat) (w : W32) : (s.setReg a w).resp = s.resp := rfl
@[simp] theorem State.fresh_setReg (s : State) (a : Nat) (w : W32) : (s.setReg a w).fresh = s.fresh := rfl
@[simp] theorem State.hostMem_setReg (s : State) (a : Nat) (w : W32) : (s.setReg a w).hostMem = s.hostMem := rfl
@[simp] theorem State.stitch_setReg (s : State) (a : Nat) (w : W32) : (s.setReg a w).stitch = s.stitch := rfl
@[simp] theorem State.off_setReg (s : State) (a : Nat) (w : W32) : (s.setReg a w).off = s.off := rfl
@[simp] theorem State.time_setReg (s : State) (a : Nat) (w : W32) : (s.setReg a w).time = s.time := rfl
@[simp] theorem State.trig_setReg (s : State) (a : Nat) (w : W32) : (s.setReg a w).trig = s.trig := rfl
@[simp] theorem State.evq_setReg (s : State) (a : Nat) (w : W32) : (s.setReg a w).evq = s.evq := rfl
@[simp] theorem State.evSeq_setReg (s : State) (a : Nat) (w : W32) : (s.setReg a w).evSeq = s.evSeq := rfl
@[simp] theorem State.procs_setReg (s : State) (a : Nat) (w : W32) : (s.setReg a w).procs = s.procs := rfl
@[simp] theorem State.snaps_setReg (s : State) (a : Nat) (w : W32) : (s.setReg a w).snaps = s.snaps := rfl
@[simp] theorem State.banks_setReg (s : State) (a : Nat) (w : W32) : (s.setReg a w).banks = s.banks := rfl
@[simp] theorem State.bankWin_setReg (s : State) (a : Nat) (w : W32) : (s.setReg a w).bankWin = s.bankWin := rfl
@[simp] theorem State.bolts_setReg (s : State) (a : Nat) (w : W32) : (s.setReg a w).bolts = s.bolts := rfl
@[simp] theorem State.boltWin_setReg (s : State) (a : Nat) (w : W32) : (s.setReg a w).boltWin = s.boltWin := rfl
@[simp] theorem State.ports_setReg (s : State) (a : Nat) (w : W32) : (s.setReg a w).ports = s.ports := rfl
@[simp] theorem State.caps_setReg (s : State) (a : Nat) (w : W32) : (s.setReg a w).caps = s.caps := rfl
@[simp] theorem State.pats_setReg (s : State) (a : Nat) (w : W32) : (s.setReg a w).pats = s.pats := rfl
@[simp] theorem State.cvs_setReg (s : State) (a : Nat) (w : W32) : (s.setReg a w).cvs = s.cvs := rfl
@[simp] theorem State.fabs_setReg (s : State) (a : Nat) (w : W32) : (s.setReg a w).fabs = s.fabs := rfl
@[simp] theorem State.lanes_setReg (s : State) (a : Nat) (w : W32) : (s.setReg a w).lanes = s.lanes := rfl
@[simp] theorem State.ribs_setReg (s : State) (a : Nat) (w : W32) : (s.setReg a w).ribs = s.ribs := rfl
@[simp] theorem State.rebuild_setReg (s : State) (a : Nat) (w : W32) : (s.setReg a w).rebuild = s.rebuild := rfl
@[simp] theorem State.host_setReg (s : State) (a : Nat) (w : W32) : (s.setReg a w).host = s.host := rfl
@[simp] theorem State.stack_setReg (s : State) (a : Nat) (w : W32) : (s.setReg a w).stack = s.stack := rfl
@[simp] theorem State.seams_setReg (s : State) (a : Nat) (w : W32) : (s.setReg a w).seams = s.seams := rfl
@[simp] theorem State.sys_setReg (s : State) (a : Nat) (w : W32) : (s.setReg a w).sys = s.sys := rfl
@[simp] theorem State.cfg_setReg (s : State) (a : Nat) (w : W32) : (s.setReg a w).cfg = s.cfg := rfl
@[simp] theorem State.res_setReg (s : State) (a : Nat) (w : W32) : (s.setReg a w).res = s.res := rfl
@[simp] theorem State.clk_setReg (s : State) (a : Nat) (w : W32) : (s.setReg a w).clk = s.clk := rfl
@[simp] theorem State.hk_setReg (s : State) (a : Nat) (w : W32) : (s.setReg a w).hk = s.hk := rfl
@[simp] theorem State.start_setReg (s : State) (a : Nat) (w : W32) : (s.setReg a w).start = s.start := rfl
@[simp] theorem State.tap_setReg (s : State) (a : Nat) (w : W32) : (s.setReg a w).tap = s.tap := rfl

/-! `wr`. -/

@[simp] theorem State.pending_wr (s : State) (f : Fld) (b v i j : Nat) : (s.wr f b v i j).pending = s.pending := rfl
@[simp] theorem State.eff_wr (s : State) (f : Fld) (b v i j : Nat) : (s.wr f b v i j).eff = s.eff := rfl
@[simp] theorem State.dirty_wr (s : State) (f : Fld) (b v i j : Nat) : (s.wr f b v i j).dirty = s.dirty := rfl
@[simp] theorem State.live_wr (s : State) (f : Fld) (b v i j : Nat) : (s.wr f b v i j).live = s.live := rfl
@[simp] theorem State.capHi_wr (s : State) (f : Fld) (b v i j : Nat) : (s.wr f b v i j).capHi = s.capHi := rfl
@[simp] theorem State.resp_wr (s : State) (f : Fld) (b v i j : Nat) : (s.wr f b v i j).resp = s.resp := rfl
@[simp] theorem State.fresh_wr (s : State) (f : Fld) (b v i j : Nat) : (s.wr f b v i j).fresh = s.fresh := rfl
@[simp] theorem State.hostMem_wr (s : State) (f : Fld) (b v i j : Nat) : (s.wr f b v i j).hostMem = s.hostMem := rfl
@[simp] theorem State.stitch_wr (s : State) (f : Fld) (b v i j : Nat) : (s.wr f b v i j).stitch = s.stitch := rfl
@[simp] theorem State.off_wr (s : State) (f : Fld) (b v i j : Nat) : (s.wr f b v i j).off = s.off := rfl
@[simp] theorem State.time_wr (s : State) (f : Fld) (b v i j : Nat) : (s.wr f b v i j).time = s.time := rfl
@[simp] theorem State.trig_wr (s : State) (f : Fld) (b v i j : Nat) : (s.wr f b v i j).trig = s.trig := rfl
@[simp] theorem State.evq_wr (s : State) (f : Fld) (b v i j : Nat) : (s.wr f b v i j).evq = s.evq := rfl
@[simp] theorem State.evSeq_wr (s : State) (f : Fld) (b v i j : Nat) : (s.wr f b v i j).evSeq = s.evSeq := rfl
@[simp] theorem State.procs_wr (s : State) (f : Fld) (b v i j : Nat) : (s.wr f b v i j).procs = s.procs := rfl
@[simp] theorem State.snaps_wr (s : State) (f : Fld) (b v i j : Nat) : (s.wr f b v i j).snaps = s.snaps := rfl
@[simp] theorem State.banks_wr (s : State) (f : Fld) (b v i j : Nat) : (s.wr f b v i j).banks = s.banks := rfl
@[simp] theorem State.bankWin_wr (s : State) (f : Fld) (b v i j : Nat) : (s.wr f b v i j).bankWin = s.bankWin := rfl
@[simp] theorem State.bolts_wr (s : State) (f : Fld) (b v i j : Nat) : (s.wr f b v i j).bolts = s.bolts := rfl
@[simp] theorem State.boltWin_wr (s : State) (f : Fld) (b v i j : Nat) : (s.wr f b v i j).boltWin = s.boltWin := rfl
@[simp] theorem State.ports_wr (s : State) (f : Fld) (b v i j : Nat) : (s.wr f b v i j).ports = s.ports := rfl
@[simp] theorem State.caps_wr (s : State) (f : Fld) (b v i j : Nat) : (s.wr f b v i j).caps = s.caps := rfl
@[simp] theorem State.pats_wr (s : State) (f : Fld) (b v i j : Nat) : (s.wr f b v i j).pats = s.pats := rfl
@[simp] theorem State.cvs_wr (s : State) (f : Fld) (b v i j : Nat) : (s.wr f b v i j).cvs = s.cvs := rfl
@[simp] theorem State.fabs_wr (s : State) (f : Fld) (b v i j : Nat) : (s.wr f b v i j).fabs = s.fabs := rfl
@[simp] theorem State.lanes_wr (s : State) (f : Fld) (b v i j : Nat) : (s.wr f b v i j).lanes = s.lanes := rfl
@[simp] theorem State.ribs_wr (s : State) (f : Fld) (b v i j : Nat) : (s.wr f b v i j).ribs = s.ribs := rfl
@[simp] theorem State.rebuild_wr (s : State) (f : Fld) (b v i j : Nat) : (s.wr f b v i j).rebuild = s.rebuild := rfl
@[simp] theorem State.host_wr (s : State) (f : Fld) (b v i j : Nat) : (s.wr f b v i j).host = s.host := rfl
@[simp] theorem State.stack_wr (s : State) (f : Fld) (b v i j : Nat) : (s.wr f b v i j).stack = s.stack := rfl
@[simp] theorem State.seams_wr (s : State) (f : Fld) (b v i j : Nat) : (s.wr f b v i j).seams = s.seams := rfl
@[simp] theorem State.sys_wr (s : State) (f : Fld) (b v i j : Nat) : (s.wr f b v i j).sys = s.sys := rfl
@[simp] theorem State.cfg_wr (s : State) (f : Fld) (b v i j : Nat) : (s.wr f b v i j).cfg = s.cfg := rfl
@[simp] theorem State.res_wr (s : State) (f : Fld) (b v i j : Nat) : (s.wr f b v i j).res = s.res := rfl
@[simp] theorem State.clk_wr (s : State) (f : Fld) (b v i j : Nat) : (s.wr f b v i j).clk = s.clk := rfl
@[simp] theorem State.hk_wr (s : State) (f : Fld) (b v i j : Nat) : (s.wr f b v i j).hk = s.hk := rfl
@[simp] theorem State.start_wr (s : State) (f : Fld) (b v i j : Nat) : (s.wr f b v i j).start = s.start := rfl
@[simp] theorem State.tap_wr (s : State) (f : Fld) (b v i j : Nat) : (s.wr f b v i j).tap = s.tap := rfl

/-! `setProcAt`. -/

@[simp] theorem State.pending_setProcAt (s : State) (k : Nat) (x : ProcSt) : (s.setProcAt k x).pending = s.pending := rfl
@[simp] theorem State.regs_setProcAt (s : State) (k : Nat) (x : ProcSt) : (s.setProcAt k x).regs = s.regs := rfl
@[simp] theorem State.eff_setProcAt (s : State) (k : Nat) (x : ProcSt) : (s.setProcAt k x).eff = s.eff := rfl
@[simp] theorem State.dirty_setProcAt (s : State) (k : Nat) (x : ProcSt) : (s.setProcAt k x).dirty = s.dirty := rfl
@[simp] theorem State.live_setProcAt (s : State) (k : Nat) (x : ProcSt) : (s.setProcAt k x).live = s.live := rfl
@[simp] theorem State.capHi_setProcAt (s : State) (k : Nat) (x : ProcSt) : (s.setProcAt k x).capHi = s.capHi := rfl
@[simp] theorem State.resp_setProcAt (s : State) (k : Nat) (x : ProcSt) : (s.setProcAt k x).resp = s.resp := rfl
@[simp] theorem State.fresh_setProcAt (s : State) (k : Nat) (x : ProcSt) : (s.setProcAt k x).fresh = s.fresh := rfl
@[simp] theorem State.hostMem_setProcAt (s : State) (k : Nat) (x : ProcSt) : (s.setProcAt k x).hostMem = s.hostMem := rfl
@[simp] theorem State.stitch_setProcAt (s : State) (k : Nat) (x : ProcSt) : (s.setProcAt k x).stitch = s.stitch := rfl
@[simp] theorem State.off_setProcAt (s : State) (k : Nat) (x : ProcSt) : (s.setProcAt k x).off = s.off := rfl
@[simp] theorem State.time_setProcAt (s : State) (k : Nat) (x : ProcSt) : (s.setProcAt k x).time = s.time := rfl
@[simp] theorem State.trig_setProcAt (s : State) (k : Nat) (x : ProcSt) : (s.setProcAt k x).trig = s.trig := rfl
@[simp] theorem State.evq_setProcAt (s : State) (k : Nat) (x : ProcSt) : (s.setProcAt k x).evq = s.evq := rfl
@[simp] theorem State.evSeq_setProcAt (s : State) (k : Nat) (x : ProcSt) : (s.setProcAt k x).evSeq = s.evSeq := rfl
@[simp] theorem State.snaps_setProcAt (s : State) (k : Nat) (x : ProcSt) : (s.setProcAt k x).snaps = s.snaps := rfl
@[simp] theorem State.banks_setProcAt (s : State) (k : Nat) (x : ProcSt) : (s.setProcAt k x).banks = s.banks := rfl
@[simp] theorem State.bankWin_setProcAt (s : State) (k : Nat) (x : ProcSt) : (s.setProcAt k x).bankWin = s.bankWin := rfl
@[simp] theorem State.bolts_setProcAt (s : State) (k : Nat) (x : ProcSt) : (s.setProcAt k x).bolts = s.bolts := rfl
@[simp] theorem State.boltWin_setProcAt (s : State) (k : Nat) (x : ProcSt) : (s.setProcAt k x).boltWin = s.boltWin := rfl
@[simp] theorem State.ports_setProcAt (s : State) (k : Nat) (x : ProcSt) : (s.setProcAt k x).ports = s.ports := rfl
@[simp] theorem State.caps_setProcAt (s : State) (k : Nat) (x : ProcSt) : (s.setProcAt k x).caps = s.caps := rfl
@[simp] theorem State.pats_setProcAt (s : State) (k : Nat) (x : ProcSt) : (s.setProcAt k x).pats = s.pats := rfl
@[simp] theorem State.cvs_setProcAt (s : State) (k : Nat) (x : ProcSt) : (s.setProcAt k x).cvs = s.cvs := rfl
@[simp] theorem State.fabs_setProcAt (s : State) (k : Nat) (x : ProcSt) : (s.setProcAt k x).fabs = s.fabs := rfl
@[simp] theorem State.lanes_setProcAt (s : State) (k : Nat) (x : ProcSt) : (s.setProcAt k x).lanes = s.lanes := rfl
@[simp] theorem State.ribs_setProcAt (s : State) (k : Nat) (x : ProcSt) : (s.setProcAt k x).ribs = s.ribs := rfl
@[simp] theorem State.rebuild_setProcAt (s : State) (k : Nat) (x : ProcSt) : (s.setProcAt k x).rebuild = s.rebuild := rfl
@[simp] theorem State.host_setProcAt (s : State) (k : Nat) (x : ProcSt) : (s.setProcAt k x).host = s.host := rfl
@[simp] theorem State.stack_setProcAt (s : State) (k : Nat) (x : ProcSt) : (s.setProcAt k x).stack = s.stack := rfl
@[simp] theorem State.seams_setProcAt (s : State) (k : Nat) (x : ProcSt) : (s.setProcAt k x).seams = s.seams := rfl
@[simp] theorem State.sys_setProcAt (s : State) (k : Nat) (x : ProcSt) : (s.setProcAt k x).sys = s.sys := rfl
@[simp] theorem State.cfg_setProcAt (s : State) (k : Nat) (x : ProcSt) : (s.setProcAt k x).cfg = s.cfg := rfl
@[simp] theorem State.res_setProcAt (s : State) (k : Nat) (x : ProcSt) : (s.setProcAt k x).res = s.res := rfl
@[simp] theorem State.clk_setProcAt (s : State) (k : Nat) (x : ProcSt) : (s.setProcAt k x).clk = s.clk := rfl
@[simp] theorem State.hk_setProcAt (s : State) (k : Nat) (x : ProcSt) : (s.setProcAt k x).hk = s.hk := rfl
@[simp] theorem State.start_setProcAt (s : State) (k : Nat) (x : ProcSt) : (s.setProcAt k x).start = s.start := rfl
@[simp] theorem State.tap_setProcAt (s : State) (k : Nat) (x : ProcSt) : (s.setProcAt k x).tap = s.tap := rfl

/-! `modProcAt`. -/

@[simp] theorem State.pending_modProcAt (s : State) (k : Nat) (f : ProcSt → ProcSt) : (s.modProcAt k f).pending = s.pending := rfl
@[simp] theorem State.regs_modProcAt (s : State) (k : Nat) (f : ProcSt → ProcSt) : (s.modProcAt k f).regs = s.regs := rfl
@[simp] theorem State.eff_modProcAt (s : State) (k : Nat) (f : ProcSt → ProcSt) : (s.modProcAt k f).eff = s.eff := rfl
@[simp] theorem State.dirty_modProcAt (s : State) (k : Nat) (f : ProcSt → ProcSt) : (s.modProcAt k f).dirty = s.dirty := rfl
@[simp] theorem State.live_modProcAt (s : State) (k : Nat) (f : ProcSt → ProcSt) : (s.modProcAt k f).live = s.live := rfl
@[simp] theorem State.capHi_modProcAt (s : State) (k : Nat) (f : ProcSt → ProcSt) : (s.modProcAt k f).capHi = s.capHi := rfl
@[simp] theorem State.resp_modProcAt (s : State) (k : Nat) (f : ProcSt → ProcSt) : (s.modProcAt k f).resp = s.resp := rfl
@[simp] theorem State.fresh_modProcAt (s : State) (k : Nat) (f : ProcSt → ProcSt) : (s.modProcAt k f).fresh = s.fresh := rfl
@[simp] theorem State.hostMem_modProcAt (s : State) (k : Nat) (f : ProcSt → ProcSt) : (s.modProcAt k f).hostMem = s.hostMem := rfl
@[simp] theorem State.stitch_modProcAt (s : State) (k : Nat) (f : ProcSt → ProcSt) : (s.modProcAt k f).stitch = s.stitch := rfl
@[simp] theorem State.off_modProcAt (s : State) (k : Nat) (f : ProcSt → ProcSt) : (s.modProcAt k f).off = s.off := rfl
@[simp] theorem State.time_modProcAt (s : State) (k : Nat) (f : ProcSt → ProcSt) : (s.modProcAt k f).time = s.time := rfl
@[simp] theorem State.trig_modProcAt (s : State) (k : Nat) (f : ProcSt → ProcSt) : (s.modProcAt k f).trig = s.trig := rfl
@[simp] theorem State.evq_modProcAt (s : State) (k : Nat) (f : ProcSt → ProcSt) : (s.modProcAt k f).evq = s.evq := rfl
@[simp] theorem State.evSeq_modProcAt (s : State) (k : Nat) (f : ProcSt → ProcSt) : (s.modProcAt k f).evSeq = s.evSeq := rfl
@[simp] theorem State.snaps_modProcAt (s : State) (k : Nat) (f : ProcSt → ProcSt) : (s.modProcAt k f).snaps = s.snaps := rfl
@[simp] theorem State.banks_modProcAt (s : State) (k : Nat) (f : ProcSt → ProcSt) : (s.modProcAt k f).banks = s.banks := rfl
@[simp] theorem State.bankWin_modProcAt (s : State) (k : Nat) (f : ProcSt → ProcSt) : (s.modProcAt k f).bankWin = s.bankWin := rfl
@[simp] theorem State.bolts_modProcAt (s : State) (k : Nat) (f : ProcSt → ProcSt) : (s.modProcAt k f).bolts = s.bolts := rfl
@[simp] theorem State.boltWin_modProcAt (s : State) (k : Nat) (f : ProcSt → ProcSt) : (s.modProcAt k f).boltWin = s.boltWin := rfl
@[simp] theorem State.ports_modProcAt (s : State) (k : Nat) (f : ProcSt → ProcSt) : (s.modProcAt k f).ports = s.ports := rfl
@[simp] theorem State.caps_modProcAt (s : State) (k : Nat) (f : ProcSt → ProcSt) : (s.modProcAt k f).caps = s.caps := rfl
@[simp] theorem State.pats_modProcAt (s : State) (k : Nat) (f : ProcSt → ProcSt) : (s.modProcAt k f).pats = s.pats := rfl
@[simp] theorem State.cvs_modProcAt (s : State) (k : Nat) (f : ProcSt → ProcSt) : (s.modProcAt k f).cvs = s.cvs := rfl
@[simp] theorem State.fabs_modProcAt (s : State) (k : Nat) (f : ProcSt → ProcSt) : (s.modProcAt k f).fabs = s.fabs := rfl
@[simp] theorem State.lanes_modProcAt (s : State) (k : Nat) (f : ProcSt → ProcSt) : (s.modProcAt k f).lanes = s.lanes := rfl
@[simp] theorem State.ribs_modProcAt (s : State) (k : Nat) (f : ProcSt → ProcSt) : (s.modProcAt k f).ribs = s.ribs := rfl
@[simp] theorem State.rebuild_modProcAt (s : State) (k : Nat) (f : ProcSt → ProcSt) : (s.modProcAt k f).rebuild = s.rebuild := rfl
@[simp] theorem State.host_modProcAt (s : State) (k : Nat) (f : ProcSt → ProcSt) : (s.modProcAt k f).host = s.host := rfl
@[simp] theorem State.stack_modProcAt (s : State) (k : Nat) (f : ProcSt → ProcSt) : (s.modProcAt k f).stack = s.stack := rfl
@[simp] theorem State.seams_modProcAt (s : State) (k : Nat) (f : ProcSt → ProcSt) : (s.modProcAt k f).seams = s.seams := rfl
@[simp] theorem State.sys_modProcAt (s : State) (k : Nat) (f : ProcSt → ProcSt) : (s.modProcAt k f).sys = s.sys := rfl
@[simp] theorem State.cfg_modProcAt (s : State) (k : Nat) (f : ProcSt → ProcSt) : (s.modProcAt k f).cfg = s.cfg := rfl
@[simp] theorem State.res_modProcAt (s : State) (k : Nat) (f : ProcSt → ProcSt) : (s.modProcAt k f).res = s.res := rfl
@[simp] theorem State.clk_modProcAt (s : State) (k : Nat) (f : ProcSt → ProcSt) : (s.modProcAt k f).clk = s.clk := rfl
@[simp] theorem State.hk_modProcAt (s : State) (k : Nat) (f : ProcSt → ProcSt) : (s.modProcAt k f).hk = s.hk := rfl
@[simp] theorem State.start_modProcAt (s : State) (k : Nat) (f : ProcSt → ProcSt) : (s.modProcAt k f).start = s.start := rfl
@[simp] theorem State.tap_modProcAt (s : State) (k : Nat) (f : ProcSt → ProcSt) : (s.modProcAt k f).tap = s.tap := rfl

end Sys2Proof.Machine
end

