-- ==== Sys2Proof/WellFormed.lean ====
section
/-! DEFINITION. What makes a command one that can come: the lengths and ranges that the operands' types leave open. -/

namespace Sys2Proof

/-- A root-cycle offset lies in the stitch: P is 64 × N with N at most 128 (R48, R49). -/
def offOk (off : Nat) : Bool := decide (off < 8192)

/-- An entry of a queue or a port access (R218): 8, 16, 32 or 64 bytes. -/
def entryOk (n : Nat) : Bool := n == 8 || n == 16 || n == 32 || n == 64

/-- A received unit: a mark for each character of a unit of characters, and symbol counts up to 16 (R173, R226). -/
def RxUnit.wf (u : RxUnit) : Bool := (u.ctl == [] || u.ctl.length == u.bytes.length) && u.cws.all (fun n => decide (n ≤ 16))

/-- A TIME cell's launch offset, in 1/32 root cycles (R399). -/
def TimeCell.wf (t : TimeCell) : Bool := decide (t.offset < 32 * 8192)

/-- A message's parts (R319, R372, R379): an entry has 64 bytes, a record 32, a result at most 14 words. -/
def Msg.wf : Msg → Bool
  | .command _ entry => entry.length == 64
  | .result _ _ data => decide (data.length ≤ 14)
  | .event record => record.length == 32
  | .period n _ => decide (1 ≤ n.toNat) && decide (n.toNat ≤ 128)
  | .regRead _ _ _ | .regWrite _ _ _ _ | .regResp _ _ _ | .eventAck | .single | .pageAck _ _ | .frameAgain _ | .route _ _ _ _ | .seamReport _ _ _ | .haltNotice _ | .claim _ _ _ | .ready _ _ _ _ _ _ => true

/-- A link joins two different devices of a system, by seams that they have (R395, R406). -/
def Link.wf (l : Link) : Bool := decide (l.a < 64) && decide (l.b < 64) && decide (l.sa < 6) && decide (l.sb < 6) && l.a != l.b

/-- A measurement round covers the eight layers (R508). -/
def HeatRound.wf (r : HeatRound) : Bool := r.diode.length == 8 && r.power.length == 8

/-- A coupler's group is one of its boundary: at most 1,250 (R18). -/
def CouplerId.wf (x : CouplerId) : Bool := decide (x.group.toNat < 1250)

/-- An item of a jack image (R531): of its 4,096 cells in 256 clusters, with no bus line, tack or hard block of a patch. -/
def PlaneItem.inJack : PlaneItem → Bool
  | .cell upper x _ => !upper && decide (x.toNat < 4096)
  | .shiftEn upper c _ | .route upper c _ _ | .wire upper c _ _ => !upper && decide (c.toNat < 256)
  | .row upper _ _ v | .col upper _ _ v => !upper && decide (v.cluster.toNat < 256)
  | .driver _ _ _ _ _ | .tack _ _ _ _ _ _ | .mac _ _ _ | .ball _ _ | .pair _ | .take _ => false

/-- A well-formed command. -/
def Instr.wf : Instr → Bool
  | .stitchBoundary => true
  | .nReqWrite _ => true
  | .periodChange => true
  | .stitchLoRead off => offOk off
  | .syncInEdge off => offOk off
  | .holdover off => offOk off
  | .nop _ => true
  | .add _ _ _ _ => true
  | .sub _ _ _ _ => true
  | .and _ _ _ _ => true
  | .or _ _ _ _ => true
  | .xor _ _ _ _ => true
  | .shl _ _ _ _ => true
  | .shr _ _ _ _ => true
  | .sar _ _ _ _ => true
  | .min _ _ _ _ => true
  | .max _ _ _ _ => true
  | .minu _ _ _ _ => true
  | .maxu _ _ _ _ => true
  | .mul _ _ _ _ => true
  | .cmp _ _ _ _ _ => true
  | .pand _ _ _ _ => true
  | .por _ _ _ _ => true
  | .pxor _ _ _ _ => true
  | .pandn _ _ _ _ => true
  | .pnot _ _ _ => true
  | .mva _ _ _ => true
  | .mvo _ _ _ => true
  | .mag _ _ _ => true
  | .mog _ _ _ => true
  | .ptog _ _ _ => true
  | .gtop _ _ _ => true
  | .addi _ _ _ _ => true
  | .andi _ _ _ _ => true
  | .ori _ _ _ _ => true
  | .xori _ _ _ _ => true
  | .shli _ _ _ _ => true
  | .shri _ _ _ _ => true
  | .sari _ _ _ _ => true
  | .insi _ _ _ _ => true
  | .ld _ _ _ _ _ _ => true
  | .st _ _ _ _ _ _ => true
  | .adda _ _ _ => true
  | .ldw _ _ _ _ _ _ _ => true
  | .stw _ _ _ _ _ _ => true
  | .srd _ _ _ _ => true
  | .swr _ _ _ _ => true
  | .swrLand _ off => decide (off < 8200)
  | .postedWriteLand _ off _ => offOk off
  | .ba _ _ => true
  | .b _ _ _ => true
  | .bn _ _ _ => true
  | .loop _ _ _ => true
  | .done _ => true
  | .doneHold _ => true
  | .trig _ _ => true
  | .waitt _ _ _ _ => true
  | .waittTimeout _ => true
  | .cvf _ _ _ _ => true
  | .cvrd _ _ _ => true
  | .cvwr _ _ _ => true
  | .bown _ _ _ => true
  | .mac _ _ _ _ => true
  | .tapm _ _ _ _ _ => true
  | .tapmA _ _ _ _ _ => true
  | .tapmN _ _ _ _ _ => true
  | .tapmAn _ _ _ _ _ => true
  | .acs _ _ _ _ _ _ => true
  | .vclr _ _ => true
  | .vrd _ _ _ _ => true
  | .vwr _ _ _ _ => true
  | .vpk _ _ _ _ => true
  | .vaddh _ _ _ _ => true
  | .vsubh _ _ _ _ => true
  | .vbc _ _ _ => true
  | .vmin _ _ _ _ => true
  | .dlin _ _ _ => true
  | .dlrd _ _ _ => true
  | .tpset _ _ => true
  | .eset _ _ _ => true
  | .progLoad _ => true
  | .progAdmit _ => true
  | .progStart _ => true
  | .progStop _ => true
  | .progPost _ => true
  | .mailboxReply _ _ => true
  | .evtPendClear _ _ => true
  | .lnCtlWrite _ _ _ => true
  | .lnRateWrite _ _ _ => true
  | .coefficientWrite _ _ _ _ => true
  | .txFfeWrite _ _ _ => true
  | .ribCtlWrite _ _ _ => true
  | .laneUp _ off => offOk off
  | .lossOfLock _ off => offOk off
  | .elecIdle _ off => offOk off
  | .signalDetect _ off => offOk off
  | .laneFault _ _ off => offOk off
  | .receivedUnit _ u off => u.wf && offOk off
  | .txUnderrun _ off => offOk off
  | .rspMove _ off => offOk off
  | .rspMoveComplete _ => true
  | .eyeScan _ => true
  | .ctleRecal _ => true
  | .rxRetrain _ => true
  | .txRecal _ => true
  | .analogTest _ => true
  | .laneReqEnd _ _ _ => true
  | .quietWrite _ _ _ => true
  | .quietWindowEnd _ => true
  | .busContention _ _ _ off => offOk off
  | .loadGo _ _ => true
  | .swap _ _ => true
  | .swapOnTrig _ _ => true
  | .planeLoadEnd _ _ => true
  | .queueModeWrite _ _ _ _ => true
  | .queuePush _ _ _ data => entryOk data.length
  | .queuePop _ _ _ seen => decide (seen.length ≤ 8)
  | .portAccess _ _ _ write _ data mask seen =>
    decide (seen.length ≤ 8) && (if write then entryOk data.length && mask.length == data.length else data == [] && mask == [])
  | .exchangeSend _ flits => decide (1 ≤ flits.length) && decide (flits.length ≤ 16)
  | .exchangeDeliver _ _ => true
  | .captureStart _ _ off => offOk off
  | .captureStop _ _ off => offOk off
  | .captureArm _ _ off => offOk off
  | .captureNextSegment _ _ off => offOk off
  | .keep _ _ _ _ => true
  | .keepHead _ _ _ _ _ => true
  | .countOnly _ _ _ => true
  | .drop _ _ _ => true
  | .verdictWindowClose _ _ _ => true
  | .streamChunk _ _ data off => decide (1 ≤ data.length) && decide (data.length ≤ 4064) && offOk off
  | .recordWrite _ off => offOk off
  | .postDone _ off => offOk off
  | .captureDrained _ off => offOk off
  | .snapshot _ => true
  | .follow _ => true
  | .offloadPage _ => true
  | .offloadStop _ => true
  | .consumedWrite _ _ _ => true
  | .patternStart _ _ _ => true
  | .patternStop _ _ _ => true
  | .descNop _ _ => true
  | .send _ _ => true
  | .descLoop _ _ => true
  | .endloop _ _ => true
  | .jmp _ _ => true
  | .wait _ _ => true
  | .waitResume _ _ => true
  | .sync _ _ => true
  | .syncDone _ _ => true
  | .descTrig _ _ off => offOk off
  | .descStop _ _ => true
  | .descBadop _ _ => true
  | .unitMove _ _ => true
  | .actionLoad _ _ _ _ => true
  | .actionStaged _ _ => true
  | .fabricTxUnit _ _ _ _ => true
  | .cvValueWrite _ _ _ _ => true
  | .cvCfgWrite _ _ _ _ => true
  | .fabricRaise _ _ off => offOk off
  | .raiseWrite _ _ _ off => offOk off
  | .trigxEdge _ _ off => offOk off
  | .trigxPulseEnd _ => true
  | .stateLoRead off => offOk off
  | .logStatRead off => offOk off
  | .eventRecordWrite => true
  | .evqBaseLoWrite _ _ => true
  | .evqBaseHiWrite _ _ => true
  | .evqSizeWrite _ _ => true
  | .mgmtWindowGo _ _ _ => true
  | .mgmtWindowDone _ _ => true
  | .boltWindowGo _ _ _ => true
  | .boltWindowDone _ _ => true
  | .bucketLeak _ => true
  | .bucketDepthWrite _ _ => true
  | .patrolRead _ _ => true
  | .rowCopyDone _ => true
  | .boltLineRead _ _ _ _ => true
  | .boltLineWrite _ _ _ data mask _ => data.length == 64 && mask.length == 64
  | .rekeyPassDone _ => true
  | .counterUncorrectable _ => true
  | .registerWrite _ _ _ _ off => offOk off
  | .rcFieldRead _ => true
  | .doorbell _ _ => true
  | .entryFetched _ entry => match entry with | some e => e.length == 64 | none => true
  | .spoolEnWrite _ _ _ => true
  | .nopCommand _ => true
  | .bindRibbon _ => true
  | .bindPatch _ => true
  | .boltIn _ => true
  | .boltOut _ => true
  | .boltTransferDone _ => true
  | .fence _ => true
  | .releaseWord _ _ _ => true
  | .resultSlotRead _ x => decide (1 ≤ x.n.toNat) && decide (x.first.toNat + x.n.toNat ≤ 16)
  | .windowRead _ _ => true
  | .windowWrite _ _ _ _ off => offOk off
  | .windowTimeout _ => true
  | .requestRepeat _ => true
  | .vectorUnmask _ => true
  | .conventionalReset => true
  | .functionLevelReset => true
  | .linkLoss => true
  | .d3hotExit => true
  | .seamTrained _ => true
  | .seamKeyReceived _ _ _ _ => true
  | .seamRetry _ => true
  | .seamLockLoss _ => true
  | .frameTimeout _ => true
  | .retrain _ => true
  | .seamEnWrite _ _ _ => true
  | .seamFrameSend _ => true
  | .seamFrameReceive _ _ _ _ off => offOk off
  | .timeCell _ t => t.wf
  | .trigCell _ entries off => decide (entries.length ≤ 15) && offOk off
  | .msgCell _ _ m off => m.wf && offOk off
  | .dataCell _ d => d.payload.length == 60
  | .haltBlock _ _ off => offOk off
  | .go links _ => decide (links.length ≤ 192) && links.all Link.wf
  | .sysReset off => offOk off
  | .cfgLoad _ => true
  | .chainStream _ => true
  | .sectionHeader _ _ _ _ => true
  | .frameNop _ => true
  | .framePlane _ _ _ _ _ => true
  | .frameSetting _ pairs => pairs.length == 63
  | .frameJack _ _ x => x.items.all PlaneItem.inJack
  | .keyroll _ => true
  | .frameEnd _ => true
  | .streamEnd => true
  | .streamTimeout => true
  | .fallbackLoad _ => true
  | .slotWriteDone => true
  | .scrubFrameRead _ _ _ _ _ _ => true
  | .scrubberCrosscheck _ => true
  | .setStage _ => true
  | .store _ => true
  | .compactionDone => true
  | .designKey _ => true
  | .lcsAdvance _ => true
  | .lockstepMismatch _ off => offOk off
  | .preparationEnd x => offOk x.off
  | .rebind off => offOk off
  | .drainComplete off => offOk off
  | .rotationStep off => offOk off
  | .rotWaitExpiry off => offOk off
  | .results _ => true
  | .logicBist _ => true
  | .marchPreserve _ => true
  | .marchDestruct _ => true
  | .boltOnly _ => true
  | .bistDone _ _ _ _ => true
  | .marchDone _ _ => true
  | .hcLockstepMismatch off => offOk off
  | .heldRequestTimeout _ => true
  | .pquietWrite _ _ _ => true
  | .refclkWindow _ off => offOk off
  | .refclkMissing off => offOk off
  | .refclkOvercount _ off => offOk off
  | .clockRestored off => offOk off
  | .intoscStart => true
  | .forcedSwitch _ => true
  | .gateOpen _ => true
  | .gateClose _ => true
  | .heldCloseDone => true
  | .dramRewriteDone _ => true
  | .refoutWrite _ _ _ _ => true
  | .powerSample _ off => offOk off
  | .currentLimit off => offOk off
  | .slowRound r off => r.wf && offOk off
  | .fastRound r off => r.wf && offOk off
  | .comparatorTrip _ off => offOk off
  | .autoRestart => true
  | .vhkGood _ _ _ _ => true
  | .blankDrive => true
  | .vinStackGood => true
  | .rootPllLock => true
  | .keyAttempt _ => true
  | .layerRaised _ => true
  | .regulatorTimeout _ => true
  | .trainingDone failed => failed.all CouplerId.wf
  | .startupMarchDone _ _ => true
  | .checkerSelftestDone _ => true
  | .dramInitDone _ => true
  | .resetNAssert => true
  | .resetNRise => true
  | .jrstFull => true
  | .jrstLayer _ => true
  | .layerResetWrite _ _ => true
  | .layerResetEnd => true
  | .jackSwap => true
  | .jackSwapExecute _ _ => true
  | .jackSwapTimeout => true
  | .vioGood _ _ => true
  | .vlaneOutOfLimits _ off => offOk off
  | .vinStackLoss => true
  | .vhkLoss => true
  | .tapReset => true
  | .bypass => true
  | .idcode => true
  | .samplePreload => true
  | .extest => true
  | .extestPulse => true
  | .extestTrain => true
  | .clamp => true
  | .highz => true
  | .internalScan _ => true
  | .couplerFault bnd group coupler x => (CouplerId.mk bnd group coupler).wf && offOk x.off
  | .counterLoRead _ => true
  | .linkUp _ _ _ => true
  | .d3hotEntry => true
  | .uncorrectableCodewords _ => true
  | .vioLoss _ => true
  | .vlaneReturn _ off => offOk off
  | .hostReadComplete _ data => match data with | some bs => decide (bs.length ≤ 0x6000000) | none => true
  | .fuseBurnDone _ => true
  | .storeComplete => true
  | .latchVoteFix => true
  | .heldResetRelease => true

end Sys2Proof
end

