-- ==== Sys2Proof/Tests/Slice0.lean ====
section
/-! SUPPORT. The model's own tests: for every statement with hypotheses a concrete state and operands that meet them (`test_meets_<statement>`; a
statement that joins several groups of commands has one per group), a term that each well-formedness check refuses, and worked examples of the spec. -/

namespace Sys2Proof.Tests
open Sys2Proof Sys2Proof.Machine

set_option maxRecDepth 100000

/-- A released fabric with a resident plane. -/
def fab : FabSt := { State.reset.fabAt 0 with released := true, active := some 1 }

/-- A device in release, in the middle of a stitch. -/
def on : State :=
  ((({ State.reset with
    clk := { State.reset.clk with locked := true }
    start := { State.reset.start with vhk := true, vin := true, layers := 7 }
    cfg := { State.reset.cfg with released := true }
    time := { State.reset.time with counting := true, root := 1000000 }
    stitch := 5000
    fabs := (List.range 16).map (fun k => (k, fab)) }.wr F.ST_PHASE DEV 8).wr F.CLK_LOCKED CLK 1).wr F.KEY_STATE SEC 1).wr F.LCS SEC 4

/-- The reference of a spool command. -/
def ref : CmdRef := ⟨false, 0, 1⟩

/-- A spool entry: opcode, flags, target, target kind and the bytes from offset 8. -/
def entry (op flags target tkind : Nat) (params : List Nat) : List Byte :=
  ([op, flags, 0, 0, target, 64 * tkind, 0, 0] ++ params ++ List.replicate (56 - params.length) 0).map (BitVec.ofNat 8)

/-- A state with a dispatched command. -/
def asking (s : State) (op flags target tkind : Nat) (params : List Nat) (ph : Phase := .fresh) : State :=
  { s with host := { s.host with cmds := [⟨ref, entry op flags target tkind params, 0, ph, .ok⟩] } }

/-- A processor that runs a program of one word. -/
def runs (s : State) (h : Proc) (w : W32) : State :=
  let key := Proc.key h
  let s1 := if key = 0 then s.wr F.HC_PSTATE DEV 1 (match h with | .m n => n.val | _ => 0) else s.wr F.PSTATE (s.seqBase key) 1
  s1.modProcAt key (fun x => { x with
    imgs := [(match h with | .m n => n.val | _ => 0, { Image.none_ with loaded := true, code := [w] })], stop := 1, active := true, cur := match h with | .m n => n.val | _ => 0
    cycle := 10, g := [(1, 7), (2, 9), (3, 0x8000000000000005)], a := [(1, 100), (2, 3)], o := [(1, 8)], p := [(1, true)] })

/-- A field written and in effect. -/
def sets (s : State) (f : Fld) (base v : Nat) (i j : Nat := 0) : State :=
  let t := s.wr f base v i j
  { t with eff := t.eff.put (f.at base i j) (t.reg (f.at base i j)) }

/-- A change of one fabric. -/
def withFab (s : State) (k : Nat) (f : FabSt → FabSt) : State := { s with fabs := s.fabs.put k (f (s.fabAt k)) }

/-- A running device with one command in its queue. -/
def waiting (i : Instr) : State := { on with pending := [i] }

/-! The machine. -/

theorem test_meets_StepRunsTheFrontCommand :
    ({ State.reset with pending := [.latchVoteFix] } : State).pending = .latchVoteFix :: [] ∧ State.reset.pending = [] := by decide

theorem test_meets_StepsKeepMemoryCanonical :
    Memory.wf (waiting .latchVoteFix) ∧ ∃ t, Sys2Proof.Machine.step (waiting .latchVoteFix) = .next t := ⟨by decide, _, rfl⟩

theorem test_meets_StitchNumberMoves :
    Instr.latchVoteFix ∉ [Instr.stitchBoundary, .resetNRise, .resetNAssert, .jrstFull, .heldResetRelease, .autoRestart, .vinStackLoss, .vhkLoss]
      ∧ ∃ t, exec .latchVoteFix on = .next t := ⟨by decide, _, rfl⟩

theorem test_meets_FieldsReadWhatWasWritten :
    F.THR_PC.lo ≤ F.THR_PC.hi ∧ F.THR_PC.hi < 32 ∧ F.SP_DEPTH.hi < 32 ∧ F.THR_STATE.lo ≤ F.THR_STATE.hi
      ∧ (F.THR_STATE.hi < F.THR_PC.lo ∨ F.THR_PC.hi < F.THR_STATE.lo) := by decide

/-! Graov. -/

/-- A word of the integer group. -/
def wAdd (fn : Nat) : W32 := wordR 0x01 1 2 3 fn

theorem test_meets_IntegerInstructions :
    (runs on (.p 3) 0).issues (.p 3) 0 = true
      ∧ ∀ fn : Fin 13, (runs on (.p 3) (wAdd fn.val)).issues (.p 3) (wAdd fn.val) = true
        ∧ (runs on (.m 15) (wAdd fn.val)).issues (.m 15) (wAdd fn.val) = true ∧ (runs on (.s 31) (wAdd fn.val)).issues (.s 31) (wAdd fn.val) = true := by
  decide

theorem test_meets_PredicatesAndMoves_compares :
    ∀ fn : Fin 6, (runs on (.s 31) (wordR 0x02 7 31 0 fn.val)).issues (.s 31) (wordR 0x02 7 31 0 fn.val) = true := by decide

theorem test_meets_PredicatesAndMoves :
    (∀ fn : Fin 4, (runs on (.p 0) (wordR 0x03 7 1 0 fn.val)).issues (.p 0) (wordR 0x03 7 1 0 fn.val) = true)
      ∧ (runs on (.p 0) (wordR 0x03 7 1 0 4)).issues (.p 0) (wordR 0x03 7 1 0 4) = true
      ∧ (∀ fn : Fin 2, (runs on (.p 0) (wordR 0x04 7 31 0 fn.val)).issues (.p 0) (wordR 0x04 7 31 0 fn.val) = true)
      ∧ (∀ fn : Fin 3, (runs on (.p 0) (wordR 0x04 31 7 0 (2 + fn.val))).issues (.p 0) (wordR 0x04 31 7 0 (2 + fn.val)) = true)
      ∧ (runs on (.p 0) (wordR 0x04 7 31 0 5)).issues (.p 0) (wordR 0x04 7 31 0 5) = true := by decide

theorem test_meets_Immediates :
    (∀ op : Fin 8, (runs on (.p 15) (wordI (8 + op.val) 31 0 16383)).issues (.p 15) (wordI (8 + op.val) 31 0 16383) = true)
      ∧ (runs on (.p 15) (wordM 0x12 0 7 0 0 2047)).issues (.p 15) (wordM 0x12 0 7 0 0 2047) = true := by decide

theorem test_meets_DataMemory : ∀ size : Fin 4,
    (runs on (.m 0) (wordM 0x10 31 7 7 size.val 2047)).issues (.m 0) (wordM 0x10 31 7 7 size.val 2047) = true
      ∧ (runs on (.m 0) (wordM 0x11 31 7 7 size.val 2047)).issues (.m 0) (wordM 0x11 31 7 7 size.val 2047) = true := by decide

theorem test_meets_ControlFlow :
    (∀ fn : Fin 3, (runs on (.p 3) (wordB 0x20 fn.val 1 131071)).issues (.p 3) (wordB 0x20 fn.val 1 131071) = true
        ∧ (runs on (.p 3) (wordB 0x20 fn.val 0 0)).issues (.p 3) (wordB 0x20 fn.val 0 0) = true)
      ∧ (runs on (.p 3) (wordL 0x21 0 1023)).issues (.p 3) (wordL 0x21 0 1023) = true
      ∧ (runs on (.p 3) (wordL 0x21 1023 0)).issues (.p 3) (wordL 0x21 1023 0) = true
      ∧ (runs on (.s 5) (wordR 0x22 0 0 0 1)).issues (.s 5) (wordR 0x22 0 0 0 1) = true
      ∧ (runs on (.s 5) (wordR 0x22 0 0 0 0)).procRuns (.s 5) = true
      ∧ (runs on (.s 5) (wordR 0x22 0 0 0 0)).fetch 37 = some (wordR 0x22 0 0 0 0)
      ∧ (runs on (.m 2) (wordR 0x22 0 0 0 0)).procRuns (.m 2) = true
      ∧ ((runs on (.p 3) 0).modProcAt 19 (fun x => { x with pc := 1 })).procRuns (.p 3) = true
      ∧ ((runs on (.p 3) 0).modProcAt 19 (fun x => { x with pc := 1 })).fetch 19 = none := by decide

/-- A sequencer that reaches a word of bank 7, owned by the sequencer or not, poisoned or not. -/
def wBank (w : W32) (owner : Nat) (poison : Bool) : State :=
  let s := runs on (.p 3) w
  (s.setBank 3 7 { s.bankAt 3 7 with
    owner := owner
    words := [(0x1FFFF, 0x1122334455667788)]
    poison := if poison then [(0x1FFFF, true)] else [] }).modProcAt 19 (fun x => { x with a := [(1, 0x7FFFF8)] })

/-- Loads and stores of the window. -/
def wLdw (op : Nat) : W32 := wordM op 1 1 1 3 0

/-- A sequencer with posted writes. -/
def wPosted (l : List Posted) : State := (runs on (.p 3) 0).modProcAt 19 (fun x => { x with wq := l })

theorem test_meets_BankWrites :
    (wBank (wLdw 0x13) 1 false).issues (.p 3) (wLdw 0x13) = true ∧ ((wBank (wLdw 0x13) 1 false).bankAt ((wBank (wLdw 0x13) 1 false).ppos 3) 7).owner ≠ 0
      ∧ ((wBank (wLdw 0x13) 0 true).bankAt ((wBank (wLdw 0x13) 0 true).ppos 3) 7).owner = 0 ∧ ((wBank (wLdw 0x13) 0 true).procAt 19).wq = []
      ∧ (wBank (wLdw 0x13) 0 true).bankPoison ((wBank (wLdw 0x13) 0 true).ppos 3) 7 0x1FFFF = true
      ∧ (wBank (wLdw 0x13) 0 false).issues (.p 3) (wLdw 0x13) = true
      ∧ (wBank (wLdw 0x13) 0 false).bankPoison ((wBank (wLdw 0x13) 0 false).ppos 3) 7 0x1FFFF = false
      ∧ (wBank (wLdw 0x14) 0 false).issues (.p 3) (wLdw 0x14) = true
      ∧ (wPosted [.stw 0x7FFFF8 8 5]).up = true ∧ ((wPosted [.stw 0x7FFFF8 8 5]).procAt 19).wq = .stw 0x7FFFF8 8 5 :: []
      ∧ ((wPosted [.cvwr 19 5]).procAt 19).wq = .cvwr 19 5 :: [] ∧ (wPosted [.cvwr 19 5]).cvStream 3 19 = false
      ∧ (sets (wPosted [.cvf 0 4 5]) F.CV_STREAM_EN (PATCH 3) 1 0).cvStream 3 0 = true ∧ (wPosted [.cvf 0 4 5]).ppos 3 = 3
      ∧ ((wPosted [.cvf 19 4 5]).procAt 19).wq = .cvf 19 4 5 :: [] ∧ ((wPosted [.cvf 19 4 5]).cvCfg 3 19).toNat / 2 ^ F.CV_STREAM_EN.lo % 2 = 0 := by
  decide

/-- A processor with string writes in flight. -/
def wInFlight (h : Proc) (l : List Posted) : State := (runs on h 0).modProcAt (Proc.key h) (fun x => { x with wq := l })

/-- String writes in flight: to word 10 of MAILBOX_OUT, and to a register that its string reaches. -/
def wMail : Posted := .str 0 4 10 none 5 none
def wToReg : Posted := .str 0 8 0 (some (TRIG + 8)) 5 none

theorem test_meets_StringAccesses :
    (runs on (.p 3) (wordS 0x18 1 4 0)).issues (.p 3) (wordS 0x18 1 4 0) = true
      ∧ (runs on (.p 3) (wordS 0x18 1 8 0)).stringAddr 19 0 8 0 = none
      ∧ (runs on (.p 3) (wordS 0x19 1 127 4095)).issues (.p 3) (wordS 0x19 1 127 4095) = true
      ∧ (wInFlight (.p 3) [wMail]).up = true ∧ ((wInFlight (.p 3) [wMail]).procAt 19).frozen = false
      ∧ ((wInFlight (.p 3) [wMail]).procAt 19).wq.any (fun p => p.isStr && !p.early) = true
      ∧ ((wInFlight (.p 3) [wToReg]).procAt 19).wq = [wToReg] ∧ 100 < (wInFlight (.p 3) [wToReg]).period := by decide

/-- A processor with a post that awaits its reply. -/
def wReplies : State := (asking (runs on (.m 15) 0) 5 0 15 2 []).modProcAt 0 (fun x => { x with replies := [(15, ref)] })

theorem test_meets_EventsAndTriggers_mailbox :
    wReplies.up = true ∧ (wReplies.procAt 0).frozen = false ∧ (wReplies.procAt 0).replies = [(15, ref)]
      ∧ ((runs on (.p 3) 0).procAt 19).replies = [] ∧ (runs on (.p 3) 0).up = true ∧ ((runs on (.p 3) 0).procAt 19).frozen = false
      ∧ (runs on (.p 3) 0).ppos 3 < 18 := by decide

/-- A raised line, and a sequencer that waits for one. -/
def wRaised (s : State) (line : Nat) : State := { s with trig := { s.trig with raised := [(line, some ⟨s.now, 0, 0, 0, false⟩)] } }
def wWaiting : State := (runs on (.p 3) 0).modProcAt 19 (fun x => { x with wait := some ⟨0, 63, 4, 4095⟩ })

theorem test_meets_EventsAndTriggers_lines :
    let t := wordI 0x28 0 0 63
    let w := wordS 0x29 7 63 4095
    (runs on (.p 3) t).issues (.p 3) t = true ∧ (sets (runs on (.p 3) t) F.TRIG_SRC_MASK_HI TRIG 0x80000000 1).maskBit 1 63 20 = true
      ∧ ((sets (runs on (.p 3) t) F.TRIG_SRC_MASK_HI TRIG 0 1).maskBit 1 63 20) = false
      ∧ (wRaised (runs on (.p 3) w) 63).issues (.p 3) w = true ∧ ((wRaised (runs on (.p 3) w) 63).trig.raise? 63).isSome
      ∧ (runs on (.p 3) w).trig.raise? 63 = none ∧ (runs on (.p 3) (wordS 0x29 7 63 0)).issues (.p 3) (wordS 0x29 7 63 0) = true
      ∧ wWaiting.up = true ∧ (wWaiting.procAt 19).frozen = false ∧ (wWaiting.procAt 19).wait = some ⟨0, 63, 4, 4095⟩ := by decide

theorem test_meets_CheckValueUnits_instructions :
    (runs on (.p 3) (wordI 0x2A 0 1 (19 + 32 * 3))).issues (.p 3) (wordI 0x2A 0 1 (19 + 32 * 3)) = true
      ∧ (runs on (.p 3) (wordI 0x2B 31 0 19)).issues (.p 3) (wordI 0x2B 31 0 19) = true
      ∧ ((runs on (.p 3) (wordI 0x2B 31 0 19)).procAt 19).wq = []
      ∧ (runs on (.p 3) (wordI 0x2C 0 1 0)).issues (.p 3) (wordI 0x2C 0 1 0) = true
      ∧ (runs on (.p 3) (wordI 0x2D 0 0 (7 + 8 * 15))).issues (.p 3) (wordI 0x2D 0 0 (7 + 8 * 15)) = true := by decide

/-! Graov-S. -/

theorem test_meets_VectorOperations : ∀ op : Fin 12,
    (runs on (.s 31) (wordR 0x33 7 7 7 (op.val + 16 * 31))).issues (.s 31) (wordR 0x33 7 7 7 (op.val + 16 * 31)) = true
      ∧ (runs on (.s 31) (wordR 0x33 0 0 0 op.val)).issues (.s 31) (wordR 0x33 0 0 0 op.val) = true := by decide

theorem test_meets_FiltersAndTrellis :
    (∀ size : Fin 4, (runs on (.s 0) (wordM 0x31 7 7 7 size.val 2047)).issues (.s 0) (wordM 0x31 7 7 7 size.val 2047) = true)
      ∧ (runs on (.s 0) (wordR 0x30 7 31 31 0)).issues (.s 0) (wordR 0x30 7 31 31 0) = true
      ∧ (∀ op : Fin 4, (runs on (.s 0) (wordR 0x33 0 31 0 (8 + op.val + 16 * 31))).issues (.s 0) (wordR 0x33 0 31 0 (8 + op.val + 16 * 31)) = true)
      ∧ (runs on (.s 0) (wordR 0x33 0 0 0 (10 + 16 * 31))).issues (.s 0) (wordR 0x33 0 0 0 (10 + 16 * 31)) = true
      ∧ (∀ x : Fin 2, (runs on (.s 0) (wordR 0x32 7 0 7 (7 + 8 * x.val))).issues (.s 0) (wordR 0x32 7 0 7 (7 + 8 * x.val)) = true) := by decide

/-! Program commands. -/

/-- The image of a patch sequencer's other page. -/
def wStaged (m : Image) (s : State) : State := s.modProcAt 19 (fun x => { x with imgs := [((s.rd F.LIVE_PAGE (s.seqBase 19) + 1) % 2, m)] })

/-- A command for patch 3, and the command as it stands. -/
def wProg (op : Nat) (ph : Phase := .fresh) (s : State := on) : State := asking s op 0 3 0 [] ph
def dProg (op : Nat) (ph : Phase := .fresh) : DispCmd := ⟨ref, entry op 0 3 0 [], 0, ph, .ok⟩

/-- A start of the sequencer's program that waits. -/
def wStartWaits : State := (wProg 1).modProcAt 19 (fun x => { x with cmds := [(0, .start ref)] })

/-- An image that is admitted by the rules (one done), one that is not (no code), and one that was admitted. -/
def mGood : Image := { Image.none_ with loaded := true, crcOk := true, hdr := [0x10101], code := [wordR 0x22 0 0 0 0] }
def mBad : Image := { Image.none_ with loaded := true }
def mAdmitted : Image := { Image.none_ with loaded := true, admitted := true }

theorem test_meets_ProgramCommands :
    (∀ op : Fin 5, (wProg (op.val + 1)).up = true ∧ (wProg (op.val + 1)).cmdOf ref (op.val + 1) .fresh = some (dProg (op.val + 1)))
      ∧ ¬ ((dProg 1).tkind = 0 ∧ (wProg 1).hover (dProg 1).target = true) ∧ (wProg 1).startWaits (dProg 1).procKey (dProg 1).slot = false
      ∧ wStartWaits.startWaits (dProg 1).procKey (dProg 1).slot = true
      ∧ ((dProg 1).tkind = 0 ∧ (wProg 1 .fresh (on.wr F.LPM_HOVER DEV 1 3)).hover (dProg 1).target = true)
      ∧ (dProg 2).procKey = 19
      ∧ ((wStaged mGood (wProg 2)).procAt 19).img 1 = mGood ∧ mGood.loaded = true ∧ (judgeImage 1 ((wProg 2).rd F.BUD_B_ADMIT DEV) mGood).1.reason = 0
      ∧ ((wStaged mBad (wProg 2)).procAt 19).img 1 = mBad ∧ (judgeImage 1 ((wProg 2).rd F.BUD_B_ADMIT DEV) mBad).1.reason ≠ 0
      ∧ (judgeImage 1 ((wProg 2).rd F.BUD_B_ADMIT DEV) mBad).1.reason ≠ reasonBUDGET
      ∧ (judgeImage 1 (((wStaged mGood (wProg 2)).wr F.BUD_B_ADMIT DEV 0).rd F.BUD_B_ADMIT DEV) mGood).1.reason = reasonBUDGET
      ∧ ((wProg 2).procAt 19).img 1 = Image.none_ ∧ Image.none_.loaded = false
      ∧ (((wStaged mAdmitted (wProg 3)).procAt 19).img 1).admitted = true ∧ (((wProg 3).procAt 19).img 1).admitted = false
      ∧ (wProg 1 .reading).cmdOf ref 1 .reading = some (dProg 1 .reading) ∧ (wProg 1 .reading).host.d3 = false := by decide

/-! Lanes and ribbons. -/

/-- Rows of each access code: a one-bit RW field, a W1C and an RC field. -/
theorem test_meets_FieldWriteRules : ∀ r ∈ [(⟨.cfg, F.SYNC_REJECTS, 1, 1, .w1c, (fun _ _ => 0), .any⟩ : RegRow),
    ⟨.cfg, F.LN_PREFILL, 1, 1, .rw, (fun _ _ => 0), .any⟩, ⟨.cfg, F.ABANDON, 1, 1, .rc, (fun _ _ => 0), .any⟩],
    r.f.lo ≤ r.f.hi ∧ r.f.hi < 32 := by decide

/-- A device in release with lane 255, the last, in a state and with a transmitter. -/
def wLane (st : Nat) : State := ((on.wr F.LN_LSTATE (RIBBON 31) st 7).wr F.LN_TX_EN (RIBBON 31) 1 7).modLane 255 (fun x => { x with sending := true })

theorem test_meets_LaneSettings :
    on.up = true ∧ (on.laneAt 255).group.2 = 1 ∧ locate 0xFFFFC = none ∧ locate (F.LN_RX_EN.at (RIBBON 33) 7 0) ≠ none := by decide

theorem test_meets_LaneStates :
    (wLane 1).lanesOn = true ∧ (wLane 3).lanesOn = true ∧ (wLane 2).lanesOn = true ∧ (wLane 1).ln F.LN_LSTATE 255 = 1 ∧ (wLane 1).rxBusy 255 = false
      ∧ (wLane 2).ln F.LN_LSTATE 255 = 2 ∧ (wLane 3).ln F.LN_LSTATE 255 = 3 ∧ (wLane 3).rxBusy 255 = false
      ∧ (wLane 3).ln F.LN_LSTATE 255 ≠ 4 ∧ 1 ≤ (5 : BitVec 4).toNat ∧ (5 : BitVec 4).toNat ≤ 5 := by decide

/-- A ribbon whose move has run its time. -/
def wMoved : State := on.modRib 31 (fun x => { x with moveTo := some 33, moveLeft := 0 })

/-- An open quiet window of one lane with no stitch left. -/
def wQuiet : State := on.wr F.Q_OPEN (RIBBON 31) 1 7

/-- A lane request by its kind, and one that runs on lane 255 and has come to its end. -/
def wLaneReq (kind : Nat) : State := asking on 0x28 0 255 3 [kind]
def dLaneReq (kind : Nat) : DispCmd := ⟨ref, entry 0x28 0 255 3 [kind], 0, .fresh, .ok⟩
def wLaneEnd (kind outside : Nat) : State := (asking on 0x28 0 255 3 [kind] .running).modLane 255 (fun x => { x with
  runs := [⟨ref, kind, false, 0, outside, true⟩] })

theorem test_meets_LaneRequests :
    (wLane 2).txRuns 255 = true ∧ ((wLane 2).laneAt 255).sending = true ∧ ((wLane 2).laneAt 255).level = 0 ∧ (on.ribAt 31).moveTo = none
      ∧ (wMoved.ribAt 31).moveTo = some 33 ∧ (wMoved.ribAt 31).moveLeft = 0 ∧ 33 ≠ wMoved.rsp 31
      ∧ wQuiet.up = true ∧ wQuiet.ln F.Q_OPEN 255 = 1 ∧ wQuiet.ln F.Q_QUIET_LEN 255 = 0 ∧ on.cfg.released = true ∧ on.posView (on.ppos 15) = .normal
      ∧ (∀ k : Fin 5, (wLaneReq k.val).cmdOf ref 0x28 .fresh = some (dLaneReq k.val) ∧ (dLaneReq k.val).param 8 1 = k.val ∧ (dLaneReq k.val).tkind = 3
        ∧ (dLaneReq k.val).opcode ≠ 0x29)
      ∧ ((wLaneEnd 4 3).laneAt 255).runs.find? (fun q => q.left == 0) = some ⟨ref, 4, false, 0, 3, true⟩ ∧ (wLaneEnd 4 3).up = true := by decide

/-- A unit on lane 255, a raw block, and the lane's elastic buffer with two units that wait and with its 4 KiB full. -/
def wUnit : RxUnit := ⟨.whole, [1, 2, 3, 4, 5, 6, 7, 8], [], false, false, false, 0, [], 0⟩
def wWaits (l : List RxUnit) : State := (wLane 2).modLane 255 (fun x => { x with eb := l.map (fun u => ⟨some u, on.now, 0⟩) })
def wLong : RxUnit := { wUnit with bytes := List.replicate 2048 0 }

theorem test_meets_ReceivedUnits :
    (wLane 2).lanesOn = true ∧ (wLane 2).firstLane 255 = 255 ∧ (wLane 2).groupUp 255 = true ∧ (wLane 2).laneSlot 255 = some (15, 15)
      ∧ unitFits wUnit ((wLane 2).pcsOf 255) = true ∧ (wLane 2).stack.late = [] ∧ wUnit.bytes.length ≤ (wLane 2).ebRoom 255
      ∧ ((wLane 2).laneAt 255).eb = [] ∧ (wLane 2).takesUnits 15 = true ∧ ({ wLane 2 with fabs := [] } : State).takesUnits 15 = false
      ∧ ({ wLane 2 with fabs := [] } : State).unitsWait 15 = false ∧ ({ wLane 2 with fabs := [] } : State).groupUp 255 = true := by decide

theorem test_meets_ReceivedUnits_waiting :
    ((wLane 2).wr F.POS_STATE DEV 3 16).takesUnits 15 = false ∧ ((wLane 2).wr F.POS_STATE DEV 3 16).unitsWait 15 = true
      ∧ ((wLane 2).wr F.RMAP_UNB DEV 1 31).laneSlot 255 = none
      ∧ ((wWaits [wUnit, wUnit]).laneAt 255).eb ≠ [] ∧ ebLevel ((wWaits [wUnit, wUnit]).laneAt 255).eb + 8 ≤ (wWaits [wUnit, wUnit]).ebRoom 255
      ∧ ((wWaits [wLong, wLong]).laneAt 255).eb.length = 2 ∧ ebLevel (((wWaits [wLong, wLong]).laneAt 255).eb.take 1) + 8 ≤ 4096
      ∧ 4096 < ebLevel (((wWaits [wLong, wLong]).laneAt 255).eb.take 2) + 8 ∧ (wWaits [wLong, wLong]).ebRoom 255 = 4096 := by decide

/-! Time. -/

/-- A device that follows a head device, one with a change announced for this boundary, and one in which a change is pending. -/
def wFollower : State := (on.wr F.SYS_STATE DEV 2).wr F.SYS_DEVNUM DEV 5
def wDue : State := { (on.wr F.STC_PEND DEV 1) with time := { on.time with due := 1, newN := 128 } }

theorem test_meets_PeriodChanges :
    on.up = true ∧ on.follower = false ∧ (on.wr F.STC_PEND DEV 1).rd F.STC_PEND DEV = 1 ∧ wFollower.up = true ∧ wFollower.follower = true
      ∧ wDue.up = true ∧ wDue.time.due = 1 ∧ wDue.rd F.STC_PEND DEV = 1 ∧ 1 ≤ wDue.time.newN ∧ wDue.time.newN ≤ 128 := by decide

/-- A device before its first stitch, and one told to align. -/
def wFirst : State := { on with time := { on.time with counting := false } }
def wAligned : State := { on with sys := { on.sys with align := some ⟨7, 2, 900, 0⟩ } }

theorem test_meets_StitchCounter :
    on.halted = false ∧ on.time.counting = true ∧ on.sys.align = none ∧ on.sys.alignEpoch = none ∧ wFirst.time.counting = false
      ∧ wAligned.time.counting = true ∧ wAligned.sys.align = some ⟨7, 2, 900, 0⟩ ∧ on.clk.locked = true ∧ on.sys.resetAt = none := by decide

/-- A device that the edges on SYNC_IN reach, with its last accepted edge and a root time. -/
def wSync (last : Option Nat) (now : Nat) : State :=
  let s := sets on F.SYNC_EFFECTIVE CLK 2
  { s with time := { s.time with syncRef := last, run := now, expected := 3200000000 } }

theorem test_meets_SyncEdgesAndHoldover :
    (wSync none 5).up = true ∧ (wSync none 5).rd F.SYNC_EFFECTIVE CLK = 2 ∧ (wSync none 5).time.degraded = false ∧ (wSync none 5).time.syncRef = none
      ∧ ({ wSync none 5 with time := { (wSync none 5).time with degraded := true } } : State).time.degraded = true
      ∧ (wSync (some 0) 3200640000).time.syncRef = some 0 ∧ ((wSync (some 0) 3200640000).tick 0).rootNow = 3200640000
      ∧ (((3200640000 - 0 : Nat) : Int) - 3200000000 * (1 : Nat)).natAbs ≤ 3200 * 1 * (wSync (some 0) 3200640000).rd F.SYNC_WINDOW CLK
      ∧ 2 * (((3200640000 - 0 : Nat) : Int) - 3200000000 * (1 : Nat)).natAbs < 3200000000
      ∧ ((wSync (some 0) 1599999999).tick 0).rootNow = 1599999999 ∧ (wSync (some 0) 1599999999).rd F.SYNC_WINDOW CLK = 200
      ∧ (wSync (some 0) 4800000000).rd F.SYNC_IN_HOLD CLK = 0
      ∧ max (wSync (some 0) 4800000000).time.discFrom (wSync (some 0) 4800000000).time.accepted + 4800000000
        ≤ ((wSync (some 0) 4800000000).tick 0).rootNow := by decide

/-- An edge at half a second is in no window: a window of k seconds begins at 3,199,360,000 root cycles for each of them. -/
theorem test_meets_SyncEdgesAndHoldover_rejects :
    ∀ k : Nat, ¬ (1 ≤ k ∧ (((1599999999 - 0 : Nat) : Int) - 3200000000 * k).natAbs ≤ 3200 * k * 200) := by
  intro k h; omega

/-! The fabric of a logical patch. -/

/-- Patch 15 with a bus line re-enabled some stitches ago. -/
def wLine (ago : Nat) : State := withFab on 15 (fun x => { x with lines := [⟨true, 511, false, false, [], some (on.stitch - BitVec.ofNat 64 ago)⟩] })

/-- Patch 15 in the freeze of its handover. -/
def wFrozen : State := (((on.wr F.POS_STATE DEV 2 16).wr F.RES_FROM RES 16).wr F.RES_PHASE RES 2).wr F.LPM_HOVER DEV 1 15

/-- Patch 15 with a plane load under way. -/
def wPlane : State := on.wr F.PLS_LOADING (on.pb 15) 1

theorem test_meets_ContentionAndPlanes :
    (wLine 1024).fabricRuns 15 = true ∧ ((wLine 1024).fabAt 15).lines.find? (fun x => x.half == true && x.line == 511) ≠ none
      ∧ (∀ x ∈ ((wLine 1024).fabAt 15).lines, x.off = false) ∧ (on.fabAt 15).lines = []
      ∧ on.stackOn = true ∧ on.silent .patch 0x100 = false ∧ F.PLC_LOAD_GO.wants 8 15 = 1 ∧ F.PLC_SWAP.wants 16 15 = 1 ∧ on.posView (on.ppos 15) = .normal
      ∧ wFrozen.stackOn = true ∧ wFrozen.posView (wFrozen.ppos 15) = .frozen ∧ (on.wr F.POS_STATE DEV 3 16).posView ((on.wr F.POS_STATE DEV 3 16).ppos 15) = .own
      ∧ wPlane.stackOn = true ∧ wPlane.hover 15 = false ∧ wPlane.rd F.PLS_LOADING (wPlane.pb 15) = 1 ∧ (wPlane.fabAt 15).loadDone = false
      ∧ (wPlane.fabAt 15).loadLeft + 8 ≤ wPlane.period := by decide

/-- A plane of one cell, whose flip-flop starts at 1 and carries its own value, and with one driver site on a bus line. -/
def wCell : CellCfg := ⟨.logic, 0, .low, .low, .low, .low, .low, none, false, none, none, 0, true, 1, 0, 0⟩
def wLogic : Plane := [(0, [.cell true 65535 wCell, .driver true 4095 7 .low .low])]

theorem test_meets_ContentionAndPlanes_logic :
    cellAt (planeItems wLogic) 131071 = some wCell ∧ ((planeCells (planeItems wLogic)).map (fun x => x.1)).Nodup
      ∧ wCell.ffCarry = 1 ∧ wCell.ffInit = true ∧ lineDrivers (planeItems wLogic) true 511 = [(4095, .low, .low)]
      ∧ lineDrivers (planeItems wLogic) true 510 = [] := by decide

/-- Bank 7 of patch 15 in a mode, with an owner and a level. -/
def wQueue (mode owner level : Nat) : State :=
  let s := sets on F.QC_MODE (on.pb 15) mode 7
  s.setBank (s.ppos 15) 7 { s.bankAt (s.ppos 15) 7 with owner := owner, qhead := 3, qtail := (3 + level) % 131072, qlevel := level }

/-- An entry of eight bytes. -/
def wEntry : List Byte := [1, 2, 3, 4, 5, 6, 7, 8]

theorem test_meets_QueuesAndPorts :
    (wQueue 1 15 0).fabricRuns 15 = true ∧ (wQueue 1 15 0).erd F.QC_MODE ((wQueue 1 15 0).pb 15) 7 = 1 ∧ wEntry.length = (wQueue 1 15 0).entrySize 15 7
      ∧ ((wQueue 1 15 0).bankAt ((wQueue 1 15 0).ppos 15) 7).owner = 15
      ∧ ((wQueue 1 15 131071).bankAt ((wQueue 1 15 131071).ppos 15) 7).qlevel < (wQueue 1 15 131071).queueRoom 15 7
      ∧ (wQueue 1 15 131072).queueRoom 15 7 ≤ ((wQueue 1 15 131072).bankAt ((wQueue 1 15 131072).ppos 15) 7).qlevel
      ∧ (wQueue 2 15 131072).erd F.QC_MODE ((wQueue 2 15 131072).pb 15) 7 = 2
      ∧ (wQueue 2 15 131072).queueRoom 15 7 ≤ ((wQueue 2 15 131072).bankAt ((wQueue 2 15 131072).ppos 15) 7).qlevel
      ∧ ((wQueue 2 15 131072).bankAt ((wQueue 2 15 131072).ppos 15) 7).qtail < (wQueue 2 15 131072).queueRoom 15 7
      ∧ ¬ ((wQueue 1 0 1).bankAt ((wQueue 1 0 1).ppos 15) 7).owner = 15
      ∧ (wQueue 0 15 0).erd F.QC_MODE ((wQueue 0 15 0).pb 15) 7 = 0 ∧ (wQueue 0 15 0).fabricRuns 15 = true
      ∧ ((wQueue 0 15 0).bankAt ((wQueue 0 15 0).ppos 15) 7).owner = 8 + (7 : Fin 8).val
      ∧ (wQueue 0 15 0).bankPoison ((wQueue 0 15 0).ppos 15) 7 131071 = false
      ∧ ¬ ((wQueue 0 0 0).bankAt ((wQueue 0 0 0).ppos 15) 7).owner = 8 + (7 : Fin 8).val := by decide

/-- A message of one flit for patch 0, and patch 15 with it in its send queue. -/
def wMsg : XMsg := ⟨0, false, [0], 0, [0]⟩
def wXchg : State := withFab on 15 (fun x => { x with sendQ := [wMsg] })

/-- Patch 15 with a lane that transmits what the fabric sends. -/
def wTx : State := let s := sets on F.PSLOT_SRC (on.pb 15) 2 15; s.wr F.LN_TX_EN (RIBBON 31) 1 7

theorem test_meets_ExchangeAndTransmitPort :
    on.fabricRuns 15 = true ∧ [(0 : BitVec 128)].length = field (([(0 : BitVec 128)]).headD 0).toNat 12 9 + 1 ∧ (on.fabAt 15).sending + 16 ≤ 64
      ∧ wXchg.clockNow 0 = wXchg ∧ wXchg.stackOn = true ∧ (wXchg.waitingFor 0).head? = some 15 ∧ wXchg.hover 0 = false ∧ wXchg.hover 15 = false
      ∧ takeMsg 0 (wXchg.fabAt 15).sendQ = some (wMsg, []) ∧ wXchg.patchLive 0 = true ∧ (wXchg.fabAt 0).recvQ.length + wMsg.flits.length ≤ 64
      ∧ (withFab wXchg 0 (fun x => { x with released := false })).patchLive 0 = false
      ∧ 64 < ((withFab wXchg 0 (fun x => { x with recvQ := List.replicate 64 0, edge := 64 })).fabAt 0).recvQ.length + wMsg.flits.length
      ∧ (withFab wXchg 0 (fun x => { x with recvQ := List.replicate 64 0, edge := 64 })).clockNow 0
        = withFab wXchg 0 (fun x => { x with recvQ := List.replicate 64 0, edge := 64 })
      ∧ wTx.fabricRuns 15 = true ∧ wTx.slotLane 15 15 = some 255 ∧ wTx.txReady 15 15 = true := by decide

/-! Capture. -/

/-- A unit on slot 15 of patch 15, and patch 15 capturing with it. -/
def uUnit (arriving : Bool) : CapUnit :=
  ⟨15, 65535, 255, on.now, 2, [1, 2, 3, 4], [], false, false, false, false, false, false, false, 0, 0, 0, arriving, none, false, on.stitch + 2, false, true, false⟩
def wCap (u : CapUnit) (state : Nat) : State :=
  let s := on.wr F.CAPS_STATE (on.pb 15) state
  let t := (s.setBank (s.ppos 15) 3 { s.bankAt (s.ppos 15) 3 with owner := 1 })
  let v := t.setBank (s.ppos 15) 0 { s.bankAt (s.ppos 15) 0 with owner := 1 }
  v.modCap 15 (fun x => { x with units := [u] })
def isUnit (u : CapUnit) : Bool := u.slot == 15 && u.unit == 65535 && u.live && !u.novd && !on.windowOver u


theorem test_meets_VerdictsAndRecords_verdicts :
    (wCap (uUnit true) 1).fabricRuns 15 = true ∧ ((wCap (uUnit true) 1).capAt 15).units.find? isUnit = some (uUnit true) ∧ (uUnit true).verdict = none ∧ (uUnit true).out = false
      ∧ (uUnit true).arriving = true ∧ ((wCap (uUnit false) 1).capAt 15).units.find? isUnit = some (uUnit false) ∧ (uUnit false).arriving = false
      ∧ (uUnit false).slot < 16 ∧ (on.capAt 15).units.find? isUnit = none
      ∧ ((wCap { uUnit false with out := true } 1).capAt 15).units.find? isUnit = some { uUnit false with out := true } := by decide

/-- Patch 15 with a record in its queue, and without room in staging. -/
def wRec : CapRec := ⟨0, List.replicate 64 0, 0, 0, 0, 0, none, 0, 0, Placing.none⟩
def wFull : State := (wCap (uUnit false) 1).modCap 15 (fun x => { x with queue := [wRec] })
def wNoRoom : State := wFull.setBank (wFull.ppos 15) 3 { wFull.bankAt (wFull.ppos 15) 3 with owner := 0 }

/-- A unit whose window is over, and one whose window closes at the end of the stitch. -/
def uOver : CapUnit := { uUnit false with due := on.stitch }
def uDue : CapUnit := { uUnit false with due := on.stitch + 1 }

/-- A stream chunk of slot 15 comes to a capture that runs, and one that has been cut. -/
def wStream : State := (sets (wCap (uUnit false) 1) F.CSLOT_EN (on.pb 15) 1 15).wr F.LN_LSTATE (RIBBON 31) 2 7
def wCutChunk : State := wStream.cutChunk 15 15 255

theorem test_meets_VerdictsAndRecords_records :
    let s := wCap (uUnit false) 1
    let n := recordSize (uUnit false).payload.length
    n = 64 ∧ (s.capAt 15).queued + n ≤ s.stagingSize 15 ∧ s.postReached 15 = false ∧ (s.capAt 15).after s.fabCycle 15 = [] ∧ s.capState 15 = 1
      ∧ (s.capAt 15).pl.wpos + n ≤ (s.capAt 15).cfg.segStart (s.rd F.CAPS_SEG_NOW (s.pb 15)) + (s.capAt 15).cfg.zone ∧ s.guardHit 15 n = false
      ∧ wNoRoom.stagingSize 15 < (wNoRoom.capAt 15).queued + n ∧ wNoRoom.postReached 15 = false ∧ wNoRoom.fabricRuns 15 = true
      ∧ s.hardRuns 15 = true ∧ (s.capAt 15).units = [uUnit false] ∧ (uUnit false).unit = 65535 := by decide

theorem test_meets_VerdictsAndRecords_windows :
    (uDue.live && !uDue.arriving && !uDue.closed && decide (uDue.due.toNat ≤ on.stitch.toNat + 1)) = true
      ∧ ((wCap uOver 1).capAt 15).units.filter (fun u => (wCap uOver 1).windowOver u) = [uOver]
      ∧ (wCap uOver 1).posView ((wCap uOver 1).ppos 15) = .normal ∧ uOver.verdict = none ∧ uOver.out = false
      ∧ (wStream.capAt 15).cuts.find? (fun e => e.1 == 15) = none ∧ wStream.slotLane 15 15 = some 255 ∧ wStream.streams 15 15 255 = true
      ∧ ((wCutChunk.capAt 15).cuts.find? (fun e => e.1 == 15)).map (fun e => (e.2.stitch == wCutChunk.stitch, e.2.off)) = some (true, 8) := by decide

/-- Commands of a spool to the capture engine of patch 15, and a capture of segments. -/
def wCapCmd (cmd state : Nat) : State := asking (wCap (uUnit false) state) 0x18 0 15 0 [cmd]
def dCapCmd (cmd : Nat) : DispCmd := ⟨ref, entry 0x18 0 15 0 [cmd], 0, .fresh, .ok⟩
def wSegs : State := (wCapCmd 2 1).modCap 15 (fun x => { x with cfg := { x.cfg with mode := 2, segCount := 4096 } })

theorem test_meets_CaptureControl :
    (∀ i : Fin 5, (wCapCmd i.val 1).patchLive 15 = true ∧ (wCapCmd i.val 1).cmdOf ref 0x18 .fresh = some (dCapCmd i.val)
        ∧ (dCapCmd i.val).target = 15 ∧ (dCapCmd i.val).param 8 1 = i.val)
      ∧ (wCapCmd 1 1).posView ((wCapCmd 1 1).ppos 15) = .normal ∧ (wCapCmd 1 1).silent .patch F.CAP_CMD.off = false ∧ (wCapCmd 1 1).rd F.CAPS_STATE ((wCapCmd 1 1).pb 15) = 1
      ∧ ((wCapCmd 1 1).capAt 15).cfg.preWait = false ∧ (wCapCmd 1 0).rd F.CAPS_STATE ((wCapCmd 1 0).pb 15) ≠ 1
      ∧ wSegs.capRuns 15 = true ∧ (wSegs.capAt 15).cfg.mode = 2 ∧ wSegs.rd F.CAPS_SEG_NOW (wSegs.pb 15) + 1 < (wSegs.capAt 15).cfg.segCount
      ∧ (wSegs.capAt 15).cfg.segCount ≤ 4096 ∧ ((wCapCmd 2 1).capAt 15).cfg.mode ≠ 2 := by decide

/-- A capture that has all the records it asked for after its trigger. -/
def wPost (mode segs : Nat) : State := (wCap (uUnit false) 2).modCap 15 (fun x => { x with cfg := { x.cfg with mode := mode, segCount := segs } })

theorem test_meets_CaptureControl_drains :
    wFull.hardRuns 15 = true ∧ (wFull.capAt 15).queue = wRec :: [] ∧ wFull.inReset 3 = false ∧ (wFull.capAt 15).closes = []
      ∧ (wPost 0 1).postReached 15 = true ∧ ((wPost 0 1).capAt 15).cfg.mode ≠ 2
      ∧ (wPost 2 1).postReached 15 = true ∧ ((wPost 2 1).capAt 15).cfg.mode = 2
      ∧ ((wPost 2 1).capAt 15).cfg.segCount ≤ (wPost 2 1).rd F.CAPS_SEG_NOW ((wPost 2 1).pb 15) + 1 ∧ ((wPost 2 1).capAt 15).cfg.segWrap = false
      ∧ ((on.wr F.CAPS_STATE (on.pb 15) 3).capState 15) = 3 ∧ (on.capAt 15).queue = [] ∧ (on.capAt 15).units = [] := by decide

/-- Offload commands, and a channel in use with a page to send and a buffer of some pages. -/
def wOff (op : Nat) (ps : List Nat) : State := asking on op 0 15 0 ps
def dOff (op : Nat) (ps : List Nat) : DispCmd := ⟨ref, entry op 0 15 0 ps, 0, .fresh, .ok⟩
def chSt (buf : Nat) : ChanSt := ⟨ref, true, none, 0, [(0, 0)], 0, 0, 0, buf, 0x1000, 0x2000, 0x3000, 1, none, false⟩
def wChan (buf : Nat) (s : State := on) : State := { s with host := { s.host with chans := [(0, chSt buf)] } }

theorem test_meets_Offloads :
    (wOff 0x20 [1]).up = true ∧ (wOff 0x20 [1]).cmdOf ref 0x20 .fresh = some (dOff 0x20 [1]) ∧ bitAt ((dOff 0x20 [1]).param 8 1) 0 = true
      ∧ bitAt ((dOff 0x20 [2]).param 8 1) 0 = false ∧ (wOff 0x20 [2]).cmdOf ref 0x20 .fresh = some (dOff 0x20 [2])
      ∧ (dOff 0x20 [2, 0, 1]).chan = 0 ∧ (wOff 0x20 [2, 0, 1]).offloadNothing (dOff 0x20 [2, 0, 1]) 15 = true
      ∧ (wOff 0x20 [1]).offloadNothing (dOff 0x20 [1]) 15 = false ∧ (wOff 0x20 [1]).rd F.BOLT_OUT (BOLT 15) = 0
      ∧ ((wChan 1 (wOff 0x20 [1])).host.chans.find? (fun e => e.1 == 0)).isSome = true
      ∧ ((wChan 1).host.chans.find? (fun e => e.1 == 0)) = some (0, chSt 1) ∧ (wChan 1).up = true ∧ (wChan 1).host.d3 = false
      ∧ (wChan 1).isHead = true ∧ (wChan 1).inReset 3 = false ∧ (wChan 1).nextChan = some 0 ∧ (chSt 1).queue = (0, 0) :: [] ∧ (wChan 0).chanRoom 0 (chSt 0) = false ∧ (wChan 1).chanRoom 0 (chSt 1) = true
      ∧ (wOff 0x21 []).cmdOf ref 0x21 .fresh = some (dOff 0x21 []) := by decide

/-! The host interface. -/

/-- Spool 15 switched on, with entries to fetch, and after a failed read. -/
def wSpool (retried : Bool) : State :=
  let s := (((on.wr F.SP_EN HOST 1 15).wr F.SP_PI HOST 0 15).wr F.SP_CI HOST 4095 15).wr F.SP_DEPTH HOST 4096 15
  { s with host := { s.host with spools := [(15, { on.spoolAt 15 with depth := 4096, retried := retried })] } }

theorem test_meets_SpoolsAndResults_rings :
    (wSpool false).clk.locked = true ∧ (wSpool false).rd F.SP_EN HOST 15 = 1 ∧ (wSpool false).host.d3 = false
      ∧ (wSpool false).rd F.SP_CI HOST 15 ≠ (wSpool false).rd F.SP_PI HOST 15 ∧ ((wSpool false).spoolAt 15).fetched.length < 64
      ∧ ((wSpool false).spoolAt 15).depth ≤ 4096 ∧ 0 < ((wSpool false).spoolAt 15).depth ∧ on.up = true ∧ on.rd F.SP_EN HOST 15 = 0
      ∧ (1 : W32).toNat % 2 = 1 ∧ (0xFFFFFFFE : W32).toNat % 2 = 0 := by decide

/-- A command with an earlier one of its spool at work, and spool 15's slot 255 in a state. -/
def wFenced : State :=
  { on with host := { on.host with cmds := [⟨ref, entry 0x3F 0 0 0 [], 0, .fresh, .ok⟩, ⟨⟨false, 0, 0⟩, entry 0 0 0 0 [], 0, .running, .ok⟩] } }
def wSlot (state : Nat) : State :=
  { on with host := { on.host with slots := [(256 * 15 + 255, ⟨65535, state, 0, 0, 0, [], true⟩)] } }

/-- Vector 63 masked and pending. -/
def wVector : State :=
  let s := on.wr F.MSIX_PBA HOST 0x80000000 1
  { s with host := { s.host with master := true } }

theorem test_meets_SpoolsAndResults_results :
    (asking on 0 0 0 0 []).cmdOf ref 0 .fresh = some ⟨ref, entry 0 0 0 0 [], 0, .fresh, .ok⟩
      ∧ (asking on 0x3F 0 0 0 []).cmdOf ref 0x3F .fresh = some ⟨ref, entry 0x3F 0 0 0 [], 0, .fresh, .ok⟩
      ∧ (asking on 0x3F 0 0 0 []).fenced ref = false ∧ wFenced.fenced ref = true
      ∧ (wSlot 2).clk.locked = true ∧ ((wSlot 2).slotAt 15 255).state = 2 ∧ ((wSlot 2).slotAt 15 255).seq.toNat = (0xFFFF : W32).toNat % 65536
      ∧ ((wSlot 1).slotAt 15 255).state ≠ 2 ∧ ((wSlot 2).slotAt 15 255).seq.toNat ≠ (0 : W32).toNat % 65536
      ∧ wVector.up = true ∧ wVector.rd F.MSIX_CTRL HOST 63 = 1 ∧ bitAt (wVector.rd F.MSIX_PBA HOST 1) 31 = true ∧ wVector.host.d3 = false ∧ wVector.host.master = true
      ∧ (wVector.wr F.MSIX_CTRL HOST 0 63).rd F.MSIX_CTRL HOST 63 = 0 := by decide

/-- A bolt transfer's command. -/
def wBoltCmd (op len : Nat) (ph : Phase) : State := asking on op 0 15 0 ([0, 16, 0, 0, 0, 0, 0, 0, 0, 0, 0, 0, len]) ph
def dBoltCmd (op len : Nat) (ph : Phase) : DispCmd := ⟨ref, entry op 0 15 0 ([0, 16, 0, 0, 0, 0, 0, 0, 0, 0, 0, 0, len]), 0, ph, .ok⟩

theorem test_meets_BoltTransfers :
    (wBoltCmd 0x22 8 .fresh).up = true ∧ (wBoltCmd 0x22 8 .fresh).cmdOf ref 0x22 .fresh = some (dBoltCmd 0x22 8 .fresh)
      ∧ (wBoltCmd 0x22 8 .fresh).rd F.BOLT_OUT (BOLT 15) = 0 ∧ ((wBoltCmd 0x22 8 .fresh).wr F.BOLT_OUT (BOLT 15) 1).rd F.BOLT_OUT (BOLT 15) = 1
      ∧ (wBoltCmd 0x23 8 .fresh).cmdOf ref 0x23 .fresh = some (dBoltCmd 0x23 8 .fresh) ∧ (wBoltCmd 0x23 8 .fresh).isHead = true
      ∧ (wBoltCmd 0x23 8 .fresh).host.d3 = false ∧ ((wBoltCmd 0x23 8 .fresh).boltAt 15).meta_ = []
      ∧ (wBoltCmd 0x23 8 .running).cmd ref = some (dBoltCmd 0x23 8 .running) ∧ (dBoltCmd 0x23 8 .running).device = on.devnum := by decide

/-- A device whose link is up, and one in D3hot. -/
def wLink : State := on.wr F.HOST_DL_UP HOST 1
def wD3 : State := { wLink with host := { wLink.host with d3 := true } }

theorem test_meets_HostLink :
    on.start.vhk = true ∧ wLink.start.vhk = true ∧ wLink.rd F.HOST_DL_UP HOST = 1 ∧ wD3.host.d3 = true
      ∧ on.clk.locked = true ∧ 1 ≤ (6 : BitVec 3).toNat ∧ (6 : BitVec 3).toNat ≤ 6
      ∧ bitAt on.start.straps 1 = false ∧ (wLink.host.chans.map (fun e => e.1)).Nodup := by decide

/-- A head device of a system of two devices, the second of them halted, and one with an access under way. -/
def wSystem : State := (on.wr F.SYS_STATE DEV 2).wr F.SYS_COUNT DEV 2
def wHaltedPeer : State := wSystem.wr F.SYS_HALTED DEV 1 1
def wAccess : State := { wSystem with sys := { wSystem.sys with wins := [⟨1, .regRead 0 0 false, 0⟩] } }

/-- The same command with a binding that lands before its own and one that lands after it, of one patch or held for a drain. -/
def wBinds (held : Bool) : State :=
  let s := asking on 0x10 0 15 0 [31, 30]
  let l : List BindWrite := [⟨3, true, 5, 99, 0, none⟩, ⟨3, false, 6, 101, 0, none⟩]
  { s with time := { s.time with run := 100 }, stack := if held then { s.stack with heldBinds := l } else { s.stack with binds := l } }

theorem test_meets_BindingsAndWindow_order :
    (wBinds false).stack.binds = [⟨3, true, 5, 99, 0, none⟩] ++ [⟨3, false, 6, 101, 0, none⟩]
      ∧ (wBinds false).hover 15 = false ∧ ((wBinds true).wr F.LPM_HOVER DEV 1 15).hover 15 = true
      ∧ ((wBinds true).wr F.LPM_HOVER DEV 1 15).stack.heldBinds = [⟨3, true, 5, 99, 0, none⟩] ++ [⟨3, false, 6, 101, 0, none⟩]
      ∧ (∀ x ∈ ([⟨3, true, 5, 99, 0, none⟩] : List BindWrite), x.at_ < (wBinds true).time.run)
      ∧ (∀ x ∈ ([⟨3, false, 6, 101, 0, none⟩] : List BindWrite), (wBinds true).time.run < x.at_) := by decide

theorem test_meets_BindingsAndWindow :
    (asking on 0x10 0 15 0 [31, 30]).cmdOf ref 0x10 .fresh = some ⟨ref, entry 0x10 0 15 0 [31, 30], 0, .fresh, .ok⟩
      ∧ ((asking on 0x10 0 15 0 [31, 30]).wr F.LPM_HOVER DEV 1 15).hover 15 = true ∧ (asking on 0x10 0 15 0 [31, 30]).hover 15 = false
      ∧ wSystem.clk.locked = true ∧ wSystem.isHead = true ∧ wSystem.topDevice = 1 ∧ wSystem.topDevice < (63 : Device).val
      ∧ wSystem.rd F.SYS_HALTED DEV 1 = 0 ∧ 0x100000 ≤ (0x100000 : BitVec 24).toNat / 4 * 4 ∧ (0xFFFFF : BitVec 24).toNat / 4 * 4 < 0x100000
      ∧ wHaltedPeer.rd F.SYS_HALTED DEV 1 = 1 ∧ wHaltedPeer.topDevice = 1
      ∧ wAccess.sys.wins.find? (fun w => w.dev == 1) = some ⟨1, .regRead 0 0 false, 0⟩ ∧ wAccess.up = true ∧ (1 : Device).val ≠ wAccess.devnum := by decide

/-! The pattern engine. -/

/-- Patch 15 with a thread that runs the descriptor at its PC. -/
def wDesc (d : Nat) (pc : Nat := 0) : State :=
  let s := (((on.wr F.THR_STATE (on.pb 15) 1 3).wr F.THR_PC (on.pb 15) pc 3).wr F.PAT_DESC_COUNT (on.pb 15) 2)
  s.setBolt 15 { s.boltAt 15 with mem := putBytes [] (boltWrap (s.rd F.PAT_DESC_BASE (s.pb 15) * 4096)) (leBytes 16 d ++ leBytes 16 d) }

/-- The same with open loops and an overflow level. -/
def wLoops (d : Nat) (loops : List (Nat × Nat)) (ovf : Nat) : State := (wDesc d 1).modThread 15 3 (fun x => { x with loops := loops, ovf := ovf })
def four : List (Nat × Nat) := [(1, 0), (2, 1), (3, 1), (4, 1)]

/-- A thread that waits for a boundary, and one for its slots. -/
def wUntil : State := (on.wr F.THR_STATE (on.pb 15) 2 3).modThread 15 3 (fun x => { x with until_ := some on.stitch })
def wSyncs : State := (on.wr F.THR_STATE (on.pb 15) 2 3).modThread 15 3 (fun x => { x with sync := some 0xFFFF })

theorem test_meets_Descriptors :
    (wDesc 0 2).engineRuns 15 = true ∧ (wDesc 0 2).rd F.THR_STATE ((wDesc 0 2).pb 15) 3 = 1
      ∧ (wDesc 0 2).rd F.PAT_DESC_COUNT ((wDesc 0 2).pb 15) ≤ (wDesc 0 2).rd F.THR_PC ((wDesc 0 2).pb 15) 3
      ∧ (∀ op : Fin 16, (wDesc op.val 1).rd F.THR_PC ((wDesc op.val 1).pb 15) 3 < (wDesc op.val 1).rd F.PAT_DESC_COUNT ((wDesc op.val 1).pb 15)
        ∧ descOp ((wDesc op.val 1).descAt 15 3) = op.val)
      ∧ (((wLoops 2 (four.drop 1) 0).patAt 15).thread 3).loops.length < 4 ∧ 4 ≤ (((wLoops 2 four 0).patAt 15).thread 3).loops.length
      ∧ 0 < (((wLoops 3 four 1).patAt 15).thread 3).ovf ∧ (((wLoops 3 four 0).patAt 15).thread 3).ovf = 0
      ∧ (((wLoops 3 four 0).patAt 15).thread 3).loops = (1, 0) :: four.drop 1 ∧ (((wLoops 3 (four.drop 1) 0).patAt 15).thread 3).loops = (2, 1) :: four.drop 2
      ∧ (((wLoops 3 [] 0).patAt 15).thread 3).loops = []
      ∧ wUntil.engineRuns 15 = true ∧ ((wUntil.patAt 15).thread 3).until_ = some wUntil.stitch
      ∧ ((wSyncs.patAt 15).thread 3).sync = some 0xFFFF ∧ wSyncs.synced 15 3 0xFFFF = true := by decide

/-- A SEND of one record to slot 15, the record in the bolt, and the slot's queue. -/
def wSend (queue : Nat) : State :=
  let s := (wDesc (1 + 16 * 0x8000 + 2 * 2 ^ 64)).wr F.PSLOT_SRC (on.pb 15) 1 15
  let t := s.setBolt 15 { s.boltAt 15 with mem := putBytes (s.boltAt 15).mem 128 (leBytes 32 (1 * 2 ^ 88 + 4 * 2 ^ 112) ++ [1, 2, 3, 4]) }
  (t.setBank (on.ppos 15) 7 { on.bankAt (on.ppos 15) 7 with owner := 2 }).modPat 15 (fun x => { x with queues := [(15, List.replicate queue ⟨3, 0, 1, [1], 0, false, 0⟩)] })

theorem test_meets_PatternPlayback :
    (wSend 64).engineRuns 15 = true ∧ (wSend 64).rd F.THR_STATE ((wSend 64).pb 15) 3 = 1
      ∧ (wSend 64).rd F.THR_PC ((wSend 64).pb 15) 3 < (wSend 64).rd F.PAT_DESC_COUNT ((wSend 64).pb 15) ∧ descOp ((wSend 64).descAt 15 3) = 1
      ∧ ((wSend 64).descRead 15 3).2 = false ∧ ((wSend 63).descRead 15 3).2 = false
      ∧ (wSend 64).sendBlocked 15 (field ((wSend 64).descAt 15 3) 19 4) = true
      ∧ (wSend 63).sendBlocked 15 (field ((wSend 63).descAt 15 3) 19 4) = false ∧ max 1 (field ((wSend 63).descAt 15 3) 63 32) = 1
      ∧ (match (wSend 63).readRec 15 (64 * field ((wSend 63).descAt 15 3) 88 64) with | .ok kind slen _ => kind == 1 && slen == 4 | _ => false) = true
      ∧ (asking on 0x19 0 15 0 [1, 15]).cmdOf ref 0x19 .fresh = some ⟨ref, entry 0x19 0 15 0 [1, 15], 0, .fresh, .ok⟩
      ∧ (asking on 0x19 0 15 0 [1, 15]).patchLive 15 = true ∧ on.posView (on.ppos 15) = .normal
      ∧ on.silent .patch 0x600 = false ∧ on.silent .patch 0x77C = false ∧ on.stackOn = true
      ∧ ((wSend 63).wr F.LN_TX_EN (RIBBON 31) 1 7).patDelivers 15 = true
      ∧ ((wSend 63).wr F.LN_TX_EN (RIBBON 31) 1 7).prefetched 15 ⟨3, 0, 1, [1], 0, false, 0⟩ = true
      ∧ ((wSend 63).patAt 15).queue 15 = ⟨3, 0, 1, [1], 0, false, 0⟩ :: List.replicate 62 ⟨3, 0, 1, [1], 0, false, 0⟩
      ∧ ((wSend 63).wr F.LN_TX_EN (RIBBON 31) 1 7).slotLane 15 15 = some 255 ∧ ((wSend 63).patAt 15).queue 15 ≠ []
      ∧ ((wSend 63).wr F.LN_TX_EN (RIBBON 31) 1 7).txRuns 255 = true
      ∧ ((wSend 63).laneAt 255).level < 64 * (wSend 63).ln F.LN_PREFILL 255 ∧ bitsOf 16 16 (0x10000 : W32) = 1 := by decide

/-- Patch 15 with an action slot that is being staged, its record of a kind, and poisoned or not. -/
def wAction (kind : Nat) (poison : Bool) : State :=
  let s := on.setBank (on.ppos 15) 7 { on.bankAt (on.ppos 15) 7 with owner := 2 }
  let t := s.setBolt 15 { s.boltAt 15 with
    mem := putBytes [] (boltWrap (64 * s.rd F.ACT_REC (s.pb 15) 7)) (leBytes 32 (kind * 2 ^ 88 + 4 * 2 ^ 112) ++ [1, 2, 3, 4])
    meta_ := if poison then [(boltWrap (64 * s.rd F.ACT_REC (s.pb 15) 7) / 64, ⟨0, false, true⟩)] else [] }
  t.modPat 15 (fun x => { x with staging := [7] })

theorem test_meets_PatternPlayback_actions :
    (wAction 1 false).engineRuns 15 = true ∧ 7 ∈ ((wAction 1 false).patAt 15).staging ∧ (wAction 1 false).patBanks 15 ≠ 0
      ∧ (match (wAction 1 false).readRec 15 (64 * (wAction 1 false).rd F.ACT_REC ((wAction 1 false).pb 15) 7) with
        | .ok kind slen _ => kind == 1 && slen == 4 | _ => false) = true
      ∧ (match (wAction 3 false).readRec 15 (64 * (wAction 3 false).rd F.ACT_REC ((wAction 3 false).pb 15) 7) with
        | .ok kind _ _ => kind == 3 | _ => false) = true
      ∧ (match (wAction 1 true).readRec 15 (64 * (wAction 1 true).rd F.ACT_REC ((wAction 1 true).pb 15) 7) with
        | .poisonHead => true | _ => false) = true := by decide

/-! Memories. -/

/-- Position 17's window in use: an access to bank 7 that its owner is given for. -/
def wWindow (write : Bool) (owner : Nat) (poison : Bool) : State :=
  let s := on.wr F.BK_BUSY (PATCH 17) 1
  let t := s.setBank 17 7 { s.bankAt 17 7 with owner := owner, words := [(131071, 5)], poison := if poison then [(131071, true)] else [] }
  { t with bankWin := [(17, ⟨7, 131071, 9, write, 255⟩)] }
def wBoltWin (write : Bool) : State := { on.wr F.BOLT_WIN_BUSY (BOLT 15) 1 with boltWin := [(15, ⟨0, 0xFFFFFFF, 9, write, 255⟩)] }

theorem test_meets_MemoryWindows :
    on.stackOn = true ∧ on.silent .patch 0xB9C = false ∧ on.silent .bolt 0x10C = false ∧ bitsOf 0 0 (1 : W32) = 1 ∧ on.posView 16 = .normal ∧ on.rd F.BK_BUSY (PATCH 16) = 0
      ∧ (on.wr F.BK_BUSY (PATCH 16) 1).rd F.BK_BUSY (PATCH 16) = 1
      ∧ (wWindow false 0 true).stackOn = true ∧ (wWindow false 0 true).rd F.BK_BUSY (PATCH 17) = 1
      ∧ ((wWindow false 0 true).bankWin.get (fun _ => ⟨0, 0, 0, false, 0⟩) 17).write = false
      ∧ (wWindow false 0 true).bankPoison 17 7 131071 = true ∧ (wWindow false 0 false).bankPoison 17 7 131071 = false
      ∧ ((wWindow true 1 false).bankWin.get (fun _ => ⟨0, 0, 0, false, 0⟩) 17).write = true ∧ ((wWindow true 1 false).bankAt 17 7).owner ≠ 0
      ∧ ((wWindow true 0 false).bankAt 17 7).owner = 0 ∧ (wWindow true 0 false).rd F.PSTATE (PATCH 17) ≠ 1
      ∧ ((wWindow true 0 false).bankWin.get (fun _ => ⟨0, 0, 0, false, 0⟩) 17).bytes = 255
      ∧ on.rd F.BOLT_WIN_BUSY (BOLT 15) = 0 ∧ (wBoltWin false).rd F.BOLT_WIN_BUSY (BOLT 15) = 1
      ∧ ((wBoltWin false).boltWin.get (fun _ => ⟨0, 0, 0, false, 0⟩) 15).write = false
      ∧ ((wBoltWin true).boltWin.get (fun _ => ⟨0, 0, 0, false, 0⟩) 15).write = true
      ∧ (wBoltWin true).lineBad 15 (0xFFFFFFF / 8) = false := by decide

/-- Units with a level and with a row to copy. -/
def wLevels : State := (on.wr F.BK_LEVEL (PATCH 17) 1 7).wr F.BOLT_LEVEL (BOLT 15) 65535
def wRows : State :=
  (on.setBank 17 7 { on.bankAt 17 7 with rows := ⟨[3], [], [], false, [], 0⟩ }).setBolt 15 { on.boltAt 15 with rows := ⟨[7, 9], [1], [], false, [], 0⟩ }

/-- Units at the last address of their pass. -/
def wLast : State :=
  let s := { on with time := { on.time with run := 3199999904 } }
  (s.setBank 17 7 { s.bankAt 17 7 with patrol := 131071, passAt := some 24319, leakAt := some 3199999904 }).setBolt 15
    { s.boltAt 15 with patrol := 33554431, passAt := 0, passS := 1, leakAt := some 3199999904 }

theorem test_meets_ErrorManagement :
    wLevels.stackOn = true ∧ wLevels.unitReset (.bank 17 7) = false ∧ wLevels.unitReset (.bolt 15) = false
      ∧ unitLevel wLevels (.bank 17 7) ≠ 0 ∧ unitLevel wLevels (.bolt 15) ≠ 0 ∧ wLast.comes (unitLeakEnd wLast (.bank 17 7)) = true
      ∧ unitLevel (wLast.wr F.BK_LEVEL (PATCH 17) 1 7) (.bank 17 7) ≠ 0
      ∧ 8 ≤ on.rd F.ST_PHASE DEV ∧ on.comes (patrolTime on (.bolt 15)) = true ∧ on.stack.marked = [] ∧ (patrolPass on (.bolt 15)).1 + 1 < 33554432
      ∧ wLast.comes (patrolTime wLast (.bank 17 7)) = true ∧ 131072 ≤ (patrolPass wLast (.bank 17 7)).1 + 1
      ∧ wLast.comes (patrolTime wLast (.bolt 15)) = true ∧ 33554432 ≤ (patrolPass wLast (.bolt 15)).1 + 1
      ∧ (unitRows wRows (.bank 17 7)).toCopy = 3 :: [] ∧ (unitRows wRows (.bolt 15)).toCopy = 7 :: [9] := by decide

theorem test_meets_BoltLines :
    on.stackOn = true ∧ on.inReset 3 = false ∧ on.lineBad 15 33554431 = false ∧ on.stack.marked = [] ∧ (List.replicate 64 (0 : Byte)).length = 64
      ∧ (List.replicate 64 true).length = 64 ∧ (List.replicate 64 true).any id = true ∧ (List.replicate 64 true).all id = true := by decide

/-- A re-encryption of region 31 of bolt 15. -/
def wRekey : State := on.setBolt 15 { on.boltAt 15 with rekeys := [31, 0] }

theorem test_meets_BoltLines_counters :
    wRekey.stackOn = true ∧ wRekey.inReset 3 = false ∧ (wRekey.boltAt 15).rekeys = 31 :: [0] ∧ (∃ k : LPatch, CtrRef.patchNode 15 = .patchNode k) := ⟨by decide, by decide, by decide, 15, rfl⟩

/-- The device in the halt. -/
def wHalted : State := on.wr F.HALT_HALTED SEC 1

theorem test_meets_HaltStopsTheDevice : wHalted.halted = true ∧ locate DEV = some (.dev, 0, 0) ∧ Blk.dev ≠ .sec := by decide

theorem test_meets_CheckValueUnits :
    on.stackOn = true ∧ on.silent .patch (0x800 + 0x20 * 15) = false ∧ on.silent .patch (0x804 + 0x20 * 15) = false
      ∧ on.posView (on.ppos 15) = .normal ∧ on.cvStream 15 15 = false
      ∧ (sets on F.CV_STREAM_EN (on.pb 15) 1 15).cvStream 15 15 = true := by decide

/-! Triggers, events and registers. -/

/-- Ball 15 as an input of an edge, and as an output that pulses. -/
def wBall (edge filt : Nat) : State :=
  sets (sets (sets (sets on F.TB_DIR TRIG 1 15) F.TB_EDGE TRIG edge 15) F.TB_FILT TRIG filt 15) F.TB_LINE TRIG 63 15
def wPulse : State := { on with trig := { on.trig with balls := [(15, ⟨some true, [(3, false)], some 3⟩)] } }

theorem test_meets_TriggerRaises :
    on.fabricRuns 15 = true ∧ raiseClass .host = some 5 ∧ raiseClass (.rsp 31) = none ∧ on.up = true ∧ (wBall 2 0).ballsActive = true
      ∧ (wBall 2 0).ballCfg F.TB_DIR 15 = 1 ∧ 2 ≤ (wBall 2 0).ballCfg F.TB_EDGE 15 ∧ (wBall 0 0).ballCfg F.TB_EDGE 15 = 0
      ∧ (wBall 1 0).ballCfg F.TB_EDGE 15 = 1
      ∧ (wBall 2 0).clampOff 123 + (wBall 2 0).ballCfg F.TB_FILT 15 + 4 < (wBall 2 0).period
      ∧ (wBall 2 0).period ≤ (wBall 2 0).clampOff 124 + (wBall 2 0).ballCfg F.TB_FILT 15 + 4
      ∧ (wBall 2 0).maskBit 4 ((wBall 2 0).ballCfg F.TB_LINE 15) 127 = true ∧ (wBall 2 0).trig.raise? 63 = none
      ∧ (sets (wBall 2 0) F.TRIG_SRC_MASK_HI TRIG 0 4).maskBit 4 63 127 = false
      ∧ wPulse.ballsActive = true ∧ (wPulse.ballAt 15).pulse = some 3 ∧ wPulse.time.run ≤ 3 ∧ 3 < wPulse.time.run + wPulse.period := by decide

/-- An event record, and a device that has it to write. -/
def eRec : EvRec := ⟨on.now, 0x13, 0, 0, 0, 0, []⟩
def wEvent (based : Bool) (tail : Nat) : State :=
  { (on.wr F.EVQ_TAIL TRIG tail).wr F.EVQ_SIZE TRIG 64 with evq := [eRec], trig := { on.trig with based := based } }

theorem test_meets_EventRing :
    (wEvent true 0).up = true ∧ (wEvent true 0).evq = eRec :: [] ∧ (wEvent true 0).isHead = true ∧ (wEvent true 0).host.d3 = false
      ∧ 0 < (wEvent true 0).rd F.EVQ_SIZE TRIG ∧ (wEvent true 0).rd F.EVQ_SIZE TRIG ≤ 65536 ∧ eRec.code / 16 < 6 ∧ (wEvent true 0).trig.based = true
      ∧ ((wEvent true 0).rd F.EVQ_HEAD TRIG + 1) % (wEvent true 0).rd F.EVQ_SIZE TRIG ≠ (wEvent true 0).rd F.EVQ_TAIL TRIG
      ∧ ((wEvent true 1).rd F.EVQ_HEAD TRIG + 1) % (wEvent true 1).rd F.EVQ_SIZE TRIG = (wEvent true 1).rd F.EVQ_TAIL TRIG
      ∧ (wEvent false 0).trig.based = false ∧ ((wEvent true 0).wr F.SYS_DEVNUM DEV 5).isHead = false := by decide

theorem test_meets_RegisterAccesses :
    on.up = true ∧ locate 0xFFFFC = none ∧ locate RES = some (.res, 0, 0) ∧ on.silent .res 0 = false ∧ locate DEV = some (.dev, 0, 0)
      ∧ locate (RIBBON 33) = some (.ribbon, 33, 0) ∧ on.silent .dev 0x800 = false ∧ (hiOf .dev 0x800).isSome = true ∧ on.silent .trig 0 = false ∧ on.silent .trig 0x208 = false ∧ on.silent .hk 0 = false := by decide

/-! Seams and systems. -/

/-- Seam 5 in a state, enabled. -/
def wSeam (state : Nat) : State := (on.wr F.SEAM_LSTATE (SEAM 5) state).wr F.SEAM_EN (SEAM 5) 1

/-- A seam that trains, its supplies on. -/
def wLive : State := { wSeam 1 with start := { on.start with vlane := true, vlaneH := true } }

theorem test_meets_SeamLinkStates :
    (wSeam 0).halted = false ∧ (wSeam 0).sys.links = [] ∧ (wSeam 0).rd F.SEAM_LSTATE (SEAM 5) = 0 ∧ (wSeam 0).rd F.SEAM_EN (SEAM 5) = 1
      ∧ (wSeam 0).clk.locked = true ∧ (wSeam 0).seamClocked 5 = true ∧ ((wSeam 0).seamAt 5).downAt = none
      ∧ (wSeam 1).seamClocked 5 = true ∧ (wSeam 2).seamClocked 5 = true ∧ wLive.start.vlane = true ∧ wLive.start.vlaneH = true
      ∧ wLive.rd F.SEAM_LSTATE (SEAM 5) = 1 ∧ (wSeam 1).rd F.SEAM_LSTATE (SEAM 5) = 1 ∧ (wSeam 2).rd F.SEAM_LSTATE (SEAM 5) = 2
      ∧ (wSeam 2).rd F.KEY_STATE SEC = 1 ∧ (wSeam 3).rd F.SEAM_LSTATE (SEAM 5) = 3 ∧ (0 : W32).toNat % 2 = 0 ∧ (1 : W32).toNat % 4 = 1 := by decide

/-- A TIME cell, and a seam toward the parent of a device that has been claimed. -/
def cTime : TimeCell := ⟨77, 262143, 1048575, 0, 123, 2, 900, false, none, 0⟩
def wParent : State :=
  let s := (wSeam 3).wr F.SEAM_ROLE (SEAM 5) 1
  { s with sys := { s.sys with claimed := true } }

/-- A raise entry and data cells. -/
def cRaise (stitch : Nat) : TrigEntry := ⟨15, 63, BitVec.ofNat 16 stitch, 3, false⟩
def cData (kind dest : Nat) : DataCell := ⟨BitVec.ofNat 2 kind, Fin.ofNat 64 dest, 63, 0, leBytes 8 0x1000 ++ leBytes 4 4 ++ [1, 2, 3, 4]⟩
def wSeen : State := { wSeam 3 with sys := { on.sys with seen := [(63, 63, 4999)] } }
def wRoute : State := (wSeam 3).wr F.SYS_PRI DEV 5 6

theorem test_meets_SeamTraffic :
    (wSeam 3).rd F.SEAM_LSTATE (SEAM 5) = 3 ∧ (wSeam 3).halted = false ∧ 0 < cTime.headN.toNat ∧ wParent.sys.claimed = true ∧ wParent.sys.aligned = false
      ∧ ((wSeam 3).seamAt 5).launch.getD (wSeam 3).rootNow < (wSeam 3).time.run + (wSeam 3).period
      ∧ wParent.rd F.SEAM_LSTATE (SEAM 5) = 3 ∧ wParent.rd F.SEAM_ROLE (SEAM 5) = 1 ∧ (cRaise 4999).reset = false ∧ (63, 63, 4999) ∈ wSeen.sys.seen ∧ (wSeam 3).sys.seen = []
      ∧ ((wSeam 3).stitch.toNat + 65536 - (cRaise 5000).stitch.toNat) % 65536 < (wSeam 3).rd F.TRIG_D TRIG
      ∧ (wSeam 3).rd F.TRIG_D TRIG ≤ ((wSeam 3).stitch.toNat + 65536 - (cRaise 4999).stitch.toNat) % 65536
      ∧ (cData 1 0).kind = 1 ∧ (cData 0 0).dest.val = (wSeam 3).devnum ∧ (cData 0 0).kind ≠ 1 ∧ (cData 0 0).kind ≠ 2 ∧ (cData 2 0).kind = 2 ∧ (wSeam 3).isHead = true ∧ (wSeam 3).host.d3 = false
      ∧ (cData 0 6).dest.val ≠ wRoute.devnum ∧ wRoute.routeTo 6 = some 5
      ∧ ((wSeam 3).wr F.SYS_DEVNUM DEV 5).isHead = false ∧ ((wSeam 3).wr F.SYS_DEVNUM DEV 5).rd F.SEAM_LSTATE (SEAM 5) = 3 := by decide


/-- A device that discovers a system: two links, and none. -/
def wLinks : List Link := [⟨0, 5, 63, 0, 100⟩, ⟨63, 1, 1, 2, 65535⟩]

theorem test_meets_SystemBringUp :
    wRoute.forMe 6 (.regRead 0 0 false) = false ∧ wRoute.routeTo 6 = some 5 ∧ wRoute.rd F.SEAM_LSTATE (SEAM 5) = 3
      ∧ (0 : Device).val = wRoute.devnum ∧ on.clk.locked = true ∧ on.halted = false ∧ on.rd F.SYS_STATE DEV ≠ 1 ∧ 1 ≤ on.rd F.STC_N_NOW DEV
      ∧ (∀ l ∈ numbered wLinks, l.a < 64 ∧ l.b < 64) ∧ (numbered wLinks).length = 2 ∧ on.isHead = true ∧ on.up = true := by decide

/-! Configuration, settings and fuses. -/

/-- A stream header that passes, and a load of the device's own section, or of a slot. -/
def hGood : StreamHeader := ⟨0x4C570256, 2, 1, 0, 1, 0, true⟩
def lSt (dest : Option Nat) (mine again : Bool) (keyFrames : Nat) : LoadSt :=
  ⟨some ref, 0, 0, dest, hGood, 1, mine, mine, true, 2, 0, false, again, keyFrames, 0, [], [], [], [], 0, 0, 0, false, false⟩
def wLoad (l : LoadSt) (s : State := on) : State := { s with cfg := { s.cfg with load := some l } }

theorem test_meets_Configuration :
    (wLoad (lSt none true false 125)).loading = some (lSt none true false 125) ∧ (lSt none true false 125).dest = none
      ∧ (lSt none true false 125).keyFrames < 126 ∧ 126 ≤ (lSt none true false 126).keyFrames ∧ (1799 : BitVec 11).toNat < 1800
      ∧ (wLoad (lSt (some 7) false false 0)).loading = some (lSt (some 7) false false 0) ∧ (lSt (some 7) false false 0).dest.isSome = true
      ∧ ({ lSt none true false 0 with full := false } : LoadSt).full = false
      ∧ (lSt none true false 0).full = true ∧ (lSt none true false 0).complete_ = true
      ∧ ({ lSt none true false 0 with planes := [(0, 2, 7)] } : LoadSt).complete_ = false
      ∧ (wLoad (lSt none true true 0)).loading = some (lSt none true true 0) ∧ (lSt none true true 0).again = true
      ∧ on.halted = false ∧ (asking on 0x30 0 0 2 []).cmdOf ref 0x30 .fresh = some ⟨ref, entry 0x30 0 0 2 [], 0, .fresh, .ok⟩
      ∧ on.rd F.LCS SEC ≠ 5 ∧ on.cfg.load = none ∧ (wSeam 3).clk.locked = true
      ∧ ((wSeam 3).wr F.SYS_CHAIN_IN DEV 5).rd F.SYS_CHAIN_IN DEV < 6
      ∧ ((wSeam 3).wr F.SYS_CHAIN_IN DEV 5).seamUp (((wSeam 3).wr F.SYS_CHAIN_IN DEV 5).rd F.SYS_CHAIN_IN DEV) = true
      ∧ ((wSeam 3).wr F.SYS_CHAIN_IN DEV 5).headerOk hGood true = true ∧ on.headerOk StreamHeader.none_ true = false
      ∧ 0 < (lSt none false false 0).sectionsLeft ∧ (lSt none false false 0).mine = false ∧ (lSt none false false 0).source ≠ 2
      ∧ (0 : BitVec 6).toNat = on.rd F.SYS_CHAIN_POS DEV ∧ (lSt none false false 0).taken = false
      ∧ (0 : BitVec 6).toNat < (on.wr F.SYS_CHAIN_POS DEV 63).rd F.SYS_CHAIN_POS DEV
      ∧ (on.wr F.SYS_CHAIN_OUT DEV 5).rd F.SYS_CHAIN_POS DEV < (1 : BitVec 6).toNat ∧ (on.wr F.SYS_CHAIN_OUT DEV 5).rd F.SYS_CHAIN_OUT DEV ≠ 7
      ∧ (lSt (some 7) false false 0).hdr ≠ StreamHeader.none_ ∧ (lSt (some 7) false false 0).again = false ∧ (lSt none true false 0).done = false
      ∧ (lSt none true false 0).ended = false := by decide

/-- A fallback load that is to start, from a slot that is STORED or not. -/
def wFallback (stored : Nat) : State :=
  let s := (on.wr F.CFG_FB_SLOT CFG 7).wr F.CFG_SSTATE CFG stored 7
  { s with cfg := { s.cfg with fallback := true, inForce := some [] } }

theorem test_meets_Configuration_fallback :
    (wFallback 2).cfg.fallback = true ∧ (wFallback 2).cfg.load = none ∧ (wFallback 2).rd F.CFG_SSTATE CFG ((wFallback 2).rd F.CFG_FB_SLOT CFG) = 2
      ∧ (wFallback 2).headerOk hGood false = true ∧ (wFallback 2).cfg.inForce.isSome = true ∧ (wFallback 0).rd F.CFG_SSTATE CFG ((wFallback 0).rd F.CFG_FB_SLOT CFG) ≠ 2 := by decide

/-- A journal with a value staged, one that is stored, and one that is compacted. -/
def wStage (n : Nat) : State := { asking on 0x32 0 0 2 [] with cfg := { on.cfg with staged := [(n, some [1])] } }
def wStoring : State := { asking on 0x32 0 0 2 [] .running with cfg := { on.cfg with staged := [(5, some [1])], storing := some (ref, 1) } }
def wCompact : State := (asking on 0x32 0 0 2 []).wr F.CFG_COMPACTING CFG 1

theorem test_meets_ScrubbingAndSettings :
    8 ≤ on.rd F.ST_PHASE DEV ∧ on.halted = false ∧ on.hk.stop = 0 ∧ (1799 : BitVec 11).toNat < 1800 ∧ on.posPatch 16 = some 15
      ∧ (on.fabAt 15).lines.all (fun b => !b.off) = true ∧ on.fromNvm 15 5 = false ∧ (1799 : BitVec 11).toNat = 1799
      ∧ on.rd F.PLS_SHADOW_VALID (PATCH 17) = 0
      ∧ (asking on 0x31 0 0 2 [5, 0, 48, 0]).cmdOf ref 0x31 .fresh = some ⟨ref, entry 0x31 0 0 2 [5, 0, 48, 0], 0, .fresh, .ok⟩
      ∧ (Tab.put ((asking on 0x31 0 0 2 [5, 0, 48, 0]).cfg.staged) 5 none).length ≤ 256
      ∧ (asking on 0x32 0 0 2 []).cmdOf ref 0x32 .fresh = some ⟨ref, entry 0x32 0 0 2 [], 0, .fresh, .ok⟩
      ∧ wCompact.rd F.CFG_COMPACTING CFG = 1 ∧ on.cfg.staged = [] ∧ (wStage 5).cfg.staged ≠ [] ∧ (wStage 5).rd F.CFG_COMPACTING CFG = 0
      ∧ (wStage 5).cfg.storing = none ∧ wStoring.cfg.storing = some (ref, 1) := by decide

/-- Fuses: a key or a state to burn, and a burn under way. -/
def kZero : List Byte := List.replicate 32 0
def wKey : State := (asking on 0x33 0 0 2 (List.replicate 32 0 ++ (leBytes 4 (crc32c kZero)).map (fun b => b.toNat))).wr F.LCS SEC 2
def wBurn (b : Burn) : State := { asking on 0x33 0 0 2 [] .running with cfg := { on.cfg with burn := some b } }

theorem test_meets_FusesAndLifeCycle :
    wKey.cfg.burn = none ∧ (wKey.cmdOf ref 0x33 .fresh).isSome = true ∧ wKey.rd F.LCS SEC = 2 ∧ wKey.rd F.DKEY_STATE SEC = 0 ∧ wKey.cfg.load = none
      ∧ (wKey.cmdOf ref 0x33 .fresh).map (fun d => d.param 40 4) = some (crc32c kZero) ∧ on.rd F.LCS SEC ≠ 2
      ∧ (asking on 0x34 0 0 2 [5]).cmdOf ref 0x34 .fresh = some ⟨ref, entry 0x34 0 0 2 [5], 0, .fresh, .ok⟩
      ∧ lcsAllowed (on.rd F.LCS SEC) 5 (on.rd F.DKEY_STATE SEC) = true ∧ lcsAllowed (on.rd F.LCS SEC) 0 (on.rd F.DKEY_STATE SEC) = false
      ∧ (wBurn (.key ref kZero)).cfg.burn = some (.key ref kZero) ∧ (wBurn (.state ref 5)).cfg.burn = some (.state ref 5) ∧ 5 ≤ 5 := by decide

/-! Handovers, rotation and self-test. -/

/-- Position 8 is spare; a sequencer that runs; a head controller whose last mismatch was so long ago. -/
def wMiss (ago : Nat) : State := { on with res := { on.res with misses := [(16, on.stitch - BitVec.ofNat 64 ago)] } }
def wRotates : State := { (on.wr F.RES_ROT_EN RES 1).wr F.RES_ROT_PERIOD RES 1 with time := { on.time with run := 3200000000 } }

/-- The couplers of group 24 of boundary 10 in a state, trained. -/
def wGroup (g : GroupSt) : State := { on.wr F.BND_TRAINED DEV 1 10 with stack := { on.stack with groups := [(4096 * 10 + 24, g)] } }

theorem test_meets_HandoverRequests :
    ([⟨3, 0, none, none, false⟩, ⟨4, 4, none, none, false⟩] : List HoReq).Pairwise (fun a b => a.cause ≤ b.cause)
      ∧ (asking on 0x11 0 15 0 [8]).cmdOf ref 0x11 .fresh = some ⟨ref, entry 0x11 0 15 0 [8], 0, .fresh, .ok⟩ ∧ on.rd F.POS_STATE DEV 8 = 1
      ∧ on.rd F.POS_STATE DEV 16 ≠ 1 ∧ on.halted = false ∧ (runs on (.p 15) 0).rd F.PSTATE ((runs on (.p 15) 0).pb 15) = 1
      ∧ ((runs on (.p 15) 0).procAt 31).frozen = false ∧ (runs on (.p 15) 0).res.queue = [] ∧ (runs on (.p 15) 0).res.cur = none
      ∧ on.up = true ∧ (wMiss 1024).res.misses.find? (fun e => e.1 == 16) = some (16, on.stitch - 1024)
      ∧ ((wMiss 1024).stitch - (on.stitch - 1024)).toNat ≤ 1024 ∧ ¬ ((wMiss 1025).stitch - (on.stitch - 1025)).toNat ≤ 1024
      ∧ wRotates.rd F.RES_ROT_EN RES = 1 ∧ wRotates.rd F.LCS SEC ∈ [1, 3, 4] ∧ wRotates.testOk = true ∧ wRotates.cfg.released = true
      ∧ wRotates.res.rotFrom + 3200000000 * wRotates.rd F.RES_ROT_PERIOD RES ≤ wRotates.time.run + wRotates.clampOff 0
      ∧ on.stackOn = true ∧ ((runs on (.p 15) 0).procAt 31).stalled = false ∧ on.rd F.PSTATE (on.pb 15) ≠ 1
      ∧ hasCoupler 10 24 15 = true ∧ (wGroup ⟨[], none, none, false, false⟩).rd F.BND_TRAINED DEV 10 = 1
      ∧ 15 ∉ ((wGroup ⟨[], none, none, false, false⟩).groupAt 10 24).failed ∧ ((wGroup ⟨[], none, none, false, false⟩).groupAt 10 24).spareFree = true
      ∧ (wGroup ⟨[], none, none, false, false⟩).carries 10 24 .idle = true ∧ (wGroup ⟨[0, 1], some 0, none, true, false⟩).carries 10 24 (.control none) = true
      ∧ ((wGroup ⟨[0], some 0, none, false, false⟩).groupAt 10 24).steered ≠ none ∧ ((wGroup ⟨[0], some 0, none, false, false⟩).groupAt 10 24).toSteer = none
      ∧ ((wGroup ⟨[0], some 0, none, false, false⟩).groupAt 10 24).exhausted = false
      ∧ (⟨[0, 1, 2], some 0, none, true, false⟩ : GroupSt).whole = false ∧ (⟨[0, 1], some 0, none, true, false⟩ : GroupSt).whole = true
      ∧ (wGroup ⟨[0, 1], some 0, none, true, false⟩).stack.resend = [] := by decide

/-- A handover of patch 15 from position 16 to 17 in a phase. -/
def hReq : HoReq := ⟨15, 3, none, none, false⟩
def wHover (phase : Nat) : State :=
  let s := ((((on.wr F.RES_PHASE RES phase).wr F.RES_FROM RES 16).wr F.RES_TO RES 17).wr F.POS_STATE DEV 2 16).wr F.LPM_HOVER DEV 1 15
  { s with res := { s.res with cur := some hReq, drain := 1, rotWait := some 0 }, time := { s.time with run := 3200000000 * s.rd F.RES_ROT_WAIT RES } }

/-- The same as its drain has ended. -/
def wDrained : State := { wHover 3 with res := { (wHover 3).res with drained := true } }

theorem test_meets_HandoverPhases :
    (wHover 1).halted = false ∧ (wHover 1).res.cur = some hReq ∧ hReq.k < 16 ∧ (wHover 1).rd F.RES_PHASE RES = 1 ∧ (wHover 1).res.prepared = false
      ∧ 8 + 4 * (wHover 1).res.prepLeft ≤ (wHover 1).clampOff 319 ∧ (wHover 3).res.drained = false
      ∧ (wHover 3).backlogGone 15 ((wHover 3).clampOff 0) = true ∧ (wDrained.res.drained = true ∧ wDrained.res.cur = some hReq)
      ∧ wDrained.res.images = [] ∧ wDrained.cfg.heldWrites = [] ∧ wDrained.host.cmds = [] ∧ (∀ b : Bank, ((wHover 2).bankAt 16 b.val).copy = [])
      ∧ (wHover 2).rd F.RES_PHASE RES = 2 ∧ (wHover 2).res.moveLeft = 0 ∧ (wHover 2).res.held = [] ∧ (wHover 2).res.lines = []
      ∧ (wHover 2).rd F.RES_FROM RES = 16 ∧ (wHover 2).rd F.RES_TO RES = 17 ∧ (wHover 3).rd F.RES_PHASE RES = 3
      ∧ hReq.test = false ∧ hReq.cause = 3 ∧ hReq.c = none ∧ (wHover 1).res.rotWait = some 0
      ∧ 0 + 3200000000 * (wHover 1).rd F.RES_ROT_WAIT RES ≤ (wHover 1).time.run + (wHover 1).clampOff 0 := by decide

/-- A SELFTEST command of a kind for patch 15, or for ribbon 31; without spare positions; in other conditions. -/
def wTest (kind pos : Nat) (flags : Nat := 0) (tkind : Nat := 0) : State := asking on 0x29 flags (if tkind = 1 then 31 else 15) tkind [kind, pos, 255, 0]
def dTest (kind pos : Nat) (flags : Nat := 0) (tkind : Nat := 0) : DispCmd :=
  ⟨ref, entry 0x29 flags (if tkind = 1 then 31 else 15) tkind [kind, pos, 255, 0], 0, .fresh, .ok⟩
def noSpare (s : State) : State := (s.wr F.POS_STATE DEV 4 8).wr F.POS_STATE DEV 4 17

theorem test_meets_SelfTests_commands :
    (∀ k : Fin 5, (wTest k.val 8).selfTest ref k.val = some (dTest k.val 8) ∧ (wTest k.val 8 2).selfTest ref k.val = some (dTest k.val 8 2))
      ∧ (wTest 0 8).rd F.LCS SEC ∈ [1, 3, 4] ∧ (on.wr F.LCS SEC 2).rd F.LCS SEC ∉ [1, 3, 4] ∧ (dTest 0 8).tkind ≠ 1
      ∧ (wTest 0 8 0 1).selfTest ref 0 = some (dTest 0 8 0 1) ∧ (dTest 0 8 0 1).tkind = 1 ∧ (wTest 0 8 0 1).rsp 31 < 32 ∧ 32 ≤ ((wTest 0 8 0 1).wr F.RMAP_RSP DEV 33 31).rsp 31
      ∧ (wTest 1 8).testFree = true ∧ (on.wr F.LCS SEC 3).testFree = false ∧ (wTest 1 8).testOk = true ∧ (on.wr F.CLK_LOCKED CLK 0).testOk = false
      ∧ (wTest 1 8).rd F.POS_STATE DEV 8 ∈ [1, 3, 4] ∧ ((wTest 1 8).wr F.POS_STATE DEV 2 8).rd F.POS_STATE DEV 8 = 2 ∧ (wTest 1 16).rd F.POS_STATE DEV 16 = 0 ∧ (wTest 1 16).res.bists = []
      ∧ (∃ q, q < 18 ∧ (wTest 1 16).rd F.POS_STATE DEV q = 1) ∧ (∀ q, q < 18 → (noSpare (wTest 1 16)).rd F.POS_STATE DEV q ≠ 1)
      ∧ (dTest 1 16).force = false ∧ (dTest 1 16 2).force = true ∧ (wTest 1 8 0 1).spareRsps ≠ []
      ∧ (((wTest 1 8 0 1).wr F.RSPH_RETIRED (RIBBON 32) 1).wr F.RSPH_RETIRED (RIBBON 33) 1).spareRsps = []
      ∧ (dTest 2 8).marchBanks ≠ [] ∧ bitAt ((dTest 2 8).param 11 1) 0 = false :=
  ⟨by decide, by decide, by decide, by decide, by decide, by decide, by decide, by decide, by decide, by decide, by decide, by decide, by decide,
    by decide, by decide, by decide, ⟨8, by decide, by decide⟩, by decide, by decide, by decide, by decide, by decide, by decide, by decide⟩

/-- Position 17 in its test, processor position 33, and a march of bank 7 or the bolt of patch 15. -/
def bRun (u : BistUnit) : BistRun := ⟨u, some ref, bistCount 0, true⟩
def wBist (u : BistUnit) : State := { on.wr F.POS_STATE DEV 3 17 with res := { on.res with bists := [bRun u] } }
def mRun (bank : Option Nat) (preserve : Bool) : MarchRun := ⟨ref, 15, 16, bank, preserve⟩
def wMarch (bank : Option Nat) (preserve : Bool) : State := { asking on 0x29 0 15 0 [3] .running with
  res := { on.res with marches := [mRun bank preserve], tests := [⟨ref, 15, [0, 0, 0, 0, 0, 0, 0], .ok⟩] } }
def rMarch (bolt : Bool) : MarchResult := ⟨bolt, 7, 5, true, 9, 3, 1, 2, true, []⟩
def wHeld : State := (asking on 0x28 0 0 0 [] .held).wr F.ST_PHASE DEV 7

theorem test_meets_SelfTests_ends :
    (wBist (.pos 17)).halted = false ∧ (wBist (.pos 17)).res.bists.find? (fun b => b.u == .pos 17 && b.on) = some (bRun (.pos 17))
      ∧ (wBist (.pos 17)).rd F.POS_STATE DEV 17 = 3 ∧ (wBist (.pos 17)).res.tests = []
      ∧ (wBist (.pos 17)).res.bists.erase (bRun (.pos 17)) = [] ∧ (rMarch true).seen = []
      ∧ (wBist (.rsp 33)).res.bists.find? (fun b => b.u == .rsp 33 && b.on) = some (bRun (.rsp 33)) ∧ 32 ≤ (33 : Fin 34).val
      ∧ (bRun (.rsp 33)).need ≤ (0xFFFFFFFF : W32).toNat
      ∧ (wMarch (some 7) false).res.marches.find? (fun m => m.k == 15 && m.bank == some 7) = some (mRun (some 7) false)
      ∧ 15 ∉ (wMarch (some 7) false).res.testing ∧ (wMarch none false).res.marches.find? (fun m => m.k == 15 && m.bank == none) = some (mRun none false)
      ∧ (mRun none true).preserve = true ∧ (wMarch (some 7) false).res.tests = [⟨ref, 15, [0, 0, 0, 0, 0, 0, 0], .ok⟩]
      ∧ wHeld.cmd ref = some ⟨ref, entry 0x28 0 0 0 [], 0, .held, .ok⟩ ∧ (⟨ref, entry 0x28 0 0 0 [], 0, .held, .ok⟩ : DispCmd).noSpare = true ∧ 4096 ≤ (wHeld.stitch - 0).toNat ∧ wHeld.rd F.ST_PHASE DEV = 7 := by decide

/-! Clocks, power and heat. -/

/-- A device before its root PLL locks, in a phase of its start; one that slews to REFCLK. -/
def wStart (phase : Nat) : State := { on.wr F.ST_PHASE DEV phase with clk := { on.clk with locked := false } }
def wSlew : State := on.wr F.CLK_SLEWING CLK 1

theorem test_meets_ReferenceClock :
    on.start.vhk = true ∧ on.up = true ∧ on.rd F.CLK_SOURCE CLK = 0 ∧ on.rd F.CLK_STRAP CLK ≠ 1 ∧ (on.wr F.CLK_STRAP CLK 1).rd F.CLK_STRAP CLK = 1
      ∧ 1310 < 131072 - (129761 : BitVec 18).toNat ∧ 131072 - (131046 : BitVec 18).toNat ≤ 26 ∧ 26 < 131072 - (131045 : BitVec 18).toNat
      ∧ 131072 - (129762 : BitVec 18).toNat ≤ 1310 ∧ 131072 + 1310 < (132383 : BitVec 18).toNat
      ∧ wSlew.rd F.CLK_SLEWING CLK = 1 ∧ (wStart 3).start.vin = true ∧ (wStart 3).clk.locked = false ∧ (wStart 3).rd F.CLK_STABLE CLK = 0
      ∧ (wStart 3).start.resetLow = false ∧ (wStart 3).rd F.ST_PHASE DEV = 3 ∧ (wStart 4).rd F.ST_PHASE DEV = 4 ∧ (wStart 4).start.failed = false := by decide

/-- Gate 98, the last seam's: under a transaction, or held. -/
def wGate : State := (wSeam 3).wr F.SEAM_EN (SEAM 5) 0
def wHeldGate : State := { on with clk := { on.clk with heldClose := [98] } }
def wRewrite : State := { on with clk := { on.clk with rewriting := [7] } }

theorem test_meets_ClockGates :
    115 ≤ (115 : BitVec 7).toNat ∧ (114 : BitVec 7).toNat < 115 ∧ wGate.up = true ∧ gateChildren 98 = [] ∧ wGate.gateInService 98 = false
      ∧ wGate.gateBusy 98 = true ∧ on.gateBusy 98 = false ∧ wHeldGate.clk.heldClose.find? (fun x => !wHeldGate.gateBusy x) = some 98 ∧ wHeldGate.gateBusy 98 = false
      ∧ (7 : Layer).val ∈ wRewrite.clk.rewriting ∧ on.erd F.REFO_SSC CLK 7 = 0 ∧ (sets on F.REFO_SSC CLK 1 7).erd F.REFO_SSC CLK 7 ≠ 0 := by decide

/-- Layer 7 is sampled fast; a round whose layer 7 is at 110 °C and one below it. -/
def wFast : State := on.wr F.HK_FAST HK 1 7
def rHeat (t : Int) : HeatRound := ⟨[0, 0, 0, 0, 0, 0, 0, t], [0, 0, 0, 0, 0, 0, 0, 0], true⟩

theorem test_meets_PowerAndHeat :
    on.start.vhk = true ∧ on.start.vin = true ∧ on.hk.stop = 0 ∧ ((16500 : W16).toNat :: on.hk.samples).sum ≤ 16500 * 1
      ∧ 16500 * 1 < ((16501 : W16).toNat :: on.hk.samples).sum ∧ wFast.rd F.HK_FAST HK 7 = 1
      ∧ 440 * 50000 ≤ max (nthD 0 (rHeat 440).diode 7 * 50000) (inferred wFast (rHeat 440) 7)
      ∧ (∀ k, k < 8 → max (nthD 0 (rHeat 439).diode k * 50000) (inferred wFast (rHeat 439) k) < 440 * 50000) := by decide

/-! Start-up, resets, the jack, supplies and the test port. -/

theorem test_meets_StartUp :
    State.reset.start.vhk = false ∧ (on.wr F.JK_BLANK JACK 1).rd F.JK_BLANK JACK = 1 ∧ on.start.jackA0 = false
      ∧ ({ on with start := { on.start with vin := false } } : State).start.vin = false
      ∧ on.clk.locked = true ∧ ((on.wr F.ST_PHASE DEV 4).wr F.KEY_STATE SEC 0).rd F.ST_PHASE DEV = 4
      ∧ ((on.wr F.ST_PHASE DEV 4).wr F.KEY_STATE SEC 0).rd F.KEY_STATE SEC = 0 ∧ (on.wr F.KEY_ATTEMPTS SEC 2).rd F.KEY_ATTEMPTS SEC ≤ 2
      ∧ (on.wr F.ST_PHASE DEV 5).rd F.ST_PHASE DEV = 5 ∧ on.start.failed = false
      ∧ (7 : Layer).val = ({ on with start := { on.start with layers := 6 } } : State).start.layers + 1
      ∧ (on.wr F.ST_PHASE DEV 6).rd F.ST_PHASE DEV = 6 ∧ (on.groupAt 10 39).failed = [] ∧ (on.groupAt 10 39).exhausted = false ∧ hasCoupler 10 39 0 = true ∧ hasCoupler 10 38 17 = true
      ∧ on.stackOn = true ∧ on.lanes.all (fun e => e.2.runs == []) = true ∧ on.cfg.inForce.isSome = true ∧ (on.wr F.ST_PHASE DEV 7).rd F.ST_PHASE DEV = 7
      ∧ on.start.sub = 0 ∧ on.start.vlane = true ∧ on.start.vlaneH = true ∧ on.rd F.POS_STATE DEV 17 = 1 ∧ on.rd F.POS_STATE DEV 16 = 0
      ∧ ({ on with start := { on.start with sub := 1 } } : State).start.sub = 1
      ∧ ({ on with start := { on.start with sub := 2 } } : State).start.sub = 2
      ∧ (on.wr F.CFG_SSTATE CFG 2 0).rd F.CFG_SSTATE CFG 0 = 2 ∧ bitAt on.start.straps 3 = false := by decide

/-- RESET_N low; a stop in force long enough; a full reset that a stop holds. -/
def wLow : State := { on with start := { on.start with resetLow := true } }
def wStopped (cause : Nat) (held : Option Nat) : State :=
  { on with hk := { on.hk with stop := cause, stopAt := 0, cool := some 0, heldReset := held }, time := { on.time with run := 3200000000 } }

theorem test_meets_Resets :
    on.start.vhk = true ∧ on.start.resetLow = false ∧ on.hk.stop = 0 ∧ (wStopped 1 none).hk.stop ≠ 0 ∧ wLow.start.resetLow = true
      ∧ wLow.hk.heldReset = none ∧ wLow.start.vin = true ∧ on.rd F.JK_ALLOW_FULL JACK = 1
      ∧ (wStopped 1 (some 7)).hk.heldReset = some 7 ∧ (∃ c, (wStopped 1 (some 7)).hk.cool = some c ∧ c + 3200000000 ≤ (wStopped 1 (some 7)).rootNow)
      ∧ on.halted = false ∧ (wStopped 1 none).rd F.HK_LATCHED HK = 0 ∧ (wStopped 1 none).hk.both = false ∧ 2 ≤ (wStopped 2 none).hk.stop
      ∧ (wStopped 2 none).hk.stopAt + 3200000000 ≤ (wStopped 2 none).rootNow
      ∧ on.cfg.released = true ∧ on.rd F.JK_ALLOW_LAYER JACK = 1 ∧ bitAt (0x01000000 : W32).toNat 24 = true ∧ on.isHead = true
      ∧ ({ on with start := { on.start with lrOn := [(1, 0)] } } : State).start.lrOn.any (fun e => e.2 == 0) = true
      ∧ ({ on with start := { on.start with lrOn := [(3, 0)] } } : State).start.lrOn.any (fun e => e.1 == 3 && e.2 == 0) = true ∧ (15 : BitVec 4).toNat = 15
      ∧ (on.fabAt 15).active ≠ none ∧ 15 ∉ on.res.testing :=
  ⟨by decide, by decide, by decide, by decide, by decide, by decide, by decide, by decide, by decide, ⟨0, by decide, by decide⟩, by decide, by decide,
    by decide, by decide, by decide, by decide, by decide, by decide, by decide, by decide, by decide, by decide, by decide, by decide⟩

/-- A valid inactive jack, a swap that waits, and a test port in each state of the balls. -/
def wJack : State := (on.wr F.JK_VALID1 JACK 1)
def wSwap : State := wJack.wr F.JK_SWAP_PEND JACK 1

theorem test_meets_JackSuppliesAndTestPort :
    wJack.start.vhk = true ∧ wJack.halted = false ∧ wJack.rd F.JK_SWAP_PEND JACK = 0 ∧ wJack.rd F.JK_ACTIVE JACK = 0 ∧ wJack.rd F.JK_VALID1 JACK = 1
      ∧ on.rd F.JK_VALID1 JACK ≠ 1 ∧ wSwap.rd F.JK_SWAP_PEND JACK = 1 ∧ on.start.vlane = true ∧ on.start.vlaneH = true
      ∧ ({ on with start := { on.start with vlane := false } } : State).start.vlane = false ∧ on.start.vin = true ∧ on.rd F.CFG_STATE CFG ≠ 2
      ∧ (on.rd F.LCS SEC = 1 ∨ on.rd F.LCS SEC = 4) := by decide


/-! Operands that the types leave open: for each check a term that it takes and one that it refuses. -/

theorem test_wf_offset : (Instr.holdover 8191).wf = true ∧ (Instr.holdover 8192).wf = false := by decide

theorem test_wf_entry_length : (Instr.queuePush 0 0 0 (List.replicate 16 1)).wf = true ∧ (Instr.queuePush 0 0 0 (List.replicate 15 1)).wf = false := by decide

/-- A received unit of characters. -/
def wUnitOf (ctl : List Bool) (cws : List Nat) : RxUnit := ⟨.data, [1, 2], ctl, false, false, false, 0, cws, 0⟩

theorem test_wf_unit : (wUnitOf [true, false] [16]).wf = true ∧ (wUnitOf [true] [16]).wf = false ∧ (wUnitOf [] [17]).wf = false := by decide

/-- A TIME cell. -/
def wCellAt (offset : Nat) : TimeCell := ⟨5, offset, 0, 0, 0, 2, 0, false, none, 0⟩

theorem test_wf_time_cell : (wCellAt 262143).wf = true ∧ (wCellAt 262144).wf = false := by decide

theorem test_wf_message : (Msg.command ref (entry 0 0 0 0 [])).wf = true ∧ (Msg.command ref []).wf = false
    ∧ (Msg.result ref 0 (List.replicate 14 0)).wf = true ∧ (Msg.result ref 0 (List.replicate 15 0)).wf = false
    ∧ (Msg.event (List.replicate 32 0)).wf = true ∧ (Msg.event []).wf = false
    ∧ (Msg.period 128 0).wf = true ∧ (Msg.period 0 0).wf = false ∧ (Msg.period 129 0).wf = false := by decide

theorem test_wf_link : (Link.mk 0 5 63 0 9).wf = true ∧ (Link.mk 0 6 63 0 9).wf = false ∧ (Link.mk 0 0 64 0 9).wf = false ∧ (Link.mk 1 0 1 1 9).wf = false := by
  decide

theorem test_wf_heat : (HeatRound.mk (List.replicate 8 0) (List.replicate 8 0) true).wf = true ∧ (HeatRound.mk [] (List.replicate 8 0) true).wf = false := by decide

theorem test_wf_lengths : (Instr.boltLineWrite 0 0 .window (List.replicate 64 0) (List.replicate 64 true) .clean).wf = true
    ∧ (Instr.boltLineWrite 0 0 .window (List.replicate 63 0) (List.replicate 64 true) .clean).wf = false
    ∧ (Instr.exchangeSend 0 []).wf = false ∧ (Instr.streamChunk 0 0 (List.replicate 4065 0) 0).wf = false
    ∧ (Instr.couplerFault 0 1249 0 ⟨.idle, 0⟩).wf = true ∧ (Instr.couplerFault 0 1250 0 ⟨.idle, 0⟩).wf = false
    ∧ (Instr.trainingDone [⟨0, 1249, 0⟩]).wf = true ∧ (Instr.trainingDone [⟨0, 1250, 0⟩]).wf = false
    ∧ (Instr.frameJack ⟨true, false⟩ 0 ⟨true, [.shiftEn false 255 .low]⟩).wf = true ∧ (Instr.frameJack ⟨true, false⟩ 0 ⟨true, [.pair 0]⟩).wf = false
    ∧ (Instr.queuePop 0 0 0 []).wf = true ∧ (Instr.queuePop 0 0 0 (List.replicate 9 .clean)).wf = false := by decide

/-! Worked examples of the spec: the expected values are its own. -/

/-- spec/00_scope.md, "Worked example" of clamps. -/
theorem test_clamp_depth :
    (Clamp.pow2 16 4096).apply 3000 = 2048 ∧ (Clamp.pow2 16 4096).apply 5000 = 4096 ∧ (Clamp.pow2 16 4096).apply 8 = 16 := by decide

/-- spec/17_register_map.md: unit 18 of logical patch 9 at position 17 has CV_VALUE at window offset 0x3_1A44. -/
theorem test_register_addresses : F.CV_VALUE.at (PATCH 17) 18 0 = 0x31A44 ∧ F.LPM_PPOS.at DEV 9 0 = 0x224 ∧ (locate 0x31A44).map (·.2.2) = some 0xA44 := by
  decide

/-- spec/04_graov_reference.md, the tapm and loop examples' words. -/
theorem test_words : wordM 0x31 7 0 1 3 0 = 0x31383800 ∧ wordM 0x31 0 0 1 0 0 = 0x31002000 ∧ wordL 0x21 4 5 = 0x21010050 ∧ wordB 0x20 1 1 2 = 0x20120002 := by
  decide

/-- An image of a profile with its main program, or with main and event program. -/
def wImage (prof : Nat) (code : List W32) (event : Option Nat := none) (strs : List W64 := []) : Image :=
  { Image.none_ with
    loaded := true, crcOk := true, code := code, strs := strs
    hdr := [BitVec.ofNat 32 (prof + 0x100 + 0x10000 * code.length), BitVec.ofNat 32 (match event with | some e => e + 4096 | none => 0), 0, BitVec.ofNat 32 strs.length] }

/-- The loop of spec/04_graov_reference.md: WC_MAIN is 22, and the branch is stored as 0x2012_0001. -/
def wLoop : List W32 :=
  [0x21010050, wordM 0x10 1 0 1 3 0, wordR 0x02 1 1 0 0, 0x20120002, wordR 0x01 2 2 1 0, wordI 0x08 3 3 1, wordR 0x22 0 0 0 0]

theorem test_worst_case_loop : (judgeImage 1 56 (wImage 1 wLoop)).1 = ⟨0, 22, 0⟩ ∧ (judgeImage 1 56 (wImage 1 wLoop)).2.code[3]? = some 0x20120001 := by decide

/-- The TAPM adaptation kernel of spec/04_graov_reference.md: WC_MAIN is 47, admitted under 56 and refused under 24. -/
def wTapm : List W32 :=
  [wordR 0x02 1 31 0 0, wordB 0x20 2 1 6, wordI 0x08 20 0 0x100, wordI 0x08 1 0 16, wordR 0x04 1 1 0 1, wordI 0x08 1 0 0x800, wordR 0x04 2 1 0 0,
   wordI 0x08 31 0 1, wordV 10 0 0 0 12, wordR 0x04 0 20 0 0, wordL 0x21 12 1, 0x31383800, wordM 0x10 2 2 0 3 0, wordM 0x10 3 2 0 3 8]
    ++ [wordV 8 0 2 0 11, wordV 0 0 0 0 0, wordR 0x04 0 20 0 0, wordL 0x21 12 1, 0x31002000, wordV 3 4 0 0 12, wordM 0x10 6 2 0 3 16, wordM 0x10 7 2 0 3 24,
        wordV 5 8 6 4 0, wordV 11 0 8 0 9, wordR 0x22 0 0 0 0]

theorem test_worst_case_tapm : (judgeImage 2 56 (wImage 2 wTapm)).1 = ⟨0, 47, 0⟩ ∧ (judgeImage 2 24 (wImage 2 wTapm)).1.reason = 1 := by decide

/-- The check-value context switch of spec/04_graov_reference.md on a unit: WC_MAIN is 35 on unit 16 and 51 on unit 18. -/
def wSwitch (u : Nat) : List W32 :=
  let flow := fun (p g : Nat) => [wordM 0x10 5 1 0 2 p, wordI 0x2C 0 5 u, wordI 0x2A 0 g (u + 64), wordI 0x0D 6 g 32, wordI 0x2A 0 6 (u + 64),
    wordI 0x2A 0 (g + 1) (u + 32), wordI 0x2B 5 0 u, wordM 0x11 5 1 0 2 p]
  flow 0x40 10 ++ flow 0x44 12 ++ [wordR 0x22 0 0 0 0]

theorem test_worst_case_switch : (judgeImage 1 56 (wImage 1 (wSwitch 16))).1 = ⟨0, 35, 0⟩ ∧ (judgeImage 1 56 (wImage 1 (wSwitch 18))).1 = ⟨0, 51, 0⟩ := by decide

/-- The ACS program of spec/04_graov_reference.md behind a main program of one DONE: WC_EVENT is 51. -/
def wAcs : List W32 :=
  let step := fun (vd vs : Nat) => [wordM 0x10 1 3 3 1 0, wordV 6 2 1 0 0, wordV 5 4 2 20 0, wordV 5 6 2 22 0, wordV 0 2 0 0 0, wordV 0 3 0 0 0,
    wordR 0x30 2 4 4 0, wordR 0x30 3 6 6 0, wordR 0x32 vd vs 2 4]
  [wordR 0x22 0 0 0 0, wordR 0x02 1 30 0 0, wordB 0x20 2 1 15, wordS 0x18 28 2 0, wordI 0x0A 1 0 2, wordR 0x04 3 1 0 1, wordI 0x0A 1 0 0x1000,
   wordR 0x04 3 1 0 0, wordI 0x0A 1 0 0x3000, wordR 0x04 4 1 0 0, wordI 0x0A 29 0 0x1000, wordI 0x08 30 0 1, wordM 0x10 20 5 0 3 0x200]
    ++ [wordM 0x10 21 5 0 3 0x208, wordM 0x10 22 5 0 3 0x210, wordM 0x10 23 5 0 3 0x218, wordV 0 0 0 0 0, wordB 0x20 0 0 25, wordL 0x21 2 18]
    ++ step 1 0 ++ step 0 1
    ++ [wordI 0x08 31 31 4, wordR 0x02 2 31 29 2, wordB 0x20 1 2 4, wordS 0x19 28 2 0, wordR 0x01 31 0 0 3, wordR 0x01 30 0 0 3, wordR 0x22 0 0 0 0,
        wordR 0x22 0 0 0 1]

theorem test_worst_case_acs : (judgeImage 2 56 (wImage 2 wAcs (some 1))).1 = ⟨0, 1, 51⟩ := by decide


/-- The trellis step of spec/04_graov_reference.md: the metrics given there, with the squared distances of states 2 and 5 in v2 and v3. -/
def wTrellis : State :=
  let w := wordR 0x32 1 0 2 4
  (((runs on (.s 0) w).setVs 32 0 (fun i => nthD 0 [100, 340, 120, 90, 400, 260, 180, 310] i)).setVs 32 2 (fun i => nthD 0 [0, 0, 122500, 0, 0, 100, 0, 0] i)).setVs
    32 3 (fun i => nthD 0 [0, 0, 100, 0, 0, 900, 0, 0] i)

/-- What a test asks of the state that a command leaves. -/
def leaves (c : Instr) (s : State) (p : State → Bool) : Bool :=
  match exec c s with
  | .next t => p t
  | _ => false

theorem test_acs_step : leaves (.acs 0 false 1 0 2 4) wTrellis (fun t => t.v 32 1 2 == 360 && t.v 32 1 5 == 220
    && (t.dbyte 32 0).toNat / 4 % 2 == 1 && (t.dbyte 32 0).toNat / 32 % 2 == 0 && t.a 32 4 == 1) = true := by decide

/-- The figures of the TAPM kernel of spec/04_graov_reference.md: v0.0 = 2,457,600 packs to 600; c = 1,200 with e = −40, x = 512, mu = 9 becomes 1,160. -/
theorem test_vpk_600 : leaves (.vpk 0 4 0 12) ((runs on (.s 0) (wordV 3 4 0 0 12)).setVs 32 0 (fun _ => 2457600)) (fun t => (t.half 32 4 0) == 600) = true := by
  decide

theorem test_tapm_1160 : leaves (.tapmAn 0 7 0 1 0)
    (((runs on (.s 0) 0x31383800).modProcAt 32 (fun x => { x with tp := 0, mu := 9, e := [(0, -40)], dl := [(0, 512)] })).dstore 32 0 2 1200)
    (fun t => t.dload 32 0 2 == 1160) = true := by decide

/-- An input ball of spec/09_triggers.md: rising, line 5, FILT 3; the edge at 100 raises line 5 at 107, the one at 125 at offset 4 of the next stitch. -/
def wFilteredBall : State := sets (sets (sets on F.TB_DIR TRIG 1 3) F.TB_LINE TRIG 5 3) F.TB_FILT TRIG 3 3

theorem test_edge_raises : leaves (.trigxEdge 3 true 100) wFilteredBall (fun t => (t.trig.raise? 5).map (fun r => (r.ts.off, r.at_)) == some (100, 107)) = true := by decide

theorem test_late_edge_raises : leaves (.trigxEdge 3 true 125) wFilteredBall
    (fun t => (t.trig.raise? 5).isNone && t.trig.next.map (fun e => (e.1, e.2.ts.off, e.2.at_)) == [(5, 125, 4)]) = true := by decide

/-- The layers of the example in spec/15_clock_power_thermal.md: L3 enters band C and L4 band B. -/
def wHeat : HeatRound := ⟨[280, 280, 344, 356, 336, 332, 280, 280], [0, 0, 0, 1400, 725, 0, 0, 0], true⟩

theorem test_inferred_bands :
    let s := (on.wr F.HK_THETA HK 850 3).wr F.HK_THETA HK 600 4
    nextBand 0 (inferred s wHeat 3) = 2 ∧ nextBand 0 (inferred s wHeat 4) = 1 ∧ bandOf (356 * 50000) = 1 := by decide

/-- A coupler fault of spec/01_stack.md: no handover after the first; the spare carries the coupler's traffic after the boundary's step 3. -/
def wCoupler : State := (on.wr F.BND_TRAINED DEV 1 1).wr F.BND_SPARES_LEFT DEV 938 1

theorem test_coupler_fault : leaves (.couplerFault 1 137 9 ⟨.idle, 71⟩) wCoupler (fun t => t.groupAt 1 137 == ⟨[9], none, some 9, false, false⟩
    && t.steerBoundary.rd F.BND_SPARES_LEFT DEV 1 + 1 == t.rd F.BND_SPARES_LEFT DEV 1 && t.res.queue == []) = true := by decide

end Sys2Proof.Tests
end

/-! The integer group of Graov (R123, R124): what a register-writing instruction does once its word is issued, the orders that the
minima and maxima compare by, and the zero registers (R79). -/

namespace Sys2Proof.Machine

/-! The values: the minima, the maxima and the product as the numbers of R124's table. -/

/-- On words that compare as equal the two forms of a maximum answer different operands, which are then the same word. -/
theorem ite_lt_eq_ite_le_of_injective {α : Type} [LinearOrder α] {f : W64 → α} (hf : Function.Injective f) (x y : W64) :
    (if f x < f y then y else x) = if f x ≤ f y then y else x := by
  rcases lt_trichotomy (f x) (f y) with hlt | heq | hgt
  · rw [if_pos hlt, if_pos hlt.le]
  · rw [hf heq, ite_self, ite_self]
  · rw [if_neg hgt.not_gt, if_neg hgt.not_ge]

theorem smin_eq_ite_toInt_le (x y : W64) : smin x y = if x.toInt ≤ y.toInt then x else y := by
  simp only [smin, BitVec.slt_iff_toInt_lt, ← not_lt, ite_not]

theorem smax_eq_ite_toInt_le (x y : W64) : smax x y = if x.toInt ≤ y.toInt then y else x := by
  simp only [smax, BitVec.slt_iff_toInt_lt]
  exact ite_lt_eq_ite_le_of_injective (fun _ _ => BitVec.eq_of_toInt_eq) x y

theorem umin_eq_ite_toNat_le (x y : W64) : umin x y = if x.toNat ≤ y.toNat then x else y := by
  simp only [umin, BitVec.ult_iff_lt, BitVec.lt_def, ← not_lt, ite_not]

theorem umax_eq_ite_toNat_le (x y : W64) : umax x y = if x.toNat ≤ y.toNat then y else x := by
  simp only [umax, BitVec.ult_iff_lt, BitVec.lt_def]
  exact ite_lt_eq_ite_le_of_injective (fun _ _ => BitVec.eq_of_toNat_eq) x y

/-- The product of two words is the low 64 bits of the product of their numbers. -/
theorem mul_eq_ofNat_toNat_mul (x y : W64) : x * y = BitVec.ofNat 64 (x.toNat * y.toNat) := by
  rw [BitVec.ofNat_mul, BitVec.ofNat_toNat, BitVec.ofNat_toNat, BitVec.setWidth_eq, BitVec.setWidth_eq]

/-! The zero registers (R79). -/

@[simp] theorem State.setG_zero (s : State) (key : Nat) (v : W64) : s.setG key 0 v = s := if_pos rfl
@[simp] theorem State.setO_zero (s : State) (key : Nat) (v : W32) : s.setO key 0 v = s := if_pos rfl
@[simp] theorem State.setP_zero (s : State) (key : Nat) (v : Bool) : s.setP key 0 v = s := if_pos rfl

/-! Instructions whose word is issued. -/

/-- A command that is a Graov instruction answers its effect and goes on, where its word is issued (R120). -/
theorem exec_eq_next_of_graov {c : Instr} {h : Proc} {w : W32} {cost : Nat} {s t : State} (hc : exec c s = graov h w cost s t)
    (hw : s.issues h w = true) : exec c s = .next (t.retire (Proc.key h) cost) :=
  hc.trans (act_next hw)

/-- A command that is a Graov instruction with a general register as its destination writes that register and goes on, where its word
is issued (R78, R120). -/
theorem exec_writesG_of_graov {c : Instr} {h : Proc} {w : W32} {rd cost : Nat} {v : W64} {s : State}
    (hc : exec c s = graov h w cost s (s.setG (Proc.key h) rd v)) (hw : s.issues h w = true) :
    ∃ t, exec c s = .next t ∧ WritesG (Proc.key h) rd v cost s t :=
  ⟨_, exec_eq_next_of_graov hc hw, writesG s (Proc.key h) rd v cost⟩

/-- nop goes on after one cycle and changes nothing else (R123). -/
theorem exec_nop_goesOn {h : Proc} {s : State} (hw : s.issues h 0 = true) :
    ∃ t, exec (.nop h) s = .next t ∧ OnlyProc (Proc.key h) s t ∧ t.procAt (Proc.key h) = (s.procAt (Proc.key h)).goesOn 1 :=
  ⟨_, exec_eq_next_of_graov rfl hw, (OnlyProc.refl s _).retire 1, by rw [State.retire_eq, State.procAt_modSame]; rfl⟩

/-- Settles O7: each instruction of the group is a `graov` that writes rd, with the value of
R124's table; the values that the model computes in other words than the table are rewritten first. -/
theorem integerInstructions : Obligations.IntegerInstructions := by
  unfold Obligations.IntegerInstructions
  intro h rd ra rb s key x y w gives
  have hmin : gives (.min h rd ra rb) 8 (if x.toInt ≤ y.toInt then x else y) 1 :=
    smin_eq_ite_toInt_le x y ▸ exec_writesG_of_graov rfl
  have hmax : gives (.max h rd ra rb) 9 (if x.toInt ≤ y.toInt then y else x) 1 :=
    smax_eq_ite_toInt_le x y ▸ exec_writesG_of_graov rfl
  have hminu : gives (.minu h rd ra rb) 10 (if x.toNat ≤ y.toNat then x else y) 1 :=
    umin_eq_ite_toNat_le x y ▸ exec_writesG_of_graov rfl
  have hmaxu : gives (.maxu h rd ra rb) 11 (if x.toNat ≤ y.toNat then y else x) 1 :=
    umax_eq_ite_toNat_le x y ▸ exec_writesG_of_graov rfl
  have hmul : gives (.mul h rd ra rb) 12 (BitVec.ofNat 64 (x.toNat * y.toNat)) 3 :=
    mul_eq_ofNat_toNat_mul x y ▸ exec_writesG_of_graov rfl
  refine ⟨exec_nop_goesOn, ?add, ?sub, ?and, ?or, ?xor, ?shl, ?shr, ?sar, hmin, hmax, hminu, hmaxu, hmul,
    s.setG_zero key, s.setO_zero key, s.setP_zero key⟩
  case add | sub | and | or | xor | shl | shr | sar => exact exec_writesG_of_graov rfl

end Sys2Proof.Machine

/-! The immediate group of Graov (R128) and adda (R130). -/

namespace Sys2Proof.Machine

/-- A command that is a Graov instruction with an address register as its destination writes that register and goes on, where its
word is issued (R78, R120). -/
theorem exec_writesA_of_graov {c : Instr} {h : Proc} {w : W32} {rd cost : Nat} {v : W32} {s : State}
    (hc : exec c s = graov h w cost s (s.setA (Proc.key h) rd v)) (hw : s.issues h w = true) :
    ∃ t, exec c s = .next t ∧ WritesA (Proc.key h) rd v cost s t :=
  ⟨_, exec_eq_next_of_graov hc hw, writesA s (Proc.key h) rd v cost⟩

/-- Settles O9: each instruction of the group is a `graov` that writes its destination. The extensions with the sign are those of the
statement by definition; an extension with zeros is the word of the immediate's number. -/
theorem immediates : Obligations.Immediates := by
  unfold Obligations.Immediates
  intro h rd ra imm a k s key x gives
  have hzeros : imm.setWidth 64 = BitVec.ofNat 64 imm.toNat := (BitVec.ofNat_toNat 64 imm).symm
  have handi : gives (.andi h rd ra imm) 0x09 (x &&& BitVec.ofNat 64 imm.toNat) := hzeros ▸ exec_writesG_of_graov rfl
  have hori : gives (.ori h rd ra imm) 0x0a (x ||| BitVec.ofNat 64 imm.toNat) := hzeros ▸ exec_writesG_of_graov rfl
  have hxori : gives (.xori h rd ra imm) 0x0b (x ^^^ BitVec.ofNat 64 imm.toNat) := hzeros ▸ exec_writesG_of_graov rfl
  have hinsi : gives (.insi h rd ra imm) 0x0f ((x <<< 14) ||| BitVec.ofNat 64 imm.toNat) := hzeros ▸ exec_writesG_of_graov rfl
  refine ⟨?addi, handi, hori, hxori, ?shli, ?shri, ?sari, hinsi, ?adda⟩
  case addi | shli | shri | sari => exact exec_writesG_of_graov rfl
  case adda => exact exec_writesA_of_graov rfl

end Sys2Proof.Machine

/-! A filter tap that finds its coefficients in the area of the recovery record (R149, R180): the record goes on first, so that the
ribbon's FILL moves with the instruction. -/

namespace Sys2Proof.Machine

/-- FILL of a ribbon's recovery record at the root time `at_`: the samples come since the record began, at most 4,096 (R180). -/
def State.recordFill (s : State) (r at_ : Nat) : Nat :=
  min 4096 (s.symbols (8 * r + (s.ribAt r).rlane) (at_ - (s.ribAt r).rfrom) + (s.ribAt r).phase)

theorem State.ribAt_modRib_same (s : State) (r : Nat) (f : RibSt → RibSt) : (s.modRib r f).ribAt r = f (s.ribAt r) :=
  Tab.get_put_same _ s.ribs r _

/-- A record that goes on shows every sample that has come. -/
theorem State.fill_recordTo {s : State} {r at_ : Nat} (hv : (s.ribAt r).rvalid = true) (hn : (s.ribAt r).fill < s.recordFill r at_) :
    ((s.recordTo r at_).ribAt r).fill = s.recordFill r at_ := by
  unfold State.recordTo
  dsimp only
  split
  case isTrue hstays => exact absurd hstays (not_or.2 ⟨not_not.2 hv, hn.not_ge⟩)
  case isFalse =>
    refine forEach_induct (P := fun t : State => (t.ribAt r).fill = s.recordFill r at_) (fun _ _ ht => ht) ?_
    rw [State.ribAt_modRib_same]; rfl

/-- Of the ribbons, a tap's lane changes none. -/
theorem ribs_tapLane (key vd ea : Nat) (upd mov : Bool) (i : Nat) (s : State) : (tapLane key vd ea upd mov i s).ribs = s.ribs := by
  unfold tapLane
  dsimp only
  cases upd <;> split <;> rfl

/-- A tap whose word is issued leaves the ribbons as the recovery record's going on left them. -/
theorem tap_ribs {r : Ribbon} {size : Nat} {upd mov : Bool} {vd a o : BitVec 3} {imm : BitVec 11} {s t : State}
    (ht : tap r size upd mov vd a o imm s = .next t) (hw : s.issues (.s r) (wordM 0x31 vd.toNat a.toNat o.toNat size imm.toNat) = true) :
    t.ribs = (s.recordSeen (rspKey r) (effAddr (s.a (rspKey r) a.toNat) imm 0x8000 16)).ribs := by
  obtain rfl := Host.Outcome.next.inj ((act_next hw).symm.trans ht)
  exact forEach_induct (P := fun u : State => u.ribs = (s.recordSeen (rspKey r) _).ribs)
    (fun i u hu => (ribs_tapLane _ _ _ upd mov i u).trans hu) rfl

/-- A tap whose coefficients lie in the area of a held record leaves FILL at the samples that have come by its cycle. -/
theorem fill_tap {r : Ribbon} {size : Nat} {upd mov : Bool} {vd a o : BitVec 3} {imm : BitVec 11} {s t : State}
    (ht : tap r size upd mov vd a o imm s = .next t) (hw : s.issues (.s r) (wordM 0x31 vd.toNat a.toNat o.toNat size imm.toNat) = true)
    (harea : 0x1000 ≤ effAddr (s.a (rspKey r) a.toNat) imm 0x8000 16 ∧ effAddr (s.a (rspKey r) a.toNat) imm 0x8000 16 < 0x3000)
    (hv : (s.ribAt r.val).rvalid = true)
    (hn : (s.ribAt r.val).fill < s.recordFill r.val (s.time.run + 2 * (s.procAt (rspKey r)).cycle)) :
    (t.ribAt r.val).fill = s.recordFill r.val (s.time.run + 2 * (s.procAt (rspKey r)).cycle) := by
  have hkey : rspKey r - 32 = r.val := Nat.add_sub_cancel_left 32 r.val
  have hrib : t.ribAt r.val = (s.recordTo r.val (s.time.run + 2 * (s.procAt (rspKey r)).cycle)).ribAt r.val := by
    unfold State.ribAt
    rw [tap_ribs ht hw, State.recordSeen, if_pos ⟨Nat.le_add_right 32 r.val, harea⟩, hkey]
  rw [hrib, State.fill_recordTo hv hn]

/-- The signal processor of ribbon 0, at cycle 10, is about to issue tapm v0, [a0 + 0], o0 with a0 at the start of the record's area; the
ribbon holds a record of lane 0, begun with the stitch, whose FILL is 0. -/
def tapAtRecord : State :=
  let s : State := { State.reset.wr F.PSTATE (RIBBON 0) 1 with
    clk := { State.reset.clk with locked := true }
    ribs := [(0, { State.reset.ribAt 0 with rvalid := true })] }
  s.modProcAt 32 (fun x => { x with
    imgs := [(0, { Image.none_ with loaded := true, code := [wordM 0x31 0 0 0 0 0] })], stop := 1, active := true, cycle := 10
    a := [(0, 0x1000)] })

/-- The tap of `tapAtRecord` comes about. -/
theorem tapAtRecord_issues : tapAtRecord.issues (.s 0) (wordM 0x31 0 0 0 0 0) = true := by decide

/-- At cycle 10, root cycle 20, 161 samples of lane 0 have come at its reset rate. -/
theorem tapAtRecord_recordFill :
    tapAtRecord.recordFill 0 (tapAtRecord.time.run + 2 * (tapAtRecord.procAt (rspKey 0)).cycle) = 161 := by decide

/-- Refutes O17: a filter tap may read its coefficients from the area of the recovery record, which then goes on to the tap's cycle
(R180). In `tapAtRecord` 161 samples have come and FILL is 0; tapm leaves FILL at 161, where the statement has nothing but the processor
change. -/
theorem not_filtersAndTrellis : ¬ Obligations.FiltersAndTrellis := by
  unfold Obligations.FiltersAndTrellis
  rintro ⟨hfilters, -⟩
  obtain ⟨-, htapm, -⟩ := hfilters 0 0 0 0 0 0 0 0 tapAtRecord
  obtain ⟨t, ht, ⟨hframe, -⟩, -⟩ := htapm tapAtRecord_issues
  have htap : tap 0 0 false true 0 0 0 0 tapAtRecord = .next t := ht
  have hfill : (t.ribAt 0).fill = 161 :=
    (fill_tap htap tapAtRecord_issues (by decide) (by decide) (by decide)).trans tapAtRecord_recordFill
  have hkept : t.ribAt 0 = tapAtRecord.ribAt 0 := by rw [hframe]; rfl
  have hzero : (t.ribAt 0).fill = 0 := hkept ▸ rfl
  exact absurd (hzero.symm.trans hfill) (by decide)

end Sys2Proof.Machine

/-! The reference clock (R488 to R493, R497, R515): what the verdict on a window of REFCLK leaves, and what the commands of the root
PLL's reference write. -/

namespace Sys2Proof.Machine

/-! Reads that the commands of the reference clock leave as they were. -/

@[simp] theorem State.rd_tick (s : State) (off : Nat) (f : Fld) (b i j : Nat) : (s.tick off).rd f b i j = s.rd f b i j := rfl
@[simp] theorem State.clk_tick (s : State) (off : Nat) : (s.tick off).clk = s.clk := rfl
@[simp] theorem State.evq_tick (s : State) (off : Nat) : (s.tick off).evq = s.evq := rfl
@[simp] theorem State.time_tick (s : State) (off : Nat) : (s.tick off).time = s.time := rfl
@[simp] theorem State.rd_setTime (s : State) (tm : TimeSt) (f : Fld) (b i j : Nat) : ({ s with time := tm } : State).rd f b i j = s.rd f b i j := rfl

/-- A count of one more, up to the field's largest value. -/
theorem satAdd_one (top a : Nat) : satAdd top a 1 = min top (a + 1) := by
  unfold satAdd
  split <;> omega

/-- A saturating field reads one more after it has been incremented, up to its largest value. -/
theorem State.rd_bump_same (s : State) (f : Fld) (base : Nat) (h : f.lo ≤ f.hi) (h2 : f.hi < 32) :
    (s.bump f base).rd f base = min f.max (s.rd f base + 1) := by
  have hfits : min f.max (s.rd f base + 1) < 2 ^ (f.hi + 1 - f.lo) :=
    (Nat.min_le_left _ _).trans_lt (Nat.sub_lt (by positivity) Nat.one_pos)
  rw [State.bump, State.rd_wr_same _ _ _ _ _ _ h h2, satAdd_one, Nat.mod_eq_of_lt hfits]

/-- A write below the blocks of the seams leaves every field of a seam. -/
theorem State.rd_seam_wr_below (s : State) (f g : Fld) (base v i j n : Nat) (h : f.at base i j < 0x4000) :
    (s.wr f base v i j).rd g (SEAM n) = s.rd g (SEAM n) := by
  refine State.rd_wr_word s f g _ _ _ _ _ _ _ (Nat.ne_of_gt (h.trans_le ?_))
  unfold Fld.at SEAM
  omega

theorem State.halted_wr (s : State) (f : Fld) (base v i j : Nat) (h : F.HALT_HALTED.at SEC 0 0 ≠ f.at base i j) :
    (s.wr f base v i j).halted = s.halted := by
  unfold State.halted State.flag
  rw [State.rd_wr_word _ _ _ _ _ _ _ _ _ _ h]

/-! Events. -/

@[simp] theorem State.rd_event (s : State) (e : EvCode) (block inst : Nat) (args : List Nat) (st : Status) (f : Fld) (b i j : Nat) :
    (s.event e block inst args st).rd f b i j = s.rd f b i j := by
  unfold State.event
  split <;> rfl

@[simp] theorem State.clk_event (s : State) (e : EvCode) (block inst : Nat) (args : List Nat) (st : Status) :
    (s.event e block inst args st).clk = s.clk := by
  unfold State.event
  split <;> rfl

@[simp] theorem State.time_event (s : State) (e : EvCode) (block inst : Nat) (args : List Nat) (st : Status) :
    (s.event e block inst args st).time = s.time := by
  unfold State.event
  split <;> rfl

/-- In the halt no event is raised (R358). -/
theorem State.event_of_halted {s : State} (e : EvCode) (block inst : Nat) (args : List Nat) (st : Status) (h : s.halted = true) :
    s.event e block inst args st = s := if_pos h

/-- Outside the halt the event's record, of the present instant, joins the queue. -/
theorem State.evq_event {s : State} (e : EvCode) (block inst : Nat) (args : List Nat) (st : Status) (h : s.halted = false) :
    ∃ ev, (s.event e block inst args st).evq = s.evq ++ [ev] ∧ ev.code = e.code ∧ ev.ts = s.now := by
  rw [State.event, if_neg (by rw [h]; exact Bool.false_ne_true)]
  exact ⟨_, rfl, rfl, rfl⟩

/-- While time is degraded, every timestamp says so (R56, R75). -/
theorem State.now_deg {s : State} (h : s.time.degraded = true) : s.now.deg = true := by
  unfold State.now
  split
  · exact h
  · rfl

/-! Loops over numbered units. -/

/-- What no round of a loop changes is as before the loop. -/
theorem forN_unchanged {σ α : Type} {f : Nat → σ → σ} {k : Nat} (r : σ → α) (s : σ) (h : ∀ n < k, ∀ t, r (f n t) = r t) :
    r (forN f k s) = r s := by
  induction k with
  | zero => rfl
  | succ k ih => exact (h k k.lt_succ_self _).trans (ih fun n hn => h n (hn.trans k.lt_succ_self))

/-- A loop whose rounds change nothing but registers changes nothing else. -/
theorem forN_frame {f : Nat → State → State} (s : State) (k : Nat) (h : ∀ n t, f n t = { t with regs := (f n t).regs }) :
    forN f k s = { s with regs := (forN f k s).regs } :=
  forN_induct (P := fun t : State => t = { s with regs := t.regs }) (fun n t ht => (h n t).trans (by rw [ht])) rfl

/-! The reference outputs follow the clock: nothing but their ACTIVE bits changes. -/

theorem State.forN_showRefout_frame (s : State) (k : Nat) :
    forN (fun n s => s.showRefout n) k s = { s with regs := (forN (fun n s => s.showRefout n) k s).regs } :=
  forN_frame s k fun _ _ => State.wr_frame _ _ _ _ _ _

/-- A field of a word that shows none of the first `k` reference outputs stays as it was. -/
theorem State.rd_forN_showRefout (s : State) (g : Fld) (base i j k : Nat) (h : ∀ n < k, g.at base i j ≠ F.REFO_ACTIVE.at CLK n 0) :
    (forN (fun n s => s.showRefout n) k s).rd g base i j = s.rd g base i j :=
  forN_unchanged (fun t : State => t.rd g base i j) s fun n hn _ => State.rd_wr_word _ _ _ _ _ _ _ _ _ _ (h n hn)

/-! BAD windows (R490, R492). -/

/-- The source that the root PLL turns to without REFCLK: the seam of a follower's parent that is UP, otherwise the internal oscillator
(R492). -/
def State.fallbackSource (s : State) : Nat :=
  if s.follower = true ∧ (List.range 6).any (fun n => s.rd F.SEAM_ROLE (SEAM n) == 1 && s.seamUp n) = true then 2 else 1

/-- REFCLK is not stable (R490). -/
def State.unstable (s : State) : State := { s.wr F.CLK_STABLE CLK 0 with clk := { s.clk with good := 0, back := false } }

/-- The root PLL begins to slew to its fallback source, and time is degraded (R492). -/
def State.onFallback (s : State) : State :=
  let s1 := ((s.unstable.wr F.CLK_SOURCE CLK s.fallbackSource).wr F.CLK_SLEWING CLK 1).wr F.CLK_LOCKED CLK 0
  { s1.wr F.SYNC_LOCKED CLK 0 with time := { s1.time with degraded := true, degClear := false, good := 0 } }

/-- The root PLL has locked and follows REFCLK. -/
def State.followsRefclk (s : State) : Prop := s.clk.locked = true ∧ s.rd F.CLK_SOURCE CLK = 0

theorem State.not_followsRefclk_iff {s : State} : ¬ s.followsRefclk ↔ s.clk.locked = false ∨ s.rd F.CLK_SOURCE CLK ≠ 0 := by
  rw [State.followsRefclk, not_and_or, Bool.not_eq_true]

theorem State.badWindow_of_not_followsRefclk {s : State} (h : ¬ s.followsRefclk) : s.badWindow = s.unstable := if_neg h

theorem State.badWindow_of_followsRefclk {s : State} (h : s.followsRefclk) :
    s.badWindow = forN (fun n s => s.showRefout n) 8
      (s.onFallback.event .clockLoss blkCLK 0 [s.fallbackSource, s.rd F.CLK_LAST_COUNT CLK]) := by
  have hsrc : (if s.follower && ((List.range 6).find? (fun n => s.rd F.SEAM_ROLE (SEAM n) == 1 && s.seamUp n)).isSome then 2 else 1)
      = s.fallbackSource := by
    rw [State.fallbackSource, List.isSome_find?]
    simp only [Bool.and_eq_true]
  obtain ⟨hl, hs⟩ := h
  unfold State.badWindow State.onFallback
  dsimp only
  rw [if_pos ⟨hl, hs⟩, hsrc]
  rfl

/-- After a BAD window of a device that follows REFCLK the registers show the switch to the fallback source. -/
theorem State.rd_badWindow_of_followsRefclk {s : State} (h : s.followsRefclk) (g : Fld)
    (hg : ∀ n < 8, g.at CLK 0 0 ≠ F.REFO_ACTIVE.at CLK n 0) : s.badWindow.rd g CLK = s.onFallback.rd g CLK := by
  rw [State.badWindow_of_followsRefclk h, State.rd_forN_showRefout _ _ _ _ _ _ hg, State.rd_event]

theorem State.fallbackSource_lt (s : State) : s.fallbackSource < 4 := by
  unfold State.fallbackSource
  split <;> decide

/-- What a BAD window leaves (R490, R492). -/
def LeftByBadWindow (s t : State) : Prop :=
  t.rd F.CLK_STABLE CLK = 0 ∧ t.clk.good = 0 ∧ t.clk.back = false
    ∧ (s.clk.locked = false ∨ s.rd F.CLK_SOURCE CLK ≠ 0 → t.evq = s.evq ∧ t.rd F.CLK_SOURCE CLK = s.rd F.CLK_SOURCE CLK ∧ t.time = s.time)
    ∧ (s.up = true → s.rd F.CLK_SOURCE CLK = 0 →
        t.rd F.CLK_SOURCE CLK = s.fallbackSource ∧ t.rd F.CLK_SLEWING CLK = 1 ∧ t.rd F.CLK_LOCKED CLK = 0 ∧ t.rd F.SYNC_LOCKED CLK = 0
          ∧ t.time.degraded = true ∧ t.time.degClear = false ∧ t.clk.locked = true
          ∧ ∃ ev, t.evq = s.evq ++ [ev] ∧ ev.code = 0x20 ∧ ev.ts.deg = true)

theorem State.rd_unstable_stable (s : State) : s.unstable.rd F.CLK_STABLE CLK = 0 :=
  State.rd_wr_same s F.CLK_STABLE CLK 0 0 0 (by decide) (by decide)

theorem State.rd_unstable_source (s : State) : s.unstable.rd F.CLK_SOURCE CLK = s.rd F.CLK_SOURCE CLK :=
  State.rd_wr_field s F.CLK_STABLE F.CLK_SOURCE CLK CLK 0 0 0 0 0 (by decide) (by decide) (by decide) (by decide)

/-- What the registers show of a device that has begun to slew to its fallback source. -/
theorem State.rd_onFallback (s : State) :
    s.onFallback.rd F.CLK_STABLE CLK = 0 ∧ s.onFallback.rd F.CLK_SOURCE CLK = s.fallbackSource ∧ s.onFallback.rd F.CLK_SLEWING CLK = 1
      ∧ s.onFallback.rd F.CLK_LOCKED CLK = 0 ∧ s.onFallback.rd F.SYNC_LOCKED CLK = 0 := by
  have hsrc : s.fallbackSource % 2 ^ (F.CLK_SOURCE.hi + 1 - F.CLK_SOURCE.lo) = s.fallbackSource := Nat.mod_eq_of_lt s.fallbackSource_lt
  unfold State.onFallback
  simp (disch := decide) only [State.rd_setTime, State.rd_wr_word, State.rd_wr_field, State.rd_wr_same, State.rd_unstable_stable, hsrc]
  decide

/-- A device on its fallback source is in the halt just where it was before. -/
theorem State.halted_onFallback (s : State) : s.onFallback.halted = s.halted := by
  have htime (u : State) (tm : TimeSt) : ({ u with time := tm } : State).halted = u.halted := rfl
  have hclk (u : State) (c : ClkSt) : ({ u with clk := c } : State).halted = u.halted := rfl
  unfold State.onFallback State.unstable
  simp (disch := decide) only [htime, hclk, State.halted_wr]

/-- A BAD window of a device that follows REFCLK raises the event of a loss, with a timestamp that is degraded (R492). -/
theorem State.evq_badWindow_of_followsRefclk {s : State} (h : s.followsRefclk) (hh : s.halted = false) :
    ∃ ev, s.badWindow.evq = s.evq ++ [ev] ∧ ev.code = 0x20 ∧ ev.ts.deg = true := by
  obtain ⟨ev, hevq, hcode, hts⟩ := State.evq_event (s := s.onFallback) .clockLoss blkCLK 0
    [s.fallbackSource, s.rd F.CLK_LAST_COUNT CLK] .ok (s.halted_onFallback.trans hh)
  rw [State.badWindow_of_followsRefclk h, State.forN_showRefout_frame]
  exact ⟨ev, hevq, hcode, hts ▸ State.now_deg rfl⟩

theorem State.leftByBadWindow_of_followsRefclk {s : State} (h : s.followsRefclk) : LeftByBadWindow s s.badWindow := by
  obtain ⟨hstable, hsource, hslew, hlock, hsync⟩ := s.rd_onFallback
  have hclk : s.badWindow.clk = { s.clk with good := 0, back := false } := by
    rw [State.badWindow_of_followsRefclk h, State.forN_showRefout_frame, State.clk_event]
    rfl
  have htime : s.badWindow.time = { s.time with degraded := true, degClear := false, good := 0 } := by
    rw [State.badWindow_of_followsRefclk h, State.forN_showRefout_frame, State.time_event]
    rfl
  have hrd := State.rd_badWindow_of_followsRefclk h
  rw [LeftByBadWindow, hclk, htime]
  refine ⟨(hrd _ (by decide)).trans hstable, rfl, rfl, fun hnot => ?other, fun hup _ => ?follows⟩
  case other => exact absurd h (State.not_followsRefclk_iff.2 hnot)
  case follows =>
    have hh : s.halted = false := by simpa [State.up, h.1] using hup
    exact ⟨(hrd _ (by decide)).trans hsource, (hrd _ (by decide)).trans hslew, (hrd _ (by decide)).trans hlock,
      (hrd _ (by decide)).trans hsync, rfl, rfl, h.1, State.evq_badWindow_of_followsRefclk h hh⟩

theorem State.leftByBadWindow_of_not_followsRefclk {s : State} (h : ¬ s.followsRefclk) : LeftByBadWindow s s.badWindow := by
  rw [State.badWindow_of_not_followsRefclk h]
  refine ⟨s.rd_unstable_stable, rfl, rfl, fun _ => ⟨rfl, s.rd_unstable_source, rfl⟩, fun hup hs => ?_⟩
  exact absurd ⟨(Bool.and_eq_true_iff.1 hup).1, hs⟩ h

/-- The verdict BAD does what R490 and R492 say, whether the device follows REFCLK or not. -/
theorem State.leftByBadWindow_badWindow (s : State) : LeftByBadWindow s s.badWindow :=
  (em s.followsRefclk).elim State.leftByBadWindow_of_followsRefclk State.leftByBadWindow_of_not_followsRefclk

/-- The count of a window is no part of what a BAD window's outcome depends on. -/
theorem LeftByBadWindow.of_count {s t : State} {off c : Nat} (h : LeftByBadWindow ((s.tick off).wr F.CLK_LAST_COUNT CLK c) t) :
    LeftByBadWindow s t := by
  have hup : ((s.tick off).wr F.CLK_LAST_COUNT CLK c).up = s.up :=
    congrArg (s.clk.locked && !·) (State.halted_wr _ _ _ _ _ _ (by decide))
  have hsrc : ((s.tick off).wr F.CLK_LAST_COUNT CLK c).fallbackSource = s.fallbackSource := by
    unfold State.fallbackSource State.follower State.devnum State.seamUp
    simp (disch := decide) only [State.rd_seam_wr_below, State.rd_wr_word, State.rd_tick]
  simpa (disch := decide) only [LeftByBadWindow, hup, hsrc, State.rd_wr_word, State.rd_tick, State.clk_wr, State.clk_tick, State.evq_wr,
    State.evq_tick, State.time_wr, State.time_tick] using h

/-- A window's count stands in LAST_COUNT after the verdict BAD. -/
theorem State.rd_badWindow_lastCount (s : State) : s.badWindow.rd F.CLK_LAST_COUNT CLK = s.rd F.CLK_LAST_COUNT CLK := by
  have hkeeps : s.unstable.rd F.CLK_LAST_COUNT CLK = s.rd F.CLK_LAST_COUNT CLK := State.rd_wr_word _ _ _ _ _ _ _ _ _ _ (by decide)
  by_cases h : s.followsRefclk
  · rw [State.rd_badWindow_of_followsRefclk h _ (by decide), State.onFallback]
    simp (disch := decide) only [State.rd_setTime, State.rd_wr_word, hkeeps]
  · rw [State.badWindow_of_not_followsRefclk h, hkeeps]

/-! GOOD windows (R490, R493). -/

/-- REFCLK is stable; a device on a fallback source returns to it at the next boundary (R490, R493). -/
def State.stable (s : State) : State :=
  { s.wr F.CLK_STABLE CLK 1 with
    clk := { s.clk with good := 16, back := s.clk.back || (s.clk.locked && s.rd F.CLK_SOURCE CLK != 0) } }

theorem State.goodWindow_of_lt {s : State} (h : s.clk.good < 15) :
    s.goodWindow = { s with clk := { s.clk with good := s.clk.good + 1 } } := by
  have hn : min 16 (s.clk.good + 1) = s.clk.good + 1 := by omega
  unfold State.goodWindow
  rw [hn]
  exact if_pos (by omega)

/-- A start that waits for REFCLK goes on, once the stack's supply is good (R515). -/
def State.startGoesOn (s : State) : State :=
  if s.rd F.ST_PHASE DEV = 3 ∧ s.start.vin = true ∧ ¬ s.clk.locked = true then s.wr F.ST_PHASE DEV 4 else s

/-- The sixteenth GOOD window in a row makes REFCLK stable, and a start that waits for it goes on. -/
theorem State.goodWindow_of_ge {s : State} (h : 15 ≤ s.clk.good) : s.goodWindow = s.stable.startGoesOn := by
  have hn : min 16 (s.clk.good + 1) = 16 := by omega
  have hback : (if s.clk.locked = true ∧ s.rd F.CLK_SOURCE CLK ≠ 0
      then { s.wr F.CLK_STABLE CLK 1 with clk := { s.clk with good := 16, back := true } }
      else { s.wr F.CLK_STABLE CLK 1 with clk := { s.clk with good := 16 } }) = s.stable := by
    unfold State.stable
    split
    case isTrue hf => simp [hf.1, hf.2]
    case isFalse hf =>
      have hno : (s.clk.locked && s.rd F.CLK_SOURCE CLK != 0) = false := by simpa using hf
      rw [hno, Bool.or_false]
  unfold State.goodWindow
  rw [hn]
  exact (if_neg (lt_irrefl 16)).trans (congrArg State.startGoesOn hback)

theorem State.startGoesOn_frame (s : State) : s.startGoesOn = { s with regs := s.startGoesOn.regs } := by
  unfold State.startGoesOn
  split <;> rfl

/-- A start that goes on shows it in PHASE only. -/
theorem State.rd_clk_startGoesOn (s : State) (g : Fld) (h : g.at CLK 0 0 ≠ F.ST_PHASE.at DEV 0 0) : s.startGoesOn.rd g CLK = s.rd g CLK := by
  unfold State.startGoesOn
  split
  · exact State.rd_wr_word _ _ _ _ _ _ _ _ _ _ h
  · rfl

theorem State.rd_phase_startGoesOn {s : State} (h : s.rd F.ST_PHASE DEV = 3) :
    s.startGoesOn.rd F.ST_PHASE DEV = if s.start.vin = true ∧ s.clk.locked = false then 4 else 3 := by
  unfold State.startGoesOn
  simp only [h, true_and, Bool.not_eq_true]
  split
  · exact State.rd_wr_same _ _ _ _ _ _ (by decide) (by decide)
  · exact h

/-- What a GOOD window leaves (R490, R493, R515). -/
def LeftByGoodWindow (s t : State) : Prop :=
  t.clk.good = min 16 (s.clk.good + 1)
    ∧ (s.clk.good < 15 → t.rd F.CLK_STABLE CLK = s.rd F.CLK_STABLE CLK) ∧ (15 ≤ s.clk.good → t.rd F.CLK_STABLE CLK = 1)
    ∧ (15 ≤ s.clk.good → s.clk.locked = true → s.rd F.CLK_SOURCE CLK ≠ 0 → t.clk.back = true) ∧ t.evq = s.evq ∧ t.time = s.time
    ∧ (s.rd F.ST_PHASE DEV = 3 → t.rd F.ST_PHASE DEV = if 15 ≤ s.clk.good ∧ s.start.vin = true ∧ s.clk.locked = false then 4 else 3)

theorem State.leftByGoodWindow_goodWindow (s : State) : LeftByGoodWindow s s.goodWindow := by
  rcases Nat.lt_or_ge s.clk.good 15 with h | h
  case inl =>
    have hno : ¬ 15 ≤ s.clk.good := h.not_ge
    have hmin : s.clk.good + 1 = min 16 (s.clk.good + 1) := by omega
    rw [State.goodWindow_of_lt h]
    exact ⟨hmin, fun _ => rfl, fun hge => absurd hge hno, fun hge => absurd hge hno, rfl, rfl,
      fun hp => hp.trans (if_neg fun hf => hno hf.1).symm⟩
  case inr =>
    have hstable : s.stable.rd F.CLK_STABLE CLK = 1 := State.rd_wr_same s F.CLK_STABLE CLK 1 0 0 (by decide) (by decide)
    have hphase : s.stable.rd F.ST_PHASE DEV = s.rd F.ST_PHASE DEV := State.rd_wr_word _ _ _ _ _ _ _ _ _ _ (by decide)
    have hclk : s.goodWindow.clk = s.stable.clk := by rw [State.goodWindow_of_ge h, State.startGoesOn_frame]
    have hevq : s.goodWindow.evq = s.evq := by rw [State.goodWindow_of_ge h, State.startGoesOn_frame]; rfl
    have htime : s.goodWindow.time = s.time := by rw [State.goodWindow_of_ge h, State.startGoesOn_frame]; rfl
    rw [LeftByGoodWindow, hclk, hevq, htime, State.goodWindow_of_ge h]
    have hmin : 16 = min 16 (s.clk.good + 1) := by omega
    refine ⟨hmin, fun hlt => absurd hlt h.not_gt, fun _ => ?stable, fun _ hl hs => ?back, rfl, rfl, fun hp => ?phase⟩
    case stable => exact (State.rd_clk_startGoesOn _ _ (by decide)).trans hstable
    case back => simp [State.stable, hl, hs]
    case phase =>
      rw [State.rd_phase_startGoesOn (hphase.trans hp)]
      simp only [h, true_and]
      rfl

/-- The count of a window is no part of what a GOOD window's outcome depends on. -/
theorem LeftByGoodWindow.of_count {s t : State} {off c : Nat} (h : LeftByGoodWindow ((s.tick off).wr F.CLK_LAST_COUNT CLK c) t) :
    LeftByGoodWindow s t := by
  unfold LeftByGoodWindow at h
  simp (disch := decide) only [State.rd_wr_word, State.rd_tick] at h
  exact h

/-- A window's count stands in LAST_COUNT after the verdict GOOD. -/
theorem State.rd_goodWindow_lastCount (s : State) : s.goodWindow.rd F.CLK_LAST_COUNT CLK = s.rd F.CLK_LAST_COUNT CLK := by
  rcases Nat.lt_or_ge s.clk.good 15 with h | h
  · rw [State.goodWindow_of_lt h]
    rfl
  · rw [State.goodWindow_of_ge h, State.rd_clk_startGoesOn _ _ (by decide)]
    exact State.rd_wr_word _ _ _ _ _ _ _ _ _ _ (by decide)

/-! Windows between the limits (R490). -/

/-- A window whose count drifts: DRIFT_WIN counts it, and without a stable REFCLK the row of GOOD windows begins again. -/
def State.driftWindow (s : State) : State :=
  let s1 := s.bump F.CLK_DRIFT_WIN CLK
  if s1.flag F.CLK_STABLE CLK then s1 else { s1 with clk := { s1.clk with good := 0 } }

/-- What a window between the limits leaves (R490). -/
def LeftByDriftWindow (s t : State) : Prop :=
  t.rd F.CLK_DRIFT_WIN CLK = min F.CLK_DRIFT_WIN.max (s.rd F.CLK_DRIFT_WIN CLK + 1)
    ∧ t.rd F.CLK_STABLE CLK = s.rd F.CLK_STABLE CLK ∧ t.clk.good = if s.rd F.CLK_STABLE CLK = 1 then s.clk.good else 0

theorem State.rd_driftWindow (s : State) (g : Fld) : s.driftWindow.rd g CLK = (s.bump F.CLK_DRIFT_WIN CLK).rd g CLK := by
  unfold State.driftWindow
  dsimp only
  split <;> rfl

theorem State.rd_bump_word (s : State) (f g : Fld) (base : Nat) (h : g.at base 0 0 ≠ f.at base 0 0) :
    (s.bump f base).rd g base = s.rd g base := State.rd_wr_word _ _ _ _ _ _ _ _ _ _ h

theorem State.leftByDriftWindow_driftWindow (s : State) : LeftByDriftWindow s s.driftWindow := by
  have hstable : (s.bump F.CLK_DRIFT_WIN CLK).rd F.CLK_STABLE CLK = s.rd F.CLK_STABLE CLK := State.rd_bump_word _ _ _ _ (by decide)
  refine ⟨?counted, (s.rd_driftWindow _).trans hstable, ?good⟩
  case counted => exact (s.rd_driftWindow _).trans (State.rd_bump_same _ _ _ (by decide) (by decide))
  case good =>
    simp only [State.driftWindow, State.flag, hstable, beq_iff_eq]
    split <;> rfl

/-- The count of a window is no part of what a window between the limits leaves. -/
theorem LeftByDriftWindow.of_count {s t : State} {off c : Nat} (h : LeftByDriftWindow ((s.tick off).wr F.CLK_LAST_COUNT CLK c) t) :
    LeftByDriftWindow s t := by
  simpa (disch := decide) only [LeftByDriftWindow, State.rd_wr_word, State.rd_tick, State.clk_wr, State.clk_tick] using h

/-! The verdict on a window (R489). -/

/-- A window with the expected count `e` is judged BAD without edges and beyond the limit `b`, GOOD within the limit `g`, and counted as
drift between the two; LAST_COUNT shows its count `c` (R489). -/
def State.judged (s : State) (e g b c : Nat) : State :=
  let s1 := s.wr F.CLK_LAST_COUNT CLK c
  if c = 0 ∨ b < max (c - e) (e - c) then s1.badWindow else if max (c - e) (e - c) ≤ g then s1.goodWindow else s1.driftWindow

theorem exec_refclkWindow {count : BitVec 18} {off : Nat} {s : State} {e g b : Nat} (hv : s.start.vhk = true)
    (hlim : s.refLimits = (e, g, b)) : exec (.refclkWindow count off) s = .next ((s.tick off).judged e g b count.toNat) := by
  have hdist : (if count.toNat < e then e - count.toNat else count.toNat - e) = max (count.toNat - e) (e - count.toNat) := by
    split <;> omega
  change execRefclkWindow count off s = _
  unfold execRefclkWindow State.judged
  rw [hlim]
  dsimp only
  rw [hdist]
  exact act_next hv

section
variable (s : State) (off : Nat) {e g b c : Nat}

/-- LAST_COUNT reads the count that was written to it. -/
theorem State.rd_lastCount_counted (hc : c < 2 ^ 18) : ((s.tick off).wr F.CLK_LAST_COUNT CLK c).rd F.CLK_LAST_COUNT CLK = c :=
  (State.rd_wr_same _ F.CLK_LAST_COUNT CLK c 0 0 (by decide) (by decide)).trans (Nat.mod_eq_of_lt hc)

theorem State.judged_bad (h : c = 0 ∨ b < max (c - e) (e - c)) (hc : c < 2 ^ 18) :
    LeftByBadWindow s ((s.tick off).judged e g b c) ∧ ((s.tick off).judged e g b c).rd F.CLK_LAST_COUNT CLK = c := by
  unfold State.judged
  dsimp only
  rw [if_pos h]
  exact ⟨(State.leftByBadWindow_badWindow _).of_count, (State.rd_badWindow_lastCount _).trans (s.rd_lastCount_counted off hc)⟩

theorem State.judged_good (hgb : g ≤ b) (hge : g < e) (h : max (c - e) (e - c) ≤ g) (hc : c < 2 ^ 18) :
    ((s.tick off).judged e g b c).rd F.CLK_LAST_COUNT CLK = c ∧ LeftByGoodWindow s ((s.tick off).judged e g b c) := by
  have hnot : ¬ (c = 0 ∨ b < max (c - e) (e - c)) := by omega
  unfold State.judged
  dsimp only
  rw [if_neg hnot, if_pos h]
  exact ⟨(State.rd_goodWindow_lastCount _).trans (s.rd_lastCount_counted off hc), (State.leftByGoodWindow_goodWindow _).of_count⟩

theorem State.judged_drift (hg : g < max (c - e) (e - c)) (hb : max (c - e) (e - c) ≤ b) (h0 : c ≠ 0) (hc : c < 2 ^ 18) :
    ((s.tick off).judged e g b c).rd F.CLK_LAST_COUNT CLK = c ∧ LeftByDriftWindow s ((s.tick off).judged e g b c) := by
  have hnot : ¬ (c = 0 ∨ b < max (c - e) (e - c)) := by omega
  have hkeeps (u : State) : u.driftWindow.rd F.CLK_LAST_COUNT CLK = u.rd F.CLK_LAST_COUNT CLK :=
    (u.rd_driftWindow _).trans (u.rd_bump_word _ _ _ (by decide))
  unfold State.judged
  dsimp only
  rw [if_neg hnot, if_neg hg.not_ge]
  exact ⟨(hkeeps _).trans (s.rd_lastCount_counted off hc), (State.leftByDriftWindow_driftWindow _).of_count⟩

end

/-- REFCLK_MISSING is a BAD window. -/
theorem exec_refclkMissing {off : Nat} {s : State} (hv : s.start.vhk = true) :
    ∃ t, exec (.refclkMissing off) s = .next t ∧ LeftByBadWindow s t :=
  ⟨_, act_next hv, (s.tick off).leftByBadWindow_badWindow⟩

/-- A count beyond the limit of a BAD window makes it one before its end. -/
theorem exec_refclkOvercount {count : BitVec 18} {off : Nat} {s : State} {e g b : Nat} (hv : s.start.vhk = true)
    (hlim : s.refLimits = (e, g, b)) (hc : e + b < count.toNat) :
    ∃ t, exec (.refclkOvercount count off) s = .next t ∧ LeftByBadWindow s t := by
  have hexec : exec (.refclkOvercount count off) s = .next (s.tick off).badWindow := by
    change execRefclkOvercount count off s = _
    unfold execRefclkOvercount
    rw [hlim]
    exact act_next (by simp [hv, hc])
  exact ⟨_, hexec, (s.tick off).leftByBadWindow_badWindow⟩

/-! The end of a slew, forced switches and the start of the root PLL (R491, R493, R497, R515). -/

/-- The slew is over: the registers and the event of it (R493). -/
def State.slewOver (s : State) : State :=
  (((s.wr F.CLK_SLEWING CLK 0).wr F.CLK_LOCKED CLK 1).event .clockRestored blkCLK 0).bump F.CLK_LOSSES CLK

theorem State.rd_slewOver (s : State) :
    s.slewOver.rd F.CLK_SLEWING CLK = 0 ∧ s.slewOver.rd F.CLK_LOCKED CLK = 1
      ∧ s.slewOver.rd F.CLK_LOSSES CLK = min F.CLK_LOSSES.max (s.rd F.CLK_LOSSES CLK + 1) := by
  unfold State.slewOver
  simp (disch := decide) only [State.rd_bump_word, State.rd_bump_same, State.rd_event, State.rd_wr_word, State.rd_wr_field, State.rd_wr_same]
  decide

theorem State.clk_slewOver (s : State) : s.slewOver.clk = s.clk := State.clk_event _ _ _ _ _ _

/-- The event of a restored clock is raised, but not in the halt. -/
theorem State.evq_slewOver (s : State) :
    (s.halted = false → ∃ ev, s.slewOver.evq = s.evq ++ [ev] ∧ ev.code = 0x21) ∧ (s.halted = true → s.slewOver.evq = s.evq) := by
  have hhalt : ((s.wr F.CLK_SLEWING CLK 0).wr F.CLK_LOCKED CLK 1).halted = s.halted := by simp (disch := decide) only [State.halted_wr]
  constructor
  · intro h
    obtain ⟨ev, hevq, hcode, -⟩ := State.evq_event .clockRestored blkCLK 0 [] .ok (hhalt.trans h)
    exact ⟨ev, hevq, hcode⟩
  · intro h
    have hsame := State.event_of_halted .clockRestored blkCLK 0 [] .ok (hhalt.trans h)
    unfold State.slewOver
    rw [hsame]
    rfl

theorem exec_clockRestored {off : Nat} {s : State} (hl : s.clk.locked = true) (hs : s.rd F.CLK_SOURCE CLK = 0) (hw : s.rd F.CLK_SLEWING CLK = 1) :
    exec (.clockRestored off) s = .next { (s.tick off).slewOver with time := { s.time with degClear := true } } := by
  have hok : (s.clk.locked && s.rd F.CLK_SOURCE CLK == 0 && s.flag F.CLK_SLEWING CLK) = true := by simp [State.flag, hl, hs, hw]
  have htime : (s.tick off).slewOver.time = s.time := State.time_event _ _ _ _ _ _
  rw [← htime]
  exact act_next hok

/-- A forced switch of the root reference shows in two registers, one of another multiplexer in FORCED_SW only (R497). -/
def State.forcedSwitch (s : State) (root : Bool) : State :=
  if root then (s.bump F.CLK_FORCED_SW CLK).wr F.CLK_STOPPED_REF CLK 1 else s.bump F.CLK_FORCED_SW CLK

theorem State.rd_forcedSwitch (s : State) (root : Bool) :
    (s.forcedSwitch root).rd F.CLK_FORCED_SW CLK = min F.CLK_FORCED_SW.max (s.rd F.CLK_FORCED_SW CLK + 1)
      ∧ (s.forcedSwitch root).rd F.CLK_STOPPED_REF CLK = if root then 1 else s.rd F.CLK_STOPPED_REF CLK := by
  have hcount : (s.bump F.CLK_FORCED_SW CLK).rd F.CLK_FORCED_SW CLK = min F.CLK_FORCED_SW.max (s.rd F.CLK_FORCED_SW CLK + 1) :=
    State.rd_bump_same _ _ _ (by decide) (by decide)
  cases root with
  | false => exact ⟨hcount, State.rd_bump_word _ _ _ _ (by decide)⟩
  | true => exact ⟨(State.rd_wr_word _ _ _ _ _ _ _ _ _ _ (by decide)).trans hcount, State.rd_wr_same _ _ _ _ _ _ (by decide) (by decide)⟩

theorem State.onlyRegs_forcedSwitch (s : State) (root : Bool) :
    OnlyRegs [F.CLK_FORCED_SW.at CLK 0 0, F.CLK_STOPPED_REF.at CLK 0 0] s (s.forcedSwitch root) := by
  have hbump (a : Nat) (h : a ≠ F.CLK_FORCED_SW.at CLK 0 0) : (s.bump F.CLK_FORCED_SW CLK).reg a = s.reg a :=
    State.reg_wr_other s _ _ _ _ _ h
  cases root with
  | false => exact ⟨rfl, fun a ha => hbump a (List.ne_of_not_mem_cons ha)⟩
  | true =>
    refine ⟨rfl, fun a ha => ?_⟩
    obtain ⟨hforced, hstopped⟩ : a ≠ F.CLK_FORCED_SW.at CLK 0 0 ∧ a ≠ F.CLK_STOPPED_REF.at CLK 0 0 := by simpa using ha
    exact (State.reg_wr_other _ _ _ _ _ _ hstopped).trans (hbump a hforced)

theorem exec_forcedSwitch {root : Bool} {s : State} (hv : s.start.vhk = true) : exec (.forcedSwitch root) s = .next (s.forcedSwitch root) :=
  act_next hv

/-- What a start on the internal oscillator shows in the registers (R491, R519). -/
def State.onIntosc (s : State) : State := ((s.wr F.ST_INTOSC_START DEV 1).wr F.CLK_SOURCE CLK 1).wr F.ST_PHASE DEV 4

theorem State.rd_onIntosc (s : State) :
    s.onIntosc.rd F.ST_INTOSC_START DEV = 1 ∧ s.onIntosc.rd F.CLK_SOURCE CLK = 1 ∧ s.onIntosc.rd F.ST_PHASE DEV = 4
      ∧ s.onIntosc.rd F.CLK_STABLE CLK = s.rd F.CLK_STABLE CLK := by
  unfold State.onIntosc
  simp (disch := decide) only [State.rd_wr_word, State.rd_wr_field, State.rd_wr_same]
  decide

/-- A start whose REFCLK stays away goes on with the internal oscillator, with time degraded and the loss to be reported (R491). -/
theorem exec_intoscStart {s : State} (hv : s.start.vhk = true) (hvin : s.start.vin = true) (hl : s.clk.locked = false)
    (hs : s.rd F.CLK_STABLE CLK = 0) (hr : s.start.resetLow = false) (hp : s.rd F.ST_PHASE DEV = 3) :
    ∃ t, exec .intoscStart s = .next t ∧ t.rd F.ST_INTOSC_START DEV = 1 ∧ t.rd F.CLK_SOURCE CLK = 1 ∧ t.rd F.ST_PHASE DEV = 4
      ∧ t.time.degraded = true ∧ t.hk.reportClk.isSome = true ∧ t.rd F.CLK_STABLE CLK = 0 := by
  have hok : (s.start.vhk && s.start.vin && !s.clk.locked && !s.flag F.CLK_STABLE CLK && !s.start.resetLow && s.rd F.ST_PHASE DEV == 3)
      = true := by simp [State.flag, hv, hvin, hl, hs, hr, hp]
  obtain ⟨hstart, hsource, hphase, hstable⟩ := s.rd_onIntosc
  exact ⟨_, act_next hok, hstart, hsource, hphase, rfl, rfl, hstable.trans hs⟩

/-- A seam that is enabled begins to train (R515). -/
def State.trainSeam (n : Nat) (s : State) : State := if s.flag F.SEAM_EN (SEAM n) then s.wr F.SEAM_LSTATE (SEAM n) 1 else s

theorem State.trainSeam_frame (s : State) (n : Nat) : s.trainSeam n = { s with regs := (s.trainSeam n).regs } := by
  unfold State.trainSeam
  split <;> rfl

/-- Of all words, the training of a seam changes the word of its link state only. -/
theorem State.rd_trainSeam_word (s : State) (n : Nat) (g : Fld) (base : Nat) (h : g.at base 0 0 ≠ F.SEAM_LSTATE.at (SEAM n) 0 0) :
    (s.trainSeam n).rd g base = s.rd g base := by
  unfold State.trainSeam
  split
  · exact State.rd_wr_word _ _ _ _ _ _ _ _ _ _ h
  · rfl

theorem State.rd_lstate_trainSeam (s : State) (n : Nat) :
    (s.trainSeam n).rd F.SEAM_LSTATE (SEAM n) = if s.rd F.SEAM_EN (SEAM n) = 1 then 1 else s.rd F.SEAM_LSTATE (SEAM n) := by
  unfold State.trainSeam State.flag
  simp only [beq_iff_eq]
  split
  · exact State.rd_wr_same _ _ _ _ _ _ (by decide) (by decide)
  · rfl

theorem State.forN_trainSeam_frame (s : State) (k : Nat) : forN State.trainSeam k s = { s with regs := (forN State.trainSeam k s).regs } :=
  forN_frame s k fun n t => t.trainSeam_frame n

/-- The training of the first `k` seams leaves the fields of every word but those of their link states. -/
theorem State.rd_forN_trainSeam_word (s : State) (k : Nat) (g : Fld) (base : Nat)
    (h : ∀ n < k, g.at base 0 0 ≠ F.SEAM_LSTATE.at (SEAM n) 0 0) : (forN State.trainSeam k s).rd g base = s.rd g base :=
  forN_unchanged (fun t : State => t.rd g base) s fun n hn t => t.rd_trainSeam_word n g base (h n hn)

/-- A seam's word of EN is no seam's word of the link state. -/
theorem seamEn_at_ne_seamLstate_at (n m : Nat) : F.SEAM_EN.at (SEAM n) 0 0 ≠ F.SEAM_LSTATE.at (SEAM m) 0 0 := by
  simp only [Fld.at, SEAM, F.SEAM_EN, F.SEAM_LSTATE]
  omega

/-- Each of the first `k` seams that is enabled trains; the other seams' link states stay as they were. -/
theorem State.rd_lstate_forN_trainSeam (s : State) (n k : Nat) :
    (forN State.trainSeam k s).rd F.SEAM_LSTATE (SEAM n)
      = if n < k ∧ s.rd F.SEAM_EN (SEAM n) = 1 then 1 else s.rd F.SEAM_LSTATE (SEAM n) := by
  induction k with
  | zero => exact (if_neg fun h => absurd h.1 n.not_lt_zero).symm
  | succ k ih =>
    change (State.trainSeam k (forN State.trainSeam k s)).rd F.SEAM_LSTATE (SEAM n) = _
    by_cases hk : n = k
    case pos =>
      subst hk
      rw [State.rd_lstate_trainSeam, ih, State.rd_forN_trainSeam_word s n _ _ fun m _ => seamEn_at_ne_seamLstate_at n m]
      simp
    case neg =>
      have hword : F.SEAM_LSTATE.at (SEAM n) 0 0 ≠ F.SEAM_LSTATE.at (SEAM k) 0 0 := by
        simp only [Fld.at, SEAM]
        omega
      have hlt : n < k + 1 ↔ n < k := by omega
      rw [State.rd_trainSeam_word _ _ _ _ hword, ih]
      simp only [hlt]

/-- The root PLL has locked, and the stitch counter waits for the next boundary (R55, R491). -/
def State.rootLocked (s : State) : State :=
  { s.wr F.CLK_LOCKED CLK 1 with clk := { s.clk with locked := true }, time := { s.time with counting := false }, off := 0 }

theorem exec_rootPllLock {s : State} (hv : s.start.vhk = true) (hvin : s.start.vin = true) (hl : s.clk.locked = false)
    (hr : s.start.resetLow = false) (hf : s.start.failed = false) (hp : s.rd F.ST_PHASE DEV = 4) :
    exec .rootPllLock s = .next (forN State.trainSeam 6 s.rootLocked) := by
  have hok : (s.start.vhk && s.start.vin && s.rd F.ST_PHASE DEV == 4 && !s.clk.locked && !s.start.resetLow && !s.start.failed) = true := by
    simp [hv, hvin, hl, hr, hf, hp]
  exact act_next hok

/-- With the root PLL locked, an enabled seam trains (R515, R518). -/
theorem State.rd_lstate_rootLocked (s : State) {n : Nat} (hn : n < 6) :
    (forN State.trainSeam 6 s.rootLocked).rd F.SEAM_LSTATE (SEAM n)
      = if s.rd F.SEAM_EN (SEAM n) = 1 then 1 else s.rd F.SEAM_LSTATE (SEAM n) := by
  have hseam (g : Fld) : s.rootLocked.rd g (SEAM n) = s.rd g (SEAM n) := State.rd_seam_wr_below s _ g _ _ _ _ n (by decide)
  rw [State.rd_lstate_forN_trainSeam, hseam, hseam]
  simp only [hn, true_and]

theorem State.rd_locked_rootLocked (s : State) : (forN State.trainSeam 6 s.rootLocked).rd F.CLK_LOCKED CLK = 1 :=
  (State.rd_forN_trainSeam_word _ 6 F.CLK_LOCKED CLK (by decide)).trans (State.rd_wr_same s F.CLK_LOCKED CLK 1 0 0 (by decide) (by decide))

/-- Settles O55: each command of the reference clock by its lemma; a window by the verdict on its count, whose limits the strap gives. -/
theorem referenceClock : Obligations.ReferenceClock := by
  unfold Obligations.ReferenceClock
  intro off s hv e g b bad
  obtain ⟨hlim, hgb, hge⟩ : s.refLimits = (e, g, b) ∧ g ≤ b ∧ g < e := by
    by_cases hstrap : s.rd F.CLK_STRAP CLK = 1 <;> simp [e, g, b, State.refLimits, State.flag, hstrap]
  refine ⟨fun count => ?window, exec_refclkMissing hv, fun hl hs hw => ?restored, fun root => ?forced,
    fun hvin hl hs hr hp => exec_intoscStart hv hvin hl hs hr hp, fun hvin hl hr hf hp => ?rootLock⟩
  case window =>
    have hexec := exec_refclkWindow (count := count) (off := off) hv hlim
    refine ⟨fun hbad => ?bad, fun hgood => ⟨_, hexec, s.judged_good off hgb hge hgood count.isLt⟩,
      fun hg hb h0 => ⟨_, hexec, s.judged_drift off hg hb h0 count.isLt⟩, exec_refclkOvercount hv hlim⟩
    obtain ⟨hleft, hcount⟩ := s.judged_bad off hbad count.isLt
    exact ⟨⟨_, hexec, hleft⟩, _, hexec, hcount⟩
  case restored =>
    obtain ⟨hslew, hlock, hlosses⟩ := (s.tick off).rd_slewOver
    obtain ⟨hraised, hsilent⟩ := (s.tick off).evq_slewOver
    exact ⟨_, exec_clockRestored hl hs hw, hslew, hlock, hlosses, hraised, hsilent, rfl, (s.tick off).clk_slewOver⟩
  case forced =>
    obtain ⟨hcount, hstopped⟩ := s.rd_forcedSwitch root
    exact ⟨_, exec_forcedSwitch hv, hcount, hstopped, s.onlyRegs_forcedSwitch root⟩
  case rootLock =>
    refine ⟨_, exec_rootPllLock hv hvin hl hr hf hp, ?clk, s.rd_locked_rootLocked, ?counting, ?off, fun n hn => s.rd_lstate_rootLocked hn⟩
    case clk | counting | off =>
      rw [State.forN_trainSeam_frame]
      rfl

end Sys2Proof.Machine

/-! The machine (R13, R55, R357, R358): what every command answers and keeps, the reset state, the halt, and the fields of registers. -/

namespace Sys2Proof.Machine

/-! Every command answers a next state. -/

/-- The outcome is a next state. -/
def Answers (o : Out) : Prop := ∃ t, o = .next t

theorem actOn_answers {α : Type} (s : State) (o : Option α) (f : α → State) : Answers (actOn s o f) := by
  cases o with
  | none => exact ⟨s, rfl⟩
  | some x => exact ⟨f x, rfl⟩

theorem Answers.ite {c : Prop} [Decidable c] {o p : Out} (ho : Answers o) (hp : Answers p) : Answers (if c then o else p) := by
  split <;> assumption

/-- No command stops: most are an `act`, whose answer is a next state by definition; some act on what they find (`actOn`); the descriptors
and acs choose between such answers. -/
theorem exec_answers (c : Instr) (s : State) : Answers (exec c s) := by
  cases c
  case stitchBoundary | nReqWrite | periodChange | stitchLoRead | syncInEdge | holdover | nop | add | sub | and | or | xor | shl | shr |
      sar | min | max | minu | maxu | mul | cmp | pand | por | pxor | pandn | pnot | mva | mvo | mag | mog | ptog | gtop | addi | andi |
      ori | xori | shli | shri | sari | insi | ld | st | adda | ldw | stw | srd | swr | swrLand | postedWriteLand | ba | b | bn | loop |
      done | doneHold | trig | waitt | cvf | cvrd | cvwr | bown | mac | tapm | tapmA | tapmN | tapmAn | vclr | vrd | vwr | vpk | vaddh |
      vsubh | vbc | vmin | dlin | dlrd | tpset | eset | mailboxReply | evtPendClear | lnCtlWrite | lnRateWrite | coefficientWrite |
      txFfeWrite | ribCtlWrite | laneUp | lossOfLock | elecIdle | signalDetect | laneFault | receivedUnit | txUnderrun | rspMove |
      quietWrite | quietWindowEnd | busContention | loadGo | swap | swapOnTrig | planeLoadEnd | queueModeWrite | queuePush | queuePop |
      portAccess | exchangeSend | keep | keepHead | countOnly | drop | verdictWindowClose | postDone | captureDrained | consumedWrite |
      actionLoad | actionStaged | cvValueWrite | cvCfgWrite | fabricRaise | raiseWrite | trigxEdge | stateLoRead | logStatRead |
      eventRecordWrite | evqBaseLoWrite | evqBaseHiWrite | evqSizeWrite | mgmtWindowGo | mgmtWindowDone | boltWindowGo | boltWindowDone |
      bucketLeak | bucketDepthWrite | patrolRead | boltLineRead | boltLineWrite | counterUncorrectable | registerWrite | rcFieldRead |
      doorbell | entryFetched | spoolEnWrite | releaseWord | resultSlotRead | windowRead | windowWrite | requestRepeat | vectorUnmask |
      conventionalReset | functionLevelReset | linkLoss | d3hotExit | seamTrained | seamKeyReceived | seamRetry | seamLockLoss |
      frameTimeout | retrain | seamEnWrite | seamFrameSend | seamFrameReceive | timeCell | trigCell | msgCell | dataCell | haltBlock | go |
      sysReset | chainStream | fallbackLoad | scrubFrameRead | scrubberCrosscheck | compactionDone | lockstepMismatch | rotationStep |
      rotWaitExpiry | hcLockstepMismatch | pquietWrite | refclkWindow | refclkMissing | refclkOvercount | clockRestored | intoscStart |
      forcedSwitch | gateOpen | gateClose | dramRewriteDone | refoutWrite | powerSample | currentLimit | slowRound | fastRound |
      comparatorTrip | autoRestart | vhkGood | blankDrive | vinStackGood | rootPllLock | keyAttempt | layerRaised | regulatorTimeout |
      trainingDone | startupMarchDone | checkerSelftestDone | dramInitDone | resetNAssert | resetNRise | jrstFull | jrstLayer |
      layerResetWrite | layerResetEnd | jackSwap | jackSwapExecute | jackSwapTimeout | vioGood | vlaneOutOfLimits | vinStackLoss | vhkLoss |
      tapReset | bypass | idcode | samplePreload | extest | extestPulse | extestTrain | clamp | highz | internalScan | couplerFault |
      counterLoRead | linkUp | d3hotEntry | uncorrectableCodewords | vioLoss | vlaneReturn | latchVoteFix =>
    exact ⟨_, rfl⟩
  case waittTimeout | rspMoveComplete | eyeScan | ctleRecal | rxRetrain | txRecal | analogTest | laneReqEnd | exchangeDeliver |
      captureStart | captureStop | captureArm | captureNextSegment | streamChunk | recordWrite | snapshot | follow | offloadPage |
      offloadStop | patternStart | patternStop | waitResume | syncDone | unitMove | fabricTxUnit | trigxPulseEnd | rowCopyDone |
      rekeyPassDone | nopCommand | bindRibbon | bindPatch | boltIn | boltOut | boltTransferDone | fence | windowTimeout | cfgLoad |
      sectionHeader | streamEnd | streamTimeout | slotWriteDone | setStage | store | designKey | lcsAdvance | preparationEnd | rebind |
      drainComplete | results | logicBist | marchPreserve | marchDestruct | boltOnly | bistDone | marchDone | heldRequestTimeout |
      heldCloseDone | hostReadComplete | fuseBurnDone | storeComplete | heldResetRelease | frameNop | framePlane | frameSetting |
      frameJack | keyroll | frameEnd | progLoad | progAdmit | progStart | progStop | progPost =>
    exact actOn_answers _ _ _
  case descNop | descLoop | endloop | jmp | wait | sync | descTrig | descStop | descBadop =>
    exact .ite ⟨_, rfl⟩ (.ite ⟨_, rfl⟩ (.ite ⟨_, rfl⟩ ⟨_, rfl⟩))
  case acs => exact .ite ⟨_, rfl⟩ ⟨_, rfl⟩
  case send => exact .ite ⟨_, rfl⟩ (.ite ⟨_, rfl⟩ (.ite ⟨_, rfl⟩ (.ite ⟨_, rfl⟩ ⟨_, rfl⟩)))

/-! What every command keeps. -/

/-- The boundary and the starts: the commands that give the stitch counter another number (R55, R515, R520 to R523, R551). -/
abbrev stitchMovers : List Instr :=
  [.stitchBoundary, .resetNRise, .resetNAssert, .jrstFull, .heldResetRelease, .autoRestart, .vinStackLoss, .vhkLoss]

/-- A command that moves no stitch number keeps the queue, the stitch number and canonical memories: its meaning's law. -/
theorem exec_keeps (s : State) (c : Instr) (hc : c ∉ stitchMovers) : KeepsOut s (exec c s) := by
  have h := Keeps.refl s
  cases c with
  | nReqWrite => exact execNReqWrite_keeps h
  | periodChange => exact execPeriodChange_keeps h
  | stitchLoRead => exact execStitchLoRead_keeps h
  | syncInEdge => exact execSyncInEdge_keeps h
  | holdover => exact execHoldover_keeps h
  | nop => exact execNop_keeps h
  | add => exact execAdd_keeps h
  | sub => exact execSub_keeps h
  | and => exact execAnd_keeps h
  | or => exact execOr_keeps h
  | xor => exact execXor_keeps h
  | shl => exact execShl_keeps h
  | shr => exact execShr_keeps h
  | sar => exact execSar_keeps h
  | min => exact execMin_keeps h
  | max => exact execMax_keeps h
  | minu => exact execMinu_keeps h
  | maxu => exact execMaxu_keeps h
  | mul => exact execMul_keeps h
  | cmp => exact execCmp_keeps h
  | pand => exact execPand_keeps h
  | por => exact execPor_keeps h
  | pxor => exact execPxor_keeps h
  | pandn => exact execPandn_keeps h
  | pnot => exact execPnot_keeps h
  | mva => exact execMva_keeps h
  | mvo => exact execMvo_keeps h
  | mag => exact execMag_keeps h
  | mog => exact execMog_keeps h
  | ptog => exact execPtog_keeps h
  | gtop => exact execGtop_keeps h
  | addi => exact execAddi_keeps h
  | andi => exact execAndi_keeps h
  | ori => exact execOri_keeps h
  | xori => exact execXori_keeps h
  | shli => exact execShli_keeps h
  | shri => exact execShri_keeps h
  | sari => exact execSari_keeps h
  | insi => exact execInsi_keeps h
  | ld => exact execLd_keeps h
  | st => exact execSt_keeps h
  | adda => exact execAdda_keeps h
  | ldw => exact execLdw_keeps h
  | stw => exact execStw_keeps h
  | srd => exact execSrd_keeps h
  | swr => exact execSwr_keeps h
  | swrLand => exact execSwrLand_keeps h
  | postedWriteLand => exact execPostedWriteLand_keeps h
  | ba => exact execBa_keeps h
  | b => exact execB_keeps h
  | bn => exact execBn_keeps h
  | loop => exact execLoop_keeps h
  | done => exact execDone_keeps h
  | doneHold => exact execDoneHold_keeps h
  | trig => exact execTrig_keeps h
  | waitt => exact execWaitt_keeps h
  | waittTimeout => exact execWaittTimeout_keeps h
  | cvf => exact execCvf_keeps h
  | cvrd => exact execCvrd_keeps h
  | cvwr => exact execCvwr_keeps h
  | bown => exact execBown_keeps h
  | mac => exact execMac_keeps h
  | tapm => exact execTapm_keeps h
  | tapmA => exact execTapmA_keeps h
  | tapmN => exact execTapmN_keeps h
  | tapmAn => exact execTapmAn_keeps h
  | acs => exact execAcs_keeps h
  | vclr => exact execVclr_keeps h
  | vrd => exact execVrd_keeps h
  | vwr => exact execVwr_keeps h
  | vpk => exact execVpk_keeps h
  | vaddh => exact execVaddh_keeps h
  | vsubh => exact execVsubh_keeps h
  | vbc => exact execVbc_keeps h
  | vmin => exact execVmin_keeps h
  | dlin => exact execDlin_keeps h
  | dlrd => exact execDlrd_keeps h
  | tpset => exact execTpset_keeps h
  | eset => exact execEset_keeps h
  | progLoad => exact execProgLoad_keeps h
  | progAdmit => exact execProgAdmit_keeps h
  | progStart => exact execProgStart_keeps h
  | progStop => exact execProgStop_keeps h
  | progPost => exact execProgPost_keeps h
  | mailboxReply => exact execMailboxReply_keeps h
  | evtPendClear => exact execEvtPendClear_keeps h
  | lnCtlWrite => exact execLnCtlWrite_keeps h
  | lnRateWrite => exact execLnRateWrite_keeps h
  | coefficientWrite => exact execCoefficientWrite_keeps h
  | txFfeWrite => exact execTxFfeWrite_keeps h
  | ribCtlWrite => exact execRibCtlWrite_keeps h
  | laneUp => exact execLaneUp_keeps h
  | lossOfLock => exact execLossOfLock_keeps h
  | elecIdle => exact execElecIdle_keeps h
  | signalDetect => exact execSignalDetect_keeps h
  | laneFault => exact execLaneFault_keeps h
  | receivedUnit => exact execReceivedUnit_keeps h
  | txUnderrun => exact execTxUnderrun_keeps h
  | rspMove => exact execRspMove_keeps h
  | rspMoveComplete => exact execRspMoveComplete_keeps h
  | eyeScan => exact execEyeScan_keeps h
  | ctleRecal => exact execCtleRecal_keeps h
  | rxRetrain => exact execRxRetrain_keeps h
  | txRecal => exact execTxRecal_keeps h
  | analogTest => exact execAnalogTest_keeps h
  | laneReqEnd => exact execLaneReqEnd_keeps h
  | quietWrite => exact execQuietWrite_keeps h
  | quietWindowEnd => exact execQuietWindowEnd_keeps h
  | busContention => exact execBusContention_keeps h
  | loadGo => exact execLoadGo_keeps h
  | swap => exact execSwap_keeps h
  | swapOnTrig => exact execSwapOnTrig_keeps h
  | planeLoadEnd => exact execPlaneLoadEnd_keeps h
  | queueModeWrite => exact execQueueModeWrite_keeps h
  | queuePush => exact execQueuePush_keeps h
  | queuePop => exact execQueuePop_keeps h
  | portAccess => exact execPortAccess_keeps h
  | exchangeSend => exact execExchangeSend_keeps h
  | exchangeDeliver => exact execExchangeDeliver_keeps h
  | captureStart => exact execCaptureStart_keeps h
  | captureStop => exact execCaptureStop_keeps h
  | captureArm => exact execCaptureArm_keeps h
  | captureNextSegment => exact execCaptureNextSegment_keeps h
  | keep => exact execKeep_keeps h
  | keepHead => exact execKeepHead_keeps h
  | countOnly => exact execCountOnly_keeps h
  | drop => exact execDrop_keeps h
  | verdictWindowClose => exact execVerdictWindowClose_keeps h
  | streamChunk => exact execStreamChunk_keeps h
  | recordWrite => exact execRecordWrite_keeps h
  | postDone => exact execPostDone_keeps h
  | captureDrained => exact execCaptureDrained_keeps h
  | snapshot => exact execSnapshot_keeps h
  | follow => exact execFollow_keeps h
  | offloadPage => exact execOffloadPage_keeps h
  | offloadStop => exact execOffloadStop_keeps h
  | consumedWrite => exact execConsumedWrite_keeps h
  | patternStart => exact execPatternStart_keeps h
  | patternStop => exact execPatternStop_keeps h
  | descNop => exact execDescNop_keeps h
  | send => exact execSend_keeps h
  | descLoop => exact execDescLoop_keeps h
  | endloop => exact execEndloop_keeps h
  | jmp => exact execJmp_keeps h
  | wait => exact execWait_keeps h
  | waitResume => exact execWaitResume_keeps h
  | sync => exact execSync_keeps h
  | syncDone => exact execSyncDone_keeps h
  | descTrig => exact execDescTrig_keeps h
  | descStop => exact execDescStop_keeps h
  | descBadop => exact execDescBadop_keeps h
  | unitMove => exact execUnitMove_keeps h
  | actionLoad => exact execActionLoad_keeps h
  | actionStaged => exact execActionStaged_keeps h
  | fabricTxUnit => exact execFabricTxUnit_keeps h
  | cvValueWrite => exact execCvValueWrite_keeps h
  | cvCfgWrite => exact execCvCfgWrite_keeps h
  | fabricRaise => exact execFabricRaise_keeps h
  | raiseWrite => exact execRaiseWrite_keeps h
  | trigxEdge => exact execTrigxEdge_keeps h
  | trigxPulseEnd => exact execTrigxPulseEnd_keeps h
  | stateLoRead => exact execStateLoRead_keeps h
  | logStatRead => exact execLogStatRead_keeps h
  | eventRecordWrite => exact execEventRecordWrite_keeps h
  | evqBaseLoWrite => exact execEvqBaseLoWrite_keeps h
  | evqBaseHiWrite => exact execEvqBaseHiWrite_keeps h
  | evqSizeWrite => exact execEvqSizeWrite_keeps h
  | mgmtWindowGo => exact execMgmtWindowGo_keeps h
  | mgmtWindowDone => exact execMgmtWindowDone_keeps h
  | boltWindowGo => exact execBoltWindowGo_keeps h
  | boltWindowDone => exact execBoltWindowDone_keeps h
  | bucketLeak => exact execBucketLeak_keeps h
  | bucketDepthWrite => exact execBucketDepthWrite_keeps h
  | patrolRead => exact execPatrolRead_keeps h
  | rowCopyDone => exact execRowCopyDone_keeps h
  | boltLineRead => exact execBoltLineRead_keeps h
  | boltLineWrite => exact execBoltLineWrite_keeps (_writer := .capture) h
  | rekeyPassDone => exact execRekeyPassDone_keeps h
  | counterUncorrectable => exact execCounterUncorrectable_keeps h
  | registerWrite => exact execRegisterWrite_keeps h
  | rcFieldRead => exact execRcFieldRead_keeps h
  | doorbell => exact execDoorbell_keeps h
  | entryFetched => exact execEntryFetched_keeps h
  | spoolEnWrite => exact execSpoolEnWrite_keeps h
  | nopCommand => exact execNopCommand_keeps h
  | bindRibbon => exact execBindRibbon_keeps h
  | bindPatch => exact execBindPatch_keeps h
  | boltIn => exact execBoltIn_keeps h
  | boltOut => exact execBoltOut_keeps h
  | boltTransferDone => exact execBoltTransferDone_keeps h
  | fence => exact execFence_keeps h
  | releaseWord => exact execReleaseWord_keeps h
  | resultSlotRead => exact execResultSlotRead_keeps h
  | windowRead => exact execWindowRead_keeps h
  | windowWrite => exact execWindowWrite_keeps h
  | windowTimeout => exact execWindowTimeout_keeps h
  | requestRepeat => exact execRequestRepeat_keeps h
  | vectorUnmask => exact execVectorUnmask_keeps h
  | conventionalReset => exact execConventionalReset_keeps h
  | functionLevelReset => exact execFunctionLevelReset_keeps h
  | linkLoss => exact execLinkLoss_keeps h
  | d3hotExit => exact execD3hotExit_keeps h
  | seamTrained => exact execSeamTrained_keeps h
  | seamKeyReceived => exact execSeamKeyReceived_keeps h
  | seamRetry => exact execSeamRetry_keeps h
  | seamLockLoss => exact execSeamLockLoss_keeps h
  | frameTimeout => exact execFrameTimeout_keeps h
  | retrain => exact execRetrain_keeps h
  | seamEnWrite => exact execSeamEnWrite_keeps h
  | seamFrameSend => exact execSeamFrameSend_keeps h
  | seamFrameReceive => exact execSeamFrameReceive_keeps h
  | timeCell => exact execTimeCell_keeps h
  | trigCell => exact execTrigCell_keeps h
  | msgCell => exact execMsgCell_keeps h
  | dataCell => exact execDataCell_keeps h
  | haltBlock => exact execHaltBlock_keeps h
  | go => exact execGo_keeps h
  | sysReset => exact execSysReset_keeps h
  | cfgLoad => exact execCfgLoad_keeps h
  | chainStream => exact execChainStream_keeps h
  | sectionHeader => exact execSectionHeader_keeps h
  | frameNop => exact execFrameNop_keeps h
  | framePlane => exact execFramePlane_keeps h
  | frameSetting => exact execFrameSetting_keeps h
  | frameJack => exact execFrameJack_keeps h
  | keyroll => exact execKeyroll_keeps h
  | frameEnd => exact execFrameEnd_keeps h
  | streamEnd => exact execStreamEnd_keeps h
  | streamTimeout => exact execStreamTimeout_keeps h
  | fallbackLoad => exact execFallbackLoad_keeps h
  | slotWriteDone => exact execSlotWriteDone_keeps h
  | scrubFrameRead => exact execScrubFrameRead_keeps h
  | scrubberCrosscheck => exact execScrubberCrosscheck_keeps h
  | setStage => exact execSetStage_keeps h
  | store => exact execStore_keeps h
  | compactionDone => exact execCompactionDone_keeps h
  | designKey => exact execDesignKey_keeps h
  | lcsAdvance => exact execLcsAdvance_keeps h
  | lockstepMismatch => exact execLockstepMismatch_keeps h
  | preparationEnd => exact execPreparationEnd_keeps h
  | rebind => exact execRebind_keeps h
  | drainComplete => exact execDrainComplete_keeps h
  | rotationStep => exact execRotationStep_keeps h
  | rotWaitExpiry => exact execRotWaitExpiry_keeps h
  | results => exact execResults_keeps h
  | logicBist => exact execLogicBist_keeps h
  | marchPreserve => exact execMarchPreserve_keeps h
  | marchDestruct => exact execMarchDestruct_keeps h
  | boltOnly => exact execBoltOnly_keeps h
  | bistDone => exact execBistDone_keeps h
  | marchDone => exact execMarchDone_keeps h
  | hcLockstepMismatch => exact execHcLockstepMismatch_keeps h
  | heldRequestTimeout => exact execHeldRequestTimeout_keeps h
  | pquietWrite => exact execPquietWrite_keeps h
  | refclkWindow => exact execRefclkWindow_keeps h
  | refclkMissing => exact execRefclkMissing_keeps h
  | refclkOvercount => exact execRefclkOvercount_keeps h
  | clockRestored => exact execClockRestored_keeps h
  | intoscStart => exact execIntoscStart_keeps h
  | forcedSwitch => exact execForcedSwitch_keeps h
  | gateOpen => exact execGateOpen_keeps h
  | gateClose => exact execGateClose_keeps h
  | heldCloseDone => exact execHeldCloseDone_keeps h
  | dramRewriteDone => exact execDramRewriteDone_keeps h
  | refoutWrite => exact execRefoutWrite_keeps h
  | powerSample => exact execPowerSample_keeps h
  | currentLimit => exact execCurrentLimit_keeps h
  | slowRound => exact execSlowRound_keeps h
  | fastRound => exact execFastRound_keeps h
  | comparatorTrip => exact execComparatorTrip_keeps h
  | vhkGood => exact execVhkGood_keeps h
  | blankDrive => exact execBlankDrive_keeps h
  | vinStackGood => exact execVinStackGood_keeps h
  | rootPllLock => exact execRootPllLock_keeps h
  | keyAttempt => exact execKeyAttempt_keeps h
  | layerRaised => exact execLayerRaised_keeps h
  | regulatorTimeout => exact execRegulatorTimeout_keeps h
  | trainingDone => exact execTrainingDone_keeps h
  | startupMarchDone => exact execStartupMarchDone_keeps h
  | checkerSelftestDone => exact execCheckerSelftestDone_keeps h
  | dramInitDone => exact execDramInitDone_keeps h
  | jrstLayer => exact execJrstLayer_keeps h
  | layerResetWrite => exact execLayerResetWrite_keeps h
  | layerResetEnd => exact execLayerResetEnd_keeps h
  | jackSwap => exact execJackSwap_keeps h
  | jackSwapExecute => exact execJackSwapExecute_keeps h
  | jackSwapTimeout => exact execJackSwapTimeout_keeps h
  | vioGood => exact execVioGood_keeps h
  | vlaneOutOfLimits => exact execVlaneOutOfLimits_keeps h
  | tapReset => exact execTapReset_keeps h
  | bypass => exact execBypass_keeps h
  | idcode => exact execIdcode_keeps h
  | samplePreload => exact execSamplePreload_keeps h
  | extest => exact execExtest_keeps h
  | extestPulse => exact execExtestPulse_keeps h
  | extestTrain => exact execExtestTrain_keeps h
  | clamp => exact execClamp_keeps h
  | highz => exact execHighz_keeps h
  | internalScan => exact execInternalScan_keeps h
  | couplerFault => exact execCouplerFault_keeps h
  | counterLoRead => exact execCounterLoRead_keeps h
  | linkUp => exact execLinkUp_keeps h
  | d3hotEntry => exact execD3hotEntry_keeps h
  | uncorrectableCodewords => exact execUncorrectableCodewords_keeps h
  | vioLoss => exact execVioLoss_keeps h
  | vlaneReturn => exact execVlaneReturn_keeps h
  | hostReadComplete => exact execHostReadComplete_keeps h
  | fuseBurnDone => exact execFuseBurnDone_keeps h
  | storeComplete => exact execStoreComplete_keeps h
  | latchVoteFix => exact execLatchVoteFix_keeps h
  | autoRestart | heldResetRelease | jrstFull | resetNAssert | resetNRise | stitchBoundary | vhkLoss | vinStackLoss => exact absurd (by decide) hc

/-- The boundary and the starts keep the queue and canonical memories. -/
theorem exec_rests_of_stitchMover (s : State) (c : Instr) (hc : c ∈ stitchMovers) : RestsOut s (exec c s) := by
  have h := Rests.refl s
  simp only [stitchMovers, List.mem_cons, List.not_mem_nil, or_false] at hc
  obtain rfl | rfl | rfl | rfl | rfl | rfl | rfl | rfl := hc
  · exact execStitchBoundary_rests h
  · exact execResetNRise_rests h
  · exact execResetNAssert_rests h
  · exact execJrstFull_rests h
  · exact execHeldResetRelease_rests h
  · exact execAutoRestart_rests h
  · exact execVinStackLoss_rests h
  · exact execVhkLoss_rests h

/-- Every command keeps the queue and canonical memories. -/
theorem exec_rests (s : State) (c : Instr) : RestsOut s (exec c s) := by
  by_cases hc : c ∈ stitchMovers
  · exact exec_rests_of_stitchMover s c hc
  · exact (exec_keeps s c hc).rests

/-- Settles O2: the command answers a next state, and every next state of a command holds the queue. -/
theorem commandsLeaveTheQueue : Obligations.CommandsLeaveTheQueue := by
  unfold Obligations.CommandsLeaveTheQueue
  intro c s
  obtain ⟨t, ht⟩ := exec_answers c s
  exact ⟨t, ht, (exec_rests s c t ht).1⟩

/-- Settles O3: a step is a command on the state with the queue's rest, whose memories are those of the state, or nothing. -/
theorem stepsKeepMemoryCanonical : Obligations.StepsKeepMemoryCanonical := by
  unfold Obligations.StepsKeepMemoryCanonical
  intro s t hwf hstep
  unfold step at hstep
  split at hstep
  case h_1 => exact Host.Outcome.next.inj hstep ▸ hwf
  case h_2 c rest hpending => exact (exec_rests _ c t hstep).2 hwf

/-- Settles O5: what a command other than the boundary and the starts keeps has the stitch number in it. -/
theorem stitchNumberMoves : Obligations.StitchNumberMoves := by
  unfold Obligations.StitchNumberMoves
  intro c s t hc ht
  exact (exec_keeps s c hc t ht).2.1

/-- Settles O1: by the definition of a step, on each form of the queue. -/
theorem stepRunsTheFrontCommand : Obligations.StepRunsTheFrontCommand := by
  unfold Obligations.StepRunsTheFrontCommand
  refine ⟨fun c s rest hqueue => ?_, fun s hempty => ?_⟩
  · unfold step
    rw [hqueue]
  · unfold step
    rw [hempty]

/-- Settles O4: at reset every table is empty, so that the canonical form holds of no entry and a register word reads as its table's reset
value. -/
theorem resetState : Obligations.ResetState := by
  unfold Obligations.ResetState
  refine ⟨⟨List.Pairwise.nil, ?banks, ?bolts, ?procs⟩, rfl, by decide, rfl, fun a => rfl⟩
  case banks | bolts | procs => exact fun e he => absurd he List.not_mem_nil

/-- Settles O6: by the laws of fields. A field of the same word is apart from the one written, and every other field lies in another word. -/
theorem fieldsReadWhatWasWritten : Obligations.FieldsReadWhatWasWritten := by
  unfold Obligations.FieldsReadWhatWasWritten
  intro s f base v i j hle hlt
  refine ⟨State.rd_wr_same s f base v i j hle hlt, fun g hg hapart base' i' j' => ?_, State.wr_frame s f base v i j, fun a ha => ?_⟩
  · exact State.rd_wr_field s f g base base' v i j i' j' hle hlt hg hapart
  · exact State.reg_wr_other s f base v i j (List.ne_of_not_mem_cons ha)

/-! The halt (R357, R358). -/

theorem State.busWrite_of_halted {s : State} (hs : s.halted = true) (src : Src) (a : Nat) (v : W32) (be : Nat) : s.busWrite src a v be = s := by
  unfold State.busWrite
  cases locate a with
  | none => rfl
  | some x => exact if_pos (.inl hs)

theorem State.peek_of_halted {s : State} (hs : s.halted = true) {a inst o : Nat} {b : Blk} (ha : locate a = some (b, inst, o)) (hb : b ≠ .sec) :
    s.peek a = 0 := by
  unfold State.peek
  rw [ha]
  exact if_pos (.inl ⟨hs, hb⟩)

theorem State.issues_of_halted {s : State} (hs : s.halted = true) (h : Proc) (w : W32) : s.issues h w = false := by
  simp [State.issues, State.procRuns, hs]

theorem State.fabricRuns_of_halted {s : State} (hs : s.halted = true) (k : Nat) : s.fabricRuns k = false := by
  simp [State.fabricRuns, State.patchLive, State.up, hs]

/-- Settles O42: each operation looks at the halt first. -/
theorem haltStopsTheDevice : Obligations.HaltStopsTheDevice := by
  unfold Obligations.HaltStopsTheDevice
  intro s hs
  exact ⟨State.busWrite_of_halted hs, fun a b inst o ha hb => State.peek_of_halted hs ha hb, fun e blk inst args st => State.event_of_halted e blk inst args st hs, State.issues_of_halted hs,
    fun h _ _ _ => act_still (State.issues_of_halted hs h _), fun k _ _ _ => act_still (State.fabricRuns_of_halted hs k.val)⟩

end Sys2Proof.Machine

/-! The compares, the predicate group and the moves of Graov (R125 to R127). -/

namespace Sys2Proof.Machine

/-- A command that is a Graov instruction with a predicate as its destination writes it and goes on, where its word is issued (R79, R120). -/
theorem exec_writesP_of_graov {c : Instr} {h : Proc} {w : W32} {pd cost : Nat} {v : Bool} {s : State}
    (hc : exec c s = graov h w cost s (s.setP (Proc.key h) pd v)) (hw : s.issues h w = true) :
    ∃ t, exec c s = .next t ∧ WritesP (Proc.key h) pd v cost s t :=
  ⟨_, exec_eq_next_of_graov hc hw, writesP s (Proc.key h) pd v cost⟩

/-- As `exec_writesP_of_graov`, for an offset register. -/
theorem exec_writesO_of_graov {c : Instr} {h : Proc} {w : W32} {rd cost : Nat} {v : W32} {s : State}
    (hc : exec c s = graov h w cost s (s.setO (Proc.key h) rd v)) (hw : s.issues h w = true) :
    ∃ t, exec c s = .next t ∧ WritesO (Proc.key h) rd v cost s t :=
  ⟨_, exec_eq_next_of_graov hc hw, writesO s (Proc.key h) rd v cost⟩

/-- The conditions of cmp.cc as the orders of R125's table. -/
theorem cond_holds_eq_decide (cc : Cond) (x y : W64) : Cond.holds cc x y = match cc with
    | .eq => decide (x = y) | .ne => decide (x ≠ y) | .lt => decide (x.toInt < y.toInt) | .ge => decide (y.toInt ≤ x.toInt)
    | .ltu => decide (x.toNat < y.toNat) | .geu => decide (y.toNat ≤ x.toNat) := by
  cases cc with
  | eq | lt | ltu => rfl
  | ne => exact Bool.eq_iff_iff.2 (by simp [Cond.holds])
  | ge => exact Bool.eq_iff_iff.2 (by simp [Cond.holds, BitVec.slt])
  | geu => exact Bool.eq_iff_iff.2 (by simp [Cond.holds, BitVec.ult])

/-- Settles O8: each instruction is a `graov` that writes its destination. The conditions are the orders of R125's table; a move's value is
the word of the register's number. -/
theorem predicatesAndMoves : Obligations.PredicatesAndMoves := by
  unfold Obligations.PredicatesAndMoves
  refine ⟨?compare, ?group⟩
  case compare =>
    intro h pd ra rb s key x y sets
    have hcond (cc : Cond) : sets cc (Cond.fn cc) (Cond.holds cc x y) := exec_writesP_of_graov rfl
    simp only [cond_holds_eq_decide] at hcond
    exact ⟨hcond .eq, hcond .ne, hcond .lt, hcond .ge, hcond .ltu, hcond .geu⟩
  case group =>
    intro h s d p q g key x y sets gives
    have hlow : (s.g key g.toNat).setWidth 32 = BitVec.ofNat 32 (s.g key g.toNat).toNat := (BitVec.ofNat_toNat 32 _).symm
    have hzeros : (s.a key p.toNat).setWidth 64 = BitVec.ofNat 64 (s.a key p.toNat).toNat := (BitVec.ofNat_toNat 64 _).symm
    have hnonzero : (s.g key g.toNat != 0) = decide (s.g key g.toNat ≠ 0) := Bool.eq_iff_iff.2 (by simp)
    refine ⟨?pand, ?por, ?pxor, ?pandn, ?pnot, ?mva, ?mvo, ?mag, ?mog, ?ptog, ?gtop⟩
    case pand | por | pxor | pandn | pnot => exact exec_writesP_of_graov rfl
    case mva => exact hlow ▸ exec_writesA_of_graov rfl
    case mvo => exact hlow ▸ exec_writesO_of_graov rfl
    case mag => exact hzeros ▸ exec_writesG_of_graov rfl
    case mog | ptog => exact exec_writesG_of_graov rfl
    case gtop => exact hnonzero ▸ exec_writesP_of_graov rfl

end Sys2Proof.Machine

/-! Branches, loops and done (R107, R108, R134 to R136). -/

namespace Sys2Proof.Machine

/-- Going on at an instruction changes the one processor, and of it what `goesTo` says. -/
theorem State.goto_goesTo {s t : State} {key : Nat} (h : OnlyProc key s t) (pc cost : Nat) :
    OnlyProc key s (t.goto key pc cost) ∧ (t.goto key pc cost).procAt key = (t.procAt key).goesTo pc cost :=
  ⟨h.mod _, State.procAt_modSame t key _⟩

/-- Retiring an instruction changes the one processor, and of it what `goesOn` says. -/
theorem State.retire_goesOn {s t : State} {key : Nat} (h : OnlyProc key s t) (cost : Nat) :
    OnlyProc key s (t.retire key cost) ∧ (t.retire key cost).procAt key = (t.procAt key).goesOn cost :=
  State.goto_goesTo h _ cost

/-- A branch whose word is issued goes to its target in two cycles where it is taken, and on in one where it is not (R134). -/
theorem branch_goes {c : Instr} {h : Proc} {w : W32} {taken : Bool} {offset : BitVec 17} {s : State} (hc : exec c s = branch h w taken offset s)
    (hw : s.issues h w = true) :
    ∃ t, exec c s = .next t ∧ OnlyProc (Proc.key h) s t ∧ t.procAt (Proc.key h)
      = if taken then (s.procAt (Proc.key h)).goesTo ((s.procAt (Proc.key h)).pc + 1 + offset.toNat) 2 else (s.procAt (Proc.key h)).goesOn 1 := by
  refine ⟨_, hc.trans (act_next hw), ?_⟩
  cases taken with
  | true => exact State.goto_goesTo (OnlyProc.refl s _) _ 2
  | false => exact State.retire_goesOn (OnlyProc.refl s _) 1

/-- A loop whose word is issued puts its body and count before the loops in progress, but for an empty body (R107, R135). -/
theorem exec_loop_goes {h : Proc} {count length : BitVec 10} {s : State} (hw : s.issues h (wordL 0x21 count.toNat length.toNat) = true) :
    ∃ t, exec (.loop h count length) s = .next t ∧ OnlyProc (Proc.key h) s t ∧ t.procAt (Proc.key h)
      = if length = 0 then (s.procAt (Proc.key h)).goesOn 1
        else ({ s.procAt (Proc.key h) with
          loops := ⟨(s.procAt (Proc.key h)).pc + 1, (s.procAt (Proc.key h)).pc + 1 + length.toNat, count.toNat⟩
            :: (s.procAt (Proc.key h)).loops } : ProcSt).goesOn 1 := by
  refine ⟨_, act_next hw, ?_⟩
  split
  · exact State.retire_goesOn (OnlyProc.refl s _) 1
  · obtain ⟨honly, hat⟩ := State.retire_goesOn (OnlyProc.ofMod s (Proc.key h) _) 1
    exact ⟨honly, hat.trans (by rw [State.procAt_modSame])⟩

/-- The end of the work of a processor other than the head controller (R93, R136). -/
theorem State.procAt_endWork {s : State} {key : Nat} (hk : key ≠ 0) (hold : Bool) :
    (s.endWork key hold).procAt key
      = { s.procAt key with active := false, cycle := (s.procAt key).cycle + 1, back := !hold && (s.bank key == 1) } := by
  rw [State.endWork, if_neg hk, State.procAt_modSame]

/-- The end of a slot's work of the head controller: the next RUNNING slot begins its program, or the processor idles (R102, R108). -/
theorem State.procAt_endWork_zero (s : State) (hold : Bool) : match s.nextSlot ((s.procAt 0).cur + 1) with
    | none => ((s.endWork 0 hold).procAt 0).active = false
    | some n => ((s.endWork 0 hold).procAt 0).active = true ∧ ((s.endWork 0 hold).procAt 0).cur = n ∧ ((s.endWork 0 hold).procAt 0).pc = 0
        ∧ ((s.endWork 0 hold).procAt 0).cycle = (s.procAt 0).cycle + 1 := by
  rw [State.endWork, if_pos rfl]
  cases s.nextSlot ((s.procAt 0).cur + 1) with
  | none => simp only [State.procAt_modSame]
  | some n =>
    simp only [State.beginProgram, State.procAt_modSame]
    exact ⟨trivial, trivial, rfl, trivial⟩

theorem OnlyProc.beginProgram {s t : State} {key : Nat} (h : OnlyProc key s t) (cycle : Nat) : OnlyProc key s (t.beginProgram key cycle) := by
  unfold State.beginProgram
  exact h.mod _

/-- The end of the work changes the one processor. -/
theorem State.onlyProc_endWork (s : State) (key : Nat) (hold : Bool) : OnlyProc key s (s.endWork key hold) := by
  unfold State.endWork
  split
  case isTrue hzero =>
    subst hzero
    split
    · exact (OnlyProc.ofMod s 0 _).beginProgram _
    · exact OnlyProc.ofMod s 0 _
  case isFalse => exact OnlyProc.ofMod s key _

/-- done and done.hold, where they are issued, end the work of the stitch; done also past the last instruction (R108, R136). -/
theorem exec_done_of_issues {h : Proc} {hold : Bool} {s : State}
    (hw : if hold then s.issues h (wordR 0x22 0 0 0 1) = true
      else s.procRuns h = true ∧ (s.fetch (Proc.key h) = none ∨ s.fetch (Proc.key h) = some (wordR 0x22 0 0 0 0))) :
    exec (if hold then .doneHold h else .done h) s = .next (s.endWork (Proc.key h) hold) := by
  cases hold with
  | true => exact act_next hw
  | false =>
    obtain ⟨hruns, hfetch⟩ := hw
    exact act_next (by simp [hruns, hfetch])

/-- Settles O11: by the branch, the loop and the end of the work. -/
theorem controlFlow : Obligations.ControlFlow := by
  unfold Obligations.ControlFlow
  refine ⟨?branches, ?done⟩
  case branches =>
    intro h pn offset count length s key x goes
    exact ⟨branch_goes rfl, branch_goes rfl, branch_goes rfl, exec_loop_goes⟩
  case done =>
    intro h hold s key hw
    refine ⟨_, exec_done_of_issues hw, s.onlyProc_endWork key hold, fun hk => State.procAt_endWork hk hold, fun hk => ?_⟩
    have hzero : Proc.key h = 0 := hk
    rw [hzero]
    exact s.procAt_endWork_zero hold

end Sys2Proof.Machine

/-! What leaves the words of some registers: a frame of the register store, of any set of offsets. -/

namespace Sys2Proof.Machine

/-- `t` holds every register word of `s` at an offset in `P`. -/
def SameRegs (P : Nat → Prop) (s t : State) : Prop := ∀ a, P a → t.reg a = s.reg a

theorem SameRegs.refl (P : Nat → Prop) (s : State) : SameRegs P s s := fun _ _ => rfl

theorem SameRegs.of_regs {P : Nat → Prop} {s t u : State} (h : SameRegs P s t) (hu : u.regs = t.regs) : SameRegs P s u :=
  fun a ha => (congrArg (fun r => Tab.get resetWord r a) hu).trans (h a ha)

theorem SameRegs.trans {P : Nat → Prop} {s t u : State} (h : SameRegs P s t) (g : SameRegs P t u) : SameRegs P s u :=
  fun a ha => (g a ha).trans (h a ha)

theorem SameRegs.setReg {P : Nat → Prop} {s t : State} (h : SameRegs P s t) {b : Nat} (hb : ¬ P b) (w : W32) : SameRegs P s (t.setReg b w) :=
  fun a ha => (State.reg_setReg_other t w (fun e : a = b => hb (e ▸ ha))).trans (h a ha)

theorem SameRegs.wr {P : Nat → Prop} {s t : State} (h : SameRegs P s t) {f : Fld} {base i j : Nat} (hb : ¬ P (f.at base i j)) (v : Nat) :
    SameRegs P s (t.wr f base v i j) := h.setReg hb _

theorem SameRegs.ite {P : Nat → Prop} {s t u : State} {c : Prop} [Decidable c] (ht : SameRegs P s t) (hu : SameRegs P s u) :
    SameRegs P s (if c then t else u) := by split <;> assumption

theorem SameRegs.rd {P : Nat → Prop} {s t : State} (h : SameRegs P s t) {f : Fld} {base i j : Nat} (ha : P (f.at base i j)) :
    t.rd f base i j = s.rd f base i j := congrArg (bitsOf f.hi f.lo) (h _ ha)

theorem SameRegs.forN {P : Nat → Prop} {s t : State} (h : SameRegs P s t) {f : Nat → State → State} {n : Nat}
    (hf : ∀ i u, SameRegs P u (f i u)) : SameRegs P s (forN f n t) := forN_induct (fun i _ hu => hu.trans (hf i _)) h

theorem SameRegs.forEach {P : Nat → Prop} {s t : State} {α : Type} (h : SameRegs P s t) {f : α → State → State} {l : List α}
    (hf : ∀ x u, SameRegs P u (f x u)) : SameRegs P s (forEach f l t) := forEach_induct (fun x _ hu => hu.trans (hf x _)) h

/-- What both branches show, the choice shows. -/
theorem ite_eq_of {σ α : Type} {r : σ → α} {x : α} {c : Prop} [Decidable c] {t u : σ} (ht : r t = x) (hu : r u = x) : r (if c then t else u) = x := by
  split <;> assumption

/-- A field reads a number within its width. -/
theorem State.rd_lt (s : State) (f : Fld) (base i j : Nat) : s.rd f base i j < 2 ^ (f.hi + 1 - f.lo) := Nat.mod_lt _ (by positivity)

end Sys2Proof.Machine

/-! A request for a handover (R459, R460) writes no registers but the positions' states and RES. -/

namespace Sys2Proof.Machine

/-- The offsets beyond the positions' states (R39) and the block RES. -/
abbrev outsidePositions (a : Nat) : Prop := a < 0x240 ∨ (0x2C0 ≤ a ∧ a < 0x8000) ∨ 0x9000 ≤ a

theorem State.showPositions_regs (s : State) : SameRegs outsidePositions s s.showPositions :=
  (((SameRegs.refl _ s).wr (by decide) _).wr (by decide) _).wr (by decide) _

theorem State.setPos_regs (s : State) {p : Nat} (hp : p < 32) (st : Nat) : SameRegs outsidePositions s (s.setPos p st) := by
  have hout : ¬ outsidePositions (F.POS_STATE.at DEV p 0) := by
    simp only [outsidePositions, Fld.at, F.POS_STATE, DEV]
    omega
  exact ((SameRegs.refl _ s).wr hout st).trans (State.showPositions_regs _)

theorem State.completeOpt_regs (s : State) (c : Option CmdRef) (st : Status) (data : List Nat) : (s.completeOpt c st data).regs = s.regs := by
  cases c <;> rfl

theorem State.abandonPrep_regs (s : State) : SameRegs outsidePositions s s.abandonPrep := by
  unfold State.abandonPrep
  split
  · exact SameRegs.refl _ s
  · have hpos := (s.setPos_regs (s.rd_lt F.RES_TO RES 0 0) 1).wr (f := F.RES_PHASE) (base := RES) (i := 0) (j := 0) (by decide) 0
    refine SameRegs.of_regs ?_ (State.completeOpt_regs _ _ _ _)
    exact SameRegs.ite ((hpos.of_regs rfl).wr (by decide) _) (hpos.of_regs rfl)

theorem State.requestHandover_regs (s : State) (r : HoReq) : SameRegs outsidePositions s (s.requestHandover r) := by
  unfold State.requestHandover
  refine SameRegs.ite (SameRegs.refl _ s) ?_
  exact ((SameRegs.ite s.abandonPrep_regs (SameRegs.refl _ s)).of_regs rfl).wr (by decide) _

theorem State.completeOpt_procs (s : State) (c : Option CmdRef) (st : Status) (data : List Nat) : (s.completeOpt c st data).procs = s.procs := by
  cases c <;> rfl

theorem State.abandonPrep_procs (s : State) : s.abandonPrep.procs = s.procs := by
  unfold State.abandonPrep
  split
  · rfl
  · refine (State.completeOpt_procs _ _ _ _).trans ?_
    split <;> rfl

theorem State.requestHandover_procs (s : State) (r : HoReq) : (s.requestHandover r).procs = s.procs := by
  unfold State.requestHandover
  refine ite_eq_of rfl ?_
  exact ite_eq_of (r := State.procs) s.abandonPrep_procs rfl

end Sys2Proof.Machine

/-! Loads and stores of data memory (R81, R129). -/

namespace Sys2Proof.Machine

/-- The selected bank is a matter of the registers. -/
theorem State.bank_congr {s t : State} (h : t.regs = s.regs) (key : Nat) : t.bank key = s.bank key := by
  simp only [State.bank, State.seqBase, State.pb, State.ppos, State.rsp, State.rd, State.reg, h]

/-- A processor's memory that reports a fault leaves the processors. -/
theorem State.memFault_procs (s : State) (h : Proc) : (s.memFault h).procs = s.procs := by
  cases h with
  | m _ | s _ => rfl
  | p k => exact s.requestHandover_procs _

/-- A request for a handover leaves the bank that a patch's sequencer has selected. -/
theorem State.bank_requestHandover (s : State) (r : HoReq) (k : LPatch) : (s.requestHandover r).bank (16 + k.val) = s.bank (16 + k.val) := by
  have hregs := s.requestHandover_regs r
  have hk := k.isLt
  have hppos : outsidePositions (F.LPM_PPOS.at DEV k.val 0) := by
    simp only [outsidePositions, Fld.at, F.LPM_PPOS, DEV]
    omega
  have hbank (p : Nat) : outsidePositions (F.BANK.at (PATCH p) 0 0) := by
    simp only [outsidePositions, Fld.at, F.BANK, PATCH]
    omega
  have hpb : (s.requestHandover r).pb k.val = s.pb k.val := by
    unfold State.pb State.ppos
    rw [hregs.rd hppos]
  have hbase (t : State) : t.bank (16 + k.val) = t.rd F.BANK (t.pb k.val) := by
    rw [State.bank, if_neg (by omega), State.seqBase, if_neg (by omega), if_pos (by omega), Nat.add_sub_cancel_left]
  rw [hbase, hbase, hpb]
  exact hregs.rd (hbank _)

theorem State.bank_memFault (s : State) (h : Proc) : (s.memFault h).bank (Proc.key h) = s.bank (Proc.key h) := by
  cases h with
  | m _ => rfl
  | p k => exact s.bank_requestHandover _ k
  | s _ => exact State.bank_congr (t := s.requestMove _ true) rfl _

/-- Of one processor nothing but its data memory differs, and no register. -/
def SameButDmem (key : Nat) (s t : State) : Prop :=
  (∃ m, t.procAt key = { s.procAt key with dmem := m }) ∧ t.regs = s.regs

/-- A recovery record that goes on writes nothing of its processor but its data memory (R180). -/
theorem State.sameButDmem_recordTo (s : State) (r at_ : Nat) : SameButDmem (32 + r) s (s.recordTo r at_) := by
  unfold State.recordTo
  dsimp only
  split
  · exact ⟨⟨_, rfl⟩, rfl⟩
  · refine forEach_induct (P := SameButDmem (32 + r) s) (fun i t ⟨⟨m, hproc⟩, hregs⟩ => ⟨?_, hregs⟩) ⟨⟨_, rfl⟩, rfl⟩
    have htook : t.took.procAt (32 + r) = t.procAt (32 + r) := rfl
    rw [State.procAt_modSame, htook, hproc]
    exact ⟨_, rfl⟩

theorem State.sameButDmem_recordSeen (s : State) (key ea : Nat) : SameButDmem key s (s.recordSeen key ea) := by
  unfold State.recordSeen
  split
  case isTrue harea =>
    obtain ⟨r, rfl⟩ := Nat.exists_eq_add_of_le harea.1
    rw [Nat.add_sub_cancel_left]
    exact s.sameButDmem_recordTo r _
  case isFalse => exact ⟨⟨_, rfl⟩, rfl⟩

/-- What an access to a memory leaves of the processor beside the register that it loads: the address register goes on by the offset
register, and the processor to the next instruction (R81, R120). -/
def Accessed (key a o : Nat) (s t : State) : Prop :=
  OnlyProc key s t ∧ (∀ r, t.o key r = s.o key r ∧ t.p key r = s.p key r) ∧ t.a key a = s.a key a + s.o key o
    ∧ (∀ i, i ≠ 8 * s.bank key + a → (t.procAt key).a.get (fun _ => 0) i = (s.procAt key).a.get (fun _ => 0) i)
    ∧ (t.procAt key).pc = ((s.procAt key).goesOn 1).pc ∧ (t.procAt key).cycle = (s.procAt key).cycle + 1

/-- A state that differs from `s` in the general registers and the data memory of one processor, the address register stepped on and the
instruction retired. -/
theorem accessed_of_step {s u : State} {key a o : Nat} (hu : OnlyProc key s u)
    (hx : u.procAt key = { s.procAt key with g := (u.procAt key).g, dmem := (u.procAt key).dmem }) :
    Accessed key a o s ((u.postMod key a o).retire key 1)
      ∧ ((u.postMod key a o).retire key 1).procAt key
        = { (s.procAt key).goesOn 1 with
            g := (u.procAt key).g, dmem := (u.procAt key).dmem, a := (s.procAt key).a.put (8 * s.bank key + a) (s.a key a + s.o key o) } := by
  have honly : OnlyProc key s ((u.postMod key a o).retire key 1) := (hu.mod _).retire _
  have hat : ((u.postMod key a o).retire key 1).procAt key
      = { (s.procAt key).goesOn 1 with
          g := (u.procAt key).g, dmem := (u.procAt key).dmem, a := (s.procAt key).a.put (8 * s.bank key + a) (s.a key a + s.o key o) } := by
    simp only [State.postMod, State.setA, State.retire_eq, State.procAt_modSame, State.a, State.o, bank_of hu]
    rw [hx]
    rfl
  refine ⟨⟨honly, fun r => ⟨?_, ?_⟩, ?_, fun i hi => ?_, ?_, ?_⟩, hat⟩
  · simp only [State.o, bank_of honly, hat]
    rfl
  · simp only [State.p, bank_of honly, hat]
    rfl
  · simp only [State.a, bank_of honly, hat, Tab.get_put_same]
  · simp only [hat, Tab.get_put_other _ _ _ hi]
  · rw [hat]
  · rw [hat]
    rfl

/-- A load of `v` into a general register: what it leaves, the register, and every other register and byte as they were. -/
theorem loaded (s : State) (key a o rd : Nat) (v : W64) :
    let t := ((s.setG key rd v).postMod key a o).retire key 1
    Accessed key a o s t ∧ t.g key rd = (if rd = 0 then 0 else v)
      ∧ (∀ i, rd = 0 ∨ i ≠ 32 * s.bank key + rd → (t.procAt key).g.get (fun _ => 0) i = (s.procAt key).g.get (fun _ => 0) i)
      ∧ ∀ i, t.dbyte key i = s.dbyte key i := by
  intro t
  by_cases hrd : rd = 0
  · obtain ⟨hacc, hat⟩ := accessed_of_step (a := a) (o := o) (OnlyProc.refl s key) rfl
    have ht : t = (s.postMod key a o).retire key 1 := by simp only [t, State.setG, hrd, if_true]
    rw [ht]
    exact ⟨hacc, by simp only [State.g, hrd, if_true], fun i _ => by rw [hat], fun i => by simp only [State.dbyte, hat]⟩
  · have hset : s.setG key rd v = s.modProcAt key (fun x => { x with g := x.g.put (32 * s.bank key + rd) v }) := if_neg hrd
    obtain ⟨hacc, hat⟩ := accessed_of_step (a := a) (o := o) (u := s.setG key rd v) (hset ▸ OnlyProc.ofMod s key _)
      (by rw [hset, State.procAt_modSame])
    have hg : ((s.setG key rd v).procAt key).g = (s.procAt key).g.put (32 * s.bank key + rd) v := by rw [hset, State.procAt_modSame]
    have hdmem : ((s.setG key rd v).procAt key).dmem = (s.procAt key).dmem := by rw [hset, State.procAt_modSame]
    refine ⟨hacc, ?_, fun i hi => ?_, fun i => ?_⟩
    · simp only [State.g, hrd, if_false, bank_of hacc.1, t, hat, hg, Tab.get_put_same]
    · simp only [t, hat, hg, Tab.get_put_other _ _ _ (hi.resolve_left hrd)]
    · simp only [State.dbyte, t, hat, hdmem]

/-- A store of the low `n` bytes of `v`: what it leaves, and the bytes of the memory. -/
theorem stored (s : State) (key a o ea n v : Nat) :
    let t := ((s.dstore key ea n v).postMod key a o).retire key 1
    Accessed key a o s t ∧ (∀ r, t.g key r = s.g key r)
      ∧ ∀ i, t.dbyte key i = if ea ≤ i ∧ i < ea + n then BitVec.ofNat 8 (v / 256 ^ (i - ea)) else s.dbyte key i := by
  intro t
  have hg : ((s.dstore key ea n v).procAt key).g = (s.procAt key).g := by rw [State.dstore, State.procAt_modSame]
  obtain ⟨hacc, hat⟩ := accessed_of_step (a := a) (o := o) (u := s.dstore key ea n v) (OnlyProc.ofMod s key _)
    (by rw [State.dstore, State.procAt_modSame])
  refine ⟨hacc, fun r => ?_, fun i => ?_⟩
  · simp only [State.g, bank_of hacc.1, t, hat, hg]
  · rw [← State.dbyte_dstore]
    simp only [State.dbyte, t, hat]

/-- Settles O10: a load writes a register of the state in which the record has gone on and a fault has been reported; a store writes bytes. -/
theorem dataMemory : Obligations.DataMemory := by
  unfold Obligations.DataMemory
  intro h size rd a o imm s key n ea after s1
  have hrd : rd.toNat = 0 ↔ rd = 0 := by rw [← BitVec.toNat_inj]; rfl
  refine ⟨fun seen hw => ?load, fun hw => ?store⟩
  case load =>
    obtain ⟨⟨m, hproc1⟩, hregs1⟩ := s.sameButDmem_recordSeen key ea
    have hg1 : (s1.procAt key).g = (s.procAt key).g := by rw [hproc1]
    have hbank1 : s1.bank key = s.bank key := State.bank_congr hregs1 key
    have result (u : State) (v : W64) (hprocs : u.procs = s1.procs) (hbank : u.bank key = s1.bank key)
        (hexec : exec (.ld h size rd a o ⟨imm, seen⟩) s = .next (((u.setG key rd.toNat v).postMod key a.toNat o.toNat).retire key 1)) :
        ∃ t, exec (.ld h size rd a o ⟨imm, seen⟩) s = .next t ∧ after u t ∧ t.g key rd.toNat = (if rd = 0 then 0 else v)
          ∧ (∀ i, rd = 0 ∨ i ≠ 32 * s.bank key + rd.toNat → (t.procAt key).g.get (fun _ => 0) i = (s.procAt key).g.get (fun _ => 0) i)
          ∧ ∀ i, t.dbyte key i = s1.dbyte key i := by
      obtain ⟨hacc, hval, hothers, hbytes⟩ := loaded u key a.toNat o.toNat rd.toNat v
      have hat : u.procAt key = s1.procAt key := congrArg (fun p => Tab.get (fun _ => ProcSt.empty) p key) hprocs
      simp only [hrd, hbank, hbank1, hat, hg1] at hval hothers
      exact ⟨_, hexec, hacc, hval, hothers, fun i => (hbytes i).trans (by simp only [State.dbyte, hat])⟩
    cases seen with
    | clean | corr | miscorrect d | unseen d => exact result s1 _ rfl rfl (act_next hw)
    | uncorr => exact result (s1.took.memFault h) _ (s1.took.memFault_procs h) (s1.took.bank_memFault h) (act_next hw)
  case store =>
    obtain ⟨hacc, hregs, hbytes⟩ := stored s key a.toNat o.toNat ea n (s.g key rd.toNat).toNat
    exact ⟨_, act_next hw, hacc, hregs, hbytes⟩

end Sys2Proof.Machine

/-! Posted writes and strings that the statements do not foresee: a `cvf` that lands on a unit that is still at work on a stream (R141,
R303), and a read of a string behind a write in flight that starts the event program (R84, R93, R180). -/

namespace Sys2Proof.Machine

/-- What a command leaves, as a test that the model evaluates. -/
def leaves (c : Instr) (s : State) (p : State → Bool) : Bool := match exec c s with | .next t => p t | _ => false

/-- The state that a command answers meets what the command leaves. -/
theorem of_leaves {c : Instr} {s t : State} {p : State → Bool} (h : leaves c s p = true) (ht : exec c s = .next t) : p t = true := by
  rw [leaves, ht] at h
  exact h

/-- A device whose clock is locked, with a processor that runs program `w` in slot 0 at the reset values of everything else. -/
def running (h : Proc) (w : W32) : State :=
  ({ State.reset.wr F.PSTATE (State.reset.seqBase (Proc.key h)) 1 with clk := { State.reset.clk with locked := true } }).modProcAt (Proc.key h)
    (fun x => { x with imgs := [(0, { Image.none_ with loaded := true, code := [w] })], stop := 1, active := true, cycle := 10 })

/-- Unit 0 of patch 0, whose stream path has been switched off, is still at work on a stream; a cvf of one byte is in flight. -/
def feedOfBusyUnit : State :=
  ({ State.reset with clk := { State.reset.clk with locked := true } }.setCv 0 0 { State.reset.cvAt 0 0 with active := true }).modProcAt 16
    (fun x => { x with wq := [.cvf 0 1 1] })

/-- Refutes O12: a unit completes the stream unit that it is at work on under the setting it began with (R303), so that a cvf is dropped
there although STREAM_EN in effect is 0. In `feedOfBusyUnit` the running value stays 0, where the statement has it fed. -/
theorem not_bankWrites : ¬ Obligations.BankWrites := by
  unfold Obligations.BankWrites
  rintro ⟨hland, -⟩
  obtain ⟨t, ht, -, -, -, -, -, -, hcvf, -⟩ := hland 0 0 .clean (.cvf 0 1 1) [] [] feedOfBusyUnit (by decide) (by decide) rfl (by simp)
  have hfed := ((hcvf 0 1 1 rfl).2).1 (by decide)
  have hzero : t.cvValue 0 0 = 0 :=
    of_decide_eq_true (of_leaves (p := fun t => decide (t.cvValue 0 0 = 0)) (by decide) ht)
  exact absurd (hzero.symm.trans hfed) (by decide)

/-- The signal processor of ribbon 0 is about to issue srd g1, 2[0] with its clearing write of class 0 to string 2 in flight. The ribbon holds
a record of lane 0, whose loss-of-lock cause stands; class 0 starts the event program, which begins at instruction 5, at once. -/
def readBehindClear : State :=
  let s := running (.s 0) (wordS 0x18 1 2 0)
  let s : State := { ((s.wr F.EVT_EN (RIBBON 0) 1).wr F.EVT_IMM (RIBBON 0) 1).wr F.EVT_PEND (RIBBON 0) 1 with
    ribs := [(0, { State.reset.ribAt 0 with rvalid := true })] }
  s.modProcAt 32 (fun x => { x with
    imgs := [(0, { Image.none_ with loaded := true, code := [wordS 0x18 1 2 0], hdr := [0, 0x1005] })]
    cause := [(0, 1)], wq := [.str 0 2 0 none 1 none] })

/-- Refutes O13: the write that a read has to follow clears the pending class (R84), which lets the ribbon's next record begin and raises the
class again (R180); as an immediate event that switches to the event program (R93). In `readBehindClear` the read leaves pc at 6, behind the
event program's first instruction, where the statement has 1. -/
theorem not_stringAccesses : ¬ Obligations.StringAccesses := by
  unfold Obligations.StringAccesses
  intro h
  obtain ⟨t, ht, ⟨-, -, hpc, -⟩, -⟩ := (h (.s 0) 1 2 0 readBehindClear).1 (by decide)
  have hsix : (t.procAt 32).pc = 6 := of_decide_eq_true (of_leaves (p := fun t => decide ((t.procAt 32).pc = 6)) (by decide) ht)
  exact absurd (hsix.symm.trans hpc) (by decide)

end Sys2Proof.Machine

/-! Commands, registers and buffers in states that the statements do not foresee: two commands of one reference, a patch whose layer is in
reset, more units in an elastic buffer than one arrival discards, a stalled channel, and a channel whose number no channel has. -/

namespace Sys2Proof.Machine

/-- A device whose clock is locked, at the reset values of everything else. -/
def lockedDevice : State := { State.reset with clk := { State.reset.clk with locked := true } }

/-- The PROG_LOAD for patch 0 that reference `c` names, at phase `ph`. -/
def loadCommand (c : CmdRef) (ph : Phase) : DispCmd := ⟨c, 1 :: List.replicate 63 0, 0, ph, .ok⟩

/-- A fresh PROG_LOAD of patch 0 behind a start of its sequencer; another command at work has the same reference. -/
def loadBehindStart : State :=
  let c : CmdRef := ⟨false, 0, 0⟩
  ({ lockedDevice with host := { lockedDevice.host with cmds := [loadCommand c .fresh, loadCommand c .running] } }).modProcAt 16
    (fun x => { x with cmds := [(0, .start c)] })

/-- Refutes O18: a load behind a start of its target makes every command of its reference fresh, so that in `loadBehindStart`, where two
commands share one reference, the second, at work, is changed as well; the statement has the state unchanged. -/
theorem not_programCommands : ¬ Obligations.ProgramCommands := by
  unfold Obligations.ProgramCommands
  rintro ⟨hload, -⟩
  obtain ⟨-, hwait, -⟩ := hload ⟨false, 0, 0⟩ (loadCommand ⟨false, 0, 0⟩ .fresh) loadBehindStart (by decide)
  have ht := hwait (by decide) (by decide) (by decide)
  have hfresh : loadBehindStart.host.cmds.map (fun d => d.phase) = [.fresh, .fresh] :=
    of_decide_eq_true (of_leaves (p := fun t => decide (t.host.cmds.map (fun d => d.phase) = [.fresh, .fresh])) (by decide) ht)
  exact absurd hfresh (by decide)

/-- A released device in normal service at which layer L1 is in reset. -/
def layerInReset : State :=
  { lockedDevice.wr F.ST_PHASE DEV 8 with
    cfg := { lockedDevice.cfg with released := true }
    start := { lockedDevice.start with lrOn := [(1, 5)] } }

/-- Refutes O22: while L1 is in reset the lower blocks of a patch take no write (R526), so that in `layerInReset` a write of PQUIET leaves the
window's length at 0, where the statement has what was written. -/
theorem not_laneRequests : ¬ Obligations.LaneRequests := by
  unfold Obligations.LaneRequests
  rintro ⟨-, hquiet, -⟩
  obtain ⟨-, -, hpatch⟩ := hquiet 0 0 1 layerInReset (by decide)
  obtain ⟨t, ht, -, hlen⟩ := hpatch (by decide) (by decide)
  have hzero : t.res.pq.get (fun _ => 0) 0 = 0 :=
    of_decide_eq_true (of_leaves (p := fun t => decide (t.res.pq.get (fun _ => 0) 0 = 0)) (by decide) ht)
  exact absurd (hzero.symm.trans hlen) (by decide)

/-- An arrival takes at most as many units from the buffer as it has fuel. -/
theorem length_ebPush (room : Nat) (e : EbUnit) (fuel : Nat) (q : List EbUnit) : q.length ≤ (ebPush room e fuel q).1.length + fuel := by
  induction fuel generalizing q with
  | zero => simp [ebPush]
  | succ n ih =>
    rw [ebPush]
    split
    · simp; omega
    · split
      · next hq => simp [hq]
      · have := ih q.dropLast
        simp only [List.length_dropLast] at this ⊢
        omega

/-- A raw block of `n` bytes. -/
def rawUnit (n : Nat) : RxUnit := ⟨.whole, List.replicate n 0, [], false, false, false, 0, [], 0⟩

/-- A unit of `n` bytes that waits. -/
def waitingUnit (n : Nat) : EbUnit := ⟨some (rawUnit n), ⟨0, 0, false, false⟩, 0⟩

theorem size_waitingUnit (n : Nat) : (waitingUnit n).size = n := List.length_replicate

theorem isSome_waitingUnit (n : Nat) : (waitingUnit n).u.isSome = true := rfl

/-- The number of a raw block's codewords changes counters only. -/
theorem laneCount64_lanes (s : State) (c : LaneCtr) (l n : Nat) : (s.laneCount64 c l n).lanes = s.lanes := by
  unfold State.laneCount64
  split
  · rfl
  · cases s.ribPatch (l / 8) <;> rfl

/-- A lane counter changes no lane. -/
theorem laneCount_lanes (s : State) (c : LaneCtr) (l n : Nat) : (s.laneCount c l n).lanes = s.lanes := by
  unfold State.laneCount
  split
  · rfl
  · cases s.ribPatch (l / 8) <;> rfl

/-- A raw block without errors changes no lane as it is counted. -/
theorem countUnit_rawUnit_lanes (s : State) (l n : Nat) : (s.countUnit l 0 (rawUnit n)).lanes = s.lanes := by
  simp [State.countUnit, rawUnit, State.addBurst, laneCount_lanes, laneCount64_lanes]

/-- Room for a lane's data does not depend on what the lanes hold. -/
theorem ebRoom_lanes (s : State) (t : Tab LaneSt) (l : Nat) : ({ s with lanes := t } : State).ebRoom l = s.ebRoom l := rfl

/-- A locked device whose lane 0 is UP. -/
def laneUpDevice : State := lockedDevice.wr F.LN_LSTATE (RIBBON 0) 2

/-- Lane 0 is UP; its buffer holds a unit of no byte, one of 4,096 and `w` of no byte. -/
def crowdedLane (w : Nat) : State :=
  { laneUpDevice with
    lanes := [(0, { State.reset.laneAt 0 with eb := waitingUnit 0 :: waitingUnit 4096 :: List.replicate w (waitingUnit 0) })] }

theorem crowdedLane_eb (w : Nat) :
    ((crowdedLane w).laneAt 0).eb = waitingUnit 0 :: waitingUnit 4096 :: List.replicate w (waitingUnit 0) := rfl

theorem crowdedLane_pcsOf (w : Nat) : (crowdedLane w).pcsOf 0 = 0 :=
  calc (crowdedLane w).pcsOf 0 = (crowdedLane 0).pcsOf 0 := rfl
    _ = 0 := by decide

theorem crowdedLane_ebRoom (w : Nat) : (crowdedLane w).ebRoom 0 = 4096 :=
  calc (crowdedLane w).ebRoom 0 = laneUpDevice.ebRoom 0 := ebRoom_lanes _ _ _
    _ = 4096 := by decide

theorem crowdedLane_group (w l : Nat) : ((crowdedLane w).laneAt l).group = ((crowdedLane 0).laneAt l).group := by
  unfold State.laneAt crowdedLane
  by_cases hl : 0 = l
  · subst hl; rfl
  · simp only [Tab.get, hl, if_false]

theorem crowdedLane_groupUp (w : Nat) : (crowdedLane w).groupUp 0 = true := by
  have hup : (crowdedLane 0).groupUp 0 = true := by decide
  have hln : (crowdedLane w).ln F.LN_LSTATE = (crowdedLane 0).ln F.LN_LSTATE := rfl
  unfold State.groupUp State.groupLanes at hup ⊢
  simpa only [crowdedLane_group w, hln] using hup

/-- An arrival at the crowded lane leaves all but 69,633 of its units. -/
theorem crowdedLane_keeps {w : Nat} {t : State} (hw : 70000 ≤ w) (ht : exec (.receivedUnit 0 (rawUnit 8) 0) (crowdedLane w) = .next t) :
    2 < (t.laneAt 0).eb.length := by
  have hlanes : ((((crowdedLane w).tick 0).countUnit 0 0 (rawUnit 8)).laneAt 0).eb = ((crowdedLane w).laneAt 0).eb := by
    unfold State.laneAt
    rw [countUnit_rawUnit_lanes]
    rfl
  have hlen := fun room e => length_ebPush room e 69633 ((crowdedLane w).laneAt 0).eb
  have hokay : ((crowdedLane w).lanesOn && (crowdedLane w).firstLane 0 == 0 && (crowdedLane w).groupUp 0 && unitFits (rawUnit 8) 0) = true := by
    rw [crowdedLane_groupUp, show (crowdedLane w).lanesOn = (crowdedLane 0).lanesOn from rfl,
      show (crowdedLane w).firstLane 0 = (crowdedLane 0).firstLane 0 from rfl]
    decide
  replace ht : execReceivedUnit 0 (rawUnit 8) 0 (crowdedLane w) = .next t := ht
  unfold execReceivedUnit at ht
  simp only [Fin.coe_ofNat_eq_mod, Nat.zero_mod, crowdedLane_pcsOf, hlanes] at ht
  generalize hq : ebPush _ _ 69633 _ = q at ht
  have hlong : 2 < q.1.length := by
    have hleft := hlen _ _ |>.trans_eq (by rw [hq])
    rw [crowdedLane_eb] at hleft
    simp only [List.length_cons, List.length_replicate] at hleft
    omega
  rw [if_neg (by omega), act_next hokay] at ht
  obtain rfl : _ = t := by injection ht
  unfold State.laneAt
  rw [laneCount_lanes]
  simpa [State.modLane, Tab.get_put_same] using hlong

/-- Refutes O23: one arrival discards at most 69,633 units (the model's bound on its loop), so that of the units of no byte in
`crowdedLane w` some stay where `w` is 70,000, where the statement has every unit behind the first discarded. -/
theorem not_receivedUnits : ¬ Obligations.ReceivedUnits := by
  unfold Obligations.ReceivedUnits
  intro h
  obtain ⟨w, hw⟩ : ∃ w, 70000 ≤ w := ⟨70000, le_rfl⟩
  have hon : (crowdedLane w).lanesOn = true := (show _ = (crowdedLane 0).lanesOn from rfl).trans (by decide)
  obtain ⟨-, -, -, hlost⟩ := h 0 (rawUnit 8) 0 (crowdedLane w) hon rfl (crowdedLane_groupUp w)
    (by rw [show (crowdedLane w).pcsOf (0 : Lane).val = 0 from crowdedLane_pcsOf w]; decide)
    (show ∀ x ∈ ([] : List _), _ by simp)
    (by rw [show (crowdedLane w).ebRoom (0 : Lane).val = 4096 from crowdedLane_ebRoom w]; decide)
  have heb : ((crowdedLane w).laneAt (0 : Lane).val).eb = _ := crowdedLane_eb w
  have hroom : (crowdedLane w).ebRoom (0 : Lane).val = 4096 := crowdedLane_ebRoom w
  simp only [heb, hroom] at hlost
  obtain ⟨t, e, ht, hleft, -⟩ := hlost 1 le_rfl (by simp) (show ebLevel [waitingUnit 0] + 8 ≤ 4096 by decide)
    (show 4096 < ebLevel [waitingUnit 0, waitingUnit 4096] + 8 by simp [ebLevel, size_waitingUnit]) (by simp [isSome_waitingUnit])
  have hmany := crowdedLane_keeps hw ht
  have htwo : (t.laneAt 0).eb.length = 2 := (congrArg List.length hleft).trans (by simp)
  omega

/-- An offload of one page of buffer that has sent that page, with nothing consumed. -/
def stalledOffload : ChanSt := ⟨⟨false, 0, 0⟩, true, none, 0, [], 1, 0, 0, 1, 0, 0, 0, 0, none, false⟩

/-- Channel 0 is stalled: its host's buffer has no room. -/
def stalledChannel : State :=
  let s := (lockedDevice.wr F.CH_STATE HOST 2 0).wr F.CH_SENT HOST 1 0
  { s with host := { s.host with chans := [(0, stalledOffload)] } }

/-- Refutes O32: a write of CONSUMED that makes room lets a stalled channel run again (R386), so that in `stalledChannel` the write of 1 changes
the channel's state too, where the statement has CONSUMED alone change. -/
theorem not_offloads : ¬ Obligations.Offloads := by
  unfold Obligations.Offloads
  rintro ⟨-, -, -, hconsumed⟩
  obtain ⟨t, ht, ⟨-, hrest⟩, -⟩ := hconsumed 0 1 stalledChannel (by decide)
  have hstate := hrest (F.CH_STATE.at HOST 0 0) (by decide)
  have hruns : t.reg (F.CH_STATE.at HOST 0 0) = 1 :=
    of_decide_eq_true (of_leaves (p := fun t => decide (t.reg (F.CH_STATE.at HOST 0 0) = 1)) (by decide) ht)
  exact absurd (hruns.symm.trans hstate) (by decide)

/-- A function in D3hot with an offload on a channel whose number, 256, no channel has; the word at offset 0x4400 is not 0. -/
def offloadOfNoChannel : State :=
  let s := lockedDevice.setReg 0x4400 3
  { s with host := { s.host with d3 := true, chans := [(256, stalledOffload)] } }

/-- Refutes O35: the statement asks only that the channels' numbers differ, so that in `offloadOfNoChannel` the end of channel 256 clears a field
of the register at offset 0x4400, which lies outside the registers of the reset. -/
theorem not_hostLink : ¬ Obligations.HostLink := by
  unfold Obligations.HostLink
  rintro ⟨hreset, -⟩
  obtain ⟨t, ht, -, hkeep, -⟩ := hreset .d3hotExit offloadOfNoChannel (Or.inr (Or.inr ⟨rfl, rfl⟩)) (by decide)
  have hthree := hkeep 0x4400 (by decide) (by decide)
  have hzero : t.reg 0x4400 = 0 := of_decide_eq_true (of_leaves (p := fun t => decide (t.reg 0x4400 = 0)) (by decide) ht)
  exact absurd (hzero.symm.trans hthree) (by decide)

end Sys2Proof.Machine

/-! Tests and stops in states that the statements do not foresee: a march of a position that the device does not have, the self-test of a bolt
that is out of service, and a system whose links name devices beyond 63. -/

namespace Sys2Proof.Machine

/-- A march of bank 0 of position 18, which no device has, that preserves what it tests. -/
def marchOfNoPosition : State :=
  { lockedDevice with res := { lockedDevice.res with marches := [⟨⟨false, 0, 0⟩, 0, 18, some 0, true⟩] } }

/-- Refutes O54: the statement asks nothing of the position that a march names, so that in `marchOfNoPosition` the row that the march used is
counted at position 0, where the statement has it counted at position 18. -/
theorem not_selfTests : ¬ Obligations.SelfTests := by
  unfold Obligations.SelfTests
  rintro ⟨-, -, -, hmarch, -⟩
  obtain ⟨t, ht, -, -, -, -, -, -, -, -, -, hpreserved, -⟩ := hmarch 0 ⟨false, 0, 0, false, 0, 0, 1, 0, false, []⟩
    ⟨⟨false, 0, 0⟩, 0, 18, some 0, true⟩ marchOfNoPosition (by decide) (by decide) (by decide)
  obtain ⟨-, -, hused, -⟩ := hpreserved rfl rfl
  have hzero : (t.bankAt 18 0).rows.used = 0 :=
    of_decide_eq_true (of_leaves (p := fun t => decide ((t.bankAt 18 0).rows.used = 0)) (by decide) ht)
  exact absurd (hzero.symm.trans (hused rfl)) (by decide)

/-- A start whose decoder self-tests end, with bolt 0 out of service and its spare decoder lane not in use. -/
def boltOutAtStart : State :=
  { (lockedDevice.wr F.ST_PHASE DEV 7).wr F.BOLT_OUT (BOLT 0) 1 with start := { lockedDevice.start with sub := 1 } }

/-- Refutes O58: the bolt of `boltOutAtStart` is out of service, so that no spare takes the place of the lane that fails (R348), where the
statement has the spare in use. -/
theorem not_startUp : ¬ Obligations.StartUp := by
  unfold Obligations.StartUp
  rintro ⟨-, hlast⟩
  obtain ⟨-, -, hcheckers, -⟩ := hlast boltOutAtStart (by decide) (by decide)
  obtain ⟨-, hspare⟩ := hcheckers (by decide) (by decide)
  obtain ⟨t, ht, hone, -⟩ := hspare 0 (.boltLane 0) (Or.inl rfl)
  have hzero : t.rd F.BOLT_DEC_SPARE (BOLT 0) = 0 :=
    of_decide_eq_true (of_leaves (p := fun t => decide (t.rd F.BOLT_DEC_SPARE (BOLT 0) = 0)) (by decide) ht)
  exact absurd (hzero.symm.trans hone) (by decide)

end Sys2Proof.Machine

/-! What the routes of a system write (R406, R414): the table of devices and the words of SYS, and nothing behind what a message takes along. -/

namespace Sys2Proof.Machine

theorem SameRegs.forN_lt {P : Nat → Prop} {s t : State} (h : SameRegs P s t) {f : Nat → State → State} {n : Nat}
    (hf : ∀ i, i < n → ∀ u, SameRegs P u (f i u)) : SameRegs P s (Sys2Proof.forN f n t) := by
  induction n with
  | zero => exact h
  | succ n ih => exact (ih (fun i hi => hf i (by omega))).trans (hf n (by omega) _)

theorem State.sendMsg_regs (s : State) (d : Nat) (m : Msg) : (s.sendMsg d m).regs = s.regs := by
  unfold State.sendMsg
  cases s.routeTo d <;> rfl

theorem State.tellRoutes_regs (s : State) (x : Nat) : (s.tellRoutes x).regs = s.regs := by
  unfold State.tellRoutes
  refine forN_induct (P := fun (u : State) => u.regs = s.regs) (fun y u hu => ?_) rfl
  split
  · exact hu
  · exact (u.sendMsg_regs _ _).trans hu

theorem State.reportSeam_regs (s : State) (n : Nat) (up : Bool) : (s.reportSeam n up).regs = s.regs := by
  unfold State.reportSeam
  split
  · exact s.sendMsg_regs _ _
  · rfl


theorem State.switchRoutes_regs {P : Nat → Prop} (hP : ∀ d, d < 64 → ¬ P (0xB00 + 4 * d)) (s : State) (n : Nat) : SameRegs P s (s.switchRoutes n) := by
  refine SameRegs.forN_lt (SameRegs.refl P s) (fun d hd u => ?_)
  have hpri : ¬ P (F.SYS_PRI.at DEV d 0) := by simpa [Fld.at, F.SYS_PRI, DEV] using hP d hd
  have halt : ¬ P (F.SYS_ALT.at DEV d 0) := by simpa [Fld.at, F.SYS_ALT, DEV] using hP d hd
  exact SameRegs.ite (((SameRegs.refl P u).wr hpri _).wr halt _) (SameRegs.ite ((SameRegs.refl P u).wr halt _) (SameRegs.refl P u))

theorem State.showSystem_regs {P : Nat → Prop} (hP : ¬ P 0xA04) (s : State) : SameRegs P s s.showSystem :=
  SameRegs.ite (SameRegs.refl P s) ((SameRegs.refl P s).wr (by simpa [Fld.at, F.SYS_STATE, DEV] using hP) _)

theorem Tab.get_filter {α : Type} (d : Nat → α) (t : Tab α) (p : Nat × α → Bool) (k : Nat) (h : ∀ v, p (k, v) = true) :
    Tab.get d (t.filter p) k = Tab.get d t k := by
  induction t with
  | nil => rfl
  | cons e t ih =>
    obtain ⟨k', v⟩ := e
    by_cases hk : k' = k
    · subst hk
      simp [h, Tab.get]
    · by_cases hp : p (k', v) = true <;> simp [hp, Tab.get, hk, ih]

theorem State.resetRegs_regs {P : Nat → Prop} (s : State) {p : Nat → Bool} (hP : ∀ a, P a → p a = false) : SameRegs P s (s.resetRegs p) :=
  fun a ha => Tab.get_filter resetWord s.regs (fun e => !p e.1) a (by simp [hP a ha])

theorem State.cutBurn_regs (s : State) : s.cutBurn.regs = s.regs := by
  unfold State.cutBurn
  split <;> rfl

theorem State.showSlots_regs {P : Nat → Prop} (hP : ∀ k, k < 8 → ¬ P (CFG + 0x40 + 4 * k)) (s : State) : SameRegs P s s.showSlots := by
  refine SameRegs.forN_lt (SameRegs.refl P s) (fun k hk u => ?_)
  have hstate : ¬ P (F.CFG_SSTATE.at CFG k 0) := by simpa [Fld.at, F.CFG_SSTATE] using hP k hk
  have hsize : ¬ P (F.CFG_SIZE_MIB.at CFG k 0) := by simpa [Fld.at, F.CFG_SIZE_MIB] using hP k hk
  split
  · exact ((SameRegs.refl P u).wr hstate _).wr hsize _
  · exact ((SameRegs.refl P u).wr hstate _).wr hsize _

theorem State.dropCopies_regs {P : Nat → Prop} (hP : ¬ P (F.KEY_COPIES.at SEC 0 0)) (s : State) (l : List Nat) : SameRegs P s (s.dropCopies l) :=
  ((SameRegs.refl P s).of_regs rfl).wr hP _

/-- The loss of L1 to L7 writes the registers of their blocks, CFG and the count of key copies. -/
theorem State.loseUpper_regs {P : Nat → Prop} (hP : ∀ a, P a → upperBlock a = false) (hsec : ¬ P (F.KEY_COPIES.at SEC 0 0)) (s : State) :
    SameRegs P s s.loseUpper := by
  have hcfg : ∀ k, k < 8 → ¬ P (CFG + 0x40 + 4 * k) := fun k hk h => by
    have hin : upperBlock (CFG + 0x40 + 4 * k) = true := by
      have h1 : CFG ≤ CFG + 0x40 + 4 * k := by omega
      have h2 : CFG + 0x40 + 4 * k < CFG + 0x1000 := by omega
      simp [upperBlock, h1, h2]
    exact absurd (hP _ h) (by rw [hin]; decide)
  unfold State.loseUpper
  refine SameRegs.trans ?_ (State.showSlots_regs hcfg _)
  refine SameRegs.trans ?_ (State.dropCopies_regs hsec _ _)
  exact (((SameRegs.refl P s).of_regs s.cutBurn_regs).trans (s.cutBurn.resetRegs_regs hP)).of_regs rfl

end Sys2Proof.Machine

/-! A stop of the head device of a system whose links name device 1,409: its entry of the routes lies in the word of HK that shows the cause. -/

namespace Sys2Proof.Machine

/-- A link between two devices that no path joins to the head. -/
def farLink : Link := ⟨1409, 0, 1408, 0, 0⟩

/-- The head device of a system of the far link, with seam 0 UP. -/
def headOfFarSystem : State :=
  let s := ((lockedDevice.wr F.SYS_STATE DEV 2).wr F.SYS_HEAD DEV 1).wr F.SEAM_LSTATE (SEAM 0) 3
  { s with sys := { s.sys with links := [farLink] }, start := { s.start with vhk := true } }

/-- The system is that of the far link, and the entry of device 1,409 says that no path reaches it. -/
def FarAway (s : State) : Prop := s.sys.links = [farLink] ∧ s.rd F.SYS_PRI DEV 1409 = 7

theorem FarAway.of_regs {s t : State} (h : FarAway s) (hregs : t.reg 0x2104 = s.reg 0x2104) (hlinks : t.sys.links = s.sys.links) : FarAway t :=
  ⟨hlinks.trans h.1, (congrArg (bitsOf 2 0) hregs).trans h.2⟩

/-- The cause that HK shows is the low part of that entry. -/
theorem FarAway.cause {s : State} (h : FarAway s) : s.rd F.HK_CAUSE HK = 3 := by
  have h7 : bitsOf 2 0 (s.reg 0x2104) = 7 := h.2
  show bitsOf 1 0 (s.reg 0x2104) = 3
  simp only [bitsOf] at h7 ⊢
  omega

/-- The head has no route to a device by links of which none is its own. -/
theorem routeOf_far (ls : List Link) (h : ∀ l ∈ ls, l = farLink) (y : Nat) : routeOf ls 0 y = ⟨7, 7, 0, 0⟩ := by
  have hnone : choices ls (distTo ls y (deviceCount ls)) 0 = [] := by
    unfold choices
    rw [List.filterMap_eq_nil_iff.2]
    · rfl
    · intro l hl
      rw [h l hl]
      rfl
  rw [routeOf, hnone]

theorem State.sendMsg_links (s : State) (d : Nat) (m : Msg) : (s.sendMsg d m).sys = s.sys := by
  unfold State.sendMsg
  cases s.routeTo d <;> rfl

theorem State.tellRoutes_sys (s : State) (x : Nat) : (s.tellRoutes x).sys = s.sys := by
  unfold State.tellRoutes
  refine forN_induct (P := fun (u : State) => u.sys = s.sys) (fun y u hu => ?_) rfl
  split
  · exact hu
  · exact (u.sendMsg_links _ _).trans hu

theorem State.ownRoutes_sys (s : State) : s.ownRoutes.sys = s.sys := by
  unfold State.ownRoutes
  refine forN_induct (P := fun (u : State) => u.sys = s.sys) (fun y u hu => ?_) ?_
  · split
    · exact hu
    · exact hu
  · exact ite_eq_of (r := State.sys) rfl rfl

/-- The head of the far system writes the entry of device 1,409 last. -/
theorem farAway_ownRoutes {s : State} (h : s.sys.links = [farLink]) : FarAway s.ownRoutes := by
  refine ⟨(congrArg SysSt.links s.ownRoutes_sys).trans h, ?_⟩
  have hlive : ∀ l ∈ s.liveLinks, l = farLink := fun l hl => by simpa [h] using List.mem_of_mem_filter hl
  have hcount : deviceCount s.sys.links = 1409 + 1 := by rw [h]; rfl
  unfold State.ownRoutes
  rw [hcount, forN, if_neg (by decide), routeOf_far _ hlive]
  generalize forN _ _ _ = u
  unfold State.setRoute
  rw [State.rd_wr_field, State.rd_wr_field, State.rd_wr_field, State.rd_wr_field, State.rd_wr_same] <;> decide

theorem farAway_headRoutes {s : State} (h : s.sys.links = [farLink]) : FarAway s.headRoutes := by
  unfold State.headRoutes
  refine forN_induct (P := FarAway) (fun x u hu => ?_) (farAway_ownRoutes h)
  split
  · exact hu
  · exact hu.of_regs (congrArg (fun r => Tab.get resetWord r 0x2104) (u.tellRoutes_regs x)) (congrArg SysSt.links (u.tellRoutes_sys x))

theorem State.switchRoutes_sys (s : State) (n : Nat) : (s.switchRoutes n).sys = s.sys := by
  unfold State.switchRoutes
  refine forN_induct (P := fun (u : State) => u.sys = s.sys) (fun d u hu => ?_) rfl
  exact ite_eq_of (r := State.sys) hu (ite_eq_of (r := State.sys) hu hu)

theorem farAway_reportSeam {s : State} (h : FarAway s) (n : Nat) (up : Bool) : FarAway (s.reportSeam n up) := by
  unfold State.reportSeam
  split
  · exact h.of_regs (congrArg (fun r => Tab.get resetWord r 0x2104) (s.sendMsg_regs _ _)) (congrArg SysSt.links (s.sendMsg_links _ _))
  · exact h

theorem State.showSystem_sys (s : State) : s.showSystem.sys = s.sys := by
  unfold State.showSystem
  exact ite_eq_of (r := State.sys) rfl rfl

theorem farAway_showSystem {s : State} (h : FarAway s) : FarAway s.showSystem :=
  h.of_regs (State.showSystem_regs (P := (· = 0x2104)) (by decide) s _ rfl) (congrArg SysSt.links s.showSystem_sys)

/-- The device is the head of a system, where a seam that goes DOWN has the routes written. -/
def HeadsSystem (s : State) : Prop := ¬ s.rd F.SYS_STATE DEV < 2 ∧ s.isHead = true

theorem HeadsSystem.of_regs {s t : State} (h : HeadsSystem s) (hregs : t.reg 0xA04 = s.reg 0xA04) : HeadsSystem t :=
  ⟨fun hlow => h.1 (show bitsOf 2 0 (s.reg 0xA04) < 2 from hregs ▸ hlow),
   (congrArg (fun w => bitsOf 9 4 w == 0) hregs).trans h.2⟩

/-- A seam that goes down leaves the system far away; on a head it makes it so. -/
theorem farAway_seamDown {s : State} (n cause : Nat) (hlinks : s.sys.links = [farLink]) (h : FarAway s ∨ HeadsSystem s) :
    FarAway (s.seamDown n cause) := by
  let kept : Nat → Prop := fun a => a = 0x2104 ∨ a = 0xA04
  have hseam : ∀ (f : Fld), ¬ kept (f.at (SEAM n) 0 0) := fun f ha => by
    simp only [kept, Fld.at, SEAM] at ha
    omega
  have hroute : ∀ d, d < 64 → ¬ kept (0xB00 + 4 * d) := fun d hd ha => by
    simp only [kept] at ha
    omega
  unfold State.seamDown
  extract_lets parent s1 fallen s2 s3
  have h1 : SameRegs kept s { s1 with sys := fallen } := SameRegs.of_regs ((((SameRegs.refl _ s).wr (hseam _) _).wr (hseam _) _).wr (hseam _) _) rfl
  have h2 : SameRegs kept s s2 := h1.trans (State.switchRoutes_regs hroute _ n)
  have hl2 : s2.sys.links = [farLink] := (congrArg SysSt.links (State.switchRoutes_sys _ n)).trans hlinks
  have hs2 : FarAway s2 ∨ HeadsSystem s2 :=
    h.imp (fun hfar => hfar.of_regs (h2 _ (Or.inl rfl)) (hl2.trans hlinks.symm)) (fun hhead => hhead.of_regs (h2 _ (Or.inr rfl)))
  have h3 : FarAway s3 := by
    by_cases hhead : HeadsSystem s2
    · simp only [s3, if_neg hhead.1, if_pos hhead.2]
      exact farAway_headRoutes hl2
    · have hfar := hs2.resolve_right hhead
      simp only [s3]
      split
      · exact hfar
      · split
        · exact farAway_headRoutes hl2
        · exact farAway_reportSeam hfar n false
  exact farAway_showSystem h3

/-- The seams of a head that go down one after the other leave the system far away, if the first of them is alive. -/
theorem farAway_seamsDown {s : State} (hlinks : s.sys.links = [farLink]) (hhead : HeadsSystem s) (hlive : s.seamLive 0 = true) (k : Nat) :
    FarAway (forN (fun n s => if s.seamLive n then s.seamDown n 1 else s) (k + 1) s) := by
  induction k with
  | zero =>
    show FarAway (if s.seamLive 0 then s.seamDown 0 1 else s)
    rw [if_pos hlive]
    exact farAway_seamDown 0 1 hlinks (Or.inr hhead)
  | succ k ih =>
    rw [forN]
    split
    · exact farAway_seamDown (k + 1) 1 ih.1 (Or.inl ih)
    · exact ih

/-- A head of the far system that a thermal shutdown stops, with no command at work and seam 0 alive, shows a wrong cause. -/
theorem cause_stopStack {s : State} (peak : Nat) (hlinks : s.sys.links = [farLink]) (hhead : HeadsSystem s) (hlive : s.seamLive 0 = true)
    (hstop : s.hk.stop = 0) (hcmds : s.host.cmds = []) : (s.stopStack 1 0 peak).rd F.HK_CAUSE HK = 3 := by
  let kept : Nat → Prop := fun a => a = 0xA04 ∨ a = F.SEAM_LSTATE.at (SEAM 0) 0 0
  unfold State.stopStack
  rw [if_neg (by rw [hstop]; decide)]
  extract_lets recent s1 s2 hk3 s3 s4 s5 still
  have hs4 : s4 = s3 := by
    show forEach _ s.host.cmds s3 = s3
    rw [hcmds]
    rfl
  have hregs : SameRegs kept s s3 :=
    (((SameRegs.refl kept s).wr (by decide) _).wr (by decide) _ |>.wr (by decide) _ |>.wr (by decide) _).of_regs rfl
  have hfar : FarAway s5 := by
    simp only [s5, hs4]
    have hheads : HeadsSystem s3 := hhead.of_regs (hregs _ (Or.inl rfl))
    refine farAway_seamsDown (s := s3) hlinks hheads ?_ 5
    have hstate : s3.rd F.SEAM_LSTATE (SEAM 0) = s.rd F.SEAM_LSTATE (SEAM 0) := congrArg (bitsOf _ _) (hregs _ (Or.inr rfl))
    simpa only [State.seamLive, hstate] using hlive
  have hlost := State.loseUpper_regs (P := (· = 0x2104)) (by simp +decide) (by decide) { s5 with lanes := s5.lanes.map still }
  exact (congrArg (bitsOf 1 0) (hlost _ rfl)).trans hfar.cause

/-- Refutes O57: a thermal shutdown of a head device takes its seams down, and where the system's links name device 1,409, the entry of the routes
that the head then writes overwrites the cause. -/
theorem not_powerAndHeat : ¬ Obligations.PowerAndHeat := by
  unfold Obligations.PowerAndHeat
  intro h
  obtain ⟨-, -, htrip, -⟩ := h 0 headOfFarSystem (by decide)
  obtain ⟨t, ht, -, hcause, -⟩ := htrip 0 (by decide)
  have hshown : t.rd F.HK_CAUSE HK = 3 := by
    replace ht := (act_next (by decide)).symm.trans ht
    rw [Host.Outcome.next.injEq] at ht
    rw [← ht]
    exact cause_stopStack _ rfl ⟨by decide, by decide⟩ (by decide) rfl rfl
  exact absurd (hshown.symm.trans hcause) (by decide)

end Sys2Proof.Machine

/-! Commands at work: what their completion, their phase and the data that they move show (R383, R389, R431 to R433). -/

namespace Sys2Proof.Machine

theorem actOn_some {α : Type} {s : State} {o : Option α} {x : α} {f : α → State} (h : o = some x) : actOn s o f = .next (f x) := by
  subst h
  rfl

theorem State.cmd_complete (s : State) (c : CmdRef) (st : Status) (data : List Nat) : (s.complete c st data).cmd c = none := by
  simp [State.cmd, State.complete, List.find?_eq_none]

@[simp] theorem State.rd_complete (s : State) (c : CmdRef) (st : Status) (data : List Nat) (f : Fld) (base i j : Nat) :
    (s.complete c st data).rd f base i j = s.rd f base i j := rfl

/-- A command ends by its completion in a state that has the commands of `s`. -/
theorem ends_complete {s u : State} (h : u.host = s.host) (c : CmdRef) (st : Status) (data : List Nat) : Ends c st data s (u.complete c st data) :=
  ⟨by simp only [State.complete, h], u.cmd_complete c st data⟩

theorem State.cmd_setPhase (s : State) (c : CmdRef) (ph : Phase) : (s.setPhase c ph).cmd c = (s.cmd c).map (fun d => { d with phase := ph }) := by
  have hsame : (fun d : DispCmd => decide ((if d.c = c then { d with phase := ph } else d).c = c)) = fun d => decide (d.c = c) := by
    funext d
    split <;> rfl
  simp only [State.cmd, State.setPhase, List.find?_map, Function.comp_def, hsame]
  refine Option.map_congr (fun d hd => if_pos ?_)
  simpa using List.find?_some hd

/-- A command passes to a phase in a state that has the commands of `s`. -/
theorem enters_setPhase {s u t : State} (hu : u.host = s.host) (c : CmdRef) (ph : Phase) (ht : t.host = (u.setPhase c ph).host) : Enters c ph s t := by
  refine ⟨?_, ?_⟩
  · have hcmd : s.cmd c = u.cmd c := by simp only [State.cmd, hu]
    rw [hcmd, ← u.cmd_setPhase c ph]
    simp only [State.cmd, ht]
  · rw [ht]
    exact (congrArg HostSt.done hu :)

/-- Settles O51: every clause is the arm of its condition. -/
theorem fusesAndLifeCycle : Obligations.FusesAndLifeCycle := by
  unfold Obligations.FusesAndLifeCycle
  refine ⟨?key, ?advance, ?burnKey, ?burnState, ?forward⟩
  case key =>
    intro c d s hburn hd key may
    have hexec : exec (.designKey c) s = .next (if ¬ may then s.complete c .refused else { s.setPhase c .running with cfg := { s.cfg with burn := some (.key c key) } }) := by
      refine (actOn_some (by rw [hburn]; exact hd)).trans (congrArg Host.Outcome.next (if_congr ?_ rfl rfl))
      simp only [may, key, ← Option.not_isSome_iff_eq_none]
      tauto
    rw [hexec]
    refine ⟨fun h => ⟨_, rfl, ?_⟩, fun h => ⟨_, rfl, ?_⟩⟩
    · rw [if_neg (not_not_intro h)]
      exact ⟨enters_setPhase rfl c .running rfl, rfl, rfl⟩
    · rw [if_pos h]
      exact ⟨ends_complete rfl c .refused [], rfl⟩
  case advance =>
    intro c d s hburn hd target may
    have hexec : exec (.lcsAdvance c) s =
        .next (if may then { s.setPhase c .running with cfg := { s.cfg with burn := some (.state c target) } } else s.complete c .refused) := by
      refine (actOn_some (by rw [hburn]; exact hd)).trans (congrArg Host.Outcome.next (if_congr ?_ rfl rfl))
      simp [may, target]
    rw [hexec]
    refine ⟨fun h => ⟨_, rfl, ?_⟩, fun h => ⟨_, rfl, ?_⟩⟩
    · rw [if_pos h]
      exact ⟨enters_setPhase rfl c .running rfl, rfl, rfl⟩
    · rw [if_neg h]
      exact ⟨ends_complete rfl c .refused [], rfl⟩
  case burnKey =>
    intro c key s hburn
    refine ⟨⟨_, actOn_some hburn, ends_complete rfl c .ok [], ?_, rfl, rfl, ?_⟩, ⟨_, actOn_some hburn, ends_complete rfl c .refused [], ?_, rfl, rfl⟩⟩
    · simp (disch := decide) only [↓reduceIte, State.rd_complete, State.rd_wr_word, State.rd_wr_same]
      decide
    · simp (disch := decide) only [↓reduceIte, State.rd_complete, State.rd_wr_word]
      rfl
    · simp (disch := decide) only [↓reduceIte, Bool.false_eq_true, State.rd_complete, State.rd_wr_same]
      decide
  case burnState =>
    intro c target v s hburn htarget
    refine ⟨_, actOn_some hburn, ends_complete rfl c .ok [target], ?_, rfl, rfl, ?_⟩
    · rw [State.rd_complete, State.rd_wr_same _ _ _ _ _ _ (by decide) (by decide)]
      exact Nat.mod_eq_of_lt (Nat.lt_of_le_of_lt htarget (by decide))
    · rw [State.rd_complete, State.rd_wr_word _ _ _ _ _ _ _ _ _ _ (by decide)]
      rfl
  case forward =>
    intro a b k h
    simp only [lcsAllowed, Bool.or_eq_true, Bool.and_eq_true, beq_iff_eq, decide_eq_true_eq] at h
    omega

/-- A list of bytes put one after the other at an address. -/
theorem get_putBytes (t : Tab Byte) (a : Nat) (l : List Byte) (i : Nat) :
    Tab.get (fun _ => 0) (l.foldl (fun (p : Tab Byte × Nat) b => (p.1.put p.2 b, p.2 + 1)) (t, a)).1 i =
      if a ≤ i ∧ i < a + l.length then nthD 0 l (i - a) else Tab.get (fun _ => 0) t i := by
  induction l generalizing t a with
  | nil => simp
  | cons b l ih =>
    simp only [List.foldl_cons, ih, List.length_cons, Tab.get_put]
    rcases Nat.lt_trichotomy i a with hlt | rfl | hgt
    · rw [if_neg (by omega), if_neg (by omega), if_neg (by omega)]
    · rw [if_neg (by omega), if_pos rfl, if_pos (by omega), Nat.sub_self]
      rfl
    · obtain ⟨n, hn⟩ : ∃ n, i - a = n + 1 := ⟨i - a - 1, by omega⟩
      have hprev : i - (a + 1) = n := by omega
      rw [hn, hprev, nthD, if_neg (by omega : ¬ i = a)]
      exact if_congr (by omega) rfl rfl

theorem nthD_map_range {α : Type} (x : α) (f : Nat → α) (n i : Nat) (h : i < n) : nthD x ((List.range n).map f) i = f i := by
  induction n generalizing i f with
  | zero => omega
  | succ n ih =>
    rw [List.range_succ_eq_map, List.map_cons, List.map_map]
    cases i with
    | zero => rfl
    | succ i => exact ih _ i (by omega)

/-- The host memory after a write of the device. -/
theorem State.hostMem_hostWrite {s : State} (h : s.host.d3 = false) (a : Nat) (l : List Byte) (i : Nat) :
    Tab.get (fun _ => 0) (s.hostWrite a l).hostMem i = if a ≤ i ∧ i < a + l.length then nthD 0 l (i - a) else Tab.get (fun _ => 0) s.hostMem i := by
  unfold State.hostWrite
  rw [if_neg (by simp [h])]
  exact get_putBytes s.hostMem a l i

theorem State.hostWrite_frame (s : State) (a : Nat) (l : List Byte) : s.hostWrite a l = { s with hostMem := (s.hostWrite a l).hostMem } := by
  unfold State.hostWrite
  split <;> rfl

theorem State.flag_of_eq_one {s : State} {f : Fld} {base i j : Nat} (h : s.rd f base i j = 1) : s.flag f base i j = true := beq_iff_eq.2 h

theorem State.flag_of_eq_zero {s : State} {f : Fld} {base i j : Nat} (h : s.rd f base i j = 0) : s.flag f base i j = false :=
  beq_eq_false_iff_ne.2 (by omega)

/-- The bytes of a bolt whose lines are all good. -/
theorem State.boltGet_of_good {s : State} {k : Nat} (h : ∀ l, s.lineBad k l = false) (a n : Nat) :
    (s.boltGet k a n).1 = (List.range n).map (fun i => s.boltByte k (a + i)) := by
  simp [State.boltGet, h]

/-- Settles O34: each transfer takes the arm of its premises, and a write of the device puts the bolt's bytes one after the other. -/
theorem boltTransfers : Obligations.BoltTransfers := by
  unfold Obligations.BoltTransfers
  intro c d s hup k
  refine ⟨?boltIn, ?boltOut, ?done⟩
  case boltIn =>
    intro hd
    have hmay : s.transfer c 0x22 = some d := (if_pos hup).trans hd
    refine ⟨fun hin => ?_, fun hout => ?_⟩
    · have hflag : ¬ s.flag F.BOLT_OUT (BOLT k) = true := Bool.eq_false_iff.1 (State.flag_of_eq_zero hin)
      have hexec : exec (.boltIn c) s = .next (s.setPhase c (if d.boltLen = 0 then .running else .reading)) :=
        (actOn_some hmay).trans (congrArg Host.Outcome.next ((if_neg hflag).trans (apply_ite (s.setPhase c) _ _ _).symm))
      exact ⟨_, hexec, enters_setPhase rfl c _ rfl, rfl⟩
    · have hexec : exec (.boltIn c) s = .next (s.complete c .refused) :=
        (actOn_some hmay).trans (congrArg Host.Outcome.next (if_pos (State.flag_of_eq_one hout)))
      exact ⟨_, hexec, ends_complete rfl c .refused [], rfl⟩
  case boltOut =>
    intro hd
    have hmay : s.transfer c 0x23 = some d := (if_pos hup).trans hd
    refine ⟨fun hin hhead hd3 hgood => ?_, fun hout => ?_⟩
    · have hflag : ¬ s.flag F.BOLT_OUT (BOLT k) = true := Bool.eq_false_iff.1 (State.flag_of_eq_zero hin)
      have hbad (first n : Nat) : s.poisonedLines k first n = [] := by simp [State.poisonedLines, hgood]
      have hto (a : Nat) (l : List Byte) : s.toHost a l = s.hostWrite a l := if_pos hhead
      have hexec : exec (.boltOut c) s =
          .next (((s.hostWrite (d.param 8 8) ((List.range d.boltLen).map (fun i => s.boltByte k (d.boltOff + i)))).unmark k).setPhase c .running) := by
        refine (actOn_some hmay).trans (congrArg Host.Outcome.next ((if_neg hflag).trans ?_))
        simp only [k] at hbad hgood
        simp only [hbad, ite_self, ↓reduceIte, hto, State.boltGet_of_good hgood]
        rfl
      rw [hexec, State.hostWrite_frame]
      refine ⟨_, rfl, enters_setPhase rfl c .running rfl, rfl, fun a => ?_⟩
      refine (State.hostMem_hostWrite hd3 _ _ a).trans ?_
      rw [List.length_map, List.length_range]
      refine ite_congr rfl (fun hin => ?_) (fun _ => rfl)
      exact nthD_map_range 0 _ _ _ (by omega)
    · have hexec : exec (.boltOut c) s = .next (s.complete c .refused) :=
        (actOn_some hmay).trans (congrArg Host.Outcome.next (if_pos (State.flag_of_eq_one hout)))
      exact ⟨_, hexec, ends_complete rfl c .refused [], rfl⟩
  case done =>
    intro hcmd hop hphase hdev
    refine ⟨_, actOn_some (by simp only [hcmd]; exact if_pos ⟨hop, hphase, hdev⟩), ends_complete rfl c d.status [], rfl⟩

end Sys2Proof.Machine

/-! Register accesses by address (R3, R365): a merged write, and the effects of a read. -/

namespace Sys2Proof.Machine

theorem OnlyRegs.refl (l : List Nat) (s : State) : OnlyRegs l s s := ⟨rfl, fun _ _ => rfl⟩

theorem OnlyRegs.setReg {l : List Nat} {s t : State} (h : OnlyRegs l s t) {a : Nat} (ha : a ∈ l) (w : W32) : OnlyRegs l s (t.setReg a w) := by
  refine ⟨?_, fun b hb => ?_⟩
  · rw [h.1]
    rfl
  · rw [State.reg_setReg_other _ _ (fun hab : b = a => hb (hab.symm ▸ ha))]
    exact h.2 b hb

theorem OnlyRegs.wr {l : List Nat} {s t : State} (h : OnlyRegs l s t) {f : Fld} {base i j : Nat} (ha : f.at base i j ∈ l) (v : Nat) :
    OnlyRegs l s (t.wr f base v i j) := h.setReg ha _

/-- A write that a word's field table merges: the word at its own address alone. -/
theorem State.onlyRegs_mergeWrite (s : State) (a : Nat) (v : W32) (be : Nat) : OnlyRegs [a] s (s.mergeWrite a v be) := by
  unfold State.mergeWrite
  split
  · exact .refl _ s
  · split
    · exact .refl _ s
    · exact (OnlyRegs.refl _ s).setReg (List.mem_singleton_self a) _

/-- What the written word then holds. -/
theorem State.reg_mergeWrite_same {s : State} {a : Nat} {b : Blk} {inst o : Nat} (h : locate a = some (b, inst, o)) (v : W32) (be : Nat) :
    (s.mergeWrite a v be).reg a = (rowsAt b inst o).foldl (fun w r => writeField v be w r.1) (s.reg a) := by
  unfold State.mergeWrite
  rw [h]
  dsimp only
  split
  next hrows => rw [hrows]; rfl
  next rows hrows => exact State.reg_setReg_same _ _ _

/-- A read clears the fields of a word that a read clears, and leaves the word's others. -/
theorem State.reg_clearRc (s : State) (a : Nat) (b : Blk) (inst o : Nat) :
    let rc := (rowsAt b inst o).filter (fun r => r.1.acc = .rc)
    let t := if rc = [] then s else s.setReg a (rc.foldl (fun w r => setBitsOf r.1.f.hi r.1.f.lo w (r.1.reset inst r.2)) (s.reg a))
    OnlyRegs [a] s t ∧ t.reg a = rc.foldl (fun w r => setBitsOf r.1.f.hi r.1.f.lo w (r.1.reset inst r.2)) (s.reg a) := by
  intro rc t
  by_cases hrc : rc = []
  · simp only [t, if_pos hrc, hrc]
    exact ⟨.refl _ s, rfl⟩
  · simp only [t, if_neg hrc]
    exact ⟨(OnlyRegs.refl _ s).setReg (List.mem_singleton_self a) _, State.reg_setReg_same _ _ _⟩

/-- A block whose registers a read shows and clears, with no effect of its own. -/
def plainBlocks : List Blk := [.hk, .cfg, .sec, .res, .seam]

theorem State.peek_plain {s : State} {a : Nat} {b : Blk} {inst o : Nat} (h : locate a = some (b, inst, o)) (hb : b ∈ plainBlocks)
    (hs : s.silent b o = false) (hh : s.halted = false) : s.peek a = s.reg a := by
  unfold State.peek
  rw [h]
  simp only [plainBlocks, List.mem_cons, List.not_mem_nil, or_false] at hb
  rcases hb with rfl | rfl | rfl | rfl | rfl <;> simp [hs, hh, isHi, hiOf, State.jackWrites]

theorem State.readEffects_plain {s : State} {a : Nat} {b : Blk} {inst o : Nat} (h : locate a = some (b, inst, o)) (hb : b ∈ plainBlocks)
    (hs : s.silent b o = false) (hh : s.halted = false) :
    let rc := (rowsAt b inst o).filter (fun r => r.1.acc = .rc)
    s.readEffects a = if rc = [] then s else s.setReg a (rc.foldl (fun w r => setBitsOf r.1.f.hi r.1.f.lo w (r.1.reset inst r.2)) (s.reg a)) := by
  unfold State.readEffects
  rw [h]
  simp only [plainBlocks, List.mem_cons, List.not_mem_nil, or_false] at hb
  rcases hb with rfl | rfl | rfl | rfl | rfl <;> simp [hs, hh, hiOf, State.jackWrites]

/-- The low words of counters: their offset is a multiple of 16, and of no other register that a read treats in its own way. -/
theorem offset_of_hiOf {b : Blk} {o : Nat} (hb : b ∈ [Blk.dev, .ribbon]) (h : (hiOf b o).isSome = true) :
    o % 16 = 0 ∧ 0x300 ≤ o ∧ (b = .dev → o = 0x800 ∨ o = 0x810) := by
  simp only [List.mem_cons, List.not_mem_nil, or_false] at hb
  rcases hb with rfl | rfl <;>
    · simp only [hiOf, Option.isSome_ite, Bool.or_eq_true, Bool.and_eq_true, beq_iff_eq, decide_eq_true_eq] at h
      refine ⟨by omega, by omega, ?_⟩
      simp <;> omega

theorem isHi_of_low {b : Blk} {o : Nat} (ho : o % 16 = 0) (hb : b ∈ [Blk.dev, .ribbon]) : isHi b o = false := by
  rcases Nat.lt_or_ge o 4 with hlt | hge
  · simp [isHi, hlt]
  · have hnone : hiOf b (o - 4) = none := by
      simp only [List.mem_cons, List.not_mem_nil, or_false] at hb
      rcases hb with rfl | rfl <;>
        · simp only [hiOf, ite_eq_right_iff, Bool.or_eq_true, Bool.and_eq_true, beq_iff_eq, decide_eq_true_eq, reduceCtorEq, imp_false]
          omega
    simp [isHi, hnone]

theorem State.peek_counterLo {s : State} {a : Nat} {b : Blk} {inst o : Nat} (h : locate a = some (b, inst, o)) (hb : b ∈ [Blk.dev, .ribbon])
    (hlo : (hiOf b o).isSome = true) (hs : s.silent b o = false) (hh : s.halted = false) : s.peek a = s.reg a := by
  obtain ⟨hmod, hmin, hdev⟩ := offset_of_hiOf hb hlo
  have hhi := isHi_of_low hmod hb
  unfold State.peek
  rw [h]
  simp only [List.mem_cons, List.not_mem_nil, or_false] at hb
  rcases hb with rfl | rfl
  · have ho := hdev rfl
    have h110 : o ≠ 0x110 := by omega
    have h684 : ¬ (o = 0x684 ∨ o = 0x688) := by omega
    simp [hs, hh, hhi, State.jackWrites, h110, diagBase, h684]
  · have hcorr : o ≠ F.RSPH_CORR.off := by simp only [F.RSPH_CORR]; omega
    have h24 : ¬ (o = 0x24 ∨ o = 0x28) := by omega
    simp [hs, hh, hhi, State.jackWrites, hcorr, diagBase, h24]

theorem State.capHi_readEffects_counterLo {s : State} {a : Nat} {b : Blk} {inst o : Nat} (h : locate a = some (b, inst, o)) (hb : b ∈ [Blk.dev, .ribbon])
    (hlo : (hiOf b o).isSome = true) (hs : s.silent b o = false) (hh : s.halted = false) :
    (s.readEffects a).capHi = s.capHi.put (a + 4) (s.reg (a + 4)) := by
  obtain ⟨hmod, hmin, hdev⟩ := offset_of_hiOf hb hlo
  unfold State.readEffects
  rw [h]
  simp only [List.mem_cons, List.not_mem_nil, or_false] at hb
  rcases hb with rfl | rfl
  · have h110 : o ≠ 0x110 := by have := hdev rfl; omega
    simp only [hs, hh, hlo, State.jackWrites, h110]
    simp
    split <;> rfl
  · have hcorr : o ≠ F.RSPH_CORR.off := by simp only [F.RSPH_CORR]; omega
    simp only [hs, hh, hlo, State.jackWrites, hcorr]
    simp
    split <;> rfl

theorem State.halted_of_up {s : State} (h : s.up = true) : s.halted = false := by
  simp only [State.up, Bool.and_eq_true, Bool.not_eq_true'] at h
  exact h.2

theorem State.locked_of_up {s : State} (h : s.up = true) : s.clk.locked = true := by
  simp only [State.up, Bool.and_eq_true] at h
  exact h.1

theorem State.busWrite_of_no_bytes (s : State) (src : Src) (a : Nat) (v : W32) : s.busWrite src a v 0 = s := by
  unfold State.busWrite
  split
  · rfl
  · exact if_pos (Or.inr (Or.inr rfl))

theorem State.busWrite_of_unlocated {s : State} {a : Nat} (h : locate a = none) (src : Src) (v : W32) (be : Nat) : s.busWrite src a v be = s := by
  unfold State.busWrite
  rw [h]

/-- The blocks whose registers a write merges, with no effect of its own. -/
theorem State.busWrite_plain {s : State} {a : Nat} {b : Blk} {inst o : Nat} (h : locate a = some (b, inst, o)) (hb : b ∈ [Blk.hk, .cfg, .sec, .res])
    (hs : s.silent b o = false) (hh : s.halted = false) (src : Src) (v : W32) {be : BitVec 4} (hbe : be ≠ 0) :
    s.busWrite src a v be.toNat = s.mergeWrite a v be.toNat := by
  have hsome : ¬ be.toNat % 16 = 0 := fun h0 => hbe (BitVec.eq_of_toNat_eq (by rw [← Nat.mod_eq_of_lt be.isLt]; exact h0))
  unfold State.busWrite
  rw [h]
  simp only [List.mem_cons, List.not_mem_nil, or_false] at hb
  rcases hb with rfl | rfl | rfl | rfl <;> simp [hs, hh, hsome]

/-- The lines' state: a read shows the latched lines and captures their upper half. -/
theorem State.peek_lines {s : State} (hs : s.silent .trig 0 = false) (hh : s.halted = false) : s.peek TRIG = BitVec.ofNat 32 s.trig.latched.toNat := by
  have hloc : locate TRIG = some (.trig, 0, 0) := rfl
  unfold State.peek
  rw [hloc]
  simp [hs, hh]

theorem State.readEffects_lines {s : State} (hs : s.silent .trig 0 = false) (hh : s.halted = false) :
    s.readEffects TRIG = { s with capHi := s.capHi.put (TRIG + 4) (BitVec.ofNat 32 (s.trig.latched.toNat / 2 ^ 32)) } := by
  have hloc : locate TRIG = some (.trig, 0, 0) := rfl
  have hrc : (rowsAt .trig 0 0).filter (fun r => r.1.acc = .rc) = [] := by decide
  unfold State.readEffects
  rw [hloc]
  simp [hs, hh, hrc, hiOf, State.hiValue, F.LOG_LOST, State.jackWrites]

theorem State.peek_logStat {s : State} (hs : s.silent .trig 0x208 = false) (hh : s.halted = false) : s.peek (TRIG + 0x208) = s.reg (TRIG + 0x208) := by
  have hloc : locate (TRIG + 0x208) = some (.trig, 0, 0x208) := rfl
  unfold State.peek
  rw [hloc]
  simp [hs, hh, isHi, hiOf, State.jackWrites]

/-- The log's status word: a read takes LOST and leaves NEWEST. -/
theorem State.readEffects_logStat {s : State} (hs : s.silent .trig 0x208 = false) (hh : s.halted = false) :
    s.readEffects (TRIG + 0x208) = s.wr F.LOG_LOST TRIG 0 := by
  have hloc : locate (TRIG + 0x208) = some (.trig, 0, 0x208) := rfl
  have hrc : (rowsAt .trig 0 0x208).filter (fun r => r.1.acc = .rc) = [] := by decide
  have hoff : F.LOG_LOST.off = 0x208 := rfl
  unfold State.readEffects
  rw [hloc]
  simp [hs, hh, hrc, hiOf, hoff, State.jackWrites]

/-- Settles O45: a plain block's write merges its word alone, and a read's effects are the clears and captures of its word. -/
theorem registerAccesses : Obligations.RegisterAccesses := by
  unfold Obligations.RegisterAccesses
  intro a s hup a4
  have hlock := State.locked_of_up hup
  have hh := State.halted_of_up hup
  refine ⟨fun src v be off => ⟨fun hnone => ?_, fun hbe => ?_, fun b inst o hloc hb hs hbe => ?_⟩, fun b inst o hloc hb hs => ?_,
    fun b inst o hloc hb hs hlo => ?_, fun off hs => ?_, fun off hs => ?_⟩
  · exact (act_next hlock).trans (congrArg Host.Outcome.next (State.busWrite_of_unlocated hnone _ _ _))
  · subst hbe
    exact (act_next hlock).trans (congrArg Host.Outcome.next (State.busWrite_of_no_bytes _ _ _ _))
  · have hexec : exec (.registerWrite src a v be off) s = .next ((s.tick off).mergeWrite a4 v be.toNat) :=
      (act_next hlock).trans (congrArg Host.Outcome.next (State.busWrite_plain (s := s.tick off) hloc hb hs hh src v hbe))
    exact ⟨_, hexec, State.onlyRegs_mergeWrite _ _ _ _, State.reg_mergeWrite_same hloc _ _⟩
  · have hread := State.reg_clearRc s a4 b inst o
    have heff := State.readEffects_plain hloc hb hs hh
    dsimp only at hread heff
    rw [← heff] at hread
    refine ⟨_, act_next hlock, State.peek_plain hloc hb hs hh, ⟨?_, hread.1.2⟩, hread.2⟩
    exact congrArg (fun u : State => { u with resp := s.peek a4 }) hread.1.1
  · refine ⟨_, act_next hlock, State.peek_counterLo hloc hb hlo hs hh, ?_, fun m hm => ?_⟩
    · exact (congrArg (fun c => Tab.get resetWord c _) (State.capHi_readEffects_counterLo hloc hb hlo hs hh)).trans (Tab.get_put_same _ _ _ _)
    · exact (congrArg (fun c => Tab.get resetWord c _) (State.capHi_readEffects_counterLo hloc hb hlo hs hh)).trans (Tab.get_put_other _ _ _ hm)
  · have heff := State.readEffects_lines (s := s.tick off) hs hh
    refine ⟨_, rfl, State.peek_lines (s := s.tick off) hs hh, ?_, ?_⟩
    · exact (congrArg (fun u => Tab.get resetWord u.capHi (TRIG + 4)) heff).trans (Tab.get_put_same _ _ _ _)
    · exact (congrArg State.regs heff :)
  · have heff := State.readEffects_logStat (s := s.tick off) hs hh
    refine ⟨_, rfl, State.peek_logStat (s := s.tick off) hs hh, ?_, ?_, ?_⟩
    · exact (congrArg (fun u => u.rd F.LOG_LOST TRIG) heff).trans (State.rd_wr_same _ _ _ _ _ _ (by decide) (by decide))
    · exact (congrArg (fun u => u.rd F.LOG_NEWEST TRIG) heff).trans
        (State.rd_wr_field _ _ _ _ _ _ _ _ _ _ (by decide) (by decide) (by decide) (by decide))
    · exact (congrArg State.trig heff :)

end Sys2Proof.Machine

/-! Buckets, patrol and rows of a memory unit (R341 to R344). -/

namespace Sys2Proof.Machine

@[simp] theorem State.bankAt_setBank_same (s : State) (p b : Nat) (x : BankSt) : (s.setBank p b x).bankAt p b = x := Tab.get_put_same _ _ _ _

@[simp] theorem State.boltAt_setBolt_same (s : State) (k : Nat) (x : BoltSt) : (s.setBolt k x).boltAt k = x := Tab.get_put_same _ _ _ _

theorem State.bankAt_setBank (s : State) (p b q c : Nat) (x : BankSt) :
    (s.setBank p b x).bankAt q c = if 8 * q + c = 8 * p + b then x else s.bankAt q c := Tab.get_put _ _ _ _ _

theorem State.boltAt_setBolt (s : State) (k j : Nat) (x : BoltSt) : (s.setBolt k x).boltAt j = if j = k then x else s.boltAt j := Tab.get_put _ _ _ _ _

theorem State.bankAt_eq_of_key (s : State) {p b q c : Nat} (h : 8 * q + c = 8 * p + b) : s.bankAt q c = s.bankAt p b :=
  congrArg (Tab.get _ s.banks) h

/-- A projection that an update of one bank leaves, it leaves in every bank. -/
theorem State.bankAt_setBank_keeps {α : Type} (f : BankSt → α) (s : State) (p b q c : Nat) (x : BankSt) (h : f x = f (s.bankAt p b)) :
    f ((s.setBank p b x).bankAt q c) = f (s.bankAt q c) := by
  rw [State.bankAt_setBank]
  split
  next hkey => rw [h, s.bankAt_eq_of_key hkey]
  next => rfl

theorem State.boltAt_setBolt_keeps {α : Type} (f : BoltSt → α) (s : State) (k j : Nat) (x : BoltSt) (h : f x = f (s.boltAt k)) :
    f ((s.setBolt k x).boltAt j) = f (s.boltAt j) := by
  rw [State.boltAt_setBolt]
  split
  next hkey => rw [h, hkey]
  next => rfl

/-- A level of a bucket is not the depth, the leak period or another word of its unit. -/
theorem unitLevel_setLevel (s : State) (u : MemUnit) (v : Nat) : unitLevel (s.setLevel u v) u = v % 65536 := by
  cases u with
  | bank p b => exact State.rd_wr_same _ _ _ _ _ _ (by decide) (by decide)
  | bolt k => exact State.rd_wr_same _ _ _ _ _ _ (by decide) (by decide)

theorem unitDepth_setLevel (s : State) (u : MemUnit) (v : Nat) : unitDepth (s.setLevel u v) u = unitDepth s u := by
  cases u with
  | bank p b => exact State.rd_wr_word _ _ _ _ _ _ _ _ _ _ (by have := b.isLt; simp only [Fld.at, F.BK_DEPTH, F.BK_LEVEL]; omega)
  | bolt k => exact State.rd_wr_word _ _ _ _ _ _ _ _ _ _ (by simp only [Fld.at, F.BOLT_DEPTH, F.BOLT_LEVEL]; omega)

theorem unitLevel_lt (s : State) (u : MemUnit) : unitLevel s u < 65536 := by
  cases u with
  | bank p b => exact State.rd_lt _ _ _ _ _
  | bolt k => exact State.rd_lt _ _ _ _ _

theorem unitLeakEnd_setLeakEnd (s : State) (u : MemUnit) (t : Nat) : unitLeakEnd (s.setLeakEnd u t) u = t := by
  cases u with
  | bank p b => simp [unitLeakEnd, State.setLeakEnd]
  | bolt k => simp [unitLeakEnd, State.setLeakEnd]

theorem State.setLeakEnd_frame (s : State) (u : MemUnit) (t : Nat) :
    s.setLeakEnd u t = { s with banks := (s.setLeakEnd u t).banks, bolts := (s.setLeakEnd u t).bolts } := by
  cases u <;> rfl

theorem State.setLevel_frame (s : State) (u : MemUnit) (v : Nat) : s.setLevel u v = { s with regs := (s.setLevel u v).regs } := by
  cases u <;> rfl

theorem State.setDepth_frame (s : State) (u : MemUnit) (v : Nat) : s.setDepth u v = { s with regs := (s.setDepth u v).regs } := by
  cases u with
  | bank p b => exact forN_induct (P := fun (t : State) => t = { s with regs := t.regs }) (fun i t ht => by rw [ht]; rfl) rfl
  | bolt k => rfl

/-- A loop that replaces each word of an array by a function of its own: every word is replaced once. -/
theorem rd_forN_wr (f : Fld) (base : Nat) (g : Nat → Nat) (hlo : f.lo ≤ f.hi) (hhi : f.hi < 32) (hst : f.st1 ≠ 0) (s : State) (n b : Nat) :
    (forN (fun i s => s.wr f base (g (s.rd f base i)) i) n s).rd f base b =
      if b < n then g (s.rd f base b) % 2 ^ (f.hi + 1 - f.lo) else s.rd f base b := by
  induction n with
  | zero => rfl
  | succ n ih =>
    rw [forN]
    by_cases hb : b = n
    · subst hb
      rw [State.rd_wr_same _ _ _ _ _ _ hlo hhi, ih, if_neg (Nat.lt_irrefl b), if_pos (Nat.lt_succ_self b)]
    · have haddr : f.at base b 0 ≠ f.at base n 0 := by
        simp only [Fld.at]
        intro h
        exact hb (Nat.eq_of_mul_eq_mul_left (Nat.pos_of_ne_zero hst) (by omega))
      rw [State.rd_wr_word _ _ _ _ _ _ _ _ _ _ haddr, ih]
      exact if_congr (by omega) rfl rfl

/-- A new depth holds, and brings the level down to it. -/
theorem unit_setDepth (s : State) (u : MemUnit) (v : BitVec 16) :
    unitDepth (s.setDepth u v.toNat) u = max 1 v.toNat ∧ unitLevel (s.setDepth u v.toNat) u = min (max 1 v.toNat) (unitLevel s u) := by
  have hdepth : (if v.toNat = 0 then 1 else v.toNat) = max 1 v.toNat := by split <;> omega
  have hv : v.toNat < 65536 := v.isLt
  have hn : max 1 v.toNat % 65536 = max 1 v.toNat := Nat.mod_eq_of_lt (by omega)
  have hl : min (max 1 v.toNat) (unitLevel s u) % 65536 = min (max 1 v.toNat) (unitLevel s u) := Nat.mod_eq_of_lt (by have := unitLevel_lt s u; omega)
  unfold State.setDepth
  rw [hdepth]
  cases u with
  | bank p b =>
    have hword (i : Nat) (hi : i < 8) : F.BK_DEPTH.at (PATCH p.val) 0 0 ≠ F.BK_LEVEL.at (PATCH p.val) i 0 := by
      simp only [Fld.at, F.BK_DEPTH, F.BK_LEVEL]; omega
    refine ⟨?_, ?_⟩
    · refine (SameRegs.forN_lt (P := (· = F.BK_DEPTH.at (PATCH p.val) 0 0)) (SameRegs.refl _ _)
        (fun i hi t => (SameRegs.refl _ t).wr (fun h => hword i hi h.symm) _)).rd rfl |>.trans ?_
      exact (State.rd_wr_same _ _ _ _ _ _ (by decide) (by decide)).trans hn
    · refine (rd_forN_wr F.BK_LEVEL (PATCH p.val) (min (max 1 v.toNat)) (by decide) (by decide) (by decide) _ 8 b.val).trans ?_
      rw [if_pos b.isLt, State.rd_wr_word _ _ _ _ _ _ _ _ _ _ (hword b.val b.isLt).symm]
      exact hl
  | bolt k =>
    refine ⟨?_, ?_⟩
    · refine (State.rd_wr_word _ _ _ _ _ _ _ _ _ _ ?_).trans ((State.rd_wr_same _ _ _ _ _ _ (by decide) (by decide)).trans hn)
      simp only [Fld.at, F.BOLT_DEPTH, F.BOLT_LEVEL]; omega
    · exact (State.rd_wr_same _ _ _ _ _ _ (by decide) (by decide)).trans hl

theorem unitLevel_setLeakEnd (s : State) (u : MemUnit) (t : Nat) : unitLevel (s.setLeakEnd u t) u = unitLevel s u := by
  cases u <;> rfl

theorem unitDepth_setLeakEnd (s : State) (u : MemUnit) (t : Nat) : unitDepth (s.setLeakEnd u t) u = unitDepth s u := by
  cases u <;> rfl

/-- The read of a clean word or line that no boundary has marked leaves the state. -/
theorem State.scrubRead_clean {s : State} {u : MemUnit} {addr : Nat} (h : ∀ k : LPatch, u = .bolt k → (k.val, addr) ∉ s.stack.marked) :
    s.scrubRead u addr .clean = s := by
  cases u with
  | bank p b =>
    simp only [State.scrubRead, State.bankRead]
    split <;> rfl
  | bolt k =>
    simp only [State.scrubRead, State.boltRead, if_neg (h k rfl)]
    split <;> rfl

/-- The patrol's progress is none of what a bank or a bolt holds. -/
theorem State.patrolNext_holds (s : State) (u : MemUnit) :
    s.patrolNext u = { s with banks := (s.patrolNext u).banks, bolts := (s.patrolNext u).bolts }
      ∧ (∀ pos b w, (s.patrolNext u).bankWord pos b w = s.bankWord pos b w ∧ (s.patrolNext u).bankPoison pos b w = s.bankPoison pos b w)
      ∧ ∀ k a, (s.patrolNext u).boltByte k a = s.boltByte k a := by
  cases u with
  | bank p b =>
    refine ⟨rfl, fun pos c w => ⟨?_, ?_⟩, fun k a => rfl⟩
    · exact State.bankAt_setBank_keeps (fun x => x.words.get x.unlisted w) s _ _ pos c _ (by split <;> rfl)
    · exact State.bankAt_setBank_keeps (fun x => x.poison.get (fun _ => false) w) s _ _ pos c _ (by split <;> rfl)
  | bolt k =>
    refine ⟨rfl, fun pos c w => ⟨rfl, rfl⟩, fun j a => ?_⟩
    exact State.boltAt_setBolt_keeps (fun x => x.mem.get x.unlisted a) s _ j _ (by split <;> rfl)

/-- After the last address of a pass the next pass begins. -/
theorem patrolPass_patrolNext (s : State) (u : MemUnit) :
    ((patrolPass s u).1 + 1 < (patrolPass s u).2.2.2 → patrolPass (s.patrolNext u) u = ((patrolPass s u).1 + 1, (patrolPass s u).2))
      ∧ ((patrolPass s u).2.2.2 ≤ (patrolPass s u).1 + 1 → (patrolPass (s.patrolNext u) u).1 = 0
        ∧ (patrolPass (s.patrolNext u) u).2.1 = (patrolPass s u).2.1 + (patrolPass s u).2.2.1
        ∧ ∀ k, u = .bolt k → (patrolPass (s.patrolNext u) u).2.2.1 = s.rd F.BOLT_PATROL_S (BOLT k.val) * (1000 * cyclesPerMs)) := by
  cases u with
  | bank p b =>
    refine ⟨fun h => ?_, fun h => ?_⟩
    · simp only [patrolPass] at h
      simp [patrolPass, State.patrolNext, h]
      rfl
    · simp only [patrolPass] at h
      simp [patrolPass, State.patrolNext, Nat.not_lt.2 h]
  | bolt k =>
    refine ⟨fun h => ?_, fun h => ?_⟩
    · simp only [patrolPass] at h
      simp [patrolPass, State.patrolNext, h]
    · simp only [patrolPass] at h
      simp [patrolPass, State.patrolNext, Nat.not_lt.2 h]

theorem unitRows_setRows (s : State) (u : MemUnit) (r : RowFix) : unitRows (s.setRows u r) u = r := by
  cases u with
  | bank p b => simp [unitRows, State.setRows]
  | bolt k => simp [unitRows, State.setRows]

theorem State.setRows_frame (s : State) (u : MemUnit) (r : RowFix) : s.setRows u r = { s with banks := (s.setRows u r).banks, bolts := (s.setRows u r).bolts } := by
  cases u <;> rfl

/-- Settles O40: a leak, a new depth, a patrol read and a copied row each update the one part of their unit that they name. -/
theorem errorManagement : Obligations.ErrorManagement := by
  unfold Obligations.ErrorManagement
  intro u s hon hreset t0 pass
  refine ⟨fun hcomes hlevel => ?_, fun v => ?_, fun hphase hcomes hmark => ?_, fun row rest hrow => ?_⟩
  · have hcomes' : s.comes (unitLeakEnd s u) = true := hcomes
    have hlow : (unitLevel s u - 1) % 65536 = unitLevel s u - 1 := Nat.mod_eq_of_lt (by have := unitLevel_lt s u; omega)
    refine ⟨_, act_next (by simp [hon, hreset, hcomes']), ?_, ?_, ?_, unitLeakEnd_setLeakEnd _ _ _⟩
    · exact (unitLevel_setLeakEnd _ _ _).trans ((unitLevel_setLevel _ _ _).trans hlow)
    · rw [State.setLeakEnd_frame, State.setLevel_frame]
    · refine (unitDepth_setLeakEnd _ _ _).trans ((unitDepth_setLevel _ _ _).trans ?_)
      cases u <;> rfl
  · obtain ⟨hdepth, hlevel⟩ := unit_setDepth s u v
    exact ⟨_, act_next (by simp [hon, hreset]), hdepth, hlevel, State.setDepth_frame s u _⟩
  · have hcomes' : s.comes (patrolTime s u) = true := hcomes
    have hexec : exec (.patrolRead u .clean) s = .next ((s.tick (patrolTime s u - s.time.run)).patrolNext u) :=
      (act_next (by simp [hon, hreset, hcomes', hphase])).trans
        (congrArg (fun t => Host.Outcome.next (t.patrolNext u)) (State.scrubRead_clean (s := s.tick _) hmark))
    obtain ⟨hframe, hbank, hbolt⟩ := (s.tick (patrolTime s u - s.time.run)).patrolNext_holds u
    obtain ⟨hnext, hlast⟩ := patrolPass_patrolNext (s.tick (patrolTime s u - s.time.run)) u
    have hpass : patrolPass (s.tick (patrolTime s u - s.time.run)) u = pass := by cases u <;> rfl
    rw [hpass] at hnext hlast
    exact ⟨_, hexec, hframe, hbank, hbolt, hnext, hlast⟩
  · have hcopy (seen : List (BitVec 7 × Ecc)) (f : Nat → State) : actOn s (if s.stackOn ∧ ¬ s.unitReset u then (unitRows s u).toCopy.head? else none) f = .next (f row) :=
      actOn_some (by rw [if_pos (by simp [hon, hreset]), hrow]; rfl)
    refine ⟨⟨_, hcopy [] _, ?_, State.setRows_frame _ _ _⟩, fun seen => ⟨_, hcopy seen _, ?_⟩⟩
    · refine (unitRows_setRows _ _ _).trans ?_
      simp [forEach, hrow]
    · rw [unitRows_setRows]
      simp

end Sys2Proof.Machine

/-! What a merged write does to a field by its access code (R3, R6, R365), and the event ring (R319 to R323). -/

namespace Sys2Proof.Machine

theorem bitAt_eq_testBit (w i : Nat) : bitAt w i = w.testBit i := by
  rw [bitAt, Nat.testBit_eq_decide_div_mod_eq]
  exact Bool.beq_eq_decide_eq _ _

/-- Only the low four byte enables count. -/
theorem enMask_mod (be : Nat) : enMask be = enMask (be % 16) := by
  have hbit (i : Nat) (hi : i < 4) : bitAt (be % 16) i = bitAt be i := by
    rw [bitAt_eq_testBit, bitAt_eq_testBit, show 16 = 2 ^ 4 from rfl, Nat.testBit_mod_two_pow]
    simp [hi]
  simp [enMask, List.range_succ, hbit]

theorem enMask_of_all {be : Nat} (h : be % 16 = 15) : enMask be = 2 ^ 32 - 1 := by
  rw [enMask_mod, h]
  decide

theorem enMask_of_none {be : Nat} (h : be % 16 = 0) : enMask be = 0 := by
  rw [enMask_mod, h]
  decide

/-- Every bit of a field of the word of ones is 1. -/
theorem bitsOf_ones {hi lo : Nat} (hhi : hi < 32) : bitsOf hi lo (BitVec.ofNat 32 (2 ^ 32 - 1)) = 2 ^ (hi + 1 - lo) - 1 := by
  refine Nat.eq_of_testBit_eq (fun i => ?_)
  have hones : (BitVec.ofNat 32 (2 ^ 32 - 1)).toNat = 2 ^ 32 - 1 := rfl
  rw [bitsOf, hones, Nat.testBit_mod_two_pow, Nat.testBit_div_two_pow, Nat.testBit_two_pow_sub_one, Nat.testBit_two_pow_sub_one]
  by_cases h : i < hi + 1 - lo
  · simp [h]
    omega
  · simp [h]

theorem bitsOf_lt (hi lo : Nat) (w : W32) : bitsOf hi lo w < 2 ^ (hi + 1 - lo) := Nat.mod_lt _ (by positivity)

theorem bitsOf_and_ones {hi lo : Nat} (hhi : hi < 32) (w : W32) :
    bitsOf hi lo w &&& bitsOf hi lo (BitVec.ofNat 32 (2 ^ 32 - 1)) = bitsOf hi lo w := by
  rw [bitsOf_ones hhi, Nat.and_two_pow_sub_one_eq_mod, Nat.mod_eq_of_lt (bitsOf_lt hi lo w)]

/-- What ones clear, by the lowest bit and the rest. -/
theorem sub_and_halves (h n : Nat) : (h - (h &&& n)) / 2 = h / 2 - (h / 2 &&& n / 2) ∧ (h - (h &&& n)) % 2 = h % 2 - (h % 2 &&& n % 2) := by
  have hle : h &&& n ≤ h := Nat.and_le_left
  have hdiv : (h &&& n) / 2 = h / 2 &&& n / 2 := Nat.and_div_two
  have hmod : (h &&& n) % 2 = (h % 2) &&& (n % 2) := Nat.and_mod_two_pow (n := 1)
  rcases Nat.mod_two_eq_zero_or_one h with e | e <;> rcases Nat.mod_two_eq_zero_or_one n with e' | e' <;>
    · rw [e, e'] at hmod ⊢
      simp only [Nat.and_zero, Nat.zero_and, Nat.and_self] at hmod ⊢
      omega

theorem testBit_sub_and (h n i : Nat) : (h - (h &&& n)).testBit i = (h.testBit i && !n.testBit i) := by
  induction i generalizing h n with
  | zero =>
    rw [Nat.testBit_zero, Nat.testBit_zero, Nat.testBit_zero, (sub_and_halves h n).2]
    rcases Nat.mod_two_eq_zero_or_one h with e | e <;> rcases Nat.mod_two_eq_zero_or_one n with e' | e' <;> rw [e, e'] <;> rfl
  | succ i ih => rw [Nat.testBit_succ, Nat.testBit_succ, Nat.testBit_succ, (sub_and_halves h n).1, ih]

/-- The RW fields of a word written with all its bytes hold the value, clamped. -/
theorem writeField_rw_all {r : RegRow} (hrw : r.acc = .rw) (hhi : r.f.hi < 32) (hle : r.f.lo ≤ r.f.hi) {be : Nat} (hbe : be % 16 = 15) (v held : W32) :
    writeField v be held r = setBitsOf r.f.hi r.f.lo held (r.clamp.apply (bitsOf r.f.hi r.f.lo v)) := by
  have hm := bitsOf_ones (lo := r.f.lo) hhi
  have hpos : 2 ^ (r.f.hi + 1 - r.f.lo) - 1 ≠ 0 := by
    have : 2 ^ 1 ≤ 2 ^ (r.f.hi + 1 - r.f.lo) := Nat.pow_le_pow_right (by decide) (by omega)
    omega
  unfold writeField
  rw [enMask_of_all hbe, hrw]
  simp only [bitsOf_and_ones hhi, Nat.sub_self, Nat.add_zero]
  rw [hm, if_neg hpos]

theorem bitsOf_writeField_other {v held : W32} {be : Nat} {r : RegRow} (hle : r.f.lo ≤ r.f.hi) (hhi : r.f.hi < 32) {hi lo : Nat} (h : lo ≤ hi)
    (hd : hi < r.f.lo ∨ r.f.hi < lo) : bitsOf hi lo (writeField v be held r) = bitsOf hi lo held := by
  unfold writeField
  cases r.acc with
  | rw =>
    dsimp only
    split
    · rfl
    · exact bitsOf_setBitsOf_other _ _ hle hhi h hd
  | w1c => exact bitsOf_setBitsOf_other _ _ hle hhi h hd
  | _ => rfl

/-- A field of a word of which no byte is written keeps its value. -/
theorem bitsOf_writeField_none {v held : W32} {be : Nat} {r : RegRow} (hle : r.f.lo ≤ r.f.hi) (hhi : r.f.hi < 32) (hbe : be % 16 = 0) :
    bitsOf r.f.hi r.f.lo (writeField v be held r) = bitsOf r.f.hi r.f.lo held := by
  have hzero : bitsOf r.f.hi r.f.lo (BitVec.ofNat 32 0) = 0 := by simp [bitsOf]
  unfold writeField
  rw [enMask_of_none hbe]
  simp only [hzero, if_true]
  cases r.acc with
  | w1c =>
    simp only [Nat.and_zero, Nat.sub_zero]
    rw [bitsOf_setBitsOf _ _ hle hhi, Nat.mod_eq_of_lt (bitsOf_lt _ _ _)]
  | _ => rfl

/-- Settles O19: the mask of a whole write is a field of ones, and that of none is 0. -/
theorem fieldWriteRules : Obligations.FieldWriteRules := by
  unfold Obligations.FieldWriteRules
  intro v held be r hle hhi was n now width
  refine ⟨fun hrw hbe => ?_, fun hbe => bitsOf_writeField_none hle hhi hbe, fun hw1c hbe i hi => ?_, fun hrw hw1c => ?_,
    fun hi lo h hd => bitsOf_writeField_other hle hhi h hd⟩
  · simp only [now, writeField_rw_all hrw hhi hle hbe]
    exact bitsOf_setBitsOf _ _ hle hhi
  · have hnow : now = was - (was &&& n) := by
      simp only [now, writeField, hw1c, enMask_of_all hbe, bitsOf_and_ones hhi]
      rw [bitsOf_setBitsOf _ _ hle hhi]
      exact Nat.mod_eq_of_lt (Nat.lt_of_le_of_lt (Nat.sub_le _ _) (bitsOf_lt _ _ _))
    rw [hnow, bitAt_eq_testBit, bitAt_eq_testBit, bitAt_eq_testBit, testBit_sub_and]
  · have hkeeps : writeField v be held r = held := by
      unfold writeField
      cases hacc : r.acc with
      | rw => exact absurd hacc hrw
      | w1c => exact absurd hacc hw1c
      | _ => rfl
    simp only [now, was, hkeeps]

/-! The event ring. -/

/-- A word with one row, of access RW. -/
theorem State.reg_mergeWrite_word {s : State} {a : Nat} {b : Blk} {inst o : Nat} {r : RegRow} {i : Nat} (h : locate a = some (b, inst, o))
    (hrow : rowsAt b inst o = [(r, i)]) (hrw : r.acc = .rw) (hhi : r.f.hi < 32) (hle : r.f.lo ≤ r.f.hi) (v : W32) :
    (s.mergeWrite a v 15).reg a = setBitsOf r.f.hi r.f.lo (s.reg a) (r.clamp.apply (bitsOf r.f.hi r.f.lo v)) := by
  rw [State.reg_mergeWrite_same h, hrow]
  exact writeField_rw_all hrw hhi hle rfl v _

theorem setBitsOf_whole (w : W32) (v : Nat) : setBitsOf 31 0 w v = BitVec.ofNat 32 v := by
  apply BitVec.eq_of_toNat_eq
  rw [setBitsOf_toNat _ _ (by decide) (by decide), BitVec.toNat_ofNat]
  have := w.isLt
  omega

theorem bitsOf_whole (w : W32) : bitsOf 31 0 w = w.toNat := by
  simp only [bitsOf]
  have := w.isLt
  omega

/-- A word that is one RW field. -/
theorem State.reg_mergeWrite_whole {s : State} {a : Nat} {b : Blk} {inst o : Nat} {r : RegRow} {i : Nat} (h : locate a = some (b, inst, o))
    (hrow : rowsAt b inst o = [(r, i)]) (hrw : r.acc = .rw) (hhi : r.f.hi = 31) (hlo : r.f.lo = 0) (v : W32) :
    (s.mergeWrite a v 15).reg a = BitVec.ofNat 32 (r.clamp.apply v.toNat) := by
  rw [State.reg_mergeWrite_word h hrow hrw (by omega) (by omega), hhi, hlo, setBitsOf_whole, bitsOf_whole]

theorem State.rd_mergeWrite_word {s : State} {a : Nat} {f : Fld} {base : Nat} (h : f.at base 0 0 ≠ a) (v : W32) (be : Nat) :
    (s.mergeWrite a v be).rd f base = s.rd f base :=
  congrArg (bitsOf f.hi f.lo) ((s.onlyRegs_mergeWrite a v be).2 _ (by simpa using h))

theorem State.emptied_emptyRing (s : State) : s.emptyRing.rd F.EVQ_HEAD TRIG = s.emptyRing.rd F.EVQ_TAIL TRIG := by
  have htail : s.emptyRing.rd F.EVQ_TAIL TRIG = s.rd F.EVQ_TAIL TRIG := State.rd_wr_word _ _ _ _ _ _ _ _ _ _ (by decide)
  rw [htail]
  exact (State.rd_wr_same _ _ _ _ _ _ (by decide) (by decide)).trans (Nat.mod_eq_of_lt (State.rd_lt _ _ _ _ _))

/-- A class becomes pending in the ring's registers, with its interrupt (R321, R323). -/
def State.pendClass (s : State) (c : Nat) : State :=
  if bitAt (s.rd F.EVQ_PEND TRIG) c then s
  else
    let s4 := s.wr F.EVQ_PEND TRIG (s.rd F.EVQ_PEND TRIG + 2 ^ c)
    if bitAt (s4.rd F.EVQ_MASK TRIG) c then s4 else s4.vector (c + 1)

/-- A record's class becomes pending, whether the record was written or lost (R321 to R323). -/
def State.noteRecord (s : State) (e : EvRec) : State :=
  let c := eventClass e.code
  let s3 := (s.modProcAt 0 (fun x => { x with evWord := x.evWord ||| BitVec.ofNat 16 (2 ^ c) })).pendClass c
  match nmBit e.code with
  | none => s3
  | some i => (s3.wr F.NM_LATCH TRIG (s3.rd F.NM_LATCH TRIG ||| 2 ^ i)).vector 0

theorem State.vector_frame (s : State) (v : Nat) : s.vector v = { s with host := (s.vector v).host } := by
  unfold State.vector
  split <;> rfl

theorem State.regs_vector (s : State) (v : Nat) : (s.vector v).regs = s.regs := by rw [State.vector_frame]

/-- `t` follows from `s` by changes of the processors, the interrupts and the registers that say what is pending. -/
def Notes (s t : State) : Prop :=
  t = { s with procs := t.procs, host := t.host, regs := t.regs } ∧ SameRegs (fun a => a ≠ TRIG + 0x814 ∧ a ≠ TRIG + 0x820) s t

theorem Notes.wr {s t : State} (h : Notes s t) {f : Fld} (hf : f.at TRIG 0 0 = TRIG + 0x814 ∨ f.at TRIG 0 0 = TRIG + 0x820) (v : Nat) :
    Notes s (t.wr f TRIG v) :=
  ⟨by rw [h.1]; rfl, h.2.wr (by rcases hf with e | e <;> simp [e]) v⟩

theorem Notes.vector {s t : State} (h : Notes s t) (v : Nat) : Notes s (t.vector v) :=
  ⟨by rw [t.vector_frame, h.1], h.2.of_regs (t.regs_vector v)⟩

theorem notes_pendClass {s t : State} (h : Notes s t) (c : Nat) : Notes s (t.pendClass c) := by
  unfold State.pendClass
  split
  · exact h
  · dsimp only
    split
    · exact h.wr (Or.inl rfl) _
    · exact (h.wr (Or.inl rfl) _).vector _

theorem notes_noteRecord (s : State) (e : EvRec) : Notes s (s.noteRecord e) := by
  have h : Notes s ((s.modProcAt 0 (fun x => { x with evWord := x.evWord ||| BitVec.ofNat 16 (2 ^ eventClass e.code) })).pendClass (eventClass e.code)) :=
    notes_pendClass (s := s) (t := s.modProcAt 0 _) ⟨rfl, SameRegs.refl _ s⟩ _
  unfold State.noteRecord
  dsimp only
  split
  · exact h
  · exact (h.wr (Or.inr rfl) _).vector 0

theorem bit_pending {x c : Nat} (hc : c < 6) (h : bitAt x c = false) : bitAt ((x + 2 ^ c) % 2 ^ 16) c = true := by
  simp only [bitAt, beq_eq_false_iff_ne, beq_iff_eq] at h ⊢
  interval_cases c <;> omega

theorem rd_pendClass (s : State) {c : Nat} (hc : c < 6) : bitAt ((s.pendClass c).rd F.EVQ_PEND TRIG) c = true := by
  have hwr : ∀ t : State, (t.vector (c + 1)).rd F.EVQ_PEND TRIG = t.rd F.EVQ_PEND TRIG := fun t => by rw [State.vector_frame]; rfl
  unfold State.pendClass
  by_cases h : bitAt (s.rd F.EVQ_PEND TRIG) c = true
  · rwa [if_pos h]
  · have hset := bit_pending hc (Bool.eq_false_iff.2 h)
    rw [if_neg h]
    dsimp only
    split
    · rwa [State.rd_wr_same _ _ _ _ _ _ (by decide) (by decide)]
    · rwa [hwr, State.rd_wr_same _ _ _ _ _ _ (by decide) (by decide)]

theorem rd_noteRecord (s : State) {e : EvRec} (hc : e.code / 16 < 6) : bitAt ((s.noteRecord e).rd F.EVQ_PEND TRIG) (e.code / 16) = true := by
  have hclass : eventClass e.code = e.code / 16 := Nat.mod_eq_of_lt (by omega)
  have h := rd_pendClass (s.modProcAt 0 (fun x => { x with evWord := x.evWord ||| BitVec.ofNat 16 (2 ^ (e.code / 16)) })) hc
  unfold State.noteRecord
  rw [hclass]
  dsimp only
  split
  · exact h
  · rw [State.vector_frame]
    exact (congrArg (bitAt · (e.code / 16)) (State.rd_wr_word _ _ _ _ _ _ _ _ _ _ (by decide))).trans h

theorem EvRec.length_bytes (e : EvRec) (seq : W32) : (e.bytes seq).length = 32 := by
  simp [EvRec.bytes, leBytes_length]

/-- A record that the head device notes leaves the ring's own words as the write or the loss has left them. -/
theorem Notes.rd {s t : State} (h : Notes s t) {f : Fld} (hf : f.at TRIG 0 0 ≠ TRIG + 0x814 ∧ f.at TRIG 0 0 ≠ TRIG + 0x820) :
    t.rd f TRIG = s.rd f TRIG := h.2.rd hf

/-- A record that the ring has room for (R320). -/
theorem State.writeRecord_kept {s : State} {e : EvRec} (hbased : s.trig.based = true) (hd3 : s.host.d3 = false) (hc : e.code / 16 < 6)
    (hroom : (s.rd F.EVQ_HEAD TRIG + 1) % s.rd F.EVQ_SIZE TRIG ≠ s.rd F.EVQ_TAIL TRIG)
    (hfits : (s.rd F.EVQ_HEAD TRIG + 1) % s.rd F.EVQ_SIZE TRIG < 65536) :
    let seq : W32 := if s.evSeq = BitVec.allOnes 32 then 1 else s.evSeq + 1
    let t := s.writeRecord e
    t.evq = s.evq ∧ t.evSeq = seq ∧ t.rd F.EVQ_HEAD TRIG = (s.rd F.EVQ_HEAD TRIG + 1) % s.rd F.EVQ_SIZE TRIG
      ∧ bitAt (t.rd F.EVQ_PEND TRIG) (e.code / 16) = true ∧ t.rd F.EVQ_LOST TRIG = s.rd F.EVQ_LOST TRIG
      ∧ ∀ i, i < 32 → Tab.get (fun _ => 0) t.hostMem (s.pair (TRIG + 0x800) (TRIG + 0x804) + 32 * s.rd F.EVQ_HEAD TRIG + i) = nthD 0 (e.bytes seq) i := by
  intro seq t
  let addr := s.pair (TRIG + 0x800) (TRIG + 0x804) + 32 * s.rd F.EVQ_HEAD TRIG
  let u : State := { (s.hostWrite addr (e.bytes seq)).wr F.EVQ_HEAD TRIG ((s.rd F.EVQ_HEAD TRIG + 1) % s.rd F.EVQ_SIZE TRIG) with evSeq := seq }
  have ht : t = u.noteRecord e := congrArg (fun t => State.noteRecord t e) (if_neg (by simp [hbased, hroom]))
  have hnotes := notes_noteRecord u e
  rw [← ht] at hnotes
  have hframe := s.hostWrite_frame addr (e.bytes seq)
  refine ⟨?_, ?_, ?_, ?_, ?_, fun i hi => ?_⟩
  · rw [hnotes.1]
    exact (congrArg State.evq hframe :)
  · rw [hnotes.1]
  · rw [hnotes.rd (by decide)]
    exact (State.rd_wr_same _ _ _ _ _ _ (by decide) (by decide)).trans (Nat.mod_eq_of_lt hfits)
  · rw [ht]
    exact rd_noteRecord u hc
  · rw [hnotes.rd (by decide)]
    exact (State.rd_wr_word _ _ _ _ _ _ _ _ _ _ (by decide)).trans (congrArg (fun v : State => v.rd F.EVQ_LOST TRIG) hframe :)
  · rw [hnotes.1]
    refine (State.hostMem_hostWrite hd3 addr (e.bytes seq) (addr + i)).trans ?_
    rw [e.length_bytes, if_pos (by omega), Nat.add_sub_cancel_left]

/-- A record that is lost is counted (R320). -/
theorem State.writeRecord_lost {s : State} {e : EvRec} (hc : e.code / 16 < 6)
    (h : s.trig.based = false ∨ (s.rd F.EVQ_HEAD TRIG + 1) % s.rd F.EVQ_SIZE TRIG = s.rd F.EVQ_TAIL TRIG) :
    let t := s.writeRecord e
    t.evq = s.evq ∧ t.evSeq = s.evSeq ∧ t.rd F.EVQ_HEAD TRIG = s.rd F.EVQ_HEAD TRIG ∧ bitAt (t.rd F.EVQ_PEND TRIG) (e.code / 16) = true
      ∧ t.hostMem = s.hostMem ∧ t.rd F.EVQ_LOST TRIG = min (2 ^ 32 - 1) (s.rd F.EVQ_LOST TRIG + 1) := by
  intro t
  have ht : t = (s.bump F.EVQ_LOST TRIG).noteRecord e := congrArg (fun t => State.noteRecord t e) (if_pos (h.imp (by simp) id))
  have hnotes := notes_noteRecord (s.bump F.EVQ_LOST TRIG) e
  rw [← ht] at hnotes
  refine ⟨?_, ?_, ?_, ?_, ?_, ?_⟩
  · rw [hnotes.1]
    rfl
  · rw [hnotes.1]
    rfl
  · rw [hnotes.rd (by decide)]
    exact State.rd_bump_word _ _ _ _ (by decide)
  · rw [ht]
    exact rd_noteRecord _ hc
  · rw [hnotes.1]
    rfl
  · rw [hnotes.rd (by decide)]
    exact State.rd_bump_same _ _ _ (by decide) (by decide)

theorem pow2_clamp (v : Nat) : ∃ j, 6 ≤ j ∧ j ≤ 16 ∧ (Clamp.pow2 64 65536).apply v = 2 ^ j := by
  simp only [Clamp.apply]
  split_ifs with hlo hhi
  · exact ⟨6, by decide, by decide, by decide⟩
  · exact ⟨16, by decide, by decide, by decide⟩
  · refine ⟨Nat.log2 v, ?_, ?_, rfl⟩
    · exact (Nat.le_log2 (by omega)).2 (by omega)
    · exact Nat.lt_succ_iff.1 ((Nat.log2_lt (by omega)).2 (by omega))

/-- A write of the ring's size: a power of two, to which the tail is brought down (R320). -/
theorem State.writeEvqSize_shows (s : State) (v : W32) :
    let t := s.writeEvqSize v 15
    (∃ j, 6 ≤ j ∧ j ≤ 16 ∧ t.rd F.EVQ_SIZE TRIG = 2 ^ j) ∧ t.rd F.EVQ_TAIL TRIG = min (s.rd F.EVQ_TAIL TRIG) (t.rd F.EVQ_SIZE TRIG - 1) := by
  intro t
  let s1 := s.mergeWrite (TRIG + 0x808) v 15
  have htail : s1.rd F.EVQ_TAIL TRIG = s.rd F.EVQ_TAIL TRIG := State.rd_mergeWrite_word (by decide) v 15
  obtain ⟨j, h6, h16, hj⟩ := pow2_clamp (bitsOf 16 0 v)
  have hfits : 2 ^ j % 2 ^ 17 = 2 ^ j := Nat.mod_eq_of_lt (Nat.pow_lt_pow_right (by decide) (by omega))
  have hsize : s1.rd F.EVQ_SIZE TRIG = 2 ^ j := by
    refine (congrArg (bitsOf 16 0) (State.reg_mergeWrite_word (b := .trig) (inst := 0) (o := 0x808) rfl rfl rfl (by decide) (by decide) v)).trans ?_
    refine (bitsOf_setBitsOf _ _ (by decide) (by decide)).trans ?_
    exact (congrArg (· % 2 ^ 17) hj).trans hfits
  have hshown : t.rd F.EVQ_SIZE TRIG = s1.rd F.EVQ_SIZE TRIG :=
    (State.rd_wr_word _ _ _ _ _ _ _ _ _ _ (by decide)).trans (State.rd_wr_word _ _ _ _ _ _ _ _ _ _ (by decide))
  refine ⟨⟨j, h6, h16, hshown.trans hsize⟩, ?_⟩
  rw [hshown, ← htail]
  refine (State.rd_wr_word _ _ _ _ _ _ _ _ _ _ (by decide)).trans ((State.rd_wr_same _ _ _ _ _ _ (by decide) (by decide)).trans ?_)
  exact Nat.mod_eq_of_lt (Nat.lt_of_le_of_lt (Nat.min_le_left _ _) (State.rd_lt _ _ _ _ _))

/-- Settles O44: a record is written or lost and then noted, and a write of the ring's words merges and empties it. -/
theorem eventRing : Obligations.EventRing := by
  unfold Obligations.EventRing
  intro s hup head size next seq emptied
  refine ⟨fun e rest hevq hhead hd3 hpos hsize hcode => ?_, fun e rest hevq hhead => ?_, fun v => ?_, fun v => ?_, fun v => ?_⟩
  · have hexec : exec .eventRecordWrite s = .next (({ s with evq := rest } : State).writeRecord e) := by
      refine (act_next hup).trans (congrArg Host.Outcome.next ?_)
      unfold State.putRecord
      rw [hevq]
      exact if_pos hhead
    have hnext : next < 65536 := Nat.lt_of_lt_of_le (Nat.mod_lt _ hpos) hsize
    exact ⟨fun hbased hroom => ⟨_, hexec, State.writeRecord_kept hbased hd3 hcode hroom hnext⟩, fun hfull => ⟨_, hexec, State.writeRecord_lost hcode hfull⟩⟩
  · have hexec : exec .eventRecordWrite s = .next { ({ s with evq := rest } : State).sendMsg 0 (.event (e.bytes 0)) with sys := { s.sys with unacked := s.sys.unacked ++ [e] } } := by
      refine (act_next hup).trans (congrArg Host.Outcome.next ?_)
      unfold State.putRecord
      rw [hevq]
      exact if_neg (by simp [hhead])
    have hframe (u : State) (m : Msg) : (u.sendMsg 0 m).evq = u.evq ∧ (u.sendMsg 0 m).hostMem = u.hostMem := by
      unfold State.sendMsg
      cases u.routeTo 0 <;> exact ⟨rfl, rfl⟩
    exact ⟨_, hexec, (hframe _ _).1, rfl, State.sendMsg_regs _ _ _, (hframe _ _).2⟩
  · refine ⟨_, act_next hup, ?_, State.emptied_emptyRing (s.mergeWrite (TRIG + 0x800) v 15), rfl, ?_⟩
    · refine (State.reg_wr_other _ _ _ _ _ _ (by decide)).trans ?_
      exact State.reg_mergeWrite_whole (b := .trig) (inst := 0) (o := 0x800) rfl rfl rfl rfl rfl v
    · exact (State.rd_wr_word _ _ _ _ _ _ _ _ _ _ (by decide)).trans (State.rd_mergeWrite_word (by decide) v 15)
  · refine ⟨_, act_next hup, ?_, State.emptied_emptyRing (s.mergeWrite (TRIG + 0x804) v 15), ?_⟩
    · refine (State.reg_wr_other _ _ _ _ _ _ (by decide)).trans ?_
      refine (State.reg_mergeWrite_whole (b := .trig) (inst := 0) (o := 0x804) rfl rfl rfl rfl rfl v).trans ?_
      exact BitVec.ofNat_toNat 32 v
    · exact (congrArg State.trig (s.onlyRegs_mergeWrite (TRIG + 0x804) v 15).1 :)
  · obtain ⟨⟨j, h6, h16, hsize⟩, htail⟩ := s.writeEvqSize_shows v
    refine ⟨_, act_next hup, State.emptied_emptyRing _, ?_, ?_, ?_, ⟨j, hsize⟩, htail⟩
    · exact (congrArg State.trig (s.onlyRegs_mergeWrite (TRIG + 0x808) v 15).1 :)
    · exact hsize ▸ Nat.pow_le_pow_right (n := 2) (by decide) h6
    · exact hsize ▸ Nat.pow_le_pow_right (n := 2) (by decide) h16

end Sys2Proof.Machine

/-! A pulse that ends before the offset that the stitch has reached (R315). -/

namespace Sys2Proof.Machine

/-- At offset 50 of its stitch, ball 0 holds a pulse that ended at offset 10 and a level that began at offset 20. -/
def pulseBehind : State :=
  { lockedDevice with
    cfg := { lockedDevice.cfg with released := true }
    off := 50
    trig := { lockedDevice.trig with balls := [(0, ⟨none, [(20, true)], some 10⟩)] } }

/-- Refutes O43: the end of a pulse takes place no earlier than the offset that the stitch has reached (assumption 3), by which the ball of
`pulseBehind` has come to the level that began after its pulse, where the statement has the inactive level. -/
theorem not_triggerRaises : ¬ Obligations.TriggerRaises := by
  unfold Obligations.TriggerRaises
  intro h
  obtain ⟨-, -, -, -, hend⟩ := h 0 pulseBehind
  obtain ⟨t, ht, -, hlevel, -⟩ := hend 0 10 (by decide) (by decide) (by decide) (by decide)
  have hhigh : t.ballLevel 0 = some true :=
    of_decide_eq_true (of_leaves (p := fun t => decide (t.ballLevel 0 = some true)) (by decide) ht)
  exact absurd (hhigh.symm.trans hlevel) (by decide)

end Sys2Proof.Machine

/-! Spools, result slots and interrupt vectors (R367 to R371, R378 to R381). -/

namespace Sys2Proof.Machine

@[simp] theorem State.spoolAt_setSpool_same (s : State) (sp : Nat) (x : SpoolSt) : (s.setSpool sp x).spoolAt sp = x := Tab.get_put_same _ _ _ _

theorem State.spoolAt_setSpool_other (s : State) {sp sp' : Nat} (x : SpoolSt) (h : sp' ≠ sp) : (s.setSpool sp x).spoolAt sp' = s.spoolAt sp' :=
  Tab.get_put_other _ _ _ h

@[simp] theorem State.slotAt_setSlot_same (s : State) (sp i : Nat) (x : SlotSt) : (s.setSlot sp i x).slotAt sp i = x := Tab.get_put_same _ _ _ _

theorem State.slotAt_setSlot_other (s : State) {sp i sp' i' : Nat} (x : SlotSt) (hi : i < 256) (hi' : i' < 256) (h : sp' ≠ sp ∨ i' ≠ i) :
    (s.setSlot sp i x).slotAt sp' i' = s.slotAt sp' i' := Tab.get_put_other _ _ _ (by omega)

/-- Two fields of one element of their arrays in different words. -/
theorem Fld.at_ne {f g : Fld} (h : f.st1 = g.st1 ∧ f.off ≠ g.off) (base i : Nat) : f.at base i 0 ≠ g.at base i 0 := by
  simp only [Fld.at, h.1]
  omega

theorem State.rd_wr_off (s : State) (f g : Fld) (base v i : Nat) (h : g.st1 = f.st1 ∧ g.off ≠ f.off) :
    (s.wr f base v i).rd g base i = s.rd g base i := State.rd_wr_word _ _ _ _ _ _ _ _ _ _ (Fld.at_ne h base i)

/-- The word of a spool's EN, and of a vector's MASK, is one bit of access RW. -/
theorem spoolEn_word (sp : Fin 16) : locate (F.SP_EN.at HOST sp.val 0) = some (.host, 0, 0x10C + 0x20 * sp.val) := by
  fin_cases sp <;> rfl

theorem spoolEn_rows (sp : Fin 16) : ∃ r, rowsAt .host 0 (0x10C + 0x20 * sp.val) = [(r, sp.val)] ∧ r.acc = .rw ∧ r.f.hi = 0 ∧ r.f.lo = 0
    ∧ ∀ v, r.clamp.apply v = v := by
  fin_cases sp <;> exact ⟨_, rfl, rfl, rfl, rfl, fun _ => rfl⟩

theorem vectorCtrl_word (v : Fin 64) : locate (F.MSIX_CTRL.at HOST v.val 0) = some (.host, 0, 0x80C + 0x10 * v.val) := by
  fin_cases v <;> rfl

theorem vectorCtrl_rows (v : Fin 64) : ∃ r, rowsAt .host 0 (0x80C + 0x10 * v.val) = [(r, v.val)] ∧ r.acc = .rw ∧ r.f.hi = 0 ∧ r.f.lo = 0
    ∧ ∀ v, r.clamp.apply v = v := by
  fin_cases v <;> exact ⟨_, rfl, rfl, rfl, rfl, fun _ => rfl⟩

/-- A write of a spool's EN holds its lowest bit, and is of that word alone. -/
theorem rd_mergeWrite_spoolEn (s : State) (sp : Fin 16) (v : W32) : (s.mergeWrite (F.SP_EN.at HOST sp.val 0) v 15).rd F.SP_EN HOST sp.val = v.toNat % 2 := by
  obtain ⟨r, hrow, hrw, hhi, hlo, hclamp⟩ := spoolEn_rows sp
  rw [State.rd, State.reg_mergeWrite_word (spoolEn_word sp) hrow hrw (by omega) (by omega), hhi, hlo, hclamp]
  refine (bitsOf_setBitsOf (hi := 0) (lo := 0) _ _ (by decide) (by decide)).trans ?_
  simp [bitsOf]

theorem rd_mergeWrite_vectorCtrl (s : State) (vec : Fin 64) (v : W32) :
    (s.mergeWrite (F.MSIX_CTRL.at HOST vec.val 0) v 15).rd F.MSIX_CTRL HOST vec.val = v.toNat % 2 := by
  obtain ⟨r, hrow, hrw, hhi, hlo, hclamp⟩ := vectorCtrl_rows vec
  rw [State.rd, State.reg_mergeWrite_word (vectorCtrl_word vec) hrow hrw (by omega) (by omega), hhi, hlo, hclamp]
  refine (bitsOf_setBitsOf (hi := 0) (lo := 0) _ _ (by decide) (by decide)).trans ?_
  simp [bitsOf]

theorem State.reg_mergeWrite_other (s : State) {a b : Nat} (h : b ≠ a) (v : W32) (be : Nat) : (s.mergeWrite a v be).reg b = s.reg b :=
  (s.onlyRegs_mergeWrite a v be).2 b (by simpa using h)

theorem State.rd_mergeWrite_other (s : State) {a : Nat} {f : Fld} {base i j : Nat} (h : f.at base i j ≠ a) (v : W32) (be : Nat) :
    (s.mergeWrite a v be).rd f base i j = s.rd f base i j := congrArg (bitsOf f.hi f.lo) (s.reg_mergeWrite_other h v be)

theorem State.mergeWrite_frame (s : State) (a : Nat) (v : W32) (be : Nat) : s.mergeWrite a v be = { s with regs := (s.mergeWrite a v be).regs } :=
  (s.onlyRegs_mergeWrite a v be).1

theorem State.host_mergeWrite (s : State) (a : Nat) (v : W32) (be : Nat) : (s.mergeWrite a v be).host = s.host := by
  rw [State.mergeWrite_frame]

theorem State.orphanSpool_frame (s : State) (sp : Nat) :
    s.orphanSpool sp = { s with regs := (s.orphanSpool sp).regs, host := (s.orphanSpool sp).host } := rfl

/-- A spool that is switched on has no slot of its own (R370). -/
theorem State.slots_orphanSpool (s : State) (sp : Nat) : ∀ e ∈ (s.orphanSpool sp).host.slots, e.1 / 256 ≠ sp := by
  intro e he
  have hfilter : e ∈ s.host.slots.filter (fun e => e.1 / 256 != sp) := he
  simpa using (List.mem_filter.1 hfilter).2

theorem Tab.get_of_no_key {α : Type} (d : Nat → α) {t : Tab α} {k : Nat} (h : ∀ e ∈ t, e.1 ≠ k) : Tab.get d t k = d k := by
  induction t with
  | nil => rfl
  | cons e t ih =>
    obtain ⟨k', v⟩ := e
    simp only [Tab.get]
    rw [if_neg (h _ List.mem_cons_self)]
    exact ih (fun e he => h e (List.mem_cons_of_mem _ he))

theorem State.slotAt_orphanSpool (s : State) (sp : Nat) {n : Nat} (hn : n < 256) : ((s.orphanSpool sp).slotAt sp n).state = 0 := by
  have hnone : ∀ e ∈ (s.orphanSpool sp).host.slots, e.1 ≠ 256 * sp + n := fun e he hkey => by
    have := s.slots_orphanSpool sp e he
    omega
  exact congrArg SlotSt.state (Tab.get_of_no_key _ hnone)

theorem State.pending_orphanSpool (s : State) (sp : Nat) : (s.orphanSpool sp).rd F.SP_PENDING HOST sp = 0 := by
  have hnone : (s.host.slots.filter (fun e => e.1 / 256 != sp)).filter (fun e => e.1 / 256 == sp && e.2.state == 1) = [] := by
    rw [List.filter_filter, List.filter_eq_nil_iff]
    intro e _
    by_cases h : e.1 / 256 = sp <;> simp [h]
  refine (State.rd_wr_same _ _ _ _ _ _ (by decide) (by decide)).trans ?_
  exact congrArg (fun l => List.length l % 512) hnone

theorem State.reg_orphanSpool_other (s : State) (sp : Nat) {a : Nat} (h : a ≠ F.SP_PENDING.at HOST sp 0) : (s.orphanSpool sp).reg a = s.reg a :=
  State.reg_wr_other _ _ _ _ _ _ h

/-- A spool that is switched on (R370) takes its base and depth and begins again at 0 with empty slots. -/
theorem spoolOn (s : State) (sp : Fin 16) (v : W32) (hwas : s.rd F.SP_EN HOST sp.val = 0) (hv : v.toNat % 2 = 1) :
    let t := s.writeSpoolEn sp.val v 15
    t.rd F.SP_EN HOST sp.val = 1
      ∧ t.rd F.SP_CI HOST sp.val = 0 ∧ t.rd F.SP_PI HOST sp.val = 0 ∧ t.rd F.SP_SEQ_NEXT HOST sp.val = 0 ∧ t.rd F.SP_PENDING HOST sp.val = 0
      ∧ (t.spoolAt sp.val).base = s.pair (F.SP_BASE_LO.at HOST sp.val 0) (F.SP_BASE_HI.at HOST sp.val 0) ∧ (t.spoolAt sp.val).depth = s.rd F.SP_DEPTH HOST sp.val
      ∧ (t.spoolAt sp.val).fetched = [] ∧ ∀ n, n < 256 → (t.slotAt sp.val n).state = 0 := by
  intro t
  let s1 := s.mergeWrite (F.SP_EN.at HOST sp.val 0) v 15
  have hen : s1.rd F.SP_EN HOST sp.val = 1 := (rd_mergeWrite_spoolEn s sp v).trans hv
  have ht : t = ((((s1.orphanSpool sp.val).wr F.SP_CI HOST 0 sp.val).wr F.SP_PI HOST 0 sp.val).wr F.SP_SEQ_NEXT HOST 0 sp.val).setSpool sp.val
      { base := s1.pair (F.SP_BASE_LO.at HOST sp.val 0) (F.SP_BASE_HI.at HOST sp.val 0), depth := s1.rd F.SP_DEPTH HOST sp.val, fetched := []
        retried := false, stopping := false } := if_pos (by
    rw [State.flag_of_eq_zero hwas, State.flag_of_eq_one hen]
    rfl)
  have hother (f : Fld) (hf : f.st1 = F.SP_EN.st1 ∧ f.off ≠ F.SP_EN.off) : s1.reg (f.at HOST sp.val 0) = s.reg (f.at HOST sp.val 0) :=
    s.reg_mergeWrite_other (Fld.at_ne hf HOST sp.val) v 15
  have hset (u : State) (x : SpoolSt) (f : Fld) : (u.setSpool sp.val x).rd f HOST sp.val = u.rd f HOST sp.val := rfl
  rw [ht]
  simp only [hset, State.spoolAt_setSpool_same]
  refine ⟨?_, ?_, ?_, ?_, ?_, ?_, ?_, trivial, fun n hn => s1.slotAt_orphanSpool sp.val hn⟩
  · simp (disch := decide) only [State.rd_wr_off]
    exact (State.rd_wr_off _ _ _ _ _ _ (by decide)).trans hen
  · simp (disch := decide) only [State.rd_wr_off, State.rd_wr_field, State.rd_wr_same, Nat.zero_mod]
  · simp (disch := decide) only [State.rd_wr_off, State.rd_wr_same, Nat.zero_mod]
  · simp (disch := decide) only [State.rd_wr_same, Nat.zero_mod]
  · simp (disch := decide) only [State.rd_wr_off, State.rd_wr_field]
    exact s1.pending_orphanSpool sp.val
  · simp only [State.pair, hother F.SP_BASE_LO (by decide), hother F.SP_BASE_HI (by decide)]
  · simp only [State.rd, hother F.SP_DEPTH (by decide)]

/-- A spool that is switched off stops at the boundary (R370). -/
theorem spoolOff (s : State) (sp : Fin 16) (v : W32) (hwas : s.rd F.SP_EN HOST sp.val = 1) (hv : v.toNat % 2 = 0) :
    let t := s.writeSpoolEn sp.val v 15
    t.rd F.SP_EN HOST sp.val = 0 ∧ t.spoolAt sp.val = { s.spoolAt sp.val with stopping := true } ∧ t.host.slots = s.host.slots := by
  intro t
  let s1 := s.mergeWrite (F.SP_EN.at HOST sp.val 0) v 15
  have hen : s1.rd F.SP_EN HOST sp.val = 0 := (rd_mergeWrite_spoolEn s sp v).trans hv
  have hhost : s1.host = s.host := s.host_mergeWrite _ v 15
  have hspool : s1.spoolAt sp.val = s.spoolAt sp.val := by simp only [State.spoolAt, hhost]
  have ht : t = s1.setSpool sp.val { s1.spoolAt sp.val with stopping := true } := by
    refine (if_neg ?_).trans (if_pos ?_)
    · rw [State.flag_of_eq_one hwas]
      exact Bool.false_ne_true
    · rw [State.flag_of_eq_one hwas, State.flag_of_eq_zero hen]
      rfl
  rw [ht, State.spoolAt_setSpool_same, hspool]
  exact ⟨hen, rfl, (congrArg HostSt.slots hhost :)⟩

/-- A field of an array that counts. -/
theorem State.rd_bump_at (s : State) (f : Fld) (base i : Nat) (h : f.lo ≤ f.hi) (h2 : f.hi < 32) :
    (s.bump f base 1 i).rd f base i = min f.max (s.rd f base i + 1) := by
  have hfits : min f.max (s.rd f base i + 1) < 2 ^ (f.hi + 1 - f.lo) :=
    (Nat.min_le_left _ _).trans_lt (Nat.sub_lt (by positivity) Nat.one_pos)
  rw [State.bump, State.rd_wr_same _ _ _ _ _ _ h h2, satAdd_one, Nat.mod_eq_of_lt hfits]

/-- A read of an entry that fails is counted, tried once more, and then switches the spool off (R378). -/
theorem entryFailed (s : State) (i : Nat) (hen : s.rd F.SP_EN HOST i = 1) :
    let x := s.spoolAt i
    let t := s.entryRead i none
    t.rd F.SP_DMA_ERR HOST i = min 65535 (s.rd F.SP_DMA_ERR HOST i + 1) ∧ t.rd F.SP_CI HOST i = s.rd F.SP_CI HOST i
      ∧ t.rd F.SP_EN HOST i = (if x.retried then 0 else 1) ∧ (t.spoolAt i).retried = (!x.retried) ∧ (t.spoolAt i).fetched = x.fetched := by
  intro x t
  have hnote (u : State) (f : Fld) : (u.aerNote .readError).rd f HOST i = u.rd f HOST i := rfl
  have hset (u : State) (y : SpoolSt) (f : Fld) : (u.setSpool i y).rd f HOST i = u.rd f HOST i := rfl
  have herr : (s.bump F.SP_DMA_ERR HOST 1 i).rd F.SP_DMA_ERR HOST i = min 65535 (s.rd F.SP_DMA_ERR HOST i + 1) :=
    State.rd_bump_at _ _ _ _ (by decide) (by decide)
  have hword (f : Fld) (hf : f.st1 = F.SP_DMA_ERR.st1 ∧ f.off ≠ F.SP_DMA_ERR.off) : (s.bump F.SP_DMA_ERR HOST 1 i).rd f HOST i = s.rd f HOST i :=
    State.rd_wr_off _ _ _ _ _ _ hf
  by_cases hx : x.retried = true
  · have ht : t = (((s.bump F.SP_DMA_ERR HOST 1 i).aerNote .readError).wr F.SP_EN HOST 0 i).setSpool i { x with retried := false, stopping := true } := if_pos hx
    rw [ht]
    simp (disch := decide) only [hset, State.rd_wr_off, State.rd_wr_same, hnote, herr, hword, hx, State.spoolAt_setSpool_same, if_true, Nat.zero_mod, Bool.not_true, and_self]
  · have ht : t = ((s.bump F.SP_DMA_ERR HOST 1 i).aerNote .readError).setSpool i { x with retried := true } := if_neg hx
    rw [ht]
    simp (disch := decide) only [hset, hnote, herr, hword, hx, State.spoolAt_setSpool_same, hen, Bool.false_eq_true, if_false,
      Bool.not_false, and_self]

/-- A word of a slot as the read shows it (R379). -/
theorem SlotSt.word_eq (x : SlotSt) (i : Nat) : x.word i = if i = 0 then BitVec.ofNat 32 (x.seq.toNat + 65536 * x.state + 16777216 * x.status)
    else if i = 1 then BitVec.ofNat 32 (x.tag.toNat + 65536 * x.reads) else nthD 0 x.data (i - 2) := by
  match i with
  | 0 => rfl
  | 1 => rfl
  | i + 2 => rfl

theorem bit_cleared {w b : Nat} (hb : b < 32) (h : bitAt w b = true) : bitAt ((w - 2 ^ b) % 2 ^ 32) b = false := by
  simp only [bitAt, beq_eq_false_iff_ne, beq_iff_eq] at h ⊢
  interval_cases b <;> omega

/-- The words of the pending bits lie behind those of the vectors. -/
theorem vectorWords_ne (vec : Fin 64) (n : Nat) (f : Fld) (hf : f.off < 0x810) (hst : f.st1 = 0x10) :
    f.at HOST vec.val 0 ≠ F.MSIX_PBA.at HOST n 0 := by
  have := vec.isLt
  simp only [Fld.at, hst, F.MSIX_PBA]
  omega

/-- A vector that is unmasked sends its pending message once (R368). -/
theorem vectorUnmasked (s : State) (vec : Fin 64) :
    let t := s.writeVectorCtrl vec.val 0 15
    t.rd F.MSIX_CTRL HOST vec.val = 0
      ∧ (s.rd F.MSIX_CTRL HOST vec.val = 1 → bitAt (s.rd F.MSIX_PBA HOST (vec.val / 32)) (vec.val % 32) = true → s.host.d3 = false → s.host.master = true →
          t.host.msix = s.host.msix ++ [(vec.val, s.pair (F.MSIX_ADDR_LO.at HOST vec.val 0) (F.MSIX_ADDR_HI.at HOST vec.val 0),
            (s.reg (F.MSIX_DATA.at HOST vec.val 0)).toNat)]
          ∧ bitAt (t.rd F.MSIX_PBA HOST (vec.val / 32)) (vec.val % 32) = false)
      ∧ (s.rd F.MSIX_CTRL HOST vec.val = 0 → t.host = s.host) := by
  intro t
  let s1 := s.mergeWrite (F.MSIX_CTRL.at HOST vec.val 0) 0 15
  have hctrl : s1.rd F.MSIX_CTRL HOST vec.val = 0 := rd_mergeWrite_vectorCtrl s vec 0
  have hhost : s1.host = s.host := s.host_mergeWrite _ 0 15
  have hpba : s1.rd F.MSIX_PBA HOST (vec.val / 32) = s.rd F.MSIX_PBA HOST (vec.val / 32) :=
    s.rd_mergeWrite_other (vectorWords_ne vec _ F.MSIX_CTRL (by decide) rfl).symm 0 15
  have hreg (f : Fld) (hf : f.st1 = F.MSIX_CTRL.st1 ∧ f.off ≠ F.MSIX_CTRL.off) : s1.reg (f.at HOST vec.val 0) = s.reg (f.at HOST vec.val 0) :=
    s.reg_mergeWrite_other (Fld.at_ne hf HOST vec.val) 0 15
  have hkeep (f : Fld) (hf : f.off < 0x810) (hst : f.st1 = 0x10) : (s1.setPba vec.val false).reg (f.at HOST vec.val 0) = s1.reg (f.at HOST vec.val 0) :=
    State.reg_wr_other _ _ _ _ _ _ (vectorWords_ne vec _ f hf hst)
  by_cases hsend : s.flag F.MSIX_CTRL HOST vec.val ∧ ¬ s1.flag F.MSIX_CTRL HOST vec.val ∧ bitAt (s1.rd F.MSIX_PBA HOST (vec.val / 32)) (vec.val % 32) ∧ ¬ s1.host.d3
      ∧ s1.host.master = true
  · have ht : t = (s1.setPba vec.val false).sendVector vec.val := if_pos hsend
    have hbit := hsend.2.2.1
    rw [ht]
    refine ⟨?_, fun _ _ _ _ => ⟨?_, ?_⟩, fun hzero => ?_⟩
    · exact (congrArg (bitsOf 0 0) (hkeep F.MSIX_CTRL (by decide) rfl)).trans hctrl
    · show s1.host.msix ++ _ = _
      rw [hhost]
      simp only [State.pair, hkeep F.MSIX_ADDR_LO (by decide) rfl, hkeep F.MSIX_ADDR_HI (by decide) rfl, hkeep F.MSIX_DATA (by decide) rfl,
        hreg F.MSIX_ADDR_LO (by decide), hreg F.MSIX_ADDR_HI (by decide), hreg F.MSIX_DATA (by decide)]
    · refine (congrArg (bitAt · _) (State.rd_wr_same _ _ _ _ _ _ (by decide) (by decide))).trans ?_
      rw [if_neg Bool.false_ne_true, if_pos hbit]
      exact bit_cleared (Nat.mod_lt _ (by decide)) hbit
    · exact absurd hsend.1 (by rw [State.flag_of_eq_zero hzero]; exact Bool.false_ne_true)
  · have ht : t = s1 := if_neg hsend
    rw [ht]
    refine ⟨hctrl, fun hone hbit hd3 hmaster => absurd ⟨State.flag_of_eq_one hone, ?_, ?_, ?_, ?_⟩ hsend, fun _ => hhost⟩
    · rw [State.flag_of_eq_zero hctrl]
      exact Bool.false_ne_true
    · rwa [hpba]
    · rw [hhost, hd3]
      exact Bool.false_ne_true
    · rwa [hhost]

/-- Settles O33: each clause is the arm of its premises, with the words of one spool, slot or vector told apart by their offsets. -/
theorem spoolsAndResults : Obligations.SpoolsAndResults := by
  unfold Obligations.SpoolsAndResults
  refine ⟨?spools, ?commands, ?slots, ?vectors⟩
  case spools =>
    intro sp s i x
    refine ⟨fun v hlock hen => ?_, fun hlock hd3 hen hne hlen => ?_, fun v hup hoff hv => ⟨_, act_next hup, spoolOn s sp v hoff hv⟩,
      fun v hup hon hv => ⟨_, act_next hup, spoolOff s sp v hon hv⟩⟩
    · have hfits : min (v.toNat % 4096) (x.depth - 1) % 4096 = min (v.toNat % 4096) (x.depth - 1) := Nat.mod_eq_of_lt (by omega)
      refine ⟨_, act_next (Bool.and_eq_true_iff.2 ⟨hlock, State.flag_of_eq_one hen⟩), ?_, ?_, (OnlyRegs.refl _ s).wr (List.mem_singleton_self _) _⟩
      · exact (State.rd_wr_same _ _ _ _ _ _ (by decide) (by decide)).trans hfits
      · exact State.rd_wr_field _ _ _ _ _ _ _ _ _ _ (by decide) (by decide) (by decide) (by decide)
    · have hmay : (s.clk.locked && !s.host.d3 && s.flag F.SP_EN HOST sp.val && decide (s.rd F.SP_CI HOST sp.val ≠ s.rd F.SP_PI HOST sp.val)
          && decide ((s.spoolAt sp.val).fetched.length < 64)) = true := by
        rw [hlock, hd3, State.flag_of_eq_one hen, decide_eq_true hne, decide_eq_true hlen]
        rfl
      refine ⟨fun bs hdepth hpos => ?_, ?_⟩
      · have hfits : (s.rd F.SP_CI HOST i + 1) % x.depth % 4096 = (s.rd F.SP_CI HOST i + 1) % x.depth :=
          Nat.mod_eq_of_lt (Nat.lt_of_lt_of_le (Nat.mod_lt _ hpos) hdepth)
        refine ⟨_, act_next hmay, State.spoolAt_setSpool_same _ _ _, ?_, ?_, fun m hm => State.spoolAt_setSpool_other _ _ hm, rfl⟩
        · exact (State.rd_wr_same _ _ _ _ _ _ (by decide) (by decide)).trans hfits
        · exact State.rd_wr_field _ _ _ _ _ _ _ _ _ _ (by decide) (by decide) (by decide) (by decide)
      · exact ⟨_, act_next hmay, entryFailed s i hen⟩
  case commands =>
    intro c d s
    refine ⟨fun hd => ⟨_, actOn_some hd, ends_complete rfl c .ok [], rfl⟩, fun hd hfence => ?_, fun hfence => ?_⟩
    · exact ⟨_, actOn_some ((if_neg (by simp [hfence])).trans hd), ends_complete rfl c .ok [], rfl⟩
    · show actOn s (if s.fenced c then none else s.cmdOf c 0x3F .fresh) _ = _
      rw [if_pos hfence]
      rfl
  case slots =>
    intro sp slot v s hlock x
    have hseq : x.seq = BitVec.ofNat 16 v.toNat ↔ x.seq.toNat = v.toNat % 65536 := by
      rw [← BitVec.toNat_inj, BitVec.toNat_ofNat]
    refine ⟨fun hstate hnum => ?_, fun hbad => ?_, fun first n => ?_⟩
    · refine ⟨_, (act_next hlock).trans (congrArg Host.Outcome.next (if_pos ⟨hstate, hseq.2 hnum⟩)), ?_, fun sp' j hsp hj hne => ?_, rfl⟩
      · exact congrArg SlotSt.state (State.slotAt_setSlot_same _ _ _ _)
      · exact State.slotAt_setSlot_other _ _ slot.isLt hj hne
    · have hno : ¬ (x.state = 2 ∧ x.seq = BitVec.ofNat 16 v.toNat) := by
        rw [hseq]
        tauto
      refine ⟨_, (act_next hlock).trans (congrArg Host.Outcome.next (if_neg hno)), ?_, (OnlyRegs.refl _ s).wr (List.mem_singleton_self _) _⟩
      exact State.rd_bump_at _ _ _ _ (by decide) (by decide)
    · intro y word
      have hword (i : Nat) : y.word i = word i := by
        rw [SlotSt.word_eq]
        by_cases hcount : x.state = 2 ∧ first = 0 <;> simp only [word, y, hcount, if_true, if_false, and_self]
      have hy : (if x.state = 2 ∧ first = 0 then { x with reads := satAdd 65535 x.reads 1 } else x) = y := by rw [satAdd_one]
      refine ⟨_, act_next hlock, ?_, ?_, ?_, ?_⟩
      · exact (congrArg (fun z => SlotSt.word z first.toNat) hy).trans (hword _)
      · exact (congrArg (fun z => (List.range n.toNat).map (fun i => SlotSt.word z (first.toNat + i))) hy).trans (List.map_congr_left (fun i _ => hword _))
      · have hslot : (if x.state = 2 ∧ first = 0 then s.setSlot sp.val slot.toNat y else s).slotAt sp.val slot.toNat = y := by
          by_cases hcount : x.state = 2 ∧ first = 0
          · rw [if_pos hcount, State.slotAt_setSlot_same]
          · rw [if_neg hcount]
            exact (if_neg hcount).symm
        rw [← hy] at hslot
        exact hslot.trans hy
      · by_cases hcount : x.state = 2 ∧ first = 0
        · simp only [x] at hcount
          simp only [hcount, if_true, and_self]
          rfl
        · simp only [x] at hcount
          simp only [hcount, if_false]
  case vectors => exact fun vec s hup => ⟨_, act_next hup, vectorUnmasked s vec⟩

end Sys2Proof.Machine

/-! Ribbon bindings that land (R36, R37), and the system window (R390 to R392, R415). -/

namespace Sys2Proof.Machine

theorem insertBind_between {b : BindWrite} {pre post : List BindWrite} (hpre : ∀ x ∈ pre, x.at_ < b.at_ ∨ (x.at_ = b.at_ ∧ x.rank ≤ b.rank))
    (hpost : ∀ x ∈ post, b.at_ < x.at_) : insertBind b (pre ++ post) = pre ++ [b] ++ post := by
  induction pre with
  | nil =>
    cases post with
    | nil => rfl
    | cons y post =>
      have hy := hpost y List.mem_cons_self
      exact if_neg (by omega)
  | cons x pre ih =>
    have hx := hpre x List.mem_cons_self
    exact (if_pos hx).trans (congrArg (x :: ·) (ih (fun y hy => hpre y (List.mem_cons_of_mem _ hy))))

/-- Where a binding that lands waits: with those of a handover, or with those of the boundary. -/
theorem State.landBind_eq (s : State) (b : BindWrite) :
    s.landBind b = { s.wr F.LPM_PEND DEV 1 b.k with
      stack := if s.hover b.k then { s.stack with heldBinds := insertBind b s.stack.heldBinds } else { s.stack with binds := insertBind b s.stack.binds } } := by
  unfold State.landBind
  split <;> rfl

theorem State.stack_landBind (s : State) (b : BindWrite) : (s.landBind b).stack =
    if s.hover b.k then { s.stack with heldBinds := insertBind b s.stack.heldBinds } else { s.stack with binds := insertBind b s.stack.binds } :=
  congrArg State.stack (s.landBind_eq b)

theorem State.rd_landBind (s : State) (b : BindWrite) {f : Fld} (hf : f.lo ≤ f.hi ∧ (f.hi < F.LPM_PEND.lo ∨ F.LPM_PEND.hi < f.lo)) :
    (s.landBind b).rd f DEV b.k = s.rd f DEV b.k := by
  rw [State.landBind_eq]
  exact State.rd_wr_field _ _ _ _ _ _ _ _ _ _ (by decide) (by decide) hf.1 hf.2

theorem State.pend_landBind (s : State) (b : BindWrite) : (s.landBind b).rd F.LPM_PEND DEV b.k = 1 := by
  rw [State.landBind_eq]
  exact State.rd_wr_same _ _ _ _ _ _ (by decide) (by decide)

theorem State.hover_landBind (s : State) (b : BindWrite) : (s.landBind b).hover b.k = s.hover b.k :=
  congrArg (· == 1) (s.rd_landBind b (by decide))

/-- Two bindings of one patch that land one after the other. -/
theorem landBind_twice (s : State) {b b' : BindWrite} {pre post : List BindWrite} (hk : b'.k = b.k) (hat : b'.at_ = b.at_) (hrank : b'.rank = b.rank)
    (hwas : (if s.hover b.k then s.stack.heldBinds else s.stack.binds) = pre ++ post) (hpre : ∀ x ∈ pre, x.at_ < b.at_) (hpost : ∀ x ∈ post, b.at_ < x.at_) :
    let t := (s.landBind b).landBind b'
    (if s.hover b.k then t.stack.heldBinds else t.stack.binds) = pre ++ [b, b'] ++ post
      ∧ (if s.hover b.k then t.stack.binds = s.stack.binds else t.stack.heldBinds = s.stack.heldBinds) := by
  intro t
  have hhover : (s.landBind b).hover b'.k = s.hover b.k := hk ▸ s.hover_landBind b
  have hone : insertBind b (pre ++ post) = pre ++ [b] ++ post := insertBind_between (fun x hx => Or.inl (hpre x hx)) hpost
  have htwo : insertBind b' (pre ++ [b] ++ post) = pre ++ [b, b'] ++ post := by
    rw [insertBind_between (pre := pre ++ [b]) ?_ (fun x hx => hat ▸ hpost x hx)]
    · simp
    · intro x hx
      rcases List.mem_append.1 hx with h | h
      · exact Or.inl (hat ▸ hpre x h)
      · rw [List.mem_singleton.1 h]
        exact Or.inr ⟨hat.symm, hrank.ge⟩
  have ht := (s.landBind b).stack_landBind b'
  rw [hhover, s.stack_landBind b] at ht
  cases hover : s.hover b.k with
  | true =>
    simp only [hover, if_true] at ht hwas ⊢
    rw [ht]
    exact ⟨by rw [hwas, hone, htwo], rfl⟩
  | false =>
    simp only [hover, Bool.false_eq_true, if_false] at ht hwas ⊢
    rw [ht]
    exact ⟨by rw [hwas, hone, htwo], rfl⟩

theorem patchRib_landBind_twice (s : State) {b b' : BindWrite} {k : Nat} (hk : b.k = k) (hk' : b'.k = k) (half : Nat) :
    ((s.landBind b).landBind b').patchRib k half = s.patchRib k half := by
  have hkeeps (f : Fld) (hf : f.lo ≤ f.hi ∧ (f.hi < F.LPM_PEND.lo ∨ F.LPM_PEND.hi < f.lo)) :
      ((s.landBind b).landBind b').rd f DEV k = s.rd f DEV k := by
    have hsecond := (s.landBind b).rd_landBind b' hf
    have hfirst := s.rd_landBind b hf
    rw [hk'] at hsecond
    rw [hk] at hfirst
    exact hsecond.trans hfirst
  simp only [State.patchRib, hkeeps F.LPM_RIB_A (by decide), hkeeps F.LPM_RIB_B (by decide)]

theorem State.sendMsg_frame (s : State) (d : Nat) (m : Msg) : s.sendMsg d m = { s with seams := (s.sendMsg d m).seams } := by
  unfold State.sendMsg
  cases s.routeTo d <;> rfl

theorem State.sendData_frame (s : State) (c : DataCell) : s.sendData c = { s with seams := (s.sendData c).seams } := by
  unfold State.sendData
  cases s.routeTo c.dest.val <;> rfl

/-- `t` follows from `s` by what waits to leave over the seams. -/
def OnlySeams (s t : State) : Prop := t = { s with seams := t.seams }

theorem OnlySeams.refl (s : State) : OnlySeams s s := rfl

theorem OnlySeams.sendMsg {s t : State} (h : OnlySeams s t) (d : Nat) (m : Msg) : OnlySeams s (t.sendMsg d m) := by
  unfold OnlySeams at *
  rw [t.sendMsg_frame d m, h]

theorem OnlySeams.sendData {s t : State} (h : OnlySeams s t) (c : DataCell) : OnlySeams s (t.sendData c) := by
  unfold OnlySeams at *
  rw [t.sendData_frame c, h]

theorem OnlySeams.sendFlow {s t : State} (h : OnlySeams s t) (kind d : Nat) (bs : List Byte) : OnlySeams s (t.sendFlow kind d bs) := by
  unfold State.sendFlow
  generalize chunks 60 (bs.length + 1) bs = cs
  have hcells : ∀ (p : State × Nat), OnlySeams s p.1 → OnlySeams s (cs.foldl (fun (p : State × Nat) c =>
      (p.1.sendData ⟨BitVec.ofNat 2 kind, Fin.ofNat 64 d, Fin.ofNat 64 t.devnum, BitVec.ofNat 16 p.2, c⟩, p.2 + 1)) p).1 := by
    induction cs with
    | nil => exact fun p hp => hp
    | cons c cs ih => exact fun p hp => ih _ (hp.sendData _)
  exact hcells (t, 0) h

/-- What waits for an answer from a device is sent again (R415). -/
theorem onlySeams_repeat (d : Nat) {s u : State} (wins : List WinAcc) (cmds : List DispCmd) (unacked : List EvRec)
    (pages : List (Nat × Nat × List Byte)) (again : WinAcc → Bool) (h : OnlySeams s u) :
    let u2 := forEach (fun (w : WinAcc) s => if again w then s.sendMsg d w.msg else s) wins u
    let u3 := forEach (fun (x : DispCmd) s =>
      if ¬ x.c.remote ∧ x.device = d ∧ x.phase = .waiting then s.sendMsg d (.command { x.c with remote := true } x.entry) else s) cmds u2
    OnlySeams s (if d = 0 then forEach (fun (e : EvRec) s => s.sendMsg 0 (.event (e.bytes 0))) unacked
      (forEach (fun (p : Nat × Nat × List Byte) s => s.sendFlow 0 0 p.2.2) pages u3) else u3) := by
  intro u2 u3
  have h2 : OnlySeams s u2 := forEach_induct (fun w t ht => by split; exacts [ht.sendMsg d _, ht]) h
  have h3 : OnlySeams s u3 := forEach_induct (fun x t ht => by split; exacts [ht.sendMsg d _, ht]) h2
  split
  · exact forEach_induct (fun e t ht => ht.sendMsg 0 _) (forEach_induct (fun p t ht => ht.sendFlow 0 0 _) h3)
  · exact h3

section
variable {s : State} (hlock : s.clk.locked = true) (hhead : s.isHead = true)
include hlock hhead

theorem exec_windowRead_fails {d : Device} {t : State} (h : s.winFails d.val = some t) (x : WinRead) : exec (.windowRead d x) s = .next t := by
  refine (act_next (Bool.and_eq_true_iff.2 ⟨hlock, hhead⟩)).trans (congrArg Host.Outcome.next ?_)
  rw [h]

theorem exec_windowWrite_fails {d : Device} {off : Nat} {t : State} (h : (s.tick off).winFails d.val = some t) (a : BitVec 24) (v : W32) (be : BitVec 4) :
    exec (.windowWrite d a v be off) s = .next t := by
  refine (act_next (Bool.and_eq_true_iff.2 ⟨hlock, hhead⟩)).trans (congrArg Host.Outcome.next ?_)
  rw [h]

theorem exec_windowRead_passes {d : Device} (h : s.winFails d.val = none) (a : BitVec 24) (wide : Bool) :
    let got := fun (lo hi : W32) => { s with resp := lo, host := { s.host with respHi := if wide then hi else s.host.respHi } }
    exec (.windowRead d ⟨a, wide⟩) s = .next (if 0x100000 ≤ a.toNat then got 0 0
      else if d.val = s.devnum then got (s.windowPeek a.toNat wide).1 (s.windowPeek a.toNat wide).2
      else s.winSend d.val (.regRead (Fin.ofNat 64 s.devnum) (BitVec.ofNat 20 a.toNat) wide)) := by
  refine (act_next (Bool.and_eq_true_iff.2 ⟨hlock, hhead⟩)).trans (congrArg Host.Outcome.next ?_)
  rw [h]

theorem exec_windowWrite_passes {d : Device} {off : Nat} (h : (s.tick off).winFails d.val = none) (a : BitVec 24) (v : W32) (be : BitVec 4) :
    exec (.windowWrite d a v be off) s = .next (if 0x100000 ≤ a.toNat / 4 * 4 then s.tick off
      else if d.val = s.devnum then (s.tick off).busWrite .host (a.toNat / 4 * 4) v be.toNat
      else (s.tick off).winSend d.val (.regWrite (Fin.ofNat 64 s.devnum) (BitVec.ofNat 20 (a.toNat / 4 * 4)) v be)) := by
  refine (act_next (Bool.and_eq_true_iff.2 ⟨hlock, hhead⟩)).trans (congrArg Host.Outcome.next ?_)
  rw [h]

end

/-- A window access that waits for its device. -/
theorem State.winSend_waits (s : State) (d : Nat) (m : Msg) :
    (s.winSend d m).sys.wins = s.sys.wins ++ [⟨d, m, 0⟩] ∧ (s.winSend d m).regs = s.regs ∧ (s.winSend d m).resp = s.resp := by
  have h := State.sendMsg_frame { s with sys := { s.sys with wins := s.sys.wins ++ [(⟨d, m, 0⟩ : WinAcc)] } } d m
  exact ⟨(congrArg (fun t : State => t.sys.wins) h :), (congrArg State.regs h :), (congrArg State.resp h :)⟩

theorem State.busError_frame (s : State) (d kind : Nat) : s.busError d kind = { s with evq := (s.busError d kind).evq } := by
  unfold State.busError State.event
  split <;> rfl

/-- Settles O36: a binding goes between those that landed before and after it, and a window access takes the arm of its device's state. -/
theorem bindingsAndWindow : Obligations.BindingsAndWindow := by
  unfold Obligations.BindingsAndWindow
  refine ⟨?bind, ?window, ?timeout, ?again⟩
  case bind =>
    intro c d pre post s hd k b was hwas hpre hpost
    obtain ⟨hqueue, hother⟩ := landBind_twice (s.setPhase c .running) (b := b true (d.param 9 1) none) (b' := b false (d.param 8 1) (some c)) rfl rfl rfl
      (pre := pre) (post := post) hwas hpre hpost
    have hrib := patchRib_landBind_twice (s.setPhase c .running) (b := b true (d.param 9 1) none) (b' := b false (d.param 8 1) (some c)) (k := k) rfl rfl
    refine ⟨_, actOn_some hd, State.pend_landBind _ _, ?_, ?_, ?_, ?_, hqueue, hother⟩
    · exact hrib 0
    · exact hrib 1
    · exact enters_setPhase rfl c .running (by rw [State.landBind_eq, State.landBind_eq]; rfl)
    · rw [State.landBind_eq, State.landBind_eq]
      rfl
  case window =>
    intro d a wide v be off s hlock hhead o got
    have hdev : s.devnum = 0 := beq_iff_eq.1 hhead
    have hbit (n : Nat) (hn : n = o) : (0x100000 ≤ a.toNat ↔ 0x100000 ≤ n) := by rw [hn]; simp only [o]; omega
    refine ⟨fun hbeyond => ?_, fun hin hlive => ?_, fun hin hhalt => ?_⟩
    · have hfails (u : State) (hu : u.topDevice = s.topDevice) : u.winFails d.val = some (u.bump F.HOST_WIN_UR HOST) := if_pos (hu ▸ hbeyond)
      exact ⟨⟨_, exec_windowRead_fails hlock hhead (hfails s rfl) _, (OnlyRegs.refl _ s).wr (List.mem_singleton_self _) _,
          State.rd_bump_same _ _ _ (by decide) (by decide)⟩,
        ⟨_, exec_windowWrite_fails hlock hhead (hfails (s.tick off) rfl) _ _ _, (OnlyRegs.refl _ _).wr (List.mem_singleton_self _) _,
          State.rd_bump_same _ _ _ (by decide) (by decide)⟩⟩
    · have hpass (u : State) (hu : u.topDevice = s.topDevice) (hf : u.rd F.SYS_HALTED DEV d.val = 0) : u.winFails d.val = none :=
        (if_neg (by rw [hu]; omega)).trans (if_neg (by rw [State.flag_of_eq_zero hf]; exact Bool.false_ne_true))
      rw [exec_windowRead_passes hlock hhead (hpass s rfl hlive), exec_windowWrite_passes hlock hhead (hpass (s.tick off) rfl hlive)]
      simp only [hbit o rfl, hdev]
      refine ⟨fun ho => ?_, fun ho hzero => ?_, fun ho hne => ?_⟩
      · simp only [o] at ho ⊢
        rw [if_pos ho, if_pos ho]
        exact ⟨rfl, rfl⟩
      · have ho' : ¬ 0x100000 ≤ a.toNat / 4 * 4 := Nat.not_le.2 ho
        have h8 : a.toNat / 4 * 4 / 8 * 8 = a.toNat / 8 * 8 := by omega
        simp only [o, if_neg ho', if_pos hzero]
        refine ⟨?_, trivial⟩
        cases wide
        · rfl
        · simp only [State.windowPeek, if_true, h8, got]
      · have ho' : ¬ 0x100000 ≤ a.toNat / 4 * 4 := Nat.not_le.2 ho
        simp only [o, if_neg ho', if_neg hne]
        obtain ⟨hwins, hregs, hresp⟩ := s.winSend_waits d.val (.regRead (Fin.ofNat 64 0) (BitVec.ofNat 20 a.toNat) wide)
        obtain ⟨hwins', hregs', -⟩ := (s.tick off).winSend_waits d.val (.regWrite (Fin.ofNat 64 0) (BitVec.ofNat 20 (a.toNat / 4 * 4)) v be)
        exact ⟨⟨_, _, rfl, hwins, hregs, hresp⟩, ⟨_, _, rfl, hwins', hregs'⟩⟩
    · have hfails : s.winFails d.val = some ((s.bump F.HOST_WIN_CA HOST).busError d.val 1) :=
        (if_neg (by omega)).trans (if_pos (State.flag_of_eq_one hhalt))
      refine ⟨_, exec_windowRead_fails hlock hhead hfails _, ?_, ?_⟩
      · rw [State.busError_frame]
        rfl
      · rw [State.busError_frame]
        exact State.rd_bump_same _ _ _ (by decide) (by decide)
  case timeout =>
    intro d w s hw
    refine ⟨_, actOn_some hw, rfl, State.rd_bump_same _ _ _ (by decide) (by decide)⟩
  case again =>
    intro d s hup hne
    have hmay : (s.up && d.val != s.devnum) = true := Bool.and_eq_true_iff.2 ⟨hup, bne_iff_ne.2 hne⟩
    have hseams := onlySeams_repeat d.val s.sys.wins s.host.cmds s.sys.unacked s.sys.pages (fun w => w.dev == d.val && decide (w.tries < 3))
      (OnlySeams.refl { s with sys := { s.sys with wins := s.sys.wins.map (fun w => if (w.dev == d.val && decide (w.tries < 3)) = true then { w with tries := w.tries + 1 } else w) } })
    refine ⟨_, act_next hmay, ?_, ?_⟩
    · refine (congrArg (fun t : State => t.sys.wins) hseams).trans (List.map_congr_left (fun w _ => ?_))
      exact if_congr (by simp) rfl rfl
    · refine hseams.trans ?_
      rw [hseams]

end Sys2Proof.Machine

/-! The stitch period (R49, R60 to R66). -/

namespace Sys2Proof.Machine

/-- Nothing but registers, processors and events differs. -/
def ProgramsOnly (s t : State) : Prop := t = { s with regs := t.regs, procs := t.procs, evq := t.evq }

theorem ProgramsOnly.refl (s : State) : ProgramsOnly s s := rfl

theorem ProgramsOnly.wr {s t : State} (h : ProgramsOnly s t) (f : Fld) (base v i j : Nat) : ProgramsOnly s (t.wr f base v i j) := by
  unfold ProgramsOnly at *
  rw [h]
  rfl

theorem ProgramsOnly.modProcAt {s t : State} (h : ProgramsOnly s t) (key : Nat) (f : ProcSt → ProcSt) : ProgramsOnly s (t.modProcAt key f) := by
  unfold ProgramsOnly at *
  rw [h]
  rfl

theorem ProgramsOnly.event {s t : State} (h : ProgramsOnly s t) (e : EvCode) (block inst : Nat) : ProgramsOnly s (t.event e block inst) := by
  unfold State.event
  split
  · exact h
  · unfold ProgramsOnly at *
    rw [h]

theorem ProgramsOnly.with_time {s t : State} (h : ProgramsOnly s t) (x : TimeSt) :
    { t with time := x } = { s with regs := t.regs, procs := t.procs, evq := t.evq, time := x } := by
  unfold ProgramsOnly at h
  rw [h]

theorem programsOnly_dropAdmission {s t : State} (h : ProgramsOnly s t) (key page : Nat) : ProgramsOnly s (t.dropAdmission key page) := h.modProcAt _ _

theorem programsOnly_unload {s t : State} (h : ProgramsOnly s t) (key : Nat) : ProgramsOnly s (t.unload key) :=
  ((((h.wr _ _ _ _ _).wr _ _ _ _ _).modProcAt _ _).modProcAt _ _).event _ _ _

theorem programsOnly_budgetProc {s t : State} (h : ProgramsOnly s t) (b key : Nat) : ProgramsOnly s (t.budgetProc b key) := by
  have h1 : ProgramsOnly s (if (decide (b < ((t.procAt key).img (1 - t.livePage key)).wcMain) || decide (b < ((t.procAt key).img (1 - t.livePage key)).wcEvent)) = true
      then (t.dropAdmission key (1 - t.livePage key)).wr F.ADMITTED (t.seqBase key) 0 else t) := by
    split
    · exact (programsOnly_dropAdmission h _ _).wr _ _ _ _ _
    · exact h
  unfold State.budgetProc
  dsimp only
  split
  · split
    · exact programsOnly_unload h1 key
    · split
      · exact programsOnly_dropAdmission h1 _ _
      · exact h1
  · exact h1

theorem programsOnly_unloadSlot {s t : State} (h : ProgramsOnly s t) (n : Nat) : ProgramsOnly s (t.unloadSlot n) := by
  have h1 : ProgramsOnly s (((((t.wr F.HC_PSTATE DEV 3 n).wr F.HC_ADMITTED DEV 0 n).dropAdmission 0 n).event .programUnloaded blkDEV n).showSum) :=
    ((programsOnly_dropAdmission ((h.wr _ _ _ _ _).wr _ _ _ _ _) _ _).event _ _ _).wr _ _ _ _ _
  unfold State.unloadSlot
  dsimp only
  split
  · exact h1.modProcAt _ _
  · exact h1

theorem programsOnly_budgetHc {s t : State} (h : ProgramsOnly s t) (b : Nat) : ProgramsOnly s (t.budgetHc b) := by
  refine forEach_induct (fun n u hu => ?_) (forN_induct (fun n u hu => ?_) h)
  · split
    · exact programsOnly_unloadSlot hu n
    · exact hu
  · split_ifs
    · exact hu
    · exact programsOnly_unloadSlot hu n
    · exact programsOnly_dropAdmission (hu.wr _ _ _ _ _) _ _
    · exact hu

/-- The programs that a budget unloads. -/
theorem programsOnly_unloadOver (s : State) (b : Nat) : ProgramsOnly s (s.unloadOver b) :=
  forN_induct (fun _ _ hu => programsOnly_budgetProc hu _ _)
    (forN_induct (fun _ _ hu => programsOnly_budgetProc hu _ _) (programsOnly_budgetHc (ProgramsOnly.refl s) b))

theorem range_apply (v : Nat) : (Clamp.range 1 128).apply v = max 1 (min 128 v) := by
  simp only [Clamp.apply]
  split_ifs <;> omega

/-- A write of a field that is its whole word. -/
theorem State.reg_wr_whole (s : State) {f : Fld} (base v i j : Nat) (h : f.hi = 31 ∧ f.lo = 0) : (s.wr f base v i j).reg (f.at base i j) = BitVec.ofNat 32 v := by
  rw [State.wr, State.reg_setReg_same, h.1, h.2, setBitsOf_whole]

/-- Another field of one element of an array. -/
theorem State.reg_wr_off (s : State) (f g : Fld) (base v i : Nat) (h : g.st1 = f.st1 ∧ g.off ≠ f.off) :
    (s.wr f base v i).reg (g.at base i 0) = s.reg (g.at base i 0) := State.reg_wr_other _ _ _ _ _ _ (Fld.at_ne h base i)

/-- The words of an entry of the epoch log, and what it leaves (R66). -/
theorem epochEntry_shows (s : State) (e stitch root n : Nat) :
    let t := s.epochEntry e stitch root n
    t.rd F.EP_NEWEST DEV = e % 8 ∧ t.rd F.EP_VALID DEV e = 1 ∧ t.rd F.EP_N DEV e = n % 256
      ∧ t.reg (F.EP_STITCH_LO.at DEV e 0) = BitVec.ofNat 32 stitch ∧ t.reg (F.EP_STITCH_HI.at DEV e 0) = BitVec.ofNat 32 (stitch / 2 ^ 32)
      ∧ t.reg (F.EP_ROOT_LO.at DEV e 0) = BitVec.ofNat 32 root ∧ t.reg (F.EP_ROOT_HI.at DEV e 0) = BitVec.ofNat 32 (root / 2 ^ 32)
      ∧ SameRegs (fun a => a < 0x130) s t := by
  intro t
  have hlast (f : Fld) (hf : f.st1 = 0x20 ∧ 0x130 < f.off) : f.at DEV e 0 ≠ F.EP_NEWEST.at DEV 0 0 := by
    simp only [Fld.at, hf.1, F.EP_NEWEST, DEV]
    omega
  have hreg (u : State) (f : Fld) (hf : f.st1 = 0x20 ∧ 0x130 < f.off) : (u.wr F.EP_NEWEST DEV e).reg (f.at DEV e 0) = u.reg (f.at DEV e 0) :=
    State.reg_wr_other _ _ _ _ _ _ (hlast f hf)
  have hrd (u : State) (f : Fld) (hf : f.st1 = 0x20 ∧ 0x130 < f.off) : (u.wr F.EP_NEWEST DEV e).rd f DEV e = u.rd f DEV e :=
    State.rd_wr_word _ _ _ _ _ _ _ _ _ _ (hlast f hf)
  have hhigh (f : Fld) (hf : 0x130 ≤ f.off) (i : Nat) : ¬ f.at DEV i 0 < 0x130 := by
    simp only [Fld.at, DEV]
    omega
  refine ⟨State.rd_wr_same _ _ _ _ _ _ (by decide) (by decide), ?_, ?_, ?_, ?_, ?_, ?_, ?_⟩
  · simp (disch := decide) only [t, State.epochEntry, hrd, State.rd_wr_same]
    rfl
  · simp (disch := decide) only [t, State.epochEntry, hrd, State.rd_wr_field, State.rd_wr_same]
    rfl
  · simp (disch := decide) only [t, State.epochEntry, hreg, State.reg_wr_off, State.reg_wr_whole]
  · simp (disch := decide) only [t, State.epochEntry, hreg, State.reg_wr_off, State.reg_wr_whole]
  · simp (disch := decide) only [t, State.epochEntry, hreg, State.reg_wr_off, State.reg_wr_whole]
  · simp (disch := decide) only [t, State.epochEntry, hreg, State.reg_wr_off, State.reg_wr_whole]
  · exact ((((((SameRegs.refl _ s).wr (hhigh _ (by decide) e) _).wr (hhigh _ (by decide) e) _).wr (hhigh _ (by decide) e) _).wr (hhigh _ (by decide) e) _).wr
      (hhigh _ (by decide) e) _).wr (hhigh _ (by decide) e) _ |>.wr (hhigh _ (by decide) 0) _

/-- A write of N_REQ outside a follower (R60, R62). -/
theorem writeNReq_shows (s : State) (v : Nat) (hfollow : s.follower = false) :
    let t := s.writeNReq v
    t.rd F.STC_N_REQ DEV = max 1 (min 128 v) ∧ t.rd F.STC_N_NOW DEV = s.rd F.STC_N_NOW DEV ∧ t.rd F.STC_PEND DEV = s.rd F.STC_PEND DEV
      ∧ (s.rd F.STC_PEND DEV = 1 → t.rd F.BUD_B_ADMIT DEV = min (budget (s.rd F.STC_N_NOW DEV)) (budget (max 1 (min 128 v))))
      ∧ t = { s with regs := t.regs, time := { s.time with announce := true } }
      ∧ ∀ a, a ∉ [F.STC_N_REQ.at DEV 0 0, F.BUD_B_ADMIT.at DEV 0 0] → t.reg a = s.reg a := by
  intro t
  let s2 : State := { s.wr F.STC_N_REQ DEV (max 1 (min 128 v)) with time := { s.time with announce := true } }
  have hn : max 1 (min 128 v) % 256 = max 1 (min 128 v) := Nat.mod_eq_of_lt (by omega)
  have hreq : s2.rd F.STC_N_REQ DEV = max 1 (min 128 v) := (State.rd_wr_same _ _ _ _ _ _ (by decide) (by decide)).trans hn
  have hnow : s2.rd F.STC_N_NOW DEV = s.rd F.STC_N_NOW DEV := State.rd_wr_field _ _ _ _ _ _ _ _ _ _ (by decide) (by decide) (by decide) (by decide)
  have hpend : s2.rd F.STC_PEND DEV = s.rd F.STC_PEND DEV := State.rd_wr_field _ _ _ _ _ _ _ _ _ _ (by decide) (by decide) (by decide) (by decide)
  have ht : t = if s.flag F.STC_PEND DEV then s2.wr F.BUD_B_ADMIT DEV (min (budget (s.rd F.STC_N_NOW DEV)) (budget (max 1 (min 128 v)))) else s2 := by
    refine (if_neg (by rw [hfollow]; exact Bool.false_ne_true)).trans ?_
    rw [range_apply]
    rfl
  by_cases hflag : s.flag F.STC_PEND DEV = true
  · have hfits : min (budget (s.rd F.STC_N_NOW DEV)) (budget (max 1 (min 128 v))) % 8192 = min (budget (s.rd F.STC_N_NOW DEV)) (budget (max 1 (min 128 v))) :=
      Nat.mod_eq_of_lt (by unfold budget; omega)
    rw [ht, if_pos hflag]
    refine ⟨?_, ?_, ?_, fun _ => (State.rd_wr_same _ _ _ _ _ _ (by decide) (by decide)).trans hfits, rfl, fun a ha => ?_⟩
    · exact (State.rd_wr_off _ _ _ _ _ _ (by decide)).trans hreq
    · exact (State.rd_wr_off _ _ _ _ _ _ (by decide)).trans hnow
    · exact (State.rd_wr_off _ _ _ _ _ _ (by decide)).trans hpend
    · simp only [List.mem_cons, List.not_mem_nil, or_false, not_or] at ha
      exact (State.reg_wr_other _ _ _ _ _ _ ha.2).trans (State.reg_wr_other _ _ _ _ _ _ ha.1)
  · rw [ht, if_neg hflag]
    refine ⟨hreq, hnow, hpend, fun hone => absurd (State.flag_of_eq_one hone) hflag, rfl, fun a ha => ?_⟩
    simp only [List.mem_cons, List.not_mem_nil, or_false, not_or] at ha
    exact State.reg_wr_other _ _ _ _ _ _ ha.1

theorem State.showShort_regs (s : State) : SameRegs (fun a => a ≠ 0xA04) s s.showShort :=
  SameRegs.ite ((SameRegs.refl _ s).wr (by simp [Fld.at, F.SYS_D_SHORT, DEV]) _) (SameRegs.refl _ s)

theorem programsOnly_showShort {s t : State} (h : ProgramsOnly s t) : ProgramsOnly s t.showShort := by
  unfold State.showShort
  split
  · exact h.wr _ _ _ _ _
  · exact h

/-- Settles O24: what a new budget unloads leaves the time, and the words written then are told apart by their offsets. -/
theorem periodChanges : Obligations.PeriodChanges := by
  unfold Obligations.PeriodChanges
  refine ⟨fun v s hup hfollow => ⟨_, act_next hup, writeNReq_shows s v.toNat hfollow⟩, fun v s hup hfollow => ?_, fun n h1 h128 => ?_, ?_⟩
  · exact (act_next hup).trans (congrArg Host.Outcome.next (if_pos hfollow))
  · unfold budget
    omega
  · intro s hup hdue hpend h1 h128 e
    let s2 := (((((s.unloadOver (budget s.time.newN)).wr F.STC_N_NOW DEV s.time.newN).wr F.STC_PEND DEV 0).wr F.BUD_B_NOW DEV (budget s.time.newN)).wr F.BUD_B_ADMIT DEV
      (budget s.time.newN))
    let s3 := if s2.follower then s2.wr F.STC_N_REQ DEV s.time.newN else s2
    have hmay : (s.up && s.time.due == 1 && s.flag F.STC_PEND DEV) = true := by rw [hup, hdue, State.flag_of_eq_one hpend]; rfl
    have hn : s.time.newN % 256 = s.time.newN := Nat.mod_eq_of_lt (by omega)
    have hb : budget s.time.newN % 8192 = budget s.time.newN := Nat.mod_eq_of_lt (by unfold budget; omega)
    have hframe : ProgramsOnly s (s3.epochEntry e s.stitch.toNat s.time.root s.time.newN).showShort := by
      have h2 : ProgramsOnly s s2 := ((((programsOnly_unloadOver s _).wr _ _ _ _ _).wr _ _ _ _ _).wr _ _ _ _ _).wr _ _ _ _ _
      have h3 : ProgramsOnly s s3 := by
        simp only [s3]
        split
        · exact h2.wr _ _ _ _ _
        · exact h2
      exact programsOnly_showShort (((((((h3.wr _ _ _ _ _).wr _ _ _ _ _).wr _ _ _ _ _).wr _ _ _ _ _).wr _ _ _ _ _).wr _ _ _ _ _).wr _ _ _ _ _)
    obtain ⟨hnewest, hvalid, hepn, hslo, hshi, hrlo, hrhi, hlow⟩ := epochEntry_shows s3 e s.stitch.toNat s.time.root s.time.newN
    have hshort := State.showShort_regs (s3.epochEntry e s.stitch.toNat s.time.root s.time.newN)
    have hdev (f : Fld) (hf : f.at DEV 0 0 < 0x130) : ((s3.epochEntry e s.stitch.toNat s.time.root s.time.newN).showShort).rd f DEV = s3.rd f DEV :=
      (hshort.rd (show f.at DEV 0 0 ≠ 0xA04 by omega)).trans (hlow.rd hf)
    have hs3 (f : Fld) (hf : s3.rd f DEV = s2.rd f DEV) (n : Nat) (hs2 : s2.rd f DEV = n) (hlow : f.at DEV 0 0 < 0x130) :
        ((s3.epochEntry e s.stitch.toNat s.time.root s.time.newN).showShort).rd f DEV = n := (hdev f hlow).trans (hf.trans hs2)
    have hentry (f : Fld) (hf : f.st1 = 0x20 ∧ f.off < 0x420) : f.at DEV e 0 ≠ 0xA04 := by
      have he : e < 8 := Nat.mod_lt _ (by decide)
      simp only [Fld.at, hf.1, DEV]
      omega
    have hnow := hs3 F.STC_N_NOW (ite_eq_of (r := fun u : State => u.rd F.STC_N_NOW DEV) (State.rd_wr_field _ _ _ _ _ _ _ _ _ _ (by decide) (by decide) (by decide) (by decide)) rfl)
      s.time.newN (by simp (disch := decide) only [s2, State.rd_wr_off, State.rd_wr_field, State.rd_wr_same]; exact hn) (by decide)
    refine ⟨_, act_next hmay, hnow, ?_, ?_, ?_, ?_, ?_, ?_, ?_, ?_, ?_, ?_, ?_, ?_, ?_⟩
    · exact congrArg (64 * ·) hnow
    · exact hs3 F.STC_PEND (ite_eq_of (r := fun u : State => u.rd F.STC_PEND DEV) (State.rd_wr_field _ _ _ _ _ _ _ _ _ _ (by decide) (by decide) (by decide) (by decide)) rfl)
        0 (by simp (disch := decide) only [s2, State.rd_wr_off, State.rd_wr_same, Nat.zero_mod]) (by decide)
    · exact hs3 F.BUD_B_NOW (ite_eq_of (r := fun u : State => u.rd F.BUD_B_NOW DEV) (State.rd_wr_off _ _ _ _ _ _ (by decide)) rfl)
        _ (by simp (disch := decide) only [s2, State.rd_wr_field, State.rd_wr_same]; exact hb) (by decide)
    · exact hs3 F.BUD_B_ADMIT (ite_eq_of (r := fun u : State => u.rd F.BUD_B_ADMIT DEV) (State.rd_wr_off _ _ _ _ _ _ (by decide)) rfl)
        _ (by simp (disch := decide) only [s2, State.rd_wr_same]; exact hb) (by decide)
    · exact congrArg (fun x : TimeSt => { x with due := 0, since := s.stitch, before := s.period }) (congrArg State.time hframe :)
    · exact (hshort.rd (by decide)).trans (hnewest.trans (Nat.mod_mod _ _))
    · exact (hshort.rd (hentry _ (by decide))).trans hvalid
    · exact (hshort.rd (hentry _ (by decide))).trans (hepn.trans hn)
    · exact (hshort _ (hentry _ (by decide))).trans hslo
    · exact (hshort _ (hentry _ (by decide))).trans hshi
    · exact (hshort _ (hentry _ (by decide))).trans hrlo
    · exact (hshort _ (hentry _ (by decide))).trans hrhi
    · exact hframe.with_time _

end Sys2Proof.Machine

/-! Edges of SYNC_IN and the holdover (R57, R70 to R76). -/

namespace Sys2Proof.Machine

theorem ofNat_ofSigned (n : Nat) (v : Int) : BitVec.ofNat n (ofSigned n v) = BitVec.ofInt n v := by
  apply BitVec.eq_of_toNat_eq
  rw [BitVec.toNat_ofNat, BitVec.toNat_ofInt, ofSigned]
  have hpos : (0 : Int) < ((2 ^ n : Nat) : Int) := by positivity
  have hlt : (v % ((2 ^ n : Nat) : Int)).toNat < 2 ^ n := by
    have := Int.emod_lt_of_pos v hpos
    have := Int.emod_nonneg v hpos.ne'
    omega
  exact Nat.mod_eq_of_lt hlt

/-- What the registers of the last accepted edge show (R74). -/
def showsEdge (s t : State) : Prop :=
  t.reg (F.SYNC_EDGE_STITCH_LO.at CLK 0 0) = BitVec.ofNat 32 s.stitch.toNat
    ∧ t.reg (F.SYNC_EDGE_STITCH_HI.at CLK 0 0) = BitVec.ofNat 32 (s.stitch.toNat / 2 ^ 32) ∧ t.rd F.SYNC_EDGE_OFFSET CLK = s.now.off % 8192

theorem showsEdge_showEdge (s : State) : showsEdge s s.showEdge := by
  refine ⟨?_, ?_, State.rd_wr_same _ _ _ _ _ _ (by decide) (by decide)⟩
  · simp (disch := decide) only [State.showEdge, State.reg_wr_off, State.reg_wr_whole]
  · simp (disch := decide) only [State.showEdge, State.reg_wr_off, State.reg_wr_whole]

/-- The words of the last accepted edge. -/
def edgeWord (a : Nat) : Prop := a = CLK + 0x808 ∨ a = CLK + 0x80C ∨ a = CLK + 0x810

theorem showsEdge_of_sameRegs {s t u : State} (h : showsEdge s t) (hu : SameRegs edgeWord t u) : showsEdge s u := by
  obtain ⟨hlo, hhi, hoff⟩ := h
  exact ⟨(hu _ (Or.inl rfl)).trans hlo, (hu _ (Or.inr (Or.inl rfl))).trans hhi, (hu.rd (Or.inr (Or.inr rfl))).trans hoff⟩

theorem State.rd_of_not_flag {s : State} {f : Fld} {base : Nat} (hf : f.hi = f.lo) (h : ¬ s.flag f base = true) : s.rd f base = 0 := by
  have hlt : s.rd f base < 2 := by simpa [hf] using s.rd_lt f base 0 0
  have hne : ¬ s.rd f base = 1 := fun h1 => h (State.flag_of_eq_one h1)
  omega

/-- An accepted edge (R70 to R72, R74). -/
theorem acceptEdge_shows (s : State) (t : Nat) (err : Int) :
    let u := s.acceptEdge t err
    showsEdge s u ∧ u.time.syncRef = some t ∧ u.time.edge = s.time.edge ∧ u.off = s.off ∧ u.time.freqAdj = s.time.freqAdj ∧ u.time.expected = s.time.expected
      ∧ u.reg (F.SYNC_ERR.at CLK 0 0) = BitVec.ofInt 32 err ∧ u.rd F.SYNC_IN_HOLD CLK = 0 := by
  intro u
  let s2 : State := { s.showEdge.wr F.SYNC_ERR CLK (ofSigned 32 err) with time := { s.time with syncRef := some t, accepted := t } }
  have hshow : showsEdge s s2 :=
    showsEdge_of_sameRegs (showsEdge_showEdge s) (((SameRegs.refl edgeWord _).wr (by simp +decide [edgeWord]) _).of_regs rfl)
  have herr : s2.reg (F.SYNC_ERR.at CLK 0 0) = BitVec.ofInt 32 err := (State.reg_wr_whole _ _ _ _ _ (by decide)).trans (ofNat_ofSigned 32 err)
  by_cases hflag : s2.flag F.SYNC_IN_HOLD CLK = true
  · have hu : u = { s2.wr F.SYNC_IN_HOLD CLK 0 with time := { s2.time with holdClear := true } } := if_pos hflag
    rw [hu]
    refine ⟨showsEdge_of_sameRegs hshow (((SameRegs.refl edgeWord _).wr (by simp +decide [edgeWord]) _).of_regs rfl), rfl, rfl, rfl, rfl, rfl, ?_, ?_⟩
    · exact (State.reg_wr_other _ _ _ _ _ _ (by decide)).trans herr
    · exact State.rd_wr_same _ _ _ _ _ _ (by decide) (by decide)
  · have hu : u = s2 := if_neg hflag
    rw [hu]
    exact ⟨hshow, rfl, rfl, rfl, rfl, rfl, herr, State.rd_of_not_flag rfl hflag⟩

theorem showFreq_frame (s : State) : s.showFreq = { s with fresh := s.showFreq.fresh, regs := s.showFreq.regs }
    ∧ SameRegs (fun a => a ≠ F.SYNC_FREQ_ADJ.at CLK 0 0) s s.showFreq := by
  unfold State.showFreq
  dsimp only
  split
  · exact ⟨rfl, (SameRegs.refl _ s).wr (by simp) _⟩
  · exact ⟨rfl, ((SameRegs.refl _ s).of_regs (u := s.took) rfl).wr (by simp) _⟩

/-- Steering changes the words of the frequency and of LOCKED alone (R71). -/
theorem steer_shows (s : State) (err : Int) :
    let u := s.steer err
    u.time.freqAdj = clampInt (-1280000) 1280000 (s.time.freqAdj - clampInt (-51200) 51200 err) ∧ u.time.syncRef = s.time.syncRef
      ∧ u.time.edge = s.time.edge ∧ u.off = s.off ∧ u.time.expected = s.time.expected
      ∧ SameRegs (fun a => edgeWord a ∨ a = F.SYNC_ERR.at CLK 0 0) s u ∧ u.rd F.SYNC_IN_HOLD CLK = s.rd F.SYNC_IN_HOLD CLK := by
  intro u
  let adj := clampInt (-1280000) 1280000 (s.time.freqAdj - clampInt (-51200) 51200 err)
  let good := if err.natAbs ≤ 16 then s.time.good + 1 else 0
  let s0 : State := { s with time := { s.time with freqAdj := adj, good := good } }
  have hu : u = if 64 < err.natAbs then s0.showFreq.wr F.SYNC_LOCKED CLK 0 else if 8 ≤ good then s0.showFreq.wr F.SYNC_LOCKED CLK 1 else s0.showFreq := rfl
  obtain ⟨hframe, hregs⟩ := showFreq_frame s0
  have hkept : SameRegs (fun a => edgeWord a ∨ a = F.SYNC_ERR.at CLK 0 0) s s0.showFreq :=
    fun a ha => hregs a (by rintro rfl; exact absurd ha (by simp +decide [edgeWord]))
  have hhold : s0.showFreq.rd F.SYNC_IN_HOLD CLK = s.rd F.SYNC_IN_HOLD CLK := hregs.rd (by decide)
  have hrest : s0.showFreq.time = s0.time ∧ s0.showFreq.off = s.off := ⟨(congrArg State.time hframe :), (congrArg State.off hframe :)⟩
  have hlock (v : Nat) : SameRegs (fun a => edgeWord a ∨ a = F.SYNC_ERR.at CLK 0 0) s (s0.showFreq.wr F.SYNC_LOCKED CLK v)
      ∧ (s0.showFreq.wr F.SYNC_LOCKED CLK v).rd F.SYNC_IN_HOLD CLK = s.rd F.SYNC_IN_HOLD CLK :=
    ⟨hkept.wr (by simp +decide [edgeWord]) _, (State.rd_wr_field _ _ _ _ _ _ _ _ _ _ (by decide) (by decide) (by decide) (by decide)).trans hhold⟩
  have htime : u.time = s0.time ∧ u.off = s.off := by
    rw [hu]
    split_ifs <;> exact hrest
  have hshown : SameRegs (fun a => edgeWord a ∨ a = F.SYNC_ERR.at CLK 0 0) s u ∧ u.rd F.SYNC_IN_HOLD CLK = s.rd F.SYNC_IN_HOLD CLK := by
    rw [hu]
    split_ifs
    · exact hlock 0
    · exact hlock 1
    · exact ⟨hkept, hhold⟩
  rw [htime.1]
  exact ⟨rfl, rfl, rfl, htime.2, rfl, hshown⟩

/-- The window in numbers: W ppm of k seconds. -/
theorem inWindow_iff (s : State) (d k : Nat) : s.inWindow d k = true ↔ 1 ≤ k ∧ ((d : Int) - 3200000000 * k).natAbs ≤ 3200 * k * s.rd F.SYNC_WINDOW CLK := by
  have hcast : ((k * secondCycles : Nat) : Int) = 3200000000 * k := by
    simp only [secondCycles]
    push_cast
    ring
  simp only [State.inWindow, hcast, Bool.and_eq_true, decide_eq_true_eq]

/-- From a multiple below an interval up to the one just below it the windows grow and the distances shrink. -/
theorem inWindow_above {s : State} {d k : Nat} (h : s.inWindow d k = true) (hk : k ≤ d / secondCycles) : s.inWindow d (d / secondCycles) = true := by
  rw [inWindow_iff] at h ⊢
  have hgrow : 3200 * k * s.rd F.SYNC_WINDOW CLK ≤ 3200 * (d / secondCycles) * s.rd F.SYNC_WINDOW CLK :=
    Nat.mul_le_mul_right _ (Nat.mul_le_mul_left _ hk)
  simp only [secondCycles] at *
  omega

/-- Above an interval the distance to a farther multiple grows faster than its window, which is at most 1,023 ppm of a second each. -/
theorem inWindow_below {s : State} {d k : Nat} (h : s.inWindow d k = true) (hk : d / secondCycles < k) : s.inWindow d (d / secondCycles + 1) = true := by
  have hw : s.rd F.SYNC_WINDOW CLK < 1024 := s.rd_lt _ _ _ _
  obtain ⟨j, rfl⟩ : ∃ j, k = (d / secondCycles + 1) + j := ⟨k - (d / secondCycles + 1), by omega⟩
  rw [inWindow_iff] at h ⊢
  have hsplit : 3200 * (d / secondCycles + 1 + j) * s.rd F.SYNC_WINDOW CLK =
      3200 * (d / secondCycles + 1) * s.rd F.SYNC_WINDOW CLK + 3200 * (j * s.rd F.SYNC_WINDOW CLK) := by ring
  have hslow : j * s.rd F.SYNC_WINDOW CLK ≤ j * 1023 := Nat.mul_le_mul_left _ (by omega)
  rw [hsplit] at h
  simp only [secondCycles] at *
  omega

/-- The multiple of a second that an interval meets is among the two about it, if it meets any (R70): a window grows more slowly than the
distance to a farther one. -/
theorem multiple_isSome {s : State} {d k : Nat} (h : s.inWindow d k = true) : (s.multiple d).isSome = true := by
  rw [State.multiple, List.find?_isSome]
  rcases Nat.lt_or_ge (d / secondCycles) k with hk | hk
  · exact ⟨_, by simp, inWindow_below h hk⟩
  · exact ⟨_, by simp, inWindow_above h hk⟩

theorem multiple_near {s : State} {d k : Nat} (h : s.inWindow d k = true) (hnear : 2 * ((d : Int) - 3200000000 * k).natAbs < 3200000000) :
    s.multiple d = some k := by
  have hk : (d + secondCycles / 2) / secondCycles = k := by
    simp only [secondCycles]
    omega
  rw [State.multiple, hk, List.find?_cons_of_pos h]

/-- An edge that meets a multiple of a second (R70, R71). -/
theorem regularEdge_shows (s : State) (t k : Nat) :
    let u := s.regularEdge t (some k)
    let err := (t : Int) - s.time.expected
    showsEdge s u ∧ u.time.syncRef = some t ∧ u.time.edge = s.time.edge ∧ u.off = s.off ∧ u.time.expected = s.time.expected + 3200000000 * k
      ∧ u.reg (F.SYNC_ERR.at CLK 0 0) = BitVec.ofInt 32 err ∧ u.rd F.SYNC_IN_HOLD CLK = 0
      ∧ u.time.freqAdj = if s.rd F.SYNC_EFFECTIVE CLK = 2 then clampInt (-1280000) 1280000 (s.time.freqAdj - clampInt (-51200) 51200 err)
          else s.time.freqAdj := by
  intro u err
  let s2 := s.acceptEdge t err
  have hu : u = (if s.rd F.SYNC_EFFECTIVE CLK = 2 then s2.steer err else s2).expectEdge (s.time.expected + k * secondCycles) := rfl
  have hexpect : s.time.expected + k * secondCycles = s.time.expected + 3200000000 * k := by simp only [secondCycles]; omega
  obtain ⟨hshow, hsync, hedge, hoff, hfreq, -, herr, hhold⟩ := acceptEdge_shows s t err
  by_cases heff : s.rd F.SYNC_EFFECTIVE CLK = 2
  · obtain ⟨hfreq', hsync', hedge', hoff', -, hregs, hhold'⟩ := steer_shows s2 err
    rw [hu, if_pos heff, if_pos heff, hexpect]
    have hshow' : showsEdge s (s2.steer err) := showsEdge_of_sameRegs hshow (fun a ha => hregs a (Or.inl ha))
    exact ⟨hshow', hsync'.trans hsync, hedge'.trans hedge, hoff'.trans hoff, rfl, (hregs _ (Or.inr rfl)).trans herr, hhold'.trans hhold, hfreq'.trans (by rw [hfreq])⟩
  · rw [hu, if_neg heff, if_neg heff, hexpect]
    exact ⟨hshow, hsync, hedge, hoff, rfl, herr, hhold, hfreq⟩

theorem State.event_of_live {s : State} (h : s.halted = false) (e : EvCode) (block inst : Nat) (args : List Nat) (st : Status) :
    s.event e block inst args st = { s with evq := s.evq ++ [⟨s.now, e.code, st.code, s.devnum, block, inst, args.map (BitVec.ofNat 32)⟩] } :=
  if_neg (by rw [h]; exact Bool.false_ne_true)

/-- Settles O26: an edge is stamped, judged against the two multiples of a second about it, and shown where one of them has it in its window. -/
theorem syncEdgesAndHoldover : Obligations.SyncEdgesAndHoldover := by
  unfold Obligations.SyncEdgesAndHoldover
  intro off s hup now shown stamped
  let s1 := (s.tick off).stampEdge
  have hmay (h : s.rd F.SYNC_EFFECTIVE CLK ≠ 0) : (s.up && s.rd F.SYNC_EFFECTIVE CLK != 0) = true := by simp [hup, h]
  have hshown (t : State) (h : showsEdge s1 t) : shown t := h
  refine ⟨fun heff hdeg => ?_, fun heff hdeg href => ?_, fun last heff hdeg href => ?_, fun heff hhold hlate => ?_⟩
  · have hexec : exec (.syncInEdge off) s = .next s1.showEdge := (act_next (hmay heff)).trans (congrArg Host.Outcome.next (if_pos hdeg))
    exact ⟨_, hexec, ⟨rfl, rfl⟩, showsEdge_showEdge s1, rfl⟩
  · have hexec : exec (.syncInEdge off) s = .next ((s1.acceptEdge now 0).expectEdge (now + 3200000000)) := by
      refine (act_next (hmay heff)).trans (congrArg Host.Outcome.next ((if_neg (by rw [hdeg]; exact Bool.false_ne_true)).trans ?_))
      have href1 : s1.time.syncRef = none := href
      rw [State.judgeEdge, href1]
      rfl
    obtain ⟨hshow, hsync, hedge, hoff, -, -, herr, -⟩ := acceptEdge_shows s1 now 0
    exact ⟨_, hexec, ⟨hedge, hoff⟩, hshow, hsync, rfl, herr⟩
  · intro far within err
    have hexec : exec (.syncInEdge off) s = .next (s1.regularEdge now (s1.multiple (now - last))) := by
      refine (act_next (hmay heff)).trans (congrArg Host.Outcome.next ((if_neg (by rw [hdeg]; exact Bool.false_ne_true)).trans ?_))
      have href1 : s1.time.syncRef = some last := href
      rw [State.judgeEdge, href1]
      rfl
    have hwithin (k : Nat) : within k ↔ s1.inWindow (now - last) k = true := (inWindow_iff s1 (now - last) k).symm
    refine ⟨fun k hk hnear => ?_, fun k hk => ?_, fun hnone => ?_⟩
    · rw [multiple_near ((hwithin k).1 hk) hnear] at hexec
      obtain ⟨hshow, hsync, hedge, hoff, hexpect, herr, hhold, hfreq⟩ := regularEdge_shows s1 now k
      exact ⟨_, hexec, ⟨hedge, hoff⟩, hshow, hsync, hexpect, herr, hhold, hfreq⟩
    · obtain ⟨j, hj⟩ := Option.isSome_iff_exists.1 (multiple_isSome ((hwithin k).1 hk))
      rw [hj] at hexec
      obtain ⟨hshow, hsync, hedge, hoff, -⟩ := regularEdge_shows s1 now j
      exact ⟨_, hexec, ⟨hedge, hoff⟩, hshow, hsync⟩
    · have hmult : s1.multiple (now - last) = none := by
        rw [State.multiple, List.find?_eq_none]
        exact fun k _ hk => hnone k ((hwithin k).2 hk)
      rw [hmult] at hexec
      exact ⟨_, hexec, ⟨rfl, rfl⟩, rfl, (OnlyRegs.refl _ _).wr (List.mem_singleton_self _) _, State.rd_bump_same _ _ _ (by decide) (by decide)⟩
  · let s2 : State := { s.tick off with time := { s.time with holdover := true, holdClear := false, good := 0 } }
    let s3 := (s2.wr F.SYNC_IN_HOLD CLK 1).wr F.SYNC_LOCKED CLK 0
    have hlate' : (s.up && s.rd F.SYNC_EFFECTIVE CLK == 2 && !s.flag F.SYNC_IN_HOLD CLK && decide (max s.time.discFrom s.time.accepted + 4800000000 ≤ (s.tick off).rootNow)) = true := by
      rw [hup, heff, State.flag_of_eq_zero hhold, decide_eq_true hlate]
      rfl
    have hrun : s3.halted = false := by
      refine (congrArg (· == 1) ?_).trans (State.halted_of_up hup)
      exact (State.rd_wr_word _ _ _ _ _ _ _ _ _ _ (by decide)).trans (State.rd_wr_word _ _ _ _ _ _ _ _ _ _ (by decide))
    have hexec : exec (.holdover off) s = .next { s3 with evq := s.evq ++ [⟨s3.now, EvCode.syncLost.code, Status.ok.code, s3.devnum, blkCLK, 0, []⟩] } :=
      (act_next hlate').trans (congrArg Host.Outcome.next (State.event_of_live (s := s3) hrun _ _ _ _ _))
    refine ⟨_, hexec, ?_, ?_, rfl, rfl, rfl, rfl, _, rfl, rfl⟩
    · exact (State.rd_wr_field _ _ _ _ _ _ _ _ _ _ (by decide) (by decide) (by decide) (by decide)).trans
        (State.rd_wr_same _ _ _ _ _ _ (by decide) (by decide))
    · exact State.rd_wr_same _ _ _ _ _ _ (by decide) (by decide)

end Sys2Proof.Machine

/-! ## O14: mailbox replies, event words, trig and waitt -/

namespace Sys2Proof.Machine

/-! Where the words of the patch and ribbon blocks lie. -/

theorem locatedAt_congr {b : Blk} {i j o q : Nat} (hi : i = j) (ho : o = q) : some (b, i, o) = some (b, j, q) := by rw [hi, ho]

theorem locate_patch {p o : Nat} (hp : p < 18) (ho : o < 0x1000) : locate (PATCH p + o) = some (.patch, p, o) := by
  have hat : PATCH p + o = 0x20000 + 0x1000 * p + o := rfl
  rw [hat]
  unfold locate
  iterate 13 rw [if_neg (by omega)]
  rw [if_pos (by omega)]
  exact locatedAt_congr (by omega) (by omega)

theorem locate_ribbon {r o : Nat} (hr : r < 34) (ho : o < 0x800) : locate (RIBBON r + o) = some (.ribbon, r, o) := by
  unfold RIBBON
  split
  · next h =>
    unfold locate
    iterate 12 rw [if_neg (by omega)]
    rw [if_pos (by omega)]
    exact locatedAt_congr (by omega) (by omega)
  · next h =>
    unfold locate
    iterate 10 rw [if_neg (by omega)]
    rw [if_pos (by omega)]
    exact locatedAt_congr (by omega) (by omega)

/-- A block that holds a word of pending event classes. -/
def hasEvents (base : Nat) : Prop := (∃ p, p < 18 ∧ base = PATCH p) ∨ ∃ r, r < 34 ∧ base = RIBBON r

theorem State.hasEvents_patch (s : State) (k : Nat) : hasEvents (s.pb k) := .inl ⟨s.ppos k, by unfold State.ppos; omega, rfl⟩

theorem State.hasEvents_ribbon (s : State) (r : Nat) : hasEvents (RIBBON (s.rsp r)) := .inr ⟨s.rsp r, by unfold State.rsp; omega, rfl⟩

theorem rows_evtPend {base : Nat} (hb : hasEvents base) :
    ∃ b inst r, locate (F.EVT_PEND.at base 0 0) = some (b, inst, 0x18) ∧ rowsAt b inst 0x18 = [(r, 0)] ∧ r.f = F.EVT_PEND ∧ r.acc = .w1c := by
  rcases hb with ⟨p, hp, rfl⟩ | ⟨r, hr, rfl⟩
  · exact ⟨.patch, p, ⟨.patch, F.EVT_PEND, 1, 1, .w1c, nil0, .any⟩, locate_patch hp (by decide), rfl, rfl, rfl⟩
  · refine ⟨.ribbon, r, ⟨.ribbon, F.EVT_PEND, 1, 1, .w1c, nil0, .any⟩, locate_ribbon hr (by decide), ?_, rfl, rfl⟩
    unfold rowsAt
    rw [if_neg (by omega)]
    rfl

/-- A whole write of ones clears the classes that it names (R93). -/
theorem State.bitAt_clearEvtPend {base : Nat} (hb : hasEvents base) (s : State) (v : BitVec 16) {i : Nat} (hi : i < 16) :
    bitAt ((s.mergeWrite (F.EVT_PEND.at base 0 0) (v.setWidth 32) 15).rd F.EVT_PEND base) i
      = (bitAt (s.rd F.EVT_PEND base) i && !bitAt v.toNat i) := by
  obtain ⟨b, inst, r, hloc, hrows, hf, hacc⟩ := rows_evtPend hb
  have hword : (s.mergeWrite (F.EVT_PEND.at base 0 0) (v.setWidth 32) 15).reg (F.EVT_PEND.at base 0 0)
      = writeField (v.setWidth 32) 15 (s.reg (F.EVT_PEND.at base 0 0)) r := by
    rw [State.reg_mergeWrite_same hloc, hrows]
    rfl
  have hrule := (fieldWriteRules (v.setWidth 32) (s.reg (F.EVT_PEND.at base 0 0)) 15 r (by rw [hf]; decide) (by rw [hf]; decide)).2.2.1
    hacc rfl i (by rw [hf]; exact hi)
  rw [hf] at hrule
  have hval : bitsOf 15 0 (v.setWidth 32) = v.toNat := by
    have hv := v.isLt
    change (v.setWidth 32).toNat / 2 ^ 0 % 2 ^ 16 = v.toNat
    rw [BitVec.toNat_setWidth, Nat.pow_zero, Nat.div_one, Nat.mod_mod_of_dvd _ (by decide), Nat.mod_eq_of_lt hv]
  have hread : bitsOf F.EVT_PEND.hi F.EVT_PEND.lo (v.setWidth 32) = v.toNat := hval
  rw [hread] at hrule
  exact (congrArg (fun w => bitAt (bitsOf 15 0 w) i) hword).trans hrule

theorem State.seqBase_p (s : State) (k : LPatch) : s.seqBase (16 + k.val) = s.pb k.val := by
  have hk := k.isLt
  unfold State.seqBase
  rw [if_neg (by omega), if_pos (by omega), Nat.add_sub_cancel_left]

theorem State.seqBase_s (s : State) (r : Ribbon) : s.seqBase (32 + r.val) = RIBBON (s.rsp r.val) := by
  unfold State.seqBase
  rw [if_neg (by omega), if_neg (by omega), Nat.add_sub_cancel_left]

theorem State.clearEvents_p (s : State) (k : LPatch) (v : W32) :
    s.clearEvents (16 + k.val) v = s.mergeWrite (F.EVT_PEND.at (s.pb k.val) 0 0) v 15 := by
  have hk := k.isLt
  unfold State.clearEvents
  rw [if_neg (by omega), State.seqBase_p]
  exact if_neg (by omega)

theorem State.clearEvents_s (s : State) (r : Ribbon) (v : W32) :
    s.clearEvents (32 + r.val) v = (s.mergeWrite (F.EVT_PEND.at (RIBBON (s.rsp r.val)) 0 0) v 15).releaseRecord r.val := by
  unfold State.clearEvents
  rw [if_neg (by omega), State.seqBase_s, Nat.add_sub_cancel_left]
  exact if_pos (by omega)

/-! Releasing a ribbon's recovery record moves the classes 0 and 1 alone (R180, R181). -/

/-- A word of the DEV block. -/
def inDev (a : Nat) : Prop := a < 0x1000

/-- The classes above 1 pend as they did, and the words of DEV are as they were. -/
def KeepsClasses (base : Nat) (s t : State) : Prop :=
  SameRegs inDev s t ∧ ∀ i, 2 ≤ i → i < 16 → bitAt (t.rd F.EVT_PEND base) i = bitAt (s.rd F.EVT_PEND base) i

theorem KeepsClasses.of_regs {base : Nat} {s t : State} (h : t.regs = s.regs) : KeepsClasses base s t :=
  ⟨(SameRegs.refl _ s).of_regs h, fun i _ _ => by unfold State.rd State.reg; rw [h]⟩

theorem KeepsClasses.trans {base : Nat} {s t u : State} (h : KeepsClasses base s t) (g : KeepsClasses base t u) : KeepsClasses base s u :=
  ⟨h.1.trans g.1, fun i hlo hhi => (g.2 i hlo hhi).trans (h.2 i hlo hhi)⟩

theorem KeepsClasses.rsp {base : Nat} {s t : State} (h : KeepsClasses base s t) (r : Ribbon) : t.rsp r.val = s.rsp r.val := by
  unfold State.rsp
  rw [h.1.rd (show inDev (F.RMAP_RSP.at DEV r.val 0) by
    have hr := r.isLt
    simp only [inDev, Fld.at, F.RMAP_RSP, DEV]
    omega)]

/-- A write of another word outside DEV. -/
theorem KeepsClasses.wr {base : Nat} (hb : 0x1000 ≤ base) (s : State) {f : Fld} (hf : f.off ≠ F.EVT_PEND.off) (v : Nat) :
    KeepsClasses base s (s.wr f base v) := by
  have hat : f.at base 0 0 = base + f.off := by simp [Fld.at]
  have hpend : F.EVT_PEND.at base 0 0 ≠ f.at base 0 0 := by
    rw [hat]
    simp only [Fld.at, Nat.mul_zero, Nat.add_zero]
    omega
  refine ⟨(SameRegs.refl _ s).wr (by rw [hat]; unfold inDev; omega) v, fun i _ _ => ?_⟩
  rw [State.rd_wr_word _ _ _ _ _ _ _ _ _ _ hpend]

theorem bitAt_add_low {x cls i : Nat} (hcls : cls < 2) (h : bitAt x cls = false) (hlo : 2 ≤ i) (hi : i < 16) :
    bitAt ((x + 2 ^ cls) % 2 ^ 16) i = bitAt x i := by
  simp only [bitAt, beq_eq_false_iff_ne] at h ⊢
  congr 1
  interval_cases cls <;> interval_cases i <;> omega

theorem KeepsClasses.pend {base : Nat} (hb : 0x1000 ≤ base) (s : State) {cls : Nat} (hcls : cls < 2)
    (h : bitAt (s.rd F.EVT_PEND base) cls = false) : KeepsClasses base s (s.wr F.EVT_PEND base (s.rd F.EVT_PEND base + 2 ^ cls)) := by
  refine ⟨(SameRegs.refl _ s).wr (by simp only [inDev, Fld.at]; omega) _, fun i hlo hi => ?_⟩
  rw [State.rd_wr_same _ _ _ _ _ _ (by decide) (by decide)]
  exact bitAt_add_low hcls h hlo hi

theorem keepsClasses_switchBank (s : State) (key : Nat) (hb : 0x1000 ≤ s.seqBase key) : KeepsClasses (s.seqBase key) s (s.switchBank key) := by
  have hsel := KeepsClasses.wr hb s (f := F.BANK) (by decide) 1
  have hcount : KeepsClasses (s.seqBase key) s ((s.wr F.BANK (s.seqBase key) 1).bump F.ABANDON (s.seqBase key)) :=
    hsel.trans (KeepsClasses.wr hb _ (by decide) _)
  unfold State.switchBank
  dsimp only
  split
  · exact hcount.trans (.of_regs rfl)
  · exact hcount.trans (.of_regs rfl)

theorem State.ribbonBase_high (s : State) (r : Nat) : 0x1000 ≤ RIBBON (s.rsp r) := by
  unfold RIBBON
  split <;> omega

theorem keepsClasses_raiseS (s : State) (r : Ribbon) {cls : Nat} (hcls : cls < 2) :
    KeepsClasses (RIBBON (s.rsp r.val)) s (s.raiseS r.val cls) := by
  have hb := s.ribbonBase_high r.val
  unfold State.raiseS State.raiseProc
  dsimp only
  rw [State.seqBase_s]
  split
  · have hpend : KeepsClasses (RIBBON (s.rsp r.val)) s (if bitAt (s.rd F.EVT_PEND (RIBBON (s.rsp r.val))) cls = true then s
        else s.wr F.EVT_PEND (RIBBON (s.rsp r.val)) (s.rd F.EVT_PEND (RIBBON (s.rsp r.val)) + 2 ^ cls)) := by
      split
      · exact .of_regs rfl
      · next h => exact .pend hb s hcls (Bool.eq_false_iff.2 h)
    generalize (if bitAt (s.rd F.EVT_PEND (RIBBON (s.rsp r.val))) cls = true then s
        else s.wr F.EVT_PEND (RIBBON (s.rsp r.val)) (s.rd F.EVT_PEND (RIBBON (s.rsp r.val)) + 2 ^ cls)) = u at hpend ⊢
    have hbase : u.seqBase (32 + r.val) = RIBBON (s.rsp r.val) := by rw [State.seqBase_s, hpend.rsp]
    split
    · have h := keepsClasses_switchBank u (32 + r.val) (hbase ▸ hb)
      rw [hbase] at h
      exact hpend.trans h
    · exact hpend
  · exact .of_regs rfl

theorem State.beginRecord_regs (s : State) (l : Nat) : (s.beginRecord l).regs = s.regs := by
  unfold State.beginRecord
  dsimp only
  split
  · split <;> rfl
  · rfl

theorem keepsClasses_releaseRecord (s : State) (r : Ribbon) : KeepsClasses (RIBBON (s.rsp r.val)) s (s.releaseRecord r.val) := by
  unfold State.releaseRecord
  split
  · exact .of_regs rfl
  · dsimp only
    split
    · exact .of_regs rfl
    · next i _ =>
      have hbegun : KeepsClasses (RIBBON (s.rsp r.val)) s ((s.modRib r.val (fun x => { x with rvalid := false })).beginRecord (8 * r.val + i)) :=
        .of_regs (State.beginRecord_regs _ _)
      have hraise : ∀ u : State, KeepsClasses (RIBBON (s.rsp r.val)) s u → ∀ cls < 2,
          KeepsClasses (RIBBON (s.rsp r.val)) s (u.raiseS r.val cls) := fun u hu cls hcls => by
        have h := keepsClasses_raiseS u r hcls
        rw [hu.rsp] at h
        exact hu.trans h
      split <;> split
      · exact hraise _ (hraise _ hbegun 0 (by decide)) 1 (by decide)
      · exact hraise _ hbegun 1 (by decide)
      · exact hraise _ hbegun 0 (by decide)
      · exact hbegun

theorem State.releaseRecord_held {s : State} {r : Nat} (h : (s.ribAt r).rvalid = false ∨ s.rd F.EVT_PEND (s.seqBase (32 + r)) % 4 ≠ 0) :
    s.releaseRecord r = s := by
  unfold State.releaseRecord
  exact if_pos (h.imp_left fun hv => by simp [hv])

theorem State.releaseRecord_free {s : State} {r : Nat} (hv : (s.ribAt r).rvalid = true) (hpend : s.rd F.EVT_PEND (s.seqBase (32 + r)) % 4 = 0)
    (hcause : ∀ i, i < 8 → s.laneCause (8 * r + i) % 4 = 0) : s.releaseRecord r = s.modRib r (fun x => { x with rvalid := false }) := by
  have hnone : (List.range 8).find? (fun i => decide (s.laneCause (8 * r + i) % 4 ≠ 0)) = none :=
    List.find?_eq_none.2 fun i hi => by simp [hcause i (List.mem_range.1 hi)]
  unfold State.releaseRecord
  rw [if_neg (by simp [hv, hpend])]
  dsimp only
  rw [hnone]

/-! Raises of trigger lines. -/

theorem State.endWaits_frame (s : State) (line : Nat) : s.endWaits line = { s with procs := (s.endWaits line).procs } := by
  unfold State.endWaits
  refine forN_induct (P := fun t : State => t = { s with procs := t.procs }) (fun k t ht => ?_) rfl
  split
  · split
    · rw [ht]; rfl
    · exact ht
  · exact ht

theorem State.endWaits_trig (s : State) (line : Nat) : (s.endWaits line).trig = s.trig := by rw [State.endWaits_frame]

theorem State.flood_frame (s : State) (e : TrigEntry) : s.flood e = { s with seams := (s.flood e).seams } :=
  forEach_induct (P := fun t : State => t = { s with seams := t.seams }) (fun n t ht => by rw [ht]; rfl) rfl

theorem State.flood_trig (s : State) (e : TrigEntry) : (s.flood e).trig = s.trig := by rw [State.flood_frame]

theorem State.raised_noteSystem (s : State) (line origin : Nat) (due : W64) (r : Raise) :
    (s.noteSystem line origin due r).trig.raised = s.trig.raised := rfl

/-- Nothing differs but the trigger state, what waits for it, and what the seams send of it. -/
def RaisedOnly (s t : State) : Prop := t = { s with procs := t.procs, trig := t.trig, sys := t.sys, seams := t.seams }

theorem RaisedOnly.endWaits {s t : State} (h : RaisedOnly s t) (line : Nat) : RaisedOnly s (t.endWaits line) := by
  rw [State.endWaits_frame]
  generalize (t.endWaits line).procs = x
  unfold RaisedOnly
  rw [h]

theorem RaisedOnly.flood {s t : State} (h : RaisedOnly s t) (e : TrigEntry) : RaisedOnly s (t.flood e) := by
  rw [State.flood_frame]
  generalize (t.flood e).seams = x
  unfold RaisedOnly
  rw [h]

theorem RaisedOnly.noteSystem {s t : State} (h : RaisedOnly s t) (line origin : Nat) (due : W64) (r : Raise) :
    RaisedOnly s (t.noteSystem line origin due r) := by
  unfold RaisedOnly
  rw [h]
  rfl

theorem raisedOnly_raiseAs (s : State) (cls line : Nat) (r : Raise) : RaisedOnly s (s.raiseAs cls line r) := by
  have hnoted : RaisedOnly s ((s.noteRaise line r).endWaits line) :=
    (show RaisedOnly s (s.noteRaise line r) from rfl).endWaits line
  unfold State.raiseAs
  split
  · dsimp only
    split
    · split
      · exact hnoted
      · exact (hnoted.noteSystem _ _ _ _).flood _
    · exact hnoted
  · rfl

/-- A raise that its mask lets through is noted, whatever else becomes of it. -/
theorem State.raised_raiseAs {s : State} {cls line : Nat} {r : Raise} (hmask : s.maskBit cls line r.at_ = true) :
    (s.raiseAs cls line r).trig.raised = (s.noteRaise line r).trig.raised := by
  have hnoted := (s.noteRaise line r).endWaits_trig line
  unfold State.raiseAs
  rw [if_pos hmask]
  dsimp only
  split
  · split
    · rw [hnoted]
    · rw [State.flood_trig, State.raised_noteSystem, hnoted]
  · rw [hnoted]

theorem State.raise?_noteRaise (s : State) (line : Nat) (r : Raise) :
    (s.noteRaise line r).trig.raise? line = some (match s.trig.raise? line with
      | none => r
      | some q => { (if r.at_ < q.at_ then r else q) with multi := true }) := Tab.get_put_same _ _ _ _

/-- A reply of a mailbox (R114). -/
theorem writeReply (s : State) (key slot : Nat) (v : W32) :
    let t := s.writeMailOut key slot 11 v
    t.regs = s.regs ∧ (t.procAt key).mailOut.get (fun _ => 0) (16 * slot + 11) = v ∧ ((s.procAt key).replies = [] → t.host = s.host)
      ∧ ∀ e, (s.procAt key).replies = [e] → e.1 = slot → (t.procAt key).replies = []
        ∧ t.host.done.map (fun d => (d.c, d.status)) = s.host.done.map (fun d => (d.c, d.status)) ++ [(e.2, .ok)] := by
  intro t
  let u := s.modProcAt key (fun x => { x with mailOut := x.mailOut.put (16 * slot + 11) v })
  have hu : u.procAt key = { s.procAt key with mailOut := (s.procAt key).mailOut.put (16 * slot + 11) v } := State.procAt_modSame _ _ _
  have ht : t = u.mailReply key slot := by
    change (if 11 = 11 then u.mailReply key slot else u) = u.mailReply key slot
    exact if_pos rfl
  have hreplies : (u.procAt key).replies = (s.procAt key).replies := by rw [hu]
  have hmail : (u.procAt key).mailOut.get (fun _ => 0) (16 * slot + 11) = v := by rw [hu]; exact Tab.get_put_same _ _ _ _
  have hnone : (s.procAt key).replies.find? (fun e => e.1 == slot) = none → t = u := fun h => by
    rw [ht]
    unfold State.mailReply
    dsimp only
    rw [hreplies, h]
  have hsome : ∀ e, (s.procAt key).replies.find? (fun e => e.1 == slot) = some e →
      t = (u.modProcAt key (fun x => { x with replies := x.replies.erase e })).complete e.2 .ok
        ((List.range 11).map (fun i => ((u.procAt key).mailOut.get (fun _ => 0) (16 * slot + i)).toNat)) := fun e h => by
    rw [ht]
    unfold State.mailReply
    dsimp only
    rw [hreplies, h]
  have hproc : ∀ e, (s.procAt key).replies.find? (fun e => e.1 == slot) = some e →
      t.procAt key = { u.procAt key with replies := (u.procAt key).replies.erase e } := fun e h => by
    rw [hsome e h]
    exact State.procAt_modSame u key (fun x => { x with replies := x.replies.erase e })
  refine ⟨?_, ?_, fun h => ?_, fun e h hslot => ?_⟩
  · cases h : (s.procAt key).replies.find? (fun e => e.1 == slot) with
    | none => rw [hnone h]; rfl
    | some e => rw [hsome e h]; rfl
  · cases h : (s.procAt key).replies.find? (fun e => e.1 == slot) with
    | none => rw [hnone h]; exact hmail
    | some e => rw [hproc e h]; exact hmail
  · rw [hnone (by rw [h]; rfl)]
    rfl
  · have hfind : (s.procAt key).replies.find? (fun e => e.1 == slot) = some e := by simp [h, hslot]
    refine ⟨?_, ?_⟩
    · rw [hproc e hfind, hreplies, h]
      exact List.erase_cons_head ..
    · rw [hsome e hfind]
      exact List.map_append

theorem low_clear {x : Nat} (h0 : bitAt x 0 = false) (h1 : bitAt x 1 = false) : x % 4 = 0 := by
  simp only [bitAt, beq_eq_false_iff_ne] at h0 h1
  omega

/-- A write of a ribbon's pending classes, and of the record that it releases (R93, R180). -/
theorem clearRibbon (s : State) (r : Ribbon) (v : BitVec 16) :
    let b := RIBBON (s.rsp r.val)
    let t := s.clearEvents (32 + r.val) (v.setWidth 32)
    (∀ i, 2 ≤ i → i < 16 → bitAt (t.rd F.EVT_PEND b) i = (bitAt (s.rd F.EVT_PEND b) i && !bitAt v.toNat i))
      ∧ ((s.ribAt r.val).rvalid = false ∨ (bitAt (s.rd F.EVT_PEND b) 0 && !bitAt v.toNat 0) = true
          ∨ (bitAt (s.rd F.EVT_PEND b) 1 && !bitAt v.toNat 1) = true → OnlyRegs [F.EVT_PEND.at b 0 0] s t
        ∧ ∀ i, i < 2 → bitAt (t.rd F.EVT_PEND b) i = (bitAt (s.rd F.EVT_PEND b) i && !bitAt v.toNat i))
      ∧ ((s.ribAt r.val).rvalid = true → (bitAt (s.rd F.EVT_PEND b) 0 && !bitAt v.toNat 0) = false →
          (bitAt (s.rd F.EVT_PEND b) 1 && !bitAt v.toNat 1) = false → (∀ i, i < 8 → s.laneCause (8 * r.val + i) % 4 = 0) →
          (t.ribAt r.val).rvalid = false ∧ t.rd F.EVT_PEND b % 4 = 0) := by
  intro b t
  let u := s.mergeWrite (F.EVT_PEND.at b 0 0) (v.setWidth 32) 15
  have ht : t = u.releaseRecord r.val := s.clearEvents_s r _
  have hbits : ∀ i, i < 16 → bitAt (u.rd F.EVT_PEND b) i = (bitAt (s.rd F.EVT_PEND b) i && !bitAt v.toNat i) := fun i hi =>
    State.bitAt_clearEvtPend (s.hasEvents_ribbon r.val) s v hi
  have honly : OnlyRegs [F.EVT_PEND.at b 0 0] s u := s.onlyRegs_mergeWrite _ _ _
  have hframe : u = { s with regs := u.regs } := honly.1
  have hrsp : u.rsp r.val = s.rsp r.val := by
    unfold State.rsp
    rw [State.rd, honly.2 _ ?_]
    · rfl
    · have hb := s.ribbonBase_high r.val
      have hr := r.isLt
      simp only [b, List.mem_singleton, Fld.at, F.RMAP_RSP, F.EVT_PEND, DEV]
      omega
  have hbase : u.seqBase (32 + r.val) = b := by rw [State.seqBase_s, hrsp]
  have hrib : u.ribAt r.val = s.ribAt r.val := (congrArg (fun x => State.ribAt x r.val) hframe :)
  refine ⟨fun i hlo hi => ?_, fun h => ?_, fun hv h0 h1 hcause => ?_⟩
  · rw [ht, ← hbits i hi]
    have hkeep := (keepsClasses_releaseRecord u r).2 i hlo hi
    rwa [hrsp] at hkeep
  · have hheld : t = u := by
      refine ht.trans (State.releaseRecord_held ?_)
      rw [hrib, hbase]
      refine h.imp id fun h hclear => ?_
      have h4 : ∀ i < 2, bitAt (u.rd F.EVT_PEND b) i = false := fun i hi => by
        simp only [bitAt, beq_eq_false_iff_ne]
        interval_cases i <;> omega
      rw [← hbits 0 (by decide), ← hbits 1 (by decide), h4 0 (by decide), h4 1 (by decide)] at h
      simp at h
    rw [hheld]
    exact ⟨honly, fun i hi => hbits i (by omega)⟩
  · have hclear : u.rd F.EVT_PEND b % 4 = 0 := low_clear ((hbits 0 (by decide)).trans h0) ((hbits 1 (by decide)).trans h1)
    have hfree : t = u.modRib r.val (fun x => { x with rvalid := false }) :=
      ht.trans (State.releaseRecord_free (by rw [hrib]; exact hv) (by rw [hbase]; exact hclear) fun i hi => by rw [hframe]; exact hcause i hi)
    rw [hfree]
    exact ⟨by rw [State.ribAt_modRib_same], hclear⟩

/-- Settles O14, with an inversion for each of the five commands. -/
theorem eventsAndTriggers : Obligations.EventsAndTriggers := by
  unfold Obligations.EventsAndTriggers
  refine ⟨⟨?reply, ?head, ?patch, ?ribbon⟩, fun k pd line bound s => ?triggers⟩
  case reply => exact fun h v s hup hfr => ⟨_, act_next (by simp [hup, hfr]), writeReply s (Proc.key h) _ v⟩
  case head =>
    intro m v s hup hfr
    have hword : (v.setWidth 32).setWidth 16 = v := by simp
    have hexec : exec (.evtPendClear (.m m) v) s = .next (s.modProcAt 0 (fun x => { x with evWord := x.evWord &&& ~~~((v.setWidth 32).setWidth 16) })) :=
      act_next (by simp [hup, Proc.key, hfr])
    refine ⟨_, hexec, OnlyProc.ofMod s 0 _, ?_⟩
    rw [State.procAt_modSame, hword]
  case patch =>
    intro k v s hup hfr _
    have hexec : exec (.evtPendClear (.p k) v) s = .next (s.mergeWrite (F.EVT_PEND.at (s.pb k.val) 0 0) (v.setWidth 32) 15) :=
      (act_next (by simp [hup, Proc.key, hfr])).trans (congrArg Host.Outcome.next (s.clearEvents_p k _))
    exact ⟨_, hexec, s.onlyRegs_mergeWrite _ _ _, fun i hi => State.bitAt_clearEvtPend (s.hasEvents_patch k.val) s v hi⟩
  case ribbon => exact fun r v s hup hfr => ⟨_, act_next (by simp [hup, Proc.key, hfr]), clearRibbon s r v⟩
  case triggers =>
    intro key w u
    refine ⟨fun hw hmask => ?_, fun hw hmask => ?_, fun hw hraised => ?_, fun hw hnone h0 => ?_, fun hw hnone h0 => ?_, fun q hup hfr hq => ?_⟩
    · have hexec : exec (.trig k line) s = .next ((u.raiseLine 1 line.val).retire key 1) := act_next hw
      have hframe := raisedOnly_raiseAs u 1 line.val ⟨u.now, u.off, 1, u.devnum, false⟩
      have hraised : (u.raiseLine 1 line.val).trig.raise? line.val = _ :=
        (congrArg (fun x => Tab.get (fun _ => none) x line.val) (State.raised_raiseAs hmask)).trans (u.raise?_noteRaise line.val _)
      refine ⟨_, hexec, fun hnone => ?_, fun q hq hat => ?_, ?_, ?_, ?_⟩
      · refine hraised.trans ?_
        rw [show u.trig.raise? line.val = none from hnone]
        rfl
      · refine hraised.trans ?_
        rw [show u.trig.raise? line.val = some q from hq]
        simp [Nat.not_lt.2 hat]
      · exact (congrArg State.off hframe :)
      · exact (congrArg State.regs hframe :)
      · exact (congrArg State.banks hframe :)
    · have hstill : u.raiseLine 1 line.val = u := if_neg (Bool.eq_false_iff.1 hmask)
      have hexec : exec (.trig k line) s = .next (u.retire key 1) :=
        (act_next hw).trans (congrArg (fun x : State => Host.Outcome.next (x.retire key 1)) hstill)
      exact ⟨_, hexec, rfl, (OnlyProc.refl u key).retire 1⟩
    · refine exec_writesP_of_graov (h := .p k) ?_ hw
      exact congrArg (graov (.p k) w 1 s) (if_pos hraised)
    · refine exec_writesP_of_graov (h := .p k) ?_ hw
      exact congrArg (graov (.p k) w 1 s) ((if_neg (by simp [hnone])).trans (if_pos (by simp [h0])))
    · have hbound : bound.toNat ≠ 0 := fun h => h0 (BitVec.eq_of_toNat_eq h)
      have hexec : exec (.waitt k pd line bound) s = .next ((s.modProcAt key (fun x =>
          { x with wait := some { pd := pd.toNat, line := line.val, from_ := x.cycle, bound := bound.toNat } })).retire key 1) :=
        exec_eq_next_of_graov (h := .p k) (congrArg (graov (.p k) w 1 s) ((if_neg (by simp [hnone])).trans (if_neg hbound))) hw
      refine ⟨_, hexec, (OnlyProc.ofMod s key _).retire 1, ?_⟩
      rw [State.retire_eq, State.procAt_modSame, State.procAt_modSame]
      rfl
    · have hexec : exec (.waittTimeout k) s = .next ((( s.tick (2 * (q.from_ + 1 + q.bound))).setP key q.pd false).modProcAt key
          (fun x => { x with wait := none, cycle := q.from_ + 1 + q.bound })) :=
        actOn_some ((if_pos ⟨hup, by simp [key] at hfr; simp [hfr]⟩).trans hq)
      refine ⟨_, hexec, ?_, ?_, ?_, ?_⟩
      · rw [State.procAt_modSame]
      · unfold State.setP State.p
        split
        · rfl
        · rw [State.procAt_modSame, State.procAt_modSame]
          exact Tab.get_put_same _ _ _ _
      · rw [State.procAt_modSame]
      · unfold State.setP
        split
        · exact OnlyProc.ofMod _ _ _
        · exact (OnlyProc.ofMod _ _ _).mod _

end Sys2Proof.Machine

/-! ## O16: the vector group -/

namespace Sys2Proof.Machine

/-! What writes of lanes, of registers and the end of an instruction show. -/

theorem State.v_retire (s : State) (key c r i : Nat) : (s.retire key c).v key r i = s.v key r i := by
  unfold State.v
  rw [State.retire_eq, State.procAt_modSame, State.bank_modProcAt]
  rfl

theorem State.g_retire (s : State) (key c r : Nat) : (s.retire key c).g key r = s.g key r := by
  unfold State.g
  rw [State.retire_eq, State.procAt_modSame, State.bank_modProcAt]
  rfl

theorem State.g_setG (s : State) (key r q : Nat) (v : W64) : (s.setG key r v).g key q = if q = 0 then 0 else if q = r then v else s.g key q := by
  by_cases hr : r = 0
  · rw [State.setG, if_pos hr]
    split
    · next hq => exact if_pos hq
    · next hq => rw [if_neg (fun h => hq (h.trans hr))]
  · rw [State.setG, if_neg hr, State.g]
    split
    · rfl
    · next hq =>
      rw [State.bank_modProcAt, State.procAt_modSame]
      split
      · next h => rw [h]; exact Tab.get_put_same _ _ _ _
      · next h => rw [State.g, if_neg hq]; exact Tab.get_put_other _ _ _ (by omega)

theorem State.v_setG (s : State) (key r q i : Nat) (v : W64) : (s.setG key r v).v key q i = s.v key q i := by
  unfold State.setG State.v
  split
  · rfl
  · rw [State.bank_modProcAt, State.procAt_modSame]

theorem State.g_setV (s : State) (key r i q : Nat) (v : BitVec 48) : (s.setV key r i v).g key q = s.g key q := by
  unfold State.setV State.g
  rw [State.bank_modProcAt, State.procAt_modSame]

theorem State.v_setV (s : State) (key r q : Nat) {i j : Nat} (hi : i < 8) (hj : j < 8) (v : BitVec 48) :
    (s.setV key r i v).v key q j = if q = r ∧ j = i then v else s.v key q j := by
  unfold State.setV State.v
  rw [State.bank_modProcAt, State.procAt_modSame]
  split
  · next h => rw [h.1, h.2]; exact Tab.get_put_same _ _ _ _
  · exact Tab.get_put_other _ _ _ (by omega)

theorem OnlyProc.setG {s t : State} {key : Nat} (h : OnlyProc key s t) (r : Nat) (v : W64) : OnlyProc key s (t.setG key r v) := by
  unfold State.setG
  split
  · exact h
  · exact h.mod _

/-- What writes of some lanes of an accumulator do, one lane after the other. -/
theorem setLanes (key r : Nat) (f : Nat → BitVec 48) (l : List Nat) (hl : ∀ i ∈ l, i < 8) (s : State) :
    let t := forEach (fun i s => s.setV key r i (f i)) l s
    OnlyProc key s t ∧ (∀ q j, j < 8 → t.v key q j = if q = r ∧ j ∈ l then f j else s.v key q j) ∧ ∀ q, t.g key q = s.g key q := by
  induction l generalizing s with
  | nil => exact ⟨.refl s key, fun q j _ => (if_neg (by simp)).symm, fun q => rfl⟩
  | cons i l ih =>
    obtain ⟨honly, hv, hg⟩ := ih (fun j hj => hl j (List.mem_cons_of_mem i hj)) (s.setV key r i (f i))
    have hone : OnlyProc key s (s.setV key r i (f i)) := .ofMod _ _ _
    refine ⟨⟨honly.1.trans rfl, fun k hk => (honly.2 k hk).trans (hone.2 k hk)⟩, fun q j hj => ?_, fun q => (hg q).trans (s.g_setV ..)⟩
    refine (hv q j hj).trans ?_
    rw [State.v_setV s key r q (hl i List.mem_cons_self) hj]
    by_cases hq : q = r
    · by_cases hji : j = i
      · simp [hq, hji]
      · simp [hq, hji]
    · simp [hq]

/-- An instruction that writes every lane of an accumulator. -/
theorem setsLanes {c : Instr} {r : Ribbon} {w : W32} {s : State} {vd : Nat} {f : Nat → BitVec 48}
    (hc : exec c s = graov (.s r) w 1 s (s.setVs (32 + r.val) vd f)) (hw : s.issues (.s r) w = true) :
    ∃ t, exec c s = .next t ∧ OnlyProc (32 + r.val) s t ∧ (∀ i, i < 8 → t.v (32 + r.val) vd i = f i)
      ∧ (∀ q i, q < 8 → i < 8 → q ≠ vd → t.v (32 + r.val) q i = s.v (32 + r.val) q i) ∧ ∀ q, t.g (32 + r.val) q = s.g (32 + r.val) q := by
  obtain ⟨honly, hv, hg⟩ := setLanes (32 + r.val) vd f (List.range 8) (fun i hi => List.mem_range.1 hi) s
  refine ⟨_, exec_eq_next_of_graov hc hw, honly.retire 1, fun i hi => ?_, fun q i _ hi hq => ?_, fun q => ?_⟩
  · exact (State.v_retire _ _ _ _ _).trans ((hv vd i hi).trans (if_pos ⟨rfl, List.mem_range.2 hi⟩))
  · exact (State.v_retire _ _ _ _ _).trans ((hv q i hi).trans (if_neg fun h => hq h.1))
  · exact (State.g_retire _ _ _ _).trans (hg q)

/-! Halfword vectors. -/

theorem toSigned_mod (v : Nat) : toSigned 16 (v % 2 ^ 16) = toSigned 16 v := by
  unfold toSigned
  rw [Nat.mod_mod]

theorem ofSigned_lt (v : Int) : ofSigned 16 v < 2 ^ 16 := by
  unfold ofSigned
  omega

theorem half_halves (f : Nat → Int) (b : Nat) {j : Nat} (hj : j < 4) :
    toSigned 16 ((halves f b).toNat / 2 ^ (16 * j)) = toSigned 16 (ofSigned 16 (f (b + j))) := by
  have h0 := ofSigned_lt (f b)
  have h1 := ofSigned_lt (f (b + 1))
  have h2 := ofSigned_lt (f (b + 2))
  have h3 := ofSigned_lt (f (b + 3))
  have hsum : (halves f b).toNat
      = ofSigned 16 (f b) + 2 ^ 16 * ofSigned 16 (f (b + 1)) + 2 ^ 32 * ofSigned 16 (f (b + 2)) + 2 ^ 48 * ofSigned 16 (f (b + 3)) := by
    rw [halves, BitVec.toNat_ofNat]
    exact Nat.mod_eq_of_lt (by omega)
  have hword : (halves f b).toNat / 2 ^ (16 * j) % 2 ^ 16 = ofSigned 16 (f (b + j)) := by
    rw [hsum]
    match j, hj with
    | 0, _ => rw [Nat.add_zero b]; omega
    | 1, _ => omega
    | 2, _ => omega
    | 3, _ => omega
  rw [← toSigned_mod, hword]

/-- An instruction that writes a halfword vector into a register pair, of which g0 discards its half. -/
theorem packsHalves {c : Instr} {r : Ribbon} {w : W32} {s : State} {gd : BitVec 5} {f : Nat → Int}
    (hc : exec c s = graov (.s r) w 1 s (s.setHalves (32 + r.val) gd.toNat f)) (hw : s.issues (.s r) w = true) :
    ∃ t, exec c s = .next t ∧ OnlyProc (32 + r.val) s t
      ∧ (∀ i, i < 8 → t.half (32 + r.val) gd.toNat i = if gd.toNat / 2 * 2 = 0 ∧ i < 4 then 0 else toSigned 16 (ofSigned 16 (f i)))
      ∧ (∀ q, q < 32 → q ≠ gd.toNat / 2 * 2 → q ≠ gd.toNat / 2 * 2 + 1 → t.g (32 + r.val) q = s.g (32 + r.val) q)
      ∧ ∀ q i, t.v (32 + r.val) q i = s.v (32 + r.val) q i := by
  let key := 32 + r.val
  let p := gd.toNat / 2 * 2
  have hg : ∀ q, ((s.setHalves key gd.toNat f).retire key 1).g key q
      = if q = 0 then 0 else if q = p + 1 then halves f 4 else if q = p then halves f 0 else s.g key q := fun q => by
    rw [State.g_retire, State.setHalves, State.g_setG, State.g_setG]
    by_cases hq : q = 0
    · simp [hq]
    · rw [if_neg hq, if_neg hq, if_neg hq]
  refine ⟨_, exec_eq_next_of_graov hc hw, ?_, fun i hi => ?_, fun q _ hlo hhi => ?_, fun q i => ?_⟩
  · exact (((OnlyProc.refl s key).setG _ _).setG _ _).retire 1
  · unfold State.half
    refine (congrArg (fun x : W64 => toSigned 16 (x.toNat / 2 ^ (16 * (i % 4)))) (hg (p + i / 4))).trans ?_
    by_cases hhigh : i < 4
    · have hi4 : i / 4 = 0 := by omega
      rw [hi4, Nat.add_zero, if_neg (show ¬ p = p + 1 by omega), if_pos rfl]
      by_cases hp : p = 0
      · rw [if_pos hp, if_pos ⟨hp, hhigh⟩]
        simp [toSigned]
      · rw [if_neg hp, if_neg fun h => hp h.1, half_halves f 0 (by omega), Nat.zero_add, Nat.mod_eq_of_lt hhigh]
    · have hi4 : i / 4 = 1 := by omega
      rw [hi4, if_neg (show ¬ p + 1 = 0 by omega), if_pos rfl, if_neg fun h => hhigh h.2, half_halves f 4 (by omega),
        show 4 + i % 4 = i by omega]
  · refine (hg q).trans ?_
    rw [if_neg hhi, if_neg hlo]
    split
    · next hq => exact (if_pos hq).symm
    · rfl
  · exact (State.v_retire _ _ _ _ _).trans ((State.v_setG _ _ _ _ _ _).trans (State.v_setG _ _ _ _ _ _))

/-! The smallest lane in modular order (R150). -/

theorem before48_iff {x y : BitVec 48} (hx : x.toNat < 2 ^ 46) (hy : y.toNat < 2 ^ 46) : before48 x y = true ↔ x.toNat < y.toNat := by
  unfold before48
  rw [BitVec.msb_eq_decide, decide_eq_true_iff, BitVec.toNat_sub]
  omega

theorem vminIndex_succ (s : State) (key vs n : Nat) : vminIndex s key vs (n + 1)
    = if before48 (s.v key vs n) (s.v key vs (vminIndex s key vs n)) then n else vminIndex s key vs n := by
  unfold vminIndex
  rw [List.range_succ, List.foldl_append]
  rfl

theorem vminIndex_lt (s : State) (key vs n : Nat) : vminIndex s key vs n < max n 1 := by
  induction n with
  | zero => exact Nat.one_pos
  | succ n ih =>
    rw [vminIndex_succ]
    split <;> omega

theorem vminIndex_least (s : State) (key vs n : Nat) (hsmall : ∀ i, i < n → (s.v key vs i).toNat < 2 ^ 46) :
    (∀ i, i < n → (s.v key vs (vminIndex s key vs n)).toNat ≤ (s.v key vs i).toNat)
      ∧ ∀ i, i < vminIndex s key vs n → (s.v key vs (vminIndex s key vs n)).toNat < (s.v key vs i).toNat := by
  induction n with
  | zero => exact ⟨fun i hi => absurd hi (Nat.not_lt_zero i), fun i hi => absurd hi (Nat.not_lt_zero i)⟩
  | succ n ih =>
    obtain ⟨hle, hlt⟩ := ih fun i hi => hsmall i (hi.trans n.lt_succ_self)
    have hbound := vminIndex_lt s key vs n
    have hiff := before48_iff (hsmall n n.lt_succ_self) (hsmall (vminIndex s key vs n) (by omega))
    rw [vminIndex_succ]
    split
    · next h =>
      have hless := hiff.1 h
      refine ⟨fun i hi => ?_, fun i hi => hless.trans_le (hle i hi)⟩
      rcases Nat.lt_succ_iff_lt_or_eq.1 hi with hi | rfl
      · exact hless.le.trans (hle i hi)
      · exact le_rfl
    · next h =>
      refine ⟨fun i hi => ?_, hlt⟩
      rcases Nat.lt_succ_iff_lt_or_eq.1 hi with hi | rfl
      · exact hle i hi
      · exact Nat.not_lt.1 fun hless => h (hiff.2 hless)

/-- Settles O16, by what the two forms of a vector write show, and the fold of vmin. -/
theorem vectorOperations : Obligations.VectorOperations := by
  unfold Obligations.VectorOperations
  refine ⟨fun r vd vs gd ra rb x s => ⟨?clear, ?write, ?read, ?pack, ?add, ?sub, ?spread, ?delay⟩, fun r gd vs x s hw => ?least⟩
  case clear => exact fun hw => setsLanes rfl hw
  case write =>
    intro hw
    let key := 32 + r.val
    have hexec : exec (.vwr r vd ra x) s = .next ((s.setV key vd.toNat (min x.toNat 7) ((s.g key ra.toNat).setWidth 48)).retire key 1) :=
      exec_eq_next_of_graov (h := .s r) rfl hw
    have hlane : min x.toNat 7 < 8 := by omega
    refine ⟨_, hexec, (OnlyProc.ofMod _ _ _).retire 1, fun i hi => ?_, fun q i _ hi hq => ?_, fun q => ?_⟩
    · rw [State.v_retire, State.v_setV _ _ _ _ hlane hi]
      simp only [true_and, BitVec.ofNat_toNat]
      rfl
    · rw [State.v_retire, State.v_setV _ _ _ _ hlane hi, if_neg fun h => hq h.1]
    · exact (State.g_retire _ _ _ _).trans (State.g_setV _ _ _ _ _ _)
  case read => exact fun hw => exec_writesG_of_graov (h := .s r) rfl hw
  case pack => exact fun hw => packsHalves rfl hw
  case add => exact fun hw => packsHalves rfl hw
  case sub => exact fun hw => packsHalves rfl hw
  case spread => exact fun hw => packsHalves rfl hw
  case delay => exact fun hw => packsHalves rfl hw
  case least =>
    intro key n
    have hn : 1 ≤ n := by
      dsimp only [n]
      split <;> decide
    obtain ⟨t, ht, hwrites⟩ := exec_writesG_of_graov (c := .vmin r gd vs x) (h := .s r) rfl hw
    refine ⟨t, vminIndex s key vs.toNat n, ht, hwrites, ?_, fun hsmall => vminIndex_least s key vs.toNat n fun i hi => (hsmall i i hi hi).1⟩
    exact (vminIndex_lt s key vs.toNat n).trans_le (by omega)

end Sys2Proof.Machine

/-! ## O25: the stitch counter, and what the fabric's clock leaves -/

namespace Sys2Proof.Machine

/-! The fabric of a patch runs: it changes its own state, registers of PATCH blocks, the processors and the events that wait. -/

/-- A word below the PATCH blocks. -/
def belowPatches (a : Nat) : Prop := a < 0x20000

/-- The fabric has run from `s` to `t`. -/
def RanFabric (s t : State) : Prop :=
  t = { s with regs := t.regs, fabs := t.fabs, procs := t.procs, evq := t.evq, off := t.off, fresh := t.fresh } ∧ SameRegs belowPatches s t

theorem RanFabric.refl (s : State) : RanFabric s s := ⟨rfl, .refl _ s⟩

theorem RanFabric.of_fields {s t : State} (h : RanFabric s t) (fabs : Tab FabSt) (procs : Tab ProcSt) (evq : List EvRec) (off fresh : Nat) :
    RanFabric s { t with fabs := fabs, procs := procs, evq := evq, off := off, fresh := fresh } := by
  refine ⟨?_, h.2.of_regs rfl⟩
  rw [h.1]

theorem RanFabric.wr {s t : State} (h : RanFabric s t) {f : Fld} {base i j : Nat} (hb : 0x20000 ≤ base) (v : Nat) :
    RanFabric s (t.wr f base v i j) := by
  refine ⟨?_, h.2.wr ?_ v⟩
  · generalize hr : (t.wr f base v i j).regs = r
    have hframe : t.wr f base v i j = { t with regs := r } := by rw [← hr]; rfl
    rw [hframe, h.1]
  · simp only [belowPatches, Fld.at]
    omega

theorem RanFabric.modProcAt {s t : State} (h : RanFabric s t) (key : Nat) (f : ProcSt → ProcSt) : RanFabric s (t.modProcAt key f) :=
  h.of_fields t.fabs (t.procs.put key (f (t.procAt key))) t.evq t.off t.fresh

theorem RanFabric.setFab {s t : State} (h : RanFabric s t) (k : Nat) (x : FabSt) : RanFabric s (t.setFab k x) :=
  h.of_fields (t.fabs.put k x) t.procs t.evq t.off t.fresh

theorem RanFabric.event {s t : State} (h : RanFabric s t) (e : EvCode) (block inst : Nat) (args : List Nat) (st : Status) :
    RanFabric s (t.event e block inst args st) := by
  unfold State.event
  split
  · exact h
  · exact h.of_fields t.fabs t.procs _ t.off t.fresh

theorem State.pb_high (s : State) (k : Nat) : 0x20000 ≤ s.pb k := Nat.le_add_right 0x20000 _

theorem State.seqBase_high (s : State) {k : Nat} (hk : k < 16) : 0x20000 ≤ s.seqBase (16 + k) := by
  unfold State.seqBase
  rw [if_neg (by omega), if_pos (by omega)]
  exact s.pb_high _

theorem RanFabric.beginProgram {s t : State} (h : RanFabric s t) (key c : Nat) : RanFabric s (t.beginProgram key c) := by
  unfold State.beginProgram
  exact h.modProcAt key _

theorem RanFabric.switchBank {s t : State} (h : RanFabric s t) {k : Nat} (hk : k < 16) : RanFabric s (t.switchBank (16 + k)) := by
  have hb := t.seqBase_high hk
  unfold State.switchBank
  dsimp only
  have hsel := ((h.wr (f := F.BANK) (i := 0) (j := 0) hb 1).wr (f := F.ABANDON) (i := 0) (j := 0) hb
    (satAdd F.ABANDON.max ((t.wr F.BANK (t.seqBase (16 + k)) 1).rd F.ABANDON (t.seqBase (16 + k))) 1)).modProcAt (16 + k)
  split
  · exact (hsel _).beginProgram _ _
  · exact hsel _

theorem RanFabric.raiseP {s t : State} (h : RanFabric s t) {k : Nat} (hk : k < 16) (cls : Nat) : RanFabric s (t.raiseP k cls) := by
  have hb := t.seqBase_high hk
  have hpend : RanFabric s (if bitAt (t.rd F.EVT_PEND (t.seqBase (16 + k))) cls then t
      else t.wr F.EVT_PEND (t.seqBase (16 + k)) (t.rd F.EVT_PEND (t.seqBase (16 + k)) + 2 ^ cls)) := by
    split
    · exact h
    · exact h.wr hb _
  unfold State.raiseP State.raiseProc
  dsimp only
  split
  · split
    · exact hpend.switchBank hk
    · exact hpend
  · exact h

theorem RanFabric.logContention {s t : State} (h : RanFabric s t) (k half line st : Nat) : RanFabric s (t.logContention k half line st) := by
  have hb := t.pb_high k
  unfold State.logContention State.bump
  dsimp only
  split
  · exact ((h.wr hb _).wr hb _).wr hb _
  · split
    · exact (((((((h.wr hb _).wr hb _).wr hb _).wr hb _).wr hb _).wr hb _).setFab _ _)
    · exact (((((((h.wr hb _).wr hb _).wr hb _).wr hb _).wr hb _).wr hb _).setFab _ _)

theorem RanFabric.contend {s t : State} (h : RanFabric s t) {k : Nat} (hk : k < 16) (half : Bool) (line : Nat) :
    RanFabric s (t.contend k half line) := by
  unfold State.contend State.showLines
  exact ((((h.logContention _ _ _ _).setFab _ _).wr (State.pb_high _ _) _).event _ _ _ _ _).raiseP hk 5

theorem RanFabric.showExchange {s t : State} (h : RanFabric s t) (k : Nat) : RanFabric s (t.showExchange k) :=
  (h.wr (t.pb_high k) _).wr (t.pb_high k) _

theorem RanFabric.fabricCycle {s t : State} (h : RanFabric s t) {k : Nat} (hk : k < 16) (j : Nat) : RanFabric s (t.fabricCycle k j) := by
  have hbus : RanFabric s (if (t.fabEnv k (t.time.run / 4 + j)).contended = [] then t
      else forEach (fun (l : Bool × Nat) s => s.contend k l.1 l.2) (t.fabEnv k (t.time.run / 4 + j)).contended (t.tick (4 * j)).took) := by
    split
    · exact h
    · exact forEach_induct (fun l u hu => hu.contend hk l.1 l.2) (h.of_fields t.fabs t.procs t.evq _ _)
  unfold State.fabricCycle
  dsimp only
  generalize (if (t.fabEnv k (t.time.run / 4 + j)).contended = [] then t
      else forEach (fun (l : Bool × Nat) s => s.contend k l.1 l.2) (t.fabEnv k (t.time.run / 4 + j)).contended (t.tick (4 * j)).took) = u at hbus ⊢
  split
  · exact (hbus.setFab k _).showExchange k
  · exact hbus.setFab k _

theorem RanFabric.clockTo {s t : State} (h : RanFabric s t) {k : Nat} (hk : k < 16) (n : Nat) : RanFabric s (t.clockTo k n) := by
  unfold State.clockTo
  dsimp only
  split
  · exact h
  · split
    · exact h.setFab k _
    · split
      · exact (h.setFab k _).showExchange k
      · exact (forEach_induct (P := RanFabric s) (fun j u hu => hu.fabricCycle hk j) h).setFab k _

theorem ranFabric_clockNow (s : State) {k : Nat} (hk : k < 16) : RanFabric s (s.clockNow k) := (RanFabric.refl s).clockTo hk _

theorem RanFabric.clockStitch {s t : State} (h : RanFabric s t) {k : Nat} (hk : k < 16) : RanFabric s (t.clockStitch k) := by
  unfold State.clockStitch
  dsimp only
  split
  · exact h.clockTo hk _
  · exact (h.clockTo hk _).setFab k _

theorem ranFabric_clockStitches (s : State) : RanFabric s (forN (fun k s => s.clockStitch k) 16 s) := by
  have h : ∀ n ≤ 16, RanFabric s (forN (fun k s => s.clockStitch k) n s) := fun n hn => by
    induction n with
    | zero => exact .refl s
    | succ n ih => exact (ih (by omega)).clockStitch (by omega)
  exact h 16 le_rfl

/-! The read of the counter (R59). -/

theorem State.peek_stitchLo {s : State} (hh : s.halted = false) : s.peek 0x110 = BitVec.ofNat 32 s.stitch.toNat := by
  unfold State.peek
  rw [show locate 0x110 = some (.dev, 0, 0x110) from rfl]
  dsimp only
  rw [if_neg (by simp [hh, State.silent]), if_neg (by simp), if_pos (by decide)]

theorem State.readEffects_stitchLo {s : State} (hh : s.halted = false) :
    s.readEffects 0x110 = (s.wr F.STITCH_HI DEV (s.stitch.toNat / 2 ^ 32)).wr F.OFFSET_NOW DEV s.off := by
  have hrc : (rowsAt .dev 0 0x110).filter (fun r => r.1.acc = .rc) = [] := by decide
  unfold State.readEffects
  rw [show locate 0x110 = some (.dev, 0, 0x110) from rfl]
  dsimp only
  rw [if_neg (by simp [hh, State.silent]), if_neg (by simp), if_pos hrc, if_neg (by simp [State.jackWrites])]
  simp [hiOf]

theorem stitchLoRead_shows (off : Nat) {s : State} (hh : s.halted = false) :
    ∃ t, exec (.stitchLoRead off) s = .next t ∧ t.resp = BitVec.ofNat 32 s.stitch.toNat
      ∧ t.reg (F.STITCH_HI.at DEV 0 0) = BitVec.ofNat 32 (s.stitch.toNat / 2 ^ 32) ∧ t.off = s.clampOff off
      ∧ t.rd F.OFFSET_NOW DEV = s.clampOff off % 8192 ∧ t = { s with regs := t.regs, off := t.off, resp := t.resp }
      ∧ ∀ a, a ∉ [F.STITCH_HI.at DEV 0 0, F.OFFSET_NOW.at DEV 0 0] → t.reg a = s.reg a := by
  let u := ((s.tick off).wr F.STITCH_HI DEV (s.stitch.toNat / 2 ^ 32)).wr F.OFFSET_NOW DEV (s.clampOff off)
  have hexec : exec (.stitchLoRead off) s = .next { u with resp := BitVec.ofNat 32 s.stitch.toNat } := by
    have heff := State.readEffects_stitchLo (s := s.tick off) hh
    have hpeek := State.peek_stitchLo (s := s.tick off) hh
    change Host.Outcome.next { (s.tick off).readEffects 0x110 with resp := (s.tick off).peek 0x110 } = _
    rw [heff, hpeek]
    rfl
  have hhi : u.reg (F.STITCH_HI.at DEV 0 0) = BitVec.ofNat 32 (s.stitch.toNat / 2 ^ 32) :=
    (State.reg_wr_other _ F.OFFSET_NOW DEV _ 0 0 (by decide)).trans (State.reg_wr_whole _ _ _ _ _ ⟨rfl, rfl⟩)
  refine ⟨_, hexec, rfl, hhi, rfl, ?_, rfl, fun a ha => ?_⟩
  · exact State.rd_wr_same _ _ _ _ _ _ (by decide) (by decide)
  · simp only [List.mem_cons, List.not_mem_nil, or_false, not_or] at ha
    exact (State.reg_wr_other _ F.OFFSET_NOW DEV _ 0 0 ha.2).trans (State.reg_wr_other _ F.STITCH_HI DEV _ 0 0 ha.1)

/-! The counter at a boundary (R55). -/

theorem advance_counts {s : State} (p : Nat) (hcount : s.time.counting = true) (hal : s.sys.align = none) (hep : s.sys.alignEpoch = none) :
    s.advance p = { s with stitch := s.stitch + 1, off := 0, time := { s.time with root := s.time.root + p, run := s.time.run + p } } := by
  unfold State.advance
  rw [if_neg (by simp [hcount]), hal]
  dsimp only
  rw [hep]

theorem advance_starts {s : State} (p : Nat) (hcount : s.time.counting = false) :
    (s.advance p).stitch = 0 ∧ (s.advance p).off = 0 ∧ (s.advance p).time.root = 0 ∧ (s.advance p).time.counting = true
      ∧ (s.advance p).rd F.EP_VALID DEV 0 = 1 ∧ (s.advance p).rd F.EP_NEWEST DEV = 0 ∧ (s.advance p).rd F.EP_N DEV 0 = s.rd F.STC_N_NOW DEV
      ∧ (s.advance p).reg (F.EP_STITCH_LO.at DEV 0 0) = 0 := by
  let u : State := { s with
    stitch := 0, off := 0
    time := { s.time with root := 0, run := s.rootNow, since := 0, before := s.period, counting := true } }
  have hstart : s.advance p = u.epochEntry 0 0 0 (s.rd F.STC_N_NOW DEV) := by
    unfold State.advance
    exact if_pos (by simp [hcount])
  obtain ⟨hnewest, hvalid, hn, hlo, -⟩ := epochEntry_shows u 0 0 0 (s.rd F.STC_N_NOW DEV)
  rw [hstart]
  exact ⟨rfl, rfl, rfl, rfl, hvalid, hnewest, hn.trans (Nat.mod_eq_of_lt (s.rd_lt _ _ _ _)), hlo⟩

/-- Clearing of programs whose worst case is over a budget leaves the time and the system's state. -/
theorem State.unloadOver_frame (s : State) (b : Nat) :
    (s.unloadOver b).stitch = s.stitch ∧ (s.unloadOver b).off = s.off ∧ (s.unloadOver b).time = s.time ∧ (s.unloadOver b).sys = s.sys := by
  have h := programsOnly_unloadOver s b
  generalize s.unloadOver b = t at h ⊢
  rw [h]
  exact ⟨rfl, rfl, rfl, rfl⟩

theorem State.takePeriod_frame (s : State) (n : Nat) (at_ : W64) :
    (s.takePeriod n at_).stitch = s.stitch ∧ (s.takePeriod n at_).off = s.off ∧ (s.takePeriod n at_).time.root = s.time.root
      ∧ (s.takePeriod n at_).sys.align = s.sys.align ∧ (s.takePeriod n at_).sys.resetAt = s.sys.resetAt := by
  unfold State.takePeriod
  dsimp only
  split
  · exact ⟨rfl, rfl, rfl, rfl, rfl⟩
  · split <;> exact ⟨rfl, rfl, rfl, rfl, rfl⟩

theorem State.takeAlign_shows (s : State) (a : AlignSt) :
    (s.takeAlign a).stitch = a.stitch ∧ (s.takeAlign a).off = 0 ∧ (s.takeAlign a).time.root = a.root ∧ (s.takeAlign a).sys.align = none
      ∧ (s.takeAlign a).sys.resetAt = s.sys.resetAt := by
  have hwr : (forN (fun e s => ((((((s.wr F.EP_STITCH_LO DEV 0 e).wr F.EP_STITCH_HI DEV 0 e).wr F.EP_ROOT_LO DEV 0 e).wr
      F.EP_ROOT_HI DEV 0 e).wr F.EP_N DEV 0 e).wr F.EP_VALID DEV 0 e)) 8 s).sys = s.sys :=
    forN_unchanged State.sys s fun _ _ _ => rfl
  unfold State.takeAlign
  dsimp only
  generalize forN (fun e s => ((((((s.wr F.EP_STITCH_LO DEV 0 e).wr F.EP_STITCH_HI DEV 0 e).wr F.EP_ROOT_LO DEV 0 e).wr
      F.EP_ROOT_HI DEV 0 e).wr F.EP_N DEV 0 e).wr F.EP_VALID DEV 0 e)) 8 s = u at hwr ⊢
  have hreset : u.sys.resetAt = s.sys.resetAt := by rw [hwr]
  obtain ⟨h1, h2, h3, h4⟩ := State.unloadOver_frame _ (budget a.n)
  rw [h1, h2, h3, h4]
  split
  · split
    · obtain ⟨g1, g2, g3, g4, g5⟩ := State.takePeriod_frame _ _ _
      rw [g1, g2, g3, g4, g5]
      exact ⟨rfl, rfl, rfl, rfl, hreset⟩
    · exact ⟨rfl, rfl, rfl, rfl, hreset⟩
  · exact ⟨rfl, rfl, rfl, rfl, hreset⟩

theorem advance_of_align {s : State} (p : Nat) {a : AlignSt} (hcount : s.time.counting = true) (hal : s.sys.align = some a) :
    s.advance p = s.takeAlign a := by
  unfold State.advance
  rw [if_neg (by simp [hcount]), hal]

theorem advance_aligns {s : State} (p : Nat) {a : AlignSt} (hcount : s.time.counting = true) (hal : s.sys.align = some a) :
    (s.advance p).stitch = a.stitch ∧ (s.advance p).off = 0 ∧ (s.advance p).time.root = a.root ∧ (s.advance p).sys.align = none := by
  rw [advance_of_align p hcount hal]
  obtain ⟨h1, h2, h3, h4, -⟩ := s.takeAlign_shows a
  exact ⟨h1, h2, h3, h4⟩

/-- What opens the next stitch is the time and what the system's root has announced. -/
theorem stitch_advance {s t : State} (p : Nat) (htime : t.time = s.time) (hsys : t.sys = s.sys) (hst : t.stitch = s.stitch) :
    (t.advance p).stitch = (s.advance p).stitch := by
  by_cases hcount : s.time.counting = false
  · rw [(advance_starts p hcount).1, (advance_starts (s := t) p (htime ▸ hcount)).1]
  · have hcount : s.time.counting = true := by simpa using hcount
    cases hal : s.sys.align with
    | some a => rw [(advance_aligns p hcount hal).1, (advance_aligns (s := t) p (htime ▸ hcount) (hsys ▸ hal)).1]
    | none =>
      have hnext : ∀ u : State, u.time.counting = true → u.sys.align = none → (u.advance p).stitch = u.stitch + 1 := fun u hc ha => by
        unfold State.advance
        rw [if_neg (by simp [hc]), ha]
        dsimp only
        split <;> rfl
      rw [hnext s hcount hal, hnext t (htime ▸ hcount) (hsys ▸ hal), hst]

theorem State.resetAt_advance (s : State) (p : Nat) : (s.advance p).sys.resetAt = s.sys.resetAt := by
  by_cases hcount : s.time.counting = true
  · cases hal : s.sys.align with
    | some a => rw [advance_of_align p hcount hal]; exact (s.takeAlign_shows a).2.2.2.2
    | none =>
      unfold State.advance
      rw [if_neg (by simp [hcount]), hal]
      dsimp only
      split <;> rfl
  · unfold State.advance
    rw [if_pos hcount]
    rfl

theorem stitchBoundary_counts {s : State} (hlock : s.clk.locked = true) (hreset : s.sys.resetAt = none) :
    ∃ t, exec .stitchBoundary s = .next t ∧ t.stitch = (s.advance s.period).stitch := by
  let u := forN (fun k s => s.clockStitch k) 16 s
  let s1 := (u.advance s.period).flagBoundary
  have hran := (ranFabric_clockStitches s).1
  have hsys : u.sys = s.sys := (congrArg State.sys hran :)
  have hstitch : s1.stitch = (s.advance s.period).stitch :=
    stitch_advance (t := u) s.period (congrArg State.time hran :) hsys (congrArg State.stitch hran :)
  have hnone : s1.sys.resetAt = none :=
    (u.resetAt_advance s.period).trans ((congrArg SysSt.resetAt hsys).trans hreset)
  have hexec : exec .stitchBoundary s = .next (if (match s1.sys.resetAt with | some b => s1.reached b | none => false) = true then s1.fullReset 3
      else if s1.halted then s1.hostBoundary else s1.runBoundary s.period) := act_next hlock
  rw [hnone, if_neg Bool.false_ne_true] at hexec
  refine ⟨_, hexec, Eq.trans ?_ hstitch⟩
  split
  · exact (State.hostBoundary_keeps (Keeps.refl s1)).2.1
  · exact (State.runBoundary_keeps (Keeps.refl s1)).2.1

/-- Settles O25: the counter's own operation by its three cases, and a boundary as that operation and what keeps its number. -/
theorem stitchCounter : Obligations.StitchCounter := by
  unfold Obligations.StitchCounter
  exact ⟨fun off s hh => stitchLoRead_shows off hh, fun p s hc ha he => advance_counts p hc ha he, fun p s hc => advance_starts p hc,
    fun p s a hc ha => advance_aligns p hc ha, fun s hlock hreset => stitchBoundary_counts hlock hreset⟩

end Sys2Proof.Machine

/-! ## O29: the exchange network and the fabric's transmit port -/

namespace Sys2Proof.Machine

@[simp] theorem State.fabAt_setFab_same (s : State) (k : Nat) (x : FabSt) : (s.setFab k x).fabAt k = x := Tab.get_put_same _ _ _ _

theorem State.fabAt_setFab_other (s : State) {k m : Nat} (h : m ≠ k) (x : FabSt) : (s.setFab k x).fabAt m = s.fabAt m :=
  Tab.get_put_other _ _ _ h

theorem State.fabAt_setFab (s : State) (k m : Nat) (x : FabSt) : (s.setFab k x).fabAt m = if m = k then x else s.fabAt m := by
  split
  · next h => rw [h]; exact s.fabAt_setFab_same k x
  · next h => exact s.fabAt_setFab_other h x

@[simp] theorem State.laneAt_modLane_same (s : State) (l : Nat) (f : LaneSt → LaneSt) : (s.modLane l f).laneAt l = f (s.laneAt l) :=
  Tab.get_put_same _ _ _ _

theorem State.laneAt_modLane_other (s : State) {l m : Nat} (h : m ≠ l) (f : LaneSt → LaneSt) : (s.modLane l f).laneAt m = s.laneAt m :=
  Tab.get_put_other _ _ _ h

@[simp] theorem State.fabAt_wr (s : State) (f : Fld) (base v i j m : Nat) : (s.wr f base v i j).fabAt m = s.fabAt m := rfl

@[simp] theorem State.fabAt_showExchange (s : State) (k m : Nat) : (s.showExchange k).fabAt m = s.fabAt m := rfl

/-- Nothing but registers and fabrics differs, and no register below the PATCH blocks. -/
def FabsOnly (s t : State) : Prop := t = { s with regs := t.regs, fabs := t.fabs } ∧ SameRegs belowPatches s t

theorem FabsOnly.refl (s : State) : FabsOnly s s := ⟨rfl, .refl _ s⟩

theorem FabsOnly.setFab {s t : State} (h : FabsOnly s t) (k : Nat) (x : FabSt) : FabsOnly s (t.setFab k x) := by
  refine ⟨?_, h.2.of_regs rfl⟩
  unfold State.setFab
  rw [h.1]

theorem FabsOnly.wr {s t : State} (h : FabsOnly s t) {f : Fld} {base i j : Nat} (hb : 0x20000 ≤ base) (v : Nat) : FabsOnly s (t.wr f base v i j) := by
  refine ⟨?_, h.2.wr (by simp only [belowPatches, Fld.at]; omega) v⟩
  generalize hr : (t.wr f base v i j).regs = r
  have hframe : t.wr f base v i j = { t with regs := r } := by rw [← hr]; rfl
  rw [hframe, h.1]

theorem FabsOnly.showExchange {s t : State} (h : FabsOnly s t) (k : Nat) : FabsOnly s (t.showExchange k) := (h.wr (t.pb_high k) _).wr (t.pb_high k) _

theorem lpmPpos_low (k : LPatch) : belowPatches (F.LPM_PPOS.at DEV k.val 0) := by
  have hk := k.isLt
  simp only [belowPatches, Fld.at, F.LPM_PPOS, DEV]
  omega

/-- A position is told by a word below the PATCH blocks. -/
theorem State.pb_of_sameRegs {s t : State} (h : SameRegs belowPatches s t) (k : LPatch) : t.pb k.val = s.pb k.val := by
  unfold State.pb State.ppos
  rw [h.rd (lpmPpos_low k)]

/-! What the exchange registers of a patch show. -/

theorem State.rd_showExchange_tx (s : State) (k : Nat) : (s.showExchange k).rd F.XCH_TXQ (s.pb k) = (s.fabAt k).sending % 128 := by
  simp (disch := decide) only [State.showExchange, State.rd_wr_field, State.rd_wr_same]
  rfl

theorem State.pb_wr_patch (s : State) (f : Fld) (k j m : Nat) (hm : m < 16) (v i : Nat) : (s.wr f (s.pb k) v i j).pb m = s.pb m :=
  State.pb_of_sameRegs (k := ⟨m, hm⟩) ((FabsOnly.refl s).wr (s.pb_high k) v).2 

theorem State.rd_showExchange_rx (s : State) (k : LPatch) : (s.showExchange k.val).rd F.XCH_RXQ (s.pb k.val) = (s.fabAt k.val).recvQ.length % 128 := by
  have hpb : (s.wr F.XCH_TXQ (s.pb k.val) (s.fabAt k.val).sending).pb k.val = s.pb k.val := s.pb_wr_patch _ _ _ _ k.isLt _ _
  unfold State.showExchange
  exact State.rd_wr_same _ _ _ _ _ _ (by decide) (by decide)

theorem State.rd_showExchange (s : State) (k m : LPatch) {f : Fld} (hf : f.off = 0x300 ∧ 16 ≤ f.lo ∧ f.lo ≤ f.hi ∨ f.off ≠ 0x300 ∧ f.off < 0x1000) :
    (s.showExchange k.val).rd f (s.pb m.val) = s.rd f (s.pb m.val) := by
  have hother : ∀ (u : State) (g : Fld) (v : Nat), g.off = 0x300 → g.lo ≤ g.hi → g.hi < 16 →
      (u.wr g (s.pb k.val) v).rd f (s.pb m.val) = u.rd f (s.pb m.val) := fun u g v hoff hlo hhi => by
    rcases hf with ⟨-, hf, hle⟩ | ⟨hf, hlt⟩
    · exact State.rd_wr_field _ _ _ _ _ _ _ _ _ _ hlo (by omega) hle (.inr (by omega))
    · refine State.rd_wr_word _ _ _ _ _ _ _ _ _ _ ?_
      simp only [Fld.at, State.pb, PATCH, Nat.mul_zero, Nat.add_zero, hoff]
      omega
  exact (hother _ _ _ rfl (by decide) (by decide)).trans (hother _ _ _ rfl (by decide) (by decide))

theorem State.rd_incr_word (s : State) {f : Fld} (hf : f.hi = 31 ∧ f.lo = 0) (base : Nat) : (s.incr f base).rd f base = (s.rd f base + 1) % 2 ^ 32 := by
  unfold State.incr
  rw [State.rd_wr_same _ _ _ _ _ _ (by omega) (by omega), hf.1, hf.2]

/-- A message joins the send queue of its patch. -/
theorem exchangeSend_queues {k : LPatch} {flits : List (BitVec 128)} {s : State} (hruns : s.fabricRuns k.val = true)
    (hlen : flits.length = field (flits.headD 0).toNat 12 9 + 1) (hroom : (s.fabAt k.val).sending + 16 ≤ 64) :
    ∃ t m, exec (.exchangeSend k flits) s = .next t
      ∧ t.fabAt k.val = { s.fabAt k.val with sendQ := (s.fabAt k.val).sendQ ++ [m] } ∧ m.flits = flits
      ∧ (bitAt (flits.headD 0).toNat 4 = false → m.dests = [(flits.headD 0).toNat % 16])
      ∧ (bitAt (flits.headD 0).toNat 4 = true → ∀ d, d ∈ m.dests ↔ d < 16 ∧ d ≠ k.val)
      ∧ t.rd F.XCH_SENT (s.pb k.val) = (s.rd F.XCH_SENT (s.pb k.val) + 1) % 2 ^ 32 ∧ t.rd F.XCH_TXQ (s.pb k.val) = (t.fabAt k.val).sending
      ∧ t = { s with regs := t.regs, fabs := t.fabs } ∧ ∀ m, m ≠ k.val → t.fabAt m = s.fabAt m := by
  let h := (flits.headD 0).toNat
  let m : XMsg := {
    left := (match (s.fabAt k.val).sendQ.getLast? with | some q => max q.left s.rootNow | none => s.rootNow) + 4 * flits.length
    inNet := false
    dests := if bitAt h 4 then (List.range 16).filter (fun d => d != k.val) else [field h 3 0]
    chan := field h 8 5
    flits := flits }
  let u := (s.setFab k.val { s.fabAt k.val with sendQ := (s.fabAt k.val).sendQ ++ [m] }).incr F.XCH_SENT (s.pb k.val)
  have hexec : exec (.exchangeSend k flits) s = .next (u.showExchange k.val) := act_next (by simp [hruns, hlen, hroom])
  have hu : FabsOnly s u := ((FabsOnly.refl s).setFab _ _).wr (s.pb_high _) _
  have hpb : u.pb k.val = s.pb k.val := State.pb_of_sameRegs hu.2 k
  have hfab : u.fabAt k.val = { s.fabAt k.val with sendQ := (s.fabAt k.val).sendQ ++ [m] } := State.fabAt_setFab_same _ _ _
  have hsending : (u.fabAt k.val).sending < 128 := by
    have hfield : field (flits.headD 0).toNat 12 9 < 16 := Nat.mod_lt _ (by decide)
    rw [hfab]
    simp only [FabSt.sending, List.map_append, List.sum_append, List.map_cons, List.map_nil, List.sum_cons, List.sum_nil] at hroom ⊢
    change _ + (flits.length + 0) < 128
    omega
  refine ⟨_, m, hexec, hfab, rfl, fun h4 => ?_, fun h4 d => ?_, ?_, ?_, (hu.showExchange _).1, fun n hn => ?_⟩
  · have hdests : m.dests = [field h 3 0] := if_neg (Bool.eq_false_iff.1 h4)
    rw [hdests]
    simp [field, h]
  · have hdests : m.dests = (List.range 16).filter (fun d => d != k.val) := if_pos h4
    rw [hdests]
    simp
  · have hshow := u.rd_showExchange k k (f := F.XCH_SENT) (.inr (by decide))
    rw [hpb] at hshow
    exact hshow.trans (State.rd_incr_word _ ⟨rfl, rfl⟩ _)
  · have hshow := u.rd_showExchange_tx k.val
    rw [hpb, Nat.mod_eq_of_lt hsending] at hshow
    exact hshow
  · exact State.fabAt_setFab_other _ hn _

/-- The message that a destination takes next is delivered, waits for room, or is dropped where the destination is not released. -/
theorem exchangeDeliver_takes {src dst : LPatch} {m : XMsg} {q : List XMsg} {s u : State} (hu : s.clockNow dst.val = u) (hon : u.stackOn = true)
    (hhead : (u.waitingFor dst.val).head? = some src.val) (hdst : u.hover dst.val = false)
    (hsrc : u.hover src.val = false ∨ m.inNet = true) (htake : takeMsg dst.val (u.fabAt src.val).sendQ = some (m, q)) :
    let s1 := u.setFab src.val { u.fabAt src.val with sendQ := q }
    exec (.exchangeDeliver src dst) s = .next (if ¬ u.patchLive dst.val then
        ((s1.bump F.XCH_DROP (u.pb src.val)).setFab dst.val { s1.fabAt dst.val with lastSrc := src.val }).showExchange src.val
      else if 64 < (s1.fabAt dst.val).recvQ.length + m.flits.length then u
      else (((s1.setFab dst.val { s1.fabAt dst.val with recvQ := (s1.fabAt dst.val).recvQ ++ m.flits, lastSrc := src.val }).incr F.XCH_RCVD
        (u.pb dst.val)).showExchange src.val).showExchange dst.val) := by
  subst hu
  refine actOn_some (x := (m, q)) ((if_pos ⟨hon, hhead, by rw [hdst]; exact Bool.false_ne_true⟩).trans ?_)
  rw [htake]
  simp [hsrc]

/-- The queue that a message leaves keeps what its destination has received. -/
theorem recvQ_setSend (s : State) (src dst : Nat) (q : List XMsg) :
    ((s.setFab src { s.fabAt src with sendQ := q }).fabAt dst).recvQ = (s.fabAt dst).recvQ := by
  rw [State.fabAt_setFab]
  split
  · next h => rw [h]
  · rfl

theorem sendQ_setRecv (s : State) (src dst : Nat) {q : List XMsg} {x : FabSt}
    (hx : x.sendQ = ((s.setFab src { s.fabAt src with sendQ := q }).fabAt dst).sendQ) :
    (((s.setFab src { s.fabAt src with sendQ := q }).setFab dst x).fabAt src).sendQ = q := by
  rw [State.fabAt_setFab]
  split
  · next h => rw [hx, ← h, State.fabAt_setFab_same]
  · rw [State.fabAt_setFab_same]

/-- What a message that is delivered shows. -/
theorem delivered (u : State) (src dst : LPatch) {m : XMsg} (q : List XMsg) (hroom : (u.fabAt dst.val).recvQ.length + m.flits.length ≤ 64) :
    let s1 := u.setFab src.val { u.fabAt src.val with sendQ := q }
    let v := (s1.setFab dst.val { s1.fabAt dst.val with recvQ := (s1.fabAt dst.val).recvQ ++ m.flits, lastSrc := src.val }).incr F.XCH_RCVD
      (u.pb dst.val)
    let t := (v.showExchange src.val).showExchange dst.val
    (t.fabAt dst.val).recvQ = (u.fabAt dst.val).recvQ ++ m.flits ∧ (t.fabAt src.val).sendQ = q ∧ (t.fabAt dst.val).lastSrc = src.val
      ∧ t.rd F.XCH_RCVD (u.pb dst.val) = (u.rd F.XCH_RCVD (u.pb dst.val) + 1) % 2 ^ 32
      ∧ t.rd F.XCH_RXQ (u.pb dst.val) = (t.fabAt dst.val).recvQ.length ∧ t = { u with regs := t.regs, fabs := t.fabs } := by
  intro s1 v t
  have hrecv : (s1.fabAt dst.val).recvQ = (u.fabAt dst.val).recvQ := recvQ_setSend u src.val dst.val q
  have hs1 : FabsOnly u s1 := (FabsOnly.refl u).setFab _ _
  have hv : FabsOnly u v := (hs1.setFab _ _).wr (u.pb_high _) _
  have hw : FabsOnly u (v.showExchange src.val) := hv.showExchange _
  have hfab : v.fabAt dst.val = { s1.fabAt dst.val with recvQ := (s1.fabAt dst.val).recvQ ++ m.flits, lastSrc := src.val } :=
    State.fabAt_setFab_same _ _ _
  have hcount := (v.showExchange src.val).rd_showExchange dst dst (f := F.XCH_RCVD) (.inr (by decide))
  have hcount' := v.rd_showExchange src dst (f := F.XCH_RCVD) (.inr (by decide))
  have hlength := (v.showExchange src.val).rd_showExchange_rx dst
  rw [State.pb_of_sameRegs hw.2] at hcount hlength
  rw [State.pb_of_sameRegs hv.2] at hcount'
  have hfits : (v.fabAt dst.val).recvQ.length < 128 := by
    rw [hfab]
    simp only [List.length_append, hrecv]
    omega
  rw [State.fabAt_showExchange, Nat.mod_eq_of_lt hfits] at hlength
  refine ⟨?_, sendQ_setRecv u src.val dst.val rfl, congrArg FabSt.lastSrc hfab, ?_, hlength, (hw.showExchange _).1⟩
  · exact (congrArg FabSt.recvQ hfab).trans (by rw [hrecv])
  · exact hcount.trans (hcount'.trans (State.rd_incr_word _ ⟨rfl, rfl⟩ _))

/-- What a message that is dropped shows. -/
theorem dropped (u : State) (src dst : LPatch) (q : List XMsg) :
    let s1 := u.setFab src.val { u.fabAt src.val with sendQ := q }
    let v := (s1.bump F.XCH_DROP (u.pb src.val)).setFab dst.val { s1.fabAt dst.val with lastSrc := src.val }
    let t := v.showExchange src.val
    (t.fabAt dst.val).recvQ = (u.fabAt dst.val).recvQ ∧ (t.fabAt src.val).sendQ = q
      ∧ t.rd F.XCH_DROP (u.pb src.val) = min 65535 (u.rd F.XCH_DROP (u.pb src.val) + 1) := by
  intro s1 v t
  have hs1 : FabsOnly u s1 := (FabsOnly.refl u).setFab _ _
  have hv : FabsOnly u v := (hs1.wr (u.pb_high _) _).setFab _ _
  have hdrop := v.rd_showExchange src src (f := F.XCH_DROP) (.inl (by decide))
  rw [State.pb_of_sameRegs hv.2] at hdrop
  refine ⟨?_, sendQ_setRecv u src.val dst.val rfl, ?_⟩
  · exact (congrArg FabSt.recvQ (State.fabAt_setFab_same _ _ _)).trans (recvQ_setSend u src.val dst.val q)
  · exact hdrop.trans (State.rd_bump_at s1 F.XCH_DROP (u.pb src.val) 0 (by decide) (by decide))

/-- What a fabric sends changes registers alone, of its unit's check value (R301). -/
theorem State.cvTx_frame (s : State) (k slot pcs kind : Nat) (body : List Byte) (badcv : Bool) :
    (s.cvTx k slot pcs kind body badcv).1 = { s with regs := (s.cvTx k slot pcs kind body badcv).1.regs } := by
  unfold State.cvTx
  dsimp only
  split
  · rfl
  · split
    · rfl
    · split
      · split <;> rfl
      · rfl

/-- Settles O29, with the words of the exchange told apart by their fields. -/
theorem exchangeAndTransmitPort : Obligations.ExchangeAndTransmitPort := by
  unfold Obligations.ExchangeAndTransmitPort
  refine ⟨fun k flits s hruns hlen hroom => exchangeSend_queues hruns hlen hroom, ?deliver, ?transmit⟩
  case deliver =>
    intro src dst m q s u hon hhead hdst hsrc htake
    have hpb : ∀ k : LPatch, u.pb k.val = s.pb k.val := fun k => State.pb_of_sameRegs (ranFabric_clockNow s dst.isLt).2 k
    rw [← hpb src, ← hpb dst]
    generalize hu : u = x at hon hhead hdst hsrc htake ⊢
    have hexec := exchangeDeliver_takes hu hon hhead hdst hsrc htake
    have hrecv := recvQ_setSend x src.val dst.val q
    dsimp only at hexec
    refine ⟨fun hlive hroom => ?_, fun hlive hfull => ?_, fun hdead => ?_⟩
    · rw [if_neg (by simp [hlive]), if_neg (by rw [hrecv]; omega)] at hexec
      exact ⟨_, hexec, delivered x src dst q hroom⟩
    · rw [hexec, if_neg (by simp [hlive]), if_pos (by rw [hrecv]; exact hfull)]
    · rw [if_pos (by simp [hdead])] at hexec
      exact ⟨_, hexec, dropped x src dst q⟩
  case transmit =>
    intro k slot kind data l s hruns hdata hlane hready
    have hsrc : 2 ≤ s.erd F.PSLOT_SRC (s.pb k.val) slot.val := by
      unfold State.txReady at hready
      rw [hlane] at hready
      simp only [Bool.and_eq_true, decide_eq_true_eq] at hready
      exact hready.1.1.1
    let c := s.cvTx k.val slot.val (s.pcsOf l) (if kind.toNat = 3 then 0 else kind.toNat) data false
    let x : TxUnit := ⟨c.2, c.2.length, s.gapAfter k.val slot.val 0, false⟩
    have hexec : exec (.fabricTxUnit k slot kind data) s = .next (c.1.modLane l (fun y => { y with prefill := y.prefill ++ [x] })) :=
      (actOn_some ((if_pos ⟨hruns, hsrc, hdata⟩).trans hlane)).trans (congrArg Host.Outcome.next (if_neg (by simp [hready])))
    have hframe : c.1 = { s with regs := c.1.regs } := s.cvTx_frame _ _ _ _ _ _
    have hlanes : ∀ m, c.1.laneAt m = s.laneAt m := fun m => (congrArg (fun u : State => u.laneAt m) hframe :)
    refine ⟨_, x, hexec, ?_, rfl, Nat.max_zero _, fun hpcs => ?_, ?_, fun m hm => ?_⟩
    · rw [State.laneAt_modLane_same, hlanes]
    · exact congrArg Prod.snd (if_pos (.inr (.inl hpcs)) : c = (s, data))
    · unfold State.modLane
      rw [hframe]
    · rw [State.laneAt_modLane_other _ hm, hlanes]

end Sys2Proof.Machine

/-! ## O28: bank queues and the fabric's bank ports -/

namespace Sys2Proof.Machine

/-! The fabric's clock neither reads nor changes a bank. -/

/-- A state with other banks. -/
def withBanks (x : Tab BankSt) (s : State) : State := { s with banks := x }

theorem event_withBanks (x : Tab BankSt) (s : State) (e : EvCode) (block inst : Nat) (args : List Nat) (st : Status) :
    (withBanks x s).event e block inst args st = withBanks x (s.event e block inst args st) := by
  unfold State.event
  rw [apply_ite (withBanks x)]
  rfl

theorem beginProgram_withBanks (x : Tab BankSt) (s : State) (key c : Nat) :
    (withBanks x s).beginProgram key c = withBanks x (s.beginProgram key c) := rfl

theorem switchBank_withBanks (x : Tab BankSt) (s : State) (key : Nat) : (withBanks x s).switchBank key = withBanks x (s.switchBank key) := by
  unfold State.switchBank
  dsimp only
  rw [apply_ite (withBanks x)]
  rfl

theorem raiseProc_withBanks (x : Tab BankSt) (s : State) (key cls : Nat) (mid : Bool) :
    (withBanks x s).raiseProc key cls mid = withBanks x (s.raiseProc key cls mid) := by
  have hpend : ∀ base n, (if bitAt ((withBanks x s).rd F.EVT_PEND base) cls then withBanks x s else (withBanks x s).wr F.EVT_PEND base n)
      = withBanks x (if bitAt (s.rd F.EVT_PEND base) cls then s else s.wr F.EVT_PEND base n) := fun base n => by
    rw [apply_ite (withBanks x)]
    rfl
  unfold State.raiseProc
  dsimp only
  rw [apply_ite (withBanks x), apply_ite (withBanks x), ← switchBank_withBanks, ← hpend]
  rfl

theorem logContention_withBanks (x : Tab BankSt) (s : State) (k half line st : Nat) :
    (withBanks x s).logContention k half line st = withBanks x (s.logContention k half line st) := by
  have hlog : (withBanks x s).logOf k half line = s.logOf k half line := rfl
  unfold State.logContention
  dsimp only
  rw [hlog]
  cases s.logOf k half line with
  | some e => rfl
  | none =>
    dsimp only
    by_cases h : s.rd F.CONT_COUNT (s.pb k) = 16
    · rw [if_pos h, if_pos (show (withBanks x s).rd F.CONT_COUNT ((withBanks x s).pb k) = 16 from h)]
      rfl
    · rw [if_neg h, if_neg (show ¬ (withBanks x s).rd F.CONT_COUNT ((withBanks x s).pb k) = 16 from h)]
      rfl

theorem contend_withBanks (x : Tab BankSt) (s : State) (k : Nat) (half : Bool) (line : Nat) :
    (withBanks x s).contend k half line = withBanks x (s.contend k half line) := by
  have hline : (withBanks x s).busLine k half line = s.busLine k half line := rfl
  have hstitch : (withBanks x s).stitch = s.stitch := rfl
  have hpos : (withBanks x s).ppos k = s.ppos k := rfl
  have hfab : ∀ u : State, (withBanks x u).fabAt k = u.fabAt k := fun _ => rfl
  have hshow : ∀ (u : State) (y : FabSt), ((withBanks x u).setFab k y).showLines k = withBanks x ((u.setFab k y).showLines k) := fun _ _ => rfl
  unfold State.contend
  dsimp only
  rw [hline, hstitch, hpos, logContention_withBanks, hfab, hfab, hshow, event_withBanks]
  exact raiseProc_withBanks x _ _ _ _

theorem forEach_withBanks {α : Type} (x : Tab BankSt) {f : α → State → State} (hf : ∀ a s, f a (withBanks x s) = withBanks x (f a s)) (l : List α)
    (s : State) : forEach f l (withBanks x s) = withBanks x (forEach f l s) := by
  induction l generalizing s with
  | nil => rfl
  | cons a l ih => exact (congrArg (forEach f l) (hf a s)).trans (ih (f a s))

theorem fabricCycle_withBanks (x : Tab BankSt) (s : State) (k j : Nat) : (withBanks x s).fabricCycle k j = withBanks x (s.fabricCycle k j) := by
  have henv : ∀ c, (withBanks x s).fabEnv k c = s.fabEnv k c := fun _ => rfl
  have hedge : (withBanks x s).domainEdge k j = s.domainEdge k j := rfl
  have htime : (withBanks x s).time = s.time := rfl
  have hbus : ∀ bad : List (Bool × Nat),
      (if bad = [] then withBanks x s
        else forEach (fun (l : Bool × Nat) s => s.contend k l.1 l.2) bad ((withBanks x s).tick (4 * j)).took)
      = withBanks x (if bad = [] then s else forEach (fun (l : Bool × Nat) s => s.contend k l.1 l.2) bad (s.tick (4 * j)).took) := fun bad => by
    rw [apply_ite (withBanks x), ← forEach_withBanks x fun l s => contend_withBanks x s k l.1 l.2]
    rfl
  unfold State.fabricCycle
  dsimp only
  rw [henv, hedge, htime, hbus]
  generalize (if (s.fabEnv k (s.time.run / 4 + j)).contended = [] then s
    else forEach (fun (l : Bool × Nat) s => s.contend k l.1 l.2) (s.fabEnv k (s.time.run / 4 + j)).contended (s.tick (4 * j)).took) = u
  rw [apply_ite (withBanks x)]
  rfl

theorem clockTo_withBanks (x : Tab BankSt) (s : State) (k n : Nat) : (withBanks x s).clockTo k n = withBanks x (s.clockTo k n) := by
  unfold State.clockTo
  dsimp only
  rw [apply_ite (withBanks x), apply_ite (withBanks x), apply_ite (withBanks x), forEach_withBanks x fun j s => fabricCycle_withBanks x s k j]
  rfl

/-! Words of a bank. -/

/-- What a block of whole words stored in a bank leaves and shows. -/
def StoresWords (pos b w0 m : Nat) (data : List Byte) (s t : State) : Prop :=
  t = { s with banks := t.banks }
    ∧ (∀ pos' b' w, b' < 8 → w < 131072 → t.bankWord pos' b' w = if pos' = pos ∧ b' = b ∧ w0 ≤ w ∧ w < w0 + m then
        BitVec.ofNat 64 (leNat ((data.drop (8 * (w - w0))).take 8)) else s.bankWord pos' b' w)
    ∧ (t.bankAt pos b).qhead = (s.bankAt pos b).qhead ∧ (t.bankAt pos b).qtail = (s.bankAt pos b).qtail
    ∧ (t.bankAt pos b).qlevel = (s.bankAt pos b).qlevel

theorem State.bankWord_putWord (s : State) (pos b w : Nat) (v : W64) {pos' b' w' : Nat} (hb : b < 8) (hb' : b' < 8) :
    (s.putWord pos b w v).bankWord pos' b' w' = if pos' = pos ∧ b' = b ∧ w' = w then v else s.bankWord pos' b' w' := by
  unfold State.bankWord State.putWord
  rw [State.bankAt_setBank]
  split
  · next hkey =>
    obtain ⟨rfl, rfl⟩ : pos' = pos ∧ b' = b := by omega
    dsimp only
    rw [Tab.get_set]
    simp
  · next hkey => rw [if_neg fun h => hkey (by rw [h.1, h.2.1])]

theorem StoresWords.word {pos b w0 m : Nat} {data : List Byte} {s t : State} (h : StoresWords pos b w0 m data s t) (hb : b < 8) :
    StoresWords pos b w0 (m + 1) data s (t.putWord pos b (w0 + m) (BitVec.ofNat 64 (leNat ((data.drop (8 * m)).take 8)))) := by
  obtain ⟨hframe, hwords, hhead, htail, hlevel⟩ := h
  refine ⟨?_, fun pos' b' w hb' hw => ?_, ?_, ?_, ?_⟩
  · unfold State.putWord State.setBank
    rw [hframe]
  · rw [State.bankWord_putWord _ _ _ _ _ hb hb', hwords pos' b' w hb' hw]
    by_cases hat : pos' = pos ∧ b' = b ∧ w = w0 + m
    · obtain ⟨rfl, rfl, rfl⟩ := hat
      rw [if_pos ⟨rfl, rfl, rfl⟩, if_pos ⟨rfl, rfl, by omega, by omega⟩, Nat.add_sub_cancel_left]
    · rw [if_neg hat]
      by_cases hin : pos' = pos ∧ b' = b ∧ w0 ≤ w ∧ w < w0 + m
      · rw [if_pos hin, if_pos ⟨hin.1, hin.2.1, hin.2.2.1, by omega⟩]
      · rw [if_neg hin, if_neg fun h => hin ⟨h.1, h.2.1, h.2.2.1, Nat.lt_of_le_of_ne (by omega) fun e => hat ⟨h.1, h.2.1, e⟩⟩]
  · exact (congrArg BankSt.qhead (State.bankAt_setBank_same t pos b _)).trans hhead
  · exact (congrArg BankSt.qtail (State.bankAt_setBank_same t pos b _)).trans htail
  · exact (congrArg BankSt.qlevel (State.bankAt_setBank_same t pos b _)).trans hlevel

theorem nthD_replicate {α : Type} (d x : α) {n i : Nat} (h : i < n) : nthD d (List.replicate n x) i = x := by
  induction n generalizing i with
  | zero => omega
  | succ n ih =>
    cases i with
    | zero => rfl
    | succ i => exact ih (by omega)

/-- A fold over the first numbers, one after the other. -/
theorem foldl_range_induct {β : Type} {f : β → Nat → β} {z : β} (P : Nat → β → Prop) (h0 : P 0 z) (m : Nat)
    (hs : ∀ n, n < m → ∀ p, P n p → P (n + 1) (f p n)) : P m ((List.range m).foldl f z) := by
  induction m with
  | zero => exact h0
  | succ m ih =>
    rw [List.range_succ, List.foldl_append]
    exact hs m m.lt_succ_self _ (ih fun n hn => hs n (hn.trans m.lt_succ_self))

/-- The byte mask of a word that a write covers. -/
theorem wholeMask {n i : Nat} (h : 8 * i + 8 ≤ n) :
    (List.range 8).foldl (fun m j => if nthD false (List.replicate n true) (8 * i + j) then m + 2 ^ j else m) 0 = 255 := by
  have hall : ∀ j, j < 8 → nthD false (List.replicate n true) (8 * i + j) = true := fun j hj => nthD_replicate false true (by omega)
  rw [List.foldl_ext (g := fun m j => m + 2 ^ j) (H := fun m j hj => if_pos (hall j (List.mem_range.1 hj)))]
  decide

/-- A write of whole words (R338). -/
theorem bankPut_whole (s : State) (k a m : Nat) {b : Nat} (data : List Byte) (seen : List Ecc) (hb : b < 8) (hfit : a / 8 + m ≤ 131072) :
    (s.bankPut k b a data (List.replicate (8 * m) true) seen).2 = false
      ∧ StoresWords (s.ppos k) b (a / 8) m data s (s.bankPut k b a data (List.replicate (8 * m) true) seen).1 := by
  have hcount : ceilDiv (List.replicate (8 * m) true).length 8 = m := by
    simp only [List.length_replicate, ceilDiv]
    omega
  unfold State.bankPut
  rw [hcount]
  refine foldl_range_induct (fun n (p : State × Bool) => p.2 = false ∧ StoresWords (s.ppos k) b (a / 8) n data s p.1)
    ⟨rfl, rfl, fun pos' b' w _ _ => (if_neg (by omega)).symm, rfl, rfl, rfl⟩ m fun n hn p hp => ?_
  obtain ⟨hfalse, hstored⟩ := hp
  have hwrite : ∀ v e, p.1.bankWrite (s.ppos k) b ((a / 8 + n) % 131072) v 255 e = (p.1.putWord (s.ppos k) b (a / 8 + n) v, false) := fun v e => by
    rw [Nat.mod_eq_of_lt (by omega)]
    rfl
  dsimp only
  rw [wholeMask (by omega), hwrite, hfalse]
  exact ⟨rfl, hstored.word hb⟩

/-- A read of one clean word. -/
theorem State.bankRead_clean (s : State) (pos b w : Nat) :
    s.bankRead pos b w .clean = if s.bankPoison pos b w then (s, 0, true) else (s, s.bankWord pos b w, false) := rfl

theorem leNat_leBytes (n v : Nat) (h : v < 256 ^ n) : leNat (leBytes n v) = v := by
  induction n generalizing v with
  | zero =>
    rw [Nat.pow_zero] at h
    exact (Nat.lt_one_iff.1 h).symm
  | succ n ih =>
    have hdiv : v / 256 < 256 ^ n := Nat.div_lt_of_lt_mul (by rwa [Nat.pow_succ, Nat.mul_comm] at h)
    simp only [leBytes, leNat, ih _ hdiv, BitVec.toNat_ofNat]
    omega

/-- Reads that meet no error and no poison answer the words' bytes and change nothing (R337). -/
theorem bankGet_clean (s : State) (k b a m : Nat) (hfit : a / 8 + m ≤ 131072)
    (hgood : ∀ i, i < m → s.bankPoison (s.ppos k) b (a / 8 + i) = false) :
    (s.bankGet k b a (8 * m) []).1 = s ∧ (s.bankGet k b a (8 * m) []).2.2 = false ∧ (s.bankGet k b a (8 * m) []).2.1.length = 8 * m
      ∧ ∀ i, i < m → leNat ((((s.bankGet k b a (8 * m) []).2.1.drop (8 * i))).take 8) = (s.bankWord (s.ppos k) b (a / 8 + i)).toNat := by
  have hcount : ceilDiv (8 * m) 8 = m := by
    unfold ceilDiv
    omega
  unfold State.bankGet
  rw [hcount]
  refine foldl_range_induct (fun n (p : State × List Byte × Bool) => p.1 = s ∧ p.2.2 = false ∧ p.2.1.length = 8 * n
    ∧ ∀ i, i < n → leNat ((p.2.1.drop (8 * i)).take 8) = (s.bankWord (s.ppos k) b (a / 8 + i)).toNat)
    ⟨rfl, rfl, rfl, fun i hi => absurd hi (Nat.not_lt_zero i)⟩ m fun n hn p hp => ?_
  obtain ⟨hstate, hflag, hlen, hdata⟩ := hp
  have hread : p.1.bankRead (s.ppos k) b ((a / 8 + n) % 131072) (nthD .clean [] n) = (s, s.bankWord (s.ppos k) b (a / 8 + n), false) := by
    rw [hstate, Nat.mod_eq_of_lt (by omega), nthD, State.bankRead_clean, hgood n hn]
    rfl
  dsimp only
  rw [hread, hflag]
  refine ⟨rfl, rfl, ?_, fun i hi => ?_⟩
  · rw [List.length_append, hlen, leBytes_length]
    omega
  · rcases Nat.lt_succ_iff_lt_or_eq.1 hi with hi | rfl
    · rw [List.drop_append_of_le_length (by omega), List.take_append_of_le_length (by rw [List.length_drop]; omega), hdata i hi]
    · rw [← hlen, List.drop_left, List.take_of_length_le (by rw [leBytes_length]), leNat_leBytes _ _ (BitVec.isLt _)]

/-! Reads that meet errors. -/

/-- What a bank holds: its words, their marks and its queue. -/
def BankSt.content (x : BankSt) : Tab W64 × Tab Bool × Option Nat × Nat × Nat × Nat := (x.words, x.poison, x.lost, x.qhead, x.qtail, x.qlevel)

theorem State.content_of_banks {s t : State} (h : t.banks = s.banks) (q c : Nat) : (t.bankAt q c).content = (s.bankAt q c).content := by
  unfold State.bankAt
  rw [h]

theorem State.content_setTrack (s : State) (u : MemUnit) (x : List TrackEnt) (q c : Nat) :
    ((s.setTrack u x).bankAt q c).content = (s.bankAt q c).content := by
  cases u with
  | bank p b => exact State.bankAt_setBank_keeps BankSt.content s p.val b.val q c _ rfl
  | bolt k => rfl

theorem State.content_setRows (s : State) (u : MemUnit) (x : RowFix) (q c : Nat) :
    ((s.setRows u x).bankAt q c).content = (s.bankAt q c).content := by
  cases u with
  | bank p b => exact State.bankAt_setBank_keeps BankSt.content s p.val b.val q c _ rfl
  | bolt k => rfl

theorem State.banks_event (s : State) (e : EvCode) (block inst : Nat) (args : List Nat) (st : Status) :
    (s.event e block inst args st).banks = s.banks := by
  unfold State.event
  split <;> rfl

theorem State.banks_abandonPrep (s : State) : s.abandonPrep.banks = s.banks := by
  unfold State.abandonPrep
  split
  · rfl
  · next r _ => cases hc : r.c <;> (dsimp only [State.completeOpt]; split <;> rfl)

theorem State.banks_requestHandover (s : State) (r : HoReq) : (s.requestHandover r).banks = s.banks := by
  unfold State.requestHandover
  exact ite_eq_of (r := State.banks) rfl (ite_eq_of (r := State.banks) s.banks_abandonPrep rfl)

theorem State.content_hardFault (s : State) (u : MemUnit) (addr q c : Nat) :
    ((s.hardFault u addr).bankAt q c).content = (s.bankAt q c).content := by
  have hfault : ∀ (t : State) (p : Nat), (t.faultPosition p).banks = t.banks := fun t p => by
    unfold State.faultPosition
    split
    · rfl
    · exact State.banks_requestHandover _ _
  unfold State.hardFault
  dsimp only
  split
  · rfl
  · split
    · exact s.content_setRows u _ q c
    · have hevent : ∀ t : State, ((if (unitRows s u).reported then t
          else t.event .spareExhausted (unitEvent u).1 (unitEvent u).2.1 [(unitEvent u).2.2, addr]).bankAt q c).content = (t.bankAt q c).content := fun t => by
        split
        · rfl
        · exact State.content_of_banks (State.banks_event _ _ _ _ _ _) q c
      cases u with
      | bank p b => exact (State.content_of_banks (hfault _ _) q c).trans ((hevent _).trans (s.content_setRows _ _ q c))
      | bolt k => exact (hevent _).trans (s.content_setRows _ _ q c)

theorem State.banks_countCorr_registers (s : State) (u : MemUnit) (addr : Nat) : (((s.bumpCorr u).noteErr u addr false).bucketAdd u).banks = s.banks := by
  have hnote : ∀ t : State, ((t.bumpCorr u).noteErr u addr false).banks = t.banks := fun t => by cases u <;> rfl
  have hovf : ∀ t : State, (t.setOvf u).banks = t.banks := fun t => by cases u <;> rfl
  have hlevel : ∀ (t : State) (v : Nat), (t.setLevel u v).banks = t.banks := fun t v => by cases u <;> rfl
  unfold State.bucketAdd
  dsimp only
  split
  · exact (hlevel _ _).trans (hnote s)
  · split
    · exact (hovf _).trans (hnote s)
    · exact (State.banks_event _ _ _ _ _ _).trans ((hovf _).trans (hnote s))

theorem State.content_countCorr (s : State) (u : MemUnit) (addr q c : Nat) :
    ((s.countCorr u addr).bankAt q c).content = (s.bankAt q c).content := by
  have htrack := fun x => (State.content_setTrack (((s.bumpCorr u).noteErr u addr false).bucketAdd u) u x q c).trans
    (State.content_of_banks (s.banks_countCorr_registers u addr) q c)
  unfold State.countCorr
  dsimp only
  split
  · exact (State.content_hardFault _ _ _ _ _).trans (htrack _)
  · exact htrack _

theorem State.banks_countUncorr (s : State) (u : MemUnit) (addr : Nat) : (s.countUncorr u addr).banks = s.banks := by
  unfold State.countUncorr
  refine (State.banks_event _ _ _ _ _ _).trans ?_
  cases u <;> rfl

theorem State.qtail_putWord (s : State) (pos b w : Nat) (v : W64) : ((s.putWord pos b w v).bankAt pos b).qtail = (s.bankAt pos b).qtail := by
  unfold State.putWord
  rw [State.bankAt_setBank_same]

theorem State.qtail_poisonWord (s : State) (pos b w : Nat) : ((s.poisonWord pos b w).bankAt pos b).qtail = (s.bankAt pos b).qtail := by
  unfold State.poisonWord
  rw [State.bankAt_setBank_same]

/-- A read of a word leaves the marks of the others, and the queue (R339). -/
theorem bankRead_keeps (s : State) (pos b w : Nat) (seen : Ecc) :
    (∀ w', w' ≠ w → (s.bankRead pos b w seen).1.bankPoison pos b w' = s.bankPoison pos b w')
      ∧ ((s.bankRead pos b w seen).1.bankAt pos b).qtail = (s.bankAt pos b).qtail := by
  have hcontent : ∀ t u : State, (t.bankAt pos b).content = (u.bankAt pos b).content →
      (∀ w', t.bankPoison pos b w' = u.bankPoison pos b w') ∧ (t.bankAt pos b).qtail = (u.bankAt pos b).qtail := fun t u h =>
    ⟨fun w' => congrArg (fun x => Tab.get (fun _ => false) x w') (congrArg (fun x => x.2.1) h), congrArg (fun x => x.2.2.2.2.1) h⟩
  have hmark : ∀ (v : W64) (m : Bool) (cp : Tab (Option W64)) (w' : Nat), w' ≠ w →
      (s.setBank pos b { s.bankAt pos b with
        words := Tab.set (s.bankAt pos b).unlisted (s.bankAt pos b).words w v, poison := Tab.set (fun _ => false) (s.bankAt pos b).poison w m,
        copy := cp }).bankPoison pos b w' = s.bankPoison pos b w' := fun v m cp w' hw => by
    unfold State.bankPoison
    rw [State.bankAt_setBank_same]
    dsimp only
    rw [Tab.get_set, if_neg hw]
  unfold State.bankRead
  split
  · exact ⟨fun _ _ => rfl, rfl⟩
  · cases seen with
    | clean => exact ⟨fun _ _ => rfl, rfl⟩
    | corr =>
      have h := hcontent _ _ (s.content_countCorr (bankUnit pos b) w pos b)
      exact ⟨fun w' _ => h.1 w', h.2⟩
    | uncorr =>
      have h := hcontent _ _ (State.content_of_banks (State.banks_countUncorr (s.poisonWord pos b w) (bankUnit pos b) w) pos b)
      exact ⟨fun w' hw => (h.1 w').trans (hmark 0 true _ w' hw), h.2.trans (s.qtail_poisonWord pos b w)⟩
    | miscorrect d =>
      have h := hcontent _ _ (State.content_countCorr (s.putWord pos b w (BitVec.ofNat 64 (leNat d))) (bankUnit pos b) w pos b)
      exact ⟨fun w' hw => (h.1 w').trans (hmark _ false _ w' hw), h.2.trans (s.qtail_putWord pos b w _)⟩
    | unseen d => exact ⟨fun _ _ => rfl, rfl⟩

theorem bankRead_bad {s : State} {pos b w : Nat} {seen : Ecc} (h : seen = .uncorr ∨ s.bankPoison pos b w = true) :
    (s.bankRead pos b w seen).2.2 = true := by
  unfold State.bankRead
  split
  · rfl
  · next hp =>
    rcases h with rfl | h
    · rfl
    · exact absurd h hp

/-- Among the words read, one that reads as an error or as poison marks the access (R339). -/
theorem bankGet_bad (s : State) (k b a m : Nat) (seen : List Ecc) (hfit : a / 8 + m ≤ 131072)
    (hbad : ∃ i, i < m ∧ (nthD .clean seen i = .uncorr ∨ s.bankPoison (s.ppos k) b (a / 8 + i) = true)) :
    (s.bankGet k b a (8 * m) seen).2.2 = true := by
  have hcount : ceilDiv (8 * m) 8 = m := by
    unfold ceilDiv
    omega
  obtain ⟨i, hi, hbad⟩ := hbad
  unfold State.bankGet
  rw [hcount]
  refine (foldl_range_induct (fun n (p : State × List Byte × Bool) => (i < n → p.2.2 = true)
    ∧ ∀ j, n ≤ j → p.1.bankPoison (s.ppos k) b (a / 8 + j) = s.bankPoison (s.ppos k) b (a / 8 + j))
    ⟨fun h => absurd h (Nat.not_lt_zero i), fun _ _ => rfl⟩ m fun n hn p hp => ?_).1 hi
  obtain ⟨hflag, hmarks⟩ := hp
  have hword : (a / 8 + n) % 131072 = a / 8 + n := Nat.mod_eq_of_lt (by omega)
  dsimp only
  rw [hword]
  refine ⟨fun hin => ?_, fun j hj => ?_⟩
  · rcases Nat.lt_succ_iff_lt_or_eq.1 hin with hin | rfl
    · rw [hflag hin, Bool.true_or]
    · rw [bankRead_bad (hbad.imp_right fun h => (hmarks i le_rfl).trans h), Bool.or_true]
  · exact ((bankRead_keeps _ _ _ _ _).1 _ (by omega)).trans (hmarks j (by omega))

theorem bankGet_qtail (s : State) (k b a n : Nat) (seen : List Ecc) :
    ((s.bankGet k b a n seen).1.bankAt (s.ppos k) b).qtail = (s.bankAt (s.ppos k) b).qtail :=
  foldl_range_induct (fun _ (p : State × List Byte × Bool) => (p.1.bankAt (s.ppos k) b).qtail = (s.bankAt (s.ppos k) b).qtail) rfl _
    fun _ _ _ hp => ((bankRead_keeps _ _ _ _ _).2).trans hp

theorem nthD_of_forall {α : Type} {d : α} {l : List α} (h : ∀ e ∈ l, e = d) (i : Nat) : nthD d l i = d := by
  induction l generalizing i with
  | nil => cases i <;> rfl
  | cons e l ih =>
    cases i with
    | zero => exact h e List.mem_cons_self
    | succ i => exact ih (fun e he => h e (List.mem_cons_of_mem _ he)) i

/-- Reads that meet no error change nothing, whatever is poisoned. -/
theorem bankGet_of_clean (s : State) (k b a n : Nat) {seen : List Ecc} (h : ∀ e ∈ seen, e = .clean) : (s.bankGet k b a n seen).1 = s :=
  foldl_range_induct (fun _ (p : State × List Byte × Bool) => p.1 = s) rfl _ fun i _ p hp => by
    dsimp only
    rw [hp, nthD_of_forall h, State.bankRead_clean]
    split <;> rfl

/-! What a port shows. -/

theorem State.port_setPort (s : State) (k port : Nat) (x : PortOut) :
    (s.setPort k port x).ports.get (fun _ => ⟨false, false, 0, []⟩) (8 * k + port) = x := Tab.get_put_same _ _ _ _

theorem State.banks_setPort (s : State) (k : LPatch) (port : Nat) (x : PortOut) : (s.setPort k.val port x).banks = s.banks :=
  (congrArg State.banks (ranFabric_clockNow s k.isLt).1 :)

theorem State.bankAt_of_banks {s t : State} (h : t.banks = s.banks) (q c : Nat) : t.bankAt q c = s.bankAt q c := by
  unfold State.bankAt
  rw [h]

theorem State.bankWord_of_banks {s t : State} (h : t.banks = s.banks) (q c w : Nat) : t.bankWord q c w = s.bankWord q c w := by
  unfold State.bankWord
  rw [State.bankAt_of_banks h]

theorem State.ppos_of_sameRegs {s t : State} (h : SameRegs belowPatches s t) (k : LPatch) : t.ppos k.val = s.ppos k.val := by
  unfold State.ppos
  rw [h.rd (lpmPpos_low k)]

/-! Sizes of entries. -/

theorem State.entrySize_words (s : State) (k b : Nat) : ∃ m, s.entrySize k b = 8 * m ∧ (m = 1 ∨ m = 2 ∨ m = 4 ∨ m = 8) := by
  have he : s.erd F.QC_ESIZE (s.pb k) b < 4 := Nat.mod_lt _ (by decide)
  refine ⟨2 ^ s.erd F.QC_ESIZE (s.pb k) b, rfl, ?_⟩
  interval_cases s.erd F.QC_ESIZE (s.pb k) b <;> decide

/-- An entry lies within its bank. -/
theorem entry_fits {m c : Nat} (hm : m = 1 ∨ m = 2 ∨ m = 4 ∨ m = 8) (hc : c < 0x100000 / (8 * m)) : 8 * m * c / 8 + m ≤ 131072 := by
  rcases hm with rfl | rfl | rfl | rfl <;> omega

/-- An address in units of an entry lies at an entry. -/
theorem entry_of_addr {m : Nat} (hm : m = 1 ∨ m = 2 ∨ m = 4 ∨ m = 8) (addr : Nat) : 8 * m * addr % 0x100000 / 8 + m ≤ 131072 := by
  rcases hm with rfl | rfl | rfl | rfl <;> omega

/-! The words of a queue. -/

/-- The queue of a bank moves on: its words are as they were. -/
theorem setQueue_shows (u : State) (k pos : Nat) {b : Nat} (hb : b < 8) (head tail level : Nat) :
    let t := (u.setBank pos b { u.bankAt pos b with qhead := head, qtail := tail, qlevel := level }).showQueue k b
    (∀ pos' b' w, b' < 8 → t.bankWord pos' b' w = u.bankWord pos' b' w)
      ∧ t.bankAt pos b = { u.bankAt pos b with qhead := head, qtail := tail, qlevel := level } := by
  intro t
  refine ⟨fun pos' b' w hb' => ?_, State.bankAt_setBank_same u pos b _⟩
  change (State.setBank u pos b { u.bankAt pos b with qhead := head, qtail := tail, qlevel := level }).bankWord pos' b' w = _
  unfold State.bankWord
  rw [State.bankAt_setBank]
  split
  · next hkey =>
    obtain ⟨rfl, rfl⟩ : pos' = pos ∧ b' = b := by omega
    rfl
  · rfl

theorem queueRows (p : Nat) (bank : Bank) : rowsAt .patch p (0x200 + 0x10 * bank.val)
    = [(⟨.patch, F.QC_MODE, 8, 1, .rw, nil0, .top 2 0⟩, bank.val), (⟨.patch, F.QC_ESIZE, 8, 1, .rw, nil0, .any⟩, bank.val),
      (⟨.patch, F.QC_HIWAT, 8, 1, .rw, (fun _ _ => 1024), .range 1 1024⟩, bank.val)] := by
  fin_cases bank <;> rfl

/-- A write of a queue's configuration word (R218). -/
theorem queueMode_written (s : State) (k : LPatch) (bank : Bank) (v : W32) :
    let t := s.writeQueueCfg k.val bank.val v 15
    t.rd F.QC_MODE (s.pb k.val) bank.val = (if bitsOf 1 0 v = 3 then 0 else bitsOf 1 0 v) ∧ t.rd F.QC_ESIZE (s.pb k.val) bank.val = bitsOf 3 2 v
      ∧ t.eff = s.eff ∧ F.QC_MODE.at (s.pb k.val) bank.val 0 ∈ t.dirty ∧ t = { s with regs := t.regs, dirty := t.dirty } := by
  intro t
  let a := F.QC_MODE.at (s.pb k.val) bank.val 0
  let u := s.stageWrite a v 15
  have hb := bank.isLt
  have hat : a = PATCH (s.ppos k.val) + (0x200 + 0x10 * bank.val) := by
    simp only [a, Fld.at, F.QC_MODE, State.pb]
    omega
  have hloc : locate a = some (.patch, s.ppos k.val, 0x200 + 0x10 * bank.val) := by
    rw [hat]
    exact locate_patch (by unfold State.ppos; omega) (by omega)
  have honly := s.onlyRegs_mergeWrite a v 15
  have hlow : SameRegs belowPatches s u := fun x hx => honly.2 x (by
    have hhigh := s.pb_high k.val
    simp only [List.mem_singleton, a, Fld.at, F.QC_MODE]
    unfold belowPatches at hx
    omega)
  have hpb : u.pb k.val = s.pb k.val := State.pb_of_sameRegs hlow k
  have hword : u.reg a = writeField v 15 (writeField v 15 (writeField v 15 (s.reg a) ⟨.patch, F.QC_MODE, 8, 1, .rw, nil0, .top 2 0⟩)
      ⟨.patch, F.QC_ESIZE, 8, 1, .rw, nil0, .any⟩) ⟨.patch, F.QC_HIWAT, 8, 1, .rw, (fun _ _ => 1024), .range 1 1024⟩ :=
    (State.reg_mergeWrite_same hloc v 15).trans (by rw [queueRows]; simp only [List.foldl_cons, List.foldl_nil])
  have hshow : ∀ f : Fld, f.off = 0x200 → f.st1 = 0x10 → t.rd f (s.pb k.val) bank.val = u.rd f (s.pb k.val) bank.val := fun f hoff hst => by
    change (u.showQueue k.val bank.val).rd f (s.pb k.val) bank.val = _
    have hne : ∀ g : Fld, g.st1 = 0x10 → g.off ≠ 0x200 → f.st1 = g.st1 ∧ f.off ≠ g.off := fun g hg hgoff => ⟨hst.trans hg.symm, fun e => hgoff (e ▸ hoff)⟩
    unfold State.showQueue
    rw [hpb]
    dsimp only
    rw [State.rd_wr_off _ _ _ _ _ _ (hne F.QC_HIGH rfl (by decide)), State.rd_wr_off _ _ _ _ _ _ (hne F.QC_EMPTY rfl (by decide)),
      State.rd_wr_off _ _ _ _ _ _ (hne F.QC_FULL rfl (by decide)), State.rd_wr_off _ _ _ _ _ _ (hne F.QC_LEVEL rfl (by decide))]
  refine ⟨(hshow F.QC_MODE rfl rfl).trans ?_, (hshow F.QC_ESIZE rfl rfl).trans ?_, (congrArg State.eff honly.1 :), ?_, ?_⟩
  · change bitsOf 1 0 (u.reg a) = _
    rw [hword, bitsOf_writeField_other (by decide) (by decide) (by decide) (.inl (by decide)),
      bitsOf_writeField_other (by decide) (by decide) (by decide) (.inl (by decide))]
    refine ((fieldWriteRules v (s.reg a) 15 ⟨.patch, F.QC_MODE, 8, 1, .rw, nil0, .top 2 0⟩ (by decide) (by decide)).1 rfl rfl).trans ?_
    have hlt : bitsOf 1 0 v < 4 := bitsOf_lt 1 0 v
    change (if 2 < bitsOf 1 0 v then 0 else bitsOf 1 0 v) % 4 = _
    split <;> split <;> omega
  · change bitsOf 3 2 (u.reg a) = _
    rw [hword, bitsOf_writeField_other (by decide) (by decide) (by decide) (.inl (by decide))]
    refine ((fieldWriteRules v _ 15 ⟨.patch, F.QC_ESIZE, 8, 1, .rw, nil0, .any⟩ (by decide) (by decide)).1 rfl rfl).trans ?_
    exact Nat.mod_eq_of_lt (bitsOf_lt 3 2 v)
  · exact List.mem_append_right _ (List.mem_singleton_self a)
  · have hframe : u = { s with regs := u.regs, dirty := u.dirty } := by
      have hmerged := honly.1
      change (s.mergeWrite a v 15).markDirty a = { s with regs := (s.mergeWrite a v 15).regs, dirty := ((s.mergeWrite a v 15).markDirty a).dirty }
      generalize s.mergeWrite a v 15 = m at hmerged ⊢
      unfold State.markDirty
      rw [hmerged]
    change u.showQueue k.val bank.val = { s with regs := (u.showQueue k.val bank.val).regs, dirty := u.dirty }
    generalize hr : (u.showQueue k.val bank.val).regs = r
    have hshowFrame : u.showQueue k.val bank.val = { u with regs := r } := by rw [← hr]; rfl
    rw [hshowFrame, hframe]

/-- A queue moves on once its entry has been stored. -/
theorem storedQueue {s u : State} {k : LPatch} {b w0 m : Nat} {data : List Byte} (hb : b < 8) (h : StoresWords (s.ppos k.val) b w0 m data s u)
    {v : State} (hv : v.banks = u.banks) (hpos : v.ppos k.val = s.ppos k.val) (head tail level : Nat) :
    let t := (v.setBank (v.ppos k.val) b { v.bankAt (v.ppos k.val) b with qhead := head, qtail := tail, qlevel := level }).showQueue k.val b
    (∀ pos' b' w, b' < 8 → w < 131072 → t.bankWord pos' b' w = if pos' = s.ppos k.val ∧ b' = b ∧ w0 ≤ w ∧ w < w0 + m then
        BitVec.ofNat 64 (leNat ((data.drop (8 * (w - w0))).take 8)) else s.bankWord pos' b' w)
      ∧ (t.bankAt (s.ppos k.val) b).qhead = head ∧ (t.bankAt (s.ppos k.val) b).qtail = tail ∧ (t.bankAt (s.ppos k.val) b).qlevel = level := by
  intro t
  obtain ⟨-, hwords, -⟩ := h
  obtain ⟨hkeep, hbank⟩ := setQueue_shows v k.val (v.ppos k.val) hb head tail level
  rw [← hpos]
  refine ⟨fun pos' b' w hb' hw => (hkeep pos' b' w hb').trans ((State.bankWord_of_banks hv _ _ _).trans (by rw [hpos]; exact hwords pos' b' w hb' hw)), ?_⟩
  exact ⟨congrArg BankSt.qhead hbank, congrArg BankSt.qtail hbank, congrArg BankSt.qlevel hbank⟩

/-- The push of an entry that its queue has room for, or that the queue makes room for (R218). -/
theorem queuePush_stores {k : LPatch} {bank : Bank} {owner : BitVec 4} {data : List Byte} {s : State} (hruns : s.fabricRuns k.val = true)
    (hmode : s.erd F.QC_MODE (s.pb k.val) bank.val ≠ 0) (hlen : data.length = s.entrySize k.val bank.val)
    (htail : (s.bankAt (s.ppos k.val) bank.val).qtail < s.queueRoom k.val bank.val) (hown : (s.bankAt (s.ppos k.val) bank.val).owner = owner.toNat) :
    let pos := s.ppos k.val
    let x := s.bankAt pos bank.val
    let n := s.entrySize k.val bank.val
    let room := s.queueRoom k.val bank.val
    let stored := fun (t : State) => ∀ pos' b' w, b' < 8 → w < 131072 → t.bankWord pos' b' w =
      if pos' = pos ∧ b' = bank.val ∧ n * x.qtail / 8 ≤ w ∧ w < n * x.qtail / 8 + n / 8 then
        BitVec.ofNat 64 (leNat ((data.drop (8 * (w - n * x.qtail / 8))).take 8))
      else s.bankWord pos' b' w
    (x.qlevel < room → ∃ t, exec (.queuePush k bank owner data) s = .next t ∧ stored t ∧ (t.bankAt pos bank.val).qhead = x.qhead
        ∧ (t.bankAt pos bank.val).qtail = (x.qtail + 1) % room ∧ (t.bankAt pos bank.val).qlevel = x.qlevel + 1)
      ∧ (s.erd F.QC_MODE (s.pb k.val) bank.val ≠ 1 → room ≤ x.qlevel →
          ∃ t, exec (.queuePush k bank owner data) s = .next t ∧ stored t ∧ (t.bankAt pos bank.val).qhead = (x.qhead + 1) % room
            ∧ (t.bankAt pos bank.val).qtail = (x.qtail + 1) % room ∧ (t.bankAt pos bank.val).qlevel = x.qlevel) := by
  intro pos x n room stored
  obtain ⟨m, hn, hm⟩ := s.entrySize_words k.val bank.val
  have hnm : n / 8 = m := by
    change s.entrySize k.val bank.val / 8 = m
    omega
  have hfit : n * x.qtail / 8 + m ≤ 131072 := by
    change s.entrySize k.val bank.val * x.qtail / 8 + m ≤ 131072
    rw [hn]
    refine entry_fits hm ?_
    rw [← hn]
    exact htail
  let u := (s.bankPut k.val bank.val (n * x.qtail) (data.take n) (List.replicate n true) []).1
  have htaken : StoresWords pos bank.val (n * x.qtail / 8) m (data.take n) s u := by
    have h := (bankPut_whole s k.val (n * x.qtail) m (data.take n) [] bank.isLt hfit).2
    rw [← show n = 8 * m from hn] at h
    exact h
  have hu : StoresWords pos bank.val (n * x.qtail / 8) m data s u := by
    rwa [show data.take n = data from List.take_of_length_le hlen.le] at htaken
  have hregs : u.regs = s.regs := (congrArg State.regs hu.1 :)
  have hpos : u.ppos k.val = s.ppos k.val := State.ppos_of_sameRegs ((SameRegs.refl _ s).of_regs hregs) k
  have hgo : (s.fabricRuns k.val && s.erd F.QC_MODE (s.pb k.val) bank.val != 0 && data.length == s.entrySize k.val bank.val) = true := by
    simp [hruns, hmode, hlen]
  have howned : ¬ ¬ s.ownedBy k.val bank.val owner.toNat = true := by
    simp [State.ownedBy, hown]
  refine ⟨fun hroom => ?_, fun hring hfull => ?_⟩
  · have hexec : exec (.queuePush k bank owner data) s = .next ((u.setBank (u.ppos k.val) bank.val { u.bankAt (u.ppos k.val) bank.val with
        qhead := x.qhead, qtail := (x.qtail + 1) % room, qlevel := x.qlevel + 1 }).showQueue k.val bank.val) :=
      (act_next hgo).trans (congrArg Host.Outcome.next ((if_neg howned).trans (if_pos hroom)))
    refine ⟨_, hexec, ?_⟩
    simp only [stored, hnm]
    exact storedQueue (v := u) bank.isLt hu rfl hpos _ _ _
  · let v := u.bump F.QC_OVF (s.pb k.val) 1 bank.val
    have hv : v.ppos k.val = s.ppos k.val :=
      State.ppos_of_sameRegs (((SameRegs.refl _ s).of_regs hregs).wr (by
        have := s.pb_high k.val
        simp only [belowPatches, Fld.at]
        omega) _) k
    have hexec : exec (.queuePush k bank owner data) s = .next ((v.setBank (v.ppos k.val) bank.val { v.bankAt (v.ppos k.val) bank.val with
        qhead := (x.qhead + 1) % room, qtail := (x.qtail + 1) % room, qlevel := x.qlevel }).showQueue k.val bank.val) :=
      (act_next hgo).trans (congrArg Host.Outcome.next ((if_neg howned).trans ((if_neg (Nat.not_lt.2 hfull)).trans (if_neg hring))))
    refine ⟨_, hexec, ?_⟩
    simp only [stored, hnm]
    exact storedQueue (v := v) bank.isLt hu rfl hv _ _ _

/-- A block that does not own the bank is denied (R329). -/
theorem denyPort_shows (s : State) (k : LPatch) {code : Nat} (hcode : 8 ≤ code) (n : Nat) :
    let t := s.denyPort k.val code n
    t = { s.clockNow k.val with ports := t.ports } ∧ (t.ports.get (fun _ => ⟨false, false, 0, []⟩) (8 * k.val + (code - 8))).deny = true
      ∧ (t.ports.get (fun _ => ⟨false, false, 0, []⟩) (8 * k.val + (code - 8))).valid = false := by
  intro t
  have ht : t = s.setPort k.val (code - 8) { valid := false, deny := true, status := 0, data := List.replicate n 0 } := if_pos hcode
  rw [ht, State.port_setPort]
  exact ⟨rfl, rfl, rfl⟩

/-- The pop of an entry (R218, R339). -/
theorem queuePop_takes {k : LPatch} {bank : Bank} {owner : BitVec 4} (seen : List Ecc) {s : State} (hruns : s.fabricRuns k.val = true)
    (hmode : s.erd F.QC_MODE (s.pb k.val) bank.val ≠ 0) (hown : (s.bankAt (s.ppos k.val) bank.val).owner = owner.toNat)
    (hlevel : 0 < (s.bankAt (s.ppos k.val) bank.val).qlevel) :
    let pos := s.ppos k.val
    let x := s.bankAt pos bank.val
    let n := s.entrySize k.val bank.val
    let room := s.queueRoom k.val bank.val
    let port := fun (t : State) => t.ports.get (fun _ => ⟨false, false, 0, []⟩) (8 * k.val + (owner.toNat - 8))
    ∃ t, exec (.queuePop k bank owner seen) s = .next t ∧ (t.bankAt pos bank.val).qhead = (x.qhead + 1) % room
      ∧ (t.bankAt pos bank.val).qlevel = x.qlevel - 1 ∧ (t.bankAt pos bank.val).qtail = x.qtail
      ∧ ((∀ e ∈ seen, e = .clean) → t.bankAt pos bank.val = { x with qhead := (x.qhead + 1) % room, qlevel := x.qlevel - 1 })
      ∧ (8 ≤ owner.toNat → (port t).valid = true ∧ (port t).deny = false ∧ (port t).data = (s.bankGet k.val bank.val (n * x.qhead) n seen).2.1) := by
  intro pos x n room port
  let r := s.bankGet k.val bank.val (n * x.qhead) n seen
  let u := (r.1.setBank pos bank.val { r.1.bankAt pos bank.val with qhead := (x.qhead + 1) % room, qlevel := x.qlevel - 1 }).showQueue k.val bank.val
  let o : PortOut := { valid := true, deny := false, status := if r.2.2 then Status.poison.code else 0, data := r.2.1 }
  have hgo : (s.fabricRuns k.val && s.erd F.QC_MODE (s.pb k.val) bank.val != 0) = true := by simp [hruns, hmode]
  have howned : ¬ ¬ s.ownedBy k.val bank.val owner.toNat = true := by simp [State.ownedBy, hown]
  have hexec : exec (.queuePop k bank owner seen) s = .next (if 8 ≤ owner.toNat then u.setPort k.val (owner.toNat - 8) o else u) :=
    (act_next hgo).trans (congrArg Host.Outcome.next ((if_neg howned).trans (if_neg (Nat.ne_of_gt hlevel))))
  have hbank : u.bankAt pos bank.val = { r.1.bankAt pos bank.val with qhead := (x.qhead + 1) % room, qlevel := x.qlevel - 1 } :=
    State.bankAt_setBank_same r.1 pos bank.val _
  have hbanks : (if 8 ≤ owner.toNat then u.setPort k.val (owner.toNat - 8) o else u).banks = u.banks := by
    split
    · exact State.banks_setPort u k _ _
    · rfl
  have hread : r.1.bankAt pos bank.val = _ := rfl
  generalize u = v at hexec hbank hbanks
  refine ⟨_, hexec, ?_, ?_, ?_, fun hclean => ?_, fun hcode => ?_⟩
  · rw [State.bankAt_of_banks hbanks, hbank]
  · rw [State.bankAt_of_banks hbanks, hbank]
  · rw [State.bankAt_of_banks hbanks, hbank]
    exact bankGet_qtail s k.val bank.val (n * x.qhead) n seen
  · rw [State.bankAt_of_banks hbanks, hbank, show r.1 = s from bankGet_of_clean s _ _ _ _ hclean]
  · rw [if_pos hcode]
    simp only [port, State.port_setPort]
    exact ⟨rfl, rfl, rfl⟩

/-- An access of a port in RAM mode by the owner (R218, R329, R337 to R340). -/
theorem portAccess_owned {k : LPatch} {port : Fin 8} {bank : Bank} {addr : BitVec 20} {data : List Byte} {s : State}
    (hruns : s.fabricRuns k.val = true) (hmode : s.erd F.QC_MODE (s.pb k.val) bank.val = 0) (hlen : data.length = s.entrySize k.val bank.val)
    (hown : (s.bankAt (s.ppos k.val) bank.val).owner = 8 + port.val) :
    let pos := s.ppos k.val
    let n := s.entrySize k.val bank.val
    let a := n * addr.toNat % 0x100000
    let out := fun (t : State) => t.ports.get (fun _ => ⟨false, false, 0, []⟩) (8 * k.val + port.val)
    ((∀ i, i < n / 8 → s.bankPoison pos bank.val (a / 8 + i) = false) →
        ∃ t, exec (.portAccess k port bank false addr [] [] []) s = .next t ∧ t = { s.clockNow k.val with ports := t.ports } ∧ (out t).valid = true
          ∧ (out t).deny = false ∧ (out t).status = 0 ∧ (out t).data.length = n
          ∧ ∀ i, i < n / 8 → leNat (((out t).data.drop (8 * i)).take 8) = (s.bankWord pos bank.val (a / 8 + i)).toNat)
      ∧ (∀ seen, ∃ t, exec (.portAccess k port bank true addr data (List.replicate n true) seen) s = .next t
          ∧ t = { s.clockNow k.val with ports := t.ports, banks := t.banks } ∧ (out t).deny = false ∧ (out t).status = 0
          ∧ ∀ pos' b' w, b' < 8 → w < 131072 → t.bankWord pos' b' w =
              if pos' = pos ∧ b' = bank.val ∧ a / 8 ≤ w ∧ w < a / 8 + n / 8 then BitVec.ofNat 64 (leNat ((data.drop (8 * (w - a / 8))).take 8))
              else s.bankWord pos' b' w)
      ∧ ∀ seen, (∃ i, i < n / 8 ∧ (nthD .clean seen i = .uncorr ∨ s.bankPoison pos bank.val (a / 8 + i) = true)) →
          ∃ t, exec (.portAccess k port bank false addr [] [] seen) s = .next t ∧ (out t).valid = true ∧ (out t).deny = false
            ∧ (out t).status = Status.poison.code := by
  intro pos n a out
  obtain ⟨m, hn, hm⟩ := s.entrySize_words k.val bank.val
  have hn : n = 8 * m := hn
  have hnm : n / 8 = m := by omega
  have hfit : a / 8 + m ≤ 131072 := by
    have h := entry_of_addr hm addr.toNat
    rwa [← hn] at h
  have howned : ¬ ¬ s.ownedBy k.val bank.val (8 + port.val) = true := by simp [State.ownedBy, hown]
  have hread : ∀ seen, exec (.portAccess k port bank false addr [] [] seen) s = .next ((s.bankGet k.val bank.val a n seen).1.setPort k.val port.val
      { valid := true, deny := false, status := if (s.bankGet k.val bank.val a n seen).2.2 then Status.poison.code else 0
        data := (s.bankGet k.val bank.val a n seen).2.1 }) := fun seen =>
    (act_next (by simp [hruns, hmode])).trans (congrArg Host.Outcome.next ((if_neg howned).trans (if_neg Bool.false_ne_true)))
  refine ⟨fun hgood => ?_, fun seen => ?_, fun seen hbad => ?_⟩
  · rw [hnm] at hgood
    obtain ⟨hstate, hflag, hlength, hdata⟩ := bankGet_clean s k.val bank.val a m hfit hgood
    rw [← hn] at hstate hflag hlength hdata
    refine ⟨_, hread [], ?_, ?_⟩
    · rw [hstate]
      rfl
    · simp only [out, State.port_setPort, hflag, hnm]
      exact ⟨trivial, trivial, rfl, hlength, hdata⟩
  · obtain ⟨hfalse, hstored⟩ := bankPut_whole s k.val a m data seen bank.isLt hfit
    rw [← hn] at hfalse hstored
    have hexec : exec (.portAccess k port bank true addr data (List.replicate n true) seen) s
        = .next ((s.bankPut k.val bank.val a data (List.replicate n true) seen).1.setPort k.val port.val
          { valid := false, deny := false, data := []
            status := if (s.bankPut k.val bank.val a data (List.replicate n true) seen).2 then Status.poison.code else 0 }) :=
      (act_next (by simp [hruns, hmode, hlen, n])).trans (congrArg Host.Outcome.next ((if_neg howned).trans (if_pos rfl)))
    rw [hfalse] at hexec
    generalize (s.bankPut k.val bank.val a data (List.replicate n true) seen).1 = u at hexec hstored
    have hclock : u.clockNow k.val = withBanks u.banks (s.clockNow k.val) :=
      (congrArg (fun v : State => v.clockNow k.val) hstored.1).trans (clockTo_withBanks u.banks s k.val _)
    refine ⟨_, hexec, ?_, ?_, ?_, fun pos' b' w hb' hw => ?_⟩
    · unfold State.setPort
      rw [hclock]
      rfl
    · simp only [out, State.port_setPort]
    · simp only [out, State.port_setPort]
      rfl
    · rw [State.bankWord_of_banks (State.banks_setPort u k _ _), hstored.2.1 pos' b' w hb' hw, hnm]
  · rw [hnm] at hbad
    have hflag := bankGet_bad s k.val bank.val a m seen hfit hbad
    rw [← hn] at hflag
    refine ⟨_, hread seen, ?_⟩
    simp only [out, State.port_setPort, hflag]
    exact ⟨trivial, trivial, rfl⟩

/-- Settles O28: what a bank stores and reads word by word, and the port's outputs after the fabric has run. -/
theorem queuesAndPorts : Obligations.QueuesAndPorts := by
  unfold Obligations.QueuesAndPorts
  refine ⟨?queues, ?ports⟩
  case queues =>
    intro k bank owner data seen s pb pos x n room own port stored
    refine ⟨fun v hon hview hsilent => ?_, fun hruns hmode hlen htail hown hlevel => ?_, fun hruns hmode hlen hown hfull => ?_,
      fun hruns hmode hlen htail hown hfull => ?_, fun hruns hmode hown hlevel => ?_, fun hruns hmode hown hempty hcode => ?_,
      fun hruns hmode hown hcode hlen => ⟨?_, ?_⟩⟩
    · have hvia : s.viaPatch k.val (0x200 + 0x10 * bank.val) v 15 (s.writeQueueCfg k.val bank.val v 15) = s.writeQueueCfg k.val bank.val v 15 := by
        unfold State.viaPatch
        rw [show s.posView (s.ppos k.val) = .normal from hview]
        exact if_neg (Bool.eq_false_iff.1 hsilent)
      have hexec : exec (.queueModeWrite k bank v 15) s = .next (s.writeQueueCfg k.val bank.val v 15) :=
        (act_next hon).trans (congrArg Host.Outcome.next hvia)
      exact ⟨_, hexec, queueMode_written s k bank v⟩
    · exact (queuePush_stores hruns hmode hlen htail hown).1 hlevel
    · have hgo : (s.fabricRuns k.val && s.erd F.QC_MODE (s.pb k.val) bank.val != 0 && data.length == s.entrySize k.val bank.val) = true := by
        have hone : s.erd F.QC_MODE (s.pb k.val) bank.val = 1 := hmode
        have hlen : data.length = s.entrySize k.val bank.val := hlen
        simp [hruns, hone, hlen]
      have howned : ¬ ¬ s.ownedBy k.val bank.val owner.toNat = true := by
        have hown : (s.bankAt (s.ppos k.val) bank.val).owner = owner.toNat := hown
        simp [State.ownedBy, hown]
      have hexec : exec (.queuePush k bank owner data) s = .next (s.bump F.QC_OVF pb 1 bank.val) :=
        (act_next hgo).trans (congrArg Host.Outcome.next ((if_neg howned).trans ((if_neg (Nat.not_lt.2 hfull)).trans (if_pos hmode))))
      exact ⟨_, hexec, State.rd_bump_at s _ _ _ (by decide) (by decide), (OnlyRegs.refl _ s).wr (List.mem_singleton_self _) _⟩
    · exact (queuePush_stores hruns (Nat.ne_of_gt (Nat.lt_of_lt_of_le (by decide) hmode)) hlen htail hown).2 (Nat.ne_of_gt hmode) hfull
    · exact queuePop_takes seen hruns hmode hown hlevel
    · have hgo : (s.fabricRuns k.val && s.erd F.QC_MODE (s.pb k.val) bank.val != 0) = true := by
        have hmode : s.erd F.QC_MODE (s.pb k.val) bank.val ≠ 0 := hmode
        simp [hruns, hmode]
      have howned : ¬ ¬ s.ownedBy k.val bank.val owner.toNat = true := by
        have hown : (s.bankAt (s.ppos k.val) bank.val).owner = owner.toNat := hown
        simp [State.ownedBy, hown]
      have hexec : exec (.queuePop k bank owner seen) s
          = .next (s.setPort k.val (owner.toNat - 8) { valid := false, deny := false, status := 0, data := List.replicate n 0 }) :=
        (act_next hgo).trans (congrArg Host.Outcome.next ((if_neg howned).trans ((if_pos hempty).trans (if_pos hcode))))
      refine ⟨_, hexec, State.banks_setPort s k _ _, ?_⟩
      simp only [port, State.port_setPort]
      exact ⟨trivial, trivial⟩
    · have hgo : (s.fabricRuns k.val && s.erd F.QC_MODE (s.pb k.val) bank.val != 0 && data.length == s.entrySize k.val bank.val) = true := by
        have hmode : s.erd F.QC_MODE (s.pb k.val) bank.val ≠ 0 := hmode
        have hlen : data.length = s.entrySize k.val bank.val := hlen
        simp [hruns, hmode, hlen]
      have hother : ¬ s.ownedBy k.val bank.val owner.toNat = true := by
        have hown : ¬ (s.bankAt (s.ppos k.val) bank.val).owner = owner.toNat := hown
        simp [State.ownedBy, hown]
      have hexec : exec (.queuePush k bank owner data) s = .next (s.denyPort k.val owner.toNat 0) :=
        (act_next hgo).trans (congrArg Host.Outcome.next (if_pos hother))
      obtain ⟨hframe, hdeny, -⟩ := denyPort_shows s k hcode 0
      exact ⟨_, hexec, hframe, hdeny⟩
    · have hgo : (s.fabricRuns k.val && s.erd F.QC_MODE (s.pb k.val) bank.val != 0) = true := by
        have hmode : s.erd F.QC_MODE (s.pb k.val) bank.val ≠ 0 := hmode
        simp [hruns, hmode]
      have hother : ¬ s.ownedBy k.val bank.val owner.toNat = true := by
        have hown : ¬ (s.bankAt (s.ppos k.val) bank.val).owner = owner.toNat := hown
        simp [State.ownedBy, hown]
      have hexec : exec (.queuePop k bank owner seen) s = .next (s.denyPort k.val owner.toNat n) :=
        (act_next hgo).trans (congrArg Host.Outcome.next (if_pos hother))
      obtain ⟨hframe, hdeny, -⟩ := denyPort_shows s k hcode n
      exact ⟨_, hexec, hframe, hdeny⟩
  case ports =>
    intro k port bank addr data seen s pos n a own out hruns hmode hlen
    refine ⟨fun hown => (portAccess_owned hruns hmode hlen hown).1, fun hown => (portAccess_owned hruns hmode hlen hown).2.1 seen,
      fun hown => (portAccess_owned hruns hmode hlen hown).2.2 seen, fun hown write => ?_⟩
    have hother : ¬ s.ownedBy k.val bank.val (8 + port.val) = true := by
      have hown : ¬ (s.bankAt (s.ppos k.val) bank.val).owner = 8 + port.val := hown
      simp [State.ownedBy, hown]
    have hgo : (s.fabricRuns k.val && s.erd F.QC_MODE (s.pb k.val) bank.val == 0
        && (!write || (data.length == s.entrySize k.val bank.val && (List.replicate n true).length == s.entrySize k.val bank.val))) = true := by
      have hlen : data.length = s.entrySize k.val bank.val := hlen
      simp [hruns, hmode, hlen, n]
    have hexec : exec (.portAccess k port bank write addr data (List.replicate n true) seen) s = .next (s.denyPort k.val (8 + port.val) n) :=
      (act_next hgo).trans (congrArg Host.Outcome.next (if_pos hother))
    obtain ⟨hframe, hdeny, hvalid⟩ := denyPort_shows s k (code := 8 + port.val) (Nat.le_add_right 8 _) n
    rw [Nat.add_sub_cancel_left] at hdeny hvalid
    exact ⟨_, hexec, hframe, hdeny, hvalid⟩

end Sys2Proof.Machine

/-! What the engines of a patch write: the registers of patches, bolts, HOST, SEC and CLK, and neither the device's own block nor those of the
ribbons (R229 to R268, R297 to R304, R357). -/

namespace Sys2Proof.Machine

/-- The offsets of the device's own block and of the ribbons 0 to 31. -/
def aside (a : Nat) : Prop := a < 0x1000 ∨ (0x10000 ≤ a ∧ a < 0x20000)

/-- The parts of the state that no engine of a patch changes. -/
def State.core (s : State) : (StartSt × CfgSt × ResSt × ClkSt × HkSt × TimeSt) × W64 × Nat × Tab W32 × Tab BankSt × Tab FabSt :=
  ((s.start, s.cfg, s.res, s.clk, s.hk, s.time), s.stitch, s.off, s.eff, s.banks, s.fabs)

/-- `t` shows what `s` shows at the offsets of `P`, and its core is that of `s`. -/
structure Framed (P : Nat → Prop) (s t : State) : Prop where
  regs : SameRegs P s t
  core : t.core = s.core

/-- `t` is framed by `s` in the device's own block and in the ribbons. -/
abbrev Aside (s t : State) : Prop := Framed aside s t

namespace Framed

variable {P : Nat → Prop} {s t u : State}

theorem refl (P : Nat → Prop) (s : State) : Framed P s s := ⟨SameRegs.refl P s, rfl⟩

theorem trans (h : Framed P s t) (g : Framed P t u) : Framed P s u := ⟨h.regs.trans g.regs, g.core.trans h.core⟩

theorem of_same (h : Framed P s t) (hr : u.regs = t.regs) (hc : u.core = t.core) : Framed P s u := ⟨h.regs.of_regs hr, hc.trans h.core⟩

theorem wr (h : Framed P s t) {f : Fld} {base i j : Nat} (hb : ¬ P (f.at base i j)) (v : Nat) : Framed P s (t.wr f base v i j) :=
  ⟨h.regs.wr hb v, h.core⟩

theorem ite {c : Prop} [Decidable c] (ht : Framed P s t) (hu : Framed P s u) : Framed P s (if c then t else u) := by split <;> assumption

theorem forN (h : Framed P s t) {f : Nat → State → State} {n : Nat} (hf : ∀ i u, Framed P u (f i u)) : Framed P s (forN f n t) :=
  forN_induct (fun i _ hu => hu.trans (hf i _)) h

theorem forN_lt (h : Framed P s t) {f : Nat → State → State} {n : Nat} (hf : ∀ i, i < n → ∀ u, Framed P u (f i u)) :
    Framed P s (Sys2Proof.forN f n t) := by
  induction n with
  | zero => exact h
  | succ n ih => exact (ih (fun i hi => hf i (by omega))).trans (hf n (by omega) _)

theorem forEach {α : Type} (h : Framed P s t) {f : α → State → State} {l : List α} (hf : ∀ x u, Framed P u (f x u)) :
    Framed P s (forEach f l t) := forEach_induct (fun x _ hu => hu.trans (hf x _)) h

theorem setBolt (h : Framed P s t) (k : Nat) (x : BoltSt) : Framed P s (t.setBolt k x) := h.of_same rfl rfl

theorem setMeta (h : Framed P s t) (k line : Nat) (m : LineMeta) : Framed P s (t.setMeta k line m) := h.setBolt k _

theorem mono {Q : Nat → Prop} (h : Framed P s t) (hQ : ∀ a, Q a → P a) : Framed Q s t := ⟨fun a ha => h.regs a (hQ a ha), h.core⟩

end Framed

theorem not_aside_high {a : Nat} (h : 0x20000 ≤ a) : ¬ aside a := by unfold aside; omega

theorem not_aside_mid {a : Nat} (h : 0x1000 ≤ a) (h' : a < 0x10000) : ¬ aside a := by unfold aside; omega

theorem Framed.wrHigh {s t : State} (h : Framed aside s t) {f : Fld} {base : Nat} (hb : 0x20000 ≤ base) (v i j : Nat) : Aside s (t.wr f base v i j) :=
  h.wr (not_aside_high (by unfold Fld.at; omega)) v

theorem Framed.wrPatch {s t : State} (h : Framed aside s t) (u : State) (k : Nat) {f : Fld} (v i j : Nat) : Aside s (t.wr f (u.pb k) v i j) :=
  h.wrHigh (u.pb_high k) v i j

theorem bolt_high (k : Nat) : 0x20000 ≤ BOLT k := by unfold BOLT; omega

theorem Framed.wrBolt {s t : State} (h : Framed aside s t) (k : Nat) {f : Fld} (v i j : Nat) : Aside s (t.wr f (BOLT k) v i j) :=
  h.wrHigh (bolt_high k) v i j

theorem Framed.wrSec {s t : State} (h : Framed aside s t) {f : Fld} (hf : f.off < 0x1000) (v : Nat) : Aside s (t.wr f SEC v) :=
  h.wr (not_aside_mid (by unfold Fld.at SEC; omega) (by unfold Fld.at SEC; omega)) v

/-! The halt and the bolts. -/

theorem State.showRefout_aside (s : State) {n : Nat} (hn : n < 8) : Aside s (s.showRefout n) := by
  refine (Framed.refl aside s).wr ?_ _
  simp only [aside, Fld.at, F.REFO_ACTIVE, CLK]
  omega

theorem State.enterHalt_aside (s : State) (cause source line : Nat) : Aside s (s.enterHalt cause source line) := by
  unfold State.enterHalt
  have hcause := ((((((((Framed.refl aside s).wrSec (f := F.HALT_HALTED) (by decide) 1).wrSec (f := F.HALT_CAUSE) (by decide) cause).wrSec
    (f := F.HALT_SOURCE) (by decide) source).wrSec (f := F.HALT_H_STITCH_LO) (by decide) s.stitch.toNat).wrSec (f := F.HALT_H_STITCH_HI)
    (by decide) (s.stitch.toNat / 2 ^ 32)).wrSec (f := F.HALT_H_LINE) (by decide) line).wrSec (f := F.KEY_STATE) (by decide) 2).wrSec
    (f := F.KEY_COPIES) (by decide) 0
  refine Framed.ite (Framed.refl _ s) (hcause.trans ?_)
  generalize (((((((s.wr F.HALT_HALTED SEC 1).wr F.HALT_CAUSE SEC cause).wr F.HALT_SOURCE SEC source).wr F.HALT_H_STITCH_LO SEC
      s.stitch.toNat).wr F.HALT_H_STITCH_HI SEC (s.stitch.toNat / 2 ^ 32)).wr F.HALT_H_LINE SEC line).wr F.KEY_STATE SEC 2).wr
      F.KEY_COPIES SEC 0 = u
  refine Framed.forN_lt (Framed.forEach ?_ fun d v => ?_) fun n hn v => v.showRefout_aside hn
  · exact (Framed.refl aside u).of_same rfl rfl
  · exact (Framed.refl aside v).of_same (u := v.complete d.c .securityHalt) rfl rfl

theorem State.showRekey_aside (s : State) (k : Nat) : Aside s (s.showRekey k) := by
  unfold State.showRekey
  split
  · exact (Framed.refl aside s).wrBolt k _ _ _
  · exact ((Framed.refl aside s).wrBolt k _ _ _).wrBolt k _ _ _

theorem State.bumpLine_aside {s t : State} {k line : Nat} {poison : Bool} (h : s.bumpLine k line poison = some t) : Aside s t := by
  have hs := Framed.refl aside s
  unfold State.bumpLine at h
  dsimp only at h
  split at h
  · cases h
    exact hs.setMeta k _ _
  · split at h
    · split at h
      · cases h
      · cases h
        exact ((((((hs.wrBolt k _ _ _).wrBolt k _ _ _).wrBolt k _ _ _).setMeta k _ _).setBolt k _)).trans (State.showRekey_aside _ k)
    · cases h
      exact (hs.setMeta k _ _).wrBolt k _ _ _

theorem State.putLine_aside (s : State) (k line : Nat) (data : List Byte) (poison : Bool) : Aside s (s.putLine k line data poison) := by
  unfold State.putLine
  split
  · exact s.enterHalt_aside _ _ _
  · next t ht => exact (State.bumpLine_aside ht).setBolt k _

theorem State.boltRead_clean_framed (P : Nat → Prop) (s : State) (k line : Nat) : Framed P s (s.boltRead k line .clean).1 := by
  unfold State.boltRead
  split
  · exact (Framed.refl P s).of_same rfl rfl
  · dsimp only
    split <;> exact Framed.refl P s

theorem State.boltWrite_clean_aside (s : State) (k line : Nat) (data : List Byte) (mask : List Bool) :
    Aside s (s.boltWrite k line data mask .clean).1 := by
  unfold State.boltWrite
  split
  · exact s.putLine_aside k line data false
  · have hread := s.boltRead_clean_framed aside k line
    split
    · next t ht =>
      rw [ht] at hread
      exact hread
    · next t ht =>
      rw [ht] at hread
      exact hread.wrBolt _ _ _ _
    · next t old ht =>
      rw [ht] at hread
      exact hread.trans (t.putLine_aside k line _ false)

theorem State.boltWrite_clean_aside_of_eq {s t : State} {k line : Nat} {data : List Byte} {mask : List Bool} {w : LineWrite}
    (h : s.boltWrite k line data mask .clean = (t, w)) : Aside s t := by
  have hw := s.boltWrite_clean_aside k line data mask
  rwa [h] at hw

theorem State.boltPut_aside (s : State) (k a : Nat) (bytes : List Byte) : Aside s (s.boltPut k a bytes).1 := by
  unfold State.boltPut
  dsimp only
  split
  · exact Framed.refl _ s
  · refine foldl_range_induct (fun _ (p : State × Bool) => Aside s p.1) (Framed.refl _ s) _ (fun i _ p hp => ?_)
    split
    · next t ht => exact hp.trans (State.boltWrite_clean_aside_of_eq ht)
    · next t _ _ ht => exact hp.trans (State.boltWrite_clean_aside_of_eq ht)

end Sys2Proof.Machine

/-! Processor events, raises and the capture engine. -/

namespace Sys2Proof.Machine

theorem Framed.modCap {P : Nat → Prop} {s t : State} (h : Framed P s t) (k : Nat) (f : CapSt → CapSt) : Framed P s (t.modCap k f) :=
  h.of_same rfl rfl

theorem Framed.liveBump {P : Nat → Prop} {s t : State} (h : Framed P s t) (f : Fld) (base n i : Nat) : Framed P s (t.liveBump f base n i) :=
  h.of_same rfl rfl

theorem Framed.liveAdd64 {P : Nat → Prop} {s t : State} (h : Framed P s t) (lo hi n : Nat) : Framed P s (t.liveAdd64 lo hi n) :=
  h.of_same rfl rfl

theorem Framed.took {P : Nat → Prop} {s t : State} (h : Framed P s t) : Framed P s t.took := h.of_same rfl rfl

theorem Framed.modProcAt {P : Nat → Prop} {s t : State} (h : Framed P s t) (key : Nat) (f : ProcSt → ProcSt) :
    Framed P s (t.modProcAt key f) := h.of_same rfl rfl

theorem Framed.setCv {P : Nat → Prop} {s t : State} (h : Framed P s t) (k u : Nat) (x : CvSt) : Framed P s (t.setCv k u x) := h.of_same rfl rfl

theorem Framed.beginProgram {P : Nat → Prop} {s t : State} (h : Framed P s t) (key c : Nat) : Framed P s (t.beginProgram key c) :=
  h.of_same rfl rfl

/-- What a raise in the sequencer at `base` writes. -/
theorem Framed.raiseProc {P : Nat → Prop} {s t : State} (h : Framed P s t) {key : Nat} (cls : Nat) (mid : Bool)
    (hbase : ∀ u : State, Framed P s u → ∀ f ∈ [F.BANK, F.ABANDON, F.EVT_PEND], ¬ P (f.at (u.seqBase key) 0 0)) :
    Framed P s (t.raiseProc key cls mid) := by
  have hpend : Framed P s (if bitAt (t.rd F.EVT_PEND (t.seqBase key)) cls then t
      else t.wr F.EVT_PEND (t.seqBase key) (t.rd F.EVT_PEND (t.seqBase key) + 2 ^ cls)) :=
    Framed.ite h (h.wr (hbase t h _ (by simp)) _)
  unfold State.raiseProc
  dsimp only
  generalize (if bitAt (t.rd F.EVT_PEND (t.seqBase key)) cls then t
      else t.wr F.EVT_PEND (t.seqBase key) (t.rd F.EVT_PEND (t.seqBase key) + 2 ^ cls)) = u at hpend ⊢
  have hswitch : Framed P s (u.switchBank key) := by
    have hsel := (hpend.wr (hbase u hpend F.BANK (by simp)) 1).wr (f := F.ABANDON) (base := u.seqBase key) (i := 0) (j := 0)
      (hbase u hpend F.ABANDON (by simp)) (satAdd F.ABANDON.max ((u.wr F.BANK (u.seqBase key) 1).rd F.ABANDON (u.seqBase key)) 1)
    unfold State.switchBank
    dsimp only
    split
    · exact (hsel.modProcAt _ _).beginProgram _ _
    · exact hsel.modProcAt _ _
  exact Framed.ite (Framed.ite hswitch hpend) h

theorem State.raiseP_aside (s : State) {k : Nat} (hk : k < 16) (cls : Nat) : Aside s (s.raiseP k cls) :=
  (Framed.refl aside s).raiseProc cls true fun u _ f _ => not_aside_high (by
    have := u.seqBase_high hk
    unfold Fld.at
    omega)

theorem State.raiseLine_framed (P : Nat → Prop) (s : State) (cls line : Nat) : Framed P s (s.raiseLine cls line) := by
  have h : RaisedOnly s (s.raiseLine cls line) := raisedOnly_raiseAs s cls line _
  rw [h]
  exact (Framed.refl P s).of_same rfl rfl

theorem State.streamCut_framed (P : Nat → Prop) (s : State) (k slot l : Nat) : Framed P s (s.streamCut k slot l) :=
  Framed.ite ((Framed.refl P s).modCap k _) (Framed.refl P s)

theorem State.stopCap_aside (s : State) (k reason : Nat) : Aside s (s.stopCap k reason) := by
  have hcut : Aside s (forN (fun slot s => match s.slotLane k slot with | some l => s.streamCut k slot l | none => s) 16 s) := by
    refine Framed.forN (Framed.refl _ s) fun slot u => ?_
    split
    · exact u.streamCut_framed aside _ _ _
    · exact Framed.refl _ u
  unfold State.stopCap
  dsimp only
  generalize forN _ 16 s = u at hcut ⊢
  exact ((hcut.modCap k _).wrPatch s k 3 0 0).wrPatch s k reason 0 0

theorem State.segEntry_framed (P : Nat → Prop) (s : State) (k : Nat) (c : SegClose) : Framed P s (s.segEntry k c).1 :=
  Framed.ite (Framed.refl P s).took (Framed.refl P s)

theorem State.putSegEntry_aside (s : State) (k : Nat) (c : SegClose) : Aside s (s.putSegEntry k c) :=
  (s.segEntry_framed aside k c).trans (State.boltPut_aside _ _ _ _)

theorem State.flushCloses_aside (s : State) (k : Nat) : Aside s (s.flushCloses k) :=
  Framed.forEach ((Framed.refl aside s).modCap k _) fun c u => Framed.ite (c := c.left = 0) (u.putSegEntry_aside k c) (Framed.refl _ u)

theorem State.closeLine_framed (P : Nat → Prop) (s : State) (k : Nat) : Framed P s (s.closeLine k) :=
  Framed.ite (s.raiseLine_framed P _ _) (Framed.refl P s)

theorem State.segPhase_framed (P : Nat → Prop) (s : State) (k seg from_ : Nat) : Framed P s (s.segPhase k seg from_) :=
  Framed.forEach (Framed.refl P s) fun ch u => (Framed.refl P u).of_same (u := u.modChan ch _) rfl rfl

theorem State.openSeg_aside (s : State) (k seg : Nat) : Aside s (s.openSeg k seg) := by
  have h := (((s.segPhase_framed aside k seg 1).wrPatch (f := F.CAPS_STATE) s k 1 0 0).wrPatch (f := F.CAPS_SEG_NOW)
    s k seg 0 0).wrPatch (f := F.CAPS_PRE_SHORT) s k 0 0 0
  unfold State.openSeg
  exact h.modCap k _

theorem State.closeSeg_aside (s : State) (k cause : Nat) : Aside s (s.closeSeg k cause) := by
  unfold State.closeSeg
  dsimp only
  generalize hu : (s.modCap k _) = u
  have hs : Aside s u := hu ▸ (Framed.refl aside s).modCap k _
  have h := ((hs.trans (u.flushCloses_aside k)).trans (State.closeLine_framed aside _ k)).trans
    (State.segPhase_framed aside _ k (s.rd F.CAPS_SEG_NOW (s.pb k)) 0)
  exact Framed.ite (h.trans (State.openSeg_aside _ _ _)) (h.trans (State.stopCap_aside _ _ _))

theorem State.postDone_aside (s : State) (k : Nat) : Aside s (s.postDone k) := Framed.ite (s.closeSeg_aside k 0) (s.stopCap_aside k 3)

theorem State.preGuard_aside (s : State) (k : Nat) : Aside s (s.preGuard k) :=
  Framed.ite (Framed.refl _ s) (Framed.ite (s.closeSeg_aside k 1) (s.stopCap_aside k 4))

theorem State.placeFill_aside (s : State) (k : Nat) : Aside s (s.placeFill k) := by
  unfold State.placeFill
  dsimp only
  exact Framed.ite (Framed.refl _ s) ((Framed.refl _ s).took.modCap k _)

theorem State.findPlace_aside (s : State) (k n : Nat) : Aside s (s.findPlace k n).1 := by
  have hfill := s.placeFill_aside k
  have hwrap : Aside s ((s.placeFill k).wrapSpace k) := hfill.modCap k _
  unfold State.findPlace
  dsimp only
  split
  · exact Framed.refl _ s
  · split
    · split
      · exact s.preGuard_aside k
      · exact Framed.refl _ s
    · split
      · exact s.preGuard_aside k
      · split
        · exact Framed.ite (hfill.trans (State.stopCap_aside _ _ _)) hfill
        · split
          · exact hwrap.trans (State.preGuard_aside _ _)
          · exact hwrap

theorem State.place_aside (s : State) (k : Nat) (r : RecInfo) : Aside s (s.place k r) := by
  have h := s.findPlace_aside k (recordSize r.payload.length)
  unfold State.place
  dsimp only
  split
  · exact h
  · exact (h.liveAdd64 _ _ _).modCap k _

theorem State.unplace_framed (P : Nat → Prop) (s : State) (k : Nat) (rs : List CapRec) : Framed P s (s.unplace k rs) := by
  unfold State.unplace
  split
  · exact Framed.refl P s
  · refine Framed.forEach ((Framed.refl P s).modCap k _) fun r u => ?_
    split
    · exact ((Framed.refl P u).liveAdd64 _ _ _).modCap k _
    · exact Framed.refl P u

theorem State.enqueue_aside (s : State) (k : Nat) (r : RecInfo) : Aside s (s.enqueue k r) := by
  have hpost : Aside s (if s.postReached k then s.postDone k else s) := Framed.ite (s.postDone_aside k) (Framed.refl _ s)
  unfold State.enqueue
  dsimp only
  generalize (if s.postReached k then s.postDone k else s) = u at hpost ⊢
  split
  · exact (hpost.liveBump _ _ _ _).modCap k _
  · refine Framed.forEach ((hpost.trans (u.unplace_framed aside k _)).trans (State.place_aside _ _ _)) fun c v => ?_
    split
    · exact v.place_aside _ _
    · exact Framed.refl _ v

theorem State.showCap_aside (s : State) (k : Nat) : Aside s (s.showCap k) := by
  have htook : Aside s (if (s.capAt k).queued % 1024 = 0 then s else s.took) :=
    Framed.ite (Framed.refl _ s) (Framed.refl _ s).took
  exact ((((htook.wrPatch s k _ 0 0).wrPatch s k _ 0 0).wrPatch s k _ 0 0).wrPatch s k _ 0 0).wrPatch s k _ 0 0

theorem State.settle_aside (s : State) (k : Nat) (u : CapUnit) : Aside s (s.settle k u) := by
  have hs := Framed.refl aside s
  unfold State.settle
  dsimp only
  split
  · exact hs.liveBump _ _ _ _
  · exact hs.liveBump _ _ _ _
  · have hdef : Aside s (if u.verdict.isNone then s.liveBump F.CCNT_DEFAULTED (s.pb k) 1 u.slot else s) := Framed.ite (hs.liveBump _ _ _ _) hs
    exact Framed.trans (Framed.ite (hdef.liveBump _ _ _ _) (hdef.liveBump _ _ _ _)) (State.enqueue_aside _ _ _)

theorem State.endUnit_aside (s : State) (k slot : Nat) : Aside s (s.endUnit k slot) := by
  have hs := Framed.refl aside s
  unfold State.endUnit
  split
  · exact hs
  · dsimp only
    split
    · exact hs.modCap k _
    · split
      · exact (hs.modCap k _).trans (State.settle_aside _ _ _)
      · exact hs.modCap k _

theorem State.capCut_aside (s : State) (k slot : Nat) : Aside s (s.capCut k slot) :=
  (((Framed.refl aside s).modCap k _).trans (State.endUnit_aside _ k slot)).trans (State.showCap_aside _ k)

theorem State.cvOver_aside (s : State) (k slot chk : Nat) : Aside s (s.cvOver k slot chk) :=
  ((Framed.refl aside s).setCv k (slot % 8) _).wrPatch s k _ _ _

theorem State.cvCut_aside (s : State) (k slot : Nat) : Aside s (s.cvCut k slot) :=
  Framed.ite (s.cvOver_aside k slot 0) (Framed.refl _ s)

end Sys2Proof.Machine

/-! What a lane's changes of state write among the words of lane states (R171, R172): the word of that lane alone, whatever its engines do. -/

namespace Sys2Proof.Machine

/-- The offsets of the words that hold the lanes' states. -/
def stateWords (a : Nat) : Prop := 0x10000 ≤ a ∧ a < 0x20000 ∧ 0x100 ≤ a % 0x800 ∧ a % 0x40 = 8

theorem stateWords_aside {a : Nat} (h : stateWords a) : aside a := Or.inr ⟨h.1, h.2.1⟩

/-- The word of a lane's state. -/
theorem stateWord_lane {l : Nat} (hl : l < 256) {f : Fld} (hf : f.off = 0x108 ∧ f.st1 = 0x40) : stateWords (f.at (RIBBON (l / 8)) (l % 8) 0) := by
  obtain ⟨hoff, hst⟩ := hf
  unfold stateWords Fld.at RIBBON
  rw [if_pos (by omega), hoff, hst]
  omega

theorem stateWord_ne {l m : Nat} (hl : l < 256) (hm : m < 256) (h : m ≠ l) {f g : Fld} (hf : f.off = 0x108 ∧ f.st1 = 0x40)
    (hg : g.off = 0x108 ∧ g.st1 = 0x40) : g.at (RIBBON (m / 8)) (m % 8) 0 ≠ f.at (RIBBON (l / 8)) (l % 8) 0 := by
  unfold Fld.at RIBBON
  rw [if_pos (by omega), if_pos (by omega), hf.1, hf.2, hg.1, hg.2]
  omega

theorem Framed.ln {s t : State} (h : Framed stateWords s t) {l : Nat} (hl : l < 256) {f : Fld} (hf : f.off = 0x108 ∧ f.st1 = 0x40) :
    t.ln f l = s.ln f l := h.regs.rd (stateWord_lane hl hf)

/-- The same write keeps what is the same. -/
theorem Framed.both_wr {P : Nat → Prop} {s t : State} (h : Framed P s t) (f : Fld) (base v i j : Nat) :
    Framed P (s.wr f base v i j) (t.wr f base v i j) := by
  refine ⟨fun a ha => ?_, h.core⟩
  by_cases e : a = f.at base i j
  · subst e
    unfold State.wr
    rw [State.reg_setReg_same, State.reg_setReg_same, h.regs _ ha]
  · rw [State.reg_wr_other _ _ _ _ _ _ e, State.reg_wr_other _ _ _ _ _ _ e, h.regs a ha]

theorem Framed.both_setDown {s t : State} (h : Framed stateWords s t) (l st : Nat) : Framed stateWords (s.setDown l st) (t.setDown l st) :=
  ((h.both_wr _ _ _ _ _).both_wr _ _ _ _ _).both_wr _ _ _ _ _

theorem State.raiseS_framed (s : State) (r cls : Nat) : Framed stateWords s (s.raiseS r cls) := by
  refine (Framed.refl _ s).raiseProc cls true fun u _ f hf => ?_
  have hoff : f.off < 0x100 ∧ f.st1 = 0 ∧ f.st2 = 0 := by
    simp only [List.mem_cons, List.not_mem_nil, or_false] at hf
    rcases hf with rfl | rfl | rfl <;> decide
  obtain ⟨hoff, hst, hst'⟩ := hoff
  have hbase : u.seqBase (32 + r) = RIBBON (u.rsp r) := by
    unfold State.seqBase
    rw [if_neg (by omega), if_neg (by omega), Nat.add_sub_cancel_left]
  have hsp : u.rsp r ≤ 33 := Nat.min_le_left _ _
  rw [hbase]
  unfold stateWords Fld.at RIBBON
  rw [hst, hst']
  split <;> omega

theorem State.laneSlot_lt {s : State} {l k slot : Nat} (h : s.laneSlot l = some (k, slot)) : k < 16 := by
  unfold State.laneSlot State.ribPatch at h
  split at h
  · cases h
  · next j hj =>
    have hlt : j < 16 := by
      split at hj
      · cases hj
      · cases hj
        exact s.rd_lt F.RMAP_LPATCH DEV _ 0
    split at h
    · cases h
      exact hlt
    · split at h
      · cases h
        exact hlt
      · cases h

theorem Framed.modLane {P : Nat → Prop} {s t : State} (h : Framed P s t) (l : Nat) (f : LaneSt → LaneSt) : Framed P s (t.modLane l f) :=
  h.of_same rfl rfl

theorem State.leaveUp_framed (s : State) (l : Nat) : Aside s (s.leaveUp l) := by
  have hcut : Aside s (match s.laneSlot (s.firstLane l) with
      | none => s
      | some (k, slot) =>
        if (s.laneAt (s.firstLane l)).eb = [] then (s.cvCut k slot).capCut k slot
        else s.modLane (s.firstLane l) (fun x => { x with eb := x.eb ++ [⟨none, s.now, s.rootNow⟩] })) := by
    split
    · exact Framed.refl _ s
    · exact Framed.ite ((s.cvCut_aside _ _).trans (State.capCut_aside _ _ _)) ((Framed.refl _ s).modLane _ _)
  unfold State.leaveUp
  refine Framed.ite (Framed.refl _ s) ?_
  dsimp only
  split
  · exact hcut
  · next k slot hslot => exact hcut.trans (State.raiseP_aside _ (State.laneSlot_lt hslot) 0)

theorem State.leaveStream_framed (s : State) (l : Nat) : Aside s (s.leaveStream l) := by
  unfold State.leaveStream
  split
  · exact s.streamCut_framed aside _ _ l
  · exact Framed.refl _ s

theorem State.laneTo_framed (s : State) (l st : Nat) : Framed stateWords (s.setDown l st) (s.laneTo l st) := by
  have hleft : Aside s (if st = 1 then s else s.leaveStream l) := Framed.ite (Framed.refl _ s) (s.leaveStream_framed l)
  exact Framed.both_setDown ((hleft.trans (State.leaveUp_framed _ l)).mono fun _ => stateWords_aside) l st

theorem State.beginRecord_framed (P : Nat → Prop) (s : State) (l : Nat) : Framed P s (s.beginRecord l) := by
  have hs := Framed.refl P s
  unfold State.beginRecord
  dsimp only
  split
  · split
    · exact hs.of_same rfl rfl
    · exact hs
  · exact hs.of_same rfl rfl

theorem State.laneEvent_framed (s : State) (l cls : Nat) : Framed stateWords s (s.laneEvent l cls) := by
  unfold State.laneEvent
  dsimp only
  generalize hu : s.setCause l _ = u
  have hs : Framed stateWords s u := hu ▸ (Framed.refl _ s).modProcAt _ _
  exact (Framed.ite (hs.trans (u.beginRecord_framed _ l)) hs).trans (State.raiseS_framed _ _ _)

theorem State.laneCount_framed (P : Nat → Prop) (s : State) (c : LaneCtr) (l n : Nat) : Framed P s (s.laneCount c l n) := by
  have hrib := ((Framed.refl P s).liveBump c.leaf (RIBBON (l / 8)) n (l % 8)).liveBump c.rib (RIBBON (l / 8)) n 0
  unfold State.laneCount
  refine Framed.ite (Framed.refl P s) ?_
  dsimp only
  split
  · exact hrib
  · exact (hrib.liveBump _ _ _ _).liveBump _ _ _ _

theorem State.setLn_framed (s : State) {f : Fld} (hf : f.off % 0x40 ≠ 8) (hst : f.st1 = 0x40) (l v : Nat) : Framed stateWords s (s.setLn f l v) := by
  refine (Framed.refl _ s).wr ?_ v
  unfold stateWords Fld.at RIBBON
  rw [hst]
  split <;> omega

theorem Framed.forEach_mem {P : Nat → Prop} {α : Type} {f : α → State → State} {l : List α} {s t : State} (h : Framed P s t)
    (hf : ∀ x ∈ l, ∀ u, Framed P u (f x u)) : Framed P s (Sys2Proof.forEach f l t) := by
  induction l generalizing t with
  | nil => exact h
  | cons x l ih => exact ih (h.trans (hf x (by simp) t)) fun y hy => hf y (by simp [hy])

theorem State.loadBand_framed (s : State) (l : Nat) : Framed stateWords s (s.loadBand l) := by
  have hstart := ((s.setLn_framed (f := F.LN_PEAK) (by decide) rfl l (min 23 (Config.bandStart l (s.rd F.HK_BAND HK 0) 0).toNat)).trans
    (State.setLn_framed _ (f := F.LN_GAIN) (by decide) rfl l (Config.bandStart l (s.rd F.HK_BAND HK 0) 1).toNat)).trans
    (State.setLn_framed _ (f := F.LN_DFE1) (by decide) rfl l ((Clamp.srange 16 2048 2047).apply (Config.bandStart l (s.rd F.HK_BAND HK 0) 2).toNat))
  refine Framed.forEach_mem hstart fun x hx u => ?_
  have hword : x.1.off % 0x40 ≠ 8 ∧ x.1.st1 = 0x40 := by
    revert x
    decide
  exact u.setLn_framed hword.1 hword.2 l _

theorem State.acquireFrom_framed (s : State) (l : Nat) (up : Bool) : Framed stateWords (s.setDown l 1) (s.acquireFrom l up) := by
  have hdown : Framed stateWords (s.setDown l 1) ((if up then s.laneCount ctrLol l 1 else s).setDown l 1) :=
    Framed.both_setDown (Framed.ite (s.laneCount_framed _ _ _ _) (Framed.refl _ s)) l 1
  exact (Framed.ite (hdown.trans (State.loadBand_framed _ l)) hdown).trans (State.laneEvent_framed _ l 0)

theorem State.enterAcquire_framed (s : State) (l : Nat) : Framed stateWords (s.setDown l 1) (s.enterAcquire l) :=
  (Framed.both_setDown ((s.leaveUp_framed l).mono fun _ => stateWords_aside) l 1).trans (State.acquireFrom_framed _ l _)

theorem State.ln_setDown_other {s : State} {l m st : Nat} (hl : l < 256) (hm : m < 256) (h : m ≠ l) {f : Fld}
    (hf : f.off = 0x108 ∧ f.st1 = 0x40) : (s.setDown l st).ln f m = s.ln f m := by
  unfold State.setDown State.setLn State.ln
  rw [State.rd_wr_word _ _ _ _ _ _ _ _ _ _ (stateWord_ne hl hm h (by decide) hf), State.rd_wr_word _ _ _ _ _ _ _ _ _ _
    (stateWord_ne hl hm h (by decide) hf), State.rd_wr_word _ _ _ _ _ _ _ _ _ _ (stateWord_ne hl hm h (by decide) hf)]

theorem State.lstate_setDown {s : State} {l st : Nat} (hst : st < 8) : (s.setDown l st).ln F.LN_LSTATE l = st := by
  unfold State.setDown State.setLn State.ln
  rw [State.rd_wr_field _ _ _ _ _ _ _ _ _ _ (by decide) (by decide) (by decide) (by decide), State.rd_wr_field _ _ _ _ _ _ _ _ _ _ (by decide)
    (by decide) (by decide) (by decide), State.rd_wr_same _ _ _ _ _ _ (by decide) (by decide)]
  exact Nat.mod_eq_of_lt hst

theorem State.unlocked_setDown (s : State) (l st : Nat) : (s.setDown l st).ln F.LN_CDR_LOCK l = 0 ∧ (s.setDown l st).ln F.LN_PCS_LOCK l = 0 := by
  unfold State.setDown State.setLn State.ln
  rw [State.rd_wr_field _ _ _ _ _ _ _ _ _ _ (by decide) (by decide) (by decide) (by decide), State.rd_wr_same _ _ _ _ _ _ (by decide)
    (by decide), State.rd_wr_same _ _ _ _ _ _ (by decide) (by decide)]
  exact ⟨rfl, rfl⟩

theorem State.sigdet_setDown (s : State) (l st : Nat) : (s.setDown l st).ln F.LN_SIGDET l = s.ln F.LN_SIGDET l := by
  unfold State.setDown State.setLn State.ln
  rw [State.rd_wr_field _ _ _ _ _ _ _ _ _ _ (by decide) (by decide) (by decide) (by decide), State.rd_wr_field _ _ _ _ _ _ _ _ _ _ (by decide)
    (by decide) (by decide) (by decide), State.rd_wr_field _ _ _ _ _ _ _ _ _ _ (by decide) (by decide) (by decide) (by decide)]

end Sys2Proof.Machine

/-! The jack, the supplies and the test port. -/

namespace Sys2Proof.Machine

/-- Every lane that is UP goes to ACQUIRE in turn; the others keep their states. -/
theorem acquireAll_shows (s : State) (n : Nat) (hn : n ≤ 256) :
    (∀ m, m < 256 → (forN (fun l s => if s.ln F.LN_LSTATE l = 2 then s.enterAcquire l else s) n s).ln F.LN_LSTATE m
        = if m < n ∧ s.ln F.LN_LSTATE m = 2 then 1 else s.ln F.LN_LSTATE m)
      ∧ (forN (fun l s => if s.ln F.LN_LSTATE l = 2 then s.enterAcquire l else s) n s).start = s.start := by
  induction n with
  | zero => exact ⟨fun m _ => (if_neg (fun h => absurd h.1 (Nat.not_lt_zero m))).symm, rfl⟩
  | succ n ih =>
    obtain ⟨hln, hstart⟩ := ih (by omega)
    have hstep : forN (fun l s => if s.ln F.LN_LSTATE l = 2 then s.enterAcquire l else s) (n + 1) s
        = (fun u : State => if u.ln F.LN_LSTATE n = 2 then u.enterAcquire n else u)
          (forN (fun l s => if s.ln F.LN_LSTATE l = 2 then s.enterAcquire l else s) n s) := rfl
    rw [hstep]
    generalize forN (fun l s => if s.ln F.LN_LSTATE l = 2 then s.enterAcquire l else s) n s = u at hln hstart
    have hself : u.ln F.LN_LSTATE n = s.ln F.LN_LSTATE n := (hln n (by omega)).trans (if_neg (by omega))
    dsimp only
    split
    · next hup =>
      have hframe := u.enterAcquire_framed n
      refine ⟨fun m hm => ?_, (congrArg (fun c => c.1.1) hframe.core).trans hstart⟩
      rw [hframe.ln hm (by decide)]
      by_cases e : m = n
      · rw [e, State.lstate_setDown (by decide), if_pos ⟨by omega, hself ▸ hup⟩]
      · rw [State.ln_setDown_other (by omega) hm e (by decide), hln m hm]
        exact if_congr (by omega) rfl rfl
    · next hup =>
      refine ⟨fun m hm => (hln m hm).trans ?_, hstart⟩
      by_cases e : m = n
      · subst e
        rw [if_neg (by omega), if_neg (fun h => hup (hself.trans h.2))]
      · exact if_congr (by omega) rfl rfl

end Sys2Proof.Machine

namespace Sys2Proof.Machine

theorem State.idleJack_eq_zero (s : State) : s.idleJack = 0 ↔ s.rd F.JK_ACTIVE JACK = 1 := by
  have hlt : s.rd F.JK_ACTIVE JACK < 2 := s.rd_lt F.JK_ACTIVE JACK 0 0
  unfold State.idleJack
  omega

theorem requestSwap_cases {s : State} (hpend : s.rd F.JK_SWAP_PEND JACK = 0) :
    s.requestSwap = if (if s.rd F.JK_ACTIVE JACK = 1 then s.rd F.JK_VALID0 JACK = 1 else s.rd F.JK_VALID1 JACK = 1) then s.wr F.JK_SWAP_PEND JACK 1
      else s.wr F.JK_SWAP_STATUS JACK Status.refused.code := by
  unfold State.requestSwap
  dsimp only
  rw [State.flag_of_eq_zero hpend, if_neg (by decide)]
  refine if_congr ?_ rfl rfl
  by_cases h : s.rd F.JK_ACTIVE JACK = 1
  · rw [if_pos (s.idleJack_eq_zero.2 h), if_pos h]
    exact beq_iff_eq
  · rw [if_neg (mt s.idleJack_eq_zero.1 h), if_neg h]
    exact beq_iff_eq

/-- A jack swap is asked for where the inactive jack is valid, and refused where it is not. -/
theorem jackSwap_shows {s : State} (hvhk : s.start.vhk = true) (hh : s.halted = false) (hpend : s.rd F.JK_SWAP_PEND JACK = 0) :
    let valid := if s.rd F.JK_ACTIVE JACK = 1 then s.rd F.JK_VALID0 JACK = 1 else s.rd F.JK_VALID1 JACK = 1
    (valid → ∃ t, exec .jackSwap s = .next t ∧ t.rd F.JK_SWAP_PEND JACK = 1 ∧ t.rd F.JK_ACTIVE JACK = s.rd F.JK_ACTIVE JACK
        ∧ OnlyRegs [F.JK_ACTIVE.at JACK 0 0] s t)
      ∧ (¬ valid → ∃ t, exec .jackSwap s = .next t ∧ t.rd F.JK_SWAP_STATUS JACK = 3 ∧ t.rd F.JK_SWAP_PEND JACK = 0
        ∧ OnlyRegs [F.JK_ACTIVE.at JACK 0 0] s t) := by
  have hgo : exec .jackSwap s = .next s.requestSwap := act_next (by simp [hvhk, hh, State.flag_of_eq_zero hpend])
  rw [hgo, requestSwap_cases hpend]
  refine ⟨fun hv => ⟨_, rfl, ?_⟩, fun hv => ⟨_, rfl, ?_⟩⟩
  · rw [if_pos hv]
    exact ⟨State.rd_wr_same _ _ _ _ _ _ (by decide) (by decide),
      State.rd_wr_field _ _ _ _ _ _ _ _ _ _ (by decide) (by decide) (by decide) (by decide), (OnlyRegs.refl _ s).wr (by decide) _⟩
  · rw [if_neg hv]
    exact ⟨State.rd_wr_same _ _ _ _ _ _ (by decide) (by decide),
      (State.rd_wr_field _ _ _ _ _ _ _ _ _ _ (by decide) (by decide) (by decide) (by decide)).trans hpend, (OnlyRegs.refl _ s).wr (by decide) _⟩

/-- The jack's word once a swap to jack `j` has taken place. -/
def State.swapJack (s : State) (j : Nat) : State :=
  ((((s.wr F.JK_ACTIVE JACK j).wr F.JK_SWAP_PEND JACK 0).wr F.JK_SWAP_STATUS JACK 0).incr F.JK_SWAPS JACK).wr F.JK_BLANK JACK 0

theorem State.swapJack_shows (s : State) {j : Nat} (hj : j < 2) : (s.swapJack j).rd F.JK_ACTIVE JACK = j ∧ (s.swapJack j).rd F.JK_SWAP_PEND JACK = 0
    ∧ (s.swapJack j).rd F.JK_SWAP_STATUS JACK = 0 ∧ (s.swapJack j).rd F.JK_SWAPS JACK = (s.rd F.JK_SWAPS JACK + 1) % 65536
    ∧ (s.swapJack j).rd F.JK_BLANK JACK = 0 := by
  unfold State.swapJack State.incr
  simp (disch := decide) only [State.rd_wr_field, State.rd_wr_same]
  exact ⟨Nat.mod_eq_of_lt hj, rfl, rfl, rfl, rfl⟩

/-- A swap takes place, or is given up. -/
theorem jackSwap_ends {s : State} (hvhk : s.start.vhk = true) (hpend : s.rd F.JK_SWAP_PEND JACK = 1) :
    (∀ any ok : Bool, any = true ∨ ok = true → ∃ t, exec (.jackSwapExecute any ok) s = .next t ∧ t.rd F.JK_ACTIVE JACK = 1 - s.rd F.JK_ACTIVE JACK
        ∧ t.rd F.JK_SWAP_PEND JACK = 0 ∧ t.rd F.JK_SWAP_STATUS JACK = 0 ∧ t.rd F.JK_SWAPS JACK = (s.rd F.JK_SWAPS JACK + 1) % 65536
        ∧ t.rd F.JK_BLANK JACK = 0
        ∧ t = { s with regs := t.regs, cfg := { s.cfg with jackActive := 1 - s.rd F.JK_ACTIVE JACK },
                       start := { s.start with jackSt := initState (s.cfg.jackImgs.get (fun _ => []) (1 - s.rd F.JK_ACTIVE JACK)) } })
      ∧ ∃ t, exec .jackSwapTimeout s = .next t ∧ t.rd F.JK_SWAP_PEND JACK = 0 ∧ t.rd F.JK_SWAP_STATUS JACK = 3
        ∧ t.rd F.JK_ACTIVE JACK = s.rd F.JK_ACTIVE JACK ∧ OnlyRegs [F.JK_ACTIVE.at JACK 0 0] s t := by
  have hflag := State.flag_of_eq_one hpend
  have hlt : s.rd F.JK_ACTIVE JACK < 2 := s.rd_lt F.JK_ACTIVE JACK 0 0
  obtain ⟨hactive, hdone, hstatus, hswaps, hblank⟩ := s.swapJack_shows (j := 1 - s.rd F.JK_ACTIVE JACK) (by omega)
  refine ⟨fun any ok h => ⟨_, act_next (by simp [hvhk, hflag, h]), hactive, hdone, hstatus, hswaps, hblank, rfl⟩, _,
    act_next (by simp [hvhk, hflag]), ?_⟩
  refine ⟨?_, State.rd_wr_same _ _ _ _ _ _ (by decide) (by decide), ?_, ((OnlyRegs.refl _ s).wr (by decide) _).wr (by decide) _⟩ <;>
    simp (disch := decide) only [State.rd_wr_field, State.rd_wr_same, Nat.zero_mod]

/-- A rail that leaves its limits takes the lanes that are UP to ACQUIRE. -/
theorem vlaneOutOfLimits_shows {s : State} (hvhk : s.start.vhk = true) (high : Bool) (off : Nat)
    (hrail : (if high then s.start.vlaneH else s.start.vlane) = true) :
    ∃ t, exec (.vlaneOutOfLimits high off) s = .next t ∧ (if high then t.start.vlaneH else t.start.vlane) = false
      ∧ (s.halted = false → s.cfg.released = true → ∀ l : Lane,
        t.ln F.LN_LSTATE l.val = if s.ln F.LN_LSTATE l.val = 2 then 1 else s.ln F.LN_LSTATE l.val)
      ∧ (s.halted = true ∨ s.cfg.released = false → t.regs = s.regs) := by
  refine ⟨_, act_next (by simp [hvhk, hrail]), ?_⟩
  generalize hu : ({ s.tick off with start := _ } : State) = u
  have hregs : u.regs = s.regs := by rw [← hu]; rfl
  have hout : (if high then u.start.vlaneH else u.start.vlane) = false := by
    rw [← hu]
    cases high <;> rfl
  by_cases hq : s.halted = true ∨ ¬ s.cfg.released = true
  · rw [if_pos hq]
    refine ⟨hout, fun hh hr => ?_, fun _ => hregs⟩
    exact absurd hq (by simp [hh, hr])
  · rw [if_neg hq]
    obtain ⟨hln, hstart⟩ := acquireAll_shows u 256 le_rfl
    have hsame : ∀ m, u.ln F.LN_LSTATE m = s.ln F.LN_LSTATE m := fun m => (SameRegs.of_regs (SameRegs.refl (fun _ => True) s) hregs).rd trivial
    refine ⟨by rw [hstart]; exact hout, fun _ _ l => ?_, fun h => absurd (h.imp_right fun hr => Bool.eq_false_iff.1 hr) hq⟩
    rw [hln l.val l.isLt, hsame]
    exact if_congr (and_iff_right l.isLt) rfl rfl

theorem testInstruction_loads {s : State} (hvhk : s.start.vhk = true) {i : Instr} {code : Nat}
    (h : (i, code) ∈ [(Instr.tapReset, 1), (.bypass, 0xFF), (.samplePreload, 2)]) : exec i s = .next { s with tap := ⟨code⟩ } := by
  simp only [List.mem_cons, Prod.mk.injEq, List.not_mem_nil, or_false] at h
  rcases h with ⟨rfl, rfl⟩ | ⟨rfl, rfl⟩ | ⟨rfl, rfl⟩ <;> exact act_next hvhk

/-- A board-test instruction is taken where the balls may be, and acts as SAMPLE/PRELOAD elsewhere. -/
theorem boardTest_loads {s : State} (code : Nat) :
    s.loadTap code true = { s with tap := ⟨if s.start.vin = true ∧ s.rd F.CFG_STATE CFG ≠ 2 then code else 2⟩ } := by
  unfold State.loadTap State.testBalls
  by_cases hv : s.start.vin = true <;> by_cases hc : s.rd F.CFG_STATE CFG = 2 <;> simp [hv, hc]

theorem boardTest_exec {s : State} (hvhk : s.start.vhk = true) {i : Instr} {code : Nat}
    (h : (i, code) ∈ [(Instr.extest, 0), (.extestPulse, 3), (.extestTrain, 4), (.clamp, 5), (.highz, 6)]) :
    exec i s = .next { s with tap := ⟨if s.start.vin = true ∧ s.rd F.CFG_STATE CFG ≠ 2 then code else 2⟩ } := by
  simp only [List.mem_cons, Prod.mk.injEq, List.not_mem_nil, or_false] at h
  rw [← boardTest_loads]
  rcases h with ⟨rfl, rfl⟩ | ⟨rfl, rfl⟩ | ⟨rfl, rfl⟩ | ⟨rfl, rfl⟩ | ⟨rfl, rfl⟩ <;> exact act_next hvhk

/-- Settles O60: of a rail that leaves its limits it is shown lane by lane that nothing else writes the lanes' states. -/
theorem jackSuppliesAndTestPort : Obligations.JackSuppliesAndTestPort := by
  unfold Obligations.JackSuppliesAndTestPort
  intro s hvhk active valid jk
  refine ⟨fun hh hpend => jackSwap_shows hvhk hh hpend, fun hpend => jackSwap_ends hvhk hpend, fun bank level => ?_, fun high off => ⟨fun hrail =>
    vlaneOutOfLimits_shows hvhk high off hrail, fun hrail => ?_⟩, fun i code h => testInstruction_loads hvhk h, act_next hvhk,
    fun i code h => boardTest_exec hvhk h, fun code => act_next hvhk⟩
  · exact ⟨_, act_next hvhk, rfl, fun b => Tab.get_put _ _ _ _ _, _, act_next hvhk, rfl, fun b => Tab.get_put _ _ _ _ _⟩
  · have hoff : (if high then s.start.vlaneH else s.start.vlane) = false := hrail
    exact ⟨_, act_next (by simp [hvhk, hoff]), by cases high <;> rfl, rfl⟩

end Sys2Proof.Machine

/-! Lanes that come UP (R171, R161), and lanes that leave UP, IDLE or any state for FAULT (R171, R178, R185). -/

namespace Sys2Proof.Machine

theorem State.laneAt_modLane (s : State) (l m : Nat) (f : LaneSt → LaneSt) :
    (s.modLane l f).laneAt m = if m = l then f (s.laneAt l) else s.laneAt m := Tab.get_put _ _ _ _ _

/-- Nothing but the lanes' frequencies held for LOOP differs. -/
structure FollowsOnly (s t : State) : Prop where
  frame : t = { s with lanes := t.lanes }
  ppm : ∀ m, (t.laneAt m).rxPpm = (s.laneAt m).rxPpm
  ctl : ∀ m, (t.laneAt m).ctl = (s.laneAt m).ctl

theorem FollowsOnly.ln {s t : State} (h : FollowsOnly s t) (f : Fld) (l : Nat) : t.ln f l = s.ln f l := by rw [h.frame]; rfl

theorem State.followLoop_only (s : State) (l : Nat) : FollowsOnly s (s.followLoop l) := by
  unfold State.followLoop
  dsimp only
  split
  · refine ⟨rfl, fun m => ?_, fun m => ?_⟩ <;>
    · rw [State.laneAt_modLane]
      split
      · next e => rw [e]
      · rfl
  · exact ⟨rfl, fun _ => rfl, fun _ => rfl⟩

theorem State.laneAt_followLoop_other (s : State) {l m : Nat} (h : m ≠ l) : (s.followLoop l).laneAt m = s.laneAt m := by
  unfold State.followLoop
  dsimp only
  split
  · exact (State.laneAt_modLane _ _ _ _).trans (if_neg h)
  · rfl

/-- The transmitter of a lane in LOOP holds the frequency of the lane that it names, where that is UP. -/
theorem State.txHeld_followLoop {s : State} {l m : Nat} (hloop : s.lnCtl F.LN_TX_CLK l = 1) (hname : l / 8 * 8 + s.ln F.LN_TX_CLK_LANE l = m)
    (hup : s.ln F.LN_LSTATE m = 2) : ((s.followLoop l).laneAt l).txHeld = some (s.laneAt m).rxPpm := by
  unfold State.followLoop
  dsimp only
  rw [hname, if_pos ⟨hloop, hup⟩, State.laneAt_modLane, if_pos rfl]

/-- After the lanes of a ribbon have looked, those in LOOP on an UP lane hold its frequency. -/
theorem followRibbon_shows (s : State) (r m n : Nat) (hn : n ≤ 8) (hup : s.ln F.LN_LSTATE m = 2) :
    FollowsOnly s (forN (fun i s => s.followLoop (r * 8 + i)) n s)
      ∧ ∀ i, i < n → s.lnCtl F.LN_TX_CLK (r * 8 + i) = 1 → r * 8 + s.ln F.LN_TX_CLK_LANE (r * 8 + i) = m →
        ((forN (fun i s => s.followLoop (r * 8 + i)) n s).laneAt (r * 8 + i)).txHeld = some (s.laneAt m).rxPpm := by
  induction n with
  | zero => exact ⟨⟨rfl, fun _ => rfl, fun _ => rfl⟩, fun i hi => absurd hi (Nat.not_lt_zero i)⟩
  | succ n ih =>
    obtain ⟨hu, hheld⟩ := ih (by omega)
    have hstep : forN (fun i s => s.followLoop (r * 8 + i)) (n + 1) s
        = (forN (fun i s => s.followLoop (r * 8 + i)) n s).followLoop (r * 8 + n) := rfl
    rw [hstep]
    generalize forN (fun i s => s.followLoop (r * 8 + i)) n s = u at hu hheld
    obtain ⟨hframe, hppm, hctl⟩ := u.followLoop_only (r * 8 + n)
    refine ⟨⟨?_, fun a => (hppm a).trans (hu.ppm a), fun a => (hctl a).trans (hu.ctl a)⟩, fun i hi hloop hname => ?_⟩
    · rw [hframe]
      generalize (u.followLoop (r * 8 + n)).lanes = x
      rw [hu.frame]
    · by_cases e : i = n
      · subst e
        have hloop' : u.lnCtl F.LN_TX_CLK (r * 8 + i) = 1 := by
          unfold State.lnCtl at hloop ⊢
          rw [hu.ctl]
          exact hloop
        rw [State.txHeld_followLoop (m := m) hloop' (by rw [hu.ln]; omega) (by rw [hu.ln]; exact hup), hu.ppm]
      · rw [State.laneAt_followLoop_other _ (by omega)]
        exact hheld i (by omega) hloop hname

theorem State.showService_shows (s : State) : s.showService = { s with regs := s.showService.regs }
    ∧ ∀ a, a ≠ F.ST_PHASE.at DEV 0 0 → s.showService.reg a = s.reg a := by
  unfold State.showService
  split
  · exact ⟨rfl, fun a ha => State.reg_wr_other _ _ _ _ _ _ ha⟩
  · exact ⟨rfl, fun _ _ => rfl⟩

/-- The registers of a lane that training has brought UP, with what training found. -/
def State.trainedRegs (s : State) (l lock lat skew : Nat) : State :=
  (((((s.setLn F.LN_LSTATE l 2).setLn F.LN_SIGDET l 1).setLn F.LN_CDR_LOCK l 1).setLn F.LN_PCS_LOCK l lock).setLn F.LN_FE_LAT l lat).setLn
    F.LN_SKEW l skew

theorem State.trainedRegs_shows (s : State) (l : Nat) {lock lat skew : Nat} (hlock : lock < 2) (hlat : lat < 256) (hskew : skew < 256) :
    let t := s.trainedRegs l lock lat skew
    t.ln F.LN_LSTATE l = 2 ∧ t.ln F.LN_SIGDET l = 1 ∧ t.ln F.LN_CDR_LOCK l = 1 ∧ t.ln F.LN_PCS_LOCK l = lock ∧ t.ln F.LN_FE_LAT l = lat
      ∧ t.ln F.LN_SKEW l = skew := by
  unfold State.trainedRegs State.setLn State.ln
  simp (disch := decide) only [State.rd_wr_field, State.rd_wr_same]
  exact ⟨rfl, rfl, rfl, Nat.mod_eq_of_lt hlock, Nat.mod_eq_of_lt hlat, Nat.mod_eq_of_lt hskew⟩

theorem State.trainedRegs_frame (s : State) (l lock lat skew : Nat) :
    s.trainedRegs l lock lat skew = { s with regs := (s.trainedRegs l lock lat skew).regs } := rfl

theorem State.trainedRegs_other (s : State) (l lock lat skew : Nat) {a : Nat} (h : a ≠ F.LN_LSTATE.at (RIBBON (l / 8)) (l % 8) 0) :
    (s.trainedRegs l lock lat skew).reg a = s.reg a := by
  have hmem : ∀ f : Fld, f.off = 0x108 ∧ f.st1 = 0x40 → f.st2 = 0 →
      f.at (RIBBON (l / 8)) (l % 8) 0 ∈ [F.LN_LSTATE.at (RIBBON (l / 8)) (l % 8) 0] := fun f hf _ => by
    simp only [List.mem_singleton, Fld.at, hf.1, hf.2, F.LN_LSTATE]
    omega
  have honly := ((((((OnlyRegs.refl [F.LN_LSTATE.at (RIBBON (l / 8)) (l % 8) 0] s).wr (f := F.LN_LSTATE) (hmem _ (by decide) rfl) 2).wr
    (f := F.LN_SIGDET) (hmem _ (by decide) rfl) 1).wr (f := F.LN_CDR_LOCK) (hmem _ (by decide) rfl) 1).wr (f := F.LN_PCS_LOCK)
    (hmem _ (by decide) rfl) lock).wr (f := F.LN_FE_LAT) (hmem _ (by decide) rfl) lat).wr (f := F.LN_SKEW) (hmem _ (by decide) rfl) skew
  exact honly.2 a (by simpa using h)

/-- The frequency that training finds, in ppm, from a free value. -/
theorem ppm_bounds (w : Nat) : (-5300 : Int) ≤ ((w / 65536 % 5601 : Nat) : Int) - 5300 ∧ ((w / 65536 % 5601 : Nat) : Int) - 5300 ≤ 300 := by omega

theorem State.enterUp_eq (s : State) (l : Nat) : s.enterUp l =
    (forN (fun i s => s.followLoop (l / 8 * 8 + i)) 8 ((s.took.trainedRegs l (bit (s.pcsOf l != 0)) (s.freeWord.toNat % 117)
      (if (s.laneAt l).group.2 = 1 then 0 else s.freeWord.toNat / 256 % 205)).modLane l
      (fun x => { x with rxPpm := (s.freeWord.toNat / 65536 % 5601 : Nat) - 5300 }))).showService := rfl

/-- A lane enters UP. -/
theorem State.enterUp_shows (s : State) (l : Nat) :
    let t := s.enterUp l
    (t.ln F.LN_LSTATE l = 2 ∧ t.ln F.LN_SIGDET l = 1 ∧ t.ln F.LN_CDR_LOCK l = 1 ∧ t.ln F.LN_PCS_LOCK l = (if s.pcsOf l = 0 then 0 else 1)
      ∧ t.ln F.LN_FE_LAT l ≤ 116 ∧ t.ln F.LN_SKEW l ≤ 204) ∧ (-5300 ≤ (t.laneAt l).rxPpm ∧ (t.laneAt l).rxPpm ≤ 300)
      ∧ (∀ i, i < 8 → s.lnCtl F.LN_TX_CLK (l / 8 * 8 + i) = 1 → l / 8 * 8 + s.ln F.LN_TX_CLK_LANE (l / 8 * 8 + i) = l →
        (t.laneAt (l / 8 * 8 + i)).txHeld = some (t.laneAt l).rxPpm)
      ∧ t = { s with regs := t.regs, lanes := t.lanes, fresh := t.fresh }
      ∧ ∀ a, a ≠ F.ST_PHASE.at DEV 0 0 → a ≠ F.LN_LSTATE.at (RIBBON (l / 8)) (l % 8) 0 → t.reg a = s.reg a := by
  have hlock : bit (s.pcsOf l != 0) = if s.pcsOf l = 0 then 0 else 1 := by
    by_cases h : s.pcsOf l = 0 <;> simp [h, bit]
  have hskew : (if (s.laneAt l).group.2 = 1 then 0 else s.freeWord.toNat / 256 % 205) ≤ 204 := by
    split <;> omega
  have hshown := s.took.trainedRegs_shows l (lock := bit (s.pcsOf l != 0)) (lat := s.freeWord.toNat % 117)
    (skew := if (s.laneAt l).group.2 = 1 then 0 else s.freeWord.toNat / 256 % 205) (by rw [hlock]; split <;> decide) (by omega) (by omega)
  have hother := fun a => s.took.trainedRegs_other l (bit (s.pcsOf l != 0)) (s.freeWord.toNat % 117)
    (if (s.laneAt l).group.2 = 1 then 0 else s.freeWord.toNat / 256 % 205) (a := a)
  have hframe := s.took.trainedRegs_frame l (bit (s.pcsOf l != 0)) (s.freeWord.toNat % 117)
    (if (s.laneAt l).group.2 = 1 then 0 else s.freeWord.toNat / 256 % 205)
  rw [State.enterUp_eq]
  generalize s.took.trainedRegs l (bit (s.pcsOf l != 0)) (s.freeWord.toNat % 117)
    (if (s.laneAt l).group.2 = 1 then 0 else s.freeWord.toNat / 256 % 205) = u at hshown hother hframe
  obtain ⟨hstate, hsig, hcdr, hpcs, hlat, hsk⟩ := hshown
  have hppm := ppm_bounds s.freeWord.toNat
  generalize hv : u.modLane l (fun x => { x with rxPpm := (s.freeWord.toNat / 65536 % 5601 : Nat) - 5300 }) = v
  have hvln : ∀ f m, v.ln f m = u.ln f m := fun f m => by rw [← hv]; rfl
  have hvppm : (v.laneAt l).rxPpm = ((s.freeWord.toNat / 65536 % 5601 : Nat) : Int) - 5300 := by
    rw [← hv, State.laneAt_modLane, if_pos rfl]
  have hvctl : ∀ m, (v.laneAt m).ctl = (s.laneAt m).ctl := fun m => by
    rw [← hv, State.laneAt_modLane, hframe]
    split
    · next e => rw [e]; rfl
    · rfl
  obtain ⟨hfollow, hheld⟩ := followRibbon_shows v (l / 8) l 8 le_rfl (by rw [hvln]; exact hstate)
  generalize forN (fun i s => s.followLoop (l / 8 * 8 + i)) 8 v = w at hfollow hheld
  obtain ⟨hserve, hregs⟩ := w.showService_shows
  generalize hx : w.showService = x at hserve hregs
  have hln : ∀ f : Fld, x.reg (f.at (RIBBON (l / 8)) (l % 8) 0) = w.reg (f.at (RIBBON (l / 8)) (l % 8) 0) := fun f => by
    refine hregs _ ?_
    have hb : 0xA000 ≤ RIBBON (l / 8) := by unfold RIBBON; split <;> omega
    simp only [Fld.at, F.ST_PHASE, DEV]
    omega
  have hlnx : ∀ f : Fld, x.ln f l = u.ln f l := fun f =>
    (congrArg (bitsOf f.hi f.lo) (hln f)).trans ((hfollow.ln f l).trans (hvln f l))
  have hlanes : x.laneAt = w.laneAt := by rw [hserve]; rfl
  dsimp only
  rw [hlanes, hfollow.ppm, hvppm]
  refine ⟨⟨(hlnx _).trans hstate, (hlnx _).trans hsig, (hlnx _).trans hcdr, (hlnx _).trans (hpcs.trans hlock), ?_, ?_⟩, hppm,
    fun i hi hloop hname => ?_, ?_, fun a ha ha' => ?_⟩
  · rw [hlnx, hlat]
    omega
  · rw [hlnx, hsk]
    exact hskew
  · rw [← hvppm]
    refine hheld i hi ?_ ?_
    · unfold State.lnCtl at hloop ⊢
      rw [hvctl]
      exact hloop
    · have hword : u.ln F.LN_TX_CLK_LANE (l / 8 * 8 + i) = s.ln F.LN_TX_CLK_LANE (l / 8 * 8 + i) := by
        refine congrArg (bitsOf F.LN_TX_CLK_LANE.hi F.LN_TX_CLK_LANE.lo) (hother _ ?_)
        have hr : (l / 8 * 8 + i) / 8 = l / 8 := by omega
        simp only [Fld.at, F.LN_TX_CLK_LANE, F.LN_LSTATE, hr]
        omega
      rw [hvln, hword]
      exact hname
  · rw [hserve]
    generalize x.regs = xr
    rw [hfollow.frame]
    generalize w.lanes = wl
    rw [← hv, hframe]
    rfl
  · rw [hregs a ha, hfollow.frame, ← hv]
    exact hother a ha'

end Sys2Proof.Machine

namespace Sys2Proof.Machine

/-! Processor events keep the causes that a processor shows. -/

theorem State.cause_modProcAt (s : State) (key k : Nat) {f : ProcSt → ProcSt} (hf : ∀ x, (f x).cause = x.cause) :
    ((s.modProcAt key f).procAt k).cause = (s.procAt k).cause := by
  by_cases e : k = key
  · subst e
    rw [State.procAt_modSame]
    exact hf _
  · unfold State.modProcAt
    rw [State.procAt_set, if_neg e]

theorem State.cause_raiseProc (s : State) (key cls : Nat) (mid : Bool) (k : Nat) : ((s.raiseProc key cls mid).procAt k).cause = (s.procAt k).cause := by
  have hswitch : ∀ u : State, ((u.switchBank key).procAt k).cause = (u.procAt k).cause := fun u => by
    unfold State.switchBank State.beginProgram
    dsimp only
    split
    · refine (State.cause_modProcAt _ _ _ ?_).trans (State.cause_modProcAt _ _ _ ?_) <;> exact fun _ => rfl
    · refine State.cause_modProcAt _ _ _ ?_
      exact fun _ => rfl
  have hpend : ((if bitAt (s.rd F.EVT_PEND (s.seqBase key)) cls then s
      else s.wr F.EVT_PEND (s.seqBase key) (s.rd F.EVT_PEND (s.seqBase key) + 2 ^ cls)).procAt k).cause = (s.procAt k).cause := by
    split <;> rfl
  unfold State.raiseProc
  dsimp only
  split
  · split
    · rw [hswitch, hpend]
    · exact hpend
  · rfl

theorem State.laneCause_beginRecord (s : State) (l m : Nat) : (s.beginRecord l).laneCause m = s.laneCause m := by
  unfold State.beginRecord
  dsimp only
  split
  · split <;> rfl
  · rfl

theorem bitAt_or_bit (c : Nat) {cls : Nat} (h : cls < 3) : bitAt ((if bitAt c cls then c else c + 2 ^ cls) % 8) cls = true := by
  unfold bitAt
  interval_cases cls <;> simp <;> split <;> omega

/-- A lane event shows its class among the lane's causes. -/
theorem State.cause_laneEvent (s : State) (l : Nat) {cls : Nat} (h : cls < 3) : bitAt ((s.laneEvent l cls).laneCause l) cls = true := by
  unfold State.laneEvent
  dsimp only
  generalize hv : (if bitAt (s.laneCause l) cls then s.laneCause l else s.laneCause l + 2 ^ cls) = v
  have hshown : (s.setCause l v).laneCause l = v % 8 := by
    unfold State.setCause State.laneCause
    rw [State.procAt_modSame, Tab.get_put_same, BitVec.toNat_ofNat]
    exact Nat.mod_eq_of_lt (by omega)
  have hraised : ∀ u : State, (u.raiseS (l / 8) cls).laneCause l = u.laneCause l := fun u => by
    unfold State.laneCause State.raiseS
    rw [State.cause_raiseProc]
  rw [hraised]
  have hrec : (if cls ≤ 1 then (s.setCause l v).beginRecord l else s.setCause l v).laneCause l = v % 8 := by
    split
    · rw [State.laneCause_beginRecord, hshown]
    · exact hshown
  rw [hrec, ← hv]
  exact bitAt_or_bit _ h

theorem up_of_lanesOn {s : State} (h : s.lanesOn = true) : s.up = true := by
  simp only [State.lanesOn, State.stackOn, Bool.and_eq_true] at h
  exact h.1.1.1

/-- A lane that enters ACQUIRE. -/
theorem State.enterAcquire_shows (s : State) {l : Nat} (hl : l < 256) :
    (s.enterAcquire l).ln F.LN_LSTATE l = 1 ∧ ((s.enterAcquire l).ln F.LN_CDR_LOCK l = 0 ∧ (s.enterAcquire l).ln F.LN_PCS_LOCK l = 0)
      ∧ (s.enterAcquire l).ln F.LN_SIGDET l = s.ln F.LN_SIGDET l ∧ bitAt ((s.enterAcquire l).laneCause l) 0 = true := by
  have hframe := s.enterAcquire_framed l
  obtain ⟨hcdr, hpcs⟩ := s.unlocked_setDown l 1
  exact ⟨(hframe.ln hl (by decide)).trans (State.lstate_setDown (by decide)), ⟨(hframe.ln hl (by decide)).trans hcdr,
    (hframe.ln hl (by decide)).trans hpcs⟩, (hframe.ln hl (by decide)).trans (s.sigdet_setDown l 1), State.cause_laneEvent _ l (by decide)⟩

/-- A lane whose signal ends. -/
theorem elecIdle_shows (l : Lane) (off : Nat) {s : State} (hon : s.lanesOn = true) (hup : s.ln F.LN_LSTATE l.val = 2) :
    ∃ t, exec (.elecIdle l off) s = .next t ∧ t.ln F.LN_LSTATE l.val = 3 ∧ (t.ln F.LN_CDR_LOCK l.val = 0 ∧ t.ln F.LN_PCS_LOCK l.val = 0)
      ∧ t.ln F.LN_SIGDET l.val = 0 ∧ bitAt (t.laneCause l.val) 2 = true := by
  refine ⟨_, act_next (by simp [hon, hup]), ?_⟩
  have hdown := (s.tick off).laneTo_framed l.val 3
  have hframe := ((hdown.both_wr F.LN_SIGDET (RIBBON (l.val / 8)) 0 (l.val % 8) 0).trans (State.laneCount_framed _ _ ctrIdle l.val 1)).trans
    (State.laneEvent_framed _ l.val 2)
  have hln : ∀ f : Fld, f.off = 0x108 ∧ f.st1 = 0x40 → _ := fun f hf => hframe.ln (f := f) l.isLt hf
  obtain ⟨hcdr, hpcs⟩ := (s.tick off).unlocked_setDown l.val 3
  refine ⟨(hln _ (by decide)).trans ?_, ⟨(hln _ (by decide)).trans ?_, (hln _ (by decide)).trans ?_⟩, (hln _ (by decide)).trans ?_,
    State.cause_laneEvent _ l.val (by decide)⟩
  · exact (State.rd_wr_field _ _ _ _ _ _ _ _ _ _ (by decide) (by decide) (by decide) (by decide)).trans (State.lstate_setDown (by decide))
  · exact (State.rd_wr_field _ _ _ _ _ _ _ _ _ _ (by decide) (by decide) (by decide) (by decide)).trans hcdr
  · exact (State.rd_wr_field _ _ _ _ _ _ _ _ _ _ (by decide) (by decide) (by decide) (by decide)).trans hpcs
  · exact State.rd_wr_same _ _ _ _ _ _ (by decide) (by decide)

/-- A lane whose signal is detected again. -/
theorem signalDetect_shows (l : Lane) (off : Nat) {s : State} (hon : s.lanesOn = true) (hidle : s.ln F.LN_LSTATE l.val = 3)
    (hfree : s.rxBusy l.val = false) : ∃ t, exec (.signalDetect l off) s = .next t ∧ t.ln F.LN_LSTATE l.val = 1
      ∧ t.ln F.LN_SIGDET l.val = 1 ∧ (t.ln F.LN_CDR_LOCK l.val = 0 ∧ t.ln F.LN_PCS_LOCK l.val = 0) := by
  obtain ⟨hstate, hdown, hsig, _⟩ := ((s.tick off).setLn F.LN_SIGDET l.val 1).enterAcquire_shows l.isLt
  exact ⟨_, act_next (by simp [hon, hidle, hfree]), hstate, hsig.trans (State.rd_wr_same _ _ _ _ _ _ (by decide) (by decide)), hdown⟩

theorem State.lanes_event (s : State) (e : EvCode) (block inst : Nat) (args : List Nat) (st : Status) :
    (s.event e block inst args st).lanes = s.lanes := by
  unfold State.event
  split <;> rfl

theorem Framed.event {P : Nat → Prop} {s t : State} (h : Framed P s t) (e : EvCode) (block inst : Nat) (args : List Nat) (st : Status) :
    Framed P s (t.event e block inst args st) := Framed.ite h (h.of_same rfl rfl)

theorem Framed.complete {P : Nat → Prop} {s t : State} (h : Framed P s t) (c : CmdRef) (st : Status) (data : List Nat) :
    Framed P s (t.complete c st data) := h.of_same rfl rfl

/-- A lane that enters FAULT. -/
theorem State.enterFault_shows (s : State) {l cause : Nat} (hl : l < 256) (hcause : cause < 16) :
    (s.enterFault l cause).ln F.LN_LSTATE l = 4
      ∧ ((s.enterFault l cause).ln F.LN_CDR_LOCK l = 0 ∧ (s.enterFault l cause).ln F.LN_PCS_LOCK l = 0)
      ∧ (s.enterFault l cause).ln F.LN_FAULT_CAUSE l = cause ∧ ((s.enterFault l cause).laneAt l).sending = false
      ∧ ∀ q ∈ ((s.enterFault l cause).laneAt l).runs ++ ((s.enterFault l cause).laneAt l).waiting, q.kind = 4 := by
  unfold State.enterFault
  dsimp only
  generalize hv : ((((s.laneTo l 4).setLn F.LN_FAULT_CAUSE l cause).restartTx l).modLane l _) = v
  have hquiet : (v.laneAt l).sending = false ∧ ∀ q ∈ (v.laneAt l).runs ++ (v.laneAt l).waiting, q.kind = 4 := by
    rw [← hv, State.laneAt_modLane, if_pos rfl]
    refine ⟨?_, fun q hq => ?_⟩
    · dsimp only
      unfold State.restartTx
      rw [State.laneAt_modLane, if_pos rfl]
    · simp only [List.mem_append, List.mem_filter, beq_iff_eq] at hq
      exact hq.elim (fun h => h.2) (fun h => h.2)
  have hframe : Framed stateWords ((s.setDown l 4).setLn F.LN_FAULT_CAUSE l cause) v :=
    hv ▸ ((((s.laneTo_framed l 4).both_wr F.LN_FAULT_CAUSE (RIBBON (l / 8)) cause (l % 8) 0).modLane l _).modLane l _)
  generalize ((s.laneAt l).runs ++ (s.laneAt l).waiting).filter (fun q => q.kind != 4) = out
  have hended : Framed stateWords v ((forEach (fun (q : LaneReq) s => s.complete q.c .refused) out v).event .laneFault blkRIBBON l [cause]) := by
    refine Framed.event (Framed.forEach (Framed.refl _ v) fun q u => ?_) _ _ _ _ _
    exact (Framed.refl _ u).complete _ _ _
  have hlanes : ((forEach (fun (q : LaneReq) s => s.complete q.c .refused) out v).event .laneFault blkRIBBON l [cause]).lanes = v.lanes := by
    rw [State.lanes_event]
    exact forEach_induct (P := fun u : State => u.lanes = v.lanes) (fun _ _ hu => hu) rfl
  generalize (forEach (fun (q : LaneReq) s => s.complete q.c .refused) out v).event .laneFault blkRIBBON l [cause] = t at hended hlanes
  have hlane : t.laneAt l = v.laneAt l := by
    unfold State.laneAt
    rw [hlanes]
  have hln : ∀ f : Fld, f.off = 0x108 ∧ f.st1 = 0x40 → _ := fun f hf => (hframe.trans hended).ln (f := f) hl hf
  obtain ⟨hcdr, hpcs⟩ := s.unlocked_setDown l 4
  rw [hlane]
  refine ⟨(hln _ (by decide)).trans ?_, ⟨(hln _ (by decide)).trans ?_, (hln _ (by decide)).trans ?_⟩, (hln _ (by decide)).trans ?_, hquiet⟩
  · exact (State.rd_wr_field _ _ _ _ _ _ _ _ _ _ (by decide) (by decide) (by decide) (by decide)).trans (State.lstate_setDown (by decide))
  · exact (State.rd_wr_field _ _ _ _ _ _ _ _ _ _ (by decide) (by decide) (by decide) (by decide)).trans hcdr
  · exact (State.rd_wr_field _ _ _ _ _ _ _ _ _ _ (by decide) (by decide) (by decide) (by decide)).trans hpcs
  · exact (State.rd_wr_same _ _ _ _ _ _ (by decide) (by decide)).trans (Nat.mod_eq_of_lt hcause)

/-- Settles O21: a lane's changes of state write the word of that lane alone among those of the lanes' states. -/
theorem laneStates : Obligations.LaneStates := by
  unfold Obligations.LaneStates
  refine ⟨fun l off s hon hstate hfree => ?_, fun l off cause s hon => ⟨fun hup => ?_, elecIdle_shows l off hon, signalDetect_shows l off hon,
    fun hstate hlow hhigh => ?_⟩⟩
  · obtain ⟨⟨hup, hsig, hcdr, hpcs, hlat, hskew⟩, ⟨hlo, hhi⟩, hheld, hframe, hregs⟩ := (s.tick off).enterUp_shows l.val
    have hexec : exec (.laneUp l off) s = .next ((s.tick off).enterUp l.val) := act_next (by simp [hon, hstate, hfree])
    rw [hexec]
    generalize (s.tick off).enterUp l.val = t at hup hsig hcdr hpcs hlat hskew hlo hhi hheld hframe hregs
    refine ⟨t, rfl, hup, hsig, hcdr, hpcs, hlat, hskew, hlo, hhi, hheld, ?_, fun a ha hout => ?_⟩
    · have hoff := congrArg State.off hframe
      dsimp only at hoff
      rw [hoff]
      exact hframe
    · refine hregs a ha fun e => ?_
      rw [e] at hout
      simp only [Fld.at, F.LN_LSTATE] at hout
      omega
  · obtain ⟨hstate, hdown, _, hcause⟩ := (s.tick off).enterAcquire_shows l.isLt
    exact ⟨_, act_next (by simp [hon, hup]), hstate, hdown, hcause⟩
  · exact ⟨_, act_next (by simp [up_of_lanesOn hon, hstate, hlow, hhigh]), (s.tick off).enterFault_shows l.isLt (by omega)⟩

end Sys2Proof.Machine

/-! The lines of a bolt (R337 to R339, R351, R352, R357): what a write of a line stores and shows, and what the halt leaves. -/

namespace Sys2Proof.Machine

/-- What fixes the bytes of a bolt. -/
def BoltSt.content (x : BoltSt) : Tab Byte × List Nat × Nat := (x.mem, x.lost, x.lostAt)

theorem State.boltByte_of_content {s t : State} {k : Nat} (h : (t.boltAt k).content = (s.boltAt k).content) (a : Nat) :
    t.boltByte k a = s.boltByte k a :=
  congrArg (fun c : Tab Byte × List Nat × Nat => c.1.get (boltUnlisted c.2.1 c.2.2) a) h

theorem State.content_setBolt (s : State) (k j : Nat) {x : BoltSt} (h : x.content = (s.boltAt k).content) :
    ((s.setBolt k x).boltAt j).content = (s.boltAt j).content := State.boltAt_setBolt_keeps BoltSt.content s k j x h

/-- The registers of a bolt that a write of a line of its regions leaves, and those below the bolt's. -/
def lineWords (k line a : Nat) : Prop := a < BOLT k ∨ (line < 2 ^ 25 ∧ ((BOLT k + 0xC ≤ a ∧ a < BOLT k + 0x18) ∨ BOLT k + 0xC0 ≤ a))

theorem State.showRekey_other (s : State) (k : Nat) : SameRegs (fun a => a ≠ BOLT k + 8) s (s.showRekey k) := by
  unfold State.showRekey
  split
  · exact (SameRegs.refl _ s).wr (not_not.2 rfl) _
  · exact ((SameRegs.refl _ s).wr (not_not.2 rfl) _).wr (not_not.2 rfl) _

theorem State.showRekey_words (s : State) (k line : Nat) : SameRegs (lineWords k line) s (s.showRekey k) := fun a ha =>
  s.showRekey_other k a (by unfold lineWords at ha; omega)

/-- REKEYING shows whether a pass is under way. -/
theorem State.rekeying_showRekey (s : State) (k : Nat) :
    (s.showRekey k).rd F.BOLT_REKEYING (BOLT k) = bit (decide ((s.boltAt k).rekeys ≠ [])) := by
  unfold State.showRekey
  split
  · next h =>
    rw [h, State.rd_wr_same _ _ _ _ _ _ (by decide) (by decide)]
    rfl
  · next h =>
    rw [h, State.rd_wr_field _ _ _ _ _ _ _ _ _ _ (by decide) (by decide) (by decide) (by decide), State.rd_wr_same _ _ _ _ _ _ (by decide)
      (by decide)]
    rfl

theorem State.showRekey_frame (s : State) (k : Nat) : s.showRekey k = { s with regs := (s.showRekey k).regs } := by
  unfold State.showRekey
  split <;> rfl

theorem State.boltAt_showRekey (s : State) (k j : Nat) : (s.showRekey k).boltAt j = s.boltAt j := by
  rw [State.showRekey_frame]
  rfl

theorem epochWord_out (k : Nat) {f : Fld} (hf : f ∈ [F.BOLT_EPOCH, F.BOLT_CTR_HI, F.BOLT_REKEY]) (line : Nat) :
    ¬ lineWords k line (f.at (BOLT k) (line / 2 ^ 20) 0) := by
  simp only [List.mem_cons, List.not_mem_nil, or_false] at hf
  unfold lineWords Fld.at
  rcases hf with rfl | rfl | rfl <;> simp only [F.BOLT_EPOCH, F.BOLT_CTR_HI, F.BOLT_REKEY] <;> omega

theorem State.poison_setMeta (s : State) (k line : Nat) (m : LineMeta) : (s.setMeta k line m).lineMeta k line = m := by
  unfold State.setMeta State.lineMeta
  rw [State.boltAt_setBolt_same]
  exact Tab.get_put_same _ _ _ _

/-- The line's side storage and the registers of its region, where the write is performed. -/
theorem State.bumpLine_shows {s u : State} {k line : Nat} {poison : Bool} (h : s.bumpLine k line poison = some u) :
    (u.boltAt k).content = (s.boltAt k).content ∧ (u.lineMeta k line).poison = poison ∧ u.evq = s.evq ∧ SameRegs (lineWords k line) s u := by
  have hs := SameRegs.refl (lineWords k line) s
  unfold State.bumpLine at h
  dsimp only at h
  split at h
  · cases h
    exact ⟨s.content_setBolt k k rfl, by rw [State.poison_setMeta], rfl, hs⟩
  · split at h
    · split at h
      · cases h
      · cases h
        have hwords := ((hs.wr (epochWord_out k (f := F.BOLT_EPOCH) (by simp) line) (s.rd F.BOLT_EPOCH (BOLT k) (line / 2 ^ 20) + 1)).wr
          (epochWord_out k (f := F.BOLT_REKEY) (by simp) line) 1).wr (epochWord_out k (f := F.BOLT_CTR_HI) (by simp) line) 0
        generalize hv : (((s.wr F.BOLT_EPOCH (BOLT k) (s.rd F.BOLT_EPOCH (BOLT k) (line / 2 ^ 20) + 1) (line / 2 ^ 20)).wr F.BOLT_REKEY (BOLT k) 1
          (line / 2 ^ 20)).wr F.BOLT_CTR_HI (BOLT k) 0 (line / 2 ^ 20)) = v at hwords
        have hbolt : v.boltAt k = s.boltAt k := by rw [← hv]; rfl
        have hevq : v.evq = s.evq := by rw [← hv]; rfl
        generalize hw : v.setMeta k line ⟨0, !bitAt (s.rd F.BOLT_EPOCH (BOLT k) (line / 2 ^ 20)) 0, poison⟩ = w
        have hcontent : (w.boltAt k).content = (s.boltAt k).content := by
          rw [← hw, ← hbolt]
          exact v.content_setBolt k k rfl
        have hmeta : (w.lineMeta k line).poison = poison := by rw [← hw, State.poison_setMeta]
        refine ⟨?_, ?_, ?_, ?_⟩
        · rw [State.boltAt_showRekey, State.boltAt_setBolt_same]
          exact hcontent
        · refine Eq.trans ?_ hmeta
          unfold State.lineMeta
          rw [State.boltAt_showRekey, State.boltAt_setBolt_same]
        · rw [State.showRekey_frame, ← hevq, ← hw]
          rfl
        · exact (SameRegs.of_regs (t := v) hwords (by rw [← hw]; rfl)).trans (State.showRekey_words _ k line)
    · cases h
      refine ⟨s.content_setBolt k k rfl, ?_, rfl, ?_⟩
      · refine Eq.trans ?_ (congrArg LineMeta.poison (s.poison_setMeta k line ⟨(s.lineMeta k line).wctr + 1, bitAt (s.rd F.BOLT_EPOCH (BOLT k)
          (line / 2 ^ 20)) 0, poison⟩))
        rfl
      · exact SameRegs.wr (hs.of_regs rfl) (epochWord_out k (by simp) line) _

theorem get_putBolt (d : Nat → Byte) (t : Tab Byte) (a : Nat) (l : List Byte) (i : Nat) :
    Tab.get d (putBolt d t a l) i = if a ≤ i ∧ i < a + l.length then nthD 0 l (i - a) else Tab.get d t i := by
  induction l generalizing t a with
  | nil => simp [putBolt]
  | cons b l ih =>
    simp only [putBolt, ih, List.length_cons, Tab.get_set]
    rcases Nat.lt_trichotomy i a with hlt | rfl | hgt
    · rw [if_neg (by omega), if_neg (by omega), if_neg (by omega)]
    · rw [if_neg (by omega), if_pos rfl, if_pos (by omega), Nat.sub_self]
      rfl
    · obtain ⟨n, hn⟩ : ∃ n, i - a = n + 1 := ⟨i - a - 1, by omega⟩
      have hprev : i - (a + 1) = n := by omega
      rw [hn, hprev, nthD, if_neg (by omega : ¬ i = a)]
      exact if_congr (by omega) rfl rfl

/-! The halt. -/

/-- Commands that complete in turn leave the list of those at work, in their order. -/
theorem completeAll_host (l : List DispCmd) (u : State) :
    (forEach (fun (d : DispCmd) s => s.complete d.c .securityHalt) l u) =
      { u with host := { u.host with cmds := u.host.cmds.filter (fun d => decide (∀ e ∈ l, d.c ≠ e.c))
                                     done := u.host.done ++ l.map (fun d => ⟨d.c, .securityHalt, []⟩) } } := by
  induction l generalizing u with
  | nil => simp [Sys2Proof.forEach]
  | cons x l ih =>
    have hfilter : ∀ cmds : List DispCmd, (cmds.filter (fun d => d.c ≠ x.c)).filter (fun d => decide (∀ e ∈ l, d.c ≠ e.c))
        = cmds.filter (fun d => decide (∀ e ∈ x :: l, d.c ≠ e.c)) := fun cmds => by
      rw [List.filter_filter]
      refine List.filter_congr fun d _ => ?_
      rw [← Bool.decide_and]
      exact decide_eq_decide.2 (by simp [and_comm])
    rw [show forEach (fun (d : DispCmd) s => s.complete d.c .securityHalt) (x :: l) u
      = forEach (fun (d : DispCmd) s => s.complete d.c .securityHalt) l (u.complete x.c .securityHalt) from rfl, ih]
    simp only [State.complete, hfilter, List.map_cons, List.map_nil, List.append_assoc, List.singleton_append]

/-- What follows the halt's own words: every command at work completes, and the reference outputs show that they are low. -/
theorem haltRest_shows (v : State) :
    let t := forN (fun n s => s.showRefout n) 8 (forEach (fun (d : DispCmd) s => s.complete d.c .securityHalt) v.host.cmds v)
    t.host.cmds = [] ∧ t.host.done = v.host.done ++ v.host.cmds.map (fun d => ⟨d.c, .securityHalt, []⟩) ∧ t.bolts = v.bolts
      ∧ SameRegs (fun a => 0x2000 ≤ a) v t := by
  intro t
  have hframe : ∀ u : State, forN (fun n s => s.showRefout n) 8 u = { u with regs := (forN (fun n s => s.showRefout n) 8 u).regs }
      ∧ SameRegs (fun a => 0x2000 ≤ a) u (forN (fun n s => s.showRefout n) 8 u) := fun u => by
    refine ⟨forN_induct (P := fun w : State => w = { u with regs := w.regs }) (fun n w hw => ?_) rfl,
      SameRegs.forN_lt (SameRegs.refl _ u) fun n hn w => (SameRegs.refl _ w).wr ?_ _⟩
    · rw [hw]
      rfl
    · simp only [Fld.at, F.REFO_ACTIVE, CLK]
      omega
  have hdone := completeAll_host v.host.cmds v
  obtain ⟨hregs, hwords⟩ := hframe (forEach (fun (d : DispCmd) s => s.complete d.c .securityHalt) v.host.cmds v)
  change t = _ at hregs
  have hnone : v.host.cmds.filter (fun d => decide (∀ e ∈ v.host.cmds, d.c ≠ e.c)) = [] :=
    List.filter_eq_nil_iff.2 fun d hd => by
      simp only [decide_eq_true_eq, not_forall, not_not]
      exact ⟨d, hd, rfl⟩
  refine ⟨?_, ?_, ?_, fun a ha => (hwords a ha).trans ?_⟩
  · rw [hregs, hdone]
    exact hnone
  · rw [hregs, hdone]
  · rw [hregs, hdone]
  · rw [hdone]
    rfl

/-- The device enters the halt: its cause, its source, no key, no command at work. -/
theorem State.enterHalt_shows {s : State} (h : s.halted = false) {cause source : Nat} (hc : cause < 8) (hsrc : source < 64) (line : Nat) :
    let t := s.enterHalt cause source line
    t.halted = true ∧ t.rd F.HALT_CAUSE SEC = cause ∧ t.rd F.HALT_SOURCE SEC = source ∧ t.rd F.KEY_STATE SEC = 2 ∧ t.rd F.KEY_COPIES SEC = 0
      ∧ t.bolts = s.bolts ∧ t.host.cmds = [] ∧ t.host.done = s.host.done ++ s.host.cmds.map (fun d => ⟨d.c, .securityHalt, []⟩) := by
  have hshown : ∀ u : State, u = ((((((((s.wr F.HALT_HALTED SEC 1).wr F.HALT_CAUSE SEC cause).wr F.HALT_SOURCE SEC source).wr F.HALT_H_STITCH_LO SEC
      s.stitch.toNat).wr F.HALT_H_STITCH_HI SEC (s.stitch.toNat / 2 ^ 32)).wr F.HALT_H_LINE SEC line).wr F.KEY_STATE SEC 2).wr
      F.KEY_COPIES SEC 0) → u.rd F.HALT_HALTED SEC = 1 ∧ u.rd F.HALT_CAUSE SEC = cause ∧ u.rd F.HALT_SOURCE SEC = source
      ∧ u.rd F.KEY_STATE SEC = 2 ∧ u.rd F.KEY_COPIES SEC = 0 ∧ u.bolts = s.bolts ∧ u.host = s.host := by
    rintro u rfl
    have hword : ∀ {w : State} {f g : Fld} {v : Nat}, g.at SEC 0 0 ≠ f.at SEC 0 0 → (w.wr f SEC v).rd g SEC = w.rd g SEC :=
      fun hne => State.rd_wr_word _ _ _ _ _ _ _ _ _ _ hne
    simp (disch := decide) only [hword, State.rd_wr_field, State.rd_wr_same]
    exact ⟨rfl, Nat.mod_eq_of_lt hc, Nat.mod_eq_of_lt hsrc, rfl, rfl, rfl, rfl⟩
  intro t
  have ht : t = s.enterHalt cause source line := rfl
  unfold State.enterHalt at ht
  rw [if_neg (by simp [h])] at ht
  generalize hu : ((((((((s.wr F.HALT_HALTED SEC 1).wr F.HALT_CAUSE SEC cause).wr F.HALT_SOURCE SEC source).wr F.HALT_H_STITCH_LO SEC
      s.stitch.toNat).wr F.HALT_H_STITCH_HI SEC (s.stitch.toNat / 2 ^ 32)).wr F.HALT_H_LINE SEC line).wr F.KEY_STATE SEC 2).wr
      F.KEY_COPIES SEC 0) = u at ht
  obtain ⟨hhalted, hcause, hsource, hkey, hcopies, hbolts, hhost⟩ := hshown u hu.symm
  obtain ⟨v, hv⟩ : ∃ v : State, v = { u with
      seams := u.seams.map (fun e => (e.1, { e.2 with key := false }))
      stack := { u.stack with keyStore := 0, keyCopies := [] }
      trig := { u.trig with balls := [], next := [], sysDue := [] }
      lanes := u.lanes.map (fun e => (e.1, { e.2 with sending := false, sent := [], prefill := [], eb := [] }))
      caps := []
      pats := []
      host := { (u.aerNote .internal).host with chans := [] } } := ⟨_, rfl⟩
  replace ht : t = forN (fun n s => s.showRefout n) 8 (forEach (fun (d : DispCmd) s => s.complete d.c .securityHalt) v.host.cmds v) := by
    rw [ht, hv]
  have hvregs : ∀ f : Fld, v.rd f SEC = u.rd f SEC := fun f => by rw [hv]; rfl
  have hvbolts : v.bolts = u.bolts := by rw [hv]
  have hvhost : v.host.cmds = u.host.cmds ∧ v.host.done = u.host.done := by rw [hv]; exact ⟨rfl, rfl⟩
  obtain ⟨hcmds, hdone, htbolts, hwords⟩ := haltRest_shows v
  rw [← ht] at hcmds hdone htbolts hwords
  have hrd : ∀ f : Fld, t.rd f SEC = u.rd f SEC := fun f =>
    (hwords.rd (by unfold Fld.at SEC; omega)).trans (hvregs f)
  exact ⟨State.flag_of_eq_one ((hrd _).trans hhalted), (hrd _).trans hcause, (hrd _).trans hsource, (hrd _).trans hkey, (hrd _).trans hcopies,
    htbolts.trans (hvbolts.trans hbolts), hcmds, by rw [hdone, hvhost.1, hvhost.2, hhost]⟩

end Sys2Proof.Machine

namespace Sys2Proof.Machine

/-- A write of a line halts the device and stores nothing, or stores its bytes with the line's mark. -/
theorem State.putLine_cases {s : State} (hup : s.halted = false) {k : Nat} (hk : k < 16) (line : Nat) (data : List Byte)
    (poison : Bool) :
    ((s.putLine k line data poison).halted = true ∧ (s.putLine k line data poison).bolts = s.bolts)
      ∨ ((s.putLine k line data poison).halted = false ∧ ((s.putLine k line data poison).lineMeta k line).poison = poison
        ∧ (s.putLine k line data poison).evq = s.evq ∧ SameRegs (lineWords k line) s (s.putLine k line data poison)
        ∧ ∀ a, (s.putLine k line data poison).boltByte k a
          = if 64 * line ≤ a ∧ a < 64 * line + data.length then nthD 0 data (a - 64 * line) else s.boltByte k a) := by
  unfold State.putLine
  split
  · obtain ⟨hhalted, _, _, _, _, hbolts, _⟩ := State.enterHalt_shows hup (cause := 3) (source := k) (by decide) (by omega) line
    exact Or.inl ⟨hhalted, hbolts⟩
  · next u hu =>
    obtain ⟨hcontent, hpoison, hevq, hwords⟩ := State.bumpLine_shows hu
    have hstored : ∀ v : State, v = u.setBolt k { u.boltAt k with mem := putBolt (u.boltAt k).unlisted (u.boltAt k).mem (64 * line) data } →
        v.regs = u.regs ∧ v.evq = u.evq ∧ v.lineMeta k line = u.lineMeta k line
          ∧ ∀ a, v.boltByte k a = if 64 * line ≤ a ∧ a < 64 * line + data.length then nthD 0 data (a - 64 * line) else u.boltByte k a := by
      rintro v rfl
      refine ⟨rfl, rfl, ?_, fun a => ?_⟩
      · unfold State.lineMeta
        rw [State.boltAt_setBolt_same]
      · unfold State.boltByte
        rw [State.boltAt_setBolt_same]
        exact get_putBolt _ _ _ _ _
    obtain ⟨hregs, hev, hmeta, hbytes⟩ := hstored _ rfl
    have hframe := hwords.of_regs hregs
    refine Or.inr ⟨?_, by rw [hmeta, hpoison], hev.trans hevq, hframe, fun a => ?_⟩
    · refine Eq.trans (congrArg (· == 1) (hframe.rd ?_)) hup
      exact Or.inl (by unfold Fld.at SEC BOLT; simp only [F.HALT_HALTED]; omega)
    · rw [hbytes, State.boltByte_of_content hcontent]

theorem boltUnit_val (k : LPatch) : boltUnit k.val = .bolt k := congrArg MemUnit.bolt (Fin.ext (Nat.mod_eq_of_lt k.isLt))

theorem State.boltAt_event (s : State) (e : EvCode) (block inst : Nat) (args : List Nat) (st : Status) (j : Nat) :
    (s.event e block inst args st).boltAt j = s.boltAt j := by
  unfold State.event
  split <;> rfl

/-- What a hard fault of a bolt's line changes: the bolt's rows, and what is reported. -/
theorem State.hardFault_bolt (s : State) (k : LPatch) (addr : Nat) :
    SameRegs (fun _ => True) s (s.hardFault (.bolt k) addr) ∧ ((s.hardFault (.bolt k) addr).boltAt k.val).content = (s.boltAt k.val).content := by
  have hs := SameRegs.refl (fun _ => True) s
  have hrows : ∀ r, ((s.setRows (.bolt k) r).boltAt k.val).content = (s.boltAt k.val).content := fun r => s.content_setBolt k.val k.val rfl
  unfold State.hardFault
  dsimp only [unitEvent]
  split
  · exact ⟨hs, rfl⟩
  · split
    · exact ⟨hs.of_regs rfl, hrows _⟩
    · split
      · exact ⟨hs.of_regs rfl, hrows _⟩
      · refine ⟨fun a _ => ?_, by rw [State.boltAt_event]; exact hrows _⟩
        unfold State.event
        split <;> rfl

/-- The words in which a bolt counts and names its errors. -/
def errorWords (k a : Nat) : Prop := a = BOLT k + 0xC ∨ a = BOLT k + 0x10 ∨ a = BOLT k + 0x14

theorem State.regs_event (s : State) (e : EvCode) (block inst : Nat) (args : List Nat) (st : Status) :
    (s.event e block inst args st).regs = s.regs := by
  unfold State.event
  split <;> rfl

theorem State.bucketAdd_bolt (s : State) (k : LPatch) :
    SameRegs (errorWords k.val) s (s.bucketAdd (.bolt k)) ∧ (s.bucketAdd (.bolt k)).boltAt k.val = s.boltAt k.val := by
  have hlevel : ∀ f ∈ [F.BOLT_LEVEL, F.BOLT_OVF], ¬ errorWords k.val (f.at (BOLT k.val) 0 0) := by
    intro f hf
    simp only [List.mem_cons, List.not_mem_nil, or_false] at hf
    unfold errorWords Fld.at
    rcases hf with rfl | rfl <;> simp only [F.BOLT_LEVEL, F.BOLT_OVF] <;> omega
  have hovf : SameRegs (errorWords k.val) s (s.setOvf (.bolt k)) := (SameRegs.refl _ s).wr (hlevel F.BOLT_OVF (by simp)) 1
  unfold State.bucketAdd
  split
  · exact ⟨(SameRegs.refl _ s).wr (hlevel F.BOLT_LEVEL (by simp)) _, rfl⟩
  · dsimp only [unitEvent]
    split
    · exact ⟨hovf, rfl⟩
    · exact ⟨hovf.of_regs (State.regs_event _ _ _ _ _ _), State.boltAt_event _ _ _ _ _ _ _⟩

/-- A correction in a bolt is counted and its line named. -/
theorem State.countCorr_bolt (s : State) (k : LPatch) {addr : Nat} (h : addr < 2 ^ 25) :
    ((s.countCorr (.bolt k) addr).boltAt k.val).content = (s.boltAt k.val).content
      ∧ (s.countCorr (.bolt k) addr).rd F.BOLT_CORR (BOLT k.val) = min (2 ^ 32 - 1) (s.rd F.BOLT_CORR (BOLT k.val) + 1)
      ∧ (s.countCorr (.bolt k) addr).rd F.BOLT_ERR_LINE (BOLT k.val) = addr ∧ (s.countCorr (.bolt k) addr).rd F.BOLT_ERR_UNC (BOLT k.val) = 0 := by
  have hnoted : ∀ u : State, u = (s.bumpCorr (.bolt k)).noteErr (.bolt k) addr false → u.boltAt k.val = s.boltAt k.val
      ∧ u.rd F.BOLT_CORR (BOLT k.val) = min (2 ^ 32 - 1) (s.rd F.BOLT_CORR (BOLT k.val) + 1) ∧ u.rd F.BOLT_ERR_LINE (BOLT k.val) = addr
      ∧ u.rd F.BOLT_ERR_UNC (BOLT k.val) = 0 := by
    rintro u rfl
    refine ⟨rfl, ?_, ?_, State.rd_wr_same _ _ _ _ _ _ (by decide) (by decide)⟩
    · refine (State.rd_wr_off _ _ _ _ _ _ (by decide)).trans ((State.rd_wr_off _ _ _ _ _ _ (by decide)).trans ?_)
      exact State.rd_bump_at s F.BOLT_CORR (BOLT k.val) 0 (by decide) (by decide)
    · refine (State.rd_wr_field _ _ _ _ _ _ _ _ _ _ (by decide) (by decide) (by decide) (by decide)).trans
        ((State.rd_wr_same _ _ _ _ _ _ (by decide) (by decide)).trans (Nat.mod_eq_of_lt h))
  obtain ⟨hbolt, hcorr, hline, hunc⟩ := hnoted _ rfl
  unfold State.countCorr
  dsimp only
  generalize (s.bumpCorr (.bolt k)).noteErr (.bolt k) addr false = u at hbolt hcorr hline hunc
  obtain ⟨hbucket, hbolt'⟩ := u.bucketAdd_bolt k
  generalize u.bucketAdd (.bolt k) = v at hbucket hbolt'
  have hfin : ∀ w : State, SameRegs (errorWords k.val) v w → (w.boltAt k.val).content = (v.boltAt k.val).content →
      (w.boltAt k.val).content = (s.boltAt k.val).content ∧ w.rd F.BOLT_CORR (BOLT k.val) = min (2 ^ 32 - 1) (s.rd F.BOLT_CORR (BOLT k.val) + 1)
        ∧ w.rd F.BOLT_ERR_LINE (BOLT k.val) = addr ∧ w.rd F.BOLT_ERR_UNC (BOLT k.val) = 0 := fun w hw hc =>
    ⟨by rw [hc, hbolt', hbolt], ((hbucket.trans hw).rd (Or.inl rfl)).trans hcorr, ((hbucket.trans hw).rd (Or.inr (Or.inr rfl))).trans hline,
      ((hbucket.trans hw).rd (Or.inr (Or.inr rfl))).trans hunc⟩
  generalize trackStep (trackSize (.bolt k)) (unitLeakMs s (.bolt k)) s.rootNow addr (unitTrack v (.bolt k)) = tr
  obtain ⟨track, hard⟩ := tr
  dsimp only
  have hset : ((v.setTrack (.bolt k) track).boltAt k.val).content = (v.boltAt k.val).content := v.content_setBolt k.val k.val rfl
  split
  · obtain ⟨hregs, hcontent⟩ := (v.setTrack (.bolt k) track).hardFault_bolt k addr
    exact hfin _ (fun a _ => hregs a trivial) (hcontent.trans hset)
  · exact hfin _ (SameRegs.refl _ v) hset

end Sys2Proof.Machine

namespace Sys2Proof.Machine

theorem boltUp {s : State} (hon : s.stackOn = true) : s.halted = false := by
  simp only [State.stackOn, State.up, Bool.and_eq_true, Bool.not_eq_true'] at hon
  exact hon.1.2

/-- A good line reads its bytes, and is not among those marked. -/
theorem goodLine {s : State} {k l : Nat} (h : s.lineBad k l = false) : (s.lineMeta k l).poison = false ∧ (k, l) ∉ s.stack.marked := by
  simpa [State.lineBad] using h

theorem State.boltRead_clean {s : State} {k l : Nat} (h : s.lineBad k l = false) :
    s.boltRead k l .clean = (s, .data (s.boltBytes k (64 * l) 64)) := by
  obtain ⟨hp, hm⟩ := goodLine h
  unfold State.boltRead
  rw [if_neg hm]
  simp [hp]

theorem State.nthD_boltBytes (s : State) (k a n i : Nat) (h : i < n) : nthD 0 (s.boltBytes k a n) i = s.boltByte k (a + i) :=
  nthD_map_range 0 _ n i h

theorem State.length_boltBytes (s : State) (k a n : Nat) : (s.boltBytes k a n).length = n := by simp [State.boltBytes]

/-- The bytes of a line written back are the line's own. -/
theorem ownBytes {s : State} {k l : Nat} (a : Nat) :
    (if 64 * l ≤ a ∧ a < 64 * l + (s.boltBytes k (64 * l) 64).length then nthD 0 (s.boltBytes k (64 * l) 64) (a - 64 * l) else s.boltByte k a)
      = s.boltByte k a := by
  rw [State.length_boltBytes]
  split
  · next h =>
    rw [State.nthD_boltBytes _ _ _ _ _ (by omega)]
    congr 1
    omega
  · rfl

theorem boltByte_of_bolts {s t : State} (h : t.bolts = s.bolts) (k a : Nat) : t.boltByte k a = s.boltByte k a := by
  unfold State.boltByte State.boltAt
  rw [h]

theorem errorWords_line {k line a : Nat} (hl : line < 2 ^ 25) (h : errorWords k a) : lineWords k line a := by
  unfold errorWords at h
  unfold lineWords
  omega

/-- An error within the code. -/
theorem boltRead_corr {s : State} (k : LPatch) {l : Nat} (hl : l < 2 ^ 25) (hup : s.halted = false) (hok : s.lineBad k.val l = false) :
    (∀ a, (s.boltRead k.val l .corr).1.boltByte k.val a = s.boltByte k.val a) ∧ ((s.boltRead k.val l .corr).1.halted = false →
      (s.boltRead k.val l .corr).1.rd F.BOLT_CORR (BOLT k.val) = min (2 ^ 32 - 1) (s.rd F.BOLT_CORR (BOLT k.val) + 1)
      ∧ (s.boltRead k.val l .corr).1.rd F.BOLT_ERR_LINE (BOLT k.val) = l ∧ (s.boltRead k.val l .corr).1.rd F.BOLT_ERR_UNC (BOLT k.val) = 0)
      ∧ ∀ u, s.boltRead k.val l .corr ≠ (u, .poison) := by
  obtain ⟨hp, hm⟩ := goodLine hok
  have heq : s.boltRead k.val l .corr = if (s.putLine k.val l (s.boltBytes k.val (64 * l) 64)).halted
      then (s.putLine k.val l (s.boltBytes k.val (64 * l) 64), .halt)
      else ((s.putLine k.val l (s.boltBytes k.val (64 * l) 64)).countCorr (boltUnit k.val) l, .data (s.boltBytes k.val (64 * l) 64)) := by
    unfold State.boltRead
    rw [if_neg hm]
    simp [hp]
  have hput := s.putLine_cases hup k.isLt l (s.boltBytes k.val (64 * l) 64) false
  rw [heq, boltUnit_val]
  generalize s.putLine k.val l (s.boltBytes k.val (64 * l) 64) = u at hput
  rcases hput with ⟨hhalt, hbolts⟩ | ⟨hlive, _, _, hwords, hbytes⟩
  · rw [if_pos hhalt]
    exact ⟨fun a => boltByte_of_bolts hbolts k.val a, fun h => absurd (hhalt.symm.trans h) (by decide), by simp⟩
  · rw [if_neg (by simp [hlive])]
    obtain ⟨hcontent, hcorr, hline, hunc⟩ := u.countCorr_bolt k hl
    refine ⟨fun a => ?_, fun _ => ⟨?_, hline, hunc⟩, by simp⟩
    · rw [State.boltByte_of_content hcontent, hbytes, ownBytes]
    · rw [hcorr, hwords.rd (errorWords_line hl (Or.inl rfl))]

theorem State.lineMeta_of_bolt {s t : State} {k : Nat} (h : t.boltAt k = s.boltAt k) (l : Nat) : t.lineMeta k l = s.lineMeta k l := by
  unfold State.lineMeta
  rw [h]

/-- An error beyond the code. -/
theorem boltRead_uncorr {s : State} (k : LPatch) {l : Nat} (hl : l < 2 ^ 25) (hup : s.halted = false) (hok : s.lineBad k.val l = false) :
    ((∃ u, s.boltRead k.val l .uncorr = (u, .halt) ∧ u.halted = true) ∨ ∃ u, s.boltRead k.val l .uncorr = (u, .poison)
      ∧ (u.lineMeta k.val l).poison = true ∧ u.rd F.BOLT_UNCORR (BOLT k.val) = min 65535 (s.rd F.BOLT_UNCORR (BOLT k.val) + 1)
      ∧ u.rd F.BOLT_ERR_LINE (BOLT k.val) = l ∧ u.rd F.BOLT_ERR_UNC (BOLT k.val) = 1 ∧ ∃ e, u.evq = s.evq ++ [e] ∧ e.code = 0x13) := by
  obtain ⟨hp, hm⟩ := goodLine hok
  have heq : s.boltRead k.val l .uncorr = if (s.poisonLine k.val l).halted then (s.poisonLine k.val l, .halt)
      else ((s.poisonLine k.val l).countUncorr (boltUnit k.val) l, .poison) := by
    unfold State.boltRead
    rw [if_neg hm]
    simp [hp]
  have hput : _ ∨ _ := s.putLine_cases hup k.isLt l (List.replicate 64 0) true
  rw [heq, boltUnit_val]
  unfold State.poisonLine
  generalize s.putLine k.val l (List.replicate 64 0) true = u at hput
  rcases hput with ⟨hhalt, _⟩ | ⟨hlive, hmeta, hevq, hwords, _⟩
  · rw [if_pos hhalt]
    exact Or.inl ⟨u, rfl, hhalt⟩
  · rw [if_neg (by simp [hlive])]
    refine Or.inr ⟨_, rfl, ?_⟩
    have hnoted : ∀ v : State, v = (u.bumpUncorr (.bolt k)).noteErr (.bolt k) l true → v.boltAt k.val = u.boltAt k.val ∧ v.evq = u.evq
        ∧ v.rd F.BOLT_UNCORR (BOLT k.val) = min 65535 (u.rd F.BOLT_UNCORR (BOLT k.val) + 1) ∧ v.rd F.BOLT_ERR_LINE (BOLT k.val) = l
        ∧ v.rd F.BOLT_ERR_UNC (BOLT k.val) = 1 ∧ v.halted = u.halted := by
      rintro v rfl
      refine ⟨rfl, rfl, ?_, ?_, State.rd_wr_same _ _ _ _ _ _ (by decide) (by decide), ?_⟩
      · refine (State.rd_wr_off _ _ _ _ _ _ (by decide)).trans ((State.rd_wr_off _ _ _ _ _ _ (by decide)).trans ?_)
        exact State.rd_bump_at u F.BOLT_UNCORR (BOLT k.val) 0 (by decide) (by decide)
      · exact (State.rd_wr_field _ _ _ _ _ _ _ _ _ _ (by decide) (by decide) (by decide) (by decide)).trans
          ((State.rd_wr_same _ _ _ _ _ _ (by decide) (by decide)).trans (Nat.mod_eq_of_lt hl))
      · have hout : ∀ a, BOLT k.val ≤ a → ¬ (fun a => a < 0x50000) a := fun a ha => by
          unfold BOLT at ha
          dsimp only
          omega
        have hsame := (((SameRegs.refl (fun a => a < 0x50000) u).wr (hout (F.BOLT_UNCORR.at (BOLT k.val) 0 0) (by unfold Fld.at; omega))
          (satAdd F.BOLT_UNCORR.max (u.rd F.BOLT_UNCORR (BOLT k.val)) 1)).wr (hout (F.BOLT_ERR_LINE.at (BOLT k.val) 0 0) (by unfold Fld.at; omega))
          l).wr (hout (F.BOLT_ERR_UNC.at (BOLT k.val) 0 0) (by unfold Fld.at; omega)) (bit true)
        exact congrArg (· == 1) (hsame.rd (f := F.HALT_HALTED) (base := SEC) (i := 0) (j := 0) (by decide))
    obtain ⟨hbolt, hev, hcount, hline, hunc, hlive'⟩ := hnoted _ rfl
    unfold State.countUncorr
    dsimp only [unitEvent]
    generalize (u.bumpUncorr (.bolt k)).noteErr (.bolt k) l true = v at hbolt hev hcount hline hunc hlive'
    simp only [State.rd_event]
    refine ⟨?_, ?_, hline, hunc, ?_⟩
    · rw [State.lineMeta_of_bolt (State.boltAt_event _ _ _ _ _ _ _), State.lineMeta_of_bolt hbolt, hmeta]
    · rw [hcount, hwords.rd (errorWords_line hl (Or.inr (Or.inl rfl)))]
    · have hevent := congrArg State.evq (State.event_of_live (hlive'.trans hlive) .poison blkBOLT k.val [k.val, l] .poison)
      dsimp only at hevent
      rw [hev, hevq] at hevent
      exact ⟨_, hevent, rfl⟩

end Sys2Proof.Machine

namespace Sys2Proof.Machine

theorem nthD_of_mem {α : Type} {d x : α} {l : List α} (h : ∀ e ∈ l, e = x) {i : Nat} (hi : i < l.length) : nthD d l i = x := by
  induction l generalizing i with
  | nil => exact absurd hi (Nat.not_lt_zero i)
  | cons e l ih =>
    cases i with
    | zero => exact h e (by simp)
    | succ i => exact ih (fun b hb => h b (by simp [hb])) (Nat.lt_of_succ_lt_succ hi)

theorem nthD_all {mask : List Bool} (hlen : mask.length = 64) (h : mask.all id = true) {i : Nat} (hi : i < 64) : nthD false mask i = true :=
  nthD_of_mem (fun b hb => by simpa using List.all_eq_true.1 h b hb) (by omega)

/-- A write of a line, whole or merged, stores the bytes of its mask. -/
theorem boltWrite_clean {s : State} (k : LPatch) {l : Nat} (hup : s.halted = false) (data : List Byte) (mask : List Bool)
    (hdata : mask.all id = true → mask.length = 64 → data.length = 64) (hok : s.lineBad k.val l = false ∨ (mask.all id = true ∧ mask.length = 64)) :
    ((∃ u, s.boltWrite k.val l data mask .clean = (u, .halt) ∧ u.halted = true)
      ∨ ∃ u, s.boltWrite k.val l data mask .clean = (u, .done) ∧ u.halted = false ∧ (u.lineMeta k.val l).poison = false
        ∧ SameRegs (lineWords k.val l) s u
        ∧ ∀ a, u.boltByte k.val a = if 64 * l ≤ a ∧ a < 64 * l + 64 ∧ nthD false mask (a - 64 * l) = true then nthD 0 data (a - 64 * l)
          else s.boltByte k.val a) := by
  by_cases hwhole : mask.all id = true ∧ mask.length = 64
  · obtain ⟨hall, hlen⟩ := hwhole
    have hdlen := hdata hall hlen
    have heq : s.boltWrite k.val l data mask .clean = (s.putLine k.val l data, if (s.putLine k.val l data).halted then .halt else .done) := by
      unfold State.boltWrite
      rw [if_pos (by simp [hall, hlen])]
    have hput := s.putLine_cases hup k.isLt l data false
    rw [heq]
    generalize s.putLine k.val l data = u at hput
    rcases hput with ⟨hhalt, _⟩ | ⟨hlive, hmeta, _, hwords, hbytes⟩
    · exact Or.inl ⟨u, by rw [if_pos hhalt], hhalt⟩
    · refine Or.inr ⟨u, by rw [if_neg (by simp [hlive])], hlive, hmeta, hwords, fun a => ?_⟩
      rw [hbytes, hdlen]
      refine if_congr ⟨fun h => ⟨h.1, h.2, nthD_all hlen hall (by omega)⟩, fun h => ⟨h.1, h.2.1⟩⟩ rfl rfl
  · have hgood := hok.resolve_right hwhole
    have heq : s.boltWrite k.val l data mask .clean =
        (s.putLine k.val l ((List.range 64).map (fun i => if nthD false mask i then nthD 0 data i else nthD 0 (s.boltBytes k.val (64 * l) 64) i)),
          if (s.putLine k.val l ((List.range 64).map (fun i => if nthD false mask i then nthD 0 data i
            else nthD 0 (s.boltBytes k.val (64 * l) 64) i))).halted then .halt else .done) := by
      unfold State.boltWrite
      rw [if_neg (by simpa using hwhole), State.boltRead_clean hgood]
    have hput := s.putLine_cases hup k.isLt l ((List.range 64).map (fun i => if nthD false mask i then nthD 0 data i
      else nthD 0 (s.boltBytes k.val (64 * l) 64) i)) false
    rw [heq]
    generalize hu : s.putLine k.val l ((List.range 64).map (fun i => if nthD false mask i then nthD 0 data i
      else nthD 0 (s.boltBytes k.val (64 * l) 64) i)) = u at hput
    rcases hput with ⟨hhalt, _⟩ | ⟨hlive, hmeta, _, hwords, hbytes⟩
    · exact Or.inl ⟨u, by rw [if_pos hhalt], hhalt⟩
    · refine Or.inr ⟨u, by rw [if_neg (by simp [hlive])], hlive, hmeta, hwords, fun a => ?_⟩
      rw [hbytes, List.length_map, List.length_range]
      by_cases hin : 64 * l ≤ a ∧ a < 64 * l + 64
      · rw [if_pos hin, nthD_map_range 0 _ 64 _ (by omega)]
        by_cases hm : nthD false mask (a - 64 * l) = true
        · rw [if_pos hm, if_pos ⟨hin.1, hin.2, hm⟩]
        · rw [if_neg hm, if_neg (fun h => hm h.2.2), State.nthD_boltBytes _ _ _ _ _ (by omega)]
          congr 1
          omega
      · rw [if_neg hin, if_neg (fun h => hin ⟨h.1, h.2.1⟩)]

/-- The line reads and writes of a bolt. -/
theorem boltLine_shows (k : LPatch) (line : BitVec 25) (who : Reader) {s : State} (hon : s.stackOn = true) (hrun : s.inReset 3 = false) :
    let b := BOLT k.val
    let l := line.toNat
    let ok := s.lineBad k.val l = false
    (ok → exec (.boltLineRead k line who .clean) s = .next s)
      ∧ (ok → ∃ t, exec (.boltLineRead k line who .corr) s = .next t ∧ (∀ a, t.boltByte k.val a = s.boltByte k.val a)
          ∧ (t.halted = false → t.rd F.BOLT_CORR b = min (2 ^ 32 - 1) (s.rd F.BOLT_CORR b + 1) ∧ t.rd F.BOLT_ERR_LINE b = l ∧ t.rd F.BOLT_ERR_UNC b = 0))
      ∧ (ok → who = .patrol ∨ who = .rekey → ∃ t, exec (.boltLineRead k line who .uncorr) s = .next t
          ∧ (t.halted = false → (t.lineMeta k.val l).poison = true ∧ t.rd F.BOLT_UNCORR b = min 65535 (s.rd F.BOLT_UNCORR b + 1)
            ∧ t.rd F.BOLT_ERR_LINE b = l ∧ t.rd F.BOLT_ERR_UNC b = 1 ∧ ∃ e, t.evq = s.evq ++ [e] ∧ e.code = 0x13))
      ∧ (∀ bs, (k.val, l) ∉ s.stack.marked → ∃ t, exec (.boltLineRead k line who (.miscorrect bs)) s = .next t ∧ t.halted = true ∧ t.rd F.HALT_CAUSE SEC = 1
          ∧ t.rd F.HALT_SOURCE SEC = k.val ∧ t.rd F.KEY_STATE SEC = 2 ∧ t.rd F.KEY_COPIES SEC = 0 ∧ t.bolts = s.bolts ∧ t.host.cmds = []
          ∧ t.host.done = s.host.done ++ s.host.cmds.map (fun d => ⟨d.c, .securityHalt, []⟩))
      ∧ ∀ (data : List Byte) (mask : List Bool), data.length = 64 → mask.length = 64 → mask.any id = true → ok ∨ mask.all id = true →
          ∃ t, exec (.boltLineWrite k line who data mask .clean) s = .next t
            ∧ (t.halted = false → (t.lineMeta k.val l).poison = false
              ∧ ∀ a, t.boltByte k.val a = if 64 * l ≤ a ∧ a < 64 * l + 64 ∧ nthD false mask (a - 64 * l) = true then nthD 0 data (a - 64 * l)
                  else s.boltByte k.val a) := by
  intro b l ok
  have hl : l < 2 ^ 25 := line.isLt
  have hup := boltUp hon
  have hread : ∀ seen, exec (.boltLineRead k line who seen) s = .next (match s.boltRead k.val l seen with
     | (s1, .poison) => s1.poisonSeen k.val l who
     | (s1, _) => s1) := fun seen => act_next (by simp [hon, hrun])
  refine ⟨fun hok => ?_, fun hok => ?_, fun hok hwho => ?_, fun bs hmark => ?_, fun data mask hdata hmask hany hok => ?_⟩
  · rw [hread, State.boltRead_clean hok]
  · obtain ⟨hbytes, hshown, hnot⟩ := boltRead_corr k hl hup hok
    refine ⟨_, hread .corr, ?_⟩
    generalize s.boltRead k.val l .corr = r at hbytes hshown hnot
    obtain ⟨u, outcome⟩ := r
    cases outcome with
    | poison => exact absurd rfl (hnot u)
    | data d => exact ⟨hbytes, hshown⟩
    | halt => exact ⟨hbytes, hshown⟩
  · refine ⟨_, hread .uncorr, ?_⟩
    rcases boltRead_uncorr k hl hup hok with ⟨u, hu, hhalt⟩ | ⟨u, hu, hshown⟩
    · rw [hu]
      exact fun h => absurd (hhalt.symm.trans h) (by decide)
    · rw [hu]
      have hseen : u.poisonSeen k.val l who = u := by rcases hwho with rfl | rfl <;> rfl
      dsimp only
      rw [hseen]
      exact fun _ => hshown
  · have heq : s.boltRead k.val l (.miscorrect bs) = (s.enterHalt 1 k.val l, .halt) := by
      unfold State.boltRead
      rw [if_neg hmark]
    refine ⟨_, hread _, ?_⟩
    rw [heq]
    have hk := k.isLt
    exact State.enterHalt_shows hup (by decide) (by omega) l
  · refine ⟨_, act_next (by simp [hon, hrun, hdata, hmask, hany]), ?_⟩
    rcases boltWrite_clean k hup data mask (fun _ _ => hdata) (hok.imp_right fun h => ⟨h, hmask⟩) with ⟨u, hu, hhalt⟩ | ⟨u, hu, _, hmeta, _, hbytes⟩
    · rw [hu]
      exact fun h => absurd (hhalt.symm.trans h) (by decide)
    · rw [hu]
      exact fun _ => ⟨hmeta, hbytes⟩

/-! Re-encryption passes and counters. -/

/-- A pass that is done. -/
theorem rekeyPassDone_shows (k : LPatch) {j : Nat} {rest : List Nat} {s : State} (hon : s.stackOn = true) (hrun : s.inReset 3 = false)
    (hq : (s.boltAt k.val).rekeys = j :: rest) :
    ∃ t, exec (.rekeyPassDone k) s = .next t ∧ (t.boltAt k.val).rekeys = rest ∧ t.rd F.BOLT_REKEY (BOLT k.val) j = bit (decide (j ∈ rest))
      ∧ t.rd F.BOLT_REKEYS (BOLT k.val) = (s.rd F.BOLT_REKEYS (BOLT k.val) + 1) % 65536
      ∧ t.rd F.BOLT_REKEYING (BOLT k.val) = bit (decide (rest ≠ [])) ∧ (∀ a, t.boltByte k.val a = s.boltByte k.val a)
      ∧ (t.boltAt k.val).regionBit.get (fun _ => false) j = bitAt (s.rd F.BOLT_EPOCH (BOLT k.val) j) 0
      ∧ ∀ m, m ≠ k.val → t.boltAt m = s.boltAt m := by
  have hexec : exec (.rekeyPassDone k) s = .next ((((s.setBolt k.val { s.boltAt k.val with
      rekeys := (s.boltAt k.val).rekeys.drop 1
      regionBit := (s.boltAt k.val).regionBit.put j (bitAt (s.rd F.BOLT_EPOCH (BOLT k.val) j) 0)
      meta_ := (s.boltAt k.val).meta_.map (fun e => if (e.1 / 2 ^ 20 == j) = true ∧ e.2.epoch ≠ bitAt (s.rd F.BOLT_EPOCH (BOLT k.val) j) 0
        then (e.1, { e.2 with wctr := 0, epoch := bitAt (s.rd F.BOLT_EPOCH (BOLT k.val) j) 0 }) else e) }).wr F.BOLT_REKEY (BOLT k.val)
      (bit (decide (j ∈ (s.boltAt k.val).rekeys.drop 1))) j).incr F.BOLT_REKEYS (BOLT k.val)).showRekey k.val) :=
    actOn_some (by rw [if_pos ⟨hon, by simp [hrun]⟩, hq]; rfl)
  refine ⟨_, hexec, ?_⟩
  rw [hq]
  simp only [List.drop_succ_cons, List.drop_zero]
  generalize hx : ({ s.boltAt k.val with rekeys := rest, regionBit := _, meta_ := _ } : BoltSt) = x
  have hrest : x.rekeys = rest := by rw [← hx]
  have hcontent : x.content = (s.boltAt k.val).content := by rw [← hx]; rfl
  have hregion : x.regionBit.get (fun _ => false) j = bitAt (s.rd F.BOLT_EPOCH (BOLT k.val) j) 0 := by
    rw [← hx]
    exact Tab.get_put_same _ _ _ _
  generalize hu : (((s.setBolt k.val x).wr F.BOLT_REKEY (BOLT k.val) (bit (decide (j ∈ rest))) j).incr F.BOLT_REKEYS (BOLT k.val)) = u
  have hbolt : ∀ m, u.boltAt m = if m = k.val then x else s.boltAt m := fun m => by
    rw [← hu]
    exact State.boltAt_setBolt s k.val m x
  have hself : u.boltAt k.val = x := (hbolt _).trans (if_pos rfl)
  have hword : F.BOLT_REKEY.at (BOLT k.val) j 0 ≠ F.BOLT_REKEYS.at (BOLT k.val) 0 0 := by
    simp only [Fld.at, F.BOLT_REKEY, F.BOLT_REKEYS]
    omega
  have hrekey : u.rd F.BOLT_REKEY (BOLT k.val) j = bit (decide (j ∈ rest)) := by
    rw [← hu]
    unfold State.incr
    rw [State.rd_wr_word _ _ _ _ _ _ _ _ _ _ hword, State.rd_wr_same _ _ _ _ _ _ (by decide) (by decide)]
    by_cases h : j ∈ rest <;> simp [h, bit, F.BOLT_REKEY]
  have hrekeys : u.rd F.BOLT_REKEYS (BOLT k.val) = (s.rd F.BOLT_REKEYS (BOLT k.val) + 1) % 65536 := by
    rw [← hu]
    unfold State.incr
    rw [State.rd_wr_same _ _ _ _ _ _ (by decide) (by decide), State.rd_wr_word _ _ _ _ _ _ _ _ _ _ hword.symm]
    rfl
  refine ⟨?_, ?_, ?_, ?_, fun a => ?_, ?_, fun m hm => ?_⟩
  · rw [State.boltAt_showRekey, hself, hrest]
  · refine ((u.showRekey_other k.val).rd ?_).trans hrekey
    simp only [Fld.at, F.BOLT_REKEY]
    omega
  · refine ((u.showRekey_other k.val).rd ?_).trans hrekeys
    simp only [Fld.at, F.BOLT_REKEYS]
    omega
  · rw [State.rekeying_showRekey, hself, hrest]
  · refine State.boltByte_of_content ?_ a
    rw [State.boltAt_showRekey, hself, hcontent]
  · rw [State.boltAt_showRekey, hself, hregion]
  · rw [State.boltAt_showRekey, hbolt, if_neg hm]

theorem zeroWords_get (a n b : Nat) (t : Tab W32) (d : Nat → W32) :
    Tab.get d ((List.range n).foldl (fun t i => t.put (a + 4 * i) 0) t) b = if ∃ i, i < n ∧ b = a + 4 * i then 0 else Tab.get d t b := by
  induction n with
  | zero => exact (if_neg (by simp)).symm
  | succ n ih =>
    rw [List.range_succ, List.foldl_append, List.foldl_cons, List.foldl_nil, Tab.get_put, ih]
    by_cases hb : b = a + 4 * n
    · rw [if_pos hb, if_pos ⟨n, by omega, hb⟩]
    · rw [if_neg hb]
      refine if_congr ⟨fun ⟨i, hi, e⟩ => ⟨i, by omega, e⟩, fun ⟨i, hi, e⟩ => ⟨i, ?_, e⟩⟩ rfl rfl
      have hne : i ≠ n := fun h => hb (h ▸ e)
      omega

/-- A leaf whose counter fails restarts. -/
theorem leafUncorrectable_shows (l : Lane) {s : State} (hon : s.stackOn = true) :
    ∃ t, exec (.counterUncorrectable (.leaf l)) s = .next t ∧ t.ln F.DISC l.val = 1
      ∧ t.reg (F.DISC_STITCH.at (RIBBON (l.val / 8)) (l.val % 8) 0) = BitVec.ofNat 32 s.stitch.toNat
      ∧ (∀ i, i < 9 → t.liveReg (F.LANE_CW_LO.at (RIBBON (l.val / 8)) (l.val % 8) 0 + 4 * i) = 0)
      ∧ (∀ a, a < F.LANE_CW_LO.at (RIBBON (l.val / 8)) (l.val % 8) 0 ∨ F.LANE_CW_LO.at (RIBBON (l.val / 8)) (l.val % 8) 0 + 36 ≤ a →
          t.liveReg a = s.liveReg a)
      ∧ t = { s with regs := t.regs, live := t.live } := by
  refine ⟨_, act_next hon, ?_, State.reg_wr_whole _ (f := F.DISC_STITCH) _ _ _ _ (by decide), fun i hi => ?_, fun a ha => ?_, rfl⟩
  · refine (State.rd_wr_word _ _ _ _ _ _ _ _ _ _ ?_).trans (State.rd_wr_same _ _ _ _ _ _ (by decide) (by decide))
    simp only [Fld.at, F.DISC, F.DISC_STITCH]
    omega
  · exact (zeroWords_get _ 9 _ s.live resetWord).trans (if_pos ⟨i, hi, rfl⟩)
  · refine (zeroWords_get _ 9 _ s.live resetWord).trans (if_neg ?_)
    rintro ⟨i, hi, e⟩
    omega

/-- A node whose counter fails is rebuilt. -/
theorem nodeUncorrectable_shows {c : CtrRef} {s : State} (hon : s.stackOn = true)
    (hc : (∃ r, c = .ribbonNode r) ∨ (∃ k, c = .patchNode k) ∨ c = .deviceNode) :
    ∃ t, exec (.counterUncorrectable c) s = .next t ∧ t = { s with rebuild := t.rebuild } ∧ c ∈ t.rebuild
      ∧ ∀ x, x ∈ t.rebuild ↔ x = c ∨ x ∈ s.rebuild := by
  have hexec : exec (.counterUncorrectable c) s = .next { s with rebuild := s.rebuild.filter (fun x => x ≠ c) ++ [c] } := by
    refine (act_next hon).trans (congrArg Host.Outcome.next ?_)
    rcases hc with ⟨r, rfl⟩ | ⟨k, rfl⟩ | rfl <;> rfl
  refine ⟨_, hexec, rfl, by simp, fun x => ?_⟩
  by_cases h : x = c <;> simp [h]

/-- Settles O41: a line's read or write halts the device or goes on, and each way shows what its clause says. -/
theorem boltLines : Obligations.BoltLines := by
  unfold Obligations.BoltLines
  exact ⟨fun k line who s hon hrun => boltLine_shows k line who hon hrun, fun k j rest s hon hrun hq _ => rekeyPassDone_shows k hon hrun hq,
    fun l s hon => leafUncorrectable_shows l hon, fun c s hon hc => nodeUncorrectable_shows hon hc⟩

end Sys2Proof.Machine

/-! The management window of the banks and the window of a bolt (R331, R332, R338, R352, R356). -/

namespace Sys2Proof.Machine

/-- A write of a field that a write does not reach. -/
theorem writeField_keeps {v held : W32} {be : Nat} {r : RegRow} (hrw : r.acc ≠ .rw) (hw1c : r.acc ≠ .w1c) : writeField v be held r = held := by
  unfold writeField
  cases hacc : r.acc with
  | rw => exact absurd hacc hrw
  | w1c => exact absurd hacc hw1c
  | _ => rfl

/-- A whole write of a window's control word holds WRITE and BYTES; GO, BUSY and STATUS stay. -/
theorem windowWord_fold (b : Blk) (go write bytes busy status : Fld) (reset : Nat → Nat → Nat) (hw : write.hi = 1 ∧ write.lo = 1)
    (hb : bytes.hi = 9 ∧ bytes.lo = 2) (v w : W32) :
    ([(⟨b, go, 1, 1, .wo, nil0, .any⟩, 0), (⟨b, write, 1, 1, .rw, nil0, .any⟩, 0), (⟨b, bytes, 1, 1, .rw, reset, .any⟩, 0),
      (⟨b, busy, 1, 1, .ro, nil0, .any⟩, 0), (⟨b, status, 1, 1, .ro, nil0, .any⟩, 0)] : List (RegRow × Nat)).foldl
        (fun w r => writeField v 15 w r.1) w
      = setBitsOf 9 2 (setBitsOf 1 1 w (bitsOf 1 1 v)) (bitsOf 9 2 v) := by
  obtain ⟨hwhi, hwlo⟩ := hw
  obtain ⟨hbhi, hblo⟩ := hb
  have hkeeps : ∀ (f : Fld) (acc : Acc) (held : W32), acc = .wo ∨ acc = .ro → writeField v 15 held ⟨b, f, 1, 1, acc, nil0, .any⟩ = held :=
    fun f acc held h => by rcases h with rfl | rfl <;> rfl
  simp only [List.foldl_cons, List.foldl_nil]
  rw [hkeeps go .wo _ (Or.inl rfl), hkeeps busy .ro _ (Or.inr rfl), hkeeps status .ro _ (Or.inr rfl),
    writeField_rw_all (r := ⟨b, bytes, 1, 1, .rw, reset, .any⟩) rfl (by simp [hbhi]) (by simp [hbhi, hblo]) rfl,
    writeField_rw_all (r := ⟨b, write, 1, 1, .rw, nil0, .any⟩) rfl (by simp [hwhi]) (by simp [hwhi, hwlo]) rfl]
  simp only [hwhi, hwlo, hbhi, hblo]
  rfl

theorem mgmtRows (p : Nat) : rowsAt .patch p 0xB9C = [(⟨.patch, F.BK_GO, 1, 1, .wo, nil0, .any⟩, 0), (⟨.patch, F.BK_WRITE, 1, 1, .rw, nil0, .any⟩, 0),
    (⟨.patch, F.BK_BYTES, 1, 1, .rw, (fun _ _ => 255), .any⟩, 0), (⟨.patch, F.BK_BUSY, 1, 1, .ro, nil0, .any⟩, 0),
    (⟨.patch, F.BK_STATUS, 1, 1, .ro, nil0, .any⟩, 0)] := by
  rfl

theorem boltWinRows (k : Nat) : rowsAt .bolt k 0x10C = [(⟨.bolt, F.BOLT_WIN_GO, 1, 1, .wo, nil0, .any⟩, 0),
    (⟨.bolt, F.BOLT_WIN_WRITE, 1, 1, .rw, nil0, .any⟩, 0), (⟨.bolt, F.BOLT_WIN_BYTES, 1, 1, .rw, (fun _ _ => 255), .any⟩, 0),
    (⟨.bolt, F.BOLT_WIN_BUSY, 1, 1, .ro, nil0, .any⟩, 0), (⟨.bolt, F.BOLT_WIN_STATUS, 1, 1, .ro, nil0, .any⟩, 0)] := rfl

theorem boltWin_word (k : LPatch) : locate (BOLT k.val + 0x10C) = some (.bolt, k.val, 0x10C) := by fin_cases k <;> rfl

theorem mgmt_word (p : Pos) : locate (PATCH p.val + 0xB9C) = some (.patch, p.val, 0xB9C) := locate_patch p.isLt (by decide)

/-- The control word after a whole write. -/
theorem State.reg_mgmtWord (s : State) (p : Pos) (v : W32) : (s.mergeWrite (PATCH p.val + 0xB9C) v 15).reg (PATCH p.val + 0xB9C)
    = setBitsOf 9 2 (setBitsOf 1 1 (s.reg (PATCH p.val + 0xB9C)) (bitsOf 1 1 v)) (bitsOf 9 2 v) := by
  rw [State.reg_mergeWrite_same (mgmt_word p), mgmtRows]
  exact windowWord_fold _ _ _ _ _ _ _ ⟨rfl, rfl⟩ ⟨rfl, rfl⟩ _ _

theorem State.reg_boltWinWord (s : State) (k : LPatch) (v : W32) : (s.mergeWrite (BOLT k.val + 0x10C) v 15).reg (BOLT k.val + 0x10C)
    = setBitsOf 9 2 (setBitsOf 1 1 (s.reg (BOLT k.val + 0x10C)) (bitsOf 1 1 v)) (bitsOf 9 2 v) := by
  rw [State.reg_mergeWrite_same (boltWin_word k), boltWinRows]
  exact windowWord_fold _ _ _ _ _ _ _ ⟨rfl, rfl⟩ ⟨rfl, rfl⟩ _ _

/-- What WRITE, BYTES and BUSY read of the control word after a whole write. -/
theorem windowWord_reads (w v : W32) : bitsOf 1 1 (setBitsOf 9 2 (setBitsOf 1 1 w (bitsOf 1 1 v)) (bitsOf 9 2 v)) = bitsOf 1 1 v
    ∧ bitsOf 9 2 (setBitsOf 9 2 (setBitsOf 1 1 w (bitsOf 1 1 v)) (bitsOf 9 2 v)) = bitsOf 9 2 v
    ∧ bitsOf 10 10 (setBitsOf 9 2 (setBitsOf 1 1 w (bitsOf 1 1 v)) (bitsOf 9 2 v)) = bitsOf 10 10 w := by
  refine ⟨?_, ?_, ?_⟩
  · rw [bitsOf_setBitsOf_other _ _ (by decide) (by decide) (by decide) (by decide), bitsOf_setBitsOf _ _ (by decide) (by decide)]
    exact Nat.mod_eq_of_lt (bitsOf_lt _ _ _)
  · rw [bitsOf_setBitsOf _ _ (by decide) (by decide)]
    exact Nat.mod_eq_of_lt (bitsOf_lt _ _ _)
  · rw [bitsOf_setBitsOf_other _ _ (by decide) (by decide) (by decide) (by decide), bitsOf_setBitsOf_other _ _ (by decide) (by decide) (by decide)
      (by decide)]

theorem wants_go (v : W32) (f : Fld) (hf : f.hi = 0 ∧ f.lo = 0) : f.wants v 15 = bitsOf 0 0 v := by
  unfold Fld.wants
  rw [hf.1, hf.2, enMask_of_all rfl]
  exact congrArg (bitsOf 0 0) BitVec.and_allOnes

end Sys2Proof.Machine

namespace Sys2Proof.Machine

/-- GO of the management window. -/
theorem mgmtGo_starts (p : Pos) {v : W32} {s : State} (hon : s.stackOn = true) (hgo : bitsOf 0 0 v = 1) (hview : s.posView p.val = .normal)
    (hloud : s.silent .patch 0xB9C = false) (hfree : s.rd F.BK_BUSY (PATCH p.val) = 0) :
    ∃ t, exec (.mgmtWindowGo p v 15) s = .next t ∧ t.rd F.BK_BUSY (PATCH p.val) = 1
      ∧ t.bankWin.get (fun _ => ⟨0, 0, 0, false, 0⟩) p.val = ⟨s.rd F.BK_WIN_BANK (PATCH p.val), s.rd F.BK_WIN_WORD (PATCH p.val),
          BitVec.ofNat 64 (s.pair (PATCH p.val + 0xB94) (PATCH p.val + 0xB98)), bitsOf 1 1 v == 1, bitsOf 9 2 v⟩
      ∧ t = { s with regs := t.regs, bankWin := t.bankWin } := by
  have hwants : F.BK_GO.wants v 15 = 1 := (wants_go v F.BK_GO ⟨rfl, rfl⟩).trans hgo
  have hvia : s.viaPos p.val 0xB9C v 15 (s.writeMgmt p.val v 15) = s.writeMgmt p.val v 15 := by
    unfold State.viaPos
    rw [hview]
    exact if_neg (by simp [hloud])
  have hexec : exec (.mgmtWindowGo p v 15) s = .next (s.writeMgmt p.val v 15) :=
    (act_next (by rw [hon]; exact beq_iff_eq.2 hwants)).trans (congrArg Host.Outcome.next hvia)
  have hword := s.reg_mgmtWord p v
  obtain ⟨hwrite, hbytes, hbusy⟩ := windowWord_reads (s.reg (PATCH p.val + 0xB9C)) v
  rw [← hword] at hwrite hbytes hbusy
  have hother : ∀ a, a ≠ PATCH p.val + 0xB9C → _ := fun a ha => s.reg_mergeWrite_other ha v 15
  have hframe := s.mergeWrite_frame (PATCH p.val + 0xB9C) v 15
  rw [hexec]
  unfold State.writeMgmt
  dsimp only
  rw [if_pos ⟨hwants, hfree⟩]
  generalize s.mergeWrite (PATCH p.val + 0xB9C) v 15 = u at hword hwrite hbytes hbusy hother hframe
  have hbank : ∀ f : Fld, f.off = 0xB90 ∧ f.st1 = 0 ∧ f.st2 = 0 → u.rd f (PATCH p.val) = s.rd f (PATCH p.val) := fun f ⟨hf, hst, hst'⟩ =>
    congrArg (bitsOf f.hi f.lo) (hother _ (by unfold Fld.at; rw [hf, hst, hst']; omega))
  have hpair : u.pair (PATCH p.val + 0xB94) (PATCH p.val + 0xB98) = s.pair (PATCH p.val + 0xB94) (PATCH p.val + 0xB98) := by
    unfold State.pair
    rw [hother _ (by omega), hother _ (by omega)]
  refine ⟨_, rfl, State.rd_wr_same _ _ _ _ _ _ (by decide) (by decide), (Tab.get_put_same _ _ _ _).trans ?_, ?_⟩
  · rw [hbank _ ⟨rfl, rfl, rfl⟩, hbank _ ⟨rfl, rfl, rfl⟩, hpair]
    have hflag : u.flag F.BK_WRITE (PATCH p.val) = (bitsOf 1 1 v == 1) := congrArg (· == 1) hwrite
    have hmask : u.rd F.BK_BYTES (PATCH p.val) = bitsOf 9 2 v := hbytes
    rw [hflag, hmask]
  · rw [hframe]
    rfl

/-- GO of the management window while an access is under way. -/
theorem mgmtGo_busy (p : Pos) {v : W32} {s : State} (hon : s.stackOn = true) (hgo : bitsOf 0 0 v = 1) (hview : s.posView p.val = .normal)
    (hbusy : s.rd F.BK_BUSY (PATCH p.val) = 1) :
    ∃ t, exec (.mgmtWindowGo p v 15) s = .next t ∧ t.rd F.BK_BUSY (PATCH p.val) = 1 ∧ OnlyRegs [PATCH p.val + 0xB9C] s t := by
  have hwants : F.BK_GO.wants v 15 = 1 := (wants_go v F.BK_GO ⟨rfl, rfl⟩).trans hgo
  have hexec : exec (.mgmtWindowGo p v 15) s = .next (if s.silent .patch 0xB9C then s else s.writeMgmt p.val v 15) := by
    refine (act_next (by rw [hon]; exact beq_iff_eq.2 hwants)).trans (congrArg Host.Outcome.next ?_)
    unfold State.viaPos
    rw [hview]
    rfl
  have hheld : s.writeMgmt p.val v 15 = s.mergeWrite (PATCH p.val + 0xB9C) v 15 := by
    unfold State.writeMgmt
    exact if_neg (fun h => by omega)
  rw [hexec, hheld]
  refine ⟨_, rfl, ?_⟩
  split
  · exact ⟨hbusy, .refl _ s⟩
  · refine ⟨?_, s.onlyRegs_mergeWrite _ v 15⟩
    refine (congrArg (bitsOf 10 10) (s.reg_mgmtWord p v)).trans ?_
    exact (windowWord_reads (s.reg (PATCH p.val + 0xB9C)) v).2.2.trans hbusy

theorem pairOf_words (v : Nat) (h : v < 2 ^ 64) : (BitVec.ofNat 32 v).toNat + 2 ^ 32 * (BitVec.ofNat 32 (v / 2 ^ 32)).toNat = v := by
  simp only [BitVec.toNat_ofNat]
  omega

/-- The end of a management access: its status, and BUSY 0. -/
def State.mgmtEnd (s : State) (p : Nat) (st : Status) : State := (s.wr F.BK_STATUS (PATCH p) st.code).wr F.BK_BUSY (PATCH p) 0

theorem State.mgmtEnd_shows (s : State) (p : Nat) (st : Status) (hst : st.code < 256) :
    (s.mgmtEnd p st).rd F.BK_BUSY (PATCH p) = 0 ∧ (s.mgmtEnd p st).rd F.BK_STATUS (PATCH p) = st.code
      ∧ OnlyRegs [PATCH p + 0xB9C] s (s.mgmtEnd p st) := by
  refine ⟨State.rd_wr_same _ _ _ _ _ _ (by decide) (by decide), ?_, ((OnlyRegs.refl _ s).wr (by simp [Fld.at, F.BK_STATUS]) _).wr
    (by simp [Fld.at, F.BK_BUSY]) _⟩
  exact (State.rd_wr_field _ _ _ _ _ _ _ _ _ _ (by decide) (by decide) (by decide) (by decide)).trans
    ((State.rd_wr_same _ _ _ _ _ _ (by decide) (by decide)).trans (Nat.mod_eq_of_lt hst))

theorem OnlyRegs.trans {l : List Nat} {s t u : State} (h : OnlyRegs l s t) (g : OnlyRegs l t u) : OnlyRegs l s u := by
  refine ⟨?_, fun a ha => (g.2 a ha).trans (h.2 a ha)⟩
  rw [g.1]
  generalize u.regs = x
  rw [h.1]

theorem OnlyRegs.mono {l l' : List Nat} {s t : State} (h : OnlyRegs l s t) (hl : ∀ a, a ∈ l → a ∈ l') : OnlyRegs l' s t :=
  ⟨h.1, fun a ha => h.2 a (fun hm => ha (hl a hm))⟩

/-- The access that the management window of a position holds. -/
def State.mgmtReq (s : State) (p : Nat) : WinReq := s.bankWin.get (fun _ => ⟨0, 0, 0, false, 0⟩) p

/-- A read word in the window's data words. -/
def State.mgmtData (s : State) (p : Nat) (w : W64) : State :=
  (s.setReg (PATCH p + 0xB94) (BitVec.ofNat 32 w.toNat)).setReg (PATCH p + 0xB98) (BitVec.ofNat 32 (w.toNat / 2 ^ 32))

theorem mgmtWindowDone_eq (p : Pos) {s : State} (hon : s.stackOn = true) (hbusy : s.rd F.BK_BUSY (PATCH p.val) = 1) :
    exec (.mgmtWindowDone p .clean) s = .next (if (s.mgmtReq p.val).write then
       if (s.bankAt p.val (s.mgmtReq p.val).bank).owner ≠ 0 ∨ s.rd F.PSTATE (PATCH p.val) = 1 then s.mgmtEnd p.val .refused
       else (s.bankWrite p.val (s.mgmtReq p.val).bank (s.mgmtReq p.val).word (s.mgmtReq p.val).data (s.mgmtReq p.val).bytes .clean).1.mgmtEnd p.val
         (if (s.bankWrite p.val (s.mgmtReq p.val).bank (s.mgmtReq p.val).word (s.mgmtReq p.val).data (s.mgmtReq p.val).bytes .clean).2 then .poison
           else .ok)
      else ((s.bankRead p.val (s.mgmtReq p.val).bank (s.mgmtReq p.val).word .clean).1.mgmtData p.val
        (s.bankRead p.val (s.mgmtReq p.val).bank (s.mgmtReq p.val).word .clean).2.1).mgmtEnd p.val
          (if (s.bankRead p.val (s.mgmtReq p.val).bank (s.mgmtReq p.val).word .clean).2.2 then .poison else .ok)) :=
  act_next (by rw [hon, hbusy]; rfl)

/-- A read of the management window that has ended. -/
theorem mgmtRead_ends (p : Pos) {s : State} (hon : s.stackOn = true) (hbusy : s.rd F.BK_BUSY (PATCH p.val) = 1)
    (hread : (s.mgmtReq p.val).write = false) :
    let b := PATCH p.val
    let q := s.mgmtReq p.val
    ∃ t, exec (.mgmtWindowDone p .clean) s = .next t ∧ t.rd F.BK_BUSY b = 0 ∧ OnlyRegs [b + 0xB94, b + 0xB98, b + 0xB9C] s t
      ∧ t.rd F.BK_STATUS b = (if s.bankPoison p.val q.bank q.word then 7 else 0)
      ∧ t.pair (b + 0xB94) (b + 0xB98) = (if s.bankPoison p.val q.bank q.word then 0 else (s.bankWord p.val q.bank q.word).toNat) := by
  intro b q
  obtain ⟨w, st, hexec, hlt, hst, hw⟩ : ∃ (w : W64) (st : Status), exec (.mgmtWindowDone p .clean) s = .next ((s.mgmtData p.val w).mgmtEnd p.val st)
      ∧ st.code < 256 ∧ st.code = (if s.bankPoison p.val q.bank q.word then 7 else 0)
      ∧ w.toNat = (if s.bankPoison p.val q.bank q.word then 0 else (s.bankWord p.val q.bank q.word).toNat) := by
    rw [mgmtWindowDone_eq p hon hbusy, if_neg (by simp [hread]), State.bankRead_clean]
    change ∃ (w : W64) (st : Status), Host.Outcome.next (((if s.bankPoison p.val q.bank q.word then (s, 0, true)
      else (s, s.bankWord p.val q.bank q.word, false)).1.mgmtData _ _).mgmtEnd _ _) = _ ∧ _
    by_cases hp : s.bankPoison p.val q.bank q.word = true
    · rw [if_pos hp]
      exact ⟨0, .poison, rfl, by decide, by rw [if_pos hp]; rfl, by rw [if_pos hp]; rfl⟩
    · rw [if_neg hp]
      exact ⟨s.bankWord p.val q.bank q.word, .ok, rfl, by decide, by rw [if_neg hp]; rfl, by rw [if_neg hp]⟩
  obtain ⟨hdone, hstatus, hregs⟩ := (s.mgmtData p.val w).mgmtEnd_shows p.val st hlt
  refine ⟨_, hexec, hdone, ?_, hstatus.trans hst, ?_⟩
  · exact (((OnlyRegs.refl _ s).setReg (by simp [b]) _).setReg (by simp [b]) _).trans (hregs.mono (by simp [b]))
  · rw [← hw]
    refine Eq.trans ?_ (pairOf_words w.toNat w.isLt)
    unfold State.pair
    rw [hregs.2 _ (by simp [b]), hregs.2 _ (by simp [b])]
    unfold State.mgmtData
    rw [State.reg_setReg_same, State.reg_setReg_other _ _ (by omega), State.reg_setReg_same]

/-- A write of the management window that its bank's owner does not let through. -/
theorem mgmtWrite_refused (p : Pos) {s : State} (hon : s.stackOn = true) (hbusy : s.rd F.BK_BUSY (PATCH p.val) = 1)
    (hwrite : (s.mgmtReq p.val).write = true) (howner : (s.bankAt p.val (s.mgmtReq p.val).bank).owner ≠ 0 ∨ s.rd F.PSTATE (PATCH p.val) = 1) :
    ∃ t, exec (.mgmtWindowDone p .clean) s = .next t ∧ t.rd F.BK_BUSY (PATCH p.val) = 0 ∧ t.rd F.BK_STATUS (PATCH p.val) = 3
      ∧ OnlyRegs [PATCH p.val + 0xB9C] s t := by
  rw [mgmtWindowDone_eq p hon hbusy, if_pos hwrite, if_pos howner]
  obtain ⟨hdone, hstatus, hregs⟩ := s.mgmtEnd_shows p.val .refused (by decide)
  exact ⟨_, rfl, hdone, hstatus, hregs⟩

/-- A write of all eight bytes. -/
theorem mgmtWrite_stores (p : Pos) {s : State} (hon : s.stackOn = true) (hbusy : s.rd F.BK_BUSY (PATCH p.val) = 1)
    (hwrite : (s.mgmtReq p.val).write = true) (howner : (s.bankAt p.val (s.mgmtReq p.val).bank).owner = 0)
    (hidle : s.rd F.PSTATE (PATCH p.val) ≠ 1) (hbytes : (s.mgmtReq p.val).bytes = 255) (hbank : (s.mgmtReq p.val).bank < 8) :
    let q := s.mgmtReq p.val
    ∃ t, exec (.mgmtWindowDone p .clean) s = .next t ∧ t.rd F.BK_BUSY (PATCH p.val) = 0 ∧ t.rd F.BK_STATUS (PATCH p.val) = 0
      ∧ t = { s with regs := t.regs, banks := t.banks } ∧ t.bankPoison p.val q.bank q.word = false
      ∧ ∀ pos b' w, b' < 8 → t.bankWord pos b' w = if pos = p.val ∧ b' = q.bank ∧ w = q.word then q.data else s.bankWord pos b' w := by
  intro q
  have hput : s.bankWrite p.val q.bank q.word q.data q.bytes .clean = (s.putWord p.val q.bank q.word q.data, false) := by
    unfold State.bankWrite
    exact if_pos (by rw [hbytes])
  rw [mgmtWindowDone_eq p hon hbusy, if_pos hwrite, if_neg (by simp [howner, hidle]), hput]
  obtain ⟨hdone, hstatus, hregs⟩ := (s.putWord p.val q.bank q.word q.data).mgmtEnd_shows p.val .ok (by decide)
  refine ⟨_, rfl, hdone, hstatus, rfl, ?_, fun pos b' w hb' => ?_⟩
  · change ((s.putWord p.val q.bank q.word q.data).bankAt p.val q.bank).poison.get (fun _ => false) q.word = false
    unfold State.putWord
    rw [State.bankAt_setBank_same]
    dsimp only
    rw [Tab.get_set, if_pos rfl]
  · exact s.bankWord_putWord p.val q.bank q.word q.data hbank hb'

end Sys2Proof.Machine

namespace Sys2Proof.Machine

/-- GO of a bolt's window. -/
theorem boltGo_starts (k : LPatch) {v : W32} {s : State} (hon : s.stackOn = true) (hgo : bitsOf 0 0 v = 1) (hloud : s.silent .bolt 0x10C = false)
    (hfree : s.rd F.BOLT_WIN_BUSY (BOLT k.val) = 0) :
    ∃ t, exec (.boltWindowGo k v 15) s = .next t ∧ t.rd F.BOLT_WIN_BUSY (BOLT k.val) = 1
      ∧ t.boltWin.get (fun _ => ⟨0, 0, 0, false, 0⟩) k.val = ⟨0, s.rd F.BOLT_WIN_WORD (BOLT k.val),
          BitVec.ofNat 64 (s.pair (BOLT k.val + 0x104) (BOLT k.val + 0x108)), bitsOf 1 1 v == 1, bitsOf 9 2 v⟩
      ∧ t = { s with regs := t.regs, boltWin := t.boltWin } := by
  have hwants : F.BOLT_WIN_GO.wants v 15 = 1 := (wants_go v F.BOLT_WIN_GO ⟨rfl, rfl⟩).trans hgo
  have hexec : exec (.boltWindowGo k v 15) s = .next (s.writeBoltWin k.val v 15) :=
    (act_next (by rw [hon]; exact beq_iff_eq.2 hwants)).trans (congrArg Host.Outcome.next (if_neg (by simp [hloud])))
  have hword := s.reg_boltWinWord k v
  obtain ⟨hwrite, hbytes, _⟩ := windowWord_reads (s.reg (BOLT k.val + 0x10C)) v
  rw [← hword] at hwrite hbytes
  have hother : ∀ a, a ≠ BOLT k.val + 0x10C → _ := fun a ha => s.reg_mergeWrite_other ha v 15
  have hframe := s.mergeWrite_frame (BOLT k.val + 0x10C) v 15
  rw [hexec]
  unfold State.writeBoltWin
  dsimp only
  rw [if_pos ⟨hwants, hfree⟩]
  generalize s.mergeWrite (BOLT k.val + 0x10C) v 15 = u at hword hwrite hbytes hother hframe
  have hline : u.rd F.BOLT_WIN_WORD (BOLT k.val) = s.rd F.BOLT_WIN_WORD (BOLT k.val) :=
    congrArg (bitsOf F.BOLT_WIN_WORD.hi F.BOLT_WIN_WORD.lo) (hother _ (by unfold Fld.at; simp only [F.BOLT_WIN_WORD]; omega))
  have hpair : u.pair (BOLT k.val + 0x104) (BOLT k.val + 0x108) = s.pair (BOLT k.val + 0x104) (BOLT k.val + 0x108) := by
    unfold State.pair
    rw [hother _ (by omega), hother _ (by omega)]
  refine ⟨_, rfl, State.rd_wr_same _ _ _ _ _ _ (by decide) (by decide), (Tab.get_put_same _ _ _ _).trans ?_, ?_⟩
  · have hflag : u.flag F.BOLT_WIN_WRITE (BOLT k.val) = (bitsOf 1 1 v == 1) := congrArg (· == 1) hwrite
    have hmask : u.rd F.BOLT_WIN_BYTES (BOLT k.val) = bitsOf 9 2 v := hbytes
    rw [hline, hpair, hflag, hmask]
  · rw [hframe]
    rfl

/-- The access that a bolt's window holds. -/
def State.boltReq (s : State) (k : Nat) : WinReq := s.boltWin.get (fun _ => ⟨0, 0, 0, false, 0⟩) k

/-- The end of an access of a bolt's window: its status, and BUSY 0. -/
def State.boltEnd (s : State) (k : Nat) (st : Status) : State := (s.wr F.BOLT_WIN_STATUS (BOLT k) st.code).wr F.BOLT_WIN_BUSY (BOLT k) 0

theorem State.boltEnd_shows (s : State) (k : Nat) (st : Status) (hst : st.code < 256) :
    (s.boltEnd k st).rd F.BOLT_WIN_BUSY (BOLT k) = 0 ∧ (s.boltEnd k st).rd F.BOLT_WIN_STATUS (BOLT k) = st.code
      ∧ OnlyRegs [BOLT k + 0x10C] s (s.boltEnd k st) := by
  refine ⟨State.rd_wr_same _ _ _ _ _ _ (by decide) (by decide), ?_, ((OnlyRegs.refl _ s).wr (by simp [Fld.at, F.BOLT_WIN_STATUS]) _).wr
    (by simp [Fld.at, F.BOLT_WIN_BUSY]) _⟩
  exact (State.rd_wr_field _ _ _ _ _ _ _ _ _ _ (by decide) (by decide) (by decide) (by decide)).trans
    ((State.rd_wr_same _ _ _ _ _ _ (by decide) (by decide)).trans (Nat.mod_eq_of_lt hst))

theorem leNat_lt (l : List Byte) : leNat l < 256 ^ l.length := by
  induction l with
  | nil => exact Nat.one_pos
  | cons b l ih =>
    have hb : b.toNat < 256 := b.isLt
    simp only [leNat, List.length_cons, Nat.pow_succ]
    omega

/-- The eight bytes of a word of a line. -/
theorem boltBytes_word (s : State) (k w : Nat) :
    ((s.boltBytes k (64 * (w / 8)) 64).drop (8 * (w % 8))).take 8 = s.boltBytes k (8 * w) 8 := by
  have hat : 8 * (w % 8) + 8 ≤ 64 := by omega
  have hline : 64 * (w / 8) + 8 * (w % 8) = 8 * w := by omega
  unfold State.boltBytes
  refine List.ext_getElem (by simp; omega) fun i h1 h2 => ?_
  simp only [List.getElem_take, List.getElem_drop, List.getElem_map, List.getElem_range]
  congr 1
  omega

/-- A read of a bolt's window that has ended. -/
theorem boltRead_ends (k : LPatch) {s : State} (hon : s.stackOn = true) (hbusy : s.rd F.BOLT_WIN_BUSY (BOLT k.val) = 1)
    (hread : (s.boltReq k.val).write = false) (hgood : s.lineBad k.val ((s.boltReq k.val).word / 8) = false) :
    let b := BOLT k.val
    let q := s.boltReq k.val
    ∃ t, exec (.boltWindowDone k .clean) s = .next t ∧ t.rd F.BOLT_WIN_BUSY b = 0 ∧ t.rd F.BOLT_WIN_STATUS b = 0
      ∧ t.pair (b + 0x104) (b + 0x108) = leNat (s.boltBytes k.val (8 * q.word) 8) ∧ OnlyRegs [b + 0x104, b + 0x108, b + 0x10C] s t := by
  intro b q
  generalize hv : leNat (s.boltBytes k.val (8 * q.word) 8) = v
  have hlt : v < 2 ^ 64 := by
    rw [← hv]
    refine (leNat_lt _).trans_le ?_
    rw [State.length_boltBytes]
    decide
  have hexec : exec (.boltWindowDone k .clean) s = .next (((s.setReg (b + 0x104) (BitVec.ofNat 32 v)).setReg (b + 0x108)
      (BitVec.ofNat 32 (v / 2 ^ 32))).boltEnd k.val .ok) := by
    refine (act_next (by rw [hon, hbusy]; rfl)).trans (congrArg Host.Outcome.next ?_)
    have hq : s.boltWin.get (fun _ => ⟨0, 0, 0, false, 0⟩) k.val = q := rfl
    dsimp only
    rw [hq, if_neg (by rw [show q.write = false from hread]; decide), State.boltRead_clean hgood]
    dsimp only
    rw [boltBytes_word, hv]
    rfl
  obtain ⟨hdone, hstatus, hregs⟩ := ((s.setReg (b + 0x104) (BitVec.ofNat 32 v)).setReg (b + 0x108)
      (BitVec.ofNat 32 (v / 2 ^ 32))).boltEnd_shows k.val .ok (by decide)
  refine ⟨_, hexec, hdone, hstatus, ?_, (((OnlyRegs.refl _ s).setReg (by simp [b]) _).setReg (by simp [b]) _).trans (hregs.mono (by simp [b]))⟩
  refine Eq.trans ?_ (pairOf_words v hlt)
  unfold State.pair
  rw [hregs.2 _ (by simp [b]), hregs.2 _ (by simp [b]), State.reg_setReg_same, State.reg_setReg_other _ _ (by omega), State.reg_setReg_same]

/-- The bytes of a line that a write of the window stores. -/
def winMask (q : WinReq) : List Bool :=
  (List.range 64).map (fun i => decide (8 * (q.word % 8) ≤ i) && decide (i < 8 * (q.word % 8) + 8) && bitAt q.bytes (i - 8 * (q.word % 8)))

theorem winMask_at (q : WinReq) {i : Nat} (hi : i < 64) : nthD false (winMask q) i = true ↔
    8 * (q.word % 8) ≤ i ∧ i < 8 * (q.word % 8) + 8 ∧ bitAt q.bytes (i - 8 * (q.word % 8)) = true := by
  unfold winMask
  rw [nthD_map_range _ _ _ _ hi]
  simp [and_assoc]

/-- A write of the window is always one of part of a line. -/
theorem winMask_part (q : WinReq) : ¬ (winMask q).all id = true := fun h => by
  have hlen : (winMask q).length = 64 := by simp [winMask]
  have h0 := (winMask_at q (by decide : 0 < 64)).1 (nthD_all hlen h (by decide))
  have h8 := (winMask_at q (by decide : 8 < 64)).1 (nthD_all hlen h (by decide))
  omega

theorem nthD_append_right {α : Type} (d : α) (l m : List α) {i : Nat} (h : l.length ≤ i) : nthD d (l ++ m) i = nthD d m (i - l.length) := by
  induction l generalizing i with
  | nil => rfl
  | cons a l ih =>
    cases i with
    | zero => simp at h
    | succ i =>
      simp only [List.cons_append, nthD, List.length_cons, Nat.succ_sub_succ]
      exact ih (Nat.le_of_succ_le_succ h)

/-- A write of a bolt's window that has ended. -/
theorem boltWrite_ends (k : LPatch) {s : State} (hon : s.stackOn = true) (hbusy : s.rd F.BOLT_WIN_BUSY (BOLT k.val) = 1)
    (hwrite : (s.boltReq k.val).write = true) (hgood : s.lineBad k.val ((s.boltReq k.val).word / 8) = false) :
    let b := BOLT k.val
    let q := s.boltReq k.val
    ∃ t, exec (.boltWindowDone k .clean) s = .next t ∧ t.rd F.BOLT_WIN_BUSY b = 0
      ∧ (t.halted = false → t.rd F.BOLT_WIN_STATUS b = 0
        ∧ ∀ a, t.boltByte k.val a = if 8 * q.word ≤ a ∧ a < 8 * q.word + 8 ∧ bitAt q.bytes (a - 8 * q.word) = true then
            nthD 0 (leBytes 8 q.data.toNat) (a - 8 * q.word) else s.boltByte k.val a) := by
  intro b q
  have hup := boltUp hon
  have hexec : exec (.boltWindowDone k .clean) s = .next (match s.boltWrite k.val (q.word / 8) (List.replicate (8 * (q.word % 8)) 0
      ++ leBytes 8 q.data.toNat) (winMask q) .clean with
      | (s1, .done) => s1.boltEnd k.val .ok
      | (s1, .poison) => (s1.markDamage k.val (q.word / 8)).boltEnd k.val .poison
      | (s1, .halt) => s1.boltEnd k.val .securityHalt) := by
    refine (act_next (by rw [hon, hbusy]; rfl)).trans (congrArg Host.Outcome.next ?_)
    have hq : s.boltWin.get (fun _ => ⟨0, 0, 0, false, 0⟩) k.val = q := rfl
    dsimp only
    rw [hq, if_pos hwrite]
    rfl
  have hlive : ∀ (u : State) (st : Status), (u.boltEnd k.val st).halted = u.halted := fun u st => by
    refine congrArg (bitsOf 0 0 · == 1) ((OnlyRegs.wr (OnlyRegs.wr (OnlyRegs.refl [BOLT k.val + 0x10C] u) ?_ _) ?_ _).2 _ ?_)
    · simp [Fld.at, F.BOLT_WIN_STATUS]
    · simp [Fld.at, F.BOLT_WIN_BUSY]
    · simp only [List.mem_singleton, Fld.at, F.HALT_HALTED, SEC, BOLT]
      omega
  rw [hexec]
  rcases boltWrite_clean k (l := q.word / 8) hup (List.replicate (8 * (q.word % 8)) 0 ++ leBytes 8 q.data.toNat) (winMask q)
    (fun h => absurd h (winMask_part q)) (Or.inl hgood) with ⟨u, hu, hhalt⟩ | ⟨u, hu, _, _, _, hbytes⟩
  · rw [hu]
    obtain ⟨hdone, _, _⟩ := u.boltEnd_shows k.val .securityHalt (by decide)
    exact ⟨_, rfl, hdone, fun h => absurd (((hlive u _).trans hhalt).symm.trans h) (by decide)⟩
  · rw [hu]
    obtain ⟨hdone, hstatus, hregs⟩ := u.boltEnd_shows k.val .ok (by decide)
    refine ⟨_, rfl, hdone, fun _ => ⟨hstatus, fun a => ?_⟩⟩
    have hsame : (u.boltEnd k.val .ok).boltByte k.val a = u.boltByte k.val a := boltByte_of_bolts rfl k.val a
    rw [hsame, hbytes]
    by_cases hin : 64 * (q.word / 8) ≤ a ∧ a < 64 * (q.word / 8) + 64
    · obtain ⟨hlo, hhi⟩ := hin
      have hiff := winMask_at q (i := a - 64 * (q.word / 8)) (by omega)
      have hsub : a - 64 * (q.word / 8) - 8 * (q.word % 8) = a - 8 * q.word := by omega
      rw [hsub] at hiff
      by_cases hm : nthD false (winMask q) (a - 64 * (q.word / 8)) = true
      · obtain ⟨h1, h2, h3⟩ := hiff.1 hm
        rw [if_pos ⟨hlo, hhi, hm⟩, if_pos ⟨by omega, by omega, h3⟩, nthD_append_right _ _ _ (by simpa using h1), List.length_replicate, hsub]
      · rw [if_neg (fun h => hm h.2.2), if_neg (fun h => hm (hiff.2 ⟨by omega, by omega, h.2.2⟩))]
    · rw [if_neg (fun h => hin ⟨h.1, h.2.1⟩), if_neg (fun h => hin (by omega))]

/-- Settles O39: GO takes the access from the window's words, and the end of an access shows what its read or its write did. -/
theorem memoryWindows : Obligations.MemoryWindows := by
  unfold Obligations.MemoryWindows
  exact ⟨fun p v s hon => ⟨fun hgo hview hloud hfree => mgmtGo_starts p hon hgo hview hloud hfree, fun hgo hview hbusy => mgmtGo_busy p hon hgo hview hbusy,
      fun hbusy hread => mgmtRead_ends p hon hbusy hread, fun hbusy hwrite howner => mgmtWrite_refused p hon hbusy hwrite howner,
      fun hbusy hwrite howner hidle hbytes hbank => mgmtWrite_stores p hon hbusy hwrite howner hidle hbytes hbank⟩,
    fun k v s hon => ⟨fun hgo hloud hfree => boltGo_starts k hon hgo hloud hfree, fun hbusy hread hgood => boltRead_ends k hon hbusy hread hgood,
      fun hbusy hwrite hgood => boltWrite_ends k hon hbusy hwrite hgood⟩⟩

end Sys2Proof.Machine

/-! The link states of a seam (R402, R405, R420), and the routes that follow them (R414). -/

namespace Sys2Proof.Machine

/-- Nothing differs but words of the device's own block and what the seams send. -/
structure RoutesOnly (s t : State) : Prop where
  frame : t = { s with regs := t.regs, seams := t.seams }
  regs : SameRegs (fun a => 0x1000 ≤ a) s t
  key : ∀ m, (t.seamAt m).key = (s.seamAt m).key
  fctr : ∀ m, (t.seamAt m).fctr = (s.seamAt m).fctr

namespace RoutesOnly

variable {s t u : State}

theorem refl (s : State) : RoutesOnly s s := ⟨rfl, SameRegs.refl _ s, fun _ => rfl, fun _ => rfl⟩

theorem trans (h : RoutesOnly s t) (g : RoutesOnly t u) : RoutesOnly s u := by
  refine ⟨?_, h.regs.trans g.regs, fun m => (g.key m).trans (h.key m), fun m => (g.fctr m).trans (h.fctr m)⟩
  rw [g.frame]
  generalize u.regs = x
  generalize u.seams = y
  rw [h.frame]

theorem wr (h : RoutesOnly s t) {f : Fld} {i : Nat} (hf : f.at DEV i 0 < 0x1000) (v : Nat) : RoutesOnly s (t.wr f DEV v i) :=
  h.trans ⟨rfl, (SameRegs.refl _ t).wr (Nat.not_le.2 hf) v, fun _ => rfl, fun _ => rfl⟩

theorem ite {c : Prop} [Decidable c] (ht : RoutesOnly s t) (hu : RoutesOnly s u) : RoutesOnly s (if c then t else u) := by split <;> assumption

theorem forN_lt (h : RoutesOnly s t) {f : Nat → State → State} {n : Nat} (hf : ∀ i, i < n → ∀ u, RoutesOnly u (f i u)) :
    RoutesOnly s (Sys2Proof.forN f n t) := by
  induction n with
  | zero => exact h
  | succ n ih => exact (ih (fun i hi => hf i (by omega))).trans (hf n (by omega) _)

theorem modSeam (h : RoutesOnly s t) (n : Nat) {f : SeamSt → SeamSt} (hkey : ∀ x, (f x).key = x.key) (hfctr : ∀ x, (f x).fctr = x.fctr) :
    RoutesOnly s (t.modSeam n f) := by
  have hat : ∀ m, (t.modSeam n f).seamAt m = if m = n then f (t.seamAt n) else t.seamAt m := fun m => Tab.get_put _ _ _ _ _
  refine h.trans ⟨rfl, SameRegs.refl _ t, fun m => ?_, fun m => ?_⟩ <;>
  · rw [hat]
    split
    · next e => rw [e]; simp [hkey, hfctr]
    · rfl

theorem sendMsg (h : RoutesOnly s t) (d : Nat) (m : Msg) : RoutesOnly s (t.sendMsg d m) := by
  unfold State.sendMsg
  split
  · exact h
  · exact h.modSeam _ (fun _ => rfl) (fun _ => rfl)

theorem tellRoutes (h : RoutesOnly s t) (x : Nat) : RoutesOnly s (t.tellRoutes x) :=
  h.forN_lt fun _ _ u => ite (refl u) ((refl u).sendMsg _ _)

theorem setWide (h : RoutesOnly s t) (wide : Bool) : RoutesOnly s (t.setWide wide) := ite h (h.wr (i := 0) (by decide) _)

theorem ownRoutes (h : RoutesOnly s t) (hn : deviceCount t.sys.links ≤ 64) : RoutesOnly s t.ownRoutes := by
  refine (h.setWide _).forN_lt fun d hd u => ite (refl u) ?_
  have hword : ∀ f : Fld, f ∈ [F.SYS_PRI, F.SYS_ALT, F.SYS_HOPS, F.SYS_LAT, F.SYS_ABSENT] → f.at DEV d 0 < 0x1000 := by
    intro f hf
    simp only [List.mem_cons, List.not_mem_nil, or_false] at hf
    unfold Fld.at DEV
    rcases hf with rfl | rfl | rfl | rfl | rfl <;> simp only [F.SYS_PRI, F.SYS_ALT, F.SYS_HOPS, F.SYS_LAT, F.SYS_ABSENT] <;> omega
  exact (((((refl u).wr (hword F.SYS_PRI (by simp)) _).wr (hword F.SYS_ALT (by simp)) _).wr (hword F.SYS_HOPS (by simp)) _).wr
    (hword F.SYS_LAT (by simp)) _).wr (hword F.SYS_ABSENT (by simp)) _

theorem headRoutes (h : RoutesOnly s t) (hn : deviceCount t.sys.links ≤ 64) : RoutesOnly s t.headRoutes :=
  (h.ownRoutes hn).forN_lt fun _ _ u => ite (refl u) ((refl u).tellRoutes _)

theorem reportSeam (h : RoutesOnly s t) (n : Nat) (up : Bool) : RoutesOnly s (t.reportSeam n up) := ite (h.sendMsg _ _) h

theorem showSystem (h : RoutesOnly s t) : RoutesOnly s t.showSystem := ite h (h.wr (i := 0) (by decide) _)

theorem switchRoutes (h : RoutesOnly s t) (n : Nat) : RoutesOnly s (t.switchRoutes n) := by
  refine h.forN_lt fun d hd u => ?_
  have hword : ∀ f : Fld, f ∈ [F.SYS_PRI, F.SYS_ALT] → f.at DEV d 0 < 0x1000 := by
    intro f hf
    simp only [List.mem_cons, List.not_mem_nil, or_false] at hf
    unfold Fld.at DEV
    rcases hf with rfl | rfl <;> simp only [F.SYS_PRI, F.SYS_ALT] <;> omega
  exact ite (((refl u).wr (hword F.SYS_PRI (by simp)) _).wr (hword F.SYS_ALT (by simp)) _)
    (ite ((refl u).wr (hword F.SYS_ALT (by simp)) _) (refl u))

theorem rd (h : RoutesOnly s t) {f : Fld} {base : Nat} (hb : 0x1000 ≤ base) : t.rd f base = s.rd f base :=
  h.regs.rd (by unfold Fld.at; omega)

end RoutesOnly

/-- Links that name devices 0 to 63 join no more than 64. -/
theorem deviceCount_le {ls : List Link} (h : ∀ l ∈ ls, l.a < 64 ∧ l.b < 64) : deviceCount ls ≤ 64 := by
  have hgen : ∀ (ls : List Link) (n : Nat), n ≤ 64 → (∀ l ∈ ls, l.a < 64 ∧ l.b < 64) →
      Sys2Proof.forEach (fun (l : Link) n => max n (max l.a l.b + 1)) ls n ≤ 64 := by
    intro ls
    induction ls with
    | nil => exact fun n hn _ => hn
    | cons l ls ih =>
      intro n hn hl
      obtain ⟨ha, hb⟩ := hl l (by simp)
      exact ih _ (by dsimp only; omega) fun m hm => hl m (by simp [hm])
  exact hgen ls 1 (by decide) h

/-- What a seam that has gone DOWN shows. -/
def isDown (s t : State) (n cause : Nat) : Prop :=
  t.rd F.SEAM_LSTATE (SEAM n) = 0 ∧ t.rd F.SEAM_FAIL_CAUSE (SEAM n) = cause
    ∧ t.rd F.SEAM_DOWNS (SEAM n) = min 65535 (s.rd F.SEAM_DOWNS (SEAM n) + 1) ∧ (t.seamAt n).key = false
    ∧ t = { s with regs := t.regs, seams := t.seams, sys := t.sys }
    ∧ ∀ m, m < 6 → m ≠ n → t.rd F.SEAM_LSTATE (SEAM m) = s.rd F.SEAM_LSTATE (SEAM m)

theorem SEAM_ne {n m : Nat} (h : m ≠ n) {f g : Fld} (hf : f.off < 0x400 ∧ f.st1 = 0 ∧ f.st2 = 0) (hg : g.off < 0x400 ∧ g.st1 = 0 ∧ g.st2 = 0) :
    g.at (SEAM m) 0 0 ≠ f.at (SEAM n) 0 0 := by
  obtain ⟨hf, hf1, hf2⟩ := hf
  obtain ⟨hg, hg1, hg2⟩ := hg
  unfold Fld.at SEAM
  rw [hf1, hf2, hg1, hg2]
  omega

/-- The registers and the state of a seam that has gone DOWN, before the routes follow. -/
def State.dropSeam (s : State) (n cause : Nat) : State :=
  (((s.wr F.SEAM_LSTATE (SEAM n) 0).wr F.SEAM_FAIL_CAUSE (SEAM n) cause).bump F.SEAM_DOWNS (SEAM n)).modSeam n
    (fun x => { x with key := false, trigOut := [], msgOut := [], dataOut := [], echo := none, rtts := [], launch := none, downAt := some s.rootNow })

/-- The routes of a device follow the loss of its seam. -/
def State.followLoss (s : State) (n : Nat) : State :=
  let s2 := s.switchRoutes n
  (if s2.rd F.SYS_STATE DEV < 2 then s2 else if s2.isHead then s2.headRoutes else s2.reportSeam n false).showSystem

theorem State.seamDown_eq (s : State) (n cause : Nat) : s.seamDown n cause =
    State.followLoss { s.dropSeam n cause with sys := { s.sys with parentLost := s.sys.parentLost || (s.rd F.SEAM_ROLE (SEAM n) == 1) } } n := rfl

theorem State.followLoss_routes (s : State) (n : Nat) (h : deviceCount s.sys.links ≤ 64) : RoutesOnly s (s.followLoss n) := by
  have hswitch : RoutesOnly s (s.switchRoutes n) := (RoutesOnly.refl s).switchRoutes n
  exact (RoutesOnly.ite hswitch (.ite (hswitch.headRoutes (by rw [hswitch.frame]; exact h)) (hswitch.reportSeam n false))).showSystem

theorem State.dropSeam_rd (s : State) (n cause : Nat) (f : Fld) (m : Nat) : (s.dropSeam n cause).rd f (SEAM m) =
    (((s.wr F.SEAM_LSTATE (SEAM n) 0).wr F.SEAM_FAIL_CAUSE (SEAM n) cause).bump F.SEAM_DOWNS (SEAM n)).rd f (SEAM m) := rfl

theorem SEAM_low (n : Nat) {f : Fld} : 0x1000 ≤ f.at (SEAM n) 0 0 := by unfold Fld.at SEAM; omega

/-- A seam that goes DOWN has its own state dropped; the routes follow. -/
theorem State.seamDown_routes {s : State} (hl : ∀ l ∈ s.sys.links, l.a < 64 ∧ l.b < 64) (n cause : Nat) :
    ∃ x, RoutesOnly { s.dropSeam n cause with sys := x } (s.seamDown n cause) :=
  ⟨_, State.followLoss_routes _ n (deviceCount_le hl)⟩

/-- The registers of a seam once one has gone DOWN. -/
theorem State.seamDown_rd {s : State} (hl : ∀ l ∈ s.sys.links, l.a < 64 ∧ l.b < 64) (n cause : Nat) (f : Fld) (m : Nat) :
    (s.seamDown n cause).rd f (SEAM m)
      = (((s.wr F.SEAM_LSTATE (SEAM n) 0).wr F.SEAM_FAIL_CAUSE (SEAM n) cause).bump F.SEAM_DOWNS (SEAM n)).rd f (SEAM m) := by
  obtain ⟨x, hroutes⟩ := State.seamDown_routes hl n cause
  rw [hroutes.rd (by unfold SEAM; omega)]
  exact s.dropSeam_rd n cause f m

/-- A seam goes DOWN. -/
theorem seamDown_shows {s : State} (hl : ∀ l ∈ s.sys.links, l.a < 64 ∧ l.b < 64) (n : Nat) {cause : Nat} (hc : cause < 16) :
    isDown s (s.seamDown n cause) n cause := by
  obtain ⟨x, hroutes⟩ := State.seamDown_routes hl n cause
  have hrd := State.seamDown_rd hl n cause
  have hword : ∀ {f g : Fld}, f.off < 0x400 ∧ f.st1 = 0 ∧ f.st2 = 0 → g.off < 0x400 ∧ g.st1 = 0 ∧ g.st2 = 0 → g.off ≠ f.off →
      g.at (SEAM n) 0 0 ≠ f.at (SEAM n) 0 0 := fun ⟨_, h1, h2⟩ ⟨_, h3, h4⟩ hne => by unfold Fld.at; rw [h1, h2, h3, h4]; omega
  refine ⟨?_, ?_, ?_, ?_, ?_, fun m _ hne => ?_⟩
  · rw [hrd, State.rd_bump_word _ _ _ _ (hword (by decide) (by decide) (by decide)),
      State.rd_wr_field _ _ _ _ _ _ _ _ _ _ (by decide) (by decide) (by decide) (by decide), State.rd_wr_same _ _ _ _ _ _ (by decide) (by decide)]
    rfl
  · rw [hrd, State.rd_bump_word _ _ _ _ (hword (by decide) (by decide) (by decide)), State.rd_wr_same _ _ _ _ _ _ (by decide) (by decide)]
    exact Nat.mod_eq_of_lt hc
  · rw [hrd, State.rd_bump_same _ _ _ (by decide) (by decide), State.rd_wr_word _ _ _ _ _ _ _ _ _ _ (hword (by decide) (by decide) (by decide)),
      State.rd_wr_word _ _ _ _ _ _ _ _ _ _ (hword (by decide) (by decide) (by decide))]
    rfl
  · rw [hroutes.key]
    exact congrArg SeamSt.key (Tab.get_put_same _ _ _ _)
  · rw [hroutes.frame]
    rfl
  · rw [hrd, State.bump, State.rd_wr_word _ _ _ _ _ _ _ _ _ _ (SEAM_ne hne (by decide) (by decide)),
      State.rd_wr_word _ _ _ _ _ _ _ _ _ _ (SEAM_ne hne (by decide) (by decide)),
      State.rd_wr_word _ _ _ _ _ _ _ _ _ _ (SEAM_ne hne (by decide) (by decide))]

/-- Going DOWN leaves the seam's enable as it was. -/
theorem State.seamDown_rd_en (s : State) (hl : ∀ l ∈ s.sys.links, l.a < 64 ∧ l.b < 64) (n cause : Nat) :
    (s.seamDown n cause).rd F.SEAM_EN (SEAM n) = s.rd F.SEAM_EN (SEAM n) := by
  rw [State.seamDown_rd hl, State.rd_bump_word _ _ _ _ (by simp [Fld.at, F.SEAM_EN, F.SEAM_DOWNS]),
    State.rd_wr_word _ _ _ _ _ _ _ _ _ _ (by simp [Fld.at, F.SEAM_EN, F.SEAM_FAIL_CAUSE]),
    State.rd_wr_word _ _ _ _ _ _ _ _ _ _ (by simp [Fld.at, F.SEAM_EN, F.SEAM_LSTATE])]

/-- A write of the seam's own control word before it goes DOWN changes nothing of what it then shows. -/
theorem isDown.of_wr {s t : State} {n cause : Nat} {f : Fld} {v : Nat} (hf : f.off < 4 ∧ f.st1 = 0 ∧ f.st2 = 0)
    (h : isDown (s.wr f (SEAM n) v) t n cause) : isDown s t n cause := by
  obtain ⟨hstate, hcause, hdowns, hkey, hframe, hothers⟩ := h
  obtain ⟨hoff, hst1, hst2⟩ := hf
  refine ⟨hstate, hcause, hdowns.trans ?_, hkey, hframe, fun m hm hne => (hothers m hm hne).trans ?_⟩
  · rw [State.rd_wr_word _ _ _ _ _ _ _ _ _ _ (by unfold Fld.at; rw [hst1, hst2]; simp only [F.SEAM_DOWNS]; omega)]
  · exact State.rd_wr_word _ _ _ _ _ _ _ _ _ _ (SEAM_ne hne ⟨by omega, hst1, hst2⟩ (by decide))

/-- A seam that comes UP again follows the head's routes. -/
theorem State.seamRejoins_routes (s : State) (n : Nat) (h : deviceCount s.sys.links ≤ 64) : RoutesOnly s (s.seamRejoins n) :=
  .ite (.refl s) (RoutesOnly.ite ((RoutesOnly.refl s).headRoutes h) ((RoutesOnly.refl s).reportSeam n true)).showSystem

/-- What a seam shows that its peer's key has brought UP. -/
theorem keyReceived_shows {s : State} (hl : ∀ l ∈ s.sys.links, l.a < 64 ∧ l.b < 64) (n : Nat) (peer : Device) (ps : Seam) {t : State}
    (ht : t = (((((s.wr F.SEAM_LSTATE (SEAM n) 3).wr F.SEAM_GEN (SEAM n) (s.rd F.SEAM_GEN (SEAM n) + 1)).wr F.SEAM_PEER_DEV (SEAM n) peer.val).wr
        F.SEAM_PEER_SEAM (SEAM n) ps.val).modSeam n (fun x => { x with fctr := 0, key := true })).seamRejoins n) :
    t.rd F.SEAM_LSTATE (SEAM n) = 3 ∧ t.rd F.SEAM_PEER_DEV (SEAM n) = peer.val ∧ t.rd F.SEAM_PEER_SEAM (SEAM n) = ps.val
      ∧ t.rd F.SEAM_GEN (SEAM n) = (s.rd F.SEAM_GEN (SEAM n) + 1) % 2 ^ 29 ∧ (t.seamAt n).fctr = 0 ∧ (t.seamAt n).key = true
      ∧ t = { s with regs := t.regs, seams := t.seams } := by
  obtain ⟨r, hr⟩ : ∃ r : State, r = (((s.wr F.SEAM_LSTATE (SEAM n) 3).wr F.SEAM_GEN (SEAM n) (s.rd F.SEAM_GEN (SEAM n) + 1)).wr F.SEAM_PEER_DEV (SEAM n)
      peer.val).wr F.SEAM_PEER_SEAM (SEAM n) ps.val := ⟨_, rfl⟩
  rw [← hr] at ht
  obtain ⟨u, hu⟩ : ∃ u : State, u = r.modSeam n (fun x => { x with fctr := 0, key := true }) := ⟨_, rfl⟩
  rw [← hu] at ht
  have hroutes : RoutesOnly u t := ht ▸ u.seamRejoins_routes n (deviceCount_le (by rw [hu, hr]; exact hl))
  have hrd : ∀ f : Fld, t.rd f (SEAM n) = r.rd f (SEAM n) := fun f => by
    rw [hroutes.rd (by unfold SEAM; omega), hu]
    rfl
  have hat : u.seamAt n = { r.seamAt n with fctr := 0, key := true } := by rw [hu]; exact Tab.get_put_same _ _ _ _
  have hpeer := peer.isLt
  have hps := ps.isLt
  have hword : ∀ {f g : Fld}, f.st1 = 0 ∧ f.st2 = 0 → g.st1 = 0 ∧ g.st2 = 0 → g.off ≠ f.off →
      g.at (SEAM n) 0 0 ≠ f.at (SEAM n) 0 0 := fun ⟨h1, h2⟩ ⟨h3, h4⟩ hne => by unfold Fld.at; rw [h1, h2, h3, h4]; omega
  refine ⟨?_, ?_, ?_, ?_, ?_, ?_, ?_⟩
  · rw [hrd, hr, State.rd_wr_field _ _ _ _ _ _ _ _ _ _ (by decide) (by decide) (by decide) (by decide),
      State.rd_wr_field _ _ _ _ _ _ _ _ _ _ (by decide) (by decide) (by decide) (by decide),
      State.rd_wr_word _ _ _ _ _ _ _ _ _ _ (hword (by decide) (by decide) (by decide)), State.rd_wr_same _ _ _ _ _ _ (by decide) (by decide)]
    rfl
  · rw [hrd, hr, State.rd_wr_field _ _ _ _ _ _ _ _ _ _ (by decide) (by decide) (by decide) (by decide),
      State.rd_wr_same _ _ _ _ _ _ (by decide) (by decide)]
    exact Nat.mod_eq_of_lt hpeer
  · rw [hrd, hr, State.rd_wr_same _ _ _ _ _ _ (by decide) (by decide)]
    exact Nat.mod_eq_of_lt (by change ps.val < 8; omega)
  · rw [hrd, hr, State.rd_wr_word _ _ _ _ _ _ _ _ _ _ (hword (by decide) (by decide) (by decide)),
      State.rd_wr_word _ _ _ _ _ _ _ _ _ _ (hword (by decide) (by decide) (by decide)), State.rd_wr_same _ _ _ _ _ _ (by decide) (by decide)]
    rfl
  · rw [hroutes.fctr, hat]
  · rw [hroutes.key, hat]
  · rw [hroutes.frame, hu, hr]
    rfl

/-- A write of the link's state is all that a seam in training or awaiting its key shows. -/
theorem linkState_written (s : State) (n : Nat) {v : Nat} (hv : v < 8) :
    (s.wr F.SEAM_LSTATE (SEAM n) v).rd F.SEAM_LSTATE (SEAM n) = v ∧ OnlyRegs [SEAM n + 4] s (s.wr F.SEAM_LSTATE (SEAM n) v) :=
  ⟨(State.rd_wr_same _ _ _ _ _ _ (by decide) (by decide)).trans (Nat.mod_eq_of_lt hv), (OnlyRegs.refl _ s).wr (by simp [Fld.at, F.SEAM_LSTATE]) _⟩

/-- Settles O46: a seam that goes DOWN has its words written and its key erased; the routes that follow write words of the device's own block. -/
theorem seamLinkStates : Obligations.SeamLinkStates := by
  unfold Obligations.SeamLinkStates
  intro n s hup hlinks b state down
  have hdown : ∀ cause, cause < 16 → down (s.seamDown n.val cause) cause := fun cause hc => seamDown_shows hlinks n.val hc
  have hen : ∀ {v : W32} {e : Bool}, bitAt v.toNat 0 = e → (s.wr F.SEAM_EN b (bit (bitAt v.toNat 0))).rd F.SEAM_EN b = bit e := by
    rintro v e rfl
    rw [State.rd_wr_same _ _ _ _ _ _ (by decide) (by decide)]
    cases bitAt v.toNat 0 <;> rfl
  have hlive : state = 1 ∨ state = 2 ∨ state = 3 → s.seamLive n.val = true := fun h => by
    unfold State.seamLive
    rcases h with h | h | h <;> rw [show s.rd F.SEAM_LSTATE (SEAM n.val) = _ from h] <;> rfl
  refine ⟨fun hst hon hlock hclk hrest => ?_, fun hst hon hclk hv hvh => ?_, fun peer ps hst hkey hclk => ⟨?_, ?_⟩, fun hst => ⟨?_, ?_⟩,
    fun hst => ?_, fun hst => ?_, fun v hv hst => ?_, fun v hv => ?_⟩
  · have hrested : (match (s.seamAt n.val).downAt with | none => true | some t => decide (t + 10 * cyclesPerMs < s.time.run + s.period)) = true := by
      cases hd : (s.seamAt n.val).downAt with
      | none => rfl
      | some w => exact decide_eq_true (hrest w hd)
    have henabled : s.flag F.SEAM_EN (SEAM n.val) = true := State.flag_of_eq_one hon
    refine ⟨_, act_next ?_, linkState_written s n.val (by decide)⟩
    simp only [show s.rd F.SEAM_LSTATE (SEAM n.val) = 0 from hst, henabled, hlock, hclk, hup, Bool.not_false, Bool.and_true, beq_self_eq_true, Bool.true_and]
    exact hrested
  · have henabled : s.flag F.SEAM_EN (SEAM n.val) = true := State.flag_of_eq_one hon
    exact ⟨_, act_next (by simp [hup, show s.rd F.SEAM_LSTATE (SEAM n.val) = 1 from hst, henabled, hclk, hv, hvh]), linkState_written s n.val (by decide)⟩
  · exact ⟨_, act_next (by simp [hup, show s.rd F.SEAM_LSTATE (SEAM n.val) = 2 from hst, hkey, hclk]), keyReceived_shows hlinks n.val peer ps rfl⟩
  · exact ⟨_, act_next (by simp [hup, show s.rd F.SEAM_LSTATE (SEAM n.val) = 2 from hst, hkey, hclk]), hdown 3 (by decide)⟩
  · exact ⟨_, act_next (by simp [hup, hlive hst]), hdown 1 (by decide)⟩
  · exact ⟨_, act_next (by simp [hup, hlive hst]), hdown 4 (by decide)⟩
  · exact ⟨_, act_next (by simp [hup, State.seamUp, show s.rd F.SEAM_LSTATE (SEAM n.val) = 3 from hst]), hdown 2 (by decide)⟩
  · exact ⟨_, act_next (by simp [hup, show s.rd F.SEAM_LSTATE (SEAM n.val) ≠ 0 from hst]), hdown 6 (by decide)⟩
  · have hoff : bitAt v.toNat 0 = false := by simp [bitAt, hv]
    have hwrites : s.writeSeamCtl n.val v (15 : BitVec 4).toNat = (s.wr F.SEAM_EN b (bit (bitAt v.toNat 0))).seamDown n.val 6 :=
      (if_pos rfl).trans (if_pos (by rw [hoff]; exact decide_eq_true hst))
    have hshows := seamDown_shows (s := s.wr F.SEAM_EN b (bit (bitAt v.toNat 0))) hlinks n.val (show 6 < 16 by decide)
    have hroutes := State.seamDown_rd_en (s.wr F.SEAM_EN b (bit (bitAt v.toNat 0))) hlinks n.val 6
    exact ⟨_, act_next (by simp [hup]), by rw [hwrites]; exact hroutes.trans (hen hoff), by rw [hwrites]; exact hshows.of_wr (by decide)⟩
  · have hon : bitAt v.toNat 0 = true := by simp only [bitAt]; rw [show v.toNat / 2 ^ 0 % 2 = 1 by omega]; rfl
    have hrun : bitAt v.toNat 1 = false := by simp only [bitAt]; rw [show v.toNat / 2 ^ 1 % 2 = 0 by omega]; rfl
    have hwrites : s.writeSeamCtl n.val v (15 : BitVec 4).toNat = s.wr F.SEAM_EN b (bit (bitAt v.toNat 0)) :=
      (if_pos rfl).trans (if_neg (by rw [hon, hrun]; simp))
    refine ⟨_, act_next (by simp [hup]), ?_, ?_⟩ <;> rw [hwrites]
    · exact hen hon
    · exact (OnlyRegs.refl _ s).wr (by simp [Fld.at, F.SEAM_EN, b]) _

end Sys2Proof.Machine

/-! What a full reset leaves (R455, R519, R521): the words that survive it, and everything else as at power-up. -/

namespace Sys2Proof.Machine

/-- The offsets whose words survive a full reset: housekeeping, the jack and the start status. -/
def survives (a : Nat) : Bool :=
  (decide (HK ≤ a) && decide (a < HOST)) || (decide (JACK ≤ a) && decide (a < JACK + 0x1000)) || (decide (DEV + 0xC00 ≤ a) && decide (a ≤ DEV + 0xC08))

/-- Everything but the registers as a full reset of `s` leaves it. -/
structure ColdFrom (s t : State) : Prop where
  locked : t.clk.locked = false
  stitch : t.stitch = 0
  banks : t.banks = []
  bolts : t.bolts = []
  procs : t.procs = []
  cmds : t.host.cmds = []
  evq : t.evq = []
  stack : t.stack = State.reset.stack
  released : t.cfg.released = false
  settings : t.cfg.settings = s.cfg.settings
  jackImgs : t.cfg.jackImgs = s.cfg.jackImgs
  hostMem : t.hostMem = s.hostMem

/-- What a start that begins again shows besides. -/
structure AfreshFrom (s t : State) : Prop extends ColdFrom s t where
  lcs : t.cfg.fuses.lcs = s.cfg.fuses.next
  stop : t.hk.stop = 0
  heldReset : t.hk.heldReset = none
  resetLow : t.start.resetLow = false
  jackSt : t.start.jackSt = s.start.jackSt
  rootNow : t.rootNow = s.rootNow
  vhk : t.start.vhk = s.start.vhk

theorem AfreshFrom.wr {s t : State} (h : AfreshFrom s t) (f : Fld) (base v i j : Nat) : AfreshFrom s (t.wr f base v i j) := by
  obtain ⟨⟨h1, h2, h3, h4, h5, h6, h7, h8, h9, h10, h11, h12⟩, h13, h14, h15, h16, h17, h18, h19⟩ := h
  exact ⟨⟨h1, h2, h3, h4, h5, h6, h7, h8, h9, h10, h11, h12⟩, h13, h14, h15, h16, h17, h18, h19⟩

theorem State.showSlots_frame (s : State) : s.showSlots = { s with regs := s.showSlots.regs } :=
  forN_frame s 8 fun k t => by split <;> rfl

/-- A key burn that is cut off is all that power loss changes before it takes the rest. -/
theorem State.cutBurn_frame (s : State) : s.cutBurn = { s with fresh := s.cutBurn.fresh, cfg := s.cutBurn.cfg } := by
  unfold State.cutBurn
  split <;> rfl

theorem State.cutBurn_keepsCfg (s : State) :
    s.cutBurn.cfg.settings = s.cfg.settings ∧ s.cutBurn.cfg.jackImgs = s.cfg.jackImgs ∧ s.cutBurn.cfg.fuses.next = s.cfg.fuses.next := by
  unfold State.cutBurn
  split <;> exact ⟨rfl, rfl, rfl⟩

theorem State.coldStart_afresh (s : State) : AfreshFrom s s.coldStart := by
  unfold State.coldStart
  obtain ⟨hset, himgs, hnext⟩ := s.cutBurn_keepsCfg
  rw [s.cutBurn_frame] at hset himgs hnext ⊢
  generalize s.cutBurn.fresh = x at *
  generalize s.cutBurn.cfg = c at *
  dsimp only at hset himgs hnext ⊢
  rw [State.showSlots_frame]
  generalize State.regs (State.showSlots _) = r
  exact ⟨⟨rfl, rfl, rfl, rfl, rfl, rfl, rfl, rfl, rfl, hset, himgs, rfl⟩, hnext, rfl, rfl, rfl, rfl, rfl, rfl⟩

theorem State.loadFuses_regs {P : Nat → Prop} (hP : ∀ a, P a → a < SEC ∨ SEC + 0x400 ≤ a) (s : State) : SameRegs P s s.loadFuses := by
  have hsec : ∀ o, o < 0x400 → ¬ P (SEC + o) := fun o ho h => by have := hP _ h; omega
  unfold State.loadFuses
  dsimp only
  refine SameRegs.wr (SameRegs.wr (SameRegs.wr (SameRegs.wr (SameRegs.wr ((SameRegs.refl P s).of_regs rfl) ?_ _) ?_ _) ?_ _) ?_ _) ?_ _ <;>
    exact hsec _ (by decide)

theorem State.loadSubsys_regs (s : State) : s.loadSubsys.regs = s.regs := rfl

/-- What the fuses, the slots and the settings then show lies in SEC and CFG. -/
theorem State.loadStored_regs {P : Nat → Prop} (hP : ∀ a, P a → a < CFG ∨ SEC + 0x400 ≤ a) (s : State) :
    SameRegs P s s.loadFuses.showSlots.loadSubsys := by
  have hfuses : SameRegs P s s.loadFuses := State.loadFuses_regs (fun a ha => (hP a ha).imp_left fun h => h.trans (by decide)) s
  have hcfg : ∀ k, k < 8 → ¬ P (CFG + 0x40 + 4 * k) := fun k hk h => by
    have := hP _ h
    simp only [SEC, CFG] at this
    omega
  exact (hfuses.trans (State.showSlots_regs hcfg _)).of_regs (State.loadSubsys_regs _)

theorem survives_outside {a : Nat} (h : survives a = true) : a < CFG ∨ SEC + 0x400 ≤ a := by
  unfold survives HK HOST JACK DEV at h
  unfold SEC CFG
  grind

/-- The words that survive a full reset are as they were. -/
theorem State.coldStart_regs (s : State) : SameRegs (survives · = true) s s.coldStart := by
  have hnot : ∀ a, survives a = false → ¬ survives a = true := fun a ha h => by rw [h] at ha; cases ha
  have hkept : ∀ u : State, u.regs = s.regs.filter (fun e => survives e.1) → SameRegs (survives · = true) s u :=
    fun u hu a ha => (congrArg (fun r => Tab.get resetWord r a) hu).trans (Tab.get_filter resetWord s.regs (fun e => survives e.1) a (fun _ => ha))
  have hcut : s.cutBurn.regs = s.regs := s.cutBurn_regs
  unfold State.coldStart
  refine SameRegs.trans ?_ (State.loadStored_regs (fun _ => survives_outside) _)
  refine SameRegs.wr (SameRegs.wr (SameRegs.wr (hkept _ ?_) (hnot _ (by decide)) _) (hnot _ (by decide)) _) (hnot _ (by decide)) _
  rw [← hcut]
  rfl

/-- The judgement of REFCLK survives a full reset. -/
theorem State.coldStart_stable (s : State) : s.coldStart.rd F.CLK_STABLE CLK = s.rd F.CLK_STABLE CLK := by
  have hcut : s.cutBurn.rd F.CLK_STABLE CLK = s.rd F.CLK_STABLE CLK := congrArg (fun r => bitsOf 3 3 (Tab.get resetWord r 0x1000)) s.cutBurn_regs
  unfold State.coldStart
  refine ((State.loadStored_regs (P := (· = 0x1000)) (fun a ha => by subst ha; decide) _).rd rfl).trans ?_
  rw [State.rd_wr_word _ _ _ _ _ _ _ _ _ _ (by decide), State.rd_wr_same _ _ _ _ _ _ (by decide) (by decide), hcut]
  exact Nat.mod_eq_of_lt (State.rd_lt _ _ _ _ _)

/-- What a start shows that enters at step 4. -/
structure RestartFrom (s t : State) (cause : Nat) : Prop extends AfreshFrom s t where
  lastStart : t.rd F.ST_LAST_START DEV = cause
  starts : t.rd F.ST_STARTS DEV = (s.rd F.ST_STARTS DEV + 1) % 65536
  phase : t.rd F.ST_PHASE DEV = if s.rd F.CLK_STABLE CLK = 1 then 4 else 3

theorem State.startAgain_shows (s : State) {cause : Nat} (hc : cause < 8) : RestartFrom s (s.startAgain cause) cause := by
  have hstarts : s.coldStart.rd F.ST_STARTS DEV = s.rd F.ST_STARTS DEV := s.coldStart_regs.rd (by decide)
  have hafresh := s.coldStart_afresh
  have hstable := s.coldStart_stable
  unfold State.startAgain State.incr
  generalize s.coldStart = u at *
  obtain ⟨v, hv⟩ : ∃ v : State, v = ((u.wr F.ST_STARTS DEV (u.rd F.ST_STARTS DEV + 1)).wr F.ST_LAST_START DEV cause).wr F.ST_INTOSC_START DEV 0 := ⟨_, rfl⟩
  have hflag : v.flag F.CLK_STABLE CLK = (s.rd F.CLK_STABLE CLK == 1) := by
    rw [State.flag, hv, State.rd_wr_word _ _ _ _ _ _ _ _ _ _ (by decide), State.rd_wr_word _ _ _ _ _ _ _ _ _ _ (by decide),
      State.rd_wr_word _ _ _ _ _ _ _ _ _ _ (by decide), hstable]
  dsimp only
  rw [← hv, hflag]
  refine ⟨hv ▸ (((hafresh.wr _ _ _ _ _).wr _ _ _ _ _).wr _ _ _ _ _).wr _ _ _ _ _, ?_, ?_, ?_⟩
  · rw [State.rd_wr_field _ _ _ _ _ _ _ _ _ _ (by decide) (by decide) (by decide) (by decide), hv,
      State.rd_wr_field _ _ _ _ _ _ _ _ _ _ (by decide) (by decide) (by decide) (by decide), State.rd_wr_same _ _ _ _ _ _ (by decide) (by decide)]
    exact Nat.mod_eq_of_lt hc
  · rw [State.rd_wr_word _ _ _ _ _ _ _ _ _ _ (by decide), hv, State.rd_wr_word _ _ _ _ _ _ _ _ _ _ (by decide),
      State.rd_wr_word _ _ _ _ _ _ _ _ _ _ (by decide), State.rd_wr_same _ _ _ _ _ _ (by decide) (by decide), hstarts]
    rfl
  · rw [State.rd_wr_same _ _ _ _ _ _ (by decide) (by decide)]
    by_cases h : s.rd F.CLK_STABLE CLK = 1 <;> simp [h, F.ST_PHASE]

/-- A write of HK's latch changes nothing of what a new start shows. -/
theorem RestartFrom.latch {s t : State} {cause : Nat} (h : RestartFrom s t cause) : RestartFrom s (t.wr F.HK_LATCHED HK 0) cause :=
  ⟨h.toAfreshFrom.wr _ _ _ _ _, (State.rd_wr_word _ _ _ _ _ _ _ _ _ _ (by decide)).trans h.lastStart,
    (State.rd_wr_word _ _ _ _ _ _ _ _ _ _ (by decide)).trans h.starts, (State.rd_wr_word _ _ _ _ _ _ _ _ _ _ (by decide)).trans h.phase⟩

/-- A full reset while no stop is in force starts the device again. -/
theorem State.fullReset_shows {s : State} (h : s.hk.stop = 0) {cause : Nat} (hc : cause < 8) : RestartFrom s (s.fullReset cause) cause := by
  rw [State.fullReset, if_neg (by simp [h])]
  exact (s.startAgain_shows hc).latch

theorem State.fullReset_held {s : State} (h : s.hk.stop ≠ 0) (cause : Nat) :
    s.fullReset cause = { s with hk := { s.hk with heldReset := some cause } } := if_pos h

end Sys2Proof.Machine

/-! Requests for layer logic resets, and their end (R525 to R530). -/

namespace Sys2Proof.Machine

theorem bitAt_lor (a b i : Nat) : bitAt (a ||| b) i = (bitAt a i || bitAt b i) := by
  simp only [bitAt_eq_testBit, Nat.testBit_or]

theorem bitAt_mod {a n i : Nat} (h : i < n) : bitAt (a % 2 ^ n) i = bitAt a i := by
  simp only [bitAt_eq_testBit, Nat.testBit_mod_two_pow, h, decide_true, Bool.true_and]

/-- The number whose bits below `n` are `p`. -/
theorem bitAt_sumBits (p : Nat → Bool) (n : Nat) :
    let x := (List.range n).foldl (fun x k => if p k then x + 2 ^ k else x) 0
    x < 2 ^ n ∧ ∀ i, bitAt x i = (decide (i < n) && p i) := by
  induction n with
  | zero => exact ⟨Nat.one_pos, fun i => by simp [bitAt]⟩
  | succ n ih =>
    simp only [List.range_succ, List.foldl_append, List.foldl_cons, List.foldl_nil]
    generalize List.foldl _ 0 (List.range n) = x at *
    obtain ⟨hlt, hbits⟩ := ih
    simp only [bitAt_eq_testBit] at hbits ⊢
    by_cases hp : p n = true
    · rw [if_pos hp, Nat.add_comm]
      refine ⟨by rw [Nat.pow_succ]; omega, fun i => ?_⟩
      rcases Nat.lt_trichotomy i n with h | h | h
      · rw [Nat.testBit_two_pow_add_gt h, hbits]
        simp [h, Nat.lt_succ_of_lt h]
      · rw [h, Nat.testBit_two_pow_add_eq, Nat.testBit_lt_two_pow hlt]
        simp [hp]
      · rw [Nat.testBit_lt_two_pow ((show 2 ^ n + x < 2 ^ (n + 1) by rw [Nat.pow_succ]; omega).trans_le (Nat.pow_le_pow_right (by decide) h))]
        simp [show ¬ i < n + 1 by omega]
    · rw [if_neg hp]
      refine ⟨hlt.trans (Nat.pow_lt_pow_right (by decide) (by omega)), fun i => ?_⟩
      rw [hbits]
      rcases Nat.lt_trichotomy i n with h | h | h
      · simp [h, Nat.lt_succ_of_lt h]
      · simp [h, hp]
      · simp [show ¬ i < n + 1 by omega, show ¬ i < n by omega]

/-- Setting the bits that a list names. -/
theorem bitAt_foldl_lor (l : List Nat) (x i : Nat) : bitAt (l.foldl (fun x k => x ||| 2 ^ k) x) i = (bitAt x i || decide (i ∈ l)) := by
  induction l generalizing x with
  | nil => simp
  | cons k l ih =>
    rw [List.foldl_cons, ih, bitAt_lor, Bool.or_assoc]
    congr 1
    simp only [bitAt_eq_testBit, Nat.testBit_two_pow, List.mem_cons, Bool.decide_or, eq_comm]

end Sys2Proof.Machine

namespace Sys2Proof.Machine

/-- A patch's fabric once the patch has been released in the stitch `now`. -/
def FabSt.releasedAt (x : FabSt) (now : W64) : FabSt :=
  { x with released := true, rxUnit := [], aSt := initState x.aCfg, edge := 3
           lines := x.lines.map (fun b => if b.off then { b with off := false, locked := false, reen := some now } else b) }

/-- The release of a patch changes its own fabric and words of its own block. -/
theorem State.releasePatch_shows (s : State) (k : Nat) :
    s.releasePatch k = { s with regs := (s.releasePatch k).regs, fabs := (s.releasePatch k).fabs }
      ∧ ∀ j, (s.releasePatch k).fabAt j =
          if j = k ∧ (s.fabAt k).active.isSome ∧ k ∉ s.res.testing then (s.fabAt k).releasedAt s.stitch else s.fabAt j := by
  unfold State.releasePatch
  by_cases h : (s.fabAt k).active.isSome = true ∧ k ∉ s.res.testing
  · rw [if_pos h]
    refine ⟨rfl, fun j => ?_⟩
    unfold State.clearLines State.showLines
    simp only [State.fabAt_wr, State.fabAt_setFab, if_true]
    by_cases hj : j = k
    · rw [if_pos hj, if_pos ⟨hj, h⟩]
      rfl
    · rw [if_neg hj, if_neg hj, if_neg fun hk => hj hk.1]
  · rw [if_neg h]
    exact ⟨rfl, fun j => (if_neg fun hj => h hj.2).symm⟩

/-- The release of the patches, one by one. -/
theorem State.releaseFabs_shows (s : State) :
    s.releaseFabs true = { s with regs := (s.releaseFabs true).regs, fabs := (s.releaseFabs true).fabs }
      ∧ ∀ k, k < 16 → (s.fabAt k).active ≠ none → k ∉ s.res.testing → (s.releaseFabs true).fabAt k = (s.fabAt k).releasedAt s.stitch := by
  have hgen : ∀ n, let t := forN (fun k (t : State) => if true = true then t.releasePatch k else t.holdPatch k) n s
      t = { s with regs := t.regs, fabs := t.fabs } ∧ ∀ k, t.fabAt k =
        if k < n ∧ (s.fabAt k).active.isSome ∧ k ∉ s.res.testing then (s.fabAt k).releasedAt s.stitch else s.fabAt k := by
    intro n
    induction n with
    | zero => exact ⟨rfl, fun k => (if_neg (by simp)).symm⟩
    | succ n ih =>
      obtain ⟨hframe, hfabs⟩ := ih
      simp only [forN, if_true] at hframe hfabs ⊢
      generalize forN _ n s = u at *
      obtain ⟨hframe', hfabs'⟩ := u.releasePatch_shows n
      have hres : u.res = s.res := hframe ▸ rfl
      have hstitch : u.stitch = s.stitch := hframe ▸ rfl
      have hn : u.fabAt n = s.fabAt n := (hfabs n).trans (if_neg fun h => Nat.lt_irrefl n h.1)
      refine ⟨?_, fun k => ?_⟩
      · rw [hframe']
        generalize (u.releasePatch n).regs = x
        generalize (u.releasePatch n).fabs = y
        rw [hframe]
      · rw [hfabs', hn, hres, hstitch]
        rcases Nat.lt_trichotomy k n with h | h | h
        · rw [if_neg fun hk => Nat.ne_of_lt h hk.1, hfabs]
          simp only [h, Nat.lt_succ_of_lt h, true_and]
        · subst h
          simp only [true_and, Nat.lt_succ_self, hn]
        · rw [if_neg fun hk => Nat.ne_of_gt h hk.1, hfabs, if_neg fun hk => Nat.lt_asymm h hk.1, if_neg fun hk => by omega]
  obtain ⟨hframe, hfabs⟩ := hgen 16
  exact ⟨hframe, fun k hk hact htest => (hfabs k).trans (if_pos ⟨hk, Option.isSome_iff_ne_none.2 hact, htest⟩)⟩

end Sys2Proof.Machine

namespace Sys2Proof.Machine

/-- What a request for layer resets leaves asked for. -/
theorem State.requestLayers_asks {s : State} (hrel : s.cfg.released = true) (hup : s.halted = false) (layers : Nat) :
    let t := s.requestLayers layers
    t = { s with start := t.start }
      ∧ (bitAt layers 1 = true ∨ bitAt layers 3 = true → t.start.lrReq = s.start.lrReq
          ∧ ∀ i, i < 8 → bitAt t.start.lrHeld i = (bitAt layers i || bitAt s.start.lrHeld i))
      ∧ (bitAt layers 1 = false → bitAt layers 3 = false → t.start.lrHeld = s.start.lrHeld
          ∧ ∀ i, i < 8 → bitAt t.start.lrReq i = (bitAt layers i || bitAt s.start.lrReq i))
      ∧ t.start = { s.start with lrReq := t.start.lrReq, lrHeld := t.start.lrHeld } := by
  have hasks : s.requestLayers layers = { s with start := if bitAt layers 1 || bitAt layers 3 then { s.start with lrHeld := s.start.lrHeld ||| layers }
                      else { s.start with lrReq := s.start.lrReq ||| layers } } := if_pos ⟨hrel, by simp [hup]⟩
  rw [hasks]
  dsimp only
  by_cases h : (bitAt layers 1 || bitAt layers 3) = true
  · rw [if_pos h]
    refine ⟨rfl, fun _ => ⟨rfl, fun i _ => ?_⟩, fun h1 h3 => by simp [h1, h3] at h, rfl⟩
    rw [bitAt_lor, Bool.or_comm]
  · rw [if_neg h]
    have hno : ¬ (bitAt layers 1 = true ∨ bitAt layers 3 = true) := by simpa using h
    refine ⟨rfl, fun h1 => absurd h1 hno, fun _ _ => ⟨rfl, fun i _ => ?_⟩, rfl⟩
    rw [bitAt_lor, Bool.or_comm]

/-- The DONE bits that a write of LRESET leaves. -/
def State.doneAfter (s : State) (clear : Nat) : Nat :=
  (List.range 8).foldl (fun n k => if bitAt (s.rd F.LR_DONE DEV) k && !bitAt clear k then n + 2 ^ k else n) 0

theorem State.writeLreset_eq (s : State) (v : W32) (be : Nat) : s.writeLreset v be =
    let s1 := if bitAt be 0 then s.requestLayers (v.toNat % 256) else s
    let s2 := s1.wr F.LR_DONE DEV (s1.doneAfter (if bitAt be 2 then v.toNat / 65536 % 256 else 0))
    if bitAt be 3 ∧ bitAt v.toNat 24 ∧ s2.isHead then s2.raiseReset else s2 := rfl

theorem bitAt_clears (v be : Nat) {i : Nat} (hi : i < 8) :
    bitAt (if bitAt be 2 then v / 65536 % 256 else 0) i = (bitAt be 2 && bitAt v (16 + i)) := by
  cases bitAt be 2 with
  | false => simp [bitAt]
  | true =>
    rw [if_pos rfl, Bool.true_and, show (256 : Nat) = 2 ^ 8 from rfl, bitAt_mod hi]
    simp only [bitAt, show (65536 : Nat) = 2 ^ 16 from rfl, Nat.div_div_eq_div_mul, ← Nat.pow_add]

/-- LR_DONE shows the bits that are written. -/
theorem State.done_wr (s : State) (n : Nat) {i : Nat} (hi : i < 8) : bitAt ((s.wr F.LR_DONE DEV n).rd F.LR_DONE DEV) i = bitAt n i := by
  rw [State.rd_wr_same _ _ _ _ _ _ (by decide) (by decide)]
  exact bitAt_mod hi

end Sys2Proof.Machine

namespace Sys2Proof.Machine

/-- The copies of the key that the key store loads. -/
theorem State.loadCopies_copy {s : State} (hkey : s.rd F.KEY_STATE SEC = 1) {l : List Nat} {i : Nat} (hi : i ∈ l) :
    (s.loadCopies l).keyCopy i = s.stack.keyStore := by
  have hput : ∀ (l : List Nat) (t : Tab (BitVec 256)), (i ∈ l ∨ Tab.get (fun _ => 0) t i = s.stack.keyStore) →
      Tab.get (fun _ => 0) (Sys2Proof.forEach (fun i t => Tab.put t i s.stack.keyStore) l t) i = s.stack.keyStore := by
    intro l
    induction l with
    | nil => exact fun t h => h.resolve_left (by simp)
    | cons k l ih =>
      refine fun t h => ih _ ?_
      rw [Tab.get_put]
      by_cases hk : i = k
      · exact Or.inr (if_pos hk)
      · rw [if_neg hk]
        exact h.imp_left fun h => (List.mem_cons.1 h).resolve_left hk
  rw [State.loadCopies, if_pos hkey]
  exact hput l _ (Or.inl hi)

theorem State.loadCopies_frame (s : State) (l : List Nat) :
    s.loadCopies l = { s with regs := (s.loadCopies l).regs, stack := (s.loadCopies l).stack } := by
  unfold State.loadCopies
  split <;> rfl

/-- The parts of LAYER_RESET_END in order. -/
def State.layersOver (s : State) : State :=
  let s1 : State := { s with start := { s.start with lrOn := s.start.lrOn.filter (fun e => e.2 != 0) } }
  let s2 := if 3 ∈ s.resetOver then s1.loadCopies keysL3 else s1
  if s.patchReset ∧ ¬ s1.patchReset then s2.releaseFabs true else s2

theorem mem_resetOver (s : State) (i : Nat) : i ∈ s.resetOver ↔ s.start.lrOn.any (fun e => e.1 == i && e.2 == 0) = true := by
  unfold State.resetOver
  simp only [List.mem_map, List.mem_filter, List.any_eq_true, Bool.and_eq_true, beq_iff_eq]
  constructor
  · rintro ⟨e, ⟨he, h0⟩, rfl⟩
    exact ⟨e, he, rfl, h0⟩
  · rintro ⟨e, he, h1, h0⟩
    exact ⟨e, ⟨he, h0⟩, h1⟩

/-- What the end of layer logic resets leaves, but for the DONE bits. -/
theorem State.layersOver_shows (s : State) :
    let t := s.layersOver
    let ended := fun i => s.start.lrOn.any (fun e => e.1 == i && e.2 == 0) = true
    let left := s.start.lrOn.filter (fun e => e.2 != 0)
    t.start = { s.start with lrOn := left }
      ∧ (ended 3 → s.rd F.KEY_STATE SEC = 1 → ∀ i, 6 ≤ i → i < 22 → t.keyCopy i = s.stack.keyStore)
      ∧ (¬ ended 3 → t.stack = s.stack)
      ∧ (ended 1 ∨ ended 3 → left.all (fun e => e.1 != 1 && e.1 != 3) = true → ∀ k, k < 16 → (s.fabAt k).active ≠ none → k ∉ s.res.testing →
          (t.fabAt k).released = true ∧ (t.fabAt k).aSt = initState (s.fabAt k).aCfg)
      ∧ (left.any (fun e => e.1 == 1 || e.1 == 3) = true → t.fabs = s.fabs) ∧ (¬ ended 1 → ¬ ended 3 → t.fabs = s.fabs) := by
  intro t ended left
  obtain ⟨s1, hs1⟩ : ∃ s1 : State, s1 = { s with start := { s.start with lrOn := left } } := ⟨_, rfl⟩
  obtain ⟨s2, hs2⟩ : ∃ s2 : State, s2 = if 3 ∈ s.resetOver then s1.loadCopies keysL3 else s1 := ⟨_, rfl⟩
  have ht : t = if s.patchReset ∧ ¬ s1.patchReset then s2.releaseFabs true else s2 := by rw [hs2, hs1]; rfl
  have hleft : s1.patchReset = left.any (fun e => e.1 == 1 || e.1 == 3) := by rw [hs1]; rfl
  have hframe2 : s2 = { s1 with regs := s2.regs, stack := s2.stack } := by
    rw [hs2]
    split
    · exact s1.loadCopies_frame keysL3
    · rfl
  obtain ⟨hframe3, hfabs3⟩ := s2.releaseFabs_shows
  have hfabs2 : s2.fabs = s.fabs := by rw [hframe2, hs1]
  have hstart2 : s2.start = { s.start with lrOn := left } := by rw [hframe2, hs1]
  have hstart : t.start = s2.start := by rw [ht]; split; exacts [by rw [hframe3], rfl]
  have hstack : t.stack = s2.stack := by rw [ht]; split; exacts [by rw [hframe3], rfl]
  have hwas : s.patchReset = true → s1.patchReset = false → ended 1 ∨ ended 3 := by
    rw [hleft]
    unfold State.patchReset
    simp only [left, ended, List.any_eq_true, List.any_eq_false, List.mem_filter, Bool.and_eq_true, Bool.or_eq_true, beq_iff_eq, bne_iff_ne]
    rintro ⟨e, he, hlayer⟩ hnone
    have hover : e.2 = 0 := by_contra fun h => hnone e ⟨he, h⟩ hlayer
    exact hlayer.imp (fun h => ⟨e, he, h, hover⟩) (fun h => ⟨e, he, h, hover⟩)
  have hreset : ended 1 ∨ ended 3 → s.patchReset = true := by
    unfold State.patchReset
    simp only [ended, List.any_eq_true, Bool.and_eq_true, Bool.or_eq_true, beq_iff_eq]
    rintro (⟨e, he, hlayer, -⟩ | ⟨e, he, hlayer, -⟩)
    · exact ⟨e, he, Or.inl hlayer⟩
    · exact ⟨e, he, Or.inr hlayer⟩
  refine ⟨hstart.trans hstart2, fun h3 hkey i hlo hhi => ?_, fun h3 => ?_, fun hend hall k hk hact htest => ?_, fun hany => ?_, fun h1 h3 => ?_⟩
  · have hmem : i ∈ keysL3 := List.mem_map.2 ⟨i - 6, List.mem_range.2 (by omega), by omega⟩
    have hcopy : s2.keyCopy i = s1.stack.keyStore := by
      rw [hs2, if_pos ((mem_resetOver s 3).2 h3)]
      exact State.loadCopies_copy (by rw [hs1]; exact hkey) hmem
    unfold State.keyCopy at hcopy ⊢
    rw [hstack, hcopy, hs1]
  · rw [hstack, hs2, if_neg (by rwa [mem_resetOver]), hs1]
  · have hover : s1.patchReset = false := by
      rw [hleft, List.any_eq_false]
      intro e he
      have := List.all_eq_true.1 hall e he
      simpa [not_or] using this
    have hfab : s2.fabAt k = s.fabAt k := by unfold State.fabAt; rw [hfabs2]
    have hrel : t.fabAt k = (s.fabAt k).releasedAt s2.stitch := by
      rw [ht, if_pos ⟨hreset hend, by simp [hover]⟩, hfabs3 k hk (by rwa [hfab]) (by rw [hframe2, hs1]; exact htest), hfab]
    rw [hrel]
    exact ⟨rfl, rfl⟩
  · rw [ht, if_neg (by rw [hleft, hany]; simp)]
    exact hfabs2
  · rw [ht, if_neg ?_]
    · exact hfabs2
    · rintro ⟨h, h'⟩
      exact (hwas h (by simpa using h')).elim h1 h3

/-- A reset pin at the low level. -/
def State.lowReset (t : State) : State := { t with start := { t.start with resetLow := true } }

/-- A reset pin that has risen. -/
def State.roseReset (t : State) : State := { t with start := { t.start with resetLow := false } }

theorem ColdFrom.lowReset {s t : State} (h : ColdFrom s t) : ColdFrom s t.lowReset :=
  ⟨h.locked, h.stitch, h.banks, h.bolts, h.procs, h.cmds, h.evq, h.stack, h.released, h.settings, h.jackImgs, h.hostMem⟩

theorem resetNAssert_next {s : State} (hvhk : s.start.vhk = true) (hlow : s.start.resetLow = false) :
    exec .resetNAssert s = .next (if s.hk.stop ≠ 0 then { s with hk := { s.hk with heldReset := some 1 } } else s.coldStart).lowReset :=
  act_next (by simp [hvhk, hlow])

theorem resetNRise_next {s : State} (hvhk : s.start.vhk = true) (hlow : s.start.resetLow = true) :
    exec .resetNRise s = .next (if s.hk.heldReset.isSome then s.roseReset else if s.start.vin then s.roseReset.fullReset 1 else s.roseReset) :=
  act_next (by simp [hvhk, hlow])

theorem RestartFrom.of_rose {s t : State} {cause : Nat} (h : RestartFrom s.roseReset t cause) : RestartFrom s t cause :=
  ⟨⟨⟨h.locked, h.stitch, h.banks, h.bolts, h.procs, h.cmds, h.evq, h.stack, h.released, h.settings, h.jackImgs, h.hostMem⟩,
    h.lcs, h.stop, h.heldReset, h.resetLow, h.jackSt, h.rootNow, h.vhk⟩, h.lastStart, h.starts, h.phase⟩

theorem RestartFrom.of_took {s t : State} {cause : Nat} (h : RestartFrom s.took t cause) : RestartFrom s t cause :=
  ⟨⟨⟨h.locked, h.stitch, h.banks, h.bolts, h.procs, h.cmds, h.evq, h.stack, h.released, h.settings, h.jackImgs, h.hostMem⟩,
    h.lcs, h.stop, h.heldReset, h.resetLow, h.jackSt, h.rootNow, h.vhk⟩, h.lastStart, h.starts, h.phase⟩

/-- A start that reports an event. -/
def State.reporting (t : State) (rep : EvRec) : State := { t with hk := { t.hk with report := some rep } }

theorem RestartFrom.reporting {s t : State} {cause : Nat} (h : RestartFrom s t cause) (rep : EvRec) : RestartFrom s (t.reporting rep) cause :=
  ⟨⟨⟨h.locked, h.stitch, h.banks, h.bolts, h.procs, h.cmds, h.evq, h.stack, h.released, h.settings, h.jackImgs, h.hostMem⟩,
    h.lcs, h.stop, h.heldReset, h.resetLow, h.jackSt, h.rootNow, h.vhk⟩, h.lastStart, h.starts, h.phase⟩

/-- The instant that a stop's cause has been gone for 1 s. -/
def State.cooledDown (s : State) : Bool := match s.hk.cool with | some t => decide (t + 3200000000 ≤ s.rootNow) | none => false

theorem State.cooledDown_of {s : State} (h : ∃ c, s.hk.cool = some c ∧ c + 3200000000 ≤ s.rootNow) : s.cooledDown = true := by
  obtain ⟨c, hc, hle⟩ := h
  unfold State.cooledDown
  rw [hc]
  exact decide_eq_true hle

theorem heldResetRelease_next {s : State} {cause : Nat} (hheld : s.hk.heldReset = some cause) (hcool : s.cooledDown = true)
    (hlow : s.start.resetLow = false) : exec .heldResetRelease s = .next ((s.startAgain cause).wr F.HK_LATCHED HK 0) :=
  actOn_some ((if_pos ⟨hcool, by simp [hlow]⟩).trans hheld)

/-- The event that a restart after a stop reports. -/
def State.stopReport (s : State) : EvRec :=
  ⟨⟨0, 0, false, false⟩, if s.hk.stop = 1 then EvCode.thermalShutdown.code else EvCode.powerStop.code, 0, s.devnum, blkHK,
    if s.hk.stop = 1 then (if s.hk.stop = 1 then s.rd F.HK_LAYER HK else s.freeWord.toNat % 2 ^ 32) else 0,
    [BitVec.ofNat 32 (if s.hk.stop = 1 then s.rd F.HK_LAYER HK else s.freeWord.toNat % 2 ^ 32), BitVec.ofNat 32 s.hk.peak,
     BitVec.ofNat 32 (if s.hk.stop = 1 ∧ s.hk.both then 1 else s.rd F.HK_STOP_STITCH HK)]⟩

theorem autoRestart_next {s : State} (hup : s.halted = false) (hlatch : s.rd F.HK_LATCHED HK = 0) (hheld : s.hk.heldReset = none)
    (hlow : s.start.resetLow = false) (hstop : s.hk.stop ≠ 0)
    (hpassed : (if s.hk.stop = 1 then s.cooledDown && (!s.hk.both || decide (s.hk.stopAt + 3200000000 ≤ s.rootNow))
      else decide (s.hk.stopAt + 3200000000 ≤ s.rootNow)) = true) :
    exec .autoRestart s = .next ((s.took.startAgain (if s.hk.stop = 1 then 4 else 5)).reporting s.stopReport) := by
  have hok : (decide (s.hk.stop ≠ 0) && !s.halted && !s.flag F.HK_LATCHED HK && s.hk.heldReset.isNone && !s.start.resetLow
      && (if s.hk.stop = 1 then s.cooledDown && (!s.hk.both || decide (s.hk.stopAt + 3200000000 ≤ s.rootNow))
        else decide (s.hk.stopAt + 3200000000 ≤ s.rootNow))) = true := by
    rw [hpassed, State.flag_of_eq_zero hlatch, hup, hheld, hlow]
    simp [hstop]
  exact act_next hok

/-- A device whose stack supply is gone. -/
def State.unstacked (t : State) : State := ({ t with start := { t.start with vin := false } } : State).wr F.ST_PHASE DEV 3

theorem AfreshFrom.unstacked {s t : State} (h : AfreshFrom s t) :
    ColdFrom s t.unstacked ∧ t.unstacked.start.vin = false ∧ t.unstacked.start.vhk = s.start.vhk ∧ t.unstacked.rd F.ST_PHASE DEV = 3 :=
  ⟨⟨h.locked, h.stitch, h.banks, h.bolts, h.procs, h.cmds, h.evq, h.stack, h.released, h.settings, h.jackImgs, h.hostMem⟩, rfl, h.vhk,
    State.rd_wr_same _ _ _ _ _ _ (by decide) (by decide)⟩

theorem vinStackLoss_next {s : State} (hvhk : s.start.vhk = true) (hvin : s.start.vin = true) :
    exec .vinStackLoss s = .next s.coldStart.unstacked :=
  act_next (by simp [hvhk, hvin])

/-- What is left without VHK. -/
def State.unpowered (s : State) : State :=
  { State.reset with pending := s.pending, resp := s.resp, fresh := s.cutBurn.fresh, hostMem := s.hostMem, cfg := s.cutBurn.cfg.kept State.reset.cfg }

theorem vhkLoss_next {s : State} (hvhk : s.start.vhk = true) : exec .vhkLoss s = .next s.unpowered := act_next hvhk

theorem State.unpowered_cold (s : State) : ColdFrom s s.unpowered := by
  obtain ⟨hset, himgs, -⟩ := s.cutBurn_keepsCfg
  exact ⟨rfl, rfl, rfl, rfl, rfl, rfl, rfl, rfl, rfl, hset, himgs, rfl⟩

/-- A write of LRESET. -/
theorem layerResetWrite_shows {s : State} (hrel : s.cfg.released = true) (hup : s.halted = false) (v : W32) (be : Nat) :
    let t := s.writeLreset v be
    let r := s.requestLayers (v.toNat % 256)
    (bitAt be 0 = true → t.start = r.start) ∧ (bitAt be 0 = false → t.start = s.start)
      ∧ (∀ i, i < 8 → bitAt (t.rd F.LR_DONE DEV) i = (bitAt (s.rd F.LR_DONE DEV) i && !(bitAt be 2 && bitAt v.toNat (16 + i))))
      ∧ (bitAt be 3 = true → bitAt v.toNat 24 = true → s.isHead = true → t.sys.resetAt = some (s.stitch + BitVec.ofNat 64 (s.rd F.TRIG_D TRIG)))
      ∧ (bitAt be 3 = false ∨ bitAt v.toNat 24 = false ∨ s.isHead = false → t.sys = s.sys ∧ t.seams = s.seams)
      ∧ t = { s with regs := t.regs, start := t.start, sys := t.sys, seams := t.seams } := by
  intro t r
  obtain ⟨s1, hs1⟩ : ∃ s1 : State, s1 = if bitAt be 0 then r else s := ⟨_, rfl⟩
  obtain ⟨s2, hs2⟩ : ∃ s2 : State, s2 = s1.wr F.LR_DONE DEV (s1.doneAfter (if bitAt be 2 then v.toNat / 65536 % 256 else 0)) := ⟨_, rfl⟩
  have ht : t = if bitAt be 3 ∧ bitAt v.toNat 24 ∧ s2.isHead then s2.raiseReset else s2 := by
    rw [hs2, hs1]
    exact s.writeLreset_eq v be
  have hframe1 : s1 = { s with start := s1.start } := by
    rw [hs1]
    split
    · exact (State.requestLayers_asks hrel hup _).1
    · rfl
  have hdone1 : s1.rd F.LR_DONE DEV = s.rd F.LR_DONE DEV := by rw [hframe1]; rfl
  have hd1 : s1.rd F.TRIG_D TRIG = s.rd F.TRIG_D TRIG := by rw [hframe1]; rfl
  have hstitch1 : s1.stitch = s.stitch := by rw [hframe1]
  have hhead2 : s2.isHead = s1.isHead := by
    rw [State.isHead, State.devnum, hs2, State.rd_wr_word _ _ _ _ _ _ _ _ _ _ (by decide)]
    rfl
  have hhead1 : s1.isHead = s.isHead := by rw [hframe1]; rfl
  have hframe2 : s2 = { s with regs := s2.regs, start := s1.start } := by rw [hs2, State.wr_frame, hframe1]
  have hraise : s2.raiseReset = { s2 with sys := s2.raiseReset.sys, seams := s2.raiseReset.seams }
      ∧ s2.raiseReset.sys.resetAt = some (s2.stitch + BitVec.ofNat 64 (s2.rd F.TRIG_D TRIG)) := by
    unfold State.raiseReset
    rw [State.flood_frame]
    exact ⟨rfl, rfl⟩
  have hframe : t = { s2 with sys := t.sys, seams := t.seams } := by
    rw [ht]
    split
    · exact hraise.1
    · rfl
  have hdone : t.rd F.LR_DONE DEV = s2.rd F.LR_DONE DEV := by rw [hframe]; rfl
  have hstart : t.start = s1.start := by rw [hframe, hframe2]
  refine ⟨fun h0 => ?_, fun h0 => ?_, fun i hi => ?_, fun h3 h24 hhead => ?_, fun h => ?_, ?_⟩
  · rw [hstart, hs1, if_pos h0]
  · rw [hstart, hs1, if_neg (by simp [h0])]
  · rw [hdone, hs2, State.done_wr _ _ hi, State.doneAfter, (bitAt_sumBits _ 8).2, hdone1, bitAt_clears _ _ hi]
    simp [hi]
  · rw [ht, if_pos ⟨h3, h24, by rw [hhead2, hhead1, hhead]⟩, hraise.2, hs2, State.rd_wr_word _ _ _ _ _ _ _ _ _ _ (by decide), hd1]
    exact congrArg (fun x => some (x + _)) hstitch1
  · have hnot : ¬ (bitAt be 3 = true ∧ bitAt v.toNat 24 = true ∧ s2.isHead = true) := by
      rw [hhead2, hhead1]
      rintro ⟨h3, h24, hhead⟩
      simp [h3, h24, hhead] at h
    rw [ht, if_neg hnot, hframe2]
    exact ⟨rfl, rfl⟩
  · rw [hframe, hframe2]

/-- Settles O59: a full reset keeps the words that survive it and starts the counts again; what a request for layer resets adds to those that wait is
added bit by bit. -/
theorem resets : Obligations.Resets := by
  unfold Obligations.Resets
  refine ⟨fun s hvhk => ?_, fun s hrel hup => ?_⟩
  · intro cold restarts rested cooled
    have hcold : ∀ t, ColdFrom s t → cold t := fun t h => ⟨h.locked, h.stitch, h.banks, h.bolts, h.procs, h.cmds, h.evq, h.stack, h.released, h.settings,
      h.jackImgs, h.hostMem⟩
    have hrestarts : ∀ {i : Instr} {cause : Nat} {t : State}, exec i s = .next t → RestartFrom s t cause → restarts i cause := fun {i cause t} hi h =>
      ⟨t, hi, hcold t h.toColdFrom, h.lastStart, h.starts, h.phase, h.lcs, h.stop, h.heldReset, h.resetLow, h.jackSt, h.rootNow⟩
    refine ⟨fun hlow => ⟨fun hstop => ?_, fun hstop => ?_⟩, fun hlow => ⟨fun hheld hvin hstop => ?_, fun hheld hvin hstop => ?_, fun h => ?_⟩,
      fun hvin hallow hlow => ⟨fun hstop => ?_, fun hstop => ?_⟩, fun cause hheld hcause hcool hlow => ?_, fun hup hlatch hheld hlow => ?_, fun hvin => ?_, ?_⟩
    · refine ⟨_, resetNAssert_next hvhk hlow, ?_, rfl⟩
      rw [if_neg (by simp [hstop])]
      exact hcold _ s.coldStart_afresh.toColdFrom.lowReset
    · rw [resetNAssert_next hvhk hlow, if_pos hstop]
      rfl
    · refine hrestarts (resetNRise_next hvhk hlow) ?_
      rw [if_neg (by simp [hheld]), if_pos hvin]
      exact (State.fullReset_shows (s := s.roseReset) hstop (by decide)).of_rose
    · rw [resetNRise_next hvhk hlow, if_neg (by simp [hheld]), if_pos hvin, State.fullReset_held (s := s.roseReset) hstop]
      rfl
    · rw [resetNRise_next hvhk hlow]
      rcases h with h | h
      · rw [if_pos (Option.isSome_iff_ne_none.2 h)]
        rfl
      · rw [h]
        simp only [Bool.false_eq_true, if_false, ite_self]
        rfl
    · exact hrestarts (act_next (by simp [hvhk, hvin, State.flag_of_eq_one hallow, hlow])) (State.fullReset_shows hstop (by decide))
    · exact (act_next (by simp [hvhk, hvin, State.flag_of_eq_one hallow, hlow])).trans (congrArg Host.Outcome.next (State.fullReset_held hstop 2))
    · exact hrestarts (heldResetRelease_next hheld (State.cooledDown_of hcool) hlow) (s.startAgain_shows hcause).latch
    · intro reports
      have hrep : ∀ {code : Nat}, code = (if s.hk.stop = 1 then EvCode.thermalShutdown.code else EvCode.powerStop.code) →
          exec .autoRestart s = .next ((s.took.startAgain (if s.hk.stop = 1 then 4 else 5)).reporting s.stopReport) → reports code :=
        fun hcode ht => ⟨_, ht, s.stopReport, rfl, hcode.symm, rfl, rfl⟩
      refine ⟨fun hstop hcool hboth => ?_, fun hstop hrest => ?_⟩
      · have hnext := autoRestart_next hup hlatch hheld hlow (by omega) (by
          rw [if_pos hstop, State.cooledDown_of hcool, Bool.true_and, Bool.or_eq_true]
          exact hboth.imp (fun h => by rw [h]; rfl) (fun h => decide_eq_true h))
        rw [if_pos hstop] at hnext
        exact ⟨hrestarts hnext ((State.startAgain_shows _ (by decide)).of_took.reporting _), hrep (by rw [if_pos hstop]; rfl) (by rw [if_pos hstop]; exact hnext)⟩
      · have hne : s.hk.stop ≠ 1 := by omega
        have hnext := autoRestart_next hup hlatch hheld hlow (by omega) (by rw [if_neg hne]; exact decide_eq_true hrest)
        rw [if_neg hne] at hnext
        exact ⟨hrestarts hnext ((State.startAgain_shows _ (by decide)).of_took.reporting _), hrep (by rw [if_neg hne]; rfl) (by rw [if_neg hne]; exact hnext)⟩
    · obtain ⟨hc, hv, hk, hphase⟩ := s.coldStart_afresh.unstacked
      exact ⟨_, vinStackLoss_next hvhk hvin, hcold _ hc, hv, hk.trans hvhk, hphase⟩
    · exact ⟨_, vhkLoss_next hvhk, hcold _ s.unpowered_cold, rfl, rfl, rfl⟩
  · intro asks
    refine ⟨fun layers hvhk hallow => ?_, fun v be => ?_, fun hend => ?_⟩
    · obtain ⟨hframe, h13, hno, hstart⟩ := State.requestLayers_asks hrel hup layers.toNat
      exact ⟨_, act_next (by simp [hvhk, State.flag_of_eq_one hallow, hrel, hup]), ⟨h13, hno, hstart⟩, hframe⟩
    · obtain ⟨h0, hno0, hdone, hreset, hnoreset, hframe⟩ := layerResetWrite_shows hrel hup v be.toNat
      obtain ⟨-, h13, hno, hstart⟩ := State.requestLayers_asks hrel hup (v.toNat % 256)
      refine ⟨_, act_next (by simp [hrel, hup]), fun h => ?_, hno0, hdone, hreset, hnoreset, hframe⟩
      rw [← h0 h] at h13 hno hstart
      exact ⟨h13, hno, hstart⟩
    · intro ended left
      obtain ⟨hstart, hkey, hstack, hfabs, hheld, hother⟩ := s.layersOver_shows
      have hpast : (s.resetOver != []) = true := by
        obtain ⟨e, he, h0⟩ := List.any_eq_true.1 hend
        exact bne_iff_ne.2 (List.ne_nil_of_mem ((mem_resetOver s e.1).2 (List.any_eq_true.2 ⟨e, he, by simpa using h0⟩)))
      refine ⟨s.layersOver.wr F.LR_DONE DEV (s.resetOver.foldl (fun n k => n ||| 2 ^ k) (s.rd F.LR_DONE DEV)), act_next (by rw [hpast, hup]; rfl),
        hstart, fun i hi => ?_, hkey, hstack, hfabs, hheld, hother⟩
      rw [State.done_wr _ _ hi, bitAt_foldl_lor, Bool.or_eq_true, decide_eq_true_eq, mem_resetOver]

end Sys2Proof.Machine

/-! The clock gates' requests, and the layers and reference outputs that they serve (R498 to R505, R353). -/

namespace Sys2Proof.Machine

theorem State.locked_of_isUp {s : State} (h : s.up = true) : (s.clk.locked && !s.halted) = true := h

/-- STATUS is all that a request shows that is answered at once. -/
theorem gateStatus_written (s : State) {v : Nat} (hv : v < 256) :
    (s.wr F.GATE_STATUS CLK v).rd F.GATE_STATUS CLK = v ∧ (s.wr F.GATE_STATUS CLK v).rd F.GATE_HELD_GATE CLK = s.rd F.GATE_HELD_GATE CLK
      ∧ OnlyRegs [F.GATE_STATUS.at CLK 0 0] s (s.wr F.GATE_STATUS CLK v) :=
  ⟨(State.rd_wr_same _ _ _ _ _ _ (by decide) (by decide)).trans (Nat.mod_eq_of_lt hv),
    State.rd_wr_field _ _ _ _ _ _ _ _ _ _ (by decide) (by decide) (by decide) (by decide), (OnlyRegs.refl _ s).wr (by simp) _⟩

theorem gateClamp_of_lt {g : Nat} (h : g < 115) : gateClamp g = g := if_neg (by omega)

/-- A gate that no rule lets a close request close (R499). -/
def State.closeRefused (s : State) (g : Nat) : Bool :=
  decide (g = 0 ∨ g = 1) || (decide (9 ≤ g ∧ g ≤ 56) && domainFixed (g - 9)) || (gateChildren g).any s.gateIsOpen || s.gateInService g

theorem State.closeRefused_iff (s : State) (g : Nat) : s.closeRefused g = false ↔
    ¬ (g = 0 ∨ g = 1) ∧ ¬ (9 ≤ g ∧ g ≤ 56 ∧ domainFixed (g - 9) = true) ∧ (∀ x ∈ gateChildren g, s.gateIsOpen x = false) ∧ s.gateInService g = false := by
  unfold State.closeRefused
  simp only [Bool.or_eq_false_iff, Bool.and_eq_false_iff, decide_eq_false_iff_not, List.any_eq_false, Bool.not_eq_true, and_assoc]
  refine and_congr_right fun _ => and_congr_left fun _ => ?_
  cases domainFixed (g - 9) <;> simp

/-- The open request of a gate that the tree has. -/
def State.openAsked (s : State) (g : Nat) : State :=
  let s1 := (({ s with clk := { s.clk with heldClose := s.clk.heldClose.erase g } } : State).showHeld).wr F.GATE_STATUS CLK
    (if g ∈ s.clk.heldClose ∨ s.gateIsOpen g = true then 0 else 1)
  { s1 with clk := { s1.clk with gates := s1.clk.gates.filter (fun q => q.1 != g) ++ [(g, false)] } }

theorem State.openGate_of_lt (s : State) {g : Nat} (h : g < 115) : s.openGate g = s.openAsked g := by
  unfold State.openGate
  rw [gateClamp_of_lt h]
  exact if_neg (by omega)

theorem State.openAsked_shows (s : State) (g : Nat) :
    (s.openAsked g).rd F.GATE_HELD_GATE CLK = (s.clk.heldClose.erase g).getLast?.getD 127 % 128
      ∧ (s.openAsked g).rd F.GATE_STATUS CLK = if g ∈ s.clk.heldClose ∨ s.gateIsOpen g = true then 0 else 1 := by
  refine ⟨(State.rd_wr_field _ _ _ _ _ _ _ _ _ _ (by decide) (by decide) (by decide) (by decide)).trans (State.rd_wr_same _ _ _ _ _ _ (by decide) (by decide)),
    (State.rd_wr_same _ _ _ _ _ _ (by decide) (by decide)).trans (Nat.mod_eq_of_lt ?_)⟩
  split <;> decide

/-- The close request of a gate that may close. -/
theorem State.closeGate_of_may (s : State) {g : Nat} (h : g < 115) (hmay : s.closeRefused g = false) : s.closeGate g =
    if s.gateBusy g then
      ({ s.wr F.GATE_STATUS CLK 1 with clk := { s.clk with heldClose := s.clk.heldClose.erase g ++ [g], gates := s.clk.gates.filter (fun q => q.1 != g) } } :
        State).showHeld
    else { s.wr F.GATE_STATUS CLK 1 with clk := { s.clk with gates := s.clk.gates.filter (fun q => q.1 != g) ++ [(g, true)] } } := by
  unfold State.closeGate
  rw [gateClamp_of_lt h]
  exact (if_neg (by omega)).trans (if_neg (Bool.eq_false_iff.1 hmay))

theorem State.closeGate_of_refused (s : State) {g : Nat} (h : g < 115) (hno : s.closeRefused g = true) : s.closeGate g = s.wr F.GATE_STATUS CLK 3 := by
  unfold State.closeGate
  rw [gateClamp_of_lt h]
  exact (if_neg (by omega)).trans (if_pos hno)

theorem State.closeHeld_shows {s t : State} {g : Nat} (hg : g < 128)
    (ht : t = ({ s.wr F.GATE_STATUS CLK 1 with clk := { s.clk with heldClose := s.clk.heldClose.erase g ++ [g], gates := s.clk.gates.filter (fun q => q.1 != g) } } :
        State).showHeld) :
    t.rd F.GATE_STATUS CLK = 1 ∧ t.rd F.GATE_HELD_GATE CLK = g ∧ t.clk.heldClose = s.clk.heldClose.erase g ++ [g]
      ∧ t.clk.gates = s.clk.gates.filter (fun q => q.1 != g) := by
  subst ht
  refine ⟨(State.rd_wr_field _ _ _ _ _ _ _ _ _ _ (by decide) (by decide) (by decide) (by decide)).trans
    (State.rd_wr_same _ _ _ _ _ _ (by decide) (by decide)), (State.rd_wr_same _ _ _ _ _ _ (by decide) (by decide)).trans ?_, rfl, rfl⟩
  simp only [List.getLast?_concat, Option.getD_some]
  exact Nat.mod_eq_of_lt hg

/-! The contents of a layer of the bolts. -/

/-- A bolt whose lines in a layer have been written with zeros. -/
def BoltSt.rewritten (x : BoltSt) (layer : Nat) : BoltSt :=
  { x with mem := x.mem.filter (fun e => !(e.1 / 64 % 4 + 4 == layer))
           meta_ := x.meta_.filter (fun e => !(e.1 % 4 + 4 == layer))
           lost := x.lost.filter (· != layer) }

/-- What a table holds at a key depends on what an unlisted key holds there alone. -/
theorem Tab.get_congr {α : Type} {d e : Nat → α} (t : Tab α) {k : Nat} (h : d k = e k) : Tab.get d t k = Tab.get e t k := by
  induction t with
  | nil => exact h
  | cons x t ih => exact ite_congr rfl (fun _ => rfl) fun _ => ih

/-- The bytes of the layer read 0, the others what they held. -/
theorem BoltSt.rewritten_get (x : BoltSt) (layer a : Nat) :
    (x.rewritten layer).mem.get (x.rewritten layer).unlisted a = if a / 64 % 4 + 4 = layer then 0 else x.mem.get x.unlisted a := by
  split
  · next h =>
    refine (Tab.get_of_no_key _ (fun e he heq => ?_)).trans (if_neg ?_)
    · have := (List.mem_filter.1 he).2
      rw [heq] at this
      simp [h] at this
    · simp [BoltSt.rewritten, h]
  · next h =>
    have hun : (x.rewritten layer).unlisted a = x.unlisted a := by
      simp only [BoltSt.unlisted, boltUnlisted, BoltSt.rewritten, List.mem_filter, bne_iff_ne, ne_eq, h, not_false_eq_true, and_true]
    rw [← Tab.get_filter _ x.mem (fun e => !(e.1 / 64 % 4 + 4 == layer)) a (fun v => by simp [h])]
    exact Tab.get_congr _ hun

/-- The bolts whose layer has been rewritten. -/
theorem rewriteBolts_shows (s : State) (layer n : Nat) :
    let t := forN (fun k (s : State) => s.setBolt k ((s.boltAt k).rewritten layer)) n s
    t = { s with bolts := t.bolts } ∧ ∀ k, t.boltAt k = if k < n then (s.boltAt k).rewritten layer else s.boltAt k := by
  induction n with
  | zero => exact ⟨rfl, fun k => (if_neg (by omega)).symm⟩
  | succ n ih =>
    obtain ⟨hframe, hbolts⟩ := ih
    simp only [forN]
    generalize forN _ n s = u at *
    refine ⟨?_, fun k => ?_⟩
    · rw [hframe]
      rfl
    · rw [State.boltAt_setBolt, hbolts, if_neg (Nat.lt_irrefl n), hbolts]
      rcases Nat.lt_trichotomy k n with h | h | h
      · rw [if_neg (by omega), if_pos h, if_pos (by omega)]
      · subst h
        rw [if_pos rfl, if_pos (by omega)]
      · rw [if_neg (by omega), if_neg (by omega), if_neg (by omega)]

/-- A gate that opens is open. -/
theorem State.gateIsOpen_setGate (s : State) (g : Nat) : (s.setGate g true).gateIsOpen g = true := by
  unfold State.gateIsOpen State.setGate
  rw [State.rd_wr_same _ _ _ _ _ _ (by decide) (by decide)]
  have hi : g % 32 < 32 := Nat.mod_lt _ (by decide)
  generalize s.rd F.GATE_OPEN CLK (g / 32) = w
  generalize g % 32 = i at *
  refine (bitAt_mod (n := 32) hi).trans ?_
  by_cases h : bitAt w i = true
  · simp [h]
  · simp only [h, if_true, Bool.false_eq_true, if_false]
    simp only [bitAt, beq_iff_eq] at h ⊢
    rw [Nat.add_div_right _ (by positivity)]
    omega

/-! The reference outputs. -/

/-- What a write of a REFOUT word leaves. -/
theorem State.writeRefout_shows (s : State) {n : Nat} (word : Bool) (v : W32) (be : Nat) :
    let a := CLK + 0x200 + 8 * n + (if word then 4 else 0)
    let t := s.writeRefout n word v be
    (s.erd F.REFO_SSC CLK n = 0 → t.effReg a = (s.mergeWrite a v be).reg a ∧ t.clk = s.clk)
      ∧ (s.erd F.REFO_SSC CLK n ≠ 0 → t.eff = s.eff ∧ t.clk.refPend.get (fun _ => (0, 0)) a = ((s.mergeWrite a v be).reg a, s.rootNow))
      ∧ (∀ b, b ≠ CLK + 0x200 + 8 * n → b ≠ CLK + 0x204 + 8 * n → t.reg b = s.reg b)
      ∧ (word = false → t.reg a = (s.mergeWrite a v be).reg a) := by
  intro a t
  obtain ⟨s1, hs1⟩ : ∃ s1, s1 = s.mergeWrite a v be := ⟨_, rfl⟩
  have hat : F.REFO_EN.at CLK n 0 + (if word then 4 else 0) = a := by
    simp [Fld.at, F.REFO_EN, a, Nat.add_comm, Nat.add_left_comm, Nat.mul_comm]
  have hframe : s1 = { s with regs := s1.regs } := by rw [hs1]; exact s.mergeWrite_frame a v be
  have ht : t = (if s.erd F.REFO_SSC CLK n = 0 then { s1 with eff := s1.eff.put a (s1.reg a) }
    else { s1 with clk := { s1.clk with refPend := s1.clk.refPend.put a (s1.reg a, s1.rootNow) } }).showRefout n := by
    rw [hs1, ← hat]
    rfl
  have hother : ∀ b, b ≠ CLK + 0x204 + 8 * n → t.reg b = s1.reg b := fun b hb => by
    rw [ht]
    refine (State.reg_wr_other _ _ _ _ _ _ ?_).trans ?_
    · simpa [Fld.at, F.REFO_ACTIVE, Nat.add_comm, Nat.add_left_comm, Nat.mul_comm] using hb
    · split <;> rfl
  rw [← hs1]
  refine ⟨fun h => ?_, fun h => ?_, fun b hb hb' => ?_, fun hw => hother a ?_⟩
  · rw [ht, if_pos h]
    exact ⟨Tab.get_put_same _ _ _ _, by rw [hframe]; rfl⟩
  · rw [ht, if_neg h]
    refine ⟨by rw [hframe]; rfl, (Tab.get_put_same _ _ _ _).trans ?_⟩
    rw [hframe]
    rfl
  · rw [hother b hb', hs1]
    refine s.reg_mergeWrite_other ?_ v be
    intro h
    cases word
    · exact hb h
    · exact hb' (h.trans (by simp only [a, if_true]; omega))
  · simp only [a, hw, Bool.false_eq_true, if_false]
    omega

/-- Settles O56: a close request waits, is held or is refused by what the gate clocks, and a layer that has been rewritten reads 0. -/
theorem clockGates : Obligations.ClockGates := by
  unfold Obligations.ClockGates
  intro s hup st
  have hguard : (s.clk.locked && !s.halted) = true := hup
  have hlive : s.halted = false := State.halted_of_up hup
  refine ⟨fun gate hno i hi => ?_, fun gate hg => ?_, fun g hheld => ?_, fun layer hmem hlayer => ?_, fun n word v be => ?_⟩
  · have hclamp : gateClamp gate.toNat = 127 := if_pos hno
    have hopen : s.openGate gate.toNat = s.wr F.GATE_STATUS CLK 0 := by unfold State.openGate; rw [hclamp]; exact if_pos rfl
    have hclose : s.closeGate gate.toNat = s.wr F.GATE_STATUS CLK 0 := by unfold State.closeGate; rw [hclamp]; exact if_pos rfl
    have hnext : exec i s = .next (s.wr F.GATE_STATUS CLK 0) := by
      simp only [List.mem_cons, List.not_mem_nil, or_false] at hi
      rcases hi with rfl | rfl
      · exact (act_next hguard).trans (congrArg Host.Outcome.next hopen)
      · exact (act_next hguard).trans (congrArg Host.Outcome.next hclose)
    exact ⟨_, hnext, gateStatus_written s (by decide)⟩
  · intro g may
    have hmay : s.closeRefused g = false ↔ may := s.closeRefused_iff g
    refine ⟨?_, fun h => ?_, fun h hbusy => ?_, fun h hbusy => ?_⟩
    · obtain ⟨hgate, hstatus⟩ := s.openAsked_shows g
      exact ⟨_, (act_next hguard).trans (congrArg Host.Outcome.next (s.openGate_of_lt hg)), rfl, rfl, hgate, hstatus, rfl⟩
    · have hrefused : s.closeRefused g = true := by_contra fun hne => h (hmay.1 (Bool.eq_false_iff.2 hne))
      obtain ⟨hstatus, -, hframe⟩ := gateStatus_written s (v := 3) (by decide)
      exact ⟨_, (act_next hguard).trans (congrArg Host.Outcome.next (s.closeGate_of_refused hg hrefused)), hstatus, hframe⟩
    · obtain ⟨hstatus, -, -⟩ := gateStatus_written s (v := 1) (by decide)
      exact ⟨_, (act_next hguard).trans (congrArg Host.Outcome.next ((s.closeGate_of_may hg (hmay.2 h)).trans (if_neg (Bool.eq_false_iff.1 hbusy)))),
        hstatus, rfl, rfl⟩
    · exact ⟨_, (act_next hguard).trans (congrArg Host.Outcome.next ((s.closeGate_of_may hg (hmay.2 h)).trans (if_pos hbusy))),
        State.closeHeld_shows (by omega) rfl⟩
  · refine ⟨_, actOn_some ((if_neg (by simp [hlive])).trans hheld), State.rd_wr_same _ _ _ _ _ _ (by decide) (by decide), rfl, rfl⟩
  · obtain ⟨hframe, hbolts⟩ := rewriteBolts_shows s layer.val 16
    obtain ⟨u, hu⟩ : ∃ u, u = forN (fun k (s : State) => s.setBolt k ((s.boltAt k).rewritten layer.val)) 16 s := ⟨_, rfl⟩
    rw [← hu] at hframe hbolts
    have hnext : exec (.dramRewriteDone layer) s
        = .next (({ u with clk := { u.clk with rewriting := u.clk.rewriting.filter (· != layer.val) } } : State).setGate (49 + layer.val) true) := by
      rw [hu]
      exact act_next (by simp [hmem, hlive])
    have hbyte : ∀ (k : LPatch) a, u.boltByte k.val a = if a / 64 % 4 + 4 = layer.val then 0 else s.boltByte k.val a := fun k a => by
      unfold State.boltByte
      rw [hbolts, if_pos k.isLt]
      exact BoltSt.rewritten_get _ _ _
    refine ⟨_, hnext, fun k a h => (hbyte k a).trans (if_pos h), fun k a h => (hbyte k a).trans (if_neg h), State.gateIsOpen_setGate _ _, ?_, ?_⟩
    · exact fun h => by simpa using (List.mem_filter.1 h).2
    · rw [hframe]
      rfl
  · exact ⟨_, act_next hguard, s.writeRefout_shows word v be.toNat⟩

end Sys2Proof.Machine

/-! Requests for a handover (R459, R460, R467, R470, R471). -/

namespace Sys2Proof.Machine

/-- A request joins the queue behind those of its own and of higher priorities. -/
theorem insertReq_perm (r : HoReq) (q : List HoReq) : (insertReq r q).Perm (r :: q) := by
  induction q with
  | nil => exact .refl _
  | cons x q ih =>
    unfold insertReq
    split
    · exact (ih.cons x).trans (.swap r x q)
    · exact .refl _

theorem insertReq_sorted (r : HoReq) {q : List HoReq} (h : q.Pairwise (fun a b => a.cause ≤ b.cause)) :
    (insertReq r q).Pairwise (fun a b => a.cause ≤ b.cause) := by
  induction q with
  | nil => exact List.pairwise_singleton _ _
  | cons x q ih =>
    obtain ⟨hx, hq⟩ := List.pairwise_cons.1 h
    unfold insertReq
    split
    · next hle =>
      refine List.pairwise_cons.2 ⟨fun y hy => ?_, ih hq⟩
      rcases List.mem_cons.1 ((insertReq_perm r q).mem_iff.1 hy) with rfl | hmem
      · exact hle
      · exact hx y hmem
    · next hgt =>
      refine List.pairwise_cons.2 ⟨fun y hy => ?_, h⟩
      rcases List.mem_cons.1 hy with rfl | hmem
      · omega
      · exact (Nat.le_of_lt (by omega : r.cause < x.cause)).trans (hx y hmem)

theorem insertReq_behind (r x : HoReq) (a b : List HoReq) (hsort : (a ++ x :: b).Pairwise (fun a b => a.cause ≤ b.cause)) (hx : x.cause ≤ r.cause) :
    insertReq r (a ++ x :: b) = a ++ x :: insertReq r b := by
  induction a with
  | nil => exact if_pos hx
  | cons y a ih =>
    obtain ⟨hy, hrest⟩ := List.pairwise_cons.1 hsort
    have hle : y.cause ≤ r.cause := (hy x (by simp)).trans hx
    exact (if_pos hle).trans (congrArg (y :: ·) (ih hrest))

/-- A preparation that is given up changes positions, RES and the command that asked for it. -/
theorem State.abandonPrep_frame (s : State) : s.abandonPrep = { s with regs := s.abandonPrep.regs, res := s.abandonPrep.res, host := s.abandonPrep.host } := by
  have hcmd : ∀ (u : State) (c : Option CmdRef), u.completeOpt c .refused = { u with host := (u.completeOpt c .refused).host } := fun u c => by
    cases c <;> rfl
  unfold State.abandonPrep
  split
  · rfl
  · rw [hcmd]
    generalize (State.host (State.completeOpt _ _ _)) = x
    split <;> rfl

theorem State.abandonPrep_res (s : State) : s.abandonPrep.res.queue = s.res.queue ∧ s.abandonPrep.res.misses = s.res.misses := by
  have hcmd : ∀ (u : State) (c : Option CmdRef), (u.completeOpt c .refused).res = u.res := fun u c => by cases c <;> rfl
  unfold State.abandonPrep
  split
  · exact ⟨rfl, rfl⟩
  · rw [hcmd]
    split <;> exact ⟨rfl, rfl⟩

/-- A request that does not wait already joins the queue. -/
theorem State.requestHandover_shows (s : State) (r : HoReq)
    (h : r.cause < 3 → (∀ q ∈ s.res.queue, ¬ (q.k = r.k ∧ q.cause = r.cause)) ∧ ∀ q, s.res.cur = some q → ¬ (q.k = r.k ∧ q.cause = r.cause)) :
    let t := s.requestHandover r
    t = { s with regs := t.regs, res := t.res, host := t.host } ∧ t.res.queue = insertReq r s.res.queue ∧ t.res.misses = s.res.misses
      ∧ (3 ≤ r.cause → t = { s with regs := t.regs, res := t.res } ∧ t.res = { s.res with queue := insertReq r s.res.queue }
        ∧ t.regs = (s.wr F.RES_QUEUED RES (min 15 (insertReq r s.res.queue).length)).regs) := by
  intro t
  have hnone : ((r.cause < 3 : Bool) && (s.res.queue.any (fun q => decide (q.k = r.k ∧ q.cause = r.cause))
      || (match s.res.cur with | some q => decide (q.k = r.k ∧ q.cause = r.cause) | none => false))) = false := by
    by_cases h3 : r.cause < 3
    · obtain ⟨hqueue, hcur⟩ := h h3
      have hwaits : s.res.queue.any (fun q => decide (q.k = r.k ∧ q.cause = r.cause)) = false :=
        List.any_eq_false.2 fun q hq => by simpa using hqueue q hq
      rw [hwaits, Bool.false_or]
      cases hc : s.res.cur with
      | none => exact Bool.and_false _
      | some q => exact (congrArg _ (decide_eq_false (hcur q hc))).trans (Bool.and_false _)
    · rw [decide_eq_false h3, Bool.false_and]
  obtain ⟨s1, hs1⟩ : ∃ s1 : State, s1 = if r.cause < 3 ∧ s.rd F.RES_PHASE RES = 1 ∧ (match s.res.cur with | some q => decide (3 ≤ q.cause) | none => false) = true
      then s.abandonPrep else s := ⟨_, rfl⟩
  have ht : t = ({ s1 with res := { s1.res with queue := insertReq r s1.res.queue } } : State).showQueued := by
    rw [hs1]
    exact if_neg (Bool.eq_false_iff.1 hnone)
  have heither : s1 = s.abandonPrep ∨ s1 = s := by rw [hs1]; exact ite_eq_or_eq _ _ _
  have hframe : s1 = { s with regs := s1.regs, res := s1.res, host := s1.host } := by
    rcases heither with h1 | h1 <;> rw [h1]
    exact s.abandonPrep_frame
  have hres : s1.res.queue = s.res.queue ∧ s1.res.misses = s.res.misses := by
    rcases heither with h1 | h1 <;> rw [h1]
    · exact s.abandonPrep_res
    · exact ⟨rfl, rfl⟩
  refine ⟨?_, ?_, ?_, fun h3 => ?_⟩
  · rw [ht, hframe]
    rfl
  · rw [ht, ← hres.1]
    rfl
  · rw [ht]
    exact hres.2
  · have hsame : s1 = s := hs1.trans (if_neg fun hlow => by omega)
    rw [ht, hsame]
    exact ⟨rfl, rfl, rfl⟩

end Sys2Proof.Machine

namespace Sys2Proof.Machine

theorem gateParent_lt : ∀ g, g < 128 → ∀ p, gateParent g = some p → p < 128 := by decide

/-- Nothing differs but words of CLK and the clocks' own state. -/
def ClockOnly (s t : State) : Prop := t = { s with regs := t.regs, clk := t.clk } ∧ SameRegs (fun a => a < 0x1000 ∨ 0x2000 ≤ a) s t

theorem ClockOnly.refl (s : State) : ClockOnly s s := ⟨rfl, SameRegs.refl _ s⟩

theorem ClockOnly.trans {s t u : State} (h : ClockOnly s t) (g : ClockOnly t u) : ClockOnly s u := by
  refine ⟨?_, h.2.trans g.2⟩
  rw [g.1]
  generalize u.regs = x
  generalize u.clk = y
  rw [h.1]

/-- The opening of a gate and its parents. -/
theorem State.openChain_clock (s : State) (fuel : Nat) {g : Nat} (hg : g < 128) : ClockOnly s (s.openChain fuel g) := by
  induction fuel generalizing s g with
  | zero => exact .refl s
  | succ fuel ih =>
    obtain ⟨s1, hs1⟩ : ∃ s1 : State, s1 = if s.gateIsOpen g then s
      else if 53 ≤ g ∧ g ≤ 56 then
        (if g - 49 ∈ s.clk.rewriting then s else { s with clk := { s.clk with rewriting := s.clk.rewriting ++ [g - 49] } })
      else s.setGate g true := ⟨_, rfl⟩
    have hword : ¬ (F.GATE_OPEN.at CLK (g / 32) 0 < 0x1000 ∨ 0x2000 ≤ F.GATE_OPEN.at CLK (g / 32) 0) := by
      simp only [Fld.at, F.GATE_OPEN, CLK]
      omega
    have hone : ClockOnly s s1 := by
      rw [hs1]
      split
      · exact .refl s
      · split
        · split
          · exact .refl s
          · exact ⟨rfl, SameRegs.refl _ s⟩
        · exact ⟨rfl, (SameRegs.refl _ s).wr hword _⟩
    unfold State.openChain
    dsimp only
    rw [← hs1]
    cases hp : gateParent g with
    | none => exact hone
    | some p => exact hone.trans (ih s1 (gateParent_lt g hg p hp))

/-- One processor's registers are those of the boundary, and its program stands still. -/
theorem State.lockstep_shows (s : State) (k : LPatch) (off : Nat) :
    let key := 16 + k.val
    let y := Tab.get (fun _ => s.procAt key) s.snaps key
    let u := ((s.tick off).restoreRegs key).modProcAt key (fun x => { x with active := false, stalled := true, wait := none })
    u = { s with off := s.clampOff off, procs := u.procs } ∧ (∀ j, j ≠ key → u.procAt j = s.procAt j)
      ∧ (u.procAt key).active = false ∧ (u.procAt key).stalled = true ∧ (u.procAt key).wait = none
      ∧ (u.procAt key).g = y.g ∧ (u.procAt key).a = y.a ∧ (u.procAt key).o = y.o ∧ (u.procAt key).p = y.p
      ∧ (u.procAt key).dmem = (s.procAt key).dmem := by
  intro key y u
  have hat : u.procAt key = { (s.procAt key) with
      active := false, stalled := true, wait := none, g := y.g, a := y.a, o := y.o, p := y.p, v := y.v, dl := y.dl, tp := y.tp, e := y.e, mu := y.mu } := by
    refine (State.procAt_modSame _ _ _).trans ?_
    rw [State.restoreRegs, State.procAt_modSame]
    rfl
  refine ⟨rfl, fun j hj => ?_, ?_⟩
  · rw [State.procAt_mod, if_neg hj, State.restoreRegs, State.procAt_mod, if_neg hj]
    rfl
  · rw [hat]
    exact ⟨rfl, rfl, rfl, rfl, rfl, rfl, rfl, rfl⟩

/-- A lockstep mismatch of a patch sequencer. -/
theorem lockstepMismatch_shows (s : State) (k : LPatch) (off : Nat) (hon : s.stackOn = true) :
    let runs := s.rd F.PSTATE (s.pb k.val) = 1 ∧ (s.procAt (16 + k.val)).frozen = false ∧ (s.procAt (16 + k.val)).stalled = false
    let y := Tab.get (fun _ => s.procAt (16 + k.val)) s.snaps (16 + k.val)
    (∀ q ∈ s.res.queue, ¬ (q.k = k.val ∧ q.cause = 0)) → (∀ q, s.res.cur = some q → ¬ (q.k = k.val ∧ q.cause = 0)) →
    ∃ t x, exec (.lockstepMismatch k off) s = .next t ∧ t.procAt (16 + k.val) = x ∧ x.active = false ∧ x.stalled = true ∧ x.wait = none
      ∧ x.g = y.g ∧ x.a = y.a ∧ x.o = y.o ∧ x.p = y.p ∧ x.dmem = (s.procAt (16 + k.val)).dmem
      ∧ t.res.queue = insertReq ⟨k.val, 0, none, none, false⟩ s.res.queue ∧ t.res.misses.get (fun _ => 0) k.val = s.stitch
      ∧ (runs → t.rd F.ABANDON (s.pb k.val) = min F.ABANDON.max (s.rd F.ABANDON (s.pb k.val) + 1))
      ∧ (¬ runs → t.rd F.ABANDON (s.pb k.val) = s.rd F.ABANDON (s.pb k.val))
      ∧ (∀ key, key ≠ 16 + k.val → t.procAt key = s.procAt key) ∧ t.banks = s.banks ∧ t.bolts = s.bolts := by
  intro runs y hqueue hcur
  obtain ⟨hframe1, hothers, hactive, hstalled, hwait, hg, ha, ho, hp, hdmem⟩ := s.lockstep_shows k off
  obtain ⟨u, hu⟩ : ∃ u : State, u = ((s.tick off).restoreRegs (16 + k.val)).modProcAt (16 + k.val)
    (fun x => { x with active := false, stalled := true, wait := none }) := ⟨_, rfl⟩
  rw [← hu] at hframe1 hothers hactive hstalled hwait hg ha ho hp hdmem
  obtain ⟨s2, hs2⟩ : ∃ s2 : State, s2 = if s.rd F.PSTATE (s.pb k.val) = 1 ∧ ¬ (s.procAt (16 + k.val)).stalled ∧ ¬ (s.procAt (16 + k.val)).frozen
    then u.bump F.ABANDON (s.pb k.val) else u := ⟨_, rfl⟩
  have hframe2 : s2 = { u with regs := s2.regs } := by rw [hs2]; split <;> rfl
  have hcond : (s.rd F.PSTATE (s.pb k.val) = 1 ∧ ¬ (s.procAt (16 + k.val)).stalled ∧ ¬ (s.procAt (16 + k.val)).frozen) ↔ runs := by
    simp only [Bool.not_eq_true, runs]
    tauto
  have habandon : u.rd F.ABANDON (s.pb k.val) = s.rd F.ABANDON (s.pb k.val) := by rw [hframe1]; rfl
  have hcount : (runs → s2.rd F.ABANDON (s.pb k.val) = min F.ABANDON.max (s.rd F.ABANDON (s.pb k.val) + 1))
      ∧ (¬ runs → s2.rd F.ABANDON (s.pb k.val) = s.rd F.ABANDON (s.pb k.val)) := by
    rw [← habandon]
    refine ⟨fun h => ?_, fun h => ?_⟩
    · rw [hs2, if_pos (hcond.2 h)]
      exact u.rd_bump_same _ _ (by decide) (by decide)
    · rw [hs2, if_neg (fun hc => h (hcond.1 hc))]
  obtain ⟨m, hm⟩ : ∃ m : List Nat, m = if (match s.res.misses.find? (fun e => e.1 == k.val) with
    | some e => decide ((s.stitch - e.2).toNat ≤ 1024)
    | none => false) then k.val :: s2.res.stopped.erase k.val else s2.res.stopped.erase k.val := ⟨_, rfl⟩
  obtain ⟨s3, hs3⟩ : ∃ s3 : State, s3 = { s2 with res := { s2.res with misses := s2.res.misses.put k.val s.stitch, stopped := m } } := ⟨_, rfl⟩
  have hres2 : s2.res = s.res := by rw [hframe2, hframe1]
  have hnext : exec (.lockstepMismatch k off) s = .next (s3.requestHandover ⟨k.val, 0, none, none, false⟩) := by
    rw [hs3, hm, hs2, hu]
    exact act_next hon
  obtain ⟨hframe, hq, hmiss, -⟩ := s3.requestHandover_shows ⟨k.val, 0, none, none, false⟩ (fun _ => by
    rw [hs3]
    dsimp only
    rw [hres2]
    exact ⟨hqueue, hcur⟩)
  have hregs := s3.requestHandover_regs ⟨k.val, 0, none, none, false⟩
  generalize s3.requestHandover ⟨k.val, 0, none, none, false⟩ = t at *
  have hprocs : t.procs = u.procs := by rw [hframe, hs3, hframe2]
  have hproc : ∀ key, t.procAt key = u.procAt key := fun key => by unfold State.procAt; rw [hprocs]
  have hpb : outsidePositions (F.ABANDON.at (s.pb k.val) 0 0) := Or.inr (Or.inr (by
    simp only [Fld.at, F.ABANDON, State.pb, PATCH]
    omega))
  have hrd : t.rd F.ABANDON (s.pb k.val) = s2.rd F.ABANDON (s.pb k.val) := by rw [hregs.rd hpb, hs3]; rfl
  refine ⟨t, u.procAt (16 + k.val), hnext, hproc _, hactive, hstalled, hwait, hg, ha, ho, hp, hdmem, ?_, ?_, fun h => ?_, fun h => ?_, fun key hkey => ?_, ?_, ?_⟩
  · rw [hq, hs3]
    dsimp only
    rw [hres2]
  · rw [hmiss, hs3]
    exact Tab.get_put_same _ _ _ _
  · rw [hrd, hcount.1 h]
  · rw [hrd, hcount.2 h]
  · rw [hproc, hothers key hkey]
  · rw [hframe, hs3, hframe2, hframe1]
  · rw [hframe, hs3, hframe2, hframe1]

/-- A lockstep mismatch of the head controller. -/
theorem hcLockstepMismatch_shows (s : State) (off : Nat) (hup : s.up = true) :
    let again := ∃ e, s.res.misses.find? (fun e => e.1 == 16) = some e ∧ (s.stitch - e.2).toNat ≤ 1024
    ∃ t, exec (.hcLockstepMismatch off) s = .next t ∧ (t.procAt 0).active = false
      ∧ t.rd F.RES_HC_RETRY RES = min F.RES_HC_RETRY.max (s.rd F.RES_HC_RETRY RES + 1) ∧ t.res.misses.get (fun _ => 0) 16 = s.stitch
      ∧ (∀ key, key ≠ 0 → t.procAt key = s.procAt key) ∧ (¬ again → t.evq = s.evq) ∧ (again → ∃ e, t.evq = s.evq ++ [e] ∧ e.code = 0x12) := by
  intro again
  obtain ⟨u, hu⟩ : ∃ u : State, u = ((s.tick off).restoreRegs 0).modProcAt 0 (fun x => { x with active := false, wait := none }) := ⟨_, rfl⟩
  have hframe : u = { s with off := s.clampOff off, procs := u.procs } := by rw [hu]; rfl
  have hactive : (u.procAt 0).active = false := by rw [hu, State.procAt_modSame]
  have hothers : ∀ key, key ≠ 0 → u.procAt key = s.procAt key := fun key hkey => by
    rw [hu, State.procAt_mod, if_neg hkey, State.restoreRegs, State.procAt_mod, if_neg hkey]
    rfl
  obtain ⟨s2, hs2⟩ : ∃ s2 : State, s2 = { u.bump F.RES_HC_RETRY RES with res := { u.res with misses := u.res.misses.put 16 s.stitch } } := ⟨_, rfl⟩
  obtain ⟨recurs, hrecurs⟩ : ∃ b : Bool, b = match s.res.misses.find? (fun e => e.1 == 16) with
    | some e => decide ((s.stitch - e.2).toNat ≤ 1024)
    | none => false := ⟨_, rfl⟩
  have hagain : recurs = true ↔ again := by
    rw [hrecurs]
    cases hfind : s.res.misses.find? (fun e => e.1 == 16) with
    | none => simp [again, hfind]
    | some e =>
      exact decide_eq_true_iff.trans ⟨fun h => ⟨e, hfind, h⟩, fun ⟨x, hx, h⟩ => by cases hfind.symm.trans hx; exact h⟩
  have hnext : exec (.hcLockstepMismatch off) s = .next (if recurs then s2.event .spareExhausted blkDEV 0 else s2) := by
    rw [hs2, hrecurs, hu]
    exact act_next hup
  have hretry : s2.rd F.RES_HC_RETRY RES = min F.RES_HC_RETRY.max (s.rd F.RES_HC_RETRY RES + 1) := by
    rw [hs2]
    refine (u.rd_bump_same F.RES_HC_RETRY RES (by decide) (by decide)).trans ?_
    rw [hframe]
    rfl
  have hmiss : s2.res.misses.get (fun _ => 0) 16 = s.stitch := by rw [hs2]; exact Tab.get_put_same _ _ _ _
  have hevq : s2.evq = s.evq := by rw [hs2, hframe]; rfl
  have hproc : ∀ key, s2.procAt key = u.procAt key := fun key => by rw [hs2]; rfl
  have hlive : s2.halted = false := by
    rw [← State.halted_of_up hup, hs2]
    refine (congrArg (· == 1) (State.rd_wr_word u F.RES_HC_RETRY F.HALT_HALTED RES SEC _ 0 0 0 0 (by decide))).trans ?_
    rw [hframe]
    rfl
  refine ⟨_, hnext, ?_⟩
  cases recurs with
  | false =>
    exact ⟨(hproc 0).symm ▸ hactive, hretry, hmiss, fun key hkey => (hproc key).trans (hothers key hkey), fun _ => hevq,
      fun h => absurd (hagain.2 h) (by decide)⟩
  | true =>
    rw [if_pos rfl, State.event_of_live hlive]
    exact ⟨(hproc 0).symm ▸ hactive, hretry, hmiss, fun key hkey => (hproc key).trans (hothers key hkey), fun h => absurd (hagain.1 rfl) h,
      fun _ => ⟨_, congrArg (· ++ _) hevq, rfl⟩⟩

/-- A step of the rotation. -/
theorem rotationStep_shows (s : State) (off : Nat) (hen : s.rd F.RES_ROT_EN RES = 1) (hlcs : s.rd F.LCS SEC ∈ [1, 3, 4]) (hok : s.testOk = true)
    (hrel : s.cfg.released = true) (hdue : s.res.rotFrom + 3200000000 * s.rd F.RES_ROT_PERIOD RES ≤ s.time.run + s.clampOff off) :
    let k := s.rd F.RES_ROT_NEXT RES
    let r := s.rd F.RES_ROT_RIB RES
    ∃ t, exec (.rotationStep off) s = .next t ∧ t.rd F.RES_ROT_NEXT RES = (k + 1) % 16 ∧ t.rd F.RES_ROT_RIB RES = (r + 1) % 32
      ∧ t.res.queue = insertReq ⟨k, 3, none, none, false⟩ s.res.queue ∧ (t.ribAt r).moveReq = true ∧ t.res.rotFrom = s.time.run + s.clampOff off
      ∧ t = { s with regs := t.regs, res := t.res, ribs := t.ribs, off := t.off, clk := t.clk } := by
  intro k r
  obtain ⟨s2, hs2⟩ : ∃ s2 : State, s2 = { (((s.tick off).wr F.RES_ROT_NEXT RES ((k + 1) % 16)).wr F.RES_ROT_RIB RES ((r + 1) % 32)) with
    res := { s.res with rotFrom := s.time.run + s.clampOff off } } := ⟨_, rfl⟩
  have hguard : (s.flag F.RES_ROT_EN RES && (s.rd F.LCS SEC == 1 || s.rd F.LCS SEC == 3 || s.rd F.LCS SEC == 4) && s.testOk && s.cfg.released
      && decide (s.res.rotFrom + 3200000000 * s.rd F.RES_ROT_PERIOD RES ≤ s.time.run + s.clampOff off)) = true := by
    simp only [List.mem_cons, List.not_mem_nil, or_false] at hlcs
    simp only [State.flag_of_eq_one hen, hok, hrel, decide_eq_true hdue, Bool.and_true, Bool.true_and, Bool.or_eq_true, beq_iff_eq, or_assoc]
    exact hlcs
  have hnext : exec (.rotationStep off) s = .next (((s2.requestHandover ⟨k, 3, none, none, false⟩).requestMove r false).need [26]) := by
    rw [hs2]
    exact act_next hguard
  obtain ⟨-, hqueue, -, hrest⟩ := s2.requestHandover_shows ⟨k, 3, none, none, false⟩ (fun h => absurd h (show ¬ 3 < 3 by decide))
  obtain ⟨hframe, hres, hregs⟩ := hrest (show 3 ≤ 3 by decide)
  generalize s2.requestHandover ⟨k, 3, none, none, false⟩ = u at hnext hqueue hframe hres hregs
  obtain ⟨hclock, hwords⟩ : ClockOnly (u.requestMove r false) ((u.requestMove r false).need [26]) := State.openChain_clock _ 5 (g := 26) (by decide)
  have hmove : ((u.requestMove r false).ribAt r).moveReq = true := by
    unfold State.requestMove
    rw [State.ribAt_modRib_same]
  obtain ⟨v, hv⟩ : ∃ v : State, v = u.requestMove r false := ⟨_, rfl⟩
  have hvframe : v = { u with ribs := v.ribs } := by rw [hv]; rfl
  rw [← hv] at hnext hclock hwords hmove
  generalize v.need [26] = t at hnext hclock hwords
  have hrd : ∀ f ∈ [F.RES_ROT_NEXT, F.RES_ROT_RIB], t.rd f RES = s2.rd f RES := fun f hf => by
    have hoff : f.at RES 0 0 = 0x8014 := by
      simp only [List.mem_cons, List.not_mem_nil, or_false] at hf
      rcases hf with rfl | rfl <;> rfl
    have hu : u.reg 0x8014 = s2.reg 0x8014 :=
      (congrArg (fun x => Tab.get resetWord x 0x8014) hregs).trans (State.reg_wr_other s2 F.RES_QUEUED RES _ 0 0 (by decide))
    unfold State.rd
    rw [hoff, hwords _ (Or.inr (by decide)), ← hu, hvframe]
    rfl
  refine ⟨t, hnext, ?_, ?_, ?_, ?_, ?_, ?_⟩
  · rw [hrd _ (by simp), hs2]
    refine (State.rd_wr_field _ F.RES_ROT_RIB F.RES_ROT_NEXT _ _ _ _ _ _ _ (by decide) (by decide) (by decide) (by decide)).trans
      ((State.rd_wr_same _ F.RES_ROT_NEXT _ _ _ _ (by decide) (by decide)).trans (Nat.mod_mod _ _))
  · rw [hrd _ (by simp), hs2]
    exact (State.rd_wr_same _ F.RES_ROT_RIB _ _ _ _ (by decide) (by decide)).trans (Nat.mod_mod _ _)
  · rw [hclock, hvframe]
    dsimp only
    rw [hqueue, hs2]
  · rw [← hmove, hclock]
    rfl
  · rw [hclock, hvframe]
    dsimp only
    rw [hres, hs2]
  · rw [hclock, hvframe, hframe, hs2]
    rfl

end Sys2Proof.Machine

/-! A coupler that fails (R24 to R27): its group, then what the fault marks. -/

namespace Sys2Proof.Machine

/-- What the treatment of a marked bit time leaves: the registers aside, the groups, and the events before it. -/
structure LeavesGroups (s t : State) : Prop where
  aside : Aside s t
  groups : t.stack.groups = s.stack.groups
  evq : s.evq <+: t.evq

theorem LeavesGroups.trans {s t u : State} (h : LeavesGroups s t) (g : LeavesGroups t u) : LeavesGroups s u :=
  ⟨h.aside.trans g.aside, g.groups.trans h.groups, h.evq.trans g.evq⟩

theorem State.leavesGroups_event (s : State) (e : EvCode) (block inst : Nat) (args : List Nat) (st : Status) :
    LeavesGroups s (s.event e block inst args st) := by
  unfold State.event
  split
  · exact ⟨.refl _ s, rfl, List.prefix_refl _⟩
  · exact ⟨(Framed.refl aside s).of_same rfl rfl, rfl, List.prefix_append _ _⟩

theorem haltRest_groups (v : State) :
    let t := forN (fun n s => s.showRefout n) 8 (forEach (fun (d : DispCmd) s => s.complete d.c .securityHalt) v.host.cmds v)
    (t.stack.groups, t.evq) = (v.stack.groups, v.evq) := by
  refine forN_induct (P := fun t : State => (t.stack.groups, t.evq) = (v.stack.groups, v.evq)) (fun _ _ h => h) ?_
  exact forEach_induct (P := fun t : State => (t.stack.groups, t.evq) = (v.stack.groups, v.evq)) (fun _ _ h => h) rfl

/-- The halt leaves the groups and the events. -/
theorem State.enterHalt_groups (s : State) (cause source line : Nat) :
    ((s.enterHalt cause source line).stack.groups, (s.enterHalt cause source line).evq) = (s.stack.groups, s.evq) := by
  unfold State.enterHalt
  refine ite_eq_of (r := fun t : State => (t.stack.groups, t.evq)) rfl ?_
  exact (haltRest_groups _).trans rfl

theorem State.bumpLine_groups {s t : State} {k line : Nat} {poison : Bool} (h : s.bumpLine k line poison = some t) :
    (t.stack.groups, t.evq) = (s.stack.groups, s.evq) := by
  have hrekey : ∀ u : State, (u.showRekey k).stack.groups = u.stack.groups ∧ (u.showRekey k).evq = u.evq := fun u => by
    unfold State.showRekey
    split <;> exact ⟨rfl, rfl⟩
  unfold State.bumpLine at h
  dsimp only at h
  split at h
  · cases h
    rfl
  · split at h
    · split at h
      · cases h
      · cases h
        rw [(hrekey _).1, (hrekey _).2]
        rfl
    · cases h
      rfl

theorem State.leavesGroups_poisonLine (s : State) (k line : Nat) : LeavesGroups s (s.poisonLine k line) := by
  have hkept : ((s.poisonLine k line).stack.groups, (s.poisonLine k line).evq) = (s.stack.groups, s.evq) := by
    unfold State.poisonLine State.putLine
    split
    · exact s.enterHalt_groups _ _ _
    · next u hu =>
      have hkept := State.bumpLine_groups hu
      exact hkept
  obtain ⟨hgroups, hevq⟩ := Prod.mk.inj hkept
  exact ⟨s.putLine_aside _ _ _ _, hgroups, by rw [hevq]⟩

/-- What no spare mends is marked. -/
theorem State.markFlight_shows (s : State) (b g : Nat) (f : Flight) :
    LeavesGroups s (s.markFlight b g f)
      ∧ ∀ c, f = .control c → (∀ w ∈ s.stack.resend, ¬ (w.group = 4096 * b + g ∧ w.c = c)) →
          (s.markFlight b g f).stack.resend = s.stack.resend ++ [⟨4096 * b + g, c, false⟩] := by
  have hsame : LeavesGroups s s := ⟨.refl _ s, rfl, List.prefix_refl _⟩
  cases f with
  | idle => exact ⟨hsame, fun c h => nomatch h⟩
  | frame => exact ⟨hsame, fun c h => nomatch h⟩
  | lane l => exact ⟨⟨(Framed.refl aside s).of_same rfl rfl, rfl, List.prefix_refl _⟩, fun c h => nomatch h⟩
  | lineRead k line => exact ⟨⟨(Framed.refl aside s).of_same rfl rfl, rfl, List.prefix_refl _⟩, fun c h => nomatch h⟩
  | lineWrite k line =>
    refine ⟨?_, fun c h => nomatch h⟩
    change LeavesGroups s (if s.halted then s else (s.poisonLine k.val line.toNat).event .poison blkBOLT k.val [k.val, line.toNat] .poison)
    split
    · exact hsame
    · exact (s.leavesGroups_poisonLine _ _).trans (State.leavesGroups_event _ _ _ _ _ _)
  | control cmd =>
    unfold State.markFlight
    dsimp only
    refine ⟨?_, fun c h hnone => ?_⟩
    · split
      · have hcmd : ∀ u : State, LeavesGroups u (u.completeOpt cmd .poison) := fun u => by
          cases cmd <;> exact ⟨(Framed.refl aside u).of_same rfl rfl, rfl, List.prefix_refl _⟩
        have hdrop : LeavesGroups s { s with stack := { s.stack with
            resend := s.stack.resend.filter (fun r => !(r.group == 4096 * b + g && r.c == cmd)) } } :=
          ⟨(Framed.refl aside s).of_same rfl rfl, rfl, List.prefix_refl _⟩
        exact hdrop.trans (hcmd _)
      · exact ⟨(Framed.refl aside s).of_same rfl rfl, rfl, List.prefix_refl _⟩
    · cases h
      have hany : s.stack.resend.any (fun r => r.group == 4096 * b + g && r.c == cmd && r.again) = false :=
        List.any_eq_false.2 fun w hw => by
          have := hnone w hw
          simp only [Bool.and_eq_true, beq_iff_eq, not_and]
          exact fun h _ => absurd h this
      rw [hany]
      rfl

theorem State.groupAt_setGroup (s : State) (b g : Nat) (x : GroupSt) : (s.setGroup b g x).groupAt b g = x := Tab.get_put_same _ _ _ _

/-- A group that can no longer carry traffic is reported once. -/
theorem State.groupOut_shows (s : State) (b g : Nat) :
    let t := s.groupOut b g
    t.regs = s.regs ∧ t.stack.resend = s.stack.resend ∧ s.evq <+: t.evq ∧ ∃ o, t.groupAt b g = { s.groupAt b g with out := o } := by
  have hsame : ∀ (u : State) e block inst args, (u.event e block inst args).regs = u.regs ∧ (u.event e block inst args).stack = u.stack
      ∧ u.evq <+: (u.event e block inst args).evq := fun u e block inst args => by
    unfold State.event
    split
    · exact ⟨rfl, rfl, List.prefix_refl _⟩
    · exact ⟨rfl, rfl, List.prefix_append _ _⟩
  intro t
  obtain ⟨u, hu⟩ : ∃ u : State, u = s.setGroup b g { s.groupAt b g with out := true } := ⟨_, rfl⟩
  have hat : u.groupAt b g = { s.groupAt b g with out := true } := by rw [hu]; exact s.groupAt_setGroup b g _
  have hout : ∀ e block inst args, t = u.event e block inst args →
      t.regs = s.regs ∧ t.stack.resend = s.stack.resend ∧ s.evq <+: t.evq ∧ ∃ o, t.groupAt b g = { s.groupAt b g with out := o } := by
    intro e block inst args ht
    obtain ⟨hregs, hstack, hevq⟩ := hsame u e block inst args
    refine ⟨by rw [ht, hregs, hu]; rfl, by rw [ht, hstack, hu]; rfl, by rw [ht]; rw [hu] at hevq ⊢; exact hevq, true, ?_⟩
    rw [← hat, ht]
    unfold State.groupAt
    rw [hstack]
  have ht : t = if (s.groupAt b g).out = true ∨ (s.groupAt b g).steer.whole = true then s
      else match (groupPos b g).bind s.posPatch with
        | some k => u.event .spareExhausted blkPATCH k [b, g]
        | none => u.event .spareExhausted blkDEV b [b, g] := by
    rw [hu]
    rfl
  by_cases h : (s.groupAt b g).out = true ∨ (s.groupAt b g).steer.whole = true
  · rw [ht, if_pos h]
    exact ⟨rfl, rfl, List.prefix_refl _, (s.groupAt b g).out, rfl⟩
  · cases hp : (groupPos b g).bind s.posPatch with
    | some k => exact hout _ _ _ _ (ht.trans ((if_neg h).trans (by rw [hp])))
    | none => exact hout _ _ _ _ (ht.trans ((if_neg h).trans (by rw [hp])))

/-- A group is counted as exhausted, unless it was. -/
theorem State.exhaustGroup_shows (s : State) {b g : Nat} :
    let t := s.exhaustGroup b g
    t = { s with regs := t.regs, stack := t.stack } ∧ t.stack.resend = s.stack.resend ∧ t.groupAt b g = { s.groupAt b g with exhausted := true }
      ∧ t.rd F.BND_FAULT DEV b = s.rd F.BND_FAULT DEV b
      ∧ ((s.groupAt b g).exhausted = false → t.rd F.BND_EXH DEV b = min F.BND_EXH.max (s.rd F.BND_EXH DEV b + 1)) := by
  intro t
  obtain ⟨u, hu⟩ : ∃ u : State, u = (s.setGroup b g { s.groupAt b g with exhausted := true }).bump F.BND_EXH DEV 1 b := ⟨_, rfl⟩
  by_cases h : (s.groupAt b g).exhausted = true
  · have ht : t = s := if_pos h
    rw [ht]
    refine ⟨rfl, rfl, ?_, rfl, fun hno => absurd (h.symm.trans hno) (by decide)⟩
    rw [← h]
  · have hkept : ∃ e, t = { u with stack := { u.stack with exh := e } } := by
      have ht : t = match groupPos b g with
          | none => u
          | some p => if p ∈ u.stack.exh then u else { u with stack := { u.stack with exh := u.stack.exh ++ [p] } } := by
        rw [hu]
        exact if_neg h
      rw [ht]
      split
      · exact ⟨u.stack.exh, rfl⟩
      · split
        · exact ⟨u.stack.exh, rfl⟩
        · exact ⟨_, rfl⟩
    obtain ⟨e, he⟩ := hkept
    rw [he]
    refine ⟨by rw [hu]; rfl, by rw [hu]; rfl, by rw [hu]; exact s.groupAt_setGroup b g _, ?_, fun _ => ?_⟩
    · rw [hu]
      exact State.rd_wr_field _ F.BND_EXH F.BND_FAULT _ _ _ _ _ _ _ (by decide) (by decide) (by decide) (by decide)
    · rw [hu]
      exact State.rd_bump_at (s.setGroup b g { s.groupAt b g with exhausted := true }) F.BND_EXH DEV b (by decide) (by decide)

/-- The state in which a group has one more failed coupler, before it counts as exhausted. -/
structure OneFailed (b g c : Nat) (s u : State) : Prop where
  frame : u = { s with regs := u.regs, stack := u.stack }
  resend : u.stack.resend = s.stack.resend
  failed : (u.groupAt b g).failed = (s.groupAt b g).failed ++ [c]
  exhausted : (u.groupAt b g).exhausted = (s.groupAt b g).exhausted
  fault : u.rd F.BND_FAULT DEV b = s.rd F.BND_FAULT DEV b
  exh : u.rd F.BND_EXH DEV b = s.rd F.BND_EXH DEV b

theorem oneFailed_setGroup (s : State) (b g c : Nat) (y : GroupSt) (hf : y.failed = (s.groupAt b g).failed ++ [c])
    (he : y.exhausted = (s.groupAt b g).exhausted) : OneFailed b g c s (s.setGroup b g y) := by
  have hat := s.groupAt_setGroup b g y
  exact ⟨rfl, rfl, by rw [hat, hf], by rw [hat, he], rfl, rfl⟩

theorem OneFailed.spare {b g c : Nat} {s u : State} (h : OneFailed b g c s u) (v : Nat) : OneFailed b g c s (u.wr F.BND_SPARES_LEFT DEV v b) := by
  refine ⟨?_, h.resend, h.failed, h.exhausted, ?_, ?_⟩
  · rw [State.wr_frame, h.frame]
  · exact (State.rd_wr_field _ _ _ _ _ _ _ _ _ _ (by decide) (by decide) (by decide) (by decide)).trans h.fault
  · exact (State.rd_wr_field _ _ _ _ _ _ _ _ _ _ (by decide) (by decide) (by decide) (by decide)).trans h.exh

/-- What a failed coupler leaves of its group. -/
structure FellTo (b g c : Nat) (s t : State) : Prop where
  frame : t = { s with regs := t.regs, stack := t.stack }
  resend : t.stack.resend = s.stack.resend
  failed : (t.groupAt b g).failed = (s.groupAt b g).failed ++ [c]
  fault : t.rd F.BND_FAULT DEV b = s.rd F.BND_FAULT DEV b

theorem OneFailed.fellTo {b g c : Nat} {s u : State} (h : OneFailed b g c s u) : FellTo b g c s u := ⟨h.frame, h.resend, h.failed, h.fault⟩

/-- The group is counted as exhausted as well. -/
theorem OneFailed.exhaust {b g c : Nat} {s u : State} (h : OneFailed b g c s u) :
    FellTo b g c s (u.exhaustGroup b g) ∧ ((s.groupAt b g).exhausted = false → ((u.exhaustGroup b g).groupAt b g).exhausted = true
      ∧ (u.exhaustGroup b g).rd F.BND_EXH DEV b = min F.BND_EXH.max (s.rd F.BND_EXH DEV b + 1)) := by
  obtain ⟨hframe, hresend, hat, hfault, hexh⟩ := u.exhaustGroup_shows (b := b) (g := g)
  refine ⟨⟨?_, hresend.trans h.resend, by rw [hat, h.failed], hfault.trans h.fault⟩, fun hno => ⟨by rw [hat], ?_⟩⟩
  · rw [hframe]
    generalize (u.exhaustGroup b g).regs = x
    generalize (u.exhaustGroup b g).stack = y
    rw [h.frame]
  · rw [hexh (h.exhausted.trans hno), h.exh]

/-- One more coupler of a group has failed. -/
theorem State.couplerFails_shows (s : State) (b g c : Nat) :
    let x := s.groupAt b g
    let t := s.couplerFails b g c
    FellTo b g c s t
      ∧ (c ≠ 17 → x.spareFree = true → (t.groupAt b g).toSteer = some c ∧ (t.groupAt b g).exhausted = x.exhausted ∧ t.regs = s.regs)
      ∧ (x.toSteer = none → x.steered ≠ none → x.exhausted = false → (t.groupAt b g).exhausted = true
        ∧ t.rd F.BND_EXH DEV b = min F.BND_EXH.max (s.rd F.BND_EXH DEV b + 1)) := by
  intro x t
  have ht : t = s.couplerFails b g c := rfl
  unfold State.couplerFails at ht
  have hfell := oneFailed_setGroup s b g c { x with failed := x.failed ++ [c] } rfl rfl
  have hunsteered := oneFailed_setGroup s b g c { x with failed := x.failed ++ [c], toSteer := none } rfl rfl
  have hsteer := oneFailed_setGroup s b g c { x with failed := x.failed ++ [c], toSteer := some c } rfl rfl
  by_cases hc : c = 17
  · rw [if_pos hc] at ht
    by_cases hs : x.steered.isSome = true
    · rw [ht, if_pos hs]
      exact ⟨hfell.exhaust.1, fun h => absurd hc h, fun _ _ => hfell.exhaust.2⟩
    · rw [ht, if_neg hs]
      refine ⟨?_, fun h => absurd hc h, fun _ hsome => absurd (Option.isSome_iff_ne_none.2 hsome) hs⟩
      dsimp only
      split
      · exact (hunsteered.spare _).exhaust.1
      · exact (hunsteered.spare _).fellTo
  · rw [if_neg hc] at ht
    by_cases hfree : x.spareFree = true
    · have hat : (s.setGroup b g { x with failed := x.failed ++ [c], toSteer := some c }).groupAt b g
          = { x with failed := x.failed ++ [c], toSteer := some c } := s.groupAt_setGroup b g _
      rw [ht, if_pos hfree]
      refine ⟨hsteer.fellTo, fun _ _ => ⟨by rw [hat], by rw [hat], rfl⟩, fun _ hsome => ?_⟩
      unfold GroupSt.spareFree at hfree
      simp only [Bool.and_eq_true, Option.isNone_iff_eq_none] at hfree
      exact absurd hfree.1.1 hsome
    · rw [ht, if_neg hfree]
      by_cases hto : x.toSteer.isSome = true
      · rw [if_pos hto]
        exact ⟨hfell.fellTo, fun _ h => absurd h hfree, fun hnone => by simp [hnone] at hto⟩
      · rw [if_neg hto]
        exact ⟨hfell.exhaust.1, fun _ h => absurd h hfree, fun _ _ => hfell.exhaust.2⟩

/-- A coupler's fault. -/
theorem couplerFault_shows (id : CouplerId) (flight : Flight) (off : Nat) (s : State) :
    let b := id.b.val
    let g := id.group.toNat
    let c := id.coupler.val
    let x := s.groupAt b g
    let now := fun (t : State) => t.groupAt b g
    hasCoupler b g c = true → s.rd F.BND_TRAINED DEV b = 1 → s.halted = false → c ∉ x.failed → s.carries b g flight = true →
      ∃ t, exec (.couplerFault id.b id.group id.coupler ⟨flight, off⟩) s = .next t ∧ t.evq.take s.evq.length = s.evq
      ∧ (∃ e, t.evq[s.evq.length]? = some e ∧ e.code = 0x01 ∧ e.inst = b)
      ∧ (now t).failed = x.failed ++ [c]
      ∧ (c ≠ 17 → x.failed = [] → x.spareFree = true → (now t).toSteer = some c ∧ (now t).exhausted = x.exhausted ∧ t.regs = s.regs)
      ∧ (x.toSteer = none → x.steered ≠ none → x.exhausted = false → (now t).exhausted = true
          ∧ t.rd F.BND_EXH DEV b = min F.BND_EXH.max (s.rd F.BND_EXH DEV b + 1))
      ∧ ((now t).whole = true → t.rd F.BND_FAULT DEV b = s.rd F.BND_FAULT DEV b ∧ t.stack.resend = s.stack.resend)
      ∧ ((now t).whole = false → t.rd F.BND_FAULT DEV b = 1
          ∧ ∀ cmd, flight = .control cmd → (∀ w ∈ s.stack.resend, ¬ (w.group = 4096 * b + g ∧ w.c = cmd)) →
            t.stack.resend = s.stack.resend ++ [⟨4096 * b + g, cmd, false⟩]) := by
  intro b g c x now hhas htrained hup hnew hcarries
  obtain ⟨ev, hev, hcode, hinst⟩ : ∃ ev, ((s.tick off).event .couplerFault blkDEV b [b, g, c]).evq = s.evq ++ [ev] ∧ ev.code = 0x01 ∧ ev.inst = b := by
    rw [State.event_of_live (show (s.tick off).halted = false from hup)]
    exact ⟨_, rfl, rfl, rfl⟩
  have hevent : ((s.tick off).event .couplerFault blkDEV b [b, g, c]).regs = s.regs ∧ ((s.tick off).event .couplerFault blkDEV b [b, g, c]).stack = s.stack := by
    rw [State.event_of_live (show (s.tick off).halted = false from hup)]
    exact ⟨rfl, rfl⟩
  obtain ⟨s0, hs0⟩ : ∃ s0 : State, s0 = (s.tick off).event .couplerFault blkDEV b [b, g, c] := ⟨_, rfl⟩
  rw [← hs0] at hev hevent
  obtain ⟨hregs0, hstack0⟩ := hevent
  have hx : s0.groupAt b g = x := by unfold State.groupAt; rw [hstack0]; rfl
  have hrd0 : ∀ f, s0.rd f DEV b = s.rd f DEV b := fun f => congrArg (fun r => bitsOf f.hi f.lo (Tab.get resetWord r (f.at DEV b 0))) hregs0
  obtain ⟨hfell, hsteer, hexh⟩ := s0.couplerFails_shows b g c
  obtain ⟨s1, hs1⟩ : ∃ s1 : State, s1 = s0.couplerFails b g c := ⟨_, rfl⟩
  rw [← hs1] at hfell hsteer hexh
  rw [hx] at hsteer hexh
  have hnext : exec (.couplerFault id.b id.group id.coupler ⟨flight, off⟩) s
      = .next (if (s1.groupAt b g).whole then s1 else ((s1.wr F.BND_FAULT DEV 1 b).markFlight b g flight).groupOut b g) := by
    rw [hs1, hs0]
    refine act_next ?_
    simp only [Bool.and_eq_true, decide_eq_true_eq, Bool.not_eq_true']
    exact ⟨⟨⟨⟨hhas, State.flag_of_eq_one htrained⟩, hnew⟩, hcarries⟩, hup⟩
  have hevq1 : s1.evq = s.evq ++ [ev] := by rw [hfell.frame, hev]
  have hfailed : (s1.groupAt b g).failed = x.failed ++ [c] := by rw [hfell.failed, hx]
  have hfault1 : s1.rd F.BND_FAULT DEV b = s.rd F.BND_FAULT DEV b := hfell.fault.trans (hrd0 _)
  have hresend1 : s1.stack.resend = s.stack.resend := by rw [hfell.resend, hstack0]
  have hexh1 : x.toSteer = none → x.steered ≠ none → x.exhausted = false → (s1.groupAt b g).exhausted = true
      ∧ s1.rd F.BND_EXH DEV b = min F.BND_EXH.max (s.rd F.BND_EXH DEV b + 1) := fun h1 h2 h3 => by
    rw [← hrd0]
    exact hexh h1 h2 h3
  have htail : ∀ t : State, s1.evq <+: t.evq → t.evq.take s.evq.length = s.evq ∧ ∃ e, t.evq[s.evq.length]? = some e ∧ e.code = 0x01 ∧ e.inst = b := by
    rintro t ⟨l, hl⟩
    rw [← hl, hevq1]
    exact ⟨by simp, ev, by simp, hcode, hinst⟩
  by_cases hwhole : (s1.groupAt b g).whole = true
  · rw [if_pos hwhole] at hnext
    obtain ⟨htake, hfirst⟩ := htail s1 (List.prefix_refl _)
    refine ⟨s1, hnext, htake, hfirst, hfailed, fun h17 _ hfree => ?_, hexh1, fun _ => ⟨hfault1, hresend1⟩, fun h => absurd (hwhole.symm.trans h) (by decide)⟩
    obtain ⟨hto, hex, hregs⟩ := hsteer h17 hfree
    exact ⟨hto, hex, hregs.trans hregs0⟩
  · rw [if_neg hwhole] at hnext
    obtain ⟨hleaves, hmarked⟩ := (s1.wr F.BND_FAULT DEV 1 b).markFlight_shows b g flight
    obtain ⟨m, hm⟩ : ∃ m : State, m = (s1.wr F.BND_FAULT DEV 1 b).markFlight b g flight := ⟨_, rfl⟩
    rw [← hm] at hnext hleaves hmarked
    obtain ⟨hregs, hresend, hevq, o, hat⟩ := m.groupOut_shows b g
    obtain ⟨t, ht⟩ : ∃ t : State, t = m.groupOut b g := ⟨_, rfl⟩
    rw [← ht] at hnext hregs hresend hevq hat
    have hgroup : t.groupAt b g = { s1.groupAt b g with out := o } := by
      rw [hat]
      unfold State.groupAt
      rw [hleaves.groups]
      rfl
    have hnot : (t.groupAt b g).whole = false := by
      rw [hgroup]
      exact Bool.eq_false_iff.2 hwhole
    have hword : ∀ f, f.off = 0x380 → f.st1 = 4 → f.st2 = 0 → t.rd f DEV b = (s1.wr F.BND_FAULT DEV 1 b).rd f DEV b := fun f hoff h1 h2 => by
      have haside : aside (f.at DEV b 0) := Or.inl (by
        have := id.b.isLt
        simp only [Fld.at, hoff, h1, h2, DEV, b]
        omega)
      rw [← hleaves.aside.regs.rd haside]
      exact congrArg (fun r => bitsOf f.hi f.lo (Tab.get resetWord r (f.at DEV b 0))) hregs
    obtain ⟨htake, hfirst⟩ := htail t (hleaves.evq.trans hevq)
    refine ⟨t, hnext, htake, hfirst, (congrArg GroupSt.failed hgroup).trans hfailed, fun h17 hnone hfree => ?_, fun h1 h2 h3 => ?_,
      fun h => absurd (h.symm.trans hnot) (by decide), fun _ => ⟨?_, fun cmd hflight hwaits => ?_⟩⟩
    · refine absurd (decide_eq_true ?_) hwhole
      refine (List.length_filter_le _ _).trans ?_
      rw [hfailed, hnone]
      exact Nat.le_refl 1
    · obtain ⟨hex, hcount⟩ := hexh1 h1 h2 h3
      refine ⟨(congrArg GroupSt.exhausted hgroup).trans hex, ?_⟩
      rw [hword F.BND_EXH rfl rfl rfl, State.rd_wr_field _ _ _ _ _ _ _ _ _ _ (by decide) (by decide) (by decide) (by decide), hcount]
    · rw [hword F.BND_FAULT rfl rfl rfl, State.rd_wr_same _ _ _ _ _ _ (by decide) (by decide)]
      rfl
    · rw [hresend, hmarked cmd hflight (by
        rw [show (s1.wr F.BND_FAULT DEV 1 b).stack.resend = s.stack.resend from hresend1]
        exact hwaits)]
      exact congrArg (· ++ _) hresend1

/-- Settles O52: a request joins the queue by the priority of its cause; the event of a coupler's failure comes before what the failure then marks. -/
theorem handoverRequests : Obligations.HandoverRequests := by
  unfold Obligations.HandoverRequests
  refine ⟨fun r q hsort => ⟨insertReq_sorted r hsort, insertReq_perm r q, ?_⟩, fun c d s hd => ?_, fun k off s hon => ?_, fun off s hup => ?_,
    fun off s hen hlcs hok hrel hdue => ?_, fun id flight off s => ?_⟩
  · rintro x a b rfl hx
    exact ⟨_, insertReq_behind r x a b hsort hx⟩
  · intro p
    refine ⟨fun hspare => ?_, fun hno => ?_⟩
    · obtain ⟨-, -, -, hshow⟩ := (s.setPhase c .running).requestHandover_shows ⟨d.target % 16, 4, some p, some c, false⟩ (fun h => absurd h (show ¬ 4 < 3 by decide))
      obtain ⟨hframe, hres, hregs⟩ := hshow (by decide : 3 ≤ 4)
      refine ⟨_, (actOn_some hd).trans (congrArg Host.Outcome.next (if_pos hspare)), enters_setPhase rfl c .running ?_, hres, ?_, ?_⟩
      · rw [hframe]
      · refine (congrArg (fun x => bitsOf 22 19 (Tab.get resetWord x 0x8000)) hregs).trans ?_
        have hlen : (insertReq ⟨d.target % 16, 4, some p, some c, false⟩ s.res.queue).length = s.res.queue.length + 1 := (insertReq_perm _ _).length_eq
        refine (State.rd_wr_same (s.setPhase c .running) F.RES_QUEUED RES _ 0 0 (by decide) (by decide)).trans ?_
        rw [show (s.setPhase c .running).res.queue = s.res.queue from rfl, hlen]
        exact Nat.mod_eq_of_lt (Nat.lt_of_le_of_lt (Nat.min_le_left _ _) (by decide))
      · rw [hframe]
        rfl
    · exact ⟨_, (actOn_some hd).trans (congrArg Host.Outcome.next (if_neg hno)), ends_complete rfl c .refused [], rfl⟩
  · exact lockstepMismatch_shows s k off hon
  · exact hcLockstepMismatch_shows s off hup
  · exact rotationStep_shows s off hen hlcs hok hrel hdue
  · exact couplerFault_shows id flight off s

end Sys2Proof.Machine

/-! The scrubbers of the configuration (R446 to R448). -/

namespace Sys2Proof.Machine

/-- The patch of a position is a matter of the device's own block. -/
theorem State.posPatch_of_sameRegs {s t : State} (h : SameRegs (· < 0x1000) s t) {p : Nat} (hp : p < 18) : t.posPatch p = s.posPatch p := by
  have hword : ∀ f : Fld, f = F.POS_STATE ∨ f = F.POS_LPATCH → t.rd f DEV p = s.rd f DEV p := fun f hf => h.rd (by
    rcases hf with rfl | rfl <;> simp only [Fld.at, F.POS_STATE, F.POS_LPATCH, DEV] <;> omega)
  unfold State.posPatch
  rw [hword _ (Or.inl rfl), hword _ (Or.inr rfl)]

/-- A frame that has been read back: the lines of its patch. -/
def FabSt.readBackLines (x : FabSt) (frame : Nat) (clean : Bool) : List BusLine :=
  x.lines.map (fun b =>
    let all := driverFrames x.aCfg b.half b.line
    if ¬ b.off ∨ frame ∉ all then b else { b with need := if clean then b.need.erase frame else all })

theorem State.readBack_shows (s : State) (p frame : Nat) (clean : Bool) :
    s.readBack p frame clean = { s with fabs := (s.readBack p frame clean).fabs }
      ∧ ((∀ k, s.posPatch p = some k → (s.fabAt k).lines.all (fun b => !b.off) = true) → s.readBack p frame clean = s)
      ∧ ∀ k, s.posPatch p = some k → ((s.readBack p frame clean).fabAt k).lines = (s.fabAt k).readBackLines frame clean := by
  unfold State.readBack
  cases hp : s.posPatch p with
  | none => exact ⟨rfl, fun _ => rfl, fun k h => nomatch h⟩
  | some k =>
    by_cases hall : (s.fabAt k).lines.all (fun b => !b.off) = true
    · dsimp only
      rw [if_pos hall]
      refine ⟨rfl, fun _ => rfl, fun j hj => ?_⟩
      cases hj
      refine (List.map_id _).symm.trans (List.map_congr_left fun b hb => ?_)
      have hoff := List.all_eq_true.1 hall b hb
      exact (if_pos (Or.inl (by simpa using hoff))).symm
    · dsimp only
      rw [if_neg hall]
      refine ⟨rfl, fun h => absurd (h k rfl) hall, fun j hj => ?_⟩
      cases hj
      rw [State.fabAt_setFab_same]
      rfl

/-- What the scrubber of a resident plane does with what its frame's code finds. -/
def State.resident (s : State) (p key frame : Nat) (seen refSeen : FrameCode) : State :=
  match seen, refSeen with
  | .clean, _ => s
  | .corr, _ => (s.bump F.CFG_CORR CFG).frameHit p key
  | .uncorr, .uncorr => (s.wr F.CFG_DAMAGED CFG 1).framePoison p frame
  | .uncorr, _ => s.bump F.CFG_UNC CFG

/-- The key under which corrections of a frame are counted. -/
def frameKey (p : Pos) (upper : Bool) (place : Nat) (frame : BitVec 11) : Nat := 2 * (2048 * (4 * p.val + place) + frame.toNat) + bit upper

theorem State.frameHit_regs (s : State) (p key : Nat) : SameRegs outsidePositions s (s.frameHit p key) := by
  unfold State.frameHit State.faultPosition
  refine SameRegs.ite ?_ ((SameRegs.refl _ s).of_regs rfl)
  split
  · exact (SameRegs.refl _ s).of_regs rfl
  · exact ((SameRegs.refl _ s).of_regs rfl).trans (State.requestHandover_regs _ _)

/-- A damaged plane is reported, with a record for its position. -/
theorem State.framePoison_shows {s : State} (hup : s.halted = false) (p frame : Nat) :
    (s.framePoison p frame).regs = s.regs ∧ ∃ e, (s.framePoison p frame).evq = s.evq ++ [e] ∧ e.code = 0x13 ∧ e.inst = p := by
  unfold State.framePoison
  rw [State.event_of_live hup]
  exact ⟨rfl, _, rfl, rfl, rfl⟩

section

variable {s : State} (p : Pos) (upper : Bool) {frame : BitVec 11}

theorem scrub_guard (hphase : 8 ≤ s.rd F.ST_PHASE DEV) (hup : s.halted = false) (hstop : s.hk.stop = 0) (hframe : frame.toNat < 1800) :
    (decide (8 ≤ s.rd F.ST_PHASE DEV) && !s.halted && decide (s.hk.stop = 0) && decide (frame.toNat < 1800)) = true := by
  simp [hphase, hup, hstop, hframe]

theorem scrubActive_next (hphase : 8 ≤ s.rd F.ST_PHASE DEV) (hup : s.halted = false) (hstop : s.hk.stop = 0) (hframe : frame.toNat < 1800)
    (seen refSeen : FrameCode) : exec (.scrubFrameRead p upper .active frame seen refSeen) s
      = .next ((s.resident p.val (frameKey p upper 0 frame) frame.toNat seen refSeen).readBack p.val frame.toNat (seen == .clean)) :=
  act_next (scrub_guard hphase hup hstop hframe)

theorem scrubReference_next (hphase : 8 ≤ s.rd F.ST_PHASE DEV) (hup : s.halted = false) (hstop : s.hk.stop = 0) (hframe : frame.toNat < 1800) :
    exec (.scrubFrameRead p upper .reference frame .uncorr .uncorr) s = .next ((s.wr F.CFG_DAMAGED CFG 1).framePoison p.val frame.toNat) :=
  act_next (scrub_guard hphase hup hstop hframe)

theorem scrubStored_next (hphase : 8 ≤ s.rd F.ST_PHASE DEV) (hup : s.halted = false) (hstop : s.hk.stop = 0) (hframe : frame.toNat < 1800)
    (slot : Fin 6) (r : FrameCode) {k : Nat} (hp : s.posPatch p.val = some k) (hnvm : s.fromNvm k slot.val = false) :
    exec (.scrubFrameRead p upper (.stored slot) frame .uncorr r) s = .next ((s.wr F.DIR_VALID (PATCH p.val) 0 slot.val).framePoison p.val frame.toNat) := by
  refine (act_next (scrub_guard hphase hup hstop hframe)).trans (congrArg Host.Outcome.next ?_)
  simp only [hp]
  exact if_pos ⟨trivial, hnvm⟩

/-- The last frame of the last position ends a pass. -/
theorem scrubShadow_next (hphase : 8 ≤ s.rd F.ST_PHASE DEV) (hup : s.halted = false) (hstop : s.hk.stop = 0) (hframe : frame.toNat = 1799) (hp : p.val = 17)
    (hshadow : s.rd F.PLS_SHADOW_VALID (PATCH p.val) = 0) (a r : FrameCode) :
    exec (.scrubFrameRead p upper .shadow frame a r) s = .next (s.incr F.CFG_PASSES CFG) := by
  refine (act_next (scrub_guard hphase hup hstop (by omega))).trans (congrArg Host.Outcome.next ?_)
  refine (if_neg (Bool.eq_false_iff.1 (State.flag_of_eq_zero hshadow))).trans ?_
  exact (if_pos hframe).trans (if_pos hp)

end

/-- A count of the configuration is all that shows. -/
theorem bump_shows (s : State) (f : Fld) (h : f.lo ≤ f.hi) (h2 : f.hi < 32) :
    (s.bump f CFG).rd f CFG = min f.max (s.rd f CFG + 1) ∧ OnlyRegs [f.at CFG 0 0] s (s.bump f CFG) :=
  ⟨s.rd_bump_same f CFG h h2, (OnlyRegs.refl _ s).wr (by simp) _⟩

/-- The clauses of the scrubbers. -/
theorem scrubbing (p : Pos) (upper : Bool) (frame : BitVec 11) (s : State) (hphase : 8 ≤ s.rd F.ST_PHASE DEV) (hup : s.halted = false) (hstop : s.hk.stop = 0) :
     let quiet := ∀ k, s.posPatch p.val = some k → (s.fabAt k).lines.all (fun b => !b.off) = true
     let lost := fun (t : State) => ∃ e, t.evq = s.evq ++ [e] ∧ e.code = 0x13 ∧ e.inst = p.val
     let inRange := frame.toNat < 1800
     (inRange → quiet → ∀ r, exec (.scrubFrameRead p upper .active frame .clean r) s = .next s)
       ∧ (inRange → ∀ k r, s.posPatch p.val = some k → ∃ t, exec (.scrubFrameRead p upper .active frame .clean r) s = .next t ∧ t.regs = s.regs
           ∧ (t.fabAt k).lines = (s.fabAt k).lines.map (fun b =>
               if b.off = true ∧ frame.toNat ∈ driverFrames (s.fabAt k).aCfg b.half b.line then { b with need := b.need.erase frame.toNat } else b))
       ∧ (inRange → ∀ r, ∃ t, exec (.scrubFrameRead p upper .active frame .corr r) s = .next t
           ∧ t.rd F.CFG_CORR CFG = min F.CFG_CORR.max (s.rd F.CFG_CORR CFG + 1))
       ∧ (inRange → quiet → ∃ t, exec (.scrubFrameRead p upper .active frame .uncorr .clean) s = .next t
           ∧ t.rd F.CFG_UNC CFG = min F.CFG_UNC.max (s.rd F.CFG_UNC CFG + 1) ∧ OnlyRegs [F.CFG_UNC.at CFG 0 0] s t)
       ∧ (inRange → ∃ t, exec (.scrubFrameRead p upper .active frame .uncorr .uncorr) s = .next t ∧ t.rd F.CFG_DAMAGED CFG = 1 ∧ lost t)
       ∧ (inRange → ∃ t, exec (.scrubFrameRead p upper .reference frame .uncorr .uncorr) s = .next t ∧ t.rd F.CFG_DAMAGED CFG = 1 ∧ lost t)
       ∧ (∀ (slot : Fin 6) (r : FrameCode) (k : Nat), inRange → s.posPatch p.val = some k → s.fromNvm k slot.val = false →
           ∃ t, exec (.scrubFrameRead p upper (.stored slot) frame .uncorr r) s = .next t ∧ t.rd F.DIR_VALID (PATCH p.val) slot.val = 0 ∧ lost t)
       ∧ (frame.toNat = 1799 → p.val = 17 → s.rd F.PLS_SHADOW_VALID (PATCH p.val) = 0 → ∀ a r, ∃ t, exec (.scrubFrameRead p upper .shadow frame a r) s = .next t
           ∧ t.rd F.CFG_PASSES CFG = (s.rd F.CFG_PASSES CFG + 1) % (F.CFG_PASSES.max + 1)) := by
  intro quiet lost inRange
  have hdamaged : ((s.wr F.CFG_DAMAGED CFG 1).framePoison p.val frame.toNat).rd F.CFG_DAMAGED CFG = 1
      ∧ lost ((s.wr F.CFG_DAMAGED CFG 1).framePoison p.val frame.toNat) := by
    obtain ⟨hregs, hlost⟩ := State.framePoison_shows ((State.halted_wr s F.CFG_DAMAGED CFG 1 0 0 (by decide)).trans hup) p.val frame.toNat
    exact ⟨(congrArg (fun r => bitsOf 16 16 (Tab.get resetWord r 0x608C)) hregs).trans (State.rd_wr_same _ _ _ _ _ _ (by decide) (by decide)), hlost⟩
  refine ⟨fun hr hquiet r => ?_, fun hr k r hp => ?_, fun hr r => ?_, fun hr hquiet => ?_, fun hr => ?_, fun hr => ?_, fun slot r k hr hp hnvm => ?_,
    fun hlast hp hshadow a r => ?_⟩
  · exact (scrubActive_next p upper hphase hup hstop hr .clean r).trans (congrArg Host.Outcome.next ((s.readBack_shows p.val frame.toNat true).2.1 hquiet))
  · obtain ⟨hframe, -, hlines⟩ := s.readBack_shows p.val frame.toNat true
    refine ⟨_, scrubActive_next p upper hphase hup hstop hr .clean r, hframe ▸ rfl, (hlines k hp).trans (List.map_congr_left fun b _ => ?_)⟩
    by_cases h : b.off = true ∧ frame.toNat ∈ driverFrames (s.fabAt k).aCfg b.half b.line
    · rw [if_pos h]
      exact if_neg (by simp [h])
    · rw [if_neg h]
      exact if_pos (by rw [not_and_or] at h; exact h)
  · refine ⟨_, scrubActive_next p upper hphase hup hstop hr .corr r, ?_⟩
    obtain ⟨hframe, -, -⟩ := (s.resident p.val (frameKey p upper 0 frame) frame.toNat .corr r).readBack_shows p.val frame.toNat (FrameCode.corr == .clean)
    rw [hframe]
    have hhit : ((s.bump F.CFG_CORR CFG).frameHit p.val (frameKey p upper 0 frame)).rd F.CFG_CORR CFG = (s.bump F.CFG_CORR CFG).rd F.CFG_CORR CFG :=
      (State.frameHit_regs _ _ _).rd (by decide)
    exact hhit.trans (s.rd_bump_same _ _ (by decide) (by decide))
  · have hstill : (s.bump F.CFG_UNC CFG).readBack p.val frame.toNat false = s.bump F.CFG_UNC CFG :=
      (State.readBack_shows _ p.val frame.toNat false).2.1 (by
        have hpos : (s.bump F.CFG_UNC CFG).posPatch p.val = s.posPatch p.val := 
          State.posPatch_of_sameRegs ((SameRegs.refl _ s).wr (by decide) _) p.isLt
        rw [hpos]
        exact hquiet)
    exact ⟨_, (scrubActive_next p upper hphase hup hstop hr .uncorr .clean).trans (congrArg Host.Outcome.next hstill),
      bump_shows s F.CFG_UNC (by decide) (by decide)⟩
  · obtain ⟨hframe, -, -⟩ := ((s.wr F.CFG_DAMAGED CFG 1).framePoison p.val frame.toNat).readBack_shows p.val frame.toNat (FrameCode.uncorr == .clean)
    refine ⟨_, scrubActive_next p upper hphase hup hstop hr .uncorr .uncorr, ?_, ?_⟩
    · exact (congrArg (fun t : State => t.rd F.CFG_DAMAGED CFG) hframe).trans hdamaged.1
    · obtain ⟨e, he, hcode, hinst⟩ := hdamaged.2
      exact ⟨e, (congrArg State.evq hframe).trans he, hcode, hinst⟩
  · exact ⟨_, scrubReference_next p upper hphase hup hstop hr, hdamaged⟩
  · have hhalt : (s.wr F.DIR_VALID (PATCH p.val) 0 slot.val).halted = false := by
      rw [State.halted_wr s _ _ _ _ _ ?_]
      · exact hup
      · simp only [Fld.at, F.DIR_VALID, F.HALT_HALTED, PATCH, SEC]
        omega
    obtain ⟨hregs, hlost⟩ := State.framePoison_shows hhalt p.val frame.toNat
    refine ⟨_, scrubStored_next p upper hphase hup hstop hr slot r hp hnvm, ?_, hlost⟩
    exact (congrArg (fun x => bitsOf 31 31 (Tab.get resetWord x (F.DIR_VALID.at (PATCH p.val) slot.val 0))) hregs).trans
      (State.rd_wr_same _ _ _ _ _ _ (by decide) (by decide))
  · exact ⟨_, scrubShadow_next p upper hphase hup hstop hlast hp hshadow a r, State.rd_wr_same _ _ _ _ _ _ (by decide) (by decide)⟩

end Sys2Proof.Machine

/-! The settings and their journal (R450 to R454). -/

namespace Sys2Proof.Machine

/-- How many keys a table lists depends on no value. -/
theorem Tab.length_put {α : Type} (t : Tab α) (k : Nat) (v w : α) : (Tab.put t k v).length = (Tab.put t k w).length := by
  induction t with
  | nil => rfl
  | cons e t ih =>
    unfold Tab.put
    split
    · rfl
    · split
      · rfl
      · rw [List.length_cons, List.length_cons, ih]

/-- A value that is staged. -/
theorem State.stage_shows (s : State) (c : CmdRef) (n : Nat) (v : List Byte) (hlen : (Tab.put s.cfg.staged n none).length ≤ 256) :
    let t := s.stage c n (some v)
    Ends c .ok [] s t ∧ t.cfg.staged.get (fun _ => none) n = some (clampSetting n v)
      ∧ t.cfg.settings = s.cfg.settings ∧ ∀ m, m ≠ n → t.cfg.staged.get (fun _ => none) m = s.cfg.staged.get (fun _ => none) m := by
  intro t
  have ht : t = (({ s with cfg := { s.cfg with staged := Tab.put s.cfg.staged n (some (clampSetting n v)) } } : State).wr F.CFG_STAGED CFG
      (Tab.put s.cfg.staged n (some (clampSetting n v))).length).complete c .ok :=
    if_neg (Nat.not_lt.2 (by rw [Option.map_some, Tab.length_put s.cfg.staged n _ none]; exact hlen))
  rw [ht]
  exact ⟨ends_complete rfl c .ok [], Tab.get_put_same _ _ _ _, rfl, fun m hm => Tab.get_put_other _ _ _ hm⟩

/-- A command that is gone stays so when others pass to a phase. -/
theorem State.cmd_setPhase_none {s : State} {c : CmdRef} (h : s.cmd c = none) (d : CmdRef) (ph : Phase) : (s.setPhase d ph).cmd c = none := by
  unfold State.cmd State.setPhase at *
  rw [List.find?_eq_none] at h ⊢
  intro x hx
  obtain ⟨y, hy, rfl⟩ := List.mem_map.1 hx
  have := h y hy
  split <;> exact this

theorem State.wakeStores_shows (s : State) :
    s.wakeStores = { s with host := s.wakeStores.host, cfg := { s.cfg with storeWait := [] } } ∧ ∀ c, s.cmd c = none → s.wakeStores.cmd c = none := by
  obtain ⟨u, hu⟩ : ∃ u : State, u = forEach (fun c (s : State) => s.setPhase c .fresh) s.cfg.storeWait s := ⟨_, rfl⟩
  have hframe : u = { s with host := u.host } := by
    rw [hu]
    exact forEach_induct (P := fun t : State => t = { s with host := t.host }) (fun c t ht => by rw [ht]; rfl) rfl
  have hwake : s.wakeStores = { u with cfg := { s.cfg with storeWait := [] } } := by
    rw [hu]
    rfl
  refine ⟨?_, fun c hc => ?_⟩
  · rw [hwake, hframe]
  · rw [hwake]
    change u.cmd c = none
    rw [hu]
    exact forEach_induct (P := fun t : State => t.cmd c = none) (fun d t ht => State.cmd_setPhase_none ht d _) hc

/-- What the journal shows changes registers and the free values used. -/
theorem State.showJournal_frame (s : State) : s.showJournal = { s with regs := s.showJournal.regs, fresh := s.showJournal.fresh } := rfl

/-- A store that ends. -/
theorem storeComplete_shows {s : State} (hup : s.halted = false) {c : CmdRef} {n : Nat} (hst : s.cfg.storing = some (c, n)) :
    ∃ t, exec .storeComplete s = .next t ∧ t.cfg.storing = none
      ∧ t.cfg.staged = [] ∧ t.cfg.settings = commitStaged s.cfg.staged s.cfg.settings ∧ t.cfg.fill = s.cfg.fill + s.cfg.staged.length + 1 ∧ t.cmd c = none := by
  obtain ⟨s1, hs1⟩ : ∃ s1 : State, s1 = ({ s with
      cfg := { s.cfg with
        settings := commitStaged s.cfg.staged s.cfg.settings
        staged := []
        fill := s.cfg.fill + (s.cfg.staged.length + 1)
        seq := s.cfg.seq + (s.cfg.staged.length + 1)
        stores := s.cfg.stores + 1
        storing := none } } : State).showJournal := ⟨_, rfl⟩
  obtain ⟨s2, hs2⟩ : ∃ s2 : State, s2 = s1.complete c .ok [s.cfg.staged.length + 1, s1.rd F.CFG_FILL_KIB CFG] := ⟨_, rfl⟩
  have hnext : exec .storeComplete s = .next (if 6144 * 1024 ≤ journalBytes s2.cfg.fill then s2.wr F.CFG_COMPACTING CFG 1 else s2.wakeStores) := by
    rw [hs2, hs1]
    exact actOn_some ((if_neg (by simp [hup])).trans hst)
  have hcfg : s2.cfg.storing = none ∧ s2.cfg.staged = [] ∧ s2.cfg.settings = commitStaged s.cfg.staged s.cfg.settings
      ∧ s2.cfg.fill = s.cfg.fill + s.cfg.staged.length + 1 := by
    rw [hs2, hs1]
    exact ⟨rfl, rfl, rfl, (Nat.add_assoc _ _ _).symm⟩
  have hgone : s2.cmd c = none := by rw [hs2]; exact s1.cmd_complete c _ _
  obtain ⟨h1, h2, h3, h4⟩ := hcfg
  refine ⟨_, hnext, ?_⟩
  split
  · exact ⟨h1, h2, h3, h4, hgone⟩
  · obtain ⟨hframe, hcmds⟩ := s2.wakeStores_shows
    refine ⟨?_, ?_, ?_, ?_, hcmds c hgone⟩ <;> rw [hframe] <;> assumption

/-- The journal half into which a compaction has written. -/
def State.compacted (s : State) : State :=
  let live := s.cfg.settings.length + 1
  { s with cfg := { s.cfg with fill := live, seq := s.cfg.seq + live, gen := s.cfg.gen + 1, half := 1 - s.cfg.half } }

/-- A compaction that ends. -/
theorem compactionDone_shows {s : State} (hup : s.halted = false) (hc : s.rd F.CFG_COMPACTING CFG = 1) :
    ∃ t, exec .compactionDone s = .next t ∧ t.cfg.fill = s.cfg.settings.length + 1
      ∧ t.cfg.settings = s.cfg.settings ∧ t.cfg.half = 1 - s.cfg.half ∧ t.cfg.gen = s.cfg.gen + 1 ∧ t.rd F.CFG_COMPACTING CFG = 0 := by
  obtain ⟨u, hu⟩ : ∃ u : State, u = s.compacted.showJournal.wr F.CFG_COMPACTING CFG 0 := ⟨_, rfl⟩
  have hnext : exec .compactionDone s = .next u.wakeStores := by
    rw [hu]
    exact act_next (by simp [State.flag_of_eq_one hc, hup])
  have hshown : u.rd F.CFG_COMPACTING CFG = 0 := by
    rw [hu]
    exact State.rd_wr_same _ _ _ _ _ _ (by decide) (by decide)
  obtain ⟨hframe, -⟩ := u.wakeStores_shows
  refine ⟨_, hnext, ?_, ?_, ?_, ?_, ?_⟩
  · rw [hframe, hu]; rfl
  · rw [hframe, hu]; rfl
  · rw [hframe, hu]; rfl
  · rw [hframe, hu]; rfl
  · rw [hframe]; exact hshown

/-- Settles O50: a frame that is read clean leaves the counts, and the end of a store commits what was staged. -/
theorem scrubbingAndSettings : Obligations.ScrubbingAndSettings := by
  unfold Obligations.ScrubbingAndSettings
  refine ⟨fun p upper frame s hphase hup hstop => ?_, fun c d s hd hshow => ?_, fun c d s hd => ⟨?_, ?_, ?_⟩, fun c n s hup hst => storeComplete_shows hup hst,
    fun s hup hc => compactionDone_shows hup hc⟩
  · intro quiet lost inRange
    obtain ⟨h1, h2, h3, h4, h5, h6, h7, h8⟩ := scrubbing p upper frame s hphase hup hstop
    have hguard : (decide (8 ≤ s.rd F.ST_PHASE DEV) && !s.halted) = true := by simp [hphase, hup]
    exact ⟨h1, h2, h3, h4, h5, h6, h7, h8, ⟨_, act_next hguard, bump_shows s F.CFG_XFIX (by decide) (by decide)⟩, act_next hguard,
      ⟨_, act_next hguard, bump_shows s F.CFG_VOTE_FIX (by decide) (by decide)⟩⟩
  · intro n len
    refine ⟨fun h0 h48 hflag hlen => ?_, fun h0 hlong => ?_⟩
    · refine ⟨_, (actOn_some hd).trans (congrArg Host.Outcome.next ?_), s.stage_shows c n ((d.entry.drop 16).take len) hlen⟩
      refine (if_neg (Bool.eq_false_iff.1 hshow)).trans ((if_neg (show ¬ len = 0 by omega)).trans (if_pos ⟨Bool.eq_false_iff.1 hflag, h48⟩))
    · refine ⟨_, (actOn_some hd).trans (congrArg Host.Outcome.next ?_), enters_setPhase rfl c .reading rfl, rfl⟩
      refine (if_neg (Bool.eq_false_iff.1 hshow)).trans ((if_neg (show ¬ len = 0 by omega)).trans (if_neg ?_))
      rintro ⟨hno, hle⟩
      rcases hlong with h | h
      · exact absurd h (Nat.not_lt.2 hle)
      · exact hno h
  · intro hbusy
    have hcond : s.flag F.CFG_COMPACTING CFG = true ∨ s.cfg.storing.isSome = true := hbusy.imp_left State.flag_of_eq_one
    exact ⟨_, (actOn_some hd).trans (congrArg Host.Outcome.next (if_pos hcond)), enters_setPhase rfl c .waiting rfl, rfl⟩
  · intro hc hno hempty
    refine ⟨_, (actOn_some hd).trans (congrArg Host.Outcome.next ((if_neg ?_).trans (if_pos hempty))), ends_complete rfl c .ok _, rfl⟩
    simp [State.flag_of_eq_zero hc, hno]
  · intro hc hno hsome
    refine ⟨_, (actOn_some hd).trans (congrArg Host.Outcome.next ((if_neg ?_).trans (if_neg hsome))), enters_setPhase rfl c .running rfl, rfl⟩
    simp [State.flag_of_eq_zero hc, hno]

end Sys2Proof.Machine

/-! The phases of a handover (R460 to R466, R471). -/

namespace Sys2Proof.Machine

/-- A list that names no line fires no watch. -/
theorem State.presentLines_nil (s : State) (k : Nat) : ∃ x, s.presentLines k [] = { s with pats := x } := by
  have hfired : (List.range 8).filter (fun w => s.flag F.WATCH_EN (s.pb k) w && decide (s.rd F.WATCH_LINE (s.pb k) w ∈ ([] : List Nat))) = [] :=
    List.filter_eq_nil_iff.2 fun w _ => by simp
  have hacts : (List.range 8).filter (fun a => ([] : List Nat).any (fun w => s.rd F.WATCH_ACT (s.pb k) w != 0 && s.rd F.WATCH_ACTSLOT (s.pb k) w == a)) = [] :=
    List.filter_eq_nil_iff.2 fun a _ => by simp
  have hreleased : ∀ u : State, u.releaseActions k [] = u := fun u => by
    unfold State.releaseActions
    exact forEach_induct (P := fun t : State => t = u) (fun slot t ht => by subst ht; rfl) rfl
  have hwatches : ∃ x, s.fireWatches k [] = { s with pats := x } := by
    unfold State.fireWatches
    dsimp only
    rw [hfired, hacts]
    split
    · exact ⟨s.pats, hreleased s⟩
    · exact ⟨_, rfl⟩
  obtain ⟨x, hx⟩ := hwatches
  refine ⟨x, ?_⟩
  unfold State.presentLines
  change (if (s.fireWatches k []).armedOn k [] then (s.fireWatches k []).dueSwap k else s.fireWatches k []) = _
  rw [if_neg, hx]
  unfold State.armedOn
  split <;> simp

/-! The preparation: the state path is copied to the target. -/

theorem bankKey_inj {p b q c : Nat} (hb : b < 8) (hc : c < 8) (h : 8 * q + c = 8 * p + b) : q = p ∧ c = b := by omega

/-- The copies that the preparation begins with. -/
theorem clearCopies_shows (s : State) (pos n : Nat) :
    let t := forN (fun b (s : State) => s.setBank pos b { s.bankAt pos b with copy := [] }) n s
    t = { s with banks := t.banks } ∧ ∀ p b w, t.bankWord p b w = s.bankWord p b w ∧ t.bankPoison p b w = s.bankPoison p b w := by
  induction n with
  | zero => exact ⟨rfl, fun _ _ _ => ⟨rfl, rfl⟩⟩
  | succ n ih =>
    obtain ⟨hframe, hwords⟩ := ih
    simp only [forN]
    generalize forN _ n s = u at *
    refine ⟨by rw [hframe]; rfl, fun p b w => ?_⟩
    have hkeep : ∀ {α : Type} (f : BankSt → α), f { u.bankAt pos n with copy := [] } = f (u.bankAt pos n) →
        f ((u.setBank pos n { u.bankAt pos n with copy := [] }).bankAt p b) = f (u.bankAt p b) :=
      fun f h => State.bankAt_setBank_keeps f u pos n p b _ h
    exact ⟨(hkeep (fun x => Tab.get x.unlisted x.words w) rfl).trans (hwords p b w).1,
      (hkeep (fun x => Tab.get (fun _ => false) x.poison w) rfl).trans (hwords p b w).2⟩

/-! The transfer: the banks move to the target. -/

/-- What the target holds of a bank that is moved with no word of its copy wrong. -/
def BankSt.movedTo (x y : BankSt) : BankSt :=
  { y with words := x.words, lost := x.lost, poison := x.poison, owner := x.owner, req := x.req, qhead := x.qhead, qtail := x.qtail, qlevel := x.qlevel }

theorem State.moveBank_shows {s : State} {from_ to_ b : Nat} (hb : b < 8) (hne : from_ ≠ to_) (hcopy : (s.bankAt from_ b).copy = []) :
    s.moveBank from_ to_ b = { s with banks := (s.moveBank from_ to_ b).banks }
      ∧ ∀ p c, c < 8 → (s.moveBank from_ to_ b).bankAt p c = if p = to_ ∧ c = b then (s.bankAt from_ b).movedTo (s.bankAt to_ b) else s.bankAt p c := by
  have hcopied : (s.bankAt from_ b).copied = ((s.bankAt from_ b).words, (s.bankAt from_ b).poison) := by
    unfold BankSt.copied
    rw [hcopy]
    rfl
  have hsame : { s.bankAt from_ b with copy := [] } = s.bankAt from_ b := by rw [← hcopy]
  have hfrom : ∀ p c, c < 8 → (s.setBank from_ b { s.bankAt from_ b with copy := [] }).bankAt p c = s.bankAt p c := fun p c hc => by
    rw [State.bankAt_setBank]
    split
    · next h =>
      obtain ⟨rfl, rfl⟩ := bankKey_inj hb hc h
      exact hsame
    · rfl
  refine ⟨rfl, fun p c hc => ?_⟩
  unfold State.moveBank
  dsimp only
  rw [State.bankAt_setBank, hcopied]
  by_cases h : p = to_ ∧ c = b
  · obtain ⟨rfl, rfl⟩ := h
    rw [if_pos rfl, if_pos ⟨rfl, rfl⟩, hfrom _ _ hc]
    rfl
  · rw [if_neg h, if_neg fun hk => h (bankKey_inj hb hc hk), hfrom _ _ hc]

theorem moveBanks_shows {s : State} {from_ to_ : Nat} (hne : from_ ≠ to_) (hcopy : ∀ b, b < 8 → (s.bankAt from_ b).copy = []) {n : Nat} (hn : n ≤ 8) :
    let t := forN (fun b (s : State) => s.moveBank from_ to_ b) n s
    t = { s with banks := t.banks }
      ∧ ∀ p c, c < 8 → t.bankAt p c = if p = to_ ∧ c < n then (s.bankAt from_ c).movedTo (s.bankAt to_ c) else s.bankAt p c := by
  induction n with
  | zero => exact ⟨rfl, fun p c _ => (if_neg (by simp)).symm⟩
  | succ n ih =>
    obtain ⟨hframe, hbanks⟩ := ih (by omega)
    simp only [forN]
    generalize forN _ n s = u at *
    have hfrom : ∀ c, c < 8 → u.bankAt from_ c = s.bankAt from_ c := fun c hc => (hbanks from_ c hc).trans (if_neg fun h => hne h.1)
    obtain ⟨hframe', hbanks'⟩ := State.moveBank_shows (s := u) (b := n) (by omega) hne (by rw [hfrom n (by omega)]; exact hcopy n (by omega))
    have hto : u.bankAt to_ n = s.bankAt to_ n := (hbanks to_ n (by omega)).trans (if_neg fun h => Nat.lt_irrefl n h.2)
    refine ⟨?_, fun p c hc => ?_⟩
    · rw [hframe', hframe]
    · rw [hbanks' p c hc, hfrom n (by omega), hto, hbanks p c hc]
      by_cases hp : p = to_
      · subst hp
        rcases Nat.lt_trichotomy c n with h | h | h
        · rw [if_neg fun hk => Nat.ne_of_lt h hk.2, if_pos ⟨rfl, h⟩, if_pos ⟨rfl, by omega⟩]
        · subst h
          rw [if_pos ⟨rfl, rfl⟩, if_pos ⟨rfl, by omega⟩]
        · rw [if_neg fun hk => Nat.ne_of_gt h hk.2, if_neg fun hk => by omega, if_neg fun hk => by omega]
      · rw [if_neg fun hk => hp hk.1, if_neg fun hk => hp hk.1, if_neg fun hk => hp hk.1]

end Sys2Proof.Machine

namespace Sys2Proof.Machine

/-- A position's state reads what it was given; the other positions keep theirs. -/
theorem State.rd_setPos (s : State) {p q : Nat} (hq : q < 32) (st : Nat) :
    (s.setPos p st).rd F.POS_STATE DEV q = if q = p then st % 8 else s.rd F.POS_STATE DEV q := by
  have hshown : (s.setPos p st).rd F.POS_STATE DEV q = (s.wr F.POS_STATE DEV st p).rd F.POS_STATE DEV q := by
    have hword : ∀ {u : State} {f : Fld} {v : Nat}, f.off = 0x20 ∧ f.st1 = 0 ∧ f.st2 = 0 → (u.wr f RES v).rd F.POS_STATE DEV q = u.rd F.POS_STATE DEV q :=
      fun ⟨h1, h2, h3⟩ => State.rd_wr_word _ _ _ _ _ _ _ _ _ _ (by simp only [Fld.at, F.POS_STATE, h1, h2, h3, DEV, RES]; omega)
    unfold State.setPos State.showPositions
    rw [hword (by decide), hword (by decide), hword (by decide)]
  rw [hshown]
  split
  · next h => rw [h]; exact State.rd_wr_same _ _ _ _ _ _ (by decide) (by decide)
  · next h => exact State.rd_wr_word _ _ _ _ _ _ _ _ _ _ (by simp only [Fld.at, F.POS_STATE, DEV]; omega)

theorem State.frame_wr {s t : State} (h : t = { s with regs := t.regs }) (f : Fld) (base v i j : Nat) :
    t.wr f base v i j = { s with regs := (t.wr f base v i j).regs } := by
  rw [State.wr_frame]
  generalize (t.wr f base v i j).regs = x
  rw [h]

theorem State.frame_setPos {s t : State} (h : t = { s with regs := t.regs }) (p st : Nat) : t.setPos p st = { s with regs := (t.setPos p st).regs } := by
  unfold State.setPos State.showPositions
  exact State.frame_wr (State.frame_wr (State.frame_wr (State.frame_wr h _ _ _ _ _) _ _ _ _ _) _ _ _ _ _) _ _ _ _ _

/-- The switches of a patch name the target (R463). -/
def State.switched (s : State) (from_ to_ k : Nat) : State := ((s.wr F.LPM_PPOS DEV to_ k).setPos to_ 0).setPos from_ 3

theorem State.switched_frame (s : State) (from_ to_ k : Nat) : s.switched from_ to_ k = { s with regs := (s.switched from_ to_ k).regs } :=
  State.frame_setPos (State.frame_setPos (State.wr_frame _ _ _ _ _ _) _ _) _ _

theorem State.switched_shows (s : State) {from_ to_ k : Nat} (hf : from_ < 18) (ht : to_ < 18) (hk : k < 16) (hne : from_ ≠ to_) :
    let t := (s.switched from_ to_ k).wr F.RES_PHASE RES 3
    t.ppos k = to_ ∧ t.rd F.POS_STATE DEV to_ = 0 ∧ t.rd F.POS_STATE DEV from_ = 3 ∧ t.rd F.RES_PHASE RES = 3 := by
  intro t
  have hpos : ∀ q, q < 18 → t.rd F.POS_STATE DEV q = if q = from_ then 3 else if q = to_ then 0 else s.rd F.POS_STATE DEV q := fun q hq => by
    refine (State.rd_wr_word _ _ _ _ _ _ _ _ _ _ (by simp only [Fld.at, F.POS_STATE, F.RES_PHASE, DEV, RES]; omega)).trans ?_
    rw [State.switched, State.rd_setPos _ (by omega), State.rd_setPos _ (by omega), State.rd_wr_word _ _ _ _ _ _ _ _ _ _ (by
      simp only [Fld.at, F.POS_STATE, F.LPM_PPOS, DEV]
      omega)]
  have hppos : t.rd F.LPM_PPOS DEV k = to_ := by
    have hout : outsidePositions (F.LPM_PPOS.at DEV k 0) := Or.inl (by simp only [Fld.at, F.LPM_PPOS, DEV]; omega)
    refine (State.rd_wr_word _ _ _ _ _ _ _ _ _ _ (by simp only [Fld.at, F.LPM_PPOS, F.RES_PHASE, DEV, RES]; omega)).trans ?_
    rw [State.switched, (State.setPos_regs _ (by omega) _).rd hout, (State.setPos_regs _ (by omega) _).rd hout, State.rd_wr_same _ _ _ _ _ _ (by decide) (by decide)]
    exact Nat.mod_eq_of_lt (show to_ < 32 by omega)
  refine ⟨?_, (hpos to_ ht).trans ?_, (hpos from_ hf).trans (if_pos rfl), State.rd_wr_same _ _ _ _ _ _ (by decide) (by decide)⟩
  · unfold State.ppos
    rw [hppos]
    omega
  · rw [if_neg (Ne.symm hne), if_pos rfl]

theorem State.ownBist_has (s : State) (u : BistUnit) : (s.ownBist u).res.bists.any (fun b => b.u == u) = true := by
  unfold State.ownBist
  split
  · next h => exact h
  · simp

theorem State.ownBist_frame (s : State) (u : BistUnit) : s.ownBist u = { s with res := { s.res with bists := (s.ownBist u).res.bists } } := by
  unfold State.ownBist
  split <;> rfl

/-- What a handover leaves behind its transfer, before what waited is presented. -/
def State.transferred (s : State) (from_ to_ off : Nat) : State :=
  let s0 := s.tick off
  let s1 := { s0 with
    regs := moveBlock from_ to_ s0.regs
    eff := moveBlock from_ to_ s0.eff
    live := moveBlock from_ to_ s0.live
    capHi := moveBlock from_ to_ s0.capHi }
  forN (fun b s => s.moveBank from_ to_ b) 8 s1

/-- The state path answers again under the patch's own name. -/
def State.resumed (s : State) (from_ k : Nat) : State :=
  let s4 := (s.modProcAt (16 + k) (fun x => { x with frozen := false, stalled := false })).wr F.RES_PHASE RES 3
  let s5 := ({ s4 with res := { s4.res with drain := 0, drained := false, shown := some k } } : State).ownBist (.pos (Fin.ofNat 18 from_))
  s5.setFab k { s5.fabAt k with edge := 3 }

theorem State.resumed_shows (s : State) (from_ k : Nat) :
    let t := s.resumed from_ k
    t = { s.wr F.RES_PHASE RES 3 with procs := t.procs, res := t.res, fabs := t.fabs } ∧ (t.procAt (16 + k)).frozen = false ∧ t.res.drain = 0
      ∧ t.res.lines = s.res.lines ∧ t.res.held = s.res.held ∧ t.res.bists.any (fun b => b.u == .pos (Fin.ofNat 18 from_)) = true := by
  intro t
  obtain ⟨s4, h4⟩ : ∃ s4 : State, s4 = (s.modProcAt (16 + k) (fun x => { x with frozen := false, stalled := false })).wr F.RES_PHASE RES 3 := ⟨_, rfl⟩
  obtain ⟨u, hu⟩ : ∃ u : State, u = { s4 with res := { s4.res with drain := 0, drained := false, shown := some k } } := ⟨_, rfl⟩
  have ht : t = (u.ownBist (.pos (Fin.ofNat 18 from_))).setFab k { (u.ownBist (.pos (Fin.ofNat 18 from_))).fabAt k with edge := 3 } := by
    rw [hu, h4]
    rfl
  have hown := u.ownBist_has (.pos (Fin.ofNat 18 from_))
  have hframe := u.ownBist_frame (.pos (Fin.ofNat 18 from_))
  generalize u.ownBist (.pos (Fin.ofNat 18 from_)) = v at ht hown hframe
  have hframe4 : s4 = { s.wr F.RES_PHASE RES 3 with procs := s4.procs } := by rw [h4]; rfl
  have htv : t = { v with fabs := t.fabs } := by rw [ht]; rfl
  have hvu : v = { s.wr F.RES_PHASE RES 3 with procs := s4.procs, res := v.res } := by
    rw [hframe, hu]
    dsimp only
    rw [hframe4]
  have hres : v.res = { s.res with drain := 0, drained := false, shown := some k, bists := v.res.bists } := by
    have h4res : s4.res = s.res := by rw [hframe4]; rfl
    rw [hframe, hu]
    dsimp only
    rw [h4res]
  have hprocs : t.procs = s4.procs := by rw [htv, hvu]
  have hrest : t.res = v.res := by rw [htv]
  refine ⟨?_, ?_, ?_, ?_, ?_, ?_⟩
  · rw [htv, hvu]
  · have hproc : t.procAt (16 + k) = s4.procAt (16 + k) := by unfold State.procAt; rw [hprocs]
    have hthaw : s4.procAt (16 + k) = (s.modProcAt (16 + k) (fun x => { x with frozen := false, stalled := false })).procAt (16 + k) := by rw [h4]; rfl
    rw [hproc, hthaw, State.procAt_modSame]
  · rw [hrest, hres]
  · rw [hrest, hres]
  · rw [hrest, hres]
  · rw [hrest]
    exact hown

/-- The writes that a transfer has held land at the target. -/
def State.landHeld (s : State) (from_ to_ : Nat) : State :=
  forEach (fun (w : HeldWrite) s => s.busWrite w.src (PATCH to_ + (w.a - PATCH from_)) w.v w.be) s.res.held { s with res := { s.res with held := [] } }

theorem State.landHeld_none {s : State} (h : s.res.held = []) (from_ to_ : Nat) : s.landHeld from_ to_ = { s with res := { s.res with held := [] } } := by
  unfold State.landHeld
  rw [h]
  rfl

/-- What waited for the transfer is presented to the patch, and the writes that it held land. -/
def State.presented (s : State) (k from_ to_ : Nat) : State :=
  (((s.capRebind k).modPat k (fun x => { x with resume := s.stitch + 1 })).presentLines k s.res.lines).landHeld from_ to_

theorem State.presented_shows (s : State) (k from_ to_ : Nat) (hlines : s.res.lines = []) (hheld : s.res.held = []) :
    ∃ t, t = s.presented k from_ to_ ∧ t = { s with caps := t.caps, pats := t.pats, res := { s.res with held := [] } } := by
  obtain ⟨v, hv⟩ : ∃ v : State, v = (s.capRebind k).modPat k (fun x => { x with resume := s.stitch + 1 }) := ⟨_, rfl⟩
  have hframe : v = { s with caps := v.caps, pats := v.pats } := by rw [hv]; rfl
  obtain ⟨x, hx⟩ := v.presentLines_nil k
  have hu : s.presented k from_ to_ = ({ v with pats := x } : State).landHeld from_ to_ := by
    unfold State.presented
    rw [hlines, ← hv, hx]
  refine ⟨_, rfl, ?_⟩
  rw [hu, State.landHeld_none (by rw [hframe]; exact hheld)]
  dsimp only
  rw [hframe]

theorem rebind_next {off : Nat} {s : State} {r : HoReq} (hcur : s.res.cur = some r) (hphase : s.rd F.RES_PHASE RES = 2) (hmove : s.res.moveLeft = 0)
    (hup : s.halted = false) :
    let from_ := s.rd F.RES_FROM RES
    let to_ := s.rd F.RES_TO RES
    exec (.rebind off) s = .next ((((s.transferred from_ to_ off).switched from_ to_ r.k).resumed from_ r.k).presented r.k from_ to_) := by
  have hopt : (match s.res.cur with | some r => if s.rd F.RES_PHASE RES = 2 ∧ s.res.moveLeft = 0 ∧ ¬ s.halted then some r else none | none => none) = some r := by
    rw [hcur]
    exact if_pos ⟨hphase, hmove, by simp [hup]⟩
  exact actOn_some hopt

/-- The transfer of a handover whose patch has nothing waiting. -/
theorem rebind_shows {off : Nat} {s : State} {r : HoReq} (hup : s.halted = false) (hcur : s.res.cur = some r) (hk : r.k < 16)
    (hphase : s.rd F.RES_PHASE RES = 2) (hmove : s.res.moveLeft = 0) (hheld : s.res.held = []) (hlines : s.res.lines = [])
    (hcopy : ∀ b, b < 8 → (s.bankAt (s.rd F.RES_FROM RES) b).copy = []) (hf : s.rd F.RES_FROM RES < 18) (ht : s.rd F.RES_TO RES < 18)
    (hne : s.rd F.RES_FROM RES ≠ s.rd F.RES_TO RES) :
    let from_ := s.rd F.RES_FROM RES
    let to_ := s.rd F.RES_TO RES
    ∃ t, exec (.rebind off) s = .next t ∧ t.ppos r.k = to_ ∧ t.rd F.POS_STATE DEV to_ = 0 ∧ t.rd F.POS_STATE DEV from_ = 3
      ∧ t.rd F.RES_PHASE RES = 3 ∧ (t.procAt (16 + r.k)).frozen = false ∧ t.res.drain = 0
      ∧ (∀ b, b < 8 → (∀ w, t.bankWord to_ b w = s.bankWord from_ b w ∧ t.bankPoison to_ b w = s.bankPoison from_ b w)
          ∧ (t.bankAt to_ b).owner = (s.bankAt from_ b).owner ∧ (t.bankAt to_ b).rows = (s.bankAt to_ b).rows)
      ∧ (∀ p b, p ≠ to_ → b < 8 → p < 18 → t.bankAt p b = s.bankAt p b) ∧ t.bolts = s.bolts
      ∧ t.res.bists.any (fun b => match b.u with | .pos q => q.val == from_ | _ => false) = true := by
  intro from_ to_
  obtain ⟨s2, hs2⟩ : ∃ s2 : State, s2 = s.transferred from_ to_ off := ⟨_, rfl⟩
  have hmoved : s2 = { s.tick off with regs := s2.regs, eff := s2.eff, live := s2.live, capHi := s2.capHi, banks := s2.banks }
      ∧ ∀ p c, c < 8 → s2.bankAt p c = if p = to_ ∧ c < 8 then (s.bankAt from_ c).movedTo (s.bankAt to_ c) else s.bankAt p c := by
    obtain ⟨s1, hs1⟩ : ∃ s1 : State, s1 = { s.tick off with regs := moveBlock from_ to_ s.regs, eff := moveBlock from_ to_ s.eff,
                                                            live := moveBlock from_ to_ s.live, capHi := moveBlock from_ to_ s.capHi } := ⟨_, rfl⟩
    have hbank1 : ∀ p c, s1.bankAt p c = s.bankAt p c := fun p c => by rw [hs1]; rfl
    obtain ⟨hframe, hbanks⟩ := moveBanks_shows (s := s1) hne (fun b hb => by rw [hbank1]; exact hcopy b hb) (Nat.le_refl 8)
    have hs12 : s2 = forN (fun b (s : State) => s.moveBank from_ to_ b) 8 s1 := by rw [hs2, hs1]; rfl
    rw [← hs12] at hframe hbanks
    refine ⟨?_, fun p c hc => ?_⟩
    · rw [hframe, hs1]
    · rw [hbanks p c hc, hbank1, hbank1, hbank1]
  obtain ⟨s3, hs3⟩ : ∃ s3 : State, s3 = s2.switched from_ to_ r.k := ⟨_, rfl⟩
  obtain ⟨hppos, hto, hfrom, hthree⟩ := s2.switched_shows hf ht hk hne
  obtain ⟨s5, hs5⟩ : ∃ s5 : State, s5 = s3.resumed from_ r.k := ⟨_, rfl⟩
  obtain ⟨hframe5, hfrozen, hdrain, hlines5, hheld5, hbist⟩ := s3.resumed_shows from_ r.k
  rw [← hs3] at hppos hto hfrom hthree
  rw [← hs5] at hframe5 hfrozen hdrain hlines5 hheld5 hbist
  have hframe3 : s3 = { s2 with regs := s3.regs } := by rw [hs3]; exact s2.switched_frame _ _ _
  have hres3 : s3.res = s.res := by rw [hframe3, hmoved.1]; rfl
  obtain ⟨t, hshow, hframe⟩ := s5.presented_shows r.k from_ to_ (by rw [hlines5, hres3, hlines]) (by rw [hheld5, hres3, hheld])
  have hnext : exec (.rebind off) s = .next t := by
    rw [hshow, hs5, hs3, hs2]
    exact rebind_next hcur hphase hmove hup
  have hregs : t.regs = (s3.wr F.RES_PHASE RES 3).regs := by rw [hframe, hframe5]
  have hrd : ∀ (f : Fld) base i, t.rd f base i = (s3.wr F.RES_PHASE RES 3).rd f base i := fun f base i => by
    unfold State.rd State.reg
    rw [hregs]
  have hbanks : t.banks = s2.banks := by rw [hframe, hframe5, hframe3]; rfl
  have hbank : ∀ p c, t.bankAt p c = s2.bankAt p c := fun p c => by unfold State.bankAt; rw [hbanks]
  have hproc : t.procAt (16 + r.k) = s5.procAt (16 + r.k) := by unfold State.procAt; rw [hframe]
  have hmovedTo : ∀ b, b < 8 → t.bankAt to_ b = (s.bankAt from_ b).movedTo (s.bankAt to_ b) := fun b hb => by
    rw [hbank, hmoved.2 to_ b hb, if_pos ⟨rfl, hb⟩]
  refine ⟨t, hnext, ?_, (hrd _ _ _).trans hto, (hrd _ _ _).trans hfrom, (hrd _ _ _).trans hthree, by rw [hproc]; exact hfrozen, ?_, fun b hb => ?_,
    fun p b hp hb _ => ?_, ?_, ?_⟩
  · refine Eq.trans ?_ hppos
    unfold State.ppos
    rw [hrd]
  · rw [hframe]
    exact hdrain
  · unfold State.bankWord State.bankPoison
    rw [hmovedTo b hb]
    exact ⟨fun w => ⟨rfl, rfl⟩, rfl, rfl⟩
  · rw [hbank, hmoved.2 p b hb, if_neg fun h => hp h.1]
  · rw [hframe, hframe5, hframe3, hmoved.1]
    rfl
  · rw [hframe]
    obtain ⟨x, hx, hu⟩ := List.any_eq_true.1 hbist
    refine List.any_eq_true.2 ⟨x, hx, ?_⟩
    rw [eq_of_beq hu]
    exact beq_iff_eq.2 (Nat.mod_eq_of_lt hf)

end Sys2Proof.Machine

/-! The preparation ends. -/

namespace Sys2Proof.Machine

theorem preparationEnd_next {x : PrepEnd} {s : State} {r : HoReq} (hup : s.halted = false) (hcur : s.res.cur = some r) (hphase : s.rd F.RES_PHASE RES = 1)
    (hdue : 8 + 4 * s.res.prepLeft ≤ s.clampOff x.off) (hprep : s.res.prepared = false) :
    let pos := s.rd F.RES_FROM RES
    let s0 := forN (fun b (s : State) => s.setBank pos b { s.bankAt pos b with copy := [] }) 8 (s.tick x.off)
    let s1 := forEach (fun e (s : State) => s.copyWord pos e) x.seen s0
    exec (.preparationEnd x) s = .next { s1 with res := { s1.res with prepared := true, rotWait := if r.cause = 3 then some s1.rootNow else none } } :=
  actOn_some ((if_pos ⟨hphase, hdue, by simp [hprep], by simp [hup]⟩).trans hcur)

/-- A preparation whose copy finds every word clean changes no word. -/
theorem preparationEnd_clean {off : Nat} {s : State} {r : HoReq} (hup : s.halted = false) (hcur : s.res.cur = some r) (hphase : s.rd F.RES_PHASE RES = 1)
    (hdue : 8 + 4 * s.res.prepLeft ≤ s.clampOff off) (hprep : s.res.prepared = false) :
    ∃ t, exec (.preparationEnd ⟨off, []⟩) s = .next t ∧ t = { s.tick off with res := t.res, banks := t.banks }
      ∧ t.res = { s.res with prepared := true, rotWait := if r.cause = 3 then some (s.tick off).rootNow else none }
      ∧ ∀ p b w, t.bankWord p b w = s.bankWord p b w ∧ t.bankPoison p b w = s.bankPoison p b w := by
  have hnext := preparationEnd_next (x := ⟨off, []⟩) hup hcur hphase hdue hprep
  obtain ⟨hframe, hwords⟩ := clearCopies_shows (s.tick off) (s.rd F.RES_FROM RES) 8
  simp only [forEach] at hnext
  generalize forN _ 8 (s.tick off) = u at hnext hframe hwords
  refine ⟨_, hnext, ?_, ?_, hwords⟩
  · rw [hframe]
  · rw [hframe]
    rfl

/-! The drain ends, and the boundary behind it frees what the handover held (R464, R466). -/

theorem State.landFrames_none {s : State} (h : s.cfg.heldWrites = []) (k : Nat) : ∃ x, s.landFrames k = { s with cfg := x } := by
  unfold State.landFrames
  rw [h]
  exact ⟨_, rfl⟩

theorem State.landImages_none {s : State} (h : s.res.images = []) (k : Nat) : s.landImages k = s := by
  unfold State.landImages
  dsimp only
  rw [h]
  simp only [List.filter_nil, forEach]
  rw [← h]

/-- A patch whose handover is over, before the frames, images and commands that it held take effect. -/
def State.freed (s : State) (k : Nat) : State :=
  let s1 := (s.drainBinds k).setFab k { (s.drainBinds k).fabAt k with reqs := ((s.drainBinds k).fabAt k).reqs ++ ((s.drainBinds k).fabAt k).heldReqs, heldReqs := [] }
  { s1 with cfg := { s1.cfg with
      slotValid := s1.cfg.slotValid ++ s1.cfg.heldFrames.filter (fun (f : Nat × Nat × Nat) => f.1 == k)
      heldFrames := s1.cfg.heldFrames.filter (fun f => f.1 != k) } }

theorem State.freeHandover_freed (s : State) (k : Nat) :
    s.freeHandover k = forEach (fun d (s : State) => s.heldNow d)
      ((((s.freed k).landFrames k).landImages k).host.cmds.filter (fun (d : DispCmd) => d.phase == .held && d.target == k && d.tkind == 0))
      (((s.freed k).landFrames k).landImages k) := rfl

theorem State.freeHandover_shows {s : State} (k : Nat) (himages : s.res.images = []) (hwrites : s.cfg.heldWrites = [])
    (hcmds : ∀ d ∈ s.host.cmds, d.phase ≠ .held) :
    ∃ t, t = s.freeHandover k ∧ t = { s with stack := (s.drainBinds k).stack, fabs := t.fabs, cfg := t.cfg }
      ∧ (t.fabAt k).reqs = (s.fabAt k).reqs ++ (s.fabAt k).heldReqs := by
  obtain ⟨u, hu⟩ : ∃ u : State, u = s.freed k := ⟨_, rfl⟩
  have hframe : u = { s with stack := (s.drainBinds k).stack, fabs := u.fabs, cfg := u.cfg } := by rw [hu]; rfl
  have hreqs : (u.fabAt k).reqs = (s.fabAt k).reqs ++ (s.fabAt k).heldReqs := by
    rw [hu]
    exact congrArg FabSt.reqs (State.fabAt_setFab_same (s.drainBinds k) k _)
  obtain ⟨x, hx⟩ := State.landFrames_none (s := u) (by rw [hu]; exact hwrites) k
  have himages' : ({ u with cfg := x } : State).landImages k = { u with cfg := x } := State.landImages_none (by rw [hframe]; exact himages) k
  have hnone : ({ u with cfg := x } : State).host.cmds.filter (fun (d : DispCmd) => d.phase == .held && d.target == k && d.tkind == 0) = [] := by
    refine List.filter_eq_nil_iff.2 fun d hd => ?_
    have hmem : d ∈ s.host.cmds := by rw [hframe] at hd; exact hd
    simp [hcmds d hmem]
  refine ⟨{ u with cfg := x }, ?_, ?_, hreqs⟩
  · rw [State.freeHandover_freed, ← hu, hx, himages', hnone]
    rfl
  · dsimp only
    rw [hframe]

/-- A class that is enabled is pending once it is raised. -/
theorem bitAt_add_clear {x cls : Nat} (hcls : cls < 16) (h : bitAt x cls = false) : bitAt ((x + 2 ^ cls) % 2 ^ 16) cls = true := by
  simp only [bitAt, beq_eq_false_iff_ne, beq_iff_eq] at h ⊢
  interval_cases cls <;> omega

/-- What a processor event shows that is raised between two stitches. -/
theorem State.raiseProc_boundary (s : State) {k : Nat} (hk : k < 16) {cls : Nat} (hcls : cls < 16) :
    let t := s.raiseProc (16 + k) cls false
    t = { s with regs := t.regs } ∧ SameRegs (· < 0x20000) s t
      ∧ (bitAt (s.rd F.EVT_EN (s.pb k)) cls = true → bitAt (t.rd F.EVT_PEND (s.pb k)) cls = true) := by
  have hbase : s.seqBase (16 + k) = s.pb k := s.seqBase_p ⟨k, hk⟩
  have hhigh := s.pb_high k
  unfold State.raiseProc
  dsimp only
  rw [hbase]
  by_cases hen : bitAt (s.rd F.EVT_EN (s.pb k)) cls = true
  · rw [if_pos hen, if_neg fun h => Bool.false_ne_true h.1]
    split
    · next hpend => exact ⟨rfl, SameRegs.refl _ s, fun _ => hpend⟩
    · next hpend =>
      refine ⟨State.wr_frame _ _ _ _ _ _, (SameRegs.refl _ s).wr (by simp only [Fld.at, Nat.mul_zero, Nat.add_zero]; omega) _, fun _ => ?_⟩
      rw [State.rd_wr_same _ _ _ _ _ _ (by decide) (by decide)]
      exact bitAt_add_clear hcls (Bool.eq_false_iff.2 hpend)
  · rw [if_neg hen]
    exact ⟨rfl, SameRegs.refl _ s, fun h => absurd h hen⟩

/-- A patch is out of its handover, which the history and the events show, before what it held takes effect. -/
def State.handedOver (s : State) (r : HoReq) : State :=
  let from_ := s.rd F.RES_FROM RES
  let h := min s.res.h 63
  let n := min (s.res.drain + 1) 127
  let last := s.stitch - 1
  let w0 := from_ + 32 * s.rd F.RES_TO RES + 1024 * r.cause + 8192 * h + 524288 * n
  let s1 := ((((s.wr F.LPM_HOVER DEV 0 r.k).wr F.RES_PHASE RES 0).wr F.RES_LAST_FIRST RES s.res.first.toNat).wr F.RES_LAST_END RES last.toNat)
  let s2 := ((s1.wr F.RES_LAST_H RES h).wr F.RES_LAST_DRAIN RES n).incr F.RES_HANDOVERS RES
  let s3 := (s2.event .handover blkPATCH r.k [w0, s.res.first.toNat % 2 ^ 32, last.toNat % 2 ^ 32]).raiseProc (16 + r.k) 7 false
  { s3 with res := { s3.res with cur := none, drained := false } }

theorem State.endDrain_handedOver {s : State} {r : HoReq} (hcur : s.res.cur = some r) (hdrained : s.res.drained = true) (htest : r.test = false) :
    s.endDrain = ((s.handedOver r).freeHandover r.k).completeOpt r.c .ok := by
  unfold State.endDrain
  rw [hdrained, if_pos rfl, hcur]
  cases hc : r.c with
  | none => simp only [hc]; rfl
  | some c => simp only [hc, htest]; rfl

/-- Neither in the device's own block nor in that of the resilience registers. -/
def outsideHistory (a : Nat) : Prop := 0x1000 ≤ a ∧ (a < 0x8000 ∨ 0x9000 ≤ a)

/-- The registers of the history of handovers, once one is over. -/
theorem handedOver_history (s : State) {k : Nat} (hk : k < 16) (first last h n : Nat) :
    let s1 := (((s.wr F.LPM_HOVER DEV 0 k).wr F.RES_PHASE RES 0).wr F.RES_LAST_FIRST RES first).wr F.RES_LAST_END RES last
    let t := ((s1.wr F.RES_LAST_H RES h).wr F.RES_LAST_DRAIN RES n).incr F.RES_HANDOVERS RES
    t = { s with regs := t.regs } ∧ SameRegs outsideHistory s t ∧ t.pb k = s.pb k ∧ t.rd F.LPM_HOVER DEV k = 0 ∧ t.rd F.RES_PHASE RES = 0
      ∧ t.rd F.RES_LAST_FIRST RES = first % 2 ^ 32 ∧ t.rd F.RES_LAST_H RES = h % 64 ∧ t.rd F.RES_HANDOVERS RES = (s.rd F.RES_HANDOVERS RES + 1) % 65536 := by
  intro s1 t
  obtain ⟨v, hv⟩ : ∃ v : State, v = s.wr F.LPM_HOVER DEV 0 k := ⟨_, rfl⟩
  have hhover : v.rd F.LPM_HOVER DEV k = 0 := by rw [hv]; exact State.rd_wr_same _ _ _ _ _ _ (by decide) (by decide)
  have hcount : v.rd F.RES_HANDOVERS RES = s.rd F.RES_HANDOVERS RES := by
    rw [hv]
    exact State.rd_wr_word _ _ _ _ _ _ _ _ _ _ (by simp only [Fld.at, F.LPM_HOVER, F.RES_HANDOVERS, DEV, RES]; omega)
  have ht : t = ((((((v.wr F.RES_PHASE RES 0).wr F.RES_LAST_FIRST RES first).wr F.RES_LAST_END RES last).wr F.RES_LAST_H RES h).wr F.RES_LAST_DRAIN RES n).incr
      F.RES_HANDOVERS RES) := by rw [hv]
  have hkeep : ∀ f : Fld, f.off = 0x200 ∧ f.st1 = 4 ∧ f.st2 = 0 → t.rd f DEV k = v.rd f DEV k := fun f hf => by
    have hat : ∀ i, f.at DEV k 0 ≠ RES + i := fun i => by simp only [Fld.at, hf, DEV, RES]; omega
    rw [ht, State.incr]
    simp only [State.rd_wr_word _ _ _ _ _ _ _ _ _ _ (show f.at DEV k 0 ≠ F.RES_PHASE.at RES 0 0 from hat _),
      State.rd_wr_word _ _ _ _ _ _ _ _ _ _ (show f.at DEV k 0 ≠ F.RES_LAST_FIRST.at RES 0 0 from hat _),
      State.rd_wr_word _ _ _ _ _ _ _ _ _ _ (show f.at DEV k 0 ≠ F.RES_LAST_END.at RES 0 0 from hat _),
      State.rd_wr_word _ _ _ _ _ _ _ _ _ _ (show f.at DEV k 0 ≠ F.RES_LAST_H.at RES 0 0 from hat _),
      State.rd_wr_word _ _ _ _ _ _ _ _ _ _ (show f.at DEV k 0 ≠ F.RES_LAST_DRAIN.at RES 0 0 from hat _),
      State.rd_wr_word _ _ _ _ _ _ _ _ _ _ (show f.at DEV k 0 ≠ F.RES_HANDOVERS.at RES 0 0 from hat _)]
  have hppos : v.rd F.LPM_PPOS DEV k = s.rd F.LPM_PPOS DEV k := by
    rw [hv]
    exact State.rd_wr_field _ _ _ _ _ _ _ _ _ _ (by decide) (by decide) (by decide) (by decide)
  refine ⟨?_, ?_, ?_, (hkeep _ (by decide)).trans hhover, ?_, ?_, ?_, ?_⟩
  · exact State.frame_wr (State.frame_wr (State.frame_wr (State.frame_wr (State.frame_wr (State.frame_wr (State.wr_frame _ _ _ _ _ _) _ _ _ _ _) _ _ _ _ _)
      _ _ _ _ _) _ _ _ _ _) _ _ _ _ _) _ _ _ _ _
  · rw [ht, hv]
    exact ((((((((SameRegs.refl _ s).wr (by simp only [outsideHistory, Fld.at, F.LPM_HOVER, DEV]; omega) _).wr (by unfold outsideHistory; decide) _).wr
      (by unfold outsideHistory; decide) _).wr (by unfold outsideHistory; decide) _).wr (by unfold outsideHistory; decide) _).wr
      (by unfold outsideHistory; decide) _).wr (by unfold outsideHistory; decide) _)
  · unfold State.pb State.ppos
    rw [hkeep _ (by decide), hppos]
  · rw [ht, State.incr]
    simp (disch := decide) only [State.rd_wr_word, State.rd_wr_field, State.rd_wr_same]
    rfl
  · rw [ht, State.incr]
    simp (disch := decide) only [State.rd_wr_word, State.rd_wr_field, State.rd_wr_same]
    rfl
  · rw [ht, State.incr]
    simp (disch := decide) only [State.rd_wr_word, State.rd_wr_field, State.rd_wr_same]
    rfl
  · rw [ht, State.incr, ← hcount]
    simp (disch := decide) only [State.rd_wr_word, State.rd_wr_field, State.rd_wr_same]
    rfl

theorem State.handedOver_shows {s : State} (hup : s.halted = false) (r : HoReq) (hk : r.k < 16) :
    let t := s.handedOver r
    t = { s with regs := t.regs, evq := t.evq, res := { s.res with cur := none, drained := false } }
      ∧ t.rd F.LPM_HOVER DEV r.k = 0 ∧ t.rd F.RES_PHASE RES = 0
      ∧ t.rd F.RES_LAST_FIRST RES = s.res.first.toNat % 2 ^ 32 ∧ t.rd F.RES_LAST_H RES = min s.res.h 63
      ∧ t.rd F.RES_HANDOVERS RES = (s.rd F.RES_HANDOVERS RES + 1) % 65536
      ∧ (∃ e, t.evq = s.evq ++ [e] ∧ e.code = 0x05 ∧ e.inst = r.k)
      ∧ (bitAt (s.rd F.EVT_EN (s.pb r.k)) 7 = true → bitAt (t.rd F.EVT_PEND (s.pb r.k)) 7 = true) := by
  intro t
  obtain ⟨w, hw⟩ : ∃ w : List Nat, w = [s.rd F.RES_FROM RES + 32 * s.rd F.RES_TO RES + 1024 * r.cause + 8192 * min s.res.h 63
      + 524288 * min (s.res.drain + 1) 127, s.res.first.toNat % 2 ^ 32, (s.stitch - 1).toNat % 2 ^ 32] := ⟨_, rfl⟩
  obtain ⟨s2, hs2⟩ : ∃ s2 : State, s2 = ((((((s.wr F.LPM_HOVER DEV 0 r.k).wr F.RES_PHASE RES 0).wr F.RES_LAST_FIRST RES s.res.first.toNat).wr F.RES_LAST_END RES
      (s.stitch - 1).toNat).wr F.RES_LAST_H RES (min s.res.h 63)).wr F.RES_LAST_DRAIN RES (min (s.res.drain + 1) 127)).incr F.RES_HANDOVERS RES := ⟨_, rfl⟩
  obtain ⟨hframe, hregs, hpb, hhover, hphase, hfirst, hh, hcount⟩ :=
    handedOver_history s hk s.res.first.toNat (s.stitch - 1).toNat (min s.res.h 63) (min (s.res.drain + 1) 127)
  rw [← hs2] at hframe hregs hpb hhover hphase hfirst hh hcount
  have hlive : s2.halted = false := by
    refine Eq.trans ?_ hup
    unfold State.halted State.flag
    rw [hregs.rd (by unfold outsideHistory; decide)]
  obtain ⟨v, hv⟩ : ∃ v : State, v = s2.event .handover blkPATCH r.k w := ⟨_, rfl⟩
  have ht : t = { v.raiseProc (16 + r.k) 7 false with res := { (v.raiseProc (16 + r.k) 7 false).res with cur := none, drained := false } } := by
    rw [hv, hs2, hw]
    rfl
  obtain ⟨hframe', hregs', hpend⟩ := v.raiseProc_boundary hk (cls := 7) (by decide)
  generalize v.raiseProc (16 + r.k) 7 false = x at ht hframe' hregs' hpend
  have hvframe := hv.trans (State.event_of_live hlive _ _ _ _ _)
  have hvrd : ∀ (f : Fld) base i, v.rd f base i = s2.rd f base i := fun f base i => by rw [hvframe]; rfl
  have hvpb : v.pb r.k = s.pb r.k := by
    refine Eq.trans ?_ hpb
    unfold State.pb State.ppos
    rw [hvrd]
  have htrd : ∀ (f : Fld) base i, f.at base i 0 < 0x20000 → t.rd f base i = s2.rd f base i := fun f base i h => by
    rw [ht, ← hvrd]
    exact hregs'.rd h
  have hevq : t.evq = s.evq ++ [⟨s2.now, EvCode.handover.code, Status.ok.code, s2.devnum, blkPATCH, r.k, w.map (BitVec.ofNat 32)⟩] := by
    rw [ht]
    dsimp only
    rw [hframe', hvframe]
    dsimp only
    rw [hframe]
  refine ⟨?_, ?_, ?_, ?_, ?_, ?_, ⟨_, hevq, rfl, rfl⟩, fun hen => ?_⟩
  · rw [ht]
    dsimp only
    rw [hframe', hvframe]
    dsimp only
    rw [hframe]
  · rw [htrd _ _ _ (by simp only [Fld.at, F.LPM_HOVER, DEV]; omega), hhover]
  · rw [htrd _ _ _ (by decide), hphase]
  · rw [htrd _ _ _ (by decide), hfirst]
  · rw [htrd _ _ _ (by decide), hh]
    omega
  · rw [htrd _ _ _ (by decide), hcount]
  · rw [hvpb] at hpend
    rw [ht]
    refine hpend ?_
    rw [hvrd, hregs.rd]
    · exact hen
    · have := s.pb_high r.k
      simp only [outsideHistory, Fld.at, Nat.mul_zero, Nat.add_zero]
      omega

/-- What the boundary behind a drain leaves (R466). -/
theorem endDrain_shows {s : State} {r : HoReq} (hup : s.halted = false) (hcur : s.res.cur = some r) (hk : r.k < 16) (hdrained : s.res.drained = true)
    (htest : r.test = false) (himages : s.res.images = []) (hwrites : s.cfg.heldWrites = []) (hcmds : ∀ d ∈ s.host.cmds, d.phase ≠ .held) :
    let t := s.endDrain
    t.rd F.LPM_HOVER DEV r.k = 0 ∧ t.rd F.RES_PHASE RES = 0 ∧ t.res.cur = none
      ∧ t.rd F.RES_LAST_FIRST RES = s.res.first.toNat % 2 ^ 32 ∧ t.rd F.RES_LAST_H RES = min s.res.h 63
      ∧ t.rd F.RES_HANDOVERS RES = (s.rd F.RES_HANDOVERS RES + 1) % 65536
      ∧ (∃ e, t.evq = s.evq ++ [e] ∧ e.code = 0x05 ∧ e.inst = r.k)
      ∧ (bitAt (s.rd F.EVT_EN (s.pb r.k)) 7 = true → bitAt (t.rd F.EVT_PEND (s.pb r.k)) 7 = true)
      ∧ (∀ c, r.c = some c → Ends c .ok [] s t) ∧ (r.c = none → t.host.done = s.host.done)
      ∧ t.stack.heldBinds = s.stack.heldBinds.filter (fun b => b.k != r.k)
      ∧ (s.stack.binds = [] → s.stack.heldBinds = [] → t.stack.binds = [])
      ∧ (t.fabAt r.k).reqs = (s.fabAt r.k).reqs ++ (s.fabAt r.k).heldReqs ∧ t.banks = s.banks ∧ t.bolts = s.bolts := by
  intro t
  obtain ⟨hframe, hhover, hphase, hfirst, hh, hcount, hevent, hpend⟩ := s.handedOver_shows hup r hk
  obtain ⟨u, hu⟩ : ∃ u : State, u = s.handedOver r := ⟨_, rfl⟩
  rw [← hu] at hframe hhover hphase hfirst hh hcount hevent hpend
  have hures : u.res = { s.res with cur := none, drained := false } := by rw [hframe]
  have hucfg : u.cfg = s.cfg := by rw [hframe]
  have huhost : u.host = s.host := by rw [hframe]
  have hustack : u.stack = s.stack := by rw [hframe]
  have hufab : u.fabAt r.k = s.fabAt r.k := by unfold State.fabAt; rw [hframe]
  obtain ⟨v, hv, hvframe, hreqs⟩ := State.freeHandover_shows (s := u) r.k (by rw [hures]; exact himages) (by rw [hucfg]; exact hwrites)
    (by rw [huhost]; exact hcmds)
  have ht : t = v.completeOpt r.c .ok := by rw [hv, hu]; exact State.endDrain_handedOver hcur hdrained htest
  have htframe : t = { v with host := t.host } := by
    rw [ht]
    cases r.c <;> rfl
  have hvhost : v.host = s.host := by rw [hvframe]; exact huhost
  have htu : t = { u with stack := (u.drainBinds r.k).stack, fabs := v.fabs, cfg := v.cfg, host := t.host } := htframe.trans (by rw [hvframe])
  have hregs : t.regs = u.regs := by rw [htu]
  have hrd : ∀ (f : Fld) base i, t.rd f base i = u.rd f base i := fun f base i => by
    unfold State.rd State.reg
    rw [hregs]
  have hstack : t.stack = (u.drainBinds r.k).stack := by rw [htu]
  have hfab : t.fabAt r.k = v.fabAt r.k := by unfold State.fabAt; rw [htframe]
  have hevq : t.evq = u.evq := by rw [htu]
  refine ⟨(hrd _ _ _).trans hhover, (hrd _ _ _).trans hphase, by rw [htu, hures], (hrd _ _ _).trans hfirst, (hrd _ _ _).trans hh, (hrd _ _ _).trans hcount,
    by rw [hevq]; exact hevent, fun hen => by rw [hrd]; exact hpend hen, fun c hc => ?_, fun hc => ?_, ?_, fun hbinds hheld => ?_, ?_, ?_, ?_⟩
  · rw [ht, hc]
    exact ends_complete hvhost c .ok []
  · rw [ht, hc, ← hvhost]
    rfl
  · rw [hstack, ← hustack]
    rfl
  · rw [hstack]
    change forEach insertBind (u.stack.heldBinds.filter (fun b => b.k == r.k)) u.stack.binds = []
    rw [hustack, hbinds, hheld]
    rfl
  · rw [hfab, hreqs, hufab]
  · rw [htu, hframe]
  · rw [htu, hframe]

/-! A rotation that finds no quiet window is given up (R471). -/

theorem rotWaitExpiry_shows {off w : Nat} {s : State} {r : HoReq} (hup : s.halted = false) (hcur : s.res.cur = some r) (hwait : s.res.rotWait = some w)
    (hdue : w + 3200000000 * s.rd F.RES_ROT_WAIT RES ≤ s.time.run + s.clampOff off) (hcause : r.cause = 3) (hc : r.c = none)
    (hto : s.rd F.RES_TO RES < 18) :
    ∃ t, exec (.rotWaitExpiry off) s = .next t ∧ t.res.cur = none ∧ t.res.rotWait = none ∧ t.rd F.RES_PHASE RES = 0
      ∧ t.rd F.POS_STATE DEV (s.rd F.RES_TO RES) = 1 ∧ t.rd F.RES_ROT_SKIPPED RES = min F.RES_ROT_SKIPPED.max (s.rd F.RES_ROT_SKIPPED RES + 1)
      ∧ t = { s with regs := t.regs, res := t.res, off := t.off } := by
  have hmay : ((match s.res.rotWait with
      | some t => decide (t + 3200000000 * s.rd F.RES_ROT_WAIT RES ≤ s.time.run + s.clampOff off)
      | none => false) && !s.halted) = true := by
    rw [hwait, hup]
    exact Bool.and_eq_true_iff.2 ⟨decide_eq_true hdue, rfl⟩
  obtain ⟨p, hp⟩ : ∃ p, p = s.rd F.RES_TO RES := ⟨_, rfl⟩
  rw [← hp] at hto
  obtain ⟨u, hu⟩ : ∃ u : State, u = (s.tick off).setPos p 1 := ⟨_, rfl⟩
  have hskip : u.rd F.RES_ROT_SKIPPED RES = s.rd F.RES_ROT_SKIPPED RES := by
    rw [hu]
    unfold State.setPos State.showPositions
    simp (disch := decide) only [State.rd_wr_word]
    exact State.rd_wr_word (s.tick off) _ _ _ _ _ _ _ _ _ (by simp only [Fld.at, F.POS_STATE, F.RES_ROT_SKIPPED, DEV, RES]; omega)
  have hgive : (s.tick off).abandonPrep = State.bump { u.wr F.RES_PHASE RES 0 with
      res := { s.res with cur := none, prepared := false, prepLeft := 0, rotWait := none, bists := s.res.bists.filter (fun b => r.c.isNone || b.c != r.c) } }
      F.RES_ROT_SKIPPED RES := by
    have hcur' : (s.tick off).res.cur = some r := hcur
    unfold State.abandonPrep
    rw [hcur']
    simp only [hcause, hc, if_true]
    rw [hu, hp]
    rfl
  refine ⟨_, act_next hmay, ?_⟩
  rw [hgive]
  refine ⟨rfl, rfl, ?_, ?_, ?_, ?_⟩
  · exact (State.rd_bump_word _ _ _ _ (by decide)).trans (State.rd_wr_same _ _ _ _ _ _ (by decide) (by decide))
  · have hpos : (u.wr F.RES_PHASE RES 0).rd F.POS_STATE DEV p = 1 := by
      rw [State.rd_wr_word _ _ _ _ _ _ _ _ _ _ (by simp only [Fld.at, F.POS_STATE, F.RES_PHASE, DEV, RES]; omega), hu, State.rd_setPos _ (by omega), if_pos rfl]
    rw [← hp]
    exact (State.rd_wr_word _ _ _ _ _ _ _ _ _ _ (by simp only [Fld.at, F.POS_STATE, F.RES_ROT_SKIPPED, DEV, RES]; omega)).trans hpos
  · refine (State.rd_bump_same _ _ _ (by decide) (by decide)).trans ?_
    rw [← hskip]
    exact congrArg (fun n => min F.RES_ROT_SKIPPED.max (n + 1)) (State.rd_wr_word u _ _ _ _ _ _ _ _ _ (by decide))
  · have hframe : u = { s.tick off with regs := u.regs } := by
      rw [hu]
      exact State.frame_setPos rfl p 1
    rw [hframe]
    rfl

/-- Settles O53: each phase of a handover acts on one stage of its state, and what a stage leaves alone is read off that stage's frame. -/
theorem handoverPhases : Obligations.HandoverPhases := by
  unfold Obligations.HandoverPhases
  intro off s r hup hcur hk from_ to_
  refine ⟨fun hphase hdue hprep => ⟨preparationEnd_clean hup hcur hphase hdue hprep, fun seen => ⟨_, preparationEnd_next hup hcur hphase hdue hprep, rfl⟩⟩,
    fun hphase hmove hheld hlines hcopy hf ht hne => rebind_shows hup hcur hk hphase hmove hheld hlines hcopy hf ht hne, fun hphase hdrained hgone => ?_,
    fun hdrained htest himages hwrites hcmds => endDrain_shows hup hcur hk hdrained htest himages hwrites hcmds,
    fun w hwait hdue hcause hc hto => rotWaitExpiry_shows hup hcur hwait hdue hcause hc hto⟩
  have hopt : (if s.rd F.RES_PHASE RES = 3 ∧ ¬ s.res.drained ∧ ¬ s.halted then s.res.cur else none) = some r :=
    (if_pos ⟨hphase, by simp [hdrained], by simp [hup]⟩).trans hcur
  exact (actOn_some hopt).trans (congrArg Host.Outcome.next (if_pos hgone))

end Sys2Proof.Machine

/-! A window that closes behind the depth of its capture, and a record whose write halts the device. -/

namespace Sys2Proof.Machine

/-- A unit of a slot with no byte and no verdict. -/
def emptyUnit (slot : Nat) (arriving : Bool) : CapUnit :=
  { slot := slot, unit := 0, lane := 0, ts := ⟨0, 0, false, false⟩, kind := 0, body := [], ctl := [], chars := false, os := false, fec := false
    link := false, disc := false, codeErr := false, cont := false, fecSym := 0, chk := 0, strip := 0, arriving := arriving, verdict := none
    out := false, due := 0, closed := !arriving, live := true, novd := false }

/-- A capture in POST that has placed its depth, of no record; the window of its unit of slot 0 has closed while one arrives on slot 1. -/
def windowBehindPost : State :=
  (lockedDevice.wr F.CAPS_STATE (PATCH 0) 2).modCap 0 (fun x => { x with units := [emptyUnit 0 false, emptyUnit 1 true] })

@[simp] theorem State.capAt_modCap_same (s : State) (k : Nat) (f : CapSt → CapSt) : (s.modCap k f).capAt k = f (s.capAt k) := Tab.get_put_same _ _ _ _

@[simp] theorem State.capAt_showCap (s : State) (k m : Nat) : (s.showCap k).capAt m = s.capAt m := by
  unfold State.showCap
  dsimp only
  split <;> rfl

/-- The cuts that a stop makes in the chunks of the slots change the engines' cuts alone. -/
theorem stopCap_cuts (s : State) (k n : Nat) :
    let t := forN (fun slot (s : State) => match s.slotLane k slot with | some l => s.streamCut k slot l | none => s) n s
    t = { s with caps := t.caps } ∧ (t.capAt k).units = (s.capAt k).units := by
  induction n with
  | zero => exact ⟨rfl, rfl⟩
  | succ n ih =>
    simp only [forN]
    generalize forN _ n s = u at ih ⊢
    obtain ⟨hframe, hunits⟩ := ih
    have hunits' : ∀ f : CapSt → CapSt, (f (u.capAt k)).units = (u.capAt k).units → ((u.modCap k f).capAt k).units = (u.capAt k).units := fun f h => by
      rw [State.capAt_modCap_same, h]
    have hcut : ∀ l, u.streamCut k n l = { u with caps := (u.streamCut k n l).caps } ∧ ((u.streamCut k n l).capAt k).units = (u.capAt k).units := fun l => by
      unfold State.streamCut
      split
      · exact ⟨rfl, hunits' _ rfl⟩
      · exact ⟨rfl, rfl⟩
    split
    · next l _ =>
      refine ⟨?_, (hcut l).2.trans hunits⟩
      rw [(hcut l).1, hframe]
    · exact ⟨hframe, hunits⟩

/-- A stop of a capture: the units that are arriving are not captured (R253). -/
theorem stopCap_units (s : State) (k reason : Nat) :
    (s.stopCap k reason).banks = s.banks
      ∧ ((s.stopCap k reason).capAt k).units = (s.capAt k).units.map (fun u => if u.arriving then { u with live := false } else u) := by
  obtain ⟨hframe, hunits⟩ := stopCap_cuts s k 16
  unfold State.stopCap
  dsimp only
  generalize forN _ 16 s = t at hframe hunits ⊢
  have hstop : ∀ (f : CapSt → CapSt) (b b' : Nat), ((((t.modCap k f).wr F.CAPS_STATE b 3).wr F.CAPS_STOP_REASON b' reason).capAt k).units = (f (t.capAt k)).units :=
    fun f b b' => congrArg CapSt.units (State.capAt_modCap_same t k f)
  refine ⟨?_, (hstop _ _ _).trans ?_⟩
  · change t.banks = s.banks
    rw [hframe]
  · dsimp only
    rw [hunits]

theorem stagingSize_of_no_banks {s : State} (h : s.banks = []) (k : Nat) : s.stagingSize k = 0 := by
  have hnone : s.capBanks k = 0 := by
    unfold State.capBanks State.bankAt
    rw [h]
    rfl
  unfold State.stagingSize
  rw [hnone, Nat.zero_sub, Nat.zero_mul]

/-- A record that comes once POST_DEPTH has been placed ends its capture, and is lost where the engine owns no bank. -/
theorem enqueue_behindPost {s : State} {k : Nat} (r : RecInfo) (hpost : s.postReached k = true) (hmode : (s.capAt k).cfg.mode ≠ 2) (hbanks : s.banks = []) :
    ((s.enqueue k r).capAt k).units = (s.capAt k).units.map (fun u => if u.arriving then { u with live := false } else u) := by
  obtain ⟨hkept, hunits⟩ := stopCap_units s k 3
  have hdone : s.postDone k = s.stopCap k 3 := if_neg hmode
  unfold State.enqueue
  dsimp only
  rw [if_pos hpost, hdone, if_pos (by rw [stagingSize_of_no_banks (hkept.trans hbanks)]; unfold recordSize ceilDiv; omega)]
  exact (congrArg CapSt.units (State.capAt_modCap_same _ k _)).trans hunits

/-- Refutes O30: a unit that is settled once POST_DEPTH has been placed finds the capture done, which ends before the unit's record would enter
(R253, R255), so that in `windowBehindPost` the unit that still arrives is no longer captured; the statement has it unchanged. -/
theorem not_verdictsAndRecords : ¬ Obligations.VerdictsAndRecords := by
  unfold Obligations.VerdictsAndRecords
  rintro ⟨-, h⟩
  obtain ⟨-, -, hclose, -⟩ := h 0 0 windowBehindPost
  obtain ⟨-, -, hunits⟩ := hclose (emptyUnit 0 false) (by decide) (by decide) (by decide) (by decide)
  let s1 := windowBehindPost.modCap 0 (fun x => { x with units := [emptyUnit 1 true] })
  let s2 := (s1.liveBump F.CCNT_DEFAULTED (s1.pb 0)).liveBump F.CCNT_KEPT (s1.pb 0)
  let r : RecInfo := ⟨0, 0, ⟨0, 0, false, false⟩, 0, 0, false, 0, [], 0, 0, 0, false⟩
  have hsettled : windowBehindPost.closeWindows 0 = (s2.enqueue 0 r).showCap 0 := by
    have hover : (windowBehindPost.capAt 0).units.filter (fun u => windowBehindPost.windowOver u) = [emptyUnit 0 false] := by decide
    have hloop : ∀ (f : CapUnit → State → State) (s : State),
        forN (fun slot s => forEach (fun u s => if u.slot = slot ∧ ¬ u.out then f u s else s) [emptyUnit 0 false] s) 16 s = f (emptyUnit 0 false) s :=
      fun _ _ => rfl
    have hleft : windowBehindPost.modCap 0 (fun x => { x with units := x.units.filter (fun u => !windowBehindPost.windowOver u) }) = s1 := rfl
    unfold State.closeWindows
    rw [if_neg (by decide)]
    dsimp only
    rw [hover, if_neg (by decide), hleft, hloop]
    rfl
  have hdead := enqueue_behindPost (s := s2) (k := 0) r (by decide) (by decide) (by decide)
  have hunits := (congrArg (fun t : State => (t.capAt 0).units) hsettled).symm.trans hunits
  have hunits : ((s2.enqueue 0 r).capAt 0).units = [emptyUnit 1 true] := (congrArg CapSt.units (State.capAt_showCap _ _ _)).symm.trans hunits
  exact absurd ((congrArg (List.map CapUnit.live) hdead).symm.trans (congrArg (List.map CapUnit.live) hunits)) (by decide)

/-- Two records of one line wait for a bolt whose first line has come to the end of its write counter a second time in one epoch. -/
def recordsBeforeRunout : State :=
  let r : CapRec := ⟨0, List.replicate 64 0, 0, 0, 0, 0, none, 0, 0, Placing.none⟩
  let s := (lockedDevice.wr F.BOLT_RUNOUT (BOLT 0) 1).setMeta 0 0 ⟨2 ^ 28 - 1, false, false⟩
  s.modCap 0 (fun x => { x with queue := [r, r] })

/-- Refutes O31: a record's write that finds its line's counter run out halts the device (R355), which empties every capture engine (R357), so
that in `recordsBeforeRunout` no record is left in the queue; the statement has the second one left in it. -/
theorem not_captureControl : ¬ Obligations.CaptureControl := by
  unfold Obligations.CaptureControl
  rintro ⟨-, h⟩
  obtain ⟨hwrite, -⟩ := h 0 0 recordsBeforeRunout (by decide)
  obtain ⟨t, ht, hqueue, -⟩ := hwrite _ _ (by decide) rfl
  have hempty : (t.capAt 0).queue.length = 0 :=
    of_decide_eq_true (of_leaves (p := fun t => decide ((t.capAt 0).queue.length = 0)) (by decide) ht)
  exact absurd ((congrArg List.length hqueue).symm.trans hempty) (by decide)

end Sys2Proof.Machine

/-! The threads of a pattern engine: what a step of one writes (R274 to R277). -/

namespace Sys2Proof.Machine

/-- Registers and processors differ, of the registers only those at the head of the block of patch `k`. -/
structure HeadStep (k : Nat) (s t : State) : Prop where
  frame : t = { s with regs := t.regs, procs := t.procs }
  regs : SameRegs (fun a => a < s.pb k ∨ s.pb k + 0x20 ≤ a) s t

namespace HeadStep

variable {k : Nat} {s t : State}

theorem refl (k : Nat) (s : State) : HeadStep k s s := ⟨rfl, SameRegs.refl _ s⟩

theorem wr (h : HeadStep k s t) {f : Fld} (hf : f.off < 0x20) (v : Nat) : HeadStep k s (t.wr f (s.pb k) v) := by
  refine ⟨?_, h.regs.wr (fun hp => ?_) v⟩
  · rw [State.wr_frame]
    generalize (t.wr f (s.pb k) v).regs = x
    rw [h.frame]
  · simp only [Fld.at, Nat.mul_zero, Nat.add_zero] at hp
    omega

theorem modProcAt (h : HeadStep k s t) (key : Nat) (f : ProcSt → ProcSt) : HeadStep k s (t.modProcAt key f) := ⟨by rw [h.frame]; rfl, h.regs.of_regs rfl⟩

theorem beginProgram (h : HeadStep k s t) (key c : Nat) : HeadStep k s (t.beginProgram key c) := by
  unfold State.beginProgram
  exact h.modProcAt _ _

theorem pb (h : HeadStep k s t) (hk : k < 16) : t.pb k = s.pb k := by
  have hb := s.pb_high k
  unfold State.pb State.ppos
  rw [h.regs.rd (Or.inl (by simp only [Fld.at, F.LPM_PPOS, DEV]; omega))]

end HeadStep

/-- What an event shows that is raised in the sequencer of a patch within a stitch. -/
theorem State.raiseP_head (s : State) {k : Nat} (hk : k < 16) (cls : Nat) : HeadStep k s (s.raiseP k cls) := by
  have hbase : s.seqBase (16 + k) = s.pb k := s.seqBase_p ⟨k, hk⟩
  have hpend : HeadStep k s (if bitAt (s.rd F.EVT_PEND (s.pb k)) cls then s else s.wr F.EVT_PEND (s.pb k) (s.rd F.EVT_PEND (s.pb k) + 2 ^ cls)) := by
    split
    · exact .refl k s
    · exact (HeadStep.refl k s).wr (by decide) _
  unfold State.raiseP State.raiseProc
  dsimp only
  rw [hbase]
  generalize (if bitAt (s.rd F.EVT_PEND (s.pb k)) cls then s else s.wr F.EVT_PEND (s.pb k) (s.rd F.EVT_PEND (s.pb k) + 2 ^ cls)) = u at hpend ⊢
  have hsel : HeadStep k s (u.switchBank (16 + k)) := by
    have hbase' : u.seqBase (16 + k) = s.pb k := (u.seqBase_p ⟨k, hk⟩).trans (hpend.pb hk)
    unfold State.switchBank State.bump
    dsimp only
    rw [hbase']
    have hcount := (hpend.wr (f := F.BANK) (by decide) 1).wr (f := F.ABANDON) (by decide)
      (satAdd F.ABANDON.max ((u.wr F.BANK (s.pb k) 1).rd F.ABANDON (s.pb k)) 1)
    split
    · exact (hcount.modProcAt _ _).beginProgram _ _
    · exact hcount.modProcAt _ _
  split
  · split
    · exact hsel
    · exact hpend
  · exact .refl k s

/-- Registers, engines and processors differ, of the engines only that of patch `k`, and of the registers the first of its block, the word of
thread `i` and those in `l`. -/
structure ThreadStep (l : List Nat) (k i : Nat) (s t : State) : Prop where
  frame : t = { s with regs := t.regs, pats := t.pats, procs := t.procs }
  engines : ∀ m, m ≠ k → t.patAt m = s.patAt m
  regs : SameRegs (fun a => a ≠ s.pb k + 0x630 + 4 * i ∧ a ∉ l ∧ (a < s.pb k ∨ s.pb k + 0x20 ≤ a)) s t

theorem patAt_modPat_same (s : State) (k : Nat) (f : PatSt → PatSt) : (s.modPat k f).patAt k = f (s.patAt k) := Tab.get_put_same _ _ _ _

theorem patAt_modPat_other (s : State) {k m : Nat} (h : m ≠ k) (f : PatSt → PatSt) : (s.modPat k f).patAt m = s.patAt m := Tab.get_put_other _ _ _ h

theorem thread_modThread_same (s : State) (k i : Nat) (f : ThreadSt → ThreadSt) :
    ((s.modThread k i f).patAt k).thread i = f ((s.patAt k).thread i) := by
  unfold State.modThread PatSt.thread
  rw [patAt_modPat_same]
  exact Tab.get_put_same _ _ _ _

theorem queues_modThread (s : State) (k i : Nat) (f : ThreadSt → ThreadSt) : ((s.modThread k i f).patAt k).queues = (s.patAt k).queues := by
  unfold State.modThread
  rw [patAt_modPat_same]

namespace ThreadStep

variable {l : List Nat} {k i : Nat} {s t u : State}

theorem refl (l : List Nat) (k i : Nat) (s : State) : ThreadStep l k i s s := ⟨rfl, fun _ _ => rfl, SameRegs.refl _ s⟩

theorem ppos (h : ThreadStep l k i s t) (hl : ∀ a ∈ l, 0x20000 ≤ a) (hk : k < 16) : t.ppos k = s.ppos k := by
  have hb := s.pb_high k
  have hat : F.LPM_PPOS.at DEV k 0 < 0x20000 := by simp only [Fld.at, F.LPM_PPOS, DEV]; omega
  unfold State.ppos
  rw [h.regs.rd ⟨by omega, fun hm => by have := hl _ hm; omega, Or.inl (by omega)⟩]

theorem pb (h : ThreadStep l k i s t) (hl : ∀ a ∈ l, 0x20000 ≤ a) (hk : k < 16) : t.pb k = s.pb k := by
  unfold State.pb
  rw [h.ppos hl hk]

theorem trans (h : ThreadStep l k i s t) (g : ThreadStep l k i t u) (hl : ∀ a ∈ l, 0x20000 ≤ a) (hk : k < 16) : ThreadStep l k i s u := by
  refine ⟨?_, fun m hm => (g.engines m hm).trans (h.engines m hm), fun a ha => ?_⟩
  · rw [g.frame, h.frame]
  · rw [g.regs a (by rw [h.pb hl hk]; exact ha)]
    exact h.regs a ha

/-- Writes of the words named, and of the thread's own. -/
theorem wr (h : ThreadStep l k i s t) {f : Fld} {base j : Nat} (hat : f.at base j 0 = s.pb k + 0x630 + 4 * i ∨ f.at base j 0 ∈ l) (v : Nat) :
    ThreadStep l k i s (t.wr f base v j) := by
  refine ⟨?_, h.engines, h.regs.wr (fun hp => hat.elim hp.1 hp.2.1) v⟩
  rw [State.wr_frame]
  generalize (t.wr f base v j).regs = x
  rw [h.frame]

theorem modPat (h : ThreadStep l k i s t) (f : PatSt → PatSt) : ThreadStep l k i s (t.modPat k f) :=
  ⟨by rw [h.frame]; rfl, fun m hm => (patAt_modPat_other t hm f).trans (h.engines m hm), h.regs.of_regs rfl⟩

theorem modThread (h : ThreadStep l k i s t) (f : ThreadSt → ThreadSt) : ThreadStep l k i s (t.modThread k i f) := h.modPat _

theorem modProcAt (h : ThreadStep l k i s t) (key : Nat) (f : ProcSt → ProcSt) : ThreadStep l k i s (t.modProcAt key f) :=
  ⟨by rw [h.frame]; rfl, h.engines, h.regs.of_regs rfl⟩

theorem raiseP (h : ThreadStep l k i s t) (hl : ∀ a ∈ l, 0x20000 ≤ a) (hk : k < 16) (cls : Nat) : ThreadStep l k i s (t.raiseP k cls) := by
  have hhead := t.raiseP_head hk cls
  refine h.trans ⟨?_, fun m _ => ?_, fun a ha => hhead.regs a ha.2.2⟩ hl hk
  · rw [hhead.frame]
  · unfold State.patAt
    rw [hhead.frame]

/-- A register that the step leaves. -/
theorem rd (h : ThreadStep l k i s t) {f : Fld} {j : Nat} (hne : f.at (s.pb k) j 0 ≠ s.pb k + 0x630 + 4 * i ∧ f.at (s.pb k) j 0 ∉ l)
    (hf : 0x20 ≤ f.off) : t.rd f (s.pb k) j = s.rd f (s.pb k) j :=
  h.regs.rd ⟨hne.1, hne.2, Or.inr (by simp only [Fld.at]; omega)⟩

end ThreadStep

/-- The words of a thread. -/
theorem thrWord_at (b i : Nat) : F.THR_STATE.at b i 0 = b + 0x630 + 4 * i ∧ F.THR_DEPTH.at b i 0 = b + 0x630 + 4 * i
    ∧ F.THR_REASON.at b i 0 = b + 0x630 + 4 * i ∧ F.THR_PC.at b i 0 = b + 0x630 + 4 * i := by
  simp only [Fld.at, F.THR_STATE, F.THR_DEPTH, F.THR_REASON, F.THR_PC]
  omega

/-- What the other threads show, and what nothing but thread `i` of patch `k` differs in. -/
def KeptBut (k i : Nat) (s t : State) : Prop :=
  t = { s with regs := t.regs, pats := t.pats, procs := t.procs } ∧ (∀ m, m ≠ k → t.patAt m = s.patAt m)
    ∧ ∀ j, j < 4 → j ≠ i → t.rd F.THR_STATE (s.pb k) j = s.rd F.THR_STATE (s.pb k) j ∧ t.rd F.THR_PC (s.pb k) j = s.rd F.THR_PC (s.pb k) j

theorem ThreadStep.kept {l : List Nat} {k i : Nat} {s t : State} (h : ThreadStep l k i s t) (hl : ∀ a ∈ l, s.pb k + 0x640 ≤ a) : KeptBut k i s t := by
  refine ⟨h.frame, h.engines, fun j hj hne => ?_⟩
  have hword : s.pb k + 0x630 + 4 * j ≠ s.pb k + 0x630 + 4 * i ∧ s.pb k + 0x630 + 4 * j ∉ l := ⟨by omega, fun hm => by have := hl _ hm; omega⟩
  obtain ⟨hstate, -, -, hpc⟩ := thrWord_at (s.pb k) j
  exact ⟨h.rd (by rw [hstate]; exact hword) (by decide), h.rd (by rw [hpc]; exact hword) (by decide)⟩

/-- A thread stops (R294). -/
theorem State.stopThread_shows (s : State) {k : Nat} (hk : k < 16) (i : Nat) {why : Nat} (hwhy : why < 8) :
    let t := s.stopThread k i why
    ThreadStep [] k i s t ∧ t.rd F.THR_STATE (s.pb k) i = 3 ∧ t.rd F.THR_REASON (s.pb k) i = why ∧ t.rd F.THR_PC (s.pb k) i = s.rd F.THR_PC (s.pb k) i
      ∧ t.rd F.THR_DEPTH (s.pb k) i = s.rd F.THR_DEPTH (s.pb k) i ∧ (t.patAt k).thread i = { (s.patAt k).thread i with send := none, until_ := none, sync := none } ∧ (t.patAt k).queues = (s.patAt k).queues := by
  intro t
  obtain ⟨hstate, -, hreason, hpc⟩ := thrWord_at (s.pb k) i
  obtain ⟨u, hu⟩ : ∃ u : State, u = ((s.wr F.THR_STATE (s.pb k) 3 i).wr F.THR_REASON (s.pb k) why i).modThread k i
    (fun x => { x with send := none, until_ := none, sync := none }) := ⟨_, rfl⟩
  have hstep : ThreadStep [] k i s u := by
    rw [hu]
    exact (((ThreadStep.refl _ _ _ s).wr (.inl hstate) _).wr (.inl hreason) _).modThread _
  have hreads : u.rd F.THR_STATE (s.pb k) i = 3 ∧ u.rd F.THR_REASON (s.pb k) i = why ∧ u.rd F.THR_PC (s.pb k) i = s.rd F.THR_PC (s.pb k) i
      ∧ u.rd F.THR_DEPTH (s.pb k) i = s.rd F.THR_DEPTH (s.pb k) i := by
    have hrd : ∀ f : Fld, u.rd f (s.pb k) i = ((s.wr F.THR_STATE (s.pb k) 3 i).wr F.THR_REASON (s.pb k) why i).rd f (s.pb k) i := fun f => by rw [hu]; rfl
    simp only [hrd]
    have hkeep : ∀ f : Fld, f.lo ≤ f.hi → f.hi < 5 ∧ 1 < f.lo ∨ 7 < f.lo →
        ((s.wr F.THR_STATE (s.pb k) 3 i).wr F.THR_REASON (s.pb k) why i).rd f (s.pb k) i = s.rd f (s.pb k) i := fun f hf h => by
      rw [State.rd_wr_field _ _ _ _ _ _ _ _ _ _ (by decide) (by decide) hf (by simp only [F.THR_REASON]; omega),
        State.rd_wr_field _ _ _ _ _ _ _ _ _ _ (by decide) (by decide) hf (by simp only [F.THR_STATE]; omega)]
    refine ⟨?_, ?_, hkeep _ (by decide) (by decide), hkeep _ (by decide) (by decide)⟩
    · rw [State.rd_wr_field _ _ _ _ _ _ _ _ _ _ (by decide) (by decide) (by decide) (by decide), State.rd_wr_same _ _ _ _ _ _ (by decide) (by decide)]
      rfl
    · rw [State.rd_wr_same _ _ _ _ _ _ (by decide) (by decide)]
      exact Nat.mod_eq_of_lt hwhy
  obtain ⟨hst, hwhy', hpc', hdep⟩ := hreads
  have hthread : (u.patAt k).thread i = { (s.patAt k).thread i with send := none, until_ := none, sync := none } := by
    rw [hu]
    exact thread_modThread_same _ k i _
  have hqueues : (u.patAt k).queues = (s.patAt k).queues := by
    rw [hu]
    exact queues_modThread _ k i _
  have ht : t = if why = 1 then u else u.raiseP k 3 := by rw [hu]; rfl
  have hraised := u.raiseP_head hk 3
  have hpb : u.pb k = s.pb k := hstep.pb (by simp) hk
  have hword : ∀ f : Fld, 0x20 ≤ f.off → (u.raiseP k 3).rd f (s.pb k) i = u.rd f (s.pb k) i := fun f hf =>
    hraised.regs.rd (Or.inr (by rw [hpb]; simp only [Fld.at]; omega))
  have hengine : (u.raiseP k 3).patAt k = u.patAt k := by unfold State.patAt; rw [hraised.frame]
  rw [ht]
  split
  · exact ⟨hstep, hst, hwhy', hpc', hdep, hthread, hqueues⟩
  · exact ⟨hstep.raiseP (by simp) hk 3, (hword _ (by decide)).trans hst, (hword _ (by decide)).trans hwhy', (hword _ (by decide)).trans hpc',
      (hword _ (by decide)).trans hdep,
      by rw [hengine]; exact hthread, by rw [hengine]; exact hqueues⟩

/-- A thread goes on at a descriptor, or has come to the end of them (R274). -/
def GoesTo (k i : Nat) (u t : State) (n : Nat) : Prop :=
  t.rd F.THR_PC (u.pb k) i = n % 65536 ∧ (n < u.rd F.PAT_DESC_COUNT (u.pb k) → t.rd F.THR_STATE (u.pb k) i = 1)
    ∧ (u.rd F.PAT_DESC_COUNT (u.pb k) ≤ n → t.rd F.THR_STATE (u.pb k) i = 3 ∧ t.rd F.THR_REASON (u.pb k) i = 3)

theorem State.threadTo_shows (s : State) {k : Nat} (hk : k < 16) (i n : Nat) :
    let t := s.threadTo k i n
    ThreadStep [] k i s t ∧ GoesTo k i s t n ∧ ((t.patAt k).thread i).loops = ((s.patAt k).thread i).loops
      ∧ ((t.patAt k).thread i).ovf = ((s.patAt k).thread i).ovf ∧ (n < s.rd F.PAT_DESC_COUNT (s.pb k) → t.patAt k = s.patAt k)
      ∧ (t.patAt k).queues = (s.patAt k).queues ∧ (((s.patAt k).thread i).send = none → ((t.patAt k).thread i).send = none)
      ∧ t.rd F.THR_DEPTH (s.pb k) i = s.rd F.THR_DEPTH (s.pb k) i := by
  intro t
  obtain ⟨hstate, -, -, hpc⟩ := thrWord_at (s.pb k) i
  obtain ⟨u, hu⟩ : ∃ u : State, u = (s.wr F.THR_PC (s.pb k) n i).wr F.THR_STATE (s.pb k) 1 i := ⟨_, rfl⟩
  have hstep : ThreadStep [] k i s u := by
    rw [hu]
    exact ((ThreadStep.refl _ _ _ s).wr (.inl hpc) _).wr (.inl hstate) _
  have hengine : u.patAt k = s.patAt k := by rw [hu]; rfl
  have hupc : u.rd F.THR_PC (s.pb k) i = n % 65536 := by
    rw [hu, State.rd_wr_field _ _ _ _ _ _ _ _ _ _ (by decide) (by decide) (by decide) (by decide), State.rd_wr_same _ _ _ _ _ _ (by decide) (by decide)]
    rfl
  have hustate : u.rd F.THR_STATE (s.pb k) i = 1 := by
    rw [hu, State.rd_wr_same _ _ _ _ _ _ (by decide) (by decide)]
    rfl
  have hudepth : u.rd F.THR_DEPTH (s.pb k) i = s.rd F.THR_DEPTH (s.pb k) i := by
    rw [hu, State.rd_wr_field _ _ _ _ _ _ _ _ _ _ (by decide) (by decide) (by decide) (by decide),
      State.rd_wr_field _ _ _ _ _ _ _ _ _ _ (by decide) (by decide) (by decide) (by decide)]
  have hpb : u.pb k = s.pb k := hstep.pb (by simp) hk
  have ht : t = if s.rd F.PAT_DESC_COUNT (s.pb k) ≤ n then u.stopThread k i 3 else u := by rw [hu]; rfl
  rw [ht]
  split
  · next hend =>
    obtain ⟨hstop, hstate3, hreason3, hpc3, hdepth3, hthread, hqueues⟩ := u.stopThread_shows hk i (why := 3) (by decide)
    rw [hpb] at hstate3 hreason3 hpc3 hdepth3
    refine ⟨hstep.trans hstop (by simp) hk, ⟨hpc3.trans hupc, fun h => absurd h (by omega), fun _ => ⟨hstate3, hreason3⟩⟩, ?_, ?_,
      fun h => absurd h (by omega), ?_, fun _ => ?_, hdepth3.trans hudepth⟩
    · rw [hthread, hengine]
    · rw [hthread, hengine]
    · rw [hqueues, hengine]
    · rw [hthread]
  · next hgoes =>
    exact ⟨hstep, ⟨hupc, fun _ => hustate, fun h => absurd h hgoes⟩, by rw [hengine], by rw [hengine], fun _ => hengine, by rw [hengine],
      fun h => by rw [hengine]; exact h, hudepth⟩

theorem ThreadStep.mono {l m : List Nat} {k i : Nat} {s t : State} (h : ThreadStep l k i s t) (hlm : ∀ a ∈ l, a ∈ m) : ThreadStep m k i s t :=
  ⟨h.frame, h.engines, fun a ha => h.regs a ⟨ha.1, fun hm => ha.2.1 (hlm a hm), ha.2.2⟩⟩

theorem ThreadStep.count {l : List Nat} {k i : Nat} {s t : State} (h : ThreadStep l k i s t) (hl : ∀ a ∈ l, s.pb k + 0x640 ≤ a) :
    t.rd F.PAT_DESC_COUNT (s.pb k) = s.rd F.PAT_DESC_COUNT (s.pb k) :=
  h.rd (j := 0) ⟨by simp only [Fld.at, F.PAT_DESC_COUNT]; omega, fun hm => by
    have := hl _ hm
    simp only [Fld.at, F.PAT_DESC_COUNT] at this
    omega⟩ (by decide)

/-- What a step leaves that goes on behind another step of the thread. -/
theorem State.threadNext_after {l : List Nat} {k i : Nat} {u v : State} (h : ThreadStep l k i u v) (hl : ∀ a ∈ l, u.pb k + 0x640 ≤ a) (hk : k < 16)
    (hpc : v.rd F.THR_PC (u.pb k) i = u.rd F.THR_PC (u.pb k) i) :
    let t := v.threadNext k i
    ThreadStep l k i u t ∧ GoesTo k i u t (u.rd F.THR_PC (u.pb k) i + 1) ∧ KeptBut k i u t := by
  intro t
  have hhigh := u.pb_high k
  have hfar : ∀ a ∈ l, 0x20000 ≤ a := fun a ha => by have := hl a ha; omega
  have hpb := h.pb hfar hk
  obtain ⟨hstep, hgoes, -⟩ := v.threadTo_shows hk i (v.rd F.THR_PC (v.pb k) i + 1)
  have hboth : ThreadStep l k i u t := h.trans (hstep.mono (by simp)) hfar hk
  have hcount := h.count hl
  refine ⟨hboth, ?_, hboth.kept hl⟩
  rw [hpb, hpc] at hgoes
  unfold GoesTo at hgoes ⊢
  rw [hpb, hcount] at hgoes
  have ht : t = v.threadTo k i (u.rd F.THR_PC (u.pb k) i + 1) := by
    show v.threadTo k i (v.rd F.THR_PC (v.pb k) i + 1) = _
    rw [hpb, hpc]
  rw [ht]
  exact hgoes

end Sys2Proof.Machine

/-! Descriptors (R274 to R277): what each operation does to its thread. -/

namespace Sys2Proof.Machine

theorem desc_runs {k i op : Nat} {s : State} (f : State → Nat → State) (hruns : s.engineRuns k = true) (hstate : s.rd F.THR_STATE (s.pb k) i = 1)
    (hpc : s.rd F.THR_PC (s.pb k) i < s.rd F.PAT_DESC_COUNT (s.pb k)) (hop : descOp (s.descAt k i) = op) :
    s.desc k i op f = .next (f (s.descSeen k i) (s.descAt k i)) := by
  unfold State.desc
  rw [if_neg (by simp [hruns, hstate]), if_neg (by omega), if_pos hop]

theorem desc_ends {k i : Nat} {s : State} (op : Nat) (f : State → Nat → State) (hruns : s.engineRuns k = true) (hstate : s.rd F.THR_STATE (s.pb k) i = 1)
    (hpc : s.rd F.PAT_DESC_COUNT (s.pb k) ≤ s.rd F.THR_PC (s.pb k) i) : s.desc k i op f = .next (s.stopThread k i 3) := by
  unfold State.desc
  rw [if_neg (by simp [hruns, hstate]), if_pos hpc]

/-! Each operation as a descriptor's step. -/

theorem exec_descNop (k : LPatch) (t : Thread) (s : State) : exec (.descNop k t) s = s.desc k.val t.val 0 fun s _ => s.threadNext k.val t.val := rfl

theorem exec_descLoop (k : LPatch) (t : Thread) (s : State) :
    exec (.descLoop k t) s = s.desc k.val t.val 2 fun s d =>
      let x := (s.patAt k.val).thread t.val
      let s1 := if 4 ≤ x.loops.length then (s.modThread k.val t.val (fun x => { x with ovf := x.ovf + 1 })).bump F.PATE_NEST_OVF (s.pb k.val)
        else s.modThread k.val t.val (fun x => { x with loops := (field d 63 32 + 1, s.rd F.THR_PC (s.pb k.val) t.val + 1) :: x.loops })
      (s1.showDepth k.val t.val).threadNext k.val t.val := rfl

theorem exec_endloop (k : LPatch) (t : Thread) (s : State) :
    exec (.endloop k t) s = s.desc k.val t.val 3 fun s _ =>
      let x := (s.patAt k.val).thread t.val
      if 0 < x.ovf then (s.modThread k.val t.val (fun x => { x with ovf := x.ovf - 1 })).threadNext k.val t.val
      else
        match x.loops with
        | [] => s.threadNext k.val t.val
        | (n, body) :: rest =>
          if 1 < n then (s.modThread k.val t.val (fun x => { x with loops := (n - 1, body) :: rest })).threadTo k.val t.val body
          else ((s.modThread k.val t.val (fun x => { x with loops := rest })).showDepth k.val t.val).threadNext k.val t.val := rfl

theorem exec_jmp (k : LPatch) (t : Thread) (s : State) :
    exec (.jmp k t) s = s.desc k.val t.val 4 fun s d => s.threadTo k.val t.val (field d 47 32) := rfl

theorem exec_wait (k : LPatch) (t : Thread) (s : State) :
    exec (.wait k t) s = s.desc k.val t.val 5 fun s d => (s.wr F.THR_STATE (s.pb k.val) 2 t.val).modThread k.val t.val
      (fun x => { x with until_ := some (s.stitch + BitVec.ofNat 64 (max 1 (field d 63 32))) }) := rfl

theorem exec_sync (k : LPatch) (t : Thread) (s : State) :
    exec (.sync k t) s = s.desc k.val t.val 6 fun s d => (s.wr F.THR_STATE (s.pb k.val) 2 t.val).modThread k.val t.val
      (fun x => { x with sync := some (field d 19 4) }) := rfl

theorem exec_descTrig (k : LPatch) (t : Thread) (off : Nat) (s : State) :
    exec (.descTrig k t off) s = s.desc k.val t.val 7 fun s d => ((s.tick off).threadNext k.val t.val).raiseLine 3 (field d 9 4) := rfl

theorem exec_descStop (k : LPatch) (t : Thread) (s : State) : exec (.descStop k t) s = s.desc k.val t.val 8 fun s _ => s.stopThread k.val t.val 2 := rfl

theorem exec_descBadop (k : LPatch) (t : Thread) (s : State) :
    exec (.descBadop k t) s = s.desc k.val t.val (max 9 (descOp (s.descAt k.val t.val))) fun s _ => s.stopThread k.val t.val 4 := rfl

/-- A thread has stopped with a reason, its PC as it was. -/
def StopsThread (k i : Nat) (u t : State) (why : Nat) : Prop :=
  t.rd F.THR_STATE (u.pb k) i = 3 ∧ t.rd F.THR_REASON (u.pb k) i = why ∧ t.rd F.THR_PC (u.pb k) i = u.rd F.THR_PC (u.pb k) i ∧ KeptBut k i u t

theorem State.stopThread_stops (u : State) {k : Nat} (hk : k < 16) (i : Nat) {why : Nat} (hwhy : why < 8) : StopsThread k i u (u.stopThread k i why) why := by
  obtain ⟨hstep, hstate, hreason, hpc, -⟩ := u.stopThread_shows hk i hwhy
  exact ⟨hstate, hreason, hpc, hstep.kept (by simp)⟩

/-- A thread passes on to a descriptor. -/
def PassesTo (k i : Nat) (u t : State) (n : Nat) : Prop := GoesTo k i u t n ∧ KeptBut k i u t

theorem State.threadNext_passes (u : State) {k : Nat} (hk : k < 16) (i : Nat) : PassesTo k i u (u.threadNext k i) (u.rd F.THR_PC (u.pb k) i + 1) :=
  (State.threadNext_after (ThreadStep.refl [] k i u) (by simp) hk rfl).2

theorem State.threadTo_passes (u : State) {k : Nat} (hk : k < 16) (i n : Nat) : PassesTo k i u (u.threadTo k i n) n := by
  obtain ⟨hstep, hgoes, -⟩ := u.threadTo_shows hk i n
  exact ⟨hgoes, hstep.kept (by simp)⟩

/-- A change of the thread's loops, shown in its DEPTH, before it goes on. -/
theorem loopsChange {k i : Nat} (u : State) (hk : k < 16) (f : ThreadSt → ThreadSt) :
    let v := (u.modThread k i f).showDepth k i
    let t := v.threadNext k i
    PassesTo k i u t (u.rd F.THR_PC (u.pb k) i + 1) ∧ ((t.patAt k).thread i).loops = (f ((u.patAt k).thread i)).loops
      ∧ ((t.patAt k).thread i).ovf = (f ((u.patAt k).thread i)).ovf
      ∧ t.rd F.THR_DEPTH (u.pb k) i = (f ((u.patAt k).thread i)).loops.length % 8 := by
  intro v t
  obtain ⟨-, hdepthAt, -, -⟩ := thrWord_at (u.pb k) i
  have hv : v = (u.modThread k i f).wr F.THR_DEPTH (u.pb k) (f ((u.patAt k).thread i)).loops.length i := by
    rw [← thread_modThread_same u k i f]
    rfl
  have hstep : ThreadStep [] k i u v := by
    rw [hv]
    exact ((ThreadStep.refl [] k i u).modThread f).wr (.inl hdepthAt) _
  have hpc : v.rd F.THR_PC (u.pb k) i = u.rd F.THR_PC (u.pb k) i := by
    rw [hv, State.rd_wr_field _ _ _ _ _ _ _ _ _ _ (by decide) (by decide) (by decide) (by decide)]
    rfl
  have hdepth : v.rd F.THR_DEPTH (u.pb k) i = (f ((u.patAt k).thread i)).loops.length % 8 := by
    rw [hv, State.rd_wr_same _ _ _ _ _ _ (by decide) (by decide)]
    rfl
  have hthread : (v.patAt k).thread i = f ((u.patAt k).thread i) := by
    rw [← thread_modThread_same u k i f, hv]
    rfl
  obtain ⟨-, hgoes, hkept⟩ := State.threadNext_after hstep (by simp) hk hpc
  obtain ⟨-, -, hloops, hovf, -, -, -, hdepth'⟩ := v.threadTo_shows hk i (v.rd F.THR_PC (v.pb k) i + 1)
  have hpb := hstep.pb (by simp) hk
  exact ⟨⟨hgoes, hkept⟩, by rw [← hthread]; exact hloops, by rw [← hthread]; exact hovf, by rw [← hdepth, ← hpb]; exact hdepth'⟩

/-- A loop within the fourth: it is counted as too deep. -/
theorem loopOverflow {k i : Nat} (u : State) (hk : k < 16) (hi : i < 4) :
    let v := ((u.modThread k i (fun x => { x with ovf := x.ovf + 1 })).bump F.PATE_NEST_OVF (u.pb k)).showDepth k i
    let t := v.threadNext k i
    PassesTo k i u t (u.rd F.THR_PC (u.pb k) i + 1) ∧ ((t.patAt k).thread i).loops = ((u.patAt k).thread i).loops
      ∧ ((t.patAt k).thread i).ovf = ((u.patAt k).thread i).ovf + 1
      ∧ t.rd F.PATE_NEST_OVF (u.pb k) = min 65535 (u.rd F.PATE_NEST_OVF (u.pb k) + 1) := by
  intro v t
  have hhigh := u.pb_high k
  obtain ⟨-, hdepthAt, -, hpcAt⟩ := thrWord_at (u.pb k) i
  have hnestAt : F.PATE_NEST_OVF.at (u.pb k) 0 0 = u.pb k + 0x784 := rfl
  obtain ⟨w, hw⟩ : ∃ w : State, w = (u.modThread k i (fun x => { x with ovf := x.ovf + 1 })).bump F.PATE_NEST_OVF (u.pb k) := ⟨_, rfl⟩
  have hstepw : ThreadStep [u.pb k + 0x784] k i u w := by
    rw [hw]
    exact ((ThreadStep.refl _ k i u).modThread _).wr (.inr (by rw [hnestAt]; exact List.mem_singleton_self _)) _
  have hpbw : w.pb k = u.pb k := hstepw.pb (by simp; omega) hk
  have hv : v = w.wr F.THR_DEPTH (u.pb k) ((w.patAt k).thread i).loops.length i := by
    rw [← hpbw, hw]
    rfl
  have hstep : ThreadStep [u.pb k + 0x784] k i u v := by
    rw [hv]
    exact hstepw.wr (.inl hdepthAt) _
  have hpb : v.pb k = u.pb k := hstep.pb (by simp; omega) hk
  have hpc : v.rd F.THR_PC (u.pb k) i = u.rd F.THR_PC (u.pb k) i := by
    rw [hv, State.rd_wr_field _ _ _ _ _ _ _ _ _ _ (by decide) (by decide) (by decide) (by decide), hw]
    exact State.rd_wr_word _ _ _ _ _ _ _ _ _ _ (by rw [hpcAt, hnestAt]; omega)
  have hnest : v.rd F.PATE_NEST_OVF (u.pb k) = min 65535 (u.rd F.PATE_NEST_OVF (u.pb k) + 1) := by
    rw [hv, State.rd_wr_word _ _ _ _ _ _ _ _ _ _ (by rw [hdepthAt, hnestAt]; omega), hw]
    exact State.rd_bump_same _ _ _ (by decide) (by decide)
  have hthread : (v.patAt k).thread i = { (u.patAt k).thread i with ovf := ((u.patAt k).thread i).ovf + 1 } := by
    refine Eq.trans ?_ (thread_modThread_same u k i fun x => { x with ovf := x.ovf + 1 })
    rw [hv, hw]
    rfl
  obtain ⟨-, hgoes, hkept⟩ := State.threadNext_after hstep (by simp) hk hpc
  obtain ⟨hnext, -, hloops, hovf, -⟩ := v.threadTo_shows hk i (v.rd F.THR_PC (v.pb k) i + 1)
  refine ⟨⟨hgoes, hkept⟩, hloops.trans (by rw [hthread]), hovf.trans (by rw [hthread]), Eq.trans ?_ hnest⟩
  rw [← hpb]
  exact hnext.rd (j := 0) ⟨by rw [hpb, hnestAt]; omega, by simp⟩ (by decide)

/-- A thread waits at its descriptor. -/
theorem threadWaits {k i : Nat} (u : State) (f : ThreadSt → ThreadSt) :
    let t := (u.wr F.THR_STATE (u.pb k) 2 i).modThread k i f
    t.rd F.THR_STATE (u.pb k) i = 2 ∧ t.rd F.THR_PC (u.pb k) i = u.rd F.THR_PC (u.pb k) i ∧ KeptBut k i u t ∧ (t.patAt k).thread i = f ((u.patAt k).thread i) := by
  intro t
  obtain ⟨hstateAt, -⟩ := thrWord_at (u.pb k) i
  have hstep : ThreadStep [] k i u t := ((ThreadStep.refl [] k i u).wr (.inl hstateAt) 2).modThread f
  refine ⟨State.rd_wr_same u _ _ _ _ _ (by decide) (by decide), State.rd_wr_field u _ _ _ _ _ _ _ _ _ (by decide) (by decide) (by decide) (by decide),
    hstep.kept (by simp), thread_modThread_same _ k i f⟩

/-- A thread that ends its wait goes on. -/
theorem waitEnds {k i : Nat} (u : State) (hk : k < 16) (f : ThreadSt → ThreadSt) :
    let t := (u.modThread k i f).threadNext k i
    PassesTo k i u t (u.rd F.THR_PC (u.pb k) i + 1)
      ∧ (u.rd F.THR_PC (u.pb k) i + 1 < u.rd F.PAT_DESC_COUNT (u.pb k) → (t.patAt k).thread i = f ((u.patAt k).thread i))
      ∧ ((t.patAt k).thread i).loops = (f ((u.patAt k).thread i)).loops ∧ ((t.patAt k).thread i).ovf = (f ((u.patAt k).thread i)).ovf := by
  intro t
  have hstep : ThreadStep [] k i u (u.modThread k i f) := (ThreadStep.refl [] k i u).modThread f
  have hthread := thread_modThread_same u k i f
  obtain ⟨-, hgoes, hkept⟩ := State.threadNext_after hstep (by simp) hk rfl
  obtain ⟨-, -, hloops, hovf, hsame, -⟩ := (u.modThread k i f).threadTo_shows hk i (u.rd F.THR_PC (u.pb k) i + 1)
  exact ⟨⟨hgoes, hkept⟩, fun hlt => (congrArg (fun x : PatSt => x.thread i) (hsame hlt)).trans hthread, hloops.trans (by rw [hthread]), hovf.trans (by rw [hthread])⟩

/-- A jump back to the body of a loop. -/
theorem loopRepeats {k i : Nat} (u : State) (hk : k < 16) (n : Nat) (f : ThreadSt → ThreadSt) :
    let t := (u.modThread k i f).threadTo k i n
    PassesTo k i u t n ∧ ((t.patAt k).thread i).loops = (f ((u.patAt k).thread i)).loops := by
  intro t
  have hstep : ThreadStep [] k i u (u.modThread k i f) := (ThreadStep.refl [] k i u).modThread f
  obtain ⟨hnext, hgoes, hloops, -⟩ := (u.modThread k i f).threadTo_shows hk i n
  exact ⟨⟨hgoes, (hstep.trans hnext (by simp) hk).kept (by simp)⟩, hloops.trans (by rw [thread_modThread_same])⟩

/-- A thread raises a line at an offset, and goes on. -/
theorem threadRaises {k i off line : Nat} (u : State) (hk : k < 16) :
    let t := ((u.tick off).threadNext k i).raiseLine 3 line
    GoesTo k i u t (u.rd F.THR_PC (u.pb k) i + 1) ∧ t.off = u.clampOff off ∧ (u.maskBit 3 line (u.clampOff off) = true → (t.trig.raise? line).isSome = true) := by
  intro t
  obtain ⟨hstep, hgoes, -⟩ := State.threadNext_after (ThreadStep.refl [] k i (u.tick off)) (by simp) hk rfl
  obtain ⟨v, hv⟩ : ∃ v : State, v = (u.tick off).threadNext k i := ⟨_, rfl⟩
  have ht : t = v.raiseLine 3 line := by rw [hv]
  rw [← hv] at hstep hgoes
  have hraise : RaisedOnly v t := by rw [ht]; exact raisedOnly_raiseAs _ _ _ _
  have hregs : t.regs = v.regs := by rw [hraise]
  have hrd : ∀ (f : Fld) base j, t.rd f base j = v.rd f base j := fun f base j => by
    unfold State.rd State.reg
    rw [hregs]
  have hoff : v.off = u.clampOff off := by rw [hstep.frame]; rfl
  refine ⟨?_, ?_, fun hmask => ?_⟩
  · unfold GoesTo at hgoes ⊢
    simp only [hrd]
    exact hgoes
  · rw [← hoff, hraise]
  · have hmask' : v.maskBit 3 line v.off = true := by
      rw [hoff, ← hmask]
      unfold State.maskBit State.effReg
      rw [hstep.frame]
      rfl
    have hraised : t.trig.raised = (v.noteRaise line ⟨v.now, v.off, 3, v.devnum, false⟩).trig.raised := by
      rw [ht]
      exact State.raised_raiseAs (r := ⟨v.now, v.off, 3, v.devnum, false⟩) hmask'
    unfold TrigSt.raise?
    rw [hraised]
    exact congrArg Option.isSome (v.raise?_noteRaise line _)

/-- What a running thread does at its descriptor, whatever its read has shown. -/
theorem descriptor_acts {k : LPatch} {th : Thread} {s : State} (hruns : s.engineRuns k.val = true)
    (hstate : s.rd F.THR_STATE (s.pb k.val) th.val = 1) (hpc : s.rd F.THR_PC (s.pb k.val) th.val < s.rd F.PAT_DESC_COUNT (s.pb k.val)) :
    let i := th.val
    let d := s.descAt k.val i
    let u := s.descSeen k.val i
    let b := u.pb k.val
    let pc := u.rd F.THR_PC b i
    let x := (u.patAt k.val).thread i
    (descOp d = 0 → ∃ t, exec (.descNop k th) s = .next t ∧ PassesTo k.val i u t (pc + 1))
      ∧ (descOp d = 2 → x.loops.length < 4 → ∃ t, exec (.descLoop k th) s = .next t ∧ PassesTo k.val i u t (pc + 1)
          ∧ ((t.patAt k.val).thread i).loops = (field d 63 32 + 1, pc + 1) :: x.loops ∧ t.rd F.THR_DEPTH b i = x.loops.length + 1)
      ∧ (descOp d = 2 → 4 ≤ x.loops.length → ∃ t, exec (.descLoop k th) s = .next t ∧ PassesTo k.val i u t (pc + 1)
          ∧ ((t.patAt k.val).thread i).loops = x.loops ∧ ((t.patAt k.val).thread i).ovf = x.ovf + 1
          ∧ t.rd F.PATE_NEST_OVF b = min 65535 (u.rd F.PATE_NEST_OVF b + 1))
      ∧ (descOp d = 3 → 0 < x.ovf → ∃ t, exec (.endloop k th) s = .next t ∧ PassesTo k.val i u t (pc + 1)
          ∧ ((t.patAt k.val).thread i).ovf = x.ovf - 1 ∧ ((t.patAt k.val).thread i).loops = x.loops)
      ∧ (∀ n body rest, descOp d = 3 → x.ovf = 0 → x.loops = (n, body) :: rest →
          (1 < n → ∃ t, exec (.endloop k th) s = .next t ∧ PassesTo k.val i u t body ∧ ((t.patAt k.val).thread i).loops = (n - 1, body) :: rest)
          ∧ (n ≤ 1 → ∃ t, exec (.endloop k th) s = .next t ∧ PassesTo k.val i u t (pc + 1) ∧ ((t.patAt k.val).thread i).loops = rest))
      ∧ (descOp d = 3 → x.ovf = 0 → x.loops = [] → ∃ t, exec (.endloop k th) s = .next t ∧ PassesTo k.val i u t (pc + 1)) := by
  intro i d u b pc x
  have hk : k.val < 16 := k.isLt
  have hi : i < 4 := th.isLt
  have hexec : ∀ {op : Nat} (f : State → Nat → State), descOp d = op → s.desc k.val i op f = .next (f u d) := fun f hop => desc_runs f hruns hstate hpc hop
  refine ⟨fun hop => ⟨_, (exec_descNop k th s).trans (hexec _ hop), u.threadNext_passes hk i⟩, fun hop hroom => ?_, fun hop hfull => ?_, fun hop hovf => ?_, fun n body rest hop hovf hloops => ?_,
    fun hop hovf hloops => ?_⟩
  · obtain ⟨hpass, hloops, -, hdepth⟩ := loopsChange u hk (i := i) (fun x => { x with loops := (field d 63 32 + 1, u.rd F.THR_PC (u.pb k.val) i + 1) :: x.loops })
    refine ⟨_, ((exec_descLoop k th s).trans (hexec _ hop)).trans (congrArg Host.Outcome.next ?_), hpass, hloops, hdepth.trans (Nat.mod_eq_of_lt ?_)⟩
    · dsimp only
      rw [if_neg (show ¬ 4 ≤ ((u.patAt k.val).thread i).loops.length from Nat.not_le.2 hroom)]
    · exact Nat.lt_of_lt_of_le (Nat.succ_lt_succ hroom) (by decide)
  · obtain ⟨hpass, hloops, hovf, hnest⟩ := loopOverflow u hk hi
    refine ⟨_, ((exec_descLoop k th s).trans (hexec _ hop)).trans (congrArg Host.Outcome.next ?_), hpass, hloops, hovf, hnest⟩
    dsimp only
    rw [if_pos hfull]
  · obtain ⟨hpass, -, hloops, hless⟩ := waitEnds u hk (i := i) (fun x => { x with ovf := x.ovf - 1 })
    refine ⟨_, ((exec_endloop k th s).trans (hexec _ hop)).trans (congrArg Host.Outcome.next ?_), hpass, hless, hloops⟩
    dsimp only
    rw [if_pos hovf]
  · have hloops' : ((u.patAt k.val).thread i).loops = (n, body) :: rest := hloops
    refine ⟨fun hmore => ?_, fun hlast => ?_⟩
    · obtain ⟨hpass, hleft⟩ := loopRepeats u hk (i := i) body (fun x => { x with loops := (n - 1, body) :: rest })
      refine ⟨_, ((exec_endloop k th s).trans (hexec _ hop)).trans (congrArg Host.Outcome.next ?_), hpass, hleft⟩
      dsimp only
      rw [if_neg (show ¬ 0 < ((u.patAt k.val).thread i).ovf from by rw [show ((u.patAt k.val).thread i).ovf = 0 from hovf]; decide), hloops']
      exact if_pos hmore
    · obtain ⟨hpass, hleft, -⟩ := loopsChange u hk (i := i) (fun x => { x with loops := rest })
      refine ⟨_, ((exec_endloop k th s).trans (hexec _ hop)).trans (congrArg Host.Outcome.next ?_), hpass, hleft⟩
      dsimp only
      rw [if_neg (show ¬ 0 < ((u.patAt k.val).thread i).ovf from by rw [show ((u.patAt k.val).thread i).ovf = 0 from hovf]; decide), hloops']
      exact if_neg (by omega)
  · refine ⟨_, ((exec_endloop k th s).trans (hexec _ hop)).trans (congrArg Host.Outcome.next ?_), u.threadNext_passes hk i⟩
    have hloops' : ((u.patAt k.val).thread i).loops = [] := hloops
    dsimp only
    rw [if_neg (show ¬ 0 < ((u.patAt k.val).thread i).ovf from by rw [show ((u.patAt k.val).thread i).ovf = 0 from hovf]; decide), hloops']

/-- Settles O37: every operation leaves its thread at one of five places: at the next descriptor, at its target, in its loop's body, waiting, or
stopped. -/
theorem descriptors : Obligations.Descriptors := by
  unfold Obligations.Descriptors
  intro k th off s hruns i d at_ kept stopped runs
  have hk : k.val < 16 := k.isLt
  refine ⟨fun hstate hend c hc => ?_, fun hstate hpc => ?_, fun w hw hdue => ?_, fun slots hsync hdone => ?_⟩
  · have hstop : stopped s (s.stopThread k.val i 3) 3 := s.stopThread_stops hk i (by decide)
    have hends : ∀ (op : Nat) (f : State → Nat → State), s.desc k.val i op f = .next (s.stopThread k.val i 3) := fun op f => desc_ends op f hruns hstate hend
    simp only [List.mem_cons, List.not_mem_nil, or_false] at hc
    rcases hc with rfl | rfl | rfl | rfl | rfl | rfl | rfl | rfl | rfl
    · exact ⟨_, (exec_descNop k th s).trans (hends _ _), hstop⟩
    · exact ⟨_, (exec_descLoop k th s).trans (hends _ _), hstop⟩
    · exact ⟨_, (exec_endloop k th s).trans (hends _ _), hstop⟩
    · exact ⟨_, (exec_jmp k th s).trans (hends _ _), hstop⟩
    · exact ⟨_, (exec_wait k th s).trans (hends _ _), hstop⟩
    · exact ⟨_, (exec_sync k th s).trans (hends _ _), hstop⟩
    · exact ⟨_, (exec_descTrig k th off s).trans (hends _ _), hstop⟩
    · exact ⟨_, (exec_descStop k th s).trans (hends _ _), hstop⟩
    · exact ⟨_, (exec_descBadop k th s).trans (hends _ _), hstop⟩
  · intro u b pc x
    have hexec : ∀ {op : Nat} (f : State → Nat → State), descOp d = op → s.desc k.val i op f = .next (f u d) := fun f hop => desc_runs f hruns hstate hpc hop
    obtain ⟨hnop, hloop, hover, hless, hbody, hnone⟩ := descriptor_acts hruns hstate hpc
    refine ⟨fun hop => ?_, fun hop hroom => ?_, fun hop hfull => ?_, fun hop hovf => ?_, fun n body rest hop hovf hloops => ⟨fun hmore => ?_, fun hlast => ?_⟩,
      fun hop hovf hloops => ?_, fun hop => ?_, fun hop => ?_, fun hop => ?_, fun hop => ?_, fun hop => ?_, fun hop => ?_⟩
    · obtain ⟨t, ht, hgoes, hkept⟩ := hnop hop
      exact ⟨t, ht, hgoes, hkept⟩
    · obtain ⟨t, ht, ⟨hgoes, hkept⟩, hrest⟩ := hloop hop hroom
      exact ⟨t, ht, hgoes, hkept, hrest⟩
    · obtain ⟨t, ht, ⟨hgoes, hkept⟩, hrest⟩ := hover hop hfull
      exact ⟨t, ht, hgoes, hkept, hrest⟩
    · obtain ⟨t, ht, ⟨hgoes, hkept⟩, hrest⟩ := hless hop hovf
      exact ⟨t, ht, hgoes, hkept, hrest⟩
    · obtain ⟨t, ht, ⟨hgoes, hkept⟩, hrest⟩ := (hbody n body rest hop hovf hloops).1 hmore
      exact ⟨t, ht, hgoes, hkept, hrest⟩
    · obtain ⟨t, ht, ⟨hgoes, hkept⟩, hrest⟩ := (hbody n body rest hop hovf hloops).2 hlast
      exact ⟨t, ht, hgoes, hkept, hrest⟩
    · obtain ⟨t, ht, hgoes, hkept⟩ := hnone hop hovf hloops
      exact ⟨t, ht, hgoes, hkept⟩
    · obtain ⟨hgoes, hkept⟩ := u.threadTo_passes hk i (field d 47 32)
      exact ⟨_, (exec_jmp k th s).trans (hexec _ hop), hgoes, hkept⟩
    · obtain ⟨htwo, hsame, hkept, hthread⟩ := threadWaits (k := k.val) (i := i) u (fun x => { x with until_ := some (u.stitch + BitVec.ofNat 64 (max 1 (field d 63 32))) })
      exact ⟨_, (exec_wait k th s).trans (hexec _ hop), htwo, hsame, hkept, congrArg ThreadSt.until_ hthread⟩
    · obtain ⟨htwo, hsame, hkept, hthread⟩ := threadWaits (k := k.val) (i := i) u (fun x => { x with sync := some (field d 19 4) })
      exact ⟨_, (exec_sync k th s).trans (hexec _ hop), htwo, hsame, hkept, congrArg ThreadSt.sync hthread⟩
    · obtain ⟨hgoes, hoff, hraise⟩ := threadRaises (i := i) (off := off) (line := field d 9 4) u hk
      exact ⟨_, (exec_descTrig k th off s).trans (hexec _ hop), hgoes, hoff, hraise⟩
    · exact ⟨_, (exec_descStop k th s).trans (hexec _ hop), u.stopThread_stops hk i (by decide)⟩
    · exact ⟨_, (exec_descBadop k th s).trans (hexec _ (Nat.max_eq_right hop).symm), u.stopThread_stops hk i (by decide)⟩
  · obtain ⟨⟨hgoes, -⟩, hthread, -⟩ := waitEnds s hk (i := i) (fun x => { x with until_ := none })
    have hopt : (if s.engineRuns k.val then ((s.patAt k.val).thread i).until_ else none) = some w := by rw [if_pos hruns, hw]
    exact ⟨_, (actOn_some hopt).trans (congrArg Host.Outcome.next (if_pos hdue)), hgoes, hthread⟩
  · obtain ⟨⟨hgoes, hkept⟩, -⟩ := waitEnds s hk (i := i) (fun x => { x with sync := none })
    have hopt : (if s.engineRuns k.val then ((s.patAt k.val).thread i).sync else none) = some slots := by rw [if_pos hruns, hsync]
    exact ⟨_, (actOn_some hopt).trans (congrArg Host.Outcome.next (if_pos hdone)), hgoes, hkept⟩

end Sys2Proof.Machine

/-! SEND (R270, R272, R278, R279). -/

namespace Sys2Proof.Machine

theorem exec_send_begins {k : LPatch} {th : Thread} {s : State} (hruns : s.engineRuns k.val = true) (hstate : s.rd F.THR_STATE (s.pb k.val) th.val = 1)
    (hpc : s.rd F.THR_PC (s.pb k.val) th.val < s.rd F.PAT_DESC_COUNT (s.pb k.val)) (hop : descOp (s.descAt k.val th.val) = 1) :
    let d := s.descAt k.val th.val
    let u := s.descSeen k.val th.val
    let q : SendSt := ⟨field d 88 64, max 1 (field d 63 32), field d 19 4, field d 27 20, bitAt d 28, field d 103 96⟩
    exec (.send k th) s = .next (State.sendOn 65 ((u.modThread k.val th.val (fun x => { x with send := some q })).wr F.THR_STATE (u.pb k.val) 2 th.val) k.val th.val) :=
  (if_neg (by simp [hstate])).trans (desc_runs _ hruns hstate hpc hop)

/-- A thread has begun a SEND. -/
def State.sends (u : State) (k i : Nat) (q : SendSt) : State :=
  (u.modThread k i (fun x => { x with send := some q })).wr F.THR_STATE (u.pb k) 2 i

theorem State.sends_shows (u : State) (k i : Nat) (q : SendSt) :
    let v := u.sends k i q
    v = { u with regs := v.regs, pats := v.pats } ∧ ThreadStep [] k i u v ∧ ((v.patAt k).thread i).send = some q ∧ (v.patAt k).queues = (u.patAt k).queues
      ∧ (v.patAt k).ser = (u.patAt k).ser ∧ v.rd F.THR_STATE (u.pb k) i = 2 ∧ v.rd F.THR_PC (u.pb k) i = u.rd F.THR_PC (u.pb k) i := by
  intro v
  obtain ⟨hstateAt, -⟩ := thrWord_at (u.pb k) i
  have hengine : v.patAt k = (u.modThread k i (fun x => { x with send := some q })).patAt k := rfl
  refine ⟨rfl, ((ThreadStep.refl [] k i u).modThread _).wr (.inl hstateAt) 2, ?_, ?_, ?_, State.rd_wr_same _ _ _ _ _ _ (by decide) (by decide),
    State.rd_wr_field (u.modThread k i _) _ _ _ _ _ _ _ _ _ (by decide) (by decide) (by decide) (by decide)⟩
  · rw [hengine, thread_modThread_same]
  · rw [hengine, queues_modThread]
  · rw [hengine]
    unfold State.modThread
    rw [patAt_modPat_same]

theorem sendBlocked_of_queues {s t : State} {k : Nat} (h : (t.patAt k).queues = (s.patAt k).queues) (slots : Nat) : t.sendBlocked k slots = s.sendBlocked k slots := by
  unfold State.sendBlocked PatSt.queue
  rw [h]

/-- What a read of a pattern record, and of a lane that can take a copy, depends on. -/
theorem readRec_of_bolts {s t : State} (hb : t.bolts = s.bolts) (hs : t.stack = s.stack) (k a : Nat) : t.readRec k a = s.readRec k a := by
  unfold State.readRec State.boltGet State.lineBad State.lineMeta State.boltByte State.boltAt
  rw [hb, hs]

/-- One slot takes its copy. -/
def copyTo (k i : Nat) (q : SendSt) (kind slen : Nat) (body : List Byte) (slot : Nat) (s : State) : State :=
  if ¬ bitAt q.slots slot then s
  else
    match s.canTake k slot with
    | none => s
    | some l =>
      if playable (s.pcsOf l) kind slen body then
        s.modPat k (fun x => { x with queues := x.queues.put slot (x.queue slot ++
          [{ ser := x.ser, thread := i, kind := kind, body := body, submask := q.submask, badcv := q.badcv, gap := q.gap }]) })
      else s.bump F.PATE_KIND_SKIP (s.pb k)

theorem queueCopies_eq (s : State) (k i : Nat) (q : SendSt) (kind slen : Nat) (body : List Byte) :
    s.queueCopies k i q kind slen body = forEach (copyTo k i q kind slen body) (List.range 16) (s.modPat k (fun x => { x with ser := x.ser + 1 })) := rfl

theorem forEach_foldl {α σ : Type} (f : α → σ → σ) (l : List α) (s : σ) : forEach f l s = l.foldl (fun s a => f a s) s := by
  induction l generalizing s with
  | nil => rfl
  | cons a l ih => exact ih (f a s)

/-- The lane that a slot's copy goes to, and its PCS, do not depend on what a thread's step changes. -/
theorem ThreadStep.lane {l : List Nat} {k i : Nat} {s t : State} (h : ThreadStep l k i s t) (hl : ∀ a ∈ l, 0x20000 ≤ a) (hk : k < 16) (slot : Nat) :
    t.canTake k slot = s.canTake k slot ∧ ∀ lane, t.pcsOf lane = s.pcsOf lane := by
  have hb := s.pb_high k
  have hlow : ∀ (f : Fld) base j, f.at base j 0 < 0x20000 → t.rd f base j = s.rd f base j := fun f base j hat =>
    h.regs.rd ⟨by omega, fun hm => by have := hl _ hm; omega, Or.inl (by omega)⟩
  have hlanes : t.lanes = s.lanes := by rw [h.frame]
  have heff : t.effReg = s.effReg := by
    funext a
    unfold State.effReg
    rw [h.frame]
  have hslot : t.slotLane k slot = s.slotLane k slot := by
    unfold State.slotLane State.patchRib
    rw [hlow F.LPM_RIB_A DEV k (by simp only [Fld.at, F.LPM_RIB_A, DEV]; omega), hlow F.LPM_RIB_B DEV k (by simp only [Fld.at, F.LPM_RIB_B, DEV]; omega)]
  have htx : ∀ lane, s.slotLane k slot = some lane → t.ln F.LN_TX_EN lane = s.ln F.LN_TX_EN lane := fun lane hlane => by
    refine hlow _ _ _ ?_
    have hrib : lane < 8 * 32 := by
      unfold State.slotLane State.patchRib at hlane
      obtain ⟨r, hr, rfl⟩ := Option.map_eq_some_iff.1 hlane
      dsimp only at hr
      generalize (if slot / 8 = 0 then s.rd F.LPM_RIB_A DEV k else s.rd F.LPM_RIB_B DEV k) = v at hr
      split at hr
      · injection hr with hr
        omega
      · exact absurd hr (by simp)
    have hribbon : RIBBON (lane / 8) = 0x10000 + 0x800 * (lane / 8) := if_pos (by omega)
    rw [hribbon]
    simp only [Fld.at, F.LN_TX_EN]
    omega
  refine ⟨?_, fun lane => ?_⟩
  · unfold State.canTake
    rw [hslot]
    cases hlane : s.slotLane k slot with
    | none => rfl
    | some lane =>
      dsimp only
      unfold State.erd State.firstLane State.laneAt
      rw [htx lane hlane, heff, h.pb hl hk, hlanes]
  · unfold State.pcsOf State.lnCtl State.laneAt
    rw [hlanes]

/-- The copy that a slot takes of a record. -/
def copyOf (ser i : Nat) (q : SendSt) (kind : Nat) (body : List Byte) : TxCopy := ⟨ser, i, kind, body, q.submask, q.badcv, q.gap⟩

/-- A slot takes a copy: it is named, and its lane can play the record. -/
def State.takesCopy (s : State) (k : Nat) (q : SendSt) (kind slen : Nat) (body : List Byte) (slot : Nat) : Bool :=
  bitAt q.slots slot && (match s.canTake k slot with
    | some l => playable (s.pcsOf l) kind slen body
    | none => false)

theorem copyTo_shows {k i : Nat} (q : SendSt) (kind slen : Nat) (body : List Byte) (slot : Nat) (s : State) :
    let t := copyTo k i q kind slen body slot s
    ThreadStep [s.pb k + 0x780] k i s t ∧ SameRegs (· ≠ s.pb k + 0x780) s t ∧ (t.patAt k).threads = (s.patAt k).threads ∧ (t.patAt k).ser = (s.patAt k).ser
      ∧ ∀ m, (t.patAt k).queue m = if m = slot ∧ s.takesCopy k q kind slen body slot = true then (s.patAt k).queue m ++ [copyOf (s.patAt k).ser i q kind body]
          else (s.patAt k).queue m := by
  unfold copyTo State.takesCopy
  by_cases hbit : bitAt q.slots slot = true
  · rw [if_neg (by simp [hbit]), hbit]
    cases hlane : s.canTake k slot with
    | none => exact ⟨.refl _ _ _ _, .refl _ _, rfl, rfl, fun m => (if_neg (by simp)).symm⟩
    | some l =>
      dsimp only
      by_cases hplay : playable (s.pcsOf l) kind slen body = true
      · rw [if_pos hplay]
        refine ⟨(ThreadStep.refl _ _ _ _).modPat _, (SameRegs.refl _ s).of_regs rfl, by rw [patAt_modPat_same], by rw [patAt_modPat_same], fun m => ?_⟩
        rw [patAt_modPat_same]
        unfold PatSt.queue
        dsimp only
        by_cases hm : m = slot
        · subst hm
          rw [Tab.get_put_same, if_pos ⟨rfl, hplay⟩]
          rfl
        · rw [Tab.get_put_other _ _ _ hm, if_neg fun h => hm h.1]
      · rw [if_neg hplay]
        refine ⟨(ThreadStep.refl _ _ _ _).wr (f := F.PATE_KIND_SKIP) (base := s.pb k) (j := 0) (.inr (List.mem_singleton.2 rfl)) _,
          (SameRegs.refl _ s).wr (f := F.PATE_KIND_SKIP) (base := s.pb k) (i := 0) (j := 0) (fun h => h rfl) _, rfl, rfl,
          fun m => (if_neg fun h => hplay h.2).symm⟩
  · rw [if_pos hbit, Bool.eq_false_iff.2 hbit]
    exact ⟨.refl _ _ _ _, .refl _ _, rfl, rfl, fun m => (if_neg (by simp)).symm⟩

/-- The first `n` slots have taken their copies of a record. -/
def QueuedUpTo (k i : Nat) (q : SendSt) (kind slen : Nat) (body : List Byte) (s : State) (n : Nat) (v : State) : Prop :=
  ThreadStep [s.pb k + 0x780] k i s v ∧ SameRegs (· ≠ s.pb k + 0x780) s v ∧ (v.patAt k).threads = (s.patAt k).threads ∧ (v.patAt k).ser = (s.patAt k).ser + 1
    ∧ ∀ m, (v.patAt k).queue m = (s.patAt k).queue m ++ if m < n ∧ s.takesCopy k q kind slen body m = true then [copyOf ((s.patAt k).ser + 1) i q kind body] else []

/-- What a SEND queues of one record. -/
theorem queueCopies_shows {k i : Nat} (hk : k < 16) (q : SendSt) (kind slen : Nat) (body : List Byte) (s : State) :
    let t := s.queueCopies k i q kind slen body
    ThreadStep [s.pb k + 0x780] k i s t ∧ SameRegs (· ≠ s.pb k + 0x780) s t ∧ (t.patAt k).threads = (s.patAt k).threads
      ∧ ∀ m, m < 16 → (t.patAt k).queue m = (s.patAt k).queue m ++ if s.takesCopy k q kind slen body m = true then [copyOf ((s.patAt k).ser + 1) i q kind body] else [] := by
  intro t
  have hhigh : ∀ a ∈ [s.pb k + 0x780], 0x20000 ≤ a := fun a ha => by
    have := s.pb_high k
    rw [List.mem_singleton.1 ha]
    omega
  have hall : QueuedUpTo k i q kind slen body s 16 (s.queueCopies k i q kind slen body) := by
    rw [queueCopies_eq, forEach_foldl]
    refine foldl_range_induct (QueuedUpTo k i q kind slen body s) ?_ 16 fun n hn v hv => ?_
    · refine ⟨(ThreadStep.refl _ _ _ _).modPat _, (SameRegs.refl _ s).of_regs rfl, by rw [patAt_modPat_same], by rw [patAt_modPat_same], fun m => ?_⟩
      rw [patAt_modPat_same, if_neg (by omega), List.append_nil]
      rfl
    · obtain ⟨hstep, hregs, hthreads, hser, hqueue⟩ := hv
      obtain ⟨hcopy, hregs', hthreads', hser', hqueue'⟩ := copyTo_shows (k := k) (i := i) q kind slen body n v
      rw [hstep.pb hhigh hk] at hcopy hregs'
      have htakes : v.takesCopy k q kind slen body n = s.takesCopy k q kind slen body n := by
        obtain ⟨hlane, hpcs⟩ := hstep.lane hhigh hk n
        unfold State.takesCopy
        rw [hlane]
        simp only [hpcs]
      refine ⟨hstep.trans hcopy hhigh hk, hregs.trans hregs', hthreads'.trans hthreads, hser'.trans hser, fun m => ?_⟩
      rw [hqueue' m, hqueue m, htakes, hser]
      by_cases hm : m = n
      · subst hm
        by_cases ht : s.takesCopy k q kind slen body m = true
        · rw [if_pos ⟨rfl, ht⟩, if_neg fun h => Nat.lt_irrefl m h.1, if_pos ⟨Nat.lt_succ_self m, ht⟩, List.append_nil]
        · simp [ht]
      · rw [if_neg fun h => hm h.1]
        by_cases hlt : m < n
        · simp only [hlt, show m < n + 1 by omega]
        · simp only [hlt, show ¬ m < n + 1 by omega]
  obtain ⟨hstep, hregs, hthreads, -, hqueue⟩ := hall
  refine ⟨hstep, hregs, hthreads, fun m hm => ?_⟩
  rw [hqueue m]
  simp only [hm, true_and]

/-- A SEND that has no room waits (R278). -/
theorem sendOn_waits {fuel k i : Nat} {s : State} {q : SendSt} (hq : ((s.patAt k).thread i).send = some q) (hn : q.n ≠ 0)
    (hfull : s.sendBlocked k q.slots = true) : State.sendOn (fuel + 1) s k i = s.wr F.THR_STATE (s.pb k) 2 i := by
  rw [State.sendOn, hq]
  dsimp only
  rw [if_neg hn, if_pos hfull]

/-- A SEND of one record queues its copies, and the thread goes on (R278). -/
theorem sendOn_one {fuel k i kind slen : Nat} {s : State} {q : SendSt} {body : List Byte} (hq : ((s.patAt k).thread i).send = some q) (hn : q.n = 1)
    (hroom : s.sendBlocked k q.slots = false) (hrec : s.readRec k (64 * q.rec_) = .ok kind slen body) (hkind : kind ≠ 3) (hlen : slen ≠ 0) :
    State.sendOn (fuel + 2) s k i
      = ((((s.queueCopies k i q kind slen body).modThread k i (fun x => { x with send := some { q with rec_ := q.rec_ + recordSize slen / 64, n := q.n - 1 } })).modThread
          k i (fun x => { x with send := none })).threadNext k i) := by
  rw [State.sendOn, hq]
  dsimp only
  rw [if_neg (by omega), if_neg (by simp [hroom]), hrec]
  dsimp only
  rw [if_neg hkind, if_neg hlen, State.sendOn, thread_modThread_same]
  dsimp only
  rw [if_pos (by omega)]

end Sys2Proof.Machine

/-! Playback and action slots (R274, R280, R284, R287, R293). -/

namespace Sys2Proof.Machine

/-- A substitution writes registers alone. -/
theorem substitute_frame (s : State) (k e : Nat) (body : List Byte) : (s.substitute k e body).1 = { s with regs := (s.substitute k e body).1.regs } := by
  unfold State.substitute
  dsimp only
  split <;> rfl

theorem substitutes_frame (k m : Nat) (x : State × List Byte) (n : Nat) :
    let r := (List.range n).foldl (fun (p : State × List Byte) e => if bitAt m e then p.1.substitute k e p.2 else p) x
    r.1 = { x.1 with regs := r.1.regs } ∧ (m = 0 → r = x) := by
  refine foldl_range_induct (fun _ (r : State × List Byte) => r.1 = { x.1 with regs := r.1.regs } ∧ (m = 0 → r = x)) ⟨rfl, fun _ => rfl⟩ n fun e _ p hp => ?_
  obtain ⟨hframe, hsame⟩ := hp
  by_cases hbit : bitAt m e = true
  · rw [if_pos hbit]
    refine ⟨?_, fun hm => absurd hbit (by rw [hm]; simp [bitAt])⟩
    rw [substitute_frame]
    generalize (p.1.substitute k e p.2).1.regs = y
    rw [hframe]
  · rw [if_neg hbit]
    exact ⟨hframe, hsame⟩

/-- A check-value unit in the transmit path writes registers alone. -/
theorem cvTx_frame (s : State) (k slot pcs kind : Nat) (body : List Byte) (badcv : Bool) :
    (s.cvTx k slot pcs kind body badcv).1 = { s with regs := (s.cvTx k slot pcs kind body badcv).1.regs } := by
  unfold State.cvTx
  dsimp only
  split
  · rfl
  · split
    · rfl
    · split
      · split <;> rfl
      · rfl

theorem cvTx_other {s : State} {k slot pcs kind : Nat} (body : List Byte) (badcv : Bool) (h : kind ≠ 0) : s.cvTx k slot pcs kind body badcv = (s, body) :=
  if_pos (Or.inl h)

/-- The oldest unit of a slot moves into its lane's prefill buffer. -/
theorem unitMove_shows {k : LPatch} {slot : Slot} {s : State} {l : Nat} {c : TxCopy} {rest : List TxCopy} (hdel : s.patDelivers k.val = true)
    (hlane : s.slotLane k.val slot.val = some l) (hq : (s.patAt k.val).queue slot.val = c :: rest) (hpre : s.prefetched k.val c = true)
    (htx : s.txRuns l = true) (hroom : (s.laneAt l).level < 64 * s.ln F.LN_PREFILL l) :
    ∃ t u, exec (.unitMove k slot) s = .next t ∧ (t.patAt k.val).queue slot.val = rest ∧ (t.laneAt l).prefill = (s.laneAt l).prefill ++ [u]
      ∧ u.left = u.body.length ∧ u.gap = max (s.erd F.PSLOT_MIN_GAP (s.pb k.val) slot.val) c.gap ∧ (c.submask = 0 → c.kind ≠ 0 → u.body = c.body)
      ∧ (∀ m, m ≠ l → t.laneAt m = s.laneAt m) ∧ ∀ m, m ≠ slot.val → (t.patAt k.val).queue m = (s.patAt k.val).queue m := by
  obtain ⟨s1, hs1⟩ : ∃ s1 : State, s1 = s.modPat k.val (fun x => { x with queues := x.queues.put slot.val ((x.queue slot.val).drop 1) }) := ⟨_, rfl⟩
  obtain ⟨r, hr⟩ : ∃ r : State × List Byte, r = (List.range 8).foldl (fun (p : State × List Byte) e => if bitAt c.submask e then p.1.substitute k.val e p.2 else p)
    (s1, c.body) := ⟨_, rfl⟩
  obtain ⟨hframe, hplain⟩ := substitutes_frame k.val c.submask (s1, c.body) 8
  rw [← hr] at hframe hplain
  obtain ⟨q, hqq⟩ : ∃ q : State × List Byte, q = r.1.cvTx k.val slot.val (s.pcsOf l) c.kind r.2 c.badcv := ⟨_, rfl⟩
  have hqframe : q.1 = { r.1 with regs := q.1.regs } := by rw [hqq]; exact cvTx_frame _ _ _ _ _ _ _
  have hboth : q.1 = { s1 with regs := q.1.regs } := by rw [hqframe, hframe]
  have hlanes : ∀ m, q.1.laneAt m = s.laneAt m := fun m => by
    unfold State.laneAt
    rw [hboth, hs1]
    rfl
  have hengine : q.1.patAt k.val = s1.patAt k.val := by unfold State.patAt; rw [hboth]
  have hqueues : ∀ m, (q.1.patAt k.val).queue m = if m = slot.val then rest else (s.patAt k.val).queue m := fun m => by
    rw [hengine, hs1, patAt_modPat_same]
    unfold PatSt.queue at hq ⊢
    dsimp only
    split
    · next hm => rw [hm, Tab.get_put_same, hq]; rfl
    · next hm => exact Tab.get_put_other _ _ _ hm
  have hbody : c.submask = 0 → c.kind ≠ 0 → q.2 = c.body := fun hm hkind => by
    rw [hqq, cvTx_other _ _ hkind, hplain hm]
  have hopt : (match s.slotLane k.val slot.val, ((s.patAt k.val).queue slot.val).head? with
      | some l, some c => if s.patDelivers k.val ∧ s.prefetched k.val c ∧ s.txRuns l ∧ (s.laneAt l).level < 64 * s.ln F.LN_PREFILL l then some (l, c) else none
      | _, _ => none) = some (l, c) := by
    rw [hlane, hq]
    exact if_pos ⟨hdel, hpre, htx, hroom⟩
  refine ⟨q.1.modLane l (fun x => { x with prefill := x.prefill ++ [⟨q.2, q.2.length, s.gapAfter k.val slot.val c.gap, false⟩] }),
    ⟨q.2, q.2.length, s.gapAfter k.val slot.val c.gap, false⟩, (actOn_some hopt).trans ?_, (hqueues _).trans (if_pos rfl), ?_, rfl, rfl, hbody, fun m hm => ?_, fun m hm => (hqueues m).trans (if_neg hm)⟩
  · rw [hqq, hr, hs1]
  · rw [State.laneAt_modLane_same, hlanes]
  · rw [State.laneAt_modLane_other _ hm, hlanes]

/-- The word of an action slot: SLOTS holds what is written, LOAD and READY nothing. -/
theorem actionWord (s : State) (k : Nat) (a : Fin 8) (v : W32) :
    (s.mergeWrite (F.ACT_SLOTS.at (s.pb k) a.val 0) v 15).rd F.ACT_SLOTS (s.pb k) a.val = v.toNat % 65536 := by
  have hword : locate (F.ACT_SLOTS.at (s.pb k) a.val 0) = some (.patch, s.ppos k, 0x744 + 8 * a.val) := by
    have h := locate_patch (p := s.ppos k) (o := 0x744 + 8 * a.val) (by have := Nat.min_le_left 17 (s.rd F.LPM_PPOS DEV k); unfold State.ppos; omega) (by omega)
    refine Eq.trans (congrArg locate ?_) h
    simp only [Fld.at, F.ACT_SLOTS, State.pb]
    omega
  obtain ⟨r1, r2, r3, i, hrows, hf, hacc, hclamp, h2, h3⟩ : ∃ r1 r2 r3 : RegRow, ∃ i, rowsAt .patch (s.ppos k) (0x744 + 8 * a.val) = [(r1, i), (r2, i), (r3, i)]
      ∧ r1.f = F.ACT_SLOTS ∧ r1.acc = .rw ∧ r1.clamp = .any ∧ r2.acc = .wo ∧ r3.acc = .ro := by
    fin_cases a <;> exact ⟨_, _, _, _, rfl, rfl, rfl, rfl, rfl, rfl⟩
  unfold State.rd
  rw [State.reg_mergeWrite_same hword, hrows]
  simp only [List.foldl_cons, List.foldl_nil]
  rw [writeField_keeps (r := r3) (by rw [h3]; decide) (by rw [h3]; decide), writeField_keeps (r := r2) (by rw [h2]; decide) (by rw [h2]; decide),
    writeField_rw_all hacc (by rw [hf]; decide) (by rw [hf]; decide) rfl, hf, hclamp, bitsOf_setBitsOf _ _ (by decide) (by decide)]
  simp [bitsOf, F.ACT_SLOTS, Clamp.apply]

/-- A write of an action slot's control word with LOAD clears its READY, and its record waits to be staged (R284). -/
theorem actionLoad_shows {k : LPatch} (a : Fin 8) {v : W32} {s : State} (hon : s.stackOn = true) (hload : bitsOf 16 16 v = 1)
    (hview : s.posView (s.ppos k.val) = .normal) (hsilent : s.silent .patch (0x744 + 8 * a.val) = false) :
    ∃ t, exec (.actionLoad k a v 15) s = .next t ∧ t.rd F.ACT_READY (s.pb k.val) a.val = 0 ∧ t.rd F.ACT_SLOTS (s.pb k.val) a.val = v.toNat % 65536
      ∧ (t.patAt k.val).act? a.val = none ∧ (t.patAt k.val).loads = (s.patAt k.val).loads.filter (fun c => c != a.val) ++ [a.val]
      ∧ t = { s with regs := t.regs, pats := t.pats } := by
  have hwants : F.ACT_LOAD.wants v 15 = 1 := by
    unfold Fld.wants
    rw [show v &&& BitVec.ofNat 32 (enMask 15) = v from BitVec.and_allOnes]
    exact hload
  have hmay : (s.stackOn && F.ACT_LOAD.wants v (15 : BitVec 4).toNat == 1) = true := by
    rw [hon, show (15 : BitVec 4).toNat = 15 from rfl, hwants]
    rfl
  have hdirect : s.viaPatch k.val (0x744 + 8 * a.val) v 15 (s.writeAction k.val a.val v 15) = s.writeAction k.val a.val v 15 := by
    unfold State.viaPatch
    rw [hview, hsilent]
    rfl
  obtain ⟨u, hu⟩ : ∃ u : State, u = s.mergeWrite (F.ACT_SLOTS.at (s.pb k.val) a.val 0) v 15 := ⟨_, rfl⟩
  have hframe : u = { s with regs := u.regs } := by rw [hu]; exact State.mergeWrite_frame _ _ _ _
  have hslots : u.rd F.ACT_SLOTS (s.pb k.val) a.val = v.toNat % 65536 := by rw [hu]; exact actionWord s k.val a v
  have hengine : u.patAt k.val = s.patAt k.val := by unfold State.patAt; rw [hframe]
  have hwrite : s.writeAction k.val a.val v 15 = (u.wr F.ACT_READY (s.pb k.val) 0 a.val).modPat k.val
      (fun x => { x with loads := x.loads.filter (fun b => b != a.val) ++ [a.val], acts := x.acts.put a.val none }) := by
    rw [hu]
    exact if_pos hwants
  have hafter : ((u.wr F.ACT_READY (s.pb k.val) 0 a.val).modPat k.val
      (fun x => { x with loads := x.loads.filter (fun b => b != a.val) ++ [a.val], acts := x.acts.put a.val none })).patAt k.val
      = { s.patAt k.val with loads := (s.patAt k.val).loads.filter (fun b => b != a.val) ++ [a.val], acts := (s.patAt k.val).acts.put a.val none } := by
    rw [patAt_modPat_same, ← hengine]
    rfl
  refine ⟨_, act_next hmay, ?_⟩
  rw [show (15 : BitVec 4).toNat = 15 from rfl, hdirect, hwrite, hafter]
  refine ⟨State.rd_wr_same u _ _ _ _ _ (by decide) (by decide), ?_, Tab.get_put_same _ _ _ _, rfl, ?_⟩
  · exact (State.rd_wr_field u _ _ _ _ _ _ _ _ _ (by decide) (by decide) (by decide) (by decide)).trans hslots
  · rw [hframe]
    rfl

/-- A poisoned read of the engine is counted. -/
theorem patPoison_shows (s : State) {k : Nat} (hk : k < 16) (a : Nat) :
    let t := s.patPoison k
    t.patAt k = s.patAt k ∧ t.rd F.ACT_READY (s.pb k) a = s.rd F.ACT_READY (s.pb k) a
      ∧ t.rd F.PATE_PAT_POISON (s.pb k) = min 65535 (s.rd F.PATE_PAT_POISON (s.pb k) + 1) := by
  intro t
  obtain ⟨u, hu⟩ : ∃ u : State, u = (s.unmark k).bump F.PATE_PAT_POISON (s.pb k) := ⟨_, rfl⟩
  have ht : t = u.raiseP k 4 := by rw [hu]; rfl
  have hhead := u.raiseP_head hk 4
  have hpb : u.pb k = s.pb k := by
    have hhigh := s.pb_high k
    unfold State.pb State.ppos
    rw [hu]
    refine congrArg (fun n => PATCH (min 17 n)) (State.rd_wr_word (s.unmark k) _ _ _ _ _ _ _ _ _ ?_)
    simp only [Fld.at, F.LPM_PPOS, F.PATE_PAT_POISON, DEV]
    omega
  have hkeep : ∀ f : Fld, ∀ j, 0x20 ≤ f.off → t.rd f (s.pb k) j = u.rd f (s.pb k) j := fun f j hf => by
    rw [ht]
    exact hhead.regs.rd (Or.inr (by rw [hpb]; simp only [Fld.at]; omega))
  refine ⟨?_, (hkeep _ _ (by decide)).trans ?_, (hkeep _ _ (by decide)).trans ?_⟩
  · unfold State.patAt
    rw [ht, hhead.frame, hu]
    rfl
  · rw [hu]
    exact State.rd_wr_word (s.unmark k) _ _ _ _ _ _ _ _ _ (by simp only [Fld.at, F.ACT_READY, F.PATE_PAT_POISON]; omega)
  · rw [hu]
    exact State.rd_bump_same _ _ _ (by decide) (by decide)

/-- A SEND of one record shows its copies, and that the thread has passed on. -/
theorem sendOne_shows {k i : Nat} (hk : k < 16) (hi : i < 4) (v : State) (q : SendSt) (kind slen : Nat) (body : List Byte) (f : ThreadSt → ThreadSt) :
    let t := ((((v.queueCopies k i q kind slen body).modThread k i f).modThread k i (fun x => { x with send := none })).threadNext k i)
    t.rd F.THR_PC (v.pb k) i = (v.rd F.THR_PC (v.pb k) i + 1) % 65536 ∧ ((t.patAt k).thread i).send = none
      ∧ ∀ m, m < 16 → (t.patAt k).queue m
          = (v.patAt k).queue m ++ if v.takesCopy k q kind slen body m = true then [copyOf ((v.patAt k).ser + 1) i q kind body] else [] := by
  intro t
  obtain ⟨hstep, hregs, -, hqueue⟩ := queueCopies_shows hk (i := i) q kind slen body v
  obtain ⟨w, hw⟩ : ∃ w : State, w = v.queueCopies k i q kind slen body := ⟨_, rfl⟩
  obtain ⟨x, hx⟩ : ∃ x : State, x = (w.modThread k i f).modThread k i (fun x => { x with send := none }) := ⟨_, rfl⟩
  have ht : t = x.threadNext k i := by rw [hx, hw]
  rw [← hw] at hstep hregs hqueue
  have hstepx : ThreadStep [v.pb k + 0x780] k i v x := by
    rw [hx]
    exact (hstep.modThread _).modThread _
  have hpcAt := (thrWord_at (v.pb k) i).2.2.2
  have hpc : x.rd F.THR_PC (v.pb k) i = v.rd F.THR_PC (v.pb k) i := by
    rw [hx]
    exact hregs.rd (by rw [hpcAt]; omega)
  obtain ⟨-, hgoes, -⟩ := State.threadNext_after hstepx (by simp) hk hpc
  obtain ⟨-, -, -, -, -, hqueues, hnone, -⟩ := x.threadTo_shows hk i (x.rd F.THR_PC (x.pb k) i + 1)
  rw [ht]
  refine ⟨hgoes.1, hnone (by rw [hx, thread_modThread_same]), fun m hm => ?_⟩
  have hsame : ((x.threadNext k i).patAt k).queue m = (w.patAt k).queue m := by
    unfold PatSt.queue
    refine (congrArg (fun y => Tab.get (fun _ => []) y m) hqueues).trans ?_
    rw [hx, queues_modThread, queues_modThread]
  rw [hsame]
  exact hqueue m hm

theorem patternAsk {k : LPatch} {cmd : Nat} {s t : State} (hlive : s.patchLive k.val = true) (hcmd : cmd = 1 ∨ cmd = 2) (threads : BitVec 4) (c : Option CmdRef)
    (h : s.patternCmd k.val cmd threads.toNat c = some t) : exec (if cmd = 1 then .patternStart k threads c else .patternStop k threads c) s = .next t := by
  rcases hcmd with rfl | rfl
  · exact actOn_some ((if_pos hlive).trans h)
  · exact actOn_some ((if_pos hlive).trans h)

/-- A staged record of an action slot (R284). -/
theorem exec_actionStaged {k : LPatch} {a : Fin 8} {s : State} (hruns : s.engineRuns k.val = true) (hin : a.val ∈ (s.patAt k.val).staging) (hbanks : s.patBanks k.val ≠ 0) :
    let s1 := s.modPat k.val (fun x => { x with staging := x.staging.filter (fun b => b != a.val) })
    exec (.actionStaged k a) s = .next (match s.readRec k.val (64 * s.rd F.ACT_REC (s.pb k.val) a.val) with
      | .poisonHead => s1.patPoison k.val
      | .poisonBody _ => s1.patPoison k.val
      | .ok kind slen body =>
        if kind = 3 then s1
        else if slen = 0 then s1.bump F.PATE_KIND_SKIP (s.pb k.val)
        else (s1.wr F.ACT_READY (s.pb k.val) 1 a.val).modPat k.val (fun x => { x with
          acts := x.acts.put a.val (some { ser := 0, thread := 4, kind := kind, body := body, submask := 0, badcv := false, gap := 0 }) })) := by
  refine act_next ?_
  rw [hruns, decide_eq_true hin]
  exact bne_iff_ne.2 hbanks

/-- Settles O38: a SEND queues copies slot by slot, each the same wherever its lane can play it; what playback and the action slots do is read
off one write or one read of a record. -/
theorem patternPlayback : Obligations.PatternPlayback := by
  unfold Obligations.PatternPlayback
  refine ⟨fun k th s hruns => ?send, fun k s => ⟨?cmd, ?move, ?load, ?staged⟩⟩
  case send =>
    intro i d slots u b hstate hpc hop
    have hk : k.val < 16 := k.isLt
    obtain ⟨q, hq⟩ : ∃ q : SendSt, q = ⟨field d 88 64, max 1 (field d 63 32), field d 19 4, field d 27 20, bitAt d 28, field d 103 96⟩ := ⟨_, rfl⟩
    have hexec : exec (.send k th) s = .next (State.sendOn 65 (u.sends k.val i q) k.val i) := by
      rw [hq]
      exact exec_send_begins hruns hstate hpc hop
    obtain ⟨hframe, hstep, hsend, hqueues, hser, htwo, hsame⟩ := u.sends_shows k.val i q
    obtain ⟨v, hv⟩ : ∃ v : State, v = u.sends k.val i q := ⟨_, rfl⟩
    rw [← hv] at hexec hframe hstep hsend hqueues hser htwo hsame
    have hpb : v.pb k.val = b := hstep.pb (by simp) hk
    have hblocked := sendBlocked_of_queues hqueues slots
    have hslots : q.slots = slots := by rw [hq]
    refine ⟨fun hfull => ?_, fun kind slen body hroom hone hrec hkind hlen => ?_⟩
    · have hwait : State.sendOn 65 v k.val i = v.wr F.THR_STATE b 2 i := by
        rw [← hpb]
        exact sendOn_waits hsend (by rw [hq]; exact Nat.ne_of_gt (Nat.lt_of_lt_of_le Nat.one_pos (Nat.le_max_left _ _))) (by rw [hslots, hblocked]; exact hfull)
      refine ⟨_, q, hexec.trans (congrArg Host.Outcome.next hwait), State.rd_wr_same _ _ _ _ _ _ (by decide) (by decide), hsend, ?_, ?_, hslots, hqueues, ?_⟩
      · rw [hq]
      · rw [hq]
      · rw [hframe]
        rfl
    · have hrec' : v.readRec k.val (64 * q.rec_) = .ok kind slen body := by
        rw [hq, ← hrec]
        exact readRec_of_bolts (by rw [hframe]) (by rw [hframe]) _ _
      have hnext := sendOn_one (fuel := 63) hsend (by rw [hq]; exact hone) (by rw [hslots, hblocked]; exact hroom) hrec' hkind hlen
      obtain ⟨hpc', hnone, hcopies⟩ := sendOne_shows hk th.isLt v q kind slen body (fun x => { x with send := some { q with rec_ := q.rec_ + recordSize slen / 64, n := q.n - 1 } })
      refine ⟨_, hexec.trans (congrArg Host.Outcome.next hnext), ?_, hnone, fun slot hslot => ?_⟩
      · rw [hpb, hsame] at hpc'
        exact hpc'
      · obtain ⟨hlane, hpcs⟩ := hstep.lane (by simp) hk slot
        have hqueue : (v.patAt k.val).queue slot = (u.patAt k.val).queue slot := by unfold PatSt.queue; rw [hqueues]
        have htakes : v.takesCopy k.val q kind slen body slot = (bitAt slots slot && (match u.canTake k.val slot with
            | some l => playable (u.pcsOf l) kind slen body
            | none => false)) := by
          unfold State.takesCopy
          rw [hlane, hslots]
          simp only [hpcs]
        rw [hcopies slot hslot, hqueue, htakes, hser, hq]
        simp only [Bool.and_eq_true, copyOf]
        rfl
  case cmd =>
    intro cmd threads hlive hcmd
    refine ⟨fun hview hsilent => ?_, fun c hasked => ?_⟩
    · have hdirect : s.patternCmd k.val cmd threads.toNat none = some (s.patCmd k.val cmd threads.toNat none) := by
        unfold State.patternCmd State.viaPatch
        rw [hview, hsilent]
        rfl
      have hreq : s.patCmd k.val cmd threads.toNat none = s.modPat k.val (fun x => { x with reqs := x.reqs ++ [(cmd, threads.toNat, none)] }) := if_pos hcmd
      refine ⟨_, patternAsk hlive hcmd threads none (hdirect.trans (congrArg some hreq)), patAt_modPat_same _ _ _, rfl⟩
    · obtain ⟨d, hd, htarget, hcode, hthreads⟩ := hasked
      have hdirect : s.patternCmd k.val cmd threads.toNat (some c) = some ((s.setPhase c .running).patCmd k.val cmd threads.toNat (some c)) := by
        unfold State.patternCmd
        dsimp only
        rw [hd]
        exact if_pos ⟨htarget, hcode, hthreads⟩
      have hreq : (s.setPhase c .running).patCmd k.val cmd threads.toNat (some c)
          = (s.setPhase c .running).modPat k.val (fun x => { x with reqs := x.reqs ++ [(cmd, threads.toNat, some c)] }) := if_pos hcmd
      exact ⟨_, patternAsk hlive hcmd threads (some c) (hdirect.trans (congrArg some hreq)), patAt_modPat_same _ _ _, enters_setPhase (u := s) rfl c .running rfl, rfl⟩
  case move =>
    intro slot l c rest hdel hlane hq hpre htx hroom
    exact unitMove_shows hdel hlane hq hpre htx hroom
  case load =>
    intro a v hon hload hview hsilent
    exact actionLoad_shows a hon hload hview hsilent
  case staged =>
    intro a hruns hin hbanks rec_ left
    have hexec := exec_actionStaged hruns hin hbanks
    obtain ⟨s1, hs1⟩ : ∃ s1 : State, s1 = s.modPat k.val (fun x => { x with staging := x.staging.filter (fun b => b != a.val) }) := ⟨_, rfl⟩
    dsimp only at hexec
    rw [← hs1] at hexec
    have hengine : s1.patAt k.val = { s.patAt k.val with staging := left } := by rw [hs1]; exact patAt_modPat_same _ _ _
    have hregs : s1.regs = s.regs := by rw [hs1]; rfl
    refine ⟨fun kind slen body hrec hkind hlen => ?_, fun slen body hrec => ?_, fun hrec => ?_⟩
    · rw [show s.readRec k.val (64 * s.rd F.ACT_REC (s.pb k.val) a.val) = _ from hrec] at hexec
      dsimp only at hexec
      rw [if_neg hkind, if_neg hlen] at hexec
      refine ⟨_, hexec, State.rd_wr_same s1 _ _ _ _ _ (by decide) (by decide), ?_, ?_⟩
      · rw [patAt_modPat_same]
        exact Tab.get_put_same _ _ _ _
      · rw [patAt_modPat_same]
        exact congrArg PatSt.staging hengine
    · rw [show s.readRec k.val (64 * s.rd F.ACT_REC (s.pb k.val) a.val) = _ from hrec] at hexec
      dsimp only at hexec
      rw [if_pos rfl] at hexec
      exact ⟨_, hexec, hregs, by rw [hengine], by rw [hengine]⟩
    · rw [show s.readRec k.val (64 * s.rd F.ACT_REC (s.pb k.val) a.val) = _ from hrec] at hexec
      dsimp only at hexec
      have hrd : ∀ (f : Fld) base i, s1.rd f base i = s.rd f base i := fun f base i => by
        unfold State.rd State.reg
        rw [hregs]
      have hpb : s1.pb k.val = s.pb k.val := by
        unfold State.pb State.ppos
        rw [hrd]
      obtain ⟨hsame, hready, hpoison⟩ := patPoison_shows s1 k.isLt a.val
      rw [hpb, hrd] at hready
      rw [hpb, hrd] at hpoison
      exact ⟨_, hexec, by rw [hsame, hengine], hready, hpoison⟩

end Sys2Proof.Machine

/-! The loader: a frame of the device's section, an abort, and a header that is taken (R425 to R429, R435 to R440). -/

namespace Sys2Proof.Machine

theorem Status.code_lt (st : Status) : st.code < 256 := by cases st <;> decide

theorem State.cfg_completeOpt (s : State) (c : Option CmdRef) (st : Status) (data : List Nat) : (s.completeOpt c st data).cfg = s.cfg := by
  cases c <;> rfl

theorem State.rd_completeOpt (s : State) (c : Option CmdRef) (st : Status) (data : List Nat) (f : Fld) (base i j : Nat) :
    (s.completeOpt c st data).rd f base i j = s.rd f base i j := by
  cases c <;> rfl

/-- The words of a slot are none of those that show the load. -/
theorem slotWord_ne (f : Fld) (h : f.off < 0x40 ∧ f.st1 = 0) (g : Fld) (hg : g.off = 0x40 ∧ g.st2 = 0) (d : Nat) : f.at CFG 0 0 ≠ g.at CFG d 0 := by
  simp only [Fld.at, h.2, hg.1, hg.2]
  omega

theorem State.abortLoad_shows (s : State) (l : LoadSt) {cause : Nat} (h : cause < 16) (st : Status) :
    let t := s.abortLoad l cause st
    t.cfg.load = none ∧ t.rd F.CFG_CAUSE CFG = cause ∧ t.rd F.CFG_LAST_STATUS CFG = st.code := by
  obtain ⟨u, hu⟩ : ∃ u : State, u = (((s.setLoad none).wr F.CFG_CAUSE CFG cause).wr F.CFG_LAST_STATUS CFG st.code).completeOpt l.c st (l.words cause) :=
    ⟨_, rfl⟩
  have hload : u.cfg.load = none := by rw [hu, State.cfg_completeOpt]; rfl
  have hcause : u.rd F.CFG_CAUSE CFG = cause := by
    rw [hu, State.rd_completeOpt, State.rd_wr_field _ _ _ _ _ _ _ _ _ _ (by decide) (by decide) (by decide) (by decide),
      State.rd_wr_same _ _ _ _ _ _ (by decide) (by decide)]
    exact Nat.mod_eq_of_lt h
  have hstatus : u.rd F.CFG_LAST_STATUS CFG = st.code := by
    rw [hu, State.rd_completeOpt, State.rd_wr_same _ _ _ _ _ _ (by decide) (by decide)]
    exact Nat.mod_eq_of_lt st.code_lt
  unfold State.abortLoad
  dsimp only
  rw [← hu]
  have hslot : ∀ (f : Fld) (d : Nat), f.off < 0x40 ∧ f.st1 = 0 → ((u.wr F.CFG_SSTATE CFG 0 d).wr F.CFG_SIZE_MIB CFG 0 d).rd f CFG = u.rd f CFG := fun f d hf => by
    rw [State.rd_wr_word _ _ _ _ _ _ _ _ _ _ (slotWord_ne f hf _ (by decide) d), State.rd_wr_word _ _ _ _ _ _ _ _ _ _ (slotWord_ne f hf _ (by decide) d)]
  have hstate : ∀ (f : Fld) (v : Nat), f.lo ≤ f.hi ∧ 1 < f.lo → (u.wr F.CFG_STATE CFG v).rd f CFG = u.rd f CFG := fun f v hf =>
    State.rd_wr_field _ _ _ _ _ _ _ _ _ _ (by decide) (by decide) hf.1 (.inr hf.2)
  split
  · next d _ => exact ⟨hload, (hslot _ d (by decide)).trans hcause, (hslot _ d (by decide)).trans hstatus⟩
  · split <;> split
    · exact ⟨hload, (hstate _ _ (by decide)).trans hcause, (hstate _ _ (by decide)).trans hstatus⟩
    · exact ⟨hload, hcause, hstatus⟩
    · exact ⟨hload, (hstate _ _ (by decide)).trans hcause, (hstate _ _ (by decide)).trans hstatus⟩
    · exact ⟨hload, hcause, hstatus⟩

theorem State.showLoad_of_none {s : State} (h : s.cfg.load = none) : s.showLoad = s := by
  unfold State.showLoad
  rw [h]

theorem State.showLoad_of_some {s : State} {l : LoadSt} (h : s.cfg.load = some l) :
    s.showLoad = (s.setLoad (some { l with mine := l.mine && (l.dest.isSome || decide (l.left ≠ 0)) })).wr F.CFG_FRAMES CFG l.frames := by
  unfold State.showLoad
  rw [h]

/-- A load as a frame of its section leaves it before the frame's own effect. -/
def LoadSt.counted (l : LoadSt) : LoadSt := { l with again := false, keyFrames := l.keyFrames + 1, left := l.left - 1, seen := l.seen + 1 }

/-- The load goes on as it stands, less its section where no frame is left. -/
structure GoesOn (t : State) (q : LoadSt) : Prop where
  load : t.cfg.load = some { q with mine := q.mine && decide (q.left ≠ 0) }
  frames : t.rd F.CFG_FRAMES CFG = q.frames % 2 ^ 32

theorem goesOn_showLoad {s : State} {q : LoadSt} (hload : s.cfg.load = some q) (hd : q.dest = none) : GoesOn s.showLoad q := by
  rw [State.showLoad_of_some hload]
  refine ⟨?_, State.rd_wr_same _ _ _ _ _ _ (by decide) (by decide)⟩
  rw [hd]
  rfl

/-- Nothing differs but the registers and the load. -/
def LoadOnly (s t : State) : Prop := t = { s with regs := t.regs, cfg := { s.cfg with load := t.cfg.load } }

theorem loadOnly_setLoad (s : State) (q : LoadSt) : LoadOnly s (s.setLoad (some q)).showLoad := rfl

section Frames

variable {f : FrameInfo} {l : LoadSt} {s : State}

theorem onFrame_own (hl : s.loading = some l) (hd : l.dest = none) (hc : f.crcOk = true) (hk : l.keyFrames < 126) (e : LoadSt → State → State) :
    s.onFrame f e = .next (e l.counted s).showLoad := by
  refine (actOn_some hl).trans (congrArg Host.Outcome.next ?_)
  have hslot : ¬ l.dest.isSome = true := by rw [hd]; decide
  rw [hc]
  exact (if_neg (by decide)).trans ((if_neg hslot).trans (if_neg (by omega)))

/-- A frame whose effect is on the load alone. -/
theorem onFrame_sets (hl : s.loading = some l) (hd : l.dest = none) (hc : f.crcOk = true) (hk : l.keyFrames < 126) {e : LoadSt → State → State}
    {q : LoadSt} (he : e l.counted s = s.setLoad (some q)) (hq : q.dest = l.dest) : ∃ t, s.onFrame f e = .next t ∧ GoesOn t q ∧ LoadOnly s t := by
  refine ⟨_, onFrame_own hl hd hc hk e, ?_, ?_⟩ <;> rw [he]
  · exact goesOn_showLoad rfl (hq.trans hd)
  · exact loadOnly_setLoad s q

theorem onFrame_tooMany (hl : s.loading = some l) (hd : l.dest = none) (hc : f.crcOk = true) (hk : 126 ≤ l.keyFrames) (e : LoadSt → State → State) :
    s.onFrame f e = .next (s.abortLoad l 6 .refused) := by
  refine (actOn_some hl).trans (congrArg Host.Outcome.next ?_)
  have hslot : ¬ l.dest.isSome = true := by rw [hd]; decide
  rw [hc]
  exact (if_neg (by decide)).trans ((if_neg hslot).trans (if_pos hk))

theorem onFrame_slot (hl : s.loading = some l) (hd : l.dest.isSome = true) (hc : f.crcOk = true) (e : LoadSt → State → State) :
    s.onFrame f e = .next (s.setLoad (some { l with again := false, frames := l.frames + 1 })).showLoad := by
  refine (actOn_some hl).trans (congrArg Host.Outcome.next ?_)
  rw [hc, if_neg (by decide), if_pos hd]

theorem onFrame_fails (hl : s.loading = some l) (hc : f.crcOk = false) (hr : f.readError = false) (e : LoadSt → State → State) :
    s.onFrame f e = .next (if l.again then s.abortLoad l 2 .poison else s.requestAgain l false) := by
  refine (actOn_some hl).trans (congrArg Host.Outcome.next ?_)
  rw [hc, hr, if_pos (by decide)]
  unfold State.requestAgain
  rw [if_neg (by decide)]
  cases l.again <;> rfl

theorem State.requestAgain_shows (hagain : l.again = false) :
    (s.requestAgain l false).cfg.load = some { l with again := true, repeats := l.repeats + 1 }
      ∧ (s.requestAgain l false).rd F.CFG_RETRIES CFG = min F.CFG_RETRIES.max (s.rd F.CFG_RETRIES CFG + 1) := by
  have hcount : ((s.setLoad (some { l with again := true, repeats := l.repeats + 1 })).bump F.CFG_RETRIES CFG).rd F.CFG_RETRIES CFG
      = min F.CFG_RETRIES.max (s.rd F.CFG_RETRIES CFG + 1) := State.rd_bump_same _ _ _ (by decide) (by decide)
  unfold State.requestAgain
  rw [hagain, if_neg (by decide), if_neg (by decide)]
  dsimp only
  split
  · exact ⟨rfl, hcount⟩
  · exact ⟨rfl, hcount⟩

/-- A frame of a plane is written in the way that its plane and the load's mode say (R427, R441, R445). -/
theorem framePlane_shows (hl : s.loading = some l) (hd : l.dest = none) (hc : f.crcOk = true) (hk : l.keyFrames < 126)
    (k : LPatch) (plane : BitVec 4) {index : BitVec 11} (id : W16) (items : List PlaneItem) (hindex : index.toNat < 1800) (hmode : l.full = true ∨ 2 ≤ plane.toNat) :
    let pl := min plane.toNat 7
    let waits := l.full = false ∧ s.rd F.LPM_HOVER DEV k.val = 1 ∧ 2 ≤ s.rd F.RES_PHASE RES
    ∃ t q, exec (.framePlane f k plane index ⟨id, items⟩) s = .next t ∧ t.cfg.load = some q ∧ q.frames = l.frames + 1 ∧ q.left = l.left - 1
      ∧ q.got.get (fun _ => false) (2048 * (8 * k.val + pl) + index.toNat) = true ∧ q.keyFrames = l.keyFrames + 1
      ∧ (q.planes.any (fun p => p.1 == k.val && p.2.1 == pl)) = true ∧ t.rd F.CFG_FRAMES CFG = (l.frames + 1) % 2 ^ 32
      ∧ (pl = 0 → (t.fabAt k.val).aCfg = Tab.put (s.fabAt k.val).aCfg index.toNat items)
      ∧ (pl = 1 → (t.fabAt k.val).sCfg = Tab.put (s.fabAt k.val).sCfg index.toNat items)
      ∧ (2 ≤ pl → ¬ waits → t.rd F.DIR_VALID (s.pb k.val) (pl - 2) = 0
        ∧ (t.fabAt k.val).store.get (fun _ => []) (pl - 2) = Tab.put ((s.fabAt k.val).store.get (fun _ => []) (pl - 2)) index.toNat items)
      ∧ (2 ≤ pl → waits → t.fabs = s.fabs ∧ t.cfg.heldWrites = s.cfg.heldWrites ++ [(k.val, pl - 2, index.toNat, items)]) := by
  intro pl waits
  obtain ⟨q, hq⟩ : ∃ q : LoadSt, q = { l.counted with
      planes := if l.planes.any (fun p => p.1 == k.val && p.2.1 == pl) then l.planes else l.planes ++ [(k.val, pl, id.toNat)]
      got := l.got.put (2048 * (8 * k.val + pl) + index.toNat) true
      frames := l.frames + 1 } := ⟨_, rfl⟩
  obtain ⟨u, hu⟩ : ∃ u : State, u = if pl < 2 then (s.setLoad (some q)).writeFrame k.val pl index.toNat items
      else if !l.full ∧ s.rd F.LPM_HOVER DEV k.val = 1 ∧ 2 ≤ s.rd F.RES_PHASE RES then
        { s.setLoad (some q) with cfg := { (s.setLoad (some q)).cfg with heldWrites := s.cfg.heldWrites ++ [(k.val, pl - 2, index.toNat, items)] } }
      else (s.setLoad (some q)).writeStored k.val (pl - 2) index.toNat items := ⟨_, rfl⟩
  have hrun : exec (.framePlane f k plane index ⟨id, items⟩) s = .next u.showLoad := by
    change execFramePlane f k plane index ⟨id, items⟩ s = _
    unfold execFramePlane
    refine (onFrame_own hl hd hc hk _).trans (congrArg (fun t : State => Host.Outcome.next t.showLoad) ?_)
    have hwrites : ((!l.full && decide (pl < 2)) || decide (1800 ≤ index.toNat)) = false := by
      rcases hmode with h | h
      · simp [h, hindex]
      · have h2 : ¬ pl < 2 := by omega
        simp [h2, hindex]
    refine (if_neg (ne_true_of_eq_false hwrites)).trans ?_
    rw [hu, hq]
    rfl
  have hload : u.cfg.load = some q := by
    rw [hu]
    split
    · rfl
    · split <;> rfl
  have hqd : q.dest = none := by rw [hq]; exact hd
  obtain ⟨hgoes, hframes⟩ := goesOn_showLoad hload hqd
  have hfabs : u.showLoad.fabs = u.fabs := by rw [State.showLoad_of_some hload]; rfl
  have hfab : u.showLoad.fabAt k.val = u.fabAt k.val := by simp only [State.fabAt, hfabs]
  have hheld : u.showLoad.cfg.heldWrites = u.cfg.heldWrites := by rw [State.showLoad_of_some hload]; rfl
  have hdir : u.showLoad.rd F.DIR_VALID (s.pb k.val) (pl - 2) = u.rd F.DIR_VALID (s.pb k.val) (pl - 2) := by
    rw [State.showLoad_of_some hload]
    refine State.rd_wr_word _ _ _ _ _ _ _ _ _ _ ?_
    have := s.pb_high k.val
    simp only [Fld.at, F.DIR_VALID, F.CFG_FRAMES, CFG]
    omega
  have hlow : pl < 2 → u = (s.setLoad (some q)).writeFrame k.val pl index.toNat items := fun h => hu.trans (if_pos h)
  refine ⟨_, _, hrun, hgoes, by rw [hq], by rw [hq]; rfl, ?_, by rw [hq]; rfl, ?_, ?_, fun h => ?_, fun h => ?_, fun h hw => ?_, fun h hw => ?_⟩
  · rw [hq]
    exact Tab.get_put_same _ _ _ _
  · rw [hq]
    dsimp only
    split
    · assumption
    · simp
  · rw [hframes, hq]
  · rw [hfab, hlow (by omega)]
    unfold State.writeFrame
    rw [State.fabAt_setFab_same, if_pos h]
    rfl
  · rw [hfab, hlow (by omega)]
    unfold State.writeFrame
    rw [State.fabAt_setFab_same, if_neg (by omega), if_pos h]
    rfl
  · have hstored : u = (s.setLoad (some q)).writeStored k.val (pl - 2) index.toNat items := by
      rw [hu, if_neg (by omega), if_neg]
      simpa [waits] using hw
    rw [hdir, hfab, hstored]
    refine ⟨State.rd_wr_same _ _ _ _ _ _ (by decide) (by decide), ?_⟩
    have hframe : ((s.setLoad (some q)).writeStored k.val (pl - 2) index.toNat items).fabAt k.val
        = ((s.setLoad (some q)).writeFrame k.val (pl - 2 + 2) index.toNat items).fabAt k.val := rfl
    rw [hframe]
    unfold State.writeFrame
    rw [State.fabAt_setFab_same, if_neg (by omega), if_neg (by omega), Nat.add_sub_cancel]
    exact Tab.get_put_same _ _ _ _
  · have hwaits : u = { s.setLoad (some q) with cfg := { (s.setLoad (some q)).cfg with heldWrites := s.cfg.heldWrites ++ [(k.val, pl - 2, index.toNat, items)] } } := by
      rw [hu, if_neg (by omega), if_pos]
      simpa [waits] using hw
    rw [hfabs, hheld, hwaits]
    exact ⟨rfl, rfl⟩

/-- A chunk of the inactive jack slot (R427, R533). -/
theorem frameJack_shows (hl : s.loading = some l) (hd : l.dest = none) (hc : f.crcOk = true) (hk : l.keyFrames < 126)
    (chunk : BitVec 11) (last : Bool) (items : List PlaneItem) : ∃ t, exec (.frameJack f chunk ⟨last, items⟩) s = .next t
      ∧ GoesOn t { l.counted with jackGot := l.jackGot ++ [chunk.toNat], frames := l.frames + 1 }
      ∧ Tab.get (fun _ => []) (t.cfg.jackImgs.get (fun _ => []) (1 - s.rd F.JK_ACTIVE JACK) : Plane) chunk.toNat = items
      ∧ (s.rd F.JK_ACTIVE JACK = 1 → t.rd F.JK_VALID0 JACK = bit last ∧ t.rd F.JK_VALID1 JACK = s.rd F.JK_VALID1 JACK)
      ∧ (s.rd F.JK_ACTIVE JACK ≠ 1 → t.rd F.JK_VALID1 JACK = bit last ∧ t.rd F.JK_VALID0 JACK = s.rd F.JK_VALID0 JACK) := by
  obtain ⟨q, hq⟩ : ∃ q : LoadSt, q = { l.counted with jackGot := l.jackGot ++ [chunk.toNat], frames := l.frames + 1 } := ⟨_, rfl⟩
  obtain ⟨w, hw⟩ : ∃ w : State, w = if s.idleJack = 0 then (s.setLoad (some q)).wr F.JK_VALID0 JACK (bit last) else (s.setLoad (some q)).wr F.JK_VALID1 JACK (bit last) :=
    ⟨_, rfl⟩
  have hwcfg : w.cfg = { s.cfg with load := some q } := by rw [hw]; split <;> rfl
  obtain ⟨img, himg⟩ : ∃ img : Plane, img = Tab.put ((s.cfg.jackImgs.get (fun _ => []) s.idleJack).filter (fun e => !last || decide (e.1 < chunk.toNat))) chunk.toNat items :=
    ⟨_, rfl⟩
  obtain ⟨u, hu⟩ : ∃ u : State, u = { w with cfg := { w.cfg with
      jackImgs := s.cfg.jackImgs.put s.idleJack img
      jackValid := if s.idleJack = 0 then (bit last, s.cfg.jackValid.2) else (s.cfg.jackValid.1, bit last) } } := ⟨_, rfl⟩
  have hrun : exec (.frameJack f chunk ⟨last, items⟩) s = .next u.showLoad := by
    change execFrameJack f chunk ⟨last, items⟩ s = _
    unfold execFrameJack
    refine (onFrame_own hl hd hc hk _).trans (congrArg (fun t : State => Host.Outcome.next t.showLoad) ?_)
    rw [hu, himg, hwcfg, hw, hq]
    dsimp only
    split <;> rfl
  have hload : u.cfg.load = some q := by rw [hu, hwcfg]
  have hqd : q.dest = none := by rw [hq]; exact hd
  have hbit : bit last % 2 = bit last := by cases last <;> rfl
  have hshow : ∀ f : Fld, u.showLoad.rd F.JK_VALID0 JACK = w.rd F.JK_VALID0 JACK ∧ u.showLoad.rd F.JK_VALID1 JACK = w.rd F.JK_VALID1 JACK := fun f => by
    rw [State.showLoad_of_some hload, State.rd_wr_word _ _ _ _ _ _ _ _ _ _ (by decide), State.rd_wr_word _ _ _ _ _ _ _ _ _ _ (by decide), hu]
    exact ⟨rfl, rfl⟩
  refine ⟨_, hrun, hq ▸ goesOn_showLoad hload hqd, ?_, fun h => ?_, fun h => ?_⟩
  · have himgs : u.showLoad.cfg.jackImgs = s.cfg.jackImgs.put s.idleJack img := by
      rw [State.showLoad_of_some hload, hu]
      rfl
    rw [himgs]
    refine (congrArg (fun p : Plane => Tab.get (fun _ => []) p chunk.toNat) (Tab.get_put_same _ _ _ _)).trans ?_
    rw [himg]
    exact Tab.get_put_same _ _ _ _
  · have hidle : s.idleJack = 0 := by unfold State.idleJack; omega
    rw [(hshow F.JK_VALID0).1, (hshow F.JK_VALID0).2, hw, if_pos hidle]
    exact ⟨(State.rd_wr_same _ _ _ _ _ _ (by decide) (by decide)).trans hbit,
      State.rd_wr_field _ _ _ _ _ _ _ _ _ _ (by decide) (by decide) (by decide) (by decide)⟩
  · have hidle : s.idleJack ≠ 0 := by
      have := s.rd_lt F.JK_ACTIVE JACK 0 0
      simp only [F.JK_ACTIVE] at this h
      unfold State.idleJack
      simp only [F.JK_ACTIVE]
      omega
    rw [(hshow F.JK_VALID0).1, (hshow F.JK_VALID0).2, hw, if_neg hidle]
    exact ⟨(State.rd_wr_same _ _ _ _ _ _ (by decide) (by decide)).trans hbit,
      State.rd_wr_field _ _ _ _ _ _ _ _ _ _ (by decide) (by decide) (by decide) (by decide)⟩

theorem frameEnd_short (hl : s.loading = some l) (hd : l.dest = none) (hc : f.crcOk = true) (hk : l.keyFrames < 126) (hshort : l.complete_ = false) :
    exec (.frameEnd f) s = .next (s.abortLoad l.counted 5 .streamShort) := by
  change execFrameEnd f s = _
  unfold execFrameEnd
  refine (onFrame_own hl hd hc hk _).trans (congrArg Host.Outcome.next ?_)
  have habort : (if !l.counted.complete_ then s.abortLoad l.counted 5 .streamShort else s.setLoad (some { l.counted with mine := false, ended := true }))
      = s.abortLoad l.counted 5 .streamShort := if_pos (by rw [Bool.not_eq_true']; exact hshort)
  refine (congrArg State.showLoad habort).trans (State.showLoad_of_none (State.abortLoad_shows s l.counted (by decide) _).1)

end Frames

end Sys2Proof.Machine

/-! Loads that begin and end. -/

namespace Sys2Proof.Machine

/-- The gates of the loader's clocks (R501). -/
theorem need_loader (s : State) : ClockOnly s (s.need [41, 43]) :=
  (State.openChain_clock s 5 (g := 41) (by decide)).trans (State.openChain_clock _ 5 (g := 43) (by decide))

theorem ClockOnly.rd {s t : State} (h : ClockOnly s t) (f : Fld) {base i j : Nat} (ha : f.at base i j < 0x1000 ∨ 0x2000 ≤ f.at base i j) :
    t.rd f base i j = s.rd f base i j := SameRegs.rd h.2 ha

theorem State.failIdentity_shows (s : State) (l : LoadSt) :
    (s.failIdentity l).cfg.load = none ∧ (s.failIdentity l).rd F.CFG_CAUSE CFG = 1 ∧ (s.failIdentity l).rd F.CFG_LAST_STATUS CFG = 9 := by
  unfold State.failIdentity
  rw [State.cfg_completeOpt, State.rd_completeOpt, State.rd_completeOpt]
  refine ⟨rfl, ?_, ?_⟩
  · rw [State.rd_wr_field _ _ _ _ _ _ _ _ _ _ (by decide) (by decide) (by decide) (by decide),
      State.rd_wr_field _ _ _ _ _ _ _ _ _ _ (by decide) (by decide) (by decide) (by decide), State.rd_wr_same _ _ _ _ _ _ (by decide) (by decide)]
    rfl
  · rw [State.rd_wr_field _ _ _ _ _ _ _ _ _ _ (by decide) (by decide) (by decide) (by decide), State.rd_wr_same _ _ _ _ _ _ (by decide) (by decide)]
    rfl

/-- A load whose header passes its check begins; one into the fabric, not into a slot. -/
theorem State.takeHeader_shows (s : State) (l : LoadSt) (hdr : StreamHeader) (bytes : Nat) (hok : s.headerOk hdr (l.source != 2 && l.dest.isNone) = true)
    (hd : l.dest = none) :
    let t := s.takeHeader l hdr bytes
    t.cfg.load = some { l with hdr := hdr, sectionsLeft := hdr.sections.toNat } ∧ t.cfg.fallback = s.cfg.fallback ∧ t.rd F.CFG_SOURCE CFG = l.source % 4
      ∧ t.rd F.CFG_CAUSE CFG = 0 ∧ t.rd F.CFG_FRAMES CFG = 0 ∧ t.rd F.CFG_FALLBACK_USED CFG = bit l.fallback := by
  obtain ⟨u, hu⟩ : ∃ u : State, u = ((((s.setLoad (some { l with hdr := hdr, sectionsLeft := hdr.sections.toNat })).wr F.CFG_SOURCE CFG l.source).wr
      F.CFG_CAUSE CFG 0).wr F.CFG_FRAMES CFG 0).wr F.CFG_PASSED CFG 0 := ⟨_, rfl⟩
  have hclock := need_loader u
  obtain ⟨v, hv⟩ : ∃ v : State, v = u.need [41, 43] := ⟨_, rfl⟩
  rw [← hv] at hclock
  have hcfg : v.cfg = u.cfg := by rw [hclock.1]
  have ht : s.takeHeader l hdr bytes = { v.wr F.CFG_FALLBACK_USED CFG (bit l.fallback) with cfg := { v.cfg with replay := [], replayed := 0 } } := by
    unfold State.takeHeader
    rw [if_pos hok, hv, hu]
    dsimp only
    rw [hd]
  have hrd : ∀ f : Fld, (s.takeHeader l hdr bytes).rd f CFG = (v.wr F.CFG_FALLBACK_USED CFG (bit l.fallback)).rd f CFG := fun f => by rw [ht]; rfl
  have hbit : bit l.fallback % 2 = bit l.fallback := by cases l.fallback <;> rfl
  refine ⟨?_, ?_, ?_, ?_, ?_, ?_⟩
  · rw [ht]
    exact (congrArg CfgSt.load hcfg).trans (by rw [hu]; rfl)
  · rw [ht]
    exact (congrArg CfgSt.fallback hcfg).trans (by rw [hu]; rfl)
  · rw [hrd, State.rd_wr_field _ _ _ _ _ _ _ _ _ _ (by decide) (by decide) (by decide) (by decide), hclock.rd _ (by decide), hu]
    simp (disch := decide) only [State.rd_wr_word, State.rd_wr_field]
    exact State.rd_wr_same _ _ _ _ _ _ (by decide) (by decide)
  · rw [hrd, State.rd_wr_field _ _ _ _ _ _ _ _ _ _ (by decide) (by decide) (by decide) (by decide), hclock.rd _ (by decide), hu]
    simp (disch := decide) only [State.rd_wr_word]
    exact State.rd_wr_same _ _ _ _ _ _ (by decide) (by decide)
  · rw [hrd, State.rd_wr_word _ _ _ _ _ _ _ _ _ _ (by decide), hclock.rd _ (by decide), hu]
    simp (disch := decide) only [State.rd_wr_word]
    exact State.rd_wr_same _ _ _ _ _ _ (by decide) (by decide)
  · rw [hrd]
    exact (State.rd_wr_same _ _ _ _ _ _ (by decide) (by decide)).trans hbit

theorem State.takeHeader_of_bad (s : State) (l : LoadSt) (hdr : StreamHeader) (bytes : Nat) (hbad : s.headerOk hdr (l.source != 2 && l.dest.isNone) = false) :
    s.takeHeader l hdr bytes = s.failIdentity l := if_neg (ne_true_of_eq_false hbad)

section Loads

variable {s : State}

/-- A load from the host goes on to read its header, and one during another is refused (R435). -/
theorem cfgLoad_shows {c : CmdRef} {d : DispCmd} (hcmd : s.cmdOf c 0x30 .fresh = some d) (hlcs : s.rd F.LCS SEC ≠ 5) :
    (∀ l, s.cfg.load = some l → ∃ t, exec (.cfgLoad c) s = .next t ∧ Ends c .refused [] s t ∧ t = { s with host := t.host })
      ∧ (s.cfg.load = none → d.param 8 1 = 0 → ∃ t l, exec (.cfgLoad c) s = .next t ∧ Enters c .reading s t ∧ t.cfg.load = some l ∧ l.c = some c
          ∧ l.source = 0 ∧ l.dest = (if d.param 10 1 = 0 then none else some (min (d.param 11 1) 7)) ∧ l.hdr = StreamHeader.none_ ∧ t.regs = s.regs) := by
  refine ⟨fun l hl => ?_, fun hl hsource => ?_⟩
  · refine ⟨_, (actOn_some hcmd).trans (congrArg Host.Outcome.next (if_pos (.inr (by rw [hl]; rfl)))), ends_complete rfl c _ _, rfl⟩
  · obtain ⟨l, hl0⟩ : ∃ l : LoadSt, l = LoadSt.start (some c) 0 (min (d.param 9 1) 7) (if d.param 10 1 = 0 then none else some (min (d.param 11 1) 7)) false := ⟨_, rfl⟩
    have hrun : exec (.cfgLoad c) s = .next ((s.setLoad (some l)).setPhase c .reading) := by
      refine (actOn_some hcmd).trans (congrArg Host.Outcome.next ?_)
      have hfree : ¬ (s.rd F.LCS SEC = 5 ∨ s.cfg.load.isSome = true) := by rw [hl]; simpa using hlcs
      rw [hsource, hl0]
      exact (if_neg hfree).trans rfl
    refine ⟨_, l, hrun, enters_setPhase (u := s.setLoad (some l)) rfl c .reading rfl, rfl, ?_, ?_, ?_, ?_, rfl⟩ <;> rw [hl0] <;> rfl

/-- A stream on the chain-in seam (R435, R436). -/
theorem chainStream_shows (hh : s.halted = false) (hdr : StreamHeader) (hlock : s.clk.locked = true) (hin : s.rd F.SYS_CHAIN_IN DEV < 6)
    (hup : s.seamUp (s.rd F.SYS_CHAIN_IN DEV) = true) (hlcs : s.rd F.LCS SEC ≠ 5) :
    (s.cfg.load = none → s.headerOk hdr true = true → ∃ t l, exec (.chainStream hdr) s = .next t ∧ t.cfg.load = some l ∧ l.source = 1 ∧ l.hdr = hdr
        ∧ l.sectionsLeft = hdr.sections.toNat ∧ l.dest = none ∧ t.rd F.CFG_SOURCE CFG = 1 ∧ t.rd F.CFG_CAUSE CFG = 0 ∧ t.rd F.CFG_FRAMES CFG = 0)
      ∧ (s.cfg.load = none → s.headerOk hdr true = false → ∃ t, exec (.chainStream hdr) s = .next t ∧ t.cfg.load = none
        ∧ t.rd F.CFG_CAUSE CFG = 1 ∧ t.rd F.CFG_LAST_STATUS CFG = 9)
      ∧ (∀ l, s.cfg.load = some l → ∃ t, exec (.chainStream hdr) s = .next t ∧ t.cfg = s.cfg
        ∧ t.rd F.CFG_CHAIN_BUSY CFG = min F.CFG_CHAIN_BUSY.max (s.rd F.CFG_CHAIN_BUSY CFG + 1)) := by
  have hguard : (s.clk.locked && decide (s.rd F.SYS_CHAIN_IN DEV < 6) && s.seamUp (s.rd F.SYS_CHAIN_IN DEV) && !s.halted && decide (s.rd F.LCS SEC ≠ 5)) = true := by
    rw [hlock, decide_eq_true hin, hup, hh, decide_eq_true hlcs]
    rfl
  have hrun := act_next (s := s) (t := if s.cfg.load.isSome then s.bump F.CFG_CHAIN_BUSY CFG else s.takeHeader (LoadSt.start none 1 0 none false) hdr 0) hguard
  have hfree : s.cfg.load = none → ¬ s.cfg.load.isSome = true := fun h => by rw [h]; decide
  refine ⟨fun hl hok => ?_, fun hl hbad => ?_, fun l hl => ?_⟩
  · obtain ⟨hload, -, hsource, hcause, hframes, -⟩ := s.takeHeader_shows (LoadSt.start none 1 0 none false) hdr 0 hok rfl
    exact ⟨_, _, hrun.trans (congrArg Host.Outcome.next (if_neg (hfree hl))), hload, rfl, rfl, rfl, rfl, hsource, hcause, hframes⟩
  · exact ⟨_, hrun.trans (congrArg Host.Outcome.next ((if_neg (hfree hl)).trans (s.takeHeader_of_bad (LoadSt.start none 1 0 none false) hdr 0 hbad))), s.failIdentity_shows _⟩
  · exact ⟨_, hrun.trans (congrArg Host.Outcome.next (if_pos (by rw [hl]; rfl))), rfl, State.rd_bump_same _ _ _ (by decide) (by decide)⟩

/-- A section is this device's, one of a device before it, or one to pass on (R437, R438). -/
theorem sectionHeader_shows (hh : s.halted = false) (pos : BitVec 6) (mode : BitVec 2) (frames : W32) (raw : List Byte) {l : LoadSt} (hl : s.cfg.load = some l)
    (hleft : 0 < l.sectionsLeft) (hmine : l.mine = false) (hd : l.dest = none) (hsource : l.source ≠ 2) :
    (pos.toNat = s.rd F.SYS_CHAIN_POS DEV → l.taken = false → ∃ t q, exec (.sectionHeader pos mode frames ⟨true, raw⟩) s = .next t ∧ t.cfg.load = some q
        ∧ q.taken = true ∧ q.mine = decide (frames ≠ 0) ∧ q.left = frames.toNat ∧ q.full = (mode != 1) ∧ q.sectionsLeft = l.sectionsLeft - 1 ∧ t.regs = s.regs
        ∧ t.cfg.takeOut = (s.cfg.takeOut || mode != 1))
      ∧ (pos.toNat < s.rd F.SYS_CHAIN_POS DEV → ∃ t q, exec (.sectionHeader pos mode frames ⟨true, raw⟩) s = .next t ∧ t.cfg.load = some q
        ∧ q.taken = l.taken ∧ q.mine = false ∧ t.rd F.CFG_DISCARDED CFG = min F.CFG_DISCARDED.max (s.rd F.CFG_DISCARDED CFG + 1))
      ∧ (s.rd F.SYS_CHAIN_POS DEV < pos.toNat → s.rd F.SYS_CHAIN_OUT DEV ≠ 7 → ∃ t q, exec (.sectionHeader pos mode frames ⟨true, raw⟩) s = .next t
        ∧ t.cfg.load = some q ∧ q.taken = l.taken ∧ q.mine = false ∧ q.passed = l.passed + 1 ∧ t.rd F.CFG_PASSED CFG = (l.passed + 1) % 256) := by
  have hsome : (match s.cfg.load with | some l => if 0 < l.sectionsLeft ∧ ¬ s.halted ∧ ¬ l.mine then some l else none | none => none) = some l := by
    rw [hl]
    exact if_pos ⟨hleft, by simp [hh], by simp [hmine]⟩
  have hslot : ¬ l.dest.isSome = true := by rw [hd]; decide
  have hown : ∀ b c : Bool, (if l.source = 2 then b else c) = c := fun b c => if_neg hsource
  refine ⟨fun hpos htaken => ?_, fun hpos => ?_, fun hpos hout => ?_⟩
  · refine ⟨_, _, (actOn_some hsome).trans (congrArg Host.Outcome.next ((if_neg Bool.false_ne_true).trans ((if_neg hslot).trans (if_pos ?_)))),
      rfl, rfl, rfl, rfl, rfl, rfl, rfl, rfl⟩
    rw [hown, hpos, htaken]
    simp
  · refine ⟨_, _, (actOn_some hsome).trans (congrArg Host.Outcome.next ((if_neg Bool.false_ne_true).trans ((if_neg hslot).trans ((if_neg ?_).trans
      ((if_neg hsource).trans (if_pos hpos.le)))))), rfl, rfl, hmine, State.rd_bump_same _ _ _ (by decide) (by decide)⟩
    rw [hown]
    simp [hpos.ne]
  · refine ⟨_, _, (actOn_some hsome).trans (congrArg Host.Outcome.next ((if_neg Bool.false_ne_true).trans ((if_neg hslot).trans ((if_neg ?_).trans
      ((if_neg hsource).trans ((if_neg (by omega)).trans (if_neg hout))))))), rfl, rfl, hmine, rfl, State.rd_wr_same _ _ _ _ _ _ (by decide) (by decide)⟩
    rw [hown]
    simp [hpos.ne']

/-- The ends of a stream and of a load (R437, R440). -/
theorem streamEnds_shows (hh : s.halted = false) {l : LoadSt} (hl : s.cfg.load = some l) :
    (l.dest = none → l.hdr ≠ StreamHeader.none_ → l.done = false → l.mine = true ∨ l.again = true ∨ (l.taken = true ∧ l.ended = false) →
        ∃ t, exec .streamEnd s = .next t ∧ t.cfg.load = none ∧ t.rd F.CFG_CAUSE CFG = 3 ∧ t.rd F.CFG_LAST_STATUS CFG = 0x0A)
      ∧ (l.dest = none → l.hdr ≠ StreamHeader.none_ → l.done = false → l.mine = false → l.again = false → l.taken = false →
        ∃ t, exec .streamEnd s = .next t ∧ t.cfg.load = none ∧ t.rd F.CFG_LAST_STATUS CFG = 0)
      ∧ (l.done = false → l.ended = false → ∃ t, exec .streamTimeout s = .next t ∧ t.cfg.load = none ∧ t.rd F.CFG_CAUSE CFG = 4
        ∧ t.rd F.CFG_LAST_STATUS CFG = 0x0A) := by
  have hsome : l.dest = none → l.hdr ≠ StreamHeader.none_ →
      (match s.cfg.load with | some l => if l.dest.isNone ∧ ¬ s.halted ∧ l.hdr ≠ StreamHeader.none_ then some l else none | none => none) = some l := fun hd hhdr => by
    rw [hl]
    exact if_pos ⟨by rw [hd]; rfl, by simp [hh], hhdr⟩
  refine ⟨fun hd hhdr hdone hshort => ?_, fun hd hhdr hdone hmine hagain htaken => ?_, fun hdone hended => ?_⟩
  · have habort : exec .streamEnd s = .next (s.abortLoad l 3 .streamShort) := by
      refine (actOn_some (hsome hd hhdr)).trans (congrArg Host.Outcome.next ((if_neg (ne_true_of_eq_false hdone)).trans ?_))
      by_cases hbusy : (l.mine || l.again) = true
      · exact if_pos hbusy
      · obtain ⟨htaken, hended⟩ : l.taken = true ∧ l.ended = false := by
          rw [Bool.or_eq_true] at hbusy
          tauto
        exact (if_neg hbusy).trans ((if_pos htaken).trans (if_neg (ne_true_of_eq_false hended)))
    exact ⟨_, habort, s.abortLoad_shows l (by decide) _⟩
  · have hidle : ¬ (l.mine || l.again) = true := by rw [hmine, hagain]; decide
    refine ⟨_, (actOn_some (hsome hd hhdr)).trans (congrArg Host.Outcome.next ((if_neg (ne_true_of_eq_false hdone)).trans ((if_neg hidle).trans
      (if_neg (ne_true_of_eq_false htaken))))), ?_, ?_⟩
    · rw [State.cfg_completeOpt]
      rfl
    · rw [State.rd_completeOpt]
      exact State.rd_wr_same _ _ _ _ _ _ (by decide) (by decide)
  · have hload : (if s.halted then none else s.cfg.load) = some l := by rw [hh, hl]; rfl
    exact ⟨_, (actOn_some hload).trans (congrArg Host.Outcome.next ((if_neg (ne_true_of_eq_false hdone)).trans (if_neg (ne_true_of_eq_false hended)))),
      s.abortLoad_shows l (by decide) _⟩

/-- A slot written whole is stored (R423). -/
theorem slotWriteDone_shows (hh : s.halted = false) {l : LoadSt} (hl : s.cfg.load = some l) {slot : Nat} (hd : l.dest = some slot)
    (hhdr : l.hdr ≠ StreamHeader.none_) (hagain : l.again = false) :
    ∃ t, exec .slotWriteDone s = .next t ∧ t.cfg.load = none ∧ t.rd F.CFG_SSTATE CFG slot = 2 ∧ t.rd F.CFG_LAST_STATUS CFG = 0 := by
  have hsome : (match s.cfg.load with
      | some l => (match l.dest with | some d => if l.hdr ≠ StreamHeader.none_ ∧ ¬ s.halted ∧ ¬ l.again then some (l, d) else none | none => none)
      | none => none) = some (l, slot) := by
    rw [hl]
    dsimp only
    rw [hd]
    exact if_pos ⟨hhdr, by simp [hh], by simp [hagain]⟩
  refine ⟨_, actOn_some hsome, ?_, ?_, ?_⟩
  · rw [State.cfg_completeOpt]
    rfl
  · rw [State.rd_completeOpt, State.rd_wr_word _ _ _ _ _ _ _ _ _ _ (slotWord_ne F.CFG_LAST_STATUS (by decide) F.CFG_SSTATE (by decide) slot).symm]
    exact State.rd_wr_same _ _ _ _ _ _ (by decide) (by decide)
  · rw [State.rd_completeOpt]
    exact State.rd_wr_same _ _ _ _ _ _ (by decide) (by decide)

/-- A fallback load takes its slot (R443). -/
theorem fallbackLoad_shows (hh : s.halted = false) (hdr : StreamHeader) (hfall : s.cfg.fallback = true) (hl : s.cfg.load = none) :
    (s.rd F.CFG_SSTATE CFG (s.rd F.CFG_FB_SLOT CFG) = 2 → s.cfg.inForce.isSome = true → s.headerOk hdr false = true → ∃ t l, exec (.fallbackLoad hdr) s = .next t
        ∧ t.cfg.load = some l ∧ l.fallback = true ∧ l.source = 2 ∧ l.slot = s.rd F.CFG_FB_SLOT CFG ∧ t.cfg.fallback = false
        ∧ t.rd F.CFG_FALLBACK_USED CFG = 1)
      ∧ (s.rd F.CFG_SSTATE CFG (s.rd F.CFG_FB_SLOT CFG) ≠ 2 → ∃ t, exec (.fallbackLoad hdr) s = .next t ∧ t.cfg.load = none
        ∧ t.cfg.fallback = false ∧ t.rd F.CFG_FALLBACK_USED CFG = 1) := by
  obtain ⟨u, hu⟩ : ∃ u : State, u = { s.wr F.CFG_FALLBACK_USED CFG 1 with cfg := { s.cfg with fallback := false } } := ⟨_, rfl⟩
  have hguard : (s.cfg.fallback && s.cfg.load.isNone && !s.halted) = true := by rw [hfall, hl, hh]; rfl
  have hrun : exec (.fallbackLoad hdr) s = .next (if s.rd F.CFG_SSTATE CFG (s.rd F.CFG_FB_SLOT CFG) = 2 ∧ s.cfg.inForce.isSome
      then u.takeHeader (LoadSt.start none 2 (s.rd F.CFG_FB_SLOT CFG) none true) hdr 0 else u) := by
    rw [hu]
    exact act_next hguard
  refine ⟨fun hslot hforce hok => ?_, fun hslot => ?_⟩
  · obtain ⟨hload, hfallback, -, -, -, hused⟩ := u.takeHeader_shows (LoadSt.start none 2 (s.rd F.CFG_FB_SLOT CFG) none true) hdr 0 hok rfl
    exact ⟨_, _, hrun.trans (congrArg Host.Outcome.next (if_pos ⟨hslot, hforce⟩)), hload, rfl, rfl, rfl, hfallback.trans (by rw [hu]), hused⟩
  · refine ⟨_, hrun.trans (congrArg Host.Outcome.next (if_neg fun h => hslot h.1)), ?_, ?_, ?_⟩ <;> rw [hu]
    · exact hl
    · exact State.rd_wr_same _ _ _ _ _ _ (by decide) (by decide)

end Loads

end Sys2Proof.Machine

namespace Sys2Proof.Machine

/-- Settles O49. -/
theorem configuration : Obligations.Configuration := by
  unfold Obligations.Configuration
  refine ⟨fun f l s hl => ?_, fun s hh => ⟨fun c d hcmd hlcs => cfgLoad_shows hcmd hlcs, fun hdr hlock hin hup hlcs => chainStream_shows hh hdr hlock hin hup hlcs,
    fun pos mode frames raw l hl hleft hmine hd hsource => sectionHeader_shows hh pos mode frames raw hl hleft hmine hd hsource,
    fun l hl => ?_, fun hdr hfall hl => fallbackLoad_shows hh hdr hfall hl⟩⟩
  · refine ⟨fun hd hc hk => ⟨?_, fun k plane index id items hindex hmode => framePlane_shows hl hd hc hk k plane id items hindex hmode, fun pairs hfull => ?_,
      fun pairs hfull => ?_, fun chunk last items => ?_, ?_, fun hwhole => ?_, fun hshort => ?_⟩, fun hd hc hk => ?_, fun hd hc => ?_, fun hc hr hagain => ?_,
      fun hc hr hagain => ?_⟩
    · obtain ⟨t, hrun, hgoes, honly⟩ := onFrame_sets hl hd hc hk (e := fun l s => s.setLoad (some l)) rfl rfl
      exact ⟨t, hrun, ⟨hgoes.load, hgoes.frames⟩, honly⟩
    · obtain ⟨t, hrun, hgoes, honly⟩ := onFrame_sets hl hd hc hk (q := { l.counted with pairs := l.pairs ++ pairs.filter (fun p => p.1 != 0xFFFFFFFF), frames := l.frames + 1 })
        (e := fun l s => s.setLoad (some (if l.full then { l with pairs := l.pairs ++ pairs.filter (fun p => p.1 != 0xFFFFFFFF), frames := l.frames + 1 } else l)))
        (congrArg (fun q => s.setLoad (some q)) (if_pos hfull)) rfl
      exact ⟨t, hrun, honly, hgoes.load, hgoes.frames⟩
    · obtain ⟨t, hrun, hgoes, honly⟩ := onFrame_sets hl hd hc hk (q := l.counted)
        (e := fun l s => s.setLoad (some (if l.full then { l with pairs := l.pairs ++ pairs.filter (fun p => p.1 != 0xFFFFFFFF), frames := l.frames + 1 } else l)))
        (congrArg (fun q => s.setLoad (some q)) (if_neg (ne_true_of_eq_false hfull))) rfl
      exact ⟨t, hrun, honly, hgoes.load, hgoes.frames⟩
    · obtain ⟨t, hrun, hgoes, hrest⟩ := frameJack_shows hl hd hc hk chunk last items
      exact ⟨t, hrun, ⟨hgoes.load, hgoes.frames⟩, hrest⟩
    · obtain ⟨t, hrun, hgoes, honly⟩ := onFrame_sets hl hd hc hk (q := { l.counted with keyFrames := 0, keyIndex := l.keyIndex + 1 })
        (e := fun l s => s.setLoad (some { l with keyFrames := 0, keyIndex := l.keyIndex + 1 })) rfl rfl
      exact ⟨t, hrun, ⟨hgoes.load, hgoes.frames⟩, honly⟩
    · obtain ⟨t, hrun, hgoes, honly⟩ := onFrame_sets hl hd hc hk (q := { l.counted with mine := false, ended := true })
        (e := fun l s => if !l.complete_ then s.abortLoad l 5 .streamShort else s.setLoad (some { l with mine := false, ended := true }))
        (if_neg (by rw [Bool.not_eq_true', Bool.not_eq_false]; exact hwhole)) rfl
      exact ⟨t, hrun, ⟨hgoes.load, hgoes.frames⟩, honly⟩
    · exact ⟨_, frameEnd_short hl hd hc hk hshort, s.abortLoad_shows _ (by decide) _⟩
    · exact ⟨_, onFrame_tooMany hl hd hc hk (fun l s => s.setLoad (some l)), s.abortLoad_shows l (by decide) _⟩
    · have hshow := State.showLoad_of_some (s := s.setLoad (some { l with again := false, frames := l.frames + 1 })) rfl
      refine ⟨_, onFrame_slot hl hd hc (fun l s => s.setLoad (some l)), loadOnly_setLoad s _, ?_, ?_⟩ <;> rw [hshow]
      · have hmine : (l.mine && (l.dest.isSome || decide (l.left ≠ 0))) = l.mine := by rw [hd, Bool.true_or, Bool.and_true]
        exact congrArg (fun b => some { l with mine := b, again := false, frames := l.frames + 1 }) hmine
      · exact State.rd_wr_same _ _ _ _ _ _ (by decide) (by decide)
    · refine ⟨_, (onFrame_fails hl hc hr (fun l s => s.setLoad (some l))).trans (congrArg Host.Outcome.next (if_neg (ne_true_of_eq_false hagain))), State.requestAgain_shows hagain⟩
    · exact ⟨_, (onFrame_fails hl hc hr (fun l s => s.setLoad (some l))).trans (congrArg Host.Outcome.next (if_pos hagain)), s.abortLoad_shows l (by decide) _⟩
  · obtain ⟨hshort, hidle, htimeout⟩ := streamEnds_shows hh hl
    exact ⟨hshort, hidle, htimeout, fun slot hd hhdr hagain _ => slotWriteDone_shows hh hl hd hhdr hagain⟩

end Sys2Proof.Machine

/-! Messages between devices, bring-up and the system reset (R399, R406, R415, R523). -/

namespace Sys2Proof.Machine

theorem State.seamUp_of_lstate {s : State} {n : Nat} (h : s.rd F.SEAM_LSTATE (SEAM n) = 3) : s.seamUp n = true := by
  unfold State.seamUp
  rw [h]
  rfl

theorem State.seamAt_modSeam_same (s : State) (n : Nat) (f : SeamSt → SeamSt) : (s.modSeam n f).seamAt n = f (s.seamAt n) := Tab.get_put_same _ _ _ _

theorem State.seamAt_modSeam_other (s : State) {n i : Nat} (f : SeamSt → SeamSt) (h : i ≠ n) : (s.modSeam n f).seamAt i = s.seamAt i :=
  Tab.get_put_other _ _ _ h

/-- A message leaves by the seam of its route. -/
theorem State.sendMsg_of_route {s : State} {d r : Nat} (h : s.routeTo d = some r) (m : Msg) :
    s.sendMsg d m = s.modSeam r (fun x => { x with msgOut := x.msgOut ++ [(d, m)] }) := by
  unfold State.sendMsg
  rw [h]

theorem State.sendData_of_route {s : State} {c : DataCell} {r : Nat} (h : s.routeTo c.dest.val = some r) :
    s.sendData c = s.modSeam r (fun x => { x with dataOut := x.dataOut ++ [c] }) := by
  unfold State.sendData
  rw [h]

theorem OnlySeams.trans {s t u : State} (h : OnlySeams s t) (g : OnlySeams t u) : OnlySeams s u := by
  unfold OnlySeams at *
  rw [g]
  generalize u.seams = x
  rw [h]

theorem OnlySeams.forN {s t : State} (h : OnlySeams s t) {f : Nat → State → State} {n : Nat} (hf : ∀ i u, OnlySeams u (f i u)) :
    OnlySeams s (Sys2Proof.forN f n t) := forN_induct (fun i _ hu => hu.trans (hf i _)) h

theorem OnlySeams.ite {s t u : State} {c : Prop} [Decidable c] (ht : OnlySeams s t) (hu : OnlySeams s u) : OnlySeams s (if c then t else u) := by
  split <;> assumption

theorem OnlySeams.tellRoutes {s t : State} (h : OnlySeams s t) (x : Nat) : OnlySeams s (t.tellRoutes x) := by
  unfold State.tellRoutes
  exact h.forN fun y u => .ite (.refl u) ((OnlySeams.refl u).sendMsg _ _)

/-! The head's own routes and the roles of its seams. -/

/-- Nothing differs but registers, and of those none below the routes. -/
def AboveRoutes (s t : State) : Prop := t = { s with regs := t.regs } ∧ SameRegs (fun a => a < 0xB00 ∨ 0x60000 ≤ a) s t

namespace AboveRoutes

variable {s t u : State}

theorem refl (s : State) : AboveRoutes s s := ⟨rfl, SameRegs.refl _ s⟩

theorem trans (h : AboveRoutes s t) (g : AboveRoutes t u) : AboveRoutes s u := by
  refine ⟨?_, h.2.trans g.2⟩
  rw [g.1]
  generalize u.regs = x
  rw [h.1]

theorem wr (h : AboveRoutes s t) {f : Fld} {base i : Nat} (hf : 0xB00 ≤ f.at base i 0 ∧ f.at base i 0 < 0x60000) (v : Nat) : AboveRoutes s (t.wr f base v i) :=
  h.trans ⟨rfl, (SameRegs.refl _ t).wr (by omega) v⟩

theorem forN_lt (h : AboveRoutes s t) {f : Nat → State → State} {n : Nat} (hf : ∀ i, i < n → ∀ u, AboveRoutes u (f i u)) :
    AboveRoutes s (Sys2Proof.forN f n t) := by
  induction n with
  | zero => exact h
  | succ n ih => exact (ih fun i hi => hf i (by omega)).trans (hf n (by omega) _)

theorem setRoles (h : AboveRoutes s t) (roles : Nat) : AboveRoutes s (t.setRoles roles) :=
  h.forN_lt fun m hm u => (refl u).wr (by simp only [Fld.at, F.SEAM_ROLE, SEAM]; omega) _

/-- The words of the routes to devices 0 to 63. -/
theorem routeWord {f : Fld} (hf : f.off = 0xB00 ∧ f.st1 = 4 ∧ f.st2 = 0) {d : Nat} (hd : d < 64) : 0xB00 ≤ f.at DEV d 0 ∧ f.at DEV d 0 < 0x60000 := by
  simp only [Fld.at, hf.1, hf.2.1, hf.2.2, DEV]
  omega

theorem setRoute (h : AboveRoutes s t) {d : Nat} (hd : d < 64) (r : Route) : AboveRoutes s (t.setRoute d r) :=
  (((h.wr (routeWord (by decide) hd) _).wr (routeWord (by decide) hd) _).wr (routeWord (by decide) hd) _).wr (routeWord (by decide) hd) _

/-- A head in bring-up shows its routes and nothing else. -/
theorem ownRoutes (s : State) (hstate : s.rd F.SYS_STATE DEV < 2) (hn : deviceCount s.sys.links ≤ 64) : AboveRoutes s s.ownRoutes := by
  have hwide : s.setWide (tooFar s.liveLinks (deviceCount s.sys.links)) = s := if_pos hstate
  unfold State.ownRoutes
  dsimp only
  rw [hwide]
  refine (refl s).forN_lt fun d hd u => ?_
  split
  · exact refl u
  · exact ((refl u).setRoute (by omega) _).wr (routeWord (by decide) (by omega)) _

end AboveRoutes

/-! The return to a system of one device (R406, R407). -/

/-- Nothing differs but words of CLK and the time's own state. -/
def TimeOnly (s t : State) : Prop := t = { s with regs := t.regs, time := t.time } ∧ SameRegs (fun a => a < 0x1000 ∨ 0x2000 ≤ a) s t

namespace TimeOnly

variable {s t u : State}

theorem refl (s : State) : TimeOnly s s := ⟨rfl, SameRegs.refl _ s⟩

theorem wr (h : TimeOnly s t) {f : Fld} (hf : 0x1000 ≤ f.at CLK 0 0 ∧ f.at CLK 0 0 < 0x2000) (v : Nat) : TimeOnly s (t.wr f CLK v) := by
  refine ⟨?_, h.2.wr (by omega) v⟩
  rw [State.wr_frame]
  generalize (t.wr f CLK v).regs = x
  rw [h.1]

theorem time (h : TimeOnly s t) (x : TimeSt) : TimeOnly s { t with time := x } := by
  refine ⟨?_, h.2.of_regs rfl⟩
  rw [h.1]

theorem ite {c : Prop} [Decidable c] (ht : TimeOnly s t) (hu : TimeOnly s u) : TimeOnly s (if c then t else u) := by split <;> assumption

end TimeOnly

theorem State.showSync_only (s : State) : TimeOnly s s.showSync := by
  have heff := fun v => (TimeOnly.refl s).wr (f := F.SYNC_EFFECTIVE) (by decide) v
  have hmode := fun v => TimeOnly.ite (c := s.rd F.SYNC_MODE CLK = 0) ((heff v).time { s.time with syncRef := none }) (heff v)
  exact .ite ((hmode _).time _) (.ite (((hmode _).wr (f := F.SYNC_LOCKED) (by decide) 0).time _) (hmode _))

theorem State.beSingle_shows (s : State) :
    let t := s.beSingle
    t.rd F.SYS_STATE DEV = 0 ∧ t.rd F.SYS_HEAD DEV = 1 ∧ t.rd F.SYS_DEVNUM DEV = 0 ∧ t.rd F.SYS_COUNT DEV = 1 ∧ t.rd F.TRIG_D TRIG = 1
      ∧ t.sys.ready = none ∧ t.sys.claimed = false ∧ t.stitch = s.stitch := by
  obtain ⟨u1, hu1⟩ : ∃ u : State, u = (((((s.wr F.SYS_STATE DEV 0).wr F.SYS_HEAD DEV 1).wr F.SYS_DEVNUM DEV 0).wr F.SYS_COUNT DEV 1).wr F.SYS_DEPTH DEV 0).wr
      F.SYS_WIDE DEV 0 := ⟨_, rfl⟩
  obtain ⟨u2, hu2⟩ : ∃ u : State, u = ((((u1.wr F.SYS_D_SHORT DEV 0).wr F.SYS_D_CALC DEV 1).wr F.SYS_L_MAX DEV 0).wr F.TRIG_D TRIG 1).wr F.SYS_SYSMODE DEV
      (u1.rd F.SYS_SYSMODE_ON DEV) := ⟨_, rfl⟩
  obtain ⟨u3, hu3⟩ : ∃ u : State, u = forN (fun d s => ((s.setRoute d ⟨7, 7, 0, 0⟩).wr F.SYS_HALTED DEV 0 d).wr F.SYS_ABSENT DEV 0 d) 64 (u2.setRoles 0) :=
    ⟨_, rfl⟩
  obtain ⟨v, hv⟩ : ∃ v : State, v = { u3 with sys := { u3.sys with claimed := false, links := [], found := [], ready := none, align := none, downs := []
                                                                   broken := false, headPeriod := none, parentLost := false } } := ⟨_, rfl⟩
  have ht : s.beSingle = v.showSync := by
    rw [hv, hu3, hu2, hu1]
    rfl
  have hroutes : AboveRoutes u2 u3 := by
    rw [hu3]
    exact ((AboveRoutes.refl u2).setRoles 0).forN_lt fun d hd u =>
      (((AboveRoutes.refl u).setRoute hd _).wr (AboveRoutes.routeWord (by decide) hd) _).wr (AboveRoutes.routeWord (by decide) hd) _
  have hrd : ∀ (f : Fld) (base : Nat), f.at base 0 0 < 0xB00 ∨ 0x60000 ≤ f.at base 0 0 → s.beSingle.rd f base = u2.rd f base := fun f base ha => by
    rw [ht, v.showSync_only.2.rd (by omega), hv]
    exact hroutes.2.rd ha
  dsimp only
  refine ⟨?_, ?_, ?_, ?_, ?_, ?_, ?_, ?_⟩
  · rw [hrd _ _ (by decide), hu2, hu1]
    simp (disch := decide) only [State.rd_wr_word, State.rd_wr_field]
    exact State.rd_wr_same _ _ _ _ _ _ (by decide) (by decide)
  · rw [hrd _ _ (by decide), hu2, hu1]
    simp (disch := decide) only [State.rd_wr_word, State.rd_wr_field]
    exact State.rd_wr_same _ _ _ _ _ _ (by decide) (by decide)
  · rw [hrd _ _ (by decide), hu2, hu1]
    simp (disch := decide) only [State.rd_wr_word, State.rd_wr_field]
    exact State.rd_wr_same _ _ _ _ _ _ (by decide) (by decide)
  · rw [hrd _ _ (by decide), hu2, hu1]
    simp (disch := decide) only [State.rd_wr_word, State.rd_wr_field]
    exact State.rd_wr_same _ _ _ _ _ _ (by decide) (by decide)
  · rw [hrd _ _ (by decide), hu2]
    simp (disch := decide) only [State.rd_wr_word]
    exact State.rd_wr_same _ _ _ _ _ _ (by decide) (by decide)
  · rw [ht, v.showSync_only.1, hv]
  · rw [ht, v.showSync_only.1, hv]
  · rw [ht, v.showSync_only.1, hv]
    refine (congrArg State.stitch hroutes.1).trans ?_
    rw [hu2, hu1]
    rfl

/-! GO (R406). -/

/-- The stitch of READY is within 5 ms. -/
theorem readyStitch_bound {s : State} (h : 1 ≤ s.rd F.STC_N_NOW DEV) {at_ : W64}
    (hat : at_ = s.stitch + BitVec.ofNat 64 (1 + s.freeWord.toNat % (16000000 / s.period))) :
    1 ≤ (at_ - s.stitch).toNat ∧ (at_ - s.stitch).toNat * s.period ≤ 16000000 := by
  have hn := s.rd_lt F.STC_N_NOW DEV 0 0
  simp only [F.STC_N_NOW] at hn
  have hperiod : s.period = 64 * s.rd F.STC_N_NOW DEV := rfl
  simp only [F.STC_N_NOW] at hperiod h
  have hpos : 0 < s.period := by omega
  have hfew : 0 < 16000000 / s.period := Nat.div_pos (by omega) hpos
  have hmod := Nat.mod_lt s.freeWord.toNat hfew
  have hmany : 16000000 / s.period ≤ 16000000 := Nat.div_le_self _ _
  have hdiff : (at_ - s.stitch).toNat = 1 + s.freeWord.toNat % (16000000 / s.period) := by
    rw [hat, BitVec.add_comm, BitVec.add_sub_cancel, BitVec.toNat_ofNat]
    exact Nat.mod_eq_of_lt (by omega)
  rw [hdiff]
  refine ⟨by omega, ?_⟩
  calc (1 + s.freeWord.toNat % (16000000 / s.period)) * s.period ≤ 16000000 / s.period * s.period := Nat.mul_le_mul_right _ (by omega)
    _ ≤ 16000000 := Nat.div_mul_le_self _ _

/-- The head has numbered the devices that discovery met, and knows its own routes. -/
def State.begun (s : State) (links : List Link) (ready : ReadySt) : State :=
  let s1 := (((s.wr F.SYS_HEAD DEV 1).wr F.SYS_DEVNUM DEV 0).wr F.SYS_DEPTH DEV 0).wr F.SYS_STATE DEV 1
  let s2 := { s1.took with
    sys := { s1.sys with
      links := links
      found := links.filterMap (fun (l : Link) => if l.a = 0 then some l.sa else if l.b = 0 then some l.sb else none)
      ready := some ready
      downs := []
      broken := false
      goAsked := false } }
  (s2.setRoles (rolesOf links 0)).ownRoutes

theorem State.begun_shows (s : State) {links : List Link} (hl : ∀ l ∈ links, l.a < 64 ∧ l.b < 64) (ready : ReadySt) :
    let t := s.begun links ready
    t.rd F.SYS_STATE DEV = 1 ∧ t.rd F.SYS_HEAD DEV = 1 ∧ t.rd F.SYS_DEVNUM DEV = 0 ∧ t.sys.ready = some ready ∧ t.sys.links = links ∧ t.stitch = s.stitch := by
  obtain ⟨u1, hu1⟩ : ∃ u : State, u = (((s.wr F.SYS_HEAD DEV 1).wr F.SYS_DEVNUM DEV 0).wr F.SYS_DEPTH DEV 0).wr F.SYS_STATE DEV 1 := ⟨_, rfl⟩
  obtain ⟨u2, hu2⟩ : ∃ u : State, u = { u1.took with
      sys := { u1.sys with
        links := links
        found := links.filterMap (fun (l : Link) => if l.a = 0 then some l.sa else if l.b = 0 then some l.sb else none)
        ready := some ready
        downs := []
        broken := false
        goAsked := false } } := ⟨_, rfl⟩
  have ht : s.begun links ready = (u2.setRoles (rolesOf links 0)).ownRoutes := by rw [hu2, hu1]; rfl
  have hregs : ∀ f : Fld, u2.rd f DEV = u1.rd f DEV := fun f => by rw [hu2]; rfl
  have hstate : u2.rd F.SYS_STATE DEV = 1 := by
    rw [hregs, hu1]
    exact State.rd_wr_same _ _ _ _ _ _ (by decide) (by decide)
  have hroles := (AboveRoutes.refl u2).setRoles (rolesOf links 0)
  have hlinks : (u2.setRoles (rolesOf links 0)).sys.links = links := by rw [hroles.1, hu2]
  have hroutes : AboveRoutes u2 (s.begun links ready) := by
    rw [ht]
    refine hroles.trans (AboveRoutes.ownRoutes _ ?_ (by rw [hlinks]; exact deviceCount_le hl))
    rw [hroles.2.rd (by decide), hstate]
    decide
  dsimp only
  refine ⟨?_, ?_, ?_, ?_, ?_, ?_⟩
  · rw [hroutes.2.rd (by decide), hstate]
  · rw [hroutes.2.rd (by decide), hregs, hu1]
    simp (disch := decide) only [State.rd_wr_field]
    exact State.rd_wr_same _ _ _ _ _ _ (by decide) (by decide)
  · rw [hroutes.2.rd (by decide), hregs, hu1]
    simp (disch := decide) only [State.rd_wr_field]
    exact State.rd_wr_same _ _ _ _ _ _ (by decide) (by decide)
  · rw [hroutes.1, hu2]
  · rw [hroutes.1, hu2]
  · rw [hroutes.1, hu2, hu1]
    rfl

end Sys2Proof.Machine

namespace Sys2Proof.Machine

/-- What a bring-up announces for READY. -/
def State.readyOf (s : State) (links : List Link) : ReadySt :=
  let n := deviceCount links
  let dc := dCalcOf n (lMaxOf links) s.period
  ⟨s.stitch + BitVec.ofNat 64 (1 + s.freeWord.toNat % (16000000 / s.period)), n, tooFar links n,
    if n < 2 then 1 else min 255 (max dc (s.rd F.SYS_D_MIN DEV)), dc, ceilDiv (lMaxOf links) 32⟩

/-- A bring-up that discovery does not refuse, and one that it refuses. -/
theorem go_shows {cabling : List Link} {s : State} (hlock : s.clk.locked = true) (hh : s.halted = false) (hmay : s.rd F.SYS_STATE DEV ≠ 1 ∨ s.sys.goAsked = true) :
    (∃ u, OnlySeams (s.begun (numbered cabling) (s.readyOf (numbered cabling))) u ∧ exec (.go cabling true) s = .next u.beSingle)
      ∧ ∃ t, OnlySeams (s.begun (numbered cabling) (s.readyOf (numbered cabling))) t ∧ exec (.go cabling false) s = .next t := by
  have hguard : (s.clk.locked && (decide (s.rd F.SYS_STATE DEV ≠ 1) || s.sys.goAsked) && !s.halted) = true := by
    rw [hlock, hh]
    rcases hmay with h | h
    · rw [decide_eq_true h]
      rfl
    · rw [h]
      simp
  refine ⟨⟨_, ?_, act_next hguard⟩, ⟨_, ?_, act_next hguard⟩⟩
  · exact (OnlySeams.refl _).forN fun x u => .ite (.refl u) (((OnlySeams.refl u).sendMsg _ _).sendMsg _ _)
  · have hannounce : ∀ (u : State) (x : Nat), OnlySeams u (if u.flag F.STC_PEND DEV then
        u.sendMsg x (.period (BitVec.ofNat 8 u.time.newN) (u.stitch + BitVec.ofNat 64 (u.time.due - 1))) else u) := fun u x =>
      .ite ((OnlySeams.refl u).sendMsg _ _) (.refl u)
    exact (OnlySeams.refl _).forN fun x u => .ite (.refl u) (OnlySeams.trans ((((OnlySeams.refl u).sendMsg _ _).tellRoutes x).sendMsg _ _) (hannounce _ x))

/-- Settles O48. -/
theorem systemBringUp : Obligations.SystemBringUp := by
  unfold Obligations.SystemBringUp
  refine ⟨fun n dest m off s hup hh => ?_, fun cabling s hlock hh hmay hn => ?_, fun off s hhead hup => ?_⟩
  · have hguard : (s.seamUp n.val && !s.halted) = true := by rw [State.seamUp_of_lstate hup, hh]; rfl
    have hrun := act_next (s := s) (t := if s.forMe dest.val m then (s.tick off).takeMsg n.val m else (s.tick off).sendMsg dest.val m) hguard
    have hmine : s.forMe dest.val m = true → exec (.msgCell n dest m off) s = .next ((s.tick off).takeMsg n.val m) := fun h =>
      hrun.trans (congrArg Host.Outcome.next (if_pos h))
    refine ⟨fun r hno hroute => ?_, fun hm hdest => ?_, fun from_ a v be hm hdest => ?_, fun from_ a wide hm hdest => ?_⟩
    · have hsent : (s.tick off).sendMsg dest.val m = (s.tick off).modSeam r (fun x => { x with msgOut := x.msgOut ++ [(dest.val, m)] }) :=
        State.sendMsg_of_route (s := s.tick off) hroute m
      refine ⟨_, hrun.trans (congrArg Host.Outcome.next ((if_neg (ne_true_of_eq_false hno)).trans hsent)), ?_, rfl, fun i hi => ?_⟩
      · rw [State.seamAt_modSeam_same]
        rfl
      · rw [State.seamAt_modSeam_other _ _ hi]
        rfl
    · subst hm
      exact ⟨_, hmine (by rw [hdest]; exact beq_self_eq_true _), rfl, rfl, rfl⟩
    · subst hm
      exact hmine (by rw [hdest]; exact beq_self_eq_true _)
    · subst hm
      exact hmine (by rw [hdest]; exact beq_self_eq_true _)
  · intro links hl
    obtain ⟨⟨u, hu, hrefused⟩, t, ht, hrun⟩ := go_shows hlock hh hmay
    obtain ⟨hstate, hhead, hdevnum, hready, hlinks, hstitch⟩ := s.begun_shows hl (s.readyOf links)
    have hregs : ∀ f : Fld, t.rd f DEV = (s.begun links (s.readyOf links)).rd f DEV := fun f => by rw [ht]; rfl
    have hsys : t.sys = (s.begun links (s.readyOf links)).sys := by rw [ht]
    obtain ⟨h1, h2, h3, h4, h5, h6, h7, h8⟩ := u.beSingle_shows
    refine ⟨⟨_, hrefused, h1, h2, h3, h4, h5, h6, h7, h8.trans ?_⟩, t, _, hrun, (hregs _).trans hstate, (hregs _).trans hhead, (hregs _).trans hdevnum,
      (congrArg SysSt.ready hsys).trans hready, (congrArg SysSt.links hsys).trans hlinks, rfl, ?_⟩
    · rw [hu]
      exact hstitch
    · obtain ⟨hlow, hhigh⟩ := readyStitch_bound hn rfl
      exact ⟨hlow, hhigh, rfl⟩
  · have hguard : (s.isHead && s.up) = true := by rw [hhead, hup]; rfl
    obtain ⟨u, hu⟩ : ∃ u : State, u = { s.tick off with sys := { s.sys with resetAt := some (s.stitch + BitVec.ofNat 64 (s.rd F.TRIG_D TRIG)) } } := ⟨_, rfl⟩
    have hrun : exec (.sysReset off) s = .next (u.flood ⟨0, Fin.ofNat 64 s.devnum, BitVec.ofNat 16 s.stitch.toNat, 0, true⟩) := by
      rw [hu]
      exact act_next hguard
    refine ⟨_, hrun, ?_, ?_, ?_, ?_⟩ <;> rw [State.flood_frame, hu] <;> rfl

end Sys2Proof.Machine

/-! Frames of a seam (R397 to R400). -/

namespace Sys2Proof.Machine

/-- The first element that a search finds is the one that an erasure takes out. -/
theorem perm_eraseP_of_find? {α : Type} {p : α → Bool} {l : List α} {c : α} (h : l.find? p = some c) : List.Perm (c :: l.eraseP p) l := by
  have hp := List.find?_some h
  obtain ⟨a, l1, l2, hnone, ha, hsplit, herase⟩ := List.exists_of_eraseP (List.mem_of_find?_eq_some h) hp
  have hfirst : l.find? p = some a := by
    rw [hsplit, List.find?_append, List.find?_eq_none.2 hnone, Option.none_or, List.find?_cons_of_pos ha]
  obtain rfl : a = c := Option.some.inj (hfirst.symm.trans h)
  rw [herase, hsplit]
  exact List.perm_middle.symm

/-- The cells that a frame takes and those that it leaves are those that waited. -/
theorem takeCells_shows (n last : Nat) (cs : List DataCell) :
    (takeCells n last cs).1.length ≤ n ∧ List.Perm ((takeCells n last cs).1 ++ (takeCells n last cs).2.1) cs := by
  induction n generalizing last cs with
  | zero => exact ⟨Nat.le_refl _, .refl _⟩
  | succ n ih =>
    unfold takeCells
    split
    · exact ⟨Nat.zero_le _, .refl _⟩
    · next k _ =>
      split
      · exact ⟨Nat.zero_le _, .refl _⟩
      · next c hfind =>
        obtain ⟨hlen, hperm⟩ := ih k (cs.eraseP (fun c => cellFlow c == k))
        exact ⟨Nat.succ_le_succ hlen, (hperm.cons c).trans (perm_eraseP_of_find? hfind)⟩

/-- The control cells of a frame: those of raises first, 15 at most. -/
theorem controlCells_bound {α β : Type} (trigs : List α) (msgs : List β) :
    let nt := min 15 (ceilDiv trigs.length 15)
    ceilDiv (trigs.take (15 * nt)).length 15 + (msgs.take (15 - nt)).length ≤ 15
      ∧ (msgs.take (15 - nt) ≠ [] → ceilDiv trigs.length 15 = ceilDiv (trigs.take (15 * nt)).length 15) := by
  intro nt
  have hnt : nt = min 15 (ceilDiv trigs.length 15) := rfl
  unfold ceilDiv at hnt ⊢
  simp only [List.length_take]
  refine ⟨by omega, fun hsome => ?_⟩
  have hroom : 15 - nt ≠ 0 := fun h => hsome (by rw [h, List.take_zero])
  have hall : min (15 * nt) trigs.length = trigs.length := by omega
  rw [hall]

/-- An addition that sticks at the top, of a field's value. -/
theorem satAdd_eq_min (top a b : Nat) : satAdd top a b = min top (a + b) := by
  unfold satAdd
  split <;> omega

section Frame

variable {n : Seam} {s : State} (hup : s.seamUp n.val = true) (hh : s.halted = false)
include hup hh

theorem seamFrameSend_shows : let x := s.seamAt n.val
    let at_ := x.launch.getD s.rootNow
    let s1 := s.tick (at_ - s.time.run)
    at_ < s.time.run + s.period → ∃ t fr, exec (.seamFrameSend n) s = .next t ∧ (t.seamAt n.val).frame = some fr ∧ fr.fctr = x.fctr
      ∧ fr.gen = s.rd F.SEAM_GEN (SEAM n.val) ∧ fr.seam = n.val ∧ fr.src = s.devnum ∧ fr.stitch = s.stitch ∧ fr.offset = 32 * s1.off
      ∧ fr.echo = x.echo.map (fun e => (e.1, e.2.1, 32 * (at_ - e.2.2)))
      ∧ fr.trigs ++ (t.seamAt n.val).trigOut = x.trigOut ∧ fr.msgs ++ (t.seamAt n.val).msgOut = x.msgOut
      ∧ ceilDiv fr.trigs.length 15 + fr.msgs.length ≤ 15 ∧ (fr.msgs ≠ [] → ceilDiv x.trigOut.length 15 = ceilDiv fr.trigs.length 15)
      ∧ fr.data.length ≤ 48 ∧ List.Perm (fr.data ++ (t.seamAt n.val).dataOut) x.dataOut
      ∧ (t.seamAt n.val).fctr = x.fctr + 1 ∧ (t.seamAt n.val).launch = some (at_ + 128) ∧ t = { s1 with seams := t.seams, fresh := t.fresh } := by
  intro x at_ s1 hat
  have hguard : (s.seamUp n.val && !s.halted && decide (at_ < s.time.run + s.period)) = true := by rw [hup, hh, decide_eq_true hat]; rfl
  obtain ⟨cells, hcells⟩ : ∃ c, c = takeCells 48 x.turn x.dataOut := ⟨_, rfl⟩
  obtain ⟨nt, hnt⟩ : ∃ k, k = min 15 (ceilDiv x.trigOut.length 15) := ⟨_, rfl⟩
  obtain ⟨fr, hfr⟩ : ∃ fr : SeamFrame, fr = { fctr := x.fctr, gen := s.rd F.SEAM_GEN (SEAM n.val), seam := n.val, src := s.devnum, stitch := s1.stitch
                                              offset := 32 * s1.off, echo := x.echo.map (fun e => (e.1, e.2.1, 32 * (at_ - e.2.2))), hot := s.hotState
                                              trigs := x.trigOut.take (15 * nt), msgs := x.msgOut.take (15 - nt), data := cells.1 } := ⟨_, rfl⟩
  obtain ⟨y, hy⟩ : ∃ y : SeamSt, y = { x with fctr := x.fctr + 1, frame := some fr, trigOut := x.trigOut.drop (15 * nt), msgOut := x.msgOut.drop (15 - nt)
                                              dataOut := cells.2.1, turn := cells.2.2, launch := some (at_ + 128) } := ⟨_, rfl⟩
  have hrun : exec (.seamFrameSend n) s = .next (s1.modSeam n.val (fun _ => y)).took := by
    rw [hy, hfr, hcells, hnt]
    exact act_next hguard
  have hat' : (s1.modSeam n.val (fun _ => y)).took.seamAt n.val = y := State.seamAt_modSeam_same s1 n.val (fun _ => y)
  obtain ⟨hlen, hperm⟩ := takeCells_shows 48 x.turn x.dataOut
  obtain ⟨hcells15, hraises⟩ := controlCells_bound x.trigOut x.msgOut
  rw [← hcells] at hlen hperm
  rw [← hnt] at hcells15 hraises
  subst hy hfr
  exact ⟨_, _, hrun, congrArg SeamSt.frame hat', rfl, rfl, rfl, rfl, rfl, rfl, rfl,
    (congrArg (fun y : SeamSt => x.trigOut.take (15 * nt) ++ y.trigOut) hat').trans (List.take_append_drop _ _),
    (congrArg (fun y : SeamSt => x.msgOut.take (15 - nt) ++ y.msgOut) hat').trans (List.take_append_drop _ _), hcells15, hraises, hlen,
    (List.Perm.of_eq (congrArg (fun y : SeamSt => cells.1 ++ y.dataOut) hat')).trans hperm, congrArg SeamSt.fctr hat', congrArg SeamSt.launch hat', rfl⟩

end Frame

end Sys2Proof.Machine

namespace Sys2Proof.Machine

section Received

variable {n : Seam} {s : State} (hup : s.seamUp n.val = true) (hh : s.halted = false)
include hup hh

/-- A frame received counts its codewords; one whose tag fails halts the device. -/
theorem seamFrameReceive_shows (corr uncorr : BitVec 16) (off : Nat) : let b := SEAM n.val
    (∃ t, exec (.seamFrameReceive n true corr uncorr off) s = .next t ∧ t.rd F.SEAM_CW_CORR b = min 65535 (s.rd F.SEAM_CW_CORR b + corr.toNat)
        ∧ t.rd F.SEAM_CW_UNCORR b = min 65535 (s.rd F.SEAM_CW_UNCORR b + uncorr.toNat) ∧ OnlyRegs [b + 0x18] (s.tick off) t)
      ∧ ∃ t, exec (.seamFrameReceive n false corr uncorr off) s = .next t ∧ t.halted = true ∧ t.rd F.HALT_CAUSE SEC = 2
        ∧ t.rd F.HALT_SOURCE SEC = n.val ∧ t.rd F.KEY_STATE SEC = 2 := by
  intro b
  have hguard : (s.seamUp n.val && !s.halted) = true := by rw [hup, hh]; rfl
  obtain ⟨u, hu⟩ : ∃ u : State, u = ((s.tick off).bump F.SEAM_CW_CORR b corr.toNat).bump F.SEAM_CW_UNCORR b uncorr.toNat := ⟨_, rfl⟩
  have hrun : ∀ ok, exec (.seamFrameReceive n ok corr uncorr off) s = .next (if ok then u else u.enterHalt 2 n.val 0) := fun ok => by
    rw [hu]
    exact act_next hguard
  have hword : ∀ f : Fld, f ∈ [F.SEAM_CW_CORR, F.SEAM_CW_UNCORR] → f.at b 0 0 = b + 0x18 := fun f hf => by
    simp only [List.mem_cons, List.not_mem_nil, or_false] at hf
    rcases hf with rfl | rfl <;> rfl
  refine ⟨⟨u, hrun true, ?_, ?_, ?_⟩, ?_⟩
  · rw [hu, State.bump, State.rd_wr_field _ _ _ _ _ _ _ _ _ _ (by decide) (by decide) (by decide) (by decide), State.bump, satAdd_eq_min,
      State.rd_wr_same _ _ _ _ _ _ (by decide) (by decide)]
    exact Nat.mod_eq_of_lt (Nat.lt_succ_of_le (Nat.min_le_left _ _))
  · rw [hu, State.bump, satAdd_eq_min, State.rd_wr_same _ _ _ _ _ _ (by decide) (by decide), State.bump,
      State.rd_wr_field _ _ _ _ _ _ _ _ _ _ (by decide) (by decide) (by decide) (by decide)]
    exact Nat.mod_eq_of_lt (Nat.lt_succ_of_le (Nat.min_le_left _ _))
  · rw [hu]
    exact ((OnlyRegs.refl _ _).wr (List.mem_singleton.2 (hword _ (by simp))) _).wr (List.mem_singleton.2 (hword _ (by simp))) _
  · have hlive : u.halted = false := by
      rw [hu]
      refine (congrArg (· == 1) ((SameRegs.refl (fun a => 0x6000 ≤ a) s).of_regs rfl |>.wr ?_ _ |>.wr ?_ _ |>.rd (by decide))).trans hh <;>
      · rw [hword _ (by simp)]
        simp only [b, SEAM]
        omega
    obtain ⟨h1, h2, h3, h4, -⟩ := State.enterHalt_shows hlive (cause := 2) (source := n.val) (by decide) (by omega) 0
    exact ⟨_, hrun false, h1, h2, h3, h4⟩

end Received

/-! TIME cells (R399, R404, R408). -/

/-- What a measured round trip leaves. -/
theorem State.measure_shows (s : State) (n rtt : Nat) : let rs := (rtt :: (s.seamAt n).rtts).take 256
    let t := s.measure n rtt
    t = { s with regs := t.regs, seams := t.seams } ∧ t.seamAt n = { s.seamAt n with rtts := rs }
      ∧ t.rd F.SEAM_RTT (SEAM n) = rs.foldl (· + ·) 0 / rs.length % 2 ^ 20 ∧ t.rd F.SEAM_ONEWAY (SEAM n) = rs.foldl (· + ·) 0 / rs.length / 2 % 2 ^ 16
      ∧ SameRegs (fun a => a < 0x1000) s t := by
  have hlow : ∀ f : Fld, ¬ f.at (SEAM n) 0 0 < 0x1000 := fun f => Nat.not_lt.2 (SEAM_low n)
  refine ⟨rfl, State.seamAt_modSeam_same s n (fun x => { x with rtts := (rtt :: (s.seamAt n).rtts).take 256 }), ?_, ?_, (((SameRegs.refl _ s).of_regs rfl).wr (hlow _) _).wr (hlow _) _⟩
  · unfold State.measure
    dsimp only
    rw [State.rd_wr_word _ _ _ _ _ _ _ _ _ _ (by simp [Fld.at, F.SEAM_RTT, F.SEAM_ONEWAY])]
    exact State.rd_wr_same _ _ _ _ _ _ (by decide) (by decide)
  · exact State.rd_wr_same _ _ _ _ _ _ (by decide) (by decide)

/-- What a TIME cell tells of the neighbour's heat. -/
theorem State.seeHot_shows (s : State) (n : Nat) (hot : Option (Layer × BitVec 12)) (dev : Nat) : let t := s.seeHot n hot dev
    t = { s with seams := t.seams, evq := t.evq } ∧ (t.seamAt n).rtts = (s.seamAt n).rtts ∧ (t.seamAt n).echo = (s.seamAt n).echo
      ∧ (t.seamAt n).hot = hot.isSome := by
  have hmod : ∀ f : SeamSt → SeamSt, (s.modSeam n f).seamAt n = f (s.seamAt n) := State.seamAt_modSeam_same s n
  have hevent : ∀ (u : State) (args : List Nat), u.event .neighbourHot blkSEAM n args = { u with evq := (u.event .neighbourHot blkSEAM n args).evq } := fun u args => by
    unfold State.event
    split <;> rfl
  unfold State.seeHot
  dsimp only
  cases hot with
  | none => exact ⟨rfl, by rw [hmod], by rw [hmod], by rw [hmod]; rfl⟩
  | some k =>
    have hset := hmod fun x => { x with hot := true }
    obtain ⟨u, hu⟩ : ∃ u : State, u = s.modSeam n (fun x => { x with hot := true }) := ⟨_, rfl⟩
    have hframe : u = { s with seams := u.seams } := by rw [hu]; rfl
    have hone : ∀ v : State, v = u.event .neighbourHot blkSEAM n [dev, k.1.val, k.2.toNat] ∨ v = u → v = { s with seams := v.seams, evq := v.evq }
        ∧ (v.seamAt n).rtts = (s.seamAt n).rtts ∧ (v.seamAt n).echo = (s.seamAt n).echo ∧ (v.seamAt n).hot = (some k).isSome := fun v hv => by
      rw [← hu] at hset
      have hat : v.seamAt n = u.seamAt n := by
        rcases hv with rfl | rfl
        · rw [hevent]
          rfl
        · rfl
      refine ⟨?_, by rw [hat, hset], by rw [hat, hset], by rw [hat, hset]; rfl⟩
      rcases hv with rfl | rfl
      · rw [hevent]
        generalize (u.event .neighbourHot blkSEAM n [dev, k.1.val, k.2.toNat]).evq = q
        rw [hframe]
      · rw [hframe]
    exact hone _ (hu ▸ ite_eq_or_eq _ _ _)

/-- The gap is the least with which the stitch ends where one of the parent's does. -/
theorem alignment_gap {here p : Nat} (hp : 0 < p) : (p - here % p) % p < p ∧ (here + (p - here % p) % p) % p = 0 := by
  refine ⟨Nat.mod_lt _ hp, ?_⟩
  have hlt := Nat.mod_lt here hp
  rw [Nat.add_mod, Nat.mod_mod, ← Nat.add_mod]
  by_cases h0 : here % p = 0
  · rw [h0, Nat.sub_zero, Nat.add_mod, h0, Nat.mod_self]
    rfl
  · rw [Nat.add_mod, Nat.mod_eq_of_lt (show p - here % p < p by omega), Nat.add_sub_cancel' (by omega), Nat.mod_self]

/-- A TIME cell of a seam that is UP. -/
theorem timeCell_shows {n : Seam} {s : State} (hup : s.seamUp n.val = true) (hh : s.halted = false) (c : TimeCell) : let b := SEAM n.val
    let rs := (c.rtt :: (s.seamAt n.val).rtts).take 256
    let s2 := s.tick c.at_
    ∃ t, exec (.timeCell n c) s = .next t ∧ (t.seamAt n.val).rtts = rs ∧ (t.seamAt n.val).echo = some (c.stitch, c.offset, s2.rootNow)
      ∧ t.rd F.SEAM_RTT b = rs.foldl (· + ·) 0 / rs.length % 2 ^ 20 ∧ t.rd F.SEAM_ONEWAY b = rs.foldl (· + ·) 0 / rs.length / 2 % 2 ^ 16
      ∧ (t.seamAt n.val).hot = c.hot.isSome ∧ t.stitch = s.stitch
      ∧ (s.rd F.SEAM_ROLE b = 1 → s.sys.claimed = true → s.sys.aligned = false → 0 < c.headN.toNat →
          let p := 64 * c.headN.toNat
          let here := (c.offset + t.rd F.SEAM_ONEWAY b) / 32 + (s.period - s2.off)
          t.sys.aligned = true ∧ ∃ a, t.sys.align = some a ∧ a.n = c.headN.toNat ∧ a.root = c.headRoot.toNat ∧ a.gap < p
            ∧ (here + a.gap) % p = 0 ∧ a.stitch = c.stitch + BitVec.ofNat 64 ((here + a.gap) / p))
      ∧ (¬ (s.rd F.SEAM_ROLE b = 1 ∧ s.sys.claimed = true ∧ s.sys.aligned = false) → t.sys.align = s.sys.align) := by
  intro b rs s2
  have hguard : (s.seamUp n.val && !s.halted) = true := by rw [hup, hh]; rfl
  obtain ⟨m, hm⟩ : ∃ m : State, m = (s2.measure n.val c.rtt).modSeam n.val (fun x => { x with echo := some (c.stitch, c.offset, s2.rootNow) }) := ⟨_, rfl⟩
  obtain ⟨q, hq⟩ : ∃ q : State, q = (m.seeHot n.val c.hot c.hotDev.val).wr F.SEAM_PHASE_ERR b (if s.rd F.SEAM_ROLE b == 1 then c.phase.toNat else 0) := ⟨_, rfl⟩
  obtain ⟨r, hr⟩ : ∃ r : State, r = if s.rd F.SEAM_ROLE b == 1 && q.inSystem then
      (if c.degraded then { q with time := { q.time with degraded := true, headDeg := true } }
       else if q.time.headDeg then
         { q with time := { q.time with
             headDeg := false
             degClear := q.time.degClear || (q.rd F.CLK_SOURCE CLK == 0 && !q.flag F.CLK_SLEWING CLK) } }
       else q)
    else q := ⟨_, rfl⟩
  obtain ⟨t, ht⟩ : ∃ t : State, t = if s.rd F.SEAM_ROLE b == 1 && r.sys.claimed && !r.sys.aligned then
      { r with sys := { r.sys with align := some (r.alignTo n.val c), aligned := true } } else r := ⟨_, rfl⟩
  have hrun : exec (.timeCell n c) s = .next t := by
    rw [ht, hr, hq, hm]
    exact act_next hguard
  obtain ⟨hmframe, hmseam, hmrtt, hmoneway, hmlow⟩ := s2.measure_shows n.val c.rtt
  have hmat : m.seamAt n.val = { s.seamAt n.val with rtts := rs, echo := some (c.stitch, c.offset, s2.rootNow) } := by
    rw [hm, State.seamAt_modSeam_same, hmseam]
    rfl
  have hmframe' : m = { s2 with regs := m.regs, seams := m.seams } := by
    rw [hm]
    unfold State.modSeam
    rw [hmframe]
  obtain ⟨hhframe, hhrtts, hhecho, hhhot⟩ := m.seeHot_shows n.val c.hot c.hotDev.val
  have hrtime : r = { q with time := r.time } := by
    rw [hr]
    split
    · split
      · rfl
      · split <;> rfl
    · rfl
  have htframe : t = { r with sys := t.sys } := by rw [ht]; split <;> rfl
  have hat : t.seamAt n.val = (m.seeHot n.val c.hot c.hotDev.val).seamAt n.val := by
    rw [htframe, hrtime, hq]
    rfl
  have hregs : t.regs = q.regs := by rw [htframe, hrtime]
  have hrd : ∀ (f : Fld) (base : Nat), f.at base 0 0 ≠ F.SEAM_PHASE_ERR.at b 0 0 → t.rd f base = (s2.measure n.val c.rtt).rd f base := fun f base hne => by
    have hqrd : t.rd f base = q.rd f base := congrArg (fun x => bitsOf f.hi f.lo (Tab.get resetWord x (f.at base 0 0))) hregs
    rw [hqrd, hq, State.rd_wr_word _ _ _ _ _ _ _ _ _ _ hne, hhframe, hm]
    rfl
  have hrsys : r.sys = s.sys := by
    rw [hrtime, hq]
    change (m.seeHot n.val c.hot c.hotDev.val).sys = s.sys
    rw [hhframe, hmframe']
    rfl
  have hrstitch : r.stitch = s.stitch ∧ r.off = s2.off := by
    rw [hrtime, hq]
    change (m.seeHot n.val c.hot c.hotDev.val).stitch = s.stitch ∧ (m.seeHot n.val c.hot c.hotDev.val).off = s2.off
    rw [hhframe, hmframe']
    exact ⟨rfl, rfl⟩
  have honeway : t.rd F.SEAM_ONEWAY b = rs.foldl (· + ·) 0 / rs.length / 2 % 2 ^ 16 :=
    (hrd _ _ (by simp [Fld.at, F.SEAM_ONEWAY, F.SEAM_PHASE_ERR])).trans hmoneway
  have hperiod : r.period = s.period := by
    have hrt : r.rd F.STC_N_NOW DEV = t.rd F.STC_N_NOW DEV := by rw [htframe]; rfl
    have hne : F.STC_N_NOW.at DEV 0 0 ≠ F.SEAM_PHASE_ERR.at b 0 0 := by
      simp only [Fld.at, F.STC_N_NOW, F.SEAM_PHASE_ERR, DEV, b, SEAM]
      omega
    unfold State.period
    rw [hrt, hrd _ _ hne, hmlow.rd (by decide)]
    rfl
  refine ⟨t, hrun, ?_, ?_, ?_, honeway, ?_, ?_, fun hrole hclaimed haligned hn => ?_, fun hnot => ?_⟩
  · rw [hat, hhrtts, hmat]
  · rw [hat, hhecho, hmat]
  · exact (hrd _ _ (by simp [Fld.at, F.SEAM_RTT, F.SEAM_PHASE_ERR])).trans hmrtt
  · rw [hat, hhhot]
  · rw [htframe]
    exact hrstitch.1
  · intro p here
    have haligns : t.sys = { r.sys with align := some (r.alignTo n.val c), aligned := true } := by
      rw [ht, hrsys, hclaimed, haligned, show s.rd F.SEAM_ROLE b = 1 from hrole]
      rfl
    have hway : r.rd F.SEAM_ONEWAY (SEAM n.val) = t.rd F.SEAM_ONEWAY b := by rw [htframe]; rfl
    have hhere : (c.offset + r.rd F.SEAM_ONEWAY (SEAM n.val)) / 32 + (r.period - r.off) = here := by rw [hway, hperiod, hrstitch.2]
    obtain ⟨hgap, hends⟩ := alignment_gap (here := here) (show 0 < p by simp only [p]; omega)
    rw [haligns]
    refine ⟨rfl, _, rfl, rfl, rfl, ?_, ?_, ?_⟩
    · unfold State.alignTo
      dsimp only
      rw [hhere]
      exact hgap
    · unfold State.alignTo
      dsimp only
      rw [hhere]
      exact hends
    · unfold State.alignTo
      dsimp only
      rw [hhere]
  · have hkeeps : ¬ (s.rd F.SEAM_ROLE b == 1 && r.sys.claimed && !r.sys.aligned) = true := by
      rw [hrsys]
      simpa [and_assoc] using hnot
    rw [ht, if_neg hkeeps, hrsys]

end Sys2Proof.Machine

/-! Raise entries (R309, R411). -/

namespace Sys2Proof.Machine

/-- The stitch of a raise, from its low 16 bits. -/
theorem raiseStitch (st : W64) (e : W16) {back : Nat} (hback : back = (st.toNat + 65536 - e.toNat) % 65536) (h : back < 32768) :
    BitVec.ofInt 64 (st.toInt + toSigned 16 (e.toNat + 65536 - st.toNat % 65536)) = st - BitVec.ofNat 64 back := by
  have he := e.isLt
  have hsigned : toSigned 16 (e.toNat + 65536 - st.toNat % 65536) = -(back : Int) := by
    unfold toSigned
    norm_num only
    split <;> omega
  rw [hsigned, BitVec.ofInt_add, BitVec.ofInt_toInt, BitVec.ofInt_neg, BitVec.ofInt_natCast, BitVec.sub_eq_add_neg]

theorem raiseStitch_low (st : W64) (e : W16) {back : Nat} (hback : back = (st.toNat + 65536 - e.toNat) % 65536) :
    (st - BitVec.ofNat 64 back).toNat % 65536 = e.toNat := by
  have he := e.isLt
  have hst := st.isLt
  rw [BitVec.toNat_sub, BitVec.toNat_ofNat]
  omega

/-- A raise is late where its stitch lies D or more back. -/
theorem raise_late (st : W64) {back d : Nat} (hb : back < 32768) (hd : d < 256) :
    (st - BitVec.ofNat 64 back + BitVec.ofNat 64 d - st).toInt ≤ 0 ↔ d ≤ back := by
  have hdiff : st - BitVec.ofNat 64 back + BitVec.ofNat 64 d - st = BitVec.ofInt 64 ((d : Int) - back) := by
    rw [Int.sub_eq_add_neg, BitVec.ofInt_add, BitVec.ofInt_neg, BitVec.ofInt_natCast, BitVec.ofInt_natCast]
    bv_omega
  rw [hdiff, BitVec.toInt_ofInt, Int.bmod_eq_of_le (by omega) (by omega)]
  omega

theorem State.trig_event (s : State) (e : EvCode) (block inst : Nat) (args : List Nat) (st : Status) : (s.event e block inst args st).trig = s.trig := by
  unfold State.event
  split <;> rfl

theorem State.sys_event (s : State) (e : EvCode) (block inst : Nat) (args : List Nat) (st : Status) : (s.event e block inst args st).sys = s.sys := by
  unfold State.event
  split <;> rfl

/-- The state that a new raise entry leaves, late or not. -/
def State.entered (s : State) (e : TrigEntry) (due : W64) (r : Raise) : State :=
  (s.took.flood { e with hops := e.hops + 1 }).noteSystem (48 + e.line.val) e.origin.val due r

theorem State.entered_shows (s : State) (e : TrigEntry) (due : W64) {r : Raise} (hr : r.ts.stitch.toNat % 65536 = e.stitch.toNat) : let t := s.entered e due r
    t.trig.sysDue = s.trig.sysDue ++ [⟨48 + e.line.val, due, r⟩] ∧ (48 + e.line.val, e.origin.val, e.stitch.toNat) ∈ t.sys.seen ∧ t.regs = s.regs := by
  have hflood := State.flood_frame s.took { e with hops := e.hops + 1 }
  refine ⟨?_, ?_, ?_⟩
  · change (s.took.flood _).trig.sysDue ++ _ = _
    rw [State.flood_trig]
    rfl
  · change _ ∈ (s.took.flood _).sys.seen ++ _
    rw [hr]
    exact List.mem_append_right _ (List.mem_singleton.2 rfl)
  · change (s.took.flood _).regs = _
    rw [hflood]
    rfl

/-- An entry not seen before is noted at its stitch, D later, or where that has passed at the next. -/
theorem State.arriveRaise_shows (s : State) (e : TrigEntry) (hreset : e.reset = false) : let line := 48 + e.line.val
    let back := (s.stitch.toNat + 65536 - e.stitch.toNat) % 65536
    ((line, e.origin.val, e.stitch.toNat) ∈ s.sys.seen → s.arriveRaise e = s)
      ∧ ((line, e.origin.val, e.stitch.toNat) ∉ s.sys.seen → back < 32768 → ∃ r : Raise, r.dev = e.origin.val ∧ r.ts.stitch.toNat % 65536 = e.stitch.toNat
        ∧ (back < s.rd F.TRIG_D TRIG → s.arriveRaise e = s.entered e (s.stitch - BitVec.ofNat 64 back + BitVec.ofNat 64 (s.rd F.TRIG_D TRIG)) r)
        ∧ (s.rd F.TRIG_D TRIG ≤ back → s.arriveRaise e
            = ((s.entered e (s.stitch + 1) r).bump F.TRIG_LATE TRIG).event .trigLate blkTRIG 0 [line, e.origin.val])) := by
  intro line back
  have hreset' : ¬ e.reset = true := ne_true_of_eq_false hreset
  refine ⟨fun hseen => (if_neg hreset').trans (if_pos hseen), fun hnew hb => ?_⟩
  have hraised := raiseStitch s.stitch e.stitch (back := back) rfl hb
  obtain ⟨r, hr⟩ : ∃ r : Raise, r = ⟨{ s.now with stitch := BitVec.ofInt 64 (s.stitch.toInt + toSigned 16 (e.stitch.toNat + 65536 - s.stitch.toNat % 65536))
                                                  off := s.freeWord.toNat % 8192 }, s.freeWord.toNat % 8192, 5, e.origin.val, false⟩ := ⟨_, rfl⟩
  obtain ⟨due, hdue⟩ : ∃ d : W64, d = BitVec.ofInt 64 (s.stitch.toInt + toSigned 16 (e.stitch.toNat + 65536 - s.stitch.toNat % 65536))
      + BitVec.ofNat 64 (s.rd F.TRIG_D TRIG) := ⟨_, rfl⟩
  have hlate := raise_late s.stitch hb (s.rd_lt F.TRIG_D TRIG 0 0)
  have hnoted : s.arriveRaise e = if decide ((due - s.stitch).toInt ≤ 0)
      then ((s.entered e (if decide ((due - s.stitch).toInt ≤ 0) then s.stitch + 1 else due) r).bump F.TRIG_LATE TRIG).event .trigLate blkTRIG 0 [line, e.origin.val]
      else s.entered e (if decide ((due - s.stitch).toInt ≤ 0) then s.stitch + 1 else due) r := by
    rw [hdue, hr]
    exact (if_neg hreset').trans (if_neg hnew)
  rw [hraised] at hdue
  rw [← hdue] at hlate
  refine ⟨r, by rw [hr], ?_, fun hin => ?_, fun hout => ?_⟩
  · rw [hr]
    exact (congrArg (fun x : W64 => x.toNat % 65536) hraised).trans (raiseStitch_low s.stitch e.stitch rfl)
  · rw [hnoted, decide_eq_false (mt hlate.1 (by omega)), hdue]
    rfl
  · rw [hnoted, decide_eq_true (hlate.2 hout)]
    rfl

/-- A raise entry of a seam that is UP. -/
theorem trigCell_shows {n : Seam} {s : State} (hup : s.seamUp n.val = true) (hh : s.halted = false) (off : Nat) (e : TrigEntry) (hreset : e.reset = false) :
    let line := 48 + e.line.val
    let back := (s.stitch.toNat + 65536 - e.stitch.toNat) % 65536
    let due := s.stitch - BitVec.ofNat 64 back + BitVec.ofNat 64 (s.rd F.TRIG_D TRIG)
    ((line, e.origin.val, e.stitch.toNat) ∈ s.sys.seen → exec (.trigCell n [e] off) s = .next (s.tick off))
      ∧ ((line, e.origin.val, e.stitch.toNat) ∉ s.sys.seen → back < 32768 → back < s.rd F.TRIG_D TRIG → ∃ t q, exec (.trigCell n [e] off) s = .next t
          ∧ t.trig.sysDue = s.trig.sysDue ++ [q] ∧ q.line = line ∧ q.due = due ∧ q.r.dev = e.origin.val
          ∧ (line, e.origin.val, e.stitch.toNat) ∈ t.sys.seen ∧ t.rd F.TRIG_LATE TRIG = s.rd F.TRIG_LATE TRIG)
      ∧ ((line, e.origin.val, e.stitch.toNat) ∉ s.sys.seen → back < 32768 → s.rd F.TRIG_D TRIG ≤ back → ∃ t q, exec (.trigCell n [e] off) s = .next t
          ∧ t.trig.sysDue = s.trig.sysDue ++ [q] ∧ q.line = line ∧ q.due = s.stitch + 1
          ∧ t.rd F.TRIG_LATE TRIG = min 65535 (s.rd F.TRIG_LATE TRIG + 1)) := by
  intro line back due
  have hguard : (s.seamUp n.val && !s.halted) = true := by rw [hup, hh]; rfl
  have hrun : exec (.trigCell n [e] off) s = .next ((s.tick off).arriveRaise e) := act_next hguard
  obtain ⟨hseen, hnew⟩ := (s.tick off).arriveRaise_shows e hreset
  refine ⟨fun h => hrun.trans (congrArg Host.Outcome.next (hseen h)), fun h hb hd => ?_, fun h hb hd => ?_⟩
  · obtain ⟨r, hdev, hlow, hin, -⟩ := hnew h hb
    obtain ⟨hdue, hmem, hregs⟩ := (s.tick off).entered_shows e due hlow
    refine ⟨_, _, hrun.trans (congrArg Host.Outcome.next (hin hd)), hdue, rfl, rfl, hdev, hmem, ?_⟩
    exact congrArg (fun x => bitsOf 31 16 (Tab.get resetWord x (F.TRIG_LATE.at TRIG 0 0))) hregs
  · obtain ⟨r, -, hlow, -, hlate⟩ := hnew h hb
    obtain ⟨hdue, -, hregs⟩ := (s.tick off).entered_shows e (s.stitch + 1) hlow
    obtain ⟨u, hu⟩ : ∃ u : State, u = (s.tick off).entered e (s.stitch + 1) r := ⟨_, rfl⟩
    have hrd : u.rd F.TRIG_LATE TRIG = s.rd F.TRIG_LATE TRIG := by
      rw [hu]
      exact congrArg (fun x => bitsOf 31 16 (Tab.get resetWord x (F.TRIG_LATE.at TRIG 0 0))) hregs
    have hrun' := hrun.trans (congrArg Host.Outcome.next (hlate hd))
    change exec _ s = .next ((((s.tick off).entered e (s.stitch + 1) r).bump F.TRIG_LATE TRIG).event .trigLate blkTRIG 0 [line, e.origin.val]) at hrun'
    rw [← hu] at hrun' hdue
    refine ⟨_, ⟨line, s.stitch + 1, r⟩, hrun', ?_, rfl, rfl, ?_⟩
    · rw [State.trig_event]
      exact hdue
    · rw [State.rd_event, State.rd_bump_same _ _ _ (by decide) (by decide), hrd]
      rfl

/-! Data cells (R399, R415). -/

theorem nthD_take {α : Type} (d : α) (l : List α) {n i : Nat} (h : i < n) : nthD d (l.take n) i = nthD d l i := by
  induction l generalizing n i with
  | nil => rw [List.take_nil]
  | cons a l ih =>
    obtain ⟨m, rfl⟩ : ∃ m, n = m + 1 := ⟨n - 1, by omega⟩
    cases i with
    | zero => rfl
    | succ i => exact ih (by omega)

theorem dataCell_shows {n : Seam} {s : State} (hup : s.seamUp n.val = true) (hh : s.halted = false) (d : DataCell) :
    (d.kind = 1 → exec (.dataCell n d) s = .next s)
      ∧ (d.dest.val = s.devnum → d.kind ≠ 1 → ¬ (d.kind = 2 ∧ s.isHead = true) → ∃ t, exec (.dataCell n d) s = .next t
          ∧ t.sys.flows.get (fun _ => []) (64 * d.kind.toNat + d.source.val)
              = flowSoFar (s.sys.flows.get (fun _ => []) (64 * d.kind.toNat + d.source.val)) d ++ d.payload
          ∧ t = { s with sys := { s.sys with flows := t.sys.flows } })
      ∧ (d.dest.val = s.devnum → d.kind = 2 → s.isHead = true → s.host.d3 = false → ∃ t, exec (.dataCell n d) s = .next t
          ∧ t = { s with hostMem := t.hostMem } ∧ ∀ a, Tab.get (fun _ => 0) t.hostMem a =
              if leNat (d.payload.take 8) ≤ a
                  ∧ a < leNat (d.payload.take 8) + ((d.payload.drop 12).take (leNat ((d.payload.drop 8).take 4))).length then
                nthD 0 (d.payload.drop 12) (a - leNat (d.payload.take 8)) else Tab.get (fun _ => 0) s.hostMem a)
      ∧ (∀ m, d.kind ≠ 1 → d.dest.val ≠ s.devnum → s.routeTo d.dest.val = some m → ∃ t, exec (.dataCell n d) s = .next t
          ∧ (t.seamAt m).dataOut = (s.seamAt m).dataOut ++ [d] ∧ t = { s with seams := t.seams } ∧ ∀ i, i ≠ m → t.seamAt i = s.seamAt i) := by
  have hguard : (s.seamUp n.val && !s.halted) = true := by rw [hup, hh]; rfl
  obtain ⟨flow, hflow⟩ : ∃ l, l = flowSoFar (Tab.get (fun _ => []) s.sys.flows (64 * d.kind.toNat + d.source.val)) d ++ d.payload := ⟨_, rfl⟩
  obtain ⟨u, hu⟩ : ∃ u : State, u = { s with sys := { s.sys with flows := s.sys.flows.put (64 * d.kind.toNat + d.source.val) flow } } := ⟨_, rfl⟩
  have hrun : exec (.dataCell n d) s = .next (if d.kind = 1 then s
     else if d.dest.val ≠ s.devnum then s.sendData d
     else if d.kind = 2 ∧ s.isHead then s.hostWrite (leNat (d.payload.take 8)) ((d.payload.drop 12).take (leNat ((d.payload.drop 8).take 4)))
     else u) := by
    rw [hu, hflow]
    exact act_next hguard
  refine ⟨fun hk => hrun.trans (congrArg Host.Outcome.next (if_pos hk)), fun hdest hk hother => ?_, fun hdest hk hhead hd3 => ?_, fun m hk hdest hroute => ?_⟩
  · refine ⟨u, hrun.trans (congrArg Host.Outcome.next ((if_neg hk).trans ((if_neg (not_not.2 hdest)).trans (if_neg hother)))), ?_, ?_⟩ <;> rw [hu]
    exact (Tab.get_put_same _ _ _ _).trans hflow
  · refine ⟨_, hrun.trans (congrArg Host.Outcome.next ((if_neg (by rw [hk]; decide)).trans ((if_neg (not_not.2 hdest)).trans (if_pos ⟨hk, hhead⟩)))),
      State.hostWrite_frame _ _ _, fun a => (State.hostMem_hostWrite hd3 _ _ a).trans ?_⟩
    split
    · next hin =>
      refine nthD_take _ _ ?_
      rw [List.length_take] at hin
      omega
    · rfl
  · have hsent := State.sendData_of_route (c := d) hroute
    refine ⟨_, hrun.trans (congrArg Host.Outcome.next ((if_neg hk).trans ((if_pos hdest).trans hsent))), ?_, rfl, fun i hi => State.seamAt_modSeam_other _ _ hi⟩
    rw [State.seamAt_modSeam_same]

/-! A HALT block at a device other than the head (R417). -/

theorem AboveRoutes.switchRoutes (s : State) (n : Nat) : AboveRoutes s (s.switchRoutes n) := by
  refine (AboveRoutes.refl s).forN_lt fun d hd u => ?_
  split
  · exact ((AboveRoutes.refl u).wr (AboveRoutes.routeWord (by decide) hd) _).wr (AboveRoutes.routeWord (by decide) hd) _
  · split
    · exact (AboveRoutes.refl u).wr (AboveRoutes.routeWord (by decide) hd) _
    · exact .refl u

/-- The notice of a halt leaves the seams as they were, but for what they send. -/
theorem State.tellHalt_shows (s : State) (d : Device) (seam : Nat) : ∃ x, RoutesOnly { s with sys := x } (s.tellHalt d seam) := by
  unfold State.tellHalt
  split
  · exact ⟨s.sys, ((RoutesOnly.refl s).sendMsg _ _).showSystem⟩
  · obtain ⟨u, hu⟩ : ∃ u : State, u = s.learnHalt 0 seam := ⟨_, rfl⟩
    have hlearn : ∃ x, RoutesOnly { s with sys := x } u := by
      rw [hu]
      unfold State.learnHalt
      split
      · exact ⟨s.sys, .refl s⟩
      · exact ⟨_, ((RoutesOnly.refl { s with sys := { s.sys with haltSeam := s.sys.haltSeam.put 0 seam, parentLost := s.sys.parentLost || 0 == 0 } }).wr
          (f := F.SYS_HALTED) (i := 0) (by decide) 1).showSystem⟩
    obtain ⟨x, hx⟩ := hlearn
    rw [← hu]
    exact ⟨x, hx.forN_lt fun y _ v => .ite (.refl v) ((RoutesOnly.refl v).sendMsg _ _)⟩

theorem haltBlock_shows {n : Seam} {s : State} (hup : s.seamUp n.val = true) (hh : s.halted = false) (off : Nat) (d : Device) (hhead : s.isHead = false) :
    ∃ t, exec (.haltBlock n d off) s = .next t ∧ t.rd F.SEAM_LSTATE (SEAM n.val) = 4
      ∧ t.rd F.SEAM_FAIL_CAUSE (SEAM n.val) = 5 ∧ (t.seamAt n.val).key = false ∧ t.off = s.clampOff off
      ∧ ∃ e, t.evq = s.evq ++ [e] ∧ e.code = 0x40 := by
  have hguard : (s.seamUp n.val && !s.halted) = true := by rw [hup, hh]; rfl
  obtain ⟨w, hw⟩ : ∃ w : State, w = ((s.tick off).wr F.SEAM_LSTATE (SEAM n.val) 4).wr F.SEAM_FAIL_CAUSE (SEAM n.val) 5 := ⟨_, rfl⟩
  obtain ⟨u, hu⟩ : ∃ u : State, u = { w.modSeam n.val (fun x => { x with key := false, trigOut := [], msgOut := [], dataOut := [] }) with
      sys := { s.sys with parentLost := s.sys.parentLost || (s.rd F.SEAM_ROLE (SEAM n.val) == 1) } } := ⟨_, rfl⟩
  obtain ⟨v, hv⟩ : ∃ v : State, v = u.switchRoutes n.val := ⟨_, rfl⟩
  have habove : AboveRoutes u v := hv ▸ AboveRoutes.switchRoutes u n.val
  have hroutes : RoutesOnly u v := hv ▸ (RoutesOnly.refl u).switchRoutes n.val
  have hseamWord : ∀ f : Fld, 0x1000 ≤ f.at (SEAM n.val) 0 0 := fun f => SEAM_low n.val
  have hulow : SameRegs (fun a => a < 0x1000 ∨ 0x6000 ≤ a) s u := by
    have hout : ∀ f : Fld, f.off = 4 ∧ f.st1 = 0 ∧ f.st2 = 0 → ¬ (f.at (SEAM n.val) 0 0 < 0x1000 ∨ 0x6000 ≤ f.at (SEAM n.val) 0 0) := fun f hf => by
      have := n.isLt
      simp only [Fld.at, hf.1, hf.2.1, hf.2.2, SEAM]
      omega
    have hwregs : SameRegs (fun a => a < 0x1000 ∨ 0x6000 ≤ a) s w := by
      rw [hw]
      exact (((SameRegs.refl _ s).of_regs rfl).wr (hout _ (by decide)) _).wr (hout _ (by decide)) _
    exact hwregs.of_regs (by rw [hu]; rfl)
  have hvhead : v.isHead = false := by
    unfold State.isHead State.devnum
    rw [habove.2.rd (by decide), hulow.rd (by decide)]
    exact hhead
  have hvlive : v.halted = false := by
    unfold State.halted State.flag
    rw [hroutes.rd (by decide), hulow.rd (by decide)]
    exact hh
  have hvevq : v.evq = s.evq ∧ v.off = s.clampOff off := by
    rw [hroutes.frame, hu, hw]
    exact ⟨rfl, rfl⟩
  have hevent := State.event_of_live hvlive .securityAlarm blkSEAM n.val [d.val, 0, n.val] .ok
  obtain ⟨z, hz⟩ : ∃ z : State, z = v.event .securityAlarm blkSEAM n.val [d.val, 0, n.val] := ⟨_, rfl⟩
  obtain ⟨x, htold⟩ := z.tellHalt_shows d n.val
  have hrun : exec (.haltBlock n d off) s = .next (z.tellHalt d n.val) := by
    have hact : exec (.haltBlock n d off) s = .next (if v.isHead then v.markHalted d.val n.val
        else (v.event .securityAlarm blkSEAM n.val [d.val, 0, n.val]).tellHalt d n.val) := by
      rw [hv, hu, hw]
      exact act_next hguard
    rw [hz]
    exact hact.trans (congrArg Host.Outcome.next (if_neg (ne_true_of_eq_false hvhead)))
  have hzrd : ∀ f : Fld, (z.tellHalt d n.val).rd f (SEAM n.val) = w.rd f (SEAM n.val) := fun f => by
    have hzv : State.rd { z with sys := x } f (SEAM n.val) = v.rd f (SEAM n.val) := by
      rw [hz, hevent]
      rfl
    have huw : u.rd f (SEAM n.val) = w.rd f (SEAM n.val) := by rw [hu]; rfl
    rw [htold.rd (by unfold SEAM; omega), hzv, hroutes.rd (by unfold SEAM; omega), huw]
  have hzkey : State.seamAt { z with sys := x } n.val = v.seamAt n.val := by
    rw [hz, hevent]
    rfl
  refine ⟨_, hrun, ?_, ?_, ?_, ?_, ⟨v.now, EvCode.securityAlarm.code, Status.ok.code, v.devnum, blkSEAM, n.val, [d.val, 0, n.val].map (BitVec.ofNat 32)⟩, ?_, rfl⟩
  · rw [hzrd, hw, State.rd_wr_field _ _ _ _ _ _ _ _ _ _ (by decide) (by decide) (by decide) (by decide)]
    exact State.rd_wr_same _ _ _ _ _ _ (by decide) (by decide)
  · rw [hzrd, hw]
    exact State.rd_wr_same _ _ _ _ _ _ (by decide) (by decide)
  · rw [htold.key, hzkey, hroutes.key, hu]
    exact congrArg SeamSt.key (State.seamAt_modSeam_same w n.val (fun x => { x with key := false, trigOut := [], msgOut := [], dataOut := [] }))
  · rw [htold.frame]
    change z.off = _
    rw [hz, hevent]
    exact hvevq.2
  · rw [htold.frame]
    change z.evq = _
    rw [hz, hevent, ← hvevq.1]

/-- Settles O47. -/
theorem seamTraffic : Obligations.SeamTraffic := by
  unfold Obligations.SeamTraffic
  refine ⟨fun n s hlink hh => ?_, fun n off s hlink hh => ?_⟩
  · have hup := State.seamUp_of_lstate hlink
    exact ⟨seamFrameSend_shows hup hh, seamFrameReceive_shows hup hh, timeCell_shows hup hh⟩
  · have hup := State.seamUp_of_lstate hlink
    exact ⟨fun e hreset => trigCell_shows hup hh off e hreset, fun d => dataCell_shows hup hh d, fun d hhead => haltBlock_shows hup hh off d hhead⟩

end Sys2Proof.Machine

/-! An event of a patch raised within a stitch (R91, R92). -/

namespace Sys2Proof.Machine

/-- Nothing differs but the processors and the registers in `l`. -/
structure EventStep (l : List Nat) (s t : State) : Prop where
  frame : t = { s with regs := t.regs, procs := t.procs }
  regs : SameRegs (· ∉ l) s t

namespace EventStep

variable {l : List Nat} {s t : State}

theorem refl (l : List Nat) (s : State) : EventStep l s s := ⟨rfl, SameRegs.refl _ s⟩

theorem wr (h : EventStep l s t) {f : Fld} {base : Nat} (hf : f.at base 0 0 ∈ l) (v : Nat) : EventStep l s (t.wr f base v) := by
  refine ⟨?_, h.regs.wr (not_not.2 hf) v⟩
  rw [State.wr_frame]
  generalize (t.wr f base v).regs = x
  rw [h.frame]

theorem modProcAt (h : EventStep l s t) (key : Nat) (f : ProcSt → ProcSt) : EventStep l s (t.modProcAt key f) := ⟨by rw [h.frame]; rfl, h.regs.of_regs rfl⟩

theorem beginProgram (h : EventStep l s t) (key c : Nat) : EventStep l s (t.beginProgram key c) := by
  unfold State.beginProgram
  exact h.modProcAt _ _

end EventStep

/-- The words of a patch that the raise of an event may write: its bank's, its abandoned runs and its pending events. -/
abbrev eventWords (b : Nat) : List Nat := [b, b + 8, b + 0x18]

theorem pb_of_eventStep {s t : State} {k : Nat} (hk : k < 16) (h : EventStep (eventWords (s.pb k)) s t) : t.pb k = s.pb k := by
  have hb := s.pb_high k
  unfold State.pb State.ppos
  rw [h.regs.rd]
  simp only [Fld.at, F.LPM_PPOS, DEV, List.mem_cons, List.not_mem_nil, or_false]
  omega

/-- What the raise of an event class shows. -/
theorem State.raiseP_shows (s : State) {k : Nat} (hk : k < 16) {cls : Nat} (hcls : cls < 16) :
    EventStep (eventWords (s.pb k)) s (s.raiseP k cls)
      ∧ (bitAt (s.rd F.EVT_EN (s.pb k)) cls = true → bitAt ((s.raiseP k cls).rd F.EVT_PEND (s.pb k)) cls = true) := by
  have hbase : s.seqBase (16 + k) = s.pb k := s.seqBase_p ⟨k, hk⟩
  obtain ⟨u, hu⟩ : ∃ u : State, u = if bitAt (s.rd F.EVT_PEND (s.pb k)) cls then s else s.wr F.EVT_PEND (s.pb k) (s.rd F.EVT_PEND (s.pb k) + 2 ^ cls) := ⟨_, rfl⟩
  have hstep : EventStep (eventWords (s.pb k)) s u := by
    rw [hu]
    split
    · exact .refl _ s
    · exact (EventStep.refl _ s).wr (by simp [Fld.at, F.EVT_PEND]) _
  have hpends : bitAt (u.rd F.EVT_PEND (s.pb k)) cls = true := by
    rw [hu]
    split
    · assumption
    · next hclear =>
      rw [State.rd_wr_same _ _ _ _ _ _ (by decide) (by decide)]
      exact bitAt_add_clear hcls (Bool.eq_false_iff.2 hclear)
  have hswitch : EventStep (eventWords (s.pb k)) s (u.switchBank (16 + k)) ∧ (u.switchBank (16 + k)).rd F.EVT_PEND (s.pb k) = u.rd F.EVT_PEND (s.pb k) := by
    have hbase' : u.seqBase (16 + k) = s.pb k := (u.seqBase_p ⟨k, hk⟩).trans (pb_of_eventStep hk hstep)
    have hsel : ∀ (v v' : Nat) (l : List Nat) (w : State), s.pb k ∈ l → s.pb k + 8 ∈ l → EventStep l w u →
        EventStep l w ((u.wr F.BANK (s.pb k) v).wr F.ABANDON (s.pb k) v') := fun v v' l w h1 h2 h => (h.wr (by simpa [Fld.at, F.BANK]) v).wr (by simpa [Fld.at, F.ABANDON]) v'
    have hall : ∀ (l : List Nat) (w : State), s.pb k ∈ l → s.pb k + 8 ∈ l → EventStep l w u → EventStep l w (u.switchBank (16 + k)) := fun l w h1 h2 h => by
      unfold State.switchBank State.bump
      dsimp only
      rw [hbase']
      split
      · exact ((hsel _ _ l w h1 h2 h).modProcAt _ _).beginProgram _ _
      · exact (hsel _ _ l w h1 h2 h).modProcAt _ _
    refine ⟨hall _ s (by simp) (by simp) hstep, (hall [s.pb k, s.pb k + 8] u (by simp) (by simp) (.refl _ u)).regs.rd ?_⟩
    simp [Fld.at, F.EVT_PEND]
  unfold State.raiseP State.raiseProc
  dsimp only
  rw [hbase, ← hu]
  by_cases hen : bitAt (s.rd F.EVT_EN (s.pb k)) cls = true
  · rw [if_pos hen]
    split
    · exact ⟨hswitch.1, fun _ => by rw [hswitch.2]; exact hpends⟩
    · exact ⟨hstep, fun _ => hpends⟩
  · rw [if_neg hen]
    exact ⟨.refl _ s, fun h => absurd h hen⟩

end Sys2Proof.Machine

/-! What the fabric of a patch leaves as it runs: the other patches' fabrics, and the events that its sequencer listens to. -/

namespace Sys2Proof.Machine

/-- The fabric of patch `k` has run from `s` to `t`. -/
structure RanPatch (k : Nat) (s t : State) : Prop where
  ran : RanFabric s t
  fab : ∀ m, m ≠ k → t.fabAt m = s.fabAt m
  en : t.reg (s.pb k + 0x10) = s.reg (s.pb k + 0x10)

namespace RanPatch

variable {k : Nat} {s t u : State}

theorem refl (k : Nat) (s : State) : RanPatch k s s := ⟨.refl s, fun _ _ => rfl, rfl⟩

theorem pb (h : RanPatch k s t) (hk : k < 16) : t.pb k = s.pb k := State.pb_of_sameRegs h.ran.2 ⟨k, hk⟩

theorem ranTrans (h : RanFabric s t) (g : RanFabric t u) : RanFabric s u := by
  refine ⟨?_, h.2.trans g.2⟩
  rw [g.1]
  generalize u.regs = x1
  generalize u.fabs = x2
  generalize u.procs = x3
  generalize u.evq = x4
  generalize u.off = x5
  generalize u.fresh = x6
  rw [h.1]

theorem trans (hk : k < 16) (h : RanPatch k s t) (g : RanPatch k t u) : RanPatch k s u := by
  refine ⟨ranTrans h.ran g.ran, fun m hm => (g.fab m hm).trans (h.fab m hm), ?_⟩
  have hen := g.en
  rw [h.pb hk] at hen
  exact hen.trans h.en

theorem setFab (s : State) (k : Nat) (x : FabSt) : RanPatch k s (s.setFab k x) :=
  ⟨(RanFabric.refl s).setFab k x, fun _ hm => s.fabAt_setFab_other hm x, rfl⟩

theorem wr (s : State) (k : Nat) {f : Fld} (hf : 0x10 < f.off) (v i : Nat) : RanPatch k s (s.wr f (s.pb k) v i) :=
  ⟨(RanFabric.refl s).wr (s.pb_high k) v, fun _ _ => rfl, State.reg_wr_other _ _ _ _ _ _ (by simp only [Fld.at]; omega)⟩

theorem event (s : State) (k : Nat) (e : EvCode) (block inst : Nat) (args : List Nat) (st : Status) : RanPatch k s (s.event e block inst args st) := by
  refine ⟨(RanFabric.refl s).event _ _ _ _ _, fun m _ => ?_, ?_⟩ <;>
  · unfold State.event
    split <;> rfl

theorem raiseP (s : State) (hk : k < 16) {cls : Nat} (hcls : cls < 16) : RanPatch k s (s.raiseP k cls) := by
  have hstep := (s.raiseP_shows hk hcls).1
  refine ⟨(RanFabric.refl s).raiseP hk cls, fun m _ => ?_, hstep.regs _ ?_⟩
  · unfold State.fabAt
    rw [hstep.frame]
  · simp

theorem showExchange (s : State) (hk : k < 16) : RanPatch k s (s.showExchange k) := by
  have hpb : (s.wr F.XCH_TXQ (s.pb k) (s.fabAt k).sending).pb k = s.pb k := (wr s k (by decide) _ _).pb hk
  have hsecond := wr (s.wr F.XCH_TXQ (s.pb k) (s.fabAt k).sending) k (f := F.XCH_RXQ) (by decide) (s.fabAt k).recvQ.length 0
  rw [hpb] at hsecond
  exact (wr s k (by decide) _ _).trans hk hsecond

end RanPatch

end Sys2Proof.Machine

/-! Contention on a bus line (R200 to R204). -/

namespace Sys2Proof.Machine

/-- A detection is in the log, under an entry of its own or in the line's. -/
theorem State.logContention_shows (u : State) (k : Nat) {half line st : Nat} (hhalf : half < 2) (hline : line < 512) (hst : st < 4) :
    let w := u.logContention k half line st
    w = { u with regs := w.regs, fabs := w.fabs } ∧ (∀ m, m ≠ k → w.fabAt m = u.fabAt m) ∧ (w.fabAt k).lines = (u.fabAt k).lines
      ∧ (w.fabAt k).aCfg = (u.fabAt k).aCfg
      ∧ (∃ e, w.rd F.CLOG_LINE (u.pb k) e = line ∧ w.rd F.CLOG_HALF (u.pb k) e = half ∧ w.rd F.CLOG_STATE (u.pb k) e = st
        ∧ w.reg (F.CLOG_STITCH.at (u.pb k) e 0) = BitVec.ofNat 32 u.stitch.toNat)
      ∧ SameRegs (fun a => a < u.pb k + 0x140) u w := by
  have hnext : ∀ (f : Fld) (e : Nat), f.off = 0x180 ∧ f.st1 = 8 ∧ f.st2 = 0 → f.at (u.pb k) e 0 ≠ F.CLOG_STITCH.at (u.pb k) e 0 := fun f e h => by
    simp only [Fld.at, h.1, h.2.1, h.2.2, F.CLOG_STITCH]
    omega
  have hout : ∀ (f : Fld) (i : Nat), 0x140 ≤ f.off → ¬ f.at (u.pb k) i 0 < u.pb k + 0x140 := fun f i h => by simp only [Fld.at]; omega
  unfold State.logContention
  dsimp only
  split
  · next e he =>
    have hfound := List.find?_some he
    simp only [Bool.and_eq_true, beq_iff_eq] at hfound
    obtain ⟨hl, hh⟩ := hfound
    refine ⟨rfl, fun _ _ => rfl, rfl, rfl, ⟨e, ?_, ?_, ?_, State.reg_wr_whole _ _ _ _ _ ⟨rfl, rfl⟩⟩, ?_⟩
    · rw [State.rd_wr_word _ _ _ _ _ _ _ _ _ _ (hnext _ e (by decide)), State.bump, State.rd_wr_field _ _ _ _ _ _ _ _ _ _ (by decide) (by decide) (by decide) (by decide),
        State.rd_wr_field _ _ _ _ _ _ _ _ _ _ (by decide) (by decide) (by decide) (by decide), hl]
    · rw [State.rd_wr_word _ _ _ _ _ _ _ _ _ _ (hnext _ e (by decide)), State.bump, State.rd_wr_field _ _ _ _ _ _ _ _ _ _ (by decide) (by decide) (by decide) (by decide),
        State.rd_wr_field _ _ _ _ _ _ _ _ _ _ (by decide) (by decide) (by decide) (by decide), hh]
    · rw [State.rd_wr_word _ _ _ _ _ _ _ _ _ _ (hnext _ e (by decide)), State.bump, State.rd_wr_field _ _ _ _ _ _ _ _ _ _ (by decide) (by decide) (by decide) (by decide),
        State.rd_wr_same _ _ _ _ _ _ (by decide) (by decide)]
      exact Nat.mod_eq_of_lt hst
    · exact (((SameRegs.refl _ u).wr (hout _ _ (by decide)) _).wr (hout _ _ (by decide)) _).wr (hout _ _ (by decide)) _
  · obtain ⟨e, he⟩ : ∃ e, e = (u.fabAt k).logNext := ⟨_, rfl⟩
    obtain ⟨u1, hu1⟩ : ∃ w : State, w = if u.rd F.CONT_COUNT (u.pb k) = 16 then u.bump F.CONT_LOST (u.pb k) else u.bump F.CONT_COUNT (u.pb k) := ⟨_, rfl⟩
    have hframe : u1 = { u with regs := u1.regs } ∧ SameRegs (fun a => a < u.pb k + 0x140) u u1 := by
      rw [hu1]
      split <;> exact ⟨rfl, (SameRegs.refl _ u).wr (hout _ _ (by decide)) _⟩
    obtain ⟨w, hw⟩ : ∃ w : State, w = ((((u1.wr F.CLOG_LINE (u.pb k) line e).wr F.CLOG_HALF (u.pb k) half e).wr F.CLOG_STATE (u.pb k) st e).wr F.CLOG_RECUR (u.pb k) 1 e).wr
        F.CLOG_STITCH (u.pb k) u.stitch.toNat e := ⟨_, rfl⟩
    have hwframe : w = { u with regs := w.regs } := by
      rw [hw]
      generalize hr : (((((u1.wr F.CLOG_LINE (u.pb k) line e).wr F.CLOG_HALF (u.pb k) half e).wr F.CLOG_STATE (u.pb k) st e).wr F.CLOG_RECUR (u.pb k) 1 e).wr
        F.CLOG_STITCH (u.pb k) u.stitch.toNat e).regs = r
      have h : ((((u1.wr F.CLOG_LINE (u.pb k) line e).wr F.CLOG_HALF (u.pb k) half e).wr F.CLOG_STATE (u.pb k) st e).wr F.CLOG_RECUR (u.pb k) 1 e).wr
        F.CLOG_STITCH (u.pb k) u.stitch.toNat e = { u1 with regs := r } := by rw [← hr]; rfl
      rw [h, hframe.1]
    rw [← he, ← hu1, ← hw]
    refine ⟨?_, fun m hm => ?_, ?_, ?_, ⟨e, ?_, ?_, ?_, ?_⟩, ?_⟩
    · unfold State.setFab
      rw [hwframe]
    · rw [State.fabAt_setFab_other _ hm, hwframe]
      rfl
    · rw [State.fabAt_setFab_same]
    · rw [State.fabAt_setFab_same]
    · change w.rd F.CLOG_LINE (u.pb k) e = line
      rw [hw, State.rd_wr_word _ _ _ _ _ _ _ _ _ _ (hnext _ e (by decide)), State.rd_wr_field _ _ _ _ _ _ _ _ _ _ (by decide) (by decide) (by decide) (by decide),
        State.rd_wr_field _ _ _ _ _ _ _ _ _ _ (by decide) (by decide) (by decide) (by decide),
        State.rd_wr_field _ _ _ _ _ _ _ _ _ _ (by decide) (by decide) (by decide) (by decide), State.rd_wr_same _ _ _ _ _ _ (by decide) (by decide)]
      exact Nat.mod_eq_of_lt hline
    · change w.rd F.CLOG_HALF (u.pb k) e = half
      rw [hw, State.rd_wr_word _ _ _ _ _ _ _ _ _ _ (hnext _ e (by decide)), State.rd_wr_field _ _ _ _ _ _ _ _ _ _ (by decide) (by decide) (by decide) (by decide),
        State.rd_wr_field _ _ _ _ _ _ _ _ _ _ (by decide) (by decide) (by decide) (by decide), State.rd_wr_same _ _ _ _ _ _ (by decide) (by decide)]
      exact Nat.mod_eq_of_lt hhalf
    · change w.rd F.CLOG_STATE (u.pb k) e = st
      rw [hw, State.rd_wr_word _ _ _ _ _ _ _ _ _ _ (hnext _ e (by decide)), State.rd_wr_field _ _ _ _ _ _ _ _ _ _ (by decide) (by decide) (by decide) (by decide),
        State.rd_wr_same _ _ _ _ _ _ (by decide) (by decide)]
      exact Nat.mod_eq_of_lt hst
    · change w.reg (F.CLOG_STITCH.at (u.pb k) e 0) = _
      rw [hw]
      exact State.reg_wr_whole _ _ _ _ _ ⟨rfl, rfl⟩
    · refine SameRegs.of_regs (t := w) ?_ rfl
      rw [hw]
      exact ((((hframe.2.wr (hout _ _ (by decide)) _).wr (hout _ _ (by decide)) _).wr (hout _ _ (by decide)) _).wr (hout _ _ (by decide)) _).wr (hout _ _ (by decide)) _

/-- The line's recurrence within 1,024 stitches of its re-enabling (R202). -/
def State.recurs (u : State) (k : Nat) (half : Bool) (line : Nat) : Bool :=
  ((u.fabAt k).lines.find? (fun x => x.half == half && x.line == line)).any (fun x => x.reen.any (fun r => decide (u.stitch.toNat ≤ r.toNat + 1024)))

theorem State.recurs_eq (u : State) (k : Nat) (half : Bool) (line : Nat) : (match u.busLine k half line with
    | some b => (match b.reen with | some r => decide (u.stitch.toNat ≤ r.toNat + 1024) | none => false)
    | none => false) = u.recurs k half line := by
  unfold State.recurs State.busLine
  cases (u.fabAt k).lines.find? (fun x => x.half == half && x.line == line) with
  | none => rfl
  | some b =>
    change (match b.reen with | some r => decide (u.stitch.toNat ≤ r.toNat + 1024) | none => false) = b.reen.any _
    cases b.reen <;> rfl

/-- A line in contention, disabled. -/
def State.disabled (u : State) (k : Nat) (half : Bool) (line : Nat) : BusLine :=
  { half := half, line := line, off := true, locked := u.recurs k half line, need := driverFrames (u.fabAt k).aCfg half line, reen := none }

/-- The line is disabled in its patch's fabric. -/
def State.disableLine (w : State) (k : Nat) (new : BusLine) : State :=
  (w.setFab k { w.fabAt k with lines := (w.fabAt k).lines.filter (fun b => !(b.half == new.half && b.line == new.line)) ++ [new] }).showLines k

/-- Contention, as its recurrence says. -/
def State.contendAs (u : State) (k : Nat) (half : Bool) (line : Nat) (again : Bool) : State :=
  let x := (u.logContention k (bit half) line (if again then 2 else 0)).disableLine k
    { half := half, line := line, off := true, locked := again, need := driverFrames (u.fabAt k).aCfg half line, reen := none }
  (x.event .busContention blkPATCH (u.ppos k)).raiseP k 5

theorem State.contend_eq (u : State) (k : Nat) (half : Bool) (line : Nat) : u.contend k half line = u.contendAs k half line (u.recurs k half line) := by
  rw [← u.recurs_eq k half line]
  unfold State.contend State.contendAs State.disableLine
  rfl

/-- What a line's disabling shows. -/
theorem State.disableLine_shows (w : State) (k : Nat) (new : BusLine) :
    let x := w.disableLine k new
    x = { w with regs := x.regs, fabs := x.fabs } ∧ (∀ m, m ≠ k → x.fabAt m = w.fabAt m)
      ∧ (x.fabAt k).lines = (w.fabAt k).lines.filter (fun y => !(y.half == new.half && y.line == new.line)) ++ [new]
      ∧ x.rd F.CONT_DISABLED (w.pb k) = ((x.fabAt k).lines.filter (fun y => y.off)).length % 2048 ∧ SameRegs (· ≠ w.pb k + 0x140) w x := by
  obtain ⟨v, hv⟩ : ∃ v : State, v = w.setFab k { w.fabAt k with lines := (w.fabAt k).lines.filter (fun y => !(y.half == new.half && y.line == new.line)) ++ [new] } := ⟨_, rfl⟩
  have hx : w.disableLine k new = v.showLines k := by rw [hv]; rfl
  have hpb : v.pb k = w.pb k := by rw [hv]; rfl
  rw [hx]
  refine ⟨?_, fun m hm => ?_, ?_, ?_, fun a ha => ?_⟩
  · rw [hv]
    rfl
  · rw [hv]
    exact State.fabAt_setFab_other _ hm _
  · change (v.fabAt k).lines = _
    rw [hv, State.fabAt_setFab_same]
  · rw [← hpb]
    exact State.rd_wr_same _ _ _ _ _ _ (by decide) (by decide)
  · have hword : a ≠ F.CONT_DISABLED.at (v.pb k) 0 0 := by rw [hpb]; exact ha
    refine (State.reg_wr_other _ _ _ _ _ _ hword).trans ?_
    rw [hv]
    rfl

/-- A disabling, its event and the event's raise, one after the other. -/
theorem disabling_frame {u x y t : State} {l : List Nat} (hx : x = { u with regs := x.regs, fabs := x.fabs }) (hy : y = { x with evq := y.evq })
    (ht : EventStep l y t) : t = { u with regs := t.regs, fabs := t.fabs, evq := t.evq, procs := t.procs } ∧ t.evq = y.evq ∧ ∀ m, t.fabAt m = x.fabAt m := by
  have hevq : t.evq = y.evq := by rw [ht.frame]
  have hfabs : t.fabs = x.fabs := by rw [ht.frame, hy]
  refine ⟨?_, hevq, fun m => congrArg (fun f => Tab.get _ f m) hfabs⟩
  rw [hevq, hfabs, ht.frame]
  generalize t.regs = p
  generalize t.procs = q
  rw [hy]
  generalize y.evq = r
  rw [hx]

/-- A patch's block is where it was, where no word of the device's own block differs. -/
theorem State.pb_of_low {s t : State} (h : SameRegs (· < 0x20000) s t) {k : Nat} (hk : k < 16) : t.pb k = s.pb k :=
  State.pb_of_sameRegs h ⟨k, hk⟩

/-- What a detection shows before its events. -/
theorem State.loggedLine_shows (u : State) {k : Nat} (hk : k < 16) (half : Bool) {line : Nat} (hline : line < 512) (again : Bool) (new : BusLine)
    (hnew : new.half = half ∧ new.line = line) : let b := u.pb k
    let x := (u.logContention k (bit half) line (if again then 2 else 0)).disableLine k new
    x = { u with regs := x.regs, fabs := x.fabs } ∧ (∀ m, m ≠ k → x.fabAt m = u.fabAt m)
      ∧ (x.fabAt k).lines = (u.fabAt k).lines.filter (fun y => !(y.half == half && y.line == line)) ++ [new]
      ∧ x.rd F.CONT_DISABLED b = ((x.fabAt k).lines.filter (fun y => y.off)).length % 2048
      ∧ (∃ e, x.rd F.CLOG_LINE b e = line ∧ x.rd F.CLOG_HALF b e = bit half ∧ x.rd F.CLOG_STATE b e = (if again then 2 else 0)
        ∧ x.reg (F.CLOG_STITCH.at b e 0) = BitVec.ofNat 32 u.stitch.toNat)
      ∧ SameRegs (fun a => a < b + 0x140) u x := by
  intro b
  have hbhigh : 0x20000 ≤ b := u.pb_high k
  obtain ⟨w, hw⟩ : ∃ w : State, w = u.logContention k (bit half) line (if again then 2 else 0) := ⟨_, rfl⟩
  obtain ⟨hwframe, hwother, hwlines, -, ⟨e, hwline, hwhalf, hwstate, hwstitch⟩, hwregs⟩ :=
    u.logContention_shows k (half := bit half) (st := if again then 2 else 0) (by cases half <;> decide) hline (by split <;> decide)
  rw [← hw] at hwframe hwother hwlines hwline hwhalf hwstate hwstitch hwregs
  rw [← hw]
  have hwpb : w.pb k = b := by
    refine State.pb_of_low (fun a ha => hwregs a ?_) hk
    change a < b + 0x140
    omega
  obtain ⟨hxframe, hxother, hxlines, hxcount, hxregs⟩ := w.disableLine_shows k new
  generalize w.disableLine k new = x at hxframe hxother hxlines hxcount hxregs ⊢
  rw [hwpb] at hxcount hxregs
  have hlog : ∀ (f : Fld) (e : Nat), 0x180 ≤ f.off → x.reg (f.at b e 0) = w.reg (f.at b e 0) := fun f e hf => hxregs _ (by simp only [Fld.at]; omega)
  refine ⟨?_, fun m hm => (hxother m hm).trans (hwother m hm), ?_, hxcount, ⟨e, ?_, ?_, ?_, (hlog _ _ (by decide)).trans hwstitch⟩, fun a ha => ?_⟩
  · rw [hxframe]
    generalize x.regs = p
    generalize x.fabs = q
    rw [hwframe]
  · rw [hxlines, hwlines, hnew.1, hnew.2]
  · exact (congrArg (bitsOf 8 0) (hlog F.CLOG_LINE e (by decide))).trans hwline
  · exact (congrArg (bitsOf 9 9) (hlog F.CLOG_HALF e (by decide))).trans hwhalf
  · exact (congrArg (bitsOf 11 10) (hlog F.CLOG_STATE e (by decide))).trans hwstate
  · have hlow : a < b + 0x140 := ha
    exact (hxregs a (by omega)).trans (hwregs a ha)

/-- What a detection of contention shows. -/
theorem State.contend_shows (u : State) {k : Nat} (hk : k < 16) (half : Bool) {line : Nat} (hline : line < 512) (hlive : u.halted = false) : let b := u.pb k
    let t := u.contend k half line
    (t.fabAt k).lines = (u.fabAt k).lines.filter (fun x => !(x.half == half && x.line == line)) ++ [u.disabled k half line]
      ∧ t.rd F.CONT_DISABLED b = ((t.fabAt k).lines.filter (fun x => x.off)).length % 2048
      ∧ (∃ e, t.rd F.CLOG_LINE b e = line ∧ t.rd F.CLOG_HALF b e = bit half ∧ t.rd F.CLOG_STATE b e = (if u.recurs k half line then 2 else 0)
        ∧ t.reg (F.CLOG_STITCH.at b e 0) = BitVec.ofNat 32 u.stitch.toNat)
      ∧ (∃ ev, t.evq = u.evq ++ [ev] ∧ ev.code = 0x03)
      ∧ (bitAt (u.rd F.EVT_EN b) 5 = true → bitAt (t.rd F.EVT_PEND b) 5 = true)
      ∧ t = { u with regs := t.regs, fabs := t.fabs, evq := t.evq, procs := t.procs }
      ∧ (∀ m, m ≠ k → t.fabAt m = u.fabAt m) := by
  intro b
  have hbhigh : 0x20000 ≤ b := u.pb_high k
  obtain ⟨x, hx⟩ : ∃ x : State, x = (u.logContention k (bit half) line (if u.recurs k half line then 2 else 0)).disableLine k (u.disabled k half line) := ⟨_, rfl⟩
  obtain ⟨hxframe, hxother, hxlines, hxcount, ⟨e, hline', hhalf', hstate', hstitch'⟩, hxregs⟩ :=
    u.loggedLine_shows hk half hline (u.recurs k half line) (u.disabled k half line) ⟨rfl, rfl⟩
  rw [← hx] at hxframe hxother hxlines hxcount hline' hhalf' hstate' hstitch' hxregs
  have ht : u.contend k half line = (x.event .busContention blkPATCH (u.ppos k)).raiseP k 5 := by
    rw [u.contend_eq, hx]
    rfl
  rw [ht]
  have hxpb : x.pb k = b := by
    refine State.pb_of_low (fun a ha => hxregs a ?_) hk
    change a < b + 0x140
    omega
  have hxlive : x.halted = false := by
    unfold State.halted State.flag
    rw [hxregs.rd]
    · exact hlive
    · change F.HALT_HALTED.at SEC 0 0 < b + 0x140
      simp only [Fld.at, F.HALT_HALTED, SEC]
      omega
  have hyx := State.event_of_live hxlive .busContention blkPATCH (u.ppos k) [] .ok
  generalize x.event .busContention blkPATCH (u.ppos k) = y at hyx ⊢
  have hypb : y.pb k = b := by rw [hyx]; exact hxpb
  obtain ⟨hstep, hpend⟩ := y.raiseP_shows hk (cls := 5) (by decide)
  rw [hypb] at hstep hpend
  generalize y.raiseP k 5 = t at hstep hpend ⊢
  obtain ⟨htframe, htevq, htfab⟩ := disabling_frame hxframe (by rw [hyx]) hstep
  have hyreg : ∀ a, y.reg a = x.reg a := fun a => by rw [hyx]; rfl
  have htreg : ∀ (f : Fld) (i : Nat), 0x20 ≤ f.off → t.reg (f.at b i 0) = x.reg (f.at b i 0) := fun f i hf => by
    refine (hstep.regs _ ?_).trans (hyreg _)
    simp only [Fld.at, List.mem_cons, List.not_mem_nil, or_false]
    omega
  refine ⟨?_, ?_, ⟨e, ?_, ?_, ?_, (htreg _ _ (by decide)).trans hstitch'⟩, ⟨⟨x.now, EvCode.busContention.code, Status.ok.code, x.devnum, blkPATCH, u.ppos k, []⟩, ?_, rfl⟩,
    fun hen => hpend ?_, htframe, fun m hm => (htfab m).trans (hxother m hm)⟩
  · rw [htfab, hxlines]
  · rw [htfab, ← hxcount]
    exact congrArg (bitsOf 26 16) (htreg F.CONT_DISABLED 0 (by decide))
  · exact (congrArg (bitsOf 8 0) (htreg F.CLOG_LINE e (by decide))).trans hline'
  · exact (congrArg (bitsOf 9 9) (htreg F.CLOG_HALF e (by decide))).trans hhalf'
  · exact (congrArg (bitsOf 11 10) (htreg F.CLOG_STATE e (by decide))).trans hstate'
  · have hevq : x.evq = u.evq := by rw [hxframe]
    rw [htevq, hyx, ← hevq]
    rfl
  · have hword : y.rd F.EVT_EN b = u.rd F.EVT_EN b :=
      congrArg (bitsOf 15 0) ((hyreg _).trans (hxregs _ (by simp only [Fld.at, F.EVT_EN]; omega)))
    rw [hword]
    exact hen

end Sys2Proof.Machine

/-! The cycles that the fabric has run. -/

namespace Sys2Proof.Machine

namespace RanPatch

variable {k : Nat} {s t : State}

theorem logContention (s : State) (k half line st : Nat) : RanPatch k s (s.logContention k half line st) := by
  have hran := (RanFabric.refl s).logContention k half line st
  have hword : ∀ (u : State) (f : Fld) (v i : Nat), 0x10 < f.off → (u.wr f (s.pb k) v i).reg (s.pb k + 0x10) = u.reg (s.pb k + 0x10) := fun u f v i hf =>
    State.reg_wr_other _ _ _ _ _ _ (by simp only [Fld.at]; omega)
  refine ⟨hran, fun m hm => ?_, ?_⟩
  · unfold State.logContention
    dsimp only
    split
    · rfl
    · refine (State.fabAt_setFab_other _ hm _).trans ?_
      split <;> rfl
  · unfold State.logContention State.bump
    dsimp only
    split
    · rw [hword _ _ _ _ (by decide), hword _ _ _ _ (by decide), hword _ _ _ _ (by decide)]
    · change State.reg (State.wr _ F.CLOG_STITCH (s.pb k) _ _) (s.pb k + 0x10) = _
      rw [hword _ _ _ _ (by decide), hword _ _ _ _ (by decide), hword _ _ _ _ (by decide), hword _ _ _ _ (by decide), hword _ _ _ _ (by decide)]
      split <;> exact hword _ _ _ _ (by decide)

theorem contend (s : State) (hk : k < 16) (half : Bool) (line : Nat) : RanPatch k s (s.contend k half line) := by
  rw [s.contend_eq]
  have hlog := logContention s k (bit half) line (if s.recurs k half line then 2 else 0)
  have hline : ∀ (w : State) (new : BusLine), RanPatch k w (w.disableLine k new) := fun w new =>
    (setFab w k _).trans hk (wr _ k (f := F.CONT_DISABLED) (by decide) _ 0)
  exact ((hlog.trans hk (hline _ _)).trans hk (event _ k _ _ _ _ _)).trans hk (raiseP _ hk (by decide))

theorem forEach {α : Type} {f : α → State → State} {l : List α} (hk : k < 16) (h : RanPatch k s t) (hf : ∀ x u, RanPatch k u (f x u)) :
    RanPatch k s (Sys2Proof.forEach f l t) := forEach_induct (fun x _ hu => hu.trans hk (hf x _)) h

theorem fabricCycle (s : State) (hk : k < 16) (j : Nat) : RanPatch k s (s.fabricCycle k j) := by
  obtain ⟨u, hu⟩ : ∃ u : State, u = if (s.fabEnv k (s.time.run / 4 + j)).contended = [] then s
      else Sys2Proof.forEach (fun (l : Bool × Nat) s => s.contend k l.1 l.2) (s.fabEnv k (s.time.run / 4 + j)).contended (s.tick (4 * j)).took := ⟨_, rfl⟩
  have hbus : RanPatch k s u := by
    rw [hu]
    split
    · exact .refl k s
    · have htick : RanPatch k s (s.tick (4 * j)).took := ⟨(RanFabric.refl s).of_fields s.fabs s.procs s.evq _ _, fun _ _ => rfl, rfl⟩
      exact forEach hk htick fun l u => contend u hk l.1 l.2
  unfold State.fabricCycle
  dsimp only
  rw [← hu]
  split
  · exact (hbus.trans hk (setFab u k _)).trans hk (showExchange _ hk)
  · exact hbus.trans hk (setFab u k _)

theorem clockTo (s : State) (hk : k < 16) (n : Nat) : RanPatch k s (s.clockTo k n) := by
  unfold State.clockTo
  dsimp only
  split
  · exact .refl k s
  · split
    · exact setFab s k _
    · split
      · exact (setFab s k _).trans hk (showExchange _ hk)
      · exact (forEach hk (.refl k s) fun j u => fabricCycle u hk j).trans hk (setFab _ k _)

theorem clockNow (s : State) (hk : k < 16) : RanPatch k s (s.clockNow k) := clockTo s hk _

theorem halted (h : RanPatch k s t) : t.halted = s.halted := by
  unfold State.halted State.flag
  rw [h.ran.2.rd]
  change F.HALT_HALTED.at SEC 0 0 < 0x20000
  decide

end RanPatch

theorem State.halted_of_fabricRuns {s : State} {k : Nat} (h : s.fabricRuns k = true) : s.halted = false := by
  simp only [State.fabricRuns, State.patchLive, Bool.and_eq_true] at h
  obtain ⟨⟨⟨⟨-, hup⟩, -⟩, -⟩, -⟩ := h
  exact State.halted_of_up hup

/-- BUS_CONTENTION (R200, R202). -/
theorem busContention_shows (k : LPatch) (half : Bool) (line : BitVec 9) (off : Nat) {s : State} (hruns : s.fabricRuns k.val = true)
    (hon : ∀ x, (s.fabAt k.val).lines.find? (fun x => x.half == half && x.line == line.toNat) = some x → x.off = false) :
    let b := s.pb k.val
    let u := (s.tick off).clockNow k.val
    let is := fun (x : BusLine) => x.half == half && x.line == line.toNat
    let again := (u.fabAt k.val).lines.find? is |>.any (fun x => x.reen.any (fun r => decide (u.stitch.toNat ≤ r.toNat + 1024)))
    ∃ t e, exec (.busContention k half line off) s = .next t
      ∧ (t.fabAt k.val).lines = (u.fabAt k.val).lines.filter (fun x => !is x)
          ++ [⟨half, line.toNat, true, again, driverFrames (u.fabAt k.val).aCfg half line.toNat, none⟩]
      ∧ t.rd F.CONT_DISABLED b = ((t.fabAt k.val).lines.filter (fun x => x.off)).length % 2048
      ∧ t.rd F.CLOG_LINE b e = line.toNat ∧ t.rd F.CLOG_HALF b e = bit half ∧ t.rd F.CLOG_STATE b e = (if again then 2 else 0)
      ∧ t.reg (F.CLOG_STITCH.at b e 0) = BitVec.ofNat 32 s.stitch.toNat
      ∧ (∃ ev, t.evq = u.evq ++ [ev] ∧ ev.code = 0x03)
      ∧ (bitAt (s.rd F.EVT_EN b) 5 = true → bitAt (t.rd F.EVT_PEND b) 5 = true)
      ∧ t = { u with regs := t.regs, fabs := t.fabs, evq := t.evq, procs := t.procs }
      ∧ (∀ m, m ≠ k.val → t.fabAt m = s.fabAt m)
      ∧ ((s.fabAt k.val).aCfg = [] → (s.fabAt k.val).recvQ = [] → u = s.tick off) := by
  intro b u is again
  have hran : RanPatch k.val (s.tick off) u := RanPatch.clockNow (s.tick off) k.isLt
  have hlive : u.halted = false := hran.halted.trans (State.halted_of_fabricRuns hruns)
  have hpb : u.pb k.val = b := hran.pb k.isLt
  have hstitch : u.stitch = s.stitch := by rw [hran.ran.1]; rfl
  have hguard : (s.fabricRuns k.val && !(match s.busLine k.val half line.toNat with | some b => b.off | none => false)) = true := by
    rw [hruns]
    have hfound : s.busLine k.val half line.toNat = (s.fabAt k.val).lines.find? (fun x => x.half == half && x.line == line.toNat) := rfl
    cases hline : s.busLine k.val half line.toNat with
    | none => rfl
    | some x =>
      have hoff := hon x (hfound.symm.trans hline)
      simp only [hoff]
      rfl
  obtain ⟨hlines, hcount, ⟨e, h1, h2, h3, h4⟩, hev, hpend, hframe, hothers⟩ := u.contend_shows k.isLt half (line := line.toNat) line.isLt hlive
  rw [hpb] at hcount h1 h2 h3 h4 hpend
  rw [hstitch] at h4
  refine ⟨_, e, act_next hguard, hlines, hcount, h1, h2, h3, h4, hev, fun hen => hpend ?_, hframe, fun m hm => (hothers m hm).trans (hran.fab m hm), fun hcfg hq => ?_⟩
  · have hword : u.rd F.EVT_EN b = s.rd F.EVT_EN b := congrArg (bitsOf 15 0) hran.en
    rw [hword]
    exact hen
  · exact if_pos (.inr ⟨hcfg, hq⟩)

end Sys2Proof.Machine

/-! The word PLANE_CTL (R209 to R213). -/

namespace Sys2Proof.Machine

/-- A field's bits in a write of the whole word. -/
theorem wants_all (f : Fld) (v : W32) : f.wants v 15 = bitsOf f.hi f.lo v := by
  unfold Fld.wants
  rw [enMask_of_all rfl]
  congr 1
  exact BitVec.and_allOnes

theorem State.pb_patch (s : State) (k : Nat) : s.pb k = PATCH (s.ppos k) := rfl

/-- The word of PLANE_CTL after a write of all its bytes: its RW fields hold the value, LOAD_SLOT no more than 5. -/
theorem planeCtl_word {s : State} {a p : Nat} (h : locate a = some (.patch, p, 0x100)) (v : W32) : (s.mergeWrite a v 15).reg a
    = setBitsOf 13 8 (setBitsOf 5 5 (setBitsOf 2 0 (s.reg a) (min 5 (bitsOf 2 0 v))) (bitsOf 5 5 v)) (bitsOf 13 8 v) := by
  have hrows : rowsAt .patch p 0x100 = [(⟨.patch, F.PLC_LOAD_SLOT, 1, 1, .rw, nil0, .top 5 5⟩, 0), (⟨.patch, F.PLC_LOAD_GO, 1, 1, .wo, nil0, .any⟩, 0),
      (⟨.patch, F.PLC_SWAP, 1, 1, .wo, nil0, .any⟩, 0), (⟨.patch, F.PLC_SWAP_ON_TRIG, 1, 1, .rw, nil0, .any⟩, 0),
      (⟨.patch, F.PLC_SWAP_LINE, 1, 1, .rw, nil0, .any⟩, 0)] := rfl
  have hslot : Clamp.apply (.top 5 5) (bitsOf 2 0 v) = min 5 (bitsOf 2 0 v) := by
    unfold Clamp.apply
    dsimp only
    split <;> omega
  rw [State.reg_mergeWrite_same h, hrows]
  simp only [List.foldl_cons, List.foldl_nil]
  rw [writeField_rw_all rfl (by decide) (by decide) rfl, writeField_rw_all rfl (by decide) (by decide) rfl]
  have hwo : ∀ (w : W32) (f : Fld), writeField v 15 w ⟨.patch, f, 1, 1, .wo, nil0, .any⟩ = w := fun _ _ => rfl
  rw [hwo, hwo, writeField_rw_all rfl (by decide) (by decide) rfl]
  exact congrArg (fun x => setBitsOf 13 8 (setBitsOf 5 5 (setBitsOf 2 0 (s.reg a) x) (bitsOf 5 5 v)) (bitsOf 13 8 v)) hslot

/-- What a write of PLANE_CTL asks for. -/
def planeReq (v : W32) : PlaneReq :=
  ⟨if bitsOf 3 3 v = 1 then some (min 5 (bitsOf 2 0 v)) else none, bitsOf 4 4 v == 1, bitsOf 5 5 v == 1, bitsOf 13 8 v⟩

/-- A request waits for the boundary, or for the drain of the patch's handover. -/
def State.asked (s : State) (k : Nat) (r : PlaneReq) : FabSt :=
  if s.hover k then { s.fabAt k with heldReqs := (s.fabAt k).heldReqs ++ [r] } else { s.fabAt k with reqs := (s.fabAt k).reqs ++ [r] }

theorem State.writePlaneCtl_eq (s : State) (k : LPatch) (v : W32) : s.writePlaneCtl k.val v 15
    = (s.mergeWrite (F.PLC_LOAD_SLOT.at (s.pb k.val) 0 0) v 15).setFab k.val (s.asked k.val (planeReq v)) := by
  obtain ⟨u, hu⟩ : ∃ u : State, u = s.mergeWrite (F.PLC_LOAD_SLOT.at (s.pb k.val) 0 0) v 15 := ⟨_, rfl⟩
  have hat : F.PLC_LOAD_SLOT.at (s.pb k.val) 0 0 = PATCH (s.ppos k.val) + 0x100 := rfl
  have hpos : s.ppos k.val < 18 := Nat.lt_succ_of_le (Nat.min_le_left _ _)
  have hword := planeCtl_word (s := s) (locate_patch hpos (o := 0x100) (by decide)) v
  rw [← hat, ← hu] at hword
  have hslot : u.rd F.PLC_LOAD_SLOT (s.pb k.val) = min 5 (bitsOf 2 0 v) := by
    refine (congrArg (bitsOf 2 0) hword).trans ?_
    rw [bitsOf_setBitsOf_other _ _ (by decide) (by decide) (by decide) (by decide), bitsOf_setBitsOf_other _ _ (by decide) (by decide) (by decide) (by decide),
      bitsOf_setBitsOf _ _ (by decide) (by decide)]
    exact Nat.mod_eq_of_lt (Nat.lt_of_le_of_lt (Nat.min_le_left _ _) (by decide))
  have harm : u.rd F.PLC_SWAP_ON_TRIG (s.pb k.val) = bitsOf 5 5 v := by
    refine (congrArg (bitsOf 5 5) hword).trans ?_
    rw [bitsOf_setBitsOf_other _ _ (by decide) (by decide) (by decide) (by decide), bitsOf_setBitsOf _ _ (by decide) (by decide)]
    exact Nat.mod_eq_of_lt (bitsOf_lt 5 5 v)
  have hline : u.rd F.PLC_SWAP_LINE (s.pb k.val) = bitsOf 13 8 v := by
    refine (congrArg (bitsOf 13 8) hword).trans ?_
    rw [bitsOf_setBitsOf _ _ (by decide) (by decide)]
    exact Nat.mod_eq_of_lt (bitsOf_lt 13 8 v)
  have hfab : u.fabAt k.val = s.fabAt k.val := by rw [hu, State.mergeWrite_frame]; rfl
  have hreq : ({ load := if F.PLC_LOAD_GO.wants v 15 = 1 then some (u.rd F.PLC_LOAD_SLOT (s.pb k.val)) else none, swap := F.PLC_SWAP.wants v 15 == 1
                 arm := u.flag F.PLC_SWAP_ON_TRIG (s.pb k.val), line := u.rd F.PLC_SWAP_LINE (s.pb k.val) } : PlaneReq) = planeReq v := by
    unfold planeReq State.flag
    rw [hslot, harm, hline, wants_all, wants_all]
    rfl
  unfold State.writePlaneCtl State.asked
  rw [if_neg (by decide), ← hfab, ← hreq, hu]

/-- The three commands that write PLANE_CTL. -/
theorem planeCommand_next {s : State} {k : LPatch} {v : W32} {c : Instr} (hon : s.stackOn = true)
    (hc : (c = .loadGo k v ∧ F.PLC_LOAD_GO.wants v 15 = 1) ∨ (c = .swap k v ∧ F.PLC_SWAP.wants v 15 = 1) ∨ c = .swapOnTrig k v) :
    exec c s = .next (s.planeWrite k.val v 15) := by
  rcases hc with ⟨rfl, hw⟩ | ⟨rfl, hw⟩ | rfl
  · exact act_next (by rw [hon, hw]; rfl)
  · exact act_next (by rw [hon, hw]; rfl)
  · exact act_next hon

theorem planeWrite_shows {s : State} {k : LPatch} {v : W32} {c : Instr} (hon : s.stackOn = true)
    (hc : (c = .loadGo k v ∧ F.PLC_LOAD_GO.wants v 15 = 1) ∨ (c = .swap k v ∧ F.PLC_SWAP.wants v 15 = 1) ∨ c = .swapOnTrig k v) :
    (s.posView (s.ppos k.val) = .normal → s.silent .patch 0x100 = false → ∃ t, exec c s = .next t
        ∧ t.fabAt k.val = s.asked k.val (planeReq v) ∧ t = { s with regs := t.regs, fabs := t.fabs } ∧ (∀ m, m ≠ k.val → t.fabAt m = s.fabAt m)
        ∧ ∀ a, a ≠ s.pb k.val + 0x100 → t.reg a = s.reg a)
      ∧ (s.posView (s.ppos k.val) = .frozen → ∃ t, exec c s = .next t
        ∧ t = { s with res := { s.res with held := s.res.held ++ [⟨.host, s.pb k.val + 0x100, v, 15⟩] } })
      ∧ (s.posView (s.ppos k.val) = .own ∨ s.posView (s.ppos k.val) = .normal ∧ s.silent .patch 0x100 = true → exec c s = .next s) := by
  have hrun := planeCommand_next hon hc
  have hvia : ∀ view, s.posView (s.ppos k.val) = view → s.planeWrite k.val v 15 = match view with
      | .normal => if s.silent .patch 0x100 then s else s.writePlaneCtl k.val v 15
      | .frozen => { s with res := { s.res with held := s.res.held ++ [⟨.host, s.pb k.val + 0x100, v, 15⟩] } }
      | .own => s := fun view h => by
    subst h
    rfl
  refine ⟨fun hview hloud => ?_, fun hview => ?_, fun hview => ?_⟩
  · have hwrite : s.planeWrite k.val v 15 = (s.mergeWrite (F.PLC_LOAD_SLOT.at (s.pb k.val) 0 0) v 15).setFab k.val (s.asked k.val (planeReq v)) := by
      rw [hvia _ hview, hloud, ← s.writePlaneCtl_eq k v]
      rfl
    refine ⟨_, hrun.trans (congrArg Host.Outcome.next hwrite), State.fabAt_setFab_same _ _ _, ?_, fun m hm => (State.fabAt_setFab_other _ hm _).trans ?_, fun a ha => ?_⟩
    · unfold State.setFab
      rw [State.mergeWrite_frame]
    · rw [State.mergeWrite_frame]
      rfl
    · exact State.reg_mergeWrite_other s ha v 15
  · exact ⟨_, hrun.trans (congrArg Host.Outcome.next (hvia _ hview)), rfl⟩
  · rcases hview with hview | ⟨hview, hquiet⟩
    · exact hrun.trans (congrArg Host.Outcome.next (hvia _ hview))
    · refine hrun.trans (congrArg Host.Outcome.next ((hvia _ hview).trans ?_))
      rw [hquiet]
      rfl

/-! The end of a plane's load (R209). -/

theorem State.up_of_stackOn {s : State} (h : s.stackOn = true) : s.halted = false := by
  simp only [State.stackOn, Bool.and_eq_true] at h
  exact State.halted_of_up h.1

/-- The words of a patch but those that the raise of an event may write. -/
theorem State.rd_raiseP {s : State} {k : Nat} (hk : k < 16) {cls : Nat} (hcls : cls < 16) {f : Fld} (hf : 0x20 ≤ f.off) : (s.raiseP k cls).rd f (s.pb k) = s.rd f (s.pb k) := by
  refine (s.raiseP_shows hk hcls).1.regs.rd ?_
  simp only [Fld.at, List.mem_cons, List.not_mem_nil, or_false]
  omega

theorem planeLoadEnd_good {s : State} {k : LPatch} (hon : s.stackOn = true) (hhover : s.hover k.val = false) (hload : s.rd F.PLS_LOADING (s.pb k.val) = 1)
    (hdone : (s.fabAt k.val).loadDone = false) (hleft : (s.fabAt k.val).loadLeft + 8 ≤ s.period) : ∃ t, exec (.planeLoadEnd k false) s = .next t
      ∧ t.fabAt k.val = { s.fabAt k.val with loadDone := true, loadLeft := 0 } ∧ t.rd F.PLS_LOAD_FRAMES (s.pb k.val) = 1800 ∧ t.rd F.PLS_LOADING (s.pb k.val) = 1 ∧ t.evq = s.evq
      ∧ (bitAt (s.rd F.EVT_EN (s.pb k.val)) 8 = true → bitAt (t.rd F.EVT_PEND (s.pb k.val)) 8 = true) := by
  obtain ⟨u, hu⟩ : ∃ u : State, u = (s.setFab k.val { s.fabAt k.val with loadDone := true, loadLeft := 0 }).wr F.PLS_LOAD_FRAMES (s.pb k.val) 1800 := ⟨_, rfl⟩
  have hrun : exec (.planeLoadEnd k false) s = .next (u.raiseP k.val 8) := by
    rw [hu]
    refine act_next ?_
    rw [hon, hhover, hdone, State.flag_of_eq_one hload, decide_eq_true hleft]
    rfl
  have hpb : u.pb k.val = s.pb k.val := by
    rw [hu]
    exact s.pb_wr_patch F.PLS_LOAD_FRAMES k.val 0 k.val k.isLt 1800 0
  obtain ⟨hstep, hpend⟩ := u.raiseP_shows k.isLt (cls := 8) (by decide)
  have hrd : ∀ f : Fld, 0x20 ≤ f.off → (u.raiseP k.val 8).rd f (s.pb k.val) = u.rd f (s.pb k.val) := fun f hf => by
    rw [← hpb]
    exact State.rd_raiseP k.isLt (by decide) hf
  refine ⟨_, hrun, ?_, ?_, ?_, ?_, fun hen => ?_⟩
  · unfold State.fabAt
    rw [hstep.frame]
    change u.fabAt k.val = _
    rw [hu]
    exact State.fabAt_setFab_same _ _ _
  · rw [hrd _ (by decide), hu, State.rd_wr_same _ _ _ _ _ _ (by decide) (by decide)]
    decide
  · rw [hrd _ (by decide), hu, State.rd_wr_field _ _ _ _ _ _ _ _ _ _ (by decide) (by decide) (by decide) (by decide)]
    exact hload
  · rw [hstep.frame, hu]
    rfl
  · rw [hpb] at hpend
    refine hpend ?_
    rw [hu, State.rd_wr_word _ _ _ _ _ _ _ _ _ _ (by simp [Fld.at, F.EVT_EN, F.PLS_LOAD_FRAMES])]
    exact hen

theorem planeLoadEnd_bad {s : State} {k : LPatch} (hon : s.stackOn = true) (hhover : s.hover k.val = false) (hload : s.rd F.PLS_LOADING (s.pb k.val) = 1)
    (hdone : (s.fabAt k.val).loadDone = false) : ∃ t, exec (.planeLoadEnd k true) s = .next t ∧ t.rd F.PLS_LOADING (s.pb k.val) = 0 ∧ t.rd F.PLS_LOAD_BAD (s.pb k.val) = 1
      ∧ t.rd F.PLS_SWAP_PEND (s.pb k.val) = 0 ∧ t.rd F.PLS_SHADOW_VALID (s.pb k.val) = s.rd F.PLS_SHADOW_VALID (s.pb k.val)
      ∧ (t.fabAt k.val).active = (s.fabAt k.val).active ∧ (t.fabAt k.val).shadow = (s.fabAt k.val).shadow ∧ (t.fabAt k.val).loadNext = none
      ∧ ∃ e, t.evq = s.evq ++ [e] ∧ e.code = 0x04 := by
  have hguard : (s.stackOn && !s.hover k.val && s.flag F.PLS_LOADING (s.pb k.val) && !(s.fabAt k.val).loadDone
      && (true || decide ((s.fabAt k.val).loadLeft + 8 ≤ s.period))) = true := by
    rw [hon, hhover, hdone, State.flag_of_eq_one hload]
    rfl
  obtain ⟨x, hexec, hactive, hshadow, hnext⟩ : ∃ x : FabSt, exec (.planeLoadEnd k true) s = .next (State.raiseP (State.event (State.setFab
        (((s.wr F.PLS_LOADING (s.pb k.val) 0).wr F.PLS_LOAD_BAD (s.pb k.val) 1).wr F.PLS_SWAP_PEND (s.pb k.val) 0) k.val x) .planeLoadBad blkPATCH (s.ppos k.val)
          [(s.fabAt k.val).loadSlot]) k.val 8)
      ∧ x.active = (s.fabAt k.val).active ∧ x.shadow = (s.fabAt k.val).shadow ∧ x.loadNext = none := by
    change ∃ x : FabSt, execPlaneLoadEnd k true s = _ ∧ _
    unfold execPlaneLoadEnd
    simp only [↓reduceIte]
    exact ⟨_, act_next hguard, rfl, rfl, rfl⟩
  obtain ⟨w, hw⟩ : ∃ w : State, w = ((s.wr F.PLS_LOADING (s.pb k.val) 0).wr F.PLS_LOAD_BAD (s.pb k.val) 1).wr F.PLS_SWAP_PEND (s.pb k.val) 0 := ⟨_, rfl⟩
  have hwframe : w = { s with regs := w.regs } := by rw [hw]; rfl
  have hwlow : SameRegs (· < 0x20000) s w := by
    have hout : ∀ f : Fld, ¬ f.at (s.pb k.val) 0 0 < 0x20000 := fun f => by
      have := s.pb_high k.val
      simp only [Fld.at]
      omega
    rw [hw]
    exact (((SameRegs.refl _ s).wr (hout _) _).wr (hout _) _).wr (hout _) _
  obtain ⟨v, hv⟩ : ∃ v : State, v = w.setFab k.val x := ⟨_, rfl⟩
  have hvlive : v.halted = false := by
    rw [hv]
    unfold State.halted State.flag
    exact (congrArg (· == 1) (hwlow.rd (by decide))).trans (State.up_of_stackOn hon)
  obtain ⟨u, hu⟩ : ∃ u : State, u = v.event .planeLoadBad blkPATCH (s.ppos k.val) [(s.fabAt k.val).loadSlot] := ⟨_, rfl⟩
  have huv := hu.trans (State.event_of_live hvlive .planeLoadBad blkPATCH (s.ppos k.val) [(s.fabAt k.val).loadSlot] .ok)
  have hrun : exec (.planeLoadEnd k true) s = .next (u.raiseP k.val 8) := by
    rw [hu, hv, hw]
    exact hexec
  have huregs : u.regs = w.regs := by rw [huv, hv]; rfl
  have hpb : u.pb k.val = s.pb k.val := State.pb_of_low (hwlow.of_regs huregs) k.isLt
  have hstep := (u.raiseP_shows k.isLt (cls := 8) (by decide)).1
  have hrd : ∀ f : Fld, 0x20 ≤ f.off → (u.raiseP k.val 8).rd f (s.pb k.val) = w.rd f (s.pb k.val) := fun f hf => by
    have huw : u.rd f (s.pb k.val) = w.rd f (s.pb k.val) := congrArg (fun r => bitsOf f.hi f.lo (Tab.get resetWord r (f.at (s.pb k.val) 0 0))) huregs
    rw [← huw, ← hpb]
    exact State.rd_raiseP k.isLt (by decide) hf
  have hfab : (u.raiseP k.val 8).fabAt k.val = x := by
    unfold State.fabAt
    rw [hstep.frame, huv, hv]
    exact Tab.get_put_same _ _ _ _
  refine ⟨_, hrun, ?_, ?_, ?_, ?_, ?_, ?_, ?_, ⟨v.now, EvCode.planeLoadBad.code, Status.ok.code, v.devnum, blkPATCH, s.ppos k.val,
    [(s.fabAt k.val).loadSlot].map (BitVec.ofNat 32)⟩, ?_, rfl⟩
  · rw [hrd _ (by decide), hw, State.rd_wr_field _ _ _ _ _ _ _ _ _ _ (by decide) (by decide) (by decide) (by decide),
      State.rd_wr_field _ _ _ _ _ _ _ _ _ _ (by decide) (by decide) (by decide) (by decide)]
    exact State.rd_wr_same _ _ _ _ _ _ (by decide) (by decide)
  · rw [hrd _ (by decide), hw, State.rd_wr_field _ _ _ _ _ _ _ _ _ _ (by decide) (by decide) (by decide) (by decide)]
    exact State.rd_wr_same _ _ _ _ _ _ (by decide) (by decide)
  · rw [hrd _ (by decide), hw]
    exact State.rd_wr_same _ _ _ _ _ _ (by decide) (by decide)
  · rw [hrd _ (by decide), hw, State.rd_wr_field _ _ _ _ _ _ _ _ _ _ (by decide) (by decide) (by decide) (by decide),
      State.rd_wr_field _ _ _ _ _ _ _ _ _ _ (by decide) (by decide) (by decide) (by decide),
      State.rd_wr_field _ _ _ _ _ _ _ _ _ _ (by decide) (by decide) (by decide) (by decide)]
  · rw [hfab, hactive]
  · rw [hfab, hshadow]
  · rw [hfab, hnext]
  · have hevq : v.evq = s.evq := by rw [hv, hwframe]; rfl
    rw [hstep.frame, huv, ← hevq]

end Sys2Proof.Machine

/-! The logic of a plane (R193, R199, R206). -/

namespace Sys2Proof.Machine

/-- A bus line without a driver, with one driver, and disabled (R199, R200). -/
theorem rowLine_value (e : FabEnv) (f r : Nat) {n : Nat} (h : Bool) (hn : n < 8) :
    let on := (lineDrivers e.items h (8 * r + n)).filter (fun d => e.value f (.sig h d.1 d.2.1))
    (e.off h (8 * r + n) = true → e.value (f + 1) (.row h r n) = false)
      ∧ (on = [] → e.value (f + 1) (.row h r n) = false)
      ∧ ∀ d, e.off h (8 * r + n) = false → on = [d] → e.value (f + 1) (.row h r n) = e.value f (.sig h d.1 d.2.2) := by
  intro on
  have hvalue : e.value (f + 1) (.row h r n) = if e.off h (8 * r + n) then false else match on with
      | [] => false
      | [d] => e.value f (.sig h d.1 d.2.2)
      | _ => e.undef := by
    rw [FabEnv.value]
    exact if_pos hn
  refine ⟨fun hoff => ?_, fun hnone => ?_, fun d hoff hone => ?_⟩
  · rw [hvalue, if_pos hoff]
  · rw [hvalue, hnone, ite_self]
  · rw [hvalue, hone, if_neg (ne_true_of_eq_false hoff)]

/-- A fold that puts one value for each key of a list without repeats. -/
theorem Tab.get_foldl_put {α β : Type} (d : Nat → β) (g : Nat → α → β) (key : Nat) (l : List (Nat × α)) (t : Tab β) :
    (∀ x, (key, x) ∉ l) → Tab.get d (l.foldl (fun t e => Tab.put t e.1 (g e.1 e.2)) t) key = Tab.get d t key := by
  induction l generalizing t with
  | nil => exact fun _ => rfl
  | cons e l ih =>
    intro hnone
    rw [List.foldl_cons, ih _ fun x hx => hnone x (List.mem_cons_of_mem _ hx), Tab.get_put_other]
    rintro rfl
    exact hnone e.2 (List.mem_cons_self ..)

theorem Tab.get_foldl_put_mem {α β : Type} (d : Nat → β) (g : Nat → α → β) {key : Nat} {x : α} {l : List (Nat × α)} (t : Tab β)
    (hnd : (l.map (fun e => e.1)).Nodup) (hmem : (key, x) ∈ l) : Tab.get d (l.foldl (fun t e => Tab.put t e.1 (g e.1 e.2)) t) key = g key x := by
  induction l generalizing t with
  | nil => exact absurd hmem List.not_mem_nil
  | cons e l ih =>
    rw [List.map_cons, List.nodup_cons] at hnd
    rw [List.foldl_cons]
    rcases List.mem_cons.1 hmem with rfl | hin
    · rw [Tab.get_foldl_put _ g _ l _ fun y hy => hnd.1 (List.mem_map.2 ⟨_, hy, rfl⟩)]
      exact Tab.get_put_same _ _ _ _
    · exact ih _ hnd.2 hin

theorem cellAt_mem {p : List PlaneItem} {key : Nat} {c : CellCfg} (h : cellAt p key = some c) : (key, c) ∈ planeCells p := by
  unfold cellAt at h
  obtain ⟨e, he, rfl⟩ := Option.map_eq_some_iff.1 h
  have hkey := List.find?_some he
  have hmem := List.mem_of_find?_eq_some he
  rw [beq_iff_eq] at hkey
  subst hkey
  exact hmem

/-- One key, one configuration. -/
theorem cell_unique {l : List (Nat × CellCfg)} (hnd : (l.map (fun e => e.1)).Nodup) {key : Nat} {c d : CellCfg} (hc : (key, c) ∈ l) (hd : (key, d) ∈ l) : d = c :=
  congrArg Prod.snd (List.inj_on_of_nodup_map hnd hd hc rfl)

/-- A fold of puts over the elements of a list without repeats that pass a test. -/
theorem Tab.get_foldl_filter {β : Type} (d : Nat → β) (g : Nat → CellCfg → β) {key : Nat} {c : CellCfg} {l : List (Nat × CellCfg)} (p : Nat × CellCfg → Bool) (t : Tab β)
    (hnd : (l.map (fun e => e.1)).Nodup) (hmem : (key, c) ∈ l) :
    Tab.get d ((l.filter p).foldl (fun t e => Tab.put t e.1 (g e.1 e.2)) t) key = if p (key, c) then g key c else Tab.get d t key := by
  have hsub : ((l.filter p).map (fun e => e.1)).Nodup := hnd.sublist (List.filter_sublist.map _)
  split
  · next hp => exact Tab.get_foldl_put_mem d g t hsub (List.mem_filter.2 ⟨hmem, hp⟩)
  · next hp =>
    refine Tab.get_foldl_put d g key _ t fun x hx => ?_
    obtain ⟨hin, hpx⟩ := List.mem_filter.1 hx
    rw [cell_unique hnd hmem hin] at hpx
    exact hp hpx

/-- A flip-flop and a shift table at an edge (R193). -/
theorem edge_shows (e : FabEnv) (clk : Bool → Nat → Bool) {key : Nat} {c : CellCfg} (hnd : ((planeCells e.items).map (fun x => x.1)).Nodup)
    (hc : cellAt e.items key = some c) :
    (e.edge clk).ffAt key = (if clk (key / 65536 == 1) c.dom.val then e.nextFf key c else e.st.ffAt key)
      ∧ (c.mode = .shift → (e.edge clk).shAt key = if clk (key / 65536 == 1) c.dom.val then e.nextSh key c else e.st.shAt key) := by
  have hmem := cellAt_mem hc
  refine ⟨Tab.get_foldl_filter _ e.nextFf (fun c => clk (c.1 / 65536 == 1) c.2.dom.val) e.st.ff hnd hmem, fun hshift => ?_⟩
  have hfilter : (((planeCells e.items).filter (fun c => clk (c.1 / 65536 == 1) c.2.dom.val)).filter (fun c => c.2.mode == .shift))
      = (planeCells e.items).filter (fun c => c.2.mode == .shift && clk (c.1 / 65536 == 1) c.2.dom.val) := List.filter_filter
  have hfold := Tab.get_foldl_filter (fun _ => 0) e.nextSh (fun c => c.2.mode == .shift && clk (c.1 / 65536 == 1) c.2.dom.val) e.st.sh hnd hmem
  rw [← hfilter] at hfold
  refine hfold.trans ?_
  rw [hshift]
  rfl

/-- The initial state of a plane, and what it takes at a swap (R206). -/
theorem planeState_shows (p : Plane) (own out : PlaneSt) {key : Nat} {c : CellCfg} (hnd : ((planeCells (planeItems p)).map (fun x => x.1)).Nodup)
    (hc : cellAt (planeItems p) key = some c) :
    (initState p).ffAt key = c.ffInit
      ∧ (swapState p own out).ffAt key = (if c.ffCarry = 1 then own.ffAt key else if c.ffCarry = 2 then out.ffAt key else c.ffInit) :=
  ⟨Tab.get_foldl_put_mem (fun _ => false) (fun _ (c : CellCfg) => c.ffInit) [] hnd (cellAt_mem hc),
    Tab.get_foldl_put_mem (fun _ => false) (fun k (c : CellCfg) => carried c.ffCarry c.ffInit (own.ffAt k) (out.ffAt k)) [] hnd (cellAt_mem hc)⟩

/-- Settles O27. -/
theorem contentionAndPlanes : Obligations.ContentionAndPlanes := by
  unfold Obligations.ContentionAndPlanes
  refine ⟨fun k half line off s => busContention_shows k half line off, fun k v c s hon hc => ?_, fun k s hon hhover hload hdone => ⟨?_, ?_⟩, ?_, ?_, ?_⟩
  · exact planeWrite_shows hon hc
  · exact planeLoadEnd_good hon hhover hload hdone
  · exact planeLoadEnd_bad hon hhover hload hdone
  · exact fun e f r n h hn => rowLine_value e f r h hn
  · exact fun e clk key c hnd hc => edge_shows e clk hnd hc
  · exact fun p own out key c hnd hc => planeState_shows p own out hnd hc

end Sys2Proof.Machine

/-! The patch map under a landing write: the position of a logical patch moves at a boundary (R36, R459), and no write of a register, of a
bank, of a fixed string or of a check-value unit moves it (R38, R121). -/

namespace Sys2Proof.Machine

/-- The words of the patch map (R38). -/
def mapWords (a : Nat) : Prop := 0x200 ≤ a ∧ a < 0x240

/-- `t` shows the patch map of `s`. -/
abbrev KeepsMap (s t : State) : Prop := SameRegs mapWords s t

/-- A field outside the patch map's words: of a block above the device's own, or of another offset of that. -/
abbrev offMap (f : Fld) (base : Nat) : Prop := 0x1000 ≤ base ∨ 0x240 ≤ f.off ∨ f.off < 0x200 ∧ f.st1 = 0 ∧ f.st2 = 0 ∧ base = 0

theorem patch_above (p : Nat) : 0x1000 ≤ PATCH p := by unfold PATCH; omega
theorem bolt_above (k : Nat) : 0x1000 ≤ BOLT k := by unfold BOLT; omega
theorem seam_above (n : Nat) : 0x1000 ≤ SEAM n := by unfold SEAM; omega
theorem ribbon_above (r : Nat) : 0x1000 ≤ RIBBON r := by unfold RIBBON; split <;> omega

theorem not_mapWords_above {a : Nat} (h : 0x1000 ≤ a) : ¬ mapWords a := by unfold mapWords; omega

theorem not_mapWords_at {f : Fld} {base : Nat} (h : offMap f base) (i j : Nat) : ¬ mapWords (f.at base i j) := by
  unfold mapWords Fld.at
  obtain h | h | ⟨h, h1, h2, h3⟩ := h
  · omega
  · omega
  · simp only [h1, h2, h3]
    omega

theorem above_of_locate {a : Nat} {b : Blk} {i o : Nat} (h : locate a = some (b, i, o)) (hb : b ≠ .dev) : 0x1000 ≤ a := by
  by_contra hlow
  rw [locate, if_pos (by omega)] at h
  exact hb (congrArg Prod.fst (Option.some.inj h)).symm

namespace KeepsMap

variable {s t u : State}

theorem refl (s : State) : KeepsMap s s := SameRegs.refl _ s

theorem trans (h : KeepsMap s t) (g : KeepsMap t u) : KeepsMap s u := SameRegs.trans h g

theorem same (h : KeepsMap s t) (hu : u.regs = t.regs) : KeepsMap s u := SameRegs.of_regs h hu

theorem ite {c : Prop} [Decidable c] (ht : KeepsMap s t) (hu : KeepsMap s u) : KeepsMap s (if c then t else u) := SameRegs.ite ht hu

theorem of_aside (h : Aside s t) : KeepsMap s t := (h.mono fun _ ha => .inl (by unfold mapWords at ha; omega)).regs

theorem field (h : KeepsMap s t) {f : Fld} {base : Nat} (hf : offMap f base) (v i j : Nat) : KeepsMap s (t.wr f base v i j) :=
  h.wr (not_mapWords_at hf i j) v

/-- A field of a block above the device's own. -/
theorem above (h : KeepsMap s t) {base : Nat} (hb : 0x1000 ≤ base) (f : Fld) (v i j : Nat) : KeepsMap s (t.wr f base v i j) := h.field (.inl hb) v i j

theorem ofPatch (h : KeepsMap s t) (u : State) (k : Nat) (f : Fld) (v i j : Nat) : KeepsMap s (t.wr f (u.pb k) v i j) := h.above (patch_above _) f v i j

theorem merge (h : KeepsMap s t) {a : Nat} (ha : ¬ mapWords a) (v : W32) (be : Nat) : KeepsMap s (t.mergeWrite a v be) := fun b hb =>
  (t.reg_mergeWrite_other (fun e : b = a => ha (e ▸ hb)) v be).trans (h b hb)

theorem mergeAbove (h : KeepsMap s t) {a : Nat} (ha : 0x1000 ≤ a) (v : W32) (be : Nat) : KeepsMap s (t.mergeWrite a v be) :=
  h.merge (not_mapWords_above ha) v be

theorem stage (h : KeepsMap s t) {a : Nat} (ha : 0x1000 ≤ a) (v : W32) (be : Nat) : KeepsMap s (t.stageWrite a v be) := (h.mergeAbove ha v be).same rfl

theorem stageField (h : KeepsMap s t) {base : Nat} (hb : 0x1000 ≤ base) (f : Fld) (i j : Nat) (v : W32) (be : Nat) :
    KeepsMap s (t.stageWrite (f.at base i j) v be) := h.stage (by unfold Fld.at; omega) v be

theorem mergeField (h : KeepsMap s t) {base : Nat} (hb : 0x1000 ≤ base) (f : Fld) (i j : Nat) (v : W32) (be : Nat) :
    KeepsMap s (t.mergeWrite (f.at base i j) v be) := h.mergeAbove (by unfold Fld.at; omega) v be

end KeepsMap

/-! The device's own block, CLK, HOST and JACK. -/

theorem State.writeDiag_map (s : State) {a : Nat} (ha : ¬ mapWords a) (last pages : Nat) (v : W32) (be : Nat) :
    KeepsMap s (s.writeDiag a last pages v be) := (KeepsMap.merge (.refl s) ha v be).setReg ha _

theorem State.writeNReq_map (s : State) (v : Nat) : KeepsMap s (s.writeNReq v) := by
  have hreq : KeepsMap s (s.wr F.STC_N_REQ DEV ((Clamp.range 1 128).apply v)) := KeepsMap.field (.refl s) (by decide) _ 0 0
  exact KeepsMap.ite (.refl s) (KeepsMap.ite (KeepsMap.field (hreq.same rfl) (by decide) _ 0 0) (hreq.same rfl))

theorem State.requestLayers_map (s : State) (layers : Nat) : KeepsMap s (s.requestLayers layers) := by
  unfold State.requestLayers
  split <;> exact .refl s

theorem State.raiseReset_map (s : State) : KeepsMap s s.raiseReset := by
  unfold State.raiseReset
  rw [State.flood_frame]
  exact .refl s

theorem State.writeLreset_map (s : State) (v : W32) (be : Nat) : KeepsMap s (s.writeLreset v be) := by
  have hreq : KeepsMap s (if bitAt be 0 then s.requestLayers (v.toNat % 256) else s) := KeepsMap.ite (s.requestLayers_map _) (.refl s)
  have hdone := fun n : Nat => hreq.field (f := F.LR_DONE) (base := DEV) (by decide) n 0 0
  exact KeepsMap.ite ((hdone _).trans (State.raiseReset_map _)) (hdone _)

theorem State.askGo_map (s : State) : KeepsMap s s.askGo :=
  KeepsMap.ite (.refl s) ((((KeepsMap.field (.refl s) (by decide) 1 0 0).field (by decide) 0 0 0).field (by decide) 1 0 0).same rfl)

theorem State.showHeld_map (s : State) : KeepsMap s s.showHeld := KeepsMap.above (.refl s) (by decide) _ _ 0 0

theorem State.closeGate_map (s : State) (g : Nat) : KeepsMap s (s.closeGate g) := by
  have hstatus := fun n : Nat => KeepsMap.above (.refl s) (base := CLK) (by decide) F.GATE_STATUS n 0 0
  unfold State.closeGate
  dsimp only
  refine KeepsMap.ite (hstatus 0) (KeepsMap.ite (hstatus 3) (KeepsMap.ite ?_ ((hstatus 1).same rfl)))
  exact ((hstatus 1).same rfl).trans (State.showHeld_map _)

theorem State.openGate_map (s : State) (g : Nat) : KeepsMap s (s.openGate g) := by
  unfold State.openGate
  dsimp only
  refine KeepsMap.ite (KeepsMap.above (.refl s) (by decide) _ _ 0 0) ?_
  have hheld := State.showHeld_map { s with clk := { s.clk with heldClose := s.clk.heldClose.erase (gateClamp g) } }
  exact (KeepsMap.above hheld (by decide) _ _ 0 0).same rfl

theorem State.writeRefout_map (s : State) (n : Nat) (word : Bool) (v : W32) (be : Nat) : KeepsMap s (s.writeRefout n word v be) := by
  have ha : 0x1000 ≤ F.REFO_EN.at CLK n 0 + (if word then 4 else 0) := by
    unfold Fld.at CLK
    omega
  have hword := KeepsMap.mergeAbove (.refl s) ha v be
  unfold State.writeRefout State.showRefout
  refine KeepsMap.above (base := CLK) ?_ (by decide) _ _ n 0
  exact KeepsMap.ite (hword.same rfl) (hword.same rfl)

theorem State.showSync_map (s : State) : KeepsMap s s.showSync := by
  have heff := fun n : Nat => KeepsMap.above (.refl s) (base := CLK) (by decide) F.SYNC_EFFECTIVE n 0 0
  have href := fun (n : Nat) (c : Prop) [Decidable c] => KeepsMap.ite (c := c) ((heff n).same
    (u := { s.wr F.SYNC_EFFECTIVE CLK n with time := { (s.wr F.SYNC_EFFECTIVE CLK n).time with syncRef := none } }) rfl) (heff n)
  unfold State.showSync
  dsimp only
  exact KeepsMap.ite ((href _ _).same rfl) (KeepsMap.ite (((href _ _).above (base := CLK) (by decide) _ _ 0 0).same rfl) (href _ _))

theorem State.writeSync_map (s : State) (v : W32) (be : Nat) : KeepsMap s (s.writeSync v be) :=
  KeepsMap.trans (KeepsMap.mergeAbove (.refl s) (by decide) v be) (State.showSync_map _)

theorem State.orphanSpool_map (s : State) (sp : Nat) : KeepsMap s (s.orphanSpool sp) := KeepsMap.above ((KeepsMap.refl s).same rfl) (by decide) _ _ sp 0

theorem State.writeSpoolEn_map (s : State) (sp : Nat) (v : W32) (be : Nat) : KeepsMap s (s.writeSpoolEn sp v be) := by
  have hword := KeepsMap.mergeField (.refl s) (base := HOST) (by decide) F.SP_EN sp 0 v be
  have hon := (((hword.trans (State.orphanSpool_map _ sp)).above (base := HOST) (by decide) F.SP_CI 0 sp 0).above (base := HOST) (by decide)
    F.SP_PI 0 sp 0).above (base := HOST) (by decide) F.SP_SEQ_NEXT 0 sp 0
  exact KeepsMap.ite (hon.same rfl) (KeepsMap.ite (hword.same rfl) hword)

theorem State.showChan_map (s : State) (ch : Nat) : KeepsMap s (s.showChan ch) := by
  unfold State.showChan
  split
  · exact KeepsMap.ite (KeepsMap.above (.refl s) (by decide) _ _ ch 0) (.refl s)
  · exact .refl s

theorem State.writeConsumed_map (s : State) (ch : Nat) (v : W32) (be : Nat) : KeepsMap s (s.writeConsumed ch v be) := by
  have hword := KeepsMap.mergeField (.refl s) (base := HOST) (by decide) F.CH_CONSUMED ch 0 v be
  exact KeepsMap.trans (KeepsMap.ite (hword.setReg (not_mapWords_at (.inl (by decide)) ch 0) _) hword) (State.showChan_map _ ch)

theorem State.writeVectorCtrl_map (s : State) (v : Nat) (w : W32) (be : Nat) : KeepsMap s (s.writeVectorCtrl v w be) := by
  have hword := KeepsMap.mergeField (.refl s) (base := HOST) (by decide) F.MSIX_CTRL v 0 w be
  exact KeepsMap.ite ((hword.above (base := HOST) (by decide) F.MSIX_PBA _ (v / 32) 0).same rfl) hword

theorem State.requestSwap_map (s : State) : KeepsMap s s.requestSwap :=
  have word := fun (f : Fld) (n : Nat) => KeepsMap.above (.refl s) (base := JACK) (by decide) f n 0 0
  KeepsMap.ite (.refl s) (KeepsMap.ite (word _ _) (word _ _))

theorem State.writeDev_map (s : State) (src : Src) {o : Nat} (ho : ¬ (0x200 ≤ o ∧ o < 0x240)) (v : W32) (be : Nat) :
    KeepsMap s (s.writeDev src o v be) := by
  have hout : ¬ mapWords (DEV + o) := by
    unfold mapWords DEV
    omega
  have hword := KeepsMap.merge (.refl s) hout v be
  unfold State.writeDev
  rw [if_neg ho]
  refine KeepsMap.ite (KeepsMap.ite (s.writeNReq_map _) (.refl s)) (KeepsMap.ite (s.writeDiag_map hout _ _ v be)
    (KeepsMap.ite (s.writeLreset_map v be) (KeepsMap.ite ?_ hword)))
  exact KeepsMap.field (KeepsMap.ite (hword.trans (State.askGo_map _)) hword) (by decide) _ 0 0

theorem State.writeClk_map (s : State) (o : Nat) (v : W32) (be : Nat) : KeepsMap s (s.writeClk o v be) := by
  have hword := KeepsMap.mergeAbove (.refl s) (a := CLK + o) (by unfold CLK; omega) v be
  unfold State.writeClk
  refine KeepsMap.ite (KeepsMap.ite (KeepsMap.ite (hword.trans (State.closeGate_map _ _)) (hword.trans (State.openGate_map _ _))) hword)
    (KeepsMap.ite (s.writeRefout_map _ _ v be) (KeepsMap.ite (s.writeSync_map v be) hword))

theorem State.writeHost_map (s : State) (o : Nat) (v : W32) (be : Nat) : KeepsMap s (s.writeHost o v be) :=
  KeepsMap.ite (s.writeSpoolEn_map _ v be) (KeepsMap.ite (s.writeConsumed_map _ v be) (KeepsMap.ite (s.writeVectorCtrl_map _ v be)
    (KeepsMap.mergeAbove (.refl s) (by unfold HOST; omega) v be)))

theorem State.writeJack_map (s : State) (o : Nat) (v : W32) (be : Nat) : KeepsMap s (s.writeJack o v be) :=
  have hword := KeepsMap.mergeAbove (.refl s) (a := JACK + o) (by unfold JACK; omega) v be
  KeepsMap.ite (hword.trans (State.requestSwap_map _)) hword

end Sys2Proof.Machine

/-! Seams, ribbons, patches, bolts and triggers. -/

namespace Sys2Proof.Machine

theorem State.setRoute_map (s : State) (d : Nat) (r : Route) : KeepsMap s (s.setRoute d r) :=
  ((((KeepsMap.refl s).field (by decide) _ d 0).field (by decide) _ d 0).field (by decide) _ d 0).field (by decide) _ d 0

theorem State.ownRoutes_map (s : State) : KeepsMap s s.ownRoutes := by
  have hwide : KeepsMap s (s.setWide (tooFar s.liveLinks (deviceCount s.sys.links))) :=
    KeepsMap.ite (.refl s) ((KeepsMap.refl s).field (by decide) _ 0 0)
  exact SameRegs.forN hwide fun d u => KeepsMap.ite (.refl u) (KeepsMap.field (u.setRoute_map d _) (by decide) _ d 0)

theorem State.headRoutes_map (s : State) : KeepsMap s s.headRoutes :=
  SameRegs.forN s.ownRoutes_map fun x u => KeepsMap.ite (.refl u) ((KeepsMap.refl u).same (u.tellRoutes_regs x))

theorem State.switchRoutes_map (s : State) (n : Nat) : KeepsMap s (s.switchRoutes n) :=
  State.switchRoutes_regs (fun d _ => by unfold mapWords; omega) s n

theorem State.showSystem_map (s : State) : KeepsMap s s.showSystem := State.showSystem_regs (by unfold mapWords; omega) s

theorem State.followLoss_map (s : State) (n : Nat) : KeepsMap s (s.followLoss n) :=
  have hswitch := s.switchRoutes_map n
  KeepsMap.trans (KeepsMap.ite hswitch (KeepsMap.ite (hswitch.trans (State.headRoutes_map _)) (hswitch.same (State.reportSeam_regs _ n false))))
    (State.showSystem_map _)

theorem State.dropSeam_map (s : State) (n cause : Nat) : KeepsMap s (s.dropSeam n cause) :=
  (((KeepsMap.refl s).above (seam_above n) F.SEAM_LSTATE 0 0 0).above (seam_above n) F.SEAM_FAIL_CAUSE cause 0 0).above (seam_above n)
    F.SEAM_DOWNS _ 0 0

theorem State.seamDown_map (s : State) (n cause : Nat) : KeepsMap s (s.seamDown n cause) := by
  rw [State.seamDown_eq]
  exact ((s.dropSeam_map n cause).same rfl).trans (State.followLoss_map _ n)

theorem State.writeSeamCtl_map (s : State) (n : Nat) (v : W32) (be : Nat) : KeepsMap s (s.writeSeamCtl n v be) :=
  have hen := (KeepsMap.refl s).above (seam_above n) F.SEAM_EN (bit (bitAt v.toNat 0)) 0 0
  KeepsMap.ite (KeepsMap.ite (hen.trans (State.seamDown_map _ n 6)) hen) (.refl s)

theorem KeepsMap.setLn {s t : State} (h : KeepsMap s t) (f : Fld) (l v : Nat) : KeepsMap s (t.setLn f l v) := h.above (ribbon_above _) f v _ 0

theorem State.followFirst_map (s : State) (l : Nat) : KeepsMap s (s.followFirst l) :=
  KeepsMap.ite (.refl s) (SameRegs.forEach (.refl _ s) fun m u => KeepsMap.ite (.refl u)
    ((((KeepsMap.refl u).setLn _ m _).setLn _ m _).setLn _ m _ |>.same rfl))

theorem State.writeLnCtl_map (s : State) (l : Nat) (v : W32) (be : Nat) : KeepsMap s (s.writeLnCtl l v be) :=
  (((((KeepsMap.refl s).stageField (ribbon_above _) _ _ _ v be).setLn F.LN_RATE_KBPS l _).same rfl).trans (State.followFirst_map _ l))

theorem State.writeLnRate_map (s : State) (l : Nat) (v : W32) (be : Nat) : KeepsMap s (s.writeLnRate l v be) :=
  (((KeepsMap.refl s).stageField (ribbon_above _) _ _ _ v be).setLn F.LN_RATE_KBPS l _).trans (State.followFirst_map _ l)

theorem State.writeTxFfe_map (s : State) (l : Nat) (v : W32) (be : Nat) : KeepsMap s (s.writeTxFfe l v be) :=
  ((((((KeepsMap.refl s).mergeField (ribbon_above _) F.TX_C_M2 (l % 8) 0 v be).setLn _ l _).setLn _ l _).setLn _ l _).setLn _ l _).setLn _ l _

theorem State.writeQuiet_map (s : State) (l : Nat) (v : W32) (be : Nat) : KeepsMap s (s.writeQuiet l v be) :=
  KeepsMap.ite ((KeepsMap.refl s).same rfl) (.refl s)

theorem State.seqBase_above (s : State) {key : Nat} (hk : 16 ≤ key) : 0x1000 ≤ s.seqBase key := by
  rw [State.seqBase, if_neg (by omega)]
  split
  · exact patch_above _
  · exact ribbon_above _

theorem State.raiseS_map (s : State) (r cls : Nat) : KeepsMap s (s.raiseS r cls) :=
  ((Framed.refl mapWords s).raiseProc cls true fun u _ f _ => not_mapWords_at (.inl (u.seqBase_above (by omega))) 0 0).regs

theorem State.releaseRecord_map (s : State) (r : Nat) : KeepsMap s (s.releaseRecord r) := by
  unfold State.releaseRecord
  refine KeepsMap.ite (.refl s) ?_
  dsimp only
  have hfree : KeepsMap s (s.modRib r fun x => { x with rvalid := false }) := (KeepsMap.refl s).same rfl
  generalize s.modRib r _ = u at hfree ⊢
  split
  · exact hfree
  · next i _ =>
    have hrec : KeepsMap s (u.beginRecord (8 * r + i)) := hfree.same (u.beginRecord_regs _)
    generalize u.beginRecord (8 * r + i) = v at hrec ⊢
    have hlost : KeepsMap s (if bitAt (s.laneCause (8 * r + i)) 0 then v.raiseS r 0 else v) := KeepsMap.ite (hrec.trans (v.raiseS_map r 0)) hrec
    exact KeepsMap.ite (hlost.trans (State.raiseS_map _ r 1)) hlost

end Sys2Proof.Machine

namespace Sys2Proof.Machine

theorem State.writeRibbon_map (s : State) (r o : Nat) (v : W32) (be : Nat) : KeepsMap s (s.writeRibbon r o v be) := by
  have ha : 0x1000 ≤ RIBBON r + o := by
    have := ribbon_above r
    omega
  have hword := (KeepsMap.refl s).mergeAbove ha v be
  have hpend : KeepsMap s (match (List.range 32).find? (fun x => s.rsp x == r) with
      | some x => (s.mergeWrite (RIBBON r + o) v be).releaseRecord x
      | none => s.mergeWrite (RIBBON r + o) v be) := by
    split
    · exact hword.trans (State.releaseRecord_map _ _)
    · exact hword
  exact KeepsMap.ite hpend (KeepsMap.ite (s.writeDiag_map (not_mapWords_above ha) _ _ v be) (KeepsMap.ite
    ((KeepsMap.refl s).stageField (ribbon_above r) _ 0 0 v be) (KeepsMap.ite (KeepsMap.ite (s.writeLnCtl_map _ v be)
    (KeepsMap.ite (s.writeLnRate_map _ v be) (KeepsMap.ite (s.writeTxFfe_map _ v be) (KeepsMap.ite (s.writeQuiet_map _ v be) hword)))) hword)))

/-! Patches. -/

theorem State.setDepth_map (s : State) (u : MemUnit) (v : Nat) : KeepsMap s (s.setDepth u v) := by
  cases u with
  | bank p b => exact SameRegs.forN ((KeepsMap.refl s).above (patch_above _) _ _ 0 0) fun i u => (KeepsMap.refl u).above (patch_above _) _ _ i 0
  | bolt k => exact ((KeepsMap.refl s).above (bolt_above _) _ _ 0 0).above (bolt_above _) _ _ 0 0

theorem State.writeIntegrity_map (s : State) (p o : Nat) (v : W32) (be : Nat) : KeepsMap s (s.writeIntegrity p o v be) := by
  have hword := (KeepsMap.refl s).mergeAbove (a := PATCH p + o) (by have := patch_above p; omega) v be
  exact KeepsMap.ite (hword.trans (State.setDepth_map _ _ _)) hword

theorem State.writePquiet_map (s : State) (k : Nat) (v : W32) (be : Nat) : KeepsMap s (s.writePquiet k v be) :=
  KeepsMap.ite ((KeepsMap.refl s).same rfl) (.refl s)

theorem State.writePlaneCtl_map (s : State) (k : Nat) (v : W32) (be : Nat) : KeepsMap s (s.writePlaneCtl k v be) :=
  KeepsMap.ite (.refl s) (((KeepsMap.refl s).mergeField (patch_above _) F.PLC_LOAD_SLOT 0 0 v be).same rfl)

theorem State.writeQueueCfg_map (s : State) (k b : Nat) (v : W32) (be : Nat) : KeepsMap s (s.writeQueueCfg k b v be) :=
  (((((KeepsMap.refl s).stageField (patch_above _) _ b 0 v be).ofPatch _ k _ _ b 0).ofPatch _ k _ _ b 0).ofPatch _ k _ _ b 0).ofPatch _ k _ _ b 0

theorem State.capTrigger_map (s : State) (k : Nat) (t : Stamp) : KeepsMap s (s.capTrigger k t) := by
  have hfired := ((((KeepsMap.refl s).ofPatch s k F.CAPS_STATE 2 0 0).ofPatch s k F.CAPS_T_LO t.stitch.toNat 0 0).ofPatch s k F.CAPS_T_HI
    (t.stitch.toNat / 2 ^ 32) 0 0).ofPatch s k F.CAPS_T_OFF t.off 0 0
  exact KeepsMap.ite ((KeepsMap.refl s).ofPatch s k F.CAPE_TRIG_IGNORED _ 0 0) ((hfired.ofPatch s k F.CAPS_PRE_SHORT _ 0 0).same rfl)

theorem State.nextSegment_map (s : State) (k : Nat) : KeepsMap s (s.nextSegment k) :=
  KeepsMap.ite ((KeepsMap.of_aside (s.closeSeg_aside k 2)).trans (.of_aside (State.showCap_aside _ k))) (.refl s)

theorem State.capCmd_map (s : State) (k cmd : Nat) (c : Option CmdRef) : KeepsMap s (s.capCmd k cmd c) := by
  unfold State.capCmd
  split
  · exact (s.capTrigger_map k _).same (State.completeOpt_regs _ _ _ _)
  · exact (s.nextSegment_map k).same (State.completeOpt_regs _ _ _ _)
  · exact (KeepsMap.refl s).same rfl
  · exact (KeepsMap.refl s).same rfl
  · exact (KeepsMap.refl s).same (State.completeOpt_regs _ _ _ _)

theorem State.clampCap_map (s : State) (k : Nat) : KeepsMap s (s.clampCap k) :=
  ((((KeepsMap.refl s).ofPatch s k F.CAP_REC_SIZE _ 0 0).ofPatch s k F.CAP_SEG_COUNT _ 0 0).ofPatch s k F.CAP_PRE_DEPTH _ 0 0).ofPatch s k
    F.CAP_POST_DEPTH _ 0 0

theorem State.writeCapCfg_map (s : State) (k o : Nat) (v : W32) (be : Nat) : KeepsMap s (s.writeCapCfg k o v be) := by
  have hword := (KeepsMap.refl s).mergeAbove (a := s.pb k + o) (by have := s.pb_high k; omega) v be
  exact KeepsMap.ite (hword.ofPatch s k F.CAP_IDX_BASE _ 0 0) (hword.trans (State.clampCap_map _ k))

theorem State.patCmd_map (s : State) (k cmd threads : Nat) (c : Option CmdRef) : KeepsMap s (s.patCmd k cmd threads c) :=
  KeepsMap.ite ((KeepsMap.refl s).same rfl) ((KeepsMap.refl s).same (State.completeOpt_regs _ _ _ _))

theorem State.writeAction_map (s : State) (k a : Nat) (v : W32) (be : Nat) : KeepsMap s (s.writeAction k a v be) :=
  have hword := (KeepsMap.refl s).mergeField (patch_above _) F.ACT_SLOTS a 0 v be
  KeepsMap.ite ((hword.ofPatch s k F.ACT_READY 0 a 0).same rfl) hword

theorem State.cvLandFeed_map (s : State) (k u n : Nat) (v : W64) : KeepsMap s (s.cvLandFeed k u n v) :=
  KeepsMap.ite ((KeepsMap.refl s).ofPatch s k F.CV_DROP _ 0 0) ((KeepsMap.refl s).ofPatch s k F.CV_VALUE _ u 0)

theorem State.cvLandWrite_map (s : State) (k u v : Nat) : KeepsMap s (s.cvLandWrite k u v) :=
  KeepsMap.ite (.refl s) ((KeepsMap.refl s).ofPatch s k F.CV_VALUE _ u 0)

theorem State.writeCvCfg_map (s : State) (k u : Nat) (v : W32) (be : Nat) : KeepsMap s (s.writeCvCfg k u v be) :=
  have hword := (KeepsMap.refl s).stageField (patch_above _) F.CV_POLY u 0 v be
  KeepsMap.ite (hword.ofPatch s k F.CV_STREAM_EN 0 u 0) hword

theorem State.writeMgmt_map (s : State) (p : Nat) (v : W32) (be : Nat) : KeepsMap s (s.writeMgmt p v be) := by
  have hword := (KeepsMap.refl s).mergeAbove (a := PATCH p + 0xB9C) (by have := patch_above p; omega) v be
  unfold State.writeMgmt
  dsimp only
  generalize s.mergeWrite (PATCH p + 0xB9C) v be = t at hword ⊢
  have hbusy := hword.above (patch_above p) F.BK_BUSY 1 0 0
  split
  · exact hbusy.same rfl
  · exact hword

theorem State.writePatch_map (s : State) (p k o : Nat) (v : W32) (be : Nat) : KeepsMap s (s.writePatch p k o v be) := by
  have ha : 0x1000 ≤ PATCH p + o := by
    have := patch_above p
    omega
  have hword := (KeepsMap.refl s).mergeAbove ha v be
  have hstage := (KeepsMap.refl s).stage ha v be
  have hslot := fun n : Nat => (KeepsMap.refl s).stageField (patch_above (s.ppos k)) F.CSLOT_EN n 0 v be
  have hsub : ∀ e half, KeepsMap s (s.writeSub k e half v be) := fun e half => (KeepsMap.refl s).same rfl
  unfold State.writePatch
  dsimp only
  refine KeepsMap.ite (s.writeDiag_map (not_mapWords_above ha) _ _ v be) ?_
  refine KeepsMap.ite (s.writePquiet_map k v be) ?_
  refine KeepsMap.ite (s.writePlaneCtl_map k v be) ?_
  refine KeepsMap.ite (s.writeQueueCfg_map k _ v be) ?_
  refine KeepsMap.ite (s.capCmd_map k _ none) ?_
  refine KeepsMap.ite (s.writeCapCfg_map k o v be) ?_
  refine KeepsMap.ite (hslot _) ?_
  refine KeepsMap.ite (s.patCmd_map k _ _ none) ?_
  refine KeepsMap.ite hstage ?_
  refine KeepsMap.ite (hsub _ _) ?_
  refine KeepsMap.ite (s.writeAction_map k _ v be) ?_
  refine KeepsMap.ite (s.writeCvCfg_map k _ v be) ?_
  refine KeepsMap.ite (s.cvLandWrite_map k _ _) ?_
  exact KeepsMap.ite (s.writeMgmt_map p v be) hword

/-! Bolts and triggers. -/

theorem State.writeBolt_map (s : State) (k o : Nat) (v : W32) (be : Nat) : KeepsMap s (s.writeBolt k o v be) := by
  have hword := fun d : Nat => (KeepsMap.refl s).mergeAbove (a := BOLT k + d) (by have := bolt_above k; omega) v be
  have hwin : KeepsMap s (s.writeBoltWin k v be) := KeepsMap.ite (((hword 0x10C).above (bolt_above k) F.BOLT_WIN_BUSY 1 0 0).same rfl) (hword 0x10C)
  exact KeepsMap.ite ((hword o).trans (State.setDepth_map _ _ _)) (KeepsMap.ite hwin (hword o))

theorem State.writeRaise_map (s : State) (src : Src) (high : Bool) (v : W32) (be : Nat) : KeepsMap s (s.writeRaise src high v be) := by
  unfold State.writeRaise
  split
  · exact .refl s
  · exact SameRegs.forEach (.refl _ s) fun i u => KeepsMap.ite (State.raiseLine_framed mapWords u _ _).regs (.refl u)

theorem State.writeTrig_map (s : State) (src : Src) (o : Nat) (v : W32) (be : Nat) : KeepsMap s (s.writeTrig src o v be) := by
  have hword := fun d : Nat => (KeepsMap.refl s).mergeAbove (a := TRIG + d) (by unfold TRIG; omega) v be
  have hempty : ∀ u, KeepsMap s u → KeepsMap s u.emptyRing := fun u hu => hu.above (by decide) _ _ 0 0
  have htail := fun d n : Nat => (hword d).above (base := TRIG) (by decide) F.EVQ_TAIL n 0 0
  have hlo : KeepsMap s (s.writeEvqLo v be) := KeepsMap.ite (.refl s) ((hempty _ (hword 0x800)).same rfl)
  have hhi : KeepsMap s (s.writeEvqHi v be) := KeepsMap.ite (.refl s) (hempty _ (hword 0x804))
  have hsize : KeepsMap s (s.writeEvqSize v be) := KeepsMap.ite (.refl s) (hempty _ (htail 0x808 _))
  exact KeepsMap.ite (s.writeRaise_map src _ v be) (KeepsMap.ite (s.writeRaise_map src _ v be) (KeepsMap.ite ((hword o).same rfl) (KeepsMap.ite hlo
    (KeepsMap.ite hhi (KeepsMap.ite hsize (KeepsMap.ite (htail 0x810 _) (hword o)))))))

end Sys2Proof.Machine

/-! Landing writes leave the positions of the patches (R38, R121). -/

namespace Sys2Proof.Machine

/-- Every logical patch is at the position in `t` that it has in `s`. -/
def SamePlaces (s t : State) : Prop := ∀ k : LPatch, t.ppos k.val = s.ppos k.val

namespace SamePlaces

variable {s t u : State}

theorem refl (s : State) : SamePlaces s s := fun _ => rfl

theorem trans (h : SamePlaces s t) (g : SamePlaces t u) : SamePlaces s u := fun k => (g k).trans (h k)

theorem ite {c : Prop} [Decidable c] (ht : SamePlaces s t) (hu : SamePlaces s u) : SamePlaces s (if c then t else u) := by split <;> assumption

theorem of_regs (h : t.regs = s.regs) : SamePlaces s t := fun k => by
  unfold State.ppos State.rd State.reg
  rw [h]

theorem pb (h : SamePlaces s t) (k : LPatch) : t.pb k.val = s.pb k.val := congrArg PATCH (h k)

theorem forEach {α : Type} {f : α → State → State} {l : List α} (h : SamePlaces s t) (hf : ∀ a u, SamePlaces u (f a u)) :
    SamePlaces s (forEach f l t) := forEach_induct (fun a _ hu => hu.trans (hf a _)) h

end SamePlaces

theorem KeepsMap.places {s t : State} (h : KeepsMap s t) : SamePlaces s t := fun k =>
  congrArg (min 17) (SameRegs.rd h (f := F.LPM_PPOS) (base := DEV) (i := k.val) (j := 0) (by
    have := k.isLt
    simp only [mapWords, Fld.at, F.LPM_PPOS, DEV]
    omega))

theorem State.landBind_places (s : State) (b : BindWrite) : SamePlaces s (s.landBind b) := fun k => by
  rw [State.landBind_eq]
  exact congrArg (min 17) (State.rd_wr_field _ _ _ _ _ _ _ _ _ _ (by decide) (by decide) (by decide) (by decide))

theorem State.writeLpm_places (s : State) (src : Src) (k : Nat) (v : W32) (be : Nat) : SamePlaces s (s.writeLpm src k v be) :=
  have hb : SamePlaces s (if F.LPM_RIB_B.enabled be then s.landBind ⟨k, true, clampRib (bitsOf 21 16 v), s.rootNow, s.srcRank src, none⟩ else s) :=
    .ite (s.landBind_places _) (.refl s)
  .ite (hb.trans (State.landBind_places _ _)) hb

theorem State.writeDev_places (s : State) (src : Src) (o : Nat) (v : W32) (be : Nat) : SamePlaces s (s.writeDev src o v be) := by
  by_cases ho : 0x200 ≤ o ∧ o < 0x240
  · unfold State.writeDev
    rw [if_neg (by simp only [F.STC_N_REQ]; omega), if_pos ho]
    exact s.writeLpm_places src _ v be
  · exact (s.writeDev_map src ho v be).places

theorem State.busWrite_places (s : State) (src : Src) (a : Nat) (v : W32) (be : Nat) : SamePlaces s (s.busWrite src a v be) := by
  unfold State.busWrite
  split
  · exact .refl s
  · next b inst o hloc =>
    refine .ite (.refl s) ?_
    have hword : b ≠ .dev → SamePlaces s (s.mergeWrite a v be) := fun hb => ((KeepsMap.refl s).mergeAbove (above_of_locate hloc hb) v be).places
    cases b with
    | dev => exact s.writeDev_places src o v be
    | clk => exact (s.writeClk_map o v be).places
    | host => exact (s.writeHost_map o v be).places
    | seam => exact .ite (s.writeSeamCtl_map inst v be).places (hword (by decide))
    | jack => exact (s.writeJack_map o v be).places
    | ribbon => exact (s.writeRibbon_map inst o v be).places
    | patch =>
      refine .ite (s.writeIntegrity_map inst o v be).places ?_
      split
      · exact (s.writePatch_map inst _ o v be).places
      · exact .of_regs rfl
      · exact .refl s
    | bolt => exact (s.writeBolt_map inst o v be).places
    | trig => exact (s.writeTrig_map src o v be).places
    | hk | cfg | sec | res => exact hword (by decide)

theorem State.mailReply_regs (s : State) (key slot : Nat) : (s.mailReply key slot).regs = s.regs := by
  unfold State.mailReply
  dsimp only
  split <;> rfl

theorem State.writeMailOut_regs (s : State) (key slot w : Nat) (v : W32) : (s.writeMailOut key slot w v).regs = s.regs := by
  unfold State.writeMailOut
  dsimp only
  split
  · exact State.mailReply_regs _ key slot
  · rfl

theorem State.clearEvents_map (s : State) {key : Nat} (hk : 16 ≤ key) (v : W32) : KeepsMap s (s.clearEvents key v) := by
  have hpend := (KeepsMap.refl s).mergeField (s.seqBase_above hk) F.EVT_PEND 0 0 v 15
  unfold State.clearEvents
  rw [if_neg (by omega)]
  exact KeepsMap.ite (hpend.trans (State.releaseRecord_map _ _)) hpend

theorem State.writeFixed_map (s : State) {key : Nat} (hk : 16 ≤ key) (slot str w : Nat) (v : W32) : KeepsMap s (s.writeFixed key slot str w v) :=
  KeepsMap.ite (s.clearEvents_map hk v) (KeepsMap.ite ((KeepsMap.refl s).same (s.writeMailOut_regs key slot w v))
    (KeepsMap.ite ((KeepsMap.refl s).same rfl) (.refl s)))

theorem State.bankWrite_clean_map (s : State) (pos b w : Nat) (v : W64) (mask : Nat) : KeepsMap s (s.bankWrite pos b w v mask .clean).1 := by
  by_cases hfull : mask % 256 = 255
  · rw [State.bankWrite, if_pos hfull]
    exact (KeepsMap.refl s).same rfl
  by_cases hnone : mask % 256 = 0
  · rw [State.bankWrite, if_neg hfull, if_pos hnone]
    exact .refl s
  by_cases hpoison : s.bankPoison pos b w = true
  · rw [State.bankWrite, if_neg hfull, if_neg hnone, State.bankRead_clean, if_pos hpoison]
    exact (KeepsMap.refl s).above (patch_above _) F.BK_WR_POISON _ _ 0
  · rw [State.bankWrite, if_neg hfull, if_neg hnone, State.bankRead_clean, if_neg hpoison]
    exact (KeepsMap.refl s).same rfl

theorem State.landPost_places (s : State) {key : Nat} (hk : 16 ≤ key) (p : Posted) : SamePlaces s (s.landPost key p .clean) := by
  cases p with
  | str slot n w addr v early =>
    refine .ite (s.writeFixed_map hk slot n w v).places ?_
    cases addr with
    | none => exact .refl s
    | some a => exact s.busWrite_places _ a v 15
  | stw addr n v => exact (s.bankWrite_clean_map _ _ _ _ _).places
  | cvf u n v => exact (s.cvLandFeed_map _ u n v).places
  | cvwr u v => exact (s.cvLandWrite_map _ u _).places

theorem State.landFor_places (s : State) {key : Nat} (hk : 16 ≤ key) (t : PostTarget) : SamePlaces s (s.landFor key t) := by
  have hland : ∀ (p : Posted) (u : State), SamePlaces u (u.landPost key p .clean) := fun p u => u.landPost_places hk p
  have hqueue : ∀ f, SamePlaces s (s.modProcAt key f) := fun _ => .of_regs rfl
  unfold State.landFor State.landUpTo
  dsimp only
  split
  · exact SamePlaces.forEach (hqueue _) hland
  · exact (SamePlaces.forEach (hqueue _) hland).trans (hland _ _)

/-! The check-value units' instructions and registers (R140 to R143, R302 to R304). -/

/-- A write posted behind those in flight is the one thing that an instruction does but go on. -/
theorem exec_posts_of_graov {c : Instr} {h : Proc} {w : W32} {cost : Nat} {p : Posted} {s : State}
    (hc : exec c s = graov h w cost s (s.modProcAt (Proc.key h) (fun x => { x with wq := x.wq ++ [p] }))) (hw : s.issues h w = true) :
    ∃ t, exec c s = .next t ∧ OnlyProc (Proc.key h) s t
      ∧ t.procAt (Proc.key h) = { (s.procAt (Proc.key h)).goesOn cost with wq := (s.procAt (Proc.key h)).wq ++ [p] } :=
  ⟨_, exec_eq_next_of_graov hc hw, ((OnlyProc.ofMod s _ _).retire _), by
    rw [State.retire_eq, State.procAt_modSame, State.procAt_modSame]
    rfl⟩

/-- The cycles and bytes of cvf (R140). -/
theorem feedBytes (n : BitVec 2) : nthD 4 [1, 2, 4] n.toNat = if n = 0 then 1 else if n = 1 then 2 else 4 := by
  revert n
  decide

theorem State.cvRead_of_places {s t : State} (h : SamePlaces s t) (k : LPatch) (u : Nat) :
    t.cvRead k.val u = if t.cvStream k.val u then t.rd F.CV_LAST (s.pb k.val) u else t.rd F.CV_VALUE (s.pb k.val) u := by
  rw [State.cvRead, State.cvValue, h.pb k]

/-- bown asks for an owner and goes on (R143). -/
theorem exec_bown_asks {k : LPatch} {bank : Bank} {owner : BitVec 4} {s : State}
    (hw : s.issues (.p k) (wordI 0x2D 0 0 (bank.val + 8 * owner.toNat)) = true) : ∃ t, exec (.bown k bank owner) s = .next t
      ∧ (t.bankAt (s.ppos k.val) bank.val).req = some (clampOwner bank.val owner.toNat)
      ∧ (t.bankAt (s.ppos k.val) bank.val).owner = (s.bankAt (s.ppos k.val) bank.val).owner
      ∧ (∀ p b w, t.bankWord p b w = s.bankWord p b w) ∧ t.procAt (16 + k.val) = (s.procAt (16 + k.val)).goesOn 1 ∧ t.regs = s.regs := by
  obtain ⟨x, hx⟩ : ∃ x : BankSt, x = { s.bankAt (s.ppos k.val) bank.val with req := some (clampOwner bank.val owner.toNat) } := ⟨_, rfl⟩
  have hat : ((s.setBank (s.ppos k.val) bank.val x).retire (16 + k.val) 1).bankAt (s.ppos k.val) bank.val = x :=
    State.bankAt_setBank_same s _ _ x
  have hword : ∀ p b w, (s.setBank (s.ppos k.val) bank.val x).bankWord p b w = s.bankWord p b w := fun p b w =>
    s.bankAt_setBank_keeps (fun y => Tab.get y.unlisted y.words w) (s.ppos k.val) bank.val p b x (by rw [hx])
  have howner := congrArg BankSt.owner hat
  subst hx
  exact ⟨_, exec_eq_next_of_graov rfl hw, congrArg BankSt.req hat, howner, hword, State.procAt_modSame _ _ _, rfl⟩

end Sys2Proof.Machine

namespace Sys2Proof.Machine

/-- The fields of a unit's settings word that a write holds (R303, R304). -/
def cvRows : List RegRow := [⟨.patch, F.CV_POLY, 20, 1, .rw, nil0, .any⟩, ⟨.patch, F.CV_REFIN, 20, 1, .rw, (fun _ _ => 1), .any⟩,
  ⟨.patch, F.CV_REFOUT, 20, 1, .rw, (fun _ _ => 1), .any⟩, ⟨.patch, F.CV_XOROUT, 20, 1, .rw, (fun _ _ => 1), .any⟩,
  ⟨.patch, F.CV_INIT, 20, 1, .rw, (fun _ _ => 1), .any⟩, ⟨.patch, F.CV_ORDER, 20, 1, .rw, nil0, .any⟩,
  ⟨.patch, F.CV_STREAM_EN, 20, 1, .rw, nil0, .rule⟩, ⟨.patch, F.CV_ATTACH, 20, 1, .rw, nil0, .any⟩,
  ⟨.patch, F.CV_MODE, 20, 1, .rw, nil0, .top 1 0⟩, ⟨.patch, F.CV_SKIP, 20, 1, .rw, (fun _ _ => 7), .any⟩]

theorem rows_cvCfg (p : Nat) (u : Fin 20) : rowsAt .patch p (0x800 + 0x20 * u.val) = cvRows.map (fun r => (r, u.val)) := by
  fin_cases u <;> rfl

theorem rows_cvValue (p : Nat) (u : Fin 20) :
    rowsAt .patch p (0x804 + 0x20 * u.val) = [(⟨.patch, F.CV_VALUE, 20, 1, .rw, nil0, .rule⟩, u.val)] := by
  fin_cases u <;> rfl

theorem cvCfg_word (s : State) (k : LPatch) (u : Fin 20) : locate (F.CV_POLY.at (s.pb k.val) u.val 0)
    = some (.patch, s.ppos k.val, 0x800 + 0x20 * u.val) :=
  (congrArg locate (by simp only [Fld.at, F.CV_POLY, State.pb]; omega)).trans
    (locate_patch (p := s.ppos k.val) (o := 0x800 + 0x20 * u.val) (by unfold State.ppos; omega) (by omega))

theorem cvValue_word (s : State) (k : LPatch) (u : Fin 20) : locate (F.CV_VALUE.at (s.pb k.val) u.val 0)
    = some (.patch, s.ppos k.val, 0x804 + 0x20 * u.val) :=
  (congrArg locate (by simp only [Fld.at, F.CV_VALUE, State.pb]; omega)).trans
    (locate_patch (p := s.ppos k.val) (o := 0x804 + 0x20 * u.val) (by unfold State.ppos; omega) (by omega))

/-- A write of other fields of a word leaves the bits of this one. -/
theorem bitsOf_foldl_writeField {hi lo : Nat} (h : lo ≤ hi) (v : W32) (be : Nat) {l : List RegRow}
    (hl : ∀ r ∈ l, r.f.lo ≤ r.f.hi ∧ r.f.hi < 32 ∧ (hi < r.f.lo ∨ r.f.hi < lo)) (w : W32) :
    bitsOf hi lo (l.foldl (writeField v be) w) = bitsOf hi lo w := by
  induction l generalizing w with
  | nil => rfl
  | cons r l ih =>
    obtain ⟨hle, hhi, hd⟩ := hl r (by simp)
    exact (ih (fun q hq => hl q (by simp [hq])) _).trans (bitsOf_writeField_other hle hhi h hd)

/-- A whole write of a word gives a field of access RW without a clamp what it names. -/
theorem bitsOf_foldl_writeField_rw {pre post : List RegRow} {r : RegRow} (hrw : r.acc = .rw) (hclamp : ∀ v, r.clamp.apply v = v)
    (hr : r.f.lo ≤ r.f.hi ∧ r.f.hi < 32) (hpost : ∀ q ∈ post, q.f.lo ≤ q.f.hi ∧ q.f.hi < 32 ∧ (r.f.hi < q.f.lo ∨ q.f.hi < r.f.lo)) (v w : W32) :
    bitsOf r.f.hi r.f.lo ((pre ++ r :: post).foldl (writeField v 15) w) = bitsOf r.f.hi r.f.lo v := by
  obtain ⟨hle, hhi⟩ := hr
  rw [List.foldl_append, List.foldl_cons, bitsOf_foldl_writeField hle v 15 hpost, writeField_rw_all hrw hhi hle rfl, hclamp,
    bitsOf_setBitsOf _ _ hle hhi]
  exact Nat.mod_eq_of_lt (Nat.mod_lt _ (by positivity))

/-- The settings word after a whole write. -/
theorem State.reg_cvCfgWord (s : State) (k : LPatch) (u : Fin 20) (v : W32) :
    (s.stageWrite (F.CV_POLY.at (s.pb k.val) u.val 0) v 15).reg (F.CV_POLY.at (s.pb k.val) u.val 0)
      = cvRows.foldl (writeField v 15) (s.reg (F.CV_POLY.at (s.pb k.val) u.val 0)) := by
  refine (State.reg_mergeWrite_same (cvCfg_word s k u) v 15).trans ?_
  rw [rows_cvCfg, List.foldl_map]

theorem bitsOf_cvRows (v w : W32) : bitsOf F.CV_POLY.hi F.CV_POLY.lo (cvRows.foldl (writeField v 15) w) = bitsOf F.CV_POLY.hi F.CV_POLY.lo v
    ∧ bitsOf F.CV_STREAM_EN.hi F.CV_STREAM_EN.lo (cvRows.foldl (writeField v 15) w) = bitsOf F.CV_STREAM_EN.hi F.CV_STREAM_EN.lo v :=
  ⟨bitsOf_foldl_writeField_rw (pre := []) (r := ⟨.patch, F.CV_POLY, 20, 1, .rw, nil0, .any⟩) (post := cvRows.drop 1) rfl (fun _ => rfl)
      (by decide) (by decide) v w,
    bitsOf_foldl_writeField_rw (pre := cvRows.take 6) (r := ⟨.patch, F.CV_STREAM_EN, 20, 1, .rw, nil0, .rule⟩) (post := cvRows.drop 7) rfl
      (fun _ => rfl) (by decide) (by decide) v w⟩

/-- A write of a unit's settings waits for the boundary; the last four units have no stream path (R303, R304). -/
theorem State.writeCvCfg_shows (s : State) (k : LPatch) (u : Fin 20) (v : W32) :
    let b := s.pb k.val
    let t := s.writeCvCfg k.val u.val v 15
    t = { s with regs := t.regs, dirty := s.dirty ++ [F.CV_POLY.at b u.val 0] }
      ∧ t.cvCfg k.val u.val = s.cvCfg k.val u.val ∧ t.rd F.CV_POLY b u.val = bitsOf F.CV_POLY.hi F.CV_POLY.lo v
      ∧ (16 ≤ u.val → t.rd F.CV_STREAM_EN b u.val = 0)
      ∧ (u.val < 16 → t.rd F.CV_STREAM_EN b u.val = bitsOf F.CV_STREAM_EN.hi F.CV_STREAM_EN.lo v)
      ∧ ∀ a, a ≠ F.CV_POLY.at b u.val 0 → t.reg a = s.reg a := by
  intro b t
  have hframe : s.stageWrite (F.CV_POLY.at b u.val 0) v 15
      = { s with regs := (s.mergeWrite (F.CV_POLY.at b u.val 0) v 15).regs, dirty := s.dirty ++ [F.CV_POLY.at b u.val 0] } := by
    rw [State.stageWrite, State.markDirty, (s.onlyRegs_mergeWrite (F.CV_POLY.at b u.val 0) v 15).1]
  have hother : ∀ a, a ≠ F.CV_POLY.at b u.val 0 → (s.stageWrite (F.CV_POLY.at b u.val 0) v 15).reg a = s.reg a :=
    fun a ha => s.reg_mergeWrite_other ha v 15
  have hword := s.reg_cvCfgWord k u v
  obtain ⟨hpoly, hstream⟩ := bitsOf_cvRows v (s.reg (F.CV_POLY.at b u.val 0))
  rw [← hword] at hpoly hstream
  have hplaces : t.pb k.val = b := (s.writeCvCfg_map k.val u.val v 15).places.pb k
  have ht : t = if 16 ≤ u.val then (s.stageWrite (F.CV_POLY.at b u.val 0) v 15).wr F.CV_STREAM_EN b 0 u.val
      else s.stageWrite (F.CV_POLY.at b u.val 0) v 15 := rfl
  have hsame : t = { s with regs := t.regs, dirty := s.dirty ++ [F.CV_POLY.at b u.val 0] } := by
    rw [ht, hframe]
    split <;> rfl
  have hcfg : t.cvCfg k.val u.val = s.cvCfg k.val u.val := by
    rw [State.cvCfg, hplaces, hsame]
    rfl
  refine ⟨hsame, hcfg, ?_, fun hu => ?_, fun hu => ?_, fun a ha => ?_⟩
  · rw [ht]
    split
    · rw [State.rd_wr_field _ _ _ _ _ _ _ _ _ _ (by decide) (by decide) (by decide) (by decide)]
      exact hpoly
    · exact hpoly
  · rw [ht, if_pos hu, State.rd_wr_same _ _ _ _ _ _ (by decide) (by decide)]
    exact Nat.zero_mod _
  · rw [ht, if_neg (by omega)]
    exact hstream
  · rw [ht]
    split
    · exact (State.reg_wr_other _ F.CV_STREAM_EN b 0 u.val 0 ha).trans (hother a ha)
    · exact hother a ha

theorem cvBits_le (c : W32) : cvBits c ≤ 32 := by
  have h : ∀ n, n < 4 → cvWidth n ≤ 32 := by decide
  exact h _ (Nat.mod_lt _ (by decide))

/-- A whole write of the running value reaches it within the width of the polynomial in effect (R302, R304). -/
theorem State.writeCvValue_open {s : State} {k : LPatch} {u : Fin 20} (v : W32) (h : s.cvStream k.val u.val = false) :
    (s.writeCvValue k.val u.val v 15).cvValue k.val u.val = v.toNat % 2 ^ cvBits (s.cvCfg k.val u.val)
      ∧ OnlyRegs [F.CV_VALUE.at (s.pb k.val) u.val 0] s (s.writeCvValue k.val u.val v 15) := by
  have hplaces : (s.mergeWrite (F.CV_VALUE.at (s.pb k.val) u.val 0) v 15).pb k.val = s.pb k.val :=
    ((KeepsMap.refl s).mergeField (patch_above _) F.CV_VALUE u.val 0 v 15).places.pb k
  have hmerged : (s.mergeWrite (F.CV_VALUE.at (s.pb k.val) u.val 0) v 15).cvValue k.val u.val = v.toNat := by
    rw [State.cvValue, hplaces, State.rd, State.reg_mergeWrite_whole (cvValue_word s k u) (rows_cvValue _ u) rfl rfl rfl]
    exact (bitsOf_whole _).trans (Nat.mod_eq_of_lt v.isLt)
  have hwrite : s.writeCvValue k.val u.val v 15 = s.wr F.CV_VALUE (s.pb k.val) (v.toNat % 2 ^ cvBits (s.cvCfg k.val u.val)) u.val := by
    rw [State.writeCvValue, hmerged, State.cvLandWrite, h]
    rfl
  have hpb : (s.writeCvValue k.val u.val v 15).pb k.val = s.pb k.val := (s.cvLandWrite_map k.val u.val _).places.pb k
  refine ⟨?_, hwrite ▸ (OnlyRegs.refl _ s).wr (by simp) _⟩
  rw [State.cvValue, hpb, hwrite, State.rd_wr_same _ _ _ _ _ _ (by decide) (by decide)]
  have hwide : 2 ^ cvBits (s.cvCfg k.val u.val) ≤ 2 ^ 32 := Nat.pow_le_pow_right (by decide) (cvBits_le _)
  exact Nat.mod_eq_of_lt (lt_of_lt_of_le (Nat.mod_lt _ (by positivity)) hwide)

theorem State.writeCvValue_stream {s : State} {k : LPatch} {u : Fin 20} (v : W32) (h : s.cvStream k.val u.val = true) :
    s.writeCvValue k.val u.val v 15 = s := by
  rw [State.writeCvValue, State.cvLandWrite, h]
  rfl

/-- A write by the patch's registers that a normal, answering position takes. -/
theorem State.viaPatch_normal {s : State} {k o : Nat} (hview : s.posView (s.ppos k) = .normal) (hloud : s.silent .patch o = false) (v : W32) (be : Nat)
    (t : State) : s.viaPatch k o v be t = t := by
  rw [State.viaPatch, hview]
  exact if_neg (by simp [hloud])

/-- Settles O15: cvf and cvwr join the writes in flight and bown asks for an owner; what cvrd has to wait for lands without moving a patch, so
that the value is that of the unit of its position; the two registers' writes are those of `writeCvValue` and `writeCvCfg`. -/
theorem checkValueUnits : Obligations.CheckValueUnits := by
  unfold Obligations.CheckValueUnits
  refine ⟨fun k n u ra rd bank owner s => ⟨fun hw => ?_, fun hw => ?_, exec_posts_of_graov rfl, exec_bown_asks⟩,
    fun k u v s hon hview hcfg hvalue => ⟨fun hopen => ?_, fun hstream => ?_, ?_⟩⟩
  · rw [← feedBytes n]
    exact exec_posts_of_graov rfl hw
  · have hplaces := s.landFor_places (key := 16 + k.val) (by omega) (.reg (F.CV_POLY.at (s.pb k.val) u.val 0))
    intro y
    rw [← State.cvRead_of_places hplaces k u.val]
    exact ⟨_, exec_eq_next_of_graov rfl hw, writesG _ _ _ _ _⟩
  · obtain ⟨hval, honly⟩ := s.writeCvValue_open v hopen
    exact ⟨_, (act_next hon).trans (congrArg Host.Outcome.next (State.viaPatch_normal hview hvalue v 15 _)), hval, honly⟩
  · exact (act_next hon).trans (congrArg Host.Outcome.next ((State.viaPatch_normal hview hvalue v 15 _).trans (State.writeCvValue_stream v hstream)))
  · exact ⟨_, (act_next hon).trans (congrArg Host.Outcome.next (State.viaPatch_normal hview hcfg v 15 _)), s.writeCvCfg_shows k u v⟩

end Sys2Proof.Machine
